-- ==== Sys2Proof/Word.lean ====
section
/-! DEFINITION. The word and byte types of the control pages and memories, and the plainest arithmetic on them. -/

-- One declaration is elaborated at a time: the package as one text is then checked within one thread's memory.
set_option Elab.async false

namespace Sys2Proof

/-- One aligned 32-bit control word (R53). -/
abbrev Word := BitVec 32

/-- One byte of a memory or of a frame. -/
abbrev Byte := BitVec 8

/-- A sparse store: addresses strictly rising, and no entry equal to what an unlisted address reads as. -/
abbrev Store (V : Type) := List (Nat × V)

end Sys2Proof
end

