-- ==== Sys2Proof/Syntax/Base.lean ====
section
/-! DEFINITION. The names that commands speak of: the register pages (Table 02-5, Table 02-6), the accessing functions
(R65) and the word requests that reach the registers (R53). -/

set_option Elab.async false

namespace Sys2Proof

/-- A register page of the manager's BAR0 (Table 02-5) or of a tenant's BAR0 (Table 02-6), with its instance. -/
inductive Page where
  | dev | pwr | clk | rst | thm | nvm | upd | hif | shp
  | np (n : Fin 12) | wp (w : Fin 4) | spx (k : Fin 7)
  | sch | fig | dwl | cmd | rly | seen | rte | dir | slp
  | tnt (t : Fin 8)
  | cph | key | ent | twn | hlt
  | mon (m : Fin 8) | mns
  | uart (u : Fin 2) | pmx | cmdio
  | cnt | hst (h : Fin 4)
  | ch (c : Fin 64)
  | tpage (t : Fin 8) | dbell (t : Fin 8) | crq (t : Fin 8) | ucp (t : Fin 8)
  deriving DecidableEq, Repr

/-- An accessing function as `DEV_VIOL_INFO.FUNC` numbers it: PF0 to PF8, and the two sides of the serial host port. -/
inductive Fn where
  | pf (k : Fin 9)
  | shpMgr
  | shpTen
  deriving DecidableEq, Repr

/-- The FUNC code of an accessing function (Table 02-10). -/
def Fn.code : Fn → Nat
  | .pf k => k.val
  | .shpMgr => 9
  | .shpTen => 10

/-- One word write to a register: `serial` when it comes through the serial host port, the written word, and the byte
enables. Which function it is judged as follows from the page it reaches (R46, R47). -/
structure Req where
  serial : Bool
  val : Word
  be  : BitVec 4
  deriving DecidableEq, Repr

/-- One word read of a register, with its byte enables. -/
structure RdReq where
  serial : Bool
  be  : BitVec 4
  deriving DecidableEq, Repr

/-- What a read of host memory brings: its bytes, with whether any came with poison, or a failure at the host. -/
inductive Fetched where
  | ok (bytes : List Nat) (poison : Bool)
  | fail
  deriving DecidableEq, Repr

/-- The tenant whose BAR0 holds the page, if it is a tenant's page (Table 02-6). -/
def Page.tenant? : Page → Option (Fin 8)
  | .tpage t => some t
  | .dbell t => some t
  | .crq t => some t
  | .ucp t => some t
  | _ => none

/-- The function an access to the page is judged as: the manager's or the tenant's own, over PCIe or serially. -/
def Page.fn (p : Page) (serial : Bool) : Fn :=
  match p.tenant? with
  | some t => if serial then .shpTen else .pf ⟨t.val + 1, by omega⟩
  | none => if serial then .shpMgr else .pf 0

/-- What a fatal fault is (R361): a lockstep mismatch, a double-bit error in processor SRAM, or an INTERNAL fault of a block
without online test. -/
inductive Fatal where
  | lockstep
  | sram
  | internal (p : Page)
  deriving DecidableEq, Repr

end Sys2Proof
end

