-- ==== Sys2Proof/Syntax/Line.lean ====
section
/-! DEFINITION. What the line and the converters bring to a command: measurements, samples and received records. -/

set_option Elab.async false

namespace Sys2Proof

/-- An impedance measurement of a port (R87): the region it fell in, and for each measured carrier of the port's table the magnitude
(1/256 Ω) and phase (18 bits, π/2^17 rad) of V/I at the device. -/
structure ImpMeas where
  port   : Fin 16
  region : Nat
  cells  : List (Nat × Nat × Nat)
  deriving DecidableEq, Repr

/-- Samples of one port for one channel in time order: corridor time in 2^-20 slot within the slot, I and Q. -/
structure Samples where
  chan : Fin 64
  port : Fin 16
  list : List (Nat × Int × Int)
  deriving DecidableEq, Repr

/-- What a receive port brings at the end of a symbol of a channel's reception: overload of its converter; the symbol's samples after the
analogue front end, with those of a seam pilot before it (of the preamble those of SY2); and on a channel in full duplex, for each
transmitting port, what it sent at the same instants with the 255 samples before them, and the canceller's 256 taps as they have adapted
(R130), whose adaptation the spec leaves open. -/
structure RxPort where
  port     : Fin 16
  overload : Bool
  samples  : List (Nat × Int × Int)
  sent     : List (Fin 16 × List (Int × Int))
  taps     : List (Fin 16 × List (Int × Int))
  deriving DecidableEq, Repr

/-- The precoded channel that a cell of an accepted codeword shows (R134): receive port, stream, carrier, I and Q. -/
structure CellObs where
  port   : Fin 16
  stream : Nat
  m      : Nat
  i      : Int
  q      : Int
  deriving DecidableEq, Repr

/-- What a port saw in the slot that ends: overload on some and on every sample of a receive slot, peak output current (mA), the
output voltages (mV, before the limit of R79) of transmitted samples that may exceed the swing, a parity failure in its sample staging,
and a failed self-check of its digital front (Table 03-4). -/
structure PortSlot where
  port  : Fin 16
  overload : Bool
  stuck : Bool
  ipeak : Nat
  peaks : List Nat
  parity : Bool
  check : Bool
  deriving DecidableEq, Repr

/-- A residual-echo measurement of a channel in a SOUND slot (R131): for each region and receive port the residual echo of carriers, in the
units of the noise (R146); the canceller's residual and the echo with it off; and the power of the far-end signal. -/
structure EchoMeas where
  chan  : Fin 64
  cells : List (Nat × Fin 16 × List (Nat × Nat))
  on    : Nat
  off   : Nat
  far   : Nat
  deriving DecidableEq, Repr

/-- Everything that comes from outside at a slot boundary, about the slot that ends; `quiet` the samples of QUIET slots, `rest` those of the
guard and tail of received slots (R146); `guard` are the levels that ports measure
in the guard of the slot that begins (R75), in 0.5 dB below full scale; VIN in 10 mV, VBAT_AO in mV, and the edges of the RTC's
clock since the last such command. -/
structure SlotIn where
  ports  : List PortSlot
  imps   : List ImpMeas
  quiet  : List Samples
  rest   : List Samples
  echo   : List EchoMeas
  guard  : List (Fin 16 × Nat)
  vin    : Nat
  vbat   : Nat
  edges  : Nat
  deriving DecidableEq, Repr

/-- What the device has measured over the superframe that ends: the time spent in IDLE and the busy time of the bulk lanes, per mille, and the error of
XTAL32 against REFCLK in 0.1 ppm where one is measured. -/
structure SfIn where
  idle : Nat
  load : Nat
  ppm  : Option Int
  guard : List (Fin 16 × Nat)
  deriving DecidableEq, Repr

/-- A beacon as received: whether its FC passed its checks with the channel's NETID and its codeword decoded, E_B, the 32
bytes of its record, the node that it is taken to come from, the node's CT at the first sample of its SY1, and the time since
then, in 2^-20 slot. -/
structure BeaconIn where
  fcOk    : Bool
  cwOk    : Bool
  bits    : Nat
  bytes   : List Nat
  node    : Nat
  rx      : Nat
  elapsed : Nat
  deriving DecidableEq, Repr

/-- The estimated load of one port's symbol: the port, and for each carrier of its table in the symbol the square of the
carrier voltage at unit gain, in µV² × 10^6 (that is, 10^-6 V²). -/
structure PortLoad where
  port : Fin 16
  vsq  : List (Nat × Nat)
  deriving DecidableEq, Repr

/-- A decoded MAC frame: its channel, the frame control it came under, its bytes, and the corridor time at which the last
symbol with a codeword of it ended. -/
structure MacRx where
  chan  : Fin 64
  fc    : Nat
  bytes : List Nat
  at_   : Nat
  deriving DecidableEq, Repr

/-- A sounding record as received (Table 05-1, Table 07-1), with what the receiver measured: the arrival offset (0.25 ns) and SY1 SNR
(0.25 dB). -/
structure Sounding where
  fcOk     : Bool
  cwOk     : Bool
  recVer   : Nat
  k        : Nat
  sounder  : Nat
  seq      : Nat
  ports    : Nat
  theta    : Option Nat
  peer     : Nat
  peerSeq  : Nat
  arrival  : Int
  arrValid : Bool
  ownOfs   : Int
  snr      : Nat
  deriving DecidableEq, Repr

/-- A tone-map proposal (R154): the map's row layout unpacked, with its precoding record. -/
structure Proposal where
  peer    : Nat
  tmapId  : Nat
  adoptSf : Nat
  theta   : Option Nat
  rate    : Nat
  pilot   : Nat
  streams : Nat
  ports   : Nat
  mLo     : Nat
  mHi     : Nat
  rows    : List (List (List (Nat × Nat)))
  prec    : List Nat
  deriving DecidableEq, Repr

end Sys2Proof
end

