-- ==== Sys2Proof/Syntax/Access.lean ====
section
/-! DEFINITION. How a word access names its place (Table 02-5 to Table 02-7), what a write needs from the outside, the words of a
serial frame (R416 to R420), the outcomes of a boot's checks, and the instructions of the test access port (R441). -/

set_option Elab.async false

namespace Sys2Proof

/-- The place of a word access: a register of a page; an address of the manager's BAR0, its windows included; an offset in a
tenant's BAR0. -/
inductive Loc where
  | reg (p : Page) (off : Nat)
  | mgr (addr : Nat)
  | ten (t : Fin 8) (off : Nat)
  deriving DecidableEq, Repr

/-- What an access may find outside the registers: parity that fails under a read of a UART's FIFO, and bit errors of a row that the NVM
window reads. An access that needs none of them ignores it. -/
structure AccEnv where
  bad  : Bool
  bits : Nat
  deriving DecidableEq, Repr

/-- One word of a serial read: the wait bytes before it, and what the read finds. -/
structure SerRead where
  waits : Nat
  env   : AccEnv
  deriving DecidableEq, Repr

/-- One word of a serial write. -/
structure SerWrite where
  val : Word
  env : AccEnv
  deriving DecidableEq, Repr

/-- The outcomes of a boot's checks: privileged-store entries and saved key slots that fail their KW check, cipher lanes that fail
their tests, whether the DRBG and the signature unit fail theirs, and the lane groups that fail, by station. -/
structure BootIn where
  pkBad    : List (Fin 16)
  slotBad  : List (Fin 4096)
  laneBad  : List (Fin 26)
  drbgBad  : Bool
  sigBad   : Bool
  groupBad : List (Fin 6 × Fin 17)
  deriving DecidableEq, Repr

/-- An instruction of the test access port: those under which the device runs on, and any other by its code. -/
inductive Tap where
  | bypass
  | idcode
  | sample
  | other (code : Nat)
  deriving DecidableEq, Repr

end Sys2Proof
end

