-- ==== Sys2Proof/Machine/Field.lean ====
section
/-! DEFINITION. Register fields (R52, Table 02-8) and how a field is read out of a word and put into one. -/

set_option Elab.async false

namespace Sys2Proof.Machine

/-- The access types of Table 02-8. -/
inductive Acc where
  | ro | rw | w1c | w1s | wo | rwl
  deriving DecidableEq, Repr

/-- One field of a register, or of an array of `n` registers `st` bytes apart: byte offset in the page, lowest bit,
width in bits, access type and reset value. -/
structure Fld where
  off : Nat
  lo  : Nat
  w   : Nat
  acc : Acc
  rst : Nat
  n   : Nat
  st  : Nat
  deriving DecidableEq, Repr

/-- The same field in register `i` of its array. -/
def Fld.at (f : Fld) (i : Nat) : Fld := { f with off := f.off + i * f.st, n := 1 }

/-- The word with ones in bits `lo` to `lo + w - 1`. -/
def onesAt (lo w : Nat) : Word := BitVec.ofNat 32 ((2 ^ w - 1) * 2 ^ lo)

/-- The bits of a field as a mask. -/
def Fld.mask (f : Fld) : Word := onesAt f.lo f.w

/-- A field's value in a word. -/
def Fld.get (f : Fld) (x : Word) : Nat := (x.toNat / 2 ^ f.lo) % 2 ^ f.w

/-- A value placed at a field's bits, the other bits zero; the value wraps at the field's width. -/
def Fld.place (f : Fld) (v : Nat) : Word := BitVec.ofNat 32 ((v % 2 ^ f.w) * 2 ^ f.lo)

/-- A word with one field replaced. -/
def Fld.put (f : Fld) (v : Nat) (x : Word) : Word := (x &&& ~~~ f.mask) ||| f.place v

/-- The register of the array that a page offset falls on, if it is one of this field's registers. -/
def Fld.hits (f : Fld) (off : Nat) : Bool :=
  decide (f.off ≤ off) && decide ((off - f.off) % f.st = 0) && decide ((off - f.off) / f.st < f.n)

end Sys2Proof.Machine
end

