-- ==== Sys2Proof/Machine/Regs.lean ====
section
/-! DEFINITION. The register fields of every page, from the register tables of the spec: offset, bits, access type and
reset value of each field, and the list of each page's fields. Fields that the tables mark reserved are not listed.
An array of registers is one field with a count and a stride. -/

set_option Elab.async false

namespace Sys2Proof.Machine

namespace F

/-! Fields of DEV (Table 02-10). -/

def DEV_FEAT_OFFER_OFFER : Fld := ⟨0x040, 0, 32, .ro, 0, 4, 4⟩
def DEV_FEAT_ACCEPT_ACCEPT : Fld := ⟨0x050, 0, 32, .rwl, 0, 4, 4⟩
def DEV_FEAT_LOCK_LOCK : Fld := ⟨0x060, 0, 1, .w1s, 0, 1, 4⟩
def DEV_FEAT_STATUS_REFUSED : Fld := ⟨0x064, 0, 1, .ro, 0, 1, 4⟩
def DEV_VIOL_COUNT_COUNT : Fld := ⟨0x068, 0, 32, .ro, 0, 1, 4⟩
def DEV_VIOL_ADDR_ADDR : Fld := ⟨0x06C, 0, 25, .ro, 0, 1, 4⟩
def DEV_VIOL_INFO_FUNC : Fld := ⟨0x070, 16, 4, .ro, 0, 1, 4⟩
def DEV_VIOL_INFO_KIND : Fld := ⟨0x070, 8, 3, .ro, 0, 1, 4⟩
def DEV_VIOL_INFO_WRITE : Fld := ⟨0x070, 4, 1, .ro, 0, 1, 4⟩
def DEV_VIOL_INFO_BYTE_EN : Fld := ⟨0x070, 0, 4, .ro, 0, 1, 4⟩
def DEV_VIOL_CLR_CLR : Fld := ⟨0x074, 0, 1, .wo, 0, 1, 4⟩
def DEV_WIN_SBUF_BASE_BASE : Fld := ⟨0x078, 0, 1, .rw, 0, 1, 4⟩
def DEV_WIN_TMAP_BASE_BASE : Fld := ⟨0x07C, 0, 6, .rw, 0, 1, 4⟩
def DEV_WIN_DIR_BASE_BASE : Fld := ⟨0x080, 0, 7, .rw, 0, 1, 4⟩
def DEV_EVT_GRP_PEND : Fld := ⟨0x090, 0, 16, .ro, 0, 1, 4⟩
def DEV_EVT_CH0_PEND : Fld := ⟨0x094, 0, 32, .ro, 0, 1, 4⟩
def DEV_EVT_CH1_PEND : Fld := ⟨0x098, 0, 32, .ro, 0, 1, 4⟩
def DEV_INTN_EN_TENANT : Fld := ⟨0x09C, 16, 1, .rw, 0, 1, 4⟩
def DEV_INTN_EN_GRP : Fld := ⟨0x09C, 0, 16, .rw, 0, 1, 4⟩
def DEV_EVT_VEC_VEC0 : Fld := ⟨0x0A0, 0, 6, .rw, 0, 4, 4⟩
def DEV_EVT_VEC_VEC1 : Fld := ⟨0x0A0, 8, 6, .rw, 0, 4, 4⟩
def DEV_EVT_VEC_VEC2 : Fld := ⟨0x0A0, 16, 6, .rw, 0, 4, 4⟩
def DEV_EVT_VEC_VEC3 : Fld := ⟨0x0A0, 24, 6, .rw, 0, 4, 4⟩
def DEV_EVT_CHVEC_VEC0 : Fld := ⟨0x0C0, 0, 6, .rw, 0, 16, 4⟩
def DEV_EVT_CHVEC_VEC1 : Fld := ⟨0x0C0, 8, 6, .rw, 0, 16, 4⟩
def DEV_EVT_CHVEC_VEC2 : Fld := ⟨0x0C0, 16, 6, .rw, 0, 16, 4⟩
def DEV_EVT_CHVEC_VEC3 : Fld := ⟨0x0C0, 24, 6, .rw, 0, 16, 4⟩

/-! Fields of NP (Table 03-5). -/

def NP_CFG_RX_TAP : Fld := ⟨0x040, 8, 2, .rwl, 0, 1, 4⟩
def NP_CFG_TURNS : Fld := ⟨0x040, 4, 4, .rwl, 0, 1, 4⟩
def NP_CFG_EXT_PA : Fld := ⟨0x040, 3, 1, .rwl, 0, 1, 4⟩
def NP_ISENSE_RSENSE : Fld := ⟨0x044, 0, 8, .rwl, 50, 1, 4⟩
def NP_PA_ILIM : Fld := ⟨0x048, 16, 8, .rwl, 255, 1, 4⟩
def NP_PA_LEAD : Fld := ⟨0x048, 8, 8, .rwl, 50, 1, 4⟩
def NP_PA_LAG : Fld := ⟨0x048, 0, 8, .rwl, 20, 1, 4⟩
def NP_IMP_CTRL_QUIET_PROBE : Fld := ⟨0x04C, 8, 1, .rw, 0, 1, 4⟩
def NP_IMP_CTRL_PROBE_ATT : Fld := ⟨0x04C, 4, 4, .rw, 4, 1, 4⟩
def NP_IMP_CTRL_AVG_SHIFT : Fld := ⟨0x04C, 0, 4, .rw, 3, 1, 4⟩
def NP_IMP_MEAN_MAG : Fld := ⟨0x050, 16, 16, .ro, 0, 1, 4⟩
def NP_IMP_MEAN_PHASE : Fld := ⟨0x050, 0, 16, .ro, 0, 1, 4⟩
def NP_IMP_LIMITS_OPEN_TH : Fld := ⟨0x054, 16, 16, .rw, 64000, 1, 4⟩
def NP_IMP_LIMITS_SHORT_TH : Fld := ⟨0x054, 0, 16, .rw, 32, 1, 4⟩
def NP_RX_STAT_LEVEL : Fld := ⟨0x058, 24, 8, .ro, 0, 1, 4⟩
def NP_RX_STAT_OVERLOAD : Fld := ⟨0x058, 9, 1, .ro, 0, 1, 4⟩
def NP_RX_STAT_FROZEN : Fld := ⟨0x058, 8, 1, .ro, 0, 1, 4⟩
def NP_RX_STAT_GAIN : Fld := ⟨0x058, 0, 6, .ro, 0, 1, 4⟩
def NP_PATH_VALID : Fld := ⟨0x05C, 31, 1, .ro, 0, 2, 8⟩
def NP_PATH_RATE : Fld := ⟨0x05C, 28, 1, .ro, 0, 2, 8⟩
def NP_PATH_CHANNEL : Fld := ⟨0x05C, 0, 6, .ro, 0, 2, 8⟩
def NP_NCO_NCO : Fld := ⟨0x060, 0, 32, .ro, 0, 2, 8⟩
def NP_TX_STAT_VALID : Fld := ⟨0x06C, 31, 1, .ro, 0, 1, 4⟩
def NP_TX_STAT_CHANNEL : Fld := ⟨0x06C, 8, 6, .ro, 0, 1, 4⟩
def NP_TX_STAT_GAIN_RED : Fld := ⟨0x06C, 0, 8, .ro, 0, 1, 4⟩
def NP_DRV_STAT_P_EST : Fld := ⟨0x070, 16, 16, .ro, 0, 1, 4⟩
def NP_DRV_STAT_IPEAK : Fld := ⟨0x070, 0, 16, .ro, 0, 1, 4⟩
def NP_VDRV_SET : Fld := ⟨0x0C0, 0, 9, .rw, 240, 1, 4⟩
def NP_VDRV_STAT_CAPPED : Fld := ⟨0x0C4, 17, 1, .ro, 0, 1, 4⟩
def NP_VDRV_STAT_IN_REG : Fld := ⟨0x0C4, 16, 1, .ro, 0, 1, 4⟩
def NP_VDRV_STAT_MEAS : Fld := ⟨0x0C4, 0, 9, .ro, 0, 1, 4⟩
def NP_LEDGER_CAP_HS_RATED : Fld := ⟨0x0C8, 31, 1, .rw, 0, 1, 4⟩
def NP_LEDGER_CAP_CAP_MW : Fld := ⟨0x0C8, 0, 13, .rw, 6000, 1, 4⟩
def NP_LEDGER_EFF_EFF_CAP : Fld := ⟨0x0CC, 16, 13, .ro, 6000, 1, 4⟩
def NP_LEDGER_EFF_ALLOC : Fld := ⟨0x0CC, 0, 13, .ro, 0, 1, 4⟩
def NP_LEDGER_USE_CLAMPED : Fld := ⟨0x0D0, 18, 1, .w1c, 0, 1, 4⟩
def NP_LEDGER_USE_THERMAL_HALF : Fld := ⟨0x0D0, 17, 1, .ro, 0, 1, 4⟩
def NP_LEDGER_USE_OVERCOMMIT : Fld := ⟨0x0D0, 16, 1, .ro, 0, 1, 4⟩
def NP_LEDGER_USE_USE_MW : Fld := ⟨0x0D0, 0, 13, .ro, 0, 1, 4⟩

/-! Fields of WP (Table 03-6). -/

def WP_NOTCH_EN : Fld := ⟨0x100, 31, 1, .rw, 0, 64, 4⟩
def WP_NOTCH_END : Fld := ⟨0x100, 12, 12, .rw, 0, 64, 4⟩
def WP_NOTCH_START : Fld := ⟨0x100, 0, 12, .rw, 0, 64, 4⟩

/-! Fields of CH (Table 05-7). -/

def CH_ADP_CTRL_TPL_EN : Fld := ⟨0x400, 31, 1, .rwl, 0, 1, 4⟩
def CH_ADP_CTRL_BLANK_EN : Fld := ⟨0x400, 30, 1, .rwl, 0, 1, 4⟩
def CH_ADP_CTRL_AUTO_PROPOSE : Fld := ⟨0x400, 29, 1, .rwl, 1, 1, 4⟩
def CH_ADP_CTRL_LEAD : Fld := ⟨0x400, 26, 3, .rwl, 2, 1, 4⟩
def CH_ADP_CTRL_LEARN_SHIFT : Fld := ⟨0x400, 22, 4, .rwl, 6, 1, 4⟩
def CH_ADP_CTRL_DD_SHIFT : Fld := ⟨0x400, 18, 4, .rwl, 10, 1, 4⟩
def CH_ADP_CTRL_VALID_SHIFT : Fld := ⟨0x400, 14, 4, .rwl, 6, 1, 4⟩
def CH_ADP_CTRL_UPD_GAIN : Fld := ⟨0x400, 8, 6, .rwl, 5, 1, 4⟩
def CH_ADP_CTRL_MARGIN : Fld := ⟨0x400, 0, 8, .rwl, 12, 1, 4⟩
def CH_BLANK_ERASE : Fld := ⟨0x404, 16, 8, .rwl, 16, 1, 4⟩
def CH_BLANK_HANG : Fld := ⟨0x404, 8, 8, .rwl, 8, 1, 4⟩
def CH_BLANK_TH : Fld := ⟨0x404, 0, 8, .rwl, 40, 1, 4⟩
def CH_TPL_STAT_VALID : Fld := ⟨0x408, 31, 1, .ro, 0, 1, 4⟩
def CH_TPL_STAT_SUSPENDED : Fld := ⟨0x408, 30, 1, .ro, 0, 1, 4⟩
def CH_TPL_STAT_SKIPPED : Fld := ⟨0x408, 16, 14, .ro, 0, 1, 4⟩
def CH_TPL_STAT_GAIN : Fld := ⟨0x408, 0, 16, .ro, 0, 1, 4⟩
def CH_TPL_SLOT_VALID0 : Fld := ⟨0x40C, 7, 1, .ro, 0, 3, 4⟩
def CH_TPL_SLOT_VALID1 : Fld := ⟨0x40C, 15, 1, .ro, 0, 3, 4⟩
def CH_TPL_SLOT_VALID2 : Fld := ⟨0x40C, 23, 1, .ro, 0, 3, 4⟩
def CH_TPL_SLOT_VALID3 : Fld := ⟨0x40C, 31, 1, .ro, 0, 3, 4⟩
def CH_TPL_SLOT_SLOT0 : Fld := ⟨0x40C, 0, 5, .ro, 0, 3, 4⟩
def CH_TPL_SLOT_SLOT1 : Fld := ⟨0x40C, 8, 5, .ro, 0, 3, 4⟩
def CH_TPL_SLOT_SLOT2 : Fld := ⟨0x40C, 16, 5, .ro, 0, 3, 4⟩
def CH_TPL_SLOT_SLOT3 : Fld := ⟨0x40C, 24, 5, .ro, 0, 3, 4⟩
def CH_LINK_SEL_REGION : Fld := ⟨0x418, 24, 5, .rw, 0, 1, 4⟩
def CH_LINK_SEL_PEER : Fld := ⟨0x418, 0, 24, .rw, 0, 1, 4⟩
def CH_LINK_STAT_FOUND : Fld := ⟨0x41C, 31, 1, .ro, 0, 1, 4⟩
def CH_LINK_STAT_PENDING : Fld := ⟨0x41C, 30, 1, .ro, 0, 1, 4⟩
def CH_LINK_STAT_DEFAULT : Fld := ⟨0x41C, 29, 1, .ro, 0, 1, 4⟩
def CH_LINK_STAT_THETA_VALID : Fld := ⟨0x41C, 28, 1, .ro, 0, 1, 4⟩
def CH_LINK_STAT_RX_ID : Fld := ⟨0x41C, 12, 12, .ro, 0, 1, 4⟩
def CH_LINK_STAT_TX_ID : Fld := ⟨0x41C, 0, 12, .ro, 0, 1, 4⟩
def CH_TMAP_ADDR_RX : Fld := ⟨0x42C, 31, 1, .rw, 0, 1, 4⟩
def CH_TMAP_ADDR_WORD : Fld := ⟨0x42C, 0, 27, .ro, 0, 1, 4⟩
def CH_TMAP_OVF_BASE_MIB : Fld := ⟨0x480, 16, 12, .rwl, 0, 1, 4⟩
def CH_TMAP_OVF_UNITS : Fld := ⟨0x480, 0, 6, .rw, 0, 1, 4⟩
def CH_TMAP_FREE_FREE : Fld := ⟨0x484, 0, 32, .ro, 5888, 1, 4⟩
def CH_PROPOSE_SOUND : Fld := ⟨0x4F8, 1, 1, .wo, 0, 1, 4⟩
def CH_PROPOSE_NOW : Fld := ⟨0x4F8, 0, 1, .wo, 0, 1, 4⟩
def CH_THETA_VALID : Fld := ⟨0x4FC, 31, 1, .ro, 0, 1, 4⟩
def CH_THETA_THETA : Fld := ⟨0x4FC, 0, 16, .ro, 0, 1, 4⟩
def CH_CFG_NUMER : Fld := ⟨0x040, 30, 2, .rw, 0, 1, 4⟩
def CH_CFG_CP : Fld := ⟨0x040, 28, 2, .rw, 1, 1, 4⟩
def CH_CFG_FULL_DUPLEX : Fld := ⟨0x040, 27, 1, .rw, 0, 1, 4⟩
def CH_CFG_END : Fld := ⟨0x040, 26, 1, .rwl, 0, 1, 4⟩
def CH_CFG_SB16 : Fld := ⟨0x040, 25, 1, .rw, 0, 1, 4⟩
def CH_CFG_HOP_EN : Fld := ⟨0x040, 24, 1, .rw, 0, 1, 4⟩
def CH_CFG_STREAMS : Fld := ⟨0x040, 22, 2, .rw, 0, 1, 4⟩
def CH_CFG_NETID : Fld := ⟨0x040, 0, 16, .rwl, 0, 1, 4⟩
def CH_PORTS_W : Fld := ⟨0x044, 16, 4, .rw, 0, 1, 4⟩
def CH_PORTS_N : Fld := ⟨0x044, 0, 12, .rw, 0, 1, 4⟩
def CH_BAND_M_HI : Fld := ⟨0x048, 16, 12, .rw, 799, 1, 4⟩
def CH_BAND_M_LO : Fld := ⟨0x048, 0, 12, .rw, 0, 1, 4⟩
def CH_FREQ_FC_HZ : Fld := ⟨0x04C, 0, 21, .rw, 0, 1, 4⟩
def CH_GAIN_AUTO : Fld := ⟨0x050, 31, 1, .rw, 1, 1, 4⟩
def CH_GAIN_CODE : Fld := ⟨0x050, 0, 6, .rw, 0, 1, 4⟩
def CH_SHARE_SHARE_MW : Fld := ⟨0x054, 0, 13, .rw, 0, 1, 4⟩
def CH_PROP_ALLOW_US : Fld := ⟨0x058, 0, 12, .rw, 0, 1, 4⟩
def CH_RANGE_VALID : Fld := ⟨0x05C, 31, 1, .ro, 0, 1, 4⟩
def CH_RANGE_DELAY_NS : Fld := ⟨0x05C, 0, 24, .ro, 0, 1, 4⟩
def CH_PEER_OFS_OFS : Fld := ⟨0x060, 0, 32, .ro, 0, 1, 4⟩
def CH_SOUND_RANKS : Fld := ⟨0x064, 8, 8, .rw, 2, 1, 4⟩
def CH_SOUND_RANK : Fld := ⟨0x064, 0, 8, .rw, 255, 1, 4⟩
def CH_CONTEND_DET_TH : Fld := ⟨0x068, 0, 8, .rw, 40, 1, 4⟩
def CH_FIG_DWL_EN : Fld := ⟨0x06C, 31, 1, .rw, 0, 1, 4⟩
def CH_FIG_DWL_PROF : Fld := ⟨0x06C, 28, 3, .rw, 0, 1, 4⟩
def CH_FIG_ANCHOR : Fld := ⟨0x06C, 24, 4, .rw, 0, 1, 4⟩
def CH_FIG_FIG_ID : Fld := ⟨0x06C, 16, 8, .rw, 0, 1, 4⟩
def CH_FIG_MASK_MIN : Fld := ⟨0x06C, 0, 4, .rw, 4, 1, 4⟩
def CH_CMD_EN : Fld := ⟨0x070, 31, 1, .rw, 0, 1, 4⟩
def CH_CMD_TH : Fld := ⟨0x070, 0, 8, .rw, 154, 1, 4⟩
def CH_STAT_TYPE : Fld := ⟨0x074, 28, 4, .ro, 0, 1, 4⟩
def CH_STAT_TX : Fld := ⟨0x074, 27, 1, .ro, 0, 1, 4⟩
def CH_STAT_RX : Fld := ⟨0x074, 26, 1, .ro, 0, 1, 4⟩
def CH_STAT_ENTRY : Fld := ⟨0x074, 0, 6, .ro, 0, 1, 4⟩
def CH_SCHED_ENTRY : Fld := ⟨0x100, 0, 32, .ro, 0, 64, 4⟩
def CH_SCHED_STG_ENTRY : Fld := ⟨0x200, 0, 32, .rw, 0, 64, 4⟩
def CH_LQ0_WORD : Fld := ⟨0x420, 0, 32, .ro, 0, 1, 4⟩
def CH_LQ1_WORD : Fld := ⟨0x424, 0, 32, .ro, 0, 1, 4⟩
def CH_LQ2_WORD : Fld := ⟨0x428, 0, 32, .ro, 0, 1, 4⟩

/-! Fields of SPX (Table 06-7). -/

def SPX_DEC_ITER_IN_FORCE : Fld := ⟨0x040, 16, 5, .ro, 8, 1, 4⟩
def SPX_DEC_ITER_LIMIT : Fld := ⟨0x040, 0, 5, .rw, 8, 1, 4⟩
def SPX_DEADLINE_DEC : Fld := ⟨0x044, 8, 8, .rw, 16, 1, 4⟩
def SPX_DEADLINE_SYM : Fld := ⟨0x044, 0, 8, .rw, 8, 1, 4⟩
def SPX_ADM_STATUS_BUSY : Fld := ⟨0x048, 31, 1, .ro, 0, 1, 4⟩
def SPX_ADM_STATUS_REFUSED : Fld := ⟨0x048, 30, 1, .ro, 0, 1, 4⟩
def SPX_ADM_STATUS_CHANNEL : Fld := ⟨0x048, 24, 6, .ro, 0, 1, 4⟩
def SPX_ADM_STATUS_REASON : Fld := ⟨0x048, 20, 4, .ro, 0, 1, 4⟩
def SPX_ADM_STATUS_STATION : Fld := ⟨0x048, 17, 3, .ro, 0, 1, 4⟩
def SPX_ADM_STATUS_KIND : Fld := ⟨0x048, 14, 2, .ro, 0, 1, 4⟩
def SPX_ADM_STATUS_SEQ : Fld := ⟨0x048, 0, 14, .ro, 0, 1, 4⟩
def SPX_ADM_LOAD_LOAD : Fld := ⟨0x04C, 0, 16, .ro, 0, 1, 4⟩
def SPX_ADM_REF0_REF : Fld := ⟨0x050, 0, 32, .ro, 0, 1, 4⟩
def SPX_ADM_REF1_REF : Fld := ⟨0x054, 0, 32, .ro, 0, 1, 4⟩
def SPX_CH_SEL_CHANNEL : Fld := ⟨0x058, 0, 6, .rw, 0, 1, 4⟩
def SPX_CH_DEM_DEMAND : Fld := ⟨0x05C, 0, 32, .ro, 0, 6, 4⟩
def SPX_TEST_CTRL_AUTO : Fld := ⟨0x074, 31, 1, .rw, 1, 1, 4⟩
def SPX_TEST_CTRL_PERIOD : Fld := ⟨0x074, 0, 16, .rw, 1000, 1, 4⟩

/-! Fields of STN (Table 06-8). -/

def SPX_STN_CFG_GROUPS : Fld := ⟨0x040, 16, 5, .ro, 0, 1, 4⟩
def SPX_STN_CFG_ACTIVE : Fld := ⟨0x040, 0, 5, .ro, 0, 1, 4⟩
def SPX_STN_CAP_CAP : Fld := ⟨0x044, 0, 32, .ro, 0, 1, 4⟩
def SPX_STN_LOAD_ADMITTED : Fld := ⟨0x048, 16, 16, .ro, 0, 1, 4⟩
def SPX_STN_LOAD_MEASURED : Fld := ⟨0x048, 0, 16, .ro, 0, 1, 4⟩
def SPX_STN_PEAK_PEAK : Fld := ⟨0x04C, 0, 16, .rw, 0, 1, 4⟩
def SPX_STN_SERVICE_IN_SERVICE : Fld := ⟨0x050, 0, 17, .ro, 0, 1, 4⟩
def SPX_STN_RETIRED_RETIRED : Fld := ⟨0x054, 0, 17, .ro, 0, 1, 4⟩
def SPX_STN_SPARE_VALID : Fld := ⟨0x058, 31, 1, .ro, 1, 1, 4⟩
def SPX_STN_SPARE_TESTING : Fld := ⟨0x058, 13, 1, .ro, 0, 1, 4⟩
def SPX_STN_SPARE_TEST_LG : Fld := ⟨0x058, 8, 5, .ro, 0, 1, 4⟩
def SPX_STN_SPARE_SPARE : Fld := ⟨0x058, 0, 5, .ro, 0, 1, 4⟩
def SPX_STN_TEST_START : Fld := ⟨0x05C, 5, 1, .wo, 0, 1, 4⟩
def SPX_STN_TEST_LG : Fld := ⟨0x05C, 0, 5, .rw, 0, 1, 4⟩
def SPX_STN_WAIT_MAX : Fld := ⟨0x060, 16, 16, .ro, 0, 1, 4⟩
def SPX_STN_WAIT_MEAN : Fld := ⟨0x060, 0, 16, .ro, 0, 1, 4⟩

/-! Fields of SCH (Table 07-11). -/

def SCH_NODE_NODE : Fld := ⟨0x040, 0, 24, .rwl, 0, 1, 4⟩
def SCH_MODE_ROOT : Fld := ⟨0x044, 31, 1, .rwl, 0, 1, 4⟩
def SCH_MODE_FREE_RUN : Fld := ⟨0x044, 30, 1, .rwl, 0, 1, 4⟩
def SCH_MODE_NOMINAL : Fld := ⟨0x044, 24, 2, .rwl, 0, 1, 4⟩
def SCH_MODE_ROOT_PRIO : Fld := ⟨0x044, 16, 8, .rwl, 128, 1, 4⟩
def SCH_MODE_EPOCH_INIT : Fld := ⟨0x044, 8, 8, .rwl, 0, 1, 4⟩
def SCH_MODE_BCN_LOSS : Fld := ⟨0x044, 0, 8, .rwl, 4, 1, 4⟩
def SCH_CT_LO_CT : Fld := ⟨0x048, 0, 32, .ro, 0, 1, 4⟩
def SCH_CT_HI_CT : Fld := ⟨0x04C, 0, 32, .ro, 0, 1, 4⟩
def SCH_CT_INIT_LO_SLOT : Fld := ⟨0x050, 0, 32, .rwl, 0, 1, 4⟩
def SCH_CT_INIT_HI_SLOT : Fld := ⟨0x054, 0, 12, .rwl, 0, 1, 4⟩
def SCH_CT_STAT_SYNC : Fld := ⟨0x058, 31, 1, .ro, 0, 1, 4⟩
def SCH_CT_STAT_IS_ROOT : Fld := ⟨0x058, 30, 1, .ro, 0, 1, 4⟩
def SCH_CT_STAT_PROVISIONAL : Fld := ⟨0x058, 29, 1, .ro, 0, 1, 4⟩
def SCH_CT_STAT_FREE_RUN : Fld := ⟨0x058, 28, 1, .ro, 0, 1, 4⟩
def SCH_CT_STAT_HOP : Fld := ⟨0x058, 16, 6, .ro, 0, 1, 4⟩
def SCH_CT_STAT_EPOCH : Fld := ⟨0x058, 8, 8, .ro, 0, 1, 4⟩
def SCH_PARENT_CHANNEL : Fld := ⟨0x05C, 24, 6, .ro, 0, 1, 4⟩
def SCH_PARENT_NODE : Fld := ⟨0x05C, 0, 24, .ro, 0, 1, 4⟩
def SCH_ROOT_PRIO : Fld := ⟨0x060, 24, 8, .ro, 0, 1, 4⟩
def SCH_ROOT_NODE : Fld := ⟨0x060, 0, 24, .ro, 0, 1, 4⟩
def SCH_SLOT_LEN_NS : Fld := ⟨0x064, 0, 24, .ro, 10000000, 1, 4⟩
def SCH_CT_ERR_ERR : Fld := ⟨0x068, 0, 32, .ro, 0, 1, 4⟩
def SCH_LOOP_KI : Fld := ⟨0x06C, 4, 4, .rw, 4, 1, 4⟩
def SCH_LOOP_KP : Fld := ⟨0x06C, 0, 4, .rw, 1, 1, 4⟩
def SCH_STAGE_GO : Fld := ⟨0x070, 31, 1, .wo, 0, 1, 4⟩
def SCH_STAGE_VERSION : Fld := ⟨0x070, 0, 16, .rw, 0, 1, 4⟩
def SCH_STAGE_SF_SF : Fld := ⟨0x074, 0, 32, .rw, 0, 1, 4⟩
def SCH_VER_STAGED : Fld := ⟨0x078, 16, 16, .ro, 0, 1, 4⟩
def SCH_VER_IN_FORCE : Fld := ⟨0x078, 0, 16, .ro, 0, 1, 4⟩
def SCH_VER_STAT_LATE : Fld := ⟨0x07C, 3, 1, .w1c, 0, 1, 4⟩
def SCH_VER_STAT_REFUSED : Fld := ⟨0x07C, 2, 1, .ro, 0, 1, 4⟩
def SCH_VER_STAT_PENDING : Fld := ⟨0x07C, 1, 1, .ro, 0, 1, 4⟩
def SCH_VER_STAT_MISMATCH : Fld := ⟨0x07C, 0, 1, .w1c, 0, 1, 4⟩
def SCH_SF_SF : Fld := ⟨0x0C0, 0, 32, .ro, 0, 1, 4⟩

/-! Fields of FIG (Table 07-12). -/

def FIG_KEY_VALID : Fld := ⟨0x040, 31, 1, .rw, 0, 2, 4⟩
def FIG_KEY_IDX : Fld := ⟨0x040, 16, 4, .rw, 0, 2, 4⟩
def FIG_KEY_SLOT : Fld := ⟨0x040, 0, 12, .rw, 0, 2, 4⟩
def FIG_NEXT_GO : Fld := ⟨0x048, 31, 1, .wo, 0, 1, 4⟩
def FIG_NEXT_IDX : Fld := ⟨0x048, 0, 4, .rw, 0, 1, 4⟩
def FIG_NEXT_SF_SF : Fld := ⟨0x04C, 0, 32, .rw, 0, 1, 4⟩
def FIG_STAT_NO_KEY : Fld := ⟨0x050, 31, 1, .ro, 0, 1, 4⟩
def FIG_STAT_IDX : Fld := ⟨0x050, 0, 4, .ro, 0, 1, 4⟩

/-! Fields of DWL (Table 07-12). -/

def DWL_PROF_WINDOW : Fld := ⟨0x040, 26, 6, .rw, 60, 8, 4⟩
def DWL_PROF_LIMIT : Fld := ⟨0x040, 0, 10, .rw, 1000, 8, 4⟩
def DWL_CTRL_URGENT_EXEMPT : Fld := ⟨0x060, 0, 1, .rw, 1, 1, 4⟩
def DWL_SEL_CHANNEL : Fld := ⟨0x064, 0, 6, .rw, 0, 1, 4⟩
def DWL_STAT_EXHAUSTED : Fld := ⟨0x068, 0, 16, .ro, 0, 1, 4⟩
def DWL_USE_LIMIT_MS : Fld := ⟨0x0C0, 16, 16, .ro, 0, 16, 4⟩
def DWL_USE_USED_MS : Fld := ⟨0x0C0, 0, 16, .ro, 0, 16, 4⟩

/-! Fields of CMD (Table 07-12). -/

def CMD_LINE_SRC_PIN : Fld := ⟨0x040, 31, 1, .rw, 0, 8, 4⟩
def CMD_LINE_SRC_RX : Fld := ⟨0x040, 30, 1, .rw, 0, 8, 4⟩
def CMD_LINE_RX_CH : Fld := ⟨0x040, 24, 6, .rw, 0, 8, 4⟩
def CMD_LINE_TX_EN : Fld := ⟨0x040, 23, 1, .rw, 0, 8, 4⟩
def CMD_LINE_OUT_EN : Fld := ⟨0x040, 22, 1, .rw, 0, 8, 4⟩
def CMD_LINE_TX_CH : Fld := ⟨0x040, 16, 6, .rw, 0, 8, 4⟩
def CMD_LINE_BURST : Fld := ⟨0x040, 8, 4, .rw, 2, 8, 4⟩
def CMD_LINE_REPEAT : Fld := ⟨0x040, 0, 8, .rw, 8, 8, 4⟩
def CMD_KEY_SLOT : Fld := ⟨0x060, 0, 12, .rwl, 0, 1, 4⟩
def CMD_STAT_OUT_ACTIVE : Fld := ⟨0x064, 8, 8, .ro, 0, 1, 4⟩
def CMD_STAT_IN_ACTIVE : Fld := ⟨0x064, 0, 8, .ro, 0, 1, 4⟩
def CMD_LAST_LINES : Fld := ⟨0x068, 24, 8, .ro, 0, 1, 4⟩
def CMD_LAST_CHANNEL : Fld := ⟨0x068, 16, 6, .ro, 0, 1, 4⟩
def CMD_LAST_RHO : Fld := ⟨0x068, 0, 8, .ro, 0, 1, 4⟩

/-! Fields of RLY (Table 08-8). -/

def RLY_REEL_RELAY_EN : Fld := ⟨0x040, 31, 1, .rw, 1, 1, 4⟩
def RLY_REEL_DIV : Fld := ⟨0x040, 28, 3, .rw, 0, 1, 4⟩
def RLY_REEL_RANK : Fld := ⟨0x040, 24, 2, .rw, 0, 1, 4⟩
def RLY_REEL_PROB : Fld := ⟨0x040, 16, 8, .rw, 255, 1, 4⟩
def RLY_REEL_TTL_DEF : Fld := ⟨0x040, 8, 6, .rw, 16, 1, 4⟩
def RLY_REEL_RMAX_P2 : Fld := ⟨0x040, 2, 2, .rw, 3, 1, 4⟩
def RLY_REEL_RMAX_P3 : Fld := ⟨0x040, 0, 2, .rw, 3, 1, 4⟩
def RLY_ZONES_ZONES : Fld := ⟨0x044, 0, 32, .rw, 4294967295, 1, 4⟩
def RLY_REEL_SET0_SET : Fld := ⟨0x048, 0, 32, .rw, 0, 1, 4⟩
def RLY_REEL_SET1_SET : Fld := ⟨0x04C, 0, 32, .rw, 0, 1, 4⟩
def RLY_FB_ACK_SLOTS : Fld := ⟨0x050, 8, 4, .rw, 2, 1, 4⟩
def RLY_FB_MAX_NB : Fld := ⟨0x050, 0, 3, .rw, 2, 1, 4⟩
def RLY_FWD_HOLD_SF : Fld := ⟨0x054, 24, 8, .rw, 64, 1, 4⟩
def RLY_FWD_LIMIT : Fld := ⟨0x054, 0, 16, .rw, 4096, 1, 4⟩
def RLY_FWD_STAT_QUEUED : Fld := ⟨0x058, 0, 16, .ro, 0, 1, 4⟩
def RLY_PART_CLAIM_EN : Fld := ⟨0x05C, 31, 1, .rw, 0, 1, 4⟩
def RLY_PART_STATE : Fld := ⟨0x05C, 16, 3, .ro, 0, 1, 4⟩
def RLY_PART_CLAIM_LEFT : Fld := ⟨0x05C, 0, 16, .ro, 0, 1, 4⟩
def RLY_CDLY_K : Fld := ⟨0x060, 0, 3, .ro, 0, 1, 4⟩

/-! Fields of SEEN (Table 08-9). -/

def SEEN_CFG_AGE : Fld := ⟨0x040, 0, 16, .rw, 64, 1, 4⟩
def SEEN_STAT_USED : Fld := ⟨0x044, 0, 15, .ro, 0, 1, 4⟩
def SEEN_FLUSH_ALL : Fld := ⟨0x048, 0, 1, .wo, 0, 1, 4⟩
def SEEN_Q_SRC_SRC : Fld := ⟨0x04C, 0, 24, .rw, 0, 1, 4⟩
def SEEN_Q_KEY_GO : Fld := ⟨0x050, 31, 1, .wo, 0, 1, 4⟩
def SEEN_Q_KEY_EPOCH : Fld := ⟨0x050, 16, 8, .rw, 0, 1, 4⟩
def SEEN_Q_KEY_SEQ : Fld := ⟨0x050, 0, 16, .rw, 0, 1, 4⟩
def SEEN_Q_RES_VALID : Fld := ⟨0x054, 31, 1, .ro, 0, 1, 4⟩
def SEEN_Q_RES_FOUND : Fld := ⟨0x054, 30, 1, .ro, 0, 1, 4⟩
def SEEN_Q_RES_STATE : Fld := ⟨0x054, 27, 3, .ro, 0, 1, 4⟩
def SEEN_Q_RES_TTL : Fld := ⟨0x054, 20, 6, .ro, 0, 1, 4⟩
def SEEN_Q_RES_AGE : Fld := ⟨0x054, 0, 16, .ro, 0, 1, 4⟩

/-! Fields of RTE (Table 08-10). -/

def RTE_CFG_ADV_SF : Fld := ⟨0x040, 24, 8, .rw, 8, 1, 4⟩
def RTE_CFG_EXPIRE : Fld := ⟨0x040, 16, 8, .rw, 32, 1, 4⟩
def RTE_CFG_LOSS_SF : Fld := ⟨0x040, 8, 8, .rw, 2, 1, 4⟩
def RTE_IDX_IDX : Fld := ⟨0x044, 0, 14, .rw, 0, 1, 4⟩
def RTE_E0_VALID : Fld := ⟨0x048, 31, 1, .ro, 0, 1, 4⟩
def RTE_E0_STATIC : Fld := ⟨0x048, 30, 1, .ro, 0, 1, 4⟩
def RTE_E0_NEIGH : Fld := ⟨0x048, 29, 1, .ro, 0, 1, 4⟩
def RTE_E0_STALE : Fld := ⟨0x048, 28, 1, .ro, 0, 1, 4⟩
def RTE_E0_PRI_DOWN : Fld := ⟨0x048, 27, 1, .ro, 0, 1, 4⟩
def RTE_E0_ALT_DIV : Fld := ⟨0x048, 24, 3, .rw, 0, 1, 4⟩
def RTE_E0_PREFIX : Fld := ⟨0x048, 0, 24, .rw, 0, 1, 4⟩
def RTE_E1_CHANNEL : Fld := ⟨0x04C, 24, 6, .rw, 0, 1, 4⟩
def RTE_E1_NEXT : Fld := ⟨0x04C, 0, 24, .rw, 0, 1, 4⟩
def RTE_E2_ALT_CH : Fld := ⟨0x050, 24, 6, .rw, 0, 1, 4⟩
def RTE_E2_ALT_NEXT : Fld := ⟨0x050, 0, 24, .rw, 0, 1, 4⟩
def RTE_E3_LEN : Fld := ⟨0x054, 27, 5, .rw, 0, 1, 4⟩
def RTE_E3_AGE : Fld := ⟨0x054, 16, 8, .ro, 0, 1, 4⟩
def RTE_E3_METRIC : Fld := ⟨0x054, 0, 16, .rw, 0, 1, 4⟩
def RTE_E4_HOP : Fld := ⟨0x058, 0, 6, .rw, 0, 1, 4⟩
def RTE_CMD_GO : Fld := ⟨0x05C, 31, 1, .wo, 0, 1, 4⟩
def RTE_CMD_OP : Fld := ⟨0x05C, 0, 3, .rw, 0, 1, 4⟩
def RTE_LOOKUP_NODE : Fld := ⟨0x060, 0, 24, .rw, 0, 1, 4⟩
def RTE_RES_STATUS : Fld := ⟨0x064, 16, 4, .ro, 0, 1, 4⟩
def RTE_RES_INDEX : Fld := ⟨0x064, 0, 14, .ro, 0, 1, 4⟩
def RTE_COUNT_USED : Fld := ⟨0x068, 0, 15, .ro, 0, 1, 4⟩

/-! Fields of DIR (Table 08-11). -/

def DIR_CFG_AUTO_LEARN : Fld := ⟨0x040, 31, 1, .rwl, 0, 1, 4⟩
def DIR_CFG_SIZE_LOG2 : Fld := ⟨0x040, 0, 5, .rwl, 16, 1, 4⟩
def DIR_DRAM_BASE_BASE_MIB : Fld := ⟨0x044, 0, 12, .rwl, 0, 1, 4⟩
def DIR_CMD_GO : Fld := ⟨0x048, 31, 1, .wo, 0, 1, 4⟩
def DIR_CMD_BUSY : Fld := ⟨0x048, 30, 1, .ro, 0, 1, 4⟩
def DIR_CMD_OP : Fld := ⟨0x048, 0, 3, .rw, 0, 1, 4⟩
def DIR_NODE_OWNER : Fld := ⟨0x04C, 24, 4, .rw, 15, 1, 4⟩
def DIR_NODE_NODE : Fld := ⟨0x04C, 0, 24, .rw, 0, 1, 4⟩
def DIR_RES_STATUS : Fld := ⟨0x050, 28, 4, .ro, 0, 1, 4⟩
def DIR_RES_INDEX : Fld := ⟨0x050, 0, 23, .ro, 0, 1, 4⟩
def DIR_USED_USED : Fld := ⟨0x054, 0, 24, .ro, 0, 1, 4⟩
def DIR_MERGE_EN : Fld := ⟨0x058, 31, 1, .rw, 0, 1, 4⟩
def DIR_MERGE_PEER : Fld := ⟨0x058, 0, 24, .rw, 0, 1, 4⟩

/-! Fields of SLP (Table 09-7). -/

def SLP_CFG_SLEEP_EN : Fld := ⟨0x040, 31, 1, .rw, 0, 1, 4⟩
def SLP_CFG_TB : Fld := ⟨0x040, 29, 2, .rw, 0, 1, 4⟩
def SLP_CFG_GG : Fld := ⟨0x040, 28, 1, .rw, 0, 1, 4⟩
def SLP_CFG_WAKE_HOST : Fld := ⟨0x040, 27, 1, .rw, 0, 1, 4⟩
def SLP_CFG_CHANNEL : Fld := ⟨0x040, 16, 6, .rw, 0, 1, 4⟩
def SLP_CFG_STAY : Fld := ⟨0x040, 8, 8, .rw, 8, 1, 4⟩
def SLP_CFG_STAY_MAX : Fld := ⟨0x040, 0, 8, .rw, 4, 1, 4⟩
def SLP_REND_GROUP : Fld := ⟨0x044, 24, 8, .rw, 0, 1, 4⟩
def SLP_REND_PLOG : Fld := ⟨0x044, 20, 4, .rw, 0, 1, 4⟩
def SLP_REND_PHASE : Fld := ⟨0x044, 0, 12, .rw, 0, 1, 4⟩
def SLP_PARENT_NODE : Fld := ⟨0x048, 0, 24, .rw, 0, 1, 4⟩
def SLP_DRIFT_GRID_PPM : Fld := ⟨0x04C, 24, 8, .rw, 200, 1, 4⟩
def SLP_DRIFT_MAINS_PPM : Fld := ⟨0x04C, 16, 8, .rw, 1, 1, 4⟩
def SLP_DRIFT_PARENT_PPM : Fld := ⟨0x04C, 8, 8, .ro, 50, 1, 4⟩
def SLP_DRIFT_SELF_PPM : Fld := ⟨0x04C, 0, 8, .rw, 50, 1, 4⟩
def SLP_GUARD_GUARD_US : Fld := ⟨0x050, 16, 16, .ro, 0, 1, 4⟩
def SLP_GUARD_G0_US : Fld := ⟨0x050, 0, 10, .rw, 100, 1, 4⟩
def SLP_LEAD_LEAD_US : Fld := ⟨0x054, 0, 10, .rw, 400, 1, 4⟩
def SLP_STAT_STATE : Fld := ⟨0x058, 29, 3, .ro, 0, 1, 4⟩
def SLP_STAT_TB_MAINS : Fld := ⟨0x058, 28, 1, .ro, 0, 1, 4⟩
def SLP_STAT_GUARD_SHORT : Fld := ⟨0x058, 27, 1, .ro, 0, 1, 4⟩
def SLP_STAT_CAPPED : Fld := ⟨0x058, 26, 1, .ro, 0, 1, 4⟩
def SLP_STAT_MISS_RUN : Fld := ⟨0x058, 22, 4, .ro, 0, 1, 4⟩
def SLP_STAT_ADRIFT_A : Fld := ⟨0x058, 16, 3, .ro, 0, 1, 4⟩
def SLP_STAT_CFG_ERR : Fld := ⟨0x058, 15, 1, .ro, 0, 1, 4⟩
def SLP_NEXT_LO_SLOT : Fld := ⟨0x05C, 0, 32, .ro, 0, 1, 4⟩
def SLP_NEXT_HI_SLOT : Fld := ⟨0x060, 0, 12, .ro, 0, 1, 4⟩
def SLP_CONTACT_LO_SLOT : Fld := ⟨0x064, 0, 32, .ro, 0, 1, 4⟩
def SLP_CONTACT_HI_SLOT : Fld := ⟨0x068, 0, 12, .ro, 0, 1, 4⟩
def SLP_POWER_P_AWAKE : Fld := ⟨0x06C, 16, 16, .rw, 2000, 1, 4⟩
def SLP_POWER_P_SLUMBER : Fld := ⟨0x06C, 0, 16, .rw, 500, 1, 4⟩
def SLP_BUDGET_WINDOW_H : Fld := ⟨0x070, 24, 8, .rw, 24, 1, 4⟩
def SLP_BUDGET_BUDGET : Fld := ⟨0x070, 0, 20, .rw, 1048575, 1, 4⟩
def SLP_ENERGY_USED : Fld := ⟨0x074, 0, 20, .ro, 0, 1, 4⟩
def SLP_ANNOUNCE_NOW : Fld := ⟨0x078, 0, 1, .wo, 0, 1, 4⟩
def SLP_UNR_LAST_NODE : Fld := ⟨0x07C, 0, 24, .ro, 0, 1, 4⟩

/-! Fields of TNT (Table 10-9). -/

def TNT_MCTL_RESET : Fld := ⟨0x040, 1, 1, .wo, 0, 1, 4⟩
def TNT_MCTL_P0_EN : Fld := ⟨0x040, 0, 1, .rw, 0, 1, 4⟩
def TNT_CNT_USER_EN_EN : Fld := ⟨0x044, 0, 1, .rw, 0, 1, 4⟩
def TNT_QUOTA0_KEYS : Fld := ⟨0x048, 16, 13, .rw, 0, 1, 4⟩
def TNT_QUOTA0_QDEPTH : Fld := ⟨0x048, 0, 13, .rw, 256, 1, 4⟩
def TNT_QUOTA1_LANES : Fld := ⟨0x04C, 27, 5, .rw, 24, 1, 4⟩
def TNT_QUOTA1_DIRENT : Fld := ⟨0x04C, 0, 24, .rw, 0, 1, 4⟩
def TNT_QMEM_SIZE : Fld := ⟨0x050, 16, 9, .rw, 0, 1, 4⟩
def TNT_QMEM_BASE : Fld := ⟨0x050, 0, 8, .rw, 0, 1, 4⟩
def TNT_SPILL_SIZE_MIB : Fld := ⟨0x054, 16, 12, .rw, 0, 1, 4⟩
def TNT_SPILL_BASE_MIB : Fld := ⟨0x054, 0, 12, .rw, 0, 1, 4⟩
def TNT_LIMITS_HOLD_SF : Fld := ⟨0x058, 24, 8, .rw, 16, 1, 4⟩
def TNT_LIMITS_ORDER_SF : Fld := ⟨0x058, 16, 8, .rw, 2, 1, 4⟩
def TNT_LIMITS_WAIT_AGE_MS : Fld := ⟨0x058, 0, 16, .rw, 50, 1, 4⟩
def TNT_DELQ_WM_HIGH : Fld := ⟨0x05C, 16, 12, .rw, 1536, 1, 4⟩
def TNT_DELQ_WM_LOW : Fld := ⟨0x05C, 0, 12, .rw, 512, 1, 4⟩
def TNT_MSTAT_LOCKED : Fld := ⟨0x060, 17, 1, .ro, 0, 1, 4⟩
def TNT_MSTAT_RESETTING : Fld := ⟨0x060, 16, 1, .ro, 0, 1, 4⟩
def TNT_MSTAT_QMEM_REFUSED : Fld := ⟨0x060, 8, 1, .w1c, 0, 1, 4⟩
def TNT_MSTAT_OQ_QDEPTH : Fld := ⟨0x060, 7, 1, .ro, 0, 1, 4⟩
def TNT_MSTAT_OQ_AIR : Fld := ⟨0x060, 6, 1, .ro, 0, 1, 4⟩
def TNT_MSTAT_OQ_KEYS : Fld := ⟨0x060, 5, 1, .ro, 0, 1, 4⟩
def TNT_MSTAT_OQ_LANES : Fld := ⟨0x060, 4, 1, .ro, 0, 1, 4⟩
def TNT_MSTAT_OQ_DIRENT : Fld := ⟨0x060, 3, 1, .ro, 0, 1, 4⟩
def TNT_MSTAT_OQ_SPILL : Fld := ⟨0x060, 2, 1, .ro, 0, 1, 4⟩
def TNT_USE0_KEYS_USED : Fld := ⟨0x064, 16, 13, .ro, 0, 1, 4⟩
def TNT_USE0_INFLIGHT : Fld := ⟨0x064, 0, 13, .ro, 0, 1, 4⟩
def TNT_USE1_LANES_USED : Fld := ⟨0x068, 27, 5, .ro, 0, 1, 4⟩
def TNT_USE1_DIRENT_USED : Fld := ⟨0x068, 0, 24, .ro, 0, 1, 4⟩
def TNT_USE2_RXHOLD_KIB : Fld := ⟨0x06C, 16, 16, .ro, 0, 1, 4⟩
def TNT_USE2_SPILL_MIB : Fld := ⟨0x06C, 0, 16, .ro, 0, 1, 4⟩
def TNT_DELQ_FILL : Fld := ⟨0x070, 0, 12, .ro, 0, 1, 4⟩
def TNT_AIR_EXHAUSTED : Fld := ⟨0x100, 31, 1, .ro, 0, 64, 4⟩
def TNT_AIR_SHARE : Fld := ⟨0x100, 0, 10, .rw, 1000, 64, 4⟩
def TNT_ARQ_WAIT : Fld := ⟨0x200, 8, 8, .rw, 8, 1, 4⟩
def TNT_ARQ_RETRY : Fld := ⟨0x200, 0, 4, .rw, 6, 1, 4⟩
def TNT_MSCFG_REASM_SF : Fld := ⟨0x204, 24, 8, .rw, 32, 1, 4⟩
def TNT_MSCFG_E2E_SF : Fld := ⟨0x204, 16, 8, .rw, 4, 1, 4⟩
def TNT_MSCFG_SEG_MAX : Fld := ⟨0x204, 0, 12, .rw, 1024, 1, 4⟩
def TNT_DUP_STAT_USED : Fld := ⟨0x208, 0, 16, .ro, 0, 1, 4⟩
def TNT_GRP_TENANTS : Fld := ⟨0x300, 24, 8, .rw, 0, 64, 4⟩
def TNT_GRP_GROUP : Fld := ⟨0x300, 0, 24, .rw, 0, 64, 4⟩
def TNT_SVC_BOUND : Fld := ⟨0x400, 31, 1, .rw, 0, 256, 4⟩
def TNT_SVC_TENANT : Fld := ⟨0x400, 4, 3, .rw, 0, 256, 4⟩
def TNT_SVC_QP : Fld := ⟨0x400, 0, 3, .rw, 0, 256, 4⟩

/-! Fields of TPAGE (Table 10-10). -/

def TNT_FEAT_OFFER_OFFER : Fld := ⟨0x040, 0, 32, .ro, 0, 1, 4⟩
def TNT_FEAT_ACCEPT_ACCEPT : Fld := ⟨0x044, 0, 32, .rwl, 1, 1, 4⟩
def TNT_FEAT_LOCK_LOCK : Fld := ⟨0x048, 0, 1, .w1s, 0, 1, 4⟩
def TNT_RESET_RESET : Fld := ⟨0x04C, 0, 1, .wo, 0, 1, 4⟩
def TNT_EVT_SUM_PAGE : Fld := ⟨0x06C, 8, 1, .ro, 0, 1, 4⟩
def TNT_EVT_SUM_CQ : Fld := ⟨0x06C, 0, 8, .ro, 0, 1, 4⟩
def TNT_VEC_VEC : Fld := ⟨0x070, 0, 6, .rw, 0, 1, 4⟩
def TNT_SQ_BASE_LO_ADDR : Fld := ⟨0x100, 6, 26, .rwl, 0, 8, 32⟩
def TNT_SQ_BASE_HI_ADDR : Fld := ⟨0x104, 0, 32, .rwl, 0, 8, 32⟩
def TNT_SQ_CFG_EN : Fld := ⟨0x108, 31, 1, .rw, 0, 8, 32⟩
def TNT_SQ_CFG_QMEM : Fld := ⟨0x108, 30, 1, .rwl, 0, 8, 32⟩
def TNT_SQ_CFG_SIZE_LOG2 : Fld := ⟨0x108, 0, 4, .rwl, 4, 8, 32⟩
def TNT_SQ_STAT_WR_TAIL : Fld := ⟨0x10C, 16, 12, .ro, 0, 8, 32⟩
def TNT_SQ_STAT_HEAD : Fld := ⟨0x10C, 0, 12, .ro, 0, 8, 32⟩
def TNT_CQ_BASE_LO_ADDR : Fld := ⟨0x110, 6, 26, .rwl, 0, 8, 32⟩
def TNT_CQ_BASE_HI_ADDR : Fld := ⟨0x114, 0, 32, .rwl, 0, 8, 32⟩
def TNT_CQ_CFG_EN : Fld := ⟨0x118, 31, 1, .rw, 0, 8, 32⟩
def TNT_CQ_CFG_QMEM : Fld := ⟨0x118, 30, 1, .rwl, 0, 8, 32⟩
def TNT_CQ_CFG_IE : Fld := ⟨0x118, 29, 1, .rw, 0, 8, 32⟩
def TNT_CQ_CFG_VEC : Fld := ⟨0x118, 8, 6, .rw, 0, 8, 32⟩
def TNT_CQ_CFG_SIZE_LOG2 : Fld := ⟨0x118, 0, 4, .rwl, 4, 8, 32⟩
def TNT_CQ_STAT_TAIL : Fld := ⟨0x11C, 16, 12, .ro, 0, 8, 32⟩
def TNT_CQ_STAT_PHASE : Fld := ⟨0x11C, 12, 1, .ro, 1, 8, 32⟩
def TNT_CQ_STAT_HEAD : Fld := ⟨0x11C, 0, 12, .ro, 0, 8, 32⟩

/-! Fields of DB (Table 10-11). -/

def DB_SQ_TAIL : Fld := ⟨0x040, 0, 12, .rw, 0, 8, 8⟩
def DB_CQ_HEAD : Fld := ⟨0x044, 0, 12, .rw, 0, 8, 8⟩

/-! Fields of CPH (Table 11-12). -/

def CPH_LANE_SERVICE_IN_SERVICE : Fld := ⟨0x040, 0, 26, .ro, 67108863, 1, 4⟩
def CPH_LANE_RETIRED_RETIRED : Fld := ⟨0x044, 0, 26, .ro, 0, 1, 4⟩
def CPH_TEST_AUTO : Fld := ⟨0x048, 31, 1, .rw, 1, 1, 4⟩
def CPH_TEST_START : Fld := ⟨0x048, 30, 1, .wo, 0, 1, 4⟩
def CPH_TEST_LANE : Fld := ⟨0x048, 16, 5, .rw, 0, 1, 4⟩
def CPH_TEST_PERIOD : Fld := ⟨0x048, 0, 16, .rw, 1000, 1, 4⟩
def CPH_TEST_STAT_TESTING : Fld := ⟨0x04C, 31, 1, .ro, 0, 1, 4⟩
def CPH_TEST_STAT_LANE : Fld := ⟨0x04C, 0, 5, .ro, 0, 1, 4⟩
def CPH_QUEUE_PRIV_WAIT : Fld := ⟨0x050, 16, 16, .ro, 0, 1, 4⟩
def CPH_QUEUE_BULK_WAIT : Fld := ⟨0x050, 0, 16, .ro, 0, 1, 4⟩
def CPH_LOAD_BUSY : Fld := ⟨0x054, 0, 16, .ro, 0, 1, 4⟩
def CPH_NONCE_LO_CTR : Fld := ⟨0x058, 0, 32, .ro, 0, 1, 4⟩
def CPH_NONCE_MID_CTR : Fld := ⟨0x05C, 0, 32, .ro, 0, 1, 4⟩
def CPH_NONCE_HI_CTR : Fld := ⟨0x060, 0, 8, .ro, 0, 1, 4⟩
def CPH_NONCE_RES_LO_BLOCK : Fld := ⟨0x064, 0, 32, .ro, 0, 1, 4⟩
def CPH_NONCE_RES_HI_BLOCK : Fld := ⟨0x068, 0, 20, .ro, 0, 1, 4⟩

/-! Fields of KEY (Table 11-13). -/

def KEY_CMD_GO : Fld := ⟨0x040, 31, 1, .wo, 0, 1, 4⟩
def KEY_CMD_BUSY : Fld := ⟨0x040, 30, 1, .ro, 0, 1, 4⟩
def KEY_CMD_OP : Fld := ⟨0x040, 0, 4, .rw, 0, 1, 4⟩
def KEY_ARG0_PK : Fld := ⟨0x044, 28, 4, .rw, 0, 1, 4⟩
def KEY_ARG0_WRAP_PK : Fld := ⟨0x044, 24, 4, .rw, 0, 1, 4⟩
def KEY_ARG0_ROLE : Fld := ⟨0x044, 20, 4, .rw, 0, 1, 4⟩
def KEY_ARG0_WRAPPED : Fld := ⟨0x044, 19, 1, .rw, 0, 1, 4⟩
def KEY_ARG0_SIZE256 : Fld := ⟨0x044, 18, 1, .rw, 0, 1, 4⟩
def KEY_ARG0_TAG16 : Fld := ⟨0x044, 17, 1, .rw, 0, 1, 4⟩
def KEY_ARG0_MODES : Fld := ⟨0x044, 12, 4, .rw, 0, 1, 4⟩
def KEY_ARG0_IDX : Fld := ⟨0x044, 8, 4, .rw, 0, 1, 4⟩
def KEY_ARG0_LABEL : Fld := ⟨0x044, 0, 8, .rw, 0, 1, 4⟩
def KEY_ARG1_KID : Fld := ⟨0x048, 16, 16, .rw, 0, 1, 4⟩
def KEY_ARG1_SLOT : Fld := ⟨0x048, 0, 12, .rw, 0, 1, 4⟩
def KEY_ARG2_USE : Fld := ⟨0x04C, 24, 8, .rw, 0, 1, 4⟩
def KEY_ARG2_NODE : Fld := ⟨0x04C, 0, 24, .rw, 0, 1, 4⟩
def KEY_ARG3_LOC : Fld := ⟨0x050, 28, 4, .rw, 0, 1, 4⟩
def KEY_ARG3_INDEX : Fld := ⟨0x050, 0, 28, .rw, 0, 1, 4⟩
def KEY_RES_STATUS : Fld := ⟨0x054, 28, 4, .ro, 0, 1, 4⟩
def KEY_RES_VALUE : Fld := ⟨0x054, 0, 28, .ro, 0, 1, 4⟩
def KEY_SLOT_INFO_VALID : Fld := ⟨0x058, 31, 1, .ro, 0, 1, 4⟩
def KEY_SLOT_INFO_TYPE : Fld := ⟨0x058, 28, 3, .ro, 0, 1, 4⟩
def KEY_SLOT_INFO_SIZE256 : Fld := ⟨0x058, 27, 1, .ro, 0, 1, 4⟩
def KEY_SLOT_INFO_TAG16 : Fld := ⟨0x058, 26, 1, .ro, 0, 1, 4⟩
def KEY_SLOT_INFO_PRIV : Fld := ⟨0x058, 25, 1, .ro, 0, 1, 4⟩
def KEY_SLOT_INFO_MODES : Fld := ⟨0x058, 20, 4, .ro, 0, 1, 4⟩
def KEY_SLOT_INFO_OWNER : Fld := ⟨0x058, 16, 4, .ro, 0, 1, 4⟩
def KEY_SLOT_INFO_KID : Fld := ⟨0x058, 0, 16, .ro, 0, 1, 4⟩
def KEY_SLOT_USE_USE : Fld := ⟨0x05C, 0, 8, .ro, 0, 1, 4⟩
def KEY_PROV_LOCKED : Fld := ⟨0x060, 0, 1, .w1s, 0, 1, 4⟩
def KEY_ZERO_ZERO : Fld := ⟨0x064, 0, 32, .wo, 0, 1, 4⟩
def KEY_PK_ROLE0_ROLE : Fld := ⟨0x068, 0, 32, .ro, 0, 1, 4⟩
def KEY_PK_ROLE1_ROLE : Fld := ⟨0x06C, 0, 32, .ro, 0, 1, 4⟩
def KEY_STAGE_DATA : Fld := ⟨0x0C0, 0, 32, .wo, 0, 12, 4⟩
def KEY_TKID_BASE : Fld := ⟨0x100, 16, 16, .rw, 0, 8, 8⟩
def KEY_TKID_SIZE : Fld := ⟨0x100, 0, 16, .rw, 0, 8, 8⟩
def KEY_TPOL_CLEAR_OK : Fld := ⟨0x104, 31, 1, .rw, 0, 8, 8⟩
def KEY_TPOL_WRAP_PK : Fld := ⟨0x104, 24, 4, .rw, 0, 8, 8⟩
def KEY_DEV_BEACON : Fld := ⟨0x140, 16, 12, .rw, 0, 1, 4⟩
def KEY_DEV_DEVICE : Fld := ⟨0x140, 0, 12, .rw, 0, 1, 4⟩
def KEY_OWN_VALID : Fld := ⟨0x144, 31, 1, .ro, 0, 1, 4⟩
def KEY_OWN_SLOT : Fld := ⟨0x144, 0, 12, .ro, 0, 1, 4⟩
def KEY_WKT_BASE_MIB : Fld := ⟨0x148, 20, 12, .rwl, 0, 1, 4⟩
def KEY_WKT_SIZE_LOG2 : Fld := ⟨0x148, 0, 5, .rwl, 16, 1, 4⟩
def KEY_CFG_NODE_MIN : Fld := ⟨0x14C, 0, 13, .rw, 256, 1, 4⟩
def KEY_USE_FREE : Fld := ⟨0x150, 16, 13, .ro, 4032, 1, 4⟩
def KEY_USE_NODE : Fld := ⟨0x150, 0, 13, .ro, 0, 1, 4⟩
def KEY_STAT_PK_VALID : Fld := ⟨0x154, 0, 16, .ro, 0, 1, 4⟩

/-! Fields of ENT (Table 11-15). -/

def ENT_CFG_RESEED : Fld := ⟨0x040, 0, 16, .rw, 4096, 1, 4⟩
def ENT_STAT_HEALTHY : Fld := ⟨0x044, 31, 1, .ro, 1, 1, 4⟩
def ENT_STAT_HALTED : Fld := ⟨0x044, 30, 1, .ro, 0, 1, 4⟩
def ENT_STAT_DEGRADED : Fld := ⟨0x044, 29, 1, .ro, 0, 1, 4⟩
def ENT_RAND_RAND : Fld := ⟨0x048, 0, 32, .ro, 0, 1, 4⟩
def ENT_RESEED_NOW : Fld := ⟨0x04C, 0, 1, .wo, 0, 1, 4⟩

/-! Fields of CR (Table 10-10). -/

def CR_SQ_BASE_LO_ADDR : Fld := ⟨0x040, 6, 26, .rwl, 0, 1, 4⟩
def CR_SQ_BASE_HI_ADDR : Fld := ⟨0x044, 0, 32, .rwl, 0, 1, 4⟩
def CR_SQ_CFG_EN : Fld := ⟨0x048, 31, 1, .rw, 0, 1, 4⟩
def CR_SQ_CFG_QMEM : Fld := ⟨0x048, 30, 1, .rwl, 0, 1, 4⟩
def CR_SQ_CFG_SIZE_LOG2 : Fld := ⟨0x048, 0, 4, .rwl, 4, 1, 4⟩
def CR_SQ_STAT_WR_TAIL : Fld := ⟨0x04C, 16, 12, .ro, 0, 1, 4⟩
def CR_SQ_STAT_HEAD : Fld := ⟨0x04C, 0, 12, .ro, 0, 1, 4⟩
def CR_CQ_BASE_LO_ADDR : Fld := ⟨0x050, 6, 26, .rwl, 0, 1, 4⟩
def CR_CQ_BASE_HI_ADDR : Fld := ⟨0x054, 0, 32, .rwl, 0, 1, 4⟩
def CR_CQ_CFG_EN : Fld := ⟨0x058, 31, 1, .rw, 0, 1, 4⟩
def CR_CQ_CFG_QMEM : Fld := ⟨0x058, 30, 1, .rwl, 0, 1, 4⟩
def CR_CQ_CFG_IE : Fld := ⟨0x058, 29, 1, .rw, 0, 1, 4⟩
def CR_CQ_CFG_VEC : Fld := ⟨0x058, 8, 6, .rw, 0, 1, 4⟩
def CR_CQ_CFG_SIZE_LOG2 : Fld := ⟨0x058, 0, 4, .rwl, 4, 1, 4⟩
def CR_CQ_STAT_TAIL : Fld := ⟨0x05C, 16, 12, .ro, 0, 1, 4⟩
def CR_CQ_STAT_PHASE : Fld := ⟨0x05C, 12, 1, .ro, 1, 1, 4⟩
def CR_CQ_STAT_HEAD : Fld := ⟨0x05C, 0, 12, .ro, 0, 1, 4⟩
def CR_DB_SQ_TAIL : Fld := ⟨0x060, 0, 12, .rw, 0, 1, 4⟩
def CR_DB_CQ_HEAD : Fld := ⟨0x064, 0, 12, .rw, 0, 1, 4⟩
def CR_STAT_BUSY : Fld := ⟨0x068, 1, 1, .ro, 0, 1, 4⟩
def CR_STAT_OVERRUN : Fld := ⟨0x068, 0, 1, .w1c, 0, 1, 4⟩

/-! Fields of TWN (Table 12-7). -/

def TWN_CFG_EN : Fld := ⟨0x040, 31, 1, .rwl, 0, 1, 4⟩
def TWN_CFG_PRIMARY_PREF : Fld := ⟨0x040, 30, 1, .rwl, 0, 1, 4⟩
def TWN_CFG_KEK_PK : Fld := ⟨0x040, 0, 4, .rwl, 0, 1, 4⟩
def TWN_STAT_STATE : Fld := ⟨0x044, 29, 3, .ro, 0, 1, 4⟩
def TWN_STAT_PEER_OK : Fld := ⟨0x044, 28, 1, .ro, 0, 1, 4⟩
def TWN_STAT_HB_OK : Fld := ⟨0x044, 27, 1, .ro, 0, 1, 4⟩
def TWN_STAT_CFG_MATCH : Fld := ⟨0x044, 26, 1, .ro, 0, 1, 4⟩
def TWN_STAT_PARTIAL : Fld := ⟨0x044, 25, 1, .ro, 0, 1, 4⟩
def TWN_STAT_LANES : Fld := ⟨0x044, 23, 2, .ro, 0, 1, 4⟩
def TWN_STAT_PROTO : Fld := ⟨0x044, 8, 8, .ro, 0, 1, 4⟩
def TWN_CMD_GO : Fld := ⟨0x048, 31, 1, .wo, 0, 1, 4⟩
def TWN_CMD_BUSY : Fld := ⟨0x048, 30, 1, .ro, 0, 1, 4⟩
def TWN_CMD_OP : Fld := ⟨0x048, 0, 2, .rw, 0, 1, 4⟩
def TWN_SWAP_SF_SF : Fld := ⟨0x04C, 0, 32, .ro, 0, 1, 4⟩
def TWN_SYNC_PROGRESS : Fld := ⟨0x050, 0, 16, .ro, 0, 1, 4⟩
def TWN_LAG_MAX : Fld := ⟨0x054, 16, 16, .ro, 0, 1, 4⟩
def TWN_LAG_MEAN : Fld := ⟨0x054, 0, 16, .ro, 0, 1, 4⟩
def TWN_PEER_ID_LO_ID : Fld := ⟨0x058, 0, 32, .ro, 0, 1, 4⟩
def TWN_PEER_ID_HI_ID : Fld := ⟨0x05C, 0, 32, .ro, 0, 1, 4⟩
def TWN_LAST_CAUSE : Fld := ⟨0x060, 28, 4, .ro, 0, 1, 4⟩
def TWN_LAST_SLOT_LO_SLOT : Fld := ⟨0x064, 0, 32, .ro, 0, 1, 4⟩
def TWN_LAST_SLOT_HI_SLOT : Fld := ⟨0x068, 0, 12, .ro, 0, 1, 4⟩

/-! Fields of HLT (Table 12-8). -/

def HLT_HEALTHY_LEVEL : Fld := ⟨0x040, 31, 1, .ro, 0, 1, 4⟩
def HLT_HEALTHY_FORCED : Fld := ⟨0x040, 4, 1, .ro, 0, 1, 4⟩
def HLT_HEALTHY_SHED : Fld := ⟨0x040, 3, 1, .ro, 0, 1, 4⟩
def HLT_HEALTHY_STATE : Fld := ⟨0x040, 2, 1, .ro, 0, 1, 4⟩
def HLT_HEALTHY_FATAL : Fld := ⟨0x040, 1, 1, .ro, 0, 1, 4⟩
def HLT_HEALTHY_NOT_LOCKED : Fld := ⟨0x040, 0, 1, .ro, 1, 1, 4⟩
def HLT_CFG_FORCE_LOW : Fld := ⟨0x044, 0, 1, .rw, 0, 1, 4⟩
def HLT_FAULT_SUM_GRP : Fld := ⟨0x048, 0, 16, .ro, 0, 1, 4⟩
def HLT_TEST_LAST_VALID : Fld := ⟨0x04C, 31, 1, .ro, 0, 1, 4⟩
def HLT_TEST_LAST_PASS : Fld := ⟨0x04C, 30, 1, .ro, 0, 1, 4⟩
def HLT_TEST_LAST_INSTANCE : Fld := ⟨0x04C, 16, 8, .ro, 0, 1, 4⟩
def HLT_TEST_LAST_BLOCK : Fld := ⟨0x04C, 0, 16, .ro, 0, 1, 4⟩
def HLT_REPAIR_SBUF_SPARE : Fld := ⟨0x050, 16, 16, .ro, 128, 1, 4⟩
def HLT_REPAIR_TMAP_SPARE : Fld := ⟨0x050, 0, 16, .ro, 48, 1, 4⟩
def HLT_DEVID_LO_ID : Fld := ⟨0x058, 0, 32, .ro, 0, 1, 4⟩
def HLT_DEVID_HI_ID : Fld := ⟨0x05C, 0, 32, .ro, 0, 1, 4⟩
def HLT_SCRUB_PASSES : Fld := ⟨0x060, 0, 16, .ro, 0, 1, 4⟩

/-! Fields of MON (Table 13-4). -/

def MON_SRC_SRC : Fld := ⟨0x040, 29, 3, .rw, 0, 1, 4⟩
def MON_SRC_TAP_PORT : Fld := ⟨0x040, 25, 4, .rw, 0, 1, 4⟩
def MON_SRC_TAP_BW : Fld := ⟨0x040, 24, 1, .rw, 0, 1, 4⟩
def MON_SRC_TAP_FREQ : Fld := ⟨0x040, 0, 21, .rw, 0, 1, 4⟩
def MON_CFG_SH_CIC : Fld := ⟨0x044, 27, 5, .rw, 0, 1, 4⟩
def MON_CFG_SH_FIR : Fld := ⟨0x044, 22, 5, .rw, 0, 1, 4⟩
def MON_CFG_SH_MA : Fld := ⟨0x044, 17, 5, .rw, 0, 1, 4⟩
def MON_CFG_SQUARE : Fld := ⟨0x044, 16, 1, .rw, 0, 1, 4⟩
def MON_CFG_OUT_LOG2 : Fld := ⟨0x044, 12, 4, .rw, 0, 1, 4⟩
def MON_CFG_RATIO : Fld := ⟨0x044, 0, 10, .rw, 8, 1, 4⟩
def MON_MA_LEN : Fld := ⟨0x048, 0, 13, .rw, 1, 1, 4⟩
def MON_BANK_XFADE : Fld := ⟨0x04C, 31, 1, .rw, 0, 1, 4⟩
def MON_BANK_FADING : Fld := ⟨0x04C, 29, 1, .ro, 0, 1, 4⟩
def MON_BANK_ACTIVE : Fld := ⟨0x04C, 28, 1, .ro, 0, 1, 4⟩
def MON_BANK_SEL : Fld := ⟨0x04C, 24, 1, .rw, 0, 1, 4⟩
def MON_BANK_LEN1 : Fld := ⟨0x04C, 16, 8, .rw, 1, 1, 4⟩
def MON_BANK_LEN0 : Fld := ⟨0x04C, 8, 8, .rw, 1, 1, 4⟩
def MON_XF_LEN : Fld := ⟨0x050, 0, 13, .rw, 64, 1, 4⟩
def MON_FIFO_WM_HIGH : Fld := ⟨0x054, 16, 11, .rw, 768, 1, 4⟩
def MON_FIFO_WM_LOW : Fld := ⟨0x054, 0, 11, .rw, 256, 1, 4⟩
def MON_FIFO_STAT_FILL : Fld := ⟨0x058, 0, 11, .ro, 0, 1, 4⟩
def MON_GD_GD : Fld := ⟨0x05C, 0, 32, .ro, 0, 1, 4⟩
def MON_DATA_LO_VALUE : Fld := ⟨0x060, 0, 32, .ro, 0, 1, 4⟩
def MON_DATA_HI_EMPTY : Fld := ⟨0x064, 31, 1, .ro, 0, 1, 4⟩
def MON_DATA_HI_POISON : Fld := ⟨0x064, 30, 1, .ro, 0, 1, 4⟩
def MON_DATA_HI_FLAGS : Fld := ⟨0x064, 0, 4, .ro, 0, 1, 4⟩
def MON_TS_LO_TS : Fld := ⟨0x068, 0, 32, .ro, 0, 1, 4⟩
def MON_TS_HI_TS : Fld := ⟨0x06C, 0, 32, .ro, 0, 1, 4⟩
def MON_SETTLE_U : Fld := ⟨0x070, 16, 13, .ro, 0, 1, 4⟩
def MON_SETTLE_LEFT : Fld := ⟨0x070, 0, 13, .ro, 0, 1, 4⟩
def MON_TH_CFG_EN : Fld := ⟨0x0C0, 31, 1, .rw, 0, 2, 32⟩
def MON_TH_CFG_DIR : Fld := ⟨0x0C0, 30, 1, .rw, 0, 2, 32⟩
def MON_TH_CFG_MIN : Fld := ⟨0x0C0, 0, 13, .rw, 1, 2, 32⟩
def MON_TH_LEVEL_LEVEL : Fld := ⟨0x0C4, 0, 32, .rw, 0, 2, 32⟩
def MON_TH_HYST_HYST : Fld := ⟨0x0C8, 0, 32, .rw, 0, 2, 32⟩
def MON_TH_EVT_VALID : Fld := ⟨0x0CC, 31, 1, .w1c, 0, 2, 32⟩
def MON_TH_EVT_ASSERT : Fld := ⟨0x0CC, 30, 1, .ro, 0, 2, 32⟩
def MON_TH_EVT_LOST : Fld := ⟨0x0CC, 29, 1, .ro, 0, 2, 32⟩
def MON_TH_EVT_STATE : Fld := ⟨0x0CC, 28, 1, .ro, 0, 2, 32⟩
def MON_TH_VAL_VALUE : Fld := ⟨0x0D0, 0, 32, .ro, 0, 2, 32⟩
def MON_TH_TS_LO_TS : Fld := ⟨0x0D4, 0, 32, .ro, 0, 2, 32⟩
def MON_TH_TS_HI_TS : Fld := ⟨0x0D8, 0, 32, .ro, 0, 2, 32⟩
def MON_COEF0_COEF : Fld := ⟨0x400, 0, 18, .rw, 0, 128, 4⟩
def MON_COEF1_COEF : Fld := ⟨0x600, 0, 18, .rw, 0, 128, 4⟩

/-! Fields of MNS (Table 13-5). -/

def MNS_CFG_LG_EN : Fld := ⟨0x040, 31, 1, .rw, 0, 1, 4⟩
def MNS_CFG_LOSS_SRC : Fld := ⟨0x040, 27, 2, .rw, 0, 1, 4⟩
def MNS_CFG_LOSS_CHAIN : Fld := ⟨0x040, 24, 3, .rw, 0, 1, 4⟩
def MNS_CFG_ZC_CHAIN : Fld := ⟨0x040, 16, 3, .rw, 0, 1, 4⟩
def MNS_CFG_VS_EN : Fld := ⟨0x040, 0, 3, .rw, 7, 1, 4⟩
def MNS_ZC_CFG_AVG : Fld := ⟨0x044, 0, 4, .rw, 2, 1, 4⟩
def MNS_ZC_HYST_HYST : Fld := ⟨0x048, 0, 32, .rw, 4096, 1, 4⟩
def MNS_ZC_AMP_AMP : Fld := ⟨0x04C, 0, 32, .rw, 16384, 1, 4⟩
def MNS_LOSS_TIMEOUT_MS : Fld := ⟨0x050, 0, 8, .rw, 30, 1, 4⟩
def MNS_STAT_LOCK : Fld := ⟨0x054, 31, 1, .ro, 0, 1, 4⟩
def MNS_STAT_PRESENT : Fld := ⟨0x054, 30, 1, .ro, 0, 1, 4⟩
def MNS_STAT_LG_SENT : Fld := ⟨0x054, 29, 1, .ro, 0, 1, 4⟩
def MNS_STAT_ZC_CFG_ERR : Fld := ⟨0x054, 28, 1, .ro, 0, 1, 4⟩
def MNS_STAT_ZC_STATE : Fld := ⟨0x054, 26, 2, .ro, 0, 1, 4⟩
def MNS_STAT_CROSSINGS : Fld := ⟨0x054, 0, 16, .ro, 0, 1, 4⟩
def MNS_PERIOD_NS : Fld := ⟨0x058, 0, 32, .ro, 0, 1, 4⟩
def MNS_FREQ_MHZ : Fld := ⟨0x05C, 0, 17, .ro, 0, 1, 4⟩
def MNS_ZC_TS_LO_TS : Fld := ⟨0x060, 0, 32, .ro, 0, 1, 4⟩
def MNS_ZC_TS_HI_TS : Fld := ⟨0x064, 0, 32, .ro, 0, 1, 4⟩
def MNS_VS_OVR_OVR : Fld := ⟨0x068, 0, 3, .w1c, 0, 1, 4⟩

/-! Fields of HIF (Table 14-7). -/

def HIF_LINK_UP : Fld := ⟨0x040, 31, 1, .ro, 0, 1, 4⟩
def HIF_LINK_SPEED : Fld := ⟨0x040, 16, 4, .ro, 0, 1, 4⟩
def HIF_LINK_WIDTH : Fld := ⟨0x040, 8, 4, .ro, 0, 1, 4⟩
def HIF_FN_MSIX_EN : Fld := ⟨0x044, 16, 9, .ro, 0, 1, 4⟩
def HIF_FN_BME : Fld := ⟨0x044, 0, 9, .ro, 0, 1, 4⟩
def HIF_FN_D3_D3 : Fld := ⟨0x048, 0, 9, .ro, 0, 1, 4⟩

/-! Fields of SHP (Table 14-7). -/

def SHP_CFG_TEN_EN : Fld := ⟨0x040, 31, 1, .rw, 0, 1, 4⟩
def SHP_CFG_TENANT : Fld := ⟨0x040, 16, 3, .rw, 0, 1, 4⟩
def SHP_CFG_DUMMY : Fld := ⟨0x040, 0, 5, .rw, 8, 1, 4⟩
def SHP_STAT_ACTIVE : Fld := ⟨0x044, 31, 1, .ro, 0, 1, 4⟩
def SHP_STAT_HELD : Fld := ⟨0x044, 30, 1, .ro, 0, 1, 4⟩
def SHP_STAT_HELD_LOST : Fld := ⟨0x044, 29, 1, .w1c, 0, 1, 4⟩

/-! Fields of UART (Table 14-8). -/

def UART_CFG_LP_EN : Fld := ⟨0x040, 31, 1, .rwl, 0, 1, 4⟩
def UART_CFG_SYNC : Fld := ⟨0x040, 30, 1, .rwl, 0, 1, 4⟩
def UART_CFG_CK_CONT : Fld := ⟨0x040, 29, 1, .rwl, 0, 1, 4⟩
def UART_CFG_OS8 : Fld := ⟨0x040, 28, 1, .rwl, 0, 1, 4⟩
def UART_CFG_MDROP : Fld := ⟨0x040, 27, 1, .rwl, 0, 1, 4⟩
def UART_CFG_CTS_EN : Fld := ⟨0x040, 26, 1, .rwl, 0, 1, 4⟩
def UART_CFG_RTS_EN : Fld := ⟨0x040, 25, 1, .rwl, 0, 1, 4⟩
def UART_CFG_STOP2 : Fld := ⟨0x040, 24, 1, .rwl, 0, 1, 4⟩
def UART_CFG_PARITY : Fld := ⟨0x040, 22, 2, .rwl, 0, 1, 4⟩
def UART_CFG_DBITS : Fld := ⟨0x040, 20, 2, .rwl, 1, 1, 4⟩
def UART_BAUD_INC : Fld := ⟨0x044, 0, 32, .rwl, 9895605, 1, 4⟩
def UART_SDIV_DIV : Fld := ⟨0x048, 0, 8, .rwl, 16, 1, 4⟩
def UART_LP_BAUD : Fld := ⟨0x04C, 0, 14, .rwl, 9600, 1, 4⟩
def UART_ADDR_BCAST : Fld := ⟨0x050, 8, 8, .rw, 255, 1, 4⟩
def UART_ADDR_OWN : Fld := ⟨0x050, 0, 8, .rw, 0, 1, 4⟩
def UART_RX_WM_HIGH : Fld := ⟨0x054, 16, 9, .rw, 0, 1, 4⟩
def UART_RX_WM_LOW : Fld := ⟨0x054, 0, 9, .rw, 0, 1, 4⟩
def UART_TX_WM_LEVEL : Fld := ⟨0x058, 0, 9, .rw, 0, 1, 4⟩
def UART_TXD_DATA : Fld := ⟨0x05C, 0, 9, .wo, 0, 1, 4⟩
def UART_RXD_EMPTY : Fld := ⟨0x060, 31, 1, .ro, 0, 1, 4⟩
def UART_RXD_POISON : Fld := ⟨0x060, 30, 1, .ro, 0, 1, 4⟩
def UART_RXD_IDLE_BEFORE : Fld := ⟨0x060, 15, 1, .ro, 0, 1, 4⟩
def UART_RXD_BRK : Fld := ⟨0x060, 14, 1, .ro, 0, 1, 4⟩
def UART_RXD_OVR : Fld := ⟨0x060, 13, 1, .ro, 0, 1, 4⟩
def UART_RXD_FE : Fld := ⟨0x060, 12, 1, .ro, 0, 1, 4⟩
def UART_RXD_PE : Fld := ⟨0x060, 11, 1, .ro, 0, 1, 4⟩
def UART_RXD_DATA : Fld := ⟨0x060, 0, 9, .ro, 0, 1, 4⟩
def UART_STAT_TX_BUSY : Fld := ⟨0x064, 31, 1, .ro, 0, 1, 4⟩
def UART_STAT_LP_ACTIVE : Fld := ⟨0x064, 30, 1, .ro, 0, 1, 4⟩
def UART_STAT_TX_HELD : Fld := ⟨0x064, 29, 1, .ro, 0, 1, 4⟩
def UART_STAT_RTS_N : Fld := ⟨0x064, 28, 1, .ro, 1, 1, 4⟩
def UART_STAT_CTS_N : Fld := ⟨0x064, 27, 1, .ro, 1, 1, 4⟩
def UART_STAT_OVR : Fld := ⟨0x064, 26, 1, .w1c, 0, 1, 4⟩
def UART_STAT_TX_DROP : Fld := ⟨0x064, 25, 1, .w1c, 0, 1, 4⟩
def UART_STAT_TX_FILL : Fld := ⟨0x064, 12, 9, .ro, 0, 1, 4⟩
def UART_STAT_RX_FILL : Fld := ⟨0x064, 0, 9, .ro, 0, 1, 4⟩
def UART_FIFO_CTL_RX_FLUSH : Fld := ⟨0x068, 1, 1, .wo, 0, 1, 4⟩
def UART_FIFO_CTL_TX_FLUSH : Fld := ⟨0x068, 0, 1, .wo, 0, 1, 4⟩

/-! Fields of PMX (Table 14-9). -/

def PMX_STAT_BUSY : Fld := ⟨0x040, 31, 1, .ro, 0, 1, 4⟩
def PMX_STAT_CONFLICT : Fld := ⟨0x040, 30, 1, .w1c, 0, 1, 4⟩
def PMX_STAT_PIN : Fld := ⟨0x040, 16, 6, .ro, 0, 1, 4⟩
def PMX_STAT_FUNC : Fld := ⟨0x040, 0, 8, .ro, 0, 1, 4⟩
def PMX_GPIO_OUT_LO_OUT : Fld := ⟨0x044, 0, 32, .rw, 0, 1, 4⟩
def PMX_GPIO_OUT_HI_OUT : Fld := ⟨0x048, 0, 16, .rw, 0, 1, 4⟩
def PMX_GPIO_OE_LO_OE : Fld := ⟨0x04C, 0, 32, .rw, 0, 1, 4⟩
def PMX_GPIO_OE_HI_OE : Fld := ⟨0x050, 0, 16, .rw, 0, 1, 4⟩
def PMX_GPIO_IN_LO_IN : Fld := ⟨0x054, 0, 32, .ro, 0, 1, 4⟩
def PMX_GPIO_IN_HI_IN : Fld := ⟨0x058, 0, 16, .ro, 0, 1, 4⟩
def PMX_SEL_PULL : Fld := ⟨0x100, 16, 2, .rw, 0, 48, 4⟩
def PMX_SEL_INV : Fld := ⟨0x100, 8, 1, .rw, 0, 48, 4⟩
def PMX_SEL_FUNC : Fld := ⟨0x100, 0, 8, .rw, 0, 48, 4⟩

/-! Fields of CMDIO (Table 14-9). -/

def CMDIO_IN_POL : Fld := ⟨0x040, 16, 1, .rw, 0, 8, 4⟩
def CMDIO_IN_DEB_US : Fld := ⟨0x040, 0, 10, .rw, 250, 8, 4⟩
def CMDIO_OUT_FORCE : Fld := ⟨0x060, 17, 1, .rw, 0, 8, 4⟩
def CMDIO_OUT_POL : Fld := ⟨0x060, 16, 1, .rw, 0, 8, 4⟩
def CMDIO_OUT_HOLD_MS : Fld := ⟨0x060, 0, 8, .rw, 20, 8, 4⟩
def CMDIO_STAT_OUT : Fld := ⟨0x0C0, 8, 8, .ro, 0, 1, 4⟩
def CMDIO_STAT_IN : Fld := ⟨0x0C0, 0, 8, .ro, 0, 1, 4⟩

/-! Fields of PWR (Table 15-11). -/

def PWR_STATE_STATE : Fld := ⟨0x040, 30, 2, .ro, 0, 1, 4⟩
def PWR_STATE_SHED : Fld := ⟨0x040, 24, 3, .ro, 0, 1, 4⟩
def PWR_VIN_VIN : Fld := ⟨0x044, 16, 16, .ro, 0, 1, 4⟩
def PWR_VIN_VBAT : Fld := ⟨0x044, 0, 16, .ro, 0, 1, 4⟩
def PWR_RAIL_VCORE_OK : Fld := ⟨0x048, 31, 1, .ro, 0, 1, 4⟩
def PWR_RAIL_VIO18_OK : Fld := ⟨0x048, 30, 1, .ro, 0, 1, 4⟩
def PWR_RAIL_VIO33_OK : Fld := ⟨0x048, 29, 1, .ro, 0, 1, 4⟩
def PWR_RAIL_VDRV_OK : Fld := ⟨0x048, 28, 1, .ro, 0, 1, 4⟩
def PWR_RAIL_AO_FROM_VBAT : Fld := ⟨0x048, 27, 1, .ro, 0, 1, 4⟩
def PWR_SHED_TIMING : Fld := ⟨0x04C, 16, 5, .ro, 0, 1, 4⟩
def PWR_SHED_SHED : Fld := ⟨0x04C, 0, 5, .ro, 0, 1, 4⟩
def PWR_SLUMBER_SET0_MODES : Fld := ⟨0x050, 0, 32, .rw, 68158490, 1, 4⟩
def PWR_SLUMBER_SET1_MODES : Fld := ⟨0x054, 0, 8, .rw, 128, 1, 4⟩
def PWR_CMD_GO : Fld := ⟨0x058, 31, 1, .wo, 0, 1, 4⟩
def PWR_CMD_BUSY : Fld := ⟨0x058, 30, 1, .ro, 0, 1, 4⟩
def PWR_CMD_OP : Fld := ⟨0x058, 0, 2, .rw, 0, 1, 4⟩
def PWR_WAKE_EN_CMD_IN : Fld := ⟨0x05C, 5, 1, .rw, 0, 1, 4⟩
def PWR_WAKE_EN_MON : Fld := ⟨0x05C, 4, 1, .rw, 0, 1, 4⟩
def PWR_WAKE_EN_PERST : Fld := ⟨0x05C, 3, 1, .rw, 1, 1, 4⟩
def PWR_WAKE_EN_UART0 : Fld := ⟨0x05C, 2, 1, .rw, 0, 1, 4⟩
def PWR_WAKE_EN_ALARM : Fld := ⟨0x05C, 1, 1, .rw, 0, 1, 4⟩
def PWR_WAKE_EN_TIMER : Fld := ⟨0x05C, 0, 1, .ro, 1, 1, 4⟩
def PWR_WAKE_CAUSE_SHED : Fld := ⟨0x060, 7, 1, .ro, 0, 1, 4⟩
def PWR_WAKE_CAUSE_CMD : Fld := ⟨0x060, 6, 1, .ro, 0, 1, 4⟩
def PWR_WAKE_CAUSE_SRC : Fld := ⟨0x060, 0, 6, .ro, 0, 1, 4⟩
def PWR_ALARM_LO_ALARM : Fld := ⟨0x064, 0, 32, .rw, 0, 1, 4⟩
def PWR_ALARM_HI_ALARM : Fld := ⟨0x068, 0, 16, .rw, 0, 1, 4⟩
def PWR_LG_EN : Fld := ⟨0x06C, 31, 1, .rw, 0, 1, 4⟩
def PWR_LG_DST : Fld := ⟨0x06C, 0, 24, .rw, 0, 1, 4⟩
def PWR_LG_USER_USER : Fld := ⟨0x070, 0, 32, .rw, 0, 1, 4⟩
def PWR_LG_RX_CAUSE : Fld := ⟨0x074, 24, 8, .ro, 0, 1, 4⟩
def PWR_LG_RX_NODE : Fld := ⟨0x074, 0, 24, .ro, 0, 1, 4⟩
def PWR_DRAM_IN_SERVICE : Fld := ⟨0x078, 31, 1, .ro, 0, 1, 4⟩
def PWR_DRAM_SELF_REFRESH : Fld := ⟨0x078, 30, 1, .ro, 0, 1, 4⟩
def PWR_DRAM_TRAIN_FAIL : Fld := ⟨0x078, 29, 1, .ro, 0, 1, 4⟩
def PWR_DRAM_EN : Fld := ⟨0x078, 28, 1, .rwl, 0, 1, 4⟩
def PWR_DRAM_SIZE_MIB : Fld := ⟨0x078, 0, 13, .ro, 0, 1, 4⟩
def PWR_IDLE_RESIDENCY : Fld := ⟨0x07C, 0, 16, .ro, 0, 1, 4⟩

/-! Fields of CLK (Table 15-12). -/

def CLK_STAT_XTAL32_OK : Fld := ⟨0x040, 31, 1, .ro, 0, 1, 4⟩
def CLK_STAT_REFCLK_OK : Fld := ⟨0x040, 30, 1, .ro, 0, 1, 4⟩
def CLK_STAT_PCIE_REF_OK : Fld := ⟨0x040, 29, 1, .ro, 0, 1, 4⟩
def CLK_STAT_SYSPLL_LOCK : Fld := ⟨0x040, 28, 1, .ro, 0, 1, 4⟩
def CLK_STAT_CNVPLL_LOCK : Fld := ⟨0x040, 27, 1, .ro, 0, 1, 4⟩
def CLK_STAT_DRAMPLL_LOCK : Fld := ⟨0x040, 26, 1, .ro, 0, 1, 4⟩
def CLK_STAT_TWINPLL_LOCK : Fld := ⟨0x040, 25, 1, .ro, 0, 1, 4⟩
def CLK_STAT_RTC_LPRC : Fld := ⟨0x040, 24, 1, .ro, 0, 1, 4⟩
def CLK_RTC_LO_RTC : Fld := ⟨0x044, 0, 32, .ro, 0, 1, 4⟩
def CLK_RTC_HI_RTC : Fld := ⟨0x048, 0, 16, .ro, 0, 1, 4⟩
def CLK_XTAL_ERR_VALID : Fld := ⟨0x04C, 31, 1, .ro, 0, 1, 4⟩
def CLK_XTAL_ERR_PPM : Fld := ⟨0x04C, 0, 16, .ro, 0, 1, 4⟩

/-! Fields of RST (Table 15-13). -/

def RST_CMD_GO : Fld := ⟨0x040, 31, 1, .wo, 0, 1, 4⟩
def RST_CMD_KEY : Fld := ⟨0x040, 8, 8, .rw, 0, 1, 4⟩
def RST_CMD_OP : Fld := ⟨0x040, 0, 1, .rw, 0, 1, 4⟩
def RST_CAUSE_JOURNAL_ROLLBACK : Fld := ⟨0x044, 10, 1, .w1c, 0, 1, 4⟩
def RST_CAUSE_STANDBY : Fld := ⟨0x044, 9, 1, .w1c, 0, 1, 4⟩
def RST_CAUSE_CLOCK : Fld := ⟨0x044, 8, 1, .w1c, 0, 1, 4⟩
def RST_CAUSE_THERMAL : Fld := ⟨0x044, 7, 1, .w1c, 0, 1, 4⟩
def RST_CAUSE_FATAL : Fld := ⟨0x044, 6, 1, .w1c, 0, 1, 4⟩
def RST_CAUSE_WATCHDOG : Fld := ⟨0x044, 5, 1, .w1c, 0, 1, 4⟩
def RST_CAUSE_MANAGER : Fld := ⟨0x044, 4, 1, .w1c, 0, 1, 4⟩
def RST_CAUSE_PIN : Fld := ⟨0x044, 3, 1, .w1c, 0, 1, 4⟩
def RST_CAUSE_SUPPLY : Fld := ⟨0x044, 2, 1, .w1c, 0, 1, 4⟩
def RST_CAUSE_AO_POR : Fld := ⟨0x044, 1, 1, .w1c, 1, 1, 4⟩
def RST_STAT_BOOT_DONE : Fld := ⟨0x048, 31, 1, .ro, 0, 1, 4⟩
def RST_STAT_BOOT_RECORD_APPLIED : Fld := ⟨0x048, 30, 1, .ro, 0, 1, 4⟩
def RST_STAT_BOOT_RECORD_FAIL : Fld := ⟨0x048, 29, 1, .ro, 0, 1, 4⟩
def RST_STAT_BOOT_US : Fld := ⟨0x048, 0, 16, .ro, 0, 1, 4⟩
def RST_BOOTCFG_AUTO : Fld := ⟨0x04C, 31, 1, .rw, 0, 1, 4⟩
def RST_BOOTCFG_SAVE : Fld := ⟨0x04C, 30, 1, .wo, 0, 1, 4⟩
def RST_BOOTCFG_ERASE : Fld := ⟨0x04C, 29, 1, .wo, 0, 1, 4⟩
def RST_BOOTCFG_VALID : Fld := ⟨0x04C, 28, 1, .ro, 0, 1, 4⟩
def RST_BOOTCFG_BUSY : Fld := ⟨0x04C, 27, 1, .ro, 0, 1, 4⟩
def RST_LAST_SLOT_LO_SLOT : Fld := ⟨0x050, 0, 32, .ro, 0, 1, 4⟩
def RST_LAST_SLOT_HI_SLOT : Fld := ⟨0x054, 0, 12, .ro, 0, 1, 4⟩

/-! Fields of THM (Table 15-14). -/

def THM_TEMP_PEAK : Fld := ⟨0x040, 16, 16, .rw, 0, 1, 4⟩
def THM_TEMP_MAX : Fld := ⟨0x040, 0, 16, .ro, 0, 1, 4⟩
def THM_STAT_WARN : Fld := ⟨0x044, 31, 1, .ro, 0, 1, 4⟩
def THM_STAT_HOT : Fld := ⟨0x044, 8, 3, .ro, 0, 1, 4⟩
def THM_STAT_EXCLUDED : Fld := ⟨0x044, 0, 8, .ro, 0, 1, 4⟩
def THM_SENSOR_ODD : Fld := ⟨0x048, 16, 16, .ro, 0, 4, 4⟩
def THM_SENSOR_EVEN : Fld := ⟨0x048, 0, 16, .ro, 0, 4, 4⟩
def THM_DRV_DRV_MAX : Fld := ⟨0x058, 0, 16, .ro, 0, 1, 4⟩

/-! Fields of NVM (Table 16-7). -/

def NVM_STAT_RUNNING : Fld := ⟨0x040, 31, 1, .ro, 0, 1, 4⟩
def NVM_STAT_LOCK0 : Fld := ⟨0x040, 30, 1, .ro, 0, 1, 4⟩
def NVM_STAT_LOCK1 : Fld := ⟨0x040, 29, 1, .ro, 0, 1, 4⟩
def NVM_STAT_WRITING : Fld := ⟨0x040, 28, 1, .ro, 0, 1, 4⟩
def NVM_STAT_JOURNAL_OPEN : Fld := ⟨0x040, 27, 1, .ro, 0, 1, 4⟩
def NVM_STAT_LOG_FREE : Fld := ⟨0x040, 0, 11, .ro, 0, 1, 4⟩
def NVM_RD_ADDR_ROW : Fld := ⟨0x044, 5, 19, .rw, 0, 1, 4⟩
def NVM_RD_STAT_VALID : Fld := ⟨0x048, 31, 1, .ro, 0, 1, 4⟩
def NVM_RD_STAT_PROTECTED : Fld := ⟨0x048, 30, 1, .ro, 0, 1, 4⟩
def NVM_RD_STAT_CORRECTED : Fld := ⟨0x048, 29, 1, .ro, 0, 1, 4⟩
def NVM_RD_STAT_UNCORR : Fld := ⟨0x048, 28, 1, .ro, 0, 1, 4⟩
def NVM_RD_DATA_DATA : Fld := ⟨0x04C, 0, 32, .ro, 0, 8, 4⟩
def NVM_SCRUB_NEXT_ROW : Fld := ⟨0x06C, 0, 19, .ro, 0, 1, 4⟩
def NVM_UNCORR_ROW_ROW : Fld := ⟨0x070, 0, 19, .ro, 0, 1, 4⟩

/-! Fields of UPD (Table 16-8). -/

def UPD_CMD_GO : Fld := ⟨0x040, 31, 1, .wo, 0, 1, 4⟩
def UPD_CMD_BUSY : Fld := ⟨0x040, 30, 1, .ro, 0, 1, 4⟩
def UPD_CMD_OP : Fld := ⟨0x040, 0, 3, .rw, 0, 1, 4⟩
def UPD_ARG_NEXT : Fld := ⟨0x044, 4, 1, .rw, 0, 1, 4⟩
def UPD_ARG_KEY : Fld := ⟨0x044, 2, 2, .rw, 0, 1, 4⟩
def UPD_ARG_SLOT : Fld := ⟨0x044, 0, 1, .rw, 0, 1, 4⟩
def UPD_OFFSET_OFFSET : Fld := ⟨0x048, 0, 23, .rw, 0, 1, 4⟩
def UPD_DATA_DATA : Fld := ⟨0x04C, 0, 32, .wo, 0, 1, 4⟩
def UPD_STAT_STATE : Fld := ⟨0x050, 29, 3, .ro, 0, 1, 4⟩
def UPD_STAT_TRIAL : Fld := ⟨0x050, 28, 1, .ro, 0, 1, 4⟩
def UPD_STAT_MIGRATING : Fld := ⟨0x050, 27, 1, .ro, 0, 1, 4⟩
def UPD_STAT_OVERRUN : Fld := ⟨0x050, 26, 1, .w1c, 0, 1, 4⟩
def UPD_STAT_REVERTED : Fld := ⟨0x050, 25, 1, .w1c, 0, 1, 4⟩
def UPD_STAT_FALLBACK : Fld := ⟨0x050, 24, 1, .w1c, 0, 1, 4⟩
def UPD_STAT_DAMAGED : Fld := ⟨0x050, 23, 1, .ro, 0, 1, 4⟩
def UPD_STAT_STATUS : Fld := ⟨0x050, 16, 7, .ro, 0, 1, 4⟩
def UPD_STAT_ROOM : Fld := ⟨0x050, 0, 11, .ro, 1024, 1, 4⟩
def UPD_SLOT_VER_IMG_VER : Fld := ⟨0x054, 0, 32, .ro, 0, 2, 8⟩
def UPD_SLOT_INFO_VERIFIED : Fld := ⟨0x058, 31, 1, .ro, 0, 2, 8⟩
def UPD_SLOT_INFO_PREVIOUS : Fld := ⟨0x058, 30, 1, .ro, 0, 2, 8⟩
def UPD_SLOT_INFO_SET_VER : Fld := ⟨0x058, 16, 8, .ro, 0, 2, 8⟩
def UPD_SLOT_INFO_MIRROR : Fld := ⟨0x058, 8, 8, .ro, 0, 2, 8⟩
def UPD_SLOT_INFO_HO_VER : Fld := ⟨0x058, 0, 8, .ro, 0, 2, 8⟩
def UPD_SECVER_FLOOR : Fld := ⟨0x064, 0, 32, .ro, 0, 1, 4⟩
def UPD_TRIAL_STARTS : Fld := ⟨0x068, 28, 4, .ro, 0, 1, 4⟩
def UPD_TRIAL_PROGRESS : Fld := ⟨0x068, 0, 16, .ro, 0, 1, 4⟩
def UPD_PAUSE_SLOT_LO_SLOT : Fld := ⟨0x06C, 0, 32, .ro, 0, 1, 4⟩
def UPD_PAUSE_SLOT_HI_SLOT : Fld := ⟨0x070, 0, 12, .ro, 0, 1, 4⟩
def UPD_TRUST_REVOKED : Fld := ⟨0x074, 4, 4, .ro, 0, 1, 4⟩
def UPD_TRUST_FUSED : Fld := ⟨0x074, 0, 4, .ro, 0, 1, 4⟩

/-! Fields of UCP (Table 17-3). -/

def UCP_STAT_HST_OK : Fld := ⟨0x040, 31, 1, .ro, 0, 1, 4⟩
def UCP_STAT_UNITS : Fld := ⟨0x040, 0, 4, .ro, 0, 1, 4⟩
def UCP_MAP_UNIT : Fld := ⟨0x044, 0, 32, .ro, 0, 1, 4⟩

/-! Fields of CNT (Table 17-4). -/

def CNT_CTRL_SNAP : Fld := ⟨0x040, 31, 1, .wo, 0, 1, 4⟩
def CNT_CTRL_SNAP_CLR : Fld := ⟨0x040, 30, 1, .wo, 0, 1, 4⟩
def CNT_CTRL_CLR_ALL : Fld := ⟨0x040, 29, 1, .wo, 0, 1, 4⟩
def CNT_CTRL_HOLD : Fld := ⟨0x040, 28, 1, .rw, 0, 1, 4⟩
def CNT_CTRL_MODE : Fld := ⟨0x040, 26, 2, .rw, 0, 1, 4⟩
def CNT_CTRL_PERIOD : Fld := ⟨0x040, 0, 16, .rw, 1000, 1, 4⟩
def CNT_STAT_BUSY : Fld := ⟨0x044, 31, 1, .ro, 0, 1, 4⟩
def CNT_STAT_PENDING : Fld := ⟨0x044, 30, 1, .ro, 0, 1, 4⟩
def CNT_STAT_SEQ : Fld := ⟨0x044, 0, 16, .ro, 0, 1, 4⟩
def CNT_SNAP_CT_LO_CT : Fld := ⟨0x048, 0, 32, .ro, 0, 1, 4⟩
def CNT_SNAP_CT_HI_CT : Fld := ⟨0x04C, 0, 32, .ro, 0, 1, 4⟩
def CNT_SNAP_RTC_LO_RTC : Fld := ⟨0x050, 0, 32, .ro, 0, 1, 4⟩
def CNT_SNAP_RTC_HI_RTC : Fld := ⟨0x054, 0, 16, .ro, 0, 1, 4⟩
def CNT_SNAP_SEL_PAGE : Fld := ⟨0x058, 0, 13, .rw, 0, 1, 4⟩
def CNT_SNAP_INFO_EN : Fld := ⟨0x05C, 24, 8, .ro, 0, 1, 4⟩
def CNT_SNAP_INFO_INSTANCE : Fld := ⟨0x05C, 16, 8, .ro, 0, 1, 4⟩
def CNT_SNAP_INFO_BLOCK : Fld := ⟨0x05C, 0, 16, .ro, 0, 1, 4⟩
def CNT_SNAP_C_LO : Fld := ⟨0x100, 0, 32, .ro, 0, 8, 8⟩
def CNT_SNAP_C_HI : Fld := ⟨0x104, 0, 16, .ro, 0, 8, 8⟩

/-! Fields of HST (Table 17-5). -/

def HST_CFG_EN : Fld := ⟨0x100, 31, 1, .rw, 0, 4, 256⟩
def HST_CFG_SRC : Fld := ⟨0x100, 28, 3, .rw, 0, 4, 256⟩
def HST_CFG_OWNER : Fld := ⟨0x100, 24, 4, .rw, 15, 4, 256⟩
def HST_CFG_STATION : Fld := ⟨0x100, 20, 4, .rw, 0, 4, 256⟩
def HST_CFG_CLASS : Fld := ⟨0x100, 16, 4, .rw, 15, 4, 256⟩
def HST_CFG_BASE : Fld := ⟨0x100, 0, 16, .rw, 1, 4, 256⟩
def HST_FILTER_DEVICE : Fld := ⟨0x104, 24, 1, .rw, 1, 4, 256⟩
def HST_FILTER_TENANTS : Fld := ⟨0x104, 16, 8, .rw, 255, 4, 256⟩
def HST_FILTER_PRIV : Fld := ⟨0x104, 13, 1, .rw, 0, 4, 256⟩
def HST_FILTER_TTL_REF : Fld := ⟨0x104, 0, 6, .rw, 16, 4, 256⟩
def HST_STAT_SAT : Fld := ⟨0x108, 31, 1, .ro, 0, 4, 256⟩
def HST_STAT_DISCARDED : Fld := ⟨0x108, 0, 16, .ro, 0, 4, 256⟩
def HST_MAX_MAX : Fld := ⟨0x10C, 0, 32, .ro, 0, 4, 256⟩
def HST_COUNT_LO_COUNT : Fld := ⟨0x110, 0, 32, .ro, 0, 4, 256⟩
def HST_COUNT_HI_COUNT : Fld := ⟨0x114, 0, 16, .ro, 0, 4, 256⟩
def HST_SUM_LO_SUM : Fld := ⟨0x118, 0, 32, .ro, 0, 4, 256⟩
def HST_SUM_HI_SUM : Fld := ⟨0x11C, 0, 16, .ro, 0, 4, 256⟩
def HST_CMD_VIEW : Fld := ⟨0x120, 1, 1, .rw, 0, 4, 256⟩
def HST_CMD_CLR : Fld := ⟨0x120, 0, 1, .wo, 0, 4, 256⟩
def HST_BIN_COUNT : Fld := ⟨0x180, 0, 32, .ro, 0, 32, 4⟩
def HST_BIN1_COUNT : Fld := ⟨0x280, 0, 32, .ro, 0, 32, 4⟩
def HST_BIN2_COUNT : Fld := ⟨0x380, 0, 32, .ro, 0, 32, 4⟩
def HST_BIN3_COUNT : Fld := ⟨0x480, 0, 32, .ro, 0, 32, 4⟩

end F

/-- Fields of the DEV registers, in offset order (Table 02-10). -/
def devFlds : List Fld :=
  [F.DEV_FEAT_OFFER_OFFER, F.DEV_FEAT_ACCEPT_ACCEPT, F.DEV_FEAT_LOCK_LOCK, F.DEV_FEAT_STATUS_REFUSED,
   F.DEV_VIOL_COUNT_COUNT, F.DEV_VIOL_ADDR_ADDR, F.DEV_VIOL_INFO_FUNC, F.DEV_VIOL_INFO_KIND, F.DEV_VIOL_INFO_WRITE,
   F.DEV_VIOL_INFO_BYTE_EN, F.DEV_VIOL_CLR_CLR, F.DEV_WIN_SBUF_BASE_BASE, F.DEV_WIN_TMAP_BASE_BASE,
   F.DEV_WIN_DIR_BASE_BASE, F.DEV_EVT_GRP_PEND, F.DEV_EVT_CH0_PEND, F.DEV_EVT_CH1_PEND, F.DEV_INTN_EN_TENANT,
   F.DEV_INTN_EN_GRP, F.DEV_EVT_VEC_VEC0, F.DEV_EVT_VEC_VEC1, F.DEV_EVT_VEC_VEC2, F.DEV_EVT_VEC_VEC3,
   F.DEV_EVT_CHVEC_VEC0, F.DEV_EVT_CHVEC_VEC1, F.DEV_EVT_CHVEC_VEC2, F.DEV_EVT_CHVEC_VEC3]

/-- Fields of the NP registers, in offset order (Table 03-5). -/
def npFlds : List Fld :=
  [F.NP_CFG_RX_TAP, F.NP_CFG_TURNS, F.NP_CFG_EXT_PA, F.NP_ISENSE_RSENSE, F.NP_PA_ILIM, F.NP_PA_LEAD, F.NP_PA_LAG,
   F.NP_IMP_CTRL_QUIET_PROBE, F.NP_IMP_CTRL_PROBE_ATT, F.NP_IMP_CTRL_AVG_SHIFT, F.NP_IMP_MEAN_MAG,
   F.NP_IMP_MEAN_PHASE, F.NP_IMP_LIMITS_OPEN_TH, F.NP_IMP_LIMITS_SHORT_TH, F.NP_RX_STAT_LEVEL,
   F.NP_RX_STAT_OVERLOAD, F.NP_RX_STAT_FROZEN, F.NP_RX_STAT_GAIN, F.NP_PATH_VALID, F.NP_PATH_RATE,
   F.NP_PATH_CHANNEL, F.NP_NCO_NCO, F.NP_TX_STAT_VALID, F.NP_TX_STAT_CHANNEL, F.NP_TX_STAT_GAIN_RED,
   F.NP_DRV_STAT_P_EST, F.NP_DRV_STAT_IPEAK, F.NP_VDRV_SET, F.NP_VDRV_STAT_CAPPED, F.NP_VDRV_STAT_IN_REG,
   F.NP_VDRV_STAT_MEAS, F.NP_LEDGER_CAP_HS_RATED, F.NP_LEDGER_CAP_CAP_MW, F.NP_LEDGER_EFF_EFF_CAP,
   F.NP_LEDGER_EFF_ALLOC, F.NP_LEDGER_USE_CLAMPED, F.NP_LEDGER_USE_THERMAL_HALF, F.NP_LEDGER_USE_OVERCOMMIT,
   F.NP_LEDGER_USE_USE_MW]

/-- Fields of the WP registers, in offset order (Table 03-6). -/
def wpFlds : List Fld :=
  [F.WP_NOTCH_EN, F.WP_NOTCH_END, F.WP_NOTCH_START]

/-- Fields of the CH registers, in offset order (Table 05-7). -/
def chFlds : List Fld :=
  [F.CH_ADP_CTRL_TPL_EN, F.CH_ADP_CTRL_BLANK_EN, F.CH_ADP_CTRL_AUTO_PROPOSE, F.CH_ADP_CTRL_LEAD,
   F.CH_ADP_CTRL_LEARN_SHIFT, F.CH_ADP_CTRL_DD_SHIFT, F.CH_ADP_CTRL_VALID_SHIFT, F.CH_ADP_CTRL_UPD_GAIN,
   F.CH_ADP_CTRL_MARGIN, F.CH_BLANK_ERASE, F.CH_BLANK_HANG, F.CH_BLANK_TH, F.CH_TPL_STAT_VALID,
   F.CH_TPL_STAT_SUSPENDED, F.CH_TPL_STAT_SKIPPED, F.CH_TPL_STAT_GAIN, F.CH_TPL_SLOT_VALID0, F.CH_TPL_SLOT_VALID1,
   F.CH_TPL_SLOT_VALID2, F.CH_TPL_SLOT_VALID3, F.CH_TPL_SLOT_SLOT0, F.CH_TPL_SLOT_SLOT1, F.CH_TPL_SLOT_SLOT2,
   F.CH_TPL_SLOT_SLOT3, F.CH_LINK_SEL_REGION, F.CH_LINK_SEL_PEER, F.CH_LINK_STAT_FOUND, F.CH_LINK_STAT_PENDING,
   F.CH_LINK_STAT_DEFAULT, F.CH_LINK_STAT_THETA_VALID, F.CH_LINK_STAT_RX_ID, F.CH_LINK_STAT_TX_ID,
   F.CH_TMAP_ADDR_RX, F.CH_TMAP_ADDR_WORD, F.CH_TMAP_OVF_BASE_MIB, F.CH_TMAP_OVF_UNITS, F.CH_TMAP_FREE_FREE,
   F.CH_PROPOSE_SOUND, F.CH_PROPOSE_NOW, F.CH_THETA_VALID] ++
  [F.CH_THETA_THETA, F.CH_CFG_NUMER, F.CH_CFG_CP, F.CH_CFG_FULL_DUPLEX, F.CH_CFG_END, F.CH_CFG_SB16,
   F.CH_CFG_HOP_EN, F.CH_CFG_STREAMS, F.CH_CFG_NETID, F.CH_PORTS_W, F.CH_PORTS_N, F.CH_BAND_M_HI, F.CH_BAND_M_LO,
   F.CH_FREQ_FC_HZ, F.CH_GAIN_AUTO, F.CH_GAIN_CODE, F.CH_SHARE_SHARE_MW, F.CH_PROP_ALLOW_US, F.CH_RANGE_VALID,
   F.CH_RANGE_DELAY_NS, F.CH_PEER_OFS_OFS, F.CH_SOUND_RANKS, F.CH_SOUND_RANK, F.CH_CONTEND_DET_TH, F.CH_FIG_DWL_EN,
   F.CH_FIG_DWL_PROF, F.CH_FIG_ANCHOR, F.CH_FIG_FIG_ID, F.CH_FIG_MASK_MIN, F.CH_CMD_EN, F.CH_CMD_TH,
   F.CH_STAT_TYPE, F.CH_STAT_TX, F.CH_STAT_RX, F.CH_STAT_ENTRY, F.CH_SCHED_ENTRY, F.CH_SCHED_STG_ENTRY,
   F.CH_LQ0_WORD, F.CH_LQ1_WORD, F.CH_LQ2_WORD]

/-- Fields of the SPX registers, in offset order (Table 06-7). -/
def spxFlds : List Fld :=
  [F.SPX_DEC_ITER_IN_FORCE, F.SPX_DEC_ITER_LIMIT, F.SPX_DEADLINE_DEC, F.SPX_DEADLINE_SYM, F.SPX_ADM_STATUS_BUSY,
   F.SPX_ADM_STATUS_REFUSED, F.SPX_ADM_STATUS_CHANNEL, F.SPX_ADM_STATUS_REASON, F.SPX_ADM_STATUS_STATION,
   F.SPX_ADM_STATUS_KIND, F.SPX_ADM_STATUS_SEQ, F.SPX_ADM_LOAD_LOAD, F.SPX_ADM_REF0_REF, F.SPX_ADM_REF1_REF,
   F.SPX_CH_SEL_CHANNEL, F.SPX_CH_DEM_DEMAND, F.SPX_TEST_CTRL_AUTO, F.SPX_TEST_CTRL_PERIOD]

/-- Fields of the STN registers, in offset order (Table 06-8). -/
def stnFlds : List Fld :=
  [F.SPX_STN_CFG_GROUPS, F.SPX_STN_CFG_ACTIVE, F.SPX_STN_CAP_CAP, F.SPX_STN_LOAD_ADMITTED, F.SPX_STN_LOAD_MEASURED,
   F.SPX_STN_PEAK_PEAK, F.SPX_STN_SERVICE_IN_SERVICE, F.SPX_STN_RETIRED_RETIRED, F.SPX_STN_SPARE_VALID,
   F.SPX_STN_SPARE_TESTING, F.SPX_STN_SPARE_TEST_LG, F.SPX_STN_SPARE_SPARE, F.SPX_STN_TEST_START,
   F.SPX_STN_TEST_LG, F.SPX_STN_WAIT_MAX, F.SPX_STN_WAIT_MEAN]

/-- Fields of the SCH registers, in offset order (Table 07-11). -/
def schFlds : List Fld :=
  [F.SCH_NODE_NODE, F.SCH_MODE_ROOT, F.SCH_MODE_FREE_RUN, F.SCH_MODE_NOMINAL, F.SCH_MODE_ROOT_PRIO,
   F.SCH_MODE_EPOCH_INIT, F.SCH_MODE_BCN_LOSS, F.SCH_CT_LO_CT, F.SCH_CT_HI_CT, F.SCH_CT_INIT_LO_SLOT,
   F.SCH_CT_INIT_HI_SLOT, F.SCH_CT_STAT_SYNC, F.SCH_CT_STAT_IS_ROOT, F.SCH_CT_STAT_PROVISIONAL,
   F.SCH_CT_STAT_FREE_RUN, F.SCH_CT_STAT_HOP, F.SCH_CT_STAT_EPOCH, F.SCH_PARENT_CHANNEL, F.SCH_PARENT_NODE,
   F.SCH_ROOT_PRIO, F.SCH_ROOT_NODE, F.SCH_SLOT_LEN_NS, F.SCH_CT_ERR_ERR, F.SCH_LOOP_KI, F.SCH_LOOP_KP,
   F.SCH_STAGE_GO, F.SCH_STAGE_VERSION, F.SCH_STAGE_SF_SF, F.SCH_VER_STAGED, F.SCH_VER_IN_FORCE,
   F.SCH_VER_STAT_LATE, F.SCH_VER_STAT_REFUSED, F.SCH_VER_STAT_PENDING, F.SCH_VER_STAT_MISMATCH, F.SCH_SF_SF]

/-- Fields of the FIG registers, in offset order (Table 07-12). -/
def figFlds : List Fld :=
  [F.FIG_KEY_VALID, F.FIG_KEY_IDX, F.FIG_KEY_SLOT, F.FIG_NEXT_GO, F.FIG_NEXT_IDX, F.FIG_NEXT_SF_SF,
   F.FIG_STAT_NO_KEY, F.FIG_STAT_IDX]

/-- Fields of the DWL registers, in offset order (Table 07-12). -/
def dwlFlds : List Fld :=
  [F.DWL_PROF_WINDOW, F.DWL_PROF_LIMIT, F.DWL_CTRL_URGENT_EXEMPT, F.DWL_SEL_CHANNEL, F.DWL_STAT_EXHAUSTED,
   F.DWL_USE_LIMIT_MS, F.DWL_USE_USED_MS]

/-- Fields of the CMD registers, in offset order (Table 07-12). -/
def cmdFlds : List Fld :=
  [F.CMD_LINE_SRC_PIN, F.CMD_LINE_SRC_RX, F.CMD_LINE_RX_CH, F.CMD_LINE_TX_EN, F.CMD_LINE_OUT_EN, F.CMD_LINE_TX_CH,
   F.CMD_LINE_BURST, F.CMD_LINE_REPEAT, F.CMD_KEY_SLOT, F.CMD_STAT_OUT_ACTIVE, F.CMD_STAT_IN_ACTIVE,
   F.CMD_LAST_LINES, F.CMD_LAST_CHANNEL, F.CMD_LAST_RHO]

/-- Fields of the RLY registers, in offset order (Table 08-8). -/
def rlyFlds : List Fld :=
  [F.RLY_REEL_RELAY_EN, F.RLY_REEL_DIV, F.RLY_REEL_RANK, F.RLY_REEL_PROB, F.RLY_REEL_TTL_DEF, F.RLY_REEL_RMAX_P2,
   F.RLY_REEL_RMAX_P3, F.RLY_ZONES_ZONES, F.RLY_REEL_SET0_SET, F.RLY_REEL_SET1_SET, F.RLY_FB_ACK_SLOTS,
   F.RLY_FB_MAX_NB, F.RLY_FWD_HOLD_SF, F.RLY_FWD_LIMIT, F.RLY_FWD_STAT_QUEUED, F.RLY_PART_CLAIM_EN,
   F.RLY_PART_STATE, F.RLY_PART_CLAIM_LEFT, F.RLY_CDLY_K]

/-- Fields of the SEEN registers, in offset order (Table 08-9). -/
def seenFlds : List Fld :=
  [F.SEEN_CFG_AGE, F.SEEN_STAT_USED, F.SEEN_FLUSH_ALL, F.SEEN_Q_SRC_SRC, F.SEEN_Q_KEY_GO, F.SEEN_Q_KEY_EPOCH,
   F.SEEN_Q_KEY_SEQ, F.SEEN_Q_RES_VALID, F.SEEN_Q_RES_FOUND, F.SEEN_Q_RES_STATE, F.SEEN_Q_RES_TTL, F.SEEN_Q_RES_AGE]

/-- Fields of the RTE registers, in offset order (Table 08-10). -/
def rteFlds : List Fld :=
  [F.RTE_CFG_ADV_SF, F.RTE_CFG_EXPIRE, F.RTE_CFG_LOSS_SF, F.RTE_IDX_IDX, F.RTE_E0_VALID, F.RTE_E0_STATIC,
   F.RTE_E0_NEIGH, F.RTE_E0_STALE, F.RTE_E0_PRI_DOWN, F.RTE_E0_ALT_DIV, F.RTE_E0_PREFIX, F.RTE_E1_CHANNEL,
   F.RTE_E1_NEXT, F.RTE_E2_ALT_CH, F.RTE_E2_ALT_NEXT, F.RTE_E3_LEN, F.RTE_E3_AGE, F.RTE_E3_METRIC, F.RTE_E4_HOP,
   F.RTE_CMD_GO, F.RTE_CMD_OP, F.RTE_LOOKUP_NODE, F.RTE_RES_STATUS, F.RTE_RES_INDEX, F.RTE_COUNT_USED]

/-- Fields of the DIR registers, in offset order (Table 08-11). -/
def dirFlds : List Fld :=
  [F.DIR_CFG_AUTO_LEARN, F.DIR_CFG_SIZE_LOG2, F.DIR_DRAM_BASE_BASE_MIB, F.DIR_CMD_GO, F.DIR_CMD_BUSY, F.DIR_CMD_OP,
   F.DIR_NODE_OWNER, F.DIR_NODE_NODE, F.DIR_RES_STATUS, F.DIR_RES_INDEX, F.DIR_USED_USED, F.DIR_MERGE_EN,
   F.DIR_MERGE_PEER]

/-- Fields of the SLP registers, in offset order (Table 09-7). -/
def slpFlds : List Fld :=
  [F.SLP_CFG_SLEEP_EN, F.SLP_CFG_TB, F.SLP_CFG_GG, F.SLP_CFG_WAKE_HOST, F.SLP_CFG_CHANNEL, F.SLP_CFG_STAY,
   F.SLP_CFG_STAY_MAX, F.SLP_REND_GROUP, F.SLP_REND_PLOG, F.SLP_REND_PHASE, F.SLP_PARENT_NODE,
   F.SLP_DRIFT_GRID_PPM, F.SLP_DRIFT_MAINS_PPM, F.SLP_DRIFT_PARENT_PPM, F.SLP_DRIFT_SELF_PPM, F.SLP_GUARD_GUARD_US,
   F.SLP_GUARD_G0_US, F.SLP_LEAD_LEAD_US, F.SLP_STAT_STATE, F.SLP_STAT_TB_MAINS, F.SLP_STAT_GUARD_SHORT,
   F.SLP_STAT_CAPPED, F.SLP_STAT_MISS_RUN, F.SLP_STAT_ADRIFT_A, F.SLP_STAT_CFG_ERR, F.SLP_NEXT_LO_SLOT,
   F.SLP_NEXT_HI_SLOT, F.SLP_CONTACT_LO_SLOT, F.SLP_CONTACT_HI_SLOT, F.SLP_POWER_P_AWAKE, F.SLP_POWER_P_SLUMBER,
   F.SLP_BUDGET_WINDOW_H, F.SLP_BUDGET_BUDGET, F.SLP_ENERGY_USED, F.SLP_ANNOUNCE_NOW, F.SLP_UNR_LAST_NODE]

/-- Fields of the TNT registers, in offset order (Table 10-9). -/
def tntFlds : List Fld :=
  [F.TNT_MCTL_RESET, F.TNT_MCTL_P0_EN, F.TNT_CNT_USER_EN_EN, F.TNT_QUOTA0_KEYS, F.TNT_QUOTA0_QDEPTH,
   F.TNT_QUOTA1_LANES, F.TNT_QUOTA1_DIRENT, F.TNT_QMEM_SIZE, F.TNT_QMEM_BASE, F.TNT_SPILL_SIZE_MIB,
   F.TNT_SPILL_BASE_MIB, F.TNT_LIMITS_HOLD_SF, F.TNT_LIMITS_ORDER_SF, F.TNT_LIMITS_WAIT_AGE_MS, F.TNT_DELQ_WM_HIGH,
   F.TNT_DELQ_WM_LOW, F.TNT_MSTAT_LOCKED, F.TNT_MSTAT_RESETTING, F.TNT_MSTAT_QMEM_REFUSED, F.TNT_MSTAT_OQ_QDEPTH,
   F.TNT_MSTAT_OQ_AIR, F.TNT_MSTAT_OQ_KEYS, F.TNT_MSTAT_OQ_LANES, F.TNT_MSTAT_OQ_DIRENT, F.TNT_MSTAT_OQ_SPILL,
   F.TNT_USE0_KEYS_USED, F.TNT_USE0_INFLIGHT, F.TNT_USE1_LANES_USED, F.TNT_USE1_DIRENT_USED, F.TNT_USE2_RXHOLD_KIB,
   F.TNT_USE2_SPILL_MIB, F.TNT_DELQ_FILL, F.TNT_AIR_EXHAUSTED, F.TNT_AIR_SHARE, F.TNT_ARQ_WAIT, F.TNT_ARQ_RETRY,
   F.TNT_MSCFG_REASM_SF, F.TNT_MSCFG_E2E_SF, F.TNT_MSCFG_SEG_MAX, F.TNT_DUP_STAT_USED] ++
  [F.TNT_GRP_TENANTS, F.TNT_GRP_GROUP, F.TNT_SVC_BOUND, F.TNT_SVC_TENANT, F.TNT_SVC_QP]

/-- Fields of the TPAGE registers, in offset order (Table 10-10). -/
def tpageFlds : List Fld :=
  [F.TNT_FEAT_OFFER_OFFER, F.TNT_FEAT_ACCEPT_ACCEPT, F.TNT_FEAT_LOCK_LOCK, F.TNT_RESET_RESET, F.TNT_EVT_SUM_PAGE,
   F.TNT_EVT_SUM_CQ, F.TNT_VEC_VEC, F.TNT_SQ_BASE_LO_ADDR, F.TNT_SQ_BASE_HI_ADDR, F.TNT_SQ_CFG_EN,
   F.TNT_SQ_CFG_QMEM, F.TNT_SQ_CFG_SIZE_LOG2, F.TNT_SQ_STAT_WR_TAIL, F.TNT_SQ_STAT_HEAD, F.TNT_CQ_BASE_LO_ADDR,
   F.TNT_CQ_BASE_HI_ADDR, F.TNT_CQ_CFG_EN, F.TNT_CQ_CFG_QMEM, F.TNT_CQ_CFG_IE, F.TNT_CQ_CFG_VEC,
   F.TNT_CQ_CFG_SIZE_LOG2, F.TNT_CQ_STAT_TAIL, F.TNT_CQ_STAT_PHASE, F.TNT_CQ_STAT_HEAD]

/-- Fields of the DB registers, in offset order (Table 10-11). -/
def dbFlds : List Fld :=
  [F.DB_SQ_TAIL, F.DB_CQ_HEAD]

/-- Fields of the CPH registers, in offset order (Table 11-12). -/
def cphFlds : List Fld :=
  [F.CPH_LANE_SERVICE_IN_SERVICE, F.CPH_LANE_RETIRED_RETIRED, F.CPH_TEST_AUTO, F.CPH_TEST_START, F.CPH_TEST_LANE,
   F.CPH_TEST_PERIOD, F.CPH_TEST_STAT_TESTING, F.CPH_TEST_STAT_LANE, F.CPH_QUEUE_PRIV_WAIT, F.CPH_QUEUE_BULK_WAIT,
   F.CPH_LOAD_BUSY, F.CPH_NONCE_LO_CTR, F.CPH_NONCE_MID_CTR, F.CPH_NONCE_HI_CTR, F.CPH_NONCE_RES_LO_BLOCK,
   F.CPH_NONCE_RES_HI_BLOCK]

/-- Fields of the KEY registers, in offset order (Table 11-13). -/
def keyFlds : List Fld :=
  [F.KEY_CMD_GO, F.KEY_CMD_BUSY, F.KEY_CMD_OP, F.KEY_ARG0_PK, F.KEY_ARG0_WRAP_PK, F.KEY_ARG0_ROLE,
   F.KEY_ARG0_WRAPPED, F.KEY_ARG0_SIZE256, F.KEY_ARG0_TAG16, F.KEY_ARG0_MODES, F.KEY_ARG0_IDX, F.KEY_ARG0_LABEL,
   F.KEY_ARG1_KID, F.KEY_ARG1_SLOT, F.KEY_ARG2_USE, F.KEY_ARG2_NODE, F.KEY_ARG3_LOC, F.KEY_ARG3_INDEX,
   F.KEY_RES_STATUS, F.KEY_RES_VALUE, F.KEY_SLOT_INFO_VALID, F.KEY_SLOT_INFO_TYPE, F.KEY_SLOT_INFO_SIZE256,
   F.KEY_SLOT_INFO_TAG16, F.KEY_SLOT_INFO_PRIV, F.KEY_SLOT_INFO_MODES, F.KEY_SLOT_INFO_OWNER, F.KEY_SLOT_INFO_KID,
   F.KEY_SLOT_USE_USE, F.KEY_PROV_LOCKED, F.KEY_ZERO_ZERO, F.KEY_PK_ROLE0_ROLE, F.KEY_PK_ROLE1_ROLE,
   F.KEY_STAGE_DATA, F.KEY_TKID_BASE, F.KEY_TKID_SIZE, F.KEY_TPOL_CLEAR_OK, F.KEY_TPOL_WRAP_PK, F.KEY_DEV_BEACON,
   F.KEY_DEV_DEVICE] ++
  [F.KEY_OWN_VALID, F.KEY_OWN_SLOT, F.KEY_WKT_BASE_MIB, F.KEY_WKT_SIZE_LOG2, F.KEY_CFG_NODE_MIN, F.KEY_USE_FREE,
   F.KEY_USE_NODE, F.KEY_STAT_PK_VALID]

/-- Fields of the ENT registers, in offset order (Table 11-15). -/
def entFlds : List Fld :=
  [F.ENT_CFG_RESEED, F.ENT_STAT_HEALTHY, F.ENT_STAT_HALTED, F.ENT_STAT_DEGRADED, F.ENT_RAND_RAND, F.ENT_RESEED_NOW]

/-- Fields of the CR registers, in offset order (Table 10-10). -/
def crFlds : List Fld :=
  [F.CR_SQ_BASE_LO_ADDR, F.CR_SQ_BASE_HI_ADDR, F.CR_SQ_CFG_EN, F.CR_SQ_CFG_QMEM, F.CR_SQ_CFG_SIZE_LOG2,
   F.CR_SQ_STAT_WR_TAIL, F.CR_SQ_STAT_HEAD, F.CR_CQ_BASE_LO_ADDR, F.CR_CQ_BASE_HI_ADDR, F.CR_CQ_CFG_EN,
   F.CR_CQ_CFG_QMEM, F.CR_CQ_CFG_IE, F.CR_CQ_CFG_VEC, F.CR_CQ_CFG_SIZE_LOG2, F.CR_CQ_STAT_TAIL, F.CR_CQ_STAT_PHASE,
   F.CR_CQ_STAT_HEAD, F.CR_DB_SQ_TAIL, F.CR_DB_CQ_HEAD, F.CR_STAT_BUSY, F.CR_STAT_OVERRUN]

/-- Fields of the TWN registers, in offset order (Table 12-7). -/
def twnFlds : List Fld :=
  [F.TWN_CFG_EN, F.TWN_CFG_PRIMARY_PREF, F.TWN_CFG_KEK_PK, F.TWN_STAT_STATE, F.TWN_STAT_PEER_OK, F.TWN_STAT_HB_OK,
   F.TWN_STAT_CFG_MATCH, F.TWN_STAT_PARTIAL, F.TWN_STAT_LANES, F.TWN_STAT_PROTO, F.TWN_CMD_GO, F.TWN_CMD_BUSY,
   F.TWN_CMD_OP, F.TWN_SWAP_SF_SF, F.TWN_SYNC_PROGRESS, F.TWN_LAG_MAX, F.TWN_LAG_MEAN, F.TWN_PEER_ID_LO_ID,
   F.TWN_PEER_ID_HI_ID, F.TWN_LAST_CAUSE, F.TWN_LAST_SLOT_LO_SLOT, F.TWN_LAST_SLOT_HI_SLOT]

/-- Fields of the HLT registers, in offset order (Table 12-8). -/
def hltFlds : List Fld :=
  [F.HLT_HEALTHY_LEVEL, F.HLT_HEALTHY_FORCED, F.HLT_HEALTHY_SHED, F.HLT_HEALTHY_STATE, F.HLT_HEALTHY_FATAL,
   F.HLT_HEALTHY_NOT_LOCKED, F.HLT_CFG_FORCE_LOW, F.HLT_FAULT_SUM_GRP, F.HLT_TEST_LAST_VALID, F.HLT_TEST_LAST_PASS,
   F.HLT_TEST_LAST_INSTANCE, F.HLT_TEST_LAST_BLOCK, F.HLT_REPAIR_SBUF_SPARE, F.HLT_REPAIR_TMAP_SPARE,
   F.HLT_DEVID_LO_ID, F.HLT_DEVID_HI_ID, F.HLT_SCRUB_PASSES]

/-- Fields of the MON registers, in offset order (Table 13-4). -/
def monFlds : List Fld :=
  [F.MON_SRC_SRC, F.MON_SRC_TAP_PORT, F.MON_SRC_TAP_BW, F.MON_SRC_TAP_FREQ, F.MON_CFG_SH_CIC, F.MON_CFG_SH_FIR,
   F.MON_CFG_SH_MA, F.MON_CFG_SQUARE, F.MON_CFG_OUT_LOG2, F.MON_CFG_RATIO, F.MON_MA_LEN, F.MON_BANK_XFADE,
   F.MON_BANK_FADING, F.MON_BANK_ACTIVE, F.MON_BANK_SEL, F.MON_BANK_LEN1, F.MON_BANK_LEN0, F.MON_XF_LEN,
   F.MON_FIFO_WM_HIGH, F.MON_FIFO_WM_LOW, F.MON_FIFO_STAT_FILL, F.MON_GD_GD, F.MON_DATA_LO_VALUE,
   F.MON_DATA_HI_EMPTY, F.MON_DATA_HI_POISON, F.MON_DATA_HI_FLAGS, F.MON_TS_LO_TS, F.MON_TS_HI_TS, F.MON_SETTLE_U,
   F.MON_SETTLE_LEFT, F.MON_TH_CFG_EN, F.MON_TH_CFG_DIR, F.MON_TH_CFG_MIN, F.MON_TH_LEVEL_LEVEL,
   F.MON_TH_HYST_HYST, F.MON_TH_EVT_VALID, F.MON_TH_EVT_ASSERT, F.MON_TH_EVT_LOST, F.MON_TH_EVT_STATE,
   F.MON_TH_VAL_VALUE] ++
  [F.MON_TH_TS_LO_TS, F.MON_TH_TS_HI_TS, F.MON_COEF0_COEF, F.MON_COEF1_COEF]

/-- Fields of the MNS registers, in offset order (Table 13-5). -/
def mnsFlds : List Fld :=
  [F.MNS_CFG_LG_EN, F.MNS_CFG_LOSS_SRC, F.MNS_CFG_LOSS_CHAIN, F.MNS_CFG_ZC_CHAIN, F.MNS_CFG_VS_EN,
   F.MNS_ZC_CFG_AVG, F.MNS_ZC_HYST_HYST, F.MNS_ZC_AMP_AMP, F.MNS_LOSS_TIMEOUT_MS, F.MNS_STAT_LOCK,
   F.MNS_STAT_PRESENT, F.MNS_STAT_LG_SENT, F.MNS_STAT_ZC_CFG_ERR, F.MNS_STAT_ZC_STATE, F.MNS_STAT_CROSSINGS,
   F.MNS_PERIOD_NS, F.MNS_FREQ_MHZ, F.MNS_ZC_TS_LO_TS, F.MNS_ZC_TS_HI_TS, F.MNS_VS_OVR_OVR]

/-- Fields of the HIF registers, in offset order (Table 14-7). -/
def hifFlds : List Fld :=
  [F.HIF_LINK_UP, F.HIF_LINK_SPEED, F.HIF_LINK_WIDTH, F.HIF_FN_MSIX_EN, F.HIF_FN_BME, F.HIF_FN_D3_D3]

/-- Fields of the SHP registers, in offset order (Table 14-7). -/
def shpFlds : List Fld :=
  [F.SHP_CFG_TEN_EN, F.SHP_CFG_TENANT, F.SHP_CFG_DUMMY, F.SHP_STAT_ACTIVE, F.SHP_STAT_HELD, F.SHP_STAT_HELD_LOST]

/-- Fields of the UART registers, in offset order (Table 14-8). -/
def uartFlds : List Fld :=
  [F.UART_CFG_LP_EN, F.UART_CFG_SYNC, F.UART_CFG_CK_CONT, F.UART_CFG_OS8, F.UART_CFG_MDROP, F.UART_CFG_CTS_EN,
   F.UART_CFG_RTS_EN, F.UART_CFG_STOP2, F.UART_CFG_PARITY, F.UART_CFG_DBITS, F.UART_BAUD_INC, F.UART_SDIV_DIV,
   F.UART_LP_BAUD, F.UART_ADDR_BCAST, F.UART_ADDR_OWN, F.UART_RX_WM_HIGH, F.UART_RX_WM_LOW, F.UART_TX_WM_LEVEL,
   F.UART_TXD_DATA, F.UART_RXD_EMPTY, F.UART_RXD_POISON, F.UART_RXD_IDLE_BEFORE, F.UART_RXD_BRK, F.UART_RXD_OVR,
   F.UART_RXD_FE, F.UART_RXD_PE, F.UART_RXD_DATA, F.UART_STAT_TX_BUSY, F.UART_STAT_LP_ACTIVE, F.UART_STAT_TX_HELD,
   F.UART_STAT_RTS_N, F.UART_STAT_CTS_N, F.UART_STAT_OVR, F.UART_STAT_TX_DROP, F.UART_STAT_TX_FILL,
   F.UART_STAT_RX_FILL, F.UART_FIFO_CTL_RX_FLUSH, F.UART_FIFO_CTL_TX_FLUSH]

/-- Fields of the PMX registers, in offset order (Table 14-9). -/
def pmxFlds : List Fld :=
  [F.PMX_STAT_BUSY, F.PMX_STAT_CONFLICT, F.PMX_STAT_PIN, F.PMX_STAT_FUNC, F.PMX_GPIO_OUT_LO_OUT,
   F.PMX_GPIO_OUT_HI_OUT, F.PMX_GPIO_OE_LO_OE, F.PMX_GPIO_OE_HI_OE, F.PMX_GPIO_IN_LO_IN, F.PMX_GPIO_IN_HI_IN,
   F.PMX_SEL_PULL, F.PMX_SEL_INV, F.PMX_SEL_FUNC]

/-- Fields of the CMDIO registers, in offset order (Table 14-9). -/
def cmdioFlds : List Fld :=
  [F.CMDIO_IN_POL, F.CMDIO_IN_DEB_US, F.CMDIO_OUT_FORCE, F.CMDIO_OUT_POL, F.CMDIO_OUT_HOLD_MS, F.CMDIO_STAT_OUT,
   F.CMDIO_STAT_IN]

/-- Fields of the PWR registers, in offset order (Table 15-11). -/
def pwrFlds : List Fld :=
  [F.PWR_STATE_STATE, F.PWR_STATE_SHED, F.PWR_VIN_VIN, F.PWR_VIN_VBAT, F.PWR_RAIL_VCORE_OK, F.PWR_RAIL_VIO18_OK,
   F.PWR_RAIL_VIO33_OK, F.PWR_RAIL_VDRV_OK, F.PWR_RAIL_AO_FROM_VBAT, F.PWR_SHED_TIMING, F.PWR_SHED_SHED,
   F.PWR_SLUMBER_SET0_MODES, F.PWR_SLUMBER_SET1_MODES, F.PWR_CMD_GO, F.PWR_CMD_BUSY, F.PWR_CMD_OP,
   F.PWR_WAKE_EN_CMD_IN, F.PWR_WAKE_EN_MON, F.PWR_WAKE_EN_PERST, F.PWR_WAKE_EN_UART0, F.PWR_WAKE_EN_ALARM,
   F.PWR_WAKE_EN_TIMER, F.PWR_WAKE_CAUSE_SHED, F.PWR_WAKE_CAUSE_CMD, F.PWR_WAKE_CAUSE_SRC, F.PWR_ALARM_LO_ALARM,
   F.PWR_ALARM_HI_ALARM, F.PWR_LG_EN, F.PWR_LG_DST, F.PWR_LG_USER_USER, F.PWR_LG_RX_CAUSE, F.PWR_LG_RX_NODE,
   F.PWR_DRAM_IN_SERVICE, F.PWR_DRAM_SELF_REFRESH, F.PWR_DRAM_TRAIN_FAIL, F.PWR_DRAM_EN, F.PWR_DRAM_SIZE_MIB,
   F.PWR_IDLE_RESIDENCY]

/-- Fields of the CLK registers, in offset order (Table 15-12). -/
def clkFlds : List Fld :=
  [F.CLK_STAT_XTAL32_OK, F.CLK_STAT_REFCLK_OK, F.CLK_STAT_PCIE_REF_OK, F.CLK_STAT_SYSPLL_LOCK,
   F.CLK_STAT_CNVPLL_LOCK, F.CLK_STAT_DRAMPLL_LOCK, F.CLK_STAT_TWINPLL_LOCK, F.CLK_STAT_RTC_LPRC, F.CLK_RTC_LO_RTC,
   F.CLK_RTC_HI_RTC, F.CLK_XTAL_ERR_VALID, F.CLK_XTAL_ERR_PPM]

/-- Fields of the RST registers, in offset order (Table 15-13). -/
def rstFlds : List Fld :=
  [F.RST_CMD_GO, F.RST_CMD_KEY, F.RST_CMD_OP, F.RST_CAUSE_JOURNAL_ROLLBACK, F.RST_CAUSE_STANDBY, F.RST_CAUSE_CLOCK,
   F.RST_CAUSE_THERMAL, F.RST_CAUSE_FATAL, F.RST_CAUSE_WATCHDOG, F.RST_CAUSE_MANAGER, F.RST_CAUSE_PIN,
   F.RST_CAUSE_SUPPLY, F.RST_CAUSE_AO_POR, F.RST_STAT_BOOT_DONE, F.RST_STAT_BOOT_RECORD_APPLIED,
   F.RST_STAT_BOOT_RECORD_FAIL, F.RST_STAT_BOOT_US, F.RST_BOOTCFG_AUTO, F.RST_BOOTCFG_SAVE, F.RST_BOOTCFG_ERASE,
   F.RST_BOOTCFG_VALID, F.RST_BOOTCFG_BUSY, F.RST_LAST_SLOT_LO_SLOT, F.RST_LAST_SLOT_HI_SLOT]

/-- Fields of the THM registers, in offset order (Table 15-14). -/
def thmFlds : List Fld :=
  [F.THM_TEMP_PEAK, F.THM_TEMP_MAX, F.THM_STAT_WARN, F.THM_STAT_HOT, F.THM_STAT_EXCLUDED, F.THM_SENSOR_ODD,
   F.THM_SENSOR_EVEN, F.THM_DRV_DRV_MAX]

/-- Fields of the NVM registers, in offset order (Table 16-7). -/
def nvmFlds : List Fld :=
  [F.NVM_STAT_RUNNING, F.NVM_STAT_LOCK0, F.NVM_STAT_LOCK1, F.NVM_STAT_WRITING, F.NVM_STAT_JOURNAL_OPEN,
   F.NVM_STAT_LOG_FREE, F.NVM_RD_ADDR_ROW, F.NVM_RD_STAT_VALID, F.NVM_RD_STAT_PROTECTED, F.NVM_RD_STAT_CORRECTED,
   F.NVM_RD_STAT_UNCORR, F.NVM_RD_DATA_DATA, F.NVM_SCRUB_NEXT_ROW, F.NVM_UNCORR_ROW_ROW]

/-- Fields of the UPD registers, in offset order (Table 16-8). -/
def updFlds : List Fld :=
  [F.UPD_CMD_GO, F.UPD_CMD_BUSY, F.UPD_CMD_OP, F.UPD_ARG_NEXT, F.UPD_ARG_KEY, F.UPD_ARG_SLOT, F.UPD_OFFSET_OFFSET,
   F.UPD_DATA_DATA, F.UPD_STAT_STATE, F.UPD_STAT_TRIAL, F.UPD_STAT_MIGRATING, F.UPD_STAT_OVERRUN,
   F.UPD_STAT_REVERTED, F.UPD_STAT_FALLBACK, F.UPD_STAT_DAMAGED, F.UPD_STAT_STATUS, F.UPD_STAT_ROOM,
   F.UPD_SLOT_VER_IMG_VER, F.UPD_SLOT_INFO_VERIFIED, F.UPD_SLOT_INFO_PREVIOUS, F.UPD_SLOT_INFO_SET_VER,
   F.UPD_SLOT_INFO_MIRROR, F.UPD_SLOT_INFO_HO_VER, F.UPD_SECVER_FLOOR, F.UPD_TRIAL_STARTS, F.UPD_TRIAL_PROGRESS,
   F.UPD_PAUSE_SLOT_LO_SLOT, F.UPD_PAUSE_SLOT_HI_SLOT, F.UPD_TRUST_REVOKED, F.UPD_TRUST_FUSED]

/-- Fields of the UCP registers, in offset order (Table 17-3). -/
def ucpFlds : List Fld :=
  [F.UCP_STAT_HST_OK, F.UCP_STAT_UNITS, F.UCP_MAP_UNIT]

/-- Fields of the CNT registers, in offset order (Table 17-4). -/
def cntFlds : List Fld :=
  [F.CNT_CTRL_SNAP, F.CNT_CTRL_SNAP_CLR, F.CNT_CTRL_CLR_ALL, F.CNT_CTRL_HOLD, F.CNT_CTRL_MODE, F.CNT_CTRL_PERIOD,
   F.CNT_STAT_BUSY, F.CNT_STAT_PENDING, F.CNT_STAT_SEQ, F.CNT_SNAP_CT_LO_CT, F.CNT_SNAP_CT_HI_CT,
   F.CNT_SNAP_RTC_LO_RTC, F.CNT_SNAP_RTC_HI_RTC, F.CNT_SNAP_SEL_PAGE, F.CNT_SNAP_INFO_EN, F.CNT_SNAP_INFO_INSTANCE,
   F.CNT_SNAP_INFO_BLOCK, F.CNT_SNAP_C_LO, F.CNT_SNAP_C_HI]

/-- Fields of the HST registers, in offset order (Table 17-5). -/
def hstFlds : List Fld :=
  [F.HST_CFG_EN, F.HST_CFG_SRC, F.HST_CFG_OWNER, F.HST_CFG_STATION, F.HST_CFG_CLASS, F.HST_CFG_BASE,
   F.HST_FILTER_DEVICE, F.HST_FILTER_TENANTS, F.HST_FILTER_PRIV, F.HST_FILTER_TTL_REF, F.HST_STAT_SAT,
   F.HST_STAT_DISCARDED, F.HST_MAX_MAX, F.HST_COUNT_LO_COUNT, F.HST_COUNT_HI_COUNT, F.HST_SUM_LO_SUM,
   F.HST_SUM_HI_SUM, F.HST_CMD_VIEW, F.HST_CMD_CLR, F.HST_BIN_COUNT,
   F.HST_BIN1_COUNT, F.HST_BIN2_COUNT, F.HST_BIN3_COUNT]

end Sys2Proof.Machine
end

