-- ==== Sys2Proof/Machine/Pages.lean ====
section
/-! DEFINITION. What the spec fixes for each page: its address (Table 02-5, Table 02-6), the constant words of its header
(R34 to R36, R43), its power domain (Table 01-5), and which header bits it defines (R37 to R42 and each chapter). -/

set_option Elab.async false

namespace Sys2Proof.Machine

/-- The address of a page in one numbering of all BAR0s: a manager page at its manager BAR0 address (Table 02-5), a page
of tenant `t` at 0x200_0000 + `t` × 0x20_0000 + its tenant BAR0 offset (Table 02-6). -/
def pageBase : Page → Nat
  | .dev => 0x0000000
  | .pwr => 0x0001000
  | .clk => 0x0002000
  | .rst => 0x0003000
  | .thm => 0x0004000
  | .nvm => 0x0008000
  | .upd => 0x0009000
  | .hif => 0x0010000
  | .shp => 0x0011000
  | .np n => 0x0020000 + n.val * 0x1000
  | .wp w => 0x0030000 + w.val * 0x1000
  | .spx k => 0x0050000 + k.val * 0x1000
  | .sch => 0x0060000
  | .fig => 0x0061000
  | .dwl => 0x0062000
  | .cmd => 0x0063000
  | .rly => 0x0070000
  | .seen => 0x0071000
  | .rte => 0x0072000
  | .dir => 0x0073000
  | .slp => 0x0080000
  | .tnt t => 0x0090000 + t.val * 0x1000
  | .cph => 0x00A0000
  | .key => 0x00A1000
  | .ent => 0x00A2000
  | .twn => 0x00B0000
  | .hlt => 0x00B1000
  | .mon m => 0x00C0000 + m.val * 0x1000
  | .mns => 0x00C8000
  | .uart u => 0x00D0000 + u.val * 0x1000
  | .pmx => 0x00D2000
  | .cmdio => 0x00D3000
  | .cnt => 0x00E0000
  | .hst h => 0x00E1000 + h.val * 0x1000
  | .ch c => 0x0100000 + c.val * 0x1000
  | .tpage t => 0x2000000 + t.val * 0x200000
  | .dbell t => 0x2001000 + t.val * 0x200000
  | .crq t => 0x2002000 + t.val * 0x200000
  | .ucp t => 0x2008000 + t.val * 0x200000

/-- The key of a page's word in the register file. -/
def regKey (p : Page) (off : Nat) : Nat := pageBase p + off

/-- Every manager page, in ascending address order. -/
def mgrPages : List Page :=
  [.dev, .pwr, .clk, .rst, .thm, .nvm, .upd, .hif, .shp] ++ (List.finRange 12).map .np ++
  (List.finRange 4).map .wp ++ (List.finRange 7).map .spx ++
  [.sch, .fig, .dwl, .cmd, .rly, .seen, .rte, .dir, .slp] ++ (List.finRange 8).map .tnt ++
  [.cph, .key, .ent, .twn, .hlt] ++ (List.finRange 8).map .mon ++ [.mns, .uart 0, .uart 1, .pmx, .cmdio, .cnt] ++
  (List.finRange 4).map .hst ++ (List.finRange 64).map .ch

/-- The four pages of a tenant's BAR0. -/
def tenPages (t : Fin 8) : List Page := [.tpage t, .dbell t, .crq t, .ucp t]

/-- Every page of the device. -/
def allPages : List Page := mgrPages ++ (List.finRange 8).flatMap tenPages

/-- Block code (Table 02-5, Table 02-6). -/
def blockCode : Page → Nat
  | .dev => 0x0001 | .pwr => 0x0002 | .clk => 0x0003 | .rst => 0x0004 | .thm => 0x0005
  | .nvm => 0x0008 | .upd => 0x0009 | .hif => 0x0010 | .shp => 0x0011
  | .np _ => 0x0020 | .wp _ => 0x0030 | .spx _ => 0x0050
  | .sch => 0x0060 | .fig => 0x0061 | .dwl => 0x0062 | .cmd => 0x0063
  | .rly => 0x0070 | .seen => 0x0071 | .rte => 0x0072 | .dir => 0x0073 | .slp => 0x0080
  | .tnt _ => 0x0090 | .tpage _ => 0x0091 | .dbell _ => 0x0092 | .crq _ => 0x0093 | .ucp _ => 0x0094
  | .cph => 0x00A0 | .key => 0x00A1 | .ent => 0x00A2 | .twn => 0x00B0 | .hlt => 0x00B1
  | .mon _ => 0x00C0 | .mns => 0x00C1 | .uart _ => 0x00D0 | .pmx => 0x00D2 | .cmdio => 0x00D3
  | .cnt => 0x00E0 | .hst _ => 0x00E1 | .ch _ => 0x0100

/-- Instance number (R34). -/
def pageInst : Page → Nat
  | .np n => n.val | .wp w => w.val | .spx k => k.val | .tnt t => t.val | .mon m => m.val | .uart u => u.val
  | .hst h => h.val | .ch c => c.val | .tpage t => t.val | .dbell t => t.val | .crq t => t.val | .ucp t => t.val
  | _ => 0

/-- Level of a page (Table 01-4). -/
def pageLevel : Page → Nat
  | .tnt _ | .tpage _ | .dbell _ | .crq _ | .ucp _ => 0
  | .sch => 3
  | .ch _ | .fig | .dwl | .cmd => 4
  | _ => 5

/-- `PG_FEAT`: the features a page depends on as a whole (R36 and the page's chapter). -/
def pageFeat : Page → Nat
  | .wp _ => 0x5
  | .dwl => 0x800001
  | .cmd => 0x801
  | .seen => 0x41
  | .rte => 0x81
  | .slp => 0x201
  | .twn => 0x4001
  | .hst _ => 0x20001
  | .ucp _ => 0x10000
  | _ => 0x1

/-- `PG_OWNER` (R43): REACH of the functions that reach the page, and the owning tenant or 0xF. -/
def pageOwner : Page → Word
  | .tnt t => 0x00010000 ||| BitVec.ofNat 32 t.val
  | .tpage t | .dbell t | .crq t | .ucp t => BitVec.ofNat 32 (2 ^ (17 + t.val) + t.val)
  | _ => 0x0001000F

/-- `PG_IDENT` (Table 02-2). -/
def identWord (p : Page) : Word := BitVec.ofNat 32 (pageLevel p * 2 ^ 24 + pageInst p * 2 ^ 16 + blockCode p)

/-- `PG_REV` on silicon B0 (R35). -/
def revWord : Word := 0xB0000100

/-- The pages whose ENABLE is RO and reads 1 (R38). -/
def alwaysEnabled : Page → Bool
  | .dev | .pwr | .clk | .rst | .thm | .nvm | .upd | .hif | .shp | .hlt => true
  | .tnt _ | .tpage _ | .dbell _ | .crq _ | .ucp _ => true
  | _ => false

/-- The pages with `PG_CTRL.TEST_ISOLATE` (R37). -/
def hasTestIsolate : Page → Bool
  | .np _ | .wp _ | .mon _ | .uart _ | .twn => true
  | _ => false

/-- The power domain a page's block lies in (Table 01-5); the engine-wide Spindle page is taken to lie with its FFT
station. The tenant pages lie with the message service, the cipher request page included. -/
def pageDomain : Page → Nat
  | .pwr | .clk | .rst | .thm => 0
  | .uart u => if u.val = 0 then 0 else 19
  | .sch | .fig | .dwl | .cmd | .rly | .seen | .rte | .dir | .slp => 2
  | .tnt _ | .tpage _ | .dbell _ | .crq _ | .ucp _ | .cnt | .hst _ | .ch _ => 2
  | .dev | .hif | .shp => 3
  | .twn | .hlt => 4
  | .nvm | .upd => 6
  | .spx k => if k.val = 0 then 7 else if k.val ≤ 2 then 7 else if k.val = 5 then 9 else 8
  | .cph | .key | .ent => 13
  | .np n => if n.val < 6 then 14 else 15
  | .wp w => if w.val < 2 then 16 else 17
  | .mon _ | .mns | .pmx | .cmdio => 19

/-- Whether the page has faults, and with them bit 0 of its event registers (R40, R41). -/
def hasFaults : Page → Bool
  | .dbell _ | .ucp _ => false
  | _ => true

/-- The defined bits of `PG_FAULT`. -/
def faultMask : Page → Word
  | .np _ => 0x1FF
  | .wp _ => 0x1BF
  | .spx k => if k.val = 0 then 0x3 else 0xF
  | .dir | .key | .ent | .thm | .nvm | .upd => 0x7
  | .tnt _ | .tpage _ => 0xF
  | .crq _ => 0xB
  | .cph => 0x1B
  | .twn | .clk => 0xF
  | .hlt => 0x7F
  | .pwr => 0x1B
  | .dbell _ | .ucp _ => 0
  | _ => 0x3

/-- The block's own event bits [31:1] of `PG_EVENT`. -/
def blockEvents : Page → Word
  | .dev | .dbell _ | .ucp _ => 0
  | .np n => if n.val = 0 then 0x7E else 0x3E
  | .wp _ => 0x3E
  | .spx k => if k.val = 0 then 0xE else 0x1E
  | .sch => 0xFE
  | .fig => 0x6
  | .dwl => 0x2
  | .cmd => 0xE
  | .ch _ => 0x00FC003E
  | .rly => 0x7E
  | .seen => 0x6
  | .rte => 0x1E
  | .dir => 0xE
  | .slp => 0x1FE
  | .tnt _ => 0x3E
  | .tpage _ => 0x3A
  | .crq _ => 0xE
  | .cph | .key => 0x1E
  | .ent => 0x6
  | .twn => 0x7E
  | .hlt => 0x1E
  | .mon _ => 0xFC
  | .mns => 0x7E
  | .hif => 0xE
  | .shp => 0x6
  | .uart _ => 0xFE
  | .pmx | .cmdio => 0x6
  | .pwr => 0x1FE
  | .clk => 0x1E
  | .rst | .thm => 0xE
  | .nvm => 0x1E
  | .upd => 0x7E
  | .cnt => 0xE
  | .hst _ => 0x3C

/-- Every defined bit of `PG_EVENT`, FAULT [0] included where the page has faults (R40). -/
def eventMask (p : Page) : Word := blockEvents p ||| (if hasFaults p then 1 else 0)

/-- The block-specific bits of `PG_STATUS` that the page defines (R39). -/
def statusMask : Page → Word
  | .np _ | .wp _ => 0x001F0000
  | .spx k => if k.val = 0 then 0x00010000 else 0x00070000
  | .sch => 0x00010000
  | .ch _ => 0x00070000
  | .rly | .slp | .twn | .mns | .pwr | .upd => 0x00030000
  | .cph | .hlt | .thm => 0x00010000
  | .mon _ => 0x000F0000
  | _ => 0

/-- How many counters the page has (R42 and the page's chapter). -/
def nCounters : Page → Nat
  | .dev | .tpage _ | .dbell _ | .ucp _ | .hst _ => 0
  | .wp _ => 7
  | .fig | .cmdio | .clk | .thm | .crq _ => 2
  | .dwl | .cmd | .ent | .cnt => 4
  | .seen | .mns | .shp => 6
  | .pmx => 3
  | _ => 8

/-- The block-specific fields of a page (the register tables). A W-port page has the layout of NP[1] with the
differences of Table 03-6: no EXT_PA, no amplifier register, no rate bit, and the notches. -/
def pageFlds : Page → List Fld
  | .dev => devFlds
  | .pwr => pwrFlds
  | .clk => clkFlds
  | .rst => rstFlds
  | .thm => thmFlds
  | .nvm => nvmFlds
  | .upd => updFlds
  | .hif => hifFlds
  | .shp => shpFlds
  | .np n => if n.val = 0 then npFlds else npFlds.filter (fun f => decide (f.off < 0x080))
  | .wp _ => (npFlds.filter fun f => decide (f.off < 0x080) && f != F.NP_CFG_EXT_PA && f.off != 0x048
      && f != F.NP_PATH_RATE) ++ wpFlds
  | .spx k => if k.val = 0 then spxFlds else stnFlds
  | .sch => schFlds
  | .fig => figFlds
  | .dwl => dwlFlds
  | .cmd => cmdFlds
  | .rly => rlyFlds
  | .seen => seenFlds
  | .rte => rteFlds
  | .dir => dirFlds
  | .slp => slpFlds
  | .tnt _ => tntFlds
  | .cph => cphFlds
  | .key => keyFlds
  | .ent => entFlds
  | .twn => twnFlds
  | .hlt => hltFlds
  | .mon _ => monFlds
  | .mns => mnsFlds
  | .uart u => if u.val = 0 then uartFlds else uartFlds.filter fun f => f != F.UART_CFG_LP_EN && f.off != 0x04C
  | .pmx => pmxFlds
  | .cmdio => cmdioFlds
  | .cnt => cntFlds
  | .hst _ => hstFlds
  | .ch _ => chFlds
  | .tpage _ => tpageFlds
  | .dbell _ => dbFlds
  | .crq _ => crFlds
  | .ucp _ => ucpFlds

/-- The fields of one register of a page. -/
def regFlds (p : Page) (off : Nat) : List Fld := (pageFlds p).filter (·.hits off)

/-- Registers that hold reserved bits only, so that they exist and read zero (Table 03-6, Table 12-8 and Table 13-4 list
them with the access RO), and the tenant page's read-only copies (R318). -/
def zeroRegs : Page → List Nat
  | .wp _ => [0x048]
  | .hlt => [0x054]
  | .seen => [0x0B0, 0x0B4, 0x0B8, 0x0BC]
  | .fig | .clk | .thm => (List.range 12).map fun i => 0x090 + 4 * i
  | .dwl | .cmd | .cnt => (List.range 8).map fun i => 0x0A0 + 4 * i
  | .tpage _ => [0x050, 0x054, 0x058, 0x05C, 0x060, 0x064, 0x068]
  | _ => []

/-- Whether a page offset holds a counter word (R42). -/
def isCounterOff (p : Page) (off : Nat) : Bool :=
  decide (0x080 ≤ off) && decide ((off - 0x080) / 8 < nCounters p) && decide (off % 4 = 0)

/-- Whether an offset of the page holds a register: a header word, a counter, or a register of its table. Any other
offset is a reserved address (R44, R63). -/
def regExists (p : Page) (off : Nat) : Bool :=
  decide (off % 4 = 0) &&
  (decide (off < 0x030) || isCounterOff p off || (zeroRegs p).contains off ||
    (decide (0x040 ≤ off) && (pageFlds p).any (·.hits off)) ||
    (match p with
     | .ucp _ => decide (0x080 ≤ off) && decide (off < 0x0C0) || decide (0x100 ≤ off) && decide (off < 0x900)
     | _ => false))

/-- The bits of a register that are not reserved. A 1 written to any other bit is a reserved-bit violation (R63). -/
def definedBits (p : Page) (off : Nat) : Word :=
  match off with
  | 0x000 => 0x07FFFFFF
  | 0x004 => 0xFF00FFFF
  | 0x008 => 0x00FFFFFF
  | 0x00C => (if alwaysEnabled p then 1 else 3) ||| (if hasTestIsolate p then 4 else 0)
  | 0x010 => 0xF ||| statusMask p
  | 0x014 | 0x018 | 0x01C => eventMask p
  | 0x020 => faultMask p
  | 0x024 => 0xFFFFFFFF
  | 0x028 => onesAt 0 (nCounters p) ||| onesAt 16 (nCounters p)
  | 0x02C => 0x01FF000F
  | _ =>
    if isCounterOff p off then (if off % 8 = 0 then 0xFFFFFFFF else 0x0000FFFF)
    else (regFlds p off).foldl (fun a f => a ||| f.mask) 0

/-- G of a station (Table 06-1). -/
def spxG (k : Nat) : Nat := match k with | 2 => 8 | 5 => 16 | _ => 4

/-- The reset word of a register, from the reset column of its table; the rows whose reset value depends on the instance
or on the place in an array are given here. -/
def resetWord (p : Page) (off : Nat) : Word :=
  if off < 0x040 ∨ isCounterOff p off then 0 else
  match p, off with
  | .dev, 0x050 => 1
  | .dev, o =>
    if 0x0A0 ≤ o ∧ o ≤ 0x0AC then
      BitVec.ofNat 32 ((o - 0x0A0) + ((o - 0x0A0) + 1) * 2 ^ 8 + ((o - 0x0A0) + 2) * 2 ^ 16 + ((o - 0x0A0) + 3) * 2 ^ 24)
    else if 0x0C0 ≤ o ∧ o ≤ 0x0FC then
      let v := fun e => 16 + ((o - 0x0C0) + e) % 48
      BitVec.ofNat 32 (v 0 + v 1 * 2 ^ 8 + v 2 * 2 ^ 16 + v 3 * 2 ^ 24)
    else 0
  | .mon _, 0x400 => 0x1FFFF
  | .mon _, 0x600 => 0x1FFFF
  | .spx k, 0x050 => if k.val = 0 then 0 else onesAt 0 (spxG k.val)
  | .spx k, 0x058 => if k.val = 0 then 0 else BitVec.ofNat 32 (2 ^ 31 + spxG k.val)
  | .uart u, 0x054 => if u.val = 0 then 0x00300010 else 0x00C00040
  | .uart u, 0x058 => if u.val = 0 then 16 else 64
  | .wp _, 0x060 => 0x20000000
  | .wp _, 0x068 => 0x20000000
  | _, _ => (regFlds p off).foldl (fun a f => a ||| f.place f.rst) 0

end Sys2Proof.Machine
end

