-- ==== Sys2Proof/Machine/State/Core.lean ====
section
/-! DEFINITION. State that serves every page: what each reader's latch holds (R50), the PCIe functions (R410 to R414),
and what manufacture fixed. -/

set_option Elab.async false

namespace Sys2Proof.Machine

/-- The latch of one reading function (R50): the low word whose read took it, while it is still valid, and the higher
words as they stood then. -/
structure Latch where
  grp : Option Nat
  w1  : Word
  w2  : Word
  deriving DecidableEq, Repr

/-- The PCIe side of one physical function: Bus Master Enable and D3hot (R412), MSI-X Enable, which of its 64 vectors are
unmasked, and which are pending (R69). -/
structure PcieFn where
  bme      : Bool
  d3       : Bool
  msixEn   : Bool
  unmasked : Nat
  pend     : Nat
  deriving DecidableEq, Repr

/-- A function after a reset that clears its configuration space (R414): not bus master, in D0, every vector masked. -/
def PcieFn.reset : PcieFn := ⟨false, false, false, 0, 0⟩

/-- What manufacture and the board fix: the part (true: OLF-7236), the DRAM fitted in MiB, the die's `HLT_DEVID`, and the
trust store's fuses: which entries are fused and which revoked, and their digests (Table 16-7, R483). -/
structure Chip where
  is7236  : Bool
  dramMib : Nat
  devId   : Nat
  fused   : Nat
  revoked : Nat
  trust   : List Nat
  deriving DecidableEq, Repr

end Sys2Proof.Machine
end

