-- ==== Sys2Proof/Machine/State/Cipher.lean ====
section
/-! DEFINITION. The cipher engine, the key cache, the privileged store and the nonce counter (chapter 11). Keys are numbers of
up to 256 bits, most significant byte first. -/

set_option Elab.async false

namespace Sys2Proof.Machine

/-- A slot of the key cache (Table 11-3); `handle` keys a NODE slot, `used` orders slots by use, `dying` marks an UNLOAD that
waits for the lanes using the slot (with the tenant and descriptor to complete, if any), and `lost` a slot awaiting its restoration (R334). -/
structure KeySlot where
  typ    : Nat
  big    : Bool
  tag16  : Bool
  modes  : Nat
  priv   : Bool
  owner  : Nat
  use    : Nat
  kid    : Nat
  key    : Nat
  handle : Nat
  used   : Nat
  dying  : Option (Option (Nat × List Nat))
  lost   : Bool
  deriving DecidableEq, Repr

/-- An entry of the privileged store (Table 11-5); role 0 is EMPTY. -/
structure Pk where
  role : Nat
  big  : Bool
  key  : Nat
  deriving DecidableEq, Repr

/-- What a cipher lane works on: a frame's protection or a received frame's authentication, by its number, class, tenant (255 the
device) and key slot, or a tenant's direct request with its descriptor and the data it has read (AAD, then data, then any tag). -/
inductive Work where
  | frame (id cls ten key : Nat)
  | auth (id cls ten key : Nat)
  | direct (t : Nat) (desc : List Nat) (src : List Nat)
  deriving DecidableEq, Repr

/-- A request for a lane, with its age, the instant since which it has waited, its nonce once taken, and whether it has
waited for the nonce counter. -/
structure CReq where
  id    : Nat
  work  : Work
  since : Nat
  nonce : Option Nat
  held  : Bool
  deriving DecidableEq, Repr

/-- The mask generator of a bulk lane (R321): the key that the lane works under, by slot and value, the blocks since its last reseed, and
its seed. -/
structure MaskGen where
  key  : Option (Nat × Nat)
  used : Nat
  seed : Nat
  deriving DecidableEq, Repr

/-- The key store, the lanes and the nonce counter. `lanes` holds what each of lanes 0 to 23 runs; `wait` the requests that
wait, oldest first; `test` the lane under test; `next` the next of the rotation; `calls` the generate calls since the last
reseed and `passes` the retests passed in a row; `nonce` the next counter value, `limit` the end of the recorded blocks, and
`reserving` a record under way; `stamp` orders uses of slots; `busy` a command of KEY in progress; `masks` the mask
generators of lanes 0 to 23. -/
structure Cipher where
  slots  : Store KeySlot
  pk     : List Pk
  lanes  : List (Option CReq)
  wait   : List CReq
  test   : Option Nat
  next   : Nat
  calls  : Nat
  passes : Nat
  nonce  : Nat
  limit  : Nat
  reserving : Bool
  stamp  : Nat
  busy   : Bool
  masks  : List MaskGen
  deriving DecidableEq, Repr

def Cipher.reset : Cipher :=
  { slots := [], pk := List.replicate 16 ⟨0, false, 0⟩, lanes := List.replicate 24 none, wait := [], test := none, next := 0,
    calls := 0, passes := 0, nonce := 0, limit := 0, reserving := false, stamp := 0, busy := false, masks := List.replicate 24 ⟨none, 0, 0⟩ }

end Sys2Proof.Machine
end

