-- ==== Sys2Proof/Machine/State/Line.lean ====
section
/-! DEFINITION. Line ports, channels, links, templates and the Spindle (chapters 03 to 07). -/

set_option Elab.async false

namespace Sys2Proof.Machine

/-- A line port: in service in its bundle (R85, R86); whether it has left service and finishes its symbol, or has finished one at
stage 1 (R85, R94); the channel it transmits for in this slot, the corridor times between which its driver drives for it (R78) and its
amplifier is enabled (R83), and the mains cycle of its last probe's phases, while it probes (R87); consecutive detections towards each
fault of Table 03-4 with the region of the first, and what of their conditions lasts: ADC overload on every sample, the hotspot's
temperature in 0.125 °C; the corridor time of its last gain step (R141); a trip in this slot; the rest of the symbol or of the slot sent as zero (R79, R83); a W-port's active notches
in force (R98). -/
structure Port where
  inSvc    : Bool
  leaving  : Bool
  held     : Bool
  txCh     : Option Nat
  drive    : Option (Nat × Nat)
  pa       : Option (Nat × Nat)
  probe    : Option Nat
  probing  : Bool
  stuck    : Bool
  hot      : Int
  gainCt   : Option Nat
  notch    : List (Nat × Nat)
  adcRun   : Nat
  ocpRun   : Nat
  cut      : Bool
  tripRun  : Nat
  tripped  : Bool
  openRun  : Nat
  openReg  : Nat
  shortRun : Nat
  shortReg : Nat
  deriving DecidableEq, Repr

def Port.reset : Port :=
  { inSvc := false, leaving := false, held := false, txCh := none, drive := none, pa := none, probe := none, probing := false,
    stuck := false, hot := 0, gainCt := none, notch := [], adcRun := 0, ocpRun := 0, cut := false, tripRun := 0, tripped := false, openRun := 0,
    openReg := 0, shortRun := 0, shortReg := 0 }

/-- A noise template of a channel and port (R135 to R141): its slot, updates per half-cycle, its gain in 1/32 dB once
measured, whether subtraction is suspended, and the reference gain code once set. -/
structure Template where
  port : Nat
  slot : Nat
  q0   : Nat
  q1   : Nat
  gain : Option Int
  susp : Bool
  ref  : Option Nat
  deriving DecidableEq, Repr

/-- Complex values of carriers for a receive port and a transmitting port or stream. -/
structure HRow where
  rx : Nat
  tx : Nat
  h  : List (Nat × Int × Int)
  deriving DecidableEq, Repr

/-- A frame under reception on a channel: its first slot and entry type, the corridor time at which its SY1 was detected, its FC once decoded (R113), its carrier set as it began (R102), the
ports that transmit it, how many of its symbols have arrived and those that are late (R167), the weight of the soft values of symbols as a
numerator and denominator (R143), and the channel as estimated from SY2 and seam pilots by port and as precoded by stream (R134). -/
structure RxFrame where
  slot : Nat
  ty   : Nat
  at_  : Nat
  fc   : Option Nat
  set  : List Nat
  np   : Nat
  sym  : Nat
  late : List Nat
  soft : List (Nat × Nat × Nat)
  cmd  : List Nat
  est  : List HRow
  strm : List HRow
  deriving DecidableEq, Repr

/-- A transmission prepared or on air: its first slot, slots and entry type, its FC, its carrier set (R102) with the set's sub-bands and
those sent as zero (R205), its FC and data symbols and their coded bits, the frames it carries with their bytes, its peer, whether it is a
relay's that declares its full capacity (R239), the instant of a contention start as a mini-slot, and the symbols sent as
zero (R79, R92, R167). -/
structure Tx where
  slot   : Nat
  len    : Nat
  ty     : Nat
  fc     : Nat
  set    : List Nat
  mask   : Nat
  mute   : Nat
  nFc    : Nat
  nd     : Nat
  bits   : List Nat
  frames : List Nat
  bytes  : List (List Nat)
  peer   : Nat
  relay  : Bool
  mini   : Nat
  sym    : Nat
  late   : List Nat
  deriving DecidableEq, Repr

/-- A channel: the L4 settings in force (the words of 0x040 to 0x070, then 0x400 and 0x404) and those accepted that await
their boundary (R18, R172); full duplex in force, its fallback, the tests passed in a row and whether the fallback is wanted (R130 to R132); figures of this
superframe and the next as (mask, single) by entry (R202); the ledger's 32 buckets of each sub-band in µs (R204) and the airtime that the sub-band was last checked for (R205); blocks of this QUIET slot that came late, by
port (R167); the samples' powers that blanking measures the rms over, by port (R142); the canceller's taps by transmitting and receiving port (R130); noise
by region and port (R146); the sounding under reception, as its slot and, by symbol and port, what its carriers brought; the codewords
accepted of a frame, by its slot (R138), and outcomes of a frame's codewords, with their regions, whose link is not yet told (R155); the REEL slot whose encode work is reserved (R225); the WAKE frame made for a
coming down entry: its slot, its frame and whom it lists (R27, R268); precoding records that did not match
their link (R129); and the rest of its reception and contention
state. -/
structure Chan where
  live    : Option (List Word)
  next    : Option (List Word)
  stop    : Bool
  fd      : Bool
  split   : Bool
  echoRun : Nat
  fall    : Bool
  fig     : Option (List (Nat × Nat))
  figNext : Option (List (Nat × Nat))
  dwl     : List (List Nat)
  dwlAir  : List Nat
  dwlLive : Bool
  tpl     : List Template
  skipped : Nat
  lost    : List (Nat × Nat)
  blank   : List (Nat × List Nat)
  taps    : List (Nat × Nat × List (Int × Int))
  noise   : List (Nat × Nat × List (Nat × Nat))
  snd     : Option (Nat × List (Nat × HRow))
  passed  : Nat × List Nat
  cwHeld  : Nat × List (Nat × Bool)
  reserve : Option Nat
  wake    : Option (Nat × Nat × List (Nat × Bool))
  precBad : Nat
  rx      : Option RxFrame
  tx      : Option Tx
  prep    : Option Tx
  later   : Option Tx
  frozen  : Bool
  heard   : Option Nat
  won     : Option (Nat × Nat)
  ty      : Nat
  soundReq : Bool
  soundSeq : Nat
  lastSounds : List (Nat × Nat × Int × Nat)
  selAddr : Nat × Nat
  expect  : Nat
  cmdLeft : List Nat
  cmdWait : List Nat
  cmdOn   : Nat
  deriving DecidableEq, Repr

def Chan.reset : Chan :=
  { live := none, next := none, stop := false, fd := false, split := false, echoRun := 0, fall := false, fig := none,
    figNext := none, dwl := List.replicate 16 (List.replicate 32 0), dwlAir := List.replicate 16 1, dwlLive := false, tpl := [], skipped := 0, lost := [],
    blank := [], taps := [], noise := [], snd := none, passed := (0, []), cwHeld := (0, []), reserve := none, wake := none, precBad := 0, rx := none,
    tx := none, prep := none, later := none, frozen := false, heard := none, won := none, ty := 0, soundReq := false, soundSeq := 0,
    lastSounds := [], selAddr := (0, 0), expect := 0, cmdLeft := List.replicate 8 0, cmdWait := [], cmdOn := 0 }

/-- A tone map held for a link: its identifier and its place in the tone-map store (R150 to R152). -/
structure MapRef where
  id     : Nat
  block  : Nat
  blocks : Nat
  deriving DecidableEq, Repr

/-- One direction of a link: the map in force, the previous one until the superframe at which its hold ends, and the pending
one with its adoption superframe and, at the proposer, whether it was accepted. -/
structure Dir where
  cur   : Option MapRef
  prev  : Option (MapRef × Nat)
  pend  : Option (MapRef × Nat × Bool)
  score : Nat
  deriving DecidableEq, Repr

def Dir.empty : Dir := ⟨none, none, none, 0⟩

/-- A link of a channel to a peer: both directions, the peer's θ, ranged delay and clock lead (0.25 ns), the outcome of the
last codewords by region, consecutive ARQ failures, the superframe it last carried a frame, the channel by region as the last four
soundings brought it, newest first (R146), its received data symbols by region in this superframe and the last one (R148), and whether its
bundle or a notch has changed since its map was proposed, and a proposal for that is due (R153). -/
structure Link5 where
  chan   : Nat
  peer   : Nat
  rx     : Dir
  tx     : Dir
  theta  : Option Nat
  delay  : Option Int
  ofs    : Int
  cw     : List (Nat × Bool)
  fails  : Nat
  usedSf : Nat
  lastId : Nat
  echo   : Nat
  seq    : Nat
  h      : List (Nat × List (List HRow))
  syms   : List Nat
  symsLast : List Nat
  stale  : Bool
  due    : Bool
  deriving DecidableEq, Repr

/-- The kind of a Spindle job (Table 06-2, Table 06-4). -/
inductive JobKind where
  | rxSym | search | fcDecode | dataDecode | quiet | encode | txSym
  deriving DecidableEq, Repr

/-- A Spindle job: its number, station 1 to 6, kind, channel, port, symbol or codeword index, the turns it needs and has run, its deadline
in corridor time, the turn in which it became ready, the corridor time before which its input is not there (R164), jobs that must complete
before it, the lane group that runs it, the iteration limit that it started with (R162), the first slot of the reception or transmission it
belongs to, and of a data codeword its FC. -/
structure Job where
  id    : Nat
  stn   : Nat
  kind  : JobKind
  chan  : Nat
  port  : Nat
  idx   : Nat
  turns : Nat
  ran   : Nat
  due   : Nat
  since : Nat
  ready : Option Nat
  needs : List Nat
  lane  : Option Nat
  limit : Nat
  slot  : Nat
  fc    : Nat
  deriving DecidableEq, Repr

/-- A station's hidden state: the lane group under test with what brought it there, lane groups held in reserve, the next of
the rotation, a late job in this superframe, and the sums of this superframe. -/
structure Stn where
  test    : Option (Nat × Bool × Bool)
  reserve : Nat
  nextLg  : Nat
  late    : Bool
  busy    : Nat
  avail   : Nat
  started : Nat
  waitSum : Nat
  waitMax : Nat
  deriving DecidableEq, Repr

def Stn.reset : Stn := ⟨none, 0, 0, false, 0, 0, 0, 0, 0⟩

/-- The source of an admission request (R169). -/
inductive AdmSource where
  | chan (c : Nat)
  | sched
  | iter
  deriving DecidableEq, Repr

/-- The Spindle: stations, jobs, the next job's number, turns passed, those at a corridor time that a command named with that time, and the
admission requests that wait, oldest first. -/
structure Spindle where
  stns  : List Stn
  jobs  : List Job
  nextId : Nat
  turn  : Nat
  mark  : Nat × Nat
  queue : List AdmSource
  deriving DecidableEq, Repr

def Spindle.reset : Spindle := ⟨List.replicate 6 Stn.reset, [], 0, 0, (0, 0), []⟩

/-- Corridor time and the schedule beside their registers (R183 to R199): the loop's adjustments; a step that awaits its
boundary; superframes without an accepted beacon; the last superframe in which a step forbids beacons; whether a beacon has
been accepted in this superframe, from anyone and from the parent; the best other beacon accepted in it (HOP, channel, node); the
tables of a pending version with its number and start superframe, and of a staged one; the next figure index with its
superframe; the slot and superframe boundaries passed (R529); and that the superframe boundary of the slot reached is yet to come. -/
structure Sched where
  phase   : Int
  rate    : Int
  step    : Option Int
  noBeacon : Nat
  stepped : Option Nat
  heardSf : Bool
  parentSf : Bool
  best    : Option (Nat × Nat × Nat)
  pend    : Option (Nat × Nat × List (List Word))
  staged  : Option (Nat × Nat × List (List Word))
  figNext : Option (Nat × Nat)
  slotN   : Nat
  sfN     : Nat
  due     : Bool
  l4      : List Word
  deriving DecidableEq, Repr

def Sched.reset : Sched := ⟨0, 0, none, 0, none, false, false, none, none, none, none, 0, 0, false, []⟩

/-- The line side of the device. -/
structure Line where
  ports   : List Port
  drvOk   : Bool
  uv      : Bool
  chans   : List Chan
  links   : List Link5
  sched   : Sched
  spx     : Spindle
  deriving DecidableEq, Repr

def Line.reset : Line :=
  ⟨List.replicate 16 Port.reset, false, false, List.replicate 64 Chan.reset, [], Sched.reset, Spindle.reset⟩

end Sys2Proof.Machine
end

