-- ==== Sys2Proof/Machine/State/Net.lean ====
section
/-! DEFINITION. The message service, link ARQ, reel flooding and routing (chapters 08 and 10), and the sleeping node
(chapter 09). Bytes are natural numbers below 256. -/

set_option Elab.async false

namespace Sys2Proof.Machine

/-- What a frame that awaits transmission is: a segment of message `m` at an offset, a device frame, or a frame that the node
forwards. -/
inductive FrameKind where
  | seg (m off : Nat)
  | dev
  | fwd
  deriving DecidableEq, Repr

/-- Where a frame stands: it has no path, its key is awaited, a lane protects it, it awaits placement, it is placed for a slot, or it has been
sent in a transmission that ended in a slot and awaits its acknowledgement (R298). -/
inductive FrameSt where
  | path
  | key
  | enc
  | ready
  | placed (slot : Nat)
  | sent (slot : Nat)
  deriving DecidableEq, Repr

/-- A frame in the device's hands: its number, what it is, its mode of sending (0: R243; 1: a flood is asked for; 2: never a
flood; 3: acknowledgement, on its own link), its header and payload in clear with the tenant and key slot that protect it, and
the handle of a node key, its bytes once protected, the path it takes (channel, peer, diversity mode), the slot in which it became ready,
transmissions so far, its link sequence once placed, one-hop copies still to be sent by channel, the superframe boundary since which it has
had no route, and whether it acts as acknowledgement that goes first in its class. -/
structure Frame where
  id     : Nat
  kind   : FrameKind
  mode   : Nat
  hdr    : List Nat
  plain  : List Nat
  tenant : Nat
  key    : Nat
  handle : Nat
  bytes  : List Nat
  path   : Option (Nat × Nat × Nat)
  st     : FrameSt
  since  : Nat
  tries  : Nat
  lseq   : Option Nat
  copies : List Nat
  noRoute : Option Nat
  front  : Bool
  deriving DecidableEq, Repr

/-- An accepted SEND until its final completion (R26, R291): its descriptor's fields, its number, the superframe boundary of
its acceptance, its payload once read, the offsets of segments not yet handed on, whether its payload read is under way, the
boundary at which its last segment was handed on, the instant of its acceptance, and whether a segment has been sent. -/
structure Msg where
  id     : Nat
  tenant : Nat
  q      : Nat
  tag    : Nat
  dst    : Nat
  svc    : Nat
  prio   : Nat
  ttl    : Nat
  len    : Nat
  key    : Nat
  e2e    : Bool
  flood  : Bool
  inl    : Option (List Nat)
  qmem   : Bool
  addr   : Nat
  no     : Nat
  sf     : Nat
  data   : Option (List Nat)
  left   : List Nat
  cut    : Bool
  handed : Option Nat
  at_    : Nat
  sent   : Bool
  deriving DecidableEq, Repr

/-- A posted receive buffer (R292). -/
structure Buf where
  id   : Nat
  q    : Nat
  tag  : Nat
  len  : Nat
  addr : Nat
  qmem : Bool
  deriving DecidableEq, Repr

/-- A NOP that waits for the descriptors accepted before it. -/
structure Fence where
  id  : Nat
  q   : Nat
  tag : Nat
  deriving DecidableEq, Repr

/-- A completion in its reserved record (R289): its number, its queue pair (8: the cipher ring), its bytes before PHASE, SQ_HEAD
and CT, whether SQ_HEAD is filled in, how many descriptors it releases from INFLIGHT, and whether its mirror is
acknowledged (R369). -/
structure Comp where
  id    : Nat
  q     : Nat
  bytes : List Nat
  head  : Bool
  covers : Nat
  mir   : Bool
  deriving DecidableEq, Repr

/-- A message under reassembly (R301): its source, service, class and number, whether it is a device message, its segments, the length once known, the
superframe boundary of its first segment, and what its frames carried. -/
structure Reasm where
  src   : Nat
  svc   : Nat
  prio  : Nat
  no    : Nat
  dev   : Bool
  dst   : Nat
  e2e   : Bool
  keysel : Nat
  segs  : List (Nat × List Nat)
  total : Option Nat
  sf    : Nat
  deriving DecidableEq, Repr

/-- A reassembled message of a tenant: waiting for lower numbers (`ordered` false, R304) or in the delivery queue (R305);
`sf` is when it began to wait for order, `at_` the end of its last symbol. -/
structure Waiting where
  id    : Nat
  q     : Nat
  src   : Nat
  svc   : Nat
  prio  : Nat
  no    : Nat
  e2e   : Bool
  data  : List Nat
  sf    : Nat
  at_   : Nat
  ordered : Bool
  queued : Bool
  spilled : Bool
  bad   : Bool
  deriving DecidableEq, Repr

/-- A delivery being written to the host: the message, the buffers it has taken, and whether its mirror is acknowledged. -/
structure Delivery where
  msg  : Waiting
  bufs : List Buf
  mir  : Bool
  deriving DecidableEq, Repr

/-- A tenant's queues beside its rings' registers: the accepted tail of each SQ, INFLIGHT, SQs whose fetches have faulted,
messages, buffers, fences, reserved completions in order, the queue pairs in whose favour the rotation stands, messages
waiting, a delivery under way, the pressure signal, the airtime shares and remainders by channel (R307), over-quota bits as
last seen, that a tenant reset's slot boundary is awaited, and the cipher ring's accepted tail and accepted requests that
await their data. -/
structure Tenant where
  acc    : List Nat
  inflight : Nat
  msgs   : List Msg
  bufs   : List Buf
  fences : List Fence
  comps  : List Comp
  rot    : Nat
  waits  : List Waiting
  deliv  : Option Delivery
  press  : Bool
  air    : List (Nat × Int)
  oq     : Nat
  drain  : Bool
  crAcc  : Nat
  creqs  : List (Nat × List Nat)
  deriving DecidableEq, Repr

def Tenant.reset : Tenant :=
  { acc := List.replicate 8 0, inflight := 0, msgs := [], bufs := [], fences := [], comps := [], rot := 0, waits := [],
    deliv := none, press := false, air := List.replicate 64 (1000, 0), oq := 44, drain := false, crAcc := 0, creqs := [] }

/-- An entry of the duplicate filter (R303), with the highest number delivered (R304). -/
structure Dup where
  src  : Nat
  svc  : Nat
  prio : Nat
  base : Nat
  map  : Nat
  used : Nat
  usedSf : Nat
  top  : Option Nat
  deriving DecidableEq, Repr

/-- Link ARQ of one channel and peer (R226, R227, R244, R298): the next LSEQ sent, LSEQs accepted (newest first), the next
LSEQ expected, frames held behind a gap with the slot boundary since when, sequences to acknowledge with their classes, frames
that failed ARQ in a row, whether the peer was heard in this and the last superframe, superframes of silence, whether the
link is down, and whether every frame of it so far came in a diversity mode (R247). -/
structure Arq where
  chan  : Nat
  peer  : Nat
  out   : Nat
  win   : List Nat
  next  : Option Nat
  held  : List (Nat × MacRx × Nat)
  acks  : List (Nat × Nat)
  fails : Nat
  heard : Bool
  prev  : Bool
  quiet : Nat
  down  : Bool
  divOnly : Bool
  deriving DecidableEq, Repr

/-- The states of Table 08-2. -/
inductive FloodSt where
  | heard | eligible | sent | fallback | done
  deriving DecidableEq, Repr

/-- An entry of the seen cache with its flood (R234, Table 08-2): age in slots, first decode, the frame as it is sent on,
channels on which it is still to be sent, REEL entries heard since it was sent, the frame of an originated flood, that an
acknowledgement was heard, that its mirror is acknowledged (R369), and the fallback copies outstanding. -/
structure Flood where
  src   : Nat
  seq   : Nat
  epoch : Nat
  st    : FloodSt
  ttl   : Nat
  age   : Nat
  prio  : Nat
  first : Nat
  bytes : List Nat
  left  : List Nat
  waited : Nat
  seg   : Option Nat
  acked : Bool
  mir   : Bool
  copies : List Nat
  deriving DecidableEq, Repr

/-- A routing entry (R241). -/
structure Route where
  idx    : Nat
  pre    : Nat
  len    : Nat
  next   : Nat
  chan   : Nat
  alt    : Nat
  altCh  : Nat
  altDiv : Nat
  metric : Nat
  hop    : Nat
  age    : Nat
  fixed  : Bool
  neigh  : Bool
  stale  : Bool
  down   : Bool
  deriving DecidableEq, Repr

/-- A received frame whose authentication is requested: its number, the frame, the instant of its transmission's first sample where
it is a WAKE frame, and its key slot (R337, R340). -/
structure AuthRx where
  id   : Nat
  rx   : MacRx
  wake : Option Nat
  key  : Nat
  deriving DecidableEq, Repr

/-- The network side: the next number of a frame, message or buffer; frames; reassembly; the duplicate filter; link ARQ; the
seen cache; the next FLOOD_SEQ; the routing table; where the next advertisement continues and when it is due; the DIR entries
cached on chip, most recently used first (R251), nodes whose entries are fetched from DRAM, and the DIR command in progress (operation, node, owner); the message-number counters by service ×
4 + class, with the blocks recorded; the tenant whose turn it is to have a descriptor fetched and the fetch under way; the
epoch left at the last merge; received frames that wait for a key; received frames whose authentication waits for a lane or is on
one; frames dropped by the checks of R218 before authentication; frames overheard (R224), messages for an unbound service (R302) and
frames that found the duplicate filter full (R303); the node that a fetch from DRAM has just found to have no entry (R251); and
whether the actions of R255 are complete. -/
structure Net where
  nextId : Nat
  frames : List Frame
  reasm  : List Reasm
  dups   : List Dup
  arq    : List Arq
  floods : List Flood
  floodSeq : Nat
  routes : List Route
  advFrom : Nat
  advDue : Nat
  advSoon : Bool
  cached : List Nat
  dirWait : List Nat
  dirCmd : Option (Nat × Nat × Nat)
  nums   : Store Nat
  numRes : Store Nat
  rotT   : Nat
  fetch  : Option (Nat × Nat × Nat)
  oldEpoch : Nat
  claim  : Nat
  inLimit : Bool
  rxKeys : List MacRx
  auths  : List AuthRx
  macBad : Nat
  overheard : Nat
  unbound : Nat
  dupFull : Nat
  dirNone : Option Nat
  tenants : List Tenant
  deriving DecidableEq, Repr

def Net.reset : Net :=
  { nextId := 1, frames := [], reasm := [], dups := [], arq := [], floods := [], floodSeq := 0, routes := [], advFrom := 0,
    advDue := 0, advSoon := false, cached := [], dirWait := [], dirCmd := none, nums := [], numRes := [], rotT := 0,
    fetch := none, oldEpoch := 0, claim := 0, inLimit := true, rxKeys := [], auths := [], macBad := 0
    overheard := 0, unbound := 0, dupFull := 0, dirNone := none, tenants := List.replicate 8 Tenant.reset }

/-- The parameters of a rendezvous (R264, R266). -/
structure Rend where
  parent : Nat
  group  : Nat
  plog   : Nat
  phase  : Nat
  gg     : Bool
  deriving DecidableEq, Repr

/-- A sleeper and a parent of sleepers (chapter 09). Of a sleeper: the parameters in force; those of an announcement not yet
acknowledged, with the number of its frame; its place in the last WAKE frame, with DATA and the up entry's slot; the stay's idle
slots and superframes, with whether a frame passed in this slot; the superframe boundary (R529) at which an adrift listen or wait
ends; whether the rendezvous under way has had its contact; that ADRIFT has been set in this episode; the energy account in
µW·ns and whether BUDGET has been set in this window; the partner's drift bound once a WAKE frame has been decoded; and that it
has returned from adrift and its announcement is awaited. Of a parent: the open answer windows (channel, up-entry slot, and by
window the sleeper with DATA), and its sleepers that are awake. -/
structure Sleep where
  rend   : Option Rend
  ann    : Option (Nat × Rend)
  listed : Option (Nat × Bool × Nat)
  stay   : Option (Nat × Nat)
  moved  : Bool
  left   : Nat
  held   : Bool
  adrift : Bool
  energy : Nat
  overspent : Bool
  partner : Option Nat
  back   : Bool
  answers : List (Nat × Nat × List (Nat × Nat × Bool))
  awake  : List Nat
  deriving DecidableEq, Repr

def Sleep.reset : Sleep :=
  { rend := none, ann := none, listed := none, stay := none, moved := false, left := 0, held := false, adrift := false,
    energy := 0, overspent := false, partner := none, back := false, answers := [], awake := [] }

end Sys2Proof.Machine
end

