-- ==== Sys2Proof/Syntax/Mirror.lean ====
section
/-! DEFINITION. What the twin link brings: heartbeats (R371) and mirror records (Table 12-5). -/

set_option Elab.async false

namespace Sys2Proof

/-- What a heartbeat carries (R371, Table 12-5): the state and whether the sender
serves; CT with the boundaries passed (R529); the last mirror sequence
applied; the mirror protocol version; the configuration digest; what the election compares (R367); whether the sender has TWN
isolated (R360); and epoch, root, parent, hop count and slot length. -/
structure Beat where
  state  : Nat
  serving : Bool
  ct     : Nat
  slotN  : Nat
  sfN    : Nat
  seq    : Nat
  proto  : Nat
  digest : Nat
  devId  : Nat
  pref   : Bool
  iso    : Bool
  epoch  : Nat
  root   : Nat
  prio   : Nat
  prov   : Bool
  parentCh : Nat
  parent : Nat
  hop    : Nat
  slotNs : Nat
  deriving DecidableEq, Repr

open Machine

/-- A mirror record, by the rows of Table 12-5: a schedule version, in force or pending from a superframe; the figure index; a seen-cache
entry, or its removal; a link's tone maps with the words of the tone-map store; impedance words; a route, or its removal; bytes of
the directory; words of a tenant's pages; a tenant's rings, messages and deliveries; frames, reassembly, filter and link ARQ;
reservations of message numbers and of nonces; a tenant key slot with its key wrapped; a channel's canceller taps; and the
announcement of a swap (R376) or of a resynchronisation (R367). -/
inductive Mirror where
  | version (ver sf : Nat) (tables : List (List Word)) (inForce : Bool)
  | figIdx (i : Nat)
  | flood (x : Flood)
  | floodGone (src seq epoch : Nat)
  | link (l : Link5) (words : List (Nat × Nat))
  | impedance (words : List (Nat × Nat))
  | route (idx : Nat) (r : Option Route)
  | dir (addr : Nat) (bytes : List Nat)
  | regs (l : List (Page × Nat × Word))
  | tenant (t : Fin 8) (x : Tenant)
  | service (nextId floodSeq : Nat) (frames : List Frame) (reasm : List Reasm) (dups : List Dup) (arq : List Arq)
  | numbers (key limit : Nat)
  | nonces (limit : Nat)
  | keySlot (k : Nat) (x : KeySlot) (wrapped : List Nat)
  | taps (c : Fin 64) (l : List (Nat × Nat × List (Int × Int)))
  | swapAt (sf : Nat)
  | resync
  deriving DecidableEq, Repr

end Sys2Proof
end

