-- ==== Sys2Proof/Syntax.lean ====
section
/-! DEFINITION. The commands of the block, one constructor for each row of the table of operations and events. Operands are
what comes from outside: the written word, the received frame, the sample, the outcome of a measurement. -/

set_option Elab.async false

namespace Sys2Proof

/-- A command of the OLF-7236 (opcode_table.json, row by row). -/
inductive Instr where
  /-- WRITE_REGISTER (R52): A word write to a register that has no row of its own acts on each field by its access type. -/
  | writeRegister (q : Req) (l : Loc) (e : AccEnv)
  /-- PAIRED_LOW_READ (R50): A read of the low word of a slot or paired register latches the higher word or words for the reading function. -/
  | pairedLowRead (q : RdReq) (l : Loc) (bad : Bool)
  /-- PAIRED_HIGH_READ (R50): A read of a higher word returns the latch if the function's previous access was the matching low-word read, and the current content otherwise. -/
  | pairedHighRead (q : RdReq) (l : Loc) (bad : Bool)
  /-- ENABLE_SET (R37): Setting PG_CTRL.ENABLE lets the block take work from its next boundary, and is an admission request on a CH page. -/
  | enableSet (q : Req) (p : Page)
  /-- ENABLE_CLEAR (R37): Clearing PG_CTRL.ENABLE stops new work and finishes work in flight at the block's boundary. -/
  | enableClear (q : Req) (p : Page)
  /-- QUIESCENT (R37): The block's work in flight ends after ENABLE clears, and PG_STATUS.QUIESCENT reads 1. -/
  | quiescent (p : Page)
  /-- SRESET (R37): Writing PG_CTRL.SRESET returns the block to reset values and abandons work in flight. -/
  | sreset (q : Req) (p : Page)
  /-- SOFT_RESET_DONE (R37): The soft reset finishes within 2 us and PG_STATUS.READY returns. -/
  | softResetDone (p : Page)
  /-- TEST_ISOLATE (R358): Setting or clearing TEST_ISOLATE takes the block out of service for its isolated test, or returns it and abandons a running test. -/
  | testIsolate (q : Req) (p : Page)
  /-- ISOLATED_TEST_DONE (R358): An isolated block test ends, its outcome is recorded in HLT_TEST_LAST and a failure sets INTERNAL. -/
  | isolatedTestDone (p : Page) (pass : Bool)
  /-- PG_EVENT_CLEAR (R40): A 1 written to PG_EVENT clears event bits, and a still-asserted vector sends its MSI-X message again. -/
  | pgEventClear (q : Req) (p : Page)
  /-- PG_EVENT_EN_WRITE (R69): A write to PG_EVENT_EN changes the event bits that take part in aggregation and can send an MSI-X message. -/
  | pgEventEnWrite (q : Req) (p : Page)
  /-- PG_EVENT_SET (R40): A 1 written to PG_EVENT_SET sets the event bit as its condition would. -/
  | pgEventSet (q : Req) (p : Page)
  /-- MSIX_UNMASK (R69): Unmasking a vector whose pending bit is set sends its message. -/
  | msixUnmask (fn : Fin 9) (vec : Fin 64) (mask : Bool)
  /-- PG_FAULT_CLEAR (R41): A 1 written to PG_FAULT clears sticky fault bits, and PG_FAULT_INFO reads zero once all are clear. -/
  | pgFaultClear (q : Req) (p : Page)
  /-- CNT_CLR (R42): A 1 written to a CLR bit of PG_CNT_CTRL zeroes that counter. -/
  | cntClr (q : Req) (p : Page)
  /-- EVENT_ROUTE_CHANGE (R71): A write to DEV_EVT_VEC or DEV_EVT_CHVEC moves a pending page's asserted state to the new vector at once. -/
  | eventRouteChange (q : Req) (k : Fin 20)
  /-- FEAT_ACCEPT_WRITE (R57): A write to DEV_FEAT_ACCEPT sets the accepted features before the lock and clears REFUSED. -/
  | featAcceptWrite (q : Req) (k : Fin 4)
  /-- FEAT_LOCK (R58): A write of DEV_FEAT_LOCK.LOCK locks the accepted set, or is refused and sets REFUSED. -/
  | featLock (q : Req)
  /-- VIOL_CLR (R65): A write of DEV_VIOL_CLR zeroes the violation count and record and re-arms the record. -/
  | violClr (q : Req)
  /-- SLOT_BOUNDARY (R183): A slot boundary of corridor time starts the next slot of every channel schedule. -/
  | slotBoundary (x : SlotIn)
  /-- SYMBOL_BOUNDARY (R92): At a symbol boundary the per-channel digital gain is recomputed against the drive budget. -/
  | symbolBoundary (c : Fin 64) (frac : Nat) (tx : Bool) (loads : List PortLoad) (rx : List RxPort)
  /-- SUPERFRAME_BOUNDARY (R196): A superframe boundary starts a new 64-slot superframe. -/
  | superframeBoundary (x : SfIn)
  /-- SY1_DETECT (R104): SY1 is detected within the receive window and the receive gain freezes to the end of the frame. -/
  | sy1Detect (c : Fin 64) (frac : Nat) (np : Fin 4)
  /-- VDRV_SET (R81): A write of NP_VDRV sets the VDRV setpoint, clamped to range, which slews at 1 V/ms. -/
  | vdrvSet (q : Req)
  /-- VDRV_SETTLED (R81): VDRV has been within 5 % of its setpoint for 1 ms, and the drivers may leave high impedance. -/
  | vdrvSettled (meas : Nat)
  /-- VDRV_UV (R95): VDRV below 90 % of setpoint for 100 us puts every driver at high impedance and sets VDRV_UV. -/
  | vdrvUv (meas : Nat)
  /-- LEDGER_CAP_WRITE (R89): A write of NP_LEDGER_CAP sets the ledger cap, clamped by HS_RATED, acting from the next symbol boundary. -/
  | ledgerCapWrite (q : Req)
  /-- SHARE_WRITE (R93): A write of CH_SHARE changes the channel's drive budget share from the next symbol boundary. -/
  | shareWrite (q : Req) (c : Fin 64)
  /-- DRV_CURRENT_LIMIT (R79): The driver current limit stays active more than 10 us in a symbol, and the rest of the symbol is sent as zero. -/
  | drvCurrentLimit (p : Fin 16)
  /-- PA_TRIP (R83): The EXT_PA sense voltage exceeds ILIM, NnPA is released and the rest of the slot is not sent. -/
  | paTrip (p : Fin 12) (mv : Nat)
  /-- DRV_THERMAL (R95): A driver hotspot sensor above 155 C puts the driver at high impedance and removes the port. -/
  | drvThermal (p : Fin 16) (temp : Int)
  /-- FC_DECODE (R113): A received frame control is checked and the frame is kept or dropped. -/
  | fcDecode (c : Fin 64) (bits iters : Nat) (parity : List Nat)
  /-- DECODE_DONE (R163): A codeword reaches a zero syndrome or its iteration limit and is accepted or reported failed to ARQ. -/
  | decodeDone (c : Fin 64) (k iters : Nat) (info parity : List Nat) (resid : List (Nat × Samples)) (cells : List CellObs)
  /-- SOUNDING_RX (R146): A received sounding updates per-region channel estimates and ranging. -/
  | soundingRx (c : Fin 64) (x : Sounding)
  /-- PROPOSE_NOW (R156): A write of CH_PROPOSE.NOW proposes a map for the selected link at once. -/
  | proposeNow (q : Req) (c : Fin 64)
  /-- SOUND_REQUEST (R156): A write of CH_PROPOSE.SOUND requests sounding of the selected link in the next SOUND slot. -/
  | soundRequest (q : Req) (c : Fin 64)
  /-- LINK_SELECT (R156): A write of CH_LINK_SEL copies the selected link's status and quality coherently. -/
  | linkSelect (q : Req) (c : Fin 64)
  /-- TMAP_PROPOSAL_RX (R154): A transmitter receives a proposal and stores it and reports ACCEPTED, or reports REJECTED or IN_FORCE. -/
  | tmapProposalRx (c : Fin 64) (p : Proposal)
  /-- TMAP_STATUS_RX (R154): A proposer receives a status report, and frees the pending map on REJECTED. -/
  | tmapStatusRx (c : Fin 64) (peer id boundary outcome : Nat)
  /-- TURN_BOUNDARY (R165): At each turn boundary each free lane group starts the ready job with the earliest deadline. -/
  | turnBoundary
  /-- SPINDLE_JOB_DONE (R160): A Spindle job completes and its successor job becomes ready. -/
  | spindleJobDone (id : Nat)
  /-- JOB_DEADLINE (R167): A job's deadline passes unfinished, and it is dropped, stopped or its symbol sent as zero. -/
  | jobDeadline (id : Nat) (ok : Bool)
  /-- DEC_ITER_WRITE (R162): A write of SPX_DEC_ITER.LIMIT makes an admission request for the iteration limit. -/
  | decIterWrite (q : Req)
  /-- ADMISSION_DONE (R172): An admission request finishes evaluation and is accepted or refused with a reason. -/
  | admissionDone
  /-- LG_TEST_PERIOD (R175): The rotating test period expires and the spare takes over the next lane group for test. -/
  | lgTestPeriod (k : Fin 6)
  /-- LG_TEST_START (R176): A write of SPX_STN_TEST.START tests the named lane group. -/
  | lgTestStart (q : Req) (k : Fin 6)
  /-- LG_TEST_DONE (R175): A lane group's 2,048-turn test ends and it becomes the spare or is retired. -/
  | lgTestDone (k : Fin 6) (pass : Bool)
  /-- LG_SELF_CHECK_FAIL (R177): A lane group fails a self-check during a job, is retired and its job restarts. -/
  | lgSelfCheckFail (k : Fin 6) (lg : Nat)
  /-- BEACON_RX (R195): A received beacon is accepted or rejected, and an accepted one disciplines corridor time and parent choice. -/
  | beaconRx (c : Fin 64) (x : BeaconIn)
  /-- SYNC_LOST (R186): No beacon for BCN_LOSS superframes sets SYNC_LOST. -/
  | syncLost
  /-- SCHED_STAGE_GO (R199): A write of SCH_STAGE.GO stages a schedule version as an admission request. -/
  | schedStageGo (q : Req)
  /-- FIG_NEXT_GO (R201): A write of FIG_NEXT.GO at the root schedules the change of seed index at FIG_NEXT_SF. -/
  | figNextGo (q : Req)
  /-- DWL_BUCKET (R204): A dwell ledger bucket period expires and the window slides. -/
  | dwlBucket (p : Fin 8)
  /-- PRIORITY_WINDOW (R207): A CONTEND priority window opens and nodes of that class send a burst if none higher was heard. -/
  | priorityWindow (c : Fin 64) (i : Fin 4)
  /-- PRIORITY_BURST_RX (R208): A priority burst of a higher class is heard and the node defers. -/
  | priorityBurstRx (c : Fin 64) (i : Fin 4) (level : Nat)
  /-- BACKOFF_MINISLOT (R207): A backoff mini-slot arrives and a winning node that drew it transmits unless SY1 was detected. -/
  | backoffMinislot (c : Fin 64) (k : Fin 8)
  /-- CMD_COPY_SEND (R211): A command symbol copy is sent on the transmit channel after a trigger or repeat. -/
  | cmdCopySend (c : Fin 64) (overlap : List Nat)
  /-- CMD_REPEAT (R211): REPEAT symbols pass while the trigger persists and a further copy is due. -/
  | cmdRepeat (i : Fin 8) (persist : Bool)
  /-- CMD_DETECT (R212): The command detector correlates every 32 samples and detects a line, asserting CMD_OUT. -/
  | cmdDetect (c : Fin 64) (lines rho : Nat) (overlap : List Nat)
  /-- MAC_FRAME_RX (R224): A decoded MAC frame is checked and delivered, relayed, forwarded or dropped. -/
  | macFrameRx (r : MacRx) (rx : Nat)
  /-- SEEN_AGE_EXPIRE (R234): A seen-cache entry in HEARD or DONE exceeds its age and is removed. -/
  | seenAgeExpire (src : Nat) (seq : Nat) (epoch : Nat)
  /-- REEL_ACK_TIMEOUT (R236): ACK_SLOTS REEL entries pass without an implicit acknowledgement. -/
  | reelAckTimeout (src : Nat) (seq : Nat) (epoch : Nat)
  /-- FWD_HOLD_EXPIRE (R240): A queued frame without a route for HOLD_SF superframes is dropped. -/
  | fwdHoldExpire (id : Nat)
  /-- ROUTE_ADV_TIMER (R246): ADV_SF superframes pass and the node sends a route advertisement. -/
  | routeAdvTimer
  /-- ROUTE_ADV_RX (R246): A received route advertisement installs, replaces or removes dynamic entries. -/
  | routeAdvRx (c : Fin 64) (src : Nat) (d : List Nat)
  /-- ROUTE_EXPIRE (R242): A dynamic routing entry's age exceeds EXPIRE and it is removed. -/
  | routeExpire (i : Fin 16384)
  /-- LINK_DOWN (R244): A link goes down on bundle loss, ARQ failure or LOSS_SF silence, and PRI_DOWN sets. -/
  | linkDown (c : Fin 64) (peer : Nat)
  /-- RTE_READ (R258): RTE_CMD OP READ copies an entry to RTE_E0-E4. -/
  | rteRead (q : Req)
  /-- RTE_WRITE (R258): RTE_CMD OP WRITE writes a static routing entry. -/
  | rteWrite (q : Req)
  /-- RTE_DELETE (R258): RTE_CMD OP DELETE removes an entry. -/
  | rteDelete (q : Req)
  /-- RTE_LOOKUP (R258): RTE_CMD OP LOOKUP runs a longest-prefix lookup. -/
  | rteLookup (q : Req)
  /-- RTE_FLUSH (R258): RTE_CMD OP FLUSH removes every dynamic entry. -/
  | rteFlush (q : Req)
  /-- SEEN_FLUSH (R257): A write of SEEN_FLUSH.ALL removes every seen-cache entry. -/
  | seenFlush (q : Req)
  /-- SEEN_QUERY (R257): A write of SEEN_Q_KEY.GO copies the entry for the queried flood ID. -/
  | seenQuery (q : Req)
  /-- DIR_LOOKUP (R250): DIR_CMD OP LOOKUP looks up a node in the directory. -/
  | dirLookup (q : Req)
  /-- DIR_INSERT (R250): DIR_CMD OP INSERT makes a static directory entry. -/
  | dirInsert (q : Req)
  /-- DIR_DELETE (R250): DIR_CMD OP DELETE removes a directory entry. -/
  | dirDelete (q : Req)
  /-- MERGE_NOW (R259): DIR_CMD OP MERGE_NOW sends the directory deltas for the previous epoch. -/
  | mergeNow (q : Req)
  /-- DIR_DRAM_FETCH_DONE (R251): A directory lookup that waited for DRAM completes its fetch. -/
  | dirDramFetchDone (x : Nat) (ok : Bool)
  /-- CLAIM_WAIT_EXPIRE (R254): The claim wait ends in LOST and a node with CLAIM_EN becomes provisional root. -/
  | claimWaitExpire
  /-- DIR_MERGE_RX (R255): Received merge entries are merged one by one into the directory. -/
  | dirMergeRx (d : List Nat)
  /-- SLEEP_TIMER_WAKE (R277): The sleep timer wakes the device ahead of a rendezvous window. -/
  | sleepTimerWake
  /-- WAKE_COMPLETE (R277): The wake from SLUMBER completes with clocks locked and the port ready. -/
  | wakeComplete (slots frac edges : Nat)
  /-- WAKE_RX (R271): A sleeper decodes its parent's WAKE frame and answers or returns to SLUMBER. -/
  | wakeRx (c : Fin 64) (src rx : Nat) (d : List Nat)
  /-- ANSWER_BURST (R269): A listed sleeper sends an ALIVE or ALIVE_UP burst at its position. -/
  | answerBurst
  /-- ANSWER_WINDOW_END (R270): A parent's answer window ends and it records an answer or a miss. -/
  | answerWindowEnd (c : Fin 64) (k : Fin 8) (alive aliveUp : Nat)
  /-- RENDEZVOUS_MISS (R278): A sleeper's receive window closes with no contact and it counts a miss or goes adrift. -/
  | rendezvousMiss
  /-- STAY_END (R271): STAY idle slots or STAY_MAX superframes pass and the sleeper returns to SLUMBER. -/
  | stayEnd
  /-- ADRIFT_LISTEN_END (R278): An adrift listen of one superframe ends without contact and ADRIFT_WAIT begins. -/
  | adriftListenEnd
  /-- ADRIFT_WAIT_END (R278): 2^a superframes of ADRIFT_WAIT pass and a listen begins or is skipped for energy. -/
  | adriftWaitEnd
  /-- ANNOUNCE_NOW (R266): A write of SLP_ANNOUNCE.NOW sends a sleep announcement. -/
  | announceNow (q : Req)
  /-- SLEEP_ANNOUNCE_RX (R267): A parent delivers a sleep announcement and updates the sleeper's directory entry. -/
  | sleepAnnounceRx (src : Nat) (d : List Nat)
  /-- ENERGY_WINDOW_END (R280): The energy window ends and the account returns to zero. -/
  | energyWindowEnd
  /-- DB_SQ_WRITE (R287): A write of DB_SQ advances the SQ tail if within room, or is a kind-5 violation. -/
  | dbSqWrite (q : Req) (t : Fin 8) (k : Fin 8)
  /-- DB_CQ_WRITE (R289): A write of DB_CQ consumes CQ entries and releases held completions. -/
  | dbCqWrite (q : Req) (t : Fin 8) (k : Fin 8)
  /-- RING_ENABLE (R286): Setting a ring's EN enables it at head and tail 0, or is refused. -/
  | ringEnable (q : Req) (t : Fin 8) (k : Fin 9) (cq : Bool)
  /-- SQ_DISABLE (R288): Clearing an SQ's EN stops fetches and releases unfetched descriptors. -/
  | sqDisable (q : Req) (t : Fin 8) (k : Fin 9)
  /-- CQ_DISABLE (R289): Clearing a CQ's EN holds later completions in their reserved records. -/
  | cqDisable (q : Req) (t : Fin 8) (k : Fin 9)
  /-- DESC_FETCH_DONE (R288): A fetched descriptor is accepted and checked, or a failed fetch faults the SQ. -/
  | descFetchDone (o : Fetched)
  /-- PAYLOAD_READ_DONE (R297): A SEND's payload read completes and it is segmented into frames. -/
  | payloadReadDone (t : Fin 8) (id : Nat) (r : Fetched)
  /-- COMPLETION_WRITE_DONE (R289): A completion write to host memory completes or fails and the CQ tail advances. -/
  | completionWriteDone (t : Fin 8) (q : Fin 9) (ok : Bool)
  /-- ACK_RX (R298): A received ACK marks link frames acknowledged. -/
  | ackRx (c : Fin 64) (peer : Nat) (recs : List (Nat × Nat × Nat))
  /-- LSEQ_GAP_EXPIRE (R298): A frame held behind a missing LSEQ for WAIT x (RETRY+1) slots is passed on. -/
  | lseqGapExpire (c : Fin 64) (peer : Nat)
  /-- E2E_TIMEOUT (R299): No confirmation within E2E_SF superframes and the message is sent again. -/
  | e2eTimeout (t : Fin 8) (id : Nat)
  /-- HOLD_LIMIT_EXPIRE (R299): A message reaches its hold limit and is withdrawn or completes UNCONFIRMED. -/
  | holdLimitExpire (t : Fin 8) (id : Nat)
  /-- CONFIRMATION_RX (R300): A received confirmation gives the SEND its final completion. -/
  | confirmationRx (src : Nat) (recs : List (Nat × Nat × Nat))
  /-- REASM_TIMEOUT (R301): A message incomplete after REASM_SF superframes is discarded. -/
  | reasmTimeout (src svc prio no : Nat) (dev : Bool)
  /-- ORDER_WAIT_EXPIRE (R304): A reassembled message has waited ORDER_SF superframes for lower numbers and is delivered. -/
  | orderWaitExpire (t : Fin 8) (id : Nat)
  /-- DELIVERY_START (R305): A waiting message finds buffers and a free CQ entry and is written to the host. -/
  | deliveryStart (t : Fin 8) (q : Fin 8) (bad : Bool)
  /-- DELIVERY_WRITE_DONE (R305): A delivery's data write completes, or fails and completes as a drop notice. -/
  | deliveryWriteDone (t : Fin 8) (ok : Bool)
  /-- WAIT_AGE_EXPIRE (R309): A waiting message reaches WAIT_AGE_MS and is spilled or dropped. -/
  | waitAgeExpire (t : Fin 8) (id : Nat)
  /-- QMEM_WRITE (R285): A write of TNT_QMEM places the tenant's allocation or is refused. -/
  | qmemWrite (q : Req) (t : Fin 8)
  /-- TENANT_FEAT_LOCK (R284): A write of TNT_FEAT_LOCK locks the tenant's accepted features. -/
  | tenantFeatLock (q : Req) (t : Fin 8)
  /-- TNT_MCTL_RESET (R311): A write of TNT_MCTL.RESET starts a tenant reset. -/
  | tntMctlReset (q : Req) (t : Fin 8)
  /-- TNT_RESET (R311): A write of TNT_RESET.RESET by the tenant starts a tenant reset. -/
  | tntReset (q : Req) (t : Fin 8)
  /-- TENANT_RESET_DONE (R311): A tenant reset finishes and RESET_DONE sets. -/
  | tenantResetDone (t : Fin 8)
  /-- CR_DB_SQ_WRITE (R341): A write of CR_DB_SQ advances the cipher request tail or sets OVERRUN. -/
  | crDbSqWrite (q : Req) (t : Fin 8)
  /-- CR_DB_CQ_WRITE (R341): A write of CR_DB_CQ consumes cipher completions. -/
  | crDbCqWrite (q : Req) (t : Fin 8)
  /-- ENCRYPT (R342): A cipher ENCRYPT request encrypts data with a fresh nonce. -/
  | cipherEncrypt (t : Fin 8) (r : Fetched)
  /-- DECRYPT (R342): A cipher DECRYPT request decrypts and verifies data. -/
  | cipherDecrypt (t : Fin 8) (r : Fetched)
  /-- MAC (R342): A cipher MAC request writes a CMAC. -/
  | cipherMac (t : Fin 8) (r : Fetched)
  /-- VERIFY (R342): A cipher VERIFY request compares a CMAC with the given tag. -/
  | cipherVerify (t : Fin 8) (r : Fetched)
  /-- RANDOM (R342): A cipher RANDOM request writes DRBG output. -/
  | cipherRandom (t : Fin 8)
  /-- LOAD_KEY (R333): A LOAD_KEY request loads a tenant key or PEER slot after its checks. -/
  | loadKey (t : Fin 8) (r : Fetched)
  /-- UNLOAD (R333): An UNLOAD request zeroes a tenant's slot once lanes using it finish. -/
  | keyUnload (t : Fin 8)
  /-- CIPHER_LANE_DONE (R340): A cipher lane finishes its request and takes the next waiting request in order. -/
  | cipherLaneDone (j : Fin 24) (wr : Bool)
  /-- PK_LOAD (R328): KEY_CMD PK_LOAD loads a privileged entry. -/
  | pkLoad (q : Req)
  /-- PK_CLEAR (R327): KEY_CMD PK_CLEAR clears a privileged entry. -/
  | pkClear (q : Req)
  /-- DERIVE (R330): KEY_CMD DERIVE computes a derived key into a DERIVED slot. -/
  | keyDerive (q : Req)
  /-- GROUP_LOAD (R325): KEY_CMD GROUP_LOAD unwraps a group key into a protected slot. -/
  | groupLoad (q : Req)
  /-- OWN_LOAD (R329): KEY_CMD OWN_LOAD unwraps the node's own key into the OWN slot. -/
  | ownLoad (q : Req)
  /-- WKT_PUT (R331): KEY_CMD WKT_PUT unwraps and writes a per-node key record. -/
  | wktPut (q : Req)
  /-- SLOT_QUERY (R352): KEY_CMD SLOT_QUERY reports a slot's attributes. -/
  | slotQuery (q : Req)
  /-- SLOT_CLEAR (R352): KEY_CMD SLOT_CLEAR zeroes a slot as UNLOAD would. -/
  | slotClear (q : Req)
  /-- ZEROISE (R328): A write of 0x8000_00A5 to KEY_ZERO zeroises keys and ends requests in flight. -/
  | zeroise (q : Req)
  /-- PROV_LOCK (R328): A write of KEY_PROV.LOCKED locks provisioning in MRAM. -/
  | provLock (q : Req)
  /-- NODE_KEY_RESOLVED (R331): A per-node key record is read and unwrapped into a NODE slot, or resolves to no key. -/
  | nodeKeyResolved (h : Nat) (readable : Bool)
  /-- NONCE_RESERVE_DONE (R339): A nonce block reservation is recorded in MRAM and waiting encryptions resume. -/
  | nonceReserveDone
  /-- KEY_SLOT_PARITY (R334): A parity failure invalidates a key slot. -/
  | keySlotParity (k : Fin 4096)
  /-- KEY_SLOT_RESTORED (R334): A DERIVED, OWN or protected slot is restored from MRAM. -/
  | keySlotRestored (k : Fin 4096)
  /-- ENTROPY_HEALTH_TEST (R344): The 64 us health test runs and a failure sets ENTROPY. -/
  | entropyHealthTest (pass : Bool)
  /-- DRBG_HALT (R344): A reseed falls due after a failed health test and the DRBG halts. -/
  | drbgHalt
  /-- ENTROPY_RETEST (R344): The once-a-second retest runs and three passes reseed and resume the DRBG. -/
  | entropyRetest (pass : Bool)
  /-- RESEED_NOW (R343): A write of ENT_RESEED.NOW reseeds the DRBG. -/
  | reseedNow (q : Req)
  /-- ENT_RAND_READ (R354): A read of ENT_RAND returns fresh DRBG output. -/
  | entRandRead (q : RdReq)
  /-- CIPHER_TEST_PERIOD (R347): The cipher test period expires and the next lane is tested. -/
  | cipherTestPeriod
  /-- CIPHER_TEST_START (R347): A write of CPH_TEST.START tests the named lane. -/
  | cipherTestStart (q : Req)
  /-- CIPHER_TEST_DONE (R347): A lane's known-answer test ends and it returns to service or is retired. -/
  | cipherTestDone (pass : Bool)
  /-- CIPHER_LANE_FAIL (R348): A lane's self-check fails during a request and it is retired. -/
  | cipherLaneFail (j : Fin 26)
  /-- FATAL_FAULT (R361): A lockstep mismatch, SRAM double error or INTERNAL fault drops drivers and HEALTHY and resets the device. -/
  | fatalFault (f : Fatal)
  /-- WATCHDOG_EXPIRE (R361): The firmware watchdog expires, a fatal fault. -/
  | watchdogExpire
  /-- FORCE_LOW_WRITE (R363): A write of HLT_CFG.FORCE_LOW holds or releases HEALTHY. -/
  | forceLowWrite (q : Req)
  /-- HEARTBEAT_TX (R371): Every 250 us the device sends a twin heartbeat. -/
  | heartbeatTx (high : Bool) (lanes : Fin 4) (replays : Nat)
  /-- HEARTBEAT_RX (R371): A twin heartbeat is received. -/
  | heartbeatRx (lane : Fin 2) (b : Beat)
  /-- HEARTBEAT_LOSS (R372): No heartbeat for 1 ms and the device acts on the lost partner. -/
  | heartbeatLoss
  /-- PEER_OK_FALL (R372): PEER_OK falls past its 10 us debounce and the device takes over or goes ALONE. -/
  | peerOkFall
  /-- TWIN_ELECTION (R367): After listening 2 ms at feature lock the device elects its twin state. -/
  | twinElection (high : Bool)
  /-- BULK_COPY_DONE (R367): The bulk copy completes and the joiner enters STANDBY. -/
  | bulkCopyDone
  /-- MIRROR_RECORD_RX (R368): The standby applies a mirror record and acknowledges it. -/
  | mirrorRecordRx (seq progress : Nat) (m : Mirror)
  /-- MIRROR_ACK_RX (R369): The primary receives a mirror acknowledgement and the waiting action proceeds. -/
  | mirrorAckRx (seq : Nat)
  /-- SWAP (R376): TWN_CMD SWAP schedules a role exchange at a superframe boundary. -/
  | twinSwap (q : Req)
  /-- RESYNC (R367): TWN_CMD RESYNC requests resynchronisation of the standby. -/
  | twinResync (q : Req)
  /-- TWIN_LANE_FAIL (R364): A twin link lane fails and the other carries everything. -/
  | twinLaneFail (lane : Fin 2)
  /-- ROW_MARCH_TEST (R357): Every 1 ms one SBUF or tone-map row is tested and repaired if failing. -/
  | rowMarchTest (sbuf fail : Bool) (words : List Nat)
  /-- SRAM_SCRUB (R357): Processor SRAM is scrubbed and single-bit errors corrected. -/
  | sramScrub (corrected : Nat)
  /-- VS_SAMPLE (R382): A 1/16,384 s sampling instant feeds VS and tap samples through the chains. -/
  | vsSample (frac : Nat) (va vb vc : Int) (taps : List Nat)
  /-- MAINS_TIMEOUT (R401): TIMEOUT_MS passes without a valid crossing, and lock or mains is lost. -/
  | mainsTimeout (frac : Nat)
  /-- MON_DATA_READ (R387): A read of MON_DATA_LO removes the head FIFO word and latches its flags and timestamp. -/
  | monDataRead (q : RdReq) (m : Fin 8)
  /-- BANK_SWAP (R391): A write of MON_BANK.SEL requests a coefficient bank swap or cross-fade. -/
  | bankSwap (q : Req) (m : Fin 8)
  /-- PCIE_PERST (R414): PCIE_PERST_N low, hot reset or link down resets every function and starts tenant resets. -/
  | pciePerst (pin : Bool)
  /-- PCIE_LINK_UP (R414): The PCIe link trains and comes up. -/
  | pcieLinkUp (speed : Fin 3) (two : Bool)
  /-- PCIE_FLR (R414): A Function Level Reset resets a function and starts its tenant reset. -/
  | pcieFlr (fn : Fin 9)
  /-- BME_CHANGE (R412): A function's Bus Master Enable or power state changes and its requests stop or resume. -/
  | bmeChange (fn : Fin 9) (bme d3 msixEn : Bool)
  /-- PCIE_REQUEST_NO_BAR (R415): A request that hits no BAR completes with Unsupported Request. -/
  | pcieRequestNoBar (fn : Nat)
  /-- READ (R418): A serial READ frame reads words with ready sequences in 1-1-1 mode. -/
  | shpRead (addr : Nat) (ws : List SerRead) (clocked : Nat)
  /-- QREAD (R418): A serial QREAD frame reads words in 1-4-4 mode. -/
  | shpQread (addr : Nat) (ws : List SerRead) (clocked : Nat)
  /-- WRITE (R419): A serial WRITE frame writes words in 1-1-1 mode. -/
  | shpWrite (addr : Nat) (ws : List SerWrite) (part : Bool)
  /-- QWRITE (R419): A serial QWRITE frame writes words in 1-4-4 mode. -/
  | shpQwrite (addr : Nat) (ws : List SerWrite) (part : Bool)
  /-- STATUS (R420): A serial STATUS frame returns the status byte repeatedly. -/
  | shpStatus (n : Nat)
  /-- READ_HELD (R418): A serial READ_HELD frame returns and clears the held word. -/
  | readHeld (clocked : Nat)
  /-- SHP_BAD_CMD (R416): A serial frame with an undefined command byte is ignored and counted. -/
  | shpBadCmd
  /-- SHP_READY_TIMEOUT (R418): 255 wait bytes pass, 0xE1 is sent and the word becomes the held word. -/
  | shpReadyTimeout (addr : Nat) (ws : List SerRead)
  /-- UART_RX_CHAR (R425): A UART receives a character and stores it in its RX FIFO. -/
  | uartRxChar (u : Fin 2) (data : Nat) (par stop : Bool)
  /-- UART_TX_CHAR (R429): The transmitter starts a character from its TX FIFO when CTS permits. -/
  | uartTxChar (u : Fin 2) (cts : Bool)
  /-- UART_TXD_WRITE (R433): A write of UART_TXD queues a character or sets TX_DROP. -/
  | uartTxdWrite (q : Req) (u : Fin 2)
  /-- UART_RXD_READ (R443): A read of UART_RXD removes the head character. -/
  | uartRxdRead (q : RdReq) (u : Fin 2) (bad : Bool)
  /-- UART_IDLE (R431): One character time of mark after a character sets IDLE. -/
  | uartIdle (u : Fin 2)
  /-- UART_BREAK (R431): A space longer than a frame is stored once as a BRK word. -/
  | uartBreak (u : Fin 2)
  /-- RX_FLUSH (R443): A write of UART_FIFO_CTL.RX_FLUSH empties the RX FIFO. -/
  | rxFlush (q : Req) (u : Fin 2)
  /-- TX_FLUSH (R443): A write of UART_FIFO_CTL.TX_FLUSH empties the TX FIFO. -/
  | txFlush (q : Req) (u : Fin 2)
  /-- CMD_IN_SAMPLE (R434): Each CMD_IN line is sampled every 1 us for debounce. -/
  | cmdInSample (hi mid : Nat)
  /-- CMD_IN_ACTIVATE (R434): DEB_US consecutive active samples make the line active, the trigger of a command. -/
  | cmdInActivate (i : Fin 8)
  /-- CMD_IN_DEACTIVATE (R434): DEB_US consecutive inactive samples make the line inactive. -/
  | cmdInDeactivate (i : Fin 8)
  /-- CMD_OUT_HOLD_EXPIRE (R435): HOLD_MS after the last detection passes and CMD_OUT returns inactive. -/
  | cmdOutHoldExpire (i : Fin 8)
  /-- PMX_SELECT (R437): A write of PMX_SEL selects a pin function or is refused as a conflict. -/
  | pmxSelect (q : Req) (n : Fin 48)
  /-- PMX_SWITCH_DONE (R438): A pin function switch completes on the mux clock. -/
  | pmxSwitchDone (n : Fin 48)
  /-- TAP_INSTRUCTION (R441): A JTAG instruction takes effect and can hold the device in reset. -/
  | tapInstruction (i : Tap)
  /-- SHED_STAGE (R454): VIN falls below a stage's threshold and that stage is shed. -/
  | shedStage (i : Fin 5) (vin : Nat)
  /-- RESTORE_TIMER_EXPIRE (R455): A stage's 50 ms restore timer completes and the stage is restored in order. -/
  | restoreTimerExpire (i : Fin 5)
  /-- STAGE5_JOURNAL_DONE (R455): The stage 5 journal is written and the device enters STANDBY. -/
  | stage5JournalDone
  /-- SUPPLY_RESET (R448): VIN falls below 6.0 V and a supply reset begins. -/
  | supplyReset (vin vbat : Nat)
  /-- AO_POR (R447): The PD0 supply rises and an AO power-on reset runs, then STANDBY. -/
  | aoPor (vin vbat : Nat)
  /-- VBAT_LOW (R447): VBAT_AO falls below 2.0 V with VIN present. -/
  | vbatLow (vbat : Nat)
  /-- RAIL_FAULT (R446): A rail out of its window for 10 us ends service as a fatal fault. -/
  | railFault (rail : Fin 3)
  /-- IDLE_ENTER (R450): Every block quiescent for 100 us and the device enters IDLE. -/
  | idleEnter
  /-- SLUMBER (R451): PWR_CMD OP SLUMBER requests SLUMBER, which is entered or refused. -/
  | pwrSlumber (q : Req)
  /-- STANDBY (R453): PWR_CMD OP STANDBY takes the device to STANDBY. -/
  | pwrStandby (q : Req)
  /-- WAKE (R452): PWR_CMD OP WAKE wakes the device from SLUMBER. -/
  | pwrWake (q : Req)
  /-- ALARM_MATCH (R452): The RTC reaches PWR_ALARM and wakes the device. -/
  | alarmMatch
  /-- XTAL32_FAIL (R460): No XTAL32 edge for 200 us; the RTC moves to the LPRC. -/
  | xtal32Fail
  /-- XTAL32_RESTORE (R460): XTAL32 counts as restored after 1 s of good edges. -/
  | xtal32Restore
  /-- REFCLK_LOSS (R460): Loss of REFCLK or SYSPLL lock ends service as a fatal fault. -/
  | refclkLoss (pll : Bool)
  /-- CNVPLL_UNLOCK (R460): CNVPLL loses lock and ports and VS sampling stop. -/
  | cnvpllUnlock
  /-- CNVPLL_RELOCK (R460): CNVPLL relocks and ports and sampling resume. -/
  | cnvpllRelock
  /-- DRAMPLL_UNLOCK (R460): DRAMPLL loses lock and DRAM goes out of service. -/
  | drampllUnlock
  /-- PCIE_REF_LOSS (R460): Loss of the PCIe reference takes the link down. -/
  | pcieRefLoss
  /-- DRAM_TRAIN_DONE (R461): DRAM training ends and DRAM enters service or TRAIN_FAIL sets. -/
  | dramTrainDone (ok : Bool) (mib : Nat)
  /-- DEVICE_RESET (R463): RST_CMD with KEY 0xA5 starts a device reset. -/
  | deviceReset (q : Req)
  /-- PIN_RESET (R463): RESET_N low for at least 1 us starts a pin reset. -/
  | pinReset
  /-- BOOT_START (R463): A reset ends or stage 5 is restored and the boot sequence starts rails and clocks. -/
  | bootStart (r : BootIn)
  /-- BOOT_DONE (R463): The boot completes, self-tests have run and BOOT_DONE sets. -/
  | bootDone (us : Nat)
  /-- BOOT_RECORD_APPLY (R465): After boot the firmware applies the saved boot record. -/
  | bootRecordApply
  /-- SAVE (R465): RST_BOOTCFG.SAVE saves the boot record as a journalled commit. -/
  | bootSave (q : Req)
  /-- ERASE (R465): RST_BOOTCFG.ERASE clears the boot record. -/
  | bootErase (q : Req)
  /-- SAVE_DONE (R465): The boot record save or erase commit completes. -/
  | bootSaveDone
  /-- THERMAL_SAMPLE (R467): Every 5 us the sensors report and the warning sets or its clear timer runs. -/
  | thermalSample (l : List Int) (drv : Int)
  /-- THERMAL_WARN_CLEAR (R467): MAX below 135 C for 100 ms clears the thermal warning. -/
  | thermalWarnClear
  /-- THERMAL_SHUTDOWN (R468): MAX reaches 150 C and the device shuts down into reset. -/
  | thermalShutdown
  /-- THERMAL_RELEASE (R468): MAX below 130 C for 1 s releases the thermal reset and the device boots. -/
  | thermalRelease
  /-- BEGIN (R485): UPD_CMD BEGIN starts loading an image into a slot. -/
  | updBegin (q : Req)
  /-- UPD_DATA_WRITE (R485): A write of UPD_DATA stores an image word or sets OVERRUN. -/
  | updDataWrite (q : Req)
  /-- UPD_OFFSET_WRITE (R485): A write of UPD_OFFSET resumes a transfer at an earlier row. -/
  | updOffsetWrite (q : Req)
  /-- STAGING_ROW_WRITE (R485): A staged row is written to MRAM and ROOM grows. -/
  | stagingRowWrite (waits : Nat)
  /-- VERIFY_IMAGE (R484): UPD_CMD VERIFY starts the check of a loaded slot. -/
  | verifyImage (q : Req)
  /-- VERIFY_DONE (R484): The slot check completes and VERIFIED sets or a status is reported. -/
  | verifyDone
  /-- ACTIVATE (R486): UPD_CMD ACTIVATE fixes the pause slot or is refused. -/
  | updActivate (q : Req)
  /-- ACTIVATION_RESTART_DONE (R487): The new firmware runs and processes frames buffered in the pause. -/
  | activationRestartDone
  /-- MIGRATION_DONE (R489): Settings migration of the trial completes. -/
  | migrationDone
  /-- COMMIT (R490): UPD_CMD COMMIT commits the trial image. -/
  | updCommit (q : Req)
  /-- ROLLBACK (R491): UPD_CMD ROLLBACK reverts to the previous image through a pause. -/
  | updRollback (q : Req)
  /-- ABORT (R485): UPD_CMD ABORT ends a transfer. -/
  | updAbort (q : Req)
  /-- REVOKE (R483): UPD_CMD REVOKE blows a trust entry's revocation fuse or is refused. -/
  | updRevoke (q : Req)
  /-- NVM_ROW_READ (R494): A write of NVM_RD_ADDR reads an MRAM row into NVM_RD_DATA. -/
  | nvmRowRead (q : Req) (bits : Nat)
  /-- SCRUB_ROW (R481): The scrubber reads one MRAM row and rewrites or records it. -/
  | scrubRow (bits : Nat) (waits : Nat)
  /-- LOG_COMPACT (R479): Settings log free space falls below 64 KiB and compaction starts. -/
  | logCompact (free : Nat) (recs : List (Nat × Nat))
  /-- COMPACTED (R479): Settings log compaction ends. -/
  | compacted (free : Nat)
  /-- SNAP (R501): CNT_CTRL.SNAP starts or pends a snapshot. -/
  | cntSnap (q : Req)
  /-- SNAP_CLR (R504): CNT_CTRL.SNAP_CLR starts or pends a snapshot that clears. -/
  | cntSnapClr (q : Req)
  /-- CLR_ALL (R504): CNT_CTRL.CLR_ALL clears every counter and histogram at once. -/
  | cntClrAll (q : Req)
  /-- HOLD_RELEASE (R503): Writing HOLD 0 starts a pending snapshot. -/
  | holdRelease (q : Req)
  /-- SNAP_PERIOD (R502): A periodic snapshot falls due and starts or is skipped. -/
  | snapPeriod
  /-- SNAP_DONE (R501): A snapshot completes, the banks swap and SEQ increments. -/
  | snapDone
  /-- HST_CFG_WRITE (R509): A write of HST_CFG or HST_FILTER configures or enables a histogram unit. -/
  | hstCfgWrite (q : Req) (h : Fin 4) (j : Fin 4) (filter : Bool)
  /-- CLR (R509): HST_CMD.CLR zeroes a histogram unit. -/
  | hstClr (q : Req) (h : Fin 4) (j : Fin 4)
  /-- VIN_RISING_THRESHOLD (R455): VIN rises above a stage's rising threshold, starting its restore timer, or falls back below it, restarting the timer. -/
  | vinRisingThreshold (i : Fin 6) (vin : Nat)
  /-- PD0_SUPPLY_LOSS (R450): The PD0 supply is lost, with VIN and VBAT_AO both absent, and the device goes from STANDBY to OFF. -/
  | pd0SupplyLoss
  /-- DRAMPLL_RELOCK (R460): DRAMPLL regains lock and DRAM is retrained to return to service. -/
  | drampllRelock
  /-- PCIE_REF_RESTORE (R460): The PCIe reference clock returns, PCIE_REF_OK sets and the link may train again. -/
  | pcieRefRestore
  /-- PCIE_PERST_RISE (R452): PCIE_PERST_N rises, which is a SLUMBER and STANDBY wake source when enabled and lets the link train. -/
  | pciePerstRise
  /-- DRAM_SCRUB (R357): The DRAM scrubber reads DRAM words and rewrites each corrected one, as part of a full pass every 4 h. -/
  | dramScrub (corrected : Nat) (bad : List Nat)
  /-- MIRROR_RECORD_LOST (R366): A mirror record is lost beyond replay on the twin link, and the standby drops from STANDBY to JOINING. -/
  | mirrorRecordLost
  /-- DIRECT_REQUEST_SET_ASIDE (R340): A bulk lane running a direct request reaches a count of 4,096 blocks while a frame request waits, and sets the direct request aside. -/
  | directRequestSetAside (j : Fin 24)
  deriving DecidableEq, Repr

end Sys2Proof
end

