-- ==== Sys2Proof/Config.lean ====
section
/-! DEFINITION. The values that the spec leaves open, as constants without a body: nothing can evaluate them, so that what
is proved holds whatever they are. -/

set_option Elab.async false

namespace Sys2Proof.Config

/-- A free value, by the number of free values drawn before it. -/
opaque freeNat : Nat → Nat

/-- Which of several violation kinds that apply to one word is recorded: an index into the list of kinds (R63 gives no
order among them). -/
opaque kindIndex : List Nat → Nat

/-- The configuration digest of R370 over the accepted features and the admitted configuration: no function is stated. -/
opaque cfgDigest : List Nat → Nat

end Sys2Proof.Config
end

