-- ==== Sys2Proof/Machine/State/Counters.lean ====
section
/-! DEFINITION. The counter gatherer's snapshot banks and the sixteen histogram units (R498 to R513). The counters
themselves, and the units' configuration, lie in the register file. -/

set_option Elab.async false

namespace Sys2Proof.Machine

/-- What a histogram unit has recorded (R506, R507). -/
structure HistUnit where
  bins  : List Nat
  count : Nat
  sum   : Nat
  max   : Nat
  sat   : Bool
  disc  : Nat
  deriving DecidableEq, Repr

/-- A histogram unit that has taken no sample. -/
def HistUnit.empty : HistUnit := ⟨List.replicate 32 0, 0, 0, 0, false, 0⟩

/-- One bank of the snapshot array (R501): the counters by page address / 0x1000 × 8 + counter, the counter enables by
page address / 0x1000, the histogram units, and the corridor time and RTC count of the first capture. -/
structure Snapshot where
  cnts : Store Nat
  ens  : Store Nat
  hist : List HistUnit
  ct   : Nat
  rtc  : Nat
  deriving DecidableEq, Repr

/-- A bank after a reset (R503): everything zero. -/
def Snapshot.empty : Snapshot := ⟨[], [], List.replicate 16 HistUnit.empty, 0, 0⟩

/-- The gatherer: its banks, whether a snapshot is in progress, the pending command and whether it clears, and SEQ. -/
structure Gather where
  front : Snapshot
  back  : Snapshot
  busy  : Bool
  pend  : Option Bool
  seq   : Nat
  units : List HistUnit
  deriving DecidableEq, Repr

def Gather.empty : Gather := ⟨.empty, .empty, false, none, 0, List.replicate 16 HistUnit.empty⟩

end Sys2Proof.Machine
end

