-- ==== Sys2Proof/Machine/State/Host.lean ====
section
/-! DEFINITION. The serial host port, the UARTs, the command pins and the multifunction pins (R416 to R445), and the PCIe
link. -/

set_option Elab.async false

namespace Sys2Proof.Machine

/-- A word of a UART's RX FIFO (Table 14-8, `UART_RXD`). -/
structure UartWord where
  data   : Nat
  idle   : Bool
  brk    : Bool
  ovr    : Bool
  fe     : Bool
  pe     : Bool
  poison : Bool
  deriving DecidableEq, Repr

/-- A UART: its FIFOs, a character being sent, RX pressure, whether a character has come since the last idle period, whether
an idle period precedes the next one, whether the last address character matched, and the level seen on CTS_N. -/
structure Uart where
  rx       : List UartWord
  tx       : List Nat
  busy     : Bool
  press    : Bool
  heard    : Bool
  idle     : Bool
  selected : Bool
  cts      : Bool
  deriving DecidableEq, Repr

def Uart.reset : Uart := ⟨[], [], false, false, false, false, false, true⟩

/-- A debounced input of CMD_IN (R434): the last sampled level counts as active or not, how many samples in a row it has
had, and the debounced state. -/
structure CmdIn where
  level  : Bool
  run    : Nat
  active : Bool
  deriving DecidableEq, Repr

def CmdIn.reset : CmdIn := ⟨false, 0, false⟩

/-- A multifunction pin (R438): the function that holds the pad, and the one that a switch in progress brings in. -/
structure Pin where
  act : Nat
  dest : Option Nat
  deriving DecidableEq, Repr

/-- The PCIe link (Table 14-7), and the level of PCIE_PERST_N. -/
structure Link where
  up    : Bool
  speed : Nat
  width : Nat
  perst : Bool
  deriving DecidableEq, Repr

/-- The host and pin blocks. `held` is the serial host port's held word (R418), `outHold` which CMD_OUT lines are within
their hold, `outDrv` which are driven active. -/
structure HostIo where
  held    : Option Word
  uarts   : List Uart
  cmdIn   : List CmdIn
  outHold : List Bool
  outDrv  : List Bool
  pins    : List Pin
  link    : Link
  deriving DecidableEq, Repr

def HostIo.reset : HostIo :=
  ⟨none, [Uart.reset, Uart.reset], List.replicate 8 CmdIn.reset, List.replicate 8 false, List.replicate 8 false,
    List.replicate 48 ⟨0, none⟩, ⟨false, 0, 0, true⟩⟩

end Sys2Proof.Machine
end

