-- ==== Sys2Proof/Machine/State/Memory.lean ====
section
/-! DEFINITION. The memories that software reaches through windows (Table 02-7). What an unlisted address reads as is zero
in each of them. -/

set_option Elab.async false

namespace Sys2Proof.Machine

/-- The windowed memories: queue memory by byte, the directory by byte (entry × 64 + byte), the tone-map store and SBUF by
word, each word as bits [37:0] of its 64-bit slot (R49: POISON, PARITY, data). `qmemBad` and `dirBad` list the word
addresses whose parity has failed or whose poison tag is set (R51); `rowBad` lists the words of SBUF (true) and of the tone-map store that
lie in a failing row for which no spare was left (R357). -/
structure Mem where
  qmem    : Store Byte
  qmemBad : List Nat
  dir     : Store Byte
  dirBad  : List Nat
  tmap    : Store (BitVec 38)
  sbuf    : Store (BitVec 38)
  rowBad  : List (Bool × Nat)
  deriving DecidableEq, Repr

def Mem.empty : Mem := ⟨[], [], [], [], [], [], []⟩

end Sys2Proof.Machine
end

