-- ==== Sys2Proof/Machine/State/Monitor.lean ====
section
/-! DEFINITION. The monitor chains, their FIFOs and threshold units, and the mains sensing of MNS (R382 to R403). -/

set_option Elab.async false

namespace Sys2Proof.Machine

/-- A word of a chain's FIFO (Table 13-2): the four flags, VALUE, its timestamp, and the poison tag (R312). -/
structure MonWord where
  flags  : Nat
  value  : Int
  ts     : Nat
  poison : Bool
  deriving DecidableEq, Repr

/-- A threshold unit (R394): asserted or released, the length of the run under way, and the timestamp of its first
output. -/
structure ThUnit where
  asserted : Bool
  run      : Nat
  onset    : Nat
  deriving DecidableEq, Repr

def ThUnit.released : ThUnit := ⟨false, 0, 0⟩

/-- A cross-fade in progress (R392): outputs done of its length. -/
structure Fade where
  done : Nat
  len  : Nat
  deriving DecidableEq, Repr

/-- One monitor chain. `acc` and `comb` are the CIC's integrators and the last inputs of its combs; `nIn` counts inputs
modulo D; `y1` holds the last stage-1 outputs and `hist` the last stage-3 inputs with their cross-fade marks, newest
first; `dirty` is a settings change to be acted on at the next input sample. -/
structure Chain where
  acc    : List Int
  comb   : List Int
  nIn    : Nat
  y1     : List Int
  hist   : List (Int × Bool)
  jOut   : Nat
  active : Nat
  fade   : Option Fade
  dirty  : Bool
  srcOn  : Bool
  setU   : Nat
  left   : Nat
  left2  : Nat
  gd     : Nat
  gap    : Bool
  fifo   : List MonWord
  press  : Bool
  hiWord : Word
  tsLo   : Word
  tsHi   : Word
  th     : List ThUnit
  deriving DecidableEq, Repr

/-- A chain after a reset. -/
def Chain.reset : Chain :=
  ⟨[0, 0, 0, 0], [0, 0, 0, 0], 0, [], [], 0, 0, none, false, false, 0, 0, 0, 0, false, [], false, 0, 0, 0,
    [ThUnit.released, ThUnit.released]⟩

/-- The states of Table 13-3. -/
inductive ZcState where
  | seeking | first | locked
  deriving DecidableEq, Repr

/-- Mains sensing: the zero-crossing unit, region lock, θ in 2^-20 slot modulo 2, the last periods in nanoseconds, and the
last-gasp episode of R402 (open, and its frame transmitted). -/
structure Mains where
  armed   : Bool
  low     : Int
  prev    : Option (Int × Nat)
  zc      : ZcState
  susp    : Bool
  lastT   : Nat
  theta   : Nat
  fresh   : Bool
  periods : List Nat
  present : Bool
  count   : Nat
  zcTs    : Nat
  lgOpen  : Bool
  lgSent  : Bool
  cfgErr  : Bool
  deriving DecidableEq, Repr

def Mains.reset : Mains :=
  ⟨false, 0, none, .seeking, false, 0, 0, true, [], false, 0, 0, false, false, false⟩

end Sys2Proof.Machine
end

