-- ==== Sys2Proof/Machine/State/Nvm.lean ====
section
/-! DEFINITION. The non-volatile array and what it keeps (R474 to R492): the image slots, the key area, the per-node table, the
control records, the boot record and the reservations, and the state of an update. -/

set_option Elab.async false

namespace Sys2Proof.Machine

/-- A per-node record (R331): VALID, its node, the KEK entry and the wrapped material of 48 bytes. -/
structure WktRec where
  valid   : Bool
  node    : Nat
  kek     : Nat
  wrapped : List Nat
  deriving DecidableEq, Repr

/-- A saved DERIVE command (R330). -/
structure DeriveCmd where
  pk    : Nat
  label : Nat
  idx   : Nat
  netid : Nat
  deriving DecidableEq, Repr

/-- The activation record (R487, R489 to R492): in trial, the slot it names, the previous slot, the trial's generation, the
starts counted, and whether a watchdog or fatal reset has come since the activation. -/
structure ActRec where
  trial  : Bool
  target : Nat
  prev   : Nat
  gen    : Nat
  starts : Nat
  fatal  : Bool
  deriving DecidableEq, Repr

/-- A copy of the boot record (R465): the accepted set, the saved words of each page with its `PG_CTRL` last, the schedule version in
force with its tables by channel, its sequence and its generation. -/
structure BootRec where
  accept : Word
  words  : List (Page × Nat × Word)
  ver    : Nat
  tables : List (List Word)
  seq   : Nat
  gen   : Nat
  deriving DecidableEq, Repr

/-- A step of the application of a boot record (R465): the lock of its accepted set, a word of a page, and its schedule version with
the tables. -/
inductive ApplyStep where
  | lock (accept : Word)
  | word (p : Page) (off : Nat) (w : Word)
  | sched (ver : Nat) (tables : List (List Word))
  deriving DecidableEq, Repr

/-- A slot of the image store as the device knows it: verified, and locked for writes (R477). -/
structure ImgSlot where
  verified : Bool
  locked   : Bool
  deriving DecidableEq, Repr

/-- The service pause of an activation or a rollback (R487, R491): its first slot, the image slot it restarts into, whether it rolls
back, whether its record is committed, and whether the processors are restarting or have done so. -/
structure Pause where
  at_     : Nat
  target  : Nat
  roll    : Bool
  rec_    : Bool
  begun   : Bool
  done    : Bool
  deriving DecidableEq, Repr

/-- The update unit: the slot that a BEGIN opened and how far words have reached, its staged words with their offsets, the slot
under verification, the pause ahead or under way with the frames buffered in it and the instants of their transmissions, migration
under way, and whether the signature unit failed its self-test (R346). -/
structure Upd where
  load   : Option Nat
  fill   : Nat
  staged : List (Nat × Word)
  verify : Option Nat
  pause  : Option Pause
  kept   : List (MacRx × Nat)
  migr   : Bool
  sigBad : Bool
  deriving DecidableEq, Repr

/-- Nothing under way. -/
def Upd.idle : Upd := ⟨none, 0, [], none, none, [], false, false⟩

/-- The array. `img` holds the image slots by word; `wkt` the MRAM table of per-node records; `pk`, `slots` and `derives` the key
area; `nonce` and `nums` the highest reserved blocks; `boot` the boot record copies, newest first; `settings` the settings
records, newest first, as (key, version, generation), with the log's free KiB and whether it is being compacted; `bad` the rows whose
errors cannot be corrected; `recovery` that the boot found no image (R493); `dramWkt` the table of per-node records in DRAM, by DRAM address / 64. -/
structure Nvm where
  img      : Store Word
  slots2   : List ImgSlot
  running  : Nat
  act      : ActRec
  floor    : Nat
  wkt      : Store WktRec
  pk       : List Pk
  slots    : Store KeySlot
  derives  : Store DeriveCmd
  locked   : Bool
  nonce    : Option Nat
  nums     : Store Nat
  boot     : List BootRec
  autoRest : Bool
  saving   : Option (Option BootRec)
  applying : List ApplyStep
  open_    : Bool
  settings : List (Nat × Nat × Nat)
  logFree  : Nat
  compact  : Bool
  bad      : List Nat
  recovery : Bool
  upd      : Upd
  dramWkt  : Store WktRec
  deriving DecidableEq, Repr

/-- The array as the model takes it to leave manufacture: nothing written but PK0, no image, no record. -/
def Nvm.fresh : Nvm :=
  { img := [], slots2 := List.replicate 2 ⟨false, false⟩, running := 0, act := ⟨false, 0, 0, 0, 0, false⟩, floor := 0, wkt := []
    pk := ⟨1, true, 0⟩ :: List.replicate 15 ⟨0, false, 0⟩, slots := [], derives := [], locked := false, nonce := none, nums := []
    boot := [], autoRest := false, saving := none, applying := [], open_ := false, settings := [], logFree := 1392, compact := false, bad := [], recovery := false
    upd := Upd.idle, dramWkt := [] }

end Sys2Proof.Machine
end

