-- ==== Sys2Proof/Machine/State/Out.lean ====
section
/-! DEFINITION. What the block emits: the record of its outputs, in the order in which they are made. -/

set_option Elab.async false

namespace Sys2Proof.Machine

/-- What one carrier of a symbol holds on the transmitting ports: a value of the chirp X_1 or X_2 on every port, or on one port of the
bundle at √N_p of its amplitude (R108, R109, R145); the pilot X_2 of one stream, or a point of each stream as the I and Q amplitudes before
scaling by 1/√E and its fine gain (R122, R123), sent under the precoding values `q` and `o` (R128); or nothing. -/
inductive Cell where
  | chirp (k : Nat)
  | comb (k port : Nat)
  | pilot (stream q o : Nat)
  | point (streams : List (Int × Int × Nat × Nat)) (q o : Nat)
  | zero
  deriving DecidableEq, Repr

/-- The bit rate of a UART: INC with the samples of a bit (R425), bits in a second (R427), or the divisor of CK (R432). -/
inductive BitRate where
  | fast (inc os : Nat)
  | lowPower (baud : Nat)
  | sync (div : Nat)
  deriving DecidableEq, Repr

/-- One output of the block. -/
inductive Out where
  /-- An MSI-X message of a function's vector (R69). -/
  | msix (fn vec : Nat)
  /-- The data of a completed word read, and whether it is poisoned (R51, R64). -/
  | readData (fn : Fn) (data : Word) (poisoned : Bool)
  /-- The bytes that the serial host port sends in one frame (R418, R420). -/
  | serial (bytes : List Nat)
  /-- A character on a UART's TX (R424): the levels of its bits, start bit first and mark true, and their rate. -/
  | uart (u : Nat) (bits : List Bool) (rate : BitRate)
  /-- A tone-map proposal, sent as MGMT frames on a channel (R154). -/
  | propose (chan : Nat) (p : Proposal)
  /-- A tone-map status report to a peer: its bytes (R154). -/
  | tmapStatus (chan peer : Nat) (bytes : List Nat)
  /-- A transmission that starts on a channel: its first slot and slots, its FC block as sent, its codewords as sent
  (R114 to R120), the sub-bands whose carriers are sent as zero (R205), and the mini-slot it starts at (R207). -/
  | tx (chan slot len : Nat) (fc : List Bool) (coded : List (List Bool)) (mute mini : Nat)
  /-- Codewords that take the place of empty ones in a relay's transmission on air, from codeword `cw` on (R239). -/
  | fill (chan cw : Nat) (coded : List (List Bool))
  /-- The preamble of the transmission on air: SY1, sent three times on W-band, and SY2, with the cyclic delay of each transmitting port in
  samples (R103, R109, R110). A seam pilot before a data symbol (R106). A symbol with its carriers (R114, R121): 1 the first FC symbol. -/
  | preamble (chan : Nat) (sy1 sy2 : List (Nat × Cell)) (delays : List Nat)
  | seam (chan before : Nat) (cells : List (Nat × Cell)) (delays : List Nat)
  | symbol (chan sym : Nat) (cells : List (Nat × Cell)) (delays : List Nat)
  /-- A symbol of the transmission on air that is sent as zero (R92, R167). -/
  | zeroSymbol (chan sym : Nat)
  /-- The rest of a port's symbol, or of its slot, is sent as zero (R79, R83). -/
  | cutSymbol (port : Nat)
  | cutSlot (port : Nat)
  /-- A port's amplifier enable is asserted from one corridor time to another, or is released at once (R83). -/
  | paOn (port start end_ : Nat)
  | paOff (port : Nat)
  /-- The probe of a port in a QUIET slot of a channel: its level in dB below the channel's full level, and the DRBG's draw that its
  phases come from (R87). -/
  | probe (chan port att draw : Nat)
  /-- A priority burst of a class, or an answer burst at a position, and by how much of corridor time it is advanced (R207, R269). -/
  | burst (chan pos : Nat) (advance : Int)
  /-- A command symbol with its active lines and the chips of each (R210), 2 standing for a carrier sent as zero (R205). -/
  | command (chan lines : Nat) (chips : List (List Nat))
  /-- A read of host memory by a function: address and bytes (R288, R297). -/
  | hostRead (fn addr len : Nat)
  /-- A write of host memory by a function (R289, R305). -/
  | hostWrite (fn addr : Nat) (bytes : List Nat)
  /-- A completion of a PCIe request that the device refuses (R415). -/
  | unsupported (fn : Nat)
  /-- A twin heartbeat (R371) and a mirror record with its sequence number, or its acknowledgement (R368, R369). -/
  | heartbeat (b : Beat)
  | mirror (seq : Nat) (kind : Nat) (data : List Nat)
  | mirrorAck (seq : Nat)
  deriving DecidableEq, Repr

end Sys2Proof.Machine
end

