-- ==== Sys2Proof/Machine/State/Power.lean ====
section
/-! DEFINITION. Power, clock, reset and thermal state that the registers of PWR, CLK, RST and THM show or that no
register holds (R446 to R468). -/

set_option Elab.async false

namespace Sys2Proof.Machine

/-- The states of Table 15-3, a wake from SLUMBER in progress (Table 09-4), a reset being held (R463), and a boot in
progress (Table 15-9). -/
inductive PwrMode where
  | run | idle | slumber | waking | standby | off | reset | booting
  deriving DecidableEq, Repr

/-- How a power domain stands (R449). -/
inductive DomMode where
  | off | retain | on
  deriving DecidableEq, Repr

/-- One shedding stage of Table 15-4 (R455): shed, its restore timer running, and its timer complete but the restoration
held back. -/
structure Stage where
  shed   : Bool
  timing : Bool
  due    : Bool
  deriving DecidableEq, Repr

/-- The stage 5 journal as far as it serves the next start (R455): slot, epoch and RTC count. -/
structure Journal where
  slot  : Nat
  epoch : Nat
  rtc   : Nat
  deriving DecidableEq, Repr

/-- The clocks of Table 15-7 that can fail (R460). -/
structure Clocks where
  xtal32  : Bool
  refclk  : Bool
  pcieRef : Bool
  sysLock : Bool
  cnvLock : Bool
  drmLock : Bool
  twnLock : Bool
  deriving DecidableEq, Repr

/-- The external DRAM as `PWR_DRAM` shows it (R461). -/
structure Dram where
  trained     : Bool
  selfRefresh : Bool
  trainFail   : Bool
  sizeMib     : Nat
  deriving DecidableEq, Repr

/-- The thermal protection (R467, R468): the last sensor readings and excluded sensors, the warning, its 100 ms clear
timer, and the shutdown's hold. Temperatures are in 0.125 °C. -/
structure Thermal where
  sensors  : List Int
  excluded : Nat
  max      : Int
  hot      : Nat
  warn     : Bool
  clearing : Bool
  drvMax   : Int
  hold     : Bool
  deriving DecidableEq, Repr

/-- The always-on controller's state: the state of Table 15-3; VIN in 10 mV and VBAT_AO in mV as last measured; the five
stages and whether the supply-reset comparator is asserted; the modes of the twenty domains; the stage 5 journal under way
and the last one completed; that STANDBY was entered from RUN or IDLE as R453 says; the STANDBY wake sources that have
occurred, as bits of `PWR_WAKE_CAUSE`; that stage 5 has been restored and a boot is due; that an accepted SLUMBER request
awaits the end of its slot; stages shed in SLUMBER that are to be applied at the wake, as bits; the alarm in force; the
RTC; and the instruction in force of the test access port. -/
structure Pwr where
  mode      : PwrMode
  vin       : Nat
  vbat      : Nat
  stages    : List Stage
  supply    : Bool
  dom       : List DomMode
  journalling : Bool
  journal   : Option Journal
  standbyBy : Bool
  wakeHeld  : Nat
  bootDue   : Bool
  slumberDue : Bool
  missed    : Nat
  alarm     : Nat
  rtc       : Nat
  clk       : Clocks
  dram      : Dram
  thm       : Thermal
  tap       : Tap
  deriving DecidableEq, Repr

/-- Domains with PD0 alone on. -/
def onlyPd0 : List DomMode := .on :: List.replicate 19 .off

/-- The controller after an AO power-on reset (R447, R455): STANDBY, every comparator in its shed state. -/
def Pwr.reset : Pwr :=
  { mode := .standby, vin := 0, vbat := 0, stages := List.replicate 5 ⟨true, false, false⟩, supply := true, dom := onlyPd0,
    journalling := false, journal := none, standbyBy := false, wakeHeld := 0, bootDue := false, slumberDue := false,
    missed := 0, alarm := 0, rtc := 0, clk := ⟨true, false, true, false, false, false, false⟩, dram := ⟨false, false, false, 0⟩,
    thm := ⟨List.replicate 8 0, 0, 0, 0, false, false, 0, false⟩, tap := .idcode }

end Sys2Proof.Machine
end

