-- ==== Sys2Proof/Machine/State/Twin.lean ====
section
/-! DEFINITION. The twin link (R366 to R377). -/

set_option Elab.async false

namespace Sys2Proof.Machine

/-- An action of a primary that waits for its mirror record's acknowledgement (R369): acceptance of a fetched descriptor,
the acknowledgement of a received frame, the first reel transmission of a flood, and the write of a completion or of a
delivery. -/
inductive Await where
  | desc (t q : Nat) (bytes : List Nat) (poison : Bool)
  | ack (chan peer lseq cls : Nat)
  | flood (src seq epoch : Nat)
  | comp (t id : Nat)
  | deliv (t : Nat)
  deriving DecidableEq, Repr

/-- The twin: the last mirror sequence sent and applied; the actions that wait, with their sequence and instant; the partner's last
heartbeat with whether it is recent; whether the election listens or is over for this boot; a takeover that awaits its slot
boundary (cause and the first instant that serves); a primary's loss of the link that awaits its boundary (R372); the superframe
of a swap; the corridor time and the Spindle turn of the last takeover at this device (R507); the level of PEER_OK; the link's lanes; and the acknowledgement times of this superframe in 0.1 µs. -/
structure Twin where
  seq    : Nat
  rxSeq  : Nat
  await  : List (Nat × Nat × Await)
  beat   : Option Beat
  hbOk   : Bool
  listen : Bool
  elected : Bool
  take   : Option (Nat × Nat)
  sever  : Bool
  swap   : Option Nat
  took   : Option (Nat × Nat)
  peerOk : Bool
  lanes  : Nat
  lag    : List Nat
  deriving DecidableEq, Repr

def Twin.reset : Twin :=
  { seq := 0, rxSeq := 0, await := [], beat := none, hbOk := false, listen := false, elected := false, take := none, sever := false,
    swap := none, took := none, peerOk := false, lanes := 0, lag := [] }

end Sys2Proof.Machine
end

