-- ==== Sys2Proof/Machine/State.lean ====
section
/-! DEFINITION. The state of the block as plain data, its fault and refusal reasons, and the state after reset. -/

set_option Elab.async false

namespace Sys2Proof.Machine

/-- The block. `pending` holds the commands that wait, first in, first out; `out` everything emitted so far, in order; `fresh`
counts the free values drawn (the model's own field: see Config); `softReset` lists the pages in soft reset, `isoTests` those whose
isolated test runs (R358); `regs` is the register file, the stored word of each
register by page address plus offset; `ct` is corridor time, slot × 2^20 + fraction. -/
structure State where
  pending : List Instr
  out     : List Out
  fresh   : Nat
  chip    : Chip
  regs    : Store Word
  latches : List Latch
  violArmed : Bool
  softReset : List Page
  isoTests : List Page
  fns     : List PcieFn
  pwr     : Pwr
  mem     : Mem
  gather  : Gather
  ct      : Nat
  chains  : List Chain
  mains   : Mains
  io      : HostIo
  line    : Line
  net     : Net
  cph     : Cipher
  slp     : Sleep
  nvm     : Nvm
  twn     : Twin
  deriving DecidableEq, Repr

/-- Reasons for which the block would stop. No command of the spec stops it: this type has no value. -/
inductive Fault where
  deriving DecidableEq, Repr

/-- Reasons for which a command has no meaning. -/
inductive Refusal where
  /-- The command's arm in Dispatch has no meaning yet. No arm answers so in the finished model; safe. -/
  | notModelled (mnemonic : String)
  deriving DecidableEq, Repr

/-- The block right after its first AO power-on reset (R447, R463): an OLF-7236 in STANDBY with every register at its
reset value, `RST_CAUSE.AO_POR` set, every comparator in its shed state, and nothing written anywhere. -/
def State.reset : State :=
  { pending := [], out := [], fresh := 0, chip := ⟨true, 4096, 1, 1, 0, [0, 0, 0, 0]⟩, regs := [], latches := List.replicate 11 ⟨none, 0, 0⟩
    violArmed := true, softReset := [], isoTests := [], fns := List.replicate 9 PcieFn.reset, pwr := Pwr.reset, mem := Mem.empty
    gather := Gather.empty, ct := 0, chains := List.replicate 8 Chain.reset, mains := Mains.reset, io := HostIo.reset
    line := Line.reset, net := Net.reset, cph := Cipher.reset, slp := Sleep.reset, nvm := Nvm.fresh, twn := Twin.reset }

end Sys2Proof.Machine
end

