-- ==== Sys2Proof/Machine/Ops.lean ====
section
/-! DEFINITION. The named operations over the sparse stores and the register file. -/

set_option Elab.async false

namespace Sys2Proof.Machine

/-! Sparse stores: an unlisted address reads as the default handed in; a write of that default removes the entry. -/

/-- What a store holds at an address. -/
def storeGet {V : Type} (d : V) : Store V → Nat → V
  | [], _ => d
  | (a, v) :: r, k => if k = a then v else if k < a then d else storeGet d r k

/-- Remove the entry of an address. -/
def storeDel {V : Type} : Store V → Nat → Store V
  | [], _ => []
  | (a, v) :: r, k => if k = a then r else if k < a then (a, v) :: r else (a, v) :: storeDel r k

/-- Insert or replace the entry of an address, keeping the addresses rising. -/
def storeIns {V : Type} : Store V → Nat → V → Store V
  | [], k, v => [(k, v)]
  | (a, w) :: r, k, v => if k = a then (k, v) :: r else if k < a then (k, v) :: (a, w) :: r else (a, w) :: storeIns r k v

/-- Write a store. -/
def storePut {V : Type} [DecidableEq V] (d : V) (m : Store V) (k : Nat) (v : V) : Store V :=
  if v = d then storeDel m k else storeIns m k v

/-- Addresses strictly rising, all above a bound. -/
def risingFrom {V : Type} : Nat → Store V → Bool
  | _, [] => true
  | b, (a, _) :: r => decide (b ≤ a) && risingFrom (a + 1) r

/-- The canonical form of a store, with what each unlisted address reads as: addresses strictly rising, no entry equal to
that. -/
def storeWf {V : Type} [DecidableEq V] (d : Nat → V) (m : Store V) : Bool :=
  risingFrom 0 m && m.all fun e => decide (e.2 ≠ d e.1)

/-- Write consecutive addresses. -/
def storePutList {V : Type} [DecidableEq V] (d : V) (m : Store V) (k : Nat) : List V → Store V
  | [] => m
  | v :: vs => storePutList d (storePut d m k v) (k + 1) vs

/-- Read `n` consecutive addresses. -/
def storeGetList {V : Type} (d : V) (m : Store V) (k : Nat) : Nat → List V
  | 0 => []
  | n + 1 => storeGet d m k :: storeGetList d m (k + 1) n

/-- Keep only the entries whose address passes a test. -/
def storeKeep {V : Type} (keep : Nat → Bool) (m : Store V) : Store V := m.filter fun e => keep e.1

/-- What a word of the tone-map store reads as where nothing is listed: an impedance word without a valid measurement is MAG 0,
PHASE 0x2_0000 (R88); every other word is zero. DESIGN CHOICE (log 246): so are the words of an impedance table that belong to no
carrier of its port. -/
def tmapDefault (a : Nat) : BitVec 38 :=
  if (1507328 ≤ a ∧ a < 1507328 + 12 * 1024 ∧ (a - 1507328) % 1024 < 800) ∨
      (1519616 ≤ a ∧ a < 1519616 + 4 * 4096 ∧ 72 ≤ (a - 1519616) % 4096 ∧ (a - 1519616) % 4096 ≤ 3440) then 0x20000 else 0

/-- Read a word of the tone-map store. -/
def State.tmapGet (s : State) (a : Nat) : Nat := (storeGet (tmapDefault a) s.mem.tmap a).toNat

/-- Write a word of the tone-map store, its tags clear. -/
def State.tmapPut (s : State) (a v : Nat) : State :=
  { s with mem := { s.mem with tmap := storePut (tmapDefault a) s.mem.tmap a (BitVec.ofNat 38 (v % 2 ^ 36)) } }

/-- Read a word of SBUF. -/
def State.sbufGet (s : State) (a : Nat) : Nat := (storeGet (0 : BitVec 38) s.mem.sbuf a).toNat

/-- Write a word of SBUF, its tags clear. -/
def State.sbufPut (s : State) (a v : Nat) : State :=
  { s with mem := { s.mem with sbuf := storePut 0 s.mem.sbuf a (BitVec.ofNat 38 (v % 2 ^ 36)) } }

/-! The register file. A register's word is the stored entry, or its table's reset value where none is stored. -/

/-- The stored word of a register. -/
def State.reg (s : State) (p : Page) (off : Nat) : Word := storeGet (resetWord p off) s.regs (regKey p off)

/-- Store a register's word. -/
def State.setReg (s : State) (p : Page) (off : Nat) (w : Word) : State :=
  { s with regs := storePut (resetWord p off) s.regs (regKey p off) w }

/-- A field of a page's register. -/
def State.fld (s : State) (p : Page) (f : Fld) : Nat := f.get (s.reg p f.off)

/-- A field as a truth value: its lowest bit. -/
def State.flag (s : State) (p : Page) (f : Fld) : Bool := decide (s.fld p f % 2 = 1)

/-- Write a field, whatever its access type: the hardware's own update. -/
def State.setFld (s : State) (p : Page) (f : Fld) (v : Nat) : State := s.setReg p f.off (f.put v (s.reg p f.off))

/-- Write a one-bit field. -/
def State.setFlag (s : State) (p : Page) (f : Fld) (b : Bool) : State := s.setFld p f (if b then 1 else 0)

/-- Emit an output. -/
def State.emit (s : State) (o : Out) : State := { s with out := s.out ++ [o] }

/-- The value that a two's complement field of `w` bits stands for. -/
def signed (w v : Nat) : Int := if v % 2 ^ w < 2 ^ (w - 1) then (v % 2 ^ w : Nat) else ((v % 2 ^ w : Nat) : Int) - 2 ^ w

/-- A whole number as a two's complement field of `w` bits, saturating at the field's range. -/
def satSigned (w : Nat) (x : Int) : Nat :=
  let hi : Int := 2 ^ (w - 1) - 1
  let lo : Int := -(2 ^ (w - 1))
  let c := if hi < x then hi else if x < lo then lo else x
  (c % (2 ^ w : Int)).toNat

/-- A whole number saturating at `w` bits. -/
def satNat (w v : Nat) : Nat := if v < 2 ^ w then v else 2 ^ w - 1

/-- Bit `i` of a number. -/
def bitOf (v i : Nat) : Bool := decide (v / 2 ^ i % 2 = 1)

/-- A number with bit `i` set or cleared. -/
def setBitOf (v i : Nat) (b : Bool) : Nat :=
  if b then (if bitOf v i then v else v + 2 ^ i) else (if bitOf v i then v - 2 ^ i else v)

/-- Ceiling division. -/
def ceilDiv (a b : Nat) : Nat := (a + b - 1) / b

/-! The page header. -/

/-- Offsets of the header's changing words (Table 02-1). -/
def offCtrl : Nat := 0x00C
def offStatus : Nat := 0x010
def offEvent : Nat := 0x014
def offEventEn : Nat := 0x018
def offEventSet : Nat := 0x01C
def offFault : Nat := 0x020
def offFaultInfo : Nat := 0x024
def offCntCtrl : Nat := 0x028

/-- Whether the block takes work: ENABLE, which always-enabled pages read as 1 (R37, R38). -/
def State.enabled (s : State) (p : Page) : Bool := alwaysEnabled p || (s.reg p offCtrl).getLsbD 0

/-- Whether the block is isolated for its online test (R37). -/
def State.isolated (s : State) (p : Page) : Bool := (s.reg p offCtrl).getLsbD 2

/-- Set or clear one bit of a register. -/
def State.setRegBit (s : State) (p : Page) (off i : Nat) (b : Bool) : State :=
  s.setReg p off (if b then s.reg p off ||| onesAt i 1 else s.reg p off &&& ~~~ onesAt i 1)

/-- A block-specific status bit (R39). -/
def State.setStatus (s : State) (p : Page) (i : Nat) (b : Bool) : State := s.setRegBit p offStatus i b

/-- Whether a block-specific status bit is set. -/
def State.status (s : State) (p : Page) (i : Nat) : Bool := (s.reg p offStatus).getLsbD i

/-- The state of a power domain. -/
def State.dom (s : State) (d : Nat) : DomMode := s.pwr.dom.getD d .off

/-- Whether a page's power domain is on. -/
def State.pageOn (s : State) (p : Page) : Bool := decide (s.dom (pageDomain p) = .on)

/-- RUN, or IDLE, which is RUN with its clocks gated (R450). -/
def State.running (s : State) : Bool := decide (s.pwr.mode = .run) || decide (s.pwr.mode = .idle)

/-- Whether the test access port holds the pins as in a reset (R441). -/
def State.padsHeld (s : State) : Bool :=
  match s.pwr.tap with
  | .bypass | .idcode | .sample => false
  | .other _ => true

/-! Counters (R42, R499): 48 bits, wrapping, advancing only while their EN bit is 1. -/

/-- Offset of a counter's low word. -/
def cntOff (i : Nat) : Nat := 0x080 + 8 * i

/-- A counter's 48-bit value. -/
def State.counter (s : State) (p : Page) (i : Nat) : Nat :=
  (s.reg p (cntOff i)).toNat + (s.reg p (cntOff i + 4)).toNat % 2 ^ 16 * 2 ^ 32

/-- Store a counter's value, modulo 2^48. -/
def State.setCounter (s : State) (p : Page) (i v : Nat) : State :=
  (s.setReg p (cntOff i) (BitVec.ofNat 32 (v % 2 ^ 32))).setReg p (cntOff i + 4) (BitVec.ofNat 32 (v / 2 ^ 32 % 2 ^ 16))

/-- Whether a counter of the page counts. -/
def State.cntEn (s : State) (p : Page) (i : Nat) : Bool := decide (i < nCounters p) && (s.reg p offCntCtrl).getLsbD i

/-- Advance a counter by `n` events. -/
def State.bumpBy (s : State) (p : Page) (i n : Nat) : State :=
  if s.cntEn p i then s.setCounter p i (s.counter p i + n) else s

/-- Advance a counter by one event. -/
def State.bump (s : State) (p : Page) (i : Nat) : State := s.bumpBy p i 1

/-! Free values: what the spec leaves open is an application of a bodiless constant of Config to the number of values
drawn so far. -/

/-- The next free value, as a number. -/
def State.freeNat (s : State) : Nat × State := (Config.freeNat s.fresh, { s with fresh := s.fresh + 1 })

end Sys2Proof.Machine
end

