-- ==== Sys2Proof/Machine/Aes.lean ====
section
/-! DEFINITION. AES and the modes of Table 11-8 on bytes held as natural numbers (R329, R330, R335): CTR, CCM, GCM, CMAC and key
wrap. -/

set_option Elab.async false

namespace Sys2Proof.Machine

/-- The AES substitution as 256 bytes, entry `x` at bits [8x+7:8x]. -/
def sboxTable : Nat :=
  0xc072a49cafa2d4adf04759fa7dc982ca76abd7fe2b670130c56f6bf27b777c63 * 2 ^ 0 +
  0x75b227ebe28012079a059618c323c7041531d871f1e5a534ccf73f362693fdb7 * 2 ^ 256 +
  0xcf584c4a39becb6a5bb1fc20ed00d153842fe329b3d63b52a05a6e1b1a2c8309 * 2 ^ 512 +
  0xd2f3ff1021dab6bcf5389d928f40a351a89f3c507f02f94585334d43fbaaefd0 * 2 ^ 768 +
  0xdb0b5ede14b8ee4688902a22dc4f816073195d643d7ea7c41744975fec130ccd * 2 ^ 1024 +
  0x08ae7a65eaf4566ca94ed58d6d37c8e779e4959162acd3c25c2406490a3a32e0 * 2 ^ 1280 +
  0x9e1dc186b95735610ef6034866b53e708a8bbd4b1f74dde8c6b4a61c2e2578ba * 2 ^ 1536 +
  0x16bb54b00f2d99416842e6bf0d89a18cdf2855cee9871e9b948ed9691198f8e1 * 2 ^ 1792

/-- The inverse substitution. -/
def invSboxTable : Nat :=
  0xcbe9dec444438e3487ff2f9b8239e37cfbd7f3819ea340bf38a53630d56a0952 * 2 ^ 0 +
  0x25d18b6d49a25b76b224d92866a12e084ec3fa420b954cee3d23c2a632947b54 * 2 ^ 256 +
  0x849d8da75746155edab9edfd5048706c92b6655dcc5ca4d41698688664f6f872 * 2 ^ 512 +
  0x6b8a130103bdafc1020f3fca8f1e2cd00645b3b80558e4f70ad3bc8c00abd890 * 2 ^ 768 +
  0x6edf751ce837f9e28535ade72274ac9673e6b4f0cecff297eadc674f4111913a * 2 ^ 1024 +
  0xf45acd78fec0db9a2079d2c64b3e56fc1bbe18aa0e62b76f89c5291d711af147 * 2 ^ 1280 +
  0xef9cc9939f7ae52d0d4ab519a97f51605fec8027591012b131c7078833a8dd1f * 2 ^ 1536 +
  0x7d0c2155631469e126d677ba7e042b17619953833cbbebc8b0f52aae4d3be0a0 * 2 ^ 1792

def sbox (x : Nat) : Nat := sboxTable / 2 ^ (8 * (x % 256)) % 256
def invSbox (x : Nat) : Nat := invSboxTable / 2 ^ (8 * (x % 256)) % 256

/-- Doubling in the AES field. -/
def xtime (x : Nat) : Nat := if x < 128 then 2 * x else Nat.xor (2 * x) 0x11B

/-- Multiplication by a constant below 16. -/
def gmul (x c : Nat) : Nat :=
  let x2 := xtime x
  let x4 := xtime x2
  let x8 := xtime x4
  let p := fun (b : Nat) (v : Nat) => if c / b % 2 = 1 then v else 0
  Nat.xor (Nat.xor (p 1 x) (p 2 x2)) (Nat.xor (p 4 x4) (p 8 x8))

/-- Bytewise exclusive or, of the length of the shorter. -/
def xorBytes (a b : List Nat) : List Nat := (a.zip b).map fun e => Nat.xor e.1 e.2

/-- The round keys of a key of 16 or 32 bytes, as words of four bytes, `n` in all, newest last. -/
def expandKey (key : List Nat) : Nat → List (List Nat)
  | 0 => []
  | n + 1 =>
    let nk := key.length / 4
    let ws := expandKey key n
    if n < nk then ws ++ [(key.drop (4 * n)).take 4]
    else
      let prev := ws.getD (n - 1) []
      let t := if n % nk = 0 then
          let r := (prev.drop 1 ++ prev.take 1).map sbox
          xorBytes r [(2 ^ (n / nk - 1) % 256) + (if 8 < n / nk then 0x1B * 2 ^ (n / nk - 9) else 0), 0, 0, 0]
        else if 6 < nk ∧ n % nk = 4 then prev.map sbox else prev
      ws ++ [xorBytes (ws.getD (n - nk) []) t]

/-- Rounds of a key length. -/
def aesRounds (key : List Nat) : Nat := key.length / 4 + 6

/-- The round keys, 16 bytes each. -/
def roundKeys (key : List Nat) : List (List Nat) :=
  let ws := expandKey key (4 * (aesRounds key + 1))
  (List.range (aesRounds key + 1)).map fun r => ((ws.drop (4 * r)).take 4).flatten

def shiftRows (st : List Nat) : List Nat := (List.range 16).map fun i => st.getD ((i + 4 * (i % 4)) % 16) 0
def invShiftRows (st : List Nat) : List Nat := (List.range 16).map fun i => st.getD ((i + 16 - 4 * (i % 4)) % 16) 0

/-- A column mix by a circulant of constants. -/
def mixWith (cs : List Nat) (st : List Nat) : List Nat :=
  (List.range 16).map fun i =>
    let c := i / 4 * 4
    (List.range 4).foldl (fun a k => Nat.xor a (gmul (st.getD (c + k) 0) (cs.getD ((k + 4 - i % 4) % 4) 0))) 0

/-- AES encryption of one block under its round keys. -/
def aesBlock (rks : List (List Nat)) (b : List Nat) : List Nat :=
  let n := rks.length - 1
  let mid := (List.range (n - 1)).foldl (fun st r =>
    xorBytes (mixWith [2, 3, 1, 1] (shiftRows (st.map sbox))) (rks.getD (r + 1) [])) (xorBytes b (rks.getD 0 []))
  xorBytes (shiftRows (mid.map sbox)) (rks.getD n [])

/-- AES decryption of one block. -/
def aesInv (rks : List (List Nat)) (b : List Nat) : List Nat :=
  let n := rks.length - 1
  let mid := (List.range (n - 1)).foldl (fun st r =>
    mixWith [14, 11, 13, 9] (xorBytes ((invShiftRows st).map invSbox) (rks.getD (n - 1 - r) []))) (xorBytes b (rks.getD n []))
  xorBytes ((invShiftRows mid).map invSbox) (rks.getD 0 [])

/-- One block under a key. -/
def aes (key b : List Nat) : List Nat := aesBlock (roundKeys key) b

/-! Bytes. -/

/-- `n` bytes of a number, least significant first, and most significant first. -/
def leBytes (n v : Nat) : List Nat := (List.range n).map fun i => v / 2 ^ (8 * i) % 256
def beBytes (n v : Nat) : List Nat := (leBytes n v).reverse

/-- The number of bytes least significant first, and most significant first. -/
def ofLe (l : List Nat) : Nat := l.foldr (fun b a => 256 * a + b % 256) 0
def ofBe (l : List Nat) : Nat := l.foldl (fun a b => 256 * a + b % 256) 0

/-- Bytes cut into `n` blocks of 16, the last zero-padded. -/
def blocks16 (l : List Nat) : List (List Nat) :=
  (List.range (ceilDiv l.length 16)).map fun i =>
    let b := (l.drop (16 * i)).take 16
    b ++ List.replicate (16 - b.length) 0

/-! CMAC (SP 800-38B). -/

/-- Doubling of a block in the CMAC field. -/
def cmacDouble (b : List Nat) : List Nat :=
  let v := ofBe b
  beBytes 16 (Nat.xor (2 * v % 2 ^ 128) (if v / 2 ^ 127 % 2 = 1 then 0x87 else 0))

/-- The CMAC of a message. -/
def cmac (key msg : List Nat) : List Nat :=
  let rks := roundKeys key
  let k1 := cmacDouble (aesBlock rks (List.replicate 16 0))
  let n := max 1 (ceilDiv msg.length 16)
  let last := msg.drop (16 * (n - 1))
  let lastBlk := if last.length = 16 then xorBytes last k1
    else xorBytes (last ++ [0x80] ++ List.replicate (15 - last.length) 0) (cmacDouble k1)
  (((List.range (n - 1)).map fun i => (msg.drop (16 * i)).take 16) ++ [lastBlk]).foldl
    (fun x b => aesBlock rks (xorBytes x b)) (List.replicate 16 0)

/-! CTR, with the low 32 bits of the counter block counting. -/

def ctrXor (key ctr0 data : List Nat) : List Nat :=
  let rks := roundKeys key
  let hi := ctr0.take 12
  let lo := ofBe (ctr0.drop 12)
  ((List.range (ceilDiv data.length 16)).flatMap fun i =>
    xorBytes ((data.drop (16 * i)).take 16) (aesBlock rks (hi ++ beBytes 4 ((lo + i) % 2 ^ 32))))

/-! CCM (SP 800-38C) with a nonce of 13 bytes. -/

/-- The tag of `t` bytes before encryption. -/
def ccmMac (key nonce aad data : List Nat) (t : Nat) : List Nat :=
  let rks := roundKeys key
  let b0 := [(if aad = [] then 0 else 0x40) + 8 * ((t - 2) / 2) + 1] ++ nonce ++ beBytes 2 data.length
  let a := if aad = [] then [] else blocks16 (beBytes 2 aad.length ++ aad)
  (([b0] ++ a ++ blocks16 data).foldl (fun x b => aesBlock rks (xorBytes x b)) (List.replicate 16 0)).take t

/-- The data through the CCM counter stream, from A_1. -/
def ccmStream (key nonce data : List Nat) : List Nat :=
  let rks := roundKeys key
  (List.range (ceilDiv data.length 16)).flatMap fun i =>
    xorBytes ((data.drop (16 * i)).take 16) (aesBlock rks ([1] ++ nonce ++ beBytes 2 (i + 1)))

/-- The tag mask, A_0. -/
def ccmMask (key nonce : List Nat) : List Nat := aes key ([1] ++ nonce ++ [0, 0])

def ccmEncrypt (key nonce aad data : List Nat) (t : Nat) : List Nat × List Nat :=
  (ccmStream key nonce data, xorBytes (ccmMac key nonce aad data t) (ccmMask key nonce))

def ccmDecrypt (key nonce aad data tag : List Nat) : Option (List Nat) :=
  let p := ccmStream key nonce data
  if xorBytes (ccmMac key nonce aad p tag.length) (ccmMask key nonce) = tag then some p else none

/-! GCM (SP 800-38D) with a 96-bit IV and a 16-byte tag. -/

/-- Multiplication in the GHASH field, both factors most significant bit first. -/
def ghashMul (x y : Nat) : Nat :=
  ((List.range 128).foldl (fun (zv : Nat × Nat) i =>
    let z := if x / 2 ^ (127 - i) % 2 = 1 then Nat.xor zv.1 zv.2 else zv.1
    (z, if zv.2 % 2 = 1 then Nat.xor (zv.2 / 2) (0xE1 * 2 ^ 120) else zv.2 / 2)) (0, y)).1

def gcmTag (key iv aad ct : List Nat) : List Nat :=
  let rks := roundKeys key
  let h := ofBe (aesBlock rks (List.replicate 16 0))
  let len := beBytes 8 (8 * aad.length) ++ beBytes 8 (8 * ct.length)
  let s := (blocks16 aad ++ blocks16 ct ++ [len]).foldl (fun y b => ghashMul (Nat.xor y (ofBe b)) h) 0
  xorBytes (beBytes 16 s) (aesBlock rks (iv ++ [0, 0, 0, 1]))

def gcmEncrypt (key iv aad data : List Nat) : List Nat × List Nat :=
  let ct := ctrXor key (iv ++ [0, 0, 0, 2]) data
  (ct, gcmTag key iv aad ct)

def gcmDecrypt (key iv aad ct tag : List Nat) : Option (List Nat) :=
  if gcmTag key iv aad ct = tag then some (ctrXor key (iv ++ [0, 0, 0, 2]) ct) else none

/-! Key wrap (SP 800-38F) with the default initial value. -/

/-- Unwrap `c`; the plaintext if its integrity check passes. -/
def kwUnwrap (key c : List Nat) : Option (List Nat) :=
  let rks := roundKeys key
  let n := c.length / 8 - 1
  let r0 := (List.range n).map fun i => (c.drop (8 * (i + 1))).take 8
  let fin := (List.range (6 * n)).foldl (fun (ar : List Nat × List (List Nat)) k =>
    let t := 6 * n - k
    let i := (t - 1) % n
    let b := aesInv rks (xorBytes ar.1 (beBytes 8 t) ++ ar.2.getD i [])
    (b.take 8, ar.2.set i (b.drop 8))) (c.take 8, r0)
  if 16 ≤ c.length ∧ c.length % 8 = 0 ∧ fin.1 = List.replicate 8 0xA6 then some fin.2.flatten else none

/-- Wrap `p`, whose length is a multiple of 8. -/
def kwWrap (key p : List Nat) : List Nat :=
  let rks := roundKeys key
  let n := p.length / 8
  let r0 := (List.range n).map fun i => (p.drop (8 * i)).take 8
  let fin := (List.range (6 * n)).foldl (fun (ar : List Nat × List (List Nat)) k =>
    let i := k % n
    let b := aesBlock rks (ar.1 ++ ar.2.getD i [])
    (xorBytes (b.take 8) (beBytes 8 (k + 1)), ar.2.set i (b.drop 8))) (List.replicate 8 0xA6, r0)
  fin.1 ++ fin.2.flatten

/-- The derivation of R330. -/
def deriveKey (nk : List Nat) (label netid idx : Nat) : List Nat :=
  cmac nk ([1, label, 0] ++ beBytes 2 netid ++ [idx, 0, 0x80])

end Sys2Proof.Machine
end

