-- ==== Sys2Proof/Machine/Phy.lean ====
section
/-! DEFINITION. Waveform, framing and coding at the level of bits and cells (R99 to R127): numerologies, slot layouts, frame
control, scrambling, LDPC coding, interleaving, cell order, pilots, constellations and diversity copies. -/

set_option Elab.async false

namespace Sys2Proof.Machine

/-! Numerologies (Table 04-1, Table 04-2); `n` is NUMER: 0 N1k, 1 N250, 2 W25k. Times in nanoseconds. -/

def fftN (n : Nat) : Nat := if n = 2 then 4096 else 1024
def carriersM (n : Nat) : Nat := if n = 2 then 3369 else 800
def usefulNs (n : Nat) : Nat := match n with | 0 => 1000000 | 1 => 4000000 | _ => 40000
def cpNs (n cp : Nat) : Nat := (match n with | 0 => 62500 | 1 => 250000 | _ => 1250) * 2 ^ cp
def cpSamples (n cp : Nat) : Nat := (if n = 2 then 128 else 64) * 2 ^ cp
def symNs (n cp : Nat) : Nat := usefulNs n + cpNs n cp
def guardNs (n : Nat) : Nat := if n = 2 then 20000 else 500000
def preNs (n : Nat) : Nat := match n with | 0 => 2000000 | 1 => 500000 | _ => 160000
def seamNs (n : Nat) : Nat := if n = 2 then 5000 else 125000
def tailNs (n : Nat) : Nat := if n = 2 then 10000 else 250000
/-- Samples of the complex rate in a time, as a numerator over 10^6. -/
def samplesE6 (n ns : Nat) : Nat := ns * (match n with | 0 => 1024 | 1 => 256 | _ => 102400)
/-- Contention windows and mini-slots (R207). -/
def windowNs (n : Nat) : Nat := if n = 2 then 10000 else 250000
def miniNs (n : Nat) : Nat := if n = 2 then 5000 else 125000
/-- The guard of an entry: that of a CONTEND entry is longer (R208). -/
def entryGuardNs (n : Nat) (contend : Bool) : Nat :=
  guardNs n + if contend then 4 * windowNs n + 8 * miniNs n else 0

/-- FFT bin of a carrier index (R100), the W-band's against its NCO. -/
def binOf (n m : Nat) : Int := if n = 2 then (m : Int) + 72 - 2048 else if m < 400 then (m : Int) - 400 else (m : Int) - 399

/-- The carriers of sub-band `b` of `sb` (R102): first, and one past the last. -/
def subBand (n sb b : Nat) : Nat × Nat := (b * carriersM n / sb, (b + 1) * carriersM n / sb)

/-- The carriers of a channel range that lie in a mask of sub-bands. -/
def carrierSet (n sb lo hi mask : Nat) : List Nat :=
  (List.range sb).flatMap fun b =>
    if bitOf mask b then
      let r := subBand n sb b
      (List.range (r.2 - r.1)).filterMap fun k =>
        if lo ≤ r.1 + k ∧ r.1 + k ≤ hi then some (r.1 + k) else none
    else []

/-! Frame-control layout (R114) and data symbols (R105). -/

/-- FC symbols and copies for the number of FC carriers: (n_FC, D_FC). -/
def fcLayout (n cfc : Nat) : Nat × Nat :=
  if cfc = 0 then (0, 1)
  else
    let nMin := if n = 2 then 2 else 1
    let nMax := if n = 2 then 4 else 2
    let need := fun d => max nMin (ceilDiv (120 * d) cfc)
    match (if n = 2 then [2] else [4, 2]).find? fun d => decide (need d ≤ nMax) with
    | some d => (need d, d)
    | none => (need 1, 1)

/-- FC carriers of a carrier set: those that are not FC pilots. -/
def fcCarriers (set : List Nat) : Nat := (set.filter fun m => decide (m % 8 ≠ 0)).length

/-- The transmitted length of the FC block. -/
def fcBlock (n cfc : Nat) : Nat := let l := fcLayout n cfc; min 696 (2 * l.1 * cfc / l.2)

/-- Data symbols that a span can hold (R105). -/
def dataSymbols (n cp span guard nFc nS aHd : Nat) : Nat :=
  (span - (guard + preNs n + nFc * symNs n cp + (nS - 1) * seamNs n + tailNs n + aHd)) / symNs n cp

/-! CRC and scrambler. -/

/-- Bits of a number from bit 0 upward. -/
def bitsOf (w v : Nat) : List Bool := (List.range w).map fun i => bitOf v i

/-- A number from its bits, bit 0 first. -/
def ofBits (l : List Bool) : Nat := l.foldr (fun b a => 2 * a + (if b then 1 else 0)) 0

/-- The CRC-24 of R112. -/
def crc24 (l : List Bool) : Nat :=
  l.foldl (fun r b =>
    let top := decide (r / 2 ^ 23 % 2 = 1) != b
    let s := r * 2 % 2 ^ 24
    if top then Nat.xor s 0x864CFB else s) 0xFFFFFF

/-- The scrambler of R116, with the register it leaves. -/
def scramble : Nat → List Bool → List Bool
  | _, [] => []
  | r, d :: ds =>
    let s := bitOf r 22 != bitOf r 17
    (d != s) :: scramble ((r * 2 + (if s then 1 else 0)) % 2 ^ 23) ds

/-- The payload seed. -/
def payloadSeed (netid slot : Nat) : Nat := Nat.lor 0x400000 (netid * 64 + slot % 64)

/-! LDPC codes (R117, R118). A block of Z bits is a number, bit z at index z. -/

/-- Base rows, base columns and information columns by RATE. -/
def ldpcRows (rate : Nat) : Nat := match rate with | 0 => 12 | 1 => 8 | 2 => 6 | 3 => 4 | _ => 3
def ldpcInfoCols (rate : Nat) : Nat := if rate = 4 then 22 else 24 - ldpcRows rate
def liftZ (long : Bool) : Nat := if long then 288 else 48
/-- Information and transmitted lengths (Table 04-8). -/
def infoBits (rate : Nat) (long : Bool) : Nat :=
  (match rate with | 0 => 576 | 1 => 768 | 2 => 864 | 3 => 960 | _ => 1024) * (if long then 6 else 1)
def codeBits (long : Bool) : Nat := if long then 6912 else 1152

def shiftA (i : Nat) : Nat := [1, 3, 5, 7, 11, 13, 17, 19, 23, 29, 31, 37].getD i 0
def shiftB (j : Nat) : Nat :=
  [3, 8, 14, 21, 29, 38, 2, 13, 25, 38, 52, 67, 5, 22, 40, 59, 79, 100, 11, 34, 58, 83].getD j 0

/-- A block through a circulant of shift `v`. -/
def rotBlock (z x v : Nat) : Nat := let v := v % z; Nat.lor (x / 2 ^ v) (x * 2 ^ (z - v) % 2 ^ z)

/-- The information part of row `i`. -/
def ldpcRow (rate z : Nat) (info : List Nat) (i : Nat) : Nat :=
  (info.zipIdx).foldl (fun a e =>
    if (7 * i + 5 * e.2) % ldpcRows rate < 3 then Nat.xor a (rotBlock z e.1 (shiftA i * shiftB e.2)) else a) 0

/-- The parity blocks of the information blocks. -/
def ldpcParity (rate z : Nat) (info : List Nat) : List Nat :=
  let mb := ldpcRows rate
  let lam := (List.range mb).map (ldpcRow rate z info)
  let p0 := lam.foldl Nat.xor 0
  let first := Nat.xor (lam.getD 0 0) (rotBlock z p0 1)
  let rest := (List.range (mb - 2)).foldl (fun ps k =>
    let t := k + 1
    let v := Nat.xor (lam.getD t 0) (ps.getLastD 0)
    ps ++ [if t = mb / 2 then Nat.xor v p0 else v]) [first]
  p0 :: rest

/-- Whether a codeword's syndrome is zero. -/
def ldpcOk (rate z : Nat) (info parity : List Nat) : Bool := ldpcParity rate z info = parity

/-- Bits cut into blocks of `z`, padded with zeros. -/
def toBlocks (z k : Nat) (l : List Bool) : List Nat := (List.range k).map fun i => ofBits ((l.drop (i * z)).take z)

/-- The transmitted bits of a codeword before interleaving (R117, R118), for its information bits. -/
def ldpcEncode (rate : Nat) (long : Bool) (info : List Bool) : List Bool :=
  let z := liftZ long
  let par := (ldpcParity rate z (toBlocks z (ldpcInfoCols rate) info)).flatMap (bitsOf z)
  (List.range (infoBits rate long)).map (fun i => info.getD i false) ++ par.take (codeBits long - infoBits rate long)

/-- A rate-1/2 short codeword shortened to `e` transmitted bits: `k` information bits, then parity from the lowest index
(R114, R118, R127, R194). -/
def shortEncode (k e : Nat) (info : List Bool) : List Bool :=
  let par := (ldpcParity 0 48 (toBlocks 48 12 (info.take k))).flatMap (bitsOf 48)
  (List.range k).map (fun i => info.getD i false) ++ par.take (e - k)

/-! Interleaving (R119). -/

/-- Whether a number is prime, by trial division. -/
def isPrime (p : Nat) : Bool := decide (2 ≤ p) && (List.range (p - 2)).all fun k => decide (p % (k + 2) ≠ 0)

/-- The interleaver's step for a length. -/
def stepP (l : Nat) : Nat :=
  let lo := (3 * l + 5) / 10
  ((List.range (lo + 2)).find? fun k => isPrime (lo + 1 + k) && decide (l % (lo + 1 + k) ≠ 0)).elim 1 (lo + 1 + ·)

/-- Interleaved order of a transmitted codeword. -/
def interleave (l : List Bool) : List Bool :=
  let n := l.length
  let p := stepP n
  (List.range n).map fun j => l.getD (j * p % n) false

/-- Copies of an interleaved block (R126): `cells` positions, the block sent in `n` copies and repeated from there. -/
def copies (n cells : Nat) (l : List Bool) : List Bool :=
  let k := l.length
  (List.range cells).map fun u0 =>
    let u := u0 % (n * k)
    l.getD ((u % k + n * k - u / k * (k / n)) % k) false

/-! Codewords of a payload (R120). -/

/-- Long and short codewords for `b` information bits: (CW_LEN, CW_COUNT, CW_FILL). -/
def codewordsFor (rate b : Nat) : Nat × Nat × Nat :=
  let is_ := infoBits rate false
  let il := infoBits rate true
  if b ≤ 5 * is_ then (0, max 1 (ceilDiv b is_), 0)
  else
    let r := b % il
    if ceilDiv r is_ ≤ 5 then (1, b / il, ceilDiv r is_) else (1, b / il + 1, 0)

/-- Coded bits of a set of codewords. -/
def codedBits (cwLen count fill : Nat) : Nat := count * codeBits (cwLen = 1) + fill * 1152

/-! Cells (R121 to R123). -/

/-- Pilot spacing by the PILOT code of a tone map. -/
def pilotP (code : Nat) : Nat := match code with | 1 => 24 | 2 => 12 | _ => 0

/-- Whether carrier `m` is a pilot of symbol `t` for any of `s` streams. -/
def isPilot (p s t m : Nat) : Bool :=
  decide (p ≠ 0) && (List.range s).any fun k => decide ((m + p / 4 * (t % 4) + p - k % p) % p = 0)

/-- Carriers in the cell order of one symbol. -/
def carrierOrder (n : Nat) : List Nat :=
  let mm := carriersM n
  (List.range mm).map fun j => j * (if n = 2 then 1031 else 269) % mm

/-- Non-pilot cells of a carrier set in one symbol, for one stream. -/
def cellsIn (p s t : Nat) (set : List Nat) : Nat := (set.filter fun m => !isPilot p s t m).length

/-- Cells of the default map (R149) or of a diversity frame over `nd` symbols: P = 12, one stream. -/
def plainCells (nd : Nat) (set : List Nat) : Nat :=
  ((List.range nd).map fun t => cellsIn 12 1 t set).foldl (· + ·) 0

/-- Gray decode of a label, most significant bit first. -/
def grayPos (l : List Bool) : Nat :=
  (l.foldl (fun (a : Nat × Bool) b => let g := a.2 != b; (2 * a.1 + (if g then 1 else 0), g)) (0, false)).1

/-- The bits of one axis of a cell: the even or the odd positions. -/
def axisBits (odd : Bool) (l : List Bool) : List Bool :=
  (l.zipIdx).filterMap fun e => if decide (e.2 % 2 = 1) == odd then some e.1 else none

/-- Amplitude of an axis: 2p − (2^q − 1), or 0 without bits. -/
def axisAmp (l : List Bool) : Int := if l = [] then 0 else 2 * (grayPos l : Int) - (2 ^ l.length - 1)

/-- A cell's point before scaling by 1/√E: the I and Q amplitudes (R122). -/
def cellPoint (l : List Bool) : Int × Int := (axisAmp (axisBits false l), axisAmp (axisBits true l))

/-! Mains-phase regions (R124). -/

/-- The region of an instant, with θ, both in 2^-20 slot. -/
def regionOf (tau theta : Nat) : Nat := 12 * ((tau + 2 ^ 21 - theta % 2 ^ 21) % 2 ^ 21) / 2 ^ 20

/-! Frame-control fields (Table 04-5). -/

/-- A field of a 96-bit FC. -/
def fcGet (fc lo w : Nat) : Nat := fc / 2 ^ lo % 2 ^ w

/-- An FC from its fields. -/
structure Fc where
  ftype : Nat
  train : Nat
  streams : Nat
  tmapId : Nat
  anchor : Bool
  rate : Nat
  cwLen : Nat
  cwCount : Nat
  cwFill : Nat
  div : Nat
  prio : Nat
  dataSyms : Nat
  netid : Nat
  ttl : Nat
  ver : Nat
  deriving DecidableEq, Repr

def Fc.decode (w : Nat) : Fc :=
  ⟨fcGet w 92 4, fcGet w 90 2, fcGet w 88 2, fcGet w 76 12, bitOf w 75, fcGet w 72 3, fcGet w 71 1, fcGet w 57 14,
    fcGet w 54 3, fcGet w 51 3, fcGet w 49 2, fcGet w 39 10, fcGet w 23 16, fcGet w 17 6, fcGet w 15 2⟩

def Fc.encode (f : Fc) : Nat :=
  f.ftype % 16 * 2 ^ 92 + f.train % 4 * 2 ^ 90 + f.streams % 4 * 2 ^ 88 + f.tmapId % 4096 * 2 ^ 76 +
  (if f.anchor then 2 ^ 75 else 0) + f.rate % 8 * 2 ^ 72 + f.cwLen % 2 * 2 ^ 71 + f.cwCount % 16384 * 2 ^ 57 +
  f.cwFill % 8 * 2 ^ 54 + f.div % 8 * 2 ^ 51 + f.prio % 4 * 2 ^ 49 + f.dataSyms % 1024 * 2 ^ 39 + f.netid % 65536 * 2 ^ 23 +
  f.ttl % 64 * 2 ^ 17 + f.ver % 4 * 2 ^ 15

/-- The 120 bits of FC and CRC in transmission order (R111, R112). -/
def fcWithCrc (fc : Nat) : List Bool :=
  let b := bitsOf 96 fc
  b ++ (bitsOf 24 (crc24 b)).reverse

/-- The FC block as sent: scrambled, encoded, interleaved (R114). -/
def fcSent (n cfc fc : Nat) : List Bool :=
  interleave (shortEncode 120 (fcBlock n cfc) (scramble 0x7FFFFF (fcWithCrc fc)))

/-- The FC that 120 decoded bits hold after descrambling, if the CRC agrees. -/
def fcReceived (bits : Nat) : Option Nat :=
  let d := scramble 0x7FFFFF (bitsOf 120 bits)
  let fc := ofBits (d.take 96)
  if fcWithCrc fc = d then some fc else none

/-- Copies of a diversity mode. -/
def divCopies (div : Nat) : Nat := 2 ^ div

/-- The transmitted length of the last codeword of a diversity frame (R127): what remains after the full ones. -/
def divLast (copies cells count : Nat) : Nat := min 1152 ((cells - (count - 1) * copies * 1152) / copies)

/-- The checks of R113 that need no link: reserved values and combinations. -/
def Fc.wellFormed (f : Fc) : Bool :=
  decide (f.ver = 0) && decide (1 ≤ f.ftype ∧ f.ftype ≤ 8) && decide (f.rate ≤ 4) && decide (f.div ≤ 4) &&
  decide (f.streams ≤ 2) && !(decide (f.div ≠ 0) && (decide (f.rate ≠ 0) || decide (f.streams ≠ 0))) &&
  !(decide (f.cwLen = 0) && decide (f.cwFill ≠ 0))

end Sys2Proof.Machine
end

