-- ==== Sys2Proof/Machine/Flags.lean ====
section
/-! DEFINITION. The flags of every page: events, faults and their aggregation into interrupts (R40, R41, R68 to R71). -/

set_option Elab.async false

namespace Sys2Proof.Machine

/-- The event group of a manager page (Table 02-11). -/
def eventGroup : Page → Option Nat
  | .dev | .pwr | .clk | .rst | .thm => some 0
  | .nvm | .upd => some 1
  | .hif | .shp => some 2
  | .np _ => some 3
  | .wp _ => some 4
  | .spx _ => some 5
  | .sch | .fig | .dwl | .cmd => some 6
  | .rly | .seen | .rte | .dir => some 7
  | .slp => some 8
  | .tnt _ => some 9
  | .cph | .key | .ent => some 10
  | .twn | .hlt => some 11
  | .mon _ | .mns => some 12
  | .uart _ | .pmx | .cmdio => some 13
  | .cnt | .hst _ => some 14
  | .ch _ => some 15
  | .tpage _ | .dbell _ | .crq _ | .ucp _ => none

/-- Whether a page is pending: an event bit set and enabled (R68). -/
def State.pendingPage (s : State) (p : Page) : Bool := (s.reg p offEvent &&& s.reg p offEventEn) != 0

/-- A vector number out of an array of four per register. -/
def vecEntry (w : Word) (e : Nat) : Nat := (w.toNat / 2 ^ (8 * (e % 4))) % 64

/-- The function and vector that a page's events go to: the manager's group or channel route (R68), or the tenant's
`TNT_VEC` for its event pages (R290). -/
def State.route (s : State) (p : Page) : Option (Nat × Nat) :=
  match p with
  | .ch c => some (0, vecEntry (s.reg .dev (0x0C0 + 4 * (c.val / 4))) c.val)
  | .tpage t | .crq t => some (t.val + 1, s.fld (.tpage t) F.TNT_VEC_VEC)
  | _ => (eventGroup p).map fun g => (0, vecEntry (s.reg .dev (0x0A0 + 4 * (g / 4))) g)

/-- The pages whose events can go to a function's vectors. -/
def eventPages (fn : Nat) : List Page :=
  if fn = 0 then mgrPages else (List.finRange 8).flatMap fun t => if t.val + 1 = fn then [.tpage t, .crq t] else []

/-- Whether completion queue `q` of tenant `t` is asserted (R290). -/
def State.cqAsserted (s : State) (t : Fin 8) (q : Nat) : Bool :=
  s.flag (.tpage t) (F.TNT_CQ_CFG_IE.at q) &&
    s.fld (.tpage t) (F.TNT_CQ_STAT_HEAD.at q) != s.fld (.tpage t) (F.TNT_CQ_STAT_TAIL.at q)

/-- Whether the cipher completion queue of tenant `t` is asserted (R341). -/
def State.crqAsserted (s : State) (t : Fin 8) : Bool :=
  s.flag (.crq t) F.CR_CQ_CFG_IE && s.fld (.crq t) F.CR_CQ_STAT_HEAD != s.fld (.crq t) F.CR_CQ_STAT_TAIL

/-- Whether a completion queue of the tenant holds a vector asserted. -/
def State.cqVec (s : State) (t : Fin 8) (vec : Nat) : Bool :=
  ((List.range 8).any fun q => s.cqAsserted t q && decide (s.fld (.tpage t) (F.TNT_CQ_CFG_VEC.at q) = vec)) ||
  (s.crqAsserted t && decide (s.fld (.crq t) F.CR_CQ_CFG_VEC = vec))

/-- Whether a vector of a function is asserted: some page routed to it is pending (R69), or some completion queue that
raises it is asserted (R290). -/
def State.vecAsserted (s : State) (fn vec : Nat) : Bool :=
  ((eventPages fn).any fun p => s.pendingPage p && decide (s.route p = some (fn, vec))) ||
  ((List.finRange 8).any fun t => decide (t.val + 1 = fn) && s.cqVec t vec)

/-- The PCIe side of a function. -/
def State.fnState (s : State) (fn : Nat) : PcieFn := s.fns.getD fn PcieFn.reset

/-- Replace the PCIe side of a function. -/
def State.setFn (s : State) (fn : Nat) (f : PcieFn) : State := { s with fns := s.fns.set fn f }

/-- Send a vector's MSI-X message, or set its pending bit while the vector is masked or the function may issue no request
(R69, R412). -/
def State.msix (s : State) (fn vec : Nat) : State :=
  let f := s.fnState fn
  if f.msixEn && f.bme && !f.d3 && bitOf f.unmasked vec then s.emit (.msix fn vec)
  else s.setFn fn { f with pend := setBitOf f.pend vec true }

/-- Carry out a change that can alter only what asserts one vector of a function, and send its message if it becomes
asserted, or, after a software write that R69 names, if it is still asserted. -/
def State.withVec (s : State) (fn vec : Nat) (write : Bool) (f : State → State) : State :=
  let t := f s
  if t.vecAsserted fn vec && (write || !s.vecAsserted fn vec) then t.msix fn vec else t

/-- The same for a change of one page's pending state. -/
def State.withEvents (s : State) (p : Page) (write : Bool) (f : State → State) : State :=
  match s.route p with
  | none => f s
  | some (fn, vec) => s.withVec fn vec write f

/-- Set event bits, as their conditions do (R40). Bits that the page does not define stay clear. -/
def State.setEvents (s : State) (p : Page) (m : Word) : State :=
  s.withEvents p false fun s => s.setReg p offEvent (s.reg p offEvent ||| (m &&& eventMask p))

/-- Set one event bit. -/
def State.event (s : State) (p : Page) (i : Nat) : State := s.setEvents p (onesAt i 1)

/-- The index of the lowest set bit of a mask below 32. -/
def lowestBit (w : Word) : Nat := ((List.range 32).find? fun i => w.getLsbD i).getD 0

/-- The word of `PG_FAULT_INFO` for a fault (R41). -/
def faultInfo (i detail : Nat) : Word := BitVec.ofNat 32 (i * 2 ^ 27 + detail % 2 ^ 27)

/-- The first fault while `PG_FAULT` is clear is described in `PG_FAULT_INFO` (R41). -/
def State.faultNote (s : State) (p : Page) (i detail : Nat) : State :=
  if s.reg p offFault = 0 then s.setReg p offFaultInfo (faultInfo i detail) else s

/-- Set a fault bit (R41); a bit that changes from 0 to 1 sets the event FAULT (R40). -/
def State.fault (s : State) (p : Page) (i detail : Nat) : State :=
  if !(faultMask p).getLsbD i then s
  else if (s.reg p offFault).getLsbD i then s
  else ((s.faultNote p i detail).setRegBit p offFault i true).event p 0

/-- Clear fault bits; once none is left, `PG_FAULT_INFO` reads zero (R41). -/
def State.clearFaults (s : State) (p : Page) (m : Word) : State :=
  let w := s.reg p offFault &&& ~~~ m
  let s1 := s.setReg p offFault w
  if w = 0 then s1.setReg p offFaultInfo 0 else s1

/-- Whether a fault bit is set. -/
def State.faulted (s : State) (p : Page) (i : Nat) : Bool := (s.reg p offFault).getLsbD i

/-- `TNT_EVT_SUM` of a tenant (R290). -/
def State.evtSum (s : State) (t : Fin 8) : Word :=
  (List.range 8).foldl (fun a q => if s.cqAsserted t q then a ||| onesAt q 1 else a)
    (if s.pendingPage (.tpage t) || s.pendingPage (.crq t) then onesAt 8 1 else 0)

/-- Pending state of the manager's event groups, as `DEV_EVT_GRP` shows it. -/
def State.evtGrp (s : State) : Word :=
  mgrPages.foldl (fun a p => if s.pendingPage p then a ||| onesAt ((eventGroup p).getD 16) 1 else a) 0

/-- Pending state of 32 channels from `c0`, as `DEV_EVT_CH0` and `DEV_EVT_CH1` show it. -/
def State.evtCh (s : State) (c0 : Nat) : Word :=
  (List.finRange 64).foldl (fun a c => if decide (c0 ≤ c.val ∧ c.val < c0 + 32) && s.pendingPage (.ch c)
    then a ||| onesAt (c.val - c0) 1 else a) 0

/-- The tenant that the serial host port selects (R421). -/
def State.serialTenant (s : State) : Fin 8 := ⟨s.fld .shp F.SHP_CFG_TENANT % 8, Nat.mod_lt _ (by omega)⟩

/-- Whether INT_N is asserted (R70, R422): never in a reset or while PD3 is off. -/
def State.intN (s : State) : Bool :=
  decide (s.dom 3 = .on) && decide (s.pwr.mode ≠ .reset) && !s.padsHeld &&
  (decide ((s.evtGrp &&& s.reg .dev 0x09C &&& 0xFFFF) ≠ 0) ||
    (s.flag .dev F.DEV_INTN_EN_TENANT && s.evtSum s.serialTenant != 0))

end Sys2Proof.Machine
end

