-- ==== Sys2Proof/Machine/Operands.lean ====
section
/-! DEFINITION. How an access names a word, and how it is judged: the address maps (R44 to R48), the access types (R52), the
features (R56 to R62) and the violations (R63 to R66). -/

set_option Elab.async false

namespace Sys2Proof.Machine

/-! Features. -/

/-- Whether the device's accepted set is locked (R58). -/
def State.devLocked (s : State) : Bool := s.flag .dev F.DEV_FEAT_LOCK_LOCK

/-- The device's accepted features, none before the lock (R59, R60). DESIGN CHOICE (log 215): this holds of field values too, so that
`PWR_LG.EN` written 1 before the lock is a kind-3 violation. -/
def State.accepted (s : State) : Nat := if s.devLocked then (s.reg .dev 0x050).toNat else 0

/-- Whether feature F`k` is accepted. -/
def State.feat (s : State) (k : Nat) : Bool := bitOf s.accepted k

/-- The tenant-level features of Table 02-9: F0, F12, F16, F17, F18. -/
def tenantLevel : Nat := 0x71001

/-- Whether a tenant has locked its set (R61). -/
def State.tenLocked (s : State) (t : Fin 8) : Bool := s.flag (.tpage t) F.TNT_FEAT_LOCK_LOCK

/-- The features a tenant has accepted, none before its lock. -/
def State.tenAccepted (s : State) (t : Fin 8) : Nat := if s.tenLocked t then (s.reg (.tpage t) 0x044).toNat else 0

/-- Whether tenant `t` has accepted feature F`k`. -/
def State.tenFeat (s : State) (t : Fin 8) (k : Nat) : Bool := bitOf (s.tenAccepted t) k

/-- Whether a tenant reset is under way (R311). -/
def State.resetting (s : State) (t : Fin 8) : Bool := s.flag (.tnt t) F.TNT_MSTAT_RESETTING

/-- Whether a tenant's whole BAR0 works: both locks set and no tenant reset under way (R61, R311). -/
def State.tenOpen (s : State) (t : Fin 8) : Bool := s.devLocked && s.tenLocked t && !s.resetting t

/-- What the part offers (R56). -/
def State.offer (s : State) : Nat := if s.chip.is7236 then 0x00FFFFFF else 0x00FBFEF3

/-- What a tenant is offered (R61, R284). -/
def State.tenOffer (s : State) : Nat := (BitVec.ofNat 32 s.accepted &&& BitVec.ofNat 32 tenantLevel).toNat

/-- Whether every feature of a mask is in a set. -/
def subset (need have_ : Nat) : Bool := (BitVec.ofNat 32 need &&& ~~~ BitVec.ofNat 32 have_) == 0

/-- A feature that one register depends on beyond its page (R36, R96, R256, R510), as a mask. -/
def regFeat (p : Page) (off : Nat) : Nat :=
  match p with
  | .np _ => if off = 0x048 then 0x200000 else 0
  | .rly => if 0x040 ≤ off ∧ off ≤ 0x04C then 0x40 else if off = 0x050 then 0xC0 else 0
  | .ucp _ => if 0x100 ≤ off then 0x20000 else 0
  | _ => 0

/-- Whether a page, and the register named, is of the accepted set it is judged against: the tenant's own set for the
tenant's pages, the device's for every other (R36). -/
def State.featOk (s : State) (p : Page) (off : Nat) : Bool :=
  let have_ := match p.tenant? with
    | some t => s.tenAccepted t
    | none => s.accepted
  subset (pageFeat p) have_ && subset (regFeat p off) have_

/-! The lock conditions of RWL fields (R52), and the values that a field's description reserves (R63). -/

/-- Whether any CH page is enabled (R219). -/
def State.anyChannel (s : State) : Bool := (List.finRange 64).any fun c => s.enabled (.ch c)

/-- Whether an RWL field of a register is locked: the lock that the register's table or rule names. -/
def State.locked (s : State) (p : Page) (f : Fld) : Bool :=
  match p with
  | .dev => s.devLocked
  | .pwr => s.devLocked
  | .sch => s.anyChannel
  | .ch _ => if f.off = 0x480 then decide (s.fld p F.CH_TMAP_OVF_UNITS ≠ 0) else s.enabled p
  | .tpage t =>
    if f.off = 0x044 then s.tenLocked t
    else (s.reg p (if (f.off / 0x10) % 2 = 0 then f.off / 0x20 * 0x20 + 0x08 else f.off / 0x20 * 0x20 + 0x18)).getLsbD 31
  | .crq _ => (s.reg p (if f.off < 0x050 then 0x048 else 0x058)).getLsbD 31
  | _ => s.enabled p

/-- The features that a schedule entry's type requires (Table 07-4), as a mask; none for a reserved type. -/
def schedTypeFeat (ty : Nat) : Option Nat :=
  match ty with
  | 5 => some 0x40
  | 6 => some 0x200
  | _ => if ty ≤ 8 then some 0 else none

/-- Whether a written schedule entry holds a 1 in a reserved bit of Table 07-3, or a value that R197 names: a reserved type, one whose
feature is not accepted, or a train without F19. -/
def State.badEntry (s : State) (w : Nat) : Bool :=
  (match schedTypeFeat (w / 2 ^ 28) with | some f => !subset f s.accepted | none => true) ||
    (decide (w / 2 ^ 26 % 4 ≠ 0) && !s.feat 19) || decide (w % 256 ≠ 0 ∨ w / 2 ^ 16 % 4 ≠ 0)

/-- The modes that Table 15-2 permits in SLUMBER for a domain, as a list of mode codes; the domains that the OLF-7224
lacks permit only 0. -/
def slumberModes (is7236 : Bool) (d : Nat) : List Nat :=
  match d with
  | 0 | 1 => [2]
  | 2 | 10 | 13 => [0, 1]
  | 3 => [0, 1, 2]
  | 5 => if is7236 then [0, 1] else [0]
  | 19 => [0, 2]
  | _ => [0]

/-- The functions that Table 14-6 lists for a multifunction pin. -/
def pinFunctions : List Nat :=
  [0x00, 0x01, 0x20, 0x21, 0x22, 0x28, 0x29, 0x2A, 0x2B, 0x2C] ++ (List.range 12).map (0x10 + ·) ++
  (List.range 16).map (0x30 + ·)

/-- A written word without the fields that are locked: a write to one is no violation, and the rest of the word acts (R52). -/
def State.unlocked (s : State) (p : Page) (off : Nat) (w : Word) : Word :=
  (regFlds p off).foldl (fun a f => if f.acc == .rwl && s.locked p { f with off := off } then a &&& ~~~ f.mask else a) w

/-- A value written to a field that is not locked, which the field's description reserves, or which selects a function not accepted
(R60, R63). Value 0 is reserved nowhere. -/
def State.badValue (s : State) (p : Page) (off : Nat) (w0 : Word) : Bool :=
  let w := s.unlocked p off w0
  let is := fun (f : Fld) (v : Nat) => decide (f.get w = v)
  let above := fun (f : Fld) (v : Nat) => decide (v < f.get w)
  match p, off with
  | .dev, 0x050 => !subset (w.toNat - w.toNat % 2) s.offer
  | .dev, o => decide (0x054 ≤ o ∧ o ≤ 0x05C) && w != 0
  | .tpage _, 0x044 => !subset (w.toNat - w.toNat % 2) s.tenOffer
  | .np _, 0x040 => is F.NP_CFG_EXT_PA 1 && !s.feat 21
  | .ch _, 0x400 => (is F.CH_ADP_CTRL_TPL_EN 1 || is F.CH_ADP_CTRL_BLANK_EN 1) && !s.feat 5
  | .ch _, 0x418 => above F.CH_LINK_SEL_REGION 23
  | .ch _, 0x040 => is F.CH_CFG_NUMER 3 || is F.CH_CFG_STREAMS 3 || (is F.CH_CFG_NUMER 2 && !s.feat 2)
  | .ch _, 0x044 => !is F.CH_PORTS_W 0 && !s.feat 2
  | .ch _, 0x06C => is F.CH_FIG_DWL_EN 1 && !s.feat 23
  | .ch _, 0x070 => is F.CH_CMD_EN 1 && !s.feat 11
  | .sch, 0x044 => above F.SCH_MODE_NOMINAL 1 || (is F.SCH_MODE_FREE_RUN 1 && !s.feat 20)
  | .rly, 0x040 => above F.RLY_REEL_DIV 4
  | .rte, 0x048 => above F.RTE_E0_ALT_DIV 4
  | .rte, 0x054 => above F.RTE_E3_LEN 24
  | .rte, 0x05C => above F.RTE_CMD_OP 4
  | .dir, 0x040 => above F.DIR_CFG_SIZE_LOG2 23 || (above F.DIR_CFG_SIZE_LOG2 16 && !s.feat 8)
  | .dir, 0x048 => above F.DIR_CMD_OP 3
  | .slp, 0x040 => above F.SLP_CFG_TB 1 || (is F.SLP_CFG_GG 1 && !s.feat 10)
  | .tnt _, 0x054 => !is F.TNT_SPILL_SIZE_MIB 0 && !s.feat 18
  | .key, 0x040 =>
    let op := F.KEY_CMD_OP.get w
    decide (8 ≤ op) || (!s.feat 13 && (decide (op = 3 ∨ op = 4 ∨ op = 5) ||
      (decide (op = 2) && decide (s.fld .key F.KEY_ARG0_LABEL = 3 ∨ s.fld .key F.KEY_ARG0_LABEL = 4))))
  | .twn, 0x048 => above F.TWN_CMD_OP 1
  | .mon _, 0x040 => above F.MON_SRC_SRC 4
  | .mon _, 0x04C => is F.MON_BANK_XFADE 1 && !s.feat 15
  | .mns, 0x040 => is F.MNS_CFG_LOSS_SRC 3 || (is F.MNS_CFG_LG_EN 1 && !s.feat 22)
  | .pmx, o => decide (0x100 ≤ o ∧ o < 0x1C0) && (!pinFunctions.contains (w.toNat % 256) || decide (w.toNat / 2 ^ 16 % 4 = 3))
  | .uart u, 0x040 => (decide (u.val = 1) && is F.UART_CFG_LP_EN 1) || is F.UART_CFG_PARITY 3 || is F.UART_CFG_DBITS 3
  | .pwr, 0x050 => (List.range 16).any fun d => !(slumberModes s.chip.is7236 d).contains (w.toNat / 4 ^ d % 4)
  | .pwr, 0x054 => (List.range 4).any fun d => !(slumberModes s.chip.is7236 (16 + d)).contains (w.toNat / 4 ^ d % 4)
  | .pwr, 0x058 => is F.PWR_CMD_OP 3
  | .pwr, 0x06C => is F.PWR_LG_EN 1 && !s.feat 22
  | .rst, 0x040 => is F.RST_CMD_OP 1
  | .upd, 0x040 => is F.UPD_CMD_OP 7
  | .cnt, 0x040 => is F.CNT_CTRL_MODE 3
  | .ch _, o => decide (0x200 ≤ o ∧ o < 0x300) && s.badEntry w.toNat
  | .hst _, o =>
    -- the fields of an enabled unit that stays enabled are locked and judge nothing (R509)
    let own := F.HST_CFG_OWNER.get w
    let src := F.HST_CFG_SRC.get w
    decide (0x100 ≤ o ∧ o % 0x100 = 0) && !((s.reg p o).getLsbD 31 && w.getLsbD 31) &&
      (decide (6 ≤ src) || decide (8 ≤ own ∧ own ≠ 15) || decide (own ≠ 15 ∧ src = 4))
  | _, _ => false

/-! Judging one word access. -/

/-- Whether the device transmits nothing and accepts nothing for its twin: in JOINING, STANDBY and SEVERED (R370), and while it
listens before its election (R367). -/
def State.twinSilent (s : State) : Bool :=
  s.twn.listen || decide (2 ≤ s.fld .twn F.TWN_STAT_STATE ∧ s.fld .twn F.TWN_STAT_STATE ≤ 4)

/-- What becomes of a word access: it acts; it reads zero and drops its write without violation; or it is a violation, of
the kinds listed (R63). -/
inductive Verdict where
  | act
  | drop
  | viol (kinds : List Nat)
  deriving DecidableEq, Repr

/-- The words that are always readable once the device has booted (R55). -/
def identOff (off : Nat) : Bool := decide (off = 0x000) || decide (off = 0x004) || decide (off = 0x008)

/-- Whether BOOT_DONE is set. -/
def State.bootDone (s : State) : Bool := s.flag .rst F.RST_STAT_BOOT_DONE

/-- The pages that work in recovery (R493). -/
def recoveryPage (p : Page) : Bool := [Page.dev, .pwr, .clk, .rst, .thm, .nvm, .upd, .hif, .shp, .hlt].contains p

/-- Whether an access is answered with zero and no violation: before BOOT_DONE (R464), during a soft reset (R37), with the
page's domain off (R55), and on a tenant's pages before the locks (R59, R61) and while the device does not serve (R370). DESIGN CHOICE
(log 213): a page whose domain is off is dropped so even where its feature is not accepted either, as every word but the identity
words of a WP page of an OLF-7224 is (log 212). -/
def State.dropped (s : State) (p : Page) (off : Nat) : Bool :=
  (!s.bootDone && !((decide (p = .dev) && decide (off < 0x040)) || (decide (p = .rst) && decide (off = 0x048)) ||
    decide (p = .pwr))) ||
  (s.softReset.contains p && decide (0x040 ≤ off)) ||
  (!s.pageOn p && !identOff off) || (s.nvm.recovery && s.devLocked && !recoveryPage p && !identOff off) ||
  (match p.tenant? with
   | some t => !s.devLocked || s.twinSilent ||
      (!s.tenOpen t && !(decide (p = .tpage t) && decide (off ≤ 0x048)))
   | none => false)

/-- Whether the page is not available, or not of the accepted features, for this access (R59, R60). -/
def State.featBad (s : State) (p : Page) (off : Nat) (wr : Bool) : Bool :=
  if identOff off && !wr then false
  else match p.tenant? with
  | some t => decide (p ≠ .tpage t) && s.tenOpen t && !s.featOk p off
  | none =>
    if s.devLocked then !s.featOk p off
    else !(decide (p = .dev) || decide (p = .pwr) || decide (p = .rst) || (decide (p = .nvm) && !wr))

/-- Whether the accessing tenant has no right to the page: the user counter page before the manager's grant (R510). -/
def State.noRight (s : State) (p : Page) : Bool :=
  match p with
  | .ucp t => !s.flag (.tnt t) F.TNT_CNT_USER_EN_EN
  | _ => false

/-- Whether a written word has a 1 in a reserved bit, or a value that is reserved (R63). Writes to the user counter page
are exempt (R510). -/
def State.writeBad (s : State) (p : Page) (off : Nat) (w : Word) : Bool :=
  match p with
  | .ucp _ => false
  | _ => (w &&& ~~~ definedBits p off) != 0 || s.badValue p off w

/-- Whether an access is sub-word or unaligned (R63, kind 4). -/
def subWord (off : Nat) (be : BitVec 4) : Bool := decide (be ≠ 0xF) || decide (off % 4 ≠ 0)

/-- Judge one word access to a page: `wr` is the written word, none for a read. -/
def State.judge (s : State) (p : Page) (off_ : Nat) (be : BitVec 4) (wr : Option Word) : Verdict :=
  let off := off_ / 4 * 4
  if s.dropped p off then .drop
  else
    let ks := (if regExists p off then [] else [0]) ++ (if s.noRight p then [1] else []) ++
      (if s.featBad p off wr.isSome then [2] else []) ++
      (match wr with
       | some w => if regExists p off && s.writeBad p off w then [3] else []
       | none => []) ++
      (if subWord off_ be then [4] else [])
    if ks = [] then (match p, wr with | .ucp _, some _ => .drop | _, _ => .act) else .viol ks

/-- The recorded kind where several apply to one word: the spec gives no order among them. -/
def pickKind (ks : List Nat) : Nat :=
  match ks with
  | [k] => k
  | _ => ks.getD (Config.kindIndex ks % ks.length) 0

/-- Count a violation; the count saturates (R65). -/
def State.violCount (s : State) : State :=
  s.setFld .dev F.DEV_VIOL_COUNT_COUNT (min (s.fld .dev F.DEV_VIOL_COUNT_COUNT + 1) 0xFFFFFFFF)

/-- The word of `DEV_VIOL_INFO` for a violation. -/
def violInfo (fn : Fn) (kind : Nat) (wr : Bool) (be : BitVec 4) : Word :=
  BitVec.ofNat 32 (fn.code * 2 ^ 16 + kind * 2 ^ 8 + (if wr then 16 else 0) + be.toNat)

/-- Record a violation, which no later one replaces until software clears the record (R65). -/
def State.violRecord (s : State) (fn : Fn) (addr kind : Nat) (wr : Bool) (be : BitVec 4) : State :=
  (({ s with violArmed := false }).setReg .dev 0x06C (BitVec.ofNat 32 (addr % 2 ^ 25))).setReg .dev 0x070 (violInfo fn kind wr be)

/-- Count a violation, and record it if it is the first (R64, R65). -/
def State.violation (s : State) (fn : Fn) (addr kind : Nat) (wr : Bool) (be : BitVec 4) : State :=
  if s.violArmed then s.violCount.violRecord fn addr kind wr be else s.violCount

/-- The address of a page's word as the accessing function gives it (R65): within its BAR0, or on the serial host port. -/
def accessAddr (fn : Fn) (p : Page) (off : Nat) : Nat :=
  match p.tenant? with
  | some t => (regKey p off - 0x2000000 - t.val * 0x200000) + (if fn = .shpTen then 0x800000 else 0)
  | none => regKey p off

/-! Latches (R50). -/

/-- A reader's latch. -/
def State.latch (s : State) (fn : Fn) : Latch := s.latches.getD fn.code ⟨none, 0, 0⟩

/-- Replace a reader's latch. -/
def State.setLatch (s : State) (fn : Fn) (l : Latch) : State := { s with latches := s.latches.set fn.code l }

/-- An access ends IDLE (R450). -/
def State.endIdle (s : State) : State := if s.pwr.mode = .idle then { s with pwr := { s.pwr with mode := .run } } else s

/-- A word access that is no read of a paired register ends the reader's latch (R50). -/
def State.touch (s : State) (fn : Fn) : State := s.endIdle.setLatch fn ⟨none, 0, 0⟩

/-! Writing. -/

/-- The word that a register holds after software writes `w`, each field by its own access type (R52). -/
def State.written (s : State) (p : Page) (off : Nat) (w : Word) : Word :=
  (regFlds p off).foldl (fun a f =>
    match f.acc with
    | .rw => (a &&& ~~~ f.mask) ||| (w &&& f.mask)
    | .rwl => if s.locked p { f with off := off } then a else (a &&& ~~~ f.mask) ||| (w &&& f.mask)
    | .w1c => a &&& ~~~ (w &&& f.mask)
    | .w1s => a ||| (w &&& f.mask)
    | .ro | .wo => a) (s.reg p off)

/-- The plain effect of a write: each field by its type and nothing more. -/
def applyWrite (p : Page) (off : Nat) (w : Word) (s : State) : State := s.setReg p off (s.written p off w)

/-- The tenant page that an access reaches: over the serial host port, the page of the tenant that SHP selects (R47). -/
def State.reach (s : State) (p : Page) (serial : Bool) : Page :=
  if serial then
    let t := s.serialTenant
    match p with
    | .tpage _ => .tpage t
    | .dbell _ => .dbell t
    | .crq _ => .crq t
    | .ucp _ => .ucp t
    | q => q
  else p

/-- Whether a serial access to the tenant side finds it disabled (R421). -/
def State.serialBarred (s : State) (p : Page) (serial : Bool) : Bool :=
  serial && p.tenant?.isSome && !s.flag .shp F.SHP_CFG_TEN_EN && s.bootDone

/-- Whether accesses reach the device at all: the host interfaces lie in PD3, and none works in a reset (R408). -/
def State.hostOn (s : State) : Bool := s.pageOn .hif && decide (s.pwr.mode ≠ .reset) && !s.padsHeld

/-- One word write to a register: judged, and, where it acts, carried out by `act` with the written word. -/
def writeWord (q : Req) (p0 : Page) (off : Nat) (act : Page → Word → State → State) (s : State) : State :=
  if !s.hostOn then s else
  let p := s.reach p0 q.serial
  let s1 := s.touch (p.fn q.serial)
  if s1.serialBarred p q.serial then s1.violation (p.fn q.serial) (accessAddr (p.fn q.serial) p off) 1 true q.be
  else match s1.judge p off q.be (some q.val) with
  | .act => act p q.val s1
  | .drop => s1
  | .viol ks => s1.violation (p.fn q.serial) (accessAddr (p.fn q.serial) p off) (pickKind ks) true q.be

/-! Reading. -/

/-- One word read of a register: judged, and, where it acts, answered by `act` with the data, whether it is poisoned, and
the state after the read's side effects. A violating or dropped read answers zero and has no side effect (R64). -/
def readWord (q : RdReq) (p0 : Page) (off : Nat) (act : Page → State → Word × Bool × State) (s : State) : State :=
  if !s.hostOn then s else
  let p := s.reach p0 q.serial
  let fn := p.fn q.serial
  if s.serialBarred p q.serial then ((s.touch fn).violation fn (accessAddr fn p off) 1 false q.be).emit (.readData fn 0 false)
  else match s.judge p off q.be none with
  | .act =>
    let r := act p s.endIdle
    r.2.2.emit (.readData fn r.1 r.2.1)
  | .drop => (s.touch fn).emit (.readData fn 0 false)
  | .viol ks => ((s.touch fn).violation fn (accessAddr fn p off) (pickKind ks) false q.be).emit (.readData fn 0 false)

end Sys2Proof.Machine
end

