-- ==== Sys2Proof/Machine/Entries.lean ====
section
/-! DEFINITION. Channel settings and schedule entries (R84, R105, R107, R196 to R198): what an entry of a table means under a
channel's settings. -/

set_option Elab.async false

namespace Sys2Proof.Machine

/-! Channels. -/

/-- The page of a channel. -/
def chPage (c : Nat) : Page := .ch ⟨c % 64, Nat.mod_lt _ (by omega)⟩

/-- A channel's hidden state. -/
def State.chan (s : State) (c : Nat) : Chan := s.line.chans.getD c Chan.reset

/-- Replace a channel's hidden state. -/
def State.setChan (s : State) (c : Nat) (x : Chan) : State :=
  { s with line := { s.line with chans := s.line.chans.set c x } }

/-- The registers of a CH page that make up its settings. -/
def cfgOffs : List Nat := (List.range 13).map (fun i => 0x040 + 4 * i) ++ [0x400, 0x404]

/-- The settings as written. -/
def State.pageCfg (s : State) (c : Nat) : List Word := cfgOffs.map (s.reg (chPage c))

/-- A field of a list of settings. -/
def cfgGet (cfg : List Word) (f : Fld) : Nat :=
  f.get (cfg.getD (if f.off < 0x400 then (f.off - 0x040) / 4 else 13 + (f.off - 0x400) / 4) 0)

/-- A one-bit setting. -/
def cfgFlag (cfg : List Word) (f : Fld) : Bool := decide (cfgGet cfg f = 1)

/-- The schedule table in force of a channel. -/
def State.table (s : State) (c : Nat) : List Word := (List.range 64).map fun e => s.reg (chPage c) (0x100 + 4 * e)

/-- Its staged table. -/
def State.stagedTable (s : State) (c : Nat) : List Word := (List.range 64).map fun e => s.reg (chPage c) (0x200 + 4 * e)

/-- The settings in force of a channel, if it is active. -/
def State.live (s : State) (c : Nat) : Option (List Word) := (s.chan c).live

/-- The ports of a channel, N0 to N11 as 0 to 11 and W0 to W3 as 12 to 15. -/
def cfgPorts (cfg : List Word) : List Nat :=
  (List.range 16).filter fun p =>
    if p < 12 then bitOf (cfgGet cfg F.CH_PORTS_N) p else bitOf (cfgGet cfg F.CH_PORTS_W) (p - 12)

/-- Streams that a bundle of `n` ports carries (R84). -/
def State.bundleStreams (s : State) (cfg : List Word) (n : Nat) : Nat :=
  let most := if cfgGet cfg F.CH_CFG_NUMER = 2 then (if s.feat 3 then min 2 n else min 1 n)
    else (if s.feat 1 then min 3 n else min 1 n)
  min most (cfgGet cfg F.CH_CFG_STREAMS + 1)

/-- The ports a bundle transmits on, of those given: every port of an N-bundle, the lowest of a W-bundle (R84). -/
def bundleTx (cfg : List Word) (streams : Nat) (ports : List Nat) : List Nat :=
  if cfgGet cfg F.CH_CFG_NUMER = 2 then ports.take streams else ports

/-- The propagation allowance in nanoseconds. -/
def cfgAllow (cfg : List Word) : Nat := min 2000 (cfgGet cfg F.CH_PROP_ALLOW_US) * 1000

/-- The number of sub-bands. -/
def cfgSb (cfg : List Word) : Nat := if cfgFlag cfg F.CH_CFG_SB16 then 16 else 8

/-- The nominal slot length in nanoseconds (R107). -/
def State.nominalNs (s : State) : Nat :=
  if s.fld .sch F.SCH_MODE_NOMINAL = 1 && !s.flag .sch F.SCH_MODE_FREE_RUN then 8333333 else 10000000

/-! Entries. -/

/-- Slot types (Table 07-4). -/
def tyOff : Nat := 0
def tyBeacon : Nat := 1
def tyTx : Nat := 2
def tyRx : Nat := 3
def tyContend : Nat := 4
def tyReel : Nat := 5
def tyRdv : Nat := 6
def tySound : Nat := 7
def tyQuiet : Nat := 8

/-- An entry after the structural rules of R198: its type (a DATA_TX entry with PAR already decided; REEL and RENDEZVOUS are OFF on W25k, R228, R261), the head of its train,
the train's length and its own place in it, and its other fields. -/
structure Entry where
  ty     : Nat
  head   : Nat
  len    : Nat
  pos    : Nat
  sbMode : Nat
  sb     : Nat
  arg    : Nat
  deriving DecidableEq, Repr

def rawTy (w : Word) : Nat := w.toNat / 2 ^ 28
def rawTrain (w : Word) : Nat := w.toNat / 2 ^ 26 % 4
def rawCont (w : Word) : Bool := w.getLsbD 25
def rawPar (w : Word) : Bool := w.getLsbD 24

/-- Whether a type can head a train. -/
def trainable (t : Nat) : Bool := decide (t = tyTx ∨ t = tyRx ∨ t = tyReel ∨ t = tyRdv)

/-- Slots of the train that a head entry forms: itself and the continuations of its type that follow, at most TRAIN of them
and none past entry 63. -/
def trainLen (tbl : List Word) (j : Nat) : Nat :=
  let h := tbl.getD j 0
  if !trainable (rawTy h) then 1
  else
    let ok := fun k => decide (j + k ≤ 63) && rawCont (tbl.getD (j + k) 0) && decide (rawTy (tbl.getD (j + k) 0) = rawTy h)
    1 + ((List.range (rawTrain h)).takeWhile fun k => ok (k + 1)).length

/-- The head of the train that entry `i` belongs to, if it heads one or continues one. -/
def trainHead (tbl : List Word) (i : Nat) : Option Nat :=
  if !rawCont (tbl.getD i 0) then some i
  else ((List.range 3).map fun k => i - (k + 1)).find? fun j =>
    decide (j < i) && !rawCont (tbl.getD j 0) && decide (i - j < trainLen tbl j)

/-- Entry `i` of a table under a channel's settings. -/
def effEntry (tbl : List Word) (cfg : List Word) (i : Nat) : Entry :=
  match trainHead tbl i with
  | none => ⟨tyOff, i, 1, 0, 0, 0, 0⟩
  | some j =>
    let h := tbl.getD j 0
    let par := rawPar h && !cfgFlag cfg F.CH_CFG_FULL_DUPLEX
    let ty := if rawTy h = tyTx && par && decide (j % 2 ≠ cfgGet cfg F.CH_CFG_END) then tyRx
      else if cfgGet cfg F.CH_CFG_NUMER = 2 ∧ (rawTy h = tyReel ∨ rawTy h = tyRdv) then tyOff else rawTy h
    ⟨ty, j, trainLen tbl j, i - j, h.toNat / 2 ^ 22 % 4, h.toNat / 2 ^ 18 % 16, h.toNat / 2 ^ 8 % 256⟩

/-- The type of entry `i` as written, which counts as transmitting in either parity of a DATA_TX entry with PAR (R80). -/
def writtenTy (tbl : List Word) (cfg : List Word) (i : Nat) : Nat :=
  match trainHead tbl i with
  | none => tyOff
  | some j =>
    let ty := rawTy (tbl.getD j 0)
    if cfgGet cfg F.CH_CFG_NUMER = 2 ∧ (ty = tyReel ∨ ty = tyRdv) then tyOff else ty

/-- The sub-band mask of an entry: `fig` is the figure's mask and single sub-band where it is known (R196, R203). Without it
the mask covers the full range, and the single sub-band is the anchor. -/
def entryMask (cfg : List Word) (e : Entry) (fig : Option (Nat × Nat)) (bound : Bool) : Nat :=
  let n := cfgSb cfg
  let all := 2 ^ n - 1
  let anchor := 2 ^ (cfgGet cfg F.CH_FIG_ANCHOR % n)
  let hop := cfgFlag cfg F.CH_CFG_HOP_EN
  match e.sbMode with
  | 0 => if hop then (match fig with | some f => f.1 | none => all) else all
  | 1 => if hop then (match fig with | some f => 2 ^ f.2 | none => if bound then all else anchor) else anchor
  | 2 => 2 ^ (e.sb % n)
  | _ => anchor

/-- The carrier set of an entry without notches. `bound`: for admission, where a mask that follows the figure counts as the
full range (R171). -/
def entryCarriers (cfg : List Word) (e : Entry) (fig : Option (Nat × Nat)) (bound : Bool) : List Nat :=
  carrierSet (cfgGet cfg F.CH_CFG_NUMER) (cfgSb cfg) (cfgGet cfg F.CH_BAND_M_LO) (cfgGet cfg F.CH_BAND_M_HI)
    (entryMask cfg e fig bound)

/-- The data symbols of an entry over a span, and its FC symbols (R105, R208). -/
def entrySymbols (cfg : List Word) (e : Entry) (set : List Nat) (span : Nat) : Nat × Nat :=
  let n := cfgGet cfg F.CH_CFG_NUMER
  let nFc := (fcLayout n (fcCarriers set)).1
  let a := if cfgFlag cfg F.CH_CFG_FULL_DUPLEX then 0 else cfgAllow cfg
  (dataSymbols n (cfgGet cfg F.CH_CFG_CP) span (entryGuardNs n (e.ty = tyContend)) nFc e.len a, nFc)

/-- The coded bits of a beacon over `nd` symbols (R194): E_B. -/
def beaconBits (nd : Nat) (set : List Nat) : Nat := min 832 (2 * plainCells nd set)

/-- Whether `nd` symbols hold the smallest frame of the entry's type (R198). -/
def holdsSmallest (ty nd : Nat) (set : List Nat) : Bool :=
  if ty = tyBeacon then decide (512 ≤ beaconBits nd set)
  else if ty = tySound then decide (2 ≤ nd)
  else decide (1152 ≤ 2 * plainCells nd set)

/-- Whether frames are sent or received in a type (R107). -/
def carriesFrames (ty : Nat) : Bool := decide (1 ≤ ty ∧ ty ≤ 7)

/-- Types that count as transmitting (R80). -/
def transmits (ty : Nat) : Bool :=
  decide (ty = tyBeacon ∨ ty = tyTx ∨ ty = tyContend ∨ ty = tyReel ∨ ty = tyRdv ∨ ty = tySound)

/-- Whether an entry can bind a receive chain on a channel (R197); `tpl` on a port with a noise template. -/
def bindsChain (ty : Nat) (fd tpl : Bool) : Bool :=
  if ty = tyTx then fd else if ty = tyQuiet then tpl else decide (1 ≤ ty ∧ ty ≤ 7)

end Sys2Proof.Machine
end

