-- ==== Sys2Proof/Machine/Counters.lean ====
section
/-! DEFINITION. Counters, snapshots and histogram units (R498 to R513). -/

set_option Elab.async false

namespace Sys2Proof.Machine

/-- Whether a key of the register file is a counter word: offsets 0x080 to 0x0BF of a page other than DEV. -/
def isCounterKey (k : Nat) : Bool := decide (0x1000 ≤ k ∧ 0x080 ≤ k % 0x1000 ∧ k % 0x1000 < 0x0C0)

/-! Snapshots. -/

/-- The pages that have counters, with the index under which a snapshot keeps them. -/
def counterPages : List Page := allPages.filter fun p => decide (0 < nCounters p)

/-- A page's index in a snapshot. -/
def snapIndex (p : Page) : Nat := pageBase p / 0x1000

/-- Capture every counter, its enables and every histogram unit as they stand (R501). -/
def State.capture (s : State) : Snapshot :=
  { cnts := counterPages.foldl (fun m p => (List.range (nCounters p)).foldl
      (fun m i => storePut 0 m (snapIndex p * 8 + i) (s.counter p i)) m) []
    ens  := counterPages.foldl (fun m p => storePut 0 m (snapIndex p) ((s.reg p offCntCtrl).toNat % 256)) []
    hist := s.gather.units
    ct   := s.ct
    rtc  := s.pwr.rtc }

/-- Zero every counter and every histogram unit (R504). -/
def State.clearCounters (s : State) : State :=
  { s with regs := storeKeep (fun k => !isCounterKey k) s.regs
           gather := { s.gather with units := List.replicate 16 HistUnit.empty } }

/-- Start a snapshot into the back bank, clearing what it captures where it is a SNAP_CLR (R501, R504). -/
def State.startSnap (s : State) (clr : Bool) : State :=
  let s1 := { s with gather := { s.gather with back := s.capture, busy := true } }
  if clr then ((s1.clearCounters).bump .cnt 3).event .cnt 2 else s1

/-- Whether snapshots may start: RUN or IDLE (R503). -/
def State.snapOk (s : State) : Bool := s.running

/-- A commanded snapshot (Table 17-1): ignored while CNT is not enabled; held while one is in progress or HOLD is 1 or no
snapshot may start; merged with one that is pending. -/
def State.cmdSnap (s : State) (clr : Bool) : State :=
  if !s.enabled .cnt then s
  else match s.gather.pend with
  | some c => ({ s with gather := { s.gather with pend := some (c || clr) } }).bump .cnt 2
  | none =>
    if s.gather.busy || s.flag .cnt F.CNT_CTRL_HOLD || !s.snapOk then
      { s with gather := { s.gather with pend := some clr } }
    else s.startSnap clr

/-- Start the pending snapshot if nothing holds it back any longer. -/
def State.startPending (s : State) : State :=
  match s.gather.pend with
  | none => s
  | some c =>
    if s.gather.busy || s.flag .cnt F.CNT_CTRL_HOLD || !s.snapOk then s
    else ({ s with gather := { s.gather with pend := none } }).startSnap c

/-- A periodic snapshot falls due: taken, or skipped under Table 17-1 and R503. -/
def State.periodSnap (s : State) : State :=
  if s.gather.busy || s.gather.pend.isSome || s.flag .cnt F.CNT_CTRL_HOLD || !s.snapOk || !s.enabled .cnt then
    (s.bump .cnt 1).event .cnt 3
  else s.startSnap false

/-- The superframe number of a corridor time: 64 slots to the superframe, 2^20 units to the slot (R196). -/
def sfOf (ct : Nat) : Nat := ct / 2 ^ 26

/-- Whether a periodic snapshot can fall due: the millisecond mode, or the superframe mode at a multiple of PERIOD
(R502). -/
def State.periodDue (s : State) : Bool :=
  let per := max 1 (s.fld .cnt F.CNT_CTRL_PERIOD)
  match s.fld .cnt F.CNT_CTRL_MODE with
  | 1 => true
  | 2 => decide (sfOf s.ct % per = 0)
  | _ => false

/-- CLR_ALL: clear at once without capturing (R504). -/
def State.clrAll (s : State) : State := ((s.clearCounters).bump .cnt 3).event .cnt 2

/-- A write of `CNT_CTRL`: the fields take their values, HOLD written 0 lets a pending snapshot start, and each strobe
acts. A capture of the same write takes the values before a CLR_ALL of that write (R500). -/
def cntCtrlWrite (p : Page) (w : Word) (s : State) : State :=
  let s1 := (applyWrite p 0x040 w s).startPending
  let s2 := if w.getLsbD 30 then s1.cmdSnap true else if w.getLsbD 31 then s1.cmdSnap false else s1
  if w.getLsbD 29 then s2.clrAll else s2

/-- SNAP: a write of `CNT_CTRL` whose bit 31 takes a snapshot. -/
def execCntSnap (q : Req) (s : State) : Host.Outcome State Fault Refusal :=
  .next (writeWord q .cnt 0x040 cntCtrlWrite s)

/-- SNAP_CLR: a write of `CNT_CTRL` whose bit 30 takes a snapshot that clears. -/
def execCntSnapClr (q : Req) (s : State) : Host.Outcome State Fault Refusal :=
  .next (writeWord q .cnt 0x040 cntCtrlWrite s)

/-- CLR_ALL: a write of `CNT_CTRL` whose bit 29 clears everything. -/
def execCntClrAll (q : Req) (s : State) : Host.Outcome State Fault Refusal :=
  .next (writeWord q .cnt 0x040 cntCtrlWrite s)

/-- HOLD_RELEASE: a write of `CNT_CTRL` with HOLD 0. -/
def execHoldRelease (q : Req) (s : State) : Host.Outcome State Fault Refusal :=
  .next (writeWord q .cnt 0x040 cntCtrlWrite s)

/-- SNAP_PERIOD: the period of `CNT_CTRL.MODE` falls due (R502). -/
def execSnapPeriod (s : State) : Host.Outcome State Fault Refusal :=
  .next (if s.periodDue then s.periodSnap else s)

/-- SNAP_DONE: the banks swap, SEQ advances, and a pending command starts (R501, Table 17-1). -/
def execSnapDone (s : State) : Host.Outcome State Fault Refusal :=
  .next (if s.gather.busy then
    let g := s.gather
    let s1 := { s with gather := { g with front := g.back, back := g.front, busy := false, seq := (g.seq + 1) % 65536 } }
    ((s1.bump .cnt 0).event .cnt 1).startPending
  else s)

/-! Histogram units. -/

/-- A histogram unit. -/
def State.hunit (s : State) (u : Nat) : HistUnit := s.gather.units.getD u HistUnit.empty

/-- Replace a histogram unit. -/
def State.setHunit (s : State) (u : Nat) (h : HistUnit) : State :=
  { s with gather := { s.gather with units := s.gather.units.set u h } }

/-- The HST page of a unit. -/
def hstPage (u : Nat) : Page := .hst ⟨u / 4 % 4, Nat.mod_lt _ (by omega)⟩

/-- A field of a unit's block. -/
def State.hfld (s : State) (u : Nat) (f : Fld) : Nat := s.fld (hstPage u) (f.at (u % 4))

/-- The bin of a sample (R506). -/
def histBin (b v : Nat) : Nat :=
  ((List.range 31).find? fun k => decide (v < b * 2 ^ k)).getD 31

/-- What a sample belongs to: its tenant (none: the device's own), its class, the Spindle station, and whether a
privileged lane served it. -/
structure SampleOf where
  tenant  : Option Nat
  cls     : Nat
  station : Nat
  priv    : Bool
  deriving DecidableEq, Repr

/-- Whether a unit takes samples of a source and passes this one's filters (Table 17-2, R508). -/
def State.histTakes (s : State) (u src : Nat) (o : SampleOf) : Bool :=
  s.enabled (hstPage u) && decide (s.hfld u F.HST_CFG_EN = 1) && decide (s.hfld u F.HST_CFG_SRC = src) &&
  (if src = 4 then decide (s.hfld u F.HST_CFG_STATION = o.station)
   else
    let own := s.hfld u F.HST_CFG_OWNER
    let tenOk := match o.tenant with
      | some t => if own < 8 then decide (t = own) else bitOf (s.hfld u F.HST_FILTER_TENANTS) t
      | none => decide (8 ≤ own) && decide (s.hfld u F.HST_FILTER_DEVICE = 1)
    tenOk && bitOf (s.hfld u F.HST_CFG_CLASS) o.cls &&
    (src != 5 || (decide (s.hfld u F.HST_FILTER_PRIV = 1) == o.priv)))

/-- One unit takes one sample. -/
def State.histAdd (s : State) (u v : Nat) : State :=
  let h := s.hunit u
  let k := histBin (max 1 (s.hfld u F.HST_CFG_BASE)) v
  let n := h.bins.getD k 0 + 1
  let h' : HistUnit :=
    { bins := h.bins.set k (min n 0xFFFFFFFF), count := satNat 48 (h.count + 1), sum := satNat 48 (h.sum + v)
      max := min (max h.max v) 0xFFFFFFFF, sat := h.sat || decide (0xFFFFFFFF ≤ n), disc := h.disc }
  let s1 := s.setHunit u h'
  if 0xFFFFFFFF ≤ n then s1.event (hstPage u) (2 + u % 4) else s1

/-- An occurrence of a source: every unit that takes it adds the sample, or counts it discarded where R507 says that it
takes none. -/
def State.histSample (s : State) (src : Nat) (o : SampleOf) (v : Option Nat) : State :=
  (List.range 16).foldl (fun s u =>
    if s.histTakes u src o then
      match v with
      | some x => s.histAdd u x
      | none => s.setHunit u { s.hunit u with disc := satNat 16 ((s.hunit u).disc + 1) }
    else s) s

/-- An occurrence of a source that measures time, with the instant of its start: one that started before a takeover at this device takes
no sample (R507). -/
def State.histTimed (s : State) (src : Nat) (o : SampleOf) (start v : Nat) : State :=
  s.histSample src o (if s.twn.took.any fun t => decide (start < t.1) then none else some v)

/-- A FLOOD sample (R507): the value is TTL_REF − TTL, and a TTL above the reference is discarded. -/
def State.floodSample (s : State) (o : SampleOf) (ttl : Nat) : State :=
  (List.range 16).foldl (fun s u =>
    if s.histTakes u 3 o then
      if s.hfld u F.HST_FILTER_TTL_REF < ttl then s.setHunit u { s.hunit u with disc := satNat 16 ((s.hunit u).disc + 1) }
      else s.histAdd u (s.hfld u F.HST_FILTER_TTL_REF - ttl)
    else s) s

/-- A write of a unit's `HST_CFG` (R509). -/
def hstCfgWrite (j : Nat) (p : Page) (w : Word) (s : State) : State :=
  let off := 0x100 + 0x100 * j
  if s.flag p (F.HST_CFG_EN.at j) && w.getLsbD 31 then s else applyWrite p off w s

/-- A write of a unit's `HST_FILTER`: dropped while the unit is enabled (R509). -/
def hstFilterWrite (j : Nat) (p : Page) (w : Word) (s : State) : State :=
  if s.flag p (F.HST_CFG_EN.at j) then s else applyWrite p (0x104 + 0x100 * j) w s

/-- A write of a unit's `HST_CMD`: VIEW takes its value, CLR zeroes the unit (R509). -/
def hstCmdWrite (j : Nat) (p : Page) (w : Word) (s : State) : State :=
  let s1 := applyWrite p (0x120 + 0x100 * j) w s
  match p with
  | .hst h => if w.getLsbD 0 then s1.setHunit (4 * h.val + j) HistUnit.empty else s1
  | _ => s1

/-- HST_CFG_WRITE: a write of `HST_CFG` or `HST_FILTER` of unit 4`h` + `j`. -/
def execHstCfgWrite (q : Req) (h : Fin 4) (j : Fin 4) (filter : Bool) (s : State) : Host.Outcome State Fault Refusal :=
  .next (if filter then writeWord q (.hst h) (0x104 + 0x100 * j.val) (hstFilterWrite j.val) s
    else writeWord q (.hst h) (0x100 + 0x100 * j.val) (hstCfgWrite j.val) s)

/-- CLR: a write of `HST_CMD` of unit 4`h` + `j`. -/
def execHstClr (q : Req) (h : Fin 4) (j : Fin 4) (s : State) : Host.Outcome State Fault Refusal :=
  .next (writeWord q (.hst h) (0x120 + 0x100 * j.val) (hstCmdWrite j.val) s)

/-! What the RO registers of HST, CNT and the user counter pages show. -/

/-- A word of a histogram unit's block by its offset in the block (Table 17-5), RO registers only. -/
def histWord (h : HistUnit) (o : Nat) : Word :=
  if o = 0x08 then BitVec.ofNat 32 ((if h.sat then 2 ^ 31 else 0) + h.disc)
  else if o = 0x0C then BitVec.ofNat 32 h.max
  else if o = 0x10 then BitVec.ofNat 32 (h.count % 2 ^ 32)
  else if o = 0x14 then BitVec.ofNat 32 (h.count / 2 ^ 32)
  else if o = 0x18 then BitVec.ofNat 32 (h.sum % 2 ^ 32)
  else if o = 0x1C then BitVec.ofNat 32 (h.sum / 2 ^ 32)
  else if 0x80 ≤ o ∧ o < 0x100 then BitVec.ofNat 32 (h.bins.getD ((o - 0x80) / 4) 0)
  else 0

/-- The unit that an HST page shows at block `j`: live, or its copy in the front bank where VIEW is set (R513). -/
def State.hstShown (s : State) (u : Nat) : HistUnit :=
  if s.hfld u F.HST_CMD_VIEW = 1 then s.gather.front.hist.getD u HistUnit.empty else s.hunit u

/-- A word of an HST page that is not stored: the RO registers of its blocks. -/
def State.hstView (s : State) (h : Fin 4) (off : Nat) : Option Word :=
  let o := off % 0x100
  if 0x100 ≤ off ∧ off < 0x500 ∧ 0x08 ≤ o ∧ o ≠ 0x20 then
    some (histWord (s.hstShown (4 * h.val + (off - 0x100) / 0x100)) o)
  else none

/-- The page that `CNT_SNAP_SEL.PAGE` selects, if it has counters (R505). -/
def State.snapPage (s : State) : Option Page :=
  counterPages.find? fun p => decide (snapIndex p = s.fld .cnt F.CNT_SNAP_SEL_PAGE) && p.tenant?.isNone

/-- A word of the CNT page that is not stored: the state of the gatherer and the front bank. -/
def State.cntView (s : State) (off : Nat) : Option Word :=
  let g := s.gather
  let f := g.front
  match off with
  | 0x044 => some (BitVec.ofNat 32 ((if g.busy then 2 ^ 31 else 0) + (if g.pend.isSome then 2 ^ 30 else 0) + g.seq))
  | 0x048 => some (BitVec.ofNat 32 (f.ct % 2 ^ 32))
  | 0x04C => some (BitVec.ofNat 32 (f.ct / 2 ^ 32))
  | 0x050 => some (BitVec.ofNat 32 (f.rtc % 2 ^ 32))
  | 0x054 => some (BitVec.ofNat 32 (f.rtc / 2 ^ 32))
  | 0x05C => some (match s.snapPage with
      | some p => BitVec.ofNat 32 (storeGet 0 f.ens (snapIndex p) * 2 ^ 24 + pageInst p * 2 ^ 16 + blockCode p)
      | none => 0)
  | _ =>
    if 0x100 ≤ off ∧ off < 0x140 then
      some (match s.snapPage with
        | some p =>
          let v := storeGet 0 f.cnts (snapIndex p * 8 + (off - 0x100) / 8)
          BitVec.ofNat 32 (if off % 8 = 0 then v % 2 ^ 32 else v / 2 ^ 32)
        | none => 0)
    else none

/-- The histogram units that a tenant owns, in ascending number, at most eight (R511). -/
def State.ownedUnits (s : State) (t : Fin 8) : List Nat :=
  ((List.range 16).filter fun u => decide (s.hfld u F.HST_CFG_OWNER = t.val)).take 8

/-- A word of a tenant's user counter page (R511, Table 17-3). -/
def State.ucpView (s : State) (t : Fin 8) (off : Nat) : Option Word :=
  let us := s.ownedUnits t
  if off < 0x040 then none
  else if off = 0x040 then some (BitVec.ofNat 32 ((if s.tenFeat t 17 then 2 ^ 31 else 0) + us.length))
  else if off = 0x044 then some (BitVec.ofNat 32 ((us.zipIdx).foldl (fun a e => a + e.1 * 2 ^ (4 * e.2)) 0))
  else if 0x080 ≤ off ∧ off < 0x0C0 then some (s.reg (.tnt t) off)
  else if 0x100 ≤ off ∧ off < 0x900 then
    let o := off % 0x100
    some (match us[(off - 0x100) / 0x100]? with
      | some u =>
        if o = 0x00 then s.reg (hstPage u) (0x100 + 0x100 * (u % 4))
        else if o = 0x04 then s.reg (hstPage u) (0x104 + 0x100 * (u % 4))
        else histWord (s.hunit u) o
      | none => 0)
  else some 0

end Sys2Proof.Machine
end

