-- ==== Sys2Proof/Machine/Monitor.lean ====
section
/-! DEFINITION. Monitor chains and mains sensing: the chain's arithmetic, its FIFO, settling, coefficient banks, threshold
units, zero crossings, region lock and mains loss (R382 to R407). -/

set_option Elab.async false

namespace Sys2Proof.Machine

/-! Arithmetic of the chain (R384). -/

/-- `rnd(v, s)`: shift right by `sh` with the half added, arithmetically; `v` itself for a shift of 0. -/
def rndShift (v : Int) (sh : Nat) : Int := if sh = 0 then v else (v + 2 ^ (sh - 1)) / 2 ^ sh

/-- Clamp to the signed range of `w` bits, with whether it acted. -/
def clampS (w : Nat) (v : Int) : Int × Bool :=
  if 2 ^ (w - 1) - 1 < v then (2 ^ (w - 1) - 1, true) else if v < -(2 ^ (w - 1)) then (-(2 ^ (w - 1)), true) else (v, false)

/-- One input through the four integrators. -/
def cicIntegrate (acc : List Int) (x : Int) : List Int :=
  (acc.foldl (fun r a => let y := r.2 + a; (r.1 ++ [y], y)) (([] : List Int), x)).1

/-- One value through the four combs: the new comb memories and the output. -/
def cicComb (comb : List Int) (v : Int) : List Int × Int :=
  comb.foldl (fun r c => (r.1 ++ [r.2], r.2 - c)) (([] : List Int), v)

/-! Access to a chain and its settings. -/

/-- A chain. -/
def State.chain (s : State) (m : Fin 8) : Chain := s.chains.getD m.val Chain.reset

/-- Replace a chain. -/
def State.setChain (s : State) (m : Fin 8) (c : Chain) : State := { s with chains := s.chains.set m.val c }

/-- A setting clamped between two limits. -/
def clampN (lo hi v : Nat) : Nat := max lo (min hi v)

/-- D, K and the length of a bank, each acting as the nearer limit outside its range (R384). -/
def State.monD (s : State) (m : Fin 8) : Nat := clampN 8 512 (s.fld (.mon m) F.MON_CFG_RATIO)
def State.monK (s : State) (m : Fin 8) : Nat := clampN 1 4096 (s.fld (.mon m) F.MON_MA_LEN)
def State.monLF (s : State) (m : Fin 8) (b : Nat) : Nat :=
  clampN 1 128 (s.fld (.mon m) (if b = 0 then F.MON_BANK_LEN0 else F.MON_BANK_LEN1))

/-- Coefficient `k` of bank `b`, signed with 17 fraction bits. -/
def State.monCoef (s : State) (m : Fin 8) (b k : Nat) : Int :=
  signed 18 (s.fld (.mon m) ((if b = 0 then F.MON_COEF0_COEF else F.MON_COEF1_COEF).at k))

/-- The FIR of one bank over the stage-1 outputs, newest first, before rounding. -/
def State.monFir (s : State) (m : Fin 8) (b : Nat) (y1 : List Int) : Int :=
  ((y1.take (s.monLF m b)).zipIdx).foldl (fun (a : Int) (e : Int × Nat) => a + s.monCoef m b e.2 * e.1) 0

/-! Group delay (R388), as a fraction of seconds. -/

/-- The group delay of a chain in seconds as numerator and denominator; `ma` leaves the moving-sum term in. -/
def State.monTau (s : State) (m : Fin 8) (ma : Bool) : Int × Nat :=
  let b := (s.chain m).active
  let lf := s.monLF m b
  let d := s.monD m
  let hs := (List.range lf).map fun k => (s.monCoef m b k, k)
  let sh := hs.foldl (fun (a : Int) (e : Int × Nat) => a + e.1) 0
  let sk := hs.foldl (fun (a : Int) (e : Int × Nat) => a + e.1 * e.2) 0
  let (gn, gd) : Int × Int := if sh = 0 then ((lf : Int) - 1, 2) else (sk, sh)
  let (gn, gd) : Int × Nat := if gd < 0 then (-gn, (-gd).toNat) else (gn, gd.toNat)
  -- D_in in 1/16,384 s: 2.5 for a VS input, 45 µs × 16,384 for a noise tap, over 100,000
  let din : Int := if s.fld (.mon m) F.MON_SRC_SRC = 4 then 73728 else 250000
  let base : Int := din + 2 * ((d : Int) - 1) * 100000 + (if ma then ((s.monK m : Int) - 1) * d * 50000 else 0)
  (base * gd + gn * d * 100000, 16384 * 100000 * gd)

/-- A fraction rounded to the nearest whole number. -/
def roundDiv (n : Int) (d : Nat) : Int := (2 * n + d) / (2 * d)

/-- `MON_GD`: τ in units of 62.5 ns, to nearest. -/
def State.monGd (s : State) (m : Fin 8) : Nat :=
  let t := s.monTau m true
  (roundDiv (t.1 * 16000000) t.2).toNat

/-- The slot length in force, in nanoseconds (R184). -/
def State.slotNs (s : State) : Nat := if s.flag .sch F.SCH_MODE_FREE_RUN then 10000000 else max 1 (s.fld .sch F.SCH_SLOT_LEN_NS)

/-- A time in seconds as a fraction, converted to units of 2^-20 slot at the slot length in force. -/
def State.toCt (s : State) (n : Int) (d : Nat) : Int := roundDiv (n * 1000000000 * 2 ^ 20) (d * s.slotNs)

/-- A corridor time moved by a number of units, kept in 64 bits. -/
def ctAdd (ct : Nat) (x : Int) : Nat := (((ct : Int) + x) % 2 ^ 64).toNat

/-- The timestamp of an output produced now (R389). -/
def State.monTs (s : State) (m : Fin 8) : Nat :=
  let t := s.monTau m true
  ctAdd s.ct (-(s.toCt t.1 t.2))

/-! FIFO (R312 to R314, R386). -/

/-- The pressure signal after a change of fill or watermarks: it asserts at HIGH, releases at LOW, and holds between; a
HIGH of 0 disables it, and a LOW at or above HIGH acts as HIGH − 1 (R314). -/
def pressure (was : Bool) (fill high low : Nat) : Bool :=
  if high = 0 then false
  else if high ≤ fill then true
  else if fill ≤ (if high ≤ low then high - 1 else low) then false
  else was

/-- Bring a chain's pressure signal up to date; its rise sets FIFO_HIGH (R386). -/
def State.monPressure (s : State) (m : Fin 8) : State :=
  let c := s.chain m
  let p := pressure c.press c.fifo.length (s.fld (.mon m) F.MON_FIFO_WM_HIGH) (s.fld (.mon m) F.MON_FIFO_WM_LOW)
  let s1 := s.setChain m { c with press := p }
  if p && !c.press then s1.event (.mon m) 7 else s1

/-- Write an output to a chain's FIFO, or drop it where the FIFO is full (R386). -/
def State.monPush (s : State) (m : Fin 8) (unsettled sat xf : Bool) (v : Int) (ts : Nat) : State :=
  let c := s.chain m
  if 1024 ≤ c.fifo.length then
    ((s.setChain m { c with gap := true }).bump (.mon m) 1).event (.mon m) 6
  else
    let fl := (if c.gap then 1 else 0) + (if xf then 2 else 0) + (if sat then 4 else 0) + (if unsettled then 8 else 0)
    let s1 := (s.setChain m { c with gap := false, fifo := c.fifo ++ [⟨fl, v, ts, false⟩] }).bump (.mon m) 0
    let s2 := if unsettled then s1.bump (.mon m) 2 else s1
    (if sat then s2.bump (.mon m) 3 else s2).monPressure m

/-! Settling (R390) and banks (R391 to R393). -/

/-- The zero-crossing unit's part of a settling event of its chain: it is disarmed, and detection is suspended while
LOCKED (R396, R398). -/
def State.zcSettle (s : State) (m : Fin 8) : State :=
  if s.fld .mns F.MNS_CFG_ZC_CHAIN = m.val then
    { s with mains := { s.mains with armed := false, prev := none, susp := s.mains.susp || decide (s.mains.zc = .locked) } }
  else s

/-- A settling event: the pipeline restarts, the settle count starts, the threshold units are released, and a cross-fade
ends on its new bank. -/
def State.settle (s : State) (m : Fin 8) : State :=
  let c := s.chain m
  let u := s.monLF m c.active + s.monK m + 2
  let s1 := s.setChain m { c with
    acc := [0, 0, 0, 0], comb := [0, 0, 0, 0], nIn := 0, y1 := [], hist := [], fade := none, dirty := false
    setU := u, left := u, left2 := s.monLF m c.active + 3, th := [ThUnit.released, ThUnit.released] }
  let s2 := s1.setChain m { s1.chain m with gd := s1.monGd m }
  let s3 := s2.zcSettle m
  if c.fade.isSome then (s3.event (.mon m) 3).bump (.mon m) 7 else s3

/-- Act on a swap request at a stage-2 input, if SEL names the other bank and no fade runs: a native swap, which is a
settling event, or the start of a cross-fade (R391, R392). -/
def State.monSwap (s : State) (m : Fin 8) : State :=
  let c := s.chain m
  let sel := s.fld (.mon m) F.MON_BANK_SEL
  if c.fade.isSome || sel = c.active then s
  else
    let s1 := s.setChain m { c with active := sel }
    if s.feat 15 && s.flag (.mon m) F.MON_BANK_XFADE then
      let s2 := s1.setChain m { s1.chain m with fade := some ⟨0, clampN 1 4096 (s.fld (.mon m) F.MON_XF_LEN)⟩ }
      s2.setChain m { s2.chain m with gd := s2.monGd m }
    else ((s1.settle m).event (.mon m) 3).bump (.mon m) 6

/-! Threshold units (R394, R395). -/

/-- A transition of a threshold unit writes its record (R395). -/
def State.thRecord (s : State) (m : Fin 8) (k : Nat) (asserted : Bool) (v : Int) (onset : Nat) : State :=
  let p : Page := .mon m
  let lost := s.flag p (F.MON_TH_EVT_VALID.at k)
  let s1 := (((s.setFlag p (F.MON_TH_EVT_VALID.at k) true).setFlag p (F.MON_TH_EVT_ASSERT.at k) asserted).setFlag p
    (F.MON_TH_EVT_LOST.at k) (lost || s.flag p (F.MON_TH_EVT_LOST.at k)))
  let s2 := ((s1.setFld p (F.MON_TH_VAL_VALUE.at k) (v % 2 ^ 32).toNat).setFld p (F.MON_TH_TS_LO_TS.at k)
    (onset % 2 ^ 32)).setFld p (F.MON_TH_TS_HI_TS.at k) (onset / 2 ^ 32)
  (s2.event p (4 + k)).bump p (4 + k)

/-- One stage-3 output at a threshold unit; unsettled outputs are skipped. -/
def State.thStep (s : State) (m : Fin 8) (k : Nat) (v : Int) (ts : Nat) : State :=
  let p : Page := .mon m
  if !s.flag p (F.MON_TH_CFG_EN.at k) then s
  else
    let c := s.chain m
    let u := c.th.getD k ThUnit.released
    let lev := signed 32 (s.fld p (F.MON_TH_LEVEL_LEVEL.at k))
    let hy : Int := s.fld p (F.MON_TH_HYST_HYST.at k)
    let above := s.flag p (F.MON_TH_CFG_DIR.at k)
    let meets := if u.asserted then (if above then decide (v ≤ lev - hy) else decide (lev + hy ≤ v))
      else (if above then decide (lev < v) else decide (v < lev))
    let run := if meets then u.run + 1 else 0
    let onset := if u.run = 0 then ts else u.onset
    if meets && decide (clampN 1 4096 (s.fld p (F.MON_TH_CFG_MIN.at k)) ≤ run) then
      (s.setChain m { c with th := c.th.set k ⟨!u.asserted, 0, 0⟩ }).thRecord m k (!u.asserted) v onset
    else s.setChain m { c with th := c.th.set k { u with run := run, onset := onset } }

/-! Zero crossings and region lock (R396 to R400). -/

/-- Whether region lock is held. -/
def State.zcLocked (s : State) : Bool := decide (s.mains.zc = .locked)

/-- Lock is lost (Table 13-3). θ holds its last value. -/
def State.loseLock (s : State) : State :=
  if s.zcLocked then
    (({ s with mains := { s.mains with zc := .seeking, susp := false, count := 0 } }).event .mns 4).bump .mns 2
  else { s with mains := { s.mains with zc := .seeking, susp := false } }

/-- θ after a valid crossing at a corridor time (R399), in 2^-20 slot modulo 2: taken outright, or moved by the weight. -/
def thetaNext (old : Nat) (outright : Bool) (avg t : Nat) : Nat :=
  let tn := t % 2 ^ 21
  if outright then tn
  else
    let d : Int := (((tn : Int) - old + 2 ^ 20) % 2 ^ 21) - 2 ^ 20
    (((old : Int) + d / 2 ^ (min avg 8)) % 2 ^ 21).toNat

/-- The interval between two corridor times in nanoseconds times 2^20. -/
def State.ctSpan (s : State) (t0 t1 : Nat) : Nat := (t1 + 2 ^ 64 - t0) % 2 ^ 64 * s.slotNs

/-- A valid crossing in LOCKED or entering it: θ, the period and the records. -/
def State.validCrossing (s : State) (t : Nat) : State :=
  let mn := s.mains
  let entering := !s.zcLocked
  let per := s.ctSpan mn.lastT t / 2 ^ 20
  let mn' := { mn with
    zc := .locked, susp := false, lastT := t, zcTs := t, fresh := false
    theta := thetaNext mn.theta (entering || mn.fresh) (s.fld .mns F.MNS_ZC_CFG_AVG) t
    periods := (per :: mn.periods).take 8
    count := if entering then 1 else satNat 16 (mn.count + 1)
    present := mn.present || entering }
  let s1 := ({ s with mains := mn' }).bump .mns 0
  if entering then s1.event .mns 5 else s1

/-- A crossing of the zero-crossing unit's chain at time `t`: `ok` when the chain neither fades nor is unsettled, `cand`
when its amplitude makes it a candidate (R396 to R398). -/
def State.crossing (s : State) (t : Nat) (ok cand : Bool) : State :=
  let mn := s.mains
  if !ok then s.bump .mns 1
  else if !cand then s
  else
    let span := s.ctSpan mn.lastT t
    let valid := decide (1000000000 * 2 ^ 20 ≤ span * 65) && decide (span * 45 ≤ 1000000000 * 2 ^ 20)
    match mn.zc with
    | .seeking => { s with mains := { mn with zc := .first, lastT := t } }
    | .first =>
      if valid then s.validCrossing t
      else ({ s with mains := { mn with lastT := t } }).bump .mns 1
    | .locked =>
      if mn.susp then { s with mains := { mn with susp := false, lastT := t } }
      else if valid then s.validCrossing t
      else s.bump .mns 1

/-- Whether the zero-crossing unit's chain is enabled on VS_A (R396). -/
def State.zcCfgOk (s : State) : Bool :=
  let m : Fin 8 := ⟨s.fld .mns F.MNS_CFG_ZC_CHAIN % 8, Nat.mod_lt _ (by omega)⟩
  s.enabled (.mon m) && !s.isolated (.mon m) && decide (s.fld (.mon m) F.MON_SRC_SRC = 1)

/-- One stage-2 output of a chain at the zero-crossing unit. -/
def State.zcStep (s : State) (m : Fin 8) (y2 : Int) (fading : Bool) : State :=
  if !(s.enabled .mns) || !s.zcCfgOk || s.fld .mns F.MNS_CFG_ZC_CHAIN ≠ m.val then s
  else
    let mn := s.mains
    let c := s.chain m
    let hy : Int := s.fld .mns F.MNS_ZC_HYST_HYST
    let amp : Int := s.fld .mns F.MNS_ZC_AMP_AMP
    let now : Option (Int × Nat) := some (y2, s.ct)
    if mn.armed then
      if 0 ≤ y2 then
        let t := match mn.prev with
          | some (yp, tp) =>
            let tau := s.monTau m false
            -- t[j-1] + (-y2[j-1] / (y2[j] - y2[j-1])) × D / 16,384 − τ_12
            ctAdd (ctAdd tp (s.toCt (-yp * s.monD m) ((y2 - yp).toNat * 16384))) (-(s.toCt tau.1 tau.2))
          | none => s.ct
        ({ s with mains := { mn with armed := false, prev := now } }).crossing t (!fading && c.left2 = 0)
          (decide (mn.low ≤ -amp))
      else { s with mains := { mn with low := min mn.low y2, prev := now } }
    else if y2 < -hy then { s with mains := { mn with armed := true, low := y2, prev := now } }
    else { s with mains := { mn with prev := now } }

/-! One sample through a chain. -/

/-- Stage 2 and after, on one stage-1 output (R384). -/
def State.monStage2 (s0 : State) (m : Fin 8) (y1 : Int) (sat1 : Bool) : State :=
  let s := s0.monSwap m
  let c := s.chain m
  let p : Page := .mon m
  let y1s := (y1 :: c.y1).take 128
  let shF := 17 + s.fld p F.MON_CFG_SH_FIR
  let new := clampS 36 (rndShift (s.monFir m c.active y1s) shF)
  let (y2, sat2, faded) : Int × Bool × Bool := match c.fade with
    | none => (new.1, new.2, false)
    | some f =>
      let old := clampS 36 (rndShift (s.monFir m (1 - c.active) y1s) shF)
      let i : Int := f.done + 1
      let v := clampS 36 (Int.tdiv (((f.len : Int) - i) * old.1 + i * new.1) f.len)
      (v.1, old.2 || new.2 || v.2, true)
  let fade' := c.fade.bind fun f => if f.done + 1 < f.len then some { f with done := f.done + 1 } else none
  let (sq, sat3) : Int × Bool := if s.flag p F.MON_CFG_SQUARE then clampS 36 (rndShift (y2 * y2) 35) else (y2, false)
  let k := s.monK m
  let hist := ((sq, faded) :: c.hist).take k
  let sum := hist.foldl (fun a e => a + e.1) 0
  let (y3, sat4) := clampS 36 (rndShift sum (s.fld p F.MON_CFG_SH_MA))
  let (v, sat5) := clampS 32 y3
  let xf := hist.any fun e => e.2
  let unsettled := decide (0 < c.left)
  let s1 := s.setChain m { c with
    y1 := y1s, hist := hist, fade := fade', left := c.left - 1, jOut := c.jOut + 1 }
  let s2 := if c.fade.isSome && fade'.isNone then (s1.event p 3).bump p 7 else s1
  let s3 := if c.left = 1 then s2.event p 2 else s2
  let s4 := s3.zcStep m y2 faded
  let s5 := s4.setChain m { s4.chain m with left2 := (s4.chain m).left2 - 1 }
  let ts := s5.monTs m
  let s6 := if unsettled then s5 else (s5.thStep m 0 v ts).thStep m 1 v ts
  if c.jOut % 2 ^ (min 12 (s.fld p F.MON_CFG_OUT_LOG2)) = 0 then
    s6.monPush m unsettled (sat1 || sat2 || sat3 || sat4 || sat5) xf v ts
  else s6

/-- One input sample of a chain; `over` when a VS converter saturated, which is a settling event (R390). -/
def State.monSample (s0 : State) (m : Fin 8) (x : Int) (overload : Bool) : State :=
  let c0 := s0.chain m
  let sel := s0.fld (.mon m) F.MON_BANK_SEL
  let native := !(s0.feat 15 && s0.flag (.mon m) F.MON_BANK_XFADE)
  let s1 :=
    if c0.dirty && native && c0.fade.isNone && sel ≠ c0.active then
      (((s0.setChain m { c0 with active := sel }).settle m).event (.mon m) 3).bump (.mon m) 6
    else if c0.dirty || overload then s0.settle m
    else s0
  let s2 := if c0.srcOn then s1
    else let t := s1.settle m; t.setChain m { t.chain m with srcOn := true, gap := true }
  let c := s2.chain m
  let acc := cicIntegrate c.acc x
  let d := s2.monD m
  if c.nIn = 0 then
    let r := cicComb c.comb (acc.getLastD 0)
    let y1 := clampS 36 (rndShift r.2 (s2.fld (.mon m) F.MON_CFG_SH_CIC))
    (s2.setChain m { c with acc := acc, comb := r.1, nIn := if d ≤ 1 then 0 else 1 }).monStage2 m y1.1 y1.2
  else s2.setChain m { c with acc := acc, nIn := if d ≤ c.nIn + 1 then 0 else c.nIn + 1 }

/-- A chain whose source delivers nothing at this instant. -/
def State.monSilent (s : State) (m : Fin 8) : State := s.setChain m { s.chain m with srcOn := false }

/-- Shedding stage `k` in force. -/
def State.stageShed (s : State) (k : Nat) : Bool := ((s.pwr.stages.getD (k - 1) ⟨false, false, false⟩)).shed

/-- The sample that a chain's source delivers at this instant, with whether a VS converter saturated: none where the
source is off, its converter is off, or its tap does not run (R382, R383, R403). -/
def State.monSource (s : State) (m : Fin 8) (vs : List Int) (taps : List Nat) : Option (Int × Bool) :=
  let src := s.fld (.mon m) F.MON_SRC_SRC
  if src = 0 ∨ 4 < src then none
  else if src < 4 then
    if bitOf (s.fld .mns F.MNS_CFG_VS_EN) (src - 1) then some (clampS 18 (vs.getD (src - 1) 0)) else none
  else
    let port := s.fld (.mon m) F.MON_SRC_TAP_PORT
    let domain := if port < 6 then 14 else if port < 12 then 15 else if port < 14 then 16 else 17
    if s.running && decide (s.dom domain = .on) && !(decide (12 ≤ port) && s.stageShed 3) then
      some (((taps.getD port 0) % 2 ^ 31 : Nat), false)
    else none

/-- Whether the VS sampling runs: PD19 on, and CNVPLL locked in RUN and IDLE or XTAL32 good in SLUMBER (R382, R460). -/
def State.vsRuns (s : State) : Bool :=
  decide (s.dom 19 = .on) && (if s.running then s.pwr.clk.cnvLock else decide (s.pwr.mode = .slumber) && s.pwr.clk.xtal32)

/-- The converters' overload bits of one sampling instant: `MNS_VS_OVR`, its event and counter 5 (R382, R407). -/
def State.vsOver (s : State) (vs : List Int) : State :=
  (List.range 3).foldl (fun s k =>
    if bitOf (s.fld .mns F.MNS_CFG_VS_EN) k && (clampS 18 (vs.getD k 0)).2 then
      let was := bitOf (s.fld .mns F.MNS_VS_OVR_OVR) k
      let s1 := (s.setFld .mns F.MNS_VS_OVR_OVR (setBitOf (s.fld .mns F.MNS_VS_OVR_OVR) k true)).bump .mns 5
      if was then s1 else s1.event .mns 6
    else s) s

/-- One sampling instant at every chain. -/
def State.sampleChains (s : State) (vs : List Int) (taps : List Nat) : State :=
  (List.finRange 8).foldl (fun s m =>
    if s.enabled (.mon m) && !s.isolated (.mon m) then
      match s.monSource m vs taps with
      | some (x, overload) => s.monSample m x overload
      | none => s.monSilent m
    else s) (s.vsOver vs)

/-! Mains loss and restoration (R401). -/

/-- Whether threshold unit 0 of the loss chain is asserted. -/
def State.lossUnit (s : State) : Bool :=
  let m : Fin 8 := ⟨s.fld .mns F.MNS_CFG_LOSS_CHAIN % 8, Nat.mod_lt _ (by omega)⟩
  ((s.chain m).th.getD 0 ThUnit.released).asserted

/-- A loss event. -/
def State.lossEvent (s : State) : State :=
  (({ s with mains := { s.mains with present := false } }).event .mns 3).bump .mns 3

/-- A restore event, where its conditions hold. -/
def State.restoreCheck (s : State) (wasPresent : Bool) : State :=
  if !wasPresent && s.zcLocked && (s.fld .mns F.MNS_CFG_LOSS_SRC = 0 || !s.lossUnit) then
    ({ s with mains := { s.mains with present := true } }).event .mns 2
  else s

/-- The zero-crossing unit's configuration as it stands: while its chain is not enabled on VS_A, the unit reports it and holds
no lock (R396). -/
def State.zcConfig (s : State) : State :=
  let bad := s.enabled .mns && !s.zcCfgOk
  let s1 := { s with mains := { s.mains with cfgErr := bad } }
  if bad then s1.loseLock else s1

/-- A loss event by the loss chain's threshold unit, or else a restore event, with the unit and PRESENT as they stood before
the sampling instant. -/
def State.lossByUnit (s : State) (unitWas was : Bool) : State × Bool :=
  if !s.enabled .mns then (s, false)
  else if !unitWas && s.lossUnit && s.fld .mns F.MNS_CFG_LOSS_SRC != 0 && s.mains.present then (s.lossEvent, true)
  else (s.restoreCheck was, false)

/-- One sampling instant: the chains, the loss by the loss chain's unit, and the restore event. The flag tells whether a
loss event occurred. -/
def State.vsInstant (s : State) (vs : List Int) (taps : List Nat) : State × Bool :=
  (s.sampleChains vs taps).zcConfig.lossByUnit s.lossUnit s.mains.present

/-- Whether TIMEOUT_MS, which acts as 23 at least, has passed since the last crossing that was taken. In SLUMBER, where corridor time
stands between wakes, the sender of the command counts it (log 139). -/
def State.mainsLate (s : State) : Bool :=
  decide (s.pwr.mode = .slumber) ||
    decide (max 23 (s.fld .mns F.MNS_LOSS_TIMEOUT_MS) * 1000000 * 2 ^ 20 ≤ s.ctSpan s.mains.lastT s.ct)

/-- TIMEOUT_MS without a valid crossing: lock is lost, and, unless only the threshold unit signals loss, so is mains
(Table 13-3, R401). The flag tells whether a loss event occurred. -/
def State.mainsTimeout (s : State) : State × Bool :=
  if !s.enabled .mns || !s.mainsLate then (s, false)
  else
    let s1 := s.loseLock
    if s.mains.present && decide (s.fld .mns F.MNS_CFG_LOSS_SRC ≤ 1) then (s1.lossEvent, true) else (s1, false)

/-! Writes of the MON and MNS pages that do more than store. -/

/-- A write of `MON_SRC`, `MON_CFG` or `MON_MA`: a change of any field is a settling event at the next input sample. -/
def monCfgWrite (m : Fin 8) (off : Nat) (p : Page) (w : Word) (s : State) : State :=
  let s1 := applyWrite p off w s
  if s1.reg p off = s.reg p off then s1 else s1.setChain m { s1.chain m with dirty := true }

/-- A write of `MON_BANK`: the length of a bank in use is not written, and during a fade neither is (R391). -/
def monBankWrite (m : Fin 8) (p : Page) (w : Word) (s : State) : State :=
  let c := s.chain m
  let keep (b : Nat) : Bool := c.fade.isSome || c.active = b
  let s1 := applyWrite p 0x04C w s
  let s2 := if keep 0 then s1.setFld p F.MON_BANK_LEN0 (s.fld p F.MON_BANK_LEN0) else s1
  if keep 1 then s2.setFld p F.MON_BANK_LEN1 (s.fld p F.MON_BANK_LEN1) else s2

/-- A write of a coefficient: ignored for a bank in use (R391). -/
def monCoefWrite (m : Fin 8) (off : Nat) (p : Page) (w : Word) (s : State) : State :=
  let c := s.chain m
  if c.fade.isSome || c.active = (if off < 0x600 then 0 else 1) then s else applyWrite p off w s

/-- A write of the FIFO's watermarks acts from then on, judged against the current fill (R314). -/
def monWmWrite (m : Fin 8) (p : Page) (w : Word) (s : State) : State := (applyWrite p 0x054 w s).monPressure m

/-- A write of a threshold unit's configuration: a rise of EN starts it released (R394). -/
def monThCfgWrite (m : Fin 8) (k : Nat) (p : Page) (w : Word) (s : State) : State :=
  let was := s.flag p (F.MON_TH_CFG_EN.at k)
  let s1 := applyWrite p (0x0C0 + 0x20 * k) w s
  if !was && s1.flag p (F.MON_TH_CFG_EN.at k) then
    s1.setChain m { s1.chain m with th := (s1.chain m).th.set k ThUnit.released }
  else s1

/-- A write of a threshold unit's record: VALID written 1 clears VALID and LOST (R395). -/
def monThEvtWrite (k : Nat) (p : Page) (w : Word) (s : State) : State :=
  let s1 := applyWrite p (0x0CC + 0x20 * k) w s
  if w.getLsbD 31 then s1.setFlag p (F.MON_TH_EVT_LOST.at k) false else s1

/-- A read of `MON_DATA_LO` removes the head word and latches its flags and timestamp (R387). -/
def monDataRead (m : Fin 8) (s : State) : Word × Bool × State :=
  let c := s.chain m
  match c.fifo with
  | [] => (0, false, s.setChain m { c with hiWord := 0x80000000, tsLo := 0, tsHi := 0 })
  | w :: r =>
    (BitVec.ofNat 32 (w.value % 2 ^ 32).toNat, false,
      (s.setChain m { c with
        fifo := r
        hiWord := BitVec.ofNat 32 ((if w.poison then 2 ^ 30 else 0) + w.flags)
        tsLo := BitVec.ofNat 32 (w.ts % 2 ^ 32)
        tsHi := BitVec.ofNat 32 (w.ts / 2 ^ 32) }).monPressure m)

/-- MON_DATA_READ: a read of `MON_DATA_LO` of chain `m`. -/
def execMonDataRead (q : RdReq) (m : Fin 8) (s : State) : Host.Outcome State Fault Refusal :=
  .next (readWord q (.mon m) 0x060 (fun _ s => monDataRead m (s.touch ((Page.mon m).fn q.serial))) s)

/-- BANK_SWAP: a write of `MON_BANK` of chain `m`. -/
def execBankSwap (q : Req) (m : Fin 8) (s : State) : Host.Outcome State Fault Refusal :=
  .next (writeWord q (.mon m) 0x04C (monBankWrite m) s)

/-! What the RO registers show. -/

/-- The status bits of a MON page (R405). -/
def State.monStatus (s : State) (m : Fin 8) : Nat :=
  let c := s.chain m
  (if c.fade.isSome then 2 ^ 16 else 0) + (if (c.th.getD 0 ThUnit.released).asserted then 2 ^ 17 else 0) +
  (if (c.th.getD 1 ThUnit.released).asserted then 2 ^ 18 else 0) + (if 0 < c.left then 2 ^ 19 else 0)

/-- A word of a MON page of which hardware holds a part. -/
def State.monView (s : State) (m : Fin 8) (off : Nat) : Option Word :=
  let c := s.chain m
  let p : Page := .mon m
  match off with
  | 0x04C => some (F.MON_BANK_FADING.put (if c.fade.isSome then 1 else 0) (F.MON_BANK_ACTIVE.put c.active (s.reg p off)))
  | 0x058 => some (BitVec.ofNat 32 c.fifo.length)
  | 0x05C => some (BitVec.ofNat 32 c.gd)
  | 0x060 => some 0
  | 0x064 => some c.hiWord
  | 0x068 => some c.tsLo
  | 0x06C => some c.tsHi
  | 0x070 => some (BitVec.ofNat 32 (c.setU * 2 ^ 16 + c.left))
  | 0x0CC => some (F.MON_TH_EVT_STATE.put (if (c.th.getD 0 ThUnit.released).asserted then 1 else 0) (s.reg p off))
  | 0x0EC => some (F.MON_TH_EVT_STATE.put (if (c.th.getD 1 ThUnit.released).asserted then 1 else 0) (s.reg p off))
  | _ => none

/-- The mean of the last valid periods, in nanoseconds (R400). -/
def State.mainsPeriod (s : State) : Nat :=
  let ps := s.mains.periods
  if ps = [] then 0 else (roundDiv ((ps.foldl (· + ·) 0 : Nat) : Int) ps.length).toNat

/-- A word of the MNS page of which hardware holds a part. -/
def State.mnsView (s : State) (off : Nat) : Option Word :=
  let mn := s.mains
  let b (c : Bool) (i : Nat) : Nat := if c then 2 ^ i else 0
  match off with
  | 0x054 => some (BitVec.ofNat 32 (b s.zcLocked 31 + b mn.present 30 + b mn.lgSent 29 + b mn.cfgErr 28 +
      (match mn.zc with | .seeking => 0 | .first => 1 | .locked => 2) * 2 ^ 26 + mn.count))
  | 0x058 => some (BitVec.ofNat 32 s.mainsPeriod)
  | 0x05C => some (if s.mainsPeriod = 0 then 0 else BitVec.ofNat 32 (roundDiv 1000000000000 s.mainsPeriod).toNat)
  | 0x060 => some (BitVec.ofNat 32 (mn.zcTs % 2 ^ 32))
  | 0x064 => some (BitVec.ofNat 32 (mn.zcTs / 2 ^ 32))
  | _ => none

/-- The status bits of the MNS page (R407). -/
def State.mnsStatus (s : State) : Nat := (if s.zcLocked then 2 ^ 16 else 0) + (if s.mains.present then 2 ^ 17 else 0)

/-- `CH_THETA` (R398, R399): θ in 2^-15 slot while locked; zero in free-run mode. -/
def State.thetaWord (s : State) : Word :=
  if s.flag .sch F.SCH_MODE_FREE_RUN then 0
  else BitVec.ofNat 32 ((if s.zcLocked then 2 ^ 31 else 0) + (s.mains.theta + 16) / 32 % 2 ^ 16)

end Sys2Proof.Machine
end

