-- ==== Sys2Proof/Machine/Admission.lean ====
section
/-! DEFINITION. Admission (R24, R169 to R174): what a configuration costs at each station, the checks of Table 06-6 in their
order, and what an accepted or refused request leaves. -/

set_option Elab.async false

namespace Sys2Proof.Machine

/-! Stations. -/

/-- The page of station `k`, 1 to 6. -/
def stnPage (k : Nat) : Page := .spx ⟨k % 7, Nat.mod_lt _ (by omega)⟩

/-- Active lane groups of a station (Table 06-1). -/
def stnG (k : Nat) : Nat := spxG k

/-- Set bits of a word. -/
def popCount (w : Nat) : Nat := ((List.range 32).filter fun i => bitOf w i).length

/-- Lane groups of a station in service, at most G (R173). -/
def State.lanesIn (s : State) (k : Nat) : Nat := min (stnG k) (popCount (s.reg (stnPage k) 0x050).toNat)

/-- C_X in turns per second: none while the station is disabled (R173, R174). -/
def State.stnCap (s : State) (k : Nat) : Nat := if s.enabled (stnPage k) then s.lanesIn k * 4687500 else 0

/-- The iteration limit that a value of LIMIT means. -/
def clampIter (v : Nat) : Nat := clampN 4 16 v

/-! The cost of an entry (R171). -/

/-- Turns of a Decode job of `c` cycles per iteration (R161). -/
def decodeTurns (i c : Nat) : Nat := ceilDiv (i * c) 256
def longTurns (i : Nat) : Nat := decodeTurns i 3680
def shortTurns (i : Nat) : Nat := decodeTurns i 1096

/-- Costs at the six stations. -/
abbrev Costs := List Nat

def addCosts (a b : Costs) : Costs := (a.zip b).map fun e => e.1 + e.2
def noCosts : Costs := [0, 0, 0, 0, 0, 0]

/-- What a frame's cost depends on. -/
structure FrameDim where
  n     : Nat
  cp    : Nat
  c     : Nat
  s     : Nat
  b     : Nat
  nFc   : Nat
  nd    : Nat
  nSym  : Nat
  nr    : Nat
  nt    : Nat
  deriving DecidableEq, Repr

/-- Turns of one transform. -/
def fftTurns (n : Nat) : Nat := if n = 2 then 12 else 4

/-- The cost of receiving a frame: `search` in samples × 10^6, `filt` templates or blanking, `sound` a SOUND slot, `echo`
port pairs with echo cancellation, `ndDec` the data symbols that are detected. -/
def rxCost (i : Nat) (d : FrameDim) (search : Nat) (filt sound : Bool) (echo ndDec : Nat) : Costs :=
  let bits := ndDec * d.c * d.s * d.b
  let r := bits % 6912
  let symCost := (if d.n = 2 then 2 else 1) + (if filt then 1 else 0) + (if sound then 2 else 0)
  [ d.nr * (d.nSym - 1) * fftTurns d.n,
    d.nr * d.nSym * symCost + d.nr * ceilDiv search (1024 * 1000000) +
      echo * d.nSym * ceilDiv (fftN d.n + cpSamples d.n d.cp) 64,
    (d.nFc + ndDec) * max 1 (ceilDiv (d.c * d.nr * d.s) 2048),
    d.nFc * max 1 (ceilDiv (2 * d.c) 4096) + ndDec * max 1 (ceilDiv (d.c * d.s * d.b) 4096),
    longTurns i * (bits / 6912) + shortTurns i * min 5 (ceilDiv r 1152) + shortTurns i,
    0 ]

/-- The cost of sending a frame. -/
def txCost (d : FrameDim) : Costs :=
  let bits := d.nd * d.c * d.s * d.b
  let r := bits % 6912
  [ d.nt * d.nSym * fftTurns d.n, 0, 0, 0, 0,
    3 * (bits / 6912) + min 5 (ceilDiv r 1152) + 1 + d.nSym * max 1 (ceilDiv (d.c * d.nt) 2048) ]

/-- The cost of entry `i` of a table (Table 06-5). -/
def State.entryCost (s : State) (iter : Nat) (cfg tbl : List Word) (i : Nat) : Costs :=
  let e := effEntry tbl cfg i
  let n := cfgGet cfg F.CH_CFG_NUMER
  let ports := cfgPorts cfg
  let fd := cfgFlag cfg F.CH_CFG_FULL_DUPLEX
  let tpl := cfgFlag cfg F.CH_ADP_CTRL_TPL_EN
  let filt := tpl || cfgFlag cfg F.CH_ADP_CTRL_BLANK_EN
  if e.pos ≠ 0 ∨ e.ty = tyOff ∨ 8 < e.ty then noCosts
  else if e.ty = tyQuiet then
    if tpl then [0, ports.length * ceilDiv (samplesE6 n s.nominalNs) (1024 * 1000000), 0, 0, 0, 0] else noCosts
  else
    let set := entryCarriers cfg e none true
    let sy := entrySymbols cfg e set (e.len * s.nominalNs)
    let full := decide (e.ty = tyTx ∨ e.ty = tyRx ∨ e.ty = tyContend ∨ e.ty = tyReel)
    let str := if full then s.bundleStreams cfg ports.length else 1
    let d : FrameDim :=
      { n := n, cp := cfgGet cfg F.CH_CFG_CP, c := set.length, s := str, b := if full then 12 else 2, nFc := sy.2, nd := sy.1,
        nSym := (if n = 2 then 4 else 2) + sy.2 + sy.1 + (e.len - 1), nr := ports.length, nt := (bundleTx cfg str ports).length }
    let window := cfgAllow cfg + 20000 + (if e.ty = tyContend then 8 * miniNs n else 0)
    let rx := e.ty ≠ tyTx ∨ fd
    let tx := e.ty ≠ tyRx
    let echo := if fd then d.nt * d.nr else 0
    addCosts (if rx then rxCost iter d (samplesE6 n window) filt (e.ty = tySound) echo (if e.ty = tySound then 1 else d.nd)
      else noCosts) (if tx then txCost d else noCosts)

/-- The cost of a whole table. -/
def State.tableCost (s : State) (iter : Nat) (cfg tbl : List Word) : Costs :=
  (List.range 64).foldl (fun a i => addCosts a (s.entryCost iter cfg tbl i)) noCosts

/-! The set that a request is evaluated over. -/

/-- A channel with settings and table. -/
structure Cand5 where
  chan : Nat
  cfg  : List Word
  tbl  : List Word
  deriving DecidableEq, Repr

/-- The settings of a channel that are in force, or accepted and awaiting their boundary. -/
def State.admitted (s : State) (c : Nat) : Option (List Word) :=
  match (s.chan c).next with
  | some x => some x
  | none => s.live c

/-- Every channel in force or accepted, with its table in force. -/
def State.admittedSet (s : State) : List Cand5 :=
  (List.range 64).filterMap fun c => (s.admitted c).map fun x => ⟨c, x, s.table c⟩

/-- The set with a request in place. -/
def State.requestSet (s : State) (src : AdmSource) : List Cand5 :=
  match src with
  | .iter => s.admittedSet
  | .chan c => (s.admittedSet.filter fun x => decide (x.chan ≠ c)) ++ [⟨c, s.pageCfg c, s.table c⟩]
  | .sched => match s.line.sched.staged with
    | some v => (s.admittedSet.filter fun x => s.enabled (chPage x.chan)).map fun x =>
        { x with tbl := v.2.2.getD x.chan [] }
    | none => s.admittedSet

/-- The iteration limit of a request. -/
def State.requestIter (s : State) (src : AdmSource) : Nat :=
  match src with
  | .iter => clampIter (s.fld (.spx 0) F.SPX_DEC_ITER_LIMIT)
  | _ => s.fld (.spx 0) F.SPX_DEC_ITER_IN_FORCE

/-! The checks of Table 06-6 on one channel. -/

/-- Reason 6: the band is outside the port range (R77), or its carrier range is empty or too high. -/
def bandBad (cfg : List Word) : Bool :=
  let n := cfgGet cfg F.CH_CFG_NUMER
  let fc := cfgGet cfg F.CH_FREQ_FC_HZ
  let half := if n = 0 then 400000 else 100000
  decide (cfgGet cfg F.CH_BAND_M_HI < cfgGet cfg F.CH_BAND_M_LO) || decide (carriersM n ≤ cfgGet cfg F.CH_BAND_M_HI) ||
    (decide (n ≠ 2) && (decide (fc < half + 3000) || decide (1200000 < fc + half)))

/-- Reason 7: no port, more than four, ports of both kinds, or ports that do not fit the numerology (R84, R99). -/
def State.bundleBad (s : State) (cfg : List Word) : Bool :=
  let n := cfgGet cfg F.CH_CFG_NUMER
  let ports := cfgPorts cfg
  decide (ports = []) || decide (4 < ports.length) || ports.any (fun p => decide (12 ≤ p) != decide (n = 2)) ||
    decide (n = 3) || (decide (n = 2) && !s.feat 2)

/-- The carrier sets that an entry may have, for R107 and R198: an entry in a single sub-band that hops may have any that holds carriers
of the channel; an entry whose mask follows the figure has the full range (DEDUCED, log 225). -/
def entrySets (cfg : List Word) (e : Entry) : List (List Nat) :=
  if e.sbMode = 1 ∧ cfgFlag cfg F.CH_CFG_HOP_EN = true then
    (((List.range (cfgSb cfg)).map fun b => entryCarriers cfg e (some (2 ^ cfgSb cfg - 1, b)) false).filter fun l => l != [])
  else [entryCarriers cfg e none true]

/-- Reason 8: an entry with no data symbol (R107), or none that holds the smallest frame of its type (R198). -/
def State.emptyEntry (s : State) (cfg tbl : List Word) : Bool :=
  (List.range 64).any fun i =>
    let e := effEntry tbl cfg i
    decide (e.pos = 0) && carriesFrames e.ty &&
      (entrySets cfg e).any fun set =>
        let nd := (entrySymbols cfg e set (e.len * s.nominalNs)).1
        decide (nd = 0) || !holdsSmallest e.ty nd set

/-- Reason 9: full duplex is not permitted (R130). -/
def State.duplexBad (s : State) (cfg tbl : List Word) : Bool :=
  cfgFlag cfg F.CH_CFG_FULL_DUPLEX &&
    (decide (cfgGet cfg F.CH_CFG_NUMER = 2) || !s.feat 4 ||
      !(List.range 64).any fun i => decide ((effEntry tbl cfg i).ty = tySound))

/-- Template slots that a channel needs. -/
def templateNeed (cfg : List Word) : Nat := if cfgFlag cfg F.CH_ADP_CTRL_TPL_EN then (cfgPorts cfg).length else 0

/-- Reason 10: template settings that are not permitted (R136). -/
def State.templateBad (s : State) (cfg : List Word) : Bool :=
  (cfgFlag cfg F.CH_ADP_CTRL_TPL_EN || cfgFlag cfg F.CH_ADP_CTRL_BLANK_EN) &&
    (decide (cfgGet cfg F.CH_CFG_NUMER = 2) || !s.feat 5)

/-! The checks over the whole set. -/

/-- Receive chains that a channel may bind in a slot on each of its ports. -/
def Cand5.chains (x : Cand5) (i : Nat) : List Nat :=
  let e := effEntry x.tbl x.cfg i
  if bindsChain e.ty (cfgFlag x.cfg F.CH_CFG_FULL_DUPLEX) (cfgFlag x.cfg F.CH_ADP_CTRL_TPL_EN) then cfgPorts x.cfg else []

/-- Reason 2: more than 32 receive chains active in some slot (R24). -/
def tooManyChains (set : List Cand5) : Bool :=
  (List.range 64).any fun i => decide (32 < (set.flatMap (·.chains i)).length)

/-- Reason 3: more than two on one port. -/
def portOverbound (set : List Cand5) : Bool :=
  (List.range 64).any fun i =>
    let l := set.flatMap (·.chains i)
    (List.range 16).any fun p => decide (2 < (l.filter fun q => decide (q = p)).length)

/-- Reason 4: unequal receive gain settings on a shared port (R76). -/
def gainsDiffer (set : List Cand5) : Bool :=
  set.any fun x => set.any fun y => decide (x.chan < y.chan) &&
    ((cfgPorts x.cfg).any fun p => (cfgPorts y.cfg).contains p) &&
    !(if cfgFlag x.cfg F.CH_GAIN_AUTO || cfgFlag y.cfg F.CH_GAIN_AUTO
      then cfgFlag x.cfg F.CH_GAIN_AUTO && cfgFlag y.cfg F.CH_GAIN_AUTO
      else decide (cfgGet x.cfg F.CH_GAIN_CODE = cfgGet y.cfg F.CH_GAIN_CODE))

/-- Reason 5: two channels that use a port both hold a transmitting type in one slot of the schedule as written (R80). -/
def portTwice (set : List Cand5) : Bool :=
  (List.range 64).any fun i =>
    let l := set.flatMap fun x => if transmits (writtenTy x.tbl x.cfg i) then cfgPorts x.cfg else []
    l.length ≠ l.eraseDups.length

/-- The demand of a set at every station, as the cost of 64 slots. -/
def State.demand (s : State) (iter : Nat) (set : List Cand5) : Costs :=
  set.foldl (fun a x => addCosts a (s.tableCost iter x.cfg x.tbl)) noCosts

/-- A demand in turns per second, to nearest. -/
def State.perSecond (s : State) (cost : Nat) : Nat :=
  (roundDiv (cost * 1000000000 : Nat) (64 * s.nominalNs)).toNat

/-- A demand as per mille of a capacity (R178): 0xFFFF where there is none. -/
def State.perMille (s : State) (cost cap : Nat) : Nat :=
  if cap = 0 then (if cost = 0 then 0 else 0xFFFF)
  else min 0xFFFF (roundDiv (cost * 1000000000 * 1000 : Nat) (64 * s.nominalNs * cap)).toNat

/-- Whether a station's demand exceeds 90 % of its capacity. -/
def State.overCap (s : State) (cost k : Nat) : Bool := decide (9 * s.stnCap k * (64 * s.nominalNs) < cost * 1000000000 * 10)

/-- The own configuration that checks 6 to 10 judge: that of the requesting channel, or those of every channel of a
version. -/
def ownCands (src : AdmSource) (set : List Cand5) : List Cand5 :=
  match src with
  | .chan c => set.filter fun x => decide (x.chan = c)
  | .sched => set
  | .iter => []

/-- The outcome of evaluating a request: reason, station and load per mille (R170, R172). -/
def State.evaluate (s : State) (src : AdmSource) : Nat × Nat × Nat :=
  let set := s.requestSet src
  let own := ownCands src set
  let need := s.demand (s.requestIter src) set
  let load := fun k => s.perMille (need.getD (k - 1) 0) (s.stnCap k)
  let first : List (Nat × Bool) :=
    [ (11, !s.enabled (.spx 0)), (2, tooManyChains set), (3, portOverbound set), (4, gainsDiffer set), (5, portTwice set),
      (6, own.any fun x => bandBad x.cfg), (7, own.any fun x => s.bundleBad x.cfg),
      (8, own.any fun x => s.emptyEntry x.cfg x.tbl), (9, own.any fun x => s.duplexBad x.cfg x.tbl),
      (10, own.any (fun x => s.templateBad x.cfg) || decide (32 < (set.map fun x => templateNeed x.cfg).foldl (· + ·) 0)) ]
  match first.find? (·.2) with
  | some r => (r.1, 0, 0)
  | none =>
    match (List.range 6).find? fun k => s.overCap (need.getD k 0) (k + 1) with
    | some k => (1, k + 1, load (k + 1))
    | none => (0, 0, ((List.range 6).map fun k => load (k + 1)).foldl max 0)

/-! Requests. -/

/-- The status of SPX[0] after an evaluation: reason, station, load, and its events and counters (R172, R180). -/
def State.admRecord (s : State) (src : AdmSource) (reason station load : Nat) : State :=
  let p : Page := .spx 0
  let ch := match src with | .chan c => c | _ => 0
  let kind := match src with | .chan _ => 0 | .sched => 1 | .iter => 2
  let seq := (s.fld p F.SPX_ADM_STATUS_SEQ + 1) % 16384
  let s1 := s.setReg p 0x048 (BitVec.ofNat 32
    ((if reason = 0 then 0 else 2 ^ 30) + ch * 2 ^ 24 + reason * 2 ^ 20 + station * 2 ^ 17 + kind * 2 ^ 14 + seq))
  let s2 := s1.setFld p F.SPX_ADM_LOAD_LOAD load
  let s3 := (s2.event p 3).bump p (if reason = 0 then 0 else 1)
  if reason = 0 then s3 else s3.event p 2

/-- The channel's refusal bit. -/
def State.setRefused (s : State) (c : Nat) (b : Bool) : State := s.setRegBit (.spx 0) (0x050 + 4 * (c / 32)) (c % 32) b

/-- A refused request (R172): its record, the channel's bit and event, or the version's. -/
def State.refuse (s : State) (src : AdmSource) (reason station load : Nat) : State :=
  let s1 := s.admRecord src reason station load
  match src with
  | .chan c => (s1.setRefused c true).event (chPage c) 2
  | .sched => s1.setFlag .sch F.SCH_VER_STAT_REFUSED true
  | .iter => s1

/-- An admission request: it waits behind those before it, or takes the place of one from the same source (R169). A request
while the soft reset of SPX[0] runs is refused with reason 11 (R179). -/
def State.request (s : State) (src : AdmSource) : State :=
  if s.softReset.contains (.spx 0) then s.refuse src 11 0 0
  else if s.line.spx.queue.contains src then s
  else { s with line := { s.line with spx := { s.line.spx with queue := s.line.spx.queue ++ [src] } } }

end Sys2Proof.Machine
end

