-- ==== Sys2Proof/Machine/Real.lean ====
section
/-! DEFINITION. Real functions that the spec's formulas take (R87, R91, R139 to R141), by integer arithmetic: cosines and polar forms at
64 binary places, powers of ten by exact comparison. Results are rounded to nearest (DESIGN CHOICE, log 218). -/

set_option Elab.async false

namespace Sys2Proof.Machine

/-- The largest number of `n` bits for which a downward closed test holds. -/
def bitSearch (n : Nat) (ok : Nat → Bool) : Nat :=
  (List.range n).foldr (fun i v => if ok (v + 2 ^ i) then v + 2 ^ i else v) 0

/-- The square root of a number below 2^`n` squared, rounded to nearest. -/
def sqrtNear (n v : Nat) : Nat := (bitSearch (n + 1) (fun r => decide (r * r ≤ 4 * v)) + 1) / 2

/-- π × 2^64. -/
def piFix : Nat := 57952155664616982739

/-- cos x × 2^64 by its series, from x² × 2^64, for x within π/2. -/
def cosSeries (q : Nat) : Nat :=
  (List.range 16).foldr (fun k h => 2 ^ 64 - q * h / 2 ^ 64 / ((2 * k + 1) * (2 * k + 2))) (2 ^ 64)

/-- cos(`a` × π/2^18) × 2^64, by the angle within π/2 that has the same cosine or its negative. -/
def cosFix (a : Int) : Int :=
  let m := (a % 524288).natAbs
  let r := if m ≤ 2 ^ 18 then m else 2 ^ 19 - m
  let x := (if r ≤ 2 ^ 17 then r else 2 ^ 18 - r) * piFix / 2 ^ 18
  let c := cosSeries (x * x / 2 ^ 64)
  if r ≤ 2 ^ 17 then (c : Int) else -(c : Int)

/-- sin(`a` × π/2^18) × 2^64. -/
def sinFix (a : Int) : Int := cosFix (a - 131072)

/-- The angle of a point in units of π/2^17, 18 bits, rounded to nearest; 0 for the origin. -/
def angleOf (re im : Int) : Nat :=
  let y := (im.natAbs : Int)
  -- half units below the angle of (re, |im|), which lies in [0, π]
  let h := bitSearch 19 fun a => decide (a ≤ 2 ^ 18) && decide (0 ≤ y * cosFix a - re * sinFix a) && !(decide (y = 0) && decide (0 ≤ re))
  let u := (h + 1) / 2
  if im < 0 then (2 ^ 18 - u) % 2 ^ 18 else u % 2 ^ 18

/-- A value times 10^(−m/40), rounded to nearest: of a magnitude below 2^`n` it is the largest w with (2w − 1)/2 ≤ v × 10^(−m/40). -/
def scaleTen (n v : Nat) (m : Int) : Nat :=
  let up := if m < 0 then 10 ^ m.natAbs else 1
  let down := if 0 ≤ m then 10 ^ m.natAbs else 1
  bitSearch n fun w => decide ((2 * w - 1) ^ 40 * down ≤ (2 * v) ^ 40 * up)

/-- A value scaled by 10^(1.5 k/20), rounded to nearest: what `k` gain steps make of it (R140, R141). -/
def scaleSteps (v k : Int) : Int :=
  if k = 0 then v
  else
    let w := scaleTen 40 v.natAbs (-3 * k)
    if v < 0 then -(w : Int) else w

/-- The ratio of two powers in 1/`k` dB, rounded to nearest and kept within ±2^13; a power of 0 is taken as 1. -/
def dbUnits (k a b : Nat) : Int :=
  let a := max 1 a
  let b := max 1 b
  -- 10 k log10(a/b) ≥ d − 1/2 where a^(20k) ≥ b^(20k) × 10^(2d − 1)
  let ge := fun (a b d : Nat) => decide (b ^ (20 * k) * 10 ^ (2 * d - 1) ≤ a ^ (20 * k))
  if b ≤ a then (bitSearch 13 (ge a b) : Nat) else -((bitSearch 13 (ge b a) : Nat) : Int)

/-- The ratio of two powers in 1/32 dB. -/
def dbRatio (a b : Nat) : Int := dbUnits 32 a b

end Sys2Proof.Machine
end

