-- ==== Sys2Proof/Machine/Wake.lean ====
section
/-! DEFINITION. A wake source (R452): what wakes the device from SLUMBER, and what is held until stage 5 is restored in
STANDBY. -/

set_option Elab.async false

namespace Sys2Proof.Machine

/-- The sources that serve STANDBY: the alarm, UART0 and PCIE_PERST_N, as bits of `PWR_WAKE_CAUSE`. -/
def standbySource (i : Nat) : Bool := decide (i = 1 ∨ i = 2 ∨ i = 3)

/-- Wake source `i`, a bit of `PWR_WAKE_CAUSE`, occurs: `PWR_WAKE_EN` is judged for the sources that it names. -/
def State.wake (s : State) (i : Nat) : State :=
  if decide (i < 6) && !((s.reg .pwr 0x05C).getLsbD i) then s
  else match s.pwr.mode with
  | .slumber => { s.setReg .pwr 0x060 (onesAt i 1) with pwr := { s.pwr with mode := .waking } }
  | .waking => s.setReg .pwr 0x060 (s.reg .pwr 0x060 ||| onesAt i 1)
  | .standby => if standbySource i then { s with pwr := { s.pwr with wakeHeld := setBitOf s.pwr.wakeHeld i true } } else s
  | _ => s

end Sys2Proof.Machine
end

