-- ==== Sys2Proof/Machine/Uart.lean ====
section
/-! DEFINITION. The UARTs (R423 to R433), the multifunction pins (R436 to R440) and the protection command pins (R434,
R435). -/

set_option Elab.async false

namespace Sys2Proof.Machine

/-! Multifunction pins. -/

/-- A pin. -/
def State.pin (s : State) (p : Nat) : Pin := s.io.pins.getD p ⟨0, none⟩

/-- Replace a pin. -/
def State.setPin (s : State) (p : Nat) (x : Pin) : State := { s with io := { s.io with pins := s.io.pins.set p x } }

/-- Whether the multifunction pins follow their selections: PMX enabled and PD19 on (R440, R445). -/
def State.pmxActs (s : State) : Bool := s.enabled .pmx && decide (s.dom 19 = .on)

/-- The function a pin's register selects. -/
def State.pinSel (s : State) (p : Nat) : Nat := s.fld .pmx (F.PMX_SEL_FUNC.at p)

/-- Whether some pin holds a function: the incoming function of a switch from its first cycle (R437, R438). -/
def State.funcHeld (s : State) (f : Nat) : Bool :=
  s.pmxActs && !s.padsHeld && s.io.pins.any fun x => decide (x.dest.getD x.act = f)

/-- An outgoing UART1_TX loses the character in progress (R438). -/
def State.loseTx (s : State) (a : Nat) : State :=
  if a = 0x28 then
    { s with io := { s.io with uarts := s.io.uarts.set 1 { s.io.uarts.getD 1 Uart.reset with busy := false } } }
  else s

/-- Start a pin's switch to what its register selects, if it differs and none is running (R438). -/
def State.startSwitch (s : State) (p : Nat) : State :=
  let x := s.pin p
  if s.pmxActs && x.dest.isNone && x.act != s.pinSel p then (s.setPin p { x with dest := some (s.pinSel p) }).loseTx x.act
  else s

/-- Every pin passes from OFF to its selected function: a rise of ENABLE, or the return of PD19. -/
def State.pinsOn (s : State) : State := (List.range 48).foldl (fun s p => s.startSwitch p) s

/-- Every pin acts as OFF. -/
def State.pinsOff (s : State) : State :=
  { s with io := { s.io with pins := List.replicate 48 ⟨0, none⟩ } }.loseTx 0x28

/-- Whether a function is selected by another pin, so that this pin may not select it (R437). OFF and GPIO are each pin's
own. -/
def State.pinConflict (s : State) (p f : Nat) : Bool :=
  decide (2 ≤ f) && (List.range 48).any fun k => decide (k ≠ p) &&
    (decide (s.pinSel k = f) || (s.pmxActs && decide ((s.pin k).dest.getD (s.pin k).act = f)))

/-- A write of `PMX_SEL` of pin `n` (R436 to R438). -/
def pmxSelWrite (n : Nat) (p : Page) (w : Word) (s : State) : State :=
  let f := F.PMX_SEL_FUNC.get w
  if s.pinConflict n f then
    ((((s.setFlag p F.PMX_STAT_CONFLICT true).setFld p F.PMX_STAT_PIN n).setFld p F.PMX_STAT_FUNC f).bump p 1).event p 2
  else (applyWrite p (0x100 + 4 * n) w s).startSwitch n

/-- PMX_SELECT: a write of `PMX_SEL` of pin `n`. -/
def execPmxSelect (q : Req) (n : Fin 48) (s : State) : Host.Outcome State Fault Refusal :=
  .next (writeWord q .pmx (0x100 + 4 * n.val) (pmxSelWrite n.val) s)

/-- PMX_SWITCH_DONE: a pin's switch completes, and a write that came during it acts (R438). -/
def execPmxSwitchDone (n : Fin 48) (s : State) : Host.Outcome State Fault Refusal :=
  .next (match (s.pin n.val).dest with
    | some f => (((s.setPin n.val ⟨f, none⟩).bump .pmx 0).event .pmx 1).startSwitch n.val
    | none => s)

/-- A read of `PMX_GPIO_IN`, low or high word: a pin that acts as GPIO samples its pad, which its own output drives or which
the board drives at a level that this model leaves free; every other bit keeps its last sample (R437). -/
def gpioRead (hi : Nat) (s : State) : Word × State :=
  let d := s.freeNat
  let pins := (List.range 32).filter fun k => decide (hi * 32 + k < 48)
  let w := pins.foldl (fun (a : Word) k =>
    let n := hi * 32 + k
    if decide ((s.pin n).act = 1) && s.pmxActs then
      let lvl := if bitOf (s.reg .pmx (0x04C + 4 * hi)).toNat k
        then (bitOf (s.reg .pmx (0x044 + 4 * hi)).toNat k) != s.flag .pmx (F.PMX_SEL_INV.at n)
        else bitOf d.1 k
      if lvl then a ||| onesAt k 1 else a &&& ~~~ onesAt k 1
    else a) (s.reg .pmx (0x054 + 4 * hi))
  (w, d.2.setReg .pmx (0x054 + 4 * hi) w)

/-- `PMX_STAT` with BUSY. -/
def State.pmxView (s : State) (off : Nat) : Option Word :=
  if off = 0x040 then some (F.PMX_STAT_BUSY.put (if s.io.pins.any (·.dest.isSome) then 1 else 0) (s.reg .pmx off)) else none

/-! UARTs. -/

/-- A UART. -/
def State.uart (s : State) (u : Fin 2) : Uart := s.io.uarts.getD u.val Uart.reset

/-- Replace a UART. -/
def State.setUart (s : State) (u : Fin 2) (x : Uart) : State :=
  { s with io := { s.io with uarts := s.io.uarts.set u.val x } }

/-- Depth of each FIFO (R423). -/
def uartDepth (u : Fin 2) : Nat := if u.val = 0 then 64 else 256

/-- Data bits of a character (R424, Table 14-8). -/
def State.uartBits (s : State) (u : Fin 2) : Nat :=
  if s.flag (.uart u) F.UART_CFG_MDROP then 9 else 7 + min 2 (s.fld (.uart u) F.UART_CFG_DBITS)

/-- The parity in force: 0 none, 1 even, 2 odd; none with nine data bits. -/
def State.uartParity (s : State) (u : Fin 2) : Nat :=
  if s.uartBits u = 9 then 0 else s.fld (.uart u) F.UART_CFG_PARITY

/-- Whether UART0's low-power receiver is in charge (R427). -/
def State.lpActive (s : State) (u : Fin 2) : Bool :=
  decide (u.val = 0) && s.flag (.uart u) F.UART_CFG_LP_EN && !s.flag (.uart u) F.UART_CFG_SYNC

/-- Ones among the low nine bits. -/
def onesIn (v : Nat) : Nat := ((List.range 9).filter fun i => bitOf v i).length

/-- A character as it stands on the line (R424): start bit, data bits from the least significant, parity and stop bits. -/
def State.uartFrame (s : State) (u : Fin 2) (d : Nat) : List Bool :=
  let n := s.uartBits u
  let par := match s.uartParity u with
    | 0 => []
    | p => [decide ((onesIn (d % 2 ^ n) + p) % 2 = 0)]
  [false] ++ (List.range n).map (bitOf d) ++ par ++ List.replicate (if s.flag (.uart u) F.UART_CFG_STOP2 then 2 else 1) true

/-- The rate at which a UART transmits, each setting acting as its nearer limit (R425, R427, R432). -/
def State.uartRate (s : State) (u : Fin 2) : BitRate :=
  let p : Page := .uart u
  if s.flag p F.UART_CFG_SYNC then (let d := clampN 16 254 (s.fld p F.UART_SDIV_DIV); .sync (d + d % 2))
  else if s.lpActive u then .lowPower (clampN 1200 9600 (s.fld p F.UART_LP_BAUD))
  else if s.flag p F.UART_CFG_OS8 then .fast (min 1073741824 (s.fld p F.UART_BAUD_INC)) 8
  else .fast (min 1063004406 (s.fld p F.UART_BAUD_INC)) 3

/-- Whether RX is sampled in synchronous mode: by a CK that runs on, or while a character is transmitted (R432). -/
def State.ckSamples (s : State) (u : Fin 2) : Bool :=
  !s.flag (.uart u) F.UART_CFG_SYNC || s.flag (.uart u) F.UART_CFG_CK_CONT || (s.uart u).busy

/-- Whether the receiver can take a character: enabled, and in RUN or IDLE with its RX held by a pin, or by the low-power
receiver in every state in which PD0 has power (R423, R427, R437). -/
def State.uartRxOn (s : State) (u : Fin 2) : Bool :=
  s.enabled (.uart u) && !s.isolated (.uart u) && s.ckSamples u &&
  (if s.lpActive u then decide (s.pwr.mode ≠ .off) && decide (s.pwr.mode ≠ .reset) && s.pwr.clk.xtal32
   else s.running && s.pageOn (.uart u) && (decide (u.val = 0) || s.funcHeld 0x29))

/-- Bring RX pressure up to date (R314); its rise sets RX_HIGH. -/
def State.uartPressure (s : State) (u : Fin 2) : State :=
  let x := s.uart u
  let p := pressure x.press x.rx.length (s.fld (.uart u) F.UART_RX_WM_HIGH) (s.fld (.uart u) F.UART_RX_WM_LOW)
  let s1 := s.setUart u { x with press := p }
  if p && !x.press then s1.event (.uart u) 7 else s1

/-- Store a word in the RX FIFO, or over the newest word where the FIFO is full (R430). The flag tells of the loss. -/
def State.uartStore (s : State) (u : Fin 2) (w : UartWord) : State :=
  let x := s.uart u
  let w := { w with idle := x.idle }
  let x := { x with idle := false, heard := true }
  if x.rx.length < uartDepth u then (s.setUart u { x with rx := x.rx ++ [w] }).uartPressure u
  else
    ((((s.setUart u { x with rx := x.rx.dropLast ++ [{ w with ovr := true }] }).setFlag (.uart u) F.UART_STAT_OVR true).bump
      (.uart u) 4).event (.uart u) 3)

/-- Whether multidrop addressing takes a character, and which selection it leaves (R428): none discards it. -/
def State.mdropTakes (s : State) (u : Fin 2) (d : Nat) : Bool × Bool :=
  if !s.flag (.uart u) F.UART_CFG_MDROP then (true, (s.uart u).selected)
  else if d < 256 then ((s.uart u).selected, (s.uart u).selected)
  else
    let m := decide (d % 256 = s.fld (.uart u) F.UART_ADDR_OWN) || decide (d % 256 = s.fld (.uart u) F.UART_ADDR_BCAST)
    (m, m)

/-- A matching address character: its event and counter, and on UART0 in SLUMBER or STANDBY the wake (R428). -/
def State.addrMatch (s : State) (u : Fin 2) : State :=
  let s1 := (s.bump (.uart u) 6).event (.uart u) 2
  if decide (u.val = 0) && (decide (s.pwr.mode = .slumber) || decide (s.pwr.mode = .standby)) then
    (s1.event (.uart u) 1).wake 2
  else s1

/-- UART_RX_CHAR: a character arrives: its data bits, its parity bit, and whether its first stop bit read mark. -/
def execUartRxChar (u : Fin 2) (data : Nat) (par stop : Bool) (s : State) : Host.Outcome State Fault Refusal :=
  .next (
    if !s.uartRxOn u then s
    else
      let p : Page := .uart u
      let d := data % 2 ^ s.uartBits u
      let pty := s.uartParity u
      let pe := decide (pty ≠ 0) && decide ((onesIn d + (if par then 1 else 0)) % 2 ≠ (if pty = 1 then 0 else 1))
      let t := s.mdropTakes u d
      let s1 := (s.setUart u { s.uart u with selected := t.2, heard := true }).bump p 0
      let s2 := if pe then s1.bump p 2 else s1
      let s3 := if stop then s2 else s2.bump p 3
      let s4 := if pe || !stop then s3.event p 3 else s3
      let s5 := if s.flag p F.UART_CFG_MDROP && decide (256 ≤ d) && t.1 then s4.addrMatch u else s4
      if t.1 then s5.uartStore u ⟨d, false, false, false, !stop, pe, false⟩ else s5)

/-- UART_BREAK: a space longer than a frame is stored once as a BRK word (R431). -/
def execUartBreak (u : Fin 2) (s : State) : Host.Outcome State Fault Refusal :=
  .next (
    if !s.uartRxOn u then s
    else
      let p : Page := .uart u
      (((((s.bump p 5).bump p 3).event p 4).event p 3).uartStore u ⟨0, false, true, false, true, false, false⟩))

/-- UART_IDLE: one character time of mark after a received character (R431). -/
def execUartIdle (u : Fin 2) (s : State) : Host.Outcome State Fault Refusal :=
  .next (
    if s.uartRxOn u && (s.uart u).heard then
      (s.setUart u { s.uart u with heard := false, idle := true }).event (.uart u) 5
    else s)

/-- Whether the transmitter is held: its TX function, or in synchronous mode its CK function, is held by no pin (R433). -/
def State.txHeld (s : State) (u : Fin 2) : Bool :=
  let sync := s.flag (.uart u) F.UART_CFG_SYNC
  (decide (u.val = 1) && !s.funcHeld 0x28) || (sync && !s.funcHeld (if u.val = 0 then 0x22 else 0x2C))

/-- The level that the UART sees on CTS_N: high where no pin holds the function (R437). -/
def State.ctsSeen (s : State) (u : Fin 2) (level : Bool) : Bool :=
  if s.funcHeld (if u.val = 0 then 0x21 else 0x2B) then level else true

/-- TX_LOW sets when the TX fill falls to LEVEL (Table 14-8). -/
def State.txLow (s : State) (u : Fin 2) (was : Nat) : State :=
  let l := s.fld (.uart u) F.UART_TX_WM_LEVEL
  if l < was ∧ (s.uart u).tx.length ≤ l then s.event (.uart u) 6 else s

/-- UART_TX_CHAR: the transmitter is free for a character, with the level on CTS_N: it starts the next one if it may. -/
def execUartTxChar (u : Fin 2) (cts : Bool) (s : State) : Host.Outcome State Fault Refusal :=
  .next (
    let x := { s.uart u with cts := s.ctsSeen u cts, busy := false }
    let s1 := s.setUart u x
    if !(s.enabled (.uart u)) || s.isolated (.uart u) || !s.running || !s.pageOn (.uart u) || s.padsHeld || s.txHeld u ||
        (s.flag (.uart u) F.UART_CFG_CTS_EN && x.cts) then s1
    else match x.tx with
    | [] => s1
    | d :: r =>
      (((s1.setUart u { x with tx := r, busy := true }).emit (.uart u.val (s.uartFrame u d) (s.uartRate u))).bump (.uart u) 1).txLow u
        x.tx.length)

/-- A write of `UART_TXD`: the character is queued, or lost with TX_DROP where the FIFO is full (R433). -/
def uartTxdWrite (u : Fin 2) (p : Page) (w : Word) (s : State) : State :=
  let x := s.uart u
  if x.tx.length < uartDepth u then s.setUart u { x with tx := x.tx ++ [w.toNat % 512] }
  else s.setFlag p F.UART_STAT_TX_DROP true

/-- UART_TXD_WRITE: a write of `UART_TXD`. -/
def execUartTxdWrite (q : Req) (u : Fin 2) (s : State) : Host.Outcome State Fault Refusal :=
  .next (writeWord q (.uart u) 0x05C (uartTxdWrite u) s)

/-- `UART_RXD` for a word of the FIFO. -/
def uartRxdWord (w : UartWord) : Word :=
  BitVec.ofNat 32 (w.data + (if w.pe then 2 ^ 11 else 0) + (if w.fe then 2 ^ 12 else 0) + (if w.ovr then 2 ^ 13 else 0) +
    (if w.brk then 2 ^ 14 else 0) + (if w.idle then 2 ^ 15 else 0) + (if w.poison then 2 ^ 30 else 0))

/-- A read of `UART_RXD` removes the head character; `bad` when the stored word's parity fails (R312, R430). -/
def uartRxdRead (u : Fin 2) (bad : Bool) (s : State) : Word × Bool × State :=
  let x := s.uart u
  match x.rx with
  | [] => (0x80000000, false, s)
  | w :: r =>
    let w := { w with poison := w.poison || bad }
    let s1 := (s.setUart u { x with rx := r }).uartPressure u
    (uartRxdWord w, false, if w.poison then s1.bump (.uart u) 7 else s1)

/-- UART_RXD_READ: a read of `UART_RXD`. -/
def execUartRxdRead (q : RdReq) (u : Fin 2) (bad : Bool) (s : State) : Host.Outcome State Fault Refusal :=
  .next (readWord q (.uart u) 0x060 (fun p s => uartRxdRead u bad (s.touch (p.fn q.serial))) s)

/-- A write of `UART_FIFO_CTL`. -/
def uartFifoWrite (u : Fin 2) (_ : Page) (w : Word) (s : State) : State :=
  let s1 := if w.getLsbD 1 then (s.setUart u { s.uart u with rx := [] }).uartPressure u else s
  if w.getLsbD 0 then (s1.setUart u { s1.uart u with tx := [] }).txLow u (s1.uart u).tx.length else s1

/-- RX_FLUSH: a write of `UART_FIFO_CTL`. -/
def execRxFlush (q : Req) (u : Fin 2) (s : State) : Host.Outcome State Fault Refusal :=
  .next (writeWord q (.uart u) 0x068 (uartFifoWrite u) s)

/-- TX_FLUSH: a write of `UART_FIFO_CTL`. -/
def execTxFlush (q : Req) (u : Fin 2) (s : State) : Host.Outcome State Fault Refusal :=
  .next (writeWord q (.uart u) 0x068 (uartFifoWrite u) s)

/-- What a write of a register of a UART page does. -/
def uartEffect (u : Fin 2) (off : Nat) : Page → Word → State → State :=
  match off with
  | 0x054 => fun p w s => (applyWrite p 0x054 w s).uartPressure u
  | 0x05C => uartTxdWrite u
  | 0x068 => uartFifoWrite u
  | _ => (applyWrite · off)

/-- `UART_STAT`, of which hardware holds a part. -/
def State.uartView (s : State) (u : Fin 2) (off : Nat) : Option Word :=
  let x := s.uart u
  let p : Page := .uart u
  let b (c : Bool) (i : Nat) : Nat := if c then 2 ^ i else 0
  if off = 0x064 then
    some ((s.reg p off &&& (F.UART_STAT_OVR.mask ||| F.UART_STAT_TX_DROP.mask)) |||
      BitVec.ofNat 32 (b x.busy 31 + b (s.lpActive u && s.enabled p) 30 + b (s.txHeld u) 29 +
        b (!s.flag p F.UART_CFG_RTS_EN || x.press) 28 + b (s.ctsSeen u x.cts) 27 + x.tx.length * 2 ^ 12 + x.rx.length))
  else none

/-! Protection command pins. -/

/-- A CMD_IN line. -/
def State.cmdIn (s : State) (i : Fin 8) : CmdIn := s.io.cmdIn.getD i.val CmdIn.reset

/-- Replace a CMD_IN line. -/
def State.setCmdIn (s : State) (i : Fin 8) (x : CmdIn) : State :=
  { s with io := { s.io with cmdIn := s.io.cmdIn.set i.val x } }

/-- Whether the CMD_IN lines are sampled: CMDIO enabled and PD19 on (R408, R445). -/
def State.cmdInOn (s : State) : Bool := s.enabled .cmdio && decide (s.dom 19 = .on) && !s.padsHeld

/-- One sample of a line: `hi` when above VIH, `mid` when between VIL and VIH, which holds the previous sample. -/
def CmdIn.sample (x : CmdIn) (pol hi mid : Bool) : CmdIn :=
  let l := if mid then x.level else hi != pol
  { x with level := l, run := if l = x.level then x.run + 1 else 1 }

/-- CMD_IN_SAMPLE: the 1 µs sample of every line, `hi` and `mid` as masks of lines (R434). -/
def execCmdInSample (hi mid : Nat) (s : State) : Host.Outcome State Fault Refusal :=
  .next (
    if !s.cmdInOn then s
    else (List.finRange 8).foldl (fun s i =>
      s.setCmdIn i ((s.cmdIn i).sample (s.flag .cmdio (F.CMDIO_IN_POL.at i.val)) (bitOf hi i.val) (bitOf mid i.val))) s)

/-- Whether a line has had DEB_US consecutive samples at a level (R434). -/
def State.debounced (s : State) (i : Fin 8) (level : Bool) : Bool :=
  let x := s.cmdIn i
  s.cmdInOn && decide (x.level = level) && decide (max 1 (s.fld .cmdio (F.CMDIO_IN_DEB_US.at i.val)) ≤ x.run) &&
    decide (x.active ≠ level)

/-- CMD_IN_DEACTIVATE: a line becomes inactive (R434). -/
def execCmdInDeactivate (i : Fin 8) (s : State) : Host.Outcome State Fault Refusal :=
  .next (if s.debounced i false then (s.setCmdIn i { s.cmdIn i with active := false }).event .cmdio 2 else s)

/-- The change of a line to active, without what it triggers: its event, its counter and the wake (R434, R452). -/
def State.lineActive (s : State) (i : Fin 8) : State :=
  (((s.setCmdIn i { s.cmdIn i with active := true }).bump .cmdio 0).event .cmdio 2).wake 5

/-- Whether a CMD_OUT line drives its active level (R435). -/
def State.outActive (s : State) (i : Nat) : Bool :=
  s.enabled .cmdio && s.running && !s.padsHeld && (s.io.outHold.getD i false || s.flag .cmdio (F.CMDIO_OUT_FORCE.at i))

/-- Bring the CMD_OUT lines up to date after a change of what drives them: OUT_CHANGE and the counter of assertions. -/
def State.outUpdate (s : State) : State :=
  (List.range 8).foldl (fun s i =>
    let was := s.io.outDrv.getD i false
    let now := s.outActive i
    if was = now then s
    else
      let s1 := ({ s with io := { s.io with outDrv := s.io.outDrv.set i now } }).event .cmdio 1
      if now then s1.bump .cmdio 1 else s1) s

/-- A detection routed to CMD_OUT line `i` starts its hold, or starts it anew (R435). -/
def State.outDetect (s : State) (i : Nat) : State :=
  if s.enabled .cmdio then ({ s with io := { s.io with outHold := s.io.outHold.set i true } }).outUpdate else s

/-- CMD_OUT_HOLD_EXPIRE: HOLD_MS after the last detection of a line has passed (R435). -/
def execCmdOutHoldExpire (i : Fin 8) (s : State) : Host.Outcome State Fault Refusal :=
  .next ({ s with io := { s.io with outHold := s.io.outHold.set i.val false } }).outUpdate

/-- What a write of a register of the CMDIO page does. -/
def cmdioEffect (off : Nat) (p : Page) (w : Word) (s : State) : State := (applyWrite p off w s).outUpdate

/-- CMDIO stops or starts: its lines start inactive, and no hold survives (R434). -/
def State.cmdioRestart (s : State) : State :=
  ({ s with io := { s.io with cmdIn := List.replicate 8 CmdIn.reset, outHold := List.replicate 8 false } }).outUpdate

/-- `CMDIO_STAT`. -/
def State.cmdioView (s : State) (off : Nat) : Option Word :=
  if off = 0x0C0 then
    some (BitVec.ofNat 32 ((List.finRange 8).foldl (fun a i =>
      a + (if s.io.outDrv.getD i.val false then 2 ^ (8 + i.val) else 0) + (if (s.cmdIn i).active then 2 ^ i.val else 0)) 0))
  else none

/-- What a write of a register of the PMX page does. -/
def pmxEffect (off : Nat) : Page → Word → State → State :=
  if 0x100 ≤ off ∧ off < 0x1C0 then pmxSelWrite ((off - 0x100) / 4) else (applyWrite · off)

/-- What writes of the MON, CNT and HST pages do. -/
def monEffect (m : Fin 8) (off : Nat) : Page → Word → State → State :=
  if off = 0x040 ∨ off = 0x044 ∨ off = 0x048 then monCfgWrite m off
  else if off = 0x04C then monBankWrite m
  else if off = 0x054 then monWmWrite m
  else if off = 0x0C0 ∨ off = 0x0E0 then monThCfgWrite m ((off - 0x0C0) / 0x20)
  else if off = 0x0CC ∨ off = 0x0EC then monThEvtWrite ((off - 0x0CC) / 0x20)
  else if 0x400 ≤ off then monCoefWrite m off
  else (applyWrite · off)

def hstEffect (off : Nat) : Page → Word → State → State :=
  let j := (off - 0x100) / 0x100
  if off % 0x100 = 0x00 ∧ 0x100 ≤ off then hstCfgWrite j
  else if off % 0x100 = 0x04 ∧ 0x100 ≤ off then hstFilterWrite j
  else if off % 0x100 = 0x20 ∧ 0x100 ≤ off then hstCmdWrite j
  else (applyWrite · off)

def cntEffect (off : Nat) : Page → Word → State → State :=
  if off = 0x040 then cntCtrlWrite else (applyWrite · off)

end Sys2Proof.Machine
end

