-- ==== Sys2Proof/Machine/Ports.lean ====
section
/-! DEFINITION. Line ports, VDRV, impedance and the drive budget (R72 to R98). Ports 0 to 11 are N0 to N11, 12 to 15 are W0 to
W3. -/

set_option Elab.async false

namespace Sys2Proof.Machine

/-! Ports. -/

/-- The page of a port. -/
def portPage (p : Nat) : Page :=
  if p < 12 then .np ⟨p % 12, Nat.mod_lt _ (by omega)⟩ else .wp ⟨(p - 12) % 4, Nat.mod_lt _ (by omega)⟩

/-- A port's hidden state. -/
def State.port (s : State) (p : Nat) : Port := s.line.ports.getD p Port.reset

/-- Replace a port's hidden state. -/
def State.setPort (s : State) (p : Nat) (x : Port) : State :=
  { s with line := { s.line with ports := s.line.ports.set p x } }

/-- The faults of Table 03-4 that remove a port. -/
def removingFaults : Word := 0x17E

/-- Whether a port's description is invalid (R74). -/
def State.portCfgErr (s : State) (p : Nat) : Bool :=
  let g := portPage p
  decide (12 < s.fld g F.NP_CFG_TURNS) || decide (2 ≤ s.fld g F.NP_CFG_RX_TAP) || decide (s.fld g F.NP_ISENSE_RSENSE < 10)

/-- Whether a port can be in service (R85, R86, R94): its domain on, enabled, not isolated or in soft reset, described, free of
removing faults, and not stopped by shedding or state. -/
def State.portAble (s : State) (p : Nat) : Bool :=
  let g := portPage p
  s.pageOn g && s.enabled g && !s.isolated g && !s.softReset.contains g && !s.portCfgErr p &&
    (s.reg g offFault &&& removingFaults) == 0 && s.running && !s.stageShed 4 && s.pwr.clk.cnvLock

/-- Whether a condition that removed a port lasts (R86): ADC_STUCK until a slot is reported otherwise, DRV_THERMAL until the hotspot
is reported at 155 °C or below. The other faults need a port in service to be detected, so that none lasts. -/
def State.faultLasts (s : State) (p : Nat) : Bool := (s.port p).stuck || decide (1240 < (s.port p).hot)

/-- Whether a port is in service in its bundle. -/
def State.inSvc (s : State) (p : Nat) : Bool := (s.port p).inSvc && s.portAble p

/-- Whether a W-port is silenced by shedding stage 1: once the symbol that it was sending has ended (R94). -/
def State.wSilent (s : State) (p : Nat) : Bool :=
  decide (12 ≤ p) && s.stageShed 1 && ((s.port p).held || (s.port p).txCh.isNone)

/-- Whether a port's driver may drive (R81, R82, R94, R95, R370); a port that has left service finishes its symbol (R85). -/
def State.driverOk (s : State) (p : Nat) : Bool :=
  (s.inSvc p || (s.port p).leaving) && !s.padsHeld && s.running && decide (s.dom 18 = .on) && s.line.drvOk && !s.line.uv &&
    !s.twinSilent && !s.wSilent p

/-- Whether a port's driver drives at this instant (R78): it transmits, between its lead and its lag. -/
def State.drives (s : State) (p : Nat) : Bool :=
  match (s.port p).drive with
  | some d => (s.port p).txCh.isSome && !(s.port p).tripped && s.driverOk p && decide (d.1 ≤ s.ct ∧ s.ct < d.2)
  | none => false

/-- Whether a port is in EXT_PA mode (R83). -/
def State.extPa (s : State) (p : Nat) : Bool := decide (p < 12) && s.feat 21 && s.flag (portPage p) F.NP_CFG_EXT_PA

/-- The active channels that name a port. -/
def State.portChans (s : State) (p : Nat) : List Nat :=
  (List.range 64).filter fun c => match s.live c with | some cfg => (cfgPorts cfg).contains p | none => false

/-- A channel's request for sounding in its next SOUND slot (R85, R86, R190). -/
def State.askSound (s : State) (c : Nat) : State := s.setChan c { s.chan c with soundReq := true }

/-- The maps of a channel's links are out of date: a port has left or rejoined its bundle, or a notch has changed (R153). -/
def State.staleLinks (s : State) (c : Nat) : State :=
  { s with line := { s.line with links := s.line.links.map fun l => if l.chan = c then { l with stale := true, due := true } else l } }

/-- The canceller's pairs of a port that leaves its bundle are dropped (R130). -/
def State.dropTaps (s : State) (p : Nat) : State :=
  (s.portChans p).foldl (fun s c => s.setChan c { s.chan c with taps := (s.chan c).taps.filter fun e => !decide (e.1 = p ∨ e.2.1 = p) }) s

/-- A port leaves or rejoins its bundle: its event, and a sounding of each channel, whose maps are out of date. A port that leaves
finishes the symbol that it sends (R85). -/
def State.setInSvc (s : State) (p : Nat) (b : Bool) : State :=
  let x := s.port p
  if x.inSvc = b then s
  else
    let s1 := s.setPort p { x with inSvc := b, leaving := !b && x.txCh.isSome }
    let s2 := if !b && x.txCh.isNone then s1.dropTaps p else s1
    (s.portChans p).foldl (fun s c => (s.staleLinks c).askSound c) (s2.event (portPage p) (if b then 2 else 1))

/-- Take every port that can no longer serve out of its bundle (R85). -/
def State.portsRemove (s : State) : State :=
  (List.range 16).foldl (fun s p => if s.portAble p then s else s.setInSvc p false) s

/-- Ports whose cause of removal has ended rejoin, at a superframe boundary (R86). -/
def State.portsRejoin (s : State) : State :=
  (List.range 16).foldl (fun s p =>
    if !s.portAble p then s.setInSvc p false else if s.faultLasts p then s else s.setInSvc p true) s

/-- A port stops transmitting. -/
def State.stopPort (s : State) (p : Nat) : State :=
  let x := s.port p
  let s0 := if x.leaving then s.dropTaps p else s
  let s1 := s0.setPort p { x with txCh := none, drive := none, leaving := false, probing := false }
  s1.setFlag (portPage p) F.NP_TX_STAT_VALID false

/-- A port that has left service, or that stage 1 silences, goes to high impedance at a symbol boundary (R85, R94). -/
def State.portBoundary (s : State) (p : Nat) : State :=
  if decide (12 ≤ p) && s.stageShed 1 then (s.setPort p { s.port p with held := true }).stopPort p
  else if (s.port p).leaving then s.stopPort p
  else s

/-- Faults whose action takes the driver to high impedance at once (Table 03-4): DRV_OCP, DRV_THERMAL, SHORT and PA_ILIM. -/
def stopsDriver (bit : Nat) : Bool := decide (bit = 2 ∨ bit = 3 ∨ bit = 5 ∨ bit = 6)

/-- A port fault (R95): the fault with its DETAIL, and the removal. -/
def State.portFault (s : State) (p bit count region : Nat) : State :=
  let s1 := (s.fault (portPage p) bit (region % 256 * 256 + min count 255)).portsRemove
  if stopsDriver bit then s1.stopPort p else s1

/-- The ports of a channel that are in service. -/
def State.servicePorts (s : State) (cfg : List Word) : List Nat := (cfgPorts cfg).filter s.inSvc

/-- The streams and transmitting ports of a channel with the ports in service (R84). -/
def State.txPorts (s : State) (cfg : List Word) : List Nat :=
  let ps := (cfgPorts cfg).filter s.driverOk
  bundleTx cfg (s.bundleStreams cfg ps.length) ps

/-! VDRV (R81). -/

/-- The setpoint in force in 50 mV steps: capped at 12.0 V while stage 1 is shed. -/
def State.vdrvSet (s : State) : Nat :=
  let v := s.fld (.np 0) F.NP_VDRV_SET
  if s.stageShed 1 then min v 240 else v

/-- A write of `NP_VDRV`: clamped to 6.0 to 24.0 V. -/
def vdrvWrite (p : Page) (w : Word) (s : State) : State :=
  let v := F.NP_VDRV_SET.get w
  let c := clampN 120 480 v
  let s1 := s.setFld p F.NP_VDRV_SET c
  if c = v then s1 else s1.setFlag p F.NP_LEDGER_USE_CLAMPED true

/-- The largest voltage of a port's output in mV, half its swing peak to peak, at the lower of the setpoint and the measured VDRV
(R79, Table 03-3). -/
def State.swingMv (s : State) (p : Nat) : Nat :=
  let v := 50 * min s.vdrvSet (s.fld (.np 0) F.NP_VDRV_STAT_MEAS) - 1500
  if p < 12 then v else min 9000 v

/-- VDRV_SET: a write of `NP_VDRV`. -/
def execVdrvSet (q : Req) (s : State) : Host.Outcome State Fault Refusal := .next (writeWord q (.np 0) 0x0C0 vdrvWrite s)

/-- VDRV_SETTLED: VDRV, measured in 50 mV steps, has been within 5 % of its setpoint for 1 ms with PD18 on. -/
def execVdrvSettled (meas : Nat) (s : State) : Host.Outcome State Fault Refusal :=
  .next (
    let t := s.vdrvSet
    if decide (s.dom 18 = .on) && decide (95 * t ≤ 100 * meas ∧ 100 * meas ≤ 105 * t) then
      let s1 := { s with line := { s.line with drvOk := true, uv := false } }
      ((s1.setFld (.np 0) F.NP_VDRV_STAT_MEAS meas).setFlag (.np 0) F.NP_VDRV_STAT_IN_REG true).event (.np 0) 6
    else s)

/-- VDRV_UV: VDRV has been below 90 % of its setpoint for 100 µs outside a slew (Table 03-4). -/
def execVdrvUv (meas : Nat) (s : State) : Host.Outcome State Fault Refusal :=
  .next (
    if decide (s.dom 18 = .on) && s.line.drvOk && decide (100 * meas < 90 * s.vdrvSet) then
      let s1 := { s with line := { s.line with uv := true } }
      let s2 := (s1.setFld (.np 0) F.NP_VDRV_STAT_MEAS meas).setFlag (.np 0) F.NP_VDRV_STAT_IN_REG false
      (List.range 16).foldl (fun s p => s.fault (portPage p) 7 1) s2
    else s)

/-- PD18 goes off: the drivers are no longer in regulation. -/
def State.driversOff (s : State) : State :=
  ({ s with line := { s.line with drvOk := false } }).setFlag (.np 0) F.NP_VDRV_STAT_IN_REG false

/-! The ledger (R89, R90). -/

/-- The cap that a write of `NP_LEDGER_CAP` leaves, and whether it was clamped: 6,000 mW at most unless HS_RATED was set before and
stays set, 8,000 mW at most with it, and 6,000 mW where the write clears HS_RATED while the stored cap lies above. -/
def ledgerCap (rated : Bool) (old : Nat) (hs : Bool) (v : Nat) : Nat × Bool :=
  if rated && !hs && decide (6000 < old) then (6000, true)
  else let c := min v (if rated && hs then 8000 else 6000); (c, decide (c ≠ v))

/-- A write of `NP_LEDGER_CAP`. -/
def ledgerCapWrite (p : Page) (w : Word) (s : State) : State :=
  let hs := F.NP_LEDGER_CAP_HS_RATED.get w
  let c := ledgerCap (s.flag p F.NP_LEDGER_CAP_HS_RATED) (s.fld p F.NP_LEDGER_CAP_CAP_MW) (decide (hs = 1)) (F.NP_LEDGER_CAP_CAP_MW.get w)
  let s1 := (s.setFld p F.NP_LEDGER_CAP_HS_RATED hs).setFld p F.NP_LEDGER_CAP_CAP_MW c.1
  if c.2 then s1.setFlag p F.NP_LEDGER_USE_CLAMPED true else s1

/-- LEDGER_CAP_WRITE: a write of `NP_LEDGER_CAP`. -/
def execLedgerCapWrite (q : Req) (s : State) : Host.Outcome State Fault Refusal :=
  .next (writeWord q (.np 0) 0x0C8 ledgerCapWrite s)

/-- SHARE_WRITE: a write of `CH_SHARE`. -/
def execShareWrite (q : Req) (c : Fin 64) (s : State) : Host.Outcome State Fault Refusal :=
  .next (writeWord q (.ch c) 0x054 (fun p w s => applyWrite p 0x054 w s) s)

/-- The effective cap in mW: halved while the thermal warning is active. -/
def State.effCap (s : State) : Nat :=
  let c := s.fld (.np 0) F.NP_LEDGER_CAP_CAP_MW
  if s.pwr.thm.warn then c / 2 else c

/-- The sum of the written shares of all active channels. -/
def State.shareSum (s : State) : Nat :=
  ((List.range 64).filter fun c => (s.live c).isSome).foldl (fun a c => a + s.fld (chPage c) F.CH_SHARE_SHARE_MW) 0

/-! Dissipation (R91, R92). -/

/-- The word of a port's impedance table that holds a carrier, counted as R88 counts it. -/
def impWord (p c : Nat) : Nat := if p < 12 then 1507328 + 1024 * p + c else 1519616 + 4096 * (p - 12) + c

/-- A stored impedance: magnitude and phase, if the carrier was measured. -/
def State.impedance (s : State) (p c : Nat) : Option (Nat × Nat) :=
  let w := s.tmapGet (impWord p c) % 2 ^ 36
  if w % 2 ^ 18 = 0x20000 then none else some (w / 2 ^ 18, w % 2 ^ 18)

/-- P_load of one carrier in mW, as a fraction: |V|² × Re(1/Z_dev), with Z_dev = Z_line / n² (R74, R91). DESIGN CHOICE (log 219): a
divisor of 0, from a magnitude or a SHORT_TH of 0, counts as 1. -/
def State.carrierLoad (s : State) (p : Nat) (c vsq : Nat) : Rat :=
  let t := 4 + s.fld (portPage p) F.NP_CFG_TURNS
  match s.impedance p c with
  | some z => mkRat (vsq * t * t * 256 * cosFix (2 * z.2)) (1000 * 16 * 2 ^ 64 * max 1 z.1)
  | none => mkRat (vsq * t * t * 64 : Nat) (1000 * 16 * max 1 (s.fld (portPage p) F.NP_IMP_LIMITS_SHORT_TH))

/-- P_load of one port's symbol. -/
def State.portLoad (s : State) (l : PortLoad) : Rat :=
  l.vsq.foldl (fun a e => a + s.carrierLoad l.port.val e.1 e.2) 0

/-- Quiescent dissipation and factor of a port (Table 03-3). -/
def quiescent (p : Nat) : Nat := if p < 12 then 80 else 150
def dissFactor (p : Nat) : Nat := if p < 12 then 1 else 2

/-- Whether a gain of 10^(−m/80), that is m × 0.25 dB, keeps `a` × gain² within `r`: a × 10^(−m/40) ≤ r. -/
def gainFits (a r : Rat) (m : Nat) : Bool := decide (0 ≤ r) && decide (a ^ 40 ≤ r ^ 40 * 10 ^ m)

/-- The smallest reduction in 0.25 dB steps that fits, up to 24 dB. -/
def gainSteps (a r : Rat) : Option Nat :=
  if a ≤ r then some 0 else (List.range 97).find? fun m => gainFits a r m

/-- The whole milliwatts of `a` × 10^(−m/40), below 2^16. -/
def scaledMw (a : Rat) (m : Nat) : Nat :=
  (List.range 16).foldr (fun i v =>
    let x := v + 2 ^ i
    if ((x : Nat) : Rat) ^ 40 * 10 ^ m ≤ a ^ 40 then x else v) 0

/-- The share of a channel after the scaling of R90, in mW. -/
def State.share (s : State) (c : Nat) : Rat :=
  let w := s.fld (chPage c) F.CH_SHARE_SHARE_MW
  let sum := s.shareSum
  if s.effCap < sum then mkRat (w * s.effCap : Nat) sum else (w : Nat)

/-- The loads of a channel's own ports in a symbol: a port whose amplifier has tripped sends none (R83). -/
def State.ownLoads (s : State) (c : Nat) (loads : List PortLoad) : List PortLoad :=
  loads.filter fun l => decide ((s.port l.port.val).txCh = some c) && !(s.port l.port.val).tripped

/-- The digital gain of a channel's symbol, in steps of 0.25 dB below 0 dB; none where the symbol is muted (R92). -/
def State.gainFor (s : State) (c : Nat) (own : List PortLoad) : Option Nat :=
  let fixed := own.foldl (fun a l => a + if s.extPa l.port.val then 100 else quiescent l.port.val) 0
  let vari := own.foldl (fun a l => a + if s.extPa l.port.val then 0 else dissFactor l.port.val * s.portLoad l) (0 : Rat)
  gainSteps vari (s.share c - (fixed : Nat))

/-- One channel's symbol `k`: its gain under R92, and what its ports report. A port whose amplifier has tripped, or is not enabled, sends
none of it (R83). A muted symbol is sent as zero and is no transmitted one; DESIGN CHOICE (log 220): it leaves GAIN_RED and sets P_EST
to 0. -/
def State.symbolGain (s : State) (c k : Nat) (loads : List PortLoad) : State :=
  let own := s.ownLoads c loads
  let m := s.gainFor c own
  let s0 := if m.isNone && own != [] then s.emit (.zeroSymbol c k) else s
  own.foldl (fun s l =>
    let p := l.port.val
    let g := portPage p
    let noPin := s.extPa p && !s.funcHeld (0x10 + p)
    let s1 := if noPin then s.bump .pmx 2 else s
    match m with
    | some k =>
      let est := if noPin then 0 else if s.extPa p then 100 else quiescent p + scaledMw (dissFactor p * s.portLoad l) k
      let s2 := (s1.setFld g F.NP_TX_STAT_GAIN_RED k).setFld g F.NP_DRV_STAT_P_EST (min est 65535)
      let s3 := if noPin then s2 else s2.bump g 0
      if k = 0 then s3 else (s3.bump g 3).event g 5
    | none => ((s1.setFld g F.NP_DRV_STAT_P_EST 0).bump g 4).event g 5) s0

/-- The end of the current-limit account of a symbol: a symbol that was not cut ends the run (R79). -/
def State.symbolCut (s : State) (p : Nat) : State :=
  let x := s.port p
  if x.txCh.isNone then s else s.setPort p { x with cut := false, ocpRun := if x.cut then x.ocpRun else 0 }

/-- Sum of the last symbol's P_drv over all ports. -/
def State.useMw (s : State) : Nat :=
  (List.range 16).foldl (fun a p => if (s.port p).txCh.isSome then a + s.fld (portPage p) F.NP_DRV_STAT_P_EST else a) 0

/-! The energy account of a sleeper (R280). -/

def State.setSlp (s : State) (x : Sleep) : State := { s with slp := x }

/-- Energy in µW·ns is added; at the budget BUDGET sets, once in a window. -/
def State.slpUsed (s : State) : Nat := min 0xFFFFF (s.slp.energy / 100000000000000)
def State.overBudget (s : State) : Bool := decide (s.fld .slp F.SLP_BUDGET_BUDGET ≤ s.slpUsed)
def State.addEnergy (s : State) (e : Nat) : State :=
  let s1 := s.setSlp { s.slp with energy := s.slp.energy + e }
  if s1.overBudget && !s1.slp.overspent && s1.feat 9 then (s1.setSlp { s1.slp with overspent := true }).event .slp 3 else s1

/-! Driver events. -/

/-- DRV_CURRENT_LIMIT: the current limit of a port has been active for more than 10 µs in this symbol (R79, R95). -/
def execDrvCurrentLimit (p : Fin 16) (s : State) : Host.Outcome State Fault Refusal :=
  .next (
    let x := s.port p.val
    if x.txCh.isNone || x.cut then s
    else
      let n := x.ocpRun + 1
      let s1 := (s.setPort p.val { x with cut := true, ocpRun := n }).emit (.cutSymbol p.val)
      if 3 ≤ n then s1.portFault p.val 2 n 0 else s1)

/-- PA_TRIP: the sense voltage of a port in EXT_PA mode, in mV, exceeds ILIM × 4 mV (R83, R95). -/
def execPaTrip (p : Fin 12) (mv : Nat) (s : State) : Host.Outcome State Fault Refusal :=
  .next (
    let x := s.port p.val
    let g : Page := .np p
    if s.extPa p.val && x.txCh.isSome && !x.tripped && decide (4 * s.fld g F.NP_PA_ILIM < mv) then
      let n := x.tripRun + 1
      let s1 := (((s.setPort p.val { x with tripped := true, tripRun := n, pa := none }).emit (.paOff p.val)).emit (.cutSlot p.val)).bump g 7
      if 3 ≤ n then s1.portFault p.val 6 n 0 else s1
    else s)

/-- DRV_THERMAL: a driver hotspot sensor reads, in 0.125 °C: above 155 °C it is a fault (Table 03-4), at or below it the condition
ends (R86). -/
def execDrvThermal (p : Fin 16) (temp : Int) (s0 : State) : Host.Outcome State Fault Refusal :=
  .next (
    let s := s0.setPort p.val { s0.port p.val with hot := temp }
    if 1240 < temp then
      let s1 : State := { s with pwr := { s.pwr with thm := { s.pwr.thm with drvMax := max s.pwr.thm.drvMax temp } } }
      if s1.faulted (portPage p.val) 3 then s1 else (s1.portFault p.val 3 1 0).event .thm 1
    else s)

/-! Receive gain (R75). -/

/-- Gain codes of a port. -/
def maxGain (p : Nat) : Nat := if p < 12 then 40 else 28

/-- The automatic code that brings a level (0.5 dB below full scale) measured at a code to 15 dB below full scale, to the
nearest step of 1.5 dB. -/
def autoGain (p code level : Nat) : Nat :=
  (min (maxGain p : Int) (max 0 ((code : Int) + roundDiv ((level : Int) - 30) 3))).toNat

/-! Impedance (R87, R88). -/

/-- The words of a port's table that hold a channel's carriers: counted from its lowest on an N-port, by carrier number on a W-port. -/
def channelWords (p : Nat) (cfg : List Word) : List Nat :=
  let lo := cfgGet cfg F.CH_BAND_M_LO
  (List.range (cfgGet cfg F.CH_BAND_M_HI + 1 - lo)).map fun k => if p < 12 then k else 72 + lo + k

/-- The mean of what a port's table holds for its channel's carriers: magnitude in 1/64 Ω, phase in π/2^15, to nearest. DESIGN CHOICE
(log 221): a magnitude above 16 bits reads 65,535. -/
def State.impMean (s : State) (p : Nat) (cells : List Nat) : Nat × Nat :=
  let zs := cells.filterMap (s.impedance p)
  if zs = [] then (0, 0)
  else
    let m := (zs.map (·.1)).sum
    let ph := (zs.map fun z => signed 18 z.2).sum
    (min 65535 (roundDiv (m : Int) (4 * zs.length)).toNat, (roundDiv ph (4 * zs.length) % 65536).toNat)

/-- The stored word of an impedance: a phase that rounds to 0x2_0000 is stored as 0x2_0001. -/
def impStore (mag ph : Nat) : Nat :=
  let ph := ph % 2 ^ 18
  (min mag 0x3FFFF) * 2 ^ 18 + (if ph = 0x20000 then 0x20001 else ph)

/-- Z + 2^−`sh` × (Z_new − Z) over complex values, magnitude and phase to nearest (R87). -/
def impAverage (old new : Nat × Nat) (sh : Nat) : Nat × Nat :=
  let re := fun (z : Nat × Nat) => (z.1 : Int) * cosFix (2 * z.2)
  let im := fun (z : Nat × Nat) => (z.1 : Int) * sinFix (2 * z.2)
  let x := re old * (2 ^ sh - 1) + re new
  let y := im old * (2 ^ sh - 1) + im new
  (sqrtNear 20 ((x * x + y * y) / 2 ^ (128 + 2 * sh)).toNat, angleOf x y)

/-- The word that a measurement of a carrier leaves: the impedance at the device, in 1/256 Ω, referred to the line side by the square of
the turns ratio (R74). DESIGN CHOICE (log 222): the first measurement of a carrier is stored whole. -/
def State.impWordOf (s : State) (p c mag ph sh : Nat) : Nat :=
  let t := 4 + s.fld (portPage p) F.NP_CFG_TURNS
  let new := ((roundDiv (mag * t * t : Nat) 16).toNat, ph % 2 ^ 18)
  match s.impedance p c with
  | some z => let a := if sh = 0 then new else impAverage z new sh; impStore a.1 a.2
  | none => impStore new.1 new.2

/-- One measurement, made for a channel, updates a port's table, its mean, its event and its counter, and is judged against the
limits. -/
def State.impMeasure (s : State) (cfg : List Word) (x : ImpMeas) : State :=
  let p := x.port.val
  let g := portPage p
  let sh := min 8 (s.fld g F.NP_IMP_CTRL_AVG_SHIFT)
  let s1 := x.cells.foldl (fun s e => s.tmapPut (impWord p e.1) (s.impWordOf p e.1 e.2.1 e.2.2 sh)) s
  let m := s1.impMean p (channelWords p cfg)
  let s2 := (((s1.setFld g F.NP_IMP_MEAN_MAG m.1).setFld g F.NP_IMP_MEAN_PHASE m.2).event g 3).bump g 6
  let y := s2.port p
  let isOpen := decide (s2.fld g F.NP_IMP_LIMITS_OPEN_TH < m.1)
  let isShort := decide (m.1 < s2.fld g F.NP_IMP_LIMITS_SHORT_TH)
  let y' := { y with
    openRun := if isOpen then y.openRun + 1 else 0, openReg := if y.openRun = 0 then x.region else y.openReg
    shortRun := if isShort then y.shortRun + 1 else 0, shortReg := if y.shortRun = 0 then x.region else y.shortReg }
  let s3 := s2.setPort p y'
  let s4 := if 3 ≤ y'.openRun then s3.portFault p 4 y'.openRun y'.openReg else s3
  if 3 ≤ y'.shortRun then s4.portFault p 5 y'.shortRun y'.shortReg else s4

/-! The end of a slot at a port. -/

/-- What a port saw in the slot that ends: overload and ADC_STUCK, a parity failure of its sample staging and a failed self-check (R95),
the peak current, samples beyond the swing (R79), and the end of its trips. -/
def State.portSlotEnd (s : State) (x : PortSlot) : State :=
  let p := x.port.val
  let g := portPage p
  let y := s.port p
  let received := s.flag g (F.NP_PATH_VALID.at 0) || s.flag g (F.NP_PATH_VALID.at 1)
  let tx := y.txCh.isSome
  let run := if !received then y.adcRun else if x.stuck then y.adcRun + 1 else 0
  let s1 := s.setPort p { y with
    adcRun := run, stuck := x.stuck, tripRun := if tx && !y.tripped then 0 else y.tripRun, tripped := false }
  let s2 := if received && (x.overload || s.flag g F.NP_RX_STAT_OVERLOAD) then (s1.bump g 2).event g 4 else s1
  let clip := (x.peaks.filter fun v => decide (s.swingMv p < v)).length
  let s3 := (s2.setFld g F.NP_DRV_STAT_IPEAK (min 65535 x.ipeak)).bumpBy g 5 clip
  let s4 := if x.parity then s3.portFault p 0 1 0 else s3
  let s5 := if x.check then s4.portFault p 1 1 0 else s4
  if received && x.stuck && decide (3 ≤ run) then s5.portFault p 8 run 0 else s5

/-! What the pages show. -/

/-- Block-specific status bits of a port page: HIGH_Z, CFG_ERR, REMOVED, RX_ACTIVE, TX_ACTIVE. -/
def State.portStatus (s : State) (p : Nat) : Nat :=
  let g := portPage p
  let tx := (s.port p).txCh.isSome
  (if s.drives p then 0 else 2 ^ 20) + (if s.portCfgErr p then 2 ^ 19 else 0) +
    (if s.enabled g && !s.inSvc p then 2 ^ 18 else 0) +
    (if s.flag g (F.NP_PATH_VALID.at 0) || s.flag g (F.NP_PATH_VALID.at 1) then 2 ^ 17 else 0) + (if tx then 2 ^ 16 else 0)

/-- The device-wide registers of NP[0] of which hardware holds a part. -/
def State.npView (s : State) (p : Fin 12) (off : Nat) : Option Word :=
  let g : Page := .np 0
  if p.val ≠ 0 then none
  else match off with
  | 0x0C4 => some (F.NP_VDRV_STAT_CAPPED.put (if s.stageShed 1 then 1 else 0) (s.reg g off))
  | 0x0CC => some (BitVec.ofNat 32 (s.effCap * 2 ^ 16 + min 0x1FFF s.shareSum))
  | 0x0D0 => some ((s.reg g off &&& F.NP_LEDGER_USE_CLAMPED.mask) |||
      BitVec.ofNat 32 ((if s.pwr.thm.warn then 2 ^ 17 else 0) + (if s.effCap < s.shareSum then 2 ^ 16 else 0) +
        min 0x1FFF s.useMw))
  | _ => none

/-- What a write of a register of an NP page does. -/
def npEffect (off : Nat) : Page → Word → State → State :=
  match off with
  | 0x0C0 => vdrvWrite
  | 0x0C8 => ledgerCapWrite
  | _ => (applyWrite · off)

/-- What a write of a register of a WP page does: a changed notch puts the maps of the port's channels out of date (R98, R153). -/
def wpEffect (off : Nat) (p : Page) (w : Word) (s : State) : State :=
  let s1 := applyWrite p off w s
  match p with
  | .wp k => if F.WP_NOTCH_EN.hits off && decide (s.reg p off ≠ s1.reg p off) then
      (s.portChans (12 + k.val)).foldl (fun s c => s.staleLinks c) s1 else s1
  | _ => s1

end Sys2Proof.Machine
end

