-- ==== Sys2Proof/Machine/Sounding.lean ====
section
/-! DEFINITION. What soundings tell of a link (R128, R134, R145, R146, R148, R149): interpolation, the channel by region, noise, the SINR of
MMSE detection, and the precoding that a proposal chooses. Channels are in the units of a symbol's transform; SINRs are exact ratios, and
decibels are rounded to nearest (DESIGN CHOICE, log 218). -/

set_option Elab.async false

namespace Sys2Proof.Machine

/-! Links. -/

/-- The superframe in progress, low 32 bits. -/
def State.sf (s : State) : Nat := sfOf s.ct % 2 ^ 32

/-- A link that holds nothing yet; it is in use from now on (R152). -/
def State.freshLink (s : State) (c peer : Nat) : Link5 :=
  ⟨c, peer, Dir.empty, Dir.empty, none, none, 0, [], 0, s.sf, 0, 0, 0, [], [], [], false, false⟩

/-- A link of a channel, if it is held. -/
def State.link? (s : State) (c peer : Nat) : Option Link5 :=
  s.line.links.find? fun l => decide (l.chan = c ∧ l.peer = peer)

/-- A link of a channel, held or fresh. -/
def State.link (s : State) (c peer : Nat) : Link5 := (s.link? c peer).getD (s.freshLink c peer)

/-- Store a link. -/
def State.setLink (s : State) (l : Link5) : State :=
  let rest := s.line.links.filter fun x => !decide (x.chan = l.chan ∧ x.peer = l.peer)
  { s with line := { s.line with links := rest ++ [l] } }

/-! Time and regions. -/

/-- A time in nanoseconds in units of 2^-20 slot at the slot length in force. -/
def State.nsToCt (s : State) (ns : Nat) : Nat := (roundDiv ((ns * 2 ^ 20 : Nat) : Int) s.slotNs).toNat

/-- The number of the current slot. -/
def State.slot (s : State) : Nat := s.ct / 2 ^ 20

/-- θ for bins and regions: 0 in free-run mode; else the value last held, which is 0 before lock was ever held (R137). -/
def State.ownTheta (s : State) : Nat := if s.flag .sch F.SCH_MODE_FREE_RUN then 0 else s.mains.theta

/-- The mains region of an instant at this node (R124). -/
def State.regionAt (s : State) (ct : Nat) : Nat := regionOf ct s.ownTheta

/-- Whether a notch in force of some port of a W-bundle covers carrier index `m`, that is carrier m + 72 (R98, R100). -/
def State.notched (s : State) (cfg : List Word) (m : Nat) : Bool :=
  decide (cfgGet cfg F.CH_CFG_NUMER = 2) &&
    (cfgPorts cfg).any fun p => (s.port p).notch.any fun r => decide (r.1 ≤ m + 72 ∧ m + 72 ≤ r.2)

/-! Complex numbers. -/

def cAdd (a b : Int × Int) : Int × Int := (a.1 + b.1, a.2 + b.2)
def cSub (a b : Int × Int) : Int × Int := (a.1 - b.1, a.2 - b.2)
def cMul (a b : Int × Int) : Int × Int := (a.1 * b.1 - a.2 * b.2, a.1 * b.2 + a.2 * b.1)
def cConj (a : Int × Int) : Int × Int := (a.1, -a.2)
def cPow (a : Int × Int) : Nat := (a.1 * a.1 + a.2 * a.2).toNat
def cSum (l : List (Int × Int)) : Int × Int := l.foldl cAdd (0, 0)

/-- A value times `n`/`d`, rounded to nearest. -/
def cScale (a : Int × Int) (n : Int) (d : Nat) : Int × Int := (roundDiv (a.1 * n) (max 1 d), roundDiv (a.2 * n) (max 1 d))

/-- exp(j `a` π/2^18) × 2^20. -/
def cExp (a : Int) : Int × Int := (roundDiv (cosFix a) (2 ^ 44), roundDiv (sinFix a) (2 ^ 44))

/-- The determinant of a square matrix of `n` rows. -/
def cDet : Nat → List (List (Int × Int)) → Int × Int
  | 0, _ => (1, 0)
  | _, [] => (1, 0)
  | n + 1, r :: rest => cSum ((List.range (n + 1)).map fun j =>
      let t := cMul (r.getD j (0, 0)) (cDet n (rest.map fun x => x.eraseIdx j))
      if j % 2 = 0 then t else (-t.1, -t.2))

/-! Interpolation across carriers (R134). -/

/-- The value at carrier `m` on the line between its measured neighbours. DESIGN CHOICE (log 228): beyond the outermost ones their value
is held. -/
def interpAt (known : List (Nat × Int × Int)) (m : Nat) : Option (Int × Int) :=
  let lo := known.foldl (fun (a : Option (Nat × Int × Int)) e => if e.1 ≤ m then
    (match a with | some b => if b.1 ≤ e.1 then some e else some b | none => some e) else a) none
  let hi := known.foldl (fun (a : Option (Nat × Int × Int)) e => if m ≤ e.1 then
    (match a with | some b => if e.1 ≤ b.1 then some e else some b | none => some e) else a) none
  match lo, hi with
  | some a, some b => some (if a.1 = b.1 then a.2 else cAdd a.2 (cScale (cSub b.2 a.2) (m - a.1 : Nat) (b.1 - a.1)))
  | some a, none => some a.2
  | none, some b => some b.2
  | none, none => none

/-- The values on a carrier set. -/
def interp (known : List (Nat × Int × Int)) (set : List Nat) : List (Nat × Int × Int) :=
  set.filterMap fun m => (interpAt known m).map fun v => (m, v)

/-! The channel of a link, by region (R146). -/

/-- The region nearest to `r` among some, in circular distance; of two the lower one. -/
def nearestRegion (l : List Nat) (r : Nat) : Option Nat :=
  (List.range 13).findSome? fun d =>
    let a := (r + 24 - d) % 24
    let b := (r + d) % 24
    (l.filter fun x => decide (x = a ∨ x = b)).foldl (fun (m : Option Nat) x => match m with | some y => some (min x y) | none => some x) none

/-- The soundings that stand for a region: its own, or those of the nearest measured one. -/
def Link5.sounded (l : Link5) (r : Nat) : List (List HRow) :=
  match nearestRegion (l.h.map (·.1)) r with
  | some x => ((l.h.find? fun e => decide (e.1 = x)).map (·.2)).getD []
  | none => []

/-- A value of a row at a carrier. -/
def HRow.at_ (x : HRow) (m : Nat) : Int × Int := ((x.h.find? fun e => decide (e.1 = m)).map (·.2)).getD (0, 0)

/-- H_r,p(m) as the mean of some soundings. -/
def meanH (l : List (List HRow)) (r p m : Nat) : Int × Int :=
  cScale (cSum (l.map fun x => ((x.find? fun y => decide (y.rx = r ∧ y.tx = p)).map (·.at_ m)).getD (0, 0))) 1 l.length

/-- Transmitting ports that a link's soundings show. -/
def Link5.ports (l : Link5) : Nat := (l.h.flatMap fun e => e.2.flatten).foldl (fun a x => max a (x.tx + 1)) 0

/-- A sounding of a region is kept, with the three before it. -/
def Link5.addSounding (l : Link5) (r : Nat) (rows : List HRow) : Link5 :=
  let old := ((l.h.find? fun e => decide (e.1 = r)).map (·.2)).getD []
  { l with h := (l.h.filter fun e => decide (e.1 ≠ r)) ++ [(r, (rows :: old).take 4)] }

/-- The change δ of the estimate between the last two soundings, in the worst region, in 0.25 dB (R149). DESIGN CHOICE (log 229):
0 dB where no region has been sounded twice. -/
def Link5.delta (l : Link5) : Int :=
  let ds := l.h.filterMap fun e => match e.2 with
    | a :: b :: _ =>
      let old := fun (x : HRow) m => ((b.find? fun y => decide (y.rx = x.rx ∧ y.tx = x.tx)).map (·.at_ m)).getD (0, 0)
      some (dbUnits 4 (a.map fun x => (x.h.map fun v => cPow (cSub v.2 (old x v.1))).sum).sum
        (a.map fun x => (x.h.map fun v => cPow (old x v.1)).sum).sum)
    | _ => none
  match ds with | [] => 0 | d :: r => r.foldl max d

/-! Noise (R146). -/

/-- The noise of a receive port at a carrier in a region: its own, or that of the nearest region with a figure. DESIGN CHOICE (log
230): the smallest unit where none has been measured. -/
def State.noiseAt (s : State) (c r port m : Nat) : Nat :=
  let rows := (s.chan c).noise.filter fun e => decide (e.2.1 = port) && e.2.2.any fun x => decide (x.1 = m)
  match nearestRegion (rows.map (·.1)) r with
  | some x => ((rows.find? fun e => decide (e.1 = x)).bind fun e => (e.2.2.find? fun y => decide (y.1 = m)).map (·.2)).getD 1
  | none => 1

/-- A measured power enters the average with weight 1/16; the first of a carrier stands whole (DESIGN CHOICE, log 231). -/
def noiseMix (old : List (Nat × Nat)) (new : List (Nat × Nat)) : List (Nat × Nat) :=
  (new.map fun e => match old.find? fun y => decide (y.1 = e.1) with
    | some y => (e.1, (roundDiv (15 * y.2 + e.2 : Nat) 16).toNat)
    | none => e) ++ old.filter fun y => !(new.any fun e => decide (e.1 = y.1))

/-- A port's noise in a region as measured. -/
def State.noiseIn (s : State) (c r port : Nat) (l : List (Nat × Nat)) : State :=
  let x := s.chan c
  let old := ((x.noise.find? fun e => decide (e.1 = r ∧ e.2.1 = port)).map (·.2.2)).getD []
  s.setChan c { x with noise := (x.noise.filter fun e => !decide (e.1 = r ∧ e.2.1 = port)) ++ [(r, port, noiseMix old l)] }

/-! MMSE detection (R128, R148). -/

/-- F_p,s without its factor 1/√(N_t S), times 2^20. -/
def precode (np q o p st : Nat) : Int × Int :=
  cExp (roundDiv (2 ^ 19 * (p * ((st + o) % max 1 np)) : Nat) (max 1 np) + roundDiv (2 ^ 19 * (p * q) : Nat) 64)

/-- The SINR after MMSE detection of each of `k` streams, as (numerator, denominator), for the rows H_r,p of the receive ports and their
noise: 1/[(I + Gᴴ R⁻¹ G)⁻¹]_ss − 1 with G = H F. -/
def sinrs (np k q o : Nat) (h : List (List (Int × Int))) (noise : List Nat) : List (Nat × Nat) :=
  let d := (noise.map (max 1)).foldl (· * ·) 1
  let unit := d * (np * k * 2 ^ 40)
  let g := h.map fun row => (List.range k).map fun st => cSum ((row.zipIdx).map fun e => cMul e.1 (precode np q o e.2 st))
  let a := (List.range k).map fun i => (List.range k).map fun j =>
    cAdd (if i = j then ((unit : Nat), 0) else (0, 0))
      (cSum ((g.zip noise).map fun e => cScale (cMul (cConj (e.1.getD i (0, 0))) (e.1.getD j (0, 0))) (d / max 1 e.2 : Nat) 1))
  let det := (cDet k a).1.toNat
  (List.range k).map fun i =>
    let cof := unit * (cDet (k - 1) ((a.eraseIdx i).map fun r => r.eraseIdx i)).1.toNat
    (det - cof, cof)

/-- The SINRs of the streams of a link on a carrier in a region, `extra` noise added at each receive port. -/
def State.linkSinrs (s : State) (l : Link5) (ports : List Nat) (k q o r m : Nat) (extra : Nat → Nat) : List (Nat × Nat) :=
  let snd := l.sounded r
  sinrs l.ports k q o (ports.map fun p => (List.range l.ports).map fun t => meanH snd p t m)
    (ports.map fun p => s.noiseAt l.chan r p m + extra p)

/-- A SINR in 1/20 dB. -/
def gammaDb (x : Nat × Nat) : Int := dbUnits 20 x.1 x.2

/-- A tone-map candidate (R148): streams − 1, the precoding byte of each group, and for each region and stream the SINR of each carrier of
the channel range in 1/20 dB. -/
structure Cand where
  streams : Nat
  prec    : List Nat
  gamma   : List (List (List Int))
  deriving DecidableEq, Repr

/-- Carriers of a group (R128). -/
def groupSize (n : Nat) : Nat := if n = 2 then 64 else 16

/-- The precoding of a group: the (q, o) whose product of 1 + γ over its carriers, streams and regions is the highest. DESIGN CHOICE (log
233): the first by `o`, then `q`, of equals. -/
def State.bestPrec (s : State) (l : Link5) (ports : List Nat) (k : Nat) (carriers : List Nat) : Nat :=
  let rate := fun (q o : Nat) => (List.range 24).foldl (fun (a : Nat × Nat) r => carriers.foldl (fun a m =>
    (s.linkSinrs l ports k q o r m fun _ => 0).foldl (fun a e => (a.1 * (e.1 + e.2), a.2 * e.2)) a) a) (1, 1)
  ((List.range (max 1 l.ports)).flatMap fun o => (List.range 64).map fun q => (o * 64 + q, rate q o)).foldl
    (fun (b : Nat × Nat × Nat) e => if b.2.1 * e.2.2 < e.2.1 * b.2.2 then e else b) (0, 0, 1) |>.1

/-- The SINRs of a stream count under given precoding bytes. A carrier in a notch carries nothing (R98). -/
def State.gammas (s : State) (l : Link5) (cfg : List Word) (k : Nat) (prec : List Nat) : List (List (List Int)) :=
  let n := cfgGet cfg F.CH_CFG_NUMER
  let lo := cfgGet cfg F.CH_BAND_M_LO
  let ports := s.servicePorts cfg
  let carriers := (List.range (cfgGet cfg F.CH_BAND_M_HI + 1 - lo)).map (lo + ·)
  (List.range 24).map fun r =>
    let all := carriers.map fun m =>
      if s.notched cfg m then List.replicate k (-100000)
      else
        let b := prec.getD ((m - lo) / groupSize n) 0
        (s.linkSinrs l ports k (b % 64) (b / 64) r m fun _ => 0).map gammaDb
    (List.range k).map fun st => all.map fun x => x.getD st (-100000)

/-- The candidates of a link (R148): every stream count that the bundle permits and the sounded ports carry. -/
def State.cands (s : State) (l : Link5) (cfg : List Word) : List Cand :=
  let n := cfgGet cfg F.CH_CFG_NUMER
  let lo := cfgGet cfg F.CH_BAND_M_LO
  let hi := cfgGet cfg F.CH_BAND_M_HI
  let ports := s.servicePorts cfg
  (List.range (min l.ports (s.bundleStreams cfg ports.length))).map fun k0 =>
    let prec := (List.range (ceilDiv (hi + 1 - lo) (groupSize n))).map fun g =>
      s.bestPrec l ports (k0 + 1) (((List.range (groupSize n)).map fun i => lo + g * groupSize n + i).filter fun m =>
        decide (m ≤ hi) && !s.notched cfg m)
    { streams := k0, prec := prec, gamma := s.gammas l cfg (k0 + 1) prec }

end Sys2Proof.Machine
end

