-- ==== Sys2Proof/Machine/Adapt.lean ====
section
/-! DEFINITION. Channel learning (R133 to R157): noise templates, sounding, the loading rule, tone-map storage and exchange,
and link quality. -/

set_option Elab.async false

namespace Sys2Proof.Machine

/-! Noise templates (R135 to R141). -/

/-- Bins of a template. -/
def templateLen (n : Nat) : Nat := if n = 0 then 20480 else 5120

/-- First SBUF word of a template slot. -/
def templateBase (i : Nat) : Nat := 3538944 + 20480 * i

/-- The bin of a sample at a corridor time. -/
def State.templateBin (s : State) (n tau : Nat) : Nat :=
  templateLen n * ((tau + 2 ^ 21 - s.ownTheta % 2 ^ 21) % 2 ^ 21) / 2 ^ 21

/-- Template slots in use. -/
def State.usedTemplates (s : State) : List Nat := s.line.chans.flatMap fun c => c.tpl.map (·.slot)

/-- Zero the words of a template slot. -/
def State.zeroTemplate (s : State) (i : Nat) : State :=
  { s with mem := { s.mem with sbuf := storeKeep (fun a => !decide (templateBase i ≤ a ∧ a < templateBase (i + 1))) s.mem.sbuf } }

/-- A template as assigned or zeroed (R140). -/
def freshTemplate (port slot : Nat) : Template := ⟨port, slot, 0, 0, none, false, none⟩

/-- Assign a template slot to a pair: which free slot is left open by the spec. -/
def State.assignTemplate (s : State) (port : Nat) : Option Template × State :=
  let free := (List.range 32).filter fun i => !s.usedTemplates.contains i
  let d := s.freeNat
  match free[d.1 % free.length]? with
  | some i => (some (freshTemplate port i), d.2.zeroTemplate i)
  | none => (none, s)

/-- Whether a change of settings zeroes a channel's templates: its centre frequency, numerology or gain mode (R140). -/
def zeroesTemplates (old new : List Word) : Bool :=
  decide (cfgGet old F.CH_FREQ_FC_HZ ≠ cfgGet new F.CH_FREQ_FC_HZ) ||
    decide (cfgGet old F.CH_CFG_NUMER ≠ cfgGet new F.CH_CFG_NUMER) || (cfgFlag old F.CH_GAIN_AUTO != cfgFlag new F.CH_GAIN_AUTO)

/-- Whether a template is valid (R139). -/
def State.tplValid (s : State) (c : Nat) (t : Template) : Bool :=
  let n := 2 ^ s.fld (chPage c) F.CH_ADP_CTRL_VALID_SHIFT
  decide (n ≤ t.q0) && decide (n ≤ t.q1)

/-- Whether every template of a channel is valid, and whether some is suspended (`CH_TPL_STAT`). -/
def State.tplAllValid (s : State) (c : Nat) : Bool := (s.chan c).tpl != [] && (s.chan c).tpl.all (s.tplValid c)
def State.tplSuspended (s : State) (c : Nat) : Bool := (s.chan c).tpl.any (·.susp)

/-- Division by 2^`k` rounded to nearest. -/
def roundShift (v : Int) (k : Nat) : Int := if k = 0 then v else (v + 2 ^ (k - 1)) / 2 ^ k

/-- The complex word of a template bin. -/
def State.binGet (s : State) (a : Nat) : Int × Int :=
  let w := s.sbufGet a % 2 ^ 36
  (signed 18 (w / 2 ^ 18), signed 18 w)

/-- Store a complex word, saturating at 18 bits. -/
def State.binPut (s : State) (a : Nat) (i q : Int) : State := s.sbufPut a (satSigned 18 i * 2 ^ 18 + satSigned 18 q)

/-- Learn samples into a template with a weight of 2^−`shift` (R138), the samples scaled to its reference gain (R141). -/
def State.learn (s : State) (n : Nat) (t : Template) (slot : Nat) (k : Int) (shift : Nat) (l : List (Nat × Int × Int)) : State :=
  l.foldl (fun s e =>
    let a := templateBase t.slot + s.templateBin n (slot * 2 ^ 20 + e.1)
    let old := s.binGet a
    let x := scaleSteps e.2.1 k
    let y := scaleSteps e.2.2 k
    s.binPut a (old.1 + roundShift (x - old.1) shift) (old.2 + roundShift (y - old.2) shift)) s

/-- Power of samples, and of what is left after the template is taken away. -/
def State.powers (s : State) (n : Nat) (t : Template) (slot : Nat) (k : Int) (l : List (Nat × Int × Int)) : Nat × Nat :=
  l.foldl (fun a e =>
    let old := s.binGet (templateBase t.slot + s.templateBin n (slot * 2 ^ 20 + e.1))
    let x := scaleSteps e.2.1 k
    let y := scaleSteps e.2.2 k
    (a.1 + (x * x + y * y).toNat, a.2 + ((x - old.1) * (x - old.1) + (y - old.2) * (y - old.2)).toNat)) (0, 0)

/-- The template gain after a QUIET slot (R139), in 1/32 dB, and whether subtraction is suspended. -/
def nextGain (t : Template) (pw : Nat × Nat) : Template :=
  let d := dbRatio pw.1 pw.2
  let g := match t.gain with | some g => g + (d - g) / 8 | none => d
  { t with gain := some g, susp := if g < 16 then true else if 32 ≤ g then false else t.susp }

/-- The status of a channel's templates has changed: VALID rising, SUSPENDED changing (R157). -/
def State.tplEvents (s : State) (c : Nat) (valid susp : Bool) : State :=
  let s1 := if !valid && s.tplAllValid c then s.event (chPage c) 22 else s
  if s1.tplSuspended c != susp then s1.event (chPage c) 21 else s1

/-- A channel's templates under settings that have been admitted: a slot is assigned to each pair that has none (R136). -/
def State.templatesFor (s : State) (c : Nat) (new : List Word) : State :=
  let want := if cfgFlag new F.CH_ADP_CTRL_TPL_EN then cfgPorts new else []
  want.foldl (fun s p =>
    if (s.chan c).tpl.any fun t => decide (t.port = p) then s
    else match s.assignTemplate p with
      | (some t, s') => s'.setChan c { s'.chan c with tpl := (s'.chan c).tpl ++ [t] }
      | (none, s') => s') s

/-- Those of them as the settings take effect: freed where the settings have no use for them, zeroed where R140 says so. -/
def State.templatesNow (s : State) (c : Nat) (new : List Word) : State :=
  let want := if cfgFlag new F.CH_ADP_CTRL_TPL_EN then cfgPorts new else []
  let was := (s.tplAllValid c, s.tplSuspended c)
  let s0 := s.setChan c { s.chan c with tpl := (s.chan c).tpl.filter fun t => want.contains t.port }
  let zero := match s.live c with | some l => zeroesTemplates l new | none => true
  let s1 := if zero then (s0.chan c).tpl.foldl (fun s t => (s.zeroTemplate t.slot).setChan c { s.chan c with
      tpl := (s.chan c).tpl.map fun x => if x.port = t.port then freshTemplate t.port t.slot else x }) s0 else s0
  let s2 := s1.templatesFor c new
  (if want = [] then s2.setChan c { s2.chan c with skipped := 0 } else s2).tplEvents c was.1 was.2

/-- Replace a template of a channel. -/
def State.setTemplate (s : State) (c : Nat) (t : Template) : State :=
  s.setChan c { s.chan c with tpl := (s.chan c).tpl.map fun x => if x.port = t.port then t else x }

/-- The samples of a QUIET slot that may be learned from: from slot start + A on (R138), outside the 2 µs after a gain step (R141), and in
no block of 1,024 whose job came late (R167). -/
def State.quietUse (s : State) (cfg : List Word) (c slot p : Nat) (l : List (Nat × Int × Int)) : List (Nat × Int × Int) :=
  ((l.zipIdx).filter fun e => decide (s.nsToCt (cfgAllow cfg) ≤ e.1.1) &&
    !((s.chan c).lost.contains (p, e.2 / 1024)) &&
    (match (s.port p).gainCt with
      | some g => !decide (g ≤ slot * 2 ^ 20 + e.1.1 ∧ slot * 2 ^ 20 + e.1.1 < g + s.nsToCt 2000)
      | none => true)).map (·.1)

/-- The reference gain code of a template (R141): that of its first update on a channel of automatic gain. -/
def Template.refAt (t : Template) (auto : Bool) (code : Nat) : Nat := if auto then t.ref.getD code else code

/-- Every bin of a template is scaled by `k` gain steps. -/
def State.scaleBins (s : State) (n slot : Nat) (k : Int) : State :=
  (List.range (templateLen n)).foldl (fun s b =>
    let a := templateBase slot + b
    let v := s.binGet a
    if v = (0, 0) then s else s.binPut a (scaleSteps v.1 k) (scaleSteps v.2 k)) s

/-- The samples of one port of a QUIET slot: learning, the update counts, the gain and the reference (R138, R139, R141). The gain of a
slot holds for the whole of it, so that one code tells whether it has differed throughout. -/
def State.quietLearn (s : State) (slot : Nat) (x : Samples) : State :=
  let c := x.chan.val
  match s.live c, (s.chan c).tpl.find? fun t => decide (t.port = x.port.val) with
  | some cfg, some t =>
    let n := cfgGet cfg F.CH_CFG_NUMER
    let use := s.quietUse cfg c slot x.port.val x.list
    if use = [] then s
    else
      let code := s.fld (portPage x.port.val) F.NP_RX_STAT_GAIN
      let ref := t.refAt (cfgFlag cfg F.CH_GAIN_AUTO) code
      let k : Int := (ref : Int) - code
      let t1 := if s.tplValid c t then nextGain t (s.powers n t slot k use) else t
      let half := ((slot * 2 ^ 20 + 2 ^ 19 + 2 ^ 21 - s.ownTheta % 2 ^ 21) % 2 ^ 21) / 2 ^ 20
      let t2 := { t1 with
        ref := some ref, q0 := if half = 0 then min 65535 (t.q0 + 1) else t.q0
        q1 := if half = 1 then min 65535 (t.q1 + 1) else t.q1 }
      let s1 := (s.learn n t slot k (min 12 (cfgGet cfg F.CH_ADP_CTRL_LEARN_SHIFT)) use).setTemplate c t2
      -- a reference more than 8 steps away moves to the code in force, and the template with it
      let s2 := if 8 < k.natAbs then (s1.scaleBins n t.slot (-k)).setTemplate c { t2 with ref := some code } else s1
      s2.tplEvents c (s.tplAllValid c) (s.tplSuspended c)
  | _, _ => s

/-- A QUIET slot whose samples are not used counts as skipped. -/
def State.quietSkip (s : State) (c : Nat) : State :=
  if (s.chan c).tpl = [] then s else s.setChan c { s.chan c with skipped := min 16383 ((s.chan c).skipped + 1) }

/-- Decision-directed learning from the residual samples of a data symbol (R138). -/
def State.ddLearn (s : State) (slot : Nat) (x : Samples) : State :=
  let c := x.chan.val
  match s.live c, (s.chan c).tpl.find? fun t => decide (t.port = x.port.val) with
  | some cfg, some t =>
    let sh := cfgGet cfg F.CH_ADP_CTRL_DD_SHIFT
    if sh = 0 then s
    else
      let code := s.fld (portPage x.port.val) F.NP_RX_STAT_GAIN
      let ref := t.refAt (cfgFlag cfg F.CH_GAIN_AUTO) code
      (s.learn (cfgGet cfg F.CH_CFG_NUMER) t slot ((ref : Int) - code) (min 12 sh) x.list).setTemplate c { t with ref := some ref }
  | _, _ => s

/-- A change of fixed gain code by `k` steps scales the channel's templates by −1.5 dB for each (R140). -/
def State.scaleTemplates (s : State) (c : Nat) (n : Nat) (k : Int) : State :=
  if k = 0 then s else (s.chan c).tpl.foldl (fun s t => s.scaleBins n t.slot (-k)) s

/-! The loading rule (R147 to R149), in 1/20 dB. -/

/-- Γ_0(b), b from 1. -/
def gamma0 (b : Nat) : Int := [80, 140, 210, 270, 330, 390, 450, 510, 570, 630, 690, 750].getD (b - 1) 0

/-- Δ(r) by RATE. -/
def gammaDelta (rate : Nat) : Int := match rate with | 0 => -80 | 1 => -52 | 2 => -36 | 3 => -16 | _ => 0

/-- Γ(b). -/
def gammaOf (rate margin b : Nat) : Int := gamma0 b + gammaDelta rate + 5 * margin

/-- Loading and fine gain of a carrier: (b, g). -/
def loadCell (rate margin : Nat) (g : Int) : Nat × Nat :=
  match ((List.range 12).reverse.map (· + 1)).find? fun b => decide (gammaOf rate margin b ≤ g + 20) with
  | none => (0, 0)
  | some b =>
    let e := g - gammaOf rate margin b
    (b, if e < 0 then 1 else if 40 ≤ e then 3 else if 20 ≤ e then 2 else 0)

/-- A carrier's margin: its SINR with its fine gain, over the threshold. -/
def cellMargin (rate margin : Nat) (g : Int) (x : Nat × Nat) : Int :=
  g + (match x.2 with | 1 => 20 | 2 => -20 | 3 => -40 | _ => 0) - gammaOf rate margin x.1

/-- A code rate as a fraction of 72. -/
def rate72 (r : Nat) : Nat := match r with | 0 => 36 | 1 => 48 | 2 => 54 | 3 => 60 | _ => 64

/-- Rows of a map: for each region, for each stream, (b, g) by carrier from m_lo. -/
abbrev Rows := List (List (List (Nat × Nat)))

/-- The rows of a candidate at a rate: one for each region, or a single one of the lowest SINR of each carrier. -/
def candRows (rate margin : Nat) (single : Bool) (x : Cand) : Rows :=
  if single then
    match x.gamma with
    | [] => []
    | r0 :: rs => [(r0.zipIdx).map fun st => (st.1.zipIdx).map fun g =>
        loadCell rate margin (rs.foldl (fun a r => min a ((r.getD st.2 []).getD g.2 a)) g.1)]
  else x.gamma.map fun r => r.map fun st => st.map (loadCell rate margin)

/-- The score of rows: code rate times the loaded bits, each region weighted; a single row serves every region. -/
def rowsScore (rate : Nat) (weights : List Nat) (rows : Rows) : Nat :=
  rate72 rate * ((rows.zipIdx).map fun r =>
    (if rows.length = 1 then ((List.range 24).map fun i => max 1 (weights.getD i 1)).sum else max 1 (weights.getD r.2 1)) * ((r.1.map fun st => (st.map (·.1)).sum).sum)).sum

/-- The best candidate and rate (R148): the highest score; ties to fewer streams, then to the lower rate. -/
def bestMap (margin : Nat) (single : Bool) (weights : List Nat) (cs : List Cand) : Option (Cand × Nat × Rows × Nat) :=
  (cs.flatMap fun x => (List.range 5).map fun r => (x, r)).foldl (fun best e =>
    let rows := candRows e.2 margin single e.1
    let sc := rowsScore e.2 weights rows
    match best with
    | none => some (e.1, e.2, rows, sc)
    | some b =>
      if b.2.2.2 < sc ∨ (b.2.2.2 = sc ∧ (e.1.streams < b.1.streams ∨ (e.1.streams = b.1.streams ∧ e.2 < b.2.1)))
      then some (e.1, e.2, rows, sc) else best) none

/-- The margins of a row's loaded carriers in a region, in 1/20 dB. -/
def rowMargins (rate margin : Nat) (row : List (List (Nat × Nat))) (gamma : List (List Int)) : List Int :=
  (gamma.zipIdx).flatMap fun st => (st.1.zipIdx).filterMap fun g =>
    let c := (row.getD st.2 []).getD g.2 (0, 0)
    if c.1 = 0 then none else some (cellMargin rate margin g.1 c)

/-- The mean of some margins; 0 of none. -/
def meanInt (ms : List Int) : Int := if ms.isEmpty then 0 else roundDiv ms.sum ms.length

/-- Mean margin of each region's loaded carriers. -/
def regionMargins (rate margin : Nat) (rows : Rows) (gamma : List (List (List Int))) : List (Nat × Int) :=
  (gamma.zipIdx).map fun r => (r.2, meanInt (rowMargins rate margin (rows.getD (if rows.length = 1 then 0 else r.2) []) r.1))

/-- PILOT of a map (R149); δ in 0.25 dB. -/
def pilotFor (streams : Nat) (delta : Int) (margins : List (Nat × Int)) : Nat :=
  if -60 < delta ∨ streams ≠ 0 then 2
  else if delta ≤ -100 ∧ margins.all (fun m => decide (60 ≤ m.2)) then 0
  else 1

/-! Tone-map storage (R150 to R152). -/

/-- Blocks of the store: on chip, and the overflow while DRAM is in service. -/
def State.mapBlocks (s : State) : Nat :=
  5888 + (if s.pwr.dram.trained && !s.pwr.dram.selfRefresh && s.chip.is7236 then
    min 62 (s.fld (.ch 0) F.CH_TMAP_OVF_UNITS) * 4096 else 0)

/-- First word of a block. -/
def blockWord (b : Nat) : Nat := if b < 5888 then 256 * b else 1572864 + 256 * (b - 5888)

/-- Words of a row. -/
def rowWords (n : Nat) : Nat := if n = 2 then 562 else 134

/-- Groups of a carrier range (Table 04-11). -/
def groupCount (n lo hi : Nat) : Nat := ceilDiv (hi + 1 - lo) (if n = 2 then 64 else 16)

/-- Words of a map. -/
def mapWords (n rows streams groups : Nat) : Nat := 16 + rows * streams * rowWords n + ceilDiv groups 4

/-- Every map held. -/
def heldMaps (l : Link5) : List MapRef :=
  [l.rx, l.tx].flatMap fun d => d.cur.toList ++ (d.prev.map (·.1)).toList ++ (d.pend.map (·.1)).toList

/-- Whether a run of blocks is free and lies on one side of the overflow's border. -/
def State.blocksFree (s : State) (b k : Nat) : Bool :=
  decide (b + k ≤ s.mapBlocks) && (decide (b + k ≤ 5888) || decide (5888 ≤ b)) &&
    s.line.links.all fun l => (heldMaps l).all fun m => decide (b + k ≤ m.block ∨ m.block + m.blocks ≤ b)

/-- Blocks that are free: `CH_TMAP_FREE`. -/
def State.freeBlocks (s : State) : Nat :=
  s.mapBlocks - ((s.line.links.flatMap heldMaps).map (·.blocks)).sum

/-- Consecutive free blocks for a map, if there are any: which of them is left open by the spec. -/
def State.allocate (s : State) (k : Nat) : Option Nat × State :=
  let cands := (List.range s.mapBlocks).filter fun b => s.blocksFree b k
  let d := s.freeNat
  (cands[d.1 % max 1 cands.length]?, d.2)

/-- Write one row: six carriers to a word (R151). -/
def State.writeRow (s : State) (a n lo : Nat) (row : List (Nat × Nat)) : State :=
  (List.range (rowWords n)).foldl (fun s j =>
    s.tmapPut (a + j) (((List.range 6).map fun i =>
      let m := 6 * j + i
      let c := if m < lo then (0, 0) else row.getD (m - lo) (0, 0)
      (c.2 * 16 + c.1) * 2 ^ (6 * i)).sum)) s

/-- Write a map's header, rows and precoding values (R151, Table 05-4). -/
def State.writeMap (s : State) (c n block : Nat) (p : Proposal) (adoptSf : Nat) : State :=
  let a := blockWord block
  let h0 := p.tmapId * 2 ^ 24 + p.streams * 2 ^ 16 + (if p.rows.length = 24 then 2 ^ 15 else 0) + p.rate * 2 ^ 12 +
    p.pilot * 2 ^ 10 + p.ports * 2 ^ 8
  let s1 := ([h0, p.peer, p.mHi * 2 ^ 24 + p.mLo * 2 ^ 12 + c * 2 ^ 6, adoptSf % 2 ^ 32] ++ List.replicate 12 0).zipIdx.foldl
    (fun (s : State) (e : Nat × Nat) => s.tmapPut (a + e.2) e.1) s
  let k := p.streams + 1
  let s2 := (p.rows.zipIdx).foldl (fun s r => (r.1.zipIdx).foldl (fun s st =>
    s.writeRow (a + 16 + (r.2 * k + st.2) * rowWords n) n p.mLo st.1) s) s1
  let b := a + 16 + p.rows.length * k * rowWords n
  let prec := p.prec.drop 8
  (List.range (ceilDiv prec.length 4)).foldl (fun s w =>
    s.tmapPut (b + w) (((List.range 4).map fun i => prec.getD (4 * w + i) 0 % 256 * 2 ^ (8 * i)).sum)) s2

/-- Store a map, if blocks can be had. -/
def State.storeMap (s : State) (c n : Nat) (p : Proposal) (adoptSf : Nat) : Option MapRef × State :=
  let k := ceilDiv (mapWords n p.rows.length (p.streams + 1) (p.prec.length - 8)) 256
  match s.allocate k with
  | (some b, s1) => (some ⟨p.tmapId, b, k⟩, s1.writeMap c n b p adoptSf)
  | (none, s1) => (none, s1)

/-- Streams that a map's rows load. -/
def State.mapStreams (s : State) (m : MapRef) : Nat := s.tmapGet (blockWord m.block) / 2 ^ 16 % 4 + 1

/-- Loading and fine gain of a carrier in a map: a loading above 12 counts as 0 (R151). -/
def State.mapCell (s : State) (n : Nat) (m : MapRef) (region stream x : Nat) : Nat × Nat :=
  let a := blockWord m.block
  let r := if bitOf (s.tmapGet a) 15 then region else 0
  let v := s.tmapGet (a + 16 + (r * s.mapStreams m + stream) * rowWords n + x / 6) / 2 ^ (6 * (x % 6)) % 64
  if 12 < v % 16 then (0, v / 16) else (v % 16, v / 16)

/-- A stored map as rows over its own carrier range: one row, or 24. -/
def State.mapRows (s : State) (n : Nat) (m : MapRef) : Rows :=
  let a := blockWord m.block
  let lo := s.tmapGet (a + 2) / 2 ^ 12 % 4096
  let hi := s.tmapGet (a + 2) / 2 ^ 24 % 4096
  (List.range (if bitOf (s.tmapGet a) 15 then 24 else 1)).map fun r => (List.range (s.mapStreams m)).map fun st =>
    (List.range (hi + 1 - lo)).map fun i => s.mapCell n m r st (lo + i)

/-- Its precoding bytes, as many as its range has groups. -/
def State.mapPrec (s : State) (n : Nat) (m : MapRef) : List Nat :=
  let a := blockWord m.block
  let lo := s.tmapGet (a + 2) / 2 ^ 12 % 4096
  let hi := s.tmapGet (a + 2) / 2 ^ 24 % 4096
  let b := a + 16 + (if bitOf (s.tmapGet a) 15 then 24 else 1) * s.mapStreams m * rowWords n
  (List.range (groupCount n lo hi)).map fun g => s.tmapGet (b + g / 4) / 2 ^ (8 * (g % 4)) % 256

/-- RATE of a stored map. -/
def State.mapRate (s : State) (m : MapRef) : Nat := s.tmapGet (blockWord m.block) / 2 ^ 12 % 8

/-! A map in force judged by what the soundings tell now (R153, R155). -/

/-- The SINRs of a link under the streams and precoding of a map. -/
def State.mapGammas (s : State) (l : Link5) (cfg : List Word) (m : MapRef) : List (List (List Int)) :=
  s.gammas l cfg (s.mapStreams m) (s.mapPrec (cfgGet cfg F.CH_CFG_NUMER) m)

/-- A map's score on the link's present figures. DEDUCED (log 234): a cell counts with its loading where its SINR still bears it. -/
def State.currentScore (s : State) (l : Link5) (cfg : List Word) (m : MapRef) : Nat :=
  let rate := s.mapRate m
  let margin := cfgGet cfg F.CH_ADP_CTRL_MARGIN
  let rows := s.mapRows (cfgGet cfg F.CH_CFG_NUMER) m
  rowsScore rate l.symsLast ((s.mapGammas l cfg m).zipIdx.map fun r => (r.1.zipIdx).map fun st => (st.1.zipIdx).map fun g =>
    let x := ((rows.getD (if rows.length = 1 then 0 else r.2) []).getD st.2 []).getD g.2 (0, 0)
    if x.1 ≠ 0 ∧ gammaOf rate margin x.1 ≤ g.1 + 20 then x else (0, 0))

/-- The mean margin of a map in force in a region (R155). -/
def State.mapMargin (s : State) (l : Link5) (cfg : List Word) (m : MapRef) (region : Nat) : Int :=
  let rows := s.mapRows (cfgGet cfg F.CH_CFG_NUMER) m
  if l.h = [] then 0
  else meanInt (rowMargins (s.mapRate m) (cfgGet cfg F.CH_ADP_CTRL_MARGIN) (rows.getD (if rows.length = 1 then 0 else region) [])
    ((s.mapGammas l cfg m).getD region []))

/-- Whether a loaded carrier's margin, as the mean over its streams, has fallen below 0 dB in some region (R153). -/
def State.lowMargin (s : State) (l : Link5) (cfg : List Word) (m : MapRef) : Bool :=
  let rate := s.mapRate m
  let margin := cfgGet cfg F.CH_ADP_CTRL_MARGIN
  let rows := s.mapRows (cfgGet cfg F.CH_CFG_NUMER) m
  ((s.mapGammas l cfg m).zipIdx).any fun r =>
    let row := rows.getD (if rows.length = 1 then 0 else r.2) []
    (List.range ((row.head?.getD []).length)).any fun i =>
      decide (meanInt (rowMargins rate margin (row.map fun st => (st.drop i).take 1) (r.1.map fun st => (st.drop i).take 1)) < 0)

/-! The exchange (R153, R154). -/

/-- Identifiers held for a link. -/
def heldIds (l : Link5) : List Nat := (heldMaps l).map (·.id)

/-- The identifier of the next proposal. -/
def nextMapId (l : Link5) : Nat :=
  (((List.range 4095).map fun k => (l.lastId + 1 + k) % 4096).find? fun i => decide (i ≠ 0) && !(heldIds l).contains i).getD 1

/-- The carriers of the half of its range in which the node receives in the frequency-division fallback (R132): the range is
divided at its median index with eight carriers on each side empty, and the lower node number transmits in the lower set. -/
def splitHalf (own peer lo hi m : Nat) : Bool :=
  let mid := lo + (hi + 1 - lo) / 2
  if own < peer then decide (mid + 8 ≤ m) else decide (m + 8 < mid)

/-- A candidate without the carriers that the fallback leaves empty. -/
def splitCand (own peer lo hi : Nat) (x : Cand) : Cand :=
  { x with gamma := x.gamma.map fun r => r.map fun st => (st.zipIdx).map fun e => if splitHalf own peer lo hi (lo + e.2) then e.1 else -100000 }

/-- The precoding feedback record of a map (Table 04-11). -/
def precRecord (n id ports streams : Nat) (prec : List Nat) : List Nat :=
  leBytes 2 (id % 4096) ++ [ports % 4 * 4 + streams % 4, if n = 2 then 6 else 4] ++ leBytes 2 prec.length ++ [0, 0] ++ prec

/-- Whether a record belongs to a map and matches its link (R129). -/
def precFits (n lo hi id ports streams : Nat) (b : List Nat) : Bool :=
  decide (b.take 8 = (precRecord n id ports streams (List.replicate (groupCount n lo hi) 0)).take 8) &&
    decide (b.length = 8 + groupCount n lo hi)

/-- The θ that the node tells its peers, in 2^-15 slot, while it holds region lock: 0 in free-run mode (R124, R184). -/
def State.thetaSent (s : State) : Option Nat := if s.zcLocked then some ((s.ownTheta + 16) / 32 % 65536) else none

/-- A map that a candidate gives a link, with its score (R148, R149): in its single-row form, or as the rows come out. -/
def State.buildMap (s : State) (c : Nat) (cfg : List Word) (l : Link5) (single : Bool) : Option (Proposal × Nat) :=
  let n := cfgGet cfg F.CH_CFG_NUMER
  let lo := cfgGet cfg F.CH_BAND_M_LO
  let hi := cfgGet cfg F.CH_BAND_M_HI
  let own := s.fld .sch F.SCH_NODE_NODE
  let margin := cfgGet cfg F.CH_ADP_CTRL_MARGIN
  let cs := s.cands l cfg
  (bestMap margin single l.symsLast (if (s.chan c).fall then cs.map (splitCand own l.peer lo hi) else cs)).map fun b =>
    let rows := if b.2.2.1.all (fun r => decide (some r = b.2.2.1[0]?)) then b.2.2.1.take 1 else b.2.2.1
    let id := nextMapId l
    ({ peer := own, tmapId := id, adoptSf := (s.sf + max 1 (cfgGet cfg F.CH_ADP_CTRL_LEAD)) % 2 ^ 32, theta := s.thetaSent,
       rate := b.2.1, pilot := pilotFor b.1.streams l.delta (regionMargins b.2.1 margin rows b.1.gamma), streams := b.1.streams,
       ports := l.ports - 1, mLo := lo, mHi := hi, rows := rows, prec := precRecord n id (l.ports - 1) b.1.streams b.1.prec }, b.2.2.2)

/-- The map made for a link is sent to its transmitter: it is pending from the superframe its record names, the link remembers its
score, and counter 7 counts the proposal (R153, R157). -/
def State.sendProposal (s : State) (c : Nat) (l : Link5) (x : Proposal × Nat) (m : MapRef) : State :=
  ((s.setLink { l with rx := { l.rx with pend := some (m, x.1.adoptSf, false), score := x.2 }, lastId := x.1.tmapId }).emit
    (.propose c x.1)).bump (chPage c) 7

/-- A map that was made is stored and proposed; whether the store had room for it comes back (R152). -/
def State.tryPropose (s : State) (c peer n : Nat) (l : Link5) (x : Proposal × Nat) : Bool × State :=
  match s.storeMap c n { x.1 with peer := peer } x.1.adoptSf with
  | (some m, s1) => (true, s1.sendProposal c l x m)
  | (none, s1) => (false, s1)

/-- Propose a map for a link: stored as pending, in its single-row form where no more fits, and sent (R152, R154). DESIGN CHOICE (log
41): nothing is proposed for a link that no sounding has reached. -/
def State.propose (s : State) (c peer : Nat) : State :=
  match s.live c with
  | none => s
  | some cfg =>
    let n := cfgGet cfg F.CH_CFG_NUMER
    let l : Link5 := { s.link c peer with stale := false }
    match s.buildMap c cfg l (!s.zcLocked) with
    | none => s
    | some x =>
      let p := (s.setLink { l with rx := { l.rx with pend := none } }).tryPropose c peer n l x
      if p.1 then p.2
      else
        match s.buildMap c cfg l true with
        | none => s
        | some y =>
          let q := p.2.tryPropose c peer n l y
          if q.1 then q.2 else (q.2.setLink l).event (chPage c) 23

/-- Whether proposals are made on the triggers of R153. -/
def State.autoPropose (s : State) (c : Nat) : Bool :=
  match s.live c with | some cfg => cfgFlag cfg F.CH_ADP_CTRL_AUTO_PROPOSE | none => false

/-- Links whose bundle or notches have changed get a new map, where proposals are automatic (R153). The next sounding brings another. -/
def State.proposeStale (s : State) : State :=
  s.line.links.foldl (fun s l =>
    if l.due then
      let s1 := s.setLink { l with due := false }
      if s1.autoPropose l.chan then
        let s2 := s1.propose l.chan l.peer
        s2.setLink { s2.link l.chan l.peer with stale := true }
      else s1
    else s) s

/-- Every link of a channel gets a map proposed, whatever AUTO_PROPOSE says: the fallback of R132 calls for it (R156). -/
def State.proposeLinks (s : State) (c : Nat) : State :=
  (s.line.links.filter fun l => decide (l.chan = c)).foldl (fun s l => s.propose c l.peer) s

/-- A link drops to the default map (R153). -/
def State.dropToDefault (s : State) (l : Link5) : State :=
  ((s.setLink { l with tx := Dir.empty, fails := 0 }).event (chPage l.chan) 20).askSound l.chan

/-- Whether one superframe number, of 32 bits, lies before another. -/
def sfBefore (a b : Nat) : Bool := decide (0 < (b + 2 ^ 32 - a) % 2 ^ 32 ∧ (b + 2 ^ 32 - a) % 2 ^ 32 < 2 ^ 31)

/-- A status report goes to a proposer: its bytes (R154). -/
def State.sendStatus (s : State) (c peer id boundary outcome reason : Nat) : State :=
  s.emit (.tmapStatus c peer (leBytes 2 (id % 4096) ++ leBytes 4 boundary ++ [outcome, reason]))

/-- Whether a map's rows load one side of the split of R132 only. -/
def oneSidedRows (lo hi : Nat) (rows : Rows) : Bool :=
  let mid := lo + (hi + 1 - lo) / 2
  let used := rows.flatMap fun r => r.flatMap fun st => (st.zipIdx).filterMap fun e => if e.1.1 = 0 ∨ 12 < e.1.1 then none else some (lo + e.2)
  (used != []) && (used.all (fun k => decide (k + 8 < mid)) || used.all fun k => decide (mid + 8 ≤ k))

/-- A transmitter of a full-duplex channel that takes a split map falls back with its peer: it proposes the other half for its own
reception (R132). -/
def State.splitWith (s : State) (c peer : Nat) (cfg : List Word) (p : Proposal) : State :=
  if cfgFlag cfg F.CH_CFG_FULL_DUPLEX && !(s.chan c).fall && oneSidedRows p.mLo p.mHi p.rows then
    (s.setChan c { s.chan c with fall := true, echoRun := 0 }).propose c peer
  else s

/-- TMAP_PROPOSAL_RX: a proposal received by the transmitter of a link (Table 05-5). A map is held under one number only, so that the answer
for one already held names the one in force. -/
def execTmapProposalRx (c : Fin 64) (p : Proposal) (s : State) : Host.Outcome State Fault Refusal :=
  .next (
    match s.live c.val with
    | none => s
    | some cfg =>
      let n := cfgGet cfg F.CH_CFG_NUMER
      let l := s.link c.val p.peer
      let page : Page := .ch c
      let held := (l.tx.cur.toList ++ (l.tx.prev.map (·.1)).toList ++ (l.tx.pend.map (·.1)).toList).map (·.id)
      if held.contains p.tmapId then s.sendStatus c.val p.peer ((l.tx.cur.map (·.id)).getD 0) p.adoptSf 3 0
      else
        let fits := precFits n (cfgGet cfg F.CH_BAND_M_LO) (cfgGet cfg F.CH_BAND_M_HI) p.tmapId p.ports p.streams p.prec
        let s := if fits then s else s.setChan c.val { s.chan c.val with precBad := (s.chan c.val).precBad + 1 }
        if p.ports + 1 ≠ (s.txPorts cfg).length ∨ s.bundleStreams cfg (s.servicePorts cfg).length ≤ p.streams ∨ fits = false then
          (s.sendStatus c.val p.peer p.tmapId p.adoptSf 2 2).event page 19
        else
          let early := sfBefore s.sf p.adoptSf
          let late := (s.sf + 2 ^ 32 - p.adoptSf) % 2 ^ 32
          if !early ∧ 2 ≤ late then s
          else
            let b := if early then p.adoptSf else (s.sf + 1) % 2 ^ 32
            let s0 := s.setLink { l with tx := { l.tx with pend := none } }
            match s0.storeMap c.val n p b with
            | (some m, s1) =>
              ((s1.setLink { l with tx := { l.tx with pend := some (m, b, true) }, theta := p.theta }).sendStatus c.val p.peer p.tmapId b 1
                0).splitWith c.val p.peer cfg p
            | (none, s1) => ((s1.setLink l).sendStatus c.val p.peer p.tmapId p.adoptSf 2 1).event page 19)

/-- A pending map comes into force from a boundary on; the one before it is held for two superframes more (R154). -/
def Dir.adopt (d : Dir) (m : MapRef) (b : Nat) : Dir :=
  { d with cur := some m, prev := d.cur.map fun x => (x, (b + 2) % 2 ^ 32), pend := none }

/-- A proposer learns at which boundary its map is adopted: the header names it (R151), and where it has passed the map is in force. -/
def State.accepted5 (s : State) (l : Link5) (m : MapRef) (b : Nat) : State :=
  let s1 := s.tmapPut (blockWord m.block + 3) (b % 2 ^ 32)
  if sfBefore s.sf b then s1.setLink { l with rx := { l.rx with pend := some (m, b, true) } }
  else (s1.setLink { l with rx := l.rx.adopt m b }).event (chPage l.chan) 18

/-- TMAP_STATUS_RX: a status report received (Table 05-5). One that names a map that the node does not hold drops the link (R153). -/
def execTmapStatusRx (c : Fin 64) (peer id boundary outcome : Nat) (s : State) : Host.Outcome State Fault Refusal :=
  .next (
    match s.link? c.val peer with
    | none => s
    | some l =>
      if id % 4096 ≠ 0 && !(heldIds l).contains (id % 4096) then s.dropToDefault l
      else match l.rx.pend with
      | some (m, sf, _) =>
        if m.id = id % 4096 then
          if outcome = 2 then (s.setLink { l with rx := { l.rx with pend := none } }).event (.ch c) 19
          else if outcome = 1 then s.accepted5 l m (boundary % 2 ^ 32)
          else if outcome = 3 then s.accepted5 l m sf
          else s
        else s
      | none => s)

/-- One direction of a link at a superframe boundary: adoption, and the end of a hold (R154). -/
def Dir.atSuperframe (d : Dir) (sf : Nat) : Dir × Bool :=
  let d1 := match d.prev with
    | some (_, e) => if sfBefore sf e then d else { d with prev := none }
    | none => d
  match d1.pend with
  | some (m, b, true) => if sfBefore sf b then (d1, false) else (d1.adopt m b, true)
  | _ => (d1, false)

/-- Whether a proposal that no one accepted falls due for another try. -/
def Dir.resend (d : Dir) (sf : Nat) : Option MapRef :=
  match d.pend with
  | some (m, b, false) => if b = sf then some m else none
  | _ => none

/-- The map that a proposal sent before holds, as it is sent again with a new ADOPT_SF. -/
def State.resendMap (s : State) (l : Link5) (m : MapRef) : State :=
  let sf := (s.sf + match s.live l.chan with | some cfg => max 1 (cfgGet cfg F.CH_ADP_CTRL_LEAD) | none => 1) % 2 ^ 32
  let a := blockWord m.block
  let h := s.tmapGet a
  let n := match s.live l.chan with | some cfg => cfgGet cfg F.CH_CFG_NUMER | none => 0
  let p : Proposal :=
    { peer := s.fld .sch F.SCH_NODE_NODE, tmapId := m.id, adoptSf := sf, theta := s.thetaSent, rate := s.mapRate m,
      pilot := h / 2 ^ 10 % 4, streams := s.mapStreams m - 1, ports := h / 2 ^ 8 % 4, mLo := s.tmapGet (a + 2) / 2 ^ 12 % 4096,
      mHi := s.tmapGet (a + 2) / 2 ^ 24 % 4096, rows := s.mapRows n m,
      prec := precRecord n m.id (h / 2 ^ 8 % 4) (s.mapStreams m - 1) (s.mapPrec n m) }
  (((s.setLink { l with rx := { l.rx with pend := some (m, sf, false) } }).tmapPut (a + 3) sf).emit
    (.propose l.chan p)).bump (chPage l.chan) 7

/-- The tone maps of every link at a superframe boundary. -/
def State.mapsAtSuperframe (s : State) : State :=
  s.line.links.foldl (fun s l =>
    let rx := l.rx.atSuperframe s.sf
    let tx := l.tx.atSuperframe s.sf
    let idle := decide (64 ≤ (s.sf + 2 ^ 32 - l.usedSf) % 2 ^ 32)
    let l1 := if idle then { l with rx := Dir.empty, tx := Dir.empty } else { l with rx := rx.1, tx := tx.1 }
    let l' := { l1 with symsLast := l.syms, syms := [] }
    let s1 := s.setLink l'
    let s2 := if (rx.2 || tx.2) && !idle then s1.event (chPage l.chan) 18 else s1
    match l'.rx.resend s.sf with
    | some m => s2.resendMap l' m
    | none => s2) s

/-! Sounding received (R145, R146, R191, R192). -/

/-- Whether a sounding is used (R145), `k` being the sounding symbols that the listener computes. -/
def soundingGood (k : Nat) (x : Sounding) : Bool := x.fcOk && x.cwOk && decide (x.recVer = 0) && decide (x.k = k % 256)

/-- The ranging of a sounding: the sounder's report of this node's own sounding gives delay and clock lead. -/
def State.ranging (s : State) (c : Nat) (x : Sounding) : State :=
  let ch := s.chan c
  let new := (x.sounder, x.seq, x.ownOfs, x.snr)
  let heard := if ch.lastSounds.any (fun e => decide (e.1 = x.sounder)) then
      ch.lastSounds.map fun e => if e.1 = x.sounder then new else e
    else new :: ch.lastSounds
  let s1 := s.setChan c { ch with lastSounds := heard }
  if x.arrValid && decide (x.peer = s.fld .sch F.SCH_NODE_NODE) && decide (x.peer ≠ 0) &&
      decide (1 ≤ (ch.soundSeq + 65536 - x.peerSeq) % 65536 ∧ (ch.soundSeq + 65536 - x.peerSeq) % 65536 ≤ 3) then
    let l := s1.link c x.sounder
    let d := (x.ownOfs + x.arrival) / 2
    let nd := match l.delay with | some o => o + (d - o) / 4 | none => d
    let s2 := (s1.setLink { l with delay := some nd, ofs := (x.arrival - x.ownOfs) / 2 }).bump .sch 7
    match s.live c with
    | some cfg => if 4 * (cfgAllow cfg : Int) < nd then s2.event (chPage c) 5 else s2
    | none => s2
  else s1

/-! The registers of the adaptation block. -/

/-- A write of `CH_PROPOSE`: NOW proposes for the selected link, SOUND requests its sounding (R156). -/
def chProposeWrite (c : Nat) (p : Page) (w : Word) (s : State) : State :=
  let s1 := if w.getLsbD 1 then s.askSound c else s
  if w.getLsbD 0 then s1.propose c (s.fld p F.CH_LINK_SEL_PEER) else s1

/-- PROPOSE_NOW: a write of `CH_PROPOSE`. -/
def execProposeNow (q : Req) (c : Fin 64) (s : State) : Host.Outcome State Fault Refusal :=
  .next (writeWord q (.ch c) 0x4F8 (chProposeWrite c.val) s)

/-- SOUND_REQUEST: a write of `CH_PROPOSE`. -/
def execSoundRequest (q : Req) (c : Fin 64) (s : State) : Host.Outcome State Fault Refusal :=
  .next (writeWord q (.ch c) 0x4F8 (chProposeWrite c.val) s)

/-- The store word of a map's header; 0 for the default map. -/
def mapAddr (d : Dir) : Nat := match d.cur with | some m => blockWord m.block | none => 0

/-- Mean bits per loaded cell of a map's row for a region, in 1/256 bit. -/
def State.meanLoad (s : State) (n : Nat) (d : Dir) (region : Nat) : Nat :=
  match d.cur with
  | none => 512
  | some m =>
    let a := blockWord m.block
    let h := s.tmapGet a
    let k := h / 2 ^ 16 % 4 + 1
    let r := if bitOf h 15 then region else 0
    let bs := (List.range (k * rowWords n)).flatMap fun j =>
      let w := s.tmapGet (a + 16 + r * k * rowWords n + j)
      ((List.range 6).map fun i => w / 2 ^ (6 * i) % 16).filter fun b => decide (b ≠ 0 ∧ b ≤ 12)
    if bs = [] then 0 else min 4095 (roundDiv (bs.sum * 256 : Nat) bs.length).toNat

/-- The mean template gain of a channel, in 0.25 dB. -/
def State.meanTplGain (s : State) (c : Nat) : Nat :=
  let gs := (s.chan c).tpl.map fun t => t.gain.getD 0
  if gs = [] then 0 else min 65535 (roundDiv gs.sum (8 * gs.length)).toNat

/-- A write of `CH_LINK_SEL` copies the selected link's status and quality (R155, R156). -/
def linkSelWrite (c : Nat) (p : Page) (w : Word) (s : State) : State :=
  let s1 := applyWrite p 0x418 w s
  let peer := s1.fld p F.CH_LINK_SEL_PEER
  let reg := s1.fld p F.CH_LINK_SEL_REGION
  let n := match s1.live c with | some cfg => cfgGet cfg F.CH_CFG_NUMER | none => 0
  match s1.link? c peer with
  | none =>
    ([0x41C, 0x420, 0x424, 0x428].foldl (fun s o => s.setReg p o 0) s1).setChan c
      { s1.chan c with selAddr := (0, 0) }
  | some l =>
    let stat := 2 ^ 31 + (if l.rx.pend.isSome || l.tx.pend.isSome then 2 ^ 30 else 0) +
      (if l.tx.cur.isNone then 2 ^ 29 else 0) + (if l.theta.isSome then 2 ^ 28 else 0) +
      ((l.rx.cur.map (·.id)).getD 0) * 2 ^ 12 + (l.tx.cur.map (·.id)).getD 0
    let cw := l.cw.filter fun e => decide (e.1 = reg)
    let marg := match l.rx.cur, s1.live c with
      | some m, some cfg => roundDiv (s1.mapMargin l cfg m reg) 5
      | _, _ => 0
    let s2 := s1.setReg p 0x41C (BitVec.ofNat 32 stat)
    let s3 := s2.setReg p 0x420 (BitVec.ofNat 32 (s1.meanLoad n l.rx reg * 2 ^ 20 + satSigned 16 marg))
    let s4 := s3.setReg p 0x424 (BitVec.ofNat 32 ((cw.filter (·.2)).length * 2 ^ 16 + cw.length))
    let s5 := s4.setReg p 0x428 (BitVec.ofNat 32 ((if (s1.chan c).fd then l.echo else 0) % 65536 * 2 ^ 16 + s1.meanTplGain c))
    s5.setChan c { s5.chan c with selAddr := (mapAddr l.tx, mapAddr l.rx) }

/-- LINK_SELECT: a write of `CH_LINK_SEL`. -/
def execLinkSelect (q : Req) (c : Fin 64) (s : State) : Host.Outcome State Fault Refusal :=
  .next (writeWord q (.ch c) 0x418 (linkSelWrite c.val) s)

/-- A write of `CH_TMAP_OVF`: UNITS above 62 clamps to 62. -/
def tmapOvfWrite (p : Page) (w : Word) (s : State) : State :=
  let s1 := applyWrite p 0x480 w s
  s1.setFld p F.CH_TMAP_OVF_UNITS (if s.chip.is7236 then min 62 (s1.fld p F.CH_TMAP_OVF_UNITS) else 0)

/-- A word of the adaptation block, or a range of the selected link (R192), of which hardware holds a part. `CH_TPL_SLOT`k shows ports N4k to N4k + 3 (DEDUCED, log 235). -/
def State.adaptView (s : State) (c : Fin 64) (off : Nat) : Option Word :=
  let p : Page := .ch c
  let ch := s.chan c.val
  let sel := s.link? c.val (s.fld p F.CH_LINK_SEL_PEER)
  match off with
  | 0x05C => some (BitVec.ofNat 32 (match sel.bind (·.delay) with
      | some d => 2 ^ 31 + (max 0 (roundDiv d 4)).toNat % 2 ^ 24
      | none => 0))
  | 0x060 => some (BitVec.ofNat 32 (match sel with | some l => (if l.delay.isSome then (l.ofs % 2 ^ 32).toNat else 0) | none => 0))
  | 0x408 => some (BitVec.ofNat 32 ((if s.tplAllValid c.val then 2 ^ 31 else 0) + (if s.tplSuspended c.val then 2 ^ 30 else 0) +
      ch.skipped * 2 ^ 16 + s.meanTplGain c.val))
  | 0x42C => some (F.CH_TMAP_ADDR_WORD.put (if s.flag p F.CH_TMAP_ADDR_RX then ch.selAddr.2 else ch.selAddr.1) (s.reg p off))
  | 0x484 => if c.val = 0 then some (BitVec.ofNat 32 s.freeBlocks) else none
  | 0x4FC => some s.thetaWord
  | _ =>
    if 0x40C ≤ off ∧ off ≤ 0x414 then
      some (BitVec.ofNat 32 (((List.range 4).map fun e =>
        match ch.tpl.find? fun t => decide (t.port = off - 0x40C + e) with
        | some t => (128 + t.slot) * 2 ^ (8 * e)
        | none => 0).sum))
    else none

end Sys2Proof.Machine
end

