-- ==== Sys2Proof/Machine/Slots.lean ====
section
/-! DEFINITION. What a transmission holds (R101 to R107, R120, R127, R198): the capacity of an entry towards a peer, the
codewords of a payload, and where symbols lie in time. -/

set_option Elab.async false

namespace Sys2Proof.Machine

/-! Time. -/

/-- Nanoseconds from the first data symbol's boundary to the first sample of data symbol `t`, for a train of `len` slots of `slotNs` whose
data begin at `from_`: the seam pilot of each continuation slot stands at the first boundary at or after the slot's start, and data
resume after it (R106). A seam after the last data symbol is not sent, so that only those before symbol `t` count. -/
def dataAtNs (n cp from_ len slotNs t : Nat) : Nat :=
  ((List.range (t + 1)).foldl (fun (a : Nat × Nat) i =>
    let pos := a.1 + if i = 0 then 0 else symNs n cp
    if a.2 < len ∧ a.2 * slotNs ≤ pos then (pos + seamNs n, a.2 + 1) else (pos, a.2)) (from_, 1)).1

/-- Whether a seam pilot stands before data symbol `t`. -/
def seamBefore (n cp from_ len slotNs t : Nat) : Bool :=
  decide (t ≠ 0) && decide (dataAtNs n cp from_ len slotNs (t - 1) + symNs n cp < dataAtNs n cp from_ len slotNs t)

/-- Nanoseconds from slot start to the first sample of symbol `k` of a transmission: preamble 0, then FC and data symbols. -/
def symAtNs (n cp : Nat) (contend : Bool) (nFc len slotNs k : Nat) : Nat :=
  let head := entryGuardNs n contend + preNs n
  if k = 0 then entryGuardNs n contend
  else if k ≤ 1 + nFc then head + (k - 1) * symNs n cp
  else dataAtNs n cp (head + nFc * symNs n cp) len slotNs (k - 1 - nFc)

/-- The window's roll-off after a symbol, N_CP/8 samples (Table 04-1). -/
def rollNs (n cp : Nat) : Nat := cpNs n cp / 8

/-- Whether corridor time is held (R188). -/
def State.sync (s : State) : Bool := s.flag .sch F.SCH_CT_STAT_SYNC

/-! Level 4 settings outside the channels' own pages (R18, R220): `DWL_PROF`, `DWL_CTRL`, `CMD_LINE` and `CMD_KEY`. A change
takes effect at the start of a superframe, and at once while the node holds no corridor time (log 241). -/

/-- The first of the words of a page in the list of those in force. -/
def l4Base : Page → Nat
  | .dwl => 0
  | _ => 9

/-- The words as written. -/
def State.l4Page (s : State) : List Word :=
  (List.range 9).map (fun i => s.reg .dwl (0x040 + 4 * i)) ++ (List.range 9).map (fun i => s.reg .cmd (0x040 + 4 * i))

/-- The words written come into force. -/
def State.takeL4 (s : State) : State := { s with line := { s.line with sched := { s.line.sched with l4 := s.l4Page } } }

/-- A field of them, as in force. -/
def State.l4Fld (s : State) (p : Page) (f : Fld) : Nat :=
  f.get ((if s.sync then s.line.sched.l4 else s.l4Page).getD (l4Base p + (f.off - 0x040) / 4) 0)

def State.l4Flag (s : State) (p : Page) (f : Fld) : Bool := decide (s.l4Fld p f = 1)

/-! Entries in force. -/

/-- A channel's table in a superframe: that of the pending version from its start on. -/
def State.tableIn (s : State) (c sf : Nat) : List Word :=
  match s.line.sched.pend with
  | some v => if v.2.1 ≤ sf then v.2.2.getD c [] else s.table c
  | none => s.table c

/-- The entry of a channel's table in force at a slot. -/
def State.entryAt (s : State) (c : Nat) (cfg : List Word) (slot : Nat) : Entry := effEntry (s.tableIn c (slot / 64)) cfg (slot % 64)

/-- Whether a channel receives a frame whose train covers the slot in progress; on a channel in full duplex the last symbols of one may
arrive after its train has ended (R104). -/
def State.rxNow (s : State) (c : Nat) : Bool :=
  match (s.chan c).rx, s.live c with
  | some r, some cfg => decide (s.slot < r.slot + (s.entryAt c cfg r.slot).len)
  | _, _ => false

/-- The figure of an entry: of the superframe in progress, or of the next one (R202, R203). -/
def State.figAt (s : State) (c slot : Nat) : Option (Nat × Nat) :=
  let x := s.chan c
  let f := if slot / 64 = s.slot / 64 then x.fig else x.figNext
  f.bind fun l => l[slot % 64]?

/-- The carrier set of a channel's entry at a slot, notches not counted. -/
def State.bandAt (s : State) (c : Nat) (cfg : List Word) (slot : Nat) : List Nat :=
  entryCarriers cfg (s.entryAt c cfg slot) (s.figAt c slot) false

/-- The slot's carrier set: less the carriers in a notch (R102). -/
def State.setAt (s : State) (c : Nat) (cfg : List Word) (slot : Nat) : List Nat :=
  (s.bandAt c cfg slot).filter fun m => !s.notched cfg m

/-- Sub-bands of a carrier set. -/
def maskOf (cfg : List Word) (set : List Nat) : Nat :=
  (List.range (cfgSb cfg)).foldl (fun a b =>
    let r := subBand (cfgGet cfg F.CH_CFG_NUMER) (cfgSb cfg) b
    if set.any (fun m => decide (r.1 ≤ m ∧ m < r.2)) then a + 2 ^ b else a) 0

/-- The data and FC symbols that an entry gives at a slot, at the slot length in force (R105). -/
def State.symbolsAt (s : State) (c : Nat) (cfg : List Word) (slot : Nat) : Nat × Nat :=
  let e := s.entryAt c cfg slot
  let sy := entrySymbols cfg e (s.setAt c cfg slot) (e.len * s.slotNs)
  let x := s.chan c
  let n := cfgGet cfg F.CH_CFG_NUMER
  if x.fd || x.split then
    (dataSymbols n (cfgGet cfg F.CH_CFG_CP) (e.len * s.slotNs) (entryGuardNs n (e.ty = tyContend)) sy.2 e.len 0, sy.2)
  else sy

/-! Capacity towards a peer. -/

/-- Bits of a map's row over a carrier set in data symbol `t`, on the first `k` streams. -/
def State.rowBits (s : State) (n : Nat) (m : MapRef) (k region t : Nat) (set : List Nat) : Nat :=
  let p := pilotP (s.tmapGet (blockWord m.block) / 2 ^ 10 % 4)
  ((List.range k).map fun st => ((set.filter fun x => !isPilot p k t x).map fun x => (s.mapCell n m region st x).1).sum).sum

/-- Whether frames to a link name the receiver's regions: grid-locked, locked, and the peer's θ held (R124, R154). -/
def State.anchors (s : State) (l : Link5) : Bool :=
  !s.flag .sch F.SCH_MODE_FREE_RUN && s.zcLocked && l.theta.isSome && l.tx.cur.isSome

/-- The corridor time of a data symbol's centre, sample N/2 of its useful part, at the transmitter. -/
def State.centreAt (s : State) (cfg : List Word) (slot len nFc t : Nat) : Nat :=
  let n := cfgGet cfg F.CH_CFG_NUMER
  let cp := cfgGet cfg F.CH_CFG_CP
  slot * 2 ^ 20 + s.nsToCt (symAtNs n cp false nFc len s.slotNs (1 + nFc + t) + cpNs n cp + usefulNs n / 2)

/-- A link's ranged delay in nanoseconds, 0 where none is known. -/
def Link5.delayNs (l : Link5) : Nat := ((l.delay.getD 0).toNat + 2) / 4

/-- The region of data symbol `t` of frames to a link: the receiver's region at the symbol's centre, its corridor time the transmitter's
plus the ranged delay; region 0 where no region is named (R124). -/
def State.txRegion (s : State) (l : Link5) (cfg : List Word) (slot len nFc t : Nat) : Nat :=
  if s.anchors l then regionOf (s.centreAt cfg slot len nFc t + s.nsToCt l.delayNs) (32 * l.theta.getD 0) else 0

/-- Streams that a transmission to a link carries: the map's, at most what the ports in service permit (R84, R85). DESIGN CHOICE (log
224): the surviving streams are the first ones. -/
def State.txStreams (s : State) (cfg : List Word) (m : MapRef) : Nat :=
  max 1 (min (s.mapStreams m) (s.bundleStreams cfg (s.servicePorts cfg).length))

/-- The coded bits of each data symbol of a D1 transmission towards a peer; without a map, the default map's (R149). -/
def State.symbolBits (s : State) (c peer : Nat) (cfg : List Word) (slot len nd nFc : Nat) (set : List Nat) : List Nat :=
  let n := cfgGet cfg F.CH_CFG_NUMER
  match (s.link? c peer).bind fun l => l.tx.cur.map fun m => (l, m) with
  | some (l, m) => (List.range nd).map fun t => s.rowBits n m (s.txStreams cfg m) (s.txRegion l cfg slot len nFc t) t set
  | none => (List.range nd).map fun t => 2 * cellsIn 12 1 t set

/-- The map of a link that a received frame's TMAP_ID names: the one in force, the previous one while it is held, or the pending one, which
the transmitter may use before its report arrives (R154). -/
def Link5.rxNamed (l : Link5) (id : Nat) : Option MapRef :=
  (l.rx.cur.toList ++ (l.rx.prev.map (·.1)).toList ++ (l.rx.pend.map (·.1)).toList).find? fun m => decide (m.id = id)

/-- The link of a channel whose receive map a TMAP_ID names. -/
def State.rxMap? (s : State) (c id : Nat) : Option Link5 :=
  s.line.links.find? fun l => decide (l.chan = c) && (l.rxNamed id).isSome

/-- The region of data symbol `t` of a frame received on a link, by this node's zero crossing; region 0 where the frame names none or the
node has never held lock (R124). -/
def State.rxRegion (s : State) (l : Link5) (cfg : List Word) (anchor : Bool) (slot len nFc t : Nat) : Nat :=
  if anchor && !s.mains.fresh then regionOf (s.centreAt cfg slot len nFc t + s.nsToCt l.delayNs) s.ownTheta else 0

/-- The coded bits of each data symbol of a received frame, as its FC and the map that it names give them. -/
def State.rxBits (s : State) (c : Nat) (cfg : List Word) (slot : Nat) (f : Fc) : List Nat :=
  let n := cfgGet cfg F.CH_CFG_NUMER
  let set := s.setAt c cfg slot
  let nFc := (fcLayout n (fcCarriers set)).1
  let plain := (List.range f.dataSyms).map fun t => 2 * cellsIn 12 1 t set
  if f.div ≠ 0 ∨ f.tmapId = 0 then plain
  else match s.rxMap? c f.tmapId with
    | none => plain
    | some l => match l.rxNamed f.tmapId with
      | none => plain
      | some m => (List.range f.dataSyms).map fun t =>
          s.rowBits n m (min (f.streams + 1) (s.mapStreams m)) (s.rxRegion l cfg f.anchor slot (s.entryAt c cfg slot).len nFc t) t set

/-- The code rate of frames to a peer: that of the map in force, else 1/2. -/
def State.linkRate (s : State) (c peer : Nat) : Nat :=
  match (s.link? c peer).bind (·.tx.cur) with
  | some m => s.tmapGet (blockWord m.block) / 2 ^ 12 % 8
  | none => 0

/-! Codewords of a payload. -/

/-- Bits of the frames of a payload, each padded to whole codewords of `i` bits but the last (R115). -/
def paddedBits (i : Nat) (lens : List Nat) : Nat :=
  match lens.reverse with
  | [] => 0
  | l :: r => (r.map fun x => ceilDiv (8 * x) i * i).sum + 8 * l

/-- Codewords of a payload of frames of these lengths in bytes: (CW_LEN, CW_COUNT, CW_FILL). -/
def payloadCws (rate : Nat) (lens : List Nat) : Nat × Nat × Nat :=
  let short := paddedBits (infoBits rate false) lens
  if short ≤ 5 * infoBits rate false then codewordsFor rate short
  else codewordsFor rate (paddedBits (infoBits rate true) lens)

/-- The information bits that a diversity frame of `n` copies over `cells` cells can hold: full codewords and the shortened
last one (R127). -/
def divInfo (n cells : Nat) : Nat :=
  let full := cells / (n * 1152)
  let last := min 1152 ((cells - full * n * 1152) / n)
  full * 576 + (if 584 ≤ last then last - 576 else 0)

/-- Codewords of a diversity frame for `b` information bits. -/
def divCws (n cells b : Nat) : Nat :=
  let full := cells / (n * 1152)
  if b ≤ full * 576 then max 1 (ceilDiv b 576) else full + 1

/-- How many of the frames, in order, a transmission holds. -/
def fitCount (bits rate div cells : Nat) (lens : List Nat) : Nat :=
  ((List.range lens.length).takeWhile fun k =>
    let l := lens.take (k + 1)
    if div = 0 then
      let w := payloadCws rate l
      decide (codedBits w.1 w.2.1 w.2.2 ≤ bits)
    else decide (paddedBits 576 l ≤ divInfo (2 ^ div) cells)).length

/-- DATA_SYMS: the fewest symbols whose bits hold the codewords. -/
def symsFor (bits : List Nat) (need : Nat) : Nat :=
  ((List.range bits.length).find? fun k => decide (need ≤ (bits.take (k + 1)).sum)).elim bits.length (· + 1)

/-- The highest diversity mode not above `d` whose frame an entry holds (R245); 0 for none. -/
def divFor (d cells : Nat) : Nat :=
  ((List.range d).reverse.find? fun k => decide (0 < divInfo (2 ^ (k + 1)) cells)).elim 0 (· + 1)

/-! Payload bits as they are sent. -/

/-- The information bits of a payload cut into codewords of the given information lengths, each frame starting a codeword
(R115). -/
def payloadBits (infos : List Nat) (bytes : List (List Nat)) : List (List Bool) :=
  (infos.foldl (fun (a : List (List Bool) × (List (List Bool))) i =>
    match a.2 with
    | [] => (a.1 ++ [List.replicate i false], [])
    | f :: fs =>
      let c := f.take i
      (a.1 ++ [c ++ List.replicate (i - c.length) false], if f.length ≤ i then fs else f.drop i :: fs))
    ([], bytes.map fun b => b.flatMap (bitsOf 8))).1

/-- Scramble, encode and interleave the codewords of a payload (R116 to R120). -/
def codedPayload (seed rate : Nat) (longs : List Bool) (infos : List (List Bool)) : List (List Bool) :=
  let flat := scramble seed infos.flatten
  ((longs.zip infos).foldl (fun (a : List (List Bool) × List Bool) x =>
    (a.1 ++ [interleave (ldpcEncode rate x.1 (a.2.take x.2.length))], a.2.drop x.2.length)) ([], flat)).1

/-- The codewords of a D1 payload, from its FC. -/
def fcLongs (f : Fc) : List Bool :=
  List.replicate f.cwCount (decide (f.cwLen = 1)) ++ List.replicate f.cwFill false

/-- What a transmission sends after its FC: its codewords, coded (R115 to R120, R126, R194). -/
def Tx.coded (x : Tx) : List (List Bool) :=
  let f := Fc.decode x.fc
  let seed := payloadSeed f.netid x.slot
  if f.ftype = 3 then
    let e := min 832 x.bits.sum
    [interleave (shortEncode 256 e (scramble seed ((x.bytes.flatten).flatMap (bitsOf 8))))]
  else if f.div = 0 then
    let longs := fcLongs f
    codedPayload seed f.rate longs (payloadBits (longs.map (infoBits f.rate)) x.bytes)
  else
    let n := 2 ^ f.div
    let cells := x.bits.sum / 2
    let last := divLast n cells f.cwCount
    let infos := (List.range f.cwCount).map fun k => if k + 1 = f.cwCount then last - 576 else 576
    let bits := payloadBits infos x.bytes
    let flat := scramble seed bits.flatten
    ((infos.zipIdx).foldl (fun (a : List (List Bool) × List Bool) i =>
      (a.1 ++ [interleave (shortEncode i.1 (if i.2 + 1 = f.cwCount then last else 1152) (a.2.take i.1))], a.2.drop i.1))
      ([], flat)).1

/-- Symbols of a transmission: preamble, FC and data, without seams. -/
def Tx.syms (x : Tx) : Nat := 1 + x.nFc + x.nd

/-- The codewords with bits in data symbol `t`. -/
def Tx.cwIn (x : Tx) (t : Nat) : List Nat :=
  let f := Fc.decode x.fc
  let lo := (x.bits.take t).sum
  let hi := lo + x.bits.getD t 0
  let n := if f.div = 0 then 1 else 2 ^ (f.div + 1)
  let lens := (fcLongs f).map fun b => n * codeBits b
  ((lens.foldl (fun (a : List Nat × Nat × Nat) l =>
    (if decide (a.2.1 < hi) && decide (lo < a.2.1 + l) then a.1 ++ [a.2.2] else a.1, a.2.1 + l, a.2.2 + 1)) ([], 0, 0))).1

/-- The last data symbol with bits of codeword `k`. -/
def lastSymOf (bits : List Nat) (lens : List Nat) (k : Nat) : Nat :=
  let stop := (lens.take (k + 1)).sum
  ((List.range bits.length).find? fun t => decide (stop ≤ (bits.take (t + 1)).sum)).getD (bits.length - 1)

/-- Change every frame in the device's hands. -/
def State.mapFrames (s : State) (g : Frame → Frame) : State := { s with net := { s.net with frames := s.net.frames.map g } }

/-- How many codeword positions frames take, in order. -/
def positionsOf (infos : List Nat) (bytes : List (List Nat)) : Nat :=
  bytes.foldl (fun k b =>
    let bits := 8 * b.length
    let l := infos.drop k
    k + ((List.range (l.length + 1)).find? fun j => decide (bits ≤ (l.take j).sum)).getD (l.length + 1)) 0

/-- The information length of each codeword that a D1 transmission declares. -/
def Tx.infos (x : Tx) : List Nat := let f := Fc.decode x.fc; (fcLongs f).map (infoBits f.rate)

/-- The first codeword position whose symbols have not begun. -/
def Tx.openPos (x : Tx) : Nat :=
  ((List.range x.nd).find? fun t => decide (x.sym ≤ 1 + x.nFc + t)).elim x.infos.length fun t =>
    (((List.range x.infos.length).find? fun k =>
      ((List.range t).all fun u => !(x.cwIn u).contains k)).getD x.infos.length)

end Sys2Proof.Machine
end

