-- ==== Sys2Proof/Machine/Symbols.lean ====
section
/-! DEFINITION. The symbols of a transmission as they leave the ports (R101, R106, R108 to R110, R114, R120 to R128, R145, R194, R231): what
each carrier holds, and the cyclic delay of each port. -/

set_option Elab.async false

namespace Sys2Proof.Machine

/-! The coded bits in the order of their cells. -/

/-- The scrambler's register restarts for a payload with this seed (R116). -/
def Tx.seed (x : Tx) : Nat := payloadSeed (Fc.decode x.fc).netid x.slot

/-- Information bits of a transmission's payload. -/
def Tx.infoTotal (x : Tx) : Nat :=
  let f := Fc.decode x.fc
  if f.ftype = 3 then 256
  else if f.div = 0 then ((fcLongs f).map (infoBits f.rate)).sum
  else (f.cwCount - 1) * 576 + (divLast (2 ^ f.div) (x.bits.sum / 2) f.cwCount - 576)

/-- `k` bits of the scrambler's sequence after the payload's last information bit (R120). -/
def Tx.filler (x : Tx) (k : Nat) : List Bool :=
  (scramble x.seed (List.replicate (x.infoTotal + k) false)).drop x.infoTotal

/-- The bits that the cells of a transmission carry, `total` of them: its coded codewords, with their copies (R125, R126, R194), then
filler. -/
def Tx.stream (x : Tx) (total : Nat) : List Bool :=
  let f := Fc.decode x.fc
  let body :=
    if f.ftype = 3 then
      let b := x.coded.flatten
      if 2 * b.length ≤ total then copies (total / b.length) total b else b
    else if f.div = 0 then x.coded.flatten
    else x.coded.flatMap fun w => copies (2 ^ f.div) (2 ^ f.div * w.length) w
  body ++ x.filler (total - body.length)

/-! Carriers. -/

/-- Samples of a short symbol: those of N250's SY symbols, and of a seam pilot (R103). -/
def shortSy (n : Nat) : Nat := if n = 1 then 64 else fftN n
def seamLen (n : Nat) : Nat := match n with | 0 => 128 | 1 => 32 | _ => 512

/-- The carriers of a set that a symbol of `len` samples carries values on (R108). -/
def shortSet (n len : Nat) (set : List Nat) : List Nat := set.filter fun m => decide (binOf n m % (fftN n / len : Nat) = 0)

/-- A comb over `ports` ports: the `i`-th carrier of a set goes out on port (i + u) mod N_t (R109, R145). -/
def combCells (ports u : Nat) (set : List Nat) : List (Nat × Cell) :=
  (set.zipIdx).map fun e => (e.1, Cell.comb 2 ((e.2 + u) % max 1 ports))

/-- The amplitude E of R122 of `b` bits, three times. -/
def cellE (b : Nat) : Nat := ((4 ^ ((b + 1) / 2) - 1) + (4 ^ (b / 2) - 1)) / 3

/-- A stream's point on a carrier: amplitudes, E and fine gain. -/
def pointOf (g : Nat) (l : List Bool) : Int × Int × Nat × Nat :=
  let p := cellPoint l
  (p.1, p.2, cellE l.length, g)

/-- The FC bits of the carriers of FC symbol `k`, from 0 (R114): pilots carry X_2. -/
def fcCells (n k : Nat) (set : List Nat) (fc : Nat) : List (Nat × Cell) :=
  let cfc := fcCarriers set
  let lay := fcLayout n cfc
  let bits := (copies lay.2 (2 * lay.1 * cfc) (fcSent n cfc fc)).drop (2 * k * cfc)
  (set.foldl (fun (a : List (Nat × Cell) × List Bool) m =>
    if m % 8 = 0 then (a.1 ++ [(m, .chirp 2)], a.2)
    else (a.1 ++ [(m, .point [pointOf 0 (a.2.take 2)] 0 0)], a.2.drop 2)) ([], bits)).1

/-- The map that a transmission's FC names (R121, R154). -/
def State.txMap (s : State) (c : Nat) (x : Tx) : Option (Link5 × MapRef) :=
  let id := (Fc.decode x.fc).tmapId
  if id = 0 then none
  else (s.link? c x.peer).bind fun l =>
    ((l.tx.cur.toList ++ (l.tx.prev.map (·.1)).toList).find? fun m => decide (m.id = id)).map fun m => (l, m)

/-- Loading and fine gain of each stream on a carrier in data symbol `t` (R121, R125, R149). -/
def State.txLoads (s : State) (c : Nat) (cfg : List Word) (x : Tx) (t m : Nat) : List (Nat × Nat) :=
  let f := Fc.decode x.fc
  if f.div ≠ 0 then [(1, 0)]
  else match s.txMap c x with
    | none => [(2, 0)]
    | some (l, r) =>
      let reg := if f.anchor then s.txRegion l cfg x.slot x.len x.nFc t else 0
      (List.range (f.streams + 1)).map fun st => s.mapCell (cfgGet cfg F.CH_CFG_NUMER) r reg st m

/-- The precoding values of a carrier: those of its group; none in a frame that names no region (R128). -/
def State.txPrec (s : State) (c : Nat) (cfg : List Word) (x : Tx) (m : Nat) : Nat × Nat :=
  let n := cfgGet cfg F.CH_CFG_NUMER
  match (Fc.decode x.fc).anchor, s.txMap c x with
  | true, some (_, r) =>
    let a := blockWord r.block
    let lo := s.tmapGet (a + 2) / 2 ^ 12 % 4096
    let g := (m - lo) / (if n = 2 then 64 else 16)
    let rows := (if bitOf (s.tmapGet a) 15 then 24 else 1) * s.mapStreams r
    let b := s.tmapGet (a + 16 + rows * rowWords n + g / 4) / 2 ^ (8 * (g % 4)) % 256
    (b % 64, b / 64)
  | _, _ => (0, 0)

/-- The pilot spacing of a transmission (R123). -/
def State.txPilots (s : State) (c : Nat) (x : Tx) : Nat :=
  match s.txMap c x with
  | some (_, r) => pilotP (s.tmapGet (blockWord r.block) / 2 ^ 10 % 4)
  | none => 12

/-- The stream whose pilot a carrier is in data symbol `t`. -/
def pilotStream (p k t m : Nat) : Option Nat :=
  if p = 0 then none else (List.range k).find? fun i => decide ((m + p / 4 * (t % 4) + p - i % p) % p = 0)

/-- The carriers of data symbol `t`, in cell order, with what their cells hold (R121 to R123). -/
def State.dataCells (s : State) (c : Nat) (cfg : List Word) (x : Tx) (t : Nat) : List (Nat × Cell) :=
  let f := Fc.decode x.fc
  let p := s.txPilots c x
  let half := fun (v : Nat) => if f.div = 0 then v else v / 2
  let bits := (x.stream (half x.bits.sum)).drop (half (x.bits.take t).sum)
  ((carrierOrder (cfgGet cfg F.CH_CFG_NUMER)).foldl (fun (a : List (Nat × Cell) × List Bool) m =>
    if !x.set.contains m then a
    else
      let qo := s.txPrec c cfg x m
      match pilotStream p (f.streams + 1) t m with
      | some k => (a.1 ++ [(m, .pilot k qo.1 qo.2)], a.2)
      | none =>
        let r := (s.txLoads c cfg x t m).foldl (fun (b : List (Int × Int × Nat × Nat) × List Bool) e =>
          (b.1 ++ [pointOf e.2 (b.2.take e.1)], b.2.drop e.1)) ([], a.2)
        (a.1 ++ [(m, .point r.1 qo.1 qo.2)], r.2)) ([], bits)).1

/-- Carriers that are sent as zero: in a sub-band that the ledger has exhausted (R205), or notched since the transmission began (R121). -/
def State.silence (s : State) (cfg : List Word) (x : Tx) (l : List (Nat × Cell)) : List (Nat × Cell) :=
  let muted := fun (m : Nat) => (List.range (cfgSb cfg)).any fun b =>
    let r := subBand (cfgGet cfg F.CH_CFG_NUMER) (cfgSb cfg) b
    bitOf x.mute b && decide (r.1 ≤ m ∧ m < r.2)
  l.map fun e => (e.1, if muted e.1 || s.notched cfg e.1 then .zero else e.2)

/-- k_R (R231). -/
def relayDelay (node : Nat) : Nat := (List.range 8).foldl (fun a i => Nat.xor a (node / 2 ^ (3 * i) % 8)) 0

/-- The cyclic delay of each transmitting port, in samples (R109): on floods in REEL entries and beacons the node's own is added (R231). -/
def State.delays (s : State) (cfg : List Word) (x : Tx) : List Nat :=
  let n := cfgGet cfg F.CH_CFG_NUMER
  let own := if x.ty = tyReel ∨ (Fc.decode x.fc).ftype = 3 then relayDelay (s.fld .sch F.SCH_NODE_NODE) * (fftN n / 128) else 0
  (List.range (s.txPorts cfg).length).map fun p => p * (fftN n / 32) + own

/-- Symbol `k` of a channel's transmission leaves the ports: the preamble, an FC symbol, or a data symbol with the seam pilot that stands
before it. -/
def State.sendSymbol (s : State) (c : Nat) (cfg : List Word) (x : Tx) (k : Nat) : State :=
  let n := cfgGet cfg F.CH_CFG_NUMER
  let np := (s.txPorts cfg).length
  let d := s.delays cfg x
  let z := s.silence cfg x
  if k = 0 then
    let l := shortSet n (shortSy n) x.set
    s.emit (.preamble c (z (l.map fun m => (m, .chirp 1))) (z (combCells np 0 l)) d)
  else if k ≤ x.nFc then s.emit (.symbol c k (z (fcCells n (k - 1) x.set x.fc)) d)
  else
    let t := k - 1 - x.nFc
    let cells := if (Fc.decode x.fc).ftype = 4 ∧ t ≠ 0 then combCells np (t - 1) x.set else s.dataCells c cfg x t
    s.emit (.symbol c k (z cells) d)

/-- The seam pilot that stands before symbol `k` of a transmission, where one does (R106). -/
def State.sendSeam (s : State) (c : Nat) (cfg : List Word) (x : Tx) (k : Nat) : State :=
  let n := cfgGet cfg F.CH_CFG_NUMER
  let cp := cfgGet cfg F.CH_CFG_CP
  let from_ := entryGuardNs n (x.ty = tyContend) + preNs n + x.nFc * symNs n cp
  if x.nFc < k ∧ seamBefore n cp from_ x.len s.slotNs (k - 1 - x.nFc) then
    s.emit (.seam c k (s.silence cfg x (combCells (s.txPorts cfg).length 0 (shortSet n (seamLen n) x.set))) (s.delays cfg x))
  else s

end Sys2Proof.Machine
end

