-- ==== Sys2Proof/Machine/Sensing.lean ====
section
/-! DEFINITION. What the Sense station makes of a channel's samples (R130, R133, R134, R139, R141 to R143, R145, R146): template
subtraction, echo cancellation, impulse blanking, the transform, channel estimation and noise; and the soundings received. The transform
is exact up to its rounding to whole units (DESIGN CHOICE, log 218). -/

set_option Elab.async false

namespace Sys2Proof.Machine

/-! Samples (R133). -/

/-- The template that is subtracted from a port's samples: valid and not suspended, with templates enabled (R133, R139). -/
def State.activeTemplate (s : State) (c p : Nat) (cfg : List Word) : Option Template :=
  if s.feat 5 && cfgFlag cfg F.CH_ADP_CTRL_TPL_EN then
    (s.chan c).tpl.find? fun t => decide (t.port = p) && s.tplValid c t && !t.susp
  else none

/-- Template subtraction (R139), the template taken to the scale of the gain in force (R141). -/
def State.subtract (s : State) (c p : Nat) (cfg : List Word) (slot : Nat) (l : List (Nat × Int × Int)) : List (Nat × Int × Int) :=
  match s.activeTemplate c p cfg with
  | none => l
  | some t =>
    let code := s.fld (portPage p) F.NP_RX_STAT_GAIN
    let k : Int := (code : Int) - t.refAt (cfgFlag cfg F.CH_GAIN_AUTO) code
    l.map fun e =>
      let v := s.binGet (templateBase t.slot + s.templateBin (cfgGet cfg F.CH_CFG_NUMER) (slot * 2 ^ 20 + e.1))
      (e.1, signed 18 (satSigned 18 (e.2.1 - scaleSteps v.1 k)), signed 18 (satSigned 18 (e.2.2 - scaleSteps v.2 k)))

/-- The echo that a canceller's taps make of what a port sent, at sample `i`; `sent` begins 255 samples earlier. The taps have 17 binary
places (DESIGN CHOICE, log 236). -/
def echoAt (taps sent : List (Int × Int)) (i : Nat) : Int × Int :=
  cScale (cSum ((taps.zipIdx).map fun e => cMul e.1 (sent.getD (i + 255 - e.2) (0, 0)))) 1 (2 ^ 17)

/-- The canceller's taps of a pair of ports (R130). -/
def State.tapsOf (s : State) (c tx rx : Nat) : List (Int × Int) :=
  ((((s.chan c).taps.find? fun e => decide (e.1 = tx ∧ e.2.1 = rx)).map (·.2.2)).getD []).take 256

/-- Echo cancellation over every transmitting port of the channel. -/
def State.cancel (s : State) (c : Nat) (x : RxPort) (l : List (Nat × Int × Int)) : List (Nat × Int × Int) :=
  if !(s.chan c).fd then l
  else (l.zipIdx).map fun e => (e.1.1, cSub e.1.2 (cSum (x.sent.map fun y => echoAt (s.tapsOf c y.1.val x.port.val) y.2 e.2)))

/-- The canceller adapts: its pairs of a receive port hold the taps as they have become. -/
def State.adaptTaps (s : State) (c : Nat) (x : RxPort) : State :=
  if !(s.chan c).fd then s
  else
    let y := s.chan c
    let new := x.taps.map fun e => (e.1.val, x.port.val, e.2.take 256)
    s.setChan c { y with taps := (y.taps.filter fun e => !new.any fun z => decide (z.1 = e.1 ∧ z.2.1 = e.2.1)) ++ new }

/-- Whether blanking acts on a channel. -/
def State.blanks (s : State) (cfg : List Word) : Bool := s.feat 5 && cfgFlag cfg F.CH_ADP_CTRL_BLANK_EN

/-- Whether a sample's magnitude exceeds an rms, of powers that sum up to `sum` over `k` samples, by more than `th` × 0.5 dB. -/
def exceeds (th sum k : Nat) (v : Int × Int) : Bool := decide (k ≠ 0) && decide (sum ^ 20 * 10 ^ th < (cPow v * k) ^ 20)

/-- The samples of a port that are blanked (R142): those that exceed the rms, with HANG on either side. DESIGN CHOICE (log 237): the
rms is that of the last 1,024 samples not blanked before the symbol. -/
def blankMask (th hang : Nat) (win : List Nat) (l : List (Int × Int)) : List Bool :=
  let hit := l.map (exceeds th win.sum win.length)
  (List.range l.length).map fun i => ((hit.drop (i - hang)).take (min i hang + 1 + hang)).any id

/-- Impulse blanking of a port's samples: blanked ones are zero, and the others enter the rms. -/
def State.blank (s : State) (c p : Nat) (cfg : List Word) (l : List (Nat × Int × Int)) : List (Nat × Int × Int) × List Bool × State :=
  if !s.blanks cfg then (l, l.map fun _ => false, s)
  else
    let x := s.chan c
    let win := ((x.blank.find? fun e => decide (e.1 = p)).map (·.2)).getD []
    let mask := blankMask (cfgGet cfg F.CH_BLANK_TH) (min 63 (cfgGet cfg F.CH_BLANK_HANG)) win (l.map (·.2))
    let kept := ((l.zip mask).filter fun e => !e.2).map fun e => cPow e.1.2
    ((l.zip mask).map (fun e => if e.2 then (e.1.1, 0, 0) else e.1), mask,
      s.setChan c { x with blank := (x.blank.filter fun e => decide (e.1 ≠ p)) ++ [(p, (kept.reverse ++ win).take 1024)] })

/-! The transform and the sync sequences (R101, R108). -/

/-- The value of a bin over the last samples of a symbol, for a transform of `n` points. -/
def dftAt (n : Nat) (l : List (Int × Int)) (bin : Int) : Int × Int :=
  let t := (l.zipIdx).foldl (fun (a : Int × Int) e =>
    let w := -(2 ^ 19 / (n : Int)) * (bin * (e.2 : Int) % (n : Int))
    cAdd a (cMul e.1 (cosFix w, sinFix w))) (0, 0)
  cScale t 1 (2 ^ 64)

/-- The carriers of a set over a symbol's samples. -/
def carriersOf (n : Nat) (l : List (Int × Int)) (set : List Nat) : List (Nat × Int × Int) :=
  set.map fun m => (m, dftAt (fftN n) l (binOf n m))

/-- The conjugate of X_2(m), times 2^20. -/
def chirpConj (n m : Nat) : Int × Int := cExp (roundDiv (2 ^ 18 * 11 * (m * (m + 1)) : Nat) (if n = 2 then 3371 else 1021))

/-- √(a/b) × 2^20. -/
def rootFix (a b : Nat) : Nat := sqrtNear 30 (2 ^ 40 * a / max 1 b)

/-- What carriers that hold X_2 say of the channel, amplitudes divided by √(`up`/`down`). -/
def unchirp (n up down : Nat) (l : List (Nat × Int × Int)) : List (Nat × Int × Int) :=
  l.map fun e => (e.1, cScale (cMul e.2 (chirpConj n e.1)) (rootFix down up) (2 ^ 40))

/-- The channel that a comb of `len` samples brings a receive port (R109, R134): each port's own carriers, and the line between them. -/
def combRows (n len np rx : Nat) (set : List Nat) (l : List (Int × Int)) : List HRow :=
  let own := shortSet n len set
  let got := unchirp n (max 1 np * len) (fftN n) (carriersOf n l own)
  (List.range (max 1 np)).map fun p =>
    ⟨rx, p, interp (((got.zipIdx).filter fun e => decide (e.2 % max 1 np = p)).map (·.1)) set⟩

/-- Rows of an estimate enter those held before with weight 1/2^`k`; those not held stand whole. -/
def mixRows (k : Nat) (old new : List HRow) : List HRow :=
  let one := fun (y : HRow) => match old.find? fun z => decide (z.rx = y.rx ∧ z.tx = y.tx) with
    | none => y
    | some z => { y with h := (y.h.map fun e =>
        match z.h.find? fun o => decide (o.1 = e.1) with
        | some o => (e.1, cAdd o.2 (cScale (cSub e.2 o.2) 1 (2 ^ k)))
        | none => e) ++ z.h.filter fun o => !y.h.any fun e => decide (e.1 = o.1) }
  new.map one ++ old.filter fun z => !new.any fun y => decide (z.rx = y.rx ∧ z.tx = y.tx)

/-! Channel estimation on a frame (R134). -/

/-- The map that a received frame's FC names, with its link. -/
def State.rxMapOf (s : State) (c : Nat) (f : Fc) : Option (Link5 × MapRef) :=
  if f.div ≠ 0 ∨ f.tmapId = 0 then none else (s.rxMap? c f.tmapId).bind fun l => (l.rxNamed f.tmapId).map fun m => (l, m)

/-- The pilot spacing of a received frame (R123). -/
def State.rxPilots (s : State) (c : Nat) (f : Fc) : Nat :=
  match s.rxMapOf c f with
  | some (_, m) => pilotP (s.tmapGet (blockWord m.block) / 2 ^ 10 % 4)
  | none => 12

/-- The precoding values of a carrier of a received frame (R128). -/
def State.rxPrec (s : State) (c n : Nat) (f : Fc) (m : Nat) : Nat × Nat :=
  match f.anchor, s.rxMapOf c f with
  | true, some (_, r) =>
    let lo := s.tmapGet (blockWord r.block + 2) / 2 ^ 12 % 4096
    let b := (s.mapPrec n r).getD ((m - lo) / groupSize n) 0
    (b % 64, b / 64)
  | _, _ => (0, 0)

/-- The precoded channel of each stream at a receive port, from that of the transmitting ports (R128). -/
def State.precodedRows (s : State) (c n : Nat) (f : Fc) (r : RxFrame) (rx : Nat) : List HRow :=
  let own := r.est.filter fun y => decide (y.rx = rx)
  (List.range (f.streams + 1)).map fun st => ⟨rx, st, r.set.map fun m =>
    let qo := s.rxPrec c n f m
    (m, cScale (cSum (own.map fun y => cMul (y.at_ m) (precode r.np qo.1 qo.2 y.tx st)))
      (rootFix 1 (max 1 r.np * (f.streams + 1))) (2 ^ 40))⟩

/-- What the scattered pilots of data symbol `t` bring: each stream's pilots, and the carriers between them. -/
def pilotRows (n p k t rx : Nat) (set : List Nat) (l : List (Nat × Int × Int)) : List HRow :=
  (List.range k).filterMap fun st =>
    let got := unchirp n 1 1 (l.filter fun e => decide (pilotStream p k t e.1 = some st))
    match got.head?, got.getLast? with
    | some a, some b => some ⟨rx, st, interp got (set.filter fun m => decide (min a.1 b.1 ≤ m ∧ m ≤ max a.1 b.1))⟩
    | _, _ => none

/-- One port's samples of a symbol, in the order of R133, with what the symbol's useful samples lost to blanking: the frame's estimates
afterwards, and the symbol's carriers. -/
def State.senseSymbol (s : State) (c : Nat) (cfg : List Word) (r : RxFrame) (x : RxPort) :
    RxFrame × List (Nat × Int × Int) × Nat × State :=
  let n := cfgGet cfg F.CH_CFG_NUMER
  let cp := cfgGet cfg F.CH_CFG_CP
  let y0 := s.cancel c x (s.subtract c x.port.val cfg s.slot x.samples)
  let b := s.blank c x.port.val cfg y0
  let s1 := b.2.2.adaptTaps c x
  let len := if r.sym = 0 then shortSy n else fftN n
  let y := b.1.map (·.2)
  let useful := y.drop (y.length - len)
  let lost := ((b.2.1.drop (b.2.1.length - len)).filter id).length
  if r.sym = 0 then ({ r with est := mixRows 0 r.est (combRows n len r.np x.port.val r.set useful) }, [], lost, s1)
  else
    let e := s.entryAt c cfg r.slot
    let nFc := (fcLayout n (fcCarriers r.set)).1
    let from_ := entryGuardNs n (r.ty = tyContend) + preNs n + nFc * symNs n cp
    let r1 := if nFc < r.sym ∧ seamBefore n cp from_ e.len s.slotNs (r.sym - 1 - nFc) then
        { r with est := mixRows 1 r.est (combRows n (seamLen n) r.np x.port.val r.set (y.take (seamLen n))) }
      else r
    let l := carriersOf n useful r.set
    match r1.fc.map Fc.decode with
    | some f =>
      let t := r.sym - 1 - nFc
      let p := s.rxPilots c f
      if r.sym ≤ nFc ∨ (f.ftype = 4 ∧ t ≠ 0) then (r1, l, lost, s1)
      else
        let held := if r1.strm.any fun z => decide (z.rx = x.port.val) then r1.strm else r1.strm ++ s.precodedRows c n f r1 x.port.val
        ({ r1 with strm := if p = 0 then held else mixRows 2 held (pilotRows n p (f.streams + 1) t x.port.val r.set l) }, l, lost, s1)
    | none => (r1, l, lost, s1)

/-- The weight of a symbol's soft values (R143): max(0, 1 − f/f_E), as a ratio. -/
def softWeight (n erase lost : Nat) : Nat × Nat :=
  let d := fftN n * max 1 erase
  (d - lost * 256, d)

/-- A symbol with blanked samples is counted, and again where the fraction reaches f_E. -/
def State.blankSymbol (s : State) (c : Nat) (cfg : List Word) (lost : Nat) : State :=
  if lost = 0 then s
  else
    let s1 := s.bump (chPage c) 5
    if (softWeight (cfgGet cfg F.CH_CFG_NUMER) (cfgGet cfg F.CH_BLANK_ERASE) lost).1 = 0 then s1.bump (chPage c) 6 else s1

/-- The carriers of a sounding symbol are kept for the record that tells whose they are (R145, R146). -/
def State.keepSound (s : State) (c : Nat) (cfg : List Word) (r : RxFrame) (port : Nat) (l : List (Nat × Int × Int)) : State :=
  let n := cfgGet cfg F.CH_CFG_NUMER
  let first := 2 + (fcLayout n (fcCarriers r.set)).1
  let x := s.chan c
  match x.snd with
  | some (slot, rows) =>
    if decide (slot = r.slot ∧ first ≤ r.sym) && !r.cmd.contains r.sym then
      s.setChan c { x with snd := some (slot, rows ++ [(r.sym - first, ⟨port, 0, unchirp n 1 1 l⟩)]) }
    else s
  | none => s

/-- One receive port's part of a symbol: what it adds to the frame, and how many of its samples were blanked. An ADC that overloaded shows it
(R81), and a sounding symbol's carriers are kept. -/
def State.rxPort (s : State) (c : Nat) (cfg : List Word) (r : RxFrame) (x : RxPort) : RxFrame × Nat × State :=
  let y := s.senseSymbol c cfg r x
  let s1 := if x.overload then y.2.2.2.setFlag (portPage x.port.val) F.NP_RX_STAT_OVERLOAD true else y.2.2.2
  (y.1, y.2.2.1, s1.keepSound c cfg r x.port.val y.2.1)

/-- A symbol of a channel's reception has ended: its samples on each port in service are worked on, in the order of R133. DESIGN CHOICE (log
238): of several ports the one that lost most samples to blanking weighs the symbol. -/
def State.rxSymbol (s : State) (c : Nat) (cfg : List Word) (r : RxFrame) (rx : List RxPort) : State :=
  let a := (rx.filter fun x => s.inSvc x.port.val && (cfgPorts cfg).contains x.port.val).foldl
    (fun (a : RxFrame × Nat × State) x =>
      let y := a.2.2.rxPort c cfg a.1 x
      (y.1, max a.2.1 y.2.1, y.2.2)) (r, 0, s)
  let n := cfgGet cfg F.CH_CFG_NUMER
  let soft := if a.2.1 = 0 then a.1.soft else a.1.soft ++ [(r.sym, softWeight n (cfgGet cfg F.CH_BLANK_ERASE) a.2.1)]
  let s1 := if s.blanks cfg && decide (r.sym ≠ 0) then a.2.2.blankSymbol c cfg a.2.1 else a.2.2
  s1.setChan c { s1.chan c with rx := some { a.1 with soft := soft } }

/-- The cells of an accepted codeword refine the precoded channel of a frame without scattered pilots (R134). -/
def State.ddEstimate (s : State) (c : Nat) (slot : Nat) (f : Fc) (cells : List CellObs) : State :=
  match (s.chan c).rx with
  | some r =>
    if r.slot ≠ slot ∨ s.rxPilots c f ≠ 0 then s
    else s.setChan c { s.chan c with rx := some { r with
      strm := mixRows 4 r.strm (cells.map fun x => ⟨x.port.val, x.stream, [(x.m, x.i, x.q)]⟩) } }
  | none => s

/-! Noise (R146). -/

/-- The noise that some samples show at a port: the power that template subtraction leaves on each carrier of the channel range, in blocks of
one symbol. DESIGN CHOICE (log 232): a shorter block counts by its length, and a block counts for the region of its middle sample. -/
def State.noiseFrom (s : State) (slot : Nat) (x : Samples) : State :=
  let c := x.chan.val
  match s.live c with
  | none => s
  | some cfg =>
    let n := cfgGet cfg F.CH_CFG_NUMER
    let l := s.subtract c x.port.val cfg slot x.list
    let lo := cfgGet cfg F.CH_BAND_M_LO
    let set := (List.range (cfgGet cfg F.CH_BAND_M_HI + 1 - lo)).map (lo + ·)
    (List.range (ceilDiv l.length (fftN n))).foldl (fun s k =>
      let b := (l.drop (k * fftN n)).take (fftN n)
      let at_ := ((b[b.length / 2]?).map (·.1)).getD 0
      s.noiseIn c (s.regionAt (slot * 2 ^ 20 + at_)) x.port.val
        ((carriersOf n (b.map (·.2)) set).map fun e => (e.1, cPow e.2 * fftN n / max 1 b.length))) s

/-! Soundings received (R145, R146, R153). -/

/-- The channel that the kept symbols of a sounding show in a region, the sounder transmitting on `np` ports. -/
def soundRows (np : Nat) (set : List Nat) (rows : List (Nat × HRow)) : List HRow :=
  ((rows.map (·.2.rx)).eraseDups).flatMap fun rx => (List.range np).map fun p =>
    ⟨rx, p, interp ((rows.filter fun e => decide (e.2.rx = rx)).flatMap fun e =>
      ((e.2.h.zipIdx).filter fun y => decide ((y.2 + e.1) % np = p)).map fun y => (y.1.1, cScale y.1.2 (rootFix 1 np) (2 ^ 20))) set⟩

/-- A link takes up a sounding, region by region. -/
def State.soundLink (s : State) (cfg : List Word) (l : Link5) (np slot : Nat) (rows : List (Nat × HRow)) : Link5 :=
  let set := s.setAt l.chan cfg slot
  let nFc := (fcLayout (cfgGet cfg F.CH_CFG_NUMER) (fcCarriers set)).1
  let reg := fun (u : Nat) => s.regionAt (s.centreAt cfg slot 1 nFc (u + 1) + s.nsToCt l.delayNs)
  ((rows.map fun e => reg e.1).eraseDups).foldl (fun l r =>
    l.addSounding r (soundRows np set (rows.filter fun e => decide (reg e.1 = r)))) l

/-- Whether a sounding calls for a new map (R153). -/
def State.wantsMap (s : State) (l : Link5) (cfg : List Word) (np score : Nat) : Bool :=
  l.stale || match l.rx.cur with
    | none => true
    | some m => decide (s.currentScore l cfg m * (100 + cfgGet cfg F.CH_ADP_CTRL_UPD_GAIN) ≤ score * 100) || s.lowMargin l cfg m ||
        decide (s.tmapGet (blockWord m.block) / 2 ^ 8 % 4 + 1 ≠ np)

/-- SOUNDING_RX: the record of a sounding received on a channel, whose symbols have been kept. -/
def execSoundingRx (c : Fin 64) (x : Sounding) (s : State) : Host.Outcome State Fault Refusal :=
  .next (
    match s.live c.val with
    | none => s
    | some cfg =>
      let kept := ((s.chan c.val).snd).getD (s.slot, [])
      if !soundingGood ((s.symbolsAt c.val cfg kept.1).1 - 1) x then s
      else
        let np := x.ports % 4 + 1
        let l := s.soundLink cfg { s.link c.val x.sounder with theta := x.theta, usedSf := s.sf } np kept.1 kept.2
        let s1 := ((s.setLink l).setChan c.val { (s.setLink l).chan c.val with snd := none }).ranging c.val x
        if !cfgFlag cfg F.CH_ADP_CTRL_AUTO_PROPOSE then s1
        else match s1.buildMap c.val cfg (s1.link c.val x.sounder) (!s1.zcLocked) with
          | some b => if s1.wantsMap (s1.link c.val x.sounder) cfg np b.2 then s1.propose c.val x.sounder else s1
          | none => s1)

end Sys2Proof.Machine
end

