-- ==== Sys2Proof/Machine/Spindle.lean ====
section
/-! DEFINITION. The Spindle at work (R158 to R182): jobs, turns, deadlines, lane groups and their tests, and the outcome of
admission requests. -/

set_option Elab.async false

namespace Sys2Proof.Machine

/-! Records. -/

/-- A station's hidden state, station 1 to 6. -/
def State.stn (s : State) (k : Nat) : Stn := s.line.spx.stns.getD (k - 1) Stn.reset

/-- Replace it. -/
def State.setStn (s : State) (k : Nat) (x : Stn) : State :=
  { s with line := { s.line with spx := { s.line.spx with stns := s.line.spx.stns.set (k - 1) x } } }

/-- Replace the jobs. -/
def State.setJobs (s : State) (l : List Job) : State :=
  { s with line := { s.line with spx := { s.line.spx with jobs := l } } }

/-- Add a job; the number it gets is the one that `nextId` held. -/
def State.addJob (s : State) (j : Job) : State :=
  let x := s.line.spx
  { s with line := { s.line with spx :=
    { x with jobs := x.jobs ++ [{ j with id := x.nextId, since := x.turn, ran := 0, lane := none }], nextId := x.nextId + 1 } } }

/-- The number of the last job added. -/
def State.lastJob (s : State) : Nat := s.line.spx.nextId - 1

/-- A job to be added. -/
def newJob (stn : Nat) (kind : JobKind) (c port idx turns due : Nat) (needs : List Nat) : Job :=
  { id := 0, stn := stn, kind := kind, chan := c, port := port, idx := idx, turns := turns, ran := 0, due := due, since := 0,
    ready := none, needs := needs, lane := none, limit := 0, slot := 0, fc := 0 }

/-- Jobs that a predicate keeps. -/
def State.keepJobs (s : State) (f : Job → Bool) : State := s.setJobs (s.line.spx.jobs.filter f)

/-- Deadlines in force in nanoseconds (R164): SYM, and DEC not below it. -/
def State.symNs (s : State) : Nat := max 1 (s.fld (.spx 0) F.SPX_DEADLINE_SYM) * 250000
def State.decNs (s : State) : Nat := max s.symNs (s.fld (.spx 0) F.SPX_DEADLINE_DEC * 250000)

/-- T_L in nanoseconds. -/
def tlNs (n : Nat) : Nat := if n = 2 then 5000 else 50000

/-! Lane groups. -/

/-- Turns that a job takes: an FFT runs on the lane groups in service (R173). -/
def State.jobTurns (s : State) (j : Job) : Nat :=
  if j.stn = 1 then max 1 (ceilDiv j.turns (max 1 (s.lanesIn 1))) else j.turns

/-- Whether a job holds its lane group: it has started and has turns left to run. -/
def State.holds (s : State) (j : Job) : Bool := j.lane.isSome && decide (j.ran < s.jobTurns j)

/-- Whether a lane group is taken by a job; an FFT job holds the lane groups of its station that are in service. -/
def State.laneBusy (s : State) (k lg : Nat) : Bool :=
  s.line.spx.jobs.any fun j => decide (j.stn = k) && s.holds j &&
    (if k = 1 then (s.reg (stnPage 1) 0x050).getLsbD lg else decide (j.lane = some lg))

/-- Lane groups of a station that can take a job: in service, free, and not about to be tested. -/
def State.freeLanes (s : State) (k : Nat) : List Nat :=
  (List.range (stnG k + 1)).filter fun lg =>
    (s.reg (stnPage k) 0x050).getLsbD lg && !s.laneBusy k lg && decide ((s.stn k).test.map (·.1) ≠ some lg)

/-- Whether a station runs: enabled, its domain on, and its lane groups tested since the start. -/
def State.stnRuns (s : State) (k : Nat) : Bool :=
  s.enabled (stnPage k) && s.pageOn (stnPage k) && s.running && !s.softReset.contains (stnPage k)

/-- The bits of IN_SERVICE, RETIRED and the spare of a station. -/
def State.inService (s : State) (k lg : Nat) : Bool := (s.reg (stnPage k) 0x050).getLsbD lg
def State.setService (s : State) (k lg : Nat) (b : Bool) : State := s.setRegBit (stnPage k) 0x050 lg b
def State.retired (s : State) (k lg : Nat) : Bool := (s.reg (stnPage k) 0x054).getLsbD lg
def State.spareOk (s : State) (k : Nat) : Bool := s.flag (stnPage k) F.SPX_STN_SPARE_VALID
def State.spareLg (s : State) (k : Nat) : Nat := s.fld (stnPage k) F.SPX_STN_SPARE_SPARE

/-- The order of R165: deadline; then transmit before receive, FC before data, channel, ready time. -/
def jobKey (j : Job) : List Nat :=
  [j.due, (match j.kind with | .encode | .txSym => 0 | _ => 1), (match j.kind with | .fcDecode => 0 | _ => 1), j.chan, j.since]

/-- Lexicographic order. -/
def lexLt : List Nat → List Nat → Bool
  | a :: as, b :: bs => decide (a < b) || (decide (a = b) && lexLt as bs)
  | _, _ => false

/-- The job that goes first among some. -/
def firstJob (l : List Job) : Option Job :=
  l.foldl (fun b j => match b with | none => some j | some x => if lexLt (jobKey j) (jobKey x) then some j else some x) none

/-- Cycles that one iteration takes for the codeword of a Decode job (Table 06-3). -/
def decodeCycles (j : Job) : Nat :=
  let f := Fc.decode j.fc
  if j.kind = .fcDecode then 1096
  else match (if f.div = 0 then f.rate else 0), (fcLongs f).getD j.idx false with
    | 0, false => 1096 | 1, false => 936 | 2, false => 856 | 3, false => 776 | _, false => 760
    | 4, true => 3680 | _, true => 3536

/-- Start one job on a lane group: its wait is counted (R178, R182) and offered to the histogram units. A Decode job runs under the
iteration limit in force now (R162), for at most the turns that it allows (R161). -/
def State.startJob (s : State) (k lg : Nat) (j : Job) : State :=
  let w := s.line.spx.turn - j.since
  let x := s.stn k
  let i := s.fld (.spx 0) F.SPX_DEC_ITER_IN_FORCE
  let s1 := s.setJobs (s.line.spx.jobs.map fun y => if y.id = j.id then
    { y with lane := some lg, limit := i, turns := if k = 5 then decodeTurns i (decodeCycles j) else y.turns } else y)
  let s2 := s1.setStn k { x with started := x.started + 1, waitSum := (x.waitSum + w) % 2 ^ 64, waitMax := max x.waitMax w }
  (if 256 < w then s2.bump (stnPage k) 7 else s2).histSample 4 ⟨none, 0, k, false⟩
    (if s2.twn.took.any fun t => decide (j.since < t.2) then none else some w)

/-- Each free lane group of a station starts the ready job with the earliest deadline. -/
def State.startJobs (s : State) (k : Nat) : State :=
  if !s.stnRuns k then s
  else if k = 1 then
    if s.line.spx.jobs.any (fun j => decide (j.stn = 1) && s.holds j) || decide (s.lanesIn 1 = 0) ||
        (s.stn 1).test.any (fun t => !t.2.1 && s.inService 1 t.1) then s
    else match firstJob (s.line.spx.jobs.filter fun j => decide (j.stn = 1 ∧ j.needs = [] ∧ j.lane = none ∧ j.ready = none)) with
      | some j => s.startJob 1 0 j
      | none => s
  else (s.freeLanes k).foldl (fun s lg =>
    match firstJob (s.line.spx.jobs.filter fun j => decide (j.stn = k ∧ j.needs = [] ∧ j.lane = none)) with
    | some j => s.startJob k lg j
    | none => s) s

/-! Tests of lane groups (R175 to R177). -/

/-- Make a lane group the spare, or leave the station without one. -/
def State.setSpare (s : State) (k : Nat) (lg : Option Nat) : State :=
  let p := stnPage k
  match lg with
  | some g => ((s.setFld p F.SPX_STN_SPARE_SPARE g).setFlag p F.SPX_STN_SPARE_VALID true).setStatus p 17 false
  | none => (s.setFlag p F.SPX_STN_SPARE_VALID false).setStatus p 17 true

/-- The spare of a station has taken another place: a lane group held in reserve becomes it, or there is none. -/
def State.nextSpare (s : State) (k : Nat) : State :=
  let x := s.stn k
  match (List.range 17).find? fun g => bitOf x.reserve g with
  | some g => (s.setStn k { x with reserve := setBitOf x.reserve g false }).setSpare k (some g)
  | none => s.setSpare k none

/-- A station loses its spare: where no other takes its place SPARE_LOST sets. -/
def State.loseSpare (s : State) (k : Nat) : State :=
  let s1 := s.nextSpare k
  if s1.spareOk k then s1 else s1.event (stnPage k) 3

/-- Retire a lane group. -/
def State.retireLg (s : State) (k lg : Nat) : State :=
  let p := stnPage k
  let s1 := ((s.setRegBit p 0x054 lg true).fault p 2 lg).event p 4
  if s1.inService k lg then
    let s2 := s1.setService k lg false
    if s2.spareOk k then ((s2.setService k (s2.spareLg k) true).bump p 4).loseSpare k
    else s2.fault p 3 lg
  else if s1.spareOk k && decide (s1.spareLg k = lg) then s1.loseSpare k
  else
    let x := s1.stn k
    s1.setStn k { x with reserve := setBitOf x.reserve lg false }

/-- Begin the test of the lane group that awaits one, once it runs no job. -/
def State.beginTest (s : State) (k : Nat) : State :=
  let p := stnPage k
  let x := s.stn k
  match x.test with
  | some (lg, false, _) =>
    if s.laneBusy k lg then s
    else
      let spare := s.spareOk k
      let back := s.inService k lg && !spare
      let s1 := if s.inService k lg then
          let s1 := s.setService k lg false
          if spare then ((s1.setService k (s.spareLg k) true).bump p 4).nextSpare k else s1
        else if spare && decide (s.spareLg k = lg) then s.nextSpare k
        else s
      (((s1.setStn k { s1.stn k with test := some (lg, true, back) }).setFlag p F.SPX_STN_SPARE_TESTING true).setFld p
        F.SPX_STN_SPARE_TEST_LG lg).setStatus p 16 true |>.bump p 5
  | _ => s

/-- LG_TEST_PERIOD: the period of a station's rotation has passed (R175). -/
def execLgTestPeriod (k : Fin 6) (s : State) : Host.Outcome State Fault Refusal :=
  .next (
    let k := k.val + 1
    let x := s.stn k
    if s.flag (.spx 0) F.SPX_TEST_CTRL_AUTO && s.stnRuns k && x.test.isNone && s.spareOk k then
      match ((List.range (stnG k + 1)).map fun i => (x.nextLg + i) % (stnG k + 1)).find? fun g =>
          !s.retired k g && !bitOf x.reserve g with
      | some g => (s.setStn k { x with test := some (g, false, false), nextLg := (g + 1) % (stnG k + 1) }).beginTest k
      | none => s
    else s)

/-- A write of `SPX_STN_TEST`: START tests LG, ignored while a test runs or for a lane group above G (R176). -/
def stnTestWrite (k : Nat) (p : Page) (w : Word) (s : State) : State :=
  let s1 := applyWrite p 0x05C w s
  let lg := s1.fld p F.SPX_STN_TEST_LG
  let x := s1.stn k
  if w.getLsbD 5 && x.test.isNone && decide (lg ≤ stnG k) then (s1.setStn k { x with test := some (lg, false, false) }).beginTest k
  else s1

/-- LG_TEST_START: a write of `SPX_STN_TEST`. -/
def execLgTestStart (q : Req) (k : Fin 6) (s : State) : Host.Outcome State Fault Refusal :=
  .next (writeWord q (stnPage (k.val + 1)) 0x05C (stnTestWrite (k.val + 1)) s)

/-- LG_TEST_DONE: the 2,048 turns of a test have passed, with its outcome (R175 to R177). -/
def execLgTestDone (k : Fin 6) (pass : Bool) (s : State) : Host.Outcome State Fault Refusal :=
  .next (
    let k := k.val + 1
    let p := stnPage k
    let x := s.stn k
    match x.test with
    | some (lg, true, back) =>
      let s0 := ((s.setStn k { x with test := none }).setFlag p F.SPX_STN_SPARE_TESTING false).setStatus p 16 false
      let s1 := s0.event p 1
      if pass then
        let s2 := s1.setRegBit p 0x054 lg false
        if back then s2.setService k lg true
        else if s2.spareOk k then s2.setStn k { s2.stn k with reserve := setBitOf (s2.stn k).reserve lg true }
        else s2.setSpare k (some lg)
      else
        let s2 := s1.bump p 6
        let had := s2.retired k lg
        if back then (s2.setService k lg true).retireLg k lg
        else
          let s3 := s2.retireLg k lg
          if !had && !s3.spareOk k then s3.loseSpare k else s3
    | _ => s)

/-- LG_SELF_CHECK_FAIL: a lane group's self-check fails during a job: it is retired and the job starts anew (R177). -/
def execLgSelfCheckFail (k : Fin 6) (lg : Nat) (s : State) : Host.Outcome State Fault Refusal :=
  .next (
    let k := k.val + 1
    if s.laneBusy k lg && s.inService k lg then
      (s.setJobs (s.line.spx.jobs.map fun j =>
        if decide (j.stn = k) && (decide (k = 1) || decide (j.lane = some lg)) then { j with lane := none, ran := 0 }
        else j)).retireLg k lg
    else s)

/-! Turns. -/

/-- The corridor time as the turns since the last command that named one have carried it on (R158). -/
def State.nowCt (s : State) : Nat :=
  let x := s.line.spx
  if x.mark.1 = s.ct then s.ct + s.nsToCt ((x.turn - x.mark.2) * 640 / 3) else s.ct

/-- TURN_BOUNDARY: a turn ends, and free lane groups start the ready jobs with the earliest deadlines (R165). A lane group whose job has
run its turns is free. -/
def execTurnBoundary (s : State) : Host.Outcome State Fault Refusal :=
  .next (
    let x := s.line.spx
    let s0 : State := { s with line := { s.line with spx :=
      { x with turn := x.turn + 1, mark := if x.mark.1 = s.ct then x.mark else (s.ct, x.turn) } } }
    let now := s0.nowCt
    let s1 := s0.setJobs (x.jobs.map fun j =>
      let j1 := if s.holds j then { j with ran := j.ran + 1 } else j
      if j1.ready.any fun t => decide (t ≤ now) then { j1 with ready := none, since := x.turn + 1 } else j1)
    (List.range 6).foldl (fun s' i =>
      let k := i + 1
      let run := (x.jobs.filter fun j => decide (j.stn = k) && s.holds j).length * (if k = 1 then s.lanesIn 1 else 1)
      let y := s'.stn k
      let s2 := (s'.setStn k { y with busy := y.busy + run, avail := y.avail + s'.lanesIn k }).bumpBy (stnPage k) 1 run
      (s2.beginTest k).startJobs k) s1)

/-- Remove a job that has completed or ended; where it completed, its successors no longer wait for it, and are ready from
this turn on. -/
def State.endJob (s : State) (id : Nat) (done : Bool) : State :=
  s.setJobs ((s.line.spx.jobs.filter fun j => decide (j.id ≠ id)).map fun j =>
    if done && j.needs.contains id then { j with needs := j.needs.filter (· ≠ id), since := s.line.spx.turn } else j)

/-- A job by its number. -/
def State.job? (s : State) (id : Nat) : Option Job := s.line.spx.jobs.find? fun j => decide (j.id = id)

/-- The tones of a deadline: in corridor time, `ns` after an instant. -/
def State.dueAfter (s : State) (ct ns : Nat) : Nat := ct + s.nsToCt ns

/-- Cells, as coded bits, of each codeword of a received frame with its copies. -/
def cwLens (f : Fc) : List Nat := (fcLongs f).map fun b => (if f.div = 0 then 1 else 2 ^ (f.div + 1)) * codeBits b

/-- The link that a frame of a channel came on, so far as its FC tells: by its map, or the only link of the channel. -/
def State.fcLink (s : State) (c : Nat) (f : Fc) : Option Link5 :=
  if f.tmapId ≠ 0 then s.rxMap? c f.tmapId
  else match s.line.links.filter fun l => decide (l.chan = c) with | [x] => some x | _ => none

/-- Outcomes of codewords enter a link's record: the last 256 of each region (R155). -/
def Link5.count (l : Link5) (region : Nat) (failed : Bool) : Link5 :=
  let same := l.cw.filter fun e => decide (e.1 = region)
  { l with cw := (l.cw.filter fun e => decide (e.1 ≠ region)) ++ ((region, failed) :: same).take 256 }

/-- The outcome of a codeword enters its link's record, in the region of the last symbol with cells of it. Where the FC does not tell the
link, it waits for a MAC frame of the transmission. -/
def State.cwStat (s : State) (j : Job) (ok : Bool) : State :=
  match s.live j.chan with
  | none => s
  | some cfg =>
    let f := Fc.decode j.fc
    let nFc := (fcLayout (cfgGet cfg F.CH_CFG_NUMER) (fcCarriers (s.setAt j.chan cfg j.slot))).1
    let t := lastSymOf (s.rxBits j.chan cfg j.slot f) (cwLens f) j.idx
    let at_ := s.centreAt cfg j.slot (s.entryAt j.chan cfg j.slot).len nFc t
    match s.fcLink j.chan f with
    | some l => s.setLink (l.count (s.regionAt (at_ + s.nsToCt l.delayNs)) !ok)
    | none =>
      let x := s.chan j.chan
      let held := if x.cwHeld.1 = j.slot then x.cwHeld.2 else []
      s.setChan j.chan { x with cwHeld := (j.slot, held ++ [(s.regionAt at_, !ok)]) }

/-- The data symbols that hold cells of codeword `k`. -/
def symsOf (bits lens : List Nat) (k : Nat) : List Nat :=
  let lo := (lens.take k).sum
  (List.range (lastSymOf bits lens k + 1)).filter fun t => decide (lo < (bits.take (t + 1)).sum)

/-- The Decode job of a data codeword is created with the Demap of the last symbol that holds its cells; a codeword with cells in a late
symbol is dropped without decoding (R167). -/
def State.addDecodes (s : State) (c : Nat) (r : RxFrame) (nFc : Nat) (f : Fc) (bits : List Nat) (t need : Nat) : State :=
  let lens := cwLens f
  (List.range lens.length).foldl (fun s k =>
    if lastSymOf bits lens k = t then
      let j : Job := { newJob 5 .dataDecode c 0 k 0 (s.dueAfter s.ct s.decNs) [need] with slot := r.slot, fc := f.encode }
      if (symsOf bits lens k).any fun u => r.late.contains (1 + nFc + u) then (s.bump (.spx 0) 3).cwStat j false
      else s.addJob { j with turns := decodeTurns (s.fld (.spx 0) F.SPX_DEC_ITER_IN_FORCE) (decodeCycles j) }
    else s) s

/-- The Sense and FFT jobs of one symbol on each receive port: work on samples goes before the transform, estimation after it (R160).
`fft`: whether it is transformed. Answers the jobs that end it. -/
def State.addSense (s : State) (c : Nat) (cfg : List Word) (r : RxFrame) (fft : Bool) : State × List Nat :=
  let n := cfgGet cfg F.CH_CFG_NUMER
  let filt := cfgFlag cfg F.CH_ADP_CTRL_TPL_EN || cfgFlag cfg F.CH_ADP_CTRL_BLANK_EN
  let sense := (if n = 2 then 2 else 1) + (if filt then 1 else 0) + (if r.ty = tySound then 2 else 0)
  let job := fun (s : State) (stn p turns : Nat) (needs : List Nat) =>
    ({ newJob stn .rxSym c p r.sym turns (s.dueAfter s.ct s.symNs) needs with slot := r.slot } : Job)
  let pairs := if (s.chan c).fd && (s.chan c).tx.isSome then s.txPorts cfg else []
  (s.servicePorts cfg).foldl (fun (a : State × List Nat) p =>
    let s0 := a.1
    let first := if filt || !fft then let t := s0.addJob (job s0 2 p sense []); (t, [t.lastJob]) else (s0, [])
    let echo := pairs.foldl (fun (b : State × List Nat) _ =>
      let t := b.1.addJob (job s0 2 p (ceilDiv (fftN n + cpSamples n (cfgGet cfg F.CH_CFG_CP)) 64) [])
      (t, b.2 ++ [t.lastJob])) first
    if !fft then (echo.1, a.2 ++ echo.2)
    else
      let t := echo.1.addJob (job s0 1 p (fftTurns n) echo.2)
      if filt then (t, a.2 ++ [t.lastJob])
      else let u := t.addJob (job s0 2 p sense [t.lastJob]); (u, a.2 ++ [u.lastJob])) (s, [])

/-- The receive jobs of symbol `r.sym` of a frame, which has just ended (Table 06-2, Table 06-4): Sense and transform on each port, of the
preamble's symbols all but the first with a transform, of a seam pilot before it too; detection and demapping; and the decodes that the
symbol completes. -/
def State.addRxJobs (s : State) (c : Nat) (cfg : List Word) (r : RxFrame) : State :=
  let n := cfgGet cfg F.CH_CFG_NUMER
  let e := s.entryAt c cfg r.slot
  let ports := s.servicePorts cfg
  let nFc := (fcLayout n (fcCarriers r.set)).1
  let t := r.sym - 1 - nFc
  let more := fun (s : State) (k : Nat) => (List.range k).foldl (fun s _ => (s.addSense c cfg r true).1) s
  if r.sym = 0 then more (s.addSense c cfg r false).1 (if n = 2 then 3 else 1)
  else
    let from_ := entryGuardNs n (r.ty = tyContend) + preNs n + nFc * Sys2Proof.Machine.symNs n (cfgGet cfg F.CH_CFG_CP)
    let s0 := if nFc < r.sym ∧ seamBefore n (cfgGet cfg F.CH_CFG_CP) from_ e.len s.slotNs t then more s 1 else s
    let fft := s0.addSense c cfg r true
    let f := r.fc.map Fc.decode
    if nFc < r.sym ∧ (f.any fun f => decide (f.ftype = 4 ∧ t ≠ 0)) then fft.1
    else
      let job := fun (stn turns : Nat) (needs : List Nat) =>
        ({ newJob stn .rxSym c 0 r.sym turns (s.dueAfter s.ct s.symNs) needs with slot := r.slot } : Job)
      let k := (f.map fun f => f.streams + 1).getD 1
      let s1 := fft.1.addJob (job 3 (max 1 (ceilDiv (r.set.length * ports.length * k) 2048)) fft.2)
      let bits := match f with
        | some f => s.rxBits c cfg r.slot f
        | none => []
      let coded := if r.sym ≤ nFc then 2 * fcCarriers r.set
        else bits.getD t 0 / (if f.any fun f => decide (f.div ≠ 0) then 2 else 1)
      let s2 := s1.addJob (job 4 (max 1 (ceilDiv coded 4096)) [s1.lastJob])
      let dm := s2.lastJob
      if r.sym = nFc then
        s2.addJob { newJob 5 .fcDecode c 0 0 (decodeTurns (s.fld (.spx 0) F.SPX_DEC_ITER_IN_FORCE) 1096)
          (s.dueAfter s.ct 500000) [dm] with slot := r.slot }
      else match f with
        | some f => if nFc < r.sym then s2.addDecodes c r nFc f bits t dm else s2
        | none => s2

/-! Transmit jobs (R27, R164). -/

/-- The deadline of the transmit work of a symbol: its first sample less T_L (R164). -/
def State.txDue (s : State) (cfg : List Word) (x : Tx) (k : Nat) : Nat :=
  let n := cfgGet cfg F.CH_CFG_NUMER
  x.slot * 2 ^ 20 + s.nsToCt (symAtNs n (cfgGet cfg F.CH_CFG_CP) (x.ty = tyContend) x.nFc x.len s.slotNs k) - s.nsToCt (tlNs n)

/-- The codewords of a transmission: whether each is long. -/
def Tx.longs (x : Tx) : List Bool := if (Fc.decode x.fc).ftype = 3 then [false] else fcLongs (Fc.decode x.fc)

/-- The Encode job of a codeword, due for the first symbol that holds its cells. -/
def State.addEncode (s : State) (c : Nat) (cfg : List Word) (x : Tx) (k : Nat) (long : Bool) : State :=
  let sym := ((List.range x.nd).find? fun t => (x.cwIn t).contains k).getD 0
  s.addJob { newJob 6 .encode c 0 k (if long then 3 else 1) (s.txDue cfg x (1 + x.nFc + sym)) [] with slot := x.slot }

/-- Relayed codewords take the places `from_` to `upto` of a transmission on air: each gets an Encode job for the symbol in which it is
placed, which the symbols' Map jobs wait for in place of that of the empty codeword (R28, R164, R239). -/
def State.refill (s : State) (c : Nat) (cfg : List Word) (x : Tx) (from_ upto : Nat) : State :=
  ((x.longs.zipIdx).filter fun e => decide (from_ ≤ e.2 ∧ e.2 < upto)).foldl (fun s e =>
    let old := fun (j : Job) => decide (j.kind = .encode ∧ j.chan = c ∧ j.slot = x.slot ∧ j.idx = e.2 ∧ j.lane = none)
    let s1 := (s.keepJobs fun j => !old j).addEncode c cfg x e.2 e.1
    let new := s1.lastJob
    let syms := ((List.range x.nd).filter fun t => (x.cwIn t).contains e.2).map (1 + x.nFc + ·)
    let waits := fun (j : Job) =>
      if j.kind = .txSym ∧ j.stn = 6 ∧ j.chan = c ∧ j.slot = x.slot ∧ syms.contains j.idx = true then { j with needs := j.needs ++ [new] } else j
    { s1 with line := { s1.line with spx := { s1.line.spx with jobs := s1.line.spx.jobs.map waits } } }) s

/-- The jobs of a transmission of a channel: the encoding of each codeword, and the mapping and transforms of each symbol,
with the deadlines of Table 06-4. -/
def State.addTxJobs (s : State) (c : Nat) (cfg : List Word) (x : Tx) : State :=
  let n := cfgGet cfg F.CH_CFG_NUMER
  let start := s.txDue cfg x
  let enc := (x.longs.zipIdx).foldl (fun (a : State × List Nat) e =>
    let s1 := a.1.addEncode c cfg x e.2 e.1
    (s1, a.2 ++ [s1.lastJob])) (s, [])
  let set := x.set
  let ports := s.txPorts cfg
  (List.range x.syms).foldl (fun s k =>
    let needs := if k ≤ x.nFc then [] else (x.cwIn (k - 1 - x.nFc)).map fun w => enc.2.getD w 0
    let s1 := s.addJob { newJob 6 .txSym c 0 k (max 1 (ceilDiv (set.length * ports.length) 2048)) (start k) needs with slot := x.slot }
    let m := s1.lastJob
    ports.foldl (fun s p => s.addJob { newJob 1 .txSym c p k (fftTurns n) (start k) [m] with slot := x.slot }) s1) enc.1

/-! Ends of jobs. -/

/-- SPINDLE_JOB_DONE: a job has run its turns, and completes (R160). Decode jobs end by FC_DECODE and DECODE_DONE. -/
def execSpindleJobDone (id : Nat) (s : State) : Host.Outcome State Fault Refusal :=
  .next (
    match s.job? id with
    | some j =>
      if j.lane.isSome && decide (s.jobTurns j ≤ j.ran) && decide (j.kind ≠ .fcDecode) && decide (j.kind ≠ .dataDecode) then
        ((s.endJob id true).bump (stnPage j.stn) 0).beginTest j.stn
      else s
    | none => s)

/-- The encode work reserved for a flood is free again (R225). -/
def State.unreserve (s : State) (c : Nat) : State := s.setChan c { s.chan c with reserve := none }

/-- The frame under reception ends before its payload: its gain is free again (R75), and its jobs are dropped. -/
def State.endRx (s : State) (c : Nat) : State :=
  match (s.chan c).rx with
  | none => s
  | some r => (s.setChan c { s.chan c with rx := none, frozen := false }).keepJobs fun j =>
      !(decide (j.chan = c ∧ j.slot = r.slot) && (match j.kind with | .encode | .txSym | .quiet | .search => false | _ => true))

/-- A late symbol of a transmission that begins at a slot is sent as zero (R167). -/
def State.lateTx (s : State) (c slot k : Nat) : State :=
  let mark := fun (x : Tx) => { x with late := x.late ++ [k] }
  let ch := s.chan c
  let hit := fun (o : Option Tx) => o.any fun x => decide (x.slot = slot) && !x.late.contains k
  let count := fun (s : State) => (s.bump (.spx 0) 4).event (.spx 0) 1
  if hit ch.tx then count ((s.setChan c { ch with tx := ch.tx.map mark }).emit (.zeroSymbol c k))
  else if hit ch.prep then count (s.setChan c { ch with prep := ch.prep.map mark })
  else if hit ch.later then count (s.setChan c { ch with later := ch.later.map mark })
  else s

/-- The transmission of a channel that begins at a slot. -/
def Chan.txAt (x : Chan) (slot : Nat) : Option Tx :=
  (x.tx.toList ++ x.prep.toList ++ x.later.toList).find? fun t => decide (t.slot = slot)

/-- A relayed codeword misses its symbol: the frame that it belongs to waits for the next owned slot, and the codewords that follow take
its place (R28). What the frame has sent of itself stays. -/
def State.relayLate (s : State) (c : Nat) (x : Tx) (k : Nat) : State :=
  let pos := fun i => positionsOf x.infos (x.bytes.take i)
  match (List.range x.bytes.length).find? fun i => decide (k < pos (i + 1)) with
  | none => s
  | some i =>
    let keep := ((x.infos.drop (pos i)).take (k - pos i)).sum / 8
    let bytes := x.bytes.take i ++ (if keep = 0 then [] else [((x.bytes.getD i []).take keep)]) ++ x.bytes.drop (i + 1)
    let id := x.frames.getD i 0
    let y : Tx := { x with bytes := bytes, frames := x.frames.take i ++ (if keep = 0 then [] else [0]) ++ x.frames.drop (i + 1) }
    let s1 := s.mapFrames fun f => if f.id = id then { f with st := .ready } else f
    (s1.setChan c { s1.chan c with tx := some y }).emit (.fill c k (y.coded.drop k))

/-- A job is taken from the Spindle as late: dropped before it started, or stopped (R167, R182). -/
def State.takeLate (s : State) (j : Job) : State :=
  let s1 := (s.endJob j.id false).bump (stnPage j.stn) (if j.lane.isSome then 3 else 2)
  s1.setStn j.stn { s1.stn j.stn with late := true }

/-- A late FC codeword: the frame is dropped as one whose FC failed (R167). -/
def State.lateFc (s : State) (c slot : Nat) : State :=
  let s2 := ((s.bump (.spx 0) 5).event (.spx 0) 1).bump (chPage c) 2
  if ((s2.chan c).rx.map (·.slot)) = some slot then s2.endRx c else s2

/-- A receive symbol is late: its jobs that have not started are dropped, with the decodes that wait for them, and every codeword with
cells in it fails (R167). -/
def State.lateSymbol (s : State) (j : Job) : State :=
  let gone := s.line.spx.jobs.filter fun y => decide (y.kind = .rxSym ∧ y.chan = j.chan ∧ y.slot = j.slot ∧ y.idx = j.idx ∧ y.lane = none)
  let ids := gone.map (·.id)
  let after := s.line.spx.jobs.filter fun y => (decide (y.kind = .fcDecode) || decide (y.kind = .dataDecode)) && y.needs.any ids.contains
  let s1 := gone.foldl State.takeLate s
  let s2 := (s1.bump (.spx 0) 2).event (.spx 0) 1
  let s3 := match (s2.chan j.chan).rx with
    | some r => if r.slot = j.slot then
        s2.setChan j.chan { s2.chan j.chan with rx := some { r with late := r.late ++ [j.idx] } } else s2
    | none => s2
  after.foldl (fun s y =>
    let t := s.takeLate y
    if y.kind = .fcDecode then t.lateFc y.chan y.slot else (t.bump (.spx 0) 3).cwStat y false) s3

/-- What a job's lateness does (R167): `ok` when a running Decode job's syndrome was zero at the end of its last complete iteration. With
`off` its station goes: a job that has started is abandoned (R168). -/
def State.jobLate (s : State) (id : Nat) (ok off : Bool) : State :=
  match s.job? id with
  | none => s
  | some j =>
    let running := j.lane.isSome
    match j.kind with
    | .search => if running && !off then s else s.takeLate j
    | .rxSym => if running && !off then s else (if running then s.takeLate j else s).lateSymbol j
    | .fcDecode =>
      let s1 := s.takeLate j
      if running && ok then s1 else s1.lateFc j.chan j.slot
    | .dataDecode =>
      let s1 := s.takeLate j
      if running && ok then (s1.bump (.spx 0) 7).cwStat j true else (s1.bump (.spx 0) 3).cwStat j false
    | .quiet =>
      if running && !off then s
      else
        let s1 := s.takeLate j
        let s2 := if (s1.chan j.chan).lost = [] then s1.quietSkip j.chan else s1
        s2.setChan j.chan { s2.chan j.chan with lost := (s2.chan j.chan).lost ++ [(j.port, j.idx)] }
    | .encode =>
      let s1 := s.takeLate j
      match (s1.chan j.chan).txAt j.slot with
      | some x =>
        if x.relay && decide (x.ty = tyTx ∧ (Fc.decode x.fc).div = 0) && ((s1.chan j.chan).tx.any fun y => decide (y.slot = j.slot)) then
          s1.relayLate j.chan x j.idx
        else s1.lateTx j.chan j.slot (1 + x.nFc + ((List.range x.nd).find? fun t => (x.cwIn t).contains j.idx).getD 0)
      | none => s1
    | .txSym =>
      let others := s.line.spx.jobs.filter fun y => decide (y.kind = .txSym ∧ y.chan = j.chan ∧ y.slot = j.slot ∧ y.idx = j.idx)
      (others.foldl State.takeLate s).lateTx j.chan j.slot j.idx

/-- JOB_DEADLINE: a job's deadline passes before it has completed. -/
def execJobDeadline (id : Nat) (ok : Bool) (s : State) : Host.Outcome State Fault Refusal := .next (s.jobLate id ok false)

/-- Jobs of a station are late with it: those that it has started where it is reset, all of them where its domain is switched off (R168). -/
def State.abandonJobs (s : State) (k : Nat) (all : Bool) : State :=
  ((s.line.spx.jobs.filter fun j => decide (j.stn = k) && (all || j.lane.isSome)).map (·.id)).foldl (fun s i => s.jobLate i false true) s

/-- Whether a Decode job that has run can have finished `iters` iterations: within its limit, and not before their turns (R161, R163). -/
def decodeRan (j : Job) (iters : Nat) : Bool :=
  decide (1 ≤ iters ∧ iters ≤ j.limit ∧ decodeTurns iters (decodeCycles j) ≤ j.ran)

/-- Learning from the residual samples of data symbols, all of whose codewords have been accepted (R138). -/
def State.residLearn (s : State) (c : Nat) (slot : Nat) (f : Fc) (resid : List (Nat × Samples)) : State :=
  match s.live c with
  | none => s
  | some cfg =>
    let bits := s.rxBits c cfg slot f
    let lens := cwLens f
    let done := if (s.chan c).passed.1 = slot then (s.chan c).passed.2 else []
    resid.foldl (fun s x =>
      if decide (x.2.chan.val = c) && (List.range lens.length).all fun k => !(symsOf bits lens k).contains x.1 || done.contains k
      then s.ddLearn slot x.2 else s) s

/-- DECODE_DONE: a data codeword of a channel's frame reaches a zero syndrome after some iterations, or its limit (R163), given as its
information and parity blocks; where it is accepted, with the residual samples of data symbols for noise templates (R138) and what its
cells show of the channel (R134). -/
def execDecodeDone (c : Fin 64) (k iters : Nat) (info parity : List Nat) (resid : List (Nat × Samples)) (cells : List CellObs) (s : State) :
    Host.Outcome State Fault Refusal :=
  .next (
    match s.line.spx.jobs.find? fun j => decide (j.chan = c.val ∧ j.kind = .dataDecode ∧ j.idx = k) && j.lane.isSome with
    | some j =>
      let f := Fc.decode j.fc
      let long := (fcLongs f).getD k false
      let ended := fun (s : State) => (s.endJob j.id true).bump (stnPage 5) 0
      if !decodeRan j iters then s
      else if ldpcOk (if f.div = 0 then f.rate else 0) (liftZ long) info parity then
        let s1 := ((ended s).bump (.spx 0) 7).cwStat j true
        let x := s1.chan c.val
        let done := if x.passed.1 = j.slot then x.passed.2 else []
        let s2 := s1.setChan c.val { x with passed := (j.slot, done ++ [k]) }
        (s2.residLearn c.val j.slot f resid).ddEstimate c.val j.slot f cells
      else if j.limit ≤ iters then (((ended s).bump (.spx 0) 6).cwStat j false).unreserve c.val
      else s
    | none => s)

/-- Whether the slot in progress binds receive chains on a channel (Table 07-4): a BEACON or SOUND entry where the node does not transmit in
it. -/
def State.binds (s : State) (c : Nat) (cfg : List Word) : Bool :=
  let x := s.chan c
  let e := s.entryAt c cfg s.slot
  bindsChain e.ty (x.fd || x.split) (x.tpl != []) && (decide (e.ty ≠ tyBeacon ∧ e.ty ≠ tySound) || x.tx.isNone)

/-- The carriers of a channel on which the node searches while it holds no corridor time: all of its range, or the anchor sub-band where it
hops (R188). -/
def State.searchSet (s : State) (cfg : List Word) : List Nat :=
  let b := cfgGet cfg F.CH_FIG_ANCHOR % cfgSb cfg
  (carrierSet (cfgGet cfg F.CH_CFG_NUMER) (cfgSb cfg) (cfgGet cfg F.CH_BAND_M_LO) (cfgGet cfg F.CH_BAND_M_HI)
    (if cfgFlag cfg F.CH_CFG_HOP_EN then 2 ^ b else 2 ^ cfgSb cfg - 1)).filter fun m => !s.notched cfg m

/-- Whether SY1 may be detected on a channel at a corridor time (R104, R188): within the window of an entry's head, at any time without
corridor time. -/
def State.searches (s : State) (c : Nat) (cfg : List Word) (at_ : Nat) : Bool :=
  let e := s.entryAt c cfg s.slot
  let n := cfgGet cfg F.CH_CFG_NUMER
  let con := decide (e.ty = tyContend)
  let t := at_ - s.slot * 2 ^ 20
  !s.sync || (s.binds c cfg && decide (e.ty ≠ tyQuiet ∧ e.pos = 0) &&
    decide (s.nsToCt (entryGuardNs n con - 10000 - (if con then 8 * miniNs n else 0)) ≤ t ∧
      t ≤ s.nsToCt (entryGuardNs n con + cfgAllow cfg + 10000)))

/-- SY1_DETECT: SY1 is detected on a channel: the frame's reception begins and the gain of its ports freezes (R75, R104). `np` is one less
than the transmitting ports that the receiver takes SY2 to be combed over (DESIGN CHOICE, log 227). -/
def execSy1Detect (c : Fin 64) (frac : Nat) (np : Fin 4) (s : State) : Host.Outcome State Fault Refusal :=
  .next (
    let ch := s.chan c.val
    let at_ := s.slot * 2 ^ 20 + frac % 2 ^ 20
    match s.live c.val with
    | some cfg =>
      if s.searches c.val cfg at_ && !s.rxNow c.val && (ch.tx.isNone || ch.fd || ch.split) && (s.servicePorts cfg != []) then
        let slot := s.slot - (if s.sync then (s.entryAt c.val cfg s.slot).pos else 0)
        let set := if s.sync then s.setAt c.val cfg s.slot else s.searchSet cfg
        let r : RxFrame := ⟨slot, ch.ty, at_, none, set, np.val + 1, 0, [], [], [], [], []⟩
        let y := if ch.ty = tySound then { ch with snd := some (slot, []) } else ch
        ({ s with ct := at_ }).setChan c.val { y with frozen := true, rx := some r }
      else s
    | none => s)

/-- Whether the codewords that an FC declares fit in its symbols (R113). -/
def State.codewordsFit (s : State) (c : Nat) (cfg : List Word) (slot : Nat) (f : Fc) : Bool :=
  let set := s.setAt c cfg slot
  let nd := f.dataSyms
  if f.div ≠ 0 then
    let cells := plainCells nd set
    let m := 2 ^ f.div
    decide (1 ≤ f.cwCount) && decide ((f.cwCount - 1) * m * 1152 ≤ cells) && decide (584 ≤ divLast m cells f.cwCount)
  else
    decide (codedBits f.cwLen f.cwCount f.cwFill ≤ (s.rxBits c cfg slot f).sum)

/-- The first REEL slot of a channel after a slot, of its next two superframes. -/
def State.nextReel (s : State) (c : Nat) (cfg : List Word) (slot : Nat) : Option Nat :=
  ((List.range 128).map (slot + 1 + ·)).find? fun t => let e := s.entryAt c cfg t; decide (e.ty = tyReel ∧ e.pos = 0)

/-- FC_DECODE: the decoder delivers 120 bits of frame control with the parity of their codeword after some iterations (R163); the frame is
kept or dropped (R112, R113). A map that is not held brings a proposal for the link that the device takes the frame to come on (R153), and a
flood with hops left reserves the encode work of the next REEL slot (R225). -/
def execFcDecode (c : Fin 64) (bits iters : Nat) (parity : List Nat) (s : State) : Host.Outcome State Fault Refusal :=
  .next (
    let ch := s.chan c.val
    match ch.rx, s.live c.val, s.line.spx.jobs.find? fun j => decide (j.chan = c.val ∧ j.kind = .fcDecode) && j.lane.isSome with
    | some r, some cfg, some j =>
      let s1 := (s.endJob j.id true).bump (stnPage 5) 0
      let drop := fun (s : State) => (s.bump (.ch c) 2).endRx c.val
      if !decodeRan j iters then s
      else if !ldpcOk 0 48 (toBlocks 48 12 (bitsOf 120 bits)) parity then
        (if j.limit ≤ iters then drop (s1.bump (.spx 0) 6) else s)
      else
        let s2 := s1.bump (.spx 0) 7
        match fcReceived bits with
        | some w =>
          let f := Fc.decode w
          let known := decide (f.tmapId = 0) || (s.rxMap? c.val f.tmapId).isSome
          if f.wellFormed && decide (f.dataSyms ≤ (s.symbolsAt c.val cfg r.slot).1) &&
              decide (f.netid = cfgGet cfg F.CH_CFG_NETID) && (decide (f.ftype = 3) || !known || s.codewordsFit c.val cfg r.slot f) then
            let s3 := s2.bump (.ch c) 1
            let s4 := if r.ty = tyReel ∧ f.ttl ≠ 0 then s3.setChan c.val { s3.chan c.val with reserve := s3.nextReel c.val cfg r.slot } else s3
            if known then s4.setChan c.val { s4.chan c.val with rx := some { r with fc := some w } }
            else
              let s5 := (s4.bump (.ch c) 4).endRx c.val
              match s.line.links.filter fun l => decide (l.chan = c.val) with
              | [l] => s5.propose c.val l.peer
              | _ => s5
          else drop s2
        | none => drop s2
    | _, _, _ => s)

/-- The receive side of a symbol boundary: a symbol has ended, its samples are worked on and its jobs become known to the Spindle (R164). Of
a received data symbol its link counts the region (R148). -/
def State.rxBoundary (s : State) (c : Nat) (cfg : List Word) (r : RxFrame) (rx : List RxPort) : State :=
  let s1 := (s.rxSymbol c cfg r rx).addRxJobs c cfg r
  let s2 := s1.setChan c { s1.chan c with rx := (s1.chan c).rx.map fun x => { x with sym := x.sym + 1 } }
  let nFc := (fcLayout (cfgGet cfg F.CH_CFG_NUMER) (fcCarriers r.set)).1
  match r.fc.bind fun w => s2.fcLink c (Fc.decode w) with
  | some l =>
    if r.sym ≤ nFc then s2
    else
      let reg := s2.regionAt (s2.centreAt cfg r.slot (s2.entryAt c cfg r.slot).len nFc (r.sym - 1 - nFc) + s2.nsToCt l.delayNs)
      s2.setLink { l with syms := ((l.syms ++ List.replicate (24 - l.syms.length) 0).set reg (l.syms.getD reg 0 + 1)) }
  | none => s2

/-- The transmit side: the symbol sent so far ends on its ports, and the next one starts, with its digital gain set against the drive budget
from the estimated loads (R92). -/
def State.txBoundary (s : State) (c : Nat) (cfg : List Word) (x : Tx) (loads : List PortLoad) : State :=
  if x.syms ≤ x.sym then s
  else
    let s1 := (List.range 16).foldl (fun s p => if (s.port p).txCh = some c then
      (if x.sym = 0 then s else s.symbolCut p).portBoundary p else s) s
    let s2 := (s1.setChan c { s1.chan c with tx := some { x with sym := x.sym + 1 } }).sendSeam c cfg x x.sym
    if x.late.contains x.sym then s2
    else
      let own := s2.ownLoads c loads
      let s3 := if own != [] && (s2.gainFor c own).isNone then s2 else s2.sendSymbol c cfg x x.sym
      let s4 := s3.symbolGain c x.sym loads
      s4.addEnergy (s4.useMw * 1000 * Sys2Proof.Machine.symNs (cfgGet cfg F.CH_CFG_NUMER) (cfgGet cfg F.CH_CFG_CP))

/-- SYMBOL_BOUNDARY: a symbol boundary of one channel at a corridor time within the slot, of its transmission or of its reception. -/
def execSymbolBoundary (c : Fin 64) (frac : Nat) (tx : Bool) (loads : List PortLoad) (rx : List RxPort) (s0 : State) :
    Host.Outcome State Fault Refusal :=
  .next (
    let s : State := { s0 with ct := s0.slot * 2 ^ 20 + frac % 2 ^ 20 }
    match s.live c.val with
    | none => s0
    | some cfg =>
      if tx then
        match (s.chan c.val).tx with
        | some x => s.txBoundary c.val cfg x loads
        | none => s
      else
        match (s.chan c.val).rx with
        | some r =>
          if s.sync && decide ((r.slot + (s.entryAt c.val cfg r.slot).len) * 2 ^ 20 + s.nsToCt (cfgAllow cfg) < s.ct) then s
          else s.rxBoundary c.val cfg r rx
        | none => s)

end Sys2Proof.Machine
end

