-- ==== Sys2Proof/Machine/Schedule.lean ====
section
/-! DEFINITION. Admission outcomes, schedule versions, the figure, the dwell ledger, contention and the command overlay
(R18, R169 to R174, R196 to R213). -/

set_option Elab.async false

namespace Sys2Proof.Machine

/-! Keys by slot, as the privileged lanes use them. -/

/-- A key slot that holds an entry. -/
def State.slot? (s : State) (k : Nat) : Option KeySlot := (s.cph.slots.find? fun e => decide (e.1 = k)).map (·.2)

/-- The bytes of a slot's key. -/
def KeySlot.bytes (x : KeySlot) : List Nat := beBytes (if x.big then 32 else 16) x.key

/-- Whether a privileged lane is in service (R348). -/
def State.privOk (s : State) : Bool :=
  (s.reg .cph 0x040).getLsbD 24 || (s.reg .cph 0x040).getLsbD 25

/-- The key of a slot that can compute a CMAC, where it holds a valid one and a privileged lane serves it. -/
def State.macKey (s : State) (k : Nat) : Option (List Nat) :=
  match s.slot? k with
  | some x => if decide (x.typ = 0 ∨ x.typ = 3) && bitOf x.modes 3 && !x.lost && s.privOk then some x.bytes else none
  | none => none

/-! Settings taking effect. -/

/-- FD_ACTIVE and FDD_SPLIT of a channel, with FD_CHANGE (R222). -/
def State.setDuplex (s : State) (c : Nat) (fd split : Bool) : State :=
  let x := s.chan c
  let s1 := ((s.setChan c { x with fd := fd, split := split }).setStatus (chPage c) 16 fd).setStatus (chPage c) 17 split
  if x.fd = fd ∧ x.split = split then s1 else s1.event (chPage c) 4

/-- A change of a fixed gain code scales the channel's templates (R140). -/
def State.gainChange (s : State) (c : Nat) (new : List Word) : State :=
  match s.live c with
  | some old =>
    if cfgFlag old F.CH_GAIN_AUTO || cfgFlag new F.CH_GAIN_AUTO then s
    else s.scaleTemplates c (cfgGet new F.CH_CFG_NUMER) ((min 40 (cfgGet new F.CH_GAIN_CODE) : Nat) - (min 40 (cfgGet old F.CH_GAIN_CODE) : Nat))
  | none => s

/-- An admitted configuration takes effect (R18, R222). -/
def State.takeEffect (s0 : State) (c : Nat) : State :=
  match (s0.chan c).next with
  | none => s0
  | some cfg =>
    let s := (s0.gainChange c cfg).templatesNow c cfg
    let x := s.chan c
    let first := x.live.isNone
    let s1 := s.setChan c { x with
      live := some cfg, next := none, expect := if first then 0 else x.expect, dwlLive := cfgFlag cfg F.CH_FIG_DWL_EN }
    let keep := s.live c |>.map fun l => decide (cfgGet l F.CH_CFG_FULL_DUPLEX = cfgGet cfg F.CH_CFG_FULL_DUPLEX)
    let split := x.split && keep == some true
    (s1.setDuplex c (cfgFlag cfg F.CH_CFG_FULL_DUPLEX && !split) split).event (chPage c) 1

/-- A channel whose ENABLE has been cleared leaves service at its boundary (R37, Table 01-3). -/
def State.stopChannel (s : State) (c : Nat) : State :=
  let x := s.chan c
  let s1 := (((s.setDuplex c false false).templatesNow c (List.replicate 15 0)).setStatus (chPage c) 18 false)
  (s1.setChan c { Chan.reset with
    soundSeq := x.soundSeq, dwl := x.dwl }).keepJobs fun j => decide (j.chan ≠ c)

/-- Registers of a channel's settings that act from the next superframe without admission (R190, R203, R208, R210). -/
def plainCfg : List Nat := [9, 10, 11, 12, 14]

/-- A superframe boundary brings a channel's settings into force (R18). -/
def State.channelBoundary (s : State) (c : Nat) : State :=
  let x := s.chan c
  if x.stop then s.stopChannel c
  else
    let s1 := s.takeEffect c
    match s1.live c with
    | none => s1
    | some cfg =>
      let page := s1.pageCfg c
      s1.setChan c { s1.chan c with
        live := some (plainCfg.foldl (fun l i => l.set i (page.getD i 0)) cfg), expect := (s1.chan c).expect + 1
        dwlLive := F.CH_FIG_DWL_EN.get (page.getD 11 0) = 1 }

/-! Schedule versions (R199). -/

/-- The tables of a version come into force. -/
def State.installTables (s : State) (ver : Nat) (tables : List (List Word)) : State :=
  let s1 := (tables.zipIdx).foldl (fun s t => (t.1.zipIdx).foldl (fun (s : State) (e : Word × Nat) =>
    s.setReg (chPage t.2) (0x100 + 4 * e.2) e.1) s) s
  ((s1.setReg .sch 0x078 (BitVec.ofNat 32 (ver % 65536))).setFlag .sch F.SCH_VER_STAT_PENDING false).event .sch 5

/-- A version that comes too late is discarded. -/
def State.versionLate (s : State) : State :=
  ((s.setFlag .sch F.SCH_VER_STAT_LATE true)).event .sch 4

/-- A pending version's start superframe begins. -/
def State.versionBoundary (s : State) : State :=
  match s.line.sched.pend with
  | some v =>
    if v.2.1 ≤ sfOf s.ct then
      ({ s with line := { s.line with sched := { s.line.sched with pend := none } } }).installTables v.1 v.2.2
    else s
  | none => s

/-- A write of `SCH_STAGE`: GO stages the version as an admission request, unless it names the version in force. -/
def schStageWrite (p : Page) (w : Word) (s : State) : State :=
  let s1 := applyWrite p 0x070 w s
  let v := s1.fld .sch F.SCH_STAGE_VERSION
  if !w.getLsbD 31 || decide (v = s1.fld .sch F.SCH_VER_IN_FORCE) then s1
  else
    let cur := sfOf s1.ct
    let sf := cur + (s1.fld .sch F.SCH_STAGE_SF_SF + 2 ^ 32 - cur % 2 ^ 32) % 2 ^ 32
    ({ s1 with line := { s1.line with sched :=
      { s1.line.sched with staged := some (v, sf, (List.range 64).map s1.stagedTable) } } }).request .sched

/-- SCHED_STAGE_GO: a write of `SCH_STAGE`. -/
def execSchedStageGo (q : Req) (s : State) : Host.Outcome State Fault Refusal := .next (writeWord q .sch 0x070 schStageWrite s)

/-! Admission outcomes. -/

/-- A write of `SPX_DEC_ITER` requests the iteration limit (R162). -/
def decIterWrite (p : Page) (w : Word) (s : State) : State := (applyWrite p 0x040 w s).request .iter

/-- DEC_ITER_WRITE: a write of `SPX_DEC_ITER`. -/
def execDecIterWrite (q : Req) (s : State) : Host.Outcome State Fault Refusal := .next (writeWord q (.spx 0) 0x040 decIterWrite s)

/-- An accepted request (R172, R18, R199). -/
def State.accept (s : State) (src : AdmSource) (load : Nat) : State :=
  let s1 := s.admRecord src 0 0 load
  match src with
  | .iter => s1.setFld (.spx 0) F.SPX_DEC_ITER_IN_FORCE (clampIter (s1.fld (.spx 0) F.SPX_DEC_ITER_LIMIT))
  | .chan c =>
    let cfg := s1.pageCfg c
    let s2 := (s1.setRefused c false).templatesFor c cfg
    let s3 := s2.setChan c { s2.chan c with next := some cfg }
    if s3.sync then s3 else s3.takeEffect c
  | .sched =>
    let s2 := s1.setFlag .sch F.SCH_VER_STAT_REFUSED false
    match s2.line.sched.staged with
    | none => s2
    | some v =>
      let s3 : State := { s2 with line := { s2.line with sched := { s2.line.sched with staged := none } } }
      if !s3.sync then
        ({ s3 with line := { s3.line with sched := { s3.line.sched with pend := none } } }).installTables v.1 v.2.2
      else if v.2.1 ≤ sfOf s3.ct then s3.versionLate
      else
        (({ s3 with line := { s3.line with sched := { s3.line.sched with pend := some v } } }).setFld .sch F.SCH_VER_STAGED
          v.1).setFlag .sch F.SCH_VER_STAT_PENDING true

/-- The oldest waiting request has been evaluated, and is accepted or refused (R170 to R172). -/
def State.admissionDone (s : State) : Bool × State :=
  match s.line.spx.queue with
  | [] => (true, s)
  | src :: rest =>
    let s1 : State := { s with line := { s.line with spx := { s.line.spx with queue := rest } } }
    let r := s1.evaluate src
    if r.1 = 0 then (true, s1.accept src r.2.2) else (false, s1.refuse src r.1 r.2.1 r.2.2)

/-! The figure (R201 to R203). -/

/-- The permutation of the sub-bands. -/
def figPerm (sb : Nat) (p : List Nat) : List Nat :=
  (List.range (sb - 1)).foldl (fun pi k =>
    let i := sb - 1 - k
    let j := p.getD k 0 % (i + 1)
    (pi.set i (pi.getD j 0)).set j (pi.getD i 0)) (List.range sb)

/-- A mask filled from the permutation up to the minimum count. -/
def figFill (sb mmin e : Nat) (pi : List Nat) (mask : Nat) : Nat :=
  (List.range sb).foldl (fun m k => if popCount m < mmin then setBitOf m (pi.getD ((e + k) % sb) 0) true else m) mask

/-- The figure of a superframe: mask and single sub-band of each entry. -/
def figure (key : List Nat) (netid figId sf sb maskMin : Nat) : List (Nat × Nat) :=
  let msg := fun (a z : Nat) => [a, netid / 256 % 256, netid % 256, figId % 256] ++ beBytes 5 (sf % 2 ^ 38) ++ [z]
  let pi := figPerm sb (cmac key (msg 1 0))
  let mmin := min (max maskMin 1) sb
  (List.range 8).flatMap fun g =>
    let q := cmac key (msg 2 g)
    (List.range 8).map fun u =>
      let e := 8 * g + u
      (figFill sb mmin e pi ((q.getD (2 * u) 0 + 256 * q.getD (2 * u + 1) 0) % 2 ^ sb), pi.getD (e % sb) 0)

/-- The figure key of the index in force. -/
def State.figKey (s : State) : Option (List Nat) :=
  ((List.range 2).find? fun i => s.flag .fig (F.FIG_KEY_VALID.at i) &&
    decide (s.fld .fig (F.FIG_KEY_IDX.at i) = s.fld .fig F.FIG_STAT_IDX)).bind fun i => s.macKey (s.fld .fig (F.FIG_KEY_SLOT.at i))

/-- The figure of a channel for a superframe, if its key is held. -/
def State.figureOf (s : State) (cfg : List Word) (sf : Nat) : Option (List (Nat × Nat)) :=
  s.figKey.map fun k => figure k (cfgGet cfg F.CH_CFG_NETID) (cfgGet cfg F.CH_FIG_FIG_ID) sf (cfgSb cfg)
    (cfgGet cfg F.CH_FIG_MASK_MIN)

/-- A change of the seed index in force. -/
def State.setFigIdx (s : State) (i : Nat) : State :=
  if s.fld .fig F.FIG_STAT_IDX = i % 16 then s else (s.setFld .fig F.FIG_STAT_IDX i).event .fig 2

/-- At a superframe boundary the index may change, and every hopping channel takes the figure of the superframe that begins
and computes the next one. Without a key it keeps to its anchor (R203). -/
def State.figureBoundary (s : State) : State :=
  let s0 := match s.line.sched.figNext with
    | some (i, sf) => if sf = s.sf then
        ({ s with line := { s.line with sched := { s.line.sched with figNext := none } } }).setFigIdx i else s
    | none => s
  let hop := (List.range 64).filter fun c => match s0.live c with | some cfg => cfgFlag cfg F.CH_CFG_HOP_EN | none => false
  let noKey := s0.figKey.isNone && hop != []
  let s1 := s0.setFlag .fig F.FIG_STAT_NO_KEY s0.figKey.isNone
  let s2 := if noKey then s1.event .fig 1 else s1
  (List.range 64).foldl (fun s c =>
    match s.live c with
    | some cfg =>
      if cfgFlag cfg F.CH_CFG_HOP_EN then
        let a := s.figureOf cfg (sfOf s.ct)
        let b := s.figureOf cfg (sfOf s.ct + 1)
        let s3 := (s.setChan c { s.chan c with fig := a, figNext := b }).setStatus (chPage c) 18 a.isNone
        if a.isSome then s3.bump .fig 0 else s3
      else (s.setChan c { s.chan c with fig := none, figNext := none }).setStatus (chPage c) 18 false
    | none => s) s2

/-- A write of `FIG_NEXT`: GO at the root schedules the change of index (R201). -/
def figNextWrite (p : Page) (w : Word) (s : State) : State :=
  let s1 := applyWrite p 0x048 w s
  if w.getLsbD 31 && s1.flag .sch F.SCH_CT_STAT_IS_ROOT then
    { s1 with line := { s1.line with sched :=
      { s1.line.sched with figNext := some (s1.fld .fig F.FIG_NEXT_IDX, s1.fld .fig F.FIG_NEXT_SF_SF) } } }
  else s1

/-- FIG_NEXT_GO: a write of `FIG_NEXT`. -/
def execFigNextGo (q : Req) (s : State) : Host.Outcome State Fault Refusal := .next (writeWord q .fig 0x048 figNextWrite s)

/-! The dwell ledger (R204, R205). -/

/-- A profile's window in seconds, and its limit in µs: LIMIT per mille of the window. -/
def State.dwlWindow (s : State) (p : Nat) : Nat := clampN 1 60 (s.l4Fld .dwl (F.DWL_PROF_WINDOW.at p))
def State.dwlLimit (s : State) (p : Nat) : Nat := clampN 1 1000 (s.l4Fld .dwl (F.DWL_PROF_LIMIT.at p)) * s.dwlWindow p * 1000

/-- Whether a channel keeps a ledger. -/
def State.dwlOn (s : State) (c : Nat) : Bool :=
  s.feat 23 && s.enabled .dwl && match s.live c with | some cfg => cfgFlag cfg F.CH_FIG_DWL_EN | none => false

/-- The profile of a channel. -/
def State.dwlProf (s : State) (c : Nat) : Nat :=
  match s.live c with | some cfg => cfgGet cfg F.CH_FIG_DWL_PROF | none => s.fld (chPage c) F.CH_FIG_DWL_PROF

/-- Use of a sub-band in µs. -/
def State.dwlUse (s : State) (c b : Nat) : Nat := ((s.chan c).dwl.getD b []).sum

/-- Whether a sub-band has no room for an airtime. -/
def State.dwlFull (s : State) (c b air : Nat) : Bool := decide (s.dwlLimit (s.dwlProf c) < s.dwlUse c b + air)

/-- Whether a sub-band is exhausted: it has no room for the airtime that it was last checked for (R205; log 244). -/
def State.dwlOut (s : State) (c b : Nat) : Bool := s.dwlFull c b ((s.chan c).dwlAir.getD b 1)

/-- A change to a channel's ledger: a sub-band that it makes exhausted sets EXHAUSTED. -/
def State.dwlPut (s : State) (c b : Nat) (x : Chan) : State :=
  let s1 := s.setChan c x
  if !s.dwlOut c b && s1.dwlOut c b then s1.event .dwl 1 else s1

/-- The sub-bands of a mask are checked for an airtime in µs. -/
def State.dwlTry (s : State) (c mask air : Nat) : State :=
  if !s.dwlOn c then s
  else (List.range 16).foldl (fun s b =>
    if bitOf mask b then let x := s.chan c; s.dwlPut c b { x with dwlAir := x.dwlAir.set b (max 1 air) } else s) s

/-- Charge an airtime in µs to the sub-bands of a mask. -/
def State.dwlCharge (s : State) (c mask air : Nat) : State :=
  if !s.dwlOn c then s
  else (List.range 16).foldl (fun s b =>
    if bitOf mask b then
      let x := s.chan c
      let l := x.dwl.getD b []
      s.dwlPut c b { x with dwl := x.dwl.set b (l.set 0 (l.getD 0 0 + air)) }
    else s) s

/-- DWL_BUCKET: a bucket period of a profile has passed: the windows of its channels slide by one bucket. -/
def execDwlBucket (p : Fin 8) (s : State) : Host.Outcome State Fault Refusal :=
  .next ((List.range 64).foldl (fun s c =>
    if s.dwlOn c && decide (s.dwlProf c = p.val) then
      s.setChan c { s.chan c with dwl := (s.chan c).dwl.map fun l => (0 :: l).take 32 }
    else s) s)

/-- `DWL_STAT` and `DWL_USE` of the channel that `DWL_SEL` names. -/
def State.dwlView (s : State) (off : Nat) : Option Word :=
  let c := s.fld .dwl F.DWL_SEL_CHANNEL
  let act := s.dwlOn c
  if off = 0x068 then
    some (BitVec.ofNat 32 (((List.range 16).map fun b => if act && s.dwlOut c b then 2 ^ b else 0).sum))
  else if 0x0C0 ≤ off ∧ off < 0x100 then
    let b := (off - 0x0C0) / 4
    some (BitVec.ofNat 32 (if act then min 65535 (s.dwlLimit (s.dwlProf c) / 1000) * 65536 + min 65535 (s.dwlUse c b / 1000) else 0))
  else none

/-! Transmission (R78, R82, R94, R188, R217, R370). -/

/-- Whether the node's number lies in the unicast range. -/
def State.ownNode (s : State) : Nat := s.fld .sch F.SCH_NODE_NODE
def isUnicast (n : Nat) : Bool := decide (1 ≤ n ∧ n ≤ 0xFFEFFF)
def isGroup (n : Nat) : Bool := decide (0xFFF000 ≤ n)

/-- Whether the device may transmit on a channel at all: corridor time held, a node number, a role that transmits, and a port
that can drive. -/
def State.mayTx (s : State) (cfg : List Word) : Bool :=
  s.sync && isUnicast s.ownNode && !s.twinSilent && s.txPorts cfg != [] && s.running

/-- The length of a transmission on air in µs, from its first sample to its last. -/
def Tx.airUs (n cp : Nat) (x : Tx) : Nat :=
  (preNs n + (x.nFc + x.nd) * symNs n cp + (x.len - 1) * seamNs n + tailNs n) / 1000

/-- The corridor times of a transmission's first sample and of its last (R104, R106): the last symbol's roll-off ends it. -/
def State.txSpan (s : State) (cfg : List Word) (x : Tx) : Nat × Nat :=
  let n := cfgGet cfg F.CH_CFG_NUMER
  let cp := cfgGet cfg F.CH_CFG_CP
  let late := if x.ty = tyContend then 4 * windowNs n + x.mini * miniNs n else 0
  let at_ := fun ns => x.slot * 2 ^ 20 + s.nsToCt (late + ns)
  (at_ (guardNs n), at_ (symAtNs n cp false x.nFc x.len s.slotNs (x.nFc + x.nd) + Sys2Proof.Machine.symNs n cp + rollNs n cp))

/-- The lead and lag of a driver (Table 03-3). -/
def leadNs (p : Nat) : Nat := if p < 12 then 20000 else 2000

/-- The corridor times between which a port's driver drives for a transmission (R78): in echo-cancelled full duplex whole slots. -/
def State.driveSpan (s : State) (c : Nat) (cfg : List Word) (x : Tx) (p : Nat) : Nat × Nat :=
  if (s.chan c).fd then (x.slot * 2 ^ 20, (x.slot + x.len) * 2 ^ 20)
  else let t := s.txSpan cfg x; (t.1 - s.nsToCt (leadNs p), t.2 + s.nsToCt (leadNs p))

/-- A port's amplifier is enabled around a transmission (R83): it stays asserted from the one before where less than LEAD + LAG lies
between. -/
def State.paAssert (s : State) (p : Nat) (t : Nat × Nat) : State :=
  if !s.extPa p then s
  else
    let g := portPage p
    let from_ := t.1 - s.nsToCt (1000 * s.fld g F.NP_PA_LEAD)
    let end_ := t.2 + s.nsToCt (1000 * s.fld g F.NP_PA_LAG)
    let y := s.port p
    let start := match y.pa with | some w => if from_ ≤ w.2 then w.1 else from_ | none => from_
    (s.setPort p { y with pa := some (start, end_) }).emit (.paOn p start end_)

/-- A port transmits for a channel. -/
def State.portStart (s : State) (c : Nat) (cfg : List Word) (x : Tx) (p : Nat) : State :=
  let s1 := s.setPort p { s.port p with txCh := some c, drive := some (s.driveSpan c cfg x p), probing := false }
  (((s1.setFlag (portPage p) F.NP_TX_STAT_VALID true).setFld (portPage p) F.NP_TX_STAT_CHANNEL c)).paAssert p (s.txSpan cfg x)

/-- A prepared transmission starts: it goes on air with its ports, is charged to the ledger and counted. -/
def State.launch (s : State) (c : Nat) (cfg : List Word) (x : Tx) : State :=
  let s1 := s.setChan c { s.chan c with tx := some x, prep := none }
  let s2 := (s.txPorts cfg).foldl (fun s p => s.portStart c cfg x p) (s1.setFlag (chPage c) F.CH_STAT_TX true)
  let s3 := s2.dwlCharge c (Nat.xor x.mask (Nat.land x.mask x.mute)) (x.airUs (cfgGet cfg F.CH_CFG_NUMER) (cfgGet cfg F.CH_CFG_CP))
  let s4 := (s3.emit (.tx c x.slot x.len (fcSent (cfgGet cfg F.CH_CFG_NUMER) (fcCarriers x.set) x.fc) x.coded x.mute
    x.mini)).bump (chPage c) 0
  if x.mute = 0 then s4 else s4.bump .dwl 0

/-! Contention (R207, R208). -/

/-- A channel's current entry is a CONTEND slot with a frame prepared for it. -/
def State.contending (s : State) (c : Nat) : Option (List Word × Tx) :=
  match s.live c, (s.chan c).prep with
  | some cfg, some x => if decide ((s.chan c).ty = tyContend) && decide (x.slot = s.slot) && s.mayTx cfg then some (cfg, x) else none
  | _, _ => none

/-- A deferral of a contention (R208): its frames wait for their next eligible slot. -/
def State.deferContend (s : State) (c : Nat) : State :=
  let x := s.chan c
  let ids := match x.prep with | some t => t.frames | none => []
  let s1 := s.setChan c { x with prep := none, won := none }
  let s2 := s1.mapFrames fun f => if ids.contains f.id then { f with st := .ready } else f
  ((s2.bump (chPage c) 3).event (chPage c) 3).keepJobs fun j =>
    !(decide (j.chan = c) && (match j.kind with | .encode | .txSym => true | _ => false))

/-- PRIORITY_WINDOW: window `i` of a CONTEND slot opens: with a frame of that class pending, and no burst heard before, the
node sends its burst and draws its mini-slot. -/
def execPriorityWindow (c : Fin 64) (i : Fin 4) (s : State) : Host.Outcome State Fault Refusal :=
  .next (
    match s.contending c.val with
    | some (_, x) =>
      let ch := s.chan c.val
      if decide ((Fc.decode x.fc).prio = i.val) && ch.heard.isNone && ch.won.isNone then
        let d := s.freeNat
        (d.2.setChan c.val { d.2.chan c.val with won := some (i.val, d.1 % 8) }).emit (.burst c.val i.val 0)
      else s
    | none => s)

/-- PRIORITY_BURST_RX: a priority burst of a class is heard on a channel, `level` above the noise in 0.25 dB. -/
def execPriorityBurstRx (c : Fin 64) (i : Fin 4) (level : Nat) (s : State) : Host.Outcome State Fault Refusal :=
  .next (
    let ch := s.chan c.val
    if decide (ch.ty = tyContend) && (match s.live c.val with
        | some cfg => decide (cfgGet cfg F.CH_CONTEND_DET_TH < level)
        | none => false) then
      let h := match ch.heard with | some h => min h i.val | none => i.val
      let s1 := s.setChan c.val { ch with heard := some h }
      match s1.contending c.val with
      | some (_, x) => if h < (Fc.decode x.fc).prio then s1.deferContend c.val else s1
      | none => s1
    else s)

/-! The command overlay (R210 to R212). -/

/-- Whether a channel carries command symbols. -/
def State.cmdOn (s : State) (c : Nat) : Bool :=
  s.feat 11 && s.enabled .cmd && match s.live c with
    | some cfg => cfgFlag cfg F.CH_CMD_EN && decide (cfgGet cfg F.CH_CFG_NUMER ≠ 2)
    | none => false

/-- The chips of a line (R210). -/
def cmdChips (key : List Nat) (netid i end_ sf carriers : Nat) : List Nat :=
  let q := cmac key ([3, netid / 256 % 256, netid % 256, i, end_] ++ beBytes 5 (sf % 2 ^ 38))
  (List.range carriers).map fun k => q.getD (k / 8 % 16) 0 / 2 ^ (k % 8) % 2

/-- A trigger of a command line that is not active yet: its first copies are due (R211). -/
def State.cmdTrigger (s : State) (i : Nat) : State :=
  let c := s.l4Fld .cmd (F.CMD_LINE_TX_CH.at i)
  if s.l4Flag .cmd (F.CMD_LINE_TX_EN.at i) && s.cmdOn c && !bitOf (s.chan c).cmdOn i then
    let x := s.chan c
    (s.setChan c { x with
      cmdLeft := x.cmdLeft.set i (clampN 1 4 (s.l4Fld .cmd (F.CMD_LINE_BURST.at i))), cmdOn := setBitOf x.cmdOn i true }).setRegBit
      .cmd 0x064 i true
  else s

/-- A line ends: nothing of it is left to send. -/
def State.cmdEnd (s : State) (c i : Nat) : State :=
  (s.setChan c { s.chan c with cmdOn := setBitOf (s.chan c).cmdOn i false }).setRegBit .cmd 0x064 i false

/-- CMD_IN_ACTIVATE: a CMD_IN line has had DEB_US active samples (R434): the line is active, and triggers its command. -/
def execCmdInActivate (i : Fin 8) (s : State) : Host.Outcome State Fault Refusal :=
  .next (
    if s.debounced i true then
      let s1 := s.lineActive i
      if s1.l4Flag .cmd (F.CMD_LINE_SRC_PIN.at i.val) then s1.cmdTrigger i.val else s1
    else s)

/-- Whether a channel may send a command symbol in the current slot (R211). -/
def State.cmdSlot (s : State) (c : Nat) (cfg : List Word) : Bool :=
  let x := s.chan c
  s.mayTx cfg && !s.stageShed 4 &&
    (if x.fd || x.split then decide (x.ty ≠ tyOff) else x.tx.isSome || decide (x.ty = tyQuiet))

/-- The carriers of a command line within the channel range: sub-band `i` of 8 (R210). -/
def cmdCarriers (cfg : List Word) (i : Nat) : List Nat :=
  carrierSet (cfgGet cfg F.CH_CFG_NUMER) 8 (cfgGet cfg F.CH_BAND_M_LO) (cfgGet cfg F.CH_BAND_M_HI) (2 ^ i)

/-- Airtime of a command symbol in µs. -/
def cmdAirUs (cfg : List Word) : Nat := symNs (cfgGet cfg F.CH_CFG_NUMER) (cfgGet cfg F.CH_CFG_CP) / 1000

/-- The ledger sub-bands in which a copy of some lines carries power. -/
def cmdBands (cfg : List Word) (lines : List Nat) : Nat := maskOf cfg (lines.flatMap fun i => cmdCarriers cfg i)

/-- Those of them that the ledger has exhausted, unless URGENT_EXEMPT lets command symbols pass (R205). -/
def State.cmdMute (s : State) (c : Nat) (cfg : List Word) (lines : List Nat) : Nat :=
  if !s.dwlOn c || s.l4Flag .dwl F.DWL_CTRL_URGENT_EXEMPT then 0
  else (List.range 16).foldl (fun a b => if bitOf (cmdBands cfg lines) b && s.dwlFull c b (cmdAirUs cfg) then a + 2 ^ b else a) 0

/-- Whether no sub-band of a copy is left to send in. -/
def State.cmdBarred (s : State) (c : Nat) (cfg : List Word) (lines : List Nat) : Bool :=
  decide (cmdBands cfg lines ≠ 0) && decide (s.cmdMute c cfg lines = cmdBands cfg lines)

/-- The chips of a line as sent: 2 for a carrier that is sent as zero. -/
def cmdChipsSent (cfg : List Word) (key : List Nat) (sf mute i : Nat) : List Nat :=
  let l := cmdCarriers cfg i
  ((cmdChips key (cfgGet cfg F.CH_CFG_NETID) i (cfgGet cfg F.CH_CFG_END) sf l.length).zip l).map fun e =>
    if (List.range 16).any (fun b =>
      let r := subBand (cfgGet cfg F.CH_CFG_NUMER) (cfgSb cfg) b
      bitOf mute b && decide (r.1 ≤ e.2 ∧ e.2 < r.2)) then 2 else e.1

/-- A transmission is deferred under R205: it is counted on the DWL and CH pages, and sets DEFERRED (R220, R222). -/
def State.deferTx (s : State) (c : Nat) : State := ((s.bump (chPage c) 3).event (chPage c) 3).bump .dwl 1

/-- A copy that cannot go now waits for the next chance, and is counted once: as one that finds no slot (R211), or as deferred (R205). -/
def State.cmdHold (s : State) (c : Nat) (lines : List Nat) (ledger : Bool) : State :=
  let ch := s.chan c
  if ch.cmdWait = lines then s
  else
    let s1 := s.setChan c { ch with cmdWait := lines }
    if ledger then s1.deferTx c else s1.bump .cmd 3

/-- CMD_COPY_SEND: a copy is due on a channel (R205, R211). `overlap` lists the symbols of the channel's own transmission that it
replaces or overlaps (0 the preamble). -/
def execCmdCopySend (c : Fin 64) (overlap : List Nat) (s : State) : Host.Outcome State Fault Refusal :=
  .next (
    let ch := s.chan c.val
    let lines := (List.range 8).filter fun i => decide (0 < ch.cmdLeft.getD i 0)
    if lines = [] || !s.cmdOn c.val then s
    else match s.live c.val with
    | none => s
    | some cfg =>
      let spend := fun (s : State) =>
        let x := s.chan c.val
        let s1 := s.setChan c.val { x with
          cmdLeft := x.cmdLeft.map (· - 1), cmdWait := [] }
        lines.foldl (fun s i =>
          if (s.chan c.val).cmdLeft.getD i 0 = 0 && decide (s.l4Fld .cmd (F.CMD_LINE_REPEAT.at i) = 0) then s.cmdEnd c.val i else s) s1
      match s.macKey (s.l4Fld .cmd F.CMD_KEY_SLOT) with
      | none => spend (s.event .cmd 1)
      | some k =>
        if !s.cmdSlot c.val cfg then s.cmdHold c.val lines false
        else
          let s := s.dwlTry c.val (cmdBands cfg lines) (cmdAirUs cfg)
          if s.cmdBarred c.val cfg lines then s.cmdHold c.val lines true
          else
            let mute := s.cmdMute c.val cfg lines
            let chips := lines.map fun i => cmdChipsSent cfg k (sfOf s.ct) mute i
            let mask := (lines.map fun i => 2 ^ i).sum
            let s1 := ((s.emit (.command c.val mask chips)).bump .cmd 0).event .cmd 2
            let s2 := match (s1.chan c.val).tx with
              | some x =>
                let data := overlap.filter fun k => decide (x.nFc < k) && !x.late.contains k
                (s1.setChan c.val { s1.chan c.val with tx := some { x with late := x.late ++ data } }).bumpBy .cmd 2 data.length
              | none => s1
            let s3 := s2.dwlCharge c.val (Nat.xor (cmdBands cfg lines) mute) (cmdAirUs cfg)
            let s4 := if mute = 0 then s3 else s3.bump .dwl 0
            spend (if s4.dwlOn c.val && s4.l4Flag .dwl F.DWL_CTRL_URGENT_EXEMPT then s4.bump .dwl 3 else s4))

/-- CMD_REPEAT: REPEAT symbols have passed since a line's last copy: while its trigger persists, a further copy is due; else
the line ends. `persist` tells so for a line that a detection triggered. -/
def execCmdRepeat (i : Fin 8) (persist : Bool) (s : State) : Host.Outcome State Fault Refusal :=
  .next (
    let c := s.l4Fld .cmd (F.CMD_LINE_TX_CH.at i.val)
    let x := s.chan c
    if bitOf x.cmdOn i.val && decide (x.cmdLeft.getD i.val 0 = 0) then
      let pin := s.l4Flag .cmd (F.CMD_LINE_SRC_PIN.at i.val) && (s.cmdIn i).active
      let det := s.l4Flag .cmd (F.CMD_LINE_SRC_RX.at i.val) && persist
      if (pin || det) && decide (s.l4Fld .cmd (F.CMD_LINE_REPEAT.at i.val) ≠ 0) then
        s.setChan c { x with cmdLeft := x.cmdLeft.set i.val 1 }
      else s.cmdEnd c i.val
    else s)

/-- The symbols of a channel's reception that a detected command symbol overlaps: its data symbols are erasures, and a SOUND symbol among
them is left out of the measurement (R212). -/
def State.cmdErase (s : State) (c : Nat) (overlap : List Nat) : State :=
  let x := s.chan c
  match x.rx with
  | none => s
  | some r =>
    let nFc := match s.live c with | some cfg => (fcLayout (cfgGet cfg F.CH_CFG_NUMER) (fcCarriers r.set)).1 | none => 0
    s.setChan c { x with
      rx := some { r with
        cmd := r.cmd ++ overlap, soft := r.soft ++ ((overlap.filter fun k => decide (nFc < k)).map fun k => (k, 0, 1)) }
      snd := x.snd.map fun y => if y.1 = r.slot then (y.1, y.2.filter fun e => !overlap.contains (e.1 + 2 + nFc)) else y }

/-- CMD_DETECT: the command detector of a channel finds lines at a statistic of `rho`/256 (R212). `overlap` lists the symbols of the
channel's reception under way that the detected symbol overlaps (0 the preamble). -/
def execCmdDetect (c : Fin 64) (lines rho : Nat) (overlap : List Nat) (s : State) : Host.Outcome State Fault Refusal :=
  .next (
    let ls := lines % 256
    if s.cmdOn c.val && decide (ls ≠ 0) && (match s.live c.val with | some cfg => decide (cfgGet cfg F.CH_CMD_TH ≤ rho) | none => false) &&
        (s.macKey (s.l4Fld .cmd F.CMD_KEY_SLOT)).isSome then
      let s1 := ((s.setReg .cmd 0x068 (BitVec.ofNat 32 (ls * 2 ^ 24 + c.val * 2 ^ 16 + min 255 rho))).bump .cmd 1).event .cmd 3 |>.cmdErase c.val overlap
      (List.range 8).foldl (fun s i =>
        if bitOf ls i then
          let s2 := if s.l4Flag .cmd (F.CMD_LINE_OUT_EN.at i) then s.outDetect i else s
          if s2.l4Flag .cmd (F.CMD_LINE_SRC_RX.at i) && decide (s2.l4Fld .cmd (F.CMD_LINE_RX_CH.at i) = c.val) then s2.cmdTrigger i else s2
        else s) s1
    else s)

/-- `CMD_STAT`: OUT_ACTIVE shows the outputs asserted. -/
def State.cmdView (s : State) (off : Nat) : Option Word :=
  if off = 0x064 then
    some (F.CMD_STAT_OUT_ACTIVE.put (((List.range 8).map fun i => if s.outActive i then 2 ^ i else 0).sum) (s.reg .cmd off))
  else none

end Sys2Proof.Machine
end

