-- ==== Sys2Proof/Machine/Directory.lean ====
section
/-! DEFINITION. The node directory as a table (R248 to R251): entries, buckets, insertion, learning, and the on-chip cache of
DRAM entries. -/

set_option Elab.async false

namespace Sys2Proof.Machine

/-- Whether the external DRAM is in service: fitted, trained and out of self-refresh. -/
def State.dramOn (s : State) : Bool :=
  s.chip.is7236 && decide (s.dom 5 = .on) && s.pwr.dram.trained && !s.pwr.dram.selfRefresh

/-! Entries (Table 08-4). -/

/-- A byte of an entry, and a little-endian field of `n` bytes. -/
def State.dirByte (s : State) (i k : Nat) : Nat := (storeGet (0 : Byte) s.mem.dir (64 * i + k)).toNat
def State.dirLe (s : State) (i k n : Nat) : Nat := ofLe ((List.range n).map fun j => s.dirByte i (k + j))

/-- Write bytes of the directory's memory from a byte address on. -/
def State.dirBytes (s : State) (a : Nat) (bs : List Nat) : State :=
  { s with mem := { s.mem with dir := storePutList 0 s.mem.dir a (bs.map (BitVec.ofNat 8)) } }

/-- Write bytes of an entry. -/
def State.dirPut (s : State) (i k : Nat) (bs : List Nat) : State :=
  s.dirBytes (64 * i + k) bs
def State.dirPutLe (s : State) (i k n v : Nat) : State := s.dirPut i k (leBytes n v)

def State.dirNode (s : State) (i : Nat) : Nat := s.dirLe i 0 3
def State.dirFlag (s : State) (i b : Nat) : Bool := bitOf (s.dirByte i 3) b
def State.dirValid (s : State) (i : Nat) : Bool := s.dirFlag i 7
def State.dirStatic (s : State) (i : Nat) : Bool := s.dirFlag i 6
def State.dirAuto (s : State) (i : Nat) : Bool := s.dirFlag i 5
def State.dirRouteValid (s : State) (i : Nat) : Bool := s.dirFlag i 4
def State.dirSleeper (s : State) (i : Nat) : Bool := s.dirFlag i 3
def State.dirUnreached (s : State) (i : Nat) : Bool := s.dirFlag i 2
def State.dirRouteNext (s : State) (i : Nat) : Nat := s.dirLe i 4 3
def State.dirRouteCh (s : State) (i : Nat) : Nat := s.dirByte i 7 % 64
def State.dirHandle (s : State) (i : Nat) : Nat := s.dirLe i 8 4
def State.dirSeen (s : State) (i : Nat) : Nat := s.dirLe i 12 6
def State.dirOwner (s : State) (i : Nat) : Nat := s.dirByte i 19 % 16

/-- Set or clear a flag of byte 3. -/
def State.dirSetFlag (s : State) (i b : Nat) (v : Bool) : State := s.dirPut i 3 [setBitOf (s.dirByte i 3) b v]

/-- A saturating counter of `n` bytes rises by one. -/
def State.dirCount (s : State) (i k n : Nat) : State := s.dirPutLe i k n (min (2 ^ (8 * n) - 1) (s.dirLe i k n + 1))

/-- The indexes of valid entries. -/
def State.dirAll (s : State) : List Nat :=
  (s.mem.dir.filter fun e => decide (e.1 % 64 = 3) && e.2.getLsbD 7).map fun e => e.1 / 64

/-! Buckets (R248). -/

/-- Whether the directory lies in DRAM: F8 is accepted, on a board that has DRAM. On a board without it the directory runs on chip
with 65,536 entries (R62, Table 00-4); where DRAM is fitted and its training has failed, lookups that miss wait (R251). -/
def State.dirDram (s : State) : Bool := s.feat 8 && decide (s.chip.dramMib ≠ 0)

/-- log2 of the number of entries in force (R259). -/
def State.dirLog (s : State) : Nat := if s.dirDram then clampN 16 23 (s.fld .dir F.DIR_CFG_SIZE_LOG2) else 16

/-- Whether the table of per-node keys in DRAM holds a record. -/
def State.wktUsed (s : State) : Bool := s.nvm.dramWkt != []

/-- A region of DRAM, as its first byte and its bytes (Table 15-15): 0 the directory, 1 the per-node keys, 2 the overflow of the tone-map
store, 3 + `t` the spill area of a tenant. -/
def State.dramRegion (s : State) (k : Nat) : Nat × Nat :=
  let mib := 2 ^ 20
  match k with
  | 0 => (s.fld .dir F.DIR_DRAM_BASE_BASE_MIB * mib, if s.dirDram then 64 * 2 ^ s.dirLog else 0)
  | 1 => (s.fld .key F.KEY_WKT_BASE_MIB * mib, 64 * 2 ^ clampN 16 23 (s.fld .key F.KEY_WKT_SIZE_LOG2))
  | 2 => (s.fld (.ch 0) F.CH_TMAP_OVF_BASE_MIB * mib, s.fld (.ch 0) F.CH_TMAP_OVF_UNITS * (8 * mib))
  | n =>
    let p := Page.tnt (Fin.ofNat 8 (n - 3))
    (s.fld p F.TNT_SPILL_BASE_MIB * mib, s.fld p F.TNT_SPILL_SIZE_MIB * mib)

/-- Whether a byte of a region reads as damaged: it lies beyond the capacity found, or in a second region (R462). DESIGN CHOICE (log 175):
of an overlap's two contents neither is read, and which regions are in use is told by their sizes. -/
def State.dramDamaged (s : State) (k a : Nat) : Bool :=
  let x := (s.dramRegion k).1 + a
  decide (s.pwr.dram.sizeMib * 2 ^ 20 ≤ x) || (List.range 11).any fun j =>
    let r := s.dramRegion j
    decide (j ≠ k) && (decide (j ≠ 1) || s.wktUsed) && decide (r.1 ≤ x ∧ x < r.1 + r.2)

/-- The bucket of a node number. -/
def State.dirBucket (s : State) (x : Nat) : Nat := x * 0x9E3779B1 % 2 ^ 32 / 2 ^ (35 - s.dirLog)

/-- The entries of a node's bucket. -/
def State.dirSlots (s : State) (x : Nat) : List Nat := (List.range 8).map (8 * s.dirBucket x + ·)

/-- The entry of a node; a directory that is not enabled answers no lookup. -/
def State.dirFind (s : State) (x : Nat) : Option Nat :=
  if !s.enabled .dir then none
  else (s.dirSlots x).find? fun i => s.dirValid i && decide (s.dirNode i = x)

/-- Zero an entry. -/
def State.dirErase (s : State) (i : Nat) : State := s.dirPut i 0 (List.replicate 64 0)

/-- Make an entry: `flags` are STATIC or AUTO as bits of byte 3. -/
def State.dirMake (s : State) (i x owner flags : Nat) : State :=
  (((s.dirErase i).dirPutLe i 0 3 x).dirPut i 3 [0x80 + flags]).dirPut i 19 [owner]

/-- The AUTO entry of a bucket with the oldest LAST_SEEN. -/
def State.dirOldest (s : State) (l : List Nat) : Option Nat :=
  (l.filter s.dirAuto).foldl (fun a i => match a with
    | none => some i
    | some j => if s.dirSeen i < s.dirSeen j then some i else some j) none

/-- A place for a new entry of node `x`: a free one, else the AUTO entry seen longest ago; with whether it replaces one. -/
def State.dirPlace (s : State) (x : Nat) : Option (Nat × Bool) :=
  let l := s.dirSlots x
  if !s.enabled .dir then none
  else match l.find? fun i => !s.dirValid i with
  | some i => some (i, false)
  | none => (s.dirOldest l).map fun i => (i, true)

/-- Entries owned by a tenant. -/
def State.dirUsed (s : State) (t : Nat) : Nat := ((s.dirAll).filter fun i => decide (s.dirOwner i = t)).length

/-- Learning (R250): an AUTO entry for a node that has none. -/
def State.dirLearn (s : State) (x : Nat) : State :=
  if !s.enabled .dir || !s.flag .dir F.DIR_CFG_AUTO_LEARN || (s.dirFind x).isSome then s
  else match s.dirPlace x with
    | some (i, rep) =>
      let s1 := (s.dirMake i x 15 0x20).bump .dir 3
      if rep then s1.bump .dir 5 else s1
    | none => (s.bump .dir 4).event .dir 3

/-! The cache of DRAM entries (R251). -/

/-- Whether a fetch from DRAM has just found no entry of a node, or has failed. -/
def State.dirGone (s : State) (x : Nat) : Bool := decide (s.net.dirNone = some x)

/-- Whether a lookup of a node is answered on chip: its entry is cached, or a fetch has just found that it has none. -/
def State.dirHit (s : State) (x : Nat) : Bool :=
  !s.dirDram || s.dirGone x || match s.dirFind x with | some i => s.net.cached.contains i | none => false

/-- An entry is brought into, or used in, the cache: the least recently used of its set leaves. -/
def State.dirCache (s : State) (i : Nat) : State :=
  if !s.dirDram then s
  else
    let set := fun k => k / 8 % 8192
    let rest := s.net.cached.filter (· ≠ i)
    let same := (rest.filter fun k => decide (set k = set i)).take 7
    { s with net := { s.net with cached := i :: rest.filter fun k => decide (set k ≠ set i) || same.contains k } }

/-- A lookup misses the cache, and its entry is fetched. -/
def State.dirFetch (s : State) (x : Nat) : State :=
  if s.net.dirWait.contains x then s
  else ({ s with net := { s.net with dirWait := s.net.dirWait ++ [x] } }).bump .dir 1

/-- A lookup that misses the cache and waits; one that DRAM cannot serve now is counted. -/
def State.dirMiss (s : State) (x : Nat) : State :=
  if s.net.dirWait.contains x then s
  else let s1 := s.dirFetch x; if s.dramOn then s1 else s1.bump .dir 7

/-- What a delivered, authenticated frame from a node writes into its entry (R249): `route` is the next hop and channel where
it came otherwise than by reel. -/
def State.dirHeard (s : State) (x epoch : Nat) (route : Option (Nat × Nat)) : State :=
  let s0 := s.dirLearn x
  match s0.dirFind x with
  | none => s0
  | some i =>
    let s1 := (((s0.dirPutLe i 12 6 (s0.slot % 2 ^ 44)).dirPut i 18 [epoch]).dirCount i 36 4).dirCache i
    match route with
    | some (n, c) => ((s1.dirPutLe i 4 3 n).dirPut i 7 [c]).dirSetFlag i 4 true
    | none => s1

end Sys2Proof.Machine
end

