-- ==== Sys2Proof/Machine/Tenants.lean ====
section
/-! DEFINITION. Tenants: quotas, queue memory, rings, completions and message numbers (R283 to R296, R306, R310), and the wait of
a twin's primary for its partner (R369). -/

set_option Elab.async false

namespace Sys2Proof.Machine

/-! Tenants. -/

def State.tenant (s : State) (t : Fin 8) : Tenant := s.net.tenants.getD t.val Tenant.reset
def State.setTenant (s : State) (t : Fin 8) (x : Tenant) : State :=
  { s with net := { s.net with tenants := s.net.tenants.set t.val x } }

/-- A fresh number for a descriptor, message, frame or request: numbers rise with age. -/
def State.newId (s : State) : Nat × State := (s.net.nextId, { s with net := { s.net with nextId := s.net.nextId + 1 } })

/-- A fault of a tenant, in both its copies (R310). -/
def State.tenFault (s : State) (t : Fin 8) (i detail : Nat) : State := (s.fault (.tpage t) i detail).fault (.tnt t) i detail

/-- Whether a tenant's function may issue requests to the host (R412). -/
def State.dmaOk (s : State) (t : Fin 8) : Bool := let f := s.fnState (t.val + 1); f.bme && !f.d3

/-! The wait for the twin (R369). -/

/-- Whether the device serves: not silent under the twin (R366). -/
def State.serving (s : State) : Bool := !s.twinSilent

/-- Whether actions wait for the partner: in PRIMARY. -/
def State.mirrors (s : State) : Bool := decide (s.fld .twn F.TWN_STAT_STATE = 1)

/-- The kind code of a mirror record on which an action waits. -/
def Await.kind : Await → Nat
  | .desc .. => 1
  | .ack .. => 2
  | .flood .. => 3
  | .comp .. => 4
  | .deliv .. => 5

/-- The mirror record of an action is sent, and the action waits. -/
def State.awaitMirror (s : State) (a : Await) (data : List Nat) : State :=
  let n := s.twn.seq + 1
  (({ s with twn := { s.twn with seq := n, await := s.twn.await ++ [(n, s.ct, a)] } }).emit (.mirror n a.kind data)).bump .twn 4

/-! The pause of an activation (R487, R488). -/

/-- Whether the processors are restarting. -/
def State.restarting (s : State) : Bool := match s.nvm.upd.pause with | some p => p.begun && !p.done | none => false

/-- Whether the slot in progress lies in the pause: nothing but command symbols is transmitted. -/
def State.inPause (s : State) : Bool := match s.nvm.upd.pause with | some p => p.begun || decide (p.at_ ≤ s.ct / 2 ^ 20) | none => false

/-- Whether frames may be placed for the next slot. -/
def State.mayPlace (s : State) : Bool :=
  match s.nvm.upd.pause with
  | some p => decide (s.ct / 2 ^ 20 + 1 < p.at_) || (p.done && decide (p.at_ + 3 ≤ s.ct / 2 ^ 20 + 1))
  | none => true

/-! Quotas (R306, Table 10-7). -/

def State.quotaDepth (s : State) (t : Fin 8) : Nat := min 4096 (s.fld (.tnt t) F.TNT_QUOTA0_QDEPTH)
def State.quotaKeys (s : State) (t : Fin 8) : Nat := min 4096 (s.fld (.tnt t) F.TNT_QUOTA0_KEYS)
def State.quotaLanes (s : State) (t : Fin 8) : Nat := min 24 (s.fld (.tnt t) F.TNT_QUOTA1_LANES)

/-- Key slots that a tenant owns. -/
def State.keysUsed (s : State) (t : Nat) : Nat :=
  (s.cph.slots.filter fun e => decide (e.2.typ ≤ 1) && decide (e.2.owner = t)).length

/-- The tenant that a lane's work is charged to; 255 the device. -/
def Work.tenant : Work → Nat
  | .frame _ _ t _ => t
  | .auth _ _ t _ => t
  | .direct t _ _ => t

/-- Bulk lanes serving a tenant. -/
def State.lanesUsed (s : State) (t : Nat) : Nat :=
  (s.cph.lanes.filter fun l => match l with | some r => decide (r.work.tenant = t) | none => false).length

/-- Reassembly memory held by a tenant's waiting messages, and its spill in use, in bytes. -/
def State.rxHold (s : State) (t : Fin 8) : Nat := (((s.tenant t).waits.filter fun w => !w.spilled).map (·.data.length)).sum
def State.spillUsed (s : State) (t : Fin 8) : Nat := (((s.tenant t).waits.filter (·.spilled)).map (·.data.length)).sum

/-- The OVER_QUOTA bits of a tenant, as `TNT_MSTAT` [7:2] shows them. -/
def State.overQuota (s : State) (t : Fin 8) : Nat :=
  let x := s.tenant t
  let b := fun (i : Nat) (c : Bool) => if c then 2 ^ i else 0
  b 7 (decide (s.quotaDepth t ≤ x.inflight)) + b 6 (x.air.any fun a => decide (a.1 < 1000) && decide (a.2 ≤ 0)) +
    b 5 (decide (s.quotaKeys t ≤ s.keysUsed t.val)) + b 4 (decide (s.quotaLanes t ≤ s.lanesUsed t.val)) +
    b 3 (decide (s.fld (.tnt t) F.TNT_QUOTA1_DIRENT ≤ s.dirUsed t.val)) +
    b 2 (decide (s.fld (.tnt t) F.TNT_SPILL_SIZE_MIB ≤ ceilDiv (s.spillUsed t) 1048576))

/-- The quotas are judged again: a bit that rises sets OVER_QUOTA on both pages. -/
def State.quotas (s : State) : State :=
  (List.finRange 8).foldl (fun s t =>
    let now := s.overQuota t
    let was := (s.tenant t).oq
    let s1 := s.setTenant t { s.tenant t with oq := now }
    if (List.range 8).any fun i => bitOf now i && !bitOf was i then (s1.event (.tnt t) 4).event (.tpage t) 4 else s1) s

/-! Queue memory (R285, R312). -/

/-- The tenant's allocation as byte addresses: base and size. -/
def State.alloc (s : State) (t : Fin 8) : Nat × Nat :=
  (4096 * s.fld (.tnt t) F.TNT_QMEM_BASE, 4096 * s.fld (.tnt t) F.TNT_QMEM_SIZE)

/-- Whether a range lies in the allocation. -/
def State.inAlloc (s : State) (t : Fin 8) (off len : Nat) : Bool := decide (off + len ≤ (s.alloc t).2)

/-- Bytes of the tenant's queue memory, and whether a word of them is poisoned. -/
def State.qmemRead (s : State) (t : Fin 8) (off len : Nat) : List Nat × Bool :=
  let a := (s.alloc t).1 + off
  ((storeGetList 0 s.mem.qmem a len).map (·.toNat),
    s.mem.qmemBad.any fun w => decide (a / 4 ≤ w ∧ w < (a + len + 3) / 4))

/-- Whether a fetch came with poison: of queue memory, that the parity of a word failed on this read (R312). -/
def fetchPoison : Fetched → Bool
  | .ok _ p => p
  | .fail => false

/-- A read of queue memory by the device, `o` telling whether parity failed: a failure sets QMEM of the tenant with its ring (R310). -/
def State.qmemFetch (s : State) (t : Fin 8) (off len ring : Nat) (o : Fetched) : Fetched × State :=
  let x := s.qmemRead t off len
  let bad := x.2 || fetchPoison o
  (.ok x.1 bad, if bad then s.tenFault t 2 ring else s)

/-- Write bytes of the tenant's queue memory: words written whole lose their poison. -/
def State.qmemWrite (s : State) (t : Fin 8) (off : Nat) (bs : List Nat) : State :=
  let a := (s.alloc t).1 + off
  { s with mem := { s.mem with
    qmem := storePutList 0 s.mem.qmem a (bs.map (BitVec.ofNat 8))
    qmemBad := s.mem.qmemBad.filter fun w => !decide (a ≤ 4 * w ∧ 4 * w + 4 ≤ a + bs.length) } }

/-! Rings (R286): ring 8 of a tenant is that of the cipher request page (R341). -/

def ringPage (t : Fin 8) (q : Nat) : Page := if q = 8 then .crq t else .tpage t
def ringOff (q : Nat) : Nat := if q = 8 then 0x040 else 0x100 + 0x20 * q

/-- A field of a ring, named by its place in the block of ring 0. -/
def ringFld (q : Nat) (f : Fld) : Fld := { f with off := ringOff q + (f.off - 0x100), n := 1 }
def State.ring (s : State) (t : Fin 8) (q : Nat) (f : Fld) : Nat := s.fld (ringPage t q) (ringFld q f)
def State.setRing (s : State) (t : Fin 8) (q : Nat) (f : Fld) (v : Nat) : State := s.setFld (ringPage t q) (ringFld q f) v

def State.sqEn (s : State) (t : Fin 8) (q : Nat) : Bool := decide (s.ring t q F.TNT_SQ_CFG_EN = 1)
def State.cqEn (s : State) (t : Fin 8) (q : Nat) : Bool := decide (s.ring t q F.TNT_CQ_CFG_EN = 1)
def State.sqSize (s : State) (t : Fin 8) (q : Nat) : Nat := 2 ^ clampN 4 12 (s.ring t q F.TNT_SQ_CFG_SIZE_LOG2)
def State.cqSize (s : State) (t : Fin 8) (q : Nat) : Nat := 2 ^ clampN 4 12 (s.ring t q F.TNT_CQ_CFG_SIZE_LOG2)
def State.sqBase (s : State) (t : Fin 8) (q : Nat) : Nat :=
  64 * s.ring t q F.TNT_SQ_BASE_LO_ADDR + 2 ^ 32 * s.ring t q F.TNT_SQ_BASE_HI_ADDR
def State.cqBase (s : State) (t : Fin 8) (q : Nat) : Nat :=
  64 * s.ring t q F.TNT_CQ_BASE_LO_ADDR + 2 ^ 32 * s.ring t q F.TNT_CQ_BASE_HI_ADDR
def State.sqQmem (s : State) (t : Fin 8) (q : Nat) : Bool := decide (s.ring t q F.TNT_SQ_CFG_QMEM = 1)
def State.cqQmem (s : State) (t : Fin 8) (q : Nat) : Bool := decide (s.ring t q F.TNT_CQ_CFG_QMEM = 1)

/-- Entries between HEAD and WR_TAIL. -/
def State.sqFill (s : State) (t : Fin 8) (q : Nat) : Nat :=
  (s.ring t q F.TNT_SQ_STAT_WR_TAIL + s.sqSize t q - s.ring t q F.TNT_SQ_STAT_HEAD % s.sqSize t q) % s.sqSize t q

/-- Free entries of a CQ. -/
def State.cqRoom (s : State) (t : Fin 8) (q : Nat) : Nat :=
  s.cqSize t q - 1 - (s.ring t q F.TNT_CQ_STAT_TAIL + s.cqSize t q - s.ring t q F.TNT_CQ_STAT_HEAD % s.cqSize t q) % s.cqSize t q

/-! Descriptor fetches (R288). -/

/-- Whether a ring has a descriptor that can be fetched. -/
def State.fetchable (s : State) (t : Fin 8) (q : Nat) : Bool :=
  s.sqEn t q && decide (s.sqFill t q ≠ 0) && (s.sqQmem t q || s.dmaOk t)

/-- The next fetch is issued, one at a time: in rotation over the tenants and, within a tenant, over its SQs. -/
def State.issueFetch (s : State) : State :=
  if s.net.fetch.isSome || !s.serving || !s.running || s.restarting then s
  else
    let pick := ((List.range 8).map fun k => Fin.ofNat 8 (s.net.rotT + k)).findSome? fun t =>
      (((List.range 9).map fun k => ((s.tenant t).rot + k) % 9).find? fun q => s.fetchable t q).map fun q => (t, q)
    match pick with
    | none => s
    | some (t, q) =>
      let s1 : State := { s with net := { s.net with fetch := some (t.val, q, s.ring t q F.TNT_SQ_STAT_HEAD), rotT := (t.val + 1) % 8 } }
      let s2 := s1.setTenant t { s1.tenant t with rot := (q + 1) % 9 }
      if s2.sqQmem t q then s2
      else s2.emit (.hostRead (t.val + 1) (s2.sqBase t q + 64 * s2.ring t q F.TNT_SQ_STAT_HEAD) 64)

/-! Completions (R289, R294). -/

/-- A completion enters its reserved record; in PRIMARY its write waits for its mirror (R369). -/
def State.postComp (s : State) (t : Fin 8) (q : Nat) (bytes : List Nat) (head : Bool) (covers : Nat) : State :=
  let i := s.newId
  let s1 := i.2.setTenant t { i.2.tenant t with
    comps := (i.2.tenant t).comps ++ [⟨i.1, q, bytes, head, covers, !i.2.mirrors⟩] }
  if s1.mirrors then s1.awaitMirror (.comp t.val i.1) ([t.val, q] ++ bytes) else s1

/-- A completion entry (Table 10-3) before PHASE, SQ_HEAD and CT. -/
def compBytes (tag kind status flags service peer bufs msgno len : Nat) : List Nat :=
  leBytes 4 tag ++ [kind, status, flags, service] ++ leBytes 3 peer ++ [bufs] ++ leBytes 4 msgno ++ leBytes 2 len ++
    List.replicate 14 0

/-- A NOP completes once nothing accepted before it on its SQ is left (R292). -/
def State.fences (s : State) (t : Fin 8) : State :=
  let x := s.tenant t
  let clear := fun (f : Fence) =>
    !(x.msgs.any fun m => decide (m.q = f.q ∧ m.id < f.id)) && !(x.bufs.any fun b => decide (b.q = f.q ∧ b.id < f.id)) &&
    !(match x.deliv with | some d => d.bufs.any fun b => decide (b.q = f.q ∧ b.id < f.id) | none => false) &&
    !(x.fences.any fun g => decide (g.q = f.q ∧ g.id < f.id) && ((x.msgs.any fun m => decide (m.q = g.q ∧ m.id < g.id)) ||
      x.bufs.any fun b => decide (b.q = g.q ∧ b.id < g.id)))
  let done := x.fences.filter clear
  done.foldl (fun s f => s.postComp t f.q (compBytes f.tag 3 0 0 0 0 0 0 0) true 1)
    (s.setTenant t { x with fences := x.fences.filter fun f => !clear f })

/-- A SEND's final completion (R26, R294): the message leaves the device's hands. -/
def State.completeMsg (s : State) (t : Fin 8) (m : Msg) (status : Nat) : State :=
  let s1 := s.postComp t m.q (compBytes m.tag 0 status m.prio m.svc m.dst 0 m.no m.len) true 1
  let x := s1.tenant t
  let s2 := (s1.setTenant t { x with msgs := x.msgs.filter fun y => decide (y.id ≠ m.id) }).bump (.tnt t)
    (if status ≤ 1 then 1 else 2)
  let s3 := if m.sent then s2 else s2.histSample 1 ⟨some t.val, m.prio, 0, false⟩ none
  s3.fences t

/-- Frames of a message that are not yet on the air are discarded. -/
def State.dropFrames (s : State) (m : Nat) : State :=
  { s with net := { s.net with frames := s.net.frames.filter fun f =>
      !((match f.kind with | .seg i _ => decide (i = m) | _ => false) &&
        (match f.st with | .sent _ => false | _ => true)) } }

/-- A posted buffer is returned (KIND 4). -/
def State.returnBuf (s : State) (t : Fin 8) (b : Buf) (status : Nat) : State :=
  s.postComp t b.q (compBytes b.tag 4 status 0 0 0 0 0 0) false 1

/-- The DMA fault of a ring: a queue pair's SQ or CQ on the tenant's pages (R310), or the cipher rings' on their own. -/
def State.dmaFault (s : State) (t : Fin 8) (q : Nat) (cq : Bool) : State :=
  let d := (if cq then 8 else 0)
  if q = 8 then s.fault (.crq t) 3 d else s.tenFault t 3 (d + q)

/-- COMPLETION_WRITE_DONE: the oldest completion of a queue pair has been written, or its write has failed (R289). -/
def State.compWritten (s : State) (t : Fin 8) (q : Nat) (ok : Bool) : State :=
  match (s.tenant t).comps.find? fun c => decide (c.q = q) with
  | none => s
  | some c =>
    if !c.mir || !s.cqEn t q || decide (s.cqRoom t q = 0) || !(s.cqQmem t q || s.dmaOk t) || !s.serving || s.restarting then s
    else if !ok && !s.cqQmem t q then (s.setRing t q F.TNT_CQ_CFG_EN 0).dmaFault t q true
    else
      let tail := s.ring t q F.TNT_CQ_STAT_TAIL
      let phase := s.ring t q F.TNT_CQ_STAT_PHASE
      let pb := if q = 8 then 5 else 6
      let b0 := c.bytes.set pb (c.bytes.getD pb 0 % 128 + 128 * phase)
      let b1 := if q = 8 then b0
        else
          let h := if c.head then leBytes 2 (s.ring t q F.TNT_SQ_STAT_HEAD) else [0, 0]
          b0.take 18 ++ h ++ leBytes 8 s.ct ++ List.replicate 4 0
      let s1 := if s.cqQmem t q then s.qmemWrite t (s.cqBase t q + 32 * tail) b1
        else s.emit (.hostWrite (t.val + 1) (s.cqBase t q + 32 * tail) b1)
      let next := (tail + 1) % s.cqSize t q
      s1.withVec (t.val + 1) (s.ring t q F.TNT_CQ_CFG_VEC) false fun s =>
        let s2 := s.setRing t q F.TNT_CQ_STAT_TAIL next
        let s3 := if next = 0 then s2.setRing t q F.TNT_CQ_STAT_PHASE (1 - phase) else s2
        s3.setTenant t { s3.tenant t with
          comps := (s3.tenant t).comps.filter fun y => decide (y.id ≠ c.id)
          inflight := (s3.tenant t).inflight - c.covers }

end Sys2Proof.Machine
end

