-- ==== Sys2Proof/Machine/Keys.lean ====
section
/-! DEFINITION. The key cache, the privileged store and the KEY page (R324 to R334, R352, R353). -/

set_option Elab.async false

namespace Sys2Proof.Machine

/-! Descriptors of the cipher ring (Table 11-9) and their completions (Table 11-10). -/

/-- A little-endian field of `n` bytes. -/
def leAt (d : List Nat) (off n : Nat) : Nat := ofLe ((d.drop off).take n)

def crOpc (d : List Nat) : Nat := d.getD 0 0
def crMode (d : List Nat) : Nat := d.getD 1 0 / 64
def crKey (d : List Nat) : Nat := leAt d 2 2 % 4096
def crTag (d : List Nat) : Nat := leAt d 4 4
def crLen (d : List Nat) : Nat := leAt d 8 3
def crAad (d : List Nat) : Nat := leAt d 12 2
def crSrc (d : List Nat) : Nat := leAt d 16 8
def crDst (d : List Nat) : Nat := leAt d 24 8

/-- A cipher completion is posted and counted (R341, R355). -/
def State.postCr (s : State) (t : Fin 8) (d : List Nat) (status slot : Nat) (nonce : List Nat) (outLen : Nat) : State :=
  let b := leBytes 4 (crTag d) ++ [status, 0] ++ leBytes 2 slot ++ (nonce ++ List.replicate (13 - nonce.length) 0) ++ [0, 0, 0] ++
    leBytes 4 outLen ++ [0, 0, 0, 0]
  ((s.postComp t 8 b false 0).bump (.crq t) (if status = 0 then 0 else 1)).bump .cph 3

/-! Slots (R324 to R326). -/

/-- The key slot that a lane's work uses. -/
def Work.key : Work → Option Nat
  | .frame _ _ _ k => some k
  | .auth _ _ _ k => some k
  | .direct _ d _ => if 0x10 ≤ crOpc d ∧ crOpc d ≤ 0x13 then some (crKey d) else none

/-- Whether a lane uses a slot. -/
def State.slotInUse (s : State) (k : Nat) : Bool :=
  s.cph.lanes.any fun l => match l with | some r => decide (r.work.key = some k) | none => false

def State.putSlot (s : State) (k : Nat) (x : KeySlot) : State := { s with cph := { s.cph with slots := storeIns s.cph.slots k x } }

/-- A slot is zeroed; a tenant's own is reported to it where `tell` says so (R355). -/
def State.delSlot (s : State) (k : Nat) (tell : Bool) : State :=
  let s1 : State := { s with cph := { s.cph with slots := storeDel s.cph.slots k } }
  match s.slot? k with
  | some x => if tell && decide (x.typ ≤ 1) && decide (x.owner < 8) then s1.event (.crq (Fin.ofNat 8 x.owner)) 1 else s1
  | none => s1

/-- Whether a slot other than `k` holds a key identifier: only KEY, PEER and DERIVED slots have one. -/
def State.kidHeld (s : State) (kid k : Nat) : Bool :=
  s.cph.slots.any fun e => decide (e.1 ≠ k) && decide (e.2.kid = kid) && decide (e.2.typ = 0 ∨ e.2.typ = 1 ∨ e.2.typ = 3)

/-- Slots of 64 to 4,095 that are free or of TYPE NODE. -/
def State.spareSlots (s : State) : Nat :=
  4032 - (s.cph.slots.filter fun e => decide (64 ≤ e.1) && decide (e.2.typ ≠ 2)).length

/-- Whether a load of a new slot is refused as FULL (R325). -/
def State.loadFull (s : State) : Bool := decide (s.spareSlots < min 4032 (s.fld .key F.KEY_CFG_NODE_MIN) + 1)

/-- The slot that a new key takes: the lowest free one, else the NODE slot used longest ago that no lane uses. -/
def State.newSlot (s : State) : Option Nat :=
  match (List.range 4032).find? fun k => (s.slot? (64 + k)).isNone with
  | some k => some (64 + k)
  | none =>
    ((s.cph.slots.filter fun e => decide (e.2.typ = 2) && !s.slotInUse e.1).foldl (fun (a : Option (Nat × Nat)) e =>
      match a with
      | none => some (e.1, e.2.used)
      | some b => if e.2.used < b.2 then some (e.1, e.2.used) else a) none).map (·.1)

/-- A slot is marked as used now. -/
def State.useSlot (s : State) (k : Nat) : State :=
  match s.slot? k with
  | some x =>
    let n := s.cph.stamp + 1
    { s with cph := { s.cph with stamp := n, slots := storeIns s.cph.slots k { x with used := n } } }
  | none => s

/-- The OWN slot. -/
def State.ownSlot (s : State) : Option Nat := (s.cph.slots.find? fun e => decide (e.2.typ = 4)).map (·.1)

/-- A slot that a load has just filled. -/
def KeySlot.make (typ : Nat) (big tag16 : Bool) (modes : Nat) (priv : Bool) (owner uses kid key handle : Nat) : KeySlot :=
  ⟨typ, big, tag16, modes, priv, owner, uses, kid, key, handle, 0, none, false⟩

/-- The slot of TYPE KEY or DERIVED with a key identifier (Table 11-4). -/
def State.kidSlot (s : State) (kid : Nat) : Option Nat :=
  (s.cph.slots.find? fun e => decide (e.2.typ = 0 ∨ e.2.typ = 3) && decide (e.2.kid = kid)).map (·.1)

/-- The NODE slot of a handle. -/
def State.handleSlot (s : State) (h : Nat) : Option Nat :=
  (s.cph.slots.find? fun e => decide (e.2.typ = 2) && decide (e.2.handle = h)).map (·.1)

/-- Whether a tenant may use a slot: it owns it, or has its USE bit in a protected one. -/
def KeySlot.serves (x : KeySlot) (t : Nat) : Bool := decide (x.owner = t) || bitOf x.use t

/-- The saved rows of the key area change; how many rows that writes is not stated (R479). -/
def State.nvmRows (s : State) : State := let f := s.freeNat; f.2.bumpBy .nvm 0 f.1

/-- A protected, DERIVED or OWN slot is kept in MRAM as it now stands. -/
def State.saveSlot (s : State) (k : Nat) (d : Option DeriveCmd) : State :=
  { s with nvm := { s.nvm with
    slots := (match s.slot? k with | some x => storeIns s.nvm.slots k x | none => storeDel s.nvm.slots k)
    derives := (match d with | some c => storeIns s.nvm.derives k c | none => storeDel s.nvm.derives k) } }.nvmRows

/-! Wrapped material (R329). -/

/-- The attribute byte of a binding. -/
def attrByte (big tag16 : Bool) (modes : Nat) : Nat := (if big then 0x80 else 0) + (if tag16 then 0x40 else 0) + modes % 16

/-- The key inside wrapped material, where it unwraps under an entry with the binding expected. -/
def unwrapKey (pk : Pk) (big : Bool) (wrapped binding : List Nat) : Option Nat :=
  let n := if big then 32 else 16
  match kwUnwrap (beBytes (if pk.big then 32 else 16) pk.key) (wrapped.take (n + 16)) with
  | some p => if p.drop n = binding then some (ofBe (p.take n)) else none
  | none => none

def State.pkEntry (s : State) (k : Nat) : Pk := s.cph.pk.getD k ⟨0, false, 0⟩

/-- Set an entry, on chip and in MRAM. -/
def State.setPk (s : State) (k : Nat) (e : Pk) : State :=
  { s with cph := { s.cph with pk := s.cph.pk.set k e }, nvm := { s.nvm with pk := s.nvm.pk.set k e } }.nvmRows

/-- A failed unwrap is counted and reported. -/
def State.unwrapFail (s : State) : State := (s.bump .key 3).event .key 4

/-! Per-node keys (R331). -/

/-- The DRAM table's record address of an index, in units of 64 bytes, and the tables' sizes. -/
def State.wktAddr (s : State) (i : Nat) : Nat := s.fld .key F.KEY_WKT_BASE_MIB * 16384 + i
def State.wktSize (s : State) : Nat := 2 ^ clampN 16 23 (s.fld .key F.KEY_WKT_SIZE_LOG2)

def WktRec.none : WktRec := ⟨false, 0, 0, []⟩

/-- The record of a handle, where its table holds one. -/
def State.wktRec (s : State) (h : Nat) : Option WktRec :=
  let i := h % 2 ^ 28
  match h / 2 ^ 28 with
  | 1 => if s.dramOn && decide (i < s.wktSize) && !s.dramDamaged 1 (64 * i) then some (storeGet WktRec.none s.nvm.dramWkt (s.wktAddr i)) else none
  | 2 => if i < 8192 then some (storeGet WktRec.none s.nvm.wkt i) else none
  | _ => none

/-- The key of a per-node record: VALID, under a KEK entry, and its binding's type byte and NODE as the record names them; the
attributes are those of the binding. -/
def State.wktKey (s : State) (r : WktRec) : Option (Nat × Nat) :=
  let pk := s.pkEntry r.kek
  if !r.valid || decide (pk.role ≠ 3) then none
  else
    let k := beBytes (if pk.big then 32 else 16) pk.key
    let try_ := fun (n : Nat) => match kwUnwrap k (r.wrapped.take (n + 16)) with
      | some p =>
        let b := p.drop n
        if decide (b.take 4 = [3] ++ beBytes 3 r.node) && decide (b.drop 5 = [0, 0, 0]) &&
            decide (bitOf (b.getD 4 0) 7 = decide (n = 32)) then some (ofBe (p.take n), b.getD 4 0) else none
      | none => none
    match try_ 16 with
    | some x => some x
    | none => try_ 32

/-- Fill a NODE slot from a handle's record, or resolve to no key (R331). -/
def State.resolveHandle (s : State) (h : Nat) (readable : Bool) : Option Nat × State :=
  match if readable then (s.wktRec h).bind fun r => s.wktKey r else none with
  | none => (none, s.unwrapFail)
  | some (key, a) =>
    match s.newSlot with
    | none => (none, s)
    | some k =>
      let x := KeySlot.make 2 (bitOf a 7) (bitOf a 6) (a % 16) false 15 0 0 key h
      (some k, ((s.putSlot k x).useSlot k).bump .key 2)

/-! KEY commands (Table 11-14). -/

/-- Staged bytes. -/
def State.stagedBytes (s : State) : List Nat :=
  (List.range 12).flatMap fun i => leBytes 4 (s.fld .key (F.KEY_STAGE_DATA.at i))

def State.kArg (s : State) (f : Fld) : Nat := s.fld .key f

/-- The key staged in clear. -/
def State.stagedKey (s : State) : Nat := ofBe (s.stagedBytes.take (if s.kArg F.KEY_ARG0_SIZE256 = 1 then 32 else 16))

/-- The staged material unwrapped under an entry that must have a role: status, and the key. -/
def State.stagedUnwrap (s : State) (role : Nat) (binding : List Nat) : Nat × Nat :=
  let pk := s.pkEntry (s.kArg F.KEY_ARG0_WRAP_PK)
  if pk.role ≠ role then (6, 0)
  else match unwrapKey pk (s.kArg F.KEY_ARG0_SIZE256 = 1) s.stagedBytes binding with
    | some k => (0, k)
    | none => (2, 0)

/-- The attribute byte that the arguments name. -/
def State.argAttr (s : State) : Nat :=
  attrByte (s.kArg F.KEY_ARG0_SIZE256 = 1) (s.kArg F.KEY_ARG0_TAG16 = 1) (s.kArg F.KEY_ARG0_MODES)

/-- Whether attributes break Table 11-3: no mode, or GCM with TAG16 0. -/
def attrBad (modes : Nat) (tag16 : Bool) : Bool := decide (modes % 16 = 0) || (bitOf modes 2 && !tag16)

/-- A slot with the arguments' attributes. -/
def State.argSlot (s : State) (typ kid use key : Nat) : KeySlot :=
  KeySlot.make typ (s.kArg F.KEY_ARG0_SIZE256 = 1) (s.kArg F.KEY_ARG0_TAG16 = 1) (s.kArg F.KEY_ARG0_MODES) false 15 use kid key 0

/-- PK_LOAD (R328, R329). -/
def State.pkLoadCmd (s : State) : Nat × Nat × State :=
  let k := s.kArg F.KEY_ARG0_PK
  let role := s.kArg F.KEY_ARG0_ROLE
  let big := decide (s.kArg F.KEY_ARG0_SIZE256 = 1)
  if k = 0 ∨ ¬ (2 ≤ role ∧ role ≤ 5) then (1, 0, s)
  else if s.kArg F.KEY_ARG0_WRAPPED = 0 then
    if s.nvm.locked then (5, 0, s) else (0, 0, s.setPk k ⟨role, big, s.stagedKey⟩)
  else
    let u := s.stagedUnwrap 2 [1, k, role, 0, 0, 0, 0, 0]
    if u.1 = 0 then (0, 0, s.setPk k ⟨role, big, u.2⟩) else (u.1, 0, s)

/-- PK_CLEAR. -/
def State.pkClearCmd (s : State) : Nat × Nat × State :=
  let k := s.kArg F.KEY_ARG0_PK
  if k = 0 then (1, 0, s) else (0, 0, s.setPk k ⟨0, false, 0⟩)

/-- A derived key's slot (Table 11-7). -/
def derivedSlot (label kid key : Nat) : KeySlot :=
  KeySlot.make 3 false (decide (3 ≤ label)) (if label = 1 then 2 else 8) (decide (label ≠ 1)) 15 0 kid key 0

/-- The key that a DERIVE command makes (R330), where its entry is of role NETWORK. -/
def State.deriveCmdKey (s : State) (d : DeriveCmd) : Option Nat :=
  let pk := s.pkEntry d.pk
  if pk.role = 4 then some (ofBe (deriveKey (beBytes (if pk.big then 32 else 16) pk.key) d.label d.netid d.idx)) else none

/-- DERIVE (R330). -/
def State.deriveRun (s : State) : Nat × Nat × State :=
  let k := s.kArg F.KEY_ARG1_SLOT
  let kid := s.kArg F.KEY_ARG1_KID
  let d : DeriveCmd := ⟨s.kArg F.KEY_ARG0_PK, s.kArg F.KEY_ARG0_LABEL, s.kArg F.KEY_ARG0_IDX, s.kArg F.KEY_ARG2_NODE % 65536⟩
  let other := match s.slot? k with | some x => decide (x.typ ≠ 3) | none => false
  if k < 64 ∨ 0xFFEF < kid ∨ ¬ (1 ≤ d.label ∧ d.label ≤ 4) ∨ (d.label ≠ 3 ∧ d.idx ≠ 0) ∨ other = true then (1, 0, s)
  else match s.deriveCmdKey d with
    | none => (6, 0, s)
    | some key =>
      if s.kidHeld kid k then (3, 0, s)
      else if (s.slot? k).isNone && s.loadFull then (4, 0, s)
      else (0, k, ((s.putSlot k (derivedSlot d.label kid key)).useSlot k).saveSlot k (some d))

/-- GROUP_LOAD (R325, R329). -/
def State.groupLoadCmd (s : State) : Nat × Nat × State :=
  let k := s.kArg F.KEY_ARG1_SLOT
  let kid := s.kArg F.KEY_ARG1_KID
  let use := s.kArg F.KEY_ARG2_USE
  if 64 ≤ k ∨ 0xFFEF < kid ∨ attrBad (s.kArg F.KEY_ARG0_MODES) (s.kArg F.KEY_ARG0_TAG16 = 1) then (1, 0, s)
  else
    let u := s.stagedUnwrap 3 ([2] ++ beBytes 2 kid ++ [s.argAttr, use, 0, 0, 0])
    if u.1 = 6 then (6, 0, s)
    else if s.kidHeld kid k then (3, 0, s)
    else if u.1 ≠ 0 then (u.1, 0, s)
    else (0, k, ((s.putSlot k (s.argSlot 0 kid use u.2)).useSlot k).saveSlot k none)

/-- OWN_LOAD (R329). -/
def State.ownLoadCmd (s : State) : Nat × Nat × State :=
  if attrBad (s.kArg F.KEY_ARG0_MODES) (s.kArg F.KEY_ARG0_TAG16 = 1) then (1, 0, s)
  else
    let u := s.stagedUnwrap 3 ([3] ++ beBytes 3 s.ownNode ++ [s.argAttr, 0, 0, 0])
    if u.1 ≠ 0 then (u.1, 0, s)
    else
      let place := match s.ownSlot with
        | some k => some k
        | none => if s.loadFull then none else s.newSlot
      match place with
      | none => (4, 0, s)
      | some k => (0, k, ((s.putSlot k (s.argSlot 4 0 0 u.2)).useSlot k).saveSlot k none)

/-- WKT_PUT (R331). -/
def State.wktPutCmd (s : State) : Nat × Nat × State :=
  let loc := s.kArg F.KEY_ARG3_LOC
  let i := s.kArg F.KEY_ARG3_INDEX
  let node := s.kArg F.KEY_ARG2_NODE
  let okAt := (decide (loc = 1) && s.dramOn && decide (i < s.wktSize)) || (decide (loc = 2) && decide (i < 8192))
  if !okAt then (1, 0, s)
  else
    let u := s.stagedUnwrap 3 ([3] ++ beBytes 3 node ++ [s.argAttr, 0, 0, 0])
    if u.1 ≠ 0 then (u.1, 0, s)
    else
      let n := if s.kArg F.KEY_ARG0_SIZE256 = 1 then 48 else 32
      let r : WktRec := ⟨true, node, s.kArg F.KEY_ARG0_WRAP_PK, s.stagedBytes.take n ++ List.replicate (48 - n) 0⟩
      let s1 : State := if loc = 1 then { s with nvm := { s.nvm with dramWkt := storeIns s.nvm.dramWkt (s.wktAddr i) r } }
        else ({ s with nvm := { s.nvm with wkt := storeIns s.nvm.wkt i r } }).bumpBy .nvm 0 2
      match s1.handleSlot (loc * 2 ^ 28 + i) with
      | some k => (0, i, s1.delSlot k false)
      | none => (0, i, s1)

/-- SLOT_QUERY. -/
def State.slotQueryCmd (s : State) : Nat × Nat × State :=
  let k := s.kArg F.KEY_ARG1_SLOT
  let show_ := fun (info use : Nat) =>
    (s.setReg .key 0x058 (BitVec.ofNat 32 info)).setReg .key 0x05C (BitVec.ofNat 32 use)
  match s.slot? k with
  | some x =>
    if x.lost then (7, 0, show_ 0 0)
    else
      let b := fun (c : Bool) (i : Nat) => if c then 2 ^ i else 0
      (0, k, show_ (2 ^ 31 + x.typ * 2 ^ 28 + b x.big 27 + b x.tag16 26 + b x.priv 25 + x.modes * 2 ^ 20 + x.owner * 2 ^ 16 + x.kid) x.use)
  | none => (7, 0, show_ 0 0)

/-- SLOT_CLEAR. -/
def State.slotClearCmd (s : State) : Nat × Nat × State :=
  let k := s.kArg F.KEY_ARG1_SLOT
  match s.slot? k with
  | none => (7, 0, s)
  | some x =>
    let s1 := s.delSlot k true
    (0, k, if decide (k < 64) || decide (3 ≤ x.typ) then s1.saveSlot k none else s1)

/-- Slots that the command in progress replaces or clears. -/
def State.cmdSlots (s : State) : List Nat :=
  let l := fun (o : Option Nat) => match o with | some k => [k] | none => []
  match s.kArg F.KEY_CMD_OP with
  | 2 | 3 | 7 => [s.kArg F.KEY_ARG1_SLOT]
  | 4 => l s.ownSlot
  | 5 => l (s.handleSlot (s.kArg F.KEY_ARG3_LOC * 2 ^ 28 + s.kArg F.KEY_ARG3_INDEX))
  | _ => []

/-- What the command that `KEY_CMD` names answers: STATUS, SLOT and the state. -/
def State.keyOp (s : State) : Nat × Nat × State :=
  match s.kArg F.KEY_CMD_OP with
  | 0 => s.pkLoadCmd
  | 1 => s.pkClearCmd
  | 2 => s.deriveRun
  | 3 => s.groupLoadCmd
  | 4 => s.ownLoadCmd
  | 5 => s.wktPutCmd
  | 6 => s.slotQueryCmd
  | _ => s.slotClearCmd

/-- A key command ends: its failure is counted, the staged key words are cleared, and the result is reported. -/
def State.keyEnd (r : Nat × Nat) (s : State) : State :=
  let s1 := if r.1 = 2 then s.unwrapFail else s
  let s2 := if r.1 = 0 then s1 else s1.bump .key 6
  let s3 := (List.range 12).foldl (fun s i => s.setReg .key (0x0C0 + 4 * i) 0) s2
  let s4 := s3.setReg .key 0x054 (BitVec.ofNat 32 (r.1 * 2 ^ 28 + r.2 % 2 ^ 28))
  (({ s4 with cph := { s4.cph with busy := false } }).event .key 1).quotas

/-- The command in progress runs, unless a lane uses a slot it replaces or it needs a privileged lane and none is in
service; its result is posted and the staging registers are zeroed. -/
def State.keyRun (s : State) : State :=
  let op := s.kArg F.KEY_CMD_OP
  let needs := decide (op ≠ 1) && decide (op < 6)
  if !s.cph.busy || (s.cmdSlots.any s.slotInUse) || (needs && !s.privOk) then s
  else State.keyEnd (s.keyOp.1, s.keyOp.2.1) s.keyOp.2.2

/-- A write of `KEY_CMD`: GO runs OP while the block takes work (R37); a write while a command runs is ignored. -/
def keyCmdWrite (p : Page) (w : Word) (s : State) : State :=
  if s.cph.busy then s
  else
    let s1 := applyWrite p 0x040 w s
    if w.getLsbD 31 && s1.enabled .key then ({ s1 with cph := { s1.cph with busy := true } }).keyRun else s1

/-- PK_LOAD, PK_CLEAR, DERIVE, GROUP_LOAD, OWN_LOAD, WKT_PUT, SLOT_QUERY and SLOT_CLEAR: writes of `KEY_CMD`. -/
def execPkLoad (q : Req) (s : State) : Host.Outcome State Fault Refusal := .next (writeWord q .key 0x040 keyCmdWrite s)
def execPkClear (q : Req) (s : State) : Host.Outcome State Fault Refusal := .next (writeWord q .key 0x040 keyCmdWrite s)
def execKeyDerive (q : Req) (s : State) : Host.Outcome State Fault Refusal := .next (writeWord q .key 0x040 keyCmdWrite s)
def execGroupLoad (q : Req) (s : State) : Host.Outcome State Fault Refusal := .next (writeWord q .key 0x040 keyCmdWrite s)
def execOwnLoad (q : Req) (s : State) : Host.Outcome State Fault Refusal := .next (writeWord q .key 0x040 keyCmdWrite s)
def execWktPut (q : Req) (s : State) : Host.Outcome State Fault Refusal := .next (writeWord q .key 0x040 keyCmdWrite s)
def execSlotQuery (q : Req) (s : State) : Host.Outcome State Fault Refusal := .next (writeWord q .key 0x040 keyCmdWrite s)
def execSlotClear (q : Req) (s : State) : Host.Outcome State Fault Refusal := .next (writeWord q .key 0x040 keyCmdWrite s)

/-- A write of a staging register: its data is held until the command ends, though it reads as zero. -/
def keyStageWrite (off : Nat) (p : Page) (w : Word) (s : State) : State := s.setReg p off w

/-! Provisioning (R328). -/

/-- A write of `KEY_PROV`: LOCKED is set once, in MRAM. -/
def keyProvWrite (_ : Page) (w : Word) (s : State) : State :=
  if w.getLsbD 0 && !s.nvm.locked then ({ s with nvm := { s.nvm with locked := true } }).nvmRows else s

/-- PROV_LOCK: a write of `KEY_PROV`. -/
def execProvLock (q : Req) (s : State) : Host.Outcome State Fault Refusal := .next (writeWord q .key 0x060 keyProvWrite s)

/-- Every direct request of a tenant that has not completed, completes FLUSHED; `all`: those on lanes too. -/
def State.flushDirect (s : State) (t : Fin 8) (all : Bool) : State :=
  let x := s.tenant t
  let mine := fun (r : CReq) => match r.work with | .direct u _ _ => decide (u = t.val) | _ => false
  let desc := fun (r : CReq) => match r.work with | .direct _ d _ => d | _ => []
  let waiting := s.cph.wait.filter mine
  let running := if all then s.cph.lanes.filterMap fun l => l.bind fun r => if mine r then some r else none else []
  let s1 := s.setTenant t { x with creqs := [] }
  let s2 : State := { s1 with cph := { s1.cph with
    wait := s1.cph.wait.filter fun r => !mine r
    lanes := if all then s1.cph.lanes.map fun l => l.bind fun r => if mine r then none else some r else s1.cph.lanes } }
  ((x.creqs.map (·.2)) ++ (waiting ++ running).map desc).foldl (fun s d => s.postCr t d 0x0C (crKey d) [] 0) s2

/-- Whether a message still needs a key: something of it has yet to be protected. -/
def State.needsKey (s : State) (m : Msg) : Bool :=
  m.data.isNone || m.left != [] || s.net.frames.any fun f =>
    (match f.kind with | .seg i _ => decide (i = m.id) | _ => false) && decide (f.st = .key ∨ f.st = .enc)

/-- Zeroisation (R328). -/
def State.zeroise (s : State) : State :=
  let s1 := (List.finRange 8).foldl (fun s t => s.flushDirect t true) s
  let s2 := (List.finRange 8).foldl (fun s t =>
    ((s.tenant t).msgs.filter s.needsKey).foldl (fun s m => (s.dropFrames m.id).completeMsg t m 0x0B) s) s1
  let s3 : State := { s2 with
    net := { s2.net with frames := s2.net.frames.filter (fun f => !decide (f.st = .key ∨ f.st = .enc)), auths := [] }
    cph := { s2.cph with
      slots := [], wait := [], lanes := s2.cph.lanes.map fun _ => none
      pk := s2.cph.pk.zipIdx.map fun e => if e.2 = 0 then e.1 else ⟨0, false, 0⟩ }
    nvm := { s2.nvm with
      slots := [], derives := [], wkt := [], locked := false
      pk := s2.nvm.pk.zipIdx.map fun e => if e.2 = 0 then e.1 else ⟨0, false, 0⟩ } }
  ((s3.bumpBy .key 4 s2.net.auths.length).nvmRows.event .key 2).quotas

/-- A write of `KEY_ZERO`. -/
def keyZeroWrite (_ : Page) (w : Word) (s : State) : State := if w = 0x800000A5 then s.zeroise else s

/-- ZEROISE: a write of `KEY_ZERO`. -/
def execZeroise (q : Req) (s : State) : Host.Outcome State Fault Refusal := .next (writeWord q .key 0x064 keyZeroWrite s)

/-! Failing slots (R334). -/

/-- KEY_SLOT_PARITY: a slot's parity fails. -/
def execKeySlotParity (k : Fin 4096) (s : State) : Host.Outcome State Fault Refusal :=
  .next (
    match s.slot? k.val with
    | none => s
    | some x =>
      let s1 := (s.fault .key 0 k.val).bump .key 5
      if decide (k.val < 64) || decide (3 ≤ x.typ) then s1.putSlot k.val { x with lost := true }
      else
        let s2 := s1.delSlot k.val false
        (if x.typ ≤ 1 then s2.event .key 3 else s2).quotas)

/-- KEY_SLOT_RESTORED: a slot that MRAM keeps is restored. -/
def execKeySlotRestored (k : Fin 4096) (s : State) : Host.Outcome State Fault Refusal :=
  .next (
    match s.slot? k.val, s.nvm.slots.find? fun e => decide (e.1 = k.val) with
    | some x, some e => if x.lost then s.putSlot k.val { e.2 with lost := false, used := x.used } else s
    | _, _ => s)

/-! Views. -/

/-- The registers of KEY that show the stores. -/
def State.keyView (s : State) (off : Nat) : Option Word :=
  let roles := fun (lo : Nat) => ((List.range 8).map fun j => (s.pkEntry (lo + j)).role * 2 ^ (4 * j)).sum
  match off with
  | 0x040 => some (F.KEY_CMD_BUSY.put (if s.cph.busy then 1 else 0) (s.reg .key off))
  | 0x060 => some (if s.nvm.locked then 1 else 0)
  | 0x068 => some (BitVec.ofNat 32 (roles 0))
  | 0x06C => some (BitVec.ofNat 32 (roles 8))
  | 0x144 => some (match s.ownSlot with | some k => BitVec.ofNat 32 (2 ^ 31 + k) | none => 0)
  | 0x150 =>
    let hi := s.cph.slots.filter fun e => decide (64 ≤ e.1)
    some (BitVec.ofNat 32 ((4032 - hi.length) * 65536 + (hi.filter fun e => decide (e.2.typ = 2)).length))
  | 0x154 => some (BitVec.ofNat 32 (((List.range 16).map fun j => if (s.pkEntry j).role = 0 then 0 else 2 ^ j).sum))
  | _ => none

/-- What a write to the KEY page does beyond its fields. -/
def keyEffect (off : Nat) (p : Page) (w : Word) (s : State) : State :=
  if off = 0x040 then keyCmdWrite p w s
  else if off = 0x060 then keyProvWrite p w s
  else if off = 0x064 then keyZeroWrite p w s
  else if 0x0C0 ≤ off ∧ off < 0x0F0 then keyStageWrite off p w s
  else applyWrite p off w s

end Sys2Proof.Machine
end

