-- ==== Sys2Proof/Machine/Routing.lean ====
section
/-! DEFINITION. The routing table: entries, lookup, link state, link cost, and the RTE page (R241 to R247, R258). -/

set_option Elab.async false

namespace Sys2Proof.Machine

/-! Link state of a channel and peer. -/

def Arq.fresh (c peer : Nat) : Arq := ⟨c, peer, 0, [], none, [], [], 0, false, false, 0, false, true⟩
def State.arq? (s : State) (c peer : Nat) : Option Arq := s.net.arq.find? fun a => decide (a.chan = c ∧ a.peer = peer)
def State.arq (s : State) (c peer : Nat) : Arq := (s.arq? c peer).getD (Arq.fresh c peer)
def State.setArq (s : State) (a : Arq) : State :=
  { s with net := { s.net with arq := s.net.arq.filter (fun b => !decide (b.chan = a.chan ∧ b.peer = a.peer)) ++ [a] } }

/-- Whether the link to a peer on a channel is down. -/
def State.linkDown (s : State) (c peer : Nat) : Bool := match s.arq? c peer with | some a => a.down | none => false

/-! The table (R241). -/

/-- A prefix with the bits below LEN zero. -/
def prefixOf (x len : Nat) : Nat := x % 2 ^ 24 / 2 ^ (24 - len) * 2 ^ (24 - len)

/-- Whether the routing unit serves: F7 accepted and the page enabled. -/
def State.rteOn (s : State) : Bool := s.feat 7 && s.enabled .rte

def State.route? (s : State) (pre len : Nat) : Option Route :=
  s.net.routes.find? fun r => decide (r.pre = prefixOf pre len ∧ r.len = len)
def State.routeAt (s : State) (i : Nat) : Option Route := s.net.routes.find? fun r => decide (r.idx = i)

def State.delRoute (s : State) (i : Nat) : State :=
  { s with net := { s.net with routes := s.net.routes.filter fun r => decide (r.idx ≠ i) } }

/-- Put an entry at its index; entries stand in index order. -/
def State.putRoute (s : State) (r : Route) : State :=
  let o := s.net.routes.filter fun x => decide (x.idx ≠ r.idx)
  { s with net := { s.net with routes := (o.filter fun x => decide (x.idx < r.idx)) ++ [r] ++ o.filter fun x => decide (r.idx < x.idx) } }

/-- The lowest free index. -/
def State.freeRoute (s : State) : Option Nat :=
  let n := (s.net.routes.zipIdx.find? fun e => decide (e.1.idx ≠ e.2)).map (·.2)
  match n with
  | some k => some k
  | none => if s.net.routes.length < 16384 then some s.net.routes.length else none

/-- The longest matching entry of at most LEN `len` (R241). -/
def State.lookup (s : State) (x len : Nat) : Option Route :=
  (List.range (len + 1)).reverse.findSome? fun l => s.route? x l

/-! Link cost (R247). -/

def State.linkCost (s : State) (c peer : Nat) : Nat :=
  match s.live c with
  | none => 255
  | some cfg =>
    let n := cfgGet cfg F.CH_CFG_NUMER
    let l := s.link c peer
    let a := s.arq c peer
    let regions := if n = 2 then 1 else 24
    let load := if a.divOnly && (a.heard || a.prev) then 64
      else ((List.range regions).map fun r => s.meanLoad n l.rx r).sum / regions
    let f := (l.cw.filter (·.2)).length
    min 255 (1 + 12288 / max 64 load + 64 * f / max 1 l.cw.length)

/-! Paths (R243, R245, R530). -/

/-- A path: a peer on a channel in a diversity mode, a flood, none for now, or one that waits for a directory entry. -/
inductive Hop where
  | to (c peer div : Nat)
  | flood
  | wait
  | fetch
  deriving DecidableEq, Repr

/-- Whether a channel serves a frame of a network ID: in force, and of that NETID where one is given. -/
def State.chanServes (s : State) (c : Nat) (netid : Option Nat) : Bool :=
  match s.live c with
  | some cfg => (match netid with | some n => decide (cfgGet cfg F.CH_CFG_NETID = n) | none => true)
  | none => false

/-- The next hop of an entry: the primary unless it is down, else the alternate. -/
def State.routeHop (s : State) (netid : Option Nat) (r : Route) : Option Hop :=
  if !r.down && s.chanServes r.chan netid then some (.to r.chan r.next 0)
  else if r.alt ≠ 0 && s.chanServes r.altCh netid then some (.to r.altCh r.alt r.altDiv)
  else none

/-- The channels of the reel set on which floods go, those in force. -/
def State.reelSet (s : State) : List Nat :=
  let m := (s.reg .rly 0x048).toNat + (s.reg .rly 0x04C).toNat * 2 ^ 32
  if s.feat 6 && s.enabled .rly then (List.range 64).filter fun c => bitOf m c && (s.live c).isSome else []

/-- The path of a frame to a unicast node that is not its own (R243): `orig` for a frame that the node originates, which waits for its
directory entry (R251). -/
def State.choosePath (s : State) (dst : Nat) (orig : Bool) (netid : Option Nat) : Hop :=
  let use := fun (o : Option Route) => o.bind fun r => s.routeHop netid r
  match if s.rteOn then use (s.route? dst 24) else none with
  | some h => h
  | none =>
    if orig && s.enabled .dir && !s.dirHit dst then .fetch
    else
      let dir := if !s.dirHit dst || s.dirGone dst then none else (s.dirFind dst).bind fun i =>
        if s.dirRouteValid i && s.chanServes (s.dirRouteCh i) netid then some (Hop.to (s.dirRouteCh i) (s.dirRouteNext i) 0) else none
      match dir with
      | some h => h
      | none =>
        match if s.rteOn then use (s.lookup dst 23) else none with
        | some h => h
        | none => if s.feat 6 && s.reelSet != [] then .flood else .wait

/-- What the choice of a path leaves beside it: a routing lookup is counted, and one that finds no route (R258); where step 2 of
R243 is reached the directory is looked up, and the entry is used or, for a forwarded frame, fetched (R251). -/
def State.countLookup (s : State) (dst : Nat) (orig : Bool) (netid : Option Nat) (x : Hop) : State :=
  let s1 := if !s.rteOn then s else match x with
    | .to .. => s.bump .rte 0
    | _ => (s.bump .rte 0).bump .rte 1
  if !s.enabled .dir || (s.rteOn && ((s.route? dst 24).bind (s.routeHop netid)).isSome) then s1
  else
    let s2 := s1.bump .dir 0
    if !s2.dirHit dst then (if orig then s2 else s2.dirFetch dst)
    else match s2.dirFind dst with
      | some i => s2.dirCache i
      | none => s2

/-! PRI_DOWN (R244). -/

/-- A link's change marks the entries whose primary it is; a dynamic entry with no alternate is removed. -/
def State.markLink (s : State) (c peer : Nat) (down : Bool) : State :=
  let hit := fun (r : Route) => decide (r.chan = c ∧ r.next = peer) && r.down != down
  let n := (s.net.routes.filter hit).length
  if n = 0 then s
  else
    let s1 : State := { s with net := { s.net with routes := (s.net.routes.filter fun r =>
      !(hit r && down && !r.fixed && decide (r.alt = 0))).map fun r => if hit r then { r with down := down } else r } }
    if down then (s1.bumpBy .rte 6 n).event .rte 3 else s1.event .rte 2

/-! RTE commands (R258). -/

/-- The result of a command. -/
def State.rteResult (s : State) (status idx : Nat) : State :=
  (s.setReg .rte 0x064 (BitVec.ofNat 32 (status * 65536 + idx % 16384))).event .rte 1

/-- READ copies an entry to `RTE_E0` to `E4`. -/
def State.rteRead (s : State) (i : Nat) : State :=
  let b := fun (c : Bool) (k : Nat) => if c then 2 ^ k else 0
  let w := match s.routeAt i with
    | some r => [2 ^ 31 + b r.fixed 30 + b r.neigh 29 + b r.stale 28 + b r.down 27 + r.altDiv * 2 ^ 24 + r.pre, r.chan * 2 ^ 24 + r.next,
        r.altCh * 2 ^ 24 + r.alt, r.len * 2 ^ 27 + min 255 r.age * 65536 + r.metric, r.hop]
    | none => [0, 0, 0, 0, 0]
  let s1 := (w.zipIdx).foldl (fun s e => s.setReg .rte (0x048 + 4 * e.2) (BitVec.ofNat 32 e.1)) s
  s1.rteResult (if (s.routeAt i).isSome then 0 else 1) i

/-- WRITE makes a static entry of `RTE_E0` to `E4`, in place of any of the same prefix and LEN. -/
def State.rteWrite (s : State) (i : Nat) : State :=
  let len := s.fld .rte F.RTE_E3_LEN
  let pre := prefixOf (s.fld .rte F.RTE_E0_PREFIX) len
  let c := s.fld .rte F.RTE_E1_CHANNEL
  let n := s.fld .rte F.RTE_E1_NEXT
  let at_ := match s.route? pre len with | some r => r.idx | none => i
  if !isUnicast n || (decide (s.fld .rte F.RTE_E2_ALT_NEXT ≠ 0) && !isUnicast (s.fld .rte F.RTE_E2_ALT_NEXT)) then s.rteResult 3 i
  else
    (s.putRoute ⟨at_, pre, len, n, c, s.fld .rte F.RTE_E2_ALT_NEXT, s.fld .rte F.RTE_E2_ALT_CH, s.fld .rte F.RTE_E0_ALT_DIV,
      s.fld .rte F.RTE_E3_METRIC, s.fld .rte F.RTE_E4_HOP, 0, true, false, false, s.linkDown c n⟩).rteResult 0 at_

/-- DELETE removes an entry. -/
def State.rteDelete (s : State) (i : Nat) : State :=
  if (s.routeAt i).isSome then (s.delRoute i).rteResult 0 i else s.rteResult 1 i

/-- LOOKUP runs R241. -/
def State.rteLookup (s : State) : State :=
  let s1 := s.bump .rte 0
  match s.lookup (s.fld .rte F.RTE_LOOKUP_NODE) 24 with
  | some r => s1.rteResult 0 r.idx
  | none => (s1.bump .rte 1).rteResult 1 0

/-- FLUSH removes every dynamic entry. -/
def State.rteFlush (s : State) : State :=
  ({ s with net := { s.net with routes := s.net.routes.filter (·.fixed) } }).rteResult 0 0

/-- A write of `RTE_CMD`: GO runs OP. -/
def rteCmdWrite (p : Page) (w : Word) (s : State) : State :=
  let s1 := applyWrite p 0x05C w s
  if !w.getLsbD 31 || !s1.enabled .rte then s1
  else
    let i := s1.fld .rte F.RTE_IDX_IDX
    match s1.fld .rte F.RTE_CMD_OP with
    | 0 => s1.rteRead i
    | 1 => s1.rteWrite i
    | 2 => s1.rteDelete i
    | 3 => s1.rteLookup
    | _ => s1.rteFlush

/-- RTE_READ, RTE_WRITE, RTE_DELETE, RTE_LOOKUP and RTE_FLUSH: writes of `RTE_CMD`. -/
def execRteRead (q : Req) (s : State) : Host.Outcome State Fault Refusal := .next (writeWord q .rte 0x05C rteCmdWrite s)
def execRteWrite (q : Req) (s : State) : Host.Outcome State Fault Refusal := .next (writeWord q .rte 0x05C rteCmdWrite s)
def execRteDelete (q : Req) (s : State) : Host.Outcome State Fault Refusal := .next (writeWord q .rte 0x05C rteCmdWrite s)
def execRteLookup (q : Req) (s : State) : Host.Outcome State Fault Refusal := .next (writeWord q .rte 0x05C rteCmdWrite s)
def execRteFlush (q : Req) (s : State) : Host.Outcome State Fault Refusal := .next (writeWord q .rte 0x05C rteCmdWrite s)

/-- ROUTE_EXPIRE: a dynamic entry's age exceeds EXPIRE (R242). -/
def execRouteExpire (i : Fin 16384) (s : State) : Host.Outcome State Fault Refusal :=
  .next (match s.routeAt i.val with
    | some r => if !r.fixed && decide (max 1 (s.fld .rte F.RTE_CFG_EXPIRE) < r.age) then (s.delRoute i.val).bump .rte 5 else s
    | none => s)

/-- Dynamic entries age by one at a superframe boundary (R242). -/
def State.ageRoutes (s : State) : State :=
  { s with net := { s.net with routes := s.net.routes.map fun r => if r.fixed then r else { r with age := r.age + 1 } } }

/-- `RTE_COUNT` shows the valid entries. -/
def State.rteView (s : State) (off : Nat) : Option Word :=
  if off = 0x068 then some (BitVec.ofNat 32 s.net.routes.length) else none

end Sys2Proof.Machine
end

