-- ==== Sys2Proof/Machine/Lanes.lean ====
section
/-! DEFINITION. The cipher lanes: protection of frames, the nonce counter, direct requests, the DRBG and the lanes' tests (R320 to
R323, R335 to R355). -/

set_option Elab.async false

namespace Sys2Proof.Machine

/-! Randomness (R343, R344). -/

def State.halted (s : State) : Bool := s.flag .ent F.ENT_STAT_HALTED
def State.healthy (s : State) : Bool := s.flag .ent F.ENT_STAT_HEALTHY

/-- The DRBG reseeds. -/
def State.reseed (s : State) : State := ({ s with cph := { s.cph with calls := 0 } }).bump .ent 0

/-- The DRBG halts: a reseed has fallen due after a failed health test. -/
def State.drbgHalt (s : State) : State := (s.setFlag .ent F.ENT_STAT_HALTED true).setFlag .ent F.ENT_STAT_DEGRADED true

/-- One generate call: a reseed falls due after `ENT_CFG.RESEED` of them. -/
def State.generate (s : State) : State :=
  let n := s.cph.calls + 1
  let s1 : State := { s with cph := { s.cph with calls := n } }
  if n < max 1 (s.fld .ent F.ENT_CFG_RESEED) || s.halted then s1
  else if s.healthy then s1.reseed else s1.drbgHalt

/-- A draw of the DRBG: a free value. -/
def State.draw (s : State) : Nat × State := let f := s.freeNat; (f.1, f.2.generate)

/-- The mask generator of a bulk lane. -/
def State.maskGen (s : State) (j : Nat) : MaskGen := s.cph.masks.getD j ⟨none, 0, 0⟩
def State.setMask (s : State) (j : Nat) (m : MaskGen) : State := { s with cph := { s.cph with masks := s.cph.masks.set j m } }

/-- The DRBG reseeds a mask generator; while it is halted the generator runs on as it is (R321, R344). -/
def State.maskSeed (s : State) (j : Nat) : State :=
  if s.halted then s else let d := s.draw; d.2.setMask j { d.2.maskGen j with used := 0, seed := d.1 }

/-- A lane takes up a key: a change of key reseeds its generator. -/
def State.maskKey (s : State) (j k : Nat) (x : KeySlot) : State :=
  if (s.maskGen j).key = some (k, x.key) then s
  else let t := s.maskSeed j; t.setMask j { t.maskGen j with key := some (k, x.key) }

/-- A lane has worked on blocks: its generator is reseeded after every 65,536. -/
def State.maskBlocks (s : State) (j n : Nat) : State :=
  let t := (s.maskGen j).used + n
  let s1 := (List.range (t / 65536)).foldl (fun s _ => s.maskSeed j) s
  s1.setMask j { s1.maskGen j with used := t % 65536 }

/-- Free bytes. -/
def State.freeBytes (s : State) : Nat → List Nat × State
  | 0 => ([], s)
  | n + 1 => let r := s.freeBytes n; let f := r.2.freeNat; (r.1 ++ [f.1 % 256], f.2)

/-! The nonce counter (R338, R339). -/

/-- The record of the next block begins once the counter has passed the middle of its block. -/
def State.reserve (s : State) : State :=
  if s.cph.limit ≤ s.cph.nonce + 2 ^ 19 then { s with cph := { s.cph with reserving := true } } else s

/-- The next counter value, where its block is recorded. -/
def State.takeNonce (s : State) : Option Nat × State :=
  if s.cph.nonce < s.cph.limit then
    (some s.cph.nonce, ({ s with cph := { s.cph with nonce := s.cph.nonce + 1 } }).reserve)
  else (none, s.reserve)

/-! Protection of a frame (R336). -/

/-- The AAD of a frame: its header with TTL, LTX and LSEQ zero. -/
def macAad (hdr : List Nat) : List Nat :=
  (hdr.take 40).zipIdx.map fun e => if e.2 = 13 ∨ (29 ≤ e.2 ∧ e.2 ≤ 33) then 0 else e.1

/-- Bytes of a key's tag. -/
def KeySlot.tagLen (x : KeySlot) : Nat := if x.tag16 then 16 else 8

/-- The CCM nonce and the GCM IV. -/
def ccmNonce (src keysel ctr : Nat) : List Nat := beBytes 3 src ++ [keysel % 256] ++ beBytes 9 ctr
def gcmIv (src ten ctr : Nat) : List Nat := beBytes 3 src ++ [ten % 256] ++ beBytes 8 ctr

/-- A frame protected under a slot's key: header, ciphertext, tag. -/
def protectFrame (x : KeySlot) (hdr plain : List Nat) : List Nat :=
  let src := leAt hdr 6 3
  let ctr := leAt hdr 20 9
  let r := if bitOf x.modes 1 then ccmEncrypt x.bytes (ccmNonce src (leAt hdr 18 2) ctr) (macAad hdr) plain x.tagLen
    else gcmEncrypt x.bytes (gcmIv src (hdr.getD 17 0) ctr) (macAad hdr) plain
  hdr ++ r.1 ++ r.2

/-- The payload of a protected frame, where its tag is right. -/
def openFrame (x : KeySlot) (bytes : List Nat) : Option (List Nat) :=
  let hdr := bytes.take 40
  let body := bytes.drop 40
  let src := leAt hdr 6 3
  let ctr := leAt hdr 20 9
  let n := body.length - (if bitOf x.modes 1 then x.tagLen else 16)
  if bitOf x.modes 1 then ccmDecrypt x.bytes (ccmNonce src (leAt hdr 18 2) ctr) (macAad hdr) (body.take n) (body.drop n)
  else gcmDecrypt x.bytes (gcmIv src (hdr.getD 17 0) ctr) (macAad hdr) (body.take n) (body.drop n)

/-! Service order (R340). -/

/-- Whether a bulk lane takes requests. -/
def State.laneIn (s : State) (j : Nat) : Bool :=
  (s.reg .cph 0x040).getLsbD j && decide (s.dom (if j < 12 then 11 else 12) = .on) && s.enabled .cph && decide (s.dom 13 = .on)

def State.laneRun (s : State) (j : Nat) : Option CReq := s.cph.lanes.getD j none

/-- The lowest bulk lane that is free. -/
def State.freeLane (s : State) : Option Nat := (List.range 24).find? fun j => s.laneIn j && (s.laneRun j).isNone

/-- Whether work takes a nonce. -/
def Work.needsNonce : Work → Bool
  | .frame .. => true
  | .auth .. => false
  | .direct _ d _ => decide (crOpc d = 0x10)

/-- Class and kind of a request, for the order of service: within a class encryption, then authentication, then direct requests. -/
def Work.rank : Work → Nat
  | .frame _ c _ _ => 3 * c
  | .auth _ c _ _ => 3 * c + 1
  | .direct .. => 11

/-- Whether a request can start: its tenant is below its lane quota, its slot is not awaiting restoration, and a nonce is at
hand if it needs one. -/
def State.canStart (s : State) (r : CReq) : Bool :=
  let t := r.work.tenant
  (decide (8 ≤ t) || decide (s.lanesUsed t < s.quotaLanes (Fin.ofNat 8 t))) &&
    (match r.work.key.bind s.slot? with | some x => !x.lost | none => true) &&
    (!r.work.needsNonce || r.nonce.isSome || decide (s.cph.nonce < s.cph.limit))

/-- The first request in order among those that can start. -/
def State.nextReq (s : State) : Option CReq :=
  (s.cph.wait.filter s.canStart).foldl (fun a r => match a with
    | none => some r
    | some b => if r.work.rank < b.work.rank ∨ (r.work.rank = b.work.rank ∧ r.id < b.id) then some r else a) none

/-- A message whose key is gone completes NO_KEY. -/
def State.loseKey (s : State) (f : Frame) : State :=
  let s1 : State := { s with net := { s.net with frames := s.net.frames.filter fun g => decide (g.id ≠ f.id) } }
  match f.kind with
  | .seg m _ =>
    (List.finRange 8).foldl (fun s t => match (s.tenant t).msgs.find? fun x => decide (x.id = m) with
      | some x => (s.dropFrames m).completeMsg t x 0x0B
      | none => s) s1
  | _ => s1

/-- A request finds no key under its slot. -/
def State.reqNoKey (s : State) (r : CReq) : State :=
  match r.work with
  | .frame id _ _ _ => match s.net.frames.find? fun f => decide (f.id = id) with
    | some f => s.loseKey f
    | none => s
  | .auth id _ _ _ => ({ s with net := { s.net with auths := s.net.auths.filter fun a => decide (a.id ≠ id) } }).bump .key 4
  | .direct t d _ => s.postCr (Fin.ofNat 8 t) d 3 (crKey d) [] 0

/-- The time from an instant to now, in 0.1 µs (Table 17-2). -/
def State.tenths (s : State) (since : Nat) : Nat := s.ctSpan since s.ct / 2 ^ 20 / 100

/-- The request occupies the lane: it takes its nonce, which goes into a frame's header, and its wait is a sample of
CIPHER_WAIT (Table 17-2). -/
def State.onLane (s : State) (j : Nat) (r : CReq) : State :=
  let n := if r.work.needsNonce && r.nonce.isNone then s.takeNonce else (r.nonce, s)
  let s1 : State := { n.2 with cph := { n.2.cph with lanes := n.2.cph.lanes.set j (some { r with nonce := n.1 }) } }
  let t := r.work.tenant
  let s2 := s1.histTimed 5 ⟨if t < 8 then some t else none, r.work.rank / 3, 0, false⟩ r.since (s1.tenths r.since)
  match r.work, n.1 with
  | .frame id _ _ _, some c => s2.mapFrames fun f =>
      if f.id = id then { f with hdr := f.hdr.take 20 ++ leBytes 9 c ++ f.hdr.drop 29 } else f
  | _, _ => s2

/-- One request starts on a lane, unless its slot has gone. -/
def State.startReq (s : State) (j : Nat) (r : CReq) : State :=
  let s0 : State := { s with cph := { s.cph with wait := s.cph.wait.filter fun x => decide (x.id ≠ r.id) } }
  match r.work.key with
  | some k => match s0.slot? k with
    | none => s0.reqNoKey r
    | some x => ((s0.useSlot k).maskKey j k x).onLane j r
  | none => s0.onLane j r

/-- Encryptions that could start but for the nonce counter are counted once each (R339). -/
def State.nonceWaits (s : State) : State :=
  if s.cph.nonce < s.cph.limit || s.freeLane.isNone then s
  else
    let hit := fun (r : CReq) => r.work.needsNonce && r.nonce.isNone && !r.held
    let n := (s.cph.wait.filter hit).length
    if n = 0 then s
    else (({ s with cph := { s.cph with wait := s.cph.wait.map fun r => if hit r then { r with held := true } else r } }).bumpBy
      .cph 7 n).event .cph 2

/-- Free lanes take waiting requests, `fuel` of them at most. -/
def State.fillLanes (s : State) : Nat → State
  | 0 => s
  | n + 1 =>
    match s.freeLane, s.nextReq with
    | some j, some r => (s.startReq j r).fillLanes n
    | _, _ => s

/-- Free lanes take waiting requests in order. -/
def State.dispatch (s : State) : State :=
  if s.running then ((s.reserve.fillLanes (24 + s.cph.wait.length)).nonceWaits).quotas else s

/-- A request begins to wait for a lane. -/
def State.addReq (s : State) (w : Work) : State :=
  let i := s.newId
  { i.2 with cph := { i.2.cph with wait := i.2.cph.wait ++ [⟨i.1, w, i.2.ct, none, false⟩] } }

/-- A frame with its key at hand goes to the lanes. -/
def State.protect (s : State) (f : Frame) : State :=
  s.addReq (.frame f.id (f.hdr.getD 0 0 / 4 % 4) f.tenant f.key)

/-! Direct requests (R342). -/

/-- A request's access to host memory has failed: the page's DMA fault (R355), unless the data lies in queue memory. -/
def State.crHostFault (s : State) (t : Fin 8) (d : List Nat) (bit : Nat) : State :=
  if bitOf (d.getD 1 0) bit then s else s.dmaFault t 8 false

/-- Input of a request whose data is in queue memory, or as the host gave it. -/
def State.crData (s : State) (t : Fin 8) (d : List Nat) (len : Nat) (r : Fetched) : Fetched × State :=
  if bitOf (d.getD 1 0) 5 then
    if s.inAlloc t (crSrc d) len then s.qmemFetch t (crSrc d) len 16 r else (.fail, s)
  else (r, s)

/-- Whether a reserved field of a descriptor is non-zero (Table 11-9). -/
def crReserved (d : List Nat) : Bool :=
  decide (d.getD 1 0 % 16 ≠ 0) || decide (d.getD 3 0 / 16 ≠ 0) || decide (d.getD 11 0 ≠ 0) ||
    decide (leAt d 14 2 ≠ 0) || (d.drop 51).any fun b => decide (b ≠ 0)

/-- Check INVALID of the requests that move data. -/
def crInvalid (d : List Nat) : Bool :=
  let o := crOpc d
  let m := crMode d
  crReserved d || (decide (crLen d = 0) && decide (o ≠ 0x12)) || (decide (o = 0x14) && decide (4096 < crLen d)) ||
    (decide (o = 0x10 ∨ o = 0x11) && decide (m = 3)) || (decide (o = 0x12 ∨ o = 0x13) && decide (m ≠ 3)) ||
    (decide (o ≠ 0x14) && decide (crAad d ≠ 0) && decide (m ≠ 1 ∧ m ≠ 2)) ||
    (decide (o = 0x10 ∨ o = 0x11) && decide (m = 1) && decide (65535 < crLen d)) || (decide (o ≠ 0x14) && decide (4096 < crAad d))

/-- The first failing check of ENCRYPT, DECRYPT, MAC and VERIFY; 0 for none. -/
def State.crCheck (s : State) (t : Fin 8) (d : List Nat) : Nat :=
  if crInvalid d then 2
  else match s.slot? (crKey d) with
    | none => 3
    | some x =>
      if !decide (x.typ = 0 ∨ x.typ = 3) || !x.serves t.val || x.priv then 3
      else if !bitOf x.modes (crMode d) || (decide (crMode d = 2) && !s.tenFeat t 12) then 4 else 0

/-- Bytes that a request reads: AAD, data, and any tag to check. -/
def State.crNeed (s : State) (d : List Nat) : Nat :=
  let tag := match s.slot? (crKey d) with | some x => x.tagLen | none => 0
  let n := crAad d + crLen d
  if crOpc d = 0x13 ∨ (crOpc d = 0x11 ∧ crMode d ≠ 0) then n + (if crMode d = 2 then 16 else tag) else n

/-- The tenant's oldest accepted request of an operation, taken off the list. -/
def State.takeCr (s : State) (t : Fin 8) (opc : Nat) : Option (List Nat × State) :=
  match (s.tenant t).creqs.find? fun e => decide (crOpc e.2 = opc) with
  | some e => some (e.2, s.setTenant t { s.tenant t with creqs := (s.tenant t).creqs.filter fun x => decide (x.1 ≠ e.1) })
  | none => none

/-- A request that moves data: its checks, its data, and its wait for a lane. -/
def State.runCr (s : State) (t : Fin 8) (opc : Nat) (r : Fetched) : State :=
  match s.takeCr t opc with
  | none => s
  | some (d, s1) =>
    let e := s1.crCheck t d
    if e ≠ 0 then (s1.postCr t d e (crKey d) [] 0).quotas
    else
      let got := s1.crData t d (s1.crNeed d) r
      let s1 := got.2
      match got.1 with
      | .fail => ((s1.crHostFault t d 5).postCr t d 9 (crKey d) [] 0).quotas
      | .ok b poison =>
        if poison then (s1.postCr t d 0x0A (crKey d) [] 0).quotas
        else ((s1.useSlot (crKey d)).addReq (.direct t.val d (b.take (s1.crNeed d)))).dispatch

/-- ENCRYPT, DECRYPT, MAC, VERIFY: the tenant's oldest such request is checked and its data read (R342). -/
def execCipherEncrypt (t : Fin 8) (r : Fetched) (s : State) : Host.Outcome State Fault Refusal := .next (s.runCr t 0x10 r)
def execCipherDecrypt (t : Fin 8) (r : Fetched) (s : State) : Host.Outcome State Fault Refusal := .next (s.runCr t 0x11 r)
def execCipherMac (t : Fin 8) (r : Fetched) (s : State) : Host.Outcome State Fault Refusal := .next (s.runCr t 0x12 r)
def execCipherVerify (t : Fin 8) (r : Fetched) (s : State) : Host.Outcome State Fault Refusal := .next (s.runCr t 0x13 r)

/-- RANDOM: DRBG output, refused while the DRBG is halted or has failed its start-up test (R342, R344, R346). -/
def execCipherRandom (t : Fin 8) (s : State) : Host.Outcome State Fault Refusal :=
  .next (
    match s.takeCr t 0x14 with
    | none => s
    | some (d, s1) =>
      if crInvalid d then (s1.postCr t d 2 (crKey d) [] 0).quotas
      else if s1.halted || s1.faulted .ent 1 then ((s1.postCr t d 0x0B (crKey d) [] 0).bump .ent 2).quotas
      else (s1.addReq (.direct t.val d [])).dispatch)

/-- Output of a request: where it goes and whether that lies within reach. -/
def State.crWrite (s : State) (t : Fin 8) (d out : List Nat) : Option State :=
  if bitOf (d.getD 1 0) 4 then
    if s.inAlloc t (crDst d) out.length then some (s.qmemWrite t (crDst d) out) else none
  else some (s.emit (.hostWrite (t.val + 1) (crDst d) out))

/-- What a request writes, its status, and its nonce: (output, zeros after it, status, nonce). -/
def crResult (x : KeySlot) (node t kid : Nat) (d src : List Nat) (ctr : Nat) : List Nat × Bool × Nat × List Nat :=
  let m := crMode d
  let aad := src.take (crAad d)
  let data := (src.drop (crAad d)).take (crLen d)
  let tag := src.drop (crAad d + crLen d)
  let n := d.drop 32
  match crOpc d with
  | 0x10 =>
    if m = 1 then
      let nn := ccmNonce node kid ctr
      let r := ccmEncrypt x.bytes nn aad data x.tagLen
      (r.1 ++ r.2, false, 0, nn)
    else
      let iv := gcmIv node t ctr
      if m = 2 then let r := gcmEncrypt x.bytes iv aad data; (r.1 ++ r.2, false, 0, iv)
      else (ctrXor x.bytes (iv ++ [0, 0, 0, 0]) data, false, 0, iv)
  | 0x11 =>
    if m = 1 then match ccmDecrypt x.bytes (n.take 13) aad data tag with
      | some p => (p, false, 0, [])
      | none => ([], false, 1, [])
    else if m = 2 then match gcmDecrypt x.bytes (n.take 12) aad data tag with
      | some p => (p, false, 0, [])
      | none => (ctrXor x.bytes (n.take 12 ++ [0, 0, 0, 2]) data, true, 1, [])
    else (ctrXor x.bytes (n.take 16) data, false, 0, [])
  | 0x12 => ((cmac x.bytes data).take x.tagLen, false, 0, [])
  | _ => ([], false, if (cmac x.bytes data).take x.tagLen = tag then 0 else 1, [])

/-- A direct request ends on its lane: `wr` tells whether its output reached the host. -/
def State.directDone (s : State) (t : Fin 8) (r : CReq) (d src : List Nat) (wr : Bool) : State :=
  let fin := fun (s : State) (out : List Nat) (zeros : Bool) (status : Nat) (nonce : List Nat) =>
    if out = [] then s.postCr t d status (crKey d) nonce 0
    else
      match if wr || bitOf (d.getD 1 0) 4 then s.crWrite t d out else none with
      | none => let f := (s.crHostFault t d 4).freeNat; f.2.postCr t d 9 (crKey d) nonce (f.1 % 2 ^ 32)
      | some s1 =>
        let s2 := if zeros then (s1.crWrite t d (List.replicate out.length 0)).getD s1 else s1
        s2.postCr t d status (crKey d) nonce out.length
  if crOpc d = 0x14 then
    let b := s.generate.freeBytes (crLen d)
    fin b.2 b.1 false 0 []
  else match s.slot? (crKey d) with
    | none => s.postCr t d 3 (crKey d) [] 0
    | some x =>
      let o := crResult x s.ownNode t.val x.kid d src (r.nonce.getD 0)
      fin s o.1 o.2.1 o.2.2.1 o.2.2.2

/-- LOAD_KEY (R333): the first failing check gives the status. -/
def State.loadKeyStatus (s : State) (t : Fin 8) (d : List Nat) (data : Fetched) : Nat × Nat :=
  let kid := leAt d 48 2
  let b := d.getD 50 0
  let wrapped := bitOf b 7
  let peer := bitOf b 6
  let big := bitOf b 5
  let tag16 := bitOf b 4
  let modes := b % 16
  let base := s.fld .key (F.KEY_TKID_BASE.at t.val)
  let size := s.fld .key (F.KEY_TKID_SIZE.at t.val)
  let n := if big then 32 else 16
  if crReserved d || !decide (base ≤ kid ∧ kid < base + size ∧ kid ≤ 0xFFEF) || (peer && !s.feat 13) ||
      (!peer && (attrBad modes tag16 || (wrapped && !s.feat 13) || decide (crLen d ≠ n + (if wrapped then 16 else 0)))) then (2, 0)
  else if !peer && bitOf modes 2 && !s.tenFeat t 12 then (4, 0)
  else if s.quotaKeys t ≤ s.keysUsed t.val then (5, 0)
  else if s.kidHeld kid 4096 then (6, 0)
  else if !peer && !wrapped && decide (s.fld .key (F.KEY_TPOL_CLEAR_OK.at t.val) = 0) then (0x0D, 0)
  else
    let key := if peer then (0, 0) else match data with
      | .fail => (9, 0)
      | .ok m poison =>
        if poison then (0x0A, 0)
        else if wrapped then
          let pk := s.pkEntry (s.fld .key (F.KEY_TPOL_WRAP_PK.at t.val))
          if pk.role ≠ 5 then (8, 0)
          else match unwrapKey pk big m ([4] ++ beBytes 2 kid ++ [attrByte big tag16 modes, t.val, 0, 0, 0]) with
            | some k => (0, k)
            | none => (8, 0)
        else (0, ofBe (m.take n))
    if key.1 ≠ 0 then key else if s.loadFull then (7, 0) else (0, key.2)

/-- LOAD_KEY: the tenant's oldest load; a wrapped one waits for a privileged lane. -/
def execLoadKey (t : Fin 8) (r : Fetched) (s : State) : Host.Outcome State Fault Refusal :=
  .next (
    match s.takeCr t 0x20 with
    | none => s
    | some (d, s1) =>
      let b := d.getD 50 0
      if bitOf b 7 && !bitOf b 6 && !s.privOk then s
      else
        let got := s1.crData t d (crLen d) r
        let s1 := got.2
        let e := s1.loadKeyStatus t d got.1
        match if e.1 = 0 then s1.newSlot else none with
        | some k =>
          let x := if bitOf b 6 then KeySlot.make 1 false false 0 false t.val 0 (leAt d 48 2) 0 0
            else KeySlot.make 0 (bitOf b 5) (bitOf b 4) (b % 16) false t.val 0 (leAt d 48 2) e.2 0
          (((((s1.putSlot k x).useSlot k).bump .key 0).postCr t d 0 k [] 0)).quotas
        | none =>
          let s2 := if e.1 = 8 then s1.unwrapFail else if e.1 = 9 then s1.crHostFault t d 5 else s1
          (s2.postCr t d (if e.1 = 0 then 7 else e.1) 0 [] 0).quotas)

/-- UNLOAD: the slot is zeroed once no lane uses it (R333). -/
def execKeyUnload (t : Fin 8) (s : State) : Host.Outcome State Fault Refusal :=
  .next (
    match s.takeCr t 0x21 with
    | none => s
    | some (d, s1) =>
      if crReserved d then (s1.postCr t d 2 (crKey d) [] 0).quotas
      else match s1.slot? (crKey d) with
        | some x =>
          if decide (x.typ ≤ 1) && decide (x.owner = t.val) then
            if s1.slotInUse (crKey d) then s1.putSlot (crKey d) { x with dying := some (some (t.val, d)) }
            else (((s1.delSlot (crKey d) false).bump .key 1).postCr t d 0 (crKey d) [] 0).quotas
          else (s1.postCr t d 3 (crKey d) [] 0).quotas
        | none => (s1.postCr t d 3 (crKey d) [] 0).quotas)

/-- Slots whose UNLOAD or tenant reset waited for lanes are zeroed, and a KEY command that waited runs. -/
def State.settleKeys (s : State) : State :=
  let due := s.cph.slots.filter fun e => e.2.dying.isSome && !s.slotInUse e.1
  (due.foldl (fun s e => match e.2.dying with
    | some (some (t, d)) => ((s.delSlot e.1 false).bump .key 1).postCr (Fin.ofNat 8 t) d 0 e.1 [] 0
    | _ => s.delSlot e.1 true) s).keyRun

/-! Lanes end their requests. -/

/-- Whether a request's output waits, since the tenant's function may issue no request (R412). -/
def State.outputWaits (s : State) (r : CReq) : Bool :=
  match r.work with
  | .direct t d _ => !bitOf (d.getD 1 0) 4 && decide (crOpc d ≠ 0x13) && !s.dmaOk (Fin.ofNat 8 t)
  | _ => false

/-- The request of a lane goes back to wait in its place, to start again elsewhere (R348, R349). -/
def State.requeue (s : State) (j : Nat) : State :=
  match s.laneRun j with
  | none => s
  | some r => { s with cph := { s.cph with lanes := s.cph.lanes.set j none, wait := r :: s.cph.wait } }

/-- DIRECT_REQUEST_SET_ASIDE: a lane sets its direct request aside while a frame waits and no lane is free (R340). -/
def execDirectRequestSetAside (j : Fin 24) (s : State) : Host.Outcome State Fault Refusal :=
  .next (
    match s.laneRun j.val with
    | some r =>
      let direct := match r.work with | .direct .. => true | _ => false
      let waits := s.cph.wait.any fun x => (match x.work with | .direct .. => false | _ => true) && s.canStart x
      if direct && waits && s.freeLane.isNone then (s.requeue j.val).dispatch else s
    | none => s)

/-- NONCE_RESERVE_DONE: the reservation of the next block is recorded (R339). -/
def execNonceReserveDone (s : State) : Host.Outcome State Fault Refusal :=
  .next (
    if s.cph.reserving then
      let n := s.cph.limit / 2 ^ 20
      let s1 : State := { s with
        cph := { s.cph with limit := (n + 1) * 2 ^ 20, reserving := false }
        nvm := { s.nvm with nonce := some n } }
      ((s1.bump .nvm 0).bump .nvm 7).dispatch
    else s)

/-! Tests and retirement (R347 to R349). -/

def State.laneRetired (s : State) (j : Nat) : Bool := (s.reg .cph 0x044).getLsbD j

/-- A lane leaves the set that takes requests, or comes back to it. -/
def State.setLaneIn (s : State) (j : Nat) (b : Bool) : State := s.setRegBit .cph 0x040 j b

/-- A lane is retired; both privileged lanes gone set PRIV_LOST. -/
def State.retireLane (s : State) (j : Nat) : State :=
  let s1 := (((s.requeue j).setLaneIn j false).setRegBit .cph 0x044 j true)
  let s2 := (s1.fault .cph 3 j).event .cph 4
  if decide (24 ≤ j) && s2.laneRetired 24 && s2.laneRetired 25 then (s2.fault .cph 4 0).event .cph 1 else s2

/-- Whether a lane can be tested: it takes requests. -/
def State.testable (s : State) (j : Nat) : Bool := (s.reg .cph 0x040).getLsbD j && !s.laneRetired j

/-- A lane takes no further request, for its test. -/
def State.startLaneTest (s : State) (j : Nat) : State :=
  if s.cph.test.isSome || !s.testable j || !s.enabled .cph then s
  else ({ s with cph := { s.cph with test := some j } }).setLaneIn j false

/-- CIPHER_TEST_PERIOD: the next lane in rotation is tested. -/
def execCipherTestPeriod (s : State) : Host.Outcome State Fault Refusal :=
  .next (
    if s.flag .cph F.CPH_TEST_AUTO && s.cph.test.isNone then
      match ((List.range 26).map fun k => (s.cph.next + k) % 26).find? s.testable with
      | some j => ({ s with cph := { s.cph with next := (j + 1) % 26 } }).startLaneTest j
      | none => s
    else s)

/-- A write of `CPH_TEST`: START tests LANE. -/
def cphTestWrite (p : Page) (w : Word) (s : State) : State :=
  let s1 := applyWrite p 0x048 w s
  let j := s1.fld .cph F.CPH_TEST_LANE
  if w.getLsbD 30 && decide (j < 26) then s1.startLaneTest j else s1

/-- CIPHER_TEST_START: a write of `CPH_TEST`. -/
def execCipherTestStart (q : Req) (s : State) : Host.Outcome State Fault Refusal := .next (writeWord q .cph 0x048 cphTestWrite s)

/-- CIPHER_TEST_DONE: the known-answer test of the lane under test ends. -/
def execCipherTestDone (pass : Bool) (s : State) : Host.Outcome State Fault Refusal :=
  .next (
    match s.cph.test with
    | none => s
    | some j =>
      if (s.laneRun j).isSome then s
      else
        let s1 := (({ s with cph := { s.cph with test := none } }).bump .cph 5).event .cph 3
        let shed := s1.stageShed 3 && decide (12 ≤ j ∧ j < 24)
        (if pass then s1.setLaneIn j (!shed) else (s1.bump .cph 6).retireLane j).keyRun.dispatch)

/-- CIPHER_LANE_FAIL: a lane's self-check fails during its request. -/
def execCipherLaneFail (j : Fin 26) (s : State) : Host.Outcome State Fault Refusal :=
  .next (if s.laneRetired j.val || (decide (j.val < 24) && (s.laneRun j.val).isNone) then s
    else
      let s1 := if s.cph.test = some j.val then { s with cph := { s.cph with test := none } } else s
      (s1.retireLane j.val).dispatch)

/-- Stage 3 takes lanes 12 to 23 out of service, and its restoration brings them back (R349). -/
def State.lanesShed (s : State) (shed : Bool) : State :=
  ((List.range 12).foldl (fun s k =>
    let j := 12 + k
    if s.laneRetired j then s else if shed then (s.requeue j).setLaneIn j false else s.setLaneIn j (decide (s.cph.test ≠ some j))) s).dispatch

/-! Entropy (R343, R344, R354). -/

/-- ENTROPY_HEALTH_TEST: the 64 µs tests of the source. -/
def execEntropyHealthTest (pass : Bool) (s : State) : Host.Outcome State Fault Refusal :=
  .next (if pass || !s.healthy then s
    else
      let s1 := (((s.fault .ent 2 0).setFlag .ent F.ENT_STAT_HEALTHY false).bump .ent 1).event .ent 2
      { s1 with cph := { s1.cph with passes := 0 } })

/-- DRBG_HALT: a reseed falls due after a failed health test. -/
def execDrbgHalt (s : State) : Host.Outcome State Fault Refusal :=
  .next (if s.healthy || s.halted then s else s.drbgHalt)

/-- ENTROPY_RETEST: the source is tested again; three passes reseed and resume the DRBG. -/
def execEntropyRetest (pass : Bool) (s : State) : Host.Outcome State Fault Refusal :=
  .next (
    if s.healthy then s
    else if !pass then ({ s with cph := { s.cph with passes := 0 } }).bump .ent 1
    else if s.cph.passes + 1 < 3 then { s with cph := { s.cph with passes := s.cph.passes + 1 } }
    else
      let s1 : State := { s with cph := { s.cph with passes := 0 } }
      ((((s1.setFlag .ent F.ENT_STAT_HEALTHY true).setFlag .ent F.ENT_STAT_HALTED false).setFlag .ent F.ENT_STAT_DEGRADED
        false).reseed).event .ent 1)

/-- A write of `ENT_RESEED`: NOW reseeds at once, or halts a DRBG whose source has failed. -/
def entReseedWrite (p : Page) (w : Word) (s : State) : State :=
  let s1 := applyWrite p 0x04C w s
  if !w.getLsbD 0 || s1.halted then s1 else if s1.healthy then s1.reseed else s1.drbgHalt

/-- RESEED_NOW: a write of `ENT_RESEED`. -/
def execReseedNow (q : Req) (s : State) : Host.Outcome State Fault Refusal := .next (writeWord q .ent 0x04C entReseedWrite s)

/-- A read of `ENT_RAND`: fresh output, zero while halted. -/
def entRandRead (s : State) : Word × Bool × State :=
  let s1 := s.bump .ent 3
  if s1.halted || s1.faulted .ent 1 then (0, false, s1) else let d := s1.draw; (BitVec.ofNat 32 d.1, false, d.2)

/-- ENT_RAND_READ: a read of `ENT_RAND`. -/
def execEntRandRead (q : RdReq) (s : State) : Host.Outcome State Fault Refusal :=
  .next (readWord q .ent 0x048 (fun p s => let r := entRandRead (s.setLatch (p.fn q.serial) ⟨none, 0, 0⟩); r) s)

/-! Views. -/

/-- The registers of CPH that show the lanes and the nonce counter. -/
def State.cphView (s : State) (off : Nat) : Option Word :=
  let test := match s.cph.test with | some j => if (s.laneRun j).isNone then some j else none | none => none
  let blk := s.cph.limit / 2 ^ 20 - 1
  match off with
  | 0x04C => some (match test with | some j => BitVec.ofNat 32 (2 ^ 31 + j) | none => 0)
  | 0x050 => some (BitVec.ofNat 32 ((if s.cph.busy then 65536 else 0) + min 65535 s.cph.wait.length))
  | 0x058 => some (BitVec.ofNat 32 s.cph.nonce)
  | 0x05C => some (BitVec.ofNat 32 (s.cph.nonce / 2 ^ 32))
  | 0x060 => some (BitVec.ofNat 32 (s.cph.nonce / 2 ^ 64 % 256))
  | 0x064 => some (BitVec.ofNat 32 blk)
  | 0x068 => some (BitVec.ofNat 32 (blk / 2 ^ 32 % 2 ^ 20))
  | _ => none

/-- TESTING of the CPH page (R351). -/
def State.cphStatus (s : State) : Nat :=
  match s.cph.test with | some j => if (s.laneRun j).isNone then 2 ^ 16 else 0 | none => 0

/-- What a write to the CPH or ENT page does beyond its fields. -/
def cphEffect (off : Nat) (p : Page) (w : Word) (s : State) : State :=
  if off = 0x048 then cphTestWrite p w s else applyWrite p off w s
def entEffect (off : Nat) (p : Page) (w : Word) (s : State) : State :=
  if off = 0x04C then entReseedWrite p w s else applyWrite p off w s

end Sys2Proof.Machine
end

