-- ==== Sys2Proof/Machine/Frames.lean ====
section
/-! DEFINITION. MAC frames (R215 to R217): their header, the numbers they carry (R296), the key that protects them (R326, R332),
and the path that the relay unit chooses before it (R228, R243, R530). -/

set_option Elab.async false

namespace Sys2Proof.Machine

/-! The header (Table 07-9). -/

structure Mac where
  mtype  : Nat
  prio   : Nat
  hver   : Nat
  flood  : Bool
  routed : Bool
  e2e    : Bool
  first  : Bool
  last   : Bool
  len    : Nat
  netid  : Nat
  src    : Nat
  dst    : Nat
  epoch  : Nat
  ttl    : Nat
  seq    : Nat
  svc    : Nat
  ten    : Nat
  keysel : Nat
  ltx    : Nat
  lseq   : Nat
  no     : Nat
  off    : Nat
  deriving DecidableEq, Repr

/-- The header that a frame's first 40 bytes hold; NONCE_CTR stays in the bytes. -/
def Mac.of (b : List Nat) : Mac :=
  let b0 := b.getD 0 0
  let b1 := b.getD 1 0
  { mtype := b0 / 16, prio := b0 / 4 % 4, hver := b0 % 4, flood := bitOf b1 7, routed := bitOf b1 6, e2e := bitOf b1 5,
    first := bitOf b1 4, last := bitOf b1 3, len := leAt b 2 2 % 4096, netid := leAt b 4 2, src := leAt b 6 3, dst := leAt b 9 3,
    epoch := b.getD 12 0, ttl := b.getD 13 0 / 4, seq := leAt b 14 2, svc := b.getD 16 0, ten := b.getD 17 0,
    keysel := leAt b 18 2, ltx := leAt b 29 3, lseq := leAt b 32 2, no := leAt b 34 4, off := leAt b 38 2 }

/-- The 40 bytes of a header, NONCE_CTR zero. -/
def Mac.bytes (m : Mac) : List Nat :=
  let f := fun (b : Bool) (i : Nat) => if b then 2 ^ i else 0
  [m.mtype % 16 * 16 + m.prio % 4 * 4 + m.hver % 4, f m.flood 7 + f m.routed 6 + f m.e2e 5 + f m.first 4 + f m.last 3] ++
    leBytes 2 (m.len % 4096) ++ leBytes 2 m.netid ++ leBytes 3 m.src ++ leBytes 3 m.dst ++ [m.epoch % 256, m.ttl % 64 * 4] ++
    leBytes 2 m.seq ++ [m.svc % 256, m.ten % 256] ++ leBytes 2 m.keysel ++ List.replicate 9 0 ++ leBytes 3 m.ltx ++
    leBytes 2 m.lseq ++ leBytes 4 m.no ++ leBytes 2 m.off

/-- Replace bytes of a frame in place. -/
def putBytes (b : List Nat) (k : Nat) (l : List Nat) : List Nat := b.take k ++ l ++ b.drop (k + l.length)

/-- The mutable fields of a frame that a node sends on (R216), and ROUTED. -/
def putTtl (b : List Nat) (v : Nat) : List Nat := putBytes b 13 [v % 64 * 4 + b.getD 13 0 % 4]
def putLink (b : List Nat) (ltx lseq : Nat) : List Nat := putBytes b 29 (leBytes 3 ltx ++ leBytes 2 lseq)
def putRouted (b : List Nat) (r : Bool) : List Nat := putBytes b 1 [setBitOf (b.getD 1 0) 6 r]

/-- FLOOD set in a frame's header. -/
def putFlood (b : List Nat) : List Nat := putBytes b 1 [setBitOf (b.getD 1 0) 7 true]

def Frame.mac (f : Frame) : Mac := Mac.of f.hdr

/-- Whether a frame is a flood that the seen cache holds: its reel transmissions are the cache's. -/
def Frame.flooded (f : Frame) : Bool := f.path.isNone && f.mac.flood && decide (f.kind ≠ .fwd)

/-- The node's epoch. -/
def State.epoch (s : State) : Nat := s.fld .sch F.SCH_CT_STAT_EPOCH

/-! Frames in the device's hands. -/

def State.frame? (s : State) (id : Nat) : Option Frame := s.net.frames.find? fun f => decide (f.id = id)

/-- Replace a frame, or add it. -/
def State.putFrame (s : State) (f : Frame) : State :=
  if (s.frame? f.id).isSome then s.mapFrames fun g => if g.id = f.id then f else g
  else { s with net := { s.net with frames := s.net.frames ++ [f] } }

def State.delFrame (s : State) (id : Nat) : State :=
  { s with net := { s.net with frames := s.net.frames.filter fun f => decide (f.id ≠ id) } }

/-- A new frame, waiting for its path. -/
def Frame.new (id : Nat) (kind : FrameKind) (mode tenant : Nat) (hdr plain : List Nat) : Frame :=
  { id := id, kind := kind, mode := mode, hdr := hdr, plain := plain, tenant := tenant, key := 0, handle := 0, bytes := [],
    path := none, st := .path, since := 0, tries := 0, lseq := none, copies := [], noRoute := none, front := false }

/-! Message numbers (R296). -/

/-- The next number of a service and class, with its class in bits [31:30]; a block not yet recorded is recorded first. -/
def State.takeNumber (s : State) (svc cls : Nat) : Nat × State :=
  let k := svc % 256 * 4 + cls % 4
  let s1 :=
    if storeGet 0 s.net.nums k < storeGet 0 s.net.numRes k then s
    else
      let b := storeGet 0 s.nvm.nums k
      let t : State := { s with
        net := { s.net with nums := storePut 0 s.net.nums k (b * 65536), numRes := storePut 0 s.net.numRes k ((b + 1) * 65536) }
        nvm := { s.nvm with nums := storePut 0 s.nvm.nums k (b + 1) } }
      (t.bump .nvm 0).bump .nvm 7
  let n := storeGet 0 s1.net.nums k
  (cls % 4 * 2 ^ 30 + n % 2 ^ 30, { s1 with net := { s1.net with nums := storePut 0 s1.net.nums k (n + 1) } })

/-! What floods can carry (R229). -/

/-- The channels of the reel set that flood by reel: N1k and N250. -/
def State.reelChans (s : State) : List Nat :=
  s.reelSet.filter fun c => match s.live c with | some cfg => decide (cfgGet cfg F.CH_CFG_NUMER ≠ 2) | none => false

/-- The longest frame that a REEL entry of a channel carries. -/
def State.reelHolds (s : State) (c : Nat) (cfg : List Word) (slot : Nat) : Nat :=
  let set := s.setAt c cfg slot
  let nd := (s.symbolsAt c cfg slot).1
  let div := s.fld .rly F.RLY_REEL_DIV
  let bits := ((List.range nd).map fun t => 2 * cellsIn 12 1 t set).sum
  ((List.range 4096).reverse.find? fun l => fitCount bits 0 div (plainCells nd set) [l] == 1).getD 0

/-- The longest flood frame: what the smallest REEL entry of the reel set carries. -/
def State.floodMax (s : State) : Nat :=
  let base := s.slot / 64 * 64
  let all := s.reelChans.flatMap fun c => match s.live c with
    | some cfg => ((List.range 64).filter fun i =>
        let e := s.entryAt c cfg (base + i)
        decide (e.ty = tyReel) && decide (e.pos = 0)).map fun i => s.reelHolds c cfg (base + i)
    | none => []
  all.foldl min 4095

/-- The largest segment payload under a tag (R297). -/
def State.segSize (s : State) (tag : Nat) (flood : Bool) : Nat :=
  let p := min (max 64 (s.fld (.tnt 0) F.TNT_MSCFG_SEG_MAX)) (4055 - tag)
  max 1 (if flood then min p (s.floodMax - 40 - tag) else p)

/-! The key of a frame (R326, R332, R336). -/

/-- A key: a slot with the KEYSEL that names it, one that waits for a handle or for the directory, or none. -/
inductive KeyFor where
  | slot (k keysel : Nat)
  | handle (h : Nat)
  | fetch
  | none
  deriving DecidableEq, Repr

/-- The tag of frames under a slot's key: 16 bytes in GCM. -/
def KeySlot.frameTag (x : KeySlot) : Nat := if bitOf x.modes 1 then x.tagLen else 16

/-- The device-frame key. -/
def State.deviceKey (s : State) : KeyFor :=
  let k := s.fld .key F.KEY_DEV_DEVICE
  match s.slot? k with
  | some x => if x.typ = 0 ∨ x.typ = 3 then .slot k 0xFFF8 else .none
  | none => .none

/-- The key of a message's frames. -/
def State.messageKey (s : State) (m : Msg) : KeyFor :=
  let own := match s.ownSlot with | some k => KeyFor.slot k 0xFFF0 | none => .none
  match s.slot? m.key with
  | none => .none
  | some x =>
    if x.typ = 0 ∨ x.typ = 3 then .slot m.key x.kid
    else if x.typ = 1 then
      if !isUnicast m.dst then own
      else if s.enabled .dir && !s.dirHit m.dst then .fetch
      else match if s.dirGone m.dst then none else s.dirFind m.dst with
        | none => own
        | some i =>
          if decide (s.dirHandle i ≠ 0) && decide (s.dirOwner i = m.tenant ∨ s.dirOwner i = 15) then
            match s.handleSlot (s.dirHandle i) with
            | some k => .slot k 0xFFF1
            | none => .handle (s.dirHandle i)
          else own
    else .none

/-- The message that a frame is a segment of. -/
def State.msg? (s : State) (id : Nat) : Option (Fin 8 × Msg) :=
  (List.finRange 8).findSome? fun t => ((s.tenant t).msgs.find? fun m => decide (m.id = id)).map fun m => (t, m)

def State.frameKey (s : State) (f : Frame) : KeyFor :=
  match f.kind with
  | .seg m _ => match s.msg? m with | some x => s.messageKey x.2 | none => .none
  | _ => s.deviceKey

/-- A frame with its path takes its key and goes to the lanes; one without a key ends its message, or is dropped. -/
def State.keyFrame (s : State) (f : Frame) : State :=
  match s.frameKey f with
  | .slot k ks =>
    let tag := match s.slot? k with | some x => x.frameTag | none => 8
    let h := { f.mac with keysel := ks, len := 40 + f.plain.length + tag }.bytes
    let f1 : Frame := { f with hdr := h, key := k, handle := 0, bytes := [], st := .enc, tries := 0 }
    (s.putFrame f1).protect f1
  | .handle h => s.putFrame { f with st := .key, handle := h, bytes := [], tries := 0 }
  | .fetch => (s.dirMiss f.mac.dst).putFrame { f with st := .path, bytes := [] }
  | .none => (s.putFrame f).loseKey f

/-! The path (R228, R243, R530). -/

/-- A frame without a path waits. -/
def State.noPath (s : State) (f : Frame) : State :=
  s.putFrame { f with st := .path, path := none, noRoute := some (f.noRoute.getD s.line.sched.sfN) }

def State.chanNet (s : State) (c : Nat) : Nat := match s.live c with | some cfg => cfgGet cfg F.CH_CFG_NETID | none => 0

/-- A frame goes to a peer on a channel: one protected under the same NETID stays as it is. -/
def State.pathFrame (s : State) (f : Frame) (c peer div : Nat) : State :=
  let m := f.mac
  let f1 : Frame := { f with path := some (c, peer, div), noRoute := none, tries := 0, lseq := none }
  if f.bytes != [] && decide (m.netid = s.chanNet c) && !m.flood then s.putFrame { f1 with st := .ready, since := s.slot }
  else s.keyFrame { f1 with hdr := { m with netid := s.chanNet c, flood := false, ttl := 63, seq := 0 }.bytes }

/-- A flood's TTL (R225). -/
def State.floodTtl (s : State) (f : Frame) : Nat :=
  let d := s.fld .rly F.RLY_REEL_TTL_DEF
  match f.kind with
  | .seg m _ => match s.msg? m with | some x => if x.2.ttl = 0 then d else x.2.ttl | none => d
  | _ => d

/-- Whether a frame can go as a flood: there is a reel set, and its entries carry it. -/
def State.canFlood (s : State) (f : Frame) : Bool :=
  s.feat 6 && s.reelSet != [] && decide (40 + f.plain.length + 8 ≤ s.floodMax)

/-- A frame goes as a flood, under a new FLOOD_SEQ. -/
def State.floodFrame (s : State) (f : Frame) : State :=
  let n := s.net.floodSeq
  let s1 : State := { s with net := { s.net with floodSeq := (n + 1) % 65536 } }
  s1.keyFrame { f with
    path := none, noRoute := none
    hdr := { f.mac with netid := s.chanNet (s.reelSet.headD 0), flood := true, ttl := s.floodTtl f, seq := n }.bytes }

/-- Channels in force, one list for each NETID. -/
def State.chansByNet (s : State) : List (Nat × List Nat) :=
  let on := (List.range 64).filter fun c => (s.live c).isSome
  ((on.map s.chanNet).eraseDups).map fun n => (n, on.filter fun c => decide (s.chanNet c = n))

/-- A group frame goes one hop: once on every channel, under each channel's NETID. -/
def State.oneHop (s : State) (f : Frame) : State :=
  match s.chansByNet with
  | [] => s.noPath f
  | l => (l.zipIdx).foldl (fun s e =>
      let i := if e.2 = 0 then (f.id, s) else s.newId
      i.2.keyFrame { f with
        id := i.1, path := none, noRoute := none, copies := e.1.2
        hdr := { f.mac with netid := e.1.1, flood := false, ttl := 63, seq := 0 }.bytes }) s

/-- An originated frame takes its path. -/
def State.routeOrig (s : State) (f : Frame) : State :=
  let m := f.mac
  if isGroup m.dst then
    if decide (f.mode = 1) && s.feat 6 && s.reelSet != [] then (if s.canFlood f then s.floodFrame f else s.noPath f)
    else s.oneHop f
  else if decide (f.mode = 1) && s.feat 6 then
    if s.canFlood f then s.floodFrame f else s.noPath f
  else
    let h := s.choosePath m.dst true none
    let s1 := if f.noRoute.isNone then s.countLookup m.dst true none h else s
    match h with
    | .to c p d => s1.pathFrame f c p d
    | .flood => if s1.canFlood f then s1.floodFrame f else s1.noPath f
    | .wait => s1.noPath f
    | .fetch => (s1.dirMiss m.dst).noPath f

/-- A forwarded frame takes its next hop, on a channel of its own NETID (R238, R530), or goes on as a flood (R243). DESIGN CHOICE (log
75): only its FLOOD bit changes then, and it waits while the seen cache holds a flood of its number. -/
def State.routeFwd (s : State) (f : Frame) : State :=
  let m := Mac.of f.bytes
  let h := s.choosePath m.dst false (some m.netid)
  let s1 := if f.noRoute.isNone then s.countLookup m.dst false (some m.netid) h else s
  match h with
  | .to c p d => s1.putFrame { f with path := some (c, p, d), noRoute := none, tries := 0, lseq := none, st := .ready, since := s1.slot }
  | .flood =>
    let b := putFlood f.bytes
    if m.flood || decide (s1.floodMax < b.length) || s1.net.floods.any (fun x => decide (x.src = m.src ∧ x.seq = m.seq ∧ x.epoch = m.epoch))
    then s1.noPath f
    else s1.putFrame { f with hdr := b.take 40, bytes := b, path := none, noRoute := none, lseq := none, st := .ready, since := s1.slot }
  | _ => s1.noPath f

/-- A frame takes its path. -/
def State.routeFrame (s : State) (f : Frame) : State :=
  match f.kind with
  | .fwd => s.routeFwd f
  | _ => s.routeOrig f

/-- Frames without a path try again. -/
def State.retryPaths (s : State) : State :=
  (s.net.frames.filter fun f => decide (f.st = .path)).foldl (fun s f => s.routeFrame f) s

/-! Frames of the device itself (TENANT 0xFF). -/

/-- The segments of a payload. -/
def segments (p : Nat) (data : List Nat) : List (Nat × List Nat) :=
  (List.range (max 1 (ceilDiv data.length p))).map fun k => (k * p, (data.drop (k * p)).take p)

/-- The header of a frame of the device's own. -/
def State.devMac (s : State) (mtype svc prio dst no off : Nat) (first last : Bool) : Mac :=
  { mtype := mtype, prio := prio, hver := 0, flood := false, routed := false, e2e := false, first := first, last := last, len := 0,
    netid := 0, src := s.ownNode, dst := dst, epoch := s.epoch, ttl := 63, seq := 0, svc := svc, ten := 255, keysel := 0,
    ltx := 0, lseq := 0, no := no, off := off }

/-- A device message goes out: its service, class, destination and payload. -/
def State.sendDev (s : State) (mtype svc prio dst : Nat) (data : List Nat) : State :=
  if !isUnicast s.ownNode then s
  else
    let n := s.takeNumber svc prio
    let segs := segments (s.segSize 16 false) data
    (segs.zipIdx).foldl (fun s e =>
      let i := s.newId
      let m := s.devMac mtype svc prio dst n.1 e.1.1 (decide (e.2 = 0)) (decide (e.2 + 1 = segs.length))
      i.2.routeFrame (Frame.new i.1 .dev 0 255 m.bytes e.1.2)) n.2

/-- Records of the device's own, `per` to a message after a COUNT of 2 bytes and reserved bytes. -/
def countHead (n pad : Nat) : List Nat := leBytes 2 n ++ List.replicate pad 0

end Sys2Proof.Machine
end

