-- ==== Sys2Proof/Machine/Relay.lean ====
section
/-! DEFINITION. The relay unit: the seen cache and floods (R228 to R237), the sender's side of link ARQ (R298, R299), acknowledgements
(R227, R298), the forwarding queue (R238 to R240) and the state of links (R244). -/

set_option Elab.async false

namespace Sys2Proof.Machine

/-! Progress of a message (R299). -/

/-- A segment has been handed on: with its last one the message completes, or its confirmation is awaited. -/
def State.segHanded (s : State) (id off : Nat) : State :=
  if s.net.frames.any fun f => decide (f.kind = .seg id off) then s
  else match s.msg? id with
    | none => s
    | some (t, m) =>
      if !m.cut || !m.left.contains off then s
      else
        let m1 : Msg := { m with left := m.left.filter (· ≠ off) }
        let put := fun (m : Msg) => s.setTenant t { s.tenant t with msgs := (s.tenant t).msgs.map fun y => if y.id = m.id then m else y }
        if m1.left != [] then put m1
        else if m1.e2e then put { m1 with handed := some s.line.sched.sfN }
        else (put m1).completeMsg t m1 0

/-! The seen cache (R234). -/

def Flood.is (f : Flood) (src seq epoch : Nat) : Bool := decide (f.src = src ∧ f.seq = seq ∧ f.epoch = epoch)
def State.flood? (s : State) (src seq epoch : Nat) : Option Flood := s.net.floods.find? fun f => f.is src seq epoch
def State.setFlood (s : State) (x : Flood) : State :=
  { s with net := { s.net with floods := s.net.floods.map fun f => if f.is x.src x.seq x.epoch then x else f } }
def State.delFlood (s : State) (src seq epoch : Nat) : State :=
  { s with net := { s.net with floods := s.net.floods.filter fun f => !f.is src seq epoch } }

/-- Slots since an entry was made. -/
def State.floodAge (s : State) (f : Flood) : Nat := s.line.sched.slotN - f.age
def State.floodAged (s : State) (f : Flood) : Bool := decide (max 1 (s.fld .seen F.SEEN_CFG_AGE) < s.floodAge f)
def Flood.settled (f : Flood) : Bool := decide (f.st = .heard ∨ f.st = .done)

/-- A new entry, in place of the oldest settled one where the cache is full; without such a one it is not entered. -/
def State.seenInsert (s : State) (x : Flood) : Bool × State :=
  let add := fun (s : State) => ({ s with net := { s.net with floods := s.net.floods ++ [x] } }).bump .seen 0
  if s.net.floods.length < 16384 then (true, add s)
  else
    let old := (s.net.floods.filter Flood.settled).foldl (fun (a : Option Flood) f => match a with
      | none => some f
      | some b => if f.age < b.age then some f else some b) none
    match old with
    | some f => (true, ((add (s.delFlood f.src f.seq f.epoch)).bump .seen 2).event .seen 2)
    | none => (false, (s.bump .seen 5).event .seen 2)

/-- Whether the reel transmissions of a flood lie on no channel: the set has W25k channels only. -/
def State.noReel (s : State) (netid : Nat) : Bool := (s.reelChans.filter fun c => decide (s.chanNet c = netid)) = []

/-- A sleep announcement has been acknowledged: its parameters hold from the next rendezvous computed (R266). -/
def State.annAcked (s : State) (id : Nat) : State :=
  match s.slp.ann with
  | some a => if a.1 = id then { s with slp := { s.slp with ann := none, rend := some a.2 } } else s
  | none => s

/-- A flood reaches DONE (Table 08-2, R299): what it carried is handed on, or, for a unicast flood of the node's own that nothing
acknowledged, floods again. -/
def State.floodDone (s : State) (x : Flood) : State :=
  let s1 := if s.floodAged x then (s.delFlood x.src x.seq x.epoch).bump .seen 3 else s.setFlood { x with st := .done }
  match x.seg.bind s1.frame? with
  | none => s1
  | some f =>
    if x.acked || isGroup f.mac.dst then
      let s2 := s1.delFrame f.id
      match f.kind with
      | .seg m off => s2.segHanded m off
      | _ => s2.annAcked f.id
    else s1.routeFrame { f with st := .path, bytes := [], noRoute := none }

/-- A copy of a flood sent by routed unicast ends, acknowledged or not. -/
def State.copyDone (s : State) (id : Nat) (ok : Bool) : State :=
  match s.net.floods.find? fun f => f.copies.contains id with
  | none => s
  | some f =>
    let f1 : Flood := { f with copies := f.copies.filter (· ≠ id), acked := f.acked || ok }
    let s1 := if !ok && decide (f.st = .fallback) then (s.setFlood f1).bump .rly 4 else s.setFlood f1
    if f1.copies = [] && (decide (f.st = .fallback) || (decide (f.st = .sent) && s.noReel (leAt f.bytes 4 2))) then s1.floodDone f1 else s1

/-- A copy of a flood for a peer, by routed unicast under link ARQ: FLOOD and ROUTED set. -/
def State.floodCopy (s : State) (x : Flood) (c peer div : Nat) : Nat × State :=
  let i := s.newId
  let b := putRouted x.bytes true
  (i.1, i.2.putFrame { Frame.new i.1 .fwd 0 255 (b.take 40) [] with
    bytes := b, path := some (c, peer, div), st := .ready, since := s.slot })

/-- Copies to a list of peers are added to a flood's. -/
def State.floodCopies (s : State) (x : Flood) (l : List (Nat × Nat × Nat)) : State :=
  let r := l.foldl (fun (a : List Nat × State) p => let y := a.2.floodCopy x p.1 p.2.1 p.2.2; (a.1 ++ [y.1], y.2)) ([], s)
  r.2.setFlood { x with copies := x.copies ++ r.1 }

/-- Direct neighbours on a channel, in ascending node number. -/
def State.neighbours (s : State) (c : Nat) : List Nat :=
  ((s.net.routes.filter fun r => r.neigh && decide (r.chan = c)).map (·.next)).mergeSort (fun a b => decide (a ≤ b))

/-- A flood enters the cache as one to be sent: on the reel channels of its NETID, and as copies on W25k channels (R228). In
PRIMARY its first transmission waits for its mirror (R369). -/
def State.floodStart (s : State) (x : Flood) (netid : Nat) : Bool × State :=
  let x1 : Flood := { x with left := s.reelChans.filter (fun c => decide (s.chanNet c = netid)), mir := !s.mirrors }
  let r := s.seenInsert x1
  if !r.1 then r
  else
    let s1 := if r.2.mirrors then r.2.awaitMirror (.flood x.src x.seq x.epoch) x.bytes else r.2
    let wide := s1.reelSet.filter fun c => decide (s1.chanNet c = netid) && !s1.reelChans.contains c
    let l := wide.flatMap fun c => (s1.neighbours c).map fun n => (c, n, 0)
    let s2 := if l = [] then s1 else s1.floodCopies x1 l
    if x1.left != [] || wide = [] then (true, s2)
    else match s2.flood? x.src x.seq x.epoch with
      | some y => (true, if y.copies = [] then s2.floodDone y else s2.setFlood { y with st := .sent })
      | none => (true, s2)

/-- Codewords of a frame, at rate 1/2. -/
def Frame.cws (f : Frame) : Nat := let w := payloadCws 0 [f.bytes.length]; w.2.1 + w.2.2
def Frame.queued (f : Frame) : Bool := decide (f.kind = .fwd) && !f.mac.flood
def State.fwdQueued (s : State) : Nat := ((s.net.frames.filter Frame.queued).map Frame.cws).sum
def State.fwdLimit (s : State) : Nat := max 1 (s.fld .rly F.RLY_FWD_LIMIT)

/-- A frame has left the queue: FWD_FULL clears once there is room below the limit. -/
def State.fwdLeft (s : State) : State := if s.fwdQueued < s.fwdLimit then s.setStatus .rly 17 false else s

/-- Floods of the node's own that are protected enter the cache, and so do frames that it forwards as floods (R243). -/
def State.originate (s : State) : State :=
  (s.net.frames.filter fun f => decide (f.st = .ready) && f.mac.flood && f.path.isNone).foldl (fun s f =>
    let m := f.mac
    let own := decide (f.kind ≠ .fwd)
    let x : Flood := ⟨m.src, m.seq, m.epoch, .eligible, m.ttl, s.line.sched.slotN, m.prio, s.ct, putLink f.bytes 0xFFFFFF 0, [], 0,
      if own then some f.id else none, false, true, []⟩
    let r := s.floodStart x m.netid
    if !r.1 then r.2
    else if own then (r.2.putFrame { f with st := .placed 0 }).bump .rly 1
    else (r.2.delFrame f.id).fwdLeft) s

/-- Whether the node relays a flood (R233), drawing for it. -/
def State.relayDraw (s : State) (m : Mac) : Bool × State :=
  let rank := s.fld .rly F.RLY_REEL_RANK
  let ok := s.flag .rly F.RLY_REEL_RELAY_EN && decide (1 ≤ m.ttl) &&
    decide (m.prio < 2 ∨ (m.prio = 2 ∧ rank ≤ s.fld .rly F.RLY_REEL_RMAX_P2) ∨ (m.prio = 3 ∧ rank ≤ s.fld .rly F.RLY_REEL_RMAX_P3)) &&
    !(decide (0xFFF000 ≤ m.dst ∧ m.dst ≤ 0xFFF01F) && !(s.reg .rly 0x044).getLsbD (m.dst - 0xFFF000)) && !s.stageShed 2
  if !ok then (false, s) else let d := s.draw; (decide (d.1 % 256 ≤ s.fld .rly F.RLY_REEL_PROB), d.2)

/-- The same for a copy taken on a link, which skips rank and draw. -/
def State.relayRouted (s : State) (m : Mac) : Bool :=
  s.flag .rly F.RLY_REEL_RELAY_EN && decide (1 ≤ m.ttl) &&
    !(decide (0xFFF000 ≤ m.dst ∧ m.dst ≤ 0xFFF01F) && !(s.reg .rly 0x044).getLsbD (m.dst - 0xFFF000)) && !s.stageShed 2

/-- A flood first decoded enters the cache (Table 08-1): to be relayed, to be echoed by its destination, or as heard. -/
def State.floodHeard (s : State) (c : Nat) (m : Mac) (bytes : List Nat) (routed : Bool) : State :=
  let own := decide (m.dst = s.ownNode)
  let d := if own then (decide (1 ≤ m.ttl) && s.feat 6, s) else if routed then (s.relayRouted m, s) else s.relayDraw m
  let go := d.1 && (routed || s.reelSet.contains c)
  let ttl := if go then (if own then 0 else m.ttl - 1) else m.ttl
  let b := putRouted (putLink (putTtl bytes ttl) 0xFFFFFF 0) false
  let x : Flood := ⟨m.src, m.seq, m.epoch, if go then .eligible else .heard, ttl, s.line.sched.slotN, m.prio, s.ct, b, [], 0, none, false,
    true, []⟩
  let s1 := if !own && decide (m.ttl = 0) then d.2.bump .rly 7 else d.2
  if go then (s1.floodStart x m.netid).2 else (s1.seenInsert x).2

/-- A further hearing of a flood: a duplicate, and an implicit acknowledgement where its TTL is below the one sent (R236). -/
def State.floodAgain (s : State) (x : Flood) (ttl : Nat) : State :=
  let s1 := s.bump .seen 1
  if decide (x.st = .sent) && decide (ttl < x.ttl) then (s1.bump .rly 2).floodDone { x with acked := true } else s1

/-- SEEN_AGE_EXPIRE: an entry's age exceeds `SEEN_CFG.AGE` (R234). -/
def execSeenAgeExpire (src : Nat) (seq : Nat) (epoch : Nat) (s : State) : Host.Outcome State Fault Refusal :=
  .next (match s.flood? src seq epoch with
    | some x => if x.settled && s.floodAged x then (s.delFlood src seq epoch).bump .seen 3 else s
    | none => s)

/-- Fallback targets of a flood (R237). -/
def State.fallbackTargets (s : State) (x : Flood) : List (Nat × Nat × Nat) :=
  let m := Mac.of x.bytes
  if !s.rteOn then []
  else if isGroup m.dst then
    let own := s.fld .sch F.SCH_CT_STAT_HOP
    let l := (s.net.routes.filter fun r => r.neigh && decide (own < r.hop) && s.reelSet.contains r.chan &&
      s.chanServes r.chan (some m.netid)).mergeSort fun a b => decide (a.metric ≤ b.metric)
    (l.take (s.fld .rly F.RLY_FB_MAX_NB)).map fun r => (r.chan, r.next, 0)
  else match s.choosePath m.dst false (some m.netid) with
    | .to c p d => [(c, p, d)]
    | _ => []

/-- REEL_ACK_TIMEOUT: ACK_SLOTS REEL entries have passed without an implicit acknowledgement. -/
def execReelAckTimeout (src : Nat) (seq : Nat) (epoch : Nat) (s : State) : Host.Outcome State Fault Refusal :=
  .next (match s.flood? src seq epoch with
    | some x =>
      if decide (x.st = .sent) && decide (max 1 (s.fld .rly F.RLY_FB_ACK_SLOTS) ≤ x.waited) then
        match s.fallbackTargets x with
        | [] => ((s.event .rly 1).floodDone x).dispatch
        | l => (((s.floodCopies { x with st := .fallback } l).bump .rly 3).event .rly 2).dispatch
      else s
    | none => s)

/-- Seen-cache entries are removed and counted; a frame of the node's own that went as one of them takes its path anew. -/
def State.flushFloods (s : State) (gone : Flood → Bool) : State :=
  let l := s.net.floods.filter gone
  let s1 : State := ({ s with net := { s.net with floods := s.net.floods.filter fun f => !gone f } }).bumpBy .seen 4 l.length
  let own := l.filterMap fun f => f.seg.bind s.frame?
  if own.isEmpty then s1
  else (own.foldl (fun s g => s.routeFrame { g with st := .path, bytes := [], noRoute := none }) s1).dispatch

/-- A write of `SEEN_FLUSH`: ALL removes every entry. -/
def seenFlushWrite (p : Page) (w : Word) (s : State) : State :=
  let s1 := applyWrite p 0x048 w s
  if w.getLsbD 0 then s1.flushFloods fun _ => true else s1

/-- SEEN_FLUSH: a write of `SEEN_FLUSH`. -/
def execSeenFlush (q : Req) (s : State) : Host.Outcome State Fault Refusal := .next (writeWord q .seen 0x048 seenFlushWrite s)

def FloodSt.code : FloodSt → Nat
  | .heard => 0 | .eligible => 1 | .sent => 2 | .fallback => 3 | .done => 4

/-- A write of `SEEN_Q_KEY`: GO copies the entry asked for. -/
def seenQueryWrite (p : Page) (w : Word) (s : State) : State :=
  let s1 := applyWrite p 0x050 w s
  if !w.getLsbD 31 then s1
  else
    let r := match s1.flood? (s1.fld .seen F.SEEN_Q_SRC_SRC) (F.SEEN_Q_KEY_SEQ.get w) (F.SEEN_Q_KEY_EPOCH.get w) with
      | some x => 2 ^ 30 + x.st.code * 2 ^ 27 + x.ttl % 64 * 2 ^ 20 + min 65535 (s1.floodAge x)
      | none => 0
    (s1.setReg .seen 0x054 (BitVec.ofNat 32 (2 ^ 31 + r))).event .seen 1

/-- SEEN_QUERY: a write of `SEEN_Q_KEY`. -/
def execSeenQuery (q : Req) (s : State) : Host.Outcome State Fault Refusal := .next (writeWord q .seen 0x050 seenQueryWrite s)

/-! The forwarding queue (R238 to R240). -/

/-- A frame for another node is queued, or refused. -/
def State.forward (s : State) (m : Mac) (bytes : List Nat) : Bool × State :=
  if s.stageShed 2 then (false, s)
  else if m.ttl = 0 then (false, s.bump .rly 7)
  else
    let b := putTtl bytes (m.ttl - 1)
    let i := s.newId
    let f : Frame := { Frame.new i.1 .fwd 0 m.ten (b.take 40) [] with bytes := b }
    if s.fwdLimit < s.fwdQueued + f.cws then (false, ((s.setStatus .rly 17 true).event .rly 3).bump .rly 6)
    else (true, i.2.routeFrame f)

/-- FWD_HOLD_EXPIRE: a queued frame has had no route for HOLD_SF superframes. -/
def execFwdHoldExpire (id : Nat) (s : State) : Host.Outcome State Fault Refusal :=
  .next (match s.frame? id with
    | some f => match f.noRoute with
      | some n =>
        if f.queued && decide (f.st = .path) && decide (n + max 1 (s.fld .rly F.RLY_FWD_HOLD_SF) ≤ s.line.sched.sfN) then
          ((s.delFrame id).bump .rly 7).fwdLeft.dispatch
        else s
      | none => s
    | none => s)

/-! Acknowledgements (R227, R298, Table 10-5). -/

/-- The records that acknowledge a list of sequences: (LSEQ, MAP). -/
def ackRecords (l : List Nat) : List (Nat × Nat) :=
  l.foldl (fun (a : List (Nat × Nat)) q =>
    match a.zipIdx.find? fun e => decide ((q + 65536 - e.1.1) % 65536 ≤ 24) with
    | some (r, i) =>
      let d := (q + 65536 - r.1) % 65536
      if d = 0 then a else a.set i (r.1, setBitOf r.2 (d - 1) true)
    | none => a ++ [(q, 0)]) []

def ackPayload (peer : Nat) (l : List Nat) : List Nat :=
  let r := ackRecords l
  countHead r.length 2 ++ r.flatMap fun e => leBytes 3 peer ++ leBytes 2 e.1 ++ leBytes 3 e.2

/-- An acknowledgement of a frame is added to the ACK frame for its sender that still waits for a lane, or begins a new one. -/
def State.addAck (s : State) (c peer lseq cls : Nat) : State :=
  let a := s.arq c peer
  let open_ := s.net.frames.find? fun f => decide (f.mode = 3 ∧ f.path = some (c, peer, 0) ∧ f.st = .enc) &&
    (s.cph.wait.any fun r => match r.work with | .frame i _ _ _ => decide (i = f.id) | _ => false)
  let l := (match open_ with | some _ => a.acks | none => []) ++ [(lseq, cls)]
  let pay := ackPayload peer (l.map (·.1))
  let top := (l.map (·.2)).foldl min 3
  let s1 := s.setArq { a with acks := l }
  match if pay.length ≤ 516 then open_ else none with
  | some f =>
    let h := { f.mac with prio := top, len := f.mac.len - f.plain.length + pay.length }.bytes
    let s2 := s1.putFrame { f with hdr := h, plain := pay }
    { s2 with cph := { s2.cph with wait := s2.cph.wait.map fun r => match r.work with
      | .frame i _ t k => if i = f.id then { r with work := .frame i top t k } else r
      | _ => r } }
  | none =>
    let i := (s1.setArq { a with acks := [(lseq, cls)] }).newId
    let m := { (i.2.devMac 1 0 cls peer 0 0 true true) with netid := i.2.chanNet c }
    i.2.keyFrame { Frame.new i.1 .dev 3 255 m.bytes (ackPayload peer [lseq]) with path := some (c, peer, 0), front := true }

/-- A frame accepted on a link is acknowledged; in PRIMARY once its mirror is (R369). -/
def State.ackLink (s : State) (c peer lseq cls : Nat) : State :=
  if s.mirrors then s.awaitMirror (.ack c peer lseq cls) (leBytes 3 peer ++ leBytes 2 lseq) else s.addAck c peer lseq cls

/-! The sender's side (R298). -/

/-- A frame is acknowledged. -/
def State.frameAcked (s : State) (f : Frame) : State :=
  let s1 := s.delFrame f.id
  match f.kind with
  | .seg m off => s1.segHanded m off
  | .dev => s1.annAcked f.id
  | .fwd => if f.mac.flood then s1.copyDone f.id true else s1.fwdLeft

/-- Whether acknowledgement records of a peer cover a sequence of the node's own. -/
def covers (own : Nat) (recs : List (Nat × Nat × Nat)) (q : Nat) : Bool :=
  recs.any fun r => decide (r.1 = own) && (decide (q = r.2.1) ||
    (let d := (q + 65536 - r.2.1) % 65536; decide (1 ≤ d ∧ d ≤ 24) && bitOf r.2.2 (d - 1)))

/-- Frames that a peer acknowledges on a channel leave the device's hands. -/
def State.acksIn (s : State) (c peer : Nat) (recs : List (Nat × Nat × Nat)) : State :=
  let hit := s.net.frames.filter fun f =>
    (match f.path with | some p => decide (p.1 = c ∧ p.2.1 = peer) | none => false) && decide (0 < f.tries) && decide (f.mode ≠ 3) &&
      f.lseq.any (covers s.ownNode recs)
  let s1 := if hit = [] then s else s.setArq { s.arq c peer with fails := 0 }
  hit.foldl (fun s f => s.frameAcked f) s1

/-- ACK_RX: the records of an acknowledgement that a peer sent. -/
def execAckRx (c : Fin 64) (peer : Nat) (recs : List (Nat × Nat × Nat)) (s : State) : Host.Outcome State Fault Refusal :=
  .next (if s.serving then (s.acksIn c.val peer recs).dispatch.originate else s)

/-- A frame loses its link: it is placed again on whatever path the rules then give; a copy of a flood has failed. -/
def State.placeAgain (s : State) (f : Frame) : State :=
  match f.kind with
  | .fwd => if f.mac.flood then (s.delFrame f.id).copyDone f.id false else s.routeFwd { f with st := .path, path := none }
  | _ => if f.mode = 3 then s.delFrame f.id else s.routeOrig { f with st := .path, path := none }

/-- The longest wait for an acknowledgement, in slots. -/
def State.arqWait (s : State) : Nat := max 1 (s.fld (.tnt 0) F.TNT_ARQ_WAIT)
def State.arqRetry (s : State) : Nat := s.fld (.tnt 0) F.TNT_ARQ_RETRY

/-- Whether a frame awaits link acknowledgement. -/
def Frame.arq (f : Frame) : Bool := f.path.isSome && decide (f.mode ≠ 3)

/-- At the start of slot `n`, for slot `n` + 1: frames whose acknowledgement has not come in time are due again, or have failed
ARQ entirely. -/
def State.retransmits (s : State) : State :=
  let n := s.slot
  let due := s.net.frames.filter fun f => f.arq && (match f.st with
    | .sent e => decide (e + s.arqWait ≤ n + 1 ∧ e + 2 ≤ n + 1)
    | _ => false)
  due.foldl (fun s f =>
    if f.tries ≤ s.arqRetry then s.putFrame { f with st := .ready, since := n }
    else
      let p := f.path.getD (0, 0, 0)
      let a := s.arq p.1 p.2.1
      let s1 := s.setArq { a with fails := a.fails + 1 }
      let s2 := match s1.link? p.1 p.2.1 with | some l => if a.fails + 1 = 4 then s1.dropToDefault l else s1 | none => s1
      s2.placeAgain f) s

/-! Link state (R244). -/

/-- Whether the node expects frames from peers on a channel. -/
def State.expects (s : State) (c : Nat) : Bool :=
  match s.live c with
  | none => false
  | some cfg =>
    let x := s.chan c
    let t := s.table c
    (List.range 64).any fun i =>
      let e := effEntry t cfg i
      decide (e.ty = tyRx ∨ e.ty = tyContend ∨ e.ty = tyReel) || (decide (rawTy (t.getD e.head 0) = tyTx) && rawPar (t.getD e.head 0)) ||
        (decide (e.ty = tyTx) && (x.fd || x.split))

def State.isSleeper (s : State) (n : Nat) : Bool := match s.dirFind n with | some i => s.dirSleeper i | none => false

/-- Whether a link's loss condition holds. -/
def State.linkLost (s : State) (c peer : Nat) : Bool :=
  let a := s.arq c peer
  (match s.live c with | some cfg => decide (s.txPorts cfg = []) | none => true) || decide (4 ≤ a.fails) ||
    (s.expects c && !s.isSleeper peer && decide (max 1 (s.fld .rte F.RTE_CFG_LOSS_SF) ≤ a.quiet))

/-- Frames of a link that is down, in wait or in ARQ, are placed again. -/
def State.leaveLink (s : State) (c peer : Nat) : State :=
  (s.net.frames.filter fun f => (match f.path with | some p => decide (p.1 = c ∧ p.2.1 = peer) | none => false) &&
    (match f.st with | .ready => true | .sent _ => true | _ => false)).foldl (fun s f => s.placeAgain f) s

/-- LINK_DOWN: the link from the node to a peer on a channel goes down. -/
def execLinkDown (c : Fin 64) (peer : Nat) (s : State) : Host.Outcome State Fault Refusal :=
  .next (
    if s.linkDown c.val peer || !s.linkLost c.val peer then s
    else
      let s1 := s.setArq { s.arq c.val peer with down := true }
      ((s1.markLink c.val peer true).leaveLink c.val peer).dispatch)

/-- At a superframe boundary: silence is counted for every peer that the node has heard or routes to, and a link heard in two
superframes running comes up, its order beginning again (R298). -/
def State.linksAtSuperframe (s : State) : State :=
  let named := s.net.routes.map (fun r => (r.chan, r.next)) ++ (s.net.routes.filter fun r => decide (r.alt ≠ 0)).map fun r => (r.altCh, r.alt)
  let s0 := named.foldl (fun s p => if (s.arq? p.1 p.2).isSome || (s.live p.1).isNone then s else s.setArq (Arq.fresh p.1 p.2)) s
  s0.net.arq.foldl (fun s a =>
    let up := a.down && a.heard && a.prev
    let b : Arq := { a with prev := a.heard, heard := false, quiet := a.quiet + 1 }
    if up then (s.setArq { b with down := false, fails := 0, win := [], next := none }).markLink a.chan a.peer false
    else s.setArq b) s0

/-! Views. -/

def State.rlyView (s : State) (off : Nat) : Option Word :=
  match off with
  | 0x058 => some (BitVec.ofNat 32 (min 65535 s.fwdQueued))
  | 0x05C => some (F.RLY_PART_CLAIM_LEFT.put (min 65535 s.net.claim) (s.reg .rly 0x05C))
  | 0x060 => some (BitVec.ofNat 32 (relayDelay s.ownNode))
  | _ => none

def State.seenView (s : State) (off : Nat) : Option Word :=
  if off = 0x044 then some (BitVec.ofNat 32 s.net.floods.length) else none

def seenEffect (off : Nat) (p : Page) (w : Word) (s : State) : State :=
  if off = 0x048 then seenFlushWrite p w s else if off = 0x050 then seenQueryWrite p w s else applyWrite p off w s

end Sys2Proof.Machine
end

