-- ==== Sys2Proof/Machine/Reception.lean ====
section
/-! DEFINITION. Reception (R223 to R227, R300 to R305, R309): what becomes of a decoded MAC frame, device messages, reassembly, the
duplicate filter, the order of delivery, and the delivery queue. -/

set_option Elab.async false

namespace Sys2Proof.Machine

/-! Confirmations (R300). -/

/-- Confirmation records of a node: service, status and number end the messages that asked for them (R299). -/
def State.confirm (s : State) (src : Nat) (recs : List (Nat × Nat × Nat)) : State :=
  recs.foldl (fun s r =>
    match (List.finRange 8).findSome? fun t => ((s.tenant t).msgs.find? fun m =>
        decide (m.dst = src ∧ m.svc = r.1 ∧ m.no = r.2.2) && m.e2e).map fun m => (t, m) with
    | some (t, m) => (s.dropFrames m.id).completeMsg t m (match r.2.1 with | 0 => 1 | 1 => 6 | 2 => 7 | _ => 2)
    | none => s) s

/-- The confirmation of a message goes to its source. -/
def State.sendConfirm (s : State) (src svc no status : Nat) : State :=
  if src = s.ownNode then s.confirm src [(svc, status, no)]
  else s.sendDev 2 0xF3 (no / 2 ^ 30) src (countHead 1 6 ++ [svc % 256, status] ++ leBytes 4 no ++ [0, 0])

/-- CONFIRMATION_RX: the records of a confirmation message. -/
def execConfirmationRx (src : Nat) (recs : List (Nat × Nat × Nat)) (s : State) : Host.Outcome State Fault Refusal :=
  .next (if s.serving then s.confirm src recs else s)

/-! Route advertisements (R246). -/

/-- One record: a dynamic entry is installed, replaced or removed. -/
def State.advRecord (s : State) (c adv hop : Nat) (pre len metric : Nat) : State :=
  let m := if metric = 0xFFFF then metric else min 0xFFFF (metric + s.linkCost c adv)
  let neigh := decide (pre = adv ∧ len = 24)
  let new := fun (i alt altCh altDiv : Nat) => (⟨i, prefixOf pre len, len, adv, c, alt, altCh, altDiv, m, if neigh then hop else 0, 0, false, neigh,
    false, s.linkDown c adv⟩ : Route)
  if 24 < len then s
  else match s.route? pre len with
  | none =>
    if m = 0xFFFF then s
    else match s.freeRoute with
      | some i => (s.putRoute (new i 0 0 0)).bump .rte 4
      | none => (s.bump .rte 7).event .rte 4
  | some r =>
    if r.fixed || !(decide (r.next = adv) || decide (m < r.metric)) then s
    else if m = 0xFFFF then s.delRoute r.idx
    else s.putRoute (new r.idx r.alt r.altCh r.altDiv)

/-- An advertisement heard on a channel from its sender. -/
def State.advIn (s : State) (c src : Nat) (d : List Nat) : State :=
  if !s.rteOn || decide (leAt d 0 3 ≠ src) then s
  else (List.range (min 1024 (leAt d 6 2))).foldl (fun s k =>
    let o := 16 + 8 * k
    if d.length < o + 8 then s else s.advRecord c src (d.getD 3 0 % 64) (leAt d o 3) (d.getD (o + 3) 0 % 32) (leAt d (o + 4) 2)) (s.bump .rte 3)

/-- ROUTE_ADV_RX: an advertisement's payload, from a node on a channel. -/
def execRouteAdvRx (c : Fin 64) (src : Nat) (d : List Nat) (s : State) : Host.Outcome State Fault Refusal :=
  .next (if s.serving then s.advIn c.val src d else s)

/-! Directory merges (R255). -/

/-- One entry of a merge: bytes 0 to 35 of Table 08-4. -/
def State.mergeEntry (s : State) (b : List Nat) : State :=
  let x := leAt b 0 3
  let take := fun (s : State) (i : Nat) =>
    let f := setBitOf (setBitOf (s.dirByte i 3) 4 (bitOf (b.getD 3 0) 4)) 3 (bitOf (b.getD 3 0) 3)
    (((s.dirPut i 3 [f]).dirPut i 4 ((b.drop 4).take 4)).dirPut i 12 ((b.drop 12).take 7)).dirPut i 20 ((b.drop 20).take 16)
  if !bitOf (b.getD 3 0) 7 || !isUnicast x then s
  else match s.dirFind x with
    | some i => if s.dirSeen i < leAt b 12 6 then (take s i).bump .dir 6 else s
    | none => match s.dirPlace x with
      | some (i, rep) =>
        let s1 := (take (s.dirMake i x 15 0x20) i).bump .dir 6
        if rep then s1.bump .dir 5 else s1
      | none => (s.bump .dir 4).event .dir 3

/-- A merge message: up to 100 entries. -/
def State.mergeIn (s : State) (d : List Nat) : State :=
  (List.range (min 100 (d.length / 36))).foldl (fun s k => s.mergeEntry ((d.drop (36 * k)).take 36)) s

/-- DIR_MERGE_RX: the payload of a merge message. -/
def execDirMergeRx (d : List Nat) (s : State) : Host.Outcome State Fault Refusal :=
  .next (if s.serving then (s.mergeIn d).quotas else s)

/-! A parent and its sleepers (R265 to R270). -/

/-- A sleeper is heard: UNREACHED and MISS_RUN clear, CONTACT is now (R270). -/
def State.reached (s : State) (i : Nat) : State :=
  let was := s.dirUnreached i
  let s1 := ((s.dirSetFlag i 2 false).dirPut i 27 [s.dirByte i 27 / 16 * 16]).dirPutLe i 28 6 (s.slot % 2 ^ 44)
  if was then s1.event .slp 4 else s1

def State.addAwake (s : State) (n : Nat) : State :=
  if s.slp.awake.contains n then s else { s with slp := { s.slp with awake := s.slp.awake ++ [n] } }

/-- An authenticated frame from a sleeper of the node's. -/
def State.sleeperHeard (s : State) (n : Nat) : State :=
  match s.dirFind n with
  | some i => if s.feat 9 && s.dirSleeper i && decide (s.dirLe i 20 3 = s.ownNode) then (s.reached i).addAwake n else s
  | none => s

/-- A sleep announcement (R267). -/
def State.announceIn (s : State) (src : Nat) (d : List Nat) : State :=
  if !s.feat 9 then s
  else if leAt d 0 3 = s.ownNode then
    let at_ := match s.dirFind src with
      | some i => (some i, s)
      | none => match s.dirPlace src with
        | some (i, rep) => let t := (s.dirMake i src 15 0x20).bump .dir 3; (some i, if rep then t.bump .dir 5 else t)
        | none => (none, (s.bump .dir 4).event .dir 3)
    match at_.1 with
    | some i => (((at_.2.dirPut i 20 ((d.take 8).set 7 (d.getD 7 0 / 64 * 64))).dirSetFlag i 3 true).reached i).addAwake src
    | none => at_.2
  else match s.dirFind src with
    | some i => if s.dirSleeper i then s.dirSetFlag i 3 false else s
    | none => s

/-- SLEEP_ANNOUNCE_RX: an announcement's payload, from a node. -/
def execSleepAnnounceRx (src : Nat) (d : List Nat) (s : State) : Host.Outcome State Fault Refusal :=
  .next (if s.serving then s.announceIn src d else s)

/-! Device messages. -/

/-- A last gasp is recorded (R457). -/
def State.lastGaspIn (s : State) (src : Nat) (d : List Nat) : State :=
  ((s.setReg .pwr 0x074 (BitVec.ofNat 32 (d.getD 0 0 % 256 * 2 ^ 24 + src % 2 ^ 24))).event .pwr 8).bump .pwr 6

/-- A device message, by its service. -/
def State.devMessage (s : State) (c src svc : Nat) (d : List Nat) : State :=
  match svc with
  | 0xF0 => s.advIn c src d
  | 0xF1 => s.mergeIn d
  | 0xF2 => s.announceIn src d
  | 0xF3 => s.confirm src ((List.range (min 64 (leAt d 0 2))).map fun k =>
      let o := 8 + 8 * k
      (d.getD o 0, d.getD (o + 1) 0, leAt d (o + 2) 4))
  | 0xF4 => s.lastGaspIn src d
  | _ => s

/-- The records of an ACK payload. -/
def ackRead (d : List Nat) : List (Nat × Nat × Nat) :=
  (List.range (min 64 (leAt d 0 2))).map fun k => (leAt d (4 + 8 * k) 3, leAt d (7 + 8 * k) 2, leAt d (9 + 8 * k) 3)

/-! The duplicate filter (R303). -/

/-- What the filter says of a number: new, handled already, or with no room for its key. -/
inductive DupAns where
  | new | dup | full
  deriving DecidableEq, Repr

def Dup.key (d : Dup) (src svc prio : Nat) : Bool := decide (d.src = src ∧ d.svc = svc ∧ d.prio = prio)
def State.dup? (s : State) (src svc prio : Nat) : Option Dup := s.net.dups.find? fun d => d.key src svc prio

def State.dupCheck (s : State) (src svc prio no : Nat) : DupAns :=
  match s.dup? src svc prio with
  | some d =>
    let k := (no % 2 ^ 30 + 2 ^ 30 - d.base) % 2 ^ 30
    if k = 0 ∨ 2 ^ 29 ≤ k then .dup else if k ≤ 256 && bitOf d.map (k - 1) then .dup else .new
  | none =>
    if s.net.dups.length < 32768 || s.net.dups.any fun d => decide (d.usedSf + 512 ≤ s.line.sched.sfN) then .new else .full

/-- Make or touch the entry of a key. -/
def State.dupTouch (s : State) (src svc prio no : Nat) : State :=
  match s.dup? src svc prio with
  | some d => { s with net := { s.net with dups := s.net.dups.map fun e => if e.key src svc prio then { d with used := s.slot, usedSf := s.line.sched.sfN } else e } }
  | none =>
    let old := s.net.dups.foldl (fun (a : Option Dup) d => match a with
      | none => some d
      | some b => if d.used < b.used then some d else some b) none
    let l := if s.net.dups.length < 32768 then s.net.dups
      else match old with | some o => s.net.dups.filter fun d => !d.key o.src o.svc o.prio | none => s.net.dups
    { s with net := { s.net with dups := l ++ [⟨src, svc, prio, (no % 2 ^ 30 + 2 ^ 30 - 1) % 2 ^ 30, 0, s.slot, s.line.sched.sfN, none⟩] } }

/-- A number is marked: the window advances as far as it must. -/
def Dup.mark (d : Dup) (no : Nat) : Dup :=
  let k := (no % 2 ^ 30 + 2 ^ 30 - d.base) % 2 ^ 30
  let sh := if 256 < k then k - 256 else 0
  { d with base := (d.base + sh) % 2 ^ 30, map := setBitOf (d.map / 2 ^ sh) (k - sh - 1) true }

def State.dupMark (s : State) (src svc prio no : Nat) : State :=
  { s with net := { s.net with dups := s.net.dups.map fun d => if d.key src svc prio then d.mark no else d } }

/-! The delivery queue (R302, R304, R305, R309). -/

def State.setWaits (s : State) (t : Fin 8) (l : List Waiting) : State := s.setTenant t { s.tenant t with waits := l }

/-- The message's bound tenant and queue pair. -/
def State.binding (s : State) (svc : Nat) : Option (Fin 8 × Nat) :=
  if s.flag (.tnt 0) (F.TNT_SVC_BOUND.at (svc % 256)) then
    some (Fin.ofNat 8 (s.fld (.tnt 0) (F.TNT_SVC_TENANT.at (svc % 256))), s.fld (.tnt 0) (F.TNT_SVC_QP.at (svc % 256)))
  else none

/-- The class, the bound tenant and nothing else of a sample of SRC 2. -/
def rxSample (t : Fin 8) (prio : Nat) : SampleOf := ⟨some t.val, prio, 0, false⟩

/-- A message is dropped with a notice of a status (R309, R294). -/
def State.dropNotice (s : State) (t : Fin 8) (w : Waiting) (status : Nat) : State :=
  let flags := w.prio % 4 + (if w.spilled then 64 else 0)
  let s1 := (s.setWaits t ((s.tenant t).waits.filter fun x => decide (x.id ≠ w.id))).histSample 2 (rxSample t w.prio) none
  let s2 := (s1.postComp t w.q (compBytes 0 2 status flags w.svc w.src 0 w.no w.data.length) false 0).event (.tpage t) 3
  if w.e2e then s2.sendConfirm w.src w.svc w.no 1 else s2

/-- The action of R309 on a waiting message: it moves to the spill area, or is dropped. -/
def State.spillOrDrop (s : State) (t : Fin 8) (w : Waiting) : State :=
  let room := s.spillUsed t + w.data.length ≤ s.fld (.tnt t) F.TNT_SPILL_SIZE_MIB * 1048576
  if s.feat 18 && s.tenFeat t 18 && decide (s.fld (.tnt t) F.TNT_SPILL_SIZE_MIB ≠ 0) && s.dramOn && !s.stageShed 3 && decide room then
    ((s.setWaits t ((s.tenant t).waits.map fun x => if x.id = w.id then { x with spilled := true } else x)).bump (.tnt t) 5).event (.tnt t) 3
  else ((s.dropNotice t w 8).bump (.tnt t) 6).event (.tnt t) 2

/-- The delivery queue's pressure signal (R314): fill in words of 8 per message. -/
def State.delqFill (s : State) (t : Fin 8) : Nat := 8 * ((s.tenant t).waits.filter (·.queued)).length
def State.pressure (s : State) (t : Fin 8) : State :=
  let hi := s.fld (.tnt t) F.TNT_DELQ_WM_HIGH
  let lo := min (s.fld (.tnt t) F.TNT_DELQ_WM_LOW) (hi - 1)
  let f := s.delqFill t
  let x := s.tenant t
  s.setTenant t { x with press := decide (hi ≠ 0) && (decide (hi ≤ f) || (x.press && decide (lo < f))) }

/-- Messages in order take the free records of the delivery queue; while the waiting messages hold more than 256 KiB, the
oldest is spilled or dropped. -/
def State.settleWaits (s : State) (t : Fin 8) : State :=
  let room := 256 - ((s.tenant t).waits.filter (·.queued)).length
  let take := (((s.tenant t).waits.filter fun w => w.ordered && !w.queued).take room).map (·.id)
  let s1 := s.setWaits t ((s.tenant t).waits.map fun w => if take.contains w.id then { w with queued := true } else w)
  let s2 := (List.range (s1.tenant t).waits.length).foldl (fun s _ =>
    if 262144 < s.rxHold t then
      match (s.tenant t).waits.find? fun w => w.ordered && !w.spilled with
      | some w => s.spillOrDrop t w
      | none => s
    else s) s1
  (s2.pressure t).quotas

/-- Whether a lower number of a message's key is under reassembly. -/
def State.lowerWaits (s : State) (w : Waiting) : Bool :=
  s.net.reasm.any fun r => !r.dev && decide (r.src = w.src ∧ r.svc = w.svc ∧ r.prio = w.prio ∧ r.no % 2 ^ 30 < w.no % 2 ^ 30)

/-- A message leaves the wait for order: it is in the delivery order from now, and no lower number follows it (R304). -/
def State.setOrdered (s : State) (t : Fin 8) (w : Waiting) : State :=
  let s1 := s.setWaits t (((s.tenant t).waits.filter fun x => decide (x.id ≠ w.id)) ++ [{ w with ordered := true, sf := s.ct }])
  { s1 with net := { s1.net with dups := s1.net.dups.map fun d => if d.key w.src w.svc w.prio then { d with top := some (w.no % 2 ^ 30) } else d } }

/-- Messages of a tenant whose lower numbers are no longer awaited come into order, lowest first. -/
def State.settleOrder (s : State) (t : Fin 8) : State :=
  let l := ((s.tenant t).waits.filter fun w => !w.ordered).mergeSort fun a b => decide (a.no % 2 ^ 30 ≤ b.no % 2 ^ 30)
  (l.foldl (fun s w => if s.lowerWaits w || (s.tenant t).waits.any (fun x => !x.ordered && decide (x.id ≠ w.id) &&
      decide (x.src = w.src ∧ x.svc = w.svc ∧ x.prio = w.prio ∧ x.no % 2 ^ 30 < w.no % 2 ^ 30)) then s
    else s.setOrdered t w) s).settleWaits t

/-- Whether the key of a message's frames lets it pass to the bound tenant (R332). -/
def State.keyServes (s : State) (t : Fin 8) (src keysel : Nat) : Bool :=
  if keysel ≤ 0xFFEF then
    match (s.kidSlot keysel).bind s.slot? with | some x => x.serves t.val | none => false
  else
    s.cph.slots.any (fun e => decide (e.2.typ = 1) && decide (e.2.owner = t.val)) &&
      (match s.dirFind src with | some i => decide (s.dirOwner i = t.val ∨ s.dirOwner i = 15) | none => true)

/-- A message of an unbound service is counted (R302, log 243). -/
def State.unboundIn (s : State) : State := { s with net := { s.net with unbound := s.net.unbound + 1 } }

/-- A message that the full filter cannot mark is counted (R303, log 243). -/
def State.fullIn (s : State) : State := { s with net := { s.net with dupFull := s.net.dupFull + 1 } }

/-- A refusal of a message that asked for an end-to-end confirmation is confirmed with its status. -/
def State.confirmNo (s : State) (e2e : Bool) (src svc no st : Nat) : State := if e2e then s.sendConfirm src svc no st else s

/-- A message takes its place among those that wait for their order. -/
def State.waitIn (s : State) (t : Fin 8) (w : Nat → Waiting) : State :=
  let i := s.newId
  (i.2.setWaits t ((i.2.tenant t).waits ++ [w i.1])).settleOrder t

/-- A complete message (R302, R304): bound, tested, marked, and put in order. -/
def State.messageIn (s : State) (src svc prio no dst : Nat) (e2e : Bool) (keysel : Option Nat) (data : List Nat) (at_ : Nat) : State :=
  let s1 := (s.dupTouch src svc prio no).dupMark src svc prio no
  match s1.binding svc with
  | none => s1.unboundIn.confirmNo e2e src svc no 2
  | some (t, q) =>
    let disc := fun (s : State) => s.histSample 2 (rxSample t prio) none
    let inGroup := decide (dst = 0xFFFFFF) || !isGroup dst || (List.range 64).any fun g =>
      decide (s1.fld (.tnt 0) (F.TNT_GRP_GROUP.at g) = dst) && decide (dst ≠ 0xFFFFFF) && bitOf (s1.fld (.tnt 0) (F.TNT_GRP_TENANTS.at g)) t.val
    if !inGroup then disc s1
    else if (match keysel with | some k => !s1.keyServes t src k | none => false) then ((disc s1).bump .key 7).confirmNo e2e src svc no 2
    else if (match (s1.dup? src svc prio).bind (·.top) with | some n => decide (no % 2 ^ 30 < n) | none => false) then
      ((disc s1).bump (.tnt t) 4).confirmNo e2e src svc no 3
    else s1.waitIn t fun i => ⟨i, q, src, svc, prio, no, e2e, data, s1.line.sched.sfN, at_, false, false, false, false⟩

/-- The messages of a message's key with lower numbers that wait for order too, lowest first: they precede it (R30). -/
def State.lowerOf (s : State) (t : Fin 8) (w : Waiting) : List Waiting :=
  ((s.tenant t).waits.filter fun x => !x.ordered &&
    decide (x.src = w.src ∧ x.svc = w.svc ∧ x.prio = w.prio ∧ x.no % 2 ^ 30 < w.no % 2 ^ 30)).mergeSort fun a b =>
      decide (a.no % 2 ^ 30 ≤ b.no % 2 ^ 30)

/-- ORDER_WAIT_EXPIRE: a message has waited ORDER_SF superframes for lower numbers. It and those before it come into order. -/
def execOrderWaitExpire (t : Fin 8) (id : Nat) (s : State) : Host.Outcome State Fault Refusal :=
  .next (match (s.tenant t).waits.find? fun w => decide (w.id = id) with
    | some w =>
      if !w.ordered && decide (w.sf + max 1 (s.fld (.tnt t) F.TNT_LIMITS_ORDER_SF) ≤ s.line.sched.sfN) then
        ((((s.lowerOf t w).foldl (fun s x => s.setOrdered t x) s).setOrdered t w).settleOrder t).dispatch
      else s
    | none => s)

/-- WAIT_AGE_EXPIRE: a message in order has waited WAIT_AGE_MS for its buffers. -/
def execWaitAgeExpire (t : Fin 8) (id : Nat) (s : State) : Host.Outcome State Fault Refusal :=
  .next (match (s.tenant t).waits.find? fun w => decide (w.id = id) with
    | some w =>
      if w.ordered && !w.spilled && decide (max 1 (s.fld (.tnt t) F.TNT_LIMITS_WAIT_AGE_MS) * 10000 ≤ s.tenths w.sf) then
        ((s.spillOrDrop t w).settleWaits t).dispatch
      else s
    | none => s)

/-! Reassembly (R301). -/

def Reasm.key (r : Reasm) (src svc prio no : Nat) (dev : Bool) : Bool :=
  decide (r.src = src ∧ r.svc = svc ∧ r.prio = prio ∧ r.no = no ∧ r.dev = dev)

/-- The message's bytes once every one up to its end has come. -/
def Reasm.whole (r : Reasm) : Option (List Nat) :=
  r.total.bind fun n =>
    let get := fun k => r.segs.findSome? fun e => if e.1 ≤ k ∧ k < e.1 + e.2.length then some (e.2.getD (k - e.1) 0) else none
    let b := (List.range n).filterMap get
    if b.length = n then some b else none

/-- A segment joins its message, which may complete it. -/
def State.segmentIn (s : State) (m : Mac) (dev : Bool) (p : List Nat) : Option (List Nat) × State :=
  let old := s.net.reasm.find? fun r => r.key m.src m.svc m.prio m.no dev
  let r0 := old.getD ⟨m.src, m.svc, m.prio, m.no, dev, m.dst, m.e2e, m.keysel, [], none, s.line.sched.sfN⟩
  let r : Reasm := { r0 with
    segs := (r0.segs.filter fun e => decide (e.1 ≠ m.off)) ++ [(m.off, p)]
    total := if m.last then some (m.off + p.length) else r0.total }
  let rest := s.net.reasm.filter fun r => !r.key m.src m.svc m.prio m.no dev
  match r.whole with
  | some d => (some d, { s with net := { s.net with reasm := rest } })
  | none => (none, { s with net := { s.net with reasm := rest ++ [r] } })

/-- REASM_TIMEOUT: a message is incomplete REASM_SF superframes after its first segment; messages that waited for it come into
order. -/
def execReasmTimeout (src svc prio no : Nat) (dev : Bool) (s : State) : Host.Outcome State Fault Refusal :=
  .next (match s.net.reasm.find? fun r => r.key src svc prio no dev with
    | some r =>
      if r.sf + max 1 (s.fld (.tnt 0) F.TNT_MSCFG_REASM_SF) ≤ s.line.sched.sfN then
        let s1 : State := { s with net := { s.net with reasm := s.net.reasm.filter fun x => !x.key src svc prio no dev } }
        (match s1.binding svc with
          | some (t, _) => if dev then s1 else (((s1.bump (.tnt t) 6).histSample 2 (rxSample t prio) none).settleOrder t).dispatch
          | none => s1)
      else s
    | none => s)

/-! Delivery of a frame (R301, R326, R337). -/

/-- How a frame ends: taken, refused without acknowledgement, or kept for a key. -/
inductive Rx where
  | ok | refuse | wait
  deriving DecidableEq, Repr

/-- The key of a node: the node's own, or that of its directory entry. -/
def State.nodeKey (s : State) (n ks : Nat) : KeyFor :=
  if n = s.ownNode then (match s.ownSlot with | some k => .slot k ks | none => .none)
  else match s.dirFind n with
    | some i =>
      if s.dirHandle i = 0 then .none
      else match s.handleSlot (s.dirHandle i) with | some k => .slot k ks | none => .handle (s.dirHandle i)
    | none => .none

/-- The key that a received frame's KEYSEL names (Table 11-4). -/
def State.rxKey (s : State) (m : Mac) : KeyFor :=
  if m.keysel ≤ 0xFFEF then (match s.kidSlot m.keysel with | some k => .slot k m.keysel | none => .none)
  else match m.keysel with
    | 0xFFF0 => s.nodeKey m.src 0xFFF0
    | 0xFFF1 => s.nodeKey m.dst 0xFFF1
    | 0xFFF8 => s.deviceKey
    | _ => .none

/-- The payload of a device frame. -/
def State.devFrame (s : State) (c : Nat) (m : Mac) (p : List Nat) : State :=
  if m.mtype = 1 then s.acksIn c m.src (ackRead p)
  else
    let r := s.segmentIn m true p
    match r.1 with
    | some d => r.2.devMessage c m.src m.svc d
    | none => r.2

/-- The payload of a tenant's frame: the filter is checked on the first segment to arrive. -/
def State.tenFrame (s : State) (m : Mac) (p : List Nat) (at_ : Nat) : Rx × State :=
  let known := s.net.reasm.any fun r => r.key m.src m.svc m.prio m.no false
  match if known then DupAns.new else s.dupCheck m.src m.svc m.prio m.no with
  | .full => (.refuse, s.fullIn)
  | .dup =>
    let s1 := match s.binding m.svc with | some (t, _) => s.bump (.tnt t) 4 | none => s
    (.ok, if m.e2e then s1.sendConfirm m.src m.svc m.no 3 else s1)
  | .new =>
    let r := (s.dupTouch m.src m.svc m.prio m.no).segmentIn m false p
    match r.1 with
    | some d =>
      let s1 := r.2.messageIn m.src m.svc m.prio m.no m.dst m.e2e (some m.keysel) d at_
      let s2 := match s1.dirFind m.src with | some i => s1.dirCount i 48 4 | none => s1
      (.ok, (List.finRange 8).foldl (fun s t => s.settleOrder t) s2)
    | none => (.ok, r.2)

/-- The authentication of a received frame is requested of a bulk lane, and waits in rank order (R25, R31, R340). DESIGN CHOICE (log
242): it is charged to the tenant that the frame's service is bound to. A copy of a frame that waits already adds none. -/
def State.askAuth (s : State) (r : MacRx) (m : Mac) (wake : Option Nat) (k : Nat) : State :=
  if s.net.auths.any fun a => decide (a.rx.chan = r.chan ∧ a.rx.bytes = r.bytes) then s
  else
    let i := s.newId
    let ten := if m.ten = 255 then 255 else match s.binding m.svc with | some (t, _) => t.val | none => 255
    ({ i.2 with net := { i.2.net with auths := i.2.net.auths ++ [⟨i.1, r, wake, k⟩] } } : State).addReq (.auth i.1 m.prio ten k)

/-- A frame is handed to the message service: with its key at hand, its authentication is requested. -/
def State.deliver (s : State) (r : MacRx) (m : Mac) : Rx × State :=
  let keep : State := { s with net := { s.net with rxKeys := s.net.rxKeys ++ [r] } }
  match s.rxKey m with
  | .none => (.refuse, s.bump .key 4)
  | .handle _ => (.wait, keep)
  | .fetch => (.wait, keep)
  | .slot k _ =>
    match s.slot? k with
    | none => (.refuse, s.bump .key 4)
    | some x => (.wait, if x.lost then keep else s.askAuth r m none k)

/-- A frame that is authentic (R301, R332). -/
def State.opened (s : State) (r : MacRx) (m : Mac) (p : List Nat) : Rx × State :=
  if (decide (m.ten = 255) != decide (m.keysel = 0xFFF8)) then (.refuse, s.bump .key 7)
  else
    let byReel := decide ((Fc.decode r.fc).ftype = 5)
    let s2 := (s.dirHeard m.src m.epoch (if byReel then none else some (m.ltx, r.chan.val))).sleeperHeard m.src
    let s3 := if m.flood then s2.floodSample ⟨if m.ten < 8 then some m.ten else none, m.prio, 0, false⟩ m.ttl else s2
    if m.ten = 255 then (.ok, s3.devFrame r.chan.val m p) else s3.tenFrame m p r.at_

/-! Handling of a frame (R224, Table 08-1) and the order of a link (R298). -/

/-- Whether a frame came on a link to the node (R226). -/
def State.onLink (s : State) (r : MacRx) (m : Mac) : Bool :=
  let f := Fc.decode r.fc
  decide (f.div = 0) && decide (f.tmapId ≠ 0) && (match s.rxMap? r.chan.val f.tmapId with | some l => decide (l.peer = m.ltx) | none => false)

/-- Whether the node forwards a frame that named no receiver, one under the default map or in a diversity mode: it holds a route whose
next hop is not the frame's sender (R226). -/
def State.wouldForward (s : State) (r : MacRx) (m : Mac) : Bool :=
  let f := Fc.decode r.fc
  (decide (f.div ≠ 0) || decide (f.tmapId = 0)) && match s.choosePath m.dst false (some m.netid) with
  | .to _ p _ => decide (p ≠ m.ltx)
  | _ => false

/-- What a node does with a frame that is in its turn: delivery and the onward action. -/
def State.handle (s : State) (r : MacRx) (m : Mac) : Rx × State :=
  let own := decide (m.dst = s.ownNode)
  if m.flood then
    match s.flood? m.src m.seq m.epoch with
    | some x => (.ok, (s.floodAgain x m.ttl).unreserve r.chan.val)
    | none =>
      let s1 := s.floodHeard r.chan.val m r.bytes (m.routed && s.onLink r m)
      if own || isGroup m.dst then s1.deliver r m else (.ok, s1)
  else if own || isGroup m.dst then s.deliver r m
  else let f := s.forward m r.bytes; (if f.1 then .ok else .refuse, f.2)

/-- A frame of a link that is in its turn: it is acknowledged, or leaves the window. -/
def State.passOn (s : State) (r : MacRx) (m : Mac) : State :=
  let h := s.handle r m
  match h.1 with
  | .ok => h.2.ackLink r.chan.val m.ltx m.lseq m.prio
  | _ => let a := h.2.arq r.chan.val m.ltx; h.2.setArq { a with win := a.win.filter (· ≠ m.lseq) }

/-- Frames held behind a gap that are now in turn are passed on, `fuel` of them at most. -/
def State.drainHeld (s : State) (c peer : Nat) : Nat → State
  | 0 => s
  | n + 1 =>
    let a := s.arq c peer
    match a.held.find? fun e => decide (some e.1 = a.next) with
    | some e =>
      let s1 := s.setArq { a with held := a.held.filter (fun x => decide (x.1 ≠ e.1)), next := some ((e.1 + 1) % 65536) }
      (s1.passOn e.2.1 (Mac.of e.2.1.bytes)).drainHeld c peer n
    | none => s

/-- A frame on a link (R227, R298). -/
def State.linkFrame (s : State) (r : MacRx) (m : Mac) : State :=
  let c := r.chan.val
  let a := s.arq c m.ltx
  if a.win.contains m.lseq then
    if a.held.any fun e => decide (e.1 = m.lseq) then s else s.ackLink c m.ltx m.lseq m.prio
  else
    let w := (m.lseq :: a.win).take 256
    let n := a.next.getD m.lseq
    let d := (m.lseq + 65536 - n) % 65536
    if d = 0 then
      ((s.setArq { a with win := w, next := some ((m.lseq + 1) % 65536) }).passOn r m).drainHeld c m.ltx a.held.length
    else if 32768 ≤ d then (s.setArq { a with win := w }).passOn r m
    else s.setArq { a with win := w, held := a.held ++ [(m.lseq, r, s.line.sched.slotN)] }

/-- LSEQ_GAP_EXPIRE: the oldest frame held behind a missing LSEQ has waited WAIT × (RETRY + 1) slots. -/
def execLseqGapExpire (c : Fin 64) (peer : Nat) (s : State) : Host.Outcome State Fault Refusal :=
  .next (
    let a := s.arq c.val peer
    if a.held.any fun e => decide (e.2.2 + s.arqWait * (s.arqRetry + 1) ≤ s.line.sched.slotN) then
      let n := a.next.getD 0
      let d := fun (q : Nat) => (q + 65536 - n) % 65536
      match a.held.foldl (fun (b : Option Nat) e => match b with
        | none => some e.1
        | some q => if d e.1 < d q then some e.1 else some q) none with
      | some q => ((s.setArq { a with next := some q }).drainHeld c.val peer (a.held.length + 1)).dispatch.originate
      | none => s
    else s)

/-- Whether a MAC frame's type belongs to its transmission's FTYPE (R215). -/
def typeFits (ftype : Nat) (m : Mac) : Bool :=
  match ftype with
  | 1 => decide (m.mtype ≤ 2)
  | 2 => decide (m.mtype = 1)
  | 5 => m.flood && decide (m.mtype ≤ 4)
  | 6 => decide (m.mtype = 4)
  | 7 => decide (m.mtype = 3)
  | 8 => decide (m.mtype = 2)
  | _ => false

/-- Bytes of the tag of a received frame: those of its key where it is held, else the fewest. -/
def State.tagBytes (s : State) (m : Mac) : Nat :=
  match s.rxKey m with
  | .slot k _ => match s.slot? k with | some x => if bitOf x.modes 1 then x.tagLen else 16 | none => 8
  | _ => 8

/-- A frame fails the checks of R218 before authentication: it is dropped and counted (log 243). -/
def State.macDrop (s : State) : State := { s with net := { s.net with macBad := s.net.macBad + 1 } }

/-- A frame for another node that did not come on a link to this one is overheard, and counted (Table 08-1, log 243). -/
def State.overhear (s : State) : State := { s with net := { s.net with overheard := s.net.overheard + 1 } }

/-- The checks of R218 before authentication. -/
def State.macOk (s : State) (r : MacRx) (m : Mac) : Bool :=
  decide (m.hver = 0) && typeFits (Fc.decode r.fc).ftype m && decide (40 + s.tagBytes m ≤ m.len ∧ m.len ≤ r.bytes.length) &&
    decide (m.netid = s.chanNet r.chan.val) && isUnicast m.src && decide (m.dst ≠ 0)

/-- The epochs that a node accepts (R223). -/
def State.epochOk (s : State) (e : Nat) : Bool := let d := (e + 256 - s.epoch) % 256; decide (d = 0 ∨ d = 1 ∨ d = 255)

/-- A MAC frame decoded on a channel in force. -/
def State.frameIn (s : State) (r0 : MacRx) : State :=
  let m := Mac.of r0.bytes
  let r : MacRx := { r0 with bytes := r0.bytes.take m.len }
  if (s.live r.chan.val).isNone || !s.serving || !isUnicast s.ownNode then s
  else if !s.macOk r0 m then s.macDrop
  else
    let c := r.chan.val
    let s0 := if isUnicast m.ltx && decide (m.ltx ≠ s.ownNode) then s.setArq { s.arq c m.ltx with heard := true, quiet := 0 } else s
    if !s0.epochOk m.epoch then s0.bump .rly 7
    else
      let own := decide (m.dst = s.ownNode)
      let link := s0.onLink r m
      let ordered := isUnicast m.ltx && decide (m.mtype ≠ 1)
      let s1 :=
        if m.flood then (if m.routed && link && ordered then s0.linkFrame r m else (s0.handle r m).2)
        else if isGroup m.dst || m.mtype = 1 then
          (if own || isGroup m.dst then (s0.handle r m).2
            else if link || s0.wouldForward r m then (s0.forward m r.bytes).2 else s0.overhear)
        else if own || link || s0.wouldForward r m then (if ordered then s0.linkFrame r m else (s0.handle r m).2)
        else s0.overhear
      (s1.retryPaths).dispatch.originate

/-- A frame taken after a wait is acknowledged where it came on a link (R227, R298). -/
def State.ackTaken (s : State) (r : MacRx) (m : Mac) : State :=
  if !isGroup m.dst && isUnicast m.ltx && decide (m.mtype ≠ 1) && (!m.flood || (m.routed && s.onLink r m)) then
    let a := s.arq r.chan.val m.ltx
    (s.setArq { a with win := (m.lseq :: a.win).take 256 }).ackLink r.chan.val m.ltx m.lseq m.prio
  else s

/-- Frames that waited for a key are handed to the message service again. -/
def State.rxAgain (s : State) : State :=
  s.net.rxKeys.foldl (fun s r => (s.deliver r (Mac.of r.bytes)).2) { s with net := { s.net with rxKeys := [] } }

/-- NODE_KEY_RESOLVED: the record of a handle has been read and unwrapped, or could not be read; frames that wait for it go on, or
end without a key (R331). -/
def execNodeKeyResolved (h : Nat) (readable : Bool) (s : State) : Host.Outcome State Fault Refusal :=
  .next (
    let tx := s.net.frames.any fun f => decide (f.st = .key ∧ f.handle = h)
    let rx := s.net.rxKeys.any fun r => match s.rxKey (Mac.of r.bytes) with | .handle k => decide (k = h) | _ => false
    if !(tx || rx) || !s.privOk then s
    else
      let r := match s.handleSlot h with | some k => (some k, s) | none => s.resolveHandle h readable
      let s1 := (r.2.net.frames.filter fun f => decide (f.st = .key ∧ f.handle = h)).foldl (fun s f =>
        if r.1.isSome then s.keyFrame f else s.loseKey f) r.2
      let s2 := if r.1.isSome then s1.rxAgain
        else
          let gone := s1.net.rxKeys.filter fun x => match s1.rxKey (Mac.of x.bytes) with | .handle k => decide (k = h) | _ => false
          { (s1.bumpBy .key 4 gone.length) with net := { s1.net with rxKeys := s1.net.rxKeys.filter fun x => !gone.contains x } }
      s2.dispatch.originate)

end Sys2Proof.Machine
end

