-- ==== Sys2Proof/Machine/Messages.lean ====
section
/-! DEFINITION. The message service at the source and its host side (R285 to R299, R305, R309, R311, R341): rings and doorbells,
descriptors, segmentation, time limits, delivery, and tenant resets. -/

set_option Elab.async false

namespace Sys2Proof.Machine

/-! Segmentation (R297). -/

def State.setMsg (s : State) (t : Fin 8) (m : Msg) : State :=
  s.setTenant t { s.tenant t with msgs := (s.tenant t).msgs.map fun y => if y.id = m.id then m else y }

/-- Whether a message's frames would have a path now, and whether as floods. -/
def State.wayOf (s : State) (m : Msg) : Bool × Bool :=
  let fl := m.flood && s.feat 6
  if isGroup m.dst then
    if fl && s.reelSet != [] then (true, true) else (s.chansByNet != [], false)
  else if fl then (s.reelSet != [], true)
  else match s.choosePath m.dst true none with
    | .to .. => (true, false)
    | .flood => (true, true)
    | _ => (false, false)

/-- The header of a message's segment. -/
def State.segMac (s : State) (m : Msg) (off : Nat) (first last : Bool) : Mac :=
  { s.devMac 0 m.svc m.prio m.dst m.no off first last with e2e := m.e2e, ten := m.tenant }

/-- A message is cut into segments, each a frame on its way. -/
def State.cutMsg (s : State) (t : Fin 8) (m : Msg) (data : List Nat) (flood : Bool) : State :=
  let tag := match s.messageKey m with | .slot k _ => (match s.slot? k with | some x => x.frameTag | none => 16) | _ => 16
  let segs := segments (s.segSize tag flood) data
  let s1 := s.setMsg t { m with left := segs.map (·.1), cut := true }
  (segs.zipIdx).foldl (fun s e =>
    -- a message whose key proved missing has gone
    if (s.msg? m.id).isNone then s
    else
      let i := s.newId
      i.2.routeFrame (Frame.new i.1 (.seg m.id e.1.1) (if m.flood then 1 else 0) m.tenant
        (s.segMac m e.1.1 (decide (e.2 = 0)) (decide (e.2 + 1 = segs.length))).bytes e.1.2)) s1

/-- A message to the node itself passes whole to reception, and is handed on. -/
def State.localMsg (s : State) (t : Fin 8) (m : Msg) (data : List Nat) : State :=
  match s.dupCheck m.dst m.svc m.prio m.no with
  | .full => s
  | a =>
    let m1 : Msg := { m with left := [], cut := true, handed := some s.line.sched.sfN }
    let s1 := s.setMsg t m1
    let s2 := if a = .dup then (if m.e2e then s1.sendConfirm m.dst m.svc m.no 3 else s1)
      else s1.messageIn m.dst m.svc m.prio m.no m.dst m.e2e none data m.at_
    if m.e2e then s2 else s2.completeMsg t m1 0

/-- A message whose payload is at hand is segmented once it has a path. -/
def State.trySegment (s : State) (t : Fin 8) (m : Msg) : State :=
  match m.data with
  | none => s
  | some d =>
    if m.cut || !isUnicast s.ownNode || !s.serving then s
    else if m.dst = s.ownNode then s.localMsg t m d
    else
      let w := s.wayOf m
      if w.1 then s.cutMsg t m d w.2
      else if decide (s.choosePath m.dst true none = .fetch) then s.dirMiss m.dst else s

/-- Messages that wait for a path try again, in order of acceptance. -/
def State.retryMsgs (s : State) : State :=
  (List.finRange 8).foldl (fun s t => ((s.tenant t).msgs.filter fun m => !m.cut && m.data.isSome).foldl (fun s m => s.trySegment t m) s) s

/-! Accepted descriptors (R288 to R293). -/

def descOpc (d : List Nat) : Nat := d.getD 0 0
def descTag (d : List Nat) : Nat := leAt d 4 4

/-- Whether a reserved field of a descriptor is non-zero, or its operation is none (check 1). -/
def descBad (d : List Nat) : Bool :=
  let z := fun (l : List Nat) => l.any fun b => decide (b ≠ 0)
  match descOpc d with
  | 1 => bitOf (d.getD 1 0) 2 || bitOf (d.getD 1 0) 3 || decide (64 ≤ d.getD 3 0) || decide (d.getD 11 0 ≠ 0) ||
      decide (16 ≤ d.getD 15 0) || z ((d.drop 24).take 8)
  | 2 => decide (d.getD 1 0 % 16 ≠ 0 ∨ 32 ≤ d.getD 1 0) || z ((d.drop 2).take 2) || z ((d.drop 8).take 4) || z ((d.drop 14).take 2) || z (d.drop 24)
  | 3 => z ((d.drop 1).take 3) || z (d.drop 8)
  | _ => true

/-- Check 2. -/
def sendBad (d : List Nat) : Bool :=
  let inl := bitOf (d.getD 1 0) 5
  let dst := leAt d 8 3
  decide (leAt d 12 2 = 0) || (inl && decide (32 < leAt d 12 2)) || decide (dst = 0) || (bitOf (d.getD 1 0) 7 && isGroup dst)

/-- The first failing check of a SEND among 1 to 5; 0 for none. -/
def State.sendCheck (s : State) (t : Fin 8) (d : List Nat) : Nat :=
  if descBad d || sendBad d then 9
  else if (match s.binding (d.getD 2 0) with | some (u, _) => decide (u ≠ t) | none => true) then 0x0A
  else if decide (d.getD 1 0 % 4 = 0) && !s.flag (.tnt t) F.TNT_MCTL_P0_EN then 0x0C
  else match s.slot? (leAt d 14 2 % 4096) with
    | some x => if decide (x.typ ≤ 1 ∨ x.typ = 3) && x.serves t.val && x.dying.isNone then 0 else 0x0B
    | none => 0x0B

/-- A refused SEND completes with the status of the check that failed. -/
def State.refuseSend (s : State) (t : Fin 8) (q : Nat) (d : List Nat) (status : Nat) : State :=
  (s.postComp t q (compBytes (descTag d) 0 status (d.getD 1 0 % 4) (d.getD 2 0) (leAt d 8 3) 0 0 (leAt d 12 2)) true 1).bump (.tnt t) 2

/-- An accepted SEND (R291, R293, R296); it is numbered once it has passed R293 whole, which is when its payload is at hand. -/
def State.acceptSend (s : State) (t : Fin 8) (q : Nat) (d : List Nat) : State :=
  let s0 := s.bump (.tnt t) 0
  let e := s0.sendCheck t d
  if e ≠ 0 then s0.refuseSend t q d e
  else
    let b := d.getD 1 0
    let len := leAt d 12 2
    let inl := if bitOf b 5 then some ((d.drop 32).take len) else none
    let n := if inl.isSome then s0.takeNumber (d.getD 2 0) (b % 4) else (0, s0)
    let i := n.2.newId
    let m : Msg := ⟨i.1, t.val, q, descTag d, leAt d 8 3, d.getD 2 0, b % 4, d.getD 3 0 % 64, len, leAt d 14 2 % 4096, bitOf b 7, bitOf b 6,
      inl, bitOf b 4, leAt d 16 8, n.1, i.2.line.sched.sfN, inl, [], false, none, i.2.ct, false⟩
    let s1 := i.2.setTenant t { i.2.tenant t with msgs := (i.2.tenant t).msgs ++ [m] }
    if inl.isSome then s1.trySegment t m
    else if m.qmem || !s1.dmaOk t then s1 else s1.emit (.hostRead (t.val + 1) m.addr len)

/-- An accepted RXBUF or NOP (R292). -/
def State.acceptBuf (s : State) (t : Fin 8) (q : Nat) (d : List Nat) : State :=
  if descBad d || decide (leAt d 12 2 = 0) then s.postComp t q (compBytes (descTag d) 4 9 0 0 0 0 0 0) false 1
  else
    let i := s.newId
    i.2.setTenant t { i.2.tenant t with bufs := (i.2.tenant t).bufs ++ [⟨i.1, q, descTag d, leAt d 12 2, leAt d 16 8, bitOf (d.getD 1 0) 4⟩] }

def State.acceptNop (s : State) (t : Fin 8) (q : Nat) (d : List Nat) : State :=
  if descBad d then s.postComp t q (compBytes (descTag d) 3 9 0 0 0 0 0 0) true 1
  else
    let i := s.newId
    (i.2.setTenant t { i.2.tenant t with fences := (i.2.tenant t).fences ++ [⟨i.1, q, descTag d⟩] }).fences t

/-- A cipher request accepted: one fetched with poison, or with no operation, completes at once (R341). -/
def State.acceptCr (s : State) (t : Fin 8) (d : List Nat) (poison : Bool) : State :=
  if poison then s.postCr t d 0x0A (crKey d) [] 0
  else if !([0x10, 0x11, 0x12, 0x13, 0x14, 0x20, 0x21].contains (crOpc d)) then s.postCr t d 2 (crKey d) [] 0
  else
    let i := s.newId
    let s1 := i.2.setTenant t { i.2.tenant t with creqs := (i.2.tenant t).creqs ++ [(i.1, d)] }
    let n := if crOpc d < 0x14 then s1.crNeed d else if crOpc d = 0x20 then crLen d else 0
    if n = 0 ∨ bitOf (d.getD 1 0) 5 ∨ s1.dmaOk t = false then s1 else s1.emit (.hostRead (t.val + 1) (crSrc d) n)

/-- A descriptor is accepted (R26, R288). -/
def State.acceptDesc (s : State) (t : Fin 8) (q : Nat) (d : List Nat) (poison : Bool) : State :=
  let x := s.tenant t
  if q = 8 then
    (s.setTenant t { x with crAcc := (x.crAcc + 1) % s.sqSize t q }).acceptCr t d poison
  else
    let s1 := s.setTenant t { x with acc := x.acc.set q ((x.acc.getD q 0 + 1) % s.sqSize t q) }
    if poison then
      let o := descOpc d
      if o = 2 ∨ o = 3 then s1.postComp t q (compBytes (descTag d) (if o = 2 then 4 else 3) 0x0E 0 0 0 0 0 0) (decide (o = 3)) 1
      else s1.refuseSend t q d 0x0E
    else match descOpc d with
      | 2 => s1.acceptBuf t q d
      | 3 => s1.acceptNop t q d
      | _ => s1.acceptSend t q d

/-! Rings end (R288, R292, R341). -/

/-- Descriptors of an SQ that are written and not fetched leave INFLIGHT. -/
def State.releaseSq (s : State) (t : Fin 8) (q : Nat) : State :=
  let flying := match s.net.fetch with | some f => decide (f.1 = t.val ∧ f.2.1 = q) | none => false
  let n := s.sqFill t q - (if flying then 1 else 0)
  let x := s.tenant t
  (if q = 8 then s else s.setTenant t { x with inflight := x.inflight - n }).setRing t q F.TNT_SQ_STAT_WR_TAIL
    ((s.ring t q F.TNT_SQ_STAT_HEAD + (if flying then 1 else 0)) % s.sqSize t q)

/-- An SQ is off: what it held unfetched is released, its posted buffers return FLUSHED, and a cipher ring's requests not yet
started complete FLUSHED. -/
def State.sqOff (s : State) (t : Fin 8) (q : Nat) : State :=
  let s1 := (s.releaseSq t q).setRing t q F.TNT_SQ_CFG_EN 0
  if q = 8 then s1.flushDirect t false
  else
    let b := (s1.tenant t).bufs.filter fun b => decide (b.q = q)
    b.foldl (fun s b => s.returnBuf t b 0x0F) (s1.setTenant t { s1.tenant t with bufs := (s1.tenant t).bufs.filter fun b => decide (b.q ≠ q) })

/-- DESC_FETCH_DONE: the fetch under way ends: its descriptor is accepted, in PRIMARY once mirrored (R369), or the ring faults. -/
def execDescFetchDone (o : Fetched) (s : State) : Host.Outcome State Fault Refusal :=
  .next (
    match (if s.restarting then none else s.net.fetch) with
    | none => s.issueFetch
    | some (k, q, head) =>
      let t := Fin.ofNat 8 k
      let s0 : State := { s with net := { s.net with fetch := none } }
      let got := if s0.sqQmem t q then s0.qmemFetch t (s0.sqBase t q + 64 * head) 64 (if q = 8 then 16 else q) o
        else (o, s0)
      let s0 := got.2
      match got.1 with
      | .fail => (((s0.sqOff t q).dmaFault t q false).quotas).issueFetch
      | .ok b poison =>
        let s1 := if s0.ring t q F.TNT_SQ_STAT_HEAD = head then s0.setRing t q F.TNT_SQ_STAT_HEAD ((head + 1) % s0.sqSize t q) else s0
        let d := b.take 64 ++ List.replicate (64 - b.length) 0
        let s2 := if s1.mirrors then s1.awaitMirror (.desc t.val q d poison) ([t.val, q] ++ d) else s1.acceptDesc t q d poison
        (s2.dispatch.originate.quotas).issueFetch)

/-- The reads of host memory that are not yet answered are issued: at the return of Bus Master Enable and D0 (R412), and at a takeover
(R373). -/
def State.readAgain (s : State) (t : Fin 8) : State :=
  let x := s.tenant t
  let s1 := x.msgs.foldl (fun (s : State) m => if m.data.isNone && !m.qmem then s.emit (.hostRead (t.val + 1) m.addr m.len) else s) s
  x.creqs.foldl (fun (s : State) r =>
    let d := r.2
    let n := if crOpc d < 0x14 then s.crNeed d else if crOpc d = 0x20 then crLen d else 0
    if n = 0 ∨ bitOf (d.getD 1 0) 5 then s else s.emit (.hostRead (t.val + 1) (crSrc d) n)) s1

/-- PAYLOAD_READ_DONE: the payload of a message has been read (R291, R293). -/
def execPayloadReadDone (t : Fin 8) (id : Nat) (r : Fetched) (s : State) : Host.Outcome State Fault Refusal :=
  .next (
    match (s.tenant t).msgs.find? fun m => decide (m.id = id) with
    | none => s
    | some m =>
      if m.data.isSome then s
      else
        let got := if m.qmem then
            if s.inAlloc t m.addr m.len then s.qmemFetch t m.addr m.len m.q r else (.fail, s)
          else (r, s)
        let s := got.2
        match got.1 with
        | .fail => ((if m.qmem then s else s.dmaFault t m.q false).completeMsg t m 0x0D).quotas
        | .ok b poison =>
          if poison then (s.completeMsg t m 0x0E).quotas
          else
            let n := s.takeNumber m.svc m.prio
            let m1 : Msg := { m with data := some (b.take m.len), no := n.1 }
            ((n.2.setMsg t m1).trySegment t m1).dispatch.originate)

/-- COMPLETION_WRITE_DONE: a queue pair's oldest completion has been written, or its write has failed. -/
def execCompletionWriteDone (t : Fin 8) (q : Fin 9) (ok : Bool) (s : State) : Host.Outcome State Fault Refusal :=
  .next ((s.compWritten t q.val ok).quotas.issueFetch)

/-! Doorbells (R287, R289, R341). -/

/-- The room of an SQ: by the ring alone for the cipher ring. -/
def State.sqRoom (s : State) (t : Fin 8) (q : Nat) : Nat :=
  let ring := s.sqSize t q - 1 - s.sqFill t q
  if q = 8 then ring else min (s.quotaDepth t - (s.tenant t).inflight) ring

/-- A new tail: accepted where its advance lies within the room, else refused whole. -/
def State.newTail (s : State) (t : Fin 8) (q v : Nat) : Option State :=
  let n := s.sqSize t q
  let adv := (v % n + n - s.ring t q F.TNT_SQ_STAT_WR_TAIL % n) % n
  if s.sqRoom t q < adv then none
  else
    let x := s.tenant t
    let s1 := if q = 8 then s else s.setTenant t { x with inflight := x.inflight + adv }
    some ((s1.setRing t q F.TNT_SQ_STAT_WR_TAIL (v % n)).quotas.issueFetch)

/-- A write of `DB_SQ`: an advance beyond the room is a violation of kind 5. -/
def dbSqWrite (q : Req) (k : Nat) (p : Page) (w : Word) (s : State) : State :=
  match p.tenant? with
  | none => s
  | some t =>
    if !s.sqEn t k then s
    else match s.newTail t k (w.toNat % 4096) with
      | some s1 => s1
      | none => s.violation (p.fn q.serial) (accessAddr (p.fn q.serial) p (0x040 + 8 * k)) 5 true q.be

/-- A new head of a CQ; one that would pass TAIL is taken as TAIL. -/
def State.newHead (s : State) (t : Fin 8) (q v : Nat) : State :=
  if !s.cqEn t q then s
  else
    let n := s.cqSize t q
    let h := s.ring t q F.TNT_CQ_STAT_HEAD
    let tail := s.ring t q F.TNT_CQ_STAT_TAIL
    let target := if (tail + n - h) % n < (v % n + n - h) % n then tail else v % n
    s.withVec (t.val + 1) (s.ring t q F.TNT_CQ_CFG_VEC) true fun s => s.setRing t q F.TNT_CQ_STAT_HEAD target

/-- A write of `DB_CQ`. -/
def dbCqWrite (k : Nat) (p : Page) (w : Word) (s : State) : State :=
  match p.tenant? with
  | some t => s.newHead t k (w.toNat % 4096)
  | none => s

/-- DB_SQ_WRITE and DB_CQ_WRITE: writes of the doorbell page. -/
def execDbSqWrite (q : Req) (t : Fin 8) (k : Fin 8) (s : State) : Host.Outcome State Fault Refusal :=
  .next (writeWord q (.dbell t) (0x040 + 8 * k.val) (dbSqWrite q k.val) s)
def execDbCqWrite (q : Req) (t : Fin 8) (k : Fin 8) (s : State) : Host.Outcome State Fault Refusal :=
  .next (writeWord q (.dbell t) (0x044 + 8 * k.val) (dbCqWrite k.val) s)

/-- A write of `CR_DB_SQ`: an advance beyond the room sets OVERRUN. -/
def crDbSqWrite (p : Page) (w : Word) (s : State) : State :=
  match p.tenant? with
  | none => s
  | some t =>
    if !s.sqEn t 8 then s
    else match s.newTail t 8 (w.toNat % 4096) with
      | some s1 => s1
      | none => (s.setFlag (.crq t) F.CR_STAT_OVERRUN true).event (.crq t) 3

/-- A write of `CR_DB_CQ`. -/
def crDbCqWrite (p : Page) (w : Word) (s : State) : State := dbCqWrite 8 p w s

/-- CR_DB_SQ_WRITE and CR_DB_CQ_WRITE: writes of the cipher request page's doorbells. -/
def execCrDbSqWrite (q : Req) (t : Fin 8) (s : State) : Host.Outcome State Fault Refusal :=
  .next (writeWord q (.crq t) F.CR_DB_SQ_TAIL.off crDbSqWrite s)
def execCrDbCqWrite (q : Req) (t : Fin 8) (s : State) : Host.Outcome State Fault Refusal :=
  .next (writeWord q (.crq t) F.CR_DB_CQ_HEAD.off crDbCqWrite s)

/-! Rings are enabled and disabled (R286, R288). -/

/-- Whether a ring with QMEM lies within the allocation. -/
def State.ringFits (s : State) (t : Fin 8) (q : Nat) (cq : Bool) : Bool :=
  if cq then !s.cqQmem t q || s.inAlloc t (s.cqBase t q) (32 * s.cqSize t q) else !s.sqQmem t q || s.inAlloc t (s.sqBase t q) (64 * s.sqSize t q)

/-- RING_REFUSED of the page that holds the ring. -/
def State.ringRefused (s : State) (t : Fin 8) (k : Nat) : State := if k = 8 then s.event (.crq t) 2 else s.event (.tpage t) 5

/-- A write of an SQ's configuration: EN rises or is refused, or falls. -/
def sqCfgWrite (k : Nat) (p : Page) (w : Word) (s : State) : State :=
  match p.tenant? with
  | none => s
  | some t =>
    let was := s.sqEn t k
    let s1 := applyWrite p (ringOff k + 0x08) w s
    if !was && s1.sqEn t k then
      if s1.ringFits t k false then
        let s2 := s1.setReg p (ringOff k + 0x0C) 0
        let x := s2.tenant t
        s2.setTenant t (if k = 8 then { x with crAcc := 0 } else { x with acc := x.acc.set k 0 })
      else (s1.setRing t k F.TNT_SQ_CFG_EN 0).ringRefused t k
    else if was && !s1.sqEn t k then ((s1.sqOff t k).quotas).issueFetch
    else s1

/-- A write of a CQ's configuration. -/
def cqCfgWrite (k : Nat) (p : Page) (w : Word) (s : State) : State :=
  match p.tenant? with
  | none => s
  | some t =>
    let was := s.cqEn t k
    let vec := F.TNT_CQ_CFG_VEC.get w
    s.withVec (t.val + 1) vec false fun s =>
      let s1 := applyWrite p (ringOff k + 0x18) w s
      if !was && s1.cqEn t k then
        if s1.ringFits t k true then s1.setReg p (ringOff k + 0x1C) 0x1000
        else (s1.setRing t k F.TNT_CQ_CFG_EN 0).ringRefused t k
      else s1

/-- RING_ENABLE, SQ_DISABLE, CQ_DISABLE: writes of a ring's configuration word; ring 8 is the cipher request page's. -/
def execRingEnable (q : Req) (t : Fin 8) (k : Fin 9) (cq : Bool) (s : State) : Host.Outcome State Fault Refusal :=
  .next (if cq then writeWord q (ringPage t k.val) (ringOff k.val + 0x18) (cqCfgWrite k.val) s
    else writeWord q (ringPage t k.val) (ringOff k.val + 0x08) (sqCfgWrite k.val) s)
def execSqDisable (q : Req) (t : Fin 8) (k : Fin 9) (s : State) : Host.Outcome State Fault Refusal :=
  .next (writeWord q (ringPage t k.val) (ringOff k.val + 0x08) (sqCfgWrite k.val) s)
def execCqDisable (q : Req) (t : Fin 8) (k : Fin 9) (s : State) : Host.Outcome State Fault Refusal :=
  .next (writeWord q (ringPage t k.val) (ringOff k.val + 0x18) (cqCfgWrite k.val) s)

/-! Time limits (R299). -/

/-- E2E_TIMEOUT: no confirmation has come within E2E_SF superframes of the last segment handed on: the message is sent again. -/
def execE2eTimeout (t : Fin 8) (id : Nat) (s : State) : Host.Outcome State Fault Refusal :=
  .next (match (s.tenant t).msgs.find? fun m => decide (m.id = id) with
    | some m => match m.handed with
      | some n =>
        if m.e2e && m.left = [] && decide (n + max 1 (s.fld (.tnt 0) F.TNT_MSCFG_E2E_SF) ≤ s.line.sched.sfN) then
          let m1 : Msg := { m with cut := false, handed := some s.line.sched.sfN }
          ((s.setMsg t m1).trySegment t m1).dispatch.originate
        else s
      | none => s
    | none => s)

/-- HOLD_LIMIT_EXPIRE: a message has reached its hold limit: it is withdrawn, or completes unconfirmed. -/
def execHoldLimitExpire (t : Fin 8) (id : Nat) (s : State) : Host.Outcome State Fault Refusal :=
  .next (match (s.tenant t).msgs.find? fun m => decide (m.id = id) with
    | some m =>
      if m.sf + max 1 (s.fld (.tnt t) F.TNT_LIMITS_HOLD_SF) ≤ s.line.sched.sfN then
        if m.handed.isSome then (s.dropFrames m.id).completeMsg t m 5
        else
          let un := match s.dirFind m.dst with | some i => s.dirUnreached i | none => false
          (s.dropFrames m.id).completeMsg t m (if un then 4 else 3)
      else s
    | none => s)

/-! Deliveries (R305). -/

/-- The buffers of a queue pair that a message of a length takes, in posting order, or none where they do not suffice. -/
def takeBufs (l : List Buf) (len : Nat) : Option (List Buf) :=
  let n := ((List.range (l.length + 1)).find? fun k => decide (len ≤ ((l.take k).map (·.len)).sum))
  n.map fun k => l.take (max 1 k)

/-- DELIVERY_START: a queue pair's first waiting message has buffers and a CQ entry; `bad`: its record reads with poison. -/
def execDeliveryStart (t : Fin 8) (q : Fin 8) (bad : Bool) (s : State) : Host.Outcome State Fault Refusal :=
  .next (
    let x := s.tenant t
    match x.waits.find? fun w => w.queued && decide (w.q = q.val) with
    | none => s
    | some w =>
      if bad then (((s.dropNotice t w 0x0E).bump (.tnt t) 6).settleWaits t).dispatch
      else
        let mine := x.bufs.filter fun b => decide (b.q = q.val)
        let held := (x.comps.filter fun c => decide (c.q = q.val)).length
        match if x.deliv.isSome || !s.cqEn t q.val || s.cqRoom t q.val ≤ held || (w.spilled && !s.dramOn) || !s.serving || mine = [] then none
          else takeBufs mine w.data.length with
        | none => s
        | some bs =>
          let d : Delivery := ⟨w, bs, !s.mirrors⟩
          let s1 := s.setTenant t { x with
            waits := x.waits.filter (fun y => decide (y.id ≠ w.id)), bufs := x.bufs.filter (fun b => !bs.contains b), deliv := some d }
          let s2 := if s1.mirrors then s1.awaitMirror (.deliv t.val) ([t.val, q.val] ++ leBytes 3 w.src ++ leBytes 4 w.no) else s1
          s2.settleWaits t)

/-- Write a delivery's bytes into its buffers; none where one lies outside the allocation. -/
def State.writeBufs (s : State) (t : Fin 8) : List Buf → List Nat → Option State
  | [], _ => some s
  | b :: bs, data =>
    let part := data.take b.len
    match if b.qmem then (if s.inAlloc t b.addr b.len then some (s.qmemWrite t b.addr part) else none)
        else some (if part = [] then s else s.emit (.hostWrite (t.val + 1) b.addr part)) with
    | none => none
    | some s1 => s1.writeBufs t bs (data.drop b.len)

/-- DELIVERY_WRITE_DONE: the data of the delivery under way has been written, or its write has failed; it waits while the function may
issue no request (R412). -/
def execDeliveryWriteDone (t : Fin 8) (ok : Bool) (s : State) : Host.Outcome State Fault Refusal :=
  .next (
    match (s.tenant t).deliv with
    | none => s
    | some d =>
      let host := d.bufs.any fun b => !b.qmem
      if !d.mir || s.restarting || (host && !s.dmaOk t) then s
      else
        let w := d.msg
        let s0 := s.setTenant t { s.tenant t with deliv := none }
        match if ok || !host then s0.writeBufs t d.bufs w.data else none with
        | some s1 =>
          let flags := w.prio % 4 + (if w.spilled then 64 else 0)
          let tag := match d.bufs with | b :: _ => b.tag | [] => 0
          let s2 := s1.histTimed 2 (rxSample t w.prio) w.at_ (s1.tenths w.at_)
          let s3 := s2.postComp t w.q (compBytes tag 1 0 flags w.svc w.src d.bufs.length w.no w.data.length) false d.bufs.length
          let s4 := s3.bump (.tnt t) 3
          ((if w.e2e then s4.sendConfirm w.src w.svc w.no 0 else s4).settleWaits t).dispatch
        | none =>
          let s1 := d.bufs.foldl (fun s b => s.returnBuf t b 0x0D) (if host && !ok then s0.dmaFault t w.q false else s0)
          (((s1.dropNotice t w 0x0D).bump (.tnt t) 6).settleWaits t).dispatch)

/-! Allocation (R285). -/

/-- A write of `TNT_QMEM`. -/
def qmemCfgWrite (t : Fin 8) (p : Page) (w : Word) (s : State) : State :=
  let base := F.TNT_QMEM_BASE.get w
  let size := F.TNT_QMEM_SIZE.get w
  let used := (List.range 9).any fun q => (s.sqEn t q && s.sqQmem t q) || (s.cqEn t q && s.cqQmem t q)
  let clash := (List.finRange 8).any fun u =>
    let b := s.fld (.tnt u) F.TNT_QMEM_BASE
    let n := s.fld (.tnt u) F.TNT_QMEM_SIZE
    decide (u ≠ t) && decide (n ≠ 0 ∧ size ≠ 0) && decide (base < b + n ∧ b < base + size)
  if used then s
  else if decide (256 < base + size) || clash then (s.setFlag (.tnt t) F.TNT_MSTAT_QMEM_REFUSED true).event (.tnt t) 5
  else applyWrite p 0x050 w s

/-- QMEM_WRITE: a write of `TNT_QMEM`. -/
def execQmemWrite (q : Req) (t : Fin 8) (s : State) : Host.Outcome State Fault Refusal :=
  .next (writeWord q (.tnt t) 0x050 (qmemCfgWrite t) s)

/-! Tenant locks and resets (R284, R311, Table 10-8). -/

/-- TENANT_FEAT_LOCK: a write of `TNT_FEAT_LOCK`. -/
def execTenantFeatLock (q : Req) (t : Fin 8) (s : State) : Host.Outcome State Fault Refusal :=
  .next (writeWord q (.tpage t) 0x048 (fun p w s => applyWrite p 0x048 w s) s)

/-- A tenant reset begins: rings, completions, buffers and messages are gone, waiting messages discarded and counted, the lock
clear, the tenant page's copy of the faults gone (Table 15-10), and the tenant's slots unloaded; frames not yet encoded are
withdrawn at the next slot boundary. -/
def State.startTenantReset (s : State) (t : Fin 8) : State :=
  let s0 := s.flushDirect t true
  let x := s0.tenant t
  let n := x.waits.length + (if x.deliv.isSome then 1 else 0)
  let x1 : Tenant := { Tenant.reset with
    air := x.air, oq := x.oq, drain := true }
  let s1 := (s0.setTenant t x1).bumpBy (.tnt t) 6 n
  let s2 := (x.waits.map (·.prio) ++ (x.deliv.map (·.msg.prio)).toList).foldl (fun s c => s.histSample 2 (rxSample t c) none) s1
  let s3 : State := { s2 with
    net := { s2.net with fetch := match s2.net.fetch with | some f => (if f.1 = t.val then none else some f) | none => none }
    twn := { s2.twn with await := s2.twn.await.filter fun a => match a.2.2 with
      | .desc k _ _ _ => decide (k ≠ t.val) | .comp k _ => decide (k ≠ t.val) | .deliv k => decide (k ≠ t.val) | _ => true } }
  let zero := fun (s : State) (p : Page) (off : Nat) => s.setReg p off (resetWord p off)
  let s4 := (List.range 9).foldl (fun s q => ([0, 4, 8, 0xC, 0x10, 0x14, 0x18, 0x1C] : List Nat).foldl (fun s o =>
    zero s (ringPage t q) (ringOff q + o)) s) s3
  let s5 := ((([offFault, offFaultInfo].foldl (fun s o => zero s (.tpage t) o) s4).setFlag (.tpage t) F.TNT_FEAT_LOCK_LOCK false).setFlag
    (.tnt t) F.TNT_MSTAT_RESETTING true)
  let mine := s5.cph.slots.filter fun e => decide (e.2.typ ≤ 1) && decide (e.2.owner = t.val)
  let s6 := mine.foldl (fun s e => if s.slotInUse e.1 then s.putSlot e.1 { e.2 with dying := some none }
    else (s.delSlot e.1 false).bump .key 1) s5
  s6.quotas.dispatch.issueFetch

/-- What a tenant reset leaves for the slot boundary: frames already encoded are sent, the others withdrawn. -/
def State.drainTenants (s : State) : State :=
  (List.finRange 8).foldl (fun s t =>
    let x := s.tenant t
    if !x.drain then s
    else
      let s1 := s.setTenant t { x with drain := false }
      { s1 with net := { s1.net with frames := s1.net.frames.filter fun f =>
        !((match f.kind with | .seg m _ => (s1.msg? m).isNone | _ => false) && f.bytes = []) } }) s

/-- TENANT_RESET_DONE: the tenant reset ends. -/
def execTenantResetDone (t : Fin 8) (s : State) : Host.Outcome State Fault Refusal :=
  .next (if s.resetting t then
      (((s.setFlag (.tnt t) F.TNT_MSTAT_RESETTING false).event (.tnt t) 1).event (.tpage t) 1).quotas.issueFetch
    else s)

/-- A write of `TNT_MCTL` or `TNT_RESET`. -/
def mctlWrite (t : Fin 8) (p : Page) (w : Word) (s : State) : State :=
  let s1 := applyWrite p 0x040 w s
  if w.getLsbD 1 then s1.startTenantReset t else s1
def tntResetWrite (p : Page) (w : Word) (s : State) : State :=
  match p.tenant? with
  | some t => if w.getLsbD 0 then s.startTenantReset t else s
  | none => s

/-- TNT_MCTL_RESET and TNT_RESET: the two registers that start a tenant reset. -/
def execTntMctlReset (q : Req) (t : Fin 8) (s : State) : Host.Outcome State Fault Refusal := .next (writeWord q (.tnt t) 0x040 (mctlWrite t) s)
def execTntReset (q : Req) (t : Fin 8) (s : State) : Host.Outcome State Fault Refusal := .next (writeWord q (.tpage t) 0x04C tntResetWrite s)

/-! Views. -/

/-- The registers that show a tenant's use, on the manager's view and as copies on the tenant's page. -/
def State.tntView (s : State) (t : Fin 8) (off : Nat) : Option Word :=
  let x := s.tenant t
  match off with
  | 0x060 => some (BitVec.ofNat 32 ((if s.tenLocked t then 2 ^ 17 else 0) + (if s.resetting t then 65536 else 0) +
      (if s.flag (.tnt t) F.TNT_MSTAT_QMEM_REFUSED then 256 else 0) + s.overQuota t))
  | 0x064 => some (BitVec.ofNat 32 (s.keysUsed t.val % 8192 * 65536 + x.inflight % 8192))
  | 0x068 => some (BitVec.ofNat 32 (s.lanesUsed t.val % 32 * 2 ^ 27 + s.dirUsed t.val % 2 ^ 24))
  | 0x06C => some (BitVec.ofNat 32 (min 65535 (ceilDiv (s.rxHold t) 1024) * 65536 + min 65535 (ceilDiv (s.spillUsed t) 1048576)))
  | 0x070 => some (BitVec.ofNat 32 (s.delqFill t % 4096))
  | 0x208 => if t.val = 0 then some (BitVec.ofNat 32 (min 65535 s.net.dups.length)) else none
  | _ =>
    if 0x100 ≤ off ∧ off < 0x200 then
      let a := x.air.getD ((off - 0x100) / 4) (1000, 0)
      some (F.TNT_AIR_EXHAUSTED.put (if a.1 < 1000 ∧ a.2 ≤ 0 then 1 else 0) (s.reg (.tnt t) off))
    else none

def State.tpageView (s : State) (t : Fin 8) (off : Nat) : Option Word :=
  match off with
  | 0x040 => some (BitVec.ofNat 32 s.tenOffer)
  | 0x050 => (s.tntView t 0x060).map (· &&& 0x000300FC)
  | 0x054 => some (s.reg (.tnt t) 0x048)
  | 0x058 => some (s.reg (.tnt t) 0x04C)
  | 0x05C => some (s.reg (.tnt t) 0x058)
  | 0x060 => s.tntView t 0x064
  | 0x064 => s.tntView t 0x068
  | 0x068 => s.tntView t 0x06C
  | 0x06C => some (s.evtSum t)
  | _ => none

/-- The doorbells read as the accepted tail and the head in force. -/
def State.dbView (s : State) (t : Fin 8) (off : Nat) : Option Word :=
  if 0x040 ≤ off ∧ off < 0x080 then
    let q := (off - 0x040) / 8
    some (BitVec.ofNat 32 (if off % 8 = 0 then (s.tenant t).acc.getD q 0 else s.ring t q F.TNT_CQ_STAT_HEAD))
  else none

/-- What a write to the tenant pages does beyond its fields. -/
def tntEffect (t : Fin 8) (off : Nat) (p : Page) (w : Word) (s : State) : State :=
  match off with
  | 0x040 => mctlWrite t p w s
  | 0x050 => qmemCfgWrite t p w s
  | 0x05C => (applyWrite p off w s).pressure t
  | _ => (applyWrite p off w s).quotas
def tpageEffect (off : Nat) (p : Page) (w : Word) (s : State) : State :=
  if off = 0x04C then tntResetWrite p w s
  else if 0x100 ≤ off ∧ off < 0x200 then
    if off % 0x20 = 0x08 then sqCfgWrite ((off - 0x100) / 0x20) p w s
    else if off % 0x20 = 0x18 then cqCfgWrite ((off - 0x100) / 0x20) p w s else applyWrite p off w s
  else applyWrite p off w s

end Sys2Proof.Machine
end

