-- ==== Sys2Proof/Machine/Lookup.lean ====
section
/-! DEFINITION. The DIR page's commands, fetches of directory entries (R250, R251, R259), merge deltas (R255) and route advertisements
(R246). -/

set_option Elab.async false

namespace Sys2Proof.Machine

/-! Merge deltas (R255). -/

/-- The entries whose LAST_EPOCH is `e`, in index order. -/
def State.deltaEntries (s : State) (e : Nat) : List Nat := s.dirAll.filter fun i => decide (s.dirByte i 18 = e)

/-- Lists of at most `n`. -/
def chunks {A : Type} (n : Nat) (l : List A) : List (List A) :=
  (List.range (ceilDiv l.length n)).map fun k => (l.drop (k * n)).take n

/-- The directory entries of an epoch go to `DIR_MERGE.PEER`, 100 to a message. -/
def State.sendDeltas (s : State) (e : Nat) : State :=
  let p := s.fld .dir F.DIR_MERGE_PEER
  if !isUnicast p then s
  else ((chunks 100 (s.deltaEntries e)).foldl (fun s l =>
    s.sendDev 2 0xF1 2 p (l.flatMap fun i => (List.range 36).map (s.dirByte i))) s).event .dir 2

/-! Commands (R250, R259). -/

/-- The result of a DIR command. -/
def State.dirResult (s : State) (status idx : Nat) : State :=
  (({ s with net := { s.net with dirCmd := none } }.setReg .dir 0x050 (BitVec.ofNat 32 (status * 2 ^ 28 + idx % 2 ^ 23))).setFlag .dir
    F.DIR_CMD_BUSY false).event .dir 1

/-- An insert that fails. -/
def State.dirRefuse (s : State) (status : Nat) : State := (s.bump .dir 4).dirResult status 0

/-- INSERT makes a STATIC entry. -/
def State.dirInsert (s : State) (x owner : Nat) : State :=
  if (s.dirFind x).isSome then s.dirRefuse 2
  else if !isUnicast x || decide (8 ≤ owner ∧ owner ≤ 14) then s.dirRefuse 5
  else if decide (owner < 8) && decide (s.fld (.tnt (Fin.ofNat 8 owner)) F.TNT_QUOTA1_DIRENT ≤ s.dirUsed owner) then s.dirRefuse 4
  else match s.dirPlace x with
    | none => (s.event .dir 3).dirRefuse 3
    | some (i, rep) =>
      let s1 := ((s.dirMake i x owner 0x40).dirCache i).bump .dir 2
      ((if rep then s1.bump .dir 5 else s1).dirResult 0 i).quotas

/-- DELETE erases an entry. -/
def State.dirDelete (s : State) (x : Nat) : State :=
  match s.dirFind x with
  | some i => ((s.dirErase i).dirResult 0 i).quotas
  | none => s.dirResult 1 0

/-- LOOKUP. -/
def State.dirLookup (s : State) (x : Nat) : State :=
  let s1 := s.bump .dir 0
  match s1.dirFind x with
  | some i => (s1.dirCache i).dirResult 0 i
  | none => s1.dirResult 1 0

/-- A command runs: one whose bucket is not on chip waits for DRAM. -/
def State.dirRun (s : State) (op x owner : Nat) : State :=
  if op = 3 then (s.sendDeltas ((s.epoch + 255) % 256)).dirResult 0 0
  else if !s.dirHit x then ({ s with net := { s.net with dirCmd := some (op, x, owner) } }).dirMiss x
  else match op with
    | 0 => s.dirLookup x
    | 1 => s.dirInsert x owner
    | _ => s.dirDelete x

/-- A write of `DIR_CMD`: GO runs OP while the block takes work; a write while a command runs is ignored. -/
def dirCmdWrite (p : Page) (w : Word) (s : State) : State :=
  if s.flag .dir F.DIR_CMD_BUSY then s
  else
    let s1 := applyWrite p 0x048 w s
    if !w.getLsbD 31 || !s1.enabled .dir then s1
    else
      ((s1.setFlag .dir F.DIR_CMD_BUSY true).dirRun (s1.fld .dir F.DIR_CMD_OP) (s1.fld .dir F.DIR_NODE_NODE)
        (s1.fld .dir F.DIR_NODE_OWNER)).dispatch

/-- DIR_LOOKUP, DIR_INSERT, DIR_DELETE and MERGE_NOW: writes of `DIR_CMD`. -/
def execDirLookup (q : Req) (s : State) : Host.Outcome State Fault Refusal := .next (writeWord q .dir 0x048 dirCmdWrite s)
def execDirInsert (q : Req) (s : State) : Host.Outcome State Fault Refusal := .next (writeWord q .dir 0x048 dirCmdWrite s)
def execDirDelete (q : Req) (s : State) : Host.Outcome State Fault Refusal := .next (writeWord q .dir 0x048 dirCmdWrite s)
def execMergeNow (q : Req) (s : State) : Host.Outcome State Fault Refusal := .next (writeWord q .dir 0x048 dirCmdWrite s)

/-- The bucket of a node is on chip: its entries are cached, and the command that waited for it runs. -/
def State.dirFetched (s : State) (x : Nat) : State :=
  let s1 := match s.dirFind x with | some i => s.dirCache i | none => s
  match s1.net.dirCmd with
  | some (op, y, owner) =>
    if y = x then match op with
      | 0 => s1.dirLookup x
      | 1 => s1.dirInsert x owner
      | _ => s1.dirDelete x
    else s1
  | none => s1

/-- A fetch that fails: the fault, and a command that waited for it finds nothing. -/
def State.dirLost (s : State) (x : Nat) : State :=
  let s1 := s.fault .dir 2 x
  match s1.net.dirCmd with
  | some (op, y, _) => if y ≠ x then s1 else if op = 1 then s1.dirRefuse 1 else s1.dirResult 1 0
  | none => s1

/-- What waited for a fetch goes on: where the fetch has found no entry, as for a node that has none (log 81). -/
def State.afterFetch (s : State) (x : Nat) (found : Bool) : State :=
  let t : State := { s with net := { s.net with dirNone := if found then none else some x } }
  let u := t.retryMsgs.retryPaths
  ({ u with net := { u.net with dirNone := none } }).dispatch.originate

/-- DIR_DRAM_FETCH_DONE: the entry of a node has been read from DRAM, or its read has failed ECC (R251, R259). -/
def execDirDramFetchDone (x : Nat) (ok : Bool) (s : State) : Host.Outcome State Fault Refusal :=
  .next (
    if !s.net.dirWait.contains x || !s.dramOn then s
    else
      let good := ok && !s.dramDamaged 0 (512 * s.dirBucket x)
      let s0 : State := { s with net := { s.net with dirWait := s.net.dirWait.filter (· ≠ x) } }
      (if good then s0.dirFetched x else s0.dirLost x).afterFetch x (good && (s.dirFind x).isSome))

/-! Route advertisements (R246). -/

/-- A device message that goes one hop on one channel. -/
def State.sendDevOn (s : State) (c svc prio : Nat) (data : List Nat) : State :=
  if !isUnicast s.ownNode then s
  else
    let n := s.takeNumber svc prio
    let segs := segments (s.segSize 16 false) data
    (segs.zipIdx).foldl (fun s e =>
      let i := s.newId
      let m := { s.devMac 2 svc prio 0xFFFFFF n.1 e.1.1 (decide (e.2 = 0)) (decide (e.2 + 1 = segs.length)) with netid := s.chanNet c }
      i.2.keyFrame { Frame.new i.1 .dev 2 255 m.bytes e.1.2 with copies := [c] }) n.2

/-- A record of an advertisement. -/
def advRec (pre len metric : Nat) : List Nat := leBytes 3 pre ++ [len] ++ leBytes 2 metric ++ [0, 0]

/-- An advertisement on a channel: the node's own record, then entries, those whose primary lies on the channel unreachable. -/
def State.advPayload (s : State) (c : Nat) (l : List Route) : List Nat :=
  leBytes 3 s.ownNode ++ [s.fld .sch F.SCH_CT_STAT_HOP, s.epoch, 0] ++ leBytes 2 (1 + l.length) ++ List.replicate 8 0 ++
    advRec s.ownNode 24 0 ++ l.flatMap fun r => advRec r.pre r.len (if r.chan = c then 0xFFFF else r.metric)

/-- Advertisements go out on every channel in force, continuing in the table where the last ones stopped. -/
def State.advertise (s : State) : State :=
  if !s.rteOn || !s.sync || !isUnicast s.ownNode || !s.serving then s
  else
    let after := s.net.routes.filter fun r => decide (s.net.advFrom ≤ r.idx)
    let all := after ++ s.net.routes.filter fun r => decide (r.idx < s.net.advFrom)
    let next := match all.drop 1023 with | r :: _ => r.idx | [] => 0
    let chans := (List.range 64).filter fun c => (s.live c).isSome
    let s1 : State := { s with net := { s.net with advFrom := next, advDue := s.line.sched.sfN, advSoon := false } }
    (chans.foldl (fun s c => (s.sendDevOn c 0xF0 2 (s.advPayload c (all.take 1023))).bump .rte 2) s1).dispatch

/-- ROUTE_ADV_TIMER: ADV_SF superframes have passed since the last advertisement. -/
def execRouteAdvTimer (s : State) : Host.Outcome State Fault Refusal :=
  .next (
    let n := s.fld .rte F.RTE_CFG_ADV_SF
    if n ≠ 0 ∧ s.net.advDue + n ≤ s.line.sched.sfN then s.advertise else s)

/-- `DIR_USED` shows the valid entries. -/
def State.dirView (s : State) (off : Nat) : Option Word :=
  if off = 0x054 then some (BitVec.ofNat 32 s.dirAll.length) else none

end Sys2Proof.Machine
end

