-- ==== Sys2Proof/Machine/Pcie.lean ====
section
/-! DEFINITION. The PCI Express endpoint (R408 to R415): the link, the functions' resets, and what their settings let them
send. -/

set_option Elab.async false

namespace Sys2Proof.Machine

/-- Replace the link's state. -/
def State.setLinkState (s : State) (l : Link) : State := { s with io := { s.io with link := l } }

/-- The vectors of PF0 that are asserted, as a mask: what a pending bit holds once the MSI-X table has been reset, so that a
pending manager event is sent when MSI-X is enabled again (R414). -/
def State.assertedVecs (s : State) (fn : Nat) : Nat :=
  (List.range 64).foldl (fun a v => if s.vecAsserted fn v then a + 2 ^ v else a) 0

/-- A function's configuration space and MSI-X table return to reset values. -/
def State.fnReset (s : State) (fn : Nat) : State := s.setFn fn { PcieFn.reset with pend := s.assertedVecs fn }

/-- The link goes down, for whatever cause: every function returns to reset values and every tenant reset begins (R414). -/
def State.pcieDown (s : State) : State :=
  let l := s.io.link
  let s1 := s.setLinkState { l with up := false, speed := 0, width := 0 }
  let s2 := if l.up then (s1.event .hif 2).bump .hif 7 else s1
  let s3 := (List.finRange 8).foldl (fun s t => s.startTenantReset t) s2
  (List.range 9).foldl (fun s k => s.fnReset k) s3

/-- PCIE_PERST: PCIE_PERST_N falls, or the link goes down by a hot reset, a disable or any other cause (`pin` false). The
pin's edge is a wake source (R452), acted on whenever PD0 has power (R408). -/
def execPciePerst (pin : Bool) (s : State) : Host.Outcome State Fault Refusal :=
  .next (
    if s.pwr.mode = .off then s
    else
      let s1 := if pin then s.setLinkState { s.io.link with perst := false } else s
      let s2 := if s1.pageOn .hif then s1.pcieDown else s1
      if pin && s.io.link.perst then s2.wake 3 else s2)

/-- PCIE_PERST_RISE: PCIE_PERST_N rises: a wake source, and the link may train from here (R452, Table 15-9). -/
def execPciePerstRise (s : State) : Host.Outcome State Fault Refusal :=
  .next (
    if s.pwr.mode = .off || s.io.link.perst then s
    else (s.setLinkState { s.io.link with perst := true }).wake 3)

/-- PCIE_LINK_UP: the link trains at a speed (1 to 3) on one or two lanes (R409): only with PD3 on, PCIE_PERST_N high and the
reference running (R460). -/
def execPcieLinkUp (speed : Fin 3) (two : Bool) (s : State) : Host.Outcome State Fault Refusal :=
  .next (
    let l := s.io.link
    if s.pageOn .hif && !s.padsHeld && l.perst && s.pwr.clk.pcieRef && !l.up then
      (s.setLinkState { l with up := true, speed := speed.val + 1, width := if two then 2 else 1 }).event .hif 3
    else s)

/-- PCIE_FLR: a Function Level Reset: the function returns to reset values, and that of a tenant starts its reset (R414). -/
def execPcieFlr (fn : Fin 9) (s : State) : Host.Outcome State Fault Refusal :=
  .next (
    if !s.pageOn .hif then s
    else
      let s1 := s.event .hif 1
      let s2 := if h : 0 < fn.val then s1.startTenantReset ⟨fn.val - 1, by omega⟩ else s1
      s2.fnReset fn.val)

/-- Send the messages that a function's settings let it send: its pending vectors that are unmasked. -/
def State.flushMsix (s : State) (fn : Nat) : State :=
  let f := s.fnState fn
  if f.msixEn && f.bme && !f.d3 then
    (List.range 64).foldl (fun s v =>
      let g := s.fnState fn
      if bitOf g.pend v && bitOf g.unmasked v then (s.setFn fn { g with pend := setBitOf g.pend v false }).emit (.msix fn v) else s) s
  else s

/-- BME_CHANGE: configuration software sets a function's Bus Master Enable, power state and MSI-X Enable; what was held as
pending goes out, and the tenant's reads of host memory resume, once they may (R412). -/
def execBmeChange (fn : Fin 9) (bme d3 msixEn : Bool) (s : State) : Host.Outcome State Fault Refusal :=
  .next (
    if !s.pageOn .hif || !s.io.link.up then s
    else
      let s1 := (s.setFn fn.val { s.fnState fn.val with bme := bme, d3 := d3, msixEn := msixEn }).flushMsix fn.val
      let t := Fin.ofNat 8 (fn.val - 1)
      if fn.val ≠ 0 && !s.dmaOk t && s1.dmaOk t then (s1.readAgain t).issueFetch else s1)

/-- MSIX_UNMASK: a vector's mask bit is written; a vector unmasked with its pending bit set sends its message (R69). -/
def execMsixUnmask (fn : Fin 9) (vec : Fin 64) (mask : Bool) (s : State) : Host.Outcome State Fault Refusal :=
  .next (
    if !s.pageOn .hif || !s.io.link.up then s
    else
      let f := s.fnState fn.val
      (s.setFn fn.val { f with unmasked := setBitOf f.unmasked vec.val (!mask) }).flushMsix fn.val)

/-- PCIE_REQUEST_NO_BAR: a request that hits no BAR of its function, or a configuration request to a function above 8,
completes with Unsupported Request (R415). -/
def execPcieRequestNoBar (fn : Nat) (s : State) : Host.Outcome State Fault Refusal :=
  .next (if s.pageOn .hif && s.io.link.up then s.emit (.unsupported fn) else s)

/-- PCIE_REF_LOSS: the PCIe reference stops; it is sensed in PD3 only (R460). -/
def execPcieRefLoss (s : State) : Host.Outcome State Fault Refusal :=
  .next (
    let s1 : State := { s with pwr := { s.pwr with clk := { s.pwr.clk with pcieRef := false } } }
    if s.pageOn .hif && s.pwr.clk.pcieRef then (((s1.bump .clk 0).event .clk 2).fault .clk 2 0).pcieDown else s1)

/-- PCIE_REF_RESTORE: the PCIe reference runs again. -/
def execPcieRefRestore (s : State) : Host.Outcome State Fault Refusal :=
  .next { s with pwr := { s.pwr with clk := { s.pwr.clk with pcieRef := true } } }

/-- The registers of HIF (Table 14-7). -/
def State.hifView (s : State) (off : Nat) : Option Word :=
  let mask := fun (g : PcieFn → Bool) => (List.range 9).foldl (fun a k => if g (s.fnState k) then a + 2 ^ k else a) 0
  match off with
  | 0x040 => let l := s.io.link
    some (BitVec.ofNat 32 (if l.up then 2 ^ 31 + l.speed * 2 ^ 16 + l.width * 2 ^ 8 else 0))
  | 0x044 => some (BitVec.ofNat 32 (mask (·.msixEn) * 2 ^ 16 + mask (·.bme)))
  | 0x048 => some (BitVec.ofNat 32 (mask (·.d3)))
  | _ => none

end Sys2Proof.Machine
end

