-- ==== Sys2Proof/Machine/Power.lean ====
section
/-! DEFINITION. Supplies, domains, shedding, the last gasp, SLUMBER and STANDBY (R446 to R457). -/

set_option Elab.async false

namespace Sys2Proof.Machine

def State.setPwr (s : State) (x : Pwr) : State := { s with pwr := x }
def State.setMode (s : State) (m : PwrMode) : State := s.setPwr { s.pwr with mode := m }

/-! HEALTHY (R363). -/

/-- What holds HEALTHY low, as `HLT_HEALTHY.CAUSE` shows it. -/
def State.healthyCause (s : State) : Nat :=
  let ok := s.running || decide (s.pwr.mode = .slumber) || decide (s.pwr.mode = .waking)
  (if s.flag .hlt F.HLT_CFG_FORCE_LOW then 16 else 0) + (if s.stageShed 4 then 8 else 0) + (if ok then 0 else 4) +
    (if s.flag .hlt F.HLT_HEALTHY_FATAL then 2 else 0) + (if s.devLocked then 0 else 1)

/-- Bring the pin HEALTHY up to date: each change sets HEALTHY_CHANGE, and each fall is counted. -/
def State.healthyPin (s : State) : State :=
  let was := s.flag .hlt F.HLT_HEALTHY_LEVEL
  let now := decide (s.healthyCause = 0)
  if was = now then s
  else
    let s1 := ((s.setFlag .hlt F.HLT_HEALTHY_LEVEL now).setStatus .hlt 16 now).event .hlt 1
    if now then s1 else s1.bump .hlt 3

/-! Stages (R454, R455). -/

/-- Falling and rising thresholds of a stage, in 10 mV; stage 6 stands for the supply reset (Table 15-4). -/
def fallTh (k : Nat) : Nat := match k with | 1 => 850 | 2 => 800 | 3 => 750 | 4 => 700 | 5 => 650 | _ => 600
def riseTh (k : Nat) : Nat := fallTh k + 40

/-- A stage, numbered from 1. -/
def State.stage (s : State) (k : Nat) : Stage := s.pwr.stages.getD (k - 1) ⟨false, false, false⟩
def State.setStage (s : State) (k : Nat) (x : Stage) : State :=
  let s1 := s.setPwr { s.pwr with stages := s.pwr.stages.set (k - 1) x }
  s1.setStatus .pwr 17 (s1.pwr.stages.any (·.shed))

/-- The highest stage in force, 0 for none. -/
def State.shedTop (s : State) : Nat := (List.range 5).foldl (fun a i => if s.stageShed (i + 1) then i + 1 else a) 0

/-! Domains (R449, Table 15-2). -/

/-- Domains that the part lacks: they are held off permanently (Table 00-2, R449). -/
def State.lacksDom (s : State) (d : Nat) : Bool := decide (d = 5 ∨ d = 16 ∨ d = 17) && !s.chip.is7236

/-- The mode of a domain in RUN: what the part lacks and what the stages in force switch off. -/
def State.runDom (s : State) (d : Nat) : DomMode :=
  let off := s.lacksDom d ||
    (s.stageShed 3 && decide (d = 12 ∨ d = 16 ∨ d = 17)) || (s.stageShed 4 && decide (d = 7 ∨ d = 8 ∨ d = 9 ∨ d = 18))
  if off then .off else .on

/-- A block under isolated test that loses its domain abandons the test (R360). -/
def State.endIsoTests (s : State) : State := { s with isoTests := s.isoTests.filter s.pageOn }

def State.setDom (s : State) (d : Nat) (m : DomMode) : State := (s.setPwr { s.pwr with dom := s.pwr.dom.set d m }).endIsoTests

/-- Every domain takes its mode in RUN. -/
def State.allDoms (s : State) : State := s.setPwr { s.pwr with dom := (List.range 20).map s.runDom }

/-- DRAM goes out of service, or comes into it (R461, R470). -/
def State.dramStatus (s : State) (was : Bool) : State :=
  let now := s.dramOn
  let s1 := s.setStatus .pwr 16 now
  if now && !was then s1.event .pwr 1 else s1
def State.setDram (s : State) (x : Dram) : State := (s.setPwr { s.pwr with dram := x }).dramStatus s.dramOn

/-! The last gasp (R402, R457). -/

/-- The payload of Table 15-6. -/
def State.lgPayload (s : State) (cause : Nat) : List Nat :=
  [cause, s.shedTop % 8] ++ leBytes 2 s.pwr.vin ++ leBytes 6 (s.slot % 2 ^ 44) ++ [s.epoch % 256] ++
    [(if s.mains.present then 128 else 0) + (if s.zcLocked then 64 else 0)] ++ leBytes 4 (s.fld .pwr F.PWR_LG_USER_USER)

/-- A trigger of the last gasp: the first of an episode begins it, and builds the frame where there is a destination. The
frame goes first in its class, and is never flooded. -/
def State.lastGasp (s : State) (cause : Nat) : State :=
  if s.mains.lgOpen then s
  else
    let s1 : State := { s with mains := { s.mains with lgOpen := true, lgSent := false } }
    let dst := s.fld .pwr F.PWR_LG_DST
    if dst = 0 || !isUnicast s.ownNode then s1
    else
      let n := s1.takeNumber 0xF4 0
      let i := n.2.newId
      let m := i.2.devMac 3 0xF4 0 dst n.1 0 true true
      i.2.routeFrame { Frame.new i.1 .dev 2 255 m.bytes (s.lgPayload cause) with front := true }

/-- Whether the mains trigger is armed (R402). -/
def State.lgMainsArmed (s : State) : Bool := s.enabled .mns && s.flag .mns F.MNS_CFG_LG_EN

/-- The episode ends once stage 2 is restored and mains is present or not watched (R402). -/
def State.lgEnd (s : State) : State :=
  if s.mains.lgOpen && !s.stageShed 2 && (s.mains.present || !s.lgMainsArmed) then
    ({ s with mains := { s.mains with lgOpen := false, lgSent := false } }).setFlag .mns F.MNS_STAT_LG_SENT false
  else s

/-- Whether a fall into stage 2 sends a last gasp (R457). -/
def State.lgVin (s : State) : Bool := s.feat 22 && s.flag .pwr F.PWR_LG_EN && !s.mains.lgOpen

/-! What a stage's shedding and restoration do in RUN (Table 15-4). -/

/-- The stations' domains go off: all their work is late (R168). -/
def State.stnsOff (s : State) : State := [6, 1, 2, 3, 4, 5].foldl (fun s k => s.abandonJobs k true) s

/-- Every reception in progress ends without its frame. -/
def State.endAllRx (s : State) : State := (List.range 64).foldl (fun s c => if (s.chan c).rx.isSome then s.endRx c else s) s

/-- The action of a stage that is shed in RUN. Stages 1 and 3 on the line act through the drivers' and ports' conditions; the
W-port front ends go off at the next slot boundary. -/
def State.stageAct (s : State) (k : Nat) : State :=
  match k with
  | 2 => if s.lgVin then s.lastGasp 1 else s
  | 3 => ((s.lanesShed true).setDom 12 .off).setDram { s.pwr.dram with selfRefresh := true }
  | 4 =>
    let s1 := ([7, 8, 9, 18].foldl (fun s d => s.setDom d .off) s).driversOff
    ((s1.stnsOff.endAllRx).portsRemove).healthyPin
  | 5 => s.setPwr { s.pwr with journalling := true }
  | _ => s

/-- The action of a stage that is restored in RUN. DRAM is trained anew. -/
def State.stageBack (s : State) (k : Nat) : State :=
  match k with
  | 2 => s.lgEnd
  | 3 =>
    let s1 := [12, 16, 17].foldl (fun s d => s.setDom d (s.runDom d)) s
    (s1.lanesShed false).setDram { s1.pwr.dram with selfRefresh := false, trained := false }
  | 4 => ([7, 8, 9, 18].foldl (fun s d => s.setDom d (s.runDom d)) s).healthyPin
  | _ => s

/-! What a loss of power leaves (Table 15-10). -/

/-- Whether a register survives a reset of every domain but PD0: the PWR, CLK, RST, THM and UART0 pages, and the HLT faults and
their information. -/
def aoKey (k : Nat) : Bool := decide (0x1000 ≤ k ∧ k < 0x5000) || decide (0x0D0000 ≤ k ∧ k < 0x0D1000)

/-- Everything outside PD0, MRAM and the pins returns to reset values: device, supply and AO power-on reset, STANDBY and OFF.
HLT keeps its faults [6:2], and its information while any of them is set (R381). -/
def State.lose (s : State) : State :=
  let hf := s.reg .hlt offFault &&& 0x7C
  let hi := s.reg .hlt offFaultInfo
  let s1 : State := { s with
    regs := storeKeep aoKey s.regs
    latches := List.replicate 11 ⟨none, 0, 0⟩, violArmed := true, softReset := [], isoTests := [], fns := List.replicate 9 PcieFn.reset
    mem := Mem.empty, gather := Gather.empty, ct := 0, chains := List.replicate 8 Chain.reset, mains := Mains.reset
    io := { HostIo.reset with uarts := [s.io.uarts.getD 0 Uart.reset, Uart.reset], link := ⟨false, 0, 0, s.io.link.perst⟩ }
    line := Line.reset, net := Net.reset, cph := Cipher.reset, slp := Sleep.reset, twn := { Twin.reset with peerOk := s.twn.peerOk }
    nvm := { s.nvm with
      dramWkt := [], saving := none, applying := [], upd := Upd.idle }
    pwr := { s.pwr with
      dom := onlyPd0, journalling := false, slumberDue := false, missed := 0, dram := ⟨false, false, false, 0⟩
      clk := { s.pwr.clk with sysLock := false, cnvLock := false, drmLock := false, twnLock := false } } }
  let s2 := s1.setReg .hlt offFault hf
  let s3 := if hf = 0 then s2 else s2.setReg .hlt offFaultInfo hi
  ([(F.RST_STAT_BOOT_DONE), F.RST_STAT_BOOT_RECORD_APPLIED, F.RST_STAT_BOOT_RECORD_FAIL].foldl (fun s f => s.setFlag .rst f false) s3).setStatus
    .pwr 16 false

/-- STANDBY: PD0 alone has power (R453). -/
def State.toStandby (s : State) (asked : Bool) : State :=
  let s1 := s.lose
  s1.setPwr { s1.pwr with mode := .standby, standbyBy := asked, wakeHeld := 0, bootDue := false }

/-! Shedding as the supervisor sees it. -/

/-- One stage is shed (R454 to R456): counted, and acted on in RUN; in SLUMBER it is recorded, and wakes the device where it
needs the processors; in a boot or a held reset, stage 5 leaves STANDBY. -/
def State.shed (s : State) (k : Nat) : State :=
  let s1 := ((s.setStage k ⟨true, false, false⟩).bump .pwr (k - 1)).event .pwr 7
  match s.pwr.mode with
  | .run | .idle => s1.endIdle.stageAct k
  | .slumber =>
    let s2 := s1.setPwr { s1.pwr with missed := setBitOf s1.pwr.missed (k - 1) true }
    if decide (k = 5) || (decide (k = 2) && s1.lgVin) then s2.wake 7 else s2
  | .waking => s1.setPwr { s1.pwr with missed := setBitOf s1.pwr.missed (k - 1) true }
  | .booting | .reset => if k = 5 then s1.toStandby false else s1
  | .standby | .off => s1

/-- SHED_STAGE: VIN, in 10 mV, has fallen below a stage's threshold. Every lower stage that still stands is shed first. -/
def execShedStage (i : Fin 5) (vin : Nat) (s : State) : Host.Outcome State Fault Refusal :=
  .next (
    let k := i.val + 1
    if s.pwr.mode = .off || decide (fallTh k ≤ vin) || s.pwr.journalling then s
    else
      let s1 := s.setPwr { s.pwr with vin := vin }
      ((List.range 5).foldl (fun s j => if decide (j < k) && !s.stageShed (j + 1) then s.shed (j + 1) else s) s1).healthyPin)

/-- Whether a restoration that is due can take effect: in STANDBY only stage 5's; in SLUMBER, a wake, a boot or a reset it
waits (R455, R456). -/
def State.mayRestore (s : State) (k : Nat) : Bool :=
  match s.pwr.mode with | .run | .idle => true | .standby => decide (k = 5) | _ => false

/-- One stage is restored if its timer has run and every higher stage has been. -/
def State.restoreStage (s : State) (k : Nat) : State :=
  if (s.stage k).shed && (s.stage k).due && s.mayRestore k && ((List.range 5).all fun j => decide (j < k) || !s.stageShed (j + 1)) then
    let s1 := (s.setStage k ⟨false, false, false⟩).event .pwr 6
    if s1.pwr.mode = .standby then s1.setPwr { s1.pwr with bootDue := true } else s1.endIdle.stageBack k
  else s

/-- Restorations that are due, from stage 5 down. -/
def State.restoreDue (s : State) : State := [5, 4, 3, 2, 1].foldl (fun s k => s.restoreStage k) s

/-- RESTORE_TIMER_EXPIRE: a stage's timer has run for 50 ms. -/
def execRestoreTimerExpire (i : Fin 5) (s : State) : Host.Outcome State Fault Refusal :=
  .next (
    let k := i.val + 1
    if (s.stage k).shed && (s.stage k).timing then (s.setStage k ⟨true, false, true⟩).restoreDue else s)

/-- VIN_RISING_THRESHOLD: VIN, in 10 mV, crosses a stage's rising threshold: above it the timer starts, below it the timer is
cleared. Number 5 stands for the supply-reset comparator (R448, R455). -/
def execVinRisingThreshold (i : Fin 6) (vin : Nat) (s : State) : Host.Outcome State Fault Refusal :=
  .next (
    let k := i.val + 1
    let s1 := s.setPwr { s.pwr with vin := vin }
    if s.pwr.mode = .off then s
    else if k = 6 then (if riseTh 6 ≤ vin then s1.setPwr { s1.pwr with supply := false } else s1)
    else if (s.stage k).shed then
      (if riseTh k ≤ vin then (if (s.stage k).timing || (s.stage k).due then s1 else s1.setStage k ⟨true, true, false⟩)
       else s1.setStage k ⟨true, false, false⟩)
    else s1)

/-- STAGE5_JOURNAL_DONE: the stage 5 journal is complete, and the device enters STANDBY. -/
def execStage5JournalDone (s : State) : Host.Outcome State Fault Refusal :=
  .next (
    if s.pwr.journalling then
      let s1 := s.setPwr { s.pwr with journal := some ⟨s.slot % 2 ^ 44, s.epoch, s.pwr.rtc⟩ }
      s1.toStandby true
    else s)

/-! States (R450 to R453). -/

/-- IDLE_ENTER: every block has been quiescent, without scheduled work, for 100 µs. -/
def execIdleEnter (s : State) : Host.Outcome State Fault Refusal :=
  .next (if s.pwr.mode = .run && !s.pwr.journalling && !s.pwr.slumberDue then s.setMode .idle else s)

/-- A SLUMBER request (R451): refused, or carried out when the slot in progress has ended. -/
def State.slumberReq (s : State) (cmd : Bool) : State :=
  let alarm := cmd && s.flag .pwr F.PWR_WAKE_EN_ALARM && decide (s.pwr.alarm ≠ 0 ∧ s.pwr.alarm ≤ s.pwr.rtc)
  let stage := s.pwr.journalling || s.pwr.stages.any fun x => x.timing || x.due
  if !s.running then s
  else if s.flag .twn F.TWN_CFG_EN || !s.pwr.clk.xtal32 || alarm || stage then s.event .pwr 2
  else s.setPwr { s.pwr with slumberDue := true }

/-- The mode of a domain in SLUMBER, from `PWR_SLUMBER_SET0` and `PWR_SLUMBER_SET1`. -/
def State.slumberDom (s : State) (d : Nat) : DomMode :=
  if s.lacksDom d then .off
  else match (s.reg .pwr (if d < 16 then 0x050 else 0x054)).toNat / 4 ^ (d % 16) % 4 with
  | 2 => .on
  | 1 => .retain
  | _ => .off

/-- Tone maps, impedance tables and templates are lost with SBUF and the tone-map store. -/
def State.loseSbuf (s : State) : State :=
  { s with
    mem := { s.mem with sbuf := [], tmap := [] }
    line := { s.line with
      links := s.line.links.map fun l => { l with rx := Dir.empty, tx := Dir.empty }
      chans := s.line.chans.map fun c => { c with tpl := c.tpl.map fun t => { t with q0 := 0, q1 := 0, gain := none, susp := false, ref := none } } } }

/-- The seen cache, the routing table and the on-chip directory are lost with PD2. -/
def State.losePd2 (s : State) : State :=
  { s with
    net := { s.net with floods := [], routes := [], cached := [] }
    mem := if s.dirDram then s.mem else { s.mem with dir := [], dirBad := [] } }

/-- DRAM's contents are lost: the directory, where it lies there, the per-node records and the spilled messages. -/
def State.loseDram (s : State) : State :=
  { s with
    mem := if s.dirDram then { s.mem with dir := [], dirBad := [] } else s.mem
    nvm := { s.nvm with dramWkt := [] }
    net := { s.net with cached := [], tenants := s.net.tenants.map fun t => { t with waits := t.waits.filter fun w => !w.spilled } } }

/-- Frames placed for a slot that will not be sent go back to be placed again. -/
def State.unplace (s : State) : State :=
  let s1 := s.mapFrames fun f => match f.st with | .placed _ => if f.flooded then f else { f with st := .ready } | _ => f
  (List.range 64).foldl (fun s c => s.setChan c { s.chan c with rx := none, tx := none, prep := none, later := none, frozen := false }) s1

/-- SLUMBER is entered (R451): the domains take their modes, and what an OFF domain holds is lost (Table 15-10). -/
def State.enterSlumber (s : State) : State :=
  let dom := (List.range 20).map s.slumberDom
  let lost := fun (d : Nat) => decide (dom.getD d .off = .off)
  let s1 := (s.unplace.stnsOff.setJobs []).bump .pwr 7
  let s2 := if dom.getD 3 .off = .on then s1 else
    let t := s1.pcieDown
    { t with mem := { t.mem with qmem := [], qmemBad := [] } }
  let s3 := if lost 10 then s2.loseSbuf else s2
  let s4 := if lost 2 then s3.losePd2 else s3
  let s5 := if lost 5 then s4.loseDram else s4
  let s6 := ((List.finRange 8).foldl (fun s m => s.monSilent m) s5).driversOff
  ((s6.setPwr { s6.pwr with
    mode := .slumber, slumberDue := false, dom := dom
    dram := { s6.pwr.dram with selfRefresh := s6.pwr.dram.selfRefresh || decide (dom.getD 5 .off = .retain) } }).setStatus .pwr 16 false).endIsoTests.portsRemove

/-- Corridor time and the boundaries passed while the device slept: `slots` slots to the start of the one in progress, and
2^-20 slot within it. -/
def State.slept (s : State) (slots frac : Nat) : State :=
  let ct := (s.slot + slots) * 2 ^ 20 + frac % 2 ^ 20
  { s with
    ct := ct % 2 ^ 64
    line := { s.line with sched := { s.line.sched with
      slotN := s.line.sched.slotN + slots, sfN := s.line.sched.sfN + (sfOf ct - sfOf s.ct) } } }

/-- XTAL32 or LPRC edges have been counted. -/
def State.rtcAdd (s : State) (n : Nat) : State := s.setPwr { s.pwr with rtc := (s.pwr.rtc + n) % 2 ^ 48 }

/-- A wake from SLUMBER is complete (Table 09-4): RUN, with what was shed and restored meanwhile carried out in order. -/
def State.wakeDone (s : State) : State :=
  let missed := s.pwr.missed
  let s1 := s.setPwr { s.pwr with
    mode := .run, missed := 0, dram := { s.pwr.dram with selfRefresh := s.stageShed 3 }
    clk := { s.pwr.clk with sysLock := true, cnvLock := true } }
  let pd19 := s.dom 19
  let s2 := (s1.allDoms).event .pwr 4
  let s3 := if pd19 = .on then s2 else s2.pinsOn
  let s4 := (List.range 5).foldl (fun s i => if bitOf missed i then s.stageAct (i + 1) else s) (s3.dramStatus false)
  s4.restoreDue.healthyPin.startPending

/-- A write of `PWR_CMD`: OP 0 SLUMBER, 1 STANDBY, 2 WAKE. -/
def pwrCmdWrite (p : Page) (w : Word) (s : State) : State :=
  let s1 := applyWrite p 0x058 w s
  if !F.PWR_CMD_GO.get w = 1 then s1
  else match F.PWR_CMD_OP.get w with
    | 0 => s1.slumberReq true
    | 1 => if s1.running && !s1.pwr.journalling then s1.toStandby true else s1
    | _ => if s1.dom 3 = .on then s1.wake 6 else s1

/-- SLUMBER, STANDBY and WAKE: writes of `PWR_CMD`. -/
def execPwrSlumber (q : Req) (s : State) : Host.Outcome State Fault Refusal := .next (writeWord q .pwr 0x058 pwrCmdWrite s)
def execPwrStandby (q : Req) (s : State) : Host.Outcome State Fault Refusal := .next (writeWord q .pwr 0x058 pwrCmdWrite s)
def execPwrWake (q : Req) (s : State) : Host.Outcome State Fault Refusal := .next (writeWord q .pwr 0x058 pwrCmdWrite s)

/-- A write of `PWR_ALARM_HI`: the alarm takes effect (Table 15-11). -/
def pwrAlarmWrite (p : Page) (w : Word) (s : State) : State :=
  let s1 := applyWrite p 0x068 w s
  s1.setPwr { s1.pwr with alarm := (s1.reg .pwr 0x064).toNat + F.PWR_ALARM_HI_ALARM.get (s1.reg .pwr 0x068) * 2 ^ 32 }

/-- ALARM_MATCH: the RTC reaches the alarm. -/
def execAlarmMatch (s : State) : Host.Outcome State Fault Refusal :=
  .next (
    if s.pwr.mode = .off || s.pwr.alarm = 0 then s
    else (s.setPwr { s.pwr with rtc := max s.pwr.rtc s.pwr.alarm }).wake 1)

/-- VBAT_LOW: VBAT_AO, in mV, falls below 2.0 V with VIN present (R447). -/
def execVbatLow (vbat : Nat) (s : State) : Host.Outcome State Fault Refusal :=
  .next (
    if s.pwr.mode = .off || s.pwr.supply || decide (2000 ≤ vbat) then s
    else (s.setPwr { s.pwr with vbat := vbat }).event .pwr 3)

/-- DRAM_TRAIN_DONE: a training ends, with the capacity found (R461, R62). It runs where F8 or F18 is accepted or
`PWR_DRAM.EN` is 1, with the memory out of self-refresh and its PLL locked. -/
def execDramTrainDone (ok : Bool) (mib : Nat) (s : State) : Host.Outcome State Fault Refusal :=
  .next (
    let d := s.pwr.dram
    let asked := s.devLocked && (s.feat 8 || s.feat 18 || s.flag .pwr F.PWR_DRAM_EN)
    if !asked || !s.running || s.dom 5 != .on || s.stageShed 3 || d.trained || !s.pwr.clk.drmLock then s
    else if ok && decide (s.chip.dramMib ≠ 0) then
      s.setDram { d with trained := true, trainFail := false, sizeMib := mib % 2 ^ 13 }
    else
      let s1 := (s.setDram { d with trainFail := true }).fault .pwr 4 0
      if s.feat 8 then s1.fault .dir 2 0 else s1)

/-- The registers of PWR that show the controller. -/
def State.pwrView (s : State) (off : Nat) : Option Word :=
  let b := fun (x : Bool) (i : Nat) => if x then 2 ^ i else 0
  let mask := fun (g : Stage → Bool) => (List.range 5).foldl (fun a i => if g (s.stage (i + 1)) then a + 2 ^ i else a) 0
  let up := decide (s.pwr.mode ≠ .standby) && decide (s.pwr.mode ≠ .off)
  let rails := if up then 7 * 2 ^ 29 else 0
  match off with
  | 0x050 => some (if s.chip.is7236 then s.reg .pwr off else s.reg .pwr off &&& ~~~ onesAt 10 2)
  | 0x054 => some (if s.chip.is7236 then s.reg .pwr off else s.reg .pwr off &&& ~~~ onesAt 0 4)
  | 0x040 => some (BitVec.ofNat 32 ((if s.pwr.mode = .slumber ∨ s.pwr.mode = .waking then 2 ^ 30 else 0) + min s.shedTop 4 * 2 ^ 24))
  | 0x044 => some (BitVec.ofNat 32 (min s.pwr.vin 65535 * 2 ^ 16 + min s.pwr.vbat 65535))
  | 0x048 => some (BitVec.ofNat 32 (rails + b (s.flag (.np 0) F.NP_VDRV_STAT_IN_REG) 28 + b (decide (s.pwr.vin < 640)) 27))
  | 0x04C => some (BitVec.ofNat 32 (mask (·.timing) * 2 ^ 16 + mask (·.shed)))
  | 0x058 => some (F.PWR_CMD_BUSY.put (if s.pwr.slumberDue ∨ s.pwr.mode = .waking then 1 else 0) (s.reg .pwr off))
  | 0x078 => some (((F.PWR_DRAM_IN_SERVICE.put (if s.dramOn then 1 else 0) (s.reg .pwr off)) |||
      BitVec.ofNat 32 (b s.pwr.dram.selfRefresh 30 + b s.pwr.dram.trainFail 29 + s.pwr.dram.sizeMib)))
  | _ => none

/-- What writes of the PWR page do. -/
def pwrEffect (off : Nat) : Page → Word → State → State :=
  match off with
  | 0x058 => pwrCmdWrite
  | 0x068 => pwrAlarmWrite
  | _ => fun p w s => applyWrite p off w s

end Sys2Proof.Machine
end

