-- ==== Sys2Proof/Machine/Reset.lean ====
section
/-! DEFINITION. Resets, fatal faults, clocks and temperature (R361, R446 to R448, R458 to R473). -/

set_option Elab.async false

namespace Sys2Proof.Machine

/-! Resets (R463, R466). -/

/-- A cause of the last start is recorded: a bit of `RST_CAUSE`. -/
def State.cause (s : State) (bit : Nat) : State := s.setRegBit .rst 0x044 bit true

/-- A device reset begins, with its cause (Table 15-8). -/
def State.devReset (s : State) (bit : Nat) : State :=
  let s1 := s.lose.cause bit
  s1.setPwr { s1.pwr with mode := .reset, standbyBy := false, wakeHeld := 0, bootDue := false }

/-- Whether the device is in a state that a fatal fault or a device reset can end. -/
def State.awake (s : State) : Bool :=
  s.running || decide (s.pwr.mode = .slumber) || decide (s.pwr.mode = .waking) || decide (s.pwr.mode = .booting)

/-- A fatal fault (Table 12-3): HEALTHY falls, and a device reset begins. -/
def State.fatalEnd (s : State) (bit : Nat) : State := ((s.setFlag .hlt F.HLT_HEALTHY_FATAL true).healthyPin).devReset bit

/-- A watchdog or fatal reset is recorded for a trial (R492). -/
def State.trialFatal (s : State) : State := { s with nvm := { s.nvm with act := { s.nvm.act with fatal := s.nvm.act.fatal || s.nvm.act.trial } } }

/-- The blocks without online test (Table 12-2). -/
def noOnlineTest : Page → Bool
  | .sch | .ch _ | .fig | .dwl | .cmd | .rly | .seen | .rte | .dir | .tnt _ | .dev | .hif | .shp | .pwr => true
  | _ => false

/-- FATAL_FAULT: a lockstep mismatch, a double error in processor SRAM, or an INTERNAL fault of a block without online test. -/
def execFatalFault (f : Fatal) (s : State) : Host.Outcome State Fault Refusal :=
  .next (
    if !s.awake then s
    else match f with
      | .lockstep | .sram => (((s.fault .hlt 2 0).bump .rst 4).trialFatal).fatalEnd 6
      | .internal p =>
        if !noOnlineTest p then s
        else ((((s.fault p 1 0).fault .hlt 6 ((eventGroup p).getD 0)).bump .rst 4).trialFatal).fatalEnd 6)

/-- WATCHDOG_EXPIRE: the firmware watchdog expires. -/
def execWatchdogExpire (s : State) : Host.Outcome State Fault Refusal :=
  .next (if !s.awake then s else (((s.fault .hlt 3 0).bump .rst 3).trialFatal).fatalEnd 5)

/-- RAIL_FAULT: a rail other than VDRV has been out of its window for more than 10 µs (R446): 0 VCORE, 1 VIO18, 2 VIO33. -/
def execRailFault (rail : Fin 3) (s : State) : Host.Outcome State Fault Refusal :=
  .next (if !s.awake then s else (((s.fault .pwr 3 rail.val).bump .rst 4).trialFatal).fatalEnd 6)

/-- A write of `RST_CMD`: GO with KEY 0xA5 starts a device reset; with any other KEY it is ignored (R472). -/
def rstCmdWrite (p : Page) (w : Word) (s : State) : State :=
  let s1 := applyWrite p 0x040 w s
  if F.RST_CMD_GO.get w = 1 ∧ F.RST_CMD_KEY.get w = 0xA5 then (s1.bump .rst 2).devReset 4 else s1

/-- DEVICE_RESET: a write of `RST_CMD`. -/
def execDeviceReset (q : Req) (s : State) : Host.Outcome State Fault Refusal := .next (writeWord q .rst 0x040 rstCmdWrite s)

/-- What a pin reset keeps of the register file: `RST_CAUSE`, the RST counters, and the HLT faults with their information. -/
def pinKey (k : Nat) : Bool :=
  decide (k = regKey .rst 0x044) || decide (regKey .rst 0x080 ≤ k ∧ k < regKey .rst 0x0C0) ||
    decide (k = regKey .hlt offFault ∨ k = regKey .hlt offFaultInfo)

/-- PIN_RESET: RESET_N is low for at least 1 µs. Without power for the rails the device stays in STANDBY. -/
def execPinReset (s : State) : Host.Outcome State Fault Refusal :=
  .next (
    if s.pwr.mode = .off then s
    else
      let s1 := ((s.bump .rst 1).cause 3).lose
      let s2 : State := { s1 with
        regs := storeKeep pinKey s1.regs
        io := { s1.io with uarts := [Uart.reset, Uart.reset] }
        pwr := { s1.pwr with alarm := 0, standbyBy := false, wakeHeld := 0, bootDue := false
                             mode := if s.pwr.mode = .standby ∧ s.stageShed 5 then .standby else .reset } }
      (s2.setStatus .pwr 17 (s2.pwr.stages.any (·.shed))).setStatus .thm 16 s2.pwr.thm.warn)

/-- SUPPLY_RESET: VIN, in 10 mV, falls below 6.0 V, with VBAT_AO in mV (R448, R455): every comparator starts again in its shed
state; STANDBY follows while VBAT_AO holds PD0 up, and OFF otherwise. -/
def execSupplyReset (vin vbat : Nat) (s : State) : Host.Outcome State Fault Refusal :=
  .next (
    if s.pwr.mode = .off || s.pwr.supply || decide (600 ≤ vin) then s
    else
      let by_ := decide (s.pwr.mode = .standby) && s.pwr.standbyBy
      let held := if s.pwr.mode = .standby then s.pwr.wakeHeld else 0
      let s1 := ((s.bump .rst 0).cause 2).lose
      let s2 := s1.setPwr { s1.pwr with
        vin := vin, vbat := vbat, supply := true, stages := List.replicate 5 ⟨true, false, false⟩, standbyBy := by_
        wakeHeld := held, bootDue := false, thm := { s1.pwr.thm with hold := false }, mode := .standby }
      let s3 := s2.setStatus .pwr 17 true
      if 1600 ≤ vbat then s3 else s3.setMode .off)

/-- PD0_SUPPLY_LOSS: VIN and VBAT_AO are both absent in STANDBY, and the device goes OFF. -/
def execPd0SupplyLoss (s : State) : Host.Outcome State Fault Refusal :=
  .next (if s.pwr.mode = .standby then s.setPwr { s.pwr with mode := .off, vin := 0, vbat := 0 } else s)

/-- AO_POR: the PD0 supply rises, with VIN in 10 mV and VBAT_AO in mV: everything outside MRAM returns to reset values and the
device is in STANDBY (R447, R463). -/
def execAoPor (vin vbat : Nat) (s : State) : Host.Outcome State Fault Refusal :=
  .next (
    if s.pwr.mode ≠ .off then s
    else
      let t : State := { State.reset with
        pending := s.pending, out := s.out, fresh := s.fresh, chip := s.chip
        nvm := { s.nvm with dramWkt := [], saving := none, applying := [], upd := Upd.idle }
        io := { HostIo.reset with link := ⟨false, 0, 0, s.io.link.perst⟩ }, twn := { Twin.reset with peerOk := s.twn.peerOk } }
      (t.setPwr { t.pwr with vin := vin, vbat := vbat, journal := s.pwr.journal, clk := { s.pwr.clk with
        sysLock := false, cnvLock := false, drmLock := false, twnLock := false } }).setStatus .pwr 17 true)

/-! Clocks (R458 to R460). -/

def State.setClk (s : State) (c : Clocks) : State := s.setPwr { s.pwr with clk := c }

/-- A PLL has lost its lock: counted and signalled. -/
def State.lockLost (s : State) : State := ((s.bump .clk 0).event .clk 2).fault .clk 2 0

/-- XTAL32_FAIL: no edge of XTAL32 for 200 µs: the RTC goes on from the LPRC, and a sleeper in SLUMBER wakes. -/
def execXtal32Fail (s : State) : Host.Outcome State Fault Refusal :=
  .next (
    if s.pwr.mode = .off || !s.pwr.clk.xtal32 then s
    else
      let s1 := (((s.setClk { s.pwr.clk with xtal32 := false }).fault .clk 3 0).event .clk 4).bump .clk 1
      if s.pwr.mode = .slumber ∧ s.flag .slp F.SLP_CFG_SLEEP_EN = true then s1.setMode .waking else s1)

/-- XTAL32_RESTORE: 1 s of good edges. -/
def execXtal32Restore (s : State) : Host.Outcome State Fault Refusal :=
  .next (if s.pwr.mode = .off || s.pwr.clk.xtal32 then s else (s.setClk { s.pwr.clk with xtal32 := true }).event .clk 3)

/-- REFCLK_LOSS: REFCLK stops, or SYSPLL has been out of lock for more than 10 µs (`pll`): a device reset follows, held until
REFCLK runs. -/
def execRefclkLoss (pll : Bool) (s : State) : Host.Outcome State Fault Refusal :=
  .next (
    if !(s.running || decide (s.pwr.mode = .waking) || decide (s.pwr.mode = .booting)) then s
    else
      let s1 := if pll then s.lockLost else (s.setClk { s.pwr.clk with refclk := false }).event .clk 1
      s1.devReset 8)

/-- CNVPLL_UNLOCK: every driver goes to high impedance, and the ports and the VS sampling stop. -/
def execCnvpllUnlock (s : State) : Host.Outcome State Fault Refusal :=
  .next (
    if !s.running || !s.pwr.clk.cnvLock then s
    else
      let s1 := (s.setClk { s.pwr.clk with cnvLock := false }).lockLost
      (((List.finRange 8).foldl (fun s m => s.monSilent m) s1).endAllRx).portsRemove)

/-- CNVPLL_RELOCK: ports and sampling may resume. -/
def execCnvpllRelock (s : State) : Host.Outcome State Fault Refusal :=
  .next (if s.running then s.setClk { s.pwr.clk with cnvLock := true } else s)

/-- DRAMPLL_UNLOCK: DRAM is out of service until the PLL relocks and the memory is trained again. -/
def execDrampllUnlock (s : State) : Host.Outcome State Fault Refusal :=
  .next (
    if !s.pwr.clk.drmLock then s
    else
      let s1 := (s.setClk { s.pwr.clk with drmLock := false }).lockLost
      s1.setDram { s1.pwr.dram with trained := false })

/-- DRAMPLL_RELOCK: the PLL locks while its domain is on. -/
def execDrampllRelock (s : State) : Host.Outcome State Fault Refusal :=
  .next (if s.running && s.dom 5 == .on then s.setClk { s.pwr.clk with drmLock := true } else s)

/-- The registers of CLK that show the clocks. -/
def State.clkView (s : State) (off : Nat) : Option Word :=
  let c := s.pwr.clk
  let b := fun (x : Bool) (i : Nat) => if x then 2 ^ i else 0
  let on_ := s.running
  match off with
  | 0x040 => some (BitVec.ofNat 32 (b c.xtal32 31 + b (on_ && c.refclk) 30 + b (s.pageOn .hif && c.pcieRef) 29 +
      b (on_ && c.sysLock) 28 + b (on_ && c.cnvLock) 27 + b (on_ && c.drmLock) 26 +
      b (on_ && c.twnLock) 25 + b (!c.xtal32) 24))
  | 0x044 => some (BitVec.ofNat 32 s.pwr.rtc)
  | 0x048 => some (BitVec.ofNat 32 (s.pwr.rtc / 2 ^ 32))
  | _ => none

/-! Temperature (R467, R468), in 0.125 °C. -/

/-- Insertion into a rising list, and sorting by it. -/
def insertInt (x : Int) : List Int → List Int
  | [] => [x]
  | y :: ys => if x ≤ y then x :: y :: ys else y :: insertInt x ys
def sortInts (l : List Int) : List Int := l.foldr insertInt []

/-- The median of the seven sensors beside one. -/
def medianOther (l : List Int) (i : Nat) : Int := (sortInts (l.eraseIdx i)).getD 3 0

/-- The sensors that disagree with the median of the others by more than 15 °C, as a mask. -/
def excludedSensors (l : List Int) : Nat :=
  (List.range 8).foldl (fun a i => if 120 < (l.getD i 0 - medianOther l i).natAbs then a + 2 ^ i else a) 0

/-- The sensor that gives MAX, among those not excluded. -/
def hottest (l : List Int) (ex : Nat) : Option Nat :=
  (List.range 8).foldl (fun b i => if bitOf ex i then b else match b with
    | none => some i
    | some j => if l.getD j 0 < l.getD i 0 then some i else b) none

def State.setThm (s : State) (x : Thermal) : State := s.setPwr { s.pwr with thm := x }

/-- THERMAL_SAMPLE: the eight sensors report, with the highest driver hotspot reading. Where every sensor is excluded, the
spec gives MAX no value: it is free. -/
def execThermalSample (l : List Int) (drv : Int) (s : State) : Host.Outcome State Fault Refusal :=
  .next (
    if decide (s.pwr.mode = .standby) || decide (s.pwr.mode = .off) then s
    else
      let ex := excludedSensors l
      let old := s.pwr.thm
      let pick : (Nat × Int) × State := match hottest l ex with
        | some h => ((h, l.getD h 0), s)
        | none => let f := s.freeNat; ((f.1 % 8, signed 16 f.1), f.2)
      let mx := pick.1.2
      let fresh := (List.range 8).filter fun i => bitOf ex i && !bitOf old.excluded i
      let s1 := fresh.foldl (fun s i => (s.fault .thm 2 i).bump .thm 1) pick.2
      let s2 := s1.setThm { old with
        sensors := l, excluded := ex, max := mx, hot := pick.1.1, drvMax := drv, warn := old.warn || decide (1120 ≤ mx)
        clearing := (old.warn || decide (1120 ≤ mx)) && decide (mx < 1080) }
      let s3 := if signed 16 (s2.fld .thm F.THM_TEMP_PEAK) < mx then s2.setFld .thm F.THM_TEMP_PEAK (satSigned 16 mx) else s2
      if !old.warn && decide (1120 ≤ mx) then ((s3.setStatus .thm 16 true).event .thm 3).bump .thm 0 else s3)

/-- THERMAL_WARN_CLEAR: MAX has been below 135 °C for 100 ms. -/
def execThermalWarnClear (s : State) : Host.Outcome State Fault Refusal :=
  .next (
    let t := s.pwr.thm
    if t.warn && t.clearing then ((s.setThm { t with warn := false, clearing := false }).setStatus .thm 16 false).event .thm 2 else s)

/-- THERMAL_SHUTDOWN: MAX reaches 150 °C: a device reset, held until the temperature has fallen. -/
def execThermalShutdown (s : State) : Host.Outcome State Fault Refusal :=
  .next (
    let t := s.pwr.thm
    if decide (t.max < 1200) || t.hold || decide (s.pwr.mode = .standby) || decide (s.pwr.mode = .off) then s
    else
      let s1 := ((s.fault .hlt 4 0).bump .rst 5).fatalEnd 7
      s1.setThm { s1.pwr.thm with hold := true })

/-- THERMAL_RELEASE: MAX has been below 130 °C for 1 s. -/
def execThermalRelease (s : State) : Host.Outcome State Fault Refusal :=
  .next (
    let t := s.pwr.thm
    if t.hold && decide (t.max < 1040) then s.setThm { t with hold := false } else s)

/-- The registers of THM that show the sensors. -/
def State.thmView (s : State) (off : Nat) : Option Word :=
  let t := s.pwr.thm
  let h := fun (x : Int) => satSigned 16 x
  match off with
  | 0x040 => some (F.THM_TEMP_MAX.put (h t.max) (s.reg .thm off))
  | 0x044 => some (BitVec.ofNat 32 ((if t.warn then 2 ^ 31 else 0) + t.hot % 8 * 2 ^ 8 + t.excluded % 256))
  | 0x058 => some (BitVec.ofNat 32 (h t.drvMax))
  | o => if 0x048 ≤ o ∧ o ≤ 0x054 ∧ o % 4 = 0 then
      let k := (o - 0x048) / 4
      some (BitVec.ofNat 32 (h (t.sensors.getD (2 * k + 1) 0) * 2 ^ 16 + h (t.sensors.getD (2 * k) 0)))
    else none

end Sys2Proof.Machine
end

