-- ==== Sys2Proof/Machine/Sign.lean ====
section
/-! DEFINITION. The signature unit (R345): SHA-384 of FIPS 180-4, and verification of ECDSA over curve P-384 of FIPS 186-5, the two
standards that the rule names. -/

set_option Elab.async false

namespace Sys2Proof.Machine

/-! SHA-384. -/

/-- The eight working variables. -/
abbrev ShaVars := BitVec 64 × BitVec 64 × BitVec 64 × BitVec 64 × BitVec 64 × BitVec 64 × BitVec 64 × BitVec 64

/-- The eighty constants of SHA-384. -/
def shaConsts : List (BitVec 64) :=
  [0x428A2F98D728AE22, 0x7137449123EF65CD, 0xB5C0FBCFEC4D3B2F, 0xE9B5DBA58189DBBC, 0x3956C25BF348B538] ++
  [0x59F111F1B605D019, 0x923F82A4AF194F9B, 0xAB1C5ED5DA6D8118, 0xD807AA98A3030242, 0x12835B0145706FBE] ++
  [0x243185BE4EE4B28C, 0x550C7DC3D5FFB4E2, 0x72BE5D74F27B896F, 0x80DEB1FE3B1696B1, 0x9BDC06A725C71235] ++
  [0xC19BF174CF692694, 0xE49B69C19EF14AD2, 0xEFBE4786384F25E3, 0x0FC19DC68B8CD5B5, 0x240CA1CC77AC9C65] ++
  [0x2DE92C6F592B0275, 0x4A7484AA6EA6E483, 0x5CB0A9DCBD41FBD4, 0x76F988DA831153B5, 0x983E5152EE66DFAB] ++
  [0xA831C66D2DB43210, 0xB00327C898FB213F, 0xBF597FC7BEEF0EE4, 0xC6E00BF33DA88FC2, 0xD5A79147930AA725] ++
  [0x06CA6351E003826F, 0x142929670A0E6E70, 0x27B70A8546D22FFC, 0x2E1B21385C26C926, 0x4D2C6DFC5AC42AED] ++
  [0x53380D139D95B3DF, 0x650A73548BAF63DE, 0x766A0ABB3C77B2A8, 0x81C2C92E47EDAEE6, 0x92722C851482353B] ++
  [0xA2BFE8A14CF10364, 0xA81A664BBC423001, 0xC24B8B70D0F89791, 0xC76C51A30654BE30, 0xD192E819D6EF5218] ++
  [0xD69906245565A910, 0xF40E35855771202A, 0x106AA07032BBD1B8, 0x19A4C116B8D2D0C8, 0x1E376C085141AB53] ++
  [0x2748774CDF8EEB99, 0x34B0BCB5E19B48A8, 0x391C0CB3C5C95A63, 0x4ED8AA4AE3418ACB, 0x5B9CCA4F7763E373] ++
  [0x682E6FF3D6B2B8A3, 0x748F82EE5DEFB2FC, 0x78A5636F43172F60, 0x84C87814A1F0AB72, 0x8CC702081A6439EC] ++
  [0x90BEFFFA23631E28, 0xA4506CEBDE82BDE9, 0xBEF9A3F7B2C67915, 0xC67178F2E372532B, 0xCA273ECEEA26619C] ++
  [0xD186B8C721C0C207, 0xEADA7DD6CDE0EB1E, 0xF57D4F7FEE6ED178, 0x06F067AA72176FBA, 0x0A637DC5A2C898A6] ++
  [0x113F9804BEF90DAE, 0x1B710B35131C471B, 0x28DB77F523047D84, 0x32CAAB7B40C72493, 0x3C9EBE0A15C9BEBC] ++
  [0x431D67C49C100D4C, 0x4CC5D4BECB3E42B6, 0x597F299CFC657E2A, 0x5FCB6FAB3AD6FAEC, 0x6C44198C4A475817]

/-- The initial hash value of SHA-384. -/
def shaInit : ShaVars :=
  (0xCBBB9D5DC1059ED8, 0x629A292A367CD507, 0x9159015A3070DD17, 0x152FECD8F70E5939,
   0x67332667FFC00B31, 0x8EB44A8768581511, 0xDB0C2E0D64F98FA7, 0x47B5481DBEFA4FA4)

/-- The bytes of a message, padded to whole blocks of 128 bytes. -/
def shaPad (l : List Nat) : List Nat :=
  l ++ [0x80] ++ List.replicate ((239 - l.length % 128) % 128) 0 ++ beBytes 16 (8 * l.length)

/-- The sixteen words of a block, the last first. -/
def shaWords (block : List Nat) : List (BitVec 64) :=
  (List.range 16).reverse.map fun i => BitVec.ofNat 64 (ofBe ((block.drop (8 * i)).take 8))

/-- The message schedule, the last word first, extended by a number of words. -/
def shaExtend : Nat → List (BitVec 64) → List (BitVec 64)
  | 0, r => r
  | n + 1, r =>
    let x := r.getD 14 0
    let y := r.getD 1 0
    let s0 := x.rotateRight 1 ^^^ x.rotateRight 8 ^^^ (x >>> 7)
    let s1 := y.rotateRight 19 ^^^ y.rotateRight 61 ^^^ (y >>> 6)
    shaExtend n ((s1 + r.getD 6 0 + s0 + r.getD 15 0) :: r)

/-- One round, on its constant and its word of the schedule. -/
def shaRound (v : ShaVars) (kw : BitVec 64 × BitVec 64) : ShaVars :=
  match v with
  | (a, b, c, d, e, f, g, h) =>
    let s1 := e.rotateRight 14 ^^^ e.rotateRight 18 ^^^ e.rotateRight 41
    let s0 := a.rotateRight 28 ^^^ a.rotateRight 34 ^^^ a.rotateRight 39
    let t1 := h + s1 + ((e &&& f) ^^^ (~~~e &&& g)) + kw.1 + kw.2
    let t2 := s0 + ((a &&& b) ^^^ (a &&& c) ^^^ (b &&& c))
    (t1 + t2, a, b, c, d + t1, e, f, g)

/-- The hash value after one block. -/
def shaBlock (v : ShaVars) (block : List Nat) : ShaVars :=
  match v, (shaConsts.zip (shaExtend 64 (shaWords block)).reverse).foldl shaRound v with
  | (a, b, c, d, e, f, g, h), (a', b', c', d', e', f', g', h') =>
    (a + a', b + b', c + c', d + d', e + e', f + f', g + g', h + h')

/-- The hash value after a number of blocks. -/
def shaBlocks : Nat → ShaVars → List Nat → ShaVars
  | 0, v, _ => v
  | n + 1, v, l => shaBlocks n (shaBlock v (l.take 128)) (l.drop 128)

/-- SHA-384 of bytes, as a number whose most significant byte is the digest's first. -/
def sha384 (l : List Nat) : Nat :=
  let m := shaPad l
  match shaBlocks (m.length / 128) shaInit m with
  | (a, b, c, d, e, f, _, _) => [a, b, c, d, e, f].foldl (fun n w => n * 2 ^ 64 + w.toNat) 0

/-! ECDSA over P-384. -/

/-- The field's prime, the order of the base point, the coefficient b, and the base point. -/
def curveP : Nat := 2 ^ 384 - 2 ^ 128 - 2 ^ 96 + 2 ^ 32 - 1
def curveN : Nat :=
  0xFFFFFFFFFFFFFFFFFFFFFFFFFFFFFFFFFFFFFFFFFFFFFFFFC7634D81F4372DDF581A0DB248B0A77AECEC196ACCC52973
def curveB : Nat :=
  0xB3312FA7E23EE7E4988E056BE3F82D19181D9C6EFE8141120314088F5013875AC656398D8A2ED19D2A85C8EDD3EC2AEF
def curveG : Nat × Nat :=
  (0xAA87CA22BE8B05378EB1C71EF320AD746E1D3B628BA79B9859F741E082542A385502F25DBF55296C3A545E3872760AB7,
   0x3617DE4A96262C6F5D9E98BF9292DC29F8F41DBD289A147CE9DA3113B5F0B8C00A60B1CE1D7E819D7A431D7C90EA0E5F)

/-- The inverse of a number that is not 0, modulo a prime of 384 bits: its power of that prime less 2. -/
def primeInv (m a : Nat) : Nat :=
  (List.range 384).reverse.foldl (fun x i =>
    let y := x * x % m
    if (m - 2) / 2 ^ i % 2 = 1 then y * a % m else y) 1

/-- The sum of two points; none is the point at infinity. -/
def pointAdd : Option (Nat × Nat) → Option (Nat × Nat) → Option (Nat × Nat)
  | none, q => q
  | p, none => p
  | some (x1, y1), some (x2, y2) =>
    let p := curveP
    if x1 = x2 ∧ (y1 + y2) % p = 0 then none
    else
      let l := if x1 = x2 then (3 * x1 * x1 + (p - 3)) % p * primeInv p (2 * y1 % p) % p
        else (y2 + p - y1) % p * primeInv p ((x2 + p - x1) % p) % p
      let x := (l * l + 2 * p - x1 - x2) % p
      some (x, (l * (x1 + p - x) + p - y1) % p)

/-- A multiple of a point. -/
def pointMul (k : Nat) (q : Option (Nat × Nat)) : Option (Nat × Nat) :=
  (List.range 384).reverse.foldl (fun r i =>
    let d := pointAdd r r
    if k / 2 ^ i % 2 = 1 then pointAdd d q else d) none

/-- Verification of a signature, r then s, over a digest, under a public key, x then y: each number of 48 bytes. -/
def ecdsaOk (pub : List Nat) (digest : Nat) (sig : List Nat) : Bool :=
  let x := ofBe (pub.take 48)
  let y := ofBe ((pub.drop 48).take 48)
  let r := ofBe (sig.take 48)
  let s := ofBe ((sig.drop 48).take 48)
  if curveP ≤ x ∨ curveP ≤ y ∨ (y * y) % curveP ≠ (x * x * x + (curveP - 3) * x + curveB) % curveP then false
  else if r = 0 ∨ curveN ≤ r ∨ s = 0 ∨ curveN ≤ s then false
  else
    let w := primeInv curveN s
    match pointAdd (pointMul (digest * w % curveN) (some curveG)) (pointMul (r * w % curveN) (some (x, y))) with
    | none => false
    | some q => decide (q.1 % curveN = r)

end Sys2Proof.Machine
end

