-- ==== Sys2Proof/Machine/Timing.lean ====
section
/-! DEFINITION. Corridor time at a node (R183 to R189): the loop, steps, the root, the parent, and the states of a partition
(R252 to R255). -/

set_option Elab.async false

namespace Sys2Proof.Machine

def State.setSched (s : State) (x : Sched) : State := { s with line := { s.line with sched := x } }

/-- The states of Table 08-5, as `RLY_PART.STATE` shows them. -/
def ptSynced : Nat := 0
def ptLost : Nat := 1
def ptProv : Nat := 2
def ptMerging : Nat := 3
def State.part (s : State) : Nat := s.fld .rly F.RLY_PART_STATE
def State.setPart (s : State) (n : Nat) : State := (s.setFld .rly F.RLY_PART_STATE n).setStatus .rly 16 (decide (n = ptProv))
def State.isRoot (s : State) : Bool := s.flag .sch F.SCH_CT_STAT_IS_ROOT
def State.hop (s : State) : Nat := s.fld .sch F.SCH_CT_STAT_HOP

/-! The loop (R185). -/

/-- 10 µs per slot, in 2^-20 slot. -/
def State.ctLim (s : State) : Nat := s.nsToCt 10000

/-- The delay ranged to a peer in 2^-20 slot, 0 before ranging is valid. -/
def State.delayCt (s : State) (c peer : Nat) : Int :=
  match (s.link? c peer).bind (·.delay) with
  | some d => roundDiv (d * 2 ^ 20) (4 * s.slotNs)
  | none => 0

/-- e: where a transmission that began in a slot should have arrived, less the node's CT at its first sample. -/
def State.ctErr (s : State) (c peer slot rx : Nat) (cfg : List Word) : Int :=
  ((slot * 2 ^ 20 + s.nsToCt (guardNs (cfgGet cfg F.CH_CFG_NUMER)) : Nat) : Int) + s.delayCt c peer - rx

/-- Corridor time moves. -/
def State.moveCt (s : State) (e : Int) : State := { s with ct := (((s.ct : Int) + e) % 2 ^ 64).toNat }

/-- An error beyond 0.2 slot awaits the next superframe boundary as a step; a smaller one moves phase and rate. `full`: it is
applied in full at once instead of by the phase (R274). -/
def State.discipline (s : State) (e : Int) (full : Bool) : State :=
  let x := s.line.sched
  let kp := s.fld .sch F.SCH_LOOP_KP
  let ki := s.fld .sch F.SCH_LOOP_KI
  let s1 := s.setFld .sch F.SCH_CT_ERR_ERR (satSigned 32 e)
  let s2 : State := if s.ctLim < e.natAbs then { s1 with net := { s1.net with inLimit := false } } else s1
  if 0x33333 < e.natAbs then s2.setSched { x with step := some e }
  else if full then (s2.setSched { x with rate := x.rate + e / 2 ^ (kp + ki) }).moveCt e
  else s2.setSched { x with phase := x.phase + e / 2 ^ kp, rate := x.rate + e / 2 ^ (kp + ki) }

/-- At a slot boundary at most 10 µs of the phase are applied. -/
def State.slew (s : State) : State :=
  let x := s.line.sched
  let lim : Int := s.ctLim
  let p := max (-lim) (min lim x.phase)
  let s1 := s.setSched { x with phase := x.phase - p }
  if p = x.phase then s1 else s1.bump .sch 4

/-! The slot length (R184). -/

/-- At a slot boundary a root in grid-locked mode takes half the mean mains period, while mains is present and a period has
been measured. -/
def State.rootSlot (s : State) : State :=
  if s.isRoot && !s.flag .sch F.SCH_MODE_FREE_RUN && s.mains.present && s.mains.periods != [] then
    s.setFld .sch F.SCH_SLOT_LEN_NS (clampN 7692000 11111000 (roundDiv s.mainsPeriod 2).toNat)
  else s

/-! Time held (R188). -/

/-- CT is held from now on. -/
def State.gainSync (s : State) : State :=
  if s.sync then s else ((s.takeL4.setFlag .sch F.SCH_CT_STAT_SYNC true).setStatus .sch 16 true).event .sch 1

/-- The root that the node follows, or is. -/
def State.setRoot (s : State) (node prio epoch : Nat) (prov : Bool) : State :=
  let was := s.fld .sch F.SCH_ROOT_NODE
  let s1 := (((s.setFld .sch F.SCH_ROOT_NODE node).setFld .sch F.SCH_ROOT_PRIO prio).setFld .sch F.SCH_CT_STAT_EPOCH epoch).setFlag
    .sch F.SCH_CT_STAT_PROVISIONAL prov
  if s.sync && decide (was ≠ node) then s1.event .sch 6 else s1

/-- The node becomes root. -/
def State.beRoot (s : State) (epoch : Nat) (prov : Bool) : State :=
  let s1 := s.setRoot s.ownNode (s.fld .sch F.SCH_MODE_ROOT_PRIO) epoch prov
  ((s1.setFlag .sch F.SCH_CT_STAT_IS_ROOT true).setFld .sch F.SCH_CT_STAT_HOP 0).setReg .sch 0x05C 0

/-- A configured root starts CT when its first channel is enabled. -/
def State.startRoot (s : State) : State :=
  if !s.flag .sch F.SCH_MODE_ROOT || s.sync then s
  else
    let init := s.fld .sch F.SCH_CT_INIT_LO_SLOT + s.fld .sch F.SCH_CT_INIT_HI_SLOT * 2 ^ 32
    let s1 : State := { s with ct := init * 2 ^ 20 }
    (((s1.setFld .sch F.SCH_SLOT_LEN_NS s1.nominalNs).beRoot (s1.fld .sch F.SCH_MODE_EPOCH_INIT) false).gainSync).setPart ptSynced

/-! Steps (R189). -/

/-- The jobs of a channel's transmission that begins at a slot are dropped. -/
def State.dropTxJobs (s : State) (c slot : Nat) : State :=
  s.keepJobs fun j => !(decide (j.chan = c ∧ j.slot = slot) && (match j.kind with | .encode | .txSym => true | _ => false))

/-- A prepared transmission is given up: its frames wait to be placed again. -/
def State.giveUp (s : State) (c : Nat) (x : Tx) : State :=
  (s.mapFrames fun f => if x.frames.contains f.id && (match f.st with | .placed _ => true | _ => false) then { f with st := .ready } else f).dropTxJobs
    c x.slot

/-- Prepared transmissions are given up, but for those of slot `keep`, which the next slot boundary starts. -/
def State.replaceAll (s : State) (keep : Nat) : State :=
  (List.range 64).foldl (fun s c =>
    let x := s.chan c
    let all := x.prep.toList ++ x.later.toList
    let s1 := (all.filter fun t => decide (t.slot ≠ keep)).foldl (fun s t => s.giveUp c t) s
    s1.setChan c { s1.chan c with prep := none, later := all.find? fun t => decide (t.slot = keep) }) s

/-- A step that awaits the superframe boundary. -/
def State.ctStep (s : State) : State :=
  match s.line.sched.step with
  | none => s
  | some e =>
    let old := sfOf s.ct
    let s1 := s.moveCt e
    let new := sfOf s1.ct
    let s2 := (s1.setSched { s1.line.sched with step := none, stepped := some (if new + 1 = old then old else new) }).replaceAll (s1.slot + 1)
    (s2.bump .sch 3).event .sch 7

/-- Whether this superframe began with a step. -/
def State.afterStep (s : State) : Bool := match s.line.sched.stepped with | some n => decide (sfOf s.ct ≤ n) | none => false

/-! The parent (R186). -/

def State.setParent (s : State) (c node hop : Nat) : State :=
  ((s.setFld .sch F.SCH_PARENT_CHANNEL c).setFld .sch F.SCH_PARENT_NODE node).setFld .sch F.SCH_CT_STAT_HOP (min 63 (hop + 1))

/-- At a superframe boundary a node whose parent was silent takes the best other one, and silence is counted. -/
def State.parentLoss (s : State) : State :=
  let x := s.line.sched
  let s1 := match x.best with
    | some b => if s.sync && !s.isRoot && !x.parentSf && !s.flag .slp F.SLP_CFG_SLEEP_EN then (s.setParent b.2.1 b.2.2 b.1).bump .sch 6 else s
    | none => s
  s1.setSched { s1.line.sched with
    noBeacon := if x.heardSf then 0 else x.noBeacon + 1, heardSf := false, parentSf := false, best := none }

/-- SYNC_LOST: no beacon has been accepted for BCN_LOSS superframes: the node is LOST, and its claim wait runs (R253, R254). -/
def execSyncLost (s : State) : Host.Outcome State Fault Refusal :=
  .next (
    if s.sync && !s.isRoot && decide (s.part ≠ ptLost) && decide (max 1 (s.fld .sch F.SCH_MODE_BCN_LOSS) ≤ s.line.sched.noBeacon) then
      let s1 := ((s.event .sch 2).setPart ptLost).event .rly 4
      { s1 with net := { s1.net with claim := 2 * (255 - s.fld .sch F.SCH_MODE_ROOT_PRIO) + s.ownNode % 8 } }
    else s)

/-- CLAIM_WAIT_EXPIRE: the claim wait has ended in LOST with CLAIM_EN set: the node becomes provisional root (R254). -/
def execClaimWaitExpire (s : State) : Host.Outcome State Fault Refusal :=
  .next (
    if decide (s.part = ptLost) && decide (s.net.claim = 0) && s.flag .rly F.RLY_PART_CLAIM_EN then
      ((s.beRoot ((s.epoch + 1) % 256) true).setPart ptProv).event .rly 5
    else s)

/-! Merging (R255). -/

/-- Seen-cache entries of other epochs are removed; floods of the node's own among them are sent anew. -/
def State.flushEpochs (s : State) : State := s.flushFloods fun f => decide (f.epoch ≠ s.epoch)

/-- The node enters MERGING, having left epoch `old`. -/
def State.mergeStart (s : State) (old : Nat) : State :=
  let s1 := ((s.setPart ptMerging).event .rly 6).setFlag .sch F.SCH_CT_STAT_IS_ROOT false
  let s2 : State := { s1 with net := { s1.net with
    oldEpoch := old, inLimit := false, advSoon := true, claim := 0
    routes := s1.net.routes.map fun r => if r.fixed then r else { r with stale := true } } }
  let s3 := s2.flushEpochs.retryPaths
  (if s3.flag .dir F.DIR_MERGE_EN && s3.enabled .dir then s3.sendDeltas old else s3).dispatch

/-- MERGING ends after a superframe within the limit, once the actions of R255 are complete. -/
def State.mergeEnd (s : State) (heard : Bool) : State :=
  if s.part ≠ ptMerging then s
  else
    let done := s.net.inLimit && heard && !s.net.advSoon
    let s1 : State := { s with net := { s.net with inLimit := true } }
    if done then s1.setPart ptSynced else s1

/-! What the SCH page shows. -/

def State.schView (s : State) (off : Nat) : Option Word :=
  match off with
  | 0x048 => some (BitVec.ofNat 32 s.ct)
  | 0x04C => some (BitVec.ofNat 32 (s.ct / 2 ^ 32))
  | 0x058 => some (F.SCH_CT_STAT_FREE_RUN.put (s.fld .sch F.SCH_MODE_FREE_RUN) (s.reg .sch off))
  | 0x064 => some (F.SCH_SLOT_LEN_NS.put s.slotNs (s.reg .sch off))
  | 0x0C0 => some (BitVec.ofNat 32 (sfOf s.ct))
  | _ => none

/-- What a write of the SCH page does. -/
def schEffect (off : Nat) : Page → Word → State → State :=
  if off = 0x070 then schStageWrite else fun p w s => applyWrite p off w s

end Sys2Proof.Machine
end

