-- ==== Sys2Proof/Machine/Sleep.lean ====
section
/-! DEFINITION. Sleepers and their parents (R260 to R282). -/

set_option Elab.async false

namespace Sys2Proof.Machine

/-! Sleepers: what they follow. -/

/-- Whether the node sleeps: F9, SLEEP_EN, and no twin (R365). -/
def State.slpOn (s : State) : Bool :=
  s.feat 9 && s.enabled .slp && s.flag .slp F.SLP_CFG_SLEEP_EN && !s.flag .twn F.TWN_CFG_EN
def State.slpParent (s : State) : Nat := s.fld .slp F.SLP_PARENT_NODE
def State.slpChan (s : State) : Nat := s.fld .slp F.SLP_CFG_CHANNEL
def State.slpErr (s : State) : Bool := s.flag .slp F.SLP_STAT_CFG_ERR

/-- The states of Table 09-5, as `SLP_STAT.STATE` shows them. -/
def slOff : Nat := 0
def slAsleep : Nat := 1
def slAwake : Nat := 2
def slListen : Nat := 3
def slWait : Nat := 4
def State.slpState (s : State) : Nat := s.fld .slp F.SLP_STAT_STATE
def State.setSlpState (s : State) (n : Nat) : State :=
  ((s.setFld .slp F.SLP_STAT_STATE n).setStatus .slp 16 (decide (n = slAsleep))).setStatus .slp 17 (decide (n = slListen ∨ n = slWait))
def State.adrift (s : State) : Bool := s.slpOn && decide (s.slpState = slListen ∨ s.slpState = slWait)

/-! Drift bounds and timebase (R272, R273). -/

def State.mayMains (s : State) : Bool :=
  decide (s.fld .slp F.SLP_CFG_TB = 0) && !s.flag .sch F.SCH_MODE_FREE_RUN && s.zcLocked && decide (s.slumberDom 19 = .on)

def State.deltaSelf (s : State) : Nat :=
  if s.flag .slp F.SLP_STAT_TB_MAINS then s.fld .slp F.SLP_DRIFT_MAINS_PPM
  else s.fld .slp F.SLP_DRIFT_SELF_PPM + if s.flag .sch F.SCH_MODE_FREE_RUN then 0 else s.fld .slp F.SLP_DRIFT_GRID_PPM
def State.deltaPartner (s : State) : Nat := s.slp.partner.getD (s.fld .slp F.SLP_DRIFT_SELF_PPM)

/-! Announcements (R266). -/

/-- The parameters that the registers hold. -/
def State.slpParams (s : State) : Rend :=
  ⟨s.slpParent, s.fld .slp F.SLP_REND_GROUP, min 12 (s.fld .slp F.SLP_REND_PLOG), s.fld .slp F.SLP_REND_PHASE, s.flag .slp F.SLP_CFG_GG⟩

/-- The payload of Table 09-2. -/
def State.annPayload (s : State) : List Nat :=
  leBytes 3 s.slpParent ++ [s.fld .slp F.SLP_REND_GROUP] ++
    leBytes 2 (s.fld .slp F.SLP_REND_PLOG * 4096 + s.fld .slp F.SLP_REND_PHASE) ++ [min 255 s.deltaSelf,
    (if s.flag .slp F.SLP_CFG_GG then 128 else 0) + (if s.flag .slp F.SLP_STAT_TB_MAINS then 64 else 0)]

/-- An announcement goes to the parent; none while CFG_ERR holds. -/
def State.announce (s : State) : State :=
  if !s.slpOn || s.slpErr || !isUnicast s.ownNode || !isUnicast s.slpParent then s
  else
    let id := s.net.nextId
    ((s.sendDev 2 0xF2 1 s.slpParent s.annPayload).setSlp { s.slp with ann := some (id, s.slpParams) }).dispatch

/-! The rendezvous (R262 to R264). -/

/-- The heads of a wake group's entries, in entry order. -/
def rdvHeads (tbl cfg : List Word) (g : Nat) : List Nat :=
  (List.range 64).filter fun i => let e := effEntry tbl cfg i; decide (e.ty = tyRdv ∧ e.pos = 0 ∧ e.arg = g)

/-- The pairs of a wake group: a down entry and its up entry, if it has one. -/
def rdvPairs (tbl cfg : List Word) (g : Nat) : List (Nat × Option Nat) :=
  let h := rdvHeads tbl cfg g
  (List.range (ceilDiv h.length 2)).map fun j => (h.getD (2 * j) 0, h[2 * j + 1]?)

/-- Whether a channel can hold rendezvous of a group. -/
def State.rdvChan (s : State) (c g : Nat) : Bool :=
  match s.live c with
  | some cfg => decide (cfgGet cfg F.CH_CFG_NUMER ≠ 2) && rdvHeads (s.table c) cfg g != []
  | none => false

/-- The rendezvous of a node in a superframe: the slots of its down entry and of its up entry. -/
def State.rdvIn (s : State) (c g node sf : Nat) : Option (Nat × Option Nat) :=
  match s.live c with
  | none => none
  | some cfg =>
    let p := rdvPairs (s.tableIn c sf) cfg g
    if p = [] then none
    else let x := p.getD (node % p.length) (0, none); some (64 * sf + x.1, x.2.map (64 * sf + ·))

/-- The first rendezvous of the parameters in force whose down entry is yet to begin, or has begun and awaits its contact. -/
def State.nextRdv (s : State) : Option (Nat × Option Nat) :=
  match s.slp.rend with
  | none => none
  | some r =>
    let p := 2 ^ r.plog
    let cur := sfOf s.ct
    let sf0 := cur + (r.phase % p + p - cur % p) % p
    let now := s.fld .slp F.SLP_NEXT_LO_SLOT + s.fld .slp F.SLP_NEXT_HI_SLOT * 2 ^ 32
    let ok := fun (x : Nat × Option Nat) => decide (s.slot < x.1) || (decide (s.slot = x.1 ∧ now = x.1) && !s.slp.held)
    match s.rdvIn s.slpChan r.group s.ownNode sf0 with
    | some x => if ok x then some x else s.rdvIn s.slpChan r.group s.ownNode (sf0 + p)
    | none => s.rdvIn s.slpChan r.group s.ownNode (sf0 + p)

/-! The guard (R275, R276). -/

def State.slpG0 (s : State) : Nat := max 10 (s.fld .slp F.SLP_GUARD_G0_US)
def State.contactSlot (s : State) : Nat := s.fld .slp F.SLP_CONTACT_LO_SLOT + s.fld .slp F.SLP_CONTACT_HI_SLOT * 2 ^ 32

/-- G in µs of a rendezvous, before its cap. -/
def State.guardUs (s : State) (gg : Bool) (slot : Nat) : Nat :=
  s.slpG0 + if gg then ceilDiv (2 * (s.deltaSelf + s.deltaPartner) * ((slot - s.contactSlot) * s.slotNs)) 1000000000 else 0

/-- Whether a fixed guard is shorter than the drift of one period. -/
def State.guardShort (s : State) (r : Rend) : Bool :=
  !r.gg && decide ((s.slpG0 - 10) * 1000000000 < 2 * (s.deltaSelf + s.deltaPartner) * 2 ^ r.plog * 64 * s.slotNs)

/-- The next rendezvous and its guard stand in the registers. -/
def State.planRdv (s : State) : State :=
  match s.slp.rend, s.nextRdv with
  | some r, some x =>
    let was := s.fld .slp F.SLP_NEXT_LO_SLOT + s.fld .slp F.SLP_NEXT_HI_SLOT * 2 ^ 32
    let cap := s.slotNs / 4000
    let g := s.guardUs r.gg x.1
    let s1 := (s.setFld .slp F.SLP_NEXT_LO_SLOT x.1).setFld .slp F.SLP_NEXT_HI_SLOT (x.1 / 2 ^ 32)
    let s2 := (s1.setFld .slp F.SLP_GUARD_GUARD_US (min cap g)).setFlag .slp F.SLP_STAT_CAPPED (decide (cap < g))
    let s3 := s2.setFlag .slp F.SLP_STAT_GUARD_SHORT (s.guardShort r)
    let s4 := if cap < g then s3.event .slp 1 else s3
    let s5 := if s.guardShort r then s4.event .slp 2 else s4
    if was = x.1 then s5 else s5.setSlp { s5.slp with held := false, listed := none }
  | _, _ => s

/-- RENDEZVOUS_PLAN: the channel is checked, and the next rendezvous computed. -/
def State.slpPlan (s : State) : State :=
  if !s.slpOn then s
  else if s.rdvChan s.slpChan (s.fld .slp F.SLP_REND_GROUP) then
    (if s.slpErr then (s.setFlag .slp F.SLP_STAT_CFG_ERR false).announce else s).planRdv
  else if s.slpErr then s
  else ((s.setFlag .slp F.SLP_STAT_CFG_ERR true).setSlpState slAwake).event .slp 8

/-! Energy (R280). -/

/-- ENERGY_WINDOW_END: the account returns to zero. -/
def execEnergyWindowEnd (s : State) : Host.Outcome State Fault Refusal :=
  .next (s.setSlp { s.slp with energy := 0, overspent := false })

/-! Going to sleep (R271, R272, R277, R278). -/

/-- The instant in corridor time at which the sleep timer wakes the device for the rendezvous that is planned (R275, R277). -/
def State.wakeCt (s : State) : Int :=
  let slot := s.fld .slp F.SLP_NEXT_LO_SLOT + s.fld .slp F.SLP_NEXT_HI_SLOT * 2 ^ 32
  let n := match s.live s.slpChan with | some cfg => cfgGet cfg F.CH_CFG_NUMER | none => 0
  let us := 10 + s.fld .slp F.SLP_GUARD_GUARD_US + max 350 (s.fld .slp F.SLP_LEAD_LEAD_US)
  ((slot * 2 ^ 20 + s.nsToCt (guardNs n) : Nat) : Int) - (s.nsToCt (us * 1000) : Nat)

/-- The node goes adrift: ADRIFT sets on the first occasion (R278). -/
def State.slpListen (s : State) : State :=
  let s1 := (s.setSlpState slListen).setSlp { s.slp with left := s.line.sched.sfN + 1, adrift := true, stay := none }
  if s.slp.adrift then s1 else s1.event .slp 7

/-- A rendezvous is missed: counted, and the third in a row leads adrift. -/
def State.slpMiss (s : State) : State :=
  let n := min 15 (s.fld .slp F.SLP_STAT_MISS_RUN + 1)
  let s1 := (s.setFld .slp F.SLP_STAT_MISS_RUN n).bump .slp 1
  if n = 3 then ((s1.setFld .slp F.SLP_STAT_ADRIFT_A 0).bump .slp 2).slpListen else s1

/-- The device asks for SLUMBER until its next rendezvous. A change of timebase is announced first. A rendezvous whose wake
time has passed is missed. Where SLUMBER is refused the node stays, to ask again. -/
def State.goSleep (s : State) : State :=
  let s0 := s.setSlp { s.slp with stay := none, listed := none }
  if !s0.slpOn || s0.slpErr || s0.slp.rend.isNone then s0
  else if s0.flag .slp F.SLP_STAT_TB_MAINS != s0.mayMains then
    let s1 := (s0.setFlag .slp F.SLP_STAT_TB_MAINS s0.mayMains).announce
    s1.setSlp { s1.slp with stay := some (0, 0) }
  else
    let s1 := s0.planRdv
    let s2 := if s1.wakeCt ≤ s1.ct then
        let m := s1.slpMiss
        if m.adrift then m else (m.setSlp { m.slp with held := true }).planRdv
      else s1
    if s2.adrift then s2
    else
      let s3 := s2.slumberReq false
      if s3.pwr.slumberDue then s3.setSlpState slAsleep else s3.setSlp { s3.slp with stay := some (0, 0) }

/-- SLEEP_TIMER_WAKE: the sleep timer wakes the device for a rendezvous, or at the end of an adrift wait. -/
def execSleepTimerWake (s : State) : Host.Outcome State Fault Refusal :=
  .next (
    if decide (s.pwr.mode = .slumber) && decide (s.slpState = slAsleep ∨ s.slpState = slWait) then s.wake 0 else s)

/-- RENDEZVOUS_MISS: the receive window of the rendezvous has closed without a contact. -/
def execRendezvousMiss (s : State) : Host.Outcome State Fault Refusal :=
  .next (
    let slot := s.fld .slp F.SLP_NEXT_LO_SLOT + s.fld .slp F.SLP_NEXT_HI_SLOT * 2 ^ 32
    if s.slpOn && s.running && decide (s.slpState = slAwake) && !s.slpErr && !s.slp.held && s.slp.rend.isSome && decide (slot ≤ s.slot) then
      let s1 := s.slpMiss
      if s1.adrift then s1 else (s1.setSlp { s1.slp with held := true }).goSleep
    else s)

/-- Frames to the parent, or that have no path yet. -/
def State.toParent (s : State) : Bool :=
  s.net.frames.any fun f => match f.path with | some p => decide (p.2.1 = s.slpParent) | none => decide (f.st = .path)

/-- STAY_END: a stay has run its idle slots with nothing left to send, or its longest time (R271, R279). -/
def execStayEnd (s : State) : Host.Outcome State Fault Refusal :=
  .next (
    match s.slp.stay with
    | some (idle, sfs) =>
      let quiet := decide (max 1 (s.fld .slp F.SLP_CFG_STAY) ≤ idle) && !s.toParent
      let acked := s.slp.back && s.slp.ann.isNone
      if s.slpOn && s.running && decide (s.slpState = slAwake) &&
          (quiet || acked || decide (max 1 (s.fld .slp F.SLP_CFG_STAY_MAX) ≤ sfs)) then
        (s.setSlp { s.slp with back := false }).goSleep
      else s
    | none => s)

/-- An adrift wait of 2^a superframes, in SLUMBER. -/
def State.adriftWait (s : State) : State :=
  let a := min 6 (s.fld .slp F.SLP_STAT_ADRIFT_A + 1)
  (((s.setFld .slp F.SLP_STAT_ADRIFT_A a).setSlpState slWait).setSlp { s.slp with left := s.line.sched.sfN + 2 ^ a }).slumberReq false

/-- ADRIFT_LISTEN_END: a listen of one superframe ends without contact. -/
def execAdriftListenEnd (s : State) : Host.Outcome State Fault Refusal :=
  .next (
    if s.slpOn && s.running && decide (s.slpState = slListen) && decide (s.slp.left ≤ s.line.sched.sfN) then s.adriftWait else s)

/-- ADRIFT_WAIT_END: the wait has passed: a listen begins, or is skipped for energy. -/
def execAdriftWaitEnd (s : State) : Host.Outcome State Fault Refusal :=
  .next (
    if s.slpOn && s.running && decide (s.slpState = slWait) && decide (s.slp.left ≤ s.line.sched.sfN) then
      if s.overBudget then (s.bump .slp 3).adriftWait else s.slpListen
    else s)

/-- The return from adrift (R279); corridor time has been corrected. -/
def State.adriftReturn (s : State) : State :=
  let s1 := ((s.setFld .slp F.SLP_STAT_MISS_RUN 0).setFld .slp F.SLP_STAT_ADRIFT_A 0).setSlpState slAwake
  ((s1.setSlp { s1.slp with adrift := false, stay := some (0, 0), back := true, held := true }).announce).event .slp 6

/-! Contacts (R274). -/

/-- A version named by another node differs from the one in force (R195). -/
def State.versionSeen (s : State) (v : Nat) : State :=
  if v = s.fld .sch F.SCH_VER_IN_FORCE then s
  else ((s.setFlag .sch F.SCH_VER_STAT_MISMATCH true).event .sch 3).bump .sch 5

/-- A transmission from the parent whose first sample arrived at `rx`: it began in the slot that its arrival lies nearest to. -/
def State.contact (s : State) (c peer rx : Nat) : State :=
  match s.live c with
  | some cfg =>
    if s.slpOn && s.running && s.sync && decide (peer = s.slpParent) && decide (c = s.slpChan) then
      let slot := (roundDiv (-(s.ctErr c peer 0 rx cfg)) (2 ^ 20)).toNat
      let s1 := (s.setSched { s.line.sched with heardSf := true, parentSf := true }).discipline (s.ctErr c peer slot rx cfg) true
      let s2 := (s1.setFld .slp F.SLP_CONTACT_LO_SLOT slot).setFld .slp F.SLP_CONTACT_HI_SLOT (slot / 2 ^ 32)
      if s2.adrift then s2.adriftReturn else s2
    else s
  | none => s

/-! The WAKE frame at a sleeper (R268 to R271). -/

/-- A frame has passed to or from the node in this slot. -/
def State.stayUsed (s : State) : State := s.setSlp { s.slp with moved := true }

/-- A WAKE frame of the parent: the rendezvous is held; a listed node answers, one that holds frames stays, another sleeps. -/
def State.wakeIn (s : State) (d : List Nat) : State :=
  let n := min 8 (d.getD 0 0 % 16)
  let own := (List.range n).find? fun k => decide (leAt d (4 + 4 * k) 3 = s.ownNode)
  let up := match s.slp.rend with
    | some r => (s.rdvIn s.slpChan r.group s.ownNode (sfOf s.ct)).bind (·.2)
    | none => none
  let s1 := s.setSlp { s.slp with partner := some (d.getD 1 0), held := true }
  let s2 := (((s1.setFld .slp F.SLP_DRIFT_PARENT_PPM (d.getD 1 0)).setFld .slp F.SLP_STAT_MISS_RUN 0).bump .slp 0).versionSeen (leAt d 2 2)
  let stay := fun (s : State) => s.setSlp { s.slp with stay := some (0, 0) }
  match own, up with
  | some k, some u => s2.setSlp { s2.slp with listed := some (k, bitOf (d.getD (7 + 4 * k) 0) 7, u) }
  | some k, none => if bitOf (d.getD (7 + 4 * k) 0) 7 || s2.toParent then stay s2 else s2.goSleep
  | none, _ => if s2.toParent || s2.slp.stay.isSome then stay s2 else s2.goSleep

/-- Whether a WAKE frame is the sleeper's. -/
def State.wakeMine (s : State) (c src : Nat) : Bool :=
  s.slpOn && s.running && decide (s.slpState = slAwake) && decide (src = s.slpParent) && decide (c = s.slpChan)

/-- WAKE_RX: a WAKE frame's payload, from a node on a channel, its first sample at `rx`. -/
def execWakeRx (c : Fin 64) (src rx : Nat) (d : List Nat) (s : State) : Host.Outcome State Fault Refusal :=
  .next (
    let s1 := s.contact c.val src rx
    if s1.wakeMine c.val src then s1.wakeIn d else s1)

/-- ANSWER_BURST: the listed sleeper answers in its window of the up entry: ALIVE, or ALIVE_UP where it holds frames. -/
def execAnswerBurst (s : State) : Host.Outcome State Fault Refusal :=
  .next (
    match s.slp.listed, s.live s.slpChan with
    | some (k, data, u), some cfg =>
      if s.slpOn && decide (s.slpState = slAwake) && decide (s.slot = u) && s.mayTx cfg then
        let up := s.toParent
        let s1 := (s.setSlp { s.slp with listed := none }).emit
          (.burst s.slpChan (2 * k + if up then 1 else 0) (s.delayCt s.slpChan s.slpParent))
        if data || up then s1.setSlp { s1.slp with stay := some (0, 0) } else if s1.slp.stay.isSome then s1 else s1.goSleep
      else s
    | _, _ => s)

/-! The parent (R268, R270). -/

/-- A sleeper's miss. -/
def State.sleeperMiss (s : State) (i node : Nat) : State :=
  let n := min 15 (s.dirByte i 27 % 16 + 1)
  let s1 := (((s.dirPut i 27 [s.dirByte i 27 / 16 * 16 + n]).dirCount i 46 2).bump .slp 6)
  if 3 ≤ n ∧ s1.dirUnreached i = false then
    (((s1.dirSetFlag i 2 true).setFld .slp F.SLP_UNR_LAST_NODE node).event .slp 5).bump .slp 7
  else s1

/-- Window `k` of an up entry is dealt with. -/
def State.endWindow (s : State) (c up k : Nat) : State :=
  let f := fun (a : Nat × Nat × List (Nat × Nat × Bool)) =>
    if a.1 = c ∧ a.2.1 = up then (a.1, a.2.1, a.2.2.filter fun e => decide (e.1 ≠ k)) else a
  s.setSlp { s.slp with answers := s.slp.answers.map f }

/-- ANSWER_WINDOW_END: window `k` of the up entry in progress ends, with the levels heard at its two positions, in 0.25 dB above the
noise. -/
def execAnswerWindowEnd (c : Fin 64) (k : Fin 8) (alive aliveUp : Nat) (s : State) : Host.Outcome State Fault Refusal :=
  .next (
    match s.slp.answers.find? fun a => decide (a.1 = c.val ∧ a.2.1 = s.slot) with
    | some (_, u, l) =>
      match l.find? fun e => decide (e.1 = k.val) with
      | some (_, node, data) =>
        let th := match s.live c.val with | some cfg => cfgGet cfg F.CH_CONTEND_DET_TH | none => s.fld (.ch c) F.CH_CONTEND_DET_TH
        let s1 := s.endWindow c.val u k.val
        match s1.dirFind node with
        | none => s1
        | some i =>
          if th < alive ∨ th < aliveUp then
            let s2 := (s1.reached i).bump .slp 5
            let on_ := data || decide (th < aliveUp)
            let s3 := if on_ then s2.addAwake node else s2
            if on_ && s3.slpOn && decide (s3.slpState = slAwake) then s3.setSlp { s3.slp with stay := some (0, 0) } else s3
          else s1.sleeperMiss i node
      | none => s
    | none => s)

/-- The parameters of a sleeper's entry: group, period exponent and phase. -/
def State.sleeperRend (s : State) (i : Nat) : Nat × Nat × Nat :=
  let w := s.dirLe i 24 2
  (s.dirByte i 23, min 12 (w / 4096), w % 4096)

/-- The channel towards a sleeper. -/
def State.sleeperChan (s : State) (i : Nat) : Option Nat :=
  if s.dirRouteValid i then some (s.dirRouteCh i)
  else match s.choosePath (s.dirNode i) false none with | .to c _ _ => some c | _ => none

/-- Sleepers of the node that are due in a pair of a group on a channel in a superframe. -/
def State.dueSleepers (s : State) (c sf g j np : Nat) : List Nat :=
  s.dirAll.filter fun i =>
    let r := s.sleeperRend i
    s.dirSleeper i && decide (s.dirLe i 20 3 = s.ownNode) && decide (r.1 = g) &&
      decide (sf % 2 ^ r.2.1 = r.2.2 % 2 ^ r.2.1) && decide (s.dirNode i % np = j) && decide (s.sleeperChan i = some c)

/-- Whether frames are held for a node. -/
def State.holdsFor (s : State) (n : Nat) : Bool := s.net.frames.any fun f => match f.path with
  | some p => decide (p.2.1 = n) && decide (f.mode ≠ 3)
  | none => decide (f.mac.dst = n)

/-- The sleepers that a WAKE frame lists: those with frames first, then by oldest CONTACT. -/
def State.wakeList (s : State) (due : List Nat) : List (Nat × Bool) :=
  let l := (due.filter fun i => !s.dirUnreached i).map fun i => (s.dirNode i, s.holdsFor (s.dirNode i), s.dirLe i 28 6)
  let l1 := l.mergeSort fun a b => if a.2.1 = b.2.1 then decide (a.2.2 ≤ b.2.2) else a.2.1
  (l1.take 8).map fun e => (e.1, e.2.1)

/-- The payload of Table 09-3. -/
def State.wakePayload (s : State) (l : List (Nat × Bool)) : List Nat :=
  [l.length, min 255 s.deltaSelf] ++ leBytes 2 (s.fld .sch F.SCH_VER_IN_FORCE) ++
    l.flatMap fun e => leBytes 3 e.1 ++ [if e.2 then 128 else 0]

/-! The SLP page. -/

/-- The node stops sleeping. -/
def State.slpStop (s : State) : State :=
  ((((s.setSlpState slOff).setFld .slp F.SLP_STAT_MISS_RUN 0).setFld .slp F.SLP_STAT_ADRIFT_A 0).setFlag .slp F.SLP_STAT_CFG_ERR false).setSlp
    { s.slp with rend := none, ann := none, listed := none, stay := none, held := false, adrift := false, back := false }

/-- A write of `SLP_CFG`, `SLP_REND` or `SLP_PARENT` (R262, R266). -/
def slpParamWrite (off : Nat) (p : Page) (w : Word) (s : State) : State :=
  let s1 := applyWrite p off w s
  if s1.slpOn then
    if !s.slpOn then (s1.setSlpState slAwake).slpPlan.announce
    else if s.slpParams = s1.slpParams then s1.slpPlan
    else s1.slpPlan.announce
  else if s.slpOn then s1.slpStop else s1

/-- A write of `SLP_ANNOUNCE`. -/
def slpAnnounceWrite (_ : Page) (w : Word) (s : State) : State := if w.getLsbD 0 then s.announce else s

/-- ANNOUNCE_NOW: a write of `SLP_ANNOUNCE`. -/
def execAnnounceNow (q : Req) (s : State) : Host.Outcome State Fault Refusal := .next (writeWord q .slp 0x078 slpAnnounceWrite s)

def slpEffect (off : Nat) : Page → Word → State → State :=
  if off = 0x040 ∨ off = 0x044 ∨ off = 0x048 then slpParamWrite off
  else if off = 0x078 then slpAnnounceWrite
  else fun p w s => applyWrite p off w s

def State.slpView (s : State) (off : Nat) : Option Word :=
  match off with
  | 0x04C => some (F.SLP_DRIFT_PARENT_PPM.put (min 255 s.deltaPartner) (s.reg .slp off))
  | 0x074 => some (BitVec.ofNat 32 s.slpUsed)
  | _ => none

end Sys2Proof.Machine
end

