-- ==== Sys2Proof/Machine/Beacon.lean ====
section
/-! DEFINITION. Beacons (R193 to R195): the record, a node's acceptance of it (R252, R253), and received MAC frames as contacts. -/

set_option Elab.async false

namespace Sys2Proof.Machine

/-- The beacon record (Table 07-2). -/
structure Beacon where
  slot  : Nat
  epoch : Nat
  root  : Nat
  prio  : Nat
  prov  : Bool
  free  : Bool
  hop   : Nat
  ver   : Nat
  fig   : Nat
  ns    : Nat
  deriving DecidableEq, Repr

def Beacon.of (b : List Nat) : Beacon :=
  let x := b.getD 11 0
  ⟨leAt b 0 6 % 2 ^ 44, b.getD 6 0, leAt b 7 3, b.getD 10 0, bitOf x 7, bitOf x 6, x % 64, leAt b 12 2, b.getD 14 0 % 16, leAt b 15 3⟩

/-- Bytes 0 to 23. -/
def Beacon.body (b : Beacon) : List Nat :=
  leBytes 6 (b.slot % 2 ^ 44) ++ [b.epoch % 256] ++ leBytes 3 b.root ++
    [b.prio % 256, (if b.prov then 128 else 0) + (if b.free then 64 else 0) + b.hop % 64] ++ leBytes 2 b.ver ++ [b.fig % 16] ++
    leBytes 3 b.ns ++ List.replicate 6 0

/-- TAG under a beacon key. -/
def beaconTag (key body : List Nat) : List Nat := (cmac key body).take 8

/-- The beacon key, where it is held. -/
def State.beaconKey (s : State) : Option (List Nat) := s.macKey (s.fld .key F.KEY_DEV_BEACON)

/-- The schedule version and the figure index in force in a superframe. -/
def State.verIn (s : State) (sf : Nat) : Nat :=
  match s.line.sched.pend with
  | some v => if v.2.1 ≤ sf then v.1 else s.fld .sch F.SCH_VER_IN_FORCE
  | none => s.fld .sch F.SCH_VER_IN_FORCE
def State.figIn (s : State) (sf : Nat) : Nat :=
  match s.line.sched.figNext with
  | some (i, n) => if n = sf % 2 ^ 32 then i else s.fld .fig F.FIG_STAT_IDX
  | none => s.fld .fig F.FIG_STAT_IDX

/-- The record that the node sends in a slot. -/
def State.ownBeacon (s : State) (slot : Nat) : Beacon :=
  ⟨slot, s.epoch, s.fld .sch F.SCH_ROOT_NODE, s.fld .sch F.SCH_ROOT_PRIO, s.flag .sch F.SCH_CT_STAT_PROVISIONAL,
    s.flag .sch F.SCH_MODE_FREE_RUN, s.hop, s.verIn (slot / 64), s.figIn (slot / 64), s.slotNs % 2 ^ 24⟩

/-! Acceptance (R195, R252, R253). -/

/-- Whether FC, codeword, E_B, TAG and the mode hold. -/
def State.beaconGood (s : State) (x : BeaconIn) : Bool :=
  x.fcOk && x.cwOk && decide (512 ≤ x.bits) && decide (x.bytes.length = 32) &&
    (match s.beaconKey with | some k => decide (beaconTag k (x.bytes.take 24) = x.bytes.drop 24) | none => false) &&
    ((Beacon.of x.bytes).free == s.flag .sch F.SCH_MODE_FREE_RUN)

/-- How a root compares with the node's: better, the same, or worse. -/
inductive RootIs where
  | better | same | worse
  deriving DecidableEq, Repr

def State.compareRoot (s : State) (b : Beacon) : RootIs :=
  let prov := s.flag .sch F.SCH_CT_STAT_PROVISIONAL
  let prio := s.fld .sch F.SCH_ROOT_PRIO
  let root := s.fld .sch F.SCH_ROOT_NODE
  if b.root = root then .same
  else if b.prov != prov then (if prov then .better else .worse)
  else if b.prio ≠ prio then (if prio < b.prio then .better else .worse)
  else if b.root < root then .better else .worse

/-- What the node does with a good beacon. -/
inductive BeaconDo where
  | reject | ignore | first | follow | merge
  deriving DecidableEq, Repr

def State.beaconDo (s : State) (b : Beacon) : BeaconDo :=
  let own := decide (b.root = s.fld .sch F.SCH_ROOT_NODE)
  if !s.sync then .first
  else if s.isRoot && decide (s.part ≠ ptProv) then (if own then .ignore else .reject)
  else if s.part = ptLost then (if own && decide (b.epoch = s.epoch ∧ s.hop ≤ b.hop) then .ignore else .merge)
  else match s.compareRoot b with
    | .worse => .reject
    | .better => .merge
    | .same => if s.isRoot then .ignore else if b.epoch = s.epoch then .follow else .merge

/-- The parent's slot length and figure index; a root in grid-locked mode sets the one and the other (R195, R201). -/
def State.fromParent (s : State) (b : Beacon) : State :=
  let s1 := if s.flag .sch F.SCH_MODE_FREE_RUN then s else s.setFld .sch F.SCH_SLOT_LEN_NS b.ns
  if s1.fld .fig F.FIG_STAT_IDX = b.fig then s1
  else s1.setSched { s1.line.sched with figNext := some (b.fig, (s1.sf + 1) % 2 ^ 32) }

/-- A beacon of the time parent disciplines corridor time; while adrift its error is applied in full, and ends the procedure. -/
def State.parentBeacon (s : State) (c : Nat) (cfg : List Word) (x : BeaconIn) (b : Beacon) : State :=
  let s1 := (s.setParent c x.node b.hop).setSched { s.line.sched with parentSf := true }
  let s2 := (s1.discipline (s1.ctErr c x.node b.slot x.rx cfg) s1.adrift).fromParent b
  if s2.adrift then s2.adriftReturn else s2

/-- A good beacon that the node accepts. -/
def State.beaconIn (s : State) (c : Nat) (cfg : List Word) (x : BeaconIn) (how : BeaconDo) : State :=
  let b := Beacon.of x.bytes
  let s0 := ((s.bump .sch 0).setSched { s.line.sched with heardSf := true }).versionSeen b.ver
  match how with
  | .first =>
    let s1 := s0.fromParent b
    let ct := b.slot * 2 ^ 20 + s1.nsToCt (guardNs (cfgGet cfg F.CH_CFG_NUMER)) + x.elapsed
    let s2 := ({ (s1.setRoot b.root b.prio b.epoch b.prov) with ct := ct % 2 ^ 64 }).setParent c x.node b.hop
    let s3 := s2.setSched { s2.line.sched with parentSf := true, step := none, phase := 0 }
    (((s3.gainSync).setPart ptSynced).bump .sch 3).event .sch 7
  | .merge =>
    let old := s0.epoch
    let s1 := (s0.setRoot b.root b.prio b.epoch b.prov).setFlag .sch F.SCH_CT_STAT_IS_ROOT false
    (s1.parentBeacon c cfg x b).mergeStart old
  | .follow =>
    let s1 := (s0.setFld .sch F.SCH_ROOT_PRIO b.prio).setFlag .sch F.SCH_CT_STAT_PROVISIONAL b.prov
    let sleeps := s1.slpOn
    let parent := if sleeps then decide (x.node = s1.slpParent) || s1.adrift
      else decide (c = s1.fld .sch F.SCH_PARENT_CHANNEL ∧ x.node = s1.fld .sch F.SCH_PARENT_NODE)
    if parent then s1.parentBeacon c cfg x b
    else
      let y := s1.line.sched
      let new := (b.hop, c, x.node)
      s1.setSched { y with best := match y.best with
        | some o => if b.hop < o.1 ∨ (b.hop = o.1 ∧ c < o.2.1) then some new else some o
        | none => some new }
  | _ => s0

/-- BEACON_RX: a beacon received on a channel is rejected, ignored or accepted. -/
def execBeaconRx (c : Fin 64) (x : BeaconIn) (s : State) : Host.Outcome State Fault Refusal :=
  .next (
    match s.live c.val with
    | none => s
    | some cfg =>
      if !s.running then s
      else if !s.beaconGood x then s.bump .sch 2
      else match s.beaconDo (Beacon.of x.bytes) with
        | .reject => s.bump .sch 2
        | .ignore => s
        | how => (s.beaconIn c.val cfg x how).dispatch)

/-! MAC frames (R224, R274). -/

/-- A WAKE frame, under the device-frame key: its authentication is requested. -/
def State.wakeFrame (s : State) (r : MacRx) (m : Mac) (rx : Nat) : State :=
  let c := r.chan.val
  let s0 := if isUnicast m.ltx && decide (m.ltx ≠ s.ownNode) then s.setArq { s.arq c m.ltx with heard := true, quiet := 0 } else s
  match s0.rxKey m with
  | .slot k _ => if (s0.slot? k).isSome then (s0.askAuth { r with bytes := r.bytes.take m.len } m (some rx) k).dispatch else s0.bump .key 4
  | _ => s0.bump .key 4

/-- An authentic WAKE frame. -/
def State.wakeOpened (s : State) (r : MacRx) (m : Mac) (rx : Nat) (p : List Nat) : State :=
  let c := r.chan.val
  let s1 := (s.dirHeard m.src m.epoch (some (m.ltx, c))).sleeperHeard m.src
  let s2 := s1.contact c m.src rx
  if s2.wakeMine c m.src then s2.wakeIn p else s2

/-! Lanes end their requests. -/

/-- The authentication of a received frame ends: the frame is dropped and counted, or passes to the message service and is then
acknowledged (R337). -/
def State.authDone (s : State) (id : Nat) : State :=
  match s.net.auths.find? fun a => decide (a.id = id) with
  | none => s
  | some a =>
    let s0 : State := { s with net := { s.net with auths := s.net.auths.filter fun x => decide (x.id ≠ id) } }
    let m := Mac.of a.rx.bytes
    match s0.slot? a.key with
    | none => s0.bump .key 4
    | some x => match openFrame x a.rx.bytes with
      | none => s0.bump .cph 2
      | some p =>
        let s1 := s0.bump .cph 1
        match a.wake with
        | some rx => s1.wakeOpened a.rx m rx p
        | none =>
          let h := s1.opened a.rx m p
          (match h.1 with | .ok => h.2.ackTaken a.rx m | _ => h.2).retryPaths

/-- What a lane ran is complete; the lane is free. -/
def State.laneDone (s : State) (j : Nat) (wr : Bool) : State :=
  match (match s.laneRun j with | some r => (if s.outputWaits r then none else some r) | none => none) with
  | none => s
  | some r =>
    let s0 : State := { s with cph := { s.cph with lanes := s.cph.lanes.set j none } }
    -- how many blocks a request counts as is not stated
    let f := s0.freeNat
    let s1 := (f.2.bumpBy .cph 4 f.1).maskBlocks j f.1
    let s2 := match r.work with
      | .frame id _ _ k =>
        match s1.net.frames.find? fun (g : Frame) => decide (g.id = id), s1.slot? k with
        | some g, some x =>
          (s1.mapFrames fun h => if h.id = id then { h with bytes := protectFrame x g.hdr g.plain, st := .ready, since := s1.slot } else h).bump
            .cph 0
        | some g, none => s1.loseKey g
        | none, _ => s1
      | .auth id _ _ _ => s1.authDone id
      | .direct t d src => s1.directDone (Fin.ofNat 8 t) r d src wr
    s2.settleKeys.dispatch

/-- CIPHER_LANE_DONE: a lane ends its request; `wr` tells whether the host took the output. -/
def execCipherLaneDone (j : Fin 24) (wr : Bool) (s : State) : Host.Outcome State Fault Refusal :=
  .next (s.laneDone j.val wr).originate

/-- A frame decoded meanwhile is buffered, 256 of them at most. -/
def State.pauseFrame (s : State) (r : MacRx) (rx : Nat) : State :=
  if s.nvm.upd.kept.length < 256 then { s with nvm := { s.nvm with upd := { s.nvm.upd with kept := s.nvm.upd.kept ++ [(r, rx)] } } }
  else s.bump .upd 7

end Sys2Proof.Machine
end

