-- ==== Sys2Proof/Machine/Place.lean ====
section
/-! DEFINITION. The placement of frames in slots (R27 to R29, R200, R205, R238, R239, R307), and the transmissions that carry
them (R120, R127, R229, R307). -/

set_option Elab.async false

namespace Sys2Proof.Machine

/-! Frames in order. -/

/-- What a transmission of MAC frames carries (R215): a last gasp (FTYPE 7), copies of floods (FTYPE 5), or the rest. -/
inductive Carry where
  | gasp | flood | plain
  deriving DecidableEq, Repr

def Frame.carry (f : Frame) : Carry := if f.mac.mtype = 3 then .gasp else if f.mac.flood then .flood else .plain

/-- Class, then acknowledgements and the last gasp, then acceptance (R200). -/
def Frame.rank (f : Frame) : List Nat :=
  let a := match f.kind with | .seg m off => (m, off) | _ => (f.id, 0)
  [f.mac.prio, if f.front then 0 else 1, a.1, a.2]

def inOrder (l : List Frame) : List Frame := l.mergeSort fun a b => !lexLt b.rank a.rank

/-! Airtime (R307). -/

/-- The tenant that a frame's airtime is charged to. -/
def State.airTenant (s : State) (f : Frame) : Option (Fin 8) :=
  match f.kind with | .seg m _ => (s.msg? m).map (·.1) | _ => none

def State.air (s : State) (t : Fin 8) (c : Nat) : Nat × Int := (s.tenant t).air.getD c (1000, 0)
def State.setAir (s : State) (t : Fin 8) (c : Nat) (x : Nat × Int) : State :=
  s.setTenant t { s.tenant t with air := (s.tenant t).air.set c x }

/-- Whether airtime lets a frame be placed on a channel. -/
def State.airOk (s : State) (c : Nat) (f : Frame) : Bool :=
  match s.airTenant f with
  | some t => let a := s.air t c; decide (1000 ≤ a.1) || decide (0 < a.2)
  | none => true

/-- A channel's budget for a share in per mille. -/
def State.airBudget (s : State) (c : Nat) (share : Nat) : Int :=
  match s.live c with
  | none => 0
  | some cfg =>
    let base := s.slot / 64 * 64
    let nd := ((List.range 64).map fun i =>
      let e := s.entryAt c cfg (base + i)
      if decide (e.pos = 0) && decide (e.ty = tyTx ∨ e.ty = tyContend ∨ e.ty = tyReel) then
        (entrySymbols cfg e (s.setAt c cfg (base + i)) (e.len * s.nominalNs)).1 else 0).sum
    ((share * 16 * nd / 1000 : Nat) : Int)

/-- At a superframe boundary every remainder is replenished, and a written share takes effect. -/
def State.airReplenish (s : State) : State :=
  (List.finRange 8).foldl (fun s t =>
    (List.range 64).foldl (fun s c =>
      let old := s.air t c
      let share := s.fld (.tnt t) (F.TNT_AIR_SHARE.at c)
      if 1000 ≤ share then (if old = (1000, 0) then s else s.setAir t c (1000, 0))
      else
        let b := s.airBudget c share
        s.setAir t c (share, b + if 1000 ≤ old.1 then 0 else min 0 old.2)) s) s

/-! What a transmission offers one peer. -/

/-- An entry's carrier set, FC symbols and data symbols with their coded bits, the rate, and the diversity mode, towards a peer. -/
structure Room where
  set  : List Nat
  nFc  : Nat
  bits : List Nat
  rate : Nat
  div  : Nat
  deriving DecidableEq, Repr

def Room.cells (r : Room) : Nat := plainCells r.bits.length r.set
def Room.fits (r : Room) (lens : List Nat) : Bool := fitCount r.bits.sum r.rate r.div r.cells lens == lens.length

/-- The room of an entry towards a peer in a diversity mode; none where a diversity path finds no mode that the entry holds. -/
def State.room (s : State) (c : Nat) (cfg : List Word) (slot peer div : Nat) : Option Room :=
  let set := s.setAt c cfg slot
  let y := s.symbolsAt c cfg slot
  if y.1 = 0 then none
  else if div = 0 then some ⟨set, y.2, s.symbolBits c peer cfg slot (s.entryAt c cfg slot).len y.1 y.2 set, s.linkRate c peer, 0⟩
  else
    let d := divFor div (plainCells y.1 set)
    if d = 0 then none else some ⟨set, y.2, (List.range y.1).map fun t => 2 * cellsIn 12 1 t set, 0, d⟩

/-- A tenant's frame is charged, in units of 1/16 data symbol. -/
def State.airCharge (s : State) (c : Nat) (r : Room) (f : Frame) : State :=
  match s.airTenant f with
  | none => s
  | some t =>
    let a := s.air t c
    let w := payloadCws r.rate [f.bytes.length]
    let bf := if r.div = 0 then codedBits w.1 w.2.1 w.2.2 else 1152 * divCws (2 ^ r.div) r.cells (8 * f.bytes.length)
    let bs := (if r.div = 0 then r.bits.sum else r.cells) / max 1 r.bits.length
    if 1000 ≤ a.1 then s else s.setAir t c (a.1, a.2 - (ceilDiv (16 * bf) (max 1 bs) : Nat))

/-! Building a transmission. -/

/-- The FC of a transmission of MAC frames. -/
def carryFc (ftype train streams tmap : Nat) (anchor : Bool) (rate : Nat) (w : Nat × Nat × Nat) (div prio nd netid ttl : Nat) : Nat :=
  Fc.encode ⟨ftype, train, streams, tmap, anchor, rate, w.1, w.2.1, w.2.2, div, prio, nd, netid, ttl, 0⟩

/-- A transmission, not yet checked against the ledger. -/
def newTx (cfg : List Word) (slot : Nat) (e : Entry) (fc nFc : Nat) (set bits frames : List Nat) (bytes : List (List Nat)) (peer : Nat)
    (relay : Bool) : Tx :=
  { slot := slot, len := e.len, ty := e.ty, fc := fc, set := set, mask := maskOf cfg set, mute := 0, nFc := nFc, nd := bits.length, bits := bits,
    frames := frames, bytes := bytes, peer := peer, relay := relay, mini := 0, sym := 0, late := [] }

/-- The codewords that fill a number of coded bits (R120, R239). -/
def fillCws (bits : Nat) : Nat × Nat × Nat :=
  let n := bits / 6912
  let k := bits % 6912 / 1152
  if n = 0 then (0, k, 0) else (1, n, k)

/-- The transmission that carries frames to one peer. A relay's declares the capacity of its entry (R239). -/
def State.frameTx (s : State) (c : Nat) (cfg : List Word) (slot : Nat) (r : Room) (peer : Nat) (relay : Bool) (l : List Frame) : Tx :=
  let e := s.entryAt c cfg slot
  let lens := l.map fun f => f.bytes.length
  let fill := relay && decide (r.div = 0) && decide (1152 ≤ r.bits.sum)
  let w := if r.div ≠ 0 then (0, divCws (2 ^ r.div) r.cells (paddedBits 576 lens), 0)
    else if fill then fillCws r.bits.sum else payloadCws r.rate lens
  let nd := if r.div ≠ 0 then r.bits.length else symsFor r.bits (codedBits w.1 w.2.1 w.2.2)
  let map := if r.div = 0 then (s.link? c peer).bind (·.tx.cur) else none
  let ft := match (l.map Frame.carry).headD .plain with
    | .gasp => 7 | .flood => 5
    | .plain => if l.all fun f => decide (f.mac.mtype = 1) then 2 else 1
  let anchor := map.isSome && (s.link? c peer).any fun l => s.anchors l
  let streams := match map with | some m => s.txStreams cfg m - 1 | none => 0
  let ttl := (l.map fun f => f.bytes.getD 13 0 / 4).headD 0
  let fc := carryFc ft (e.len - 1) streams ((map.map (·.id)).getD 0) anchor r.rate w r.div ((l.map fun f => f.mac.prio).foldl min 3) nd
    (cfgGet cfg F.CH_CFG_NETID) ttl
  newTx cfg slot e fc r.nFc r.set (r.bits.take nd) (l.map (·.id)) (l.map (·.bytes)) peer relay

/-! The dwell check (R205). -/

/-- Sub-bands of a transmission that the ledger has exhausted. -/
def State.dwlMute (s : State) (c : Nat) (cfg : List Word) (x : Tx) : Nat :=
  let air := x.airUs (cfgGet cfg F.CH_CFG_NUMER) (cfgGet cfg F.CH_CFG_CP)
  if !s.dwlOn c then 0
  else (List.range 16).foldl (fun a b => if bitOf x.mask b && s.dwlFull c b air then a + 2 ^ b else a) 0

/-- Whether a transmission is exempt. -/
def State.dwlExempt (s : State) (c : Nat) (x : Tx) : Bool :=
  let f := Fc.decode x.fc
  s.dwlOn c && s.l4Flag .dwl F.DWL_CTRL_URGENT_EXEMPT && (decide (f.ftype = 7) || (decide (f.prio = 0) && decide (f.ftype ≠ 3 ∧ f.ftype ≠ 4)))

/-- A transmission with its exhausted sub-bands sent as zero; none where all of them are. -/
def State.dwlCheck (s0 : State) (c : Nat) (cfg : List Word) (x : Tx) : Option Tx × State :=
  let s := s0.dwlTry c x.mask (x.airUs (cfgGet cfg F.CH_CFG_NUMER) (cfgGet cfg F.CH_CFG_CP))
  if s.dwlExempt c x then (some x, s.bump .dwl 3)
  else
    let m := s.dwlMute c cfg x
    if m ≠ 0 ∧ m = x.mask then (none, s) else (some { x with mute := m }, s)

/-! Candidates (R200). -/

/-- Whether a node is a sleeper of this node's that sleeps: frames for it are held (R270). -/
def State.asleep (s : State) (n : Nat) : Bool :=
  match s.dirFind n with
  | some i => s.dirSleeper i && decide (s.dirLe i 20 3 = s.ownNode) && !s.slp.awake.contains n
  | none => false

/-- Whether shedding lets a frame be sent (R94, R240). -/
def State.stageLets (s : State) (prio : Nat) (fwd : Bool) : Bool :=
  !s.stageShed 4 && (!s.stageShed 2 || (decide (prio = 0) && !fwd))

/-- Whether a frame that awaits placement can go in an entry of a channel; `late`: only one that the node forwards (R28). -/
def State.eligible (s : State) (c : Nat) (e : Entry) (late : Bool) (f : Frame) : Bool :=
  let fwd := decide (f.kind = .fwd)
  decide (f.st = .ready ∧ f.mode ≠ 4) && (!late || fwd) && s.stageLets f.mac.prio fwd &&
    (decide (e.ty ≠ tyContend) || decide (f.mac.prio ≤ e.arg % 4)) &&
    match f.path with
    | some p => decide (p.1 = c) && !s.asleep p.2.1
    | none => decide (e.ty = tyContend) && f.copies.contains c

/-- Peer and diversity mode that a frame goes to. -/
def Frame.way (f : Frame) : Nat × Nat := match f.path with | some p => p.2 | none => (0xFFFFFF, 0)

/-- The first frame that decides a transmission, with the room that it has. -/
def State.lead (s : State) (c : Nat) (cfg : List Word) (slot : Nat) (l : List Frame) : Option (Frame × Room) :=
  l.findSome? fun f =>
    if !s.airOk c f then none
    else match s.room c cfg slot f.way.1 f.way.2 with
      | some r => if r.fits [f.bytes.length] then some (f, r) else none
      | none => none

/-- Frames in order while they fit; each is charged. -/
def State.take (s : State) (c : Nat) (r : Room) (got : List Frame) : List Frame → List Frame × State
  | [] => (got, s)
  | f :: fs =>
    if !s.airOk c f then s.take c r got fs
    else if r.fits ((got ++ [f]).map fun g => g.bytes.length) then (s.airCharge c r f).take c r (got ++ [f]) fs
    else (got, s)

/-- A frame takes its link header: LTX and, once for each link, the next LSEQ (R216, R238). Acknowledgements and one-hop copies carry
LSEQ 0. -/
def State.stamp (s : State) (f : Frame) : Frame × State :=
  match f.path with
  | some p =>
    if f.mac.mtype = 1 then ({ f with bytes := putLink f.bytes s.ownNode 0 }, s)
    else match f.lseq with
      | some q => ({ f with bytes := putLink f.bytes s.ownNode q }, s)
      | none =>
        let a := s.arq p.1 p.2.1
        let q := a.out % 65536
        ({ f with bytes := putLink f.bytes s.ownNode q, lseq := some q }, s.setArq { a with out := (q + 1) % 65536 })
  | none => ({ f with bytes := putLink f.bytes s.ownNode 0 }, s)

def State.stampAll (s : State) (l : List Frame) : List Frame × State :=
  l.foldl (fun a f => let r := a.2.stamp f; (a.1 ++ [r.1], r.2)) ([], s)

/-- Frames are placed for a slot. A one-hop frame stays with its other channels. -/
def State.setPlaced (s : State) (slot : Nat) (l : List Frame) : State :=
  l.foldl (fun s f => s.putFrame { f with st := .placed slot }) s

/-- Whether a channel's transmission in an entry can be prepared ahead: not where a superframe that begins brings new settings. -/
def State.settled (s : State) (c slot : Nat) : Bool :=
  decide (slot / 64 = s.slot / 64) || ((s.chan c).next.isNone && !(s.chan c).stop)

/-- Frames are placed in an entry of a channel: the transmission prepared, with its jobs. -/
def State.placeIn (s : State) (c : Nat) (cfg : List Word) (slot : Nat) (late : Bool) : Option Tx × State :=
  let e := s.entryAt c cfg slot
  if !decide (e.ty = tyTx ∨ e.ty = tyContend) || decide (e.pos ≠ 0) || !s.mayTx cfg || !s.settled c slot then (none, s)
  else
    let l := inOrder (s.net.frames.filter (s.eligible c e late))
    match s.lead c cfg slot l with
    | none => (none, s)
    | some (f, r) =>
      let same := l.filter fun g => decide (g.way = f.way ∧ g.carry = f.carry)
      let t := s.take c r [] same
      let x0 := s.frameTx c cfg slot r f.way.1 late t.1
      match s.dwlCheck c cfg x0 with
      | (none, s1) => (none, s1.deferTx c)
      | (some y, _) =>
        let st := (t.2.dwlCheck c cfg x0).2.stampAll t.1
        let x : Tx := { y with bytes := st.1.map (·.bytes) }
        (some x, (st.2.setPlaced slot st.1).addTxJobs c cfg x)

/-- At the start of a slot the frames that wait are placed for the next one (R27). -/
def State.placeNext (s : State) : State :=
  (List.range 64).foldl (fun s c =>
    match s.live c with
    | some cfg => if (s.chan c).later.isSome then s else
        let r := s.placeIn c cfg (s.slot + 1) false
        match r.1 with
        | some x => r.2.setChan c { r.2.chan c with later := some x }
        | none => s |> fun _ => r.2
    | none => s) s

/-! Frames on the air. -/

/-- The records of a last gasp's first transmission (R402). -/
def State.gaspSent (s : State) : State :=
  if s.mains.lgSent then s
  else
    let s1 : State := { s with mains := { s.mains with lgSent := s.mains.lgOpen } }
    (((s1.setFlag .mns F.MNS_STAT_LG_SENT s.mains.lgOpen).event .mns 1).event .pwr 5).bump .pwr 5

/-- The first transmission that carries a segment of a message is a sample of SUBMIT_TX. -/
def State.firstSent (s : State) (m atCt : Nat) : State :=
  match s.msg? m with
  | some (t, x) =>
    if x.sent then s
    else
      let s1 := s.setTenant t { s.tenant t with msgs := (s.tenant t).msgs.map fun y => if y.id = m then { y with sent := true } else y }
      s1.histTimed 1 ⟨some t.val, x.prio, 0, false⟩ x.at_ (s1.ctSpan x.at_ atCt / 2 ^ 20 / 100)
  | none => s

/-- What one frame's transmission changes: its count, and the counters of R249, R256 and Table 10-9. -/
def State.frameSent (s : State) (atCt : Nat) (f : Frame) : State :=
  let s1 := s.putFrame { f with tries := f.tries + 1 }
  let first := decide (f.tries = 0)
  let s2 := match f.kind with
    | .seg m _ => let t := s1.firstSent m atCt
      if first then t else match t.msg? m with | some (k, _) => t.bump (.tnt k) 7 | none => t
    | .fwd => if first then s1.bump .rly 5 else s1
    | .dev => if f.mac.mtype = 3 ∧ f.mac.src = s.ownNode then s1.gaspSent else s1
  let node := fun (s : State) (n k w : Nat) => match s.dirFind n with | some i => s.dirCount i k w | none => s
  let s3 := if first && decide (f.kind ≠ .fwd) then node s2 f.mac.dst 40 4 else s2
  match f.path with
  | some p =>
    let s4 := if first then s3 else node s3 p.2.1 44 2
    match s4.link? p.1 p.2.1 with
    | some l => s4.setLink { l with usedSf := s4.sf }
    | none => s4
  | none => s3

/-- Whether shedding lets a prepared transmission go out: the stages in force when it starts govern it (R19, R94). From stage 2 on it
carries P0 frames alone, none of them forwarded or relayed. -/
def State.stageTx (s : State) (x : Tx) : Bool :=
  !s.stageShed 4 && (!s.stageShed 2 || (!x.relay && decide ((Fc.decode x.fc).ftype ≠ 3 ∧ (Fc.decode x.fc).ftype ≠ 4) &&
    ((x.bytes.all fun b => decide ((Mac.of b).prio = 0)) || decide ((Fc.decode x.fc).ftype = 6)) &&
    (x.frames.filterMap s.frame?).all fun f => s.stageLets f.mac.prio (decide (f.kind = .fwd))))

/-- A prepared transmission goes on the air, where the channel may still transmit; else its frames wait again. DESIGN CHOICE (log
226): they wait too where a notch that comes into force with the slot has changed the carrier set that it was prepared for. -/
def State.sendTx (s : State) (c : Nat) (cfg : List Word) (x : Tx) : State :=
  if !s.mayTx cfg || !s.stageTx x || decide (x.set ≠ s.setAt c cfg x.slot) then
    let s1 := s.giveUp c x
    s1.setChan c { s1.chan c with prep := none }
  else
    let n := cfgGet cfg F.CH_CFG_NUMER
    let first := x.slot * 2 ^ 20 + s.nsToCt (entryGuardNs n false + if x.ty = tyContend then 4 * windowNs n + x.mini * miniNs n else 0)
    let s1 := s.launch c cfg x
    let s2 := (x.frames.filterMap s1.frame?).foldl (fun s f => s.frameSent first f) s1
    if x.frames = [] then s2 else s2.stayUsed

/-! Contention (R208). -/

/-- Whether SY1 was detected on a channel more than 16 µs (1 µs on W-band) before mini-slot `k` of the slot in progress (R207). -/
def State.heardBefore (s : State) (c : Nat) (cfg : List Word) (k : Nat) : Bool :=
  let n := cfgGet cfg F.CH_CFG_NUMER
  s.rxNow c && (s.chan c).rx.any fun r =>
    decide (r.at_ + s.nsToCt (if n = 2 then 1000 else 16000) < s.slot * 2 ^ 20 + s.nsToCt (guardNs n + 4 * windowNs n + k * miniNs n))

/-- BACKOFF_MINISLOT: mini-slot `k` of a CONTEND slot arrives: the node that drew it starts, unless SY1 was detected before. -/
def execBackoffMinislot (c : Fin 64) (k : Fin 8) (s : State) : Host.Outcome State Fault Refusal :=
  .next (
    match s.contending c.val, (s.chan c.val).won with
    | some (cfg, x), some (_, d) =>
      if s.heardBefore c.val cfg k.val then s.deferContend c.val
      else if d = k.val then
        let s1 := s.sendTx c.val cfg { x with mini := k.val }
        s1.setChan c.val { s1.chan c.val with won := none }
      else s
    | _, _ => s)

/-! A relay's frames that come late (R28, R239). -/

/-- A frame takes codewords of a relay's transmission on air, if enough of them are left. Codewords passed over hold no frame. -/
def State.fillRelay (s : State) (c : Nat) (cfg : List Word) (x : Tx) (f : Frame) : Option State :=
  let from_ := max (positionsOf x.infos x.bytes) x.openPos
  let k := from_ - positionsOf x.infos x.bytes
  let bytes := x.bytes ++ List.replicate k [0] ++ [f.bytes]
  if x.relay && decide ((Fc.decode x.fc).div = 0) && decide (positionsOf x.infos bytes ≤ x.infos.length) then
    let r := s.stamp f
    let y : Tx := { x with bytes := x.bytes ++ List.replicate k [0] ++ [r.1.bytes], frames := x.frames ++ List.replicate k 0 ++ [f.id] }
    let upto := positionsOf x.infos y.bytes
    let s1 := ((r.2.putFrame { r.1 with st := .placed x.slot }).setChan c { r.2.chan c with tx := some y }).refill c cfg y from_ upto
    some ((s1.emit (.fill c from_ ((y.coded.drop from_).take (upto - from_)))).frameSent s.ct { r.1 with st := .placed x.slot })
  else none

/-- Frames in order take what is left of a relay's transmission on air: one that does not fit holds back those of its class (R29). -/
def State.fillAll (s : State) (c : Nat) (cfg : List Word) (held : List Nat) : List Frame → State
  | [] => s
  | f :: fs =>
    match (s.chan c).tx with
    | none => s
    | some x =>
      if held.contains f.mac.prio then s.fillAll c cfg held fs
      else match s.fillRelay c cfg x f with
        | some s1 => s1.fillAll c cfg held fs
        | none => s.fillAll c cfg (f.mac.prio :: held) fs

/-- Frames that the node forwards go in the slot in progress: with a transmission prepared for it, in one that begins now, or in
the empty codewords of one on air. `start`: the slot is at its start. -/
def State.relayChan (s : State) (c : Nat) (start : Bool) : State :=
  match s.live c with
  | none => s
  | some cfg =>
    let e := s.entryAt c cfg s.slot
    let ch := s.chan c
    if !decide (e.ty = tyTx ∨ e.ty = tyContend) || !s.mayTx cfg then s
    else match ch.tx, ch.prep with
    | some x, _ =>
      if x.ty ≠ tyTx ∨ !x.relay then s
      else s.fillAll c cfg [] (inOrder (s.net.frames.filter fun f => s.eligible c e true f && decide (f.way.1 = x.peer) &&
          decide (f.carry = .plain)))
    | none, some x =>
      if !start || decide ((Fc.decode x.fc).ftype ≠ 1) then s
      else
        let held := x.frames.filterMap s.frame?
        let more := s.net.frames.filter fun f => s.eligible c e true f && decide (f.way.1 = x.peer ∧ f.carry = .plain) &&
          decide (f.way.2 = 0) && decide ((Fc.decode x.fc).div = 0)
        match s.room c cfg s.slot x.peer 0 with
        | some r =>
          if more = [] then s
          else
            let t := s.take c r held (inOrder more)
            let st := t.2.stampAll (inOrder t.1)
            let y : Tx := { s.frameTx c cfg s.slot r x.peer true st.1 with mute := x.mute, late := x.late }
            let s1 := ((st.2.setPlaced s.slot st.1).dropTxJobs c s.slot).addTxJobs c cfg y
            s1.setChan c { s1.chan c with prep := some y }
        | none => s
    | none, none =>
      let n := cfgGet cfg F.CH_CFG_NUMER
      if !start && !decide (e.ty = tyTx ∧ s.ct % 2 ^ 20 ≤ s.nsToCt (guardNs n)) then s
      else
        let r := s.placeIn c cfg s.slot true
        match r.1 with
        | none => r.2
        | some x =>
          let s1 := r.2.setChan c { r.2.chan c with prep := some x }
          if start then s1 else s1.sendTx c cfg x

/-! Floods in REEL entries (R229, R230, R235). -/

/-- The transmission of a flood in a REEL entry, if the entry carries it. -/
def State.reelTx (s : State) (c : Nat) (cfg : List Word) (slot : Nat) (x : Flood) : Option Tx :=
  let e := s.entryAt c cfg slot
  let set := s.setAt c cfg slot
  let y := s.symbolsAt c cfg slot
  let div := s.fld .rly F.RLY_REEL_DIV
  let bits := (List.range y.1).map fun t => 2 * cellsIn 12 1 t set
  let len := x.bytes.length
  if fitCount bits.sum 0 div (plainCells y.1 set) [len] ≠ 1 then none
  else
    let w := if div = 0 then payloadCws 0 [len] else (0, divCws (2 ^ div) (plainCells y.1 set) (8 * len), 0)
    let nd := if div = 0 then symsFor bits (codedBits w.1 w.2.1 w.2.2) else y.1
    let fc := carryFc 5 (e.len - 1) 0 0 false 0 w div x.prio nd (cfgGet cfg F.CH_CFG_NETID) x.ttl
    some (newTx cfg slot e fc y.2 set (bits.take nd) [] [x.bytes] 0xFFFFFF false)

/-- The first flood of a list, by class, first decode and SRC. -/
def firstFlood (l : List Flood) : Option Flood :=
  let key := fun (f : Flood) => [f.prio, f.first, f.src]
  l.foldl (fun (a : Option Flood) f => match a with
    | none => some f
    | some b => if lexLt (key f) (key b) then some f else some b) none

/-- The floods that may go on a channel of the reel set. -/
def State.reelList (s : State) (c : Nat) : List Flood :=
  s.net.floods.filter fun f => decide (f.st = .eligible) && f.mir && f.left.contains c && s.stageLets f.prio f.seg.isNone

/-- The flood that the node relays in a REEL entry of a channel: `now` admits floods that were first decoded in this slot. -/
def State.reelPick (s : State) (c : Nat) (now : Bool) : Option Flood :=
  firstFlood ((s.reelList c).filter fun f => f.seg.isNone && (now || decide (f.age < s.line.sched.slotN)))

/-- The flood of the node's own that a coming REEL entry of a channel is prepared for: one that was protected before this slot (R27). -/
def State.reelOwn (s : State) (c : Nat) : Option Flood :=
  firstFlood ((s.reelList c).filter fun f => f.seg.isSome && decide (f.age < s.line.sched.slotN))

/-- A flood is done with on one more channel of the reel set; on the last, it is SENT (Table 08-2). -/
def State.reelOff (s : State) (c : Nat) (x : Flood) : State :=
  let y : Flood := { x with left := x.left.filter (· ≠ c) }
  if y.left = [] then
    (if y.ttl = 0 then s.floodDone { y with st := .done, acked := true } else s.setFlood { y with st := .sent, waited := 0 })
  else s.setFlood y

/-- A flood has been sent on a channel. -/
def State.reelSent (s : State) (c : Nat) (x : Flood) : State :=
  let s1 := if x.seg.isNone then s.bump .rly 0 else s
  let s2 := match x.seg.bind s1.frame? with
    | some f => match f.kind with
      | .seg m _ => s1.firstSent m (s1.ct + s1.nsToCt 500000)
      | _ => s1
    | none => s1
  s2.reelOff c x

/-- Whether a channel may send in a REEL entry of a slot. -/
def State.reelMay (s : State) (c : Nat) (cfg : List Word) (slot : Nat) : Bool :=
  let e := s.entryAt c cfg slot
  decide (e.ty = tyReel ∧ e.pos = 0) && s.mayTx cfg && s.reelChans.contains c && s.feat 6

/-- A REEL entry begins on a channel, or is under way before its first data symbol: the device relays a flood. One that every sub-band
refuses is dropped and counted (R205). -/
def State.reelSlot (s : State) (c : Nat) (now : Bool) : State :=
  match s.live c with
  | none => s
  | some cfg =>
    if !s.reelMay c cfg s.slot || (s.chan c).tx.isSome then s
    else match s.reelPick c now with
    | none => s
    | some f => match s.reelTx c cfg s.slot f with
      | none => s
      | some x => match s.dwlCheck c cfg x with
        | (some y, s1) => (((s1.dropTxJobs c s.slot).addTxJobs c cfg y).sendTx c cfg y).reelSent c f
        | (none, s1) => (s1.bump .dwl 2).reelOff c f

/-- What a frame that has just been decoded lets the node send in the slot in progress: frames of an earlier slot go on in this one
(R28, R230). -/
def State.relayNow (s : State) (rxSlot : Nat) : State :=
  if s.slot ≤ rxSlot || s.inPause then s
  else (List.range 64).foldl (fun s c =>
    match s.live c with
    | none => s
    | some cfg =>
      let e := s.entryAt c cfg s.slot
      let n := cfgGet cfg F.CH_CFG_NUMER
      let data := s.nsToCt (symAtNs n (cfgGet cfg F.CH_CFG_CP) false (s.symbolsAt c cfg s.slot).2 e.len s.slotNs (1 + (s.symbolsAt c cfg s.slot).2))
      if e.ty = tyReel then (if s.ct % 2 ^ 20 + s.nsToCt (tlNs n) ≤ data then s.reelSlot c true else s)
      else s.relayChan c false) s

/-! MAC frames received (R224, R274). -/

/-- A link carries a frame: it is in use, and the outcomes of codewords that waited for a frame to name their link are its (R152, R155). -/
def State.linkUsed (s : State) (l : Link5) : State :=
  let x := s.chan l.chan
  (s.setLink { x.cwHeld.2.foldl (fun (l : Link5) e => l.count e.1 e.2) l with usedSf := s.sf }).setChan l.chan { x with cwHeld := (0, []) }

/-- A MAC frame decoded on a channel. A frame that the parent of a sleeper sent is a contact. -/
def State.macFrame (s : State) (r : MacRx) (rx : Nat) : State :=
  let m := Mac.of r.bytes
  let c := r.chan.val
  if m.mtype = 4 then
    if !s.serving || !isUnicast s.ownNode then s
    else if !s.macOk r m then s.macDrop
    else if !s.epochOk m.epoch then s.bump .rly 7
    else s.wakeFrame r m rx
  else
    let s1 := match s.link? c m.ltx with | some l => s.linkUsed l | none => s
    ((s1.contact c m.ltx rx).stayUsed.frameIn r).relayNow (r.at_ / 2 ^ 20)

/-- MAC_FRAME_RX: a MAC frame decoded on a channel, the first sample of its transmission at `rx`. While the processors restart in
the pause of an activation it is buffered (R488). -/
def execMacFrameRx (r : MacRx) (rx : Nat) (s : State) : Host.Outcome State Fault Refusal :=
  .next (
    if !s.running || (s.live r.chan.val).isNone then s
    else if s.restarting then s.pauseFrame r rx
    else s.macFrame r rx)

end Sys2Proof.Machine
end

