-- ==== Sys2Proof/Machine/Twin.lean ====
section
/-! DEFINITION. The twin pair (R364 to R377): election, heartbeats, mirroring, takeover and swap. -/

set_option Elab.async false

namespace Sys2Proof.Machine

def State.setTwn (s : State) (x : Twin) : State := { s with twn := x }

/-- The states of Table 12-4. -/
def twAlone : Nat := 0
def twPrimary : Nat := 1
def twJoining : Nat := 2
def twStandby : Nat := 3
def twSevered : Nat := 4
def State.twState (s : State) : Nat := s.fld .twn F.TWN_STAT_STATE

/-- Whether the device is one of a pair (R366). -/
def State.twnOn (s : State) : Bool := s.feat 14 && s.enabled .twn && s.flag .twn F.TWN_CFG_EN

/-- A word of an image slot; a slot holds 0x60_0000 bytes (Table 16-4). -/
def State.imgWord (s : State) (slot k : Nat) : Nat := (storeGet (0 : Word) s.nvm.img (slot * 0x180000 + k)).toNat

/-- The mirror protocol version of the running image, and the version that a pair mirrors at, if any (R377). -/
def State.proto (s : State) : Nat := s.imgWord s.nvm.running 5 % 256
def State.protoWith (s : State) (v : Nat) : Option Nat :=
  if s.proto ≤ v + 1 ∧ v ≤ s.proto + 1 then some (min s.proto v) else none

/-- The digest over accepted features and admitted configuration (R370). -/
def State.digest (s : State) : Nat :=
  Config.cfgDigest (s.accepted :: (List.range 64).flatMap fun c => match s.live c with
    | some cfg => c :: (cfg ++ s.table c).map (·.toNat)
    | none => [])

/-- A role change: its event and records. -/
def State.role (s : State) (st : Nat) (cause : Option Nat) : State :=
  let s1 := ((s.setFld .twn F.TWN_STAT_STATE st).setFld .twn F.TWN_LAST_SLOT_LO_SLOT s.slot).setFld .twn F.TWN_LAST_SLOT_HI_SLOT (s.slot / 2 ^ 32)
  let s2 := match cause with | some c => s1.setFld .twn F.TWN_LAST_CAUSE c | none => s1
  s2.event .twn 6

/-- No swap is pending (R375). -/
def State.noSwap (s : State) : State :=
  ((s.setTwn { s.twn with swap := none }).setFld .twn F.TWN_SWAP_SF_SF 0).setFlag .twn F.TWN_CMD_BUSY false

/-- Prepared transmissions are given up. -/
def State.unprepare (s : State) : State := s.replaceAll (2 ^ 60)

/-! What waits for the partner (R369). -/

/-- An action that has waited proceeds. -/
def State.resume (s : State) : Await → State
  | .desc t q d poison => (s.acceptDesc (Fin.ofNat 8 t) q d poison).dispatch.originate.quotas.issueFetch
  | .ack c peer lseq cls => (s.addAck c peer lseq cls).dispatch
  | .flood src seq epoch => match s.flood? src seq epoch with
    | some x => s.setFlood { x with mir := true }
    | none => s
  | .comp t id =>
    let x := s.tenant (Fin.ofNat 8 t)
    s.setTenant (Fin.ofNat 8 t) { x with comps := x.comps.map fun c => if c.id = id then { c with mir := true } else c }
  | .deliv t =>
    let x := s.tenant (Fin.ofNat 8 t)
    s.setTenant (Fin.ofNat 8 t) { x with deliv := x.deliv.map fun d => { d with mir := true } }

/-- Actions proceed, oldest first. -/
def State.resumeList (s : State) (l : List (Nat × Nat × Await)) : State := l.foldl (fun s a => s.resume a.2.2) s

/-- There is no standby any more: every action proceeds. -/
def State.resumeAll (s : State) : State := (s.setTwn { s.twn with await := [] }).resumeList s.twn.await

/-- A primary goes on alone. -/
def State.goAlone (s : State) (cause : Option Nat) : State :=
  (((s.setTwn { s.twn with sever := false }).noSwap).role twAlone cause).resumeAll

/-- A device joins: it begins a copy. -/
def State.join (s : State) (cause : Option Nat) : State :=
  let s1 := (s.setTwn { s.twn with take := none, await := [] }).noSwap.unprepare
  ((s1.setFld .twn F.TWN_SYNC_PROGRESS 0).role twJoining cause).bump .twn 7

/-- Every tenant starts from reset values (R374). -/
def State.tenantsAnew (s : State) : State :=
  (List.finRange 8).foldl (fun s t => (s.startTenantReset t).setFlag (.tnt t) F.TNT_MSTAT_RESETTING false) s

/-- A device that has not finished joining is on its own (R374). -/
def State.partialAlone (s : State) : State := ((s.tenantsAnew.setFlag .twn F.TWN_STAT_PARTIAL true).role twAlone (some 2))

/-! Takeover (R373). -/

/-- Whether a frame is in a transmission that this device has prepared. -/
def State.prepared (s : State) (id : Nat) : Bool :=
  (List.range 64).any fun c => let x := s.chan c; (x.prep.toList ++ x.later.toList).any fun t => t.frames.contains id

/-- What happens to a frame of the mirrored state at a takeover: one sent counts as sent in the takeover slot, one placed by the
old primary is placed again, and one under protection is protected anew. -/
def State.takeFrame (s : State) (f : Frame) : State :=
  match f.st with
  | .sent _ => s.putFrame { f with st := .sent s.slot }
  | .placed _ => if f.flooded || s.prepared f.id then s else s.putFrame { f with st := .ready, since := s.slot }
  | .enc | .key => s.keyFrame f
  | _ => s

/-- Service resumes from the mirrored state: counters after what is reserved, frames, host accesses, and completions and deliveries that
were not reported as written. -/
def State.takeState (s : State) : State :=
  let s1 : State := { s with
    cph := { s.cph with nonce := s.cph.limit, reserving := true, lanes := List.replicate 24 none, wait := [] }
    net := { s.net with fetch := none, nums := s.net.numRes, auths := [] } }
  let s2 := s1.net.frames.foldl (fun s f => s.takeFrame f) s1
  let s3 := (List.finRange 8).foldl (fun s t =>
    let x := s.tenant t
    (s.setTenant t { x with
      comps := x.comps.map fun c => { c with mir := true }, deliv := x.deliv.map fun d => { d with mir := true } }).readAgain t) s2
  { s3 with net := { s3.net with floods := s3.net.floods.map fun f => { f with mir := true } } }

/-- The device takes over. -/
def State.takeover (s : State) (cause : Nat) : State :=
  let s1 := ((s.setTwn { s.twn with take := none, took := some (s.ct, s.line.spx.turn) }).noSwap).takeState
  let s2 := (s1.role twAlone (some cause)).resumeAll
  (((s2.event .twn 5).bump .twn 2).dispatch.originate).issueFetch

/-- At a slot boundary a takeover that is due happens, or a primary that has lost the link falls silent (R372). -/
def State.twinSlot (s : State) : State :=
  match s.twn.take with
  | some (cause, since) => if since ≤ s.ct then s.takeover cause else s
  | none =>
    if s.twn.sever then
      if s.twState = twPrimary then
        ((((s.setTwn { s.twn with sever := false }).noSwap).unprepare).role twSevered (some 1)).event .twn 4
      else s.setTwn { s.twn with sever := false }
    else s

/-- At the boundary of its superframe a swap exchanges the roles (R376). -/
def State.swapBoundary (s : State) : State :=
  match s.twn.swap with
  | none => s
  | some sf =>
    if sfOf s.ct < sf then s
    else
      let s1 := s.noSwap.bump .twn 3
      if s.twState = twPrimary then ((s1.setTwn { s1.twn with await := [] }).unprepare).role twStandby (some 3)
      else if s.twState = twStandby then ((((s1.takeState).role twPrimary (some 3)).event .twn 5).dispatch.originate).issueFetch
      else s1

/-- Whether the device prepares transmissions for the next slot: as it serves, but for a change of roles that has been decided. -/
def State.twinPrepares (s : State) : Bool :=
  if s.twn.sever then false
  else match s.twn.take, s.twn.swap with
    | some _, _ => true
    | none, some sf => if (s.slot + 1) / 64 < sf then s.serving else decide (s.twState = twStandby)
    | none, none => s.serving

/-- A silent device that prepares does so as one that serves. -/
def State.asServing (s : State) (f : State → State) : State :=
  let st := s.twState
  if st ≤ twPrimary then f s else (f (s.setFld .twn F.TWN_STAT_STATE twAlone)).setFld .twn F.TWN_STAT_STATE st

/-! Election (R367). -/

/-- The listening of an election begins: once in a boot, with the features locked and twin operation on. -/
def State.electStart (s : State) : State :=
  if s.twnOn && !s.twn.elected && !s.twn.listen then s.setTwn { s.twn with listen := true, hbOk := false } else s

/-- TWIN_ELECTION: the 2 ms of listening have passed; `high`: the level of PEER_OK. -/
def execTwinElection (high : Bool) (s : State) : Host.Outcome State Fault Refusal :=
  .next (
    if !s.twn.listen then s
    else
      let s1 := s.setTwn { s.twn with listen := false, elected := true, peerOk := high }
      match if s.twn.hbOk then s.twn.beat else none with
      | some b =>
        let pref := s.flag .twn F.TWN_CFG_PRIMARY_PREF
        let win := if pref != b.pref then pref else decide (s.chip.devId < b.devId)
        if b.serving || !win then s1.join (some 4) else s1.role twAlone (some 4)
      | none => if high then (s1.role twSevered (some 4)).event .twn 4 else s1.role twAlone (some 4))

/-- The device is on its own: neither election nor role. -/
def State.twnOff (s : State) : State :=
  let x : Twin := { s.twn with listen := false, elected := false, take := none, sever := false, beat := none, hbOk := false }
  let s2 := (s.setTwn x).noSwap
  if s2.twState = twAlone then s2 else (s2.role twAlone none).resumeAll

/-- A write of `TWN_CFG`: without EN the device is on its own (R366). -/
def twnCfgWrite (p : Page) (w : Word) (s : State) : State :=
  let s1 := applyWrite p 0x040 w s
  if s1.flag .twn F.TWN_CFG_EN then s1.electStart else s1.twnOff

/-! Heartbeats (R371, R372). -/

/-- The heartbeat as it stands. -/
def State.ownBeat (s : State) : Beat :=
  { state := s.twState, serving := s.serving, ct := s.ct, slotN := s.line.sched.slotN, sfN := s.line.sched.sfN, seq := s.twn.rxSeq
    proto := s.proto, digest := s.digest, devId := s.chip.devId, pref := s.flag .twn F.TWN_CFG_PRIMARY_PREF, iso := s.isolated .twn
    epoch := s.epoch, root := s.fld .sch F.SCH_ROOT_NODE, prio := s.fld .sch F.SCH_ROOT_PRIO
    prov := s.flag .sch F.SCH_CT_STAT_PROVISIONAL, parentCh := s.fld .sch F.SCH_PARENT_CHANNEL
    parent := s.fld .sch F.SCH_PARENT_NODE, hop := s.hop, slotNs := s.slotNs }

/-- HEARTBEAT_TX: 250 µs have passed. `high`: PEER_OK has been high for its debounce; `lanes`: the lanes that are up; `replays`: link
frames replayed since the last heartbeat. -/
def execHeartbeatTx (high : Bool) (lanes : Fin 4) (replays : Nat) (s : State) : Host.Outcome State Fault Refusal :=
  .next (
    if !s.twnOn || !s.running then s
    else
      let s1 := (s.setTwn { s.twn with peerOk := s.twn.peerOk || high, lanes := lanes.val }).bumpBy .twn 6 replays
      if s.isolated .twn || decide (lanes.val = 0) then s1 else (s1.emit (.heartbeat s1.ownBeat)).bump .twn 0)

/-- A joiner or standby follows the primary's time (Table 12-5). -/
def State.followBeat (s : State) (b : Beat) : State :=
  let s1 : State :=
    if s.sync then (if b.ct / 2 ^ 20 = s.slot then { s with ct := b.ct } else s)
    else { s with ct := b.ct }
  let x := s1.line.sched
  let s2 := s1.setSched (if s1.slot = b.ct / 2 ^ 20 then { x with slotN := b.slotN, sfN := b.sfN, due := if s.sync then x.due else false } else x)
  let s3 := ((s2.setRoot b.root b.prio b.epoch b.prov).setFlag .sch F.SCH_CT_STAT_IS_ROOT (decide (b.root = s2.ownNode))).setFld .sch
    F.SCH_SLOT_LEN_NS b.slotNs
  (((s3.setFld .sch F.SCH_PARENT_CHANNEL b.parentCh).setFld .sch F.SCH_PARENT_NODE b.parent).setFld .sch F.SCH_CT_STAT_HOP b.hop).gainSync

/-- What a heartbeat tells of the partner. -/
def State.noteBeat (s : State) (lane : Nat) (b : Beat) : State :=
  let up := setBitOf s.twn.lanes lane true
  let s1 := s.setTwn { s.twn with beat := some b, hbOk := true, lanes := up }
  let same := decide (b.digest = s.digest)
  let s2 := ((s1.setFld .twn F.TWN_PEER_ID_LO_ID b.devId).setFld .twn F.TWN_PEER_ID_HI_ID (b.devId / 2 ^ 32)).setFlag .twn F.TWN_STAT_CFG_MATCH same
  let s3 := s2.setFld .twn F.TWN_STAT_PROTO ((s.protoWith b.proto).getD 0)
  if same && (s.protoWith b.proto).isSome then s3 else s3.event .twn 2

/-- HEARTBEAT_RX: a heartbeat of the partner on a lane. -/
def execHeartbeatRx (lane : Fin 2) (b : Beat) (s : State) : Host.Outcome State Fault Refusal :=
  .next (
    if !s.twnOn || s.isolated .twn || !s.running then s
    else
      let s1 := s.noteBeat lane.val b
      let st := s.twState
      if s.twn.listen then s1
      else if st = twAlone then
        (if b.state = twStandby && s.twn.elected then (s1.setFlag .twn F.TWN_CMD_BUSY false).role twPrimary none else s1)
      else if st = twPrimary then (if b.state = twJoining ∨ b.iso = true then s1.goAlone none else s1)
      else if st = twSevered then s1.join none
      else
        let s2 := if b.serving then s1.followBeat b else s1
        if decide (st = twStandby) && b.iso then s2.join none else s2)

/-- HEARTBEAT_LOSS: 1 ms has passed without a heartbeat. -/
def execHeartbeatLoss (s : State) : Host.Outcome State Fault Refusal :=
  .next (
    if !s.twnOn || !s.twn.hbOk then s
    else
      let iso := s.isolated .twn || (match s.twn.beat with | some b => b.iso | none => false)
      let s1 := (s.setTwn { s.twn with hbOk := false }).bump .twn 1
      if iso || s.twn.listen then s1
      else
        let s2 := s1.noSwap
        if s.twState = twPrimary ∧ s.twn.peerOk = true then s2.setTwn { s2.twn with sever := true }
        else if s.twState = twStandby ∧ s.twn.take = none then s2.setTwn { s2.twn with take := some (1, s.ct + s.nsToCt 500000) }
        else s2)

/-- PEER_OK_FALL: PEER_OK has been low for its debounce. -/
def execPeerOkFall (s : State) : Host.Outcome State Fault Refusal :=
  .next (
    let s1 := s.setTwn { s.twn with peerOk := false }
    if !s.twnOn || s.twn.listen || !s.running then s1
    else
      let s2 := s1.noSwap
      let st := s.twState
      if st = twPrimary then s2.goAlone (some 2)
      else if st = twJoining then s2.partialAlone
      else if st = twStandby ∨ st = twSevered then s2.setTwn { s2.twn with take := some (2, 0) }
      else s2)

/-- TWIN_LANE_FAIL: a lane of the link fails. -/
def execTwinLaneFail (lane : Fin 2) (s : State) : Host.Outcome State Fault Refusal :=
  .next (
    if !s.twnOn || s.isolated .twn || !bitOf s.twn.lanes lane.val then s
    else
      let left := setBitOf s.twn.lanes lane.val false
      let s1 := ((s.setTwn { s.twn with lanes := left }).fault .twn 2 lane.val).event .twn 1
      if left = 0 then s1.fault .twn 3 0 else s1)

/-! Joining and mirroring (R367 to R369). -/

/-- BULK_COPY_DONE: the joiner holds the copy and the changes since. -/
def execBulkCopyDone (s : State) : Host.Outcome State Fault Refusal :=
  .next (
    let ready := match s.twn.beat with | some b => b.serving && (s.protoWith b.proto).isSome | none => false
    if s.twnOn && decide (s.twState = twJoining) && s.twn.hbOk && ready && !s.isolated .twn then
      (((s.setFld .twn F.TWN_SYNC_PROGRESS 1000).setFlag .twn F.TWN_CMD_BUSY false).role twStandby none).event .twn 3
    else s)

/-- Words of the tone-map store. -/
def State.tmapWords (s : State) (l : List (Nat × Nat)) : State := l.foldl (fun s w => s.tmapPut w.1 w.2) s

/-- A schedule version of the primary. -/
def State.mirrorVersion (s : State) (ver sf : Nat) (tables : List (List Word)) (inForce : Bool) : State :=
  if inForce then s.installTables ver tables
  else (s.setSched { s.line.sched with pend := some (ver, sf, tables) }).setFlag .sch F.SCH_VER_STAT_PENDING true

/-- A key slot, unwrapped under the entry that `TWN_CFG.KEK_PK` names. -/
def State.mirrorSlot (s : State) (k : Nat) (x : KeySlot) (wrapped : List Nat) : State :=
  match unwrapKey (s.pkEntry (s.fld .twn F.TWN_CFG_KEK_PK)) x.big wrapped [] with
  | some key => s.putSlot k { x with key := key }
  | none => s.unwrapFail

/-- The reservation of a number block is recorded by the standby too. -/
def State.mirrorNumbers (s : State) (k limit : Nat) : State :=
  let m := max limit (storeGet 0 s.net.numRes k)
  { s with net := { s.net with numRes := storePut 0 s.net.numRes k m }
           nvm := { s.nvm with nums := storePut 0 s.nvm.nums k (max (storeGet 0 s.nvm.nums k) (m / 65536)) } }

/-- The reservation of a nonce block is recorded by the standby too (R339). -/
def State.mirrorNonces (s : State) (limit : Nat) : State :=
  let m := max limit s.cph.limit
  { s with cph := { s.cph with limit := m }, nvm := { s.nvm with nonce := some (m / 2 ^ 20 - 1) } }

/-- A mirror record is applied. -/
def State.mirrorIn (s : State) (m : Mirror) : State :=
  match m with
  | .version ver sf tables inForce => s.mirrorVersion ver sf tables inForce
  | .figIdx i => s.setFigIdx i
  | .flood x => if (s.flood? x.src x.seq x.epoch).isSome then s.setFlood x else { s with net := { s.net with floods := s.net.floods ++ [x] } }
  | .floodGone src seq epoch => s.delFlood src seq epoch
  | .link l words => (s.setLink l).tmapWords words
  | .impedance words => s.tmapWords words
  | .route i r => match r with | some x => s.putRoute { x with idx := i } | none => s.delRoute i
  | .dir a bs => s.dirBytes a bs
  | .regs l => l.foldl (fun s r => if r.1.tenant?.isSome then s.setReg r.1 r.2.1 r.2.2 else s) s
  | .tenant t x => s.setTenant t x
  | .service id fs frames reasm dups arq =>
    { s with net := { s.net with nextId := id, floodSeq := fs, frames := frames, reasm := reasm, dups := dups, arq := arq } }
  | .numbers k limit => s.mirrorNumbers k limit
  | .nonces limit => s.mirrorNonces limit
  | .keySlot k x wrapped => s.mirrorSlot k x wrapped
  | .taps c l => s.setChan c.val { s.chan c.val with taps := l }
  | .swapAt sf => if s.twState = twStandby then
      ((s.setTwn { s.twn with swap := some sf }).setFld .twn F.TWN_SWAP_SF_SF sf).setFlag .twn F.TWN_CMD_BUSY true else s
  | .resync => if s.twState = twStandby then (s.join none).setFlag .twn F.TWN_CMD_BUSY true else s

/-- MIRROR_RECORD_RX: a record of the primary, with its sequence number and the progress of a copy; applied in order and
acknowledged. -/
def execMirrorRecordRx (seq progress : Nat) (m : Mirror) (s : State) : Host.Outcome State Fault Refusal :=
  .next (
    let st := s.twState
    if !s.twnOn || s.isolated .twn || !s.running then s
    else if st = twStandby ∧ seq = s.twn.rxSeq + 1 then
      ((((s.setTwn { s.twn with rxSeq := seq }).mirrorIn m).bump .twn 5).emit (.mirrorAck seq))
    else if st = twJoining then
      ((((s.setTwn { s.twn with rxSeq := seq }).mirrorIn m).setFld .twn F.TWN_SYNC_PROGRESS (min 1000 progress)).bump .twn 5).emit (.mirrorAck seq)
    else s)

/-- MIRROR_ACK_RX: the standby has applied every record up to a sequence number. -/
def execMirrorAckRx (seq : Nat) (s : State) : Host.Outcome State Fault Refusal :=
  .next (
    if !s.twnOn || s.isolated .twn || decide (s.twState ≠ twPrimary) then s
    else
      let l := s.twn.await.filter fun a => decide (a.1 ≤ seq)
      let s1 := s.setTwn { s.twn with
        await := s.twn.await.filter (fun a => decide (seq < a.1)), lag := s.twn.lag ++ l.map fun a => s.tenths a.2.1 }
      s1.resumeList l)

/-- MIRROR_RECORD_LOST: a record is lost beyond replay: the standby joins anew. -/
def execMirrorRecordLost (s : State) : Host.Outcome State Fault Refusal :=
  .next (if s.twnOn && decide (s.twState = twStandby) then s.join none else s)

/-! Commands (R367, R376). -/

/-- SWAP is set for the first superframe that begins at least two slots later. -/
def State.startSwap (s : State) : State :=
  let partner := match s.twn.beat with | some b => s.twn.hbOk && decide (b.state = twStandby) | none => false
  if !(decide (s.twState = twPrimary) && partner && !s.isolated .twn && s.twn.swap.isNone && !s.twn.sever) then s
  else
    let sf := ceilDiv (s.ct + 2 ^ 21) (2 ^ 26)
    let s1 := ((s.setTwn { s.twn with swap := some sf, seq := s.twn.seq + 1 }).setFld .twn F.TWN_SWAP_SF_SF sf).setFlag .twn F.TWN_CMD_BUSY true
    (s1.emit (.mirror s1.twn.seq 6 (leBytes 6 sf))).bump .twn 4

/-- RESYNC: the standby's copy begins again. -/
def State.startResync (s : State) : State :=
  if s.twState = twStandby then (s.join none).setFlag .twn F.TWN_CMD_BUSY true
  else if s.twState = twPrimary then
    let s1 := s.setTwn { s.twn with seq := s.twn.seq + 1 }
    ((((s1.emit (.mirror s1.twn.seq 7 [])).bump .twn 4).goAlone none).setFlag .twn F.TWN_CMD_BUSY true).bump .twn 7
  else s

/-- A write of `TWN_CMD`. -/
def twnCmdWrite (p : Page) (w : Word) (s : State) : State :=
  let s1 := applyWrite p 0x048 w s
  if !w.getLsbD 31 || !s1.twnOn then s1
  else if F.TWN_CMD_OP.get w = 0 then s1.startSwap else if F.TWN_CMD_OP.get w = 1 then s1.startResync else s1

/-- SWAP and RESYNC: writes of `TWN_CMD`. -/
def execTwinSwap (q : Req) (s : State) : Host.Outcome State Fault Refusal := .next (writeWord q .twn 0x048 twnCmdWrite s)
def execTwinResync (q : Req) (s : State) : Host.Outcome State Fault Refusal := .next (writeWord q .twn 0x048 twnCmdWrite s)

/-- TWN is isolated, or its isolation ends (R360). -/
def State.twnIsolated (s : State) : State :=
  if s.twState = twPrimary then s.goAlone none
  else if s.twState = twStandby then s.join none
  else s

/-- The acknowledgement times of a superframe. -/
def State.twnLag (s : State) : State :=
  let l := s.twn.lag
  let s1 := (s.setFld .twn F.TWN_LAG_MAX (min 65535 (l.foldl max 0))).setFld .twn F.TWN_LAG_MEAN (min 65535 (if l = [] then 0 else l.sum / l.length))
  s1.setTwn { s1.twn with lag := [] }

/-! Views. -/

def State.twnStatus (s : State) : Nat :=
  (if s.serving then 2 ^ 17 else 0) + (if s.twState = twPrimary ∨ s.twState = twStandby then 2 ^ 16 else 0)

def State.twnView (s : State) (off : Nat) : Option Word :=
  if off = 0x044 then
    let w := s.reg .twn 0x044
    let w1 := F.TWN_STAT_PEER_OK.put (if s.twn.peerOk then 1 else 0) w
    some (F.TWN_STAT_LANES.put s.twn.lanes (F.TWN_STAT_HB_OK.put (if s.twn.hbOk then 1 else 0) w1))
  else none

def twnEffect (off : Nat) : Page → Word → State → State :=
  if off = 0x040 then twnCfgWrite else if off = 0x048 then twnCmdWrite else fun p w s => applyWrite p off w s

end Sys2Proof.Machine
end

