-- ==== Sys2Proof/Machine/Update.lean ====
section
/-! DEFINITION. The non-volatile array and firmware update (R474 to R497). -/

set_option Elab.async false

namespace Sys2Proof.Machine

def State.setNvm (s : State) (x : Nvm) : State := { s with nvm := x }
def State.setUpd (s : State) (x : Upd) : State := s.setNvm { s.nvm with upd := x }
def State.setAct (s : State) (x : ActRec) : State := s.setNvm { s.nvm with act := x }

/-! Slots (R477, R482). -/

/-- Whether the processors run from a slot: in recovery they run from ROM (R493). -/
def State.runsSlot (s : State) (k : Nat) : Bool := !s.nvm.recovery && decide (s.nvm.running = k)

/-- Whether a trial is in progress (R489), and whether a slot holds its previous image. -/
def State.inTrial (s : State) : Bool := s.nvm.act.trial && !s.nvm.recovery
def State.isPrevious (s : State) (k : Nat) : Bool := s.inTrial && decide (s.nvm.act.prev = k)

def State.imgSlot (s : State) (k : Nat) : ImgSlot := s.nvm.slots2.getD k ⟨false, false⟩
def State.setImgSlot (s : State) (k : Nat) (x : ImgSlot) : State := s.setNvm { s.nvm with slots2 := s.nvm.slots2.set k x }
def State.verified (s : State) (k : Nat) : Bool := (s.imgSlot k).verified

/-- Whether a slot is locked for writes. -/
def State.slotLocked (s : State) (k : Nat) : Bool := s.runsSlot k || s.isPrevious k || (s.imgSlot k).locked

/-- Bytes of a slot, and header fields (Table 16-4). -/
def State.imgByte (s : State) (k i : Nat) : Nat := s.imgWord k (i / 4) / 2 ^ (8 * (i % 4)) % 256
def State.imgBytes (s : State) (k off n : Nat) : List Nat := (List.range n).map fun i => s.imgByte k (off + i)
def State.imgLen (s : State) (k : Nat) : Nat := s.imgWord k 2
def State.imgSecVer (s : State) (k : Nat) : Nat := s.imgWord k 4
def State.imgSetVer (s : State) (k : Nat) : Nat := s.imgByte k 21
def State.imgHoVer (s : State) (k : Nat) : Nat := s.imgByte k 22
def State.imgHoMin (s : State) (k : Nat) : Nat := s.imgByte k 23
def State.imgKey (s : State) (k : Nat) : Nat := s.imgByte k 24 % 4

/-! The check of a slot (R483, R484). -/

/-- The signed message: header and body, SIG taken as zero. -/
def State.imgMessage (s : State) (k : Nat) : List Nat :=
  s.imgBytes k 0 128 ++ List.replicate 96 0 ++ s.imgBytes k 224 (3872 + s.imgLen k)

/-- Whether a row of a slot's header or body cannot be corrected, so that its hash is not that of the image. -/
def State.imgDamaged (s : State) (k : Nat) : Bool :=
  s.nvm.bad.any fun r => decide (k * 0x600000 ≤ 32 * r ∧ 32 * r < k * 0x600000 + 4096 + s.imgLen k)

/-- The status of a check, of Table 16-5; `most` is the longest body that the data streamed can hold. -/
def State.checkSlot (s : State) (k most : Nat) : Nat :=
  let zero := fun (l : List Nat) => l.all (· == 0)
  let e := s.imgKey k
  let pub := s.imgBytes k 32 96
  if s.imgWord k 0 ≠ 0x49464C4F ∨ s.imgWord k 1 % 65536 ≠ 1 ∨ 4 ≤ s.imgByte k 6 ∨ 4 ≤ s.imgByte k 24 then 4
  else if !(zero (s.imgBytes k 25 7) && zero (s.imgBytes k 224 3872)) then 4
  else if s.imgLen k = 0 ∨ 6287360 < s.imgLen k ∨ most < s.imgLen k then 5
  else if !bitOf (s.imgByte k 6) (if s.chip.is7236 then 0 else 1) || decide (revWord.toNat / 2 ^ 24 < s.imgByte k 7) then 6
  else if !bitOf s.chip.fused e || bitOf s.chip.revoked e || decide (s.chip.trust.getD e 0 ≠ sha384 pub) then 7
  else if s.nvm.upd.sigBad || s.imgDamaged k || !ecdsaOk pub (sha384 (s.imgMessage k)) (s.imgBytes k 128 96) then 8
  else if s.imgSecVer k < s.nvm.floor then 9
  else 0

/-- The outcome of a check is counted. -/
def State.countCheck (s : State) (status : Nat) : State := s.bump .upd (if status = 0 then 1 else 2)

/-! Settings records (R479, R489). -/

/-- The current records: each key's newest whose version an image of `ver` reads. -/
def currentSettings (ver : Nat) (l : List (Nat × Nat × Nat)) : List (Nat × Nat × Nat) :=
  l.foldl (fun a r => if ver < r.2.1 || a.any (fun x => decide (x.1 = r.1)) then a else a ++ [r]) []

def State.currentRecs (s : State) : List (Nat × Nat × Nat) := currentSettings (s.imgSetVer s.nvm.running) s.nvm.settings

/-- The records of a trial become obsolete (R491). -/
def State.dropTrial (s : State) : State :=
  let g := s.nvm.act.gen
  s.setNvm { s.nvm with settings := s.nvm.settings.filter (fun r => decide (r.2.2 ≠ g)), boot := s.nvm.boot.filter (fun r => decide (r.gen ≠ g)) }

/-! Commands of `UPD_CMD`. -/

/-- The slot that `UPD_ARG` names. -/
def State.argUpd (s : State) : Nat := if s.flag .upd F.UPD_ARG_NEXT then 1 - s.nvm.running else s.fld .upd F.UPD_ARG_SLOT

/-- A command or a pause is in progress. -/
def State.updBusy (s : State) : Bool := s.nvm.upd.verify.isSome || s.nvm.upd.pause.isSome

def State.updStatus (s : State) (code : Nat) : State := s.setFld .upd F.UPD_STAT_STATUS code

/-- BEGIN (R477, R485). -/
def State.updBegin (s : State) : State :=
  let k := s.argUpd
  if s.runsSlot k || s.isPrevious k then s.updStatus 2
  else
    let s1 := (s.setImgSlot k ⟨false, false⟩).setUpd { s.nvm.upd with load := some k, fill := 0, staged := [] }
    let s2 := s1.setNvm { s1.nvm with slots2 := s.nvm.slots2.set k ⟨false, false⟩ }
    ((s2.setFld .upd F.UPD_OFFSET_OFFSET 0).bump .upd 0).updStatus 0

/-- ACTIVATE (R486); in recovery a device reset follows at once (R493). -/
def State.updActivate (s : State) : State :=
  let k := s.argUpd
  let r := s.nvm.running
  if s.runsSlot k then s.updStatus 0
  else if !s.verified k then s.updStatus 10
  else if s.inTrial then s.updStatus 3
  else if 2 ≤ s.shedTop then s.updStatus 11
  else if s.flag .twn F.TWN_CMD_BUSY then s.updStatus 1
  else if s.nvm.recovery then
    (((s.setAct { s.nvm.act with trial := false, target := k }).nvmRows.bump .upd 3).bump .rst 2).devReset 4
  else if s.imgHoVer r < s.imgHoMin k ∨ s.imgHoVer k < s.imgHoVer r then s.updStatus 12
  else if s.currentRecs.any fun x => decide (s.imgSetVer k < x.2.1) then s.updStatus 13
  else
    let at_ := s.slot + 2
    let s1 := s.setUpd { s.nvm.upd with pause := some ⟨at_, k, false, false, false, false⟩ }
    ((s1.setFld .upd F.UPD_PAUSE_SLOT_LO_SLOT at_).setFld .upd F.UPD_PAUSE_SLOT_HI_SLOT (at_ / 2 ^ 32)).updStatus 0

/-- COMMIT (R490). -/
def State.updCommit (s : State) : State :=
  if !s.inTrial then s.updStatus 15
  else if s.nvm.upd.migr then s.updStatus 14
  else
    let a := s.nvm.act
    let keep := fun (r : Nat × Nat × Nat) => decide (r.2.2 = a.gen) || !(s.nvm.settings.any fun x => decide (x.1 = r.1 ∧ x.2.2 = a.gen))
    let s1 := s.setNvm { s.nvm with
      act := { a with trial := false }, floor := max s.nvm.floor (s.imgSecVer a.target)
      settings := (s.nvm.settings.filter keep).map (fun r => (r.1, r.2.1, 0))
      boot := s.nvm.boot.map (fun r => { r with gen := 0 }), slots2 := s.nvm.slots2.set a.prev ⟨false, false⟩ }
    (((s1.nvmRows).bump .upd 4).event .upd 3).updStatus 0

/-- ROLLBACK (R491): a pause towards the previous slot. -/
def State.updRollback (s : State) : State :=
  if !s.inTrial then s.updStatus 15
  else
    let at_ := s.slot + 2
    let s1 := s.setUpd { s.nvm.upd with pause := some ⟨at_, s.nvm.act.prev, true, false, false, false⟩ }
    ((s1.setFld .upd F.UPD_PAUSE_SLOT_LO_SLOT at_).setFld .upd F.UPD_PAUSE_SLOT_HI_SLOT (at_ / 2 ^ 32)).updStatus 0

/-- REVOKE (R483). -/
def State.updRevoke (s : State) : State :=
  let e := s.fld .upd F.UPD_ARG_KEY
  let uses := fun (k : Nat) => decide (s.imgKey k = e)
  let left := (List.range 4).any fun i => decide (i ≠ e) && bitOf s.chip.fused i && !bitOf s.chip.revoked i
  if (!s.nvm.recovery && uses s.nvm.running) || (s.inTrial && uses s.nvm.act.prev) then s.updStatus 17
  else if !left then s.updStatus 16
  else
    let s1 : State := { s with chip := { s.chip with revoked := setBitOf s.chip.revoked e true } }
    s1.updStatus 0

/-- A write of `UPD_CMD` (R496): GO runs OP, refused with BUSY while a command or a pause is in progress. -/
def updCmdWrite (p : Page) (w : Word) (s : State) : State :=
  let s1 := applyWrite p 0x040 w s
  if !w.getLsbD 31 then s1
  else if s1.updBusy then s1.updStatus 1
  else match F.UPD_CMD_OP.get w with
    | 0 => s1.updBegin
    | 1 => s1.setUpd { s1.nvm.upd with verify := some s1.argUpd }
    | 2 => s1.updActivate
    | 3 => s1.updCommit
    | 4 => s1.updRollback
    | 5 => (s1.setUpd { s1.nvm.upd with load := none, staged := [] }).updStatus 0
    | _ => s1.updRevoke

/-- The commands of `UPD_CMD`. -/
def execUpdBegin (q : Req) (s : State) : Host.Outcome State Fault Refusal := .next (writeWord q .upd 0x040 updCmdWrite s)
def execVerifyImage (q : Req) (s : State) : Host.Outcome State Fault Refusal := .next (writeWord q .upd 0x040 updCmdWrite s)
def execUpdActivate (q : Req) (s : State) : Host.Outcome State Fault Refusal := .next (writeWord q .upd 0x040 updCmdWrite s)
def execUpdCommit (q : Req) (s : State) : Host.Outcome State Fault Refusal := .next (writeWord q .upd 0x040 updCmdWrite s)
def execUpdRollback (q : Req) (s : State) : Host.Outcome State Fault Refusal := .next (writeWord q .upd 0x040 updCmdWrite s)
def execUpdAbort (q : Req) (s : State) : Host.Outcome State Fault Refusal := .next (writeWord q .upd 0x040 updCmdWrite s)
def execUpdRevoke (q : Req) (s : State) : Host.Outcome State Fault Refusal := .next (writeWord q .upd 0x040 updCmdWrite s)

/-! Loading (R485). -/

/-- Free words of the staging buffer. -/
def State.updRoom (s : State) : Nat := 1024 - s.nvm.upd.staged.length

/-- A write of `UPD_DATA`: the word is staged for the slot that BEGIN named, or ignored. -/
def updDataWrite (_ : Page) (w : Word) (s : State) : State :=
  let o := s.fld .upd F.UPD_OFFSET_OFFSET
  if s.nvm.upd.load.isNone ∨ 0x600000 ≤ o ∨ s.updRoom = 0 then (s.setFlag .upd F.UPD_STAT_OVERRUN true).event .upd 1
  else
    (s.setUpd { s.nvm.upd with staged := s.nvm.upd.staged ++ [(o, w)], fill := max s.nvm.upd.fill (o + 4) }).setFld .upd F.UPD_OFFSET_OFFSET (o + 4)

/-- UPD_DATA_WRITE: a write of `UPD_DATA`. -/
def execUpdDataWrite (q : Req) (s : State) : Host.Outcome State Fault Refusal := .next (writeWord q .upd 0x04C updDataWrite s)

/-- A write of `UPD_OFFSET`: a multiple of 32 not above the current offset is taken. -/
def updOffsetWrite (_ : Page) (w : Word) (s : State) : State :=
  let o := s.fld .upd F.UPD_OFFSET_OFFSET
  let v := F.UPD_OFFSET_OFFSET.get w
  if v % 32 = 0 ∧ v ≤ o then
    (s.setUpd { s.nvm.upd with staged := s.nvm.upd.staged.filter (fun e => decide (o % 32 = 0 ∨ e.1 / 32 ≠ o / 32)) }).setFld .upd
      F.UPD_OFFSET_OFFSET v
  else s

/-- UPD_OFFSET_WRITE: a write of `UPD_OFFSET`. -/
def execUpdOffsetWrite (q : Req) (s : State) : Host.Outcome State Fault Refusal := .next (writeWord q .upd 0x048 updOffsetWrite s)

/-- Whether writes to a slot at an offset share a bank with the running image (R476). -/
def State.paced (s : State) (k off : Nat) : Bool :=
  !s.nvm.recovery && decide (s.nvm.running ≠ k) && (if k = 1 then decide (off < 0x200000) else decide (0x400000 ≤ off))

/-- STAGING_ROW_WRITE: the oldest staged row is written; `waits`: the cache fills that waited for its bank. -/
def execStagingRowWrite (waits : Nat) (s : State) : Host.Outcome State Fault Refusal :=
  .next (
    let u := s.nvm.upd
    match u.load with
    | none => s
    | some k =>
      let row := u.staged.take 8
      if row.length < 8 then s
      else
        let o := (row.headD (0, 0)).1
        let img := row.foldl (fun m e => storePut 0 m (k * 0x180000 + e.1 / 4) e.2) s.nvm.img
        let s1 := s.setNvm { s.nvm with
          img := img, bad := s.nvm.bad.filter (fun r => decide (r ≠ (k * 0x600000 + o) / 32)), upd := { u with staged := u.staged.drop 8 } }
        (s1.bump .nvm 0).bumpBy .nvm 1 (if s.paced k o then waits else 0))

/-- VERIFY_DONE: the check of a slot completes. -/
def execVerifyDone (s : State) : Host.Outcome State Fault Refusal :=
  .next (
    let u := s.nvm.upd
    match u.verify with
    | none => s
    | some k =>
      if 8 ≤ u.staged.length then s
      else
        let code := s.checkSlot k (if u.load = some k then u.fill - 4096 else 6287360)
        let s1 := ((s.setUpd { u with verify := none }).countCheck code).updStatus code
        let s2 := if code = 0 then
            let t := s1.setImgSlot k ⟨true, true⟩
            if u.load = some k then t.setUpd { t.nvm.upd with load := none, staged := [] } else t
          else s1
        s2.event .upd 6)

/-! The pause (R487, R488, R491). -/

/-- At the start of a slot a pause moves on: its record is committed in the slot before it, the processors restart at its start, and
after its third slot transmission resumes. -/
def State.pauseSlot (s : State) : State :=
  match s.nvm.upd.pause with
  | none => s
  | some p =>
    let old := s.nvm.running
    let a := s.nvm.act
    let s1 := if p.rec_ || decide (s.slot + 1 < p.at_) then s
      else
        let act := if p.roll then { a with trial := false, target := p.target }
          else { a with trial := true, target := p.target, prev := old, gen := a.gen + 1, starts := 0, fatal := false }
        let t := (if p.roll then s.dropTrial else s).setAct act
        let t1 := t.setUpd { t.nvm.upd with pause := some { p with rec_ := true } }
        (t1.nvmRows).bump .upd (if p.roll then 5 else 3)
    if decide (s.slot < p.at_) || p.begun then
      if p.done && decide (p.at_ + 3 ≤ s.slot) then
        let t := s1.setUpd { s1.nvm.upd with pause := none, migr := !p.roll }
        if p.roll then t else t.event .upd 5
      else s1
    else
      let t := s1.setUpd { s1.nvm.upd with pause := some { p with rec_ := true, begun := true }, migr := false }
      let t1 := t.setNvm { t.nvm with running := p.target, slots2 := t.nvm.slots2.set p.target ⟨true, true⟩ }
      if p.roll then (t1.setFlag .upd F.UPD_STAT_REVERTED true).event .upd 2 else t1

/-- An activation ends the twin state of a device that does not serve: it elects again (R488). -/
def State.twinAnew (s : State) : State :=
  if twJoining ≤ s.twState then
    ((s.setTwn { s.twn with elected := false, listen := false, take := none, sever := false }).setFld .twn F.TWN_STAT_STATE twAlone).electStart
  else s

/-- ACTIVATION_RESTART_DONE: the new firmware runs, and processes what has waited. -/
def execActivationRestartDone (s : State) : Host.Outcome State Fault Refusal :=
  .next (
    match s.nvm.upd.pause with
    | some p =>
      if !p.begun || p.done then s
      else
        let l := s.nvm.upd.kept
        let s1 := s.setUpd { s.nvm.upd with pause := some { p with done := true }, kept := [] }
        ((l.foldl (fun s r => s.macFrame r.1 r.2) s1).twinAnew.dispatch.originate).issueFetch
    | none => s)

/-- MIGRATION_DONE: every key has a current record of the new image's version (R489). -/
def execMigrationDone (s : State) : Host.Outcome State Fault Refusal :=
  .next (
    if !s.inTrial || !s.nvm.upd.migr then s
    else
      let v := s.imgSetVer s.nvm.running
      let new := (s.currentRecs.filter fun r => decide (r.2.1 < v)).map fun r => (r.1, v, s.nvm.act.gen)
      let s1 := s.setNvm { s.nvm with settings := new ++ s.nvm.settings, upd := { s.nvm.upd with migr := false } }
      ((s1.nvmRows).setFld .upd F.UPD_TRIAL_PROGRESS 1000).event .upd 4)

/-! Rows of the array (R474, R479, R481, R494). -/

/-- What an uncorrectable row means, by its region. -/
def State.rowConsequence (s : State) (r : Nat) : State :=
  let a := 32 * r
  if a < 0xC00000 then
    let k := a / 0x600000
    if s.runsSlot k then s else s.setNvm { s.nvm with slots2 := s.nvm.slots2.set k { s.imgSlot k with verified := false } }
  else if a < 0xC80000 then
    let i := (a - 0xC00000) / 64
    let x := storeGet WktRec.none s.nvm.wkt i
    if x.valid then s.setNvm { s.nvm with wkt := storeIns s.nvm.wkt i { x with wrapped := [] } } else s
  else if a < 0xC84000 then s
  else if a < 0xCA4000 then
    let copy := (a - 0xC84000) / 65536
    s.setNvm { s.nvm with boot := s.nvm.boot.filter fun b => decide (b.seq % 2 ≠ copy) }
  else if a < 0xE00000 then
    let d := s.freeNat
    d.2.setNvm { d.2.nvm with settings := d.2.nvm.settings.eraseIdx (d.1 % (d.2.nvm.settings.length + 1)) }
  else s

/-- An uncorrectable row has been found. -/
def State.rowUncorr (s : State) (r : Nat) : State :=
  let s1 := s.setNvm { s.nvm with bad := if s.nvm.bad.contains r then s.nvm.bad else r :: s.nvm.bad }
  let s2 := (((s1.fault .nvm 2 r).event .nvm 4).setFld .nvm F.NVM_UNCORR_ROW_ROW r).bump .nvm 4
  s2.rowConsequence r

/-- What a row reads as through the window: zero where it is protected, an image's words, and otherwise contents whose layout the
spec does not give. -/
def State.rowWords (s : State) (r : Nat) (uncorr : Bool) : List Nat × State :=
  let a := 32 * r
  if 0xC00000 ≤ a ∧ a < 0xC84000 then (List.replicate 8 0, s)
  else if decide (a < 0xC00000) && !uncorr then
    ((List.range 8).map fun i => (storeGet (0 : Word) s.nvm.img (8 * r + i)).toNat, s)
  else (List.range 8).foldl (fun x _ => let d := x.2.freeNat; (x.1 ++ [d.1], d.2)) ([], s)

/-- A write of `NVM_RD_ADDR` reads the row; `bits`: the bit errors in it. -/
def nvmReadWrite (bits : Nat) (p : Page) (w : Word) (s : State) : State :=
  let s1 := applyWrite p 0x044 w s
  let r := s1.fld .nvm F.NVM_RD_ADDR_ROW
  let un := decide (3 ≤ bits) || s1.nvm.bad.contains r
  let prot := decide (0xC00000 ≤ 32 * r ∧ 32 * r < 0xC84000)
  let d := s1.rowWords r un
  let s2 := (d.1.zipIdx).foldl (fun (s : State) e => s.setFld .nvm (F.NVM_RD_DATA_DATA.at e.2) e.1) d.2
  let stat := 2 ^ 31 + (if prot then 2 ^ 30 else 0) + (if !un && decide (bits ≠ 0) then 2 ^ 29 else 0) + (if un then 2 ^ 28 else 0)
  let s3 := ((s2.setReg .nvm 0x048 (BitVec.ofNat 32 stat)).bump .nvm 2).event .nvm 1
  let s4 := if !un && decide (bits ≠ 0) then s3.bump .nvm 3 else s3
  if un then s4.rowUncorr r else s4

/-- NVM_ROW_READ: a write of `NVM_RD_ADDR`. -/
def execNvmRowRead (q : Req) (bits : Nat) (s : State) : Host.Outcome State Fault Refusal :=
  .next (writeWord q .nvm 0x044 (nvmReadWrite bits) s)

/-- A count of the error scrubs of HLT. -/
def State.scrubUncorr (s : State) (n : Nat) : State := if n = 0 then s else (s.fault .hlt 5 0).bumpBy .hlt 7 n

/-- SCRUB_ROW: the scrubber reads its next row, with `bits` errors; `waits`: cache fills that waited for a rewrite (R481). -/
def execScrubRow (bits waits : Nat) (s : State) : Host.Outcome State Fault Refusal :=
  .next (
    if !s.running then s
    else
      let r := s.fld .nvm F.NVM_SCRUB_NEXT_ROW
      let next := (r + 1) % 524288
      let s1 := s.setFld .nvm F.NVM_SCRUB_NEXT_ROW next
      let s2 := if next = 0 then s1.setFld .hlt F.HLT_SCRUB_PASSES (min 65535 (s1.fld .hlt F.HLT_SCRUB_PASSES + 1)) else s1
      let un := decide (3 ≤ bits) || s.nvm.bad.contains r
      if un then (s2.rowUncorr r).scrubUncorr 1
      else if bits = 0 then s2
      else
        let k := 32 * r / 0x600000
        let shared := decide (32 * r < 0xC00000) && (s.runsSlot k || s.paced k (32 * r % 0x600000))
        (((s2.bump .nvm 3).bump .nvm 0).bump .hlt 5).bumpBy .nvm 1 (if shared then waits else 0))

/-- LOG_COMPACT: free space of the settings log has fallen below 64 KiB; `recs`: key and version of the records written since the last
such command, newest first. -/
def execLogCompact (free : Nat) (recs : List (Nat × Nat)) (s : State) : Host.Outcome State Fault Refusal :=
  .next (
    if !s.running || s.nvm.compact || decide (64 ≤ free) then s
    else
      let g := if s.inTrial then s.nvm.act.gen else 0
      (s.setNvm { s.nvm with
        settings := (recs.map fun r => (r.1, r.2, g)) ++ s.nvm.settings, logFree := free, compact := true }).event .nvm 2)

/-- COMPACTED: the compaction has ended, with its free space in KiB. -/
def execCompacted (free : Nat) (s : State) : Host.Outcome State Fault Refusal :=
  .next (
    if !s.nvm.compact then s
    else (((s.setNvm { s.nvm with logFree := min 1392 free, compact := false }).nvmRows).bump .nvm 6).event .nvm 3)

/-! Views. -/

def State.nvmView (s : State) (off : Nat) : Option Word :=
  let b := fun (x : Bool) (i : Nat) => if x then 2 ^ i else 0
  if off = 0x040 then
    some (BitVec.ofNat 32 (s.nvm.running % 2 * 2 ^ 31 + b (s.slotLocked 0) 30 + b (s.slotLocked 1) 29 + b s.nvm.open_ 27 +
      min 2047 s.nvm.logFree))
  else none

/-- `UPD_STAT.STATE`: recovery, a pause, a check, a transfer. -/
def State.updState (s : State) : Nat :=
  let u := s.nvm.upd
  if s.nvm.recovery then 4 else if (match u.pause with | some p => p.begun | none => false) then 3
  else if u.verify.isSome then 2 else if u.load.isSome then 1 else 0

def State.updStatusBits (s : State) : Nat := (if s.inTrial then 2 ^ 17 else 0) + (if s.updState = 3 then 2 ^ 16 else 0)

/-- Whether a row of the running slot cannot be corrected. -/
def State.updDamaged (s : State) : Bool :=
  s.nvm.bad.any fun r => decide (32 * r < 0xC00000) && s.runsSlot (32 * r / 0x600000)

def State.updView (s : State) (off : Nat) : Option Word :=
  let b := fun (x : Bool) (i : Nat) => if x then 2 ^ i else 0
  let w := fun (f : Fld) (x : Bool) (v : Word) => f.put (if x then 1 else 0) v
  match off with
  | 0x040 => some (w F.UPD_CMD_BUSY s.updBusy (s.reg .upd off))
  | 0x050 => some (F.UPD_STAT_ROOM.put s.updRoom (F.UPD_STAT_STATE.put s.updState (w F.UPD_STAT_TRIAL s.inTrial
      (w F.UPD_STAT_MIGRATING s.nvm.upd.migr (w F.UPD_STAT_DAMAGED s.updDamaged (s.reg .upd off))))))
  | 0x054 => some (BitVec.ofNat 32 (if s.verified 0 then s.imgWord 0 3 else 0))
  | 0x05C => some (BitVec.ofNat 32 (if s.verified 1 then s.imgWord 1 3 else 0))
  | 0x064 => some (BitVec.ofNat 32 s.nvm.floor)
  | 0x068 => some (F.UPD_TRIAL_STARTS.put (if s.inTrial then s.nvm.act.starts else 0) (s.reg .upd off))
  | 0x074 => some (BitVec.ofNat 32 (s.chip.revoked % 16 * 16 + s.chip.fused % 16))
  | o =>
    if o = 0x058 ∨ o = 0x060 then
      let k := if o = 0x058 then 0 else 1
      let h := if s.verified k then s.imgSetVer k * 2 ^ 16 + s.imgByte k 20 * 2 ^ 8 + s.imgHoVer k else 0
      some (BitVec.ofNat 32 (b (s.verified k) 31 + b (s.isPrevious k) 30 + h))
    else none

def updEffect (off : Nat) : Page → Word → State → State :=
  match off with
  | 0x040 => updCmdWrite
  | 0x048 => updOffsetWrite
  | 0x04C => updDataWrite
  | _ => fun p w s => applyWrite p off w s

end Sys2Proof.Machine
end

