-- ==== Sys2Proof/Machine/SlotEnd.lean ====
section
/-! DEFINITION. What the end of a slot brings (R75, R87, R95, R131, R132, R137 to R141, R236, R271, R280). -/

set_option Elab.async false

namespace Sys2Proof.Machine

/-! Ports. -/

/-- A port's receive paths and the channels that they are bound to in this slot. -/
def State.boundChans (s : State) (p : Nat) : List Nat :=
  (List.range 2).filterMap fun k =>
    if s.flag (portPage p) (F.NP_PATH_VALID.at k) then some (s.fld (portPage p) (F.NP_PATH_CHANNEL.at k)) else none

/-- A port's slot ends: what it saw, and whether it received a frame. -/
def State.portEnd (s : State) (x : PortSlot) : State :=
  let g := portPage x.port.val
  let got := (s.boundChans x.port.val).any fun c => match (s.chan c).rx with | some r => r.fc.isSome | none => false
  let s1 := s.portSlotEnd x
  if got then s1.bump g 1 else s1

/-- The channel for which a port measures impedance in the slot that ends (R87): it transmitted for it in a SOUND slot, or probed in a
QUIET slot. -/
def State.impChan (s : State) (p : Nat) : Option (List Word) :=
  match (s.port p).txCh with
  | some c => if (s.chan c).ty = tySound ∨ (s.port p).probing = true then s.live c else none
  | none => none

/-- The probes of the slot end with it. -/
def State.probesEnd (s : State) : State := (List.range 16).foldl (fun s p => if (s.port p).probing then s.stopPort p else s) s

/-! Templates (R138). -/

/-- The QUIET slot of a channel ends: its samples teach the templates, unless a port of the bundle has transmitted. -/
def State.quietEnd (s : State) (c : Nat) (l : List Samples) : State :=
  if (s.chan c).ty ≠ tyQuiet ∨ (s.chan c).tpl = [] then s
  else
    let ports := match s.live c with | some cfg => cfgPorts cfg | none => []
    if ports.any fun p => (s.port p).txCh.isSome && !(s.port p).probing then s.quietSkip c
    else (l.filter fun x => decide (x.chan.val = c)).foldl (fun s x => s.quietLearn s.slot x) s

/-! The echo test (R131, R132). -/

/-- The residual echo that a measurement gives a receive port at a carrier in a region. -/
def residualAt (e : EchoMeas) (r m p : Nat) : Nat :=
  ((e.cells.find? fun x => decide (x.1 = r ∧ x.2.1.val = p)).bind fun x => (x.2.2.find? fun y => decide (y.1 = m)).map (·.2)).getD 0

/-- Whether, in some measured region, more than 2 % of the carriers that a link's receive map loads fall below the threshold of its lowest
loading, with the residual echo added to the noise (R131). -/
def State.echoBreaks (s : State) (cfg : List Word) (l : Link5) (e : EchoMeas) : Bool :=
  match l.rx.cur with
  | none => false
  | some m =>
    let n := cfgGet cfg F.CH_CFG_NUMER
    let rows := s.mapRows n m
    let prec := s.mapPrec n m
    let lo := s.tmapGet (blockWord m.block + 2) / 2 ^ 12 % 4096
    let loads := rows.flatMap fun r => r.flatMap fun st => (st.map (·.1)).filter fun b => decide (b ≠ 0)
    let least := gammaOf (s.mapRate m) (cfgGet cfg F.CH_ADP_CTRL_MARGIN) (loads.foldl min 12)
    ((e.cells.map (·.1)).eraseDups).any fun r =>
      let ok := ((rows.getD (if rows.length = 1 then 0 else r) []).zipIdx).flatMap fun st => (st.1.zipIdx).filterMap fun x =>
        if x.1.1 = 0 then none
        else
          let b := prec.getD (x.2 / groupSize n) 0
          let g := (s.linkSinrs l (s.servicePorts cfg) (s.mapStreams m) (b % 64) (b / 64) r (lo + x.2) (residualAt e r (lo + x.2))).getD st.2 (0, 1)
          some (decide (least ≤ gammaDb g))
      decide (ok.length < 50 * (ok.filter fun y => !y).length)

/-- Whether the echo test of a channel fails (R131): at once where the canceller leaves more than the echo without it. -/
def State.echoFails (s : State) (cfg : List Word) (e : EchoMeas) : Bool :=
  decide (e.off < e.on) || (s.line.links.filter fun l => decide (l.chan = e.chan.val)).any fun l => s.echoBreaks cfg l e

/-- A channel's links hold a new echo figure: the residual below the far-end signal, in 0.25 dB. -/
def State.echoSeen (s : State) (e : EchoMeas) : State :=
  let below := min 65535 (dbUnits 4 e.far e.on).toNat
  { s with line := { s.line with links := s.line.links.map fun l => if l.chan = e.chan.val then { l with echo := below } else l } }

/-- The echo test of a SOUND slot: a failure starts the fallback, and three passes in a row end it (R131, R132). This end answers for its own
reception: the channel stays divided until the maps of both directions have been widened. -/
def State.echoTest (s : State) (e : EchoMeas) : State :=
  let c := e.chan.val
  match s.live c with
  | none => s
  | some cfg =>
    if !(cfgFlag cfg F.CH_CFG_FULL_DUPLEX && s.feat 4 && decide ((s.chan c).ty = tySound)) then s
    else
      let x := s.chan c
      let s1 := s.echoSeen e
      if s.echoFails cfg e then
        let y := if e.off < e.on then { x with taps := [] } else x
        let s2 := s1.setChan c { y with echoRun := 0, fall := true }
        if x.fall then s2 else s2.proposeLinks c
      else if x.fall && decide (3 ≤ x.echoRun + 1) then
        (s1.setChan c { x with echoRun := x.echoRun + 1, fall := false }).proposeLinks c
      else s1.setChan c { x with echoRun := x.echoRun + 1 }

/-- At the end of a SOUND slot a primary mirrors the canceller's taps of a full-duplex channel (Table 12-5). -/
def State.mirrorTaps (s : State) (c : Nat) : State :=
  let x := s.chan c
  if s.mirrors && x.fd && decide (x.ty = tySound) then
    let n := s.twn.seq + 1
    let data := x.taps.flatMap fun e => e.1 :: e.2.1 :: e.2.2.flatMap fun z => [(z.1 % 2 ^ 18).toNat, (z.2 % 2 ^ 18).toNat]
    (({ s with twn := { s.twn with seq := n } }).emit (.mirror n 6 (c :: data))).bump .twn 4
  else s

/-! Transmissions and receptions that end. -/

/-- A frame of a transmission that has ended: it awaits its acknowledgement, or has been sent on one more channel. -/
def State.frameEnded (s : State) (c e : Nat) (f : Frame) : State :=
  if f.mode = 3 then s.delFrame f.id
  else match f.path with
    | some _ => s.putFrame { f with st := .sent e }
    | none =>
      let left := f.copies.filter (· ≠ c)
      if left = [] then
        let s1 := s.delFrame f.id
        match f.kind with | .seg m off => s1.segHanded m off | _ => s1.annAcked f.id
      else s.putFrame { f with copies := left, st := .ready }

/-- A channel's transmission has ended with the slot. -/
def State.txEnd (s : State) (c : Nat) (x : Tx) : State :=
  let s1 := (x.frames.filterMap s.frame?).foldl (fun s f => s.frameEnded c (x.slot + x.len - 1) f) s
  let s2 := s1.setFlag (chPage c) F.CH_STAT_TX false
  let s3 := (List.range 16).foldl (fun s p => if (s.port p).txCh = some c then (s.symbolCut p).stopPort p else s) s2
  s3.setChan c { s3.chan c with tx := none }

/-- A channel at the end of a slot: what ends with it. A reception whose train ends stays open for symbols that arrive within the allowance
after it (R104). -/
def State.chanEnd (s : State) (c : Nat) : State :=
  let n := s.slot
  let x := s.chan c
  let onAnchor := match s.live c with
    | some cfg => x.tx.isSome && cfgFlag cfg F.CH_CFG_HOP_EN && x.fig.isNone && decide ((s.entryAt c cfg n).sbMode = 1)
    | none => false
  let s1 := if onAnchor then s.bump .fig 1 else s
  let s2 := match x.tx with
    | some t => if t.slot + t.len ≤ n + 1 then s1.txEnd c t else s1
    | none => s1
  let s3 := match x.prep with
    | some t => if decide (x.ty = tyContend) && decide (t.slot ≤ n) then s2.deferContend c else s2
    | none => s2
  match x.rx, s3.live c with
  | some r, some cfg =>
    let e := s3.entryAt c cfg r.slot
    if n + 1 < r.slot + e.len then s3
    else if r.slot + e.len = n + 1 then s3.setChan c { s3.chan c with frozen := false }
    else s3.setChan c { s3.chan c with rx := none, frozen := false }
  | some _, none => s3.setChan c { s3.chan c with rx := none, frozen := false }
  | none, _ => s3

/-- A REEL entry of the reel set in which the device sent nothing counts towards the acknowledgement of the floods that it has sent
(R236). -/
def State.reelHeard (s : State) : State :=
  let n := s.slot
  let heard := s.reelChans.filter fun c => match s.live c with
    | some cfg => let e := s.entryAt c cfg n; decide (e.ty = tyReel ∧ e.pos + 1 = e.len) && (s.chan c).tx.isNone
    | none => false
  if heard = [] then s
  else { s with net := { s.net with floods := s.net.floods.map fun f =>
    if f.st = .sent then { f with waited := f.waited + heard.length } else f } }

/-! A sleeper's stay and energy (R271, R280), and the claim wait (R254). -/

def State.stayEnd (s : State) : State :=
  let x := s.slp
  match x.stay with
  | some (idle, sfs) =>
    let busy := x.moved || (match x.listed with | some l => l.2.1 | none => false)
    s.setSlp { x with stay := some (if busy then 0 else idle + 1, sfs), moved := false }
  | none => s.setSlp { x with moved := false }

def State.claimTick (s : State) : State :=
  if s.part = ptLost then { s with net := { s.net with claim := s.net.claim - 1 } } else s

/-- The end of the slot in progress, of all that it measured. -/
def State.slotEnd (s : State) (x : SlotIn) : State :=
  let s1 := x.imps.foldl (fun s m => match s.impChan m.port.val with | some cfg => s.impMeasure cfg m | none => s) s
  let s2 := x.ports.foldl (fun s p => s.portEnd p) s1
  let s3 := (x.quiet ++ x.rest).foldl (fun s y => s.noiseFrom s.slot y) ((List.range 64).foldl (fun s c => s.quietEnd c x.quiet) s2)
  let s4 := (List.range 64).foldl (fun s c => s.mirrorTaps c) (x.echo.foldl (fun s e => s.echoTest e) s3)
  let s5 := s4.reelHeard
  let s6 := (List.range 64).foldl (fun s c => s.chanEnd c) s5.probesEnd
  ((s6.slew.rootSlot.claimTick).stayEnd).addEnergy (s6.fld .slp F.SLP_POWER_P_AWAKE * 1000 * s6.slotNs)

end Sys2Proof.Machine
end

