-- ==== Sys2Proof/Machine/Boundary.lean ====
section
/-! DEFINITION. Slot and superframe boundaries (R183, R196, R277): what they bring, and the wake from SLUMBER. -/

set_option Elab.async false

namespace Sys2Proof.Machine

/-! Receive paths (R75 to R77, R104). -/

/-- The NCO word of a centre frequency. -/
def ncoWord (hz : Nat) : Nat := (2 * hz * 2 ^ 32 + 4096000) / (2 * 4096000)

/-- The channels that bind a receive path of a port in this slot. -/
def State.pathChans (s : State) (p : Nat) : List Nat :=
  ((List.range 64).filter fun c => match s.live c with
    | some cfg => s.binds c cfg && (cfgPorts cfg).contains p && s.inSvc p
    | none => false).take 2

/-- One receive path of a port is bound, or free. -/
def State.bindPath (s : State) (p k : Nat) (c : Option Nat) : State :=
  let g := portPage p
  match c with
  | none => s.setReg g (0x05C + 8 * k) 0
  | some c =>
    let cfg := (s.live c).getD []
    let s1 := ((s.setFlag g (F.NP_PATH_VALID.at k) true).setFld g (F.NP_PATH_CHANNEL.at k) c).setFlag g (F.NP_PATH_RATE.at k)
      (decide (cfgGet cfg F.CH_CFG_NUMER = 1))
    if p < 12 then s1.setFld g (F.NP_NCO_NCO.at k) (ncoWord (cfgGet cfg F.CH_FREQ_FC_HZ)) else s1

/-- The receive gain of a port, from the level in the guard. DESIGN CHOICE (log 223): a fixed code above the port's highest acts as
the highest. The instant of a step is kept (R141). -/
def State.setGain (s : State) (p : Nat) (cs : List Nat) (level : Option Nat) : State :=
  let g := portPage p
  match (cs.head?).bind s.live with
  | none => s
  | some cfg =>
    let s1 := match level with | some l => s.setFld g F.NP_RX_STAT_LEVEL (min 255 l) | none => s
    let old := s.fld g F.NP_RX_STAT_GAIN
    let code :=
      if cs.any fun c => (s.chan c).frozen then old
      else if cfgFlag cfg F.CH_GAIN_AUTO then (level.map (autoGain p old)).getD old
      else min (maxGain p) (cfgGet cfg F.CH_GAIN_CODE)
    if code = old then s1 else (s1.setPort p { s1.port p with gainCt := some s.ct }).setFld g F.NP_RX_STAT_GAIN code

/-- The notches of a W-port that are active, as its page holds them: none where START lies above END (R98). -/
def State.pageNotches (s : State) (p : Nat) : List (Nat × Nat) :=
  if p < 12 then []
  else (List.range 64).filterMap fun j =>
    let w := s.reg (portPage p) (0x100 + 4 * j)
    let lo := w.toNat % 4096
    let hi := w.toNat / 4096 % 4096
    if w.getLsbD 31 && decide (lo ≤ hi) then some (lo, hi) else none

/-- What takes effect at a port with a slot: a port that has left service stops (R85), a W-port is silenced or freed as stage 1 has it
(R94), and its notches as written come into force (R98). -/
def State.portSlotStart (s : State) (p : Nat) : State :=
  let s1 := if (s.port p).leaving then s.stopPort p else s
  s1.setPort p { s1.port p with held := decide (12 ≤ p) && s.stageShed 1, notch := s.pageNotches p }

/-- A port at the start of a slot. -/
def State.bindPort (s : State) (guard : List (Fin 16 × Nat)) (p : Nat) : State :=
  let cs := s.pathChans p
  let s1 := ((s.bindPath p 0 cs[0]?).bindPath p 1 cs[1]?).setFlag (portPage p) F.NP_RX_STAT_OVERLOAD false
  s1.setGain p cs ((guard.find? fun e => decide (e.1.val = p)).map (·.2))

/-- The search and learning jobs of a channel's slot (Table 06-2, Table 06-4): a search is ready at the end of its window, learning with
each block of 1,024 samples. -/
def State.slotJobs (s : State) (c : Nat) : State :=
  match s.live c with
  | none => s
  | some cfg =>
    let n := cfgGet cfg F.CH_CFG_NUMER
    let e := s.entryAt c cfg s.slot
    let start := s.slot * 2 ^ 20
    let turns := fun (ns : Nat) => ceilDiv (samplesE6 n ns) 1024000000
    let blockNs := if n = 1 then 4000000 else 1000000
    if !s.binds c cfg then s
    else if e.ty = tyQuiet then
      (s.chan c).tpl.foldl (fun s t => (List.range (turns s.slotNs)).foldl (fun s b => s.addJob { newJob 2 .quiet c t.port b 1
        (s.dueAfter (start + 2 ^ 20) s.symNs) [] with
          slot := s.slot, ready := some (min (start + 2 ^ 20 - 1) (start + s.nsToCt ((b + 1) * blockNs))) }) s) s
    else if e.pos ≠ 0 then s
    else
      let con := decide (e.ty = tyContend)
      let win := cfgAllow cfg + 20000 + if con then 8 * miniNs n else 0
      let close := start + s.nsToCt (entryGuardNs n con + cfgAllow cfg + 10000)
      (s.servicePorts cfg).foldl (fun s p => s.addJob { newJob 2 .search c p 0 (turns win)
        (s.dueAfter close s.symNs) [] with slot := s.slot, ready := some close }) s

/-- A channel's entry begins: its type and status. -/
def State.chanStart (s : State) (c : Nat) : State :=
  match s.live c with
  | none =>
    if (s.chan c).ty = tyOff then s
    else (s.setChan c { s.chan c with ty := tyOff, heard := none, won := none, lost := [] }).setReg (chPage c) 0x074 0
  | some cfg => s.setChan c { s.chan c with ty := (s.entryAt c cfg s.slot).ty, heard := none, won := none, lost := [] }

/-- `CH_STAT` of the slot. -/
def State.chanStat (s : State) (c : Nat) : State :=
  match s.live c with
  | none => s
  | some cfg =>
    let p := chPage c
    let s1 := ((s.setFld p F.CH_STAT_TYPE (s.chan c).ty).setFld p F.CH_STAT_ENTRY (s.slot % 64)).setFlag p F.CH_STAT_TX (s.chan c).tx.isSome
    s1.setFlag p F.CH_STAT_RX (s.binds c cfg && (s.servicePorts cfg != []))

/-! What starts with a slot. -/

/-- The transmission that was prepared for the slot is the channel's. -/
def State.takePrep (s : State) (c : Nat) : State :=
  let x := s.chan c
  let gone := x.prep.toList ++ (x.later.filter fun t => decide (t.slot ≠ s.slot)).toList
  let s1 := gone.foldl (fun s t => s.giveUp c t) s
  s1.setChan c { s1.chan c with prep := x.later.filter (fun t => decide (t.slot = s.slot)), later := none }

/-- A prepared transmission of an owned slot starts. -/
def State.dataStart (s : State) (c : Nat) : State :=
  match s.live c, (s.chan c).prep with
  | some cfg, some x => if x.ty = tyTx then s.sendTx c cfg x else s
  | _, _ => s

/-- The codewords' room in an entry under the default map. -/
def defaultBits (nd : Nat) (set : List Nat) : List Nat := (List.range nd).map fun t => 2 * cellsIn 12 1 t set

/-! What the device originates beside queued frames is made ready at the start of slot t − 1 for slot t (R27, R164, R205): floods of its
own, WAKE frames, beacons and soundings. -/

/-- A transmission of the next slot is prepared: checked against the ledger, with its jobs; `no` tells what follows where every sub-band
refuses it. -/
def State.prepare (s : State) (c : Nat) (cfg : List Word) (x : Tx) (no : State → State) : State :=
  match s.dwlCheck c cfg x with
  | (none, s1) => no s1
  | (some y, s1) => let s2 := s1.addTxJobs c cfg y; s2.setChan c { s2.chan c with later := some y }

/-- The transmission prepared for the slot in progress goes out where `ok` allows it, and `sent` follows; else it is given up. -/
def State.startOwn (s : State) (c : Nat) (ok : Bool) (sent : State → State) : State :=
  match s.live c, (s.chan c).prep with
  | some cfg, some x =>
    if !ok then let s1 := s.giveUp c x; s1.setChan c { s1.chan c with prep := none }
    else let s1 := s.sendTx c cfg x; if (s1.chan c).tx.isSome then sent s1 else s1
  | _, _ => s

/-! WAKE frames (R268). -/

/-- How many sleepers an entry's WAKE frame can list. -/
def wakeFits (r : Room) (tag n : Nat) : Nat :=
  (((List.range n).map (· + 1)).filter fun m => r.fits [44 + 4 * m + tag]).foldl max 0

/-- The sleepers due in the down entry of a channel at a slot, by their directory entries, with the slot of the pair's up entry. -/
def State.downAt (s : State) (c : Nat) (cfg : List Word) (slot : Nat) : Option (List Nat × Option Nat) :=
  let e := s.entryAt c cfg slot
  let sf := slot / 64 % 2 ^ 38
  if e.ty ≠ tyRdv ∨ e.pos ≠ 0 ∨ s.feat 9 = false then none
  else
    let ps := rdvPairs (s.tableIn c (slot / 64)) cfg e.arg
    ((ps.zipIdx).find? fun q => decide (q.1.1 = slot % 64)).map fun q =>
      (s.dueSleepers c sf e.arg q.2 ps.length, q.1.2.map (64 * sf + ·))

/-- WAKE frames that no channel waits for are dropped. -/
def State.dropWakes (s : State) : State :=
  let held := (List.range 64).filterMap fun c => (s.chan c).wake.bind fun w => if s.slot ≤ w.1 then some w.2.1 else none
  { s with net := { s.net with frames := s.net.frames.filter fun f => decide (f.mode ≠ 4) || held.contains f.id } }

/-- The WAKE frame of a down entry two slots ahead is made, and goes to the lanes. -/
def State.makeWake (s : State) (c : Nat) : State :=
  match s.live c with
  | none => s
  | some cfg =>
    let t := s.slot + 2
    match s.downAt c cfg t, s.deviceKey with
    | some (due, _), .slot k _ =>
      match s.slot? k, s.room c cfg t 0xFFFFFF 0 with
      | some x, some r =>
        let l := s.wakeList due
        let m := l.take (wakeFits r x.frameTag l.length)
        if m = [] || !s.mayTx cfg then s
        else
          let i := s.newId
          let h := { (s.devMac 4 0 0 0xFFFFFF 0 0 true true) with netid := s.chanNet c }
          let s1 := i.2.keyFrame { Frame.new i.1 .dev 4 255 h.bytes (s.wakePayload m) with copies := [c] }
          s1.setChan c { s1.chan c with wake := some (t, i.1, m) }
      | _, _ => s
    | _, _ => s

/-- The WAKE frame of a down entry in the next slot, once it is protected. -/
def State.placeWake (s : State) (c : Nat) (cfg : List Word) (slot : Nat) : State :=
  match (s.chan c).wake with
  | some (t, id, _) =>
    match (if t = slot then s.frame? id else none), s.room c cfg slot 0xFFFFFF 0 with
    | some f, some r =>
      if f.st ≠ .ready then s
      else
        let bytes := putLink f.bytes s.ownNode 0
        let e := s.entryAt c cfg slot
        let w := payloadCws 0 [bytes.length]
        let nd := symsFor r.bits (codedBits w.1 w.2.1 w.2.2)
        let fc := carryFc 6 (e.len - 1) 0 0 false 0 w 0 0 nd (cfgGet cfg F.CH_CFG_NETID) 63
        s.prepare c cfg (newTx cfg slot e fc r.nFc r.set (r.bits.take nd) [] [bytes] 0xFFFFFF false) fun s => s.deferTx c
    | _, _ => s
  | none => s

/-- A down entry begins on a channel: the sleepers that are due in it are asleep until they answer, and its WAKE frame goes out and opens
their answer windows. -/
def State.wakeChan (s : State) (c : Nat) : State :=
  match s.live c with
  | none => s
  | some cfg =>
    match s.downAt c cfg s.slot with
    | none => s
    | some (due, up) =>
      let nodes := due.map s.dirNode
      let s1 := s.setSlp { s.slp with awake := s.slp.awake.filter fun n => !nodes.contains n }
      let list := match (s1.chan c).wake with | some (t, _, m) => if t = s1.slot then m else [] | none => []
      s1.startOwn c true fun s =>
        let s2 := s.bump .slp 4
        match up with
        | none => s2
        | some u =>
          let open_ := s2.slp.answers.filter fun a => decide (s.slot ≤ a.2.1)
          s2.setSlp { s2.slp with answers := open_ ++ [(c, u, (list.zipIdx).map fun e => (e.2, e.1.1, e.1.2))] }

/-! Beacons (R193, R194) and soundings (R144, R190, R191). -/

/-- A beacon for an entry of the node's own hop count in the next slot. -/
def State.placeBeacon (s : State) (c : Nat) (cfg : List Word) (slot : Nat) : State :=
  let e := s.entryAt c cfg slot
  let set := s.setAt c cfg slot
  let y := s.symbolsAt c cfg slot
  match s.beaconKey with
  | none => s
  | some key =>
    if e.arg % 64 ≠ s.hop ∨ s.stageShed 2 = true ∨ s.part = ptLost ∨ beaconBits y.1 set < 512 then s
    else
      let body := (s.ownBeacon slot).body
      let fc := carryFc 3 0 0 0 false 0 (0, 1, 0) 0 0 y.1 (cfgGet cfg F.CH_CFG_NETID) 0
      s.prepare c cfg (newTx cfg slot e fc y.2 set (defaultBits y.1 set) [] [body ++ beaconTag key body] 0xFFFFFF false) fun s => s.bump .dwl 2

/-- The beacon of an entry that begins, where the node still beacons in it. -/
def State.beaconChan (s : State) (c : Nat) : State :=
  match s.live c with
  | none => s
  | some cfg =>
    let e := s.entryAt c cfg s.slot
    if e.ty ≠ tyBeacon then s
    else s.startOwn c (decide (e.arg % 64 = s.hop ∧ s.part ≠ ptLost) && !s.afterStep) fun s => s.bump .sch 1

/-- The number of a SOUND slot of a channel, counted from slot 0. -/
def State.soundIndex (s : State) (c : Nat) (cfg : List Word) (slot : Nat) : Nat :=
  let t := s.tableIn c (slot / 64)
  let l := (List.range 64).filter fun i => decide ((effEntry t cfg i).ty = tySound)
  slot / 64 * l.length + (l.filter fun i => decide (i < slot % 64)).length

/-- The sounding record, with its ranging fields. VALID tells that θ is locked (log 245). -/
def State.soundRecord (s : State) (c k ports : Nat) : List Nat :=
  let x := s.chan c
  let r := match x.lastSounds.head? with
    | some (n, seq, a, snr) => leBytes 3 n ++ leBytes 2 seq ++ leBytes 4 ((a % 2 ^ 32).toNat) ++ leBytes 2 snr ++ [1]
    | none => List.replicate 12 0
  leBytes 3 s.ownNode ++ [(ports - 1) % 4 * 4] ++ leBytes 2 (x.soundSeq % 65536) ++ [k % 256, if s.thetaSent.isSome then 1 else 0] ++
    leBytes 2 (s.thetaSent.getD 0) ++ r ++ [0, 0]

/-- A sounding for a SOUND slot whose rank the node holds, in the next slot. -/
def State.placeSound (s : State) (c : Nat) (cfg : List Word) (slot : Nat) : State :=
  let e := s.entryAt c cfg slot
  let rank := cfgGet cfg F.CH_SOUND_RANK
  let y := s.symbolsAt c cfg slot
  if rank = 255 ∨ s.soundIndex c cfg slot % max 1 (cfgGet cfg F.CH_SOUND_RANKS) ≠ rank ∨ y.1 < 2 ∨ s.stageShed 2 = true then s
  else
    let set := s.setAt c cfg slot
    let bits := (defaultBits 1 set) ++ List.replicate (y.1 - 1) 0
    let fc := carryFc 4 0 0 0 false 0 (0, 1, 0) 0 0 y.1 (cfgGet cfg F.CH_CFG_NETID) 0
    s.prepare c cfg (newTx cfg slot e fc y.2 set bits [] [s.soundRecord c (y.1 - 1) (s.txPorts cfg).length] 0xFFFFFF false) fun s => s.bump .dwl 2

/-- The sounding of a SOUND slot that begins. -/
def State.soundChan (s : State) (c : Nat) : State :=
  if (s.chan c).ty ≠ tySound then s
  else s.startOwn c true fun s =>
    let x := s.chan c
    s.setChan c { x with soundReq := false, soundSeq := (x.soundSeq + 1) % 65536, lastSounds := x.lastSounds.drop 1 ++ x.lastSounds.take 1 }

/-- A flood of the node's own for a REEL entry in the next slot, unless its encode work is reserved (R225). -/
def State.placeReel (s : State) (c : Nat) (cfg : List Word) (slot : Nat) : State :=
  if !s.reelMay c cfg slot || decide ((s.chan c).reserve = some slot) then s
  else match (s.reelOwn c).bind fun f => s.reelTx c cfg slot f with
    | some x => s.prepare c cfg x fun s => s.deferTx c
    | none => s

/-- A REEL entry begins on a channel with a flood of the node's own prepared for it: a flood that the node relays goes before it (R235). -/
def State.reelStart (s : State) (c : Nat) : State :=
  match s.live c, (s.chan c).prep with
  | some cfg, some x =>
    if x.ty ≠ tyReel then s
    else
      match s.net.floods.find? fun f => decide (some f.bytes = x.bytes.head? ∧ f.st = .eligible) && f.left.contains c with
      | some f => s.startOwn c (s.reelPick c false).isNone fun s => s.reelSent c f
      | none => s.startOwn c false id
  | _, _ => s

/-- What the device originates for the next slot beside queued frames. -/
def State.placeOwn (s : State) : State :=
  (List.range 64).foldl (fun s c =>
    match s.live c with
    | none => s
    | some cfg =>
      let t := s.slot + 1
      let e := s.entryAt c cfg t
      if (s.chan c).later.isSome || !s.mayTx cfg || !s.settled c t || decide (e.pos ≠ 0) then s
      else if e.ty = tyReel then s.placeReel c cfg t
      else if e.ty = tyRdv then s.placeWake c cfg t
      else if e.ty = tyBeacon then s.placeBeacon c cfg t
      else if e.ty = tySound then s.placeSound c cfg t
      else s) s

/-- The work of a slot's start for the slots that follow (R27). -/
def State.placeAhead (s : State) : State :=
  let s1 := s.placeNext.placeOwn.dropWakes
  ((List.range 64).foldl State.makeWake s1).dispatch

/-- The mains cycle of an instant, by the node's own zero crossing. -/
def State.cycleOf (s : State) (ct : Nat) : Nat := (ct + 2 ^ 21 - s.ownTheta % 2 ^ 21) / 2 ^ 21

/-- Whether a port probes in a QUIET slot of a channel (R80, R87): it is asked to, may drive, and no other channel that names it holds a
transmitting entry in the slot. -/
def State.probes (s : State) (c p : Nat) : Bool :=
  s.flag (portPage p) F.NP_IMP_CTRL_QUIET_PROBE && s.driverOk p && (s.port p).txCh.isNone && !s.stageShed 2 &&
    (s.portChans p).all fun d => decide (d = c) || match s.live d with
      | some cfg => !transmits (s.entryAt d cfg s.slot).ty
      | none => true

/-- A port's probe: its phases are drawn anew for each mains cycle that the slot touches, and it goes out over the slot. -/
def State.probePort (s : State) (c p : Nat) : State :=
  let first := s.cycleOf (s.slot * 2 ^ 20)
  let last := s.cycleOf (s.slot * 2 ^ 20 + 2 ^ 20 - 1)
  let att := 30 + 3 * s.fld (portPage p) F.NP_IMP_CTRL_PROBE_ATT
  let s1 := (List.range (last + 1 - first)).foldl (fun s k =>
    if (s.port p).probe = some (first + k) then s
    else
      let d := s.draw
      (d.2.setPort p { d.2.port p with probe := some (first + k) }).emit (.probe p c att d.1)) s
  let s2 := s1.setPort p { s1.port p with txCh := some c, drive := some (s.slot * 2 ^ 20, (s.slot + 1) * 2 ^ 20), probing := true }
  (s2.setFlag (portPage p) F.NP_TX_STAT_VALID true).setFld (portPage p) F.NP_TX_STAT_CHANNEL c

/-- The probes of a channel's QUIET slot (R87). -/
def State.probeChan (s : State) (c : Nat) : State :=
  match s.live c with
  | none => s
  | some cfg =>
    if (s.entryAt c cfg s.slot).ty ≠ tyQuiet ∨ s.sync = false then s
    else (cfgPorts cfg).foldl (fun s p => if s.probes c p then s.probePort c p else s) s

/-- Everything that a device that may transmit starts with a slot. -/
def State.startTx (s : State) : State :=
  let all := fun (s : State) (f : State → Nat → State) => (List.range 64).foldl f s
  let s1 := all s fun s c => (s.relayChan c true).dataStart c
  let s2 := all s1 fun s c => (s.reelStart c).reelSlot c false
  all s2 fun s c => (((s.wakeChan c).beaconChan c).soundChan c).probeChan c

/-- The start of a slot. -/
def State.slotStart (s : State) (guard : List (Fin 16 × Nat)) : State :=
  let all := fun (s : State) (f : State → Nat → State) => (List.range 64).foldl f s
  let s1 := s.twinSlot.pauseSlot
  let s2 := if s1.stageShed 3 && (decide (s1.dom 16 = .on) || decide (s1.dom 17 = .on)) then ((s1.setDom 16 .off).setDom 17 .off).portsRemove
    else s1
  let s3 := all ((List.range 16).foldl State.portSlotStart s2) State.chanStart
  let s4 := if s3.serving && !s3.restarting then
      s3.proposeStale.drainTenants.retransmits.retryMsgs.retryPaths.rxAgain.dispatch.originate else s3
  let s5 := all s4 State.takePrep
  let s6 := if s5.ct % 2 ^ 20 ≠ 0 || s5.inPause then s5 else s5.startTx
  let s7 := (List.range 16).foldl (fun s p => s.bindPort guard p) (all s6 fun s c => (s.chanStat c).slotJobs c)
  if s7.twinPrepares && s7.mayPlace then s7.asServing State.placeAhead else s7

/-! The superframe boundary. -/

/-- Whether a map loads one side of the split of R132 only. -/
def State.oneSided (s : State) (cfg : List Word) (m : MapRef) : Bool :=
  let h := s.tmapGet (blockWord m.block + 2)
  oneSidedRows (h / 2 ^ 12 % 4096) (h / 2 ^ 24 % 4096) (s.mapRows (cfgGet cfg F.CH_CFG_NUMER) m)

/-- The duplex state of every full-duplex channel follows the maps in force (R132). -/
def State.duplexBoundary (s : State) : State :=
  (List.range 64).foldl (fun s c =>
    match s.live c with
    | some cfg =>
      if cfgFlag cfg F.CH_CFG_FULL_DUPLEX then
        let split := s.line.links.any fun l => decide (l.chan = c) && (l.tx.cur.toList ++ l.rx.cur.toList).any (s.oneSided cfg)
        s.setDuplex c (!split) split
      else s
    | none => s) s

/-- A station's figures of the superframe that ends (R178, R182). -/
def State.stnFigures (s : State) (k : Nat) : State :=
  let p := stnPage k
  let x := s.stn k
  let m := if x.avail = 0 then 0 else min 65535 (x.busy * 1000 / x.avail)
  let mean := if x.started = 0 then 0 else min 65535 (16 * x.waitSum / x.started)
  let s1 := ((s.setFld p F.SPX_STN_LOAD_MEASURED m).setFld p F.SPX_STN_PEAK_PEAK (max m (s.fld p F.SPX_STN_PEAK_PEAK))).setFld p
    F.SPX_STN_WAIT_MEAN mean
  let s2 := s1.setFld p F.SPX_STN_WAIT_MAX (min 65535 x.waitMax)
  let s3 := if x.late && !s.status p 18 then s2.event p 2 else s2
  (s3.setStatus p 18 x.late).setStn k { x with late := false, busy := 0, avail := 0, started := 0, waitSum := 0, waitMax := 0 }

/-- The figures of the superframe that ends. -/
def State.sfFigures (s : State) (x : SfIn) : State :=
  let s1 := (List.range 6).foldl (fun s i => s.stnFigures (i + 1)) s
  let s2 := ((s1.setFld .pwr F.PWR_IDLE_RESIDENCY (min 1000 x.idle)).setFld .cph F.CPH_LOAD_BUSY (min 1000 x.load)).twnLag
  match x.ppm with
  | some v => (s2.setFlag .clk F.CLK_XTAL_ERR_VALID true).setFld .clk F.CLK_XTAL_ERR_PPM (satSigned 16 v)
  | none => s2

/-- Settings, versions and figures come into force. -/
def State.sfForce (s : State) : State := ((List.range 64).foldl (fun s c => s.channelBoundary c) s).versionBoundary.takeL4.figureBoundary

/-- What a superframe boundary brings, before its slot starts. -/
def State.sfWork (s : State) (x : SfIn) : State :=
  let s1 := (s.sfFigures x).ctStep.portsRejoin.sfForce
  let s2 := s1.mapsAtSuperframe.duplexBoundary.linksAtSuperframe.ageRoutes
  let s3 := (s2.mergeEnd s2.line.sched.parentSf).parentLoss
  let s4 := if s3.net.advSoon && !s3.restarting then s3.advertise else s3
  let s5 := s4.airReplenish.slpPlan
  (s5.setSlp { s5.slp with stay := s5.slp.stay.map fun y => (y.1, y.2 + 1) }).swapBoundary

/-! The commands. -/

/-- The next slot begins: its number, and the supervisor's readings. -/
def State.nextSlot (s : State) (x : SlotIn) : State :=
  let s1 : State := { s with ct := (s.slot + 1) * 2 ^ 20 % 2 ^ 64 }
  let s2 := s1.setSched { s1.line.sched with slotN := s1.line.sched.slotN + 1 }
  (s2.setPwr { s2.pwr with vin := x.vin, vbat := x.vbat }).rtcAdd x.edges

/-- SLOT_BOUNDARY: the slot in progress ends and the next begins; where that begins a superframe, its start follows with
SUPERFRAME_BOUNDARY. A SLUMBER request that has been accepted is carried out. -/
def execSlotBoundary (x : SlotIn) (s : State) : Host.Outcome State Fault Refusal :=
  .next (
    if !s.running || s.line.sched.due then s
    else
      let s1 := (s.endIdle.slotEnd x).nextSlot x
      let first := decide (s1.slot % 64 = 0)
      if s1.pwr.slumberDue then
        let y := s1.line.sched
        (s1.setSched { y with due := first, sfN := if first then y.sfN + 1 else y.sfN }).enterSlumber
      else if first then s1.setSched { s1.line.sched with due := true }
      else s1.slotStart x.guard)

/-- SUPERFRAME_BOUNDARY: the slot that has begun is the first of a superframe. -/
def execSuperframeBoundary (x : SfIn) (s : State) : Host.Outcome State Fault Refusal :=
  .next (
    if !s.running || !s.line.sched.due then s
    else
      let s1 := s.setSched { s.line.sched with due := false, sfN := s.line.sched.sfN + 1 }
      (s1.sfWork x).slotStart x.guard)

/-- WAKE_COMPLETE: the wake from SLUMBER is complete, `slots` slots after the one in which the device went to sleep, 2^-20 slot
`frac` within it, with the edges of the RTC's clock counted meanwhile. -/
def execWakeComplete (slots frac edges : Nat) (s : State) : Host.Outcome State Fault Refusal :=
  .next (
    if s.pwr.mode ≠ .waking then s
    else
      let y := s.line.sched
      let s1 := (s.slept slots frac).rtcAdd edges
      let sfs := decide (sfOf s.ct ≠ sfOf s1.ct) || y.due
      let s2 := (s1.setSched { s1.line.sched with due := false }).addEnergy (s.fld .slp F.SLP_POWER_P_SLUMBER * (s.ctSpan s.ct s1.ct / 2 ^ 20))
      let s3 := if sfs then s2.sfForce else s2
      let s4 := s3.wakeDone
      let s5 := (List.range 64).foldl (fun s c => ((s.chanStart c).chanStat c).slotJobs c) s4
      let s6 := (List.range 16).foldl (fun s p => s.bindPort [] p) s5
      if s6.slpOn && decide (s6.slpState = slAsleep) then
        let t := s6.setSlpState slAwake
        t.setSlp { t.slp with listed := none, held := false, moved := false, stay := if (t.reg .pwr 0x060).getLsbD 0 then none else some (0, 0) }
      else s6)

end Sys2Proof.Machine
end

