-- ==== Sys2Proof/Machine/Health.lean ====
section
/-! DEFINITION. Background tests and scrubs, and the HEALTHY pin's control (R357, R363, R380, R381). -/

set_option Elab.async false

namespace Sys2Proof.Machine

/-- A repair of an SBUF (true) or tone-map row, or, with no spare row left, its failing words, which read poisoned from now on. -/
def State.rowRepair (s : State) (sbuf : Bool) (words : List Nat) : State :=
  let f := if sbuf then F.HLT_REPAIR_SBUF_SPARE else F.HLT_REPAIR_TMAP_SPARE
  let n := s.fld .hlt f
  if n = 0 then
    { s with mem := { s.mem with rowBad := s.mem.rowBad ++ (words.map fun w => (sbuf, w)).filter fun x => !s.mem.rowBad.contains x } }
  else
    let s1 := ((s.setFld .hlt f (n - 1)).event .hlt 3).bump .hlt 4
    if n = 4 then s1.event .hlt 2 else s1

/-- ROW_MARCH_TEST: one row of a store is tested, its contents moved aside; `words` are the row's failing words. -/
def execRowMarchTest (sbuf fail : Bool) (words : List Nat) (s : State) : Host.Outcome State Fault Refusal :=
  .next (if s.dom 10 == .on && fail then s.rowRepair sbuf words else s)

/-- SRAM_SCRUB: a pass over the processor SRAM has corrected so many words. -/
def execSramScrub (corrected : Nat) (s : State) : Host.Outcome State Fault Refusal :=
  .next (if s.running then s.bumpBy .hlt 0 corrected else s)

/-- DRAM_SCRUB: words of DRAM are read and each corrected one rewritten; `bad` are the words of the directory that cannot be
corrected. -/
def execDramScrub (corrected : Nat) (bad : List Nat) (s : State) : Host.Outcome State Fault Refusal :=
  .next (
    if !(s.running && s.pwr.dram.trained) then s
    else
      let s1 := s.bumpBy .hlt 6 corrected
      let s2 : State := { s1 with mem := { s1.mem with dirBad := s1.mem.dirBad ++ bad.filter fun w => !s1.mem.dirBad.contains w } }
      if bad = [] then s2 else s2.scrubUncorr bad.length)

/-- A write of `HLT_CFG`. -/
def hltCfgWrite (p : Page) (w : Word) (s : State) : State := (applyWrite p 0x044 w s).healthyPin

/-- FORCE_LOW_WRITE: a write of `HLT_CFG.FORCE_LOW` holds or releases HEALTHY. -/
def execForceLowWrite (q : Req) (s : State) : Host.Outcome State Fault Refusal := .next (writeWord q .hlt 0x044 hltCfgWrite s)

end Sys2Proof.Machine
end

