-- ==== Sys2Proof/Machine/Mains.lean ====
section
/-! DEFINITION. Sampling instants of the monitor chains, mains loss and the last gasp that it triggers (R382, R401, R402). -/

set_option Elab.async false

namespace Sys2Proof.Machine

/-- What follows a sampling instant or a timeout: a loss event triggers the last gasp where F22 is accepted and the mains
trigger is armed, and is counted where it begins an episode; a restored mains can end one. -/
def State.lossAct (s : State) (loss : Bool) : State :=
  if loss && s.feat 22 && s.lgMainsArmed then
    let first := !s.mains.lgOpen
    let s1 := s.lastGasp 2
    if first then s1.bump .mns 4 else s1
  else s.lgEnd

/-- Corridor time within the slot in progress. -/
def State.atFrac (s : State) (frac : Nat) : State := { s with ct := s.ct / 2 ^ 20 * 2 ^ 20 + frac % 2 ^ 20 }

/-- VS_SAMPLE: one sampling instant of the three VS inputs, with the tap words of the ports, at a place within the slot. -/
def execVsSample (frac : Nat) (va vb vc : Int) (taps : List Nat) (s : State) : Host.Outcome State Fault Refusal :=
  .next (
    if !s.vsRuns then s
    else
      let r := (s.atFrac frac).vsInstant [va, vb, vc] taps
      r.1.lossAct r.2)

/-- MAINS_TIMEOUT: TIMEOUT_MS has passed without a valid crossing. -/
def execMainsTimeout (frac : Nat) (s : State) : Host.Outcome State Fault Refusal :=
  .next (
    if !s.vsRuns then s
    else
      let r := (s.atFrac frac).mainsTimeout
      r.1.lossAct r.2)

end Sys2Proof.Machine
end

