-- ==== Sys2Proof/Machine/Views.lean ====
section
/-! DEFINITION. What a register shows: the header's words (R33 to R43), and the words of which hardware holds a part. -/

set_option Elab.async false

namespace Sys2Proof.Machine

/-! The header. -/

/-- The block-specific status bits that are not stored (R39 and each chapter). -/
def State.blockStatus (s : State) (p : Page) : Nat :=
  match p with
  | .np n => s.portStatus n.val
  | .wp w => s.portStatus (12 + w.val)
  | .spx k => if k.val = 0 ∧ s.line.spx.queue ≠ [] then 2 ^ 16 else 0
  | .mon m => s.monStatus m
  | .mns => s.mnsStatus
  | .cph => s.cphStatus
  | .twn => s.twnStatus
  | .upd => s.updStatusBits
  | _ => 0

/-- Whether a port page's description is invalid, so that it is not ready (R74). -/
def State.pageCfgErr (s : State) (p : Page) : Bool :=
  match p with
  | .np n => s.portCfgErr n.val
  | .wp w => s.portCfgErr (12 + w.val)
  | _ => false

/-- READY: enabled, not in soft reset, its domain on. -/
def State.ready (s : State) (p : Page) : Bool :=
  s.enabled p && !s.softReset.contains p && s.pageOn p && !s.pageCfgErr p

/-- Whether a port carries a transmission or a reception of some channel. -/
def State.portBusy (s : State) (p : Nat) : Bool :=
  s.line.chans.any fun x => (x.tx.isSome || x.rx.isSome) && match x.live with
    | some cfg => (cfgPorts cfg).contains p
    | none => false

/-- Whether a page's block holds work in flight. A channel that is being stopped holds work until it stands still. -/
def State.hasWork (s : State) (p : Page) : Bool :=
  match p with
  | .ch c => (s.chan c.val).tx.isSome || (s.chan c.val).rx.isSome || ((s.chan c.val).stop && (s.chan c.val).live.isSome)
  | .spx k => if k.val = 0 then s.line.spx.queue ≠ [] else s.line.spx.jobs.any fun j => decide (j.stn = k.val) && s.holds j
  | .np n => s.portBusy n.val
  | .wp w => s.portBusy (12 + w.val)
  | .cph => s.cph.lanes.any (·.isSome)
  | .key => s.cph.busy
  | .dir => s.net.dirCmd.isSome
  | .rly => s.net.frames.any fun f => decide (f.kind = .fwd)
  | .uart u => (s.uart u).busy
  | .cnt => s.gather.busy
  | .rst => s.nvm.saving.isSome
  | .upd => s.updBusy
  | .tnt t | .tpage t | .dbell t | .crq t =>
    let x := s.tenant t
    x.inflight ≠ 0 || x.msgs ≠ [] || x.creqs ≠ [] || x.comps ≠ [] || x.waits ≠ [] || x.deliv.isSome
  | _ => false

/-- `PG_STATUS` (R39). QUIESCENT of a block that takes work tells whether it holds any in flight; once ENABLE is 0, it rises
when that work has ended (R37). -/
def State.statusWord (s : State) (p : Page) : Word :=
  (s.reg p offStatus &&& (if s.enabled p then 0xFFFF0000 else 0xFFFF0004)) ||| BitVec.ofNat 32 (s.blockStatus p +
    (if s.isolated p then 8 else 0) + (if s.enabled p && !s.hasWork p then 4 else 0) +
    (if s.reg p offFault ≠ 0 then 2 else 0) + (if s.ready p then 1 else 0))

/-- A word of the header. -/
def State.headerWord (s : State) (p : Page) (off : Nat) : Word :=
  match off with
  | 0x000 => identWord p
  | 0x004 => revWord
  | 0x008 => BitVec.ofNat 32 (pageFeat p)
  | 0x00C => (s.reg p offCtrl &&& 0x5) ||| (if alwaysEnabled p then 1 else 0)
  | 0x010 => s.statusWord p
  | 0x01C => 0
  | 0x02C => pageOwner p
  | _ => s.reg p off

/-! The pages whose chapters give no view of their own. -/

/-- The DEV page (Table 02-10). -/
def State.devView (s : State) (off : Nat) : Option Word :=
  match off with
  | 0x040 => some (BitVec.ofNat 32 s.offer)
  | 0x044 => some 0
  | 0x048 => some 0
  | 0x04C => some 0
  | 0x090 => some s.evtGrp
  | 0x094 => some (s.evtCh 0)
  | 0x098 => some (s.evtCh 32)
  | _ => none

/-- FROZEN of a port: a frame is under reception on it (R75). -/
def State.portFrozen (s : State) (p : Nat) : Bool :=
  (List.range 64).any fun c => (s.chan c).rx.isSome && (match s.live c with | some cfg => (cfgPorts cfg).contains p | none => false)

/-- `NP_RX_STAT`. -/
def State.rxStat (s : State) (g : Page) (p : Nat) : Word :=
  F.NP_RX_STAT_FROZEN.put (if s.portFrozen p then 1 else 0) (s.reg g 0x058)

/-- SPX[0] (Table 06-7). -/
def State.spx0View (s : State) (off : Nat) : Option Word :=
  if off = 0x048 then
    some (F.SPX_ADM_STATUS_BUSY.put (if s.line.spx.queue = [] then 0 else 1) (s.reg (.spx 0) off))
  else if 0x05C ≤ off ∧ off ≤ 0x070 then
    let c := s.fld (.spx 0) F.SPX_CH_SEL_CHANNEL
    some (match s.admitted c with
      | some x => BitVec.ofNat 32 (s.perSecond ((s.tableCost (s.fld (.spx 0) F.SPX_DEC_ITER_IN_FORCE) x (s.table c)).getD ((off - 0x05C) / 4) 0))
      | none => 0)
  else none

/-- A station's page (Table 06-8). -/
def State.stnView (s : State) (k off : Nat) : Option Word :=
  match off with
  | 0x040 => some (BitVec.ofNat 32 ((stnG k + 1) * 65536 + stnG k))
  | 0x044 => some (BitVec.ofNat 32 (s.stnCap k))
  | 0x048 =>
    let d := (s.demand (s.fld (.spx 0) F.SPX_DEC_ITER_IN_FORCE) s.admittedSet).getD (k - 1) 0
    some (F.SPX_STN_LOAD_ADMITTED.put (s.perMille d (s.stnCap k)) (s.reg (stnPage k) off))
  | _ => none

/-- The HLT page (Table 12-8). -/
def State.hltView (s : State) (off : Nat) : Option Word :=
  match off with
  | 0x040 => some (BitVec.ofNat 32 ((if s.flag .hlt F.HLT_HEALTHY_LEVEL then 2 ^ 31 else 0) + s.healthyCause))
  | 0x048 => some (mgrPages.foldl (fun a p => if s.reg p offFault ≠ 0 then a ||| onesAt ((eventGroup p).getD 16) 1 else a) 0)
  | 0x058 => some (BitVec.ofNat 32 s.chip.devId)
  | 0x05C => some (BitVec.ofNat 32 (s.chip.devId / 2 ^ 32))
  | _ => none

/-- The SHP page; a serial access reads it within a frame. -/
def State.shpView (s : State) (serial : Bool) (off : Nat) : Option Word :=
  if off = 0x044 then
    some (F.SHP_STAT_HELD.put (if s.io.held.isSome then 1 else 0) (F.SHP_STAT_ACTIVE.put (if serial then 1 else 0) (s.reg .shp off)))
  else none

/-- Whether requests of a tenant are in progress: accepted, waiting for a lane, on one, or waiting for lanes to leave a slot. -/
def State.crBusy (s : State) (t : Fin 8) : Bool :=
  let mine := fun (r : CReq) => match r.work with | .direct u _ _ => decide (u = t.val) | _ => false
  (s.tenant t).creqs ≠ [] || s.cph.wait.any mine || s.cph.lanes.any (fun r => r.any mine) ||
    s.cph.slots.any fun e => match e.2.dying with | some (some x) => decide (x.1 = t.val) | _ => false

/-- The cipher request page (Table 11-16). -/
def State.crView (s : State) (t : Fin 8) (off : Nat) : Option Word :=
  match off with
  | 0x060 => some (BitVec.ofNat 32 (s.tenant t).crAcc)
  | 0x064 => some (BitVec.ofNat 32 (s.fld (.crq t) F.CR_CQ_STAT_HEAD))
  | 0x068 => some (F.CR_STAT_BUSY.put (if s.crBusy t then 1 else 0) (s.reg (.crq t) off))
  | _ => none

/-- `RST_BOOTCFG`. -/
def State.rstView (s : State) (off : Nat) : Option Word :=
  if off = 0x04C then
    some (BitVec.ofNat 32 ((if s.nvm.autoRest then 2 ^ 31 else 0) + (if s.nvm.boot ≠ [] then 2 ^ 28 else 0) +
      (if s.nvm.saving.isSome then 2 ^ 27 else 0)))
  else none

/-! Every page. -/

/-- A word of a page of which hardware holds a part; none where the stored word is what it shows. -/
def State.pageView (s : State) (p : Page) (serial : Bool) (off : Nat) : Option Word :=
  match p with
  | .dev => s.devView off
  | .pwr => s.pwrView off
  | .clk => s.clkView off
  | .rst => s.rstView off
  | .thm => s.thmView off
  | .nvm => s.nvmView off
  | .upd => s.updView off
  | .hif => s.hifView off
  | .shp => s.shpView serial off
  | .np n => if off = 0x058 then some (s.rxStat p n.val) else s.npView n off
  | .wp w => if off = 0x058 then some (s.rxStat p (12 + w.val)) else none
  | .spx k => if k.val = 0 then s.spx0View off else s.stnView k.val off
  | .sch => s.schView off
  | .dwl => s.dwlView off
  | .cmd => s.cmdView off
  | .rly => s.rlyView off
  | .seen => s.seenView off
  | .rte => s.rteView off
  | .dir => s.dirView off
  | .slp => s.slpView off
  | .tnt t => s.tntView t off
  | .cph => s.cphView off
  | .key => s.keyView off
  | .twn => s.twnView off
  | .hlt => s.hltView off
  | .mon m => s.monView m off
  | .mns => s.mnsView off
  | .uart u => s.uartView u off
  | .pmx => s.pmxView off
  | .cmdio => s.cmdioView off
  | .cnt => s.cntView off
  | .hst h => s.hstView h off
  | .ch c => s.adaptView c off
  | .tpage t => s.tpageView t off
  | .dbell t => s.dbView t off
  | .crq t => s.crView t off
  | .ucp t => s.ucpView t off
  | .fig | .ent => none

/-- The bits of a register that read zero because they are written only (R52). -/
def writeOnly (p : Page) (off : Nat) : Word :=
  (regFlds p off).foldl (fun a f => if f.acc = .wo then a ||| f.mask else a) 0

/-- What a word of a page reads as. -/
def State.shown (s : State) (p : Page) (serial : Bool) (off : Nat) : Word :=
  if off < 0x040 then s.headerWord p off
  else (s.pageView p serial off).getD (s.reg p off) &&& ~~~ writeOnly p off

end Sys2Proof.Machine
end

