-- ==== Sys2Proof/Machine/Boot.lean ====
section
/-! DEFINITION. The boot (R463), the choice of its image (R492, R493), what a start restores and tests (R177, R327, R339, R346), and
the saving of the boot record (R465). -/

set_option Elab.async false

namespace Sys2Proof.Machine

/-! The image. -/

/-- Whether a slot passes the check of a boot. -/
def State.bootable (s : State) (k : Nat) : Bool := decide (s.checkSlot k 6287360 = 0)

/-- A trial's start is counted, and the trial is reverted where R492 says so. -/
def State.trialStart (s : State) : State :=
  let a := s.nvm.act
  if !a.trial then s
  else
    let n := a.starts + 1
    if a.fatal || decide (3 ≤ n) then
      let s1 := s.dropTrial.setAct { a with trial := false, target := a.prev, starts := n, fatal := false }
      ((s1.setFlag .upd F.UPD_STAT_REVERTED true).event .upd 2).bump .upd 6
    else s.setAct { a with starts := n }

/-- The image runs from a slot. -/
def State.runSlot (s : State) (k : Nat) : State :=
  s.setNvm { s.nvm with
    running := k, recovery := false, slots2 := s.nvm.slots2.set k ⟨true, true⟩, upd := { s.nvm.upd with migr := s.nvm.act.trial } }

/-- The choice of image (R492): the slot that the activation record names, else the other, else recovery. -/
def State.imageChoice (s0 : State) : State :=
  let s := s0.trialStart
  let k := s.nvm.act.target
  let bad := fun (s : State) (j : Nat) => s.setImgSlot j ⟨false, false⟩
  if s.bootable k then s.runSlot k
  else if s.bootable (1 - k) then
    let s1 := ((bad s k).dropTrial).setAct { s.nvm.act with trial := false, target := 1 - k }
    (((s1.fault .upd 2 0).setFlag .upd F.UPD_STAT_FALLBACK true).bump .upd 6).runSlot (1 - k)
  else
    let s1 := bad (bad s k) (1 - k)
    s1.setNvm { s1.nvm with recovery := true }

/-! Restoration and self-tests. -/

/-- The privileged store and the saved key slots come back from MRAM; an entry that fails its check is cleared, with STORE (R327). -/
def State.restoreKeys (s : State) (r : BootIn) : State :=
  let pk := s.nvm.pk.zipIdx.map fun e => if e.2 ≠ 0 ∧ r.pkBad.any (fun k => k.val = e.2) then ⟨0, false, 0⟩ else e.1
  let slots := s.nvm.slots.filter fun e => !(r.slotBad.any fun k => k.val = e.1)
  let s1 : State := { s with cph := { s.cph with pk := pk, slots := slots } }
  let n := pk.zipIdx.find? fun e => decide (e.1 ≠ s.nvm.pk.getD e.2 ⟨0, false, 0⟩)
  let m := s.nvm.slots.find? fun e => r.slotBad.any fun k => k.val = e.1
  match n, m with
  | some e, _ => s1.fault .key 2 e.2
  | none, some e => s1.fault .key 2 e.1
  | none, none => s1

/-- The nonce counter resumes at the block after the highest recorded, which is recorded first (R339). -/
def State.resumeNonce (s : State) : State :=
  let b := match s.nvm.nonce with | some x => x + 1 | none => 0
  let s1 : State := { s with
    cph := { s.cph with nonce := b * 2 ^ 20, limit := (b + 1) * 2 ^ 20 }, nvm := { s.nvm with nonce := some b } }
  (s1.bump .nvm 0).bump .nvm 7

/-- The tests of lanes, DRBG and signature unit (R346): shedding stage 3 holds lanes 12 to 23 back (R349). -/
def State.testCipher (s : State) (r : BootIn) : State :=
  let lanes := onesAt 0 12 ||| onesAt 24 2 ||| (if s.stageShed 3 then 0 else onesAt 12 12)
  let s1 := r.laneBad.foldl (fun s j => s.retireLane j.val) (s.setReg .cph 0x040 lanes)
  let s2 := if r.drbgBad then s1.fault .ent 1 0 else s1
  if r.sigBad then (s2.setUpd { s2.nvm.upd with sigBad := true }).fault .upd 1 0 else s2

/-- The lane groups of every station are in service, with their spare, but for those that fail (R175, R177). -/
def State.testStations (s : State) (r : BootIn) : State :=
  let s1 := [1, 2, 3, 4, 5, 6].foldl (fun (s : State) k =>
    let t := s.setReg (stnPage k) 0x050 (onesAt 0 (stnG k))
    t.setSpare k (some (stnG k))) s
  r.groupBad.foldl (fun s e => if e.2.val ≤ stnG (e.1.val + 1) then s.retireLg (e.1.val + 1) e.2.val else s) s1

/-! The sequence (Table 15-9). -/

/-- Whether a boot can begin: a reset ends, or stage 5 has been restored or a STANDBY wake takes effect. -/
def State.bootReady (s : State) : Bool :=
  match s.pwr.mode with
  | .reset => !s.pwr.thm.hold
  | .standby => !s.stageShed 5 && (s.pwr.bootDue || decide (s.pwr.wakeHeld ≠ 0))
  | _ => false

/-- At a start a commit without its COMMIT row is undone (R478). -/
def State.journalRollback (s : State) : State :=
  if s.nvm.open_ then ((s.setNvm { s.nvm with open_ := false }).cause 10).bump .nvm 5 else s

/-- The rails, the domains and the clocks come up, and the causes of the start are recorded (R453, R463). -/
def State.bootBegin (s : State) : State :=
  let p := s.pwr
  let s1 := if p.mode = .standby ∧ p.wakeHeld ≠ 0 then s.setReg .pwr 0x060 (BitVec.ofNat 32 p.wakeHeld) else s
  let s2 := if p.mode = .standby ∧ p.standbyBy then (s1.cause 9).bump .rst 6 else s1
  let s3 := s2.setPwr { s2.pwr with
    mode := .booting, standbyBy := false, wakeHeld := 0, bootDue := false
    clk := { s2.pwr.clk with refclk := true, sysLock := true, cnvLock := true } }
  match p.journal with
  | some j => ((s3.setFld .rst F.RST_LAST_SLOT_LO_SLOT (j.slot % 2 ^ 32)).setFld .rst F.RST_LAST_SLOT_HI_SLOT (j.slot / 2 ^ 32)).allDoms
  | none => s3.allDoms

/-- BOOT_START: the boot begins; it rolls back, chooses its image, restores what MRAM keeps and runs its tests, with the outcomes
that `r` names. -/
def execBootStart (r : BootIn) (s : State) : Host.Outcome State Fault Refusal :=
  .next (
    if !s.bootReady then s
    else
      let s1 := s.bootBegin.journalRollback
      let s2 := if r.sigBad then s1.setUpd { s1.nvm.upd with sigBad := true } else s1
      (((s2.imageChoice.restoreKeys r).resumeNonce).testCipher r).testStations r)

/-- BOOT_DONE: the boot has completed after `us` microseconds; restorations that fell due take effect (R455, R463). -/
def execBootDone (us : Nat) (s : State) : Host.Outcome State Fault Refusal :=
  .next (
    if s.pwr.mode ≠ .booting then s
    else
      let s1 := (s.setPwr { s.pwr with
        mode := .run, dram := { s.pwr.dram with selfRefresh := s.stageShed 3 } }).allDoms
      let s2 := s1.setPwr { s1.pwr with clk := { s1.pwr.clk with
        drmLock := decide (s1.dom 5 = .on), twnLock := decide (s1.dom 4 = .on) } }
      let s3 := (s2.setFlag .rst F.RST_STAT_BOOT_DONE true).setFld .rst F.RST_STAT_BOOT_US (min 65535 (us / 10))
      ((s3.event .rst 1).restoreDue).healthyPin)

/-! Saving the boot record (R465). -/

/-- The RW and RWL bits of a register, with ENABLE, TEST_ISOLATE and the header's enables. -/
def savedBits (p : Page) (off : Nat) : Word :=
  if off < 0x040 then
    (if off = offCtrl then (if alwaysEnabled p then 0 else definedBits p off &&& 5)
     else if off = offEventEn then eventMask p
     else if off = offCntCtrl then onesAt 0 (nCounters p) else 0)
  else (regFlds p off).foldl (fun a f => if f.acc = .rw ∨ f.acc = .rwl then a ||| f.mask else a) 0

/-- The pages whose fields a boot record holds. -/
def savedPages : List Page := mgrPages.filter fun p => !([Page.pwr, .clk, .rst, .thm, .uart 0].contains p)

/-- The saved words of a page, `PG_CTRL` last: of the DEV page each register, since the host reaches it before the record is applied,
and of the others each that differs from its reset value. `DEV_FEAT_ACCEPT` is held apart. -/
def State.savedPage (s : State) (p : Page) : List (Page × Nat × Word) :=
  let offs := if p = .dev then (List.range 64).map (4 * ·)
    else (s.regs.filter fun e => decide (pageBase p ≤ e.1 ∧ e.1 < pageBase p + 0x1000)).map fun e => e.1 - pageBase p
  let ws := offs.filterMap fun off =>
    let m := savedBits p off
    if m = 0 ∨ off = offCtrl ∨ (p = .dev ∧ 0x050 ≤ off ∧ off < 0x060) then none else some (p, off, s.reg p off &&& m)
  let c := s.reg p offCtrl &&& savedBits p offCtrl
  if c = 0 then ws else ws ++ [(p, offCtrl, c)]

/-- The record of what is in force now. -/
def State.bootRecord (s : State) : BootRec :=
  { accept := s.reg .dev 0x050, words := savedPages.flatMap s.savedPage, ver := s.fld .sch F.SCH_VER_IN_FORCE
    tables := (List.range 64).map s.table, seq := ((s.nvm.boot.map (·.seq)).headD 0) + 1, gen := if s.inTrial then s.nvm.act.gen else 0 }

/-- A write of `RST_BOOTCFG`: AUTO is kept in MRAM; SAVE, with the features locked, or ERASE begins a commit, unless one is in
progress. -/
def bootCfgWrite (_ : Page) (w : Word) (s : State) : State :=
  let s1 := s.setNvm { s.nvm with autoRest := F.RST_BOOTCFG_AUTO.get w = 1 }
  let save := decide (F.RST_BOOTCFG_SAVE.get w = 1) && s.devLocked
  if s1.nvm.saving.isSome then s1
  else if save then s1.setNvm { s1.nvm with saving := some (some s1.bootRecord), open_ := true }
  else if F.RST_BOOTCFG_ERASE.get w = 1 then s1.setNvm { s1.nvm with saving := some none, open_ := true }
  else s1

/-- SAVE: a write of `RST_BOOTCFG`. -/
def execBootSave (q : Req) (s : State) : Host.Outcome State Fault Refusal := .next (writeWord q .rst 0x04C bootCfgWrite s)

/-- ERASE: a write of `RST_BOOTCFG`. -/
def execBootErase (q : Req) (s : State) : Host.Outcome State Fault Refusal := .next (writeWord q .rst 0x04C bootCfgWrite s)

/-- SAVE_DONE: the commit of a save or an erasure completes. -/
def execBootSaveDone (s : State) : Host.Outcome State Fault Refusal :=
  .next (
    match s.nvm.saving with
    | none => s
    | some r =>
      let l := match r with | some x => (x :: s.nvm.boot).take 2 | none => []
      ((s.setNvm { s.nvm with boot := l, saving := none, open_ := false }).nvmRows).event .rst 3)

end Sys2Proof.Machine
end

