-- ==== Sys2Proof/Machine/Effects.lean ====
section
/-! DEFINITION. What a write of a page's word does: the header (R37 to R42, R57, R58, R65, R71) and every register of the pages. -/

set_option Elab.async false

namespace Sys2Proof.Machine

/-! ENABLE (R37). -/

/-- The block of a page takes work again. -/
def State.enableSet (s0 : State) (p : Page) : State :=
  let s := s0.setStatus p 2 false
  match p with
  | .ch c => ((s.setChan c.val { s.chan c.val with stop := false }).startRoot).request (.chan c.val)
  | .mon m => s.setChain m { s.chain m with dirty := true }
  | .pmx => s.pinsOn
  | .cmdio => s.cmdioRestart
  | .twn => s.electStart
  | .slp => if s.slpOn then (s.setSlpState slAwake).slpPlan.announce else s
  | .mns => s.lgEnd
  | _ => s

/-- The block of a page takes no new work. -/
def State.enableClear (s : State) (p : Page) : State :=
  match p with
  | .ch c => s.setChan c.val { s.chan c.val with stop := true }
  | .np _ | .wp _ => s.portsRemove
  | .mns => (s.loseLock).lgEnd
  | .pmx => s.pinsOff
  | .cmdio => s.cmdioRestart
  | .twn => s.twnOff
  | .slp => s.slpStop
  | _ => s

/-- QUIESCENT: the work in flight of a block whose ENABLE is 0 has ended. -/
def execQuiescent (p : Page) (s : State) : Host.Outcome State Fault Refusal :=
  .next (if s.enabled p || s.hasWork p || s.status p 2 then s else s.setStatus p 2 true)

/-! Soft reset (R37, R179). -/

/-- The offsets of a page that a soft reset leaves: its counters, and the lane groups, lanes and spares that keep their place
(Table 15-10). -/
def softKept (p : Page) (off : Nat) : Bool :=
  decide (off < 0x040) || isCounterOff p off ||
    (match p with
     | .spx k => if k.val = 0 then decide (off = 0x040)
        else decide (off = 0x050 ∨ off = 0x054 ∨ off = 0x058)
     | .cph => decide (off = 0x040 ∨ off = 0x044)
     | _ => false)

/-- The page's own registers return to their reset values, and its block-specific status with them. -/
def State.resetRegs (s : State) (p : Page) : State :=
  let mine := fun (k : Nat) => decide (pageBase p ≤ k ∧ k < pageBase p + 0x1000)
  let s1 : State := { s with regs := storeKeep (fun k => !mine k || softKept p (k - pageBase p)) s.regs }
  let s2 := s1.setReg p offStatus (s1.reg p offStatus &&& 0xF)
  match p with
  | .spx k => if k.val = 0 then s2 else s2.setStatus p 17 (!s2.spareOk k.val)
  | _ => s2

/-- A lane group's test is abandoned: it comes back to where it was, a retired one stays retired. -/
def State.abandonTest (s : State) (k : Nat) : State :=
  let p := stnPage k
  let x := s.stn k
  let s1 := ((s.setStn k { x with test := none }).setFlag p F.SPX_STN_SPARE_TESTING false).setStatus p 16 false
  match x.test with
  | some (lg, true, back) =>
    if back then s1.setService k lg true
    else if s1.retired k lg then s1
    else if s1.spareOk k then s1.setStn k { s1.stn k with reserve := setBitOf (s1.stn k).reserve lg true }
    else s1.setSpare k (some lg)
  | _ => s1

/-- The internal state of a page's block is abandoned; learned line state and tenant state stay (Table 15-10). -/
def State.blockReset (s : State) (p : Page) : State :=
  match p with
  | .spx k =>
    if k.val = 0 then
      let s1 : State := { s with line := { s.line with spx := { s.line.spx with queue := [] } } }
      s1.setFld (.spx 0) F.SPX_DEC_ITER_LIMIT (s1.fld (.spx 0) F.SPX_DEC_ITER_IN_FORCE)
    else (s.abandonJobs k.val false).abandonTest k.val
  | .np n => s.setPort n.val { Port.reset with inSvc := (s.port n.val).inSvc } |>.portsRemove
  | .wp w => s.setPort (12 + w.val) { Port.reset with inSvc := (s.port (12 + w.val)).inSvc } |>.portsRemove
  | .sch =>
    let x := s.line.sched
    { s with ct := 0, line := { s.line with sched := { Sched.reset with slotN := x.slotN, sfN := x.sfN } } }
  | .fig => (List.range 64).foldl (fun s c => s.setChan c { s.chan c with fig := none, figNext := none })
      { s with line := { s.line with sched := { s.line.sched with figNext := none } } }
  | .dwl => (List.range 64).foldl (fun s c => s.setChan c { s.chan c with dwl := Chan.reset.dwl }) s.takeL4
  | .cmd => (List.range 64).foldl (fun s c => s.setChan c { s.chan c with cmdLeft := Chan.reset.cmdLeft, cmdWait := [], cmdOn := 0 }) s.takeL4
  | .ch c =>
    let x := s.chan c.val
    ((s.setDuplex c.val false false).setChan c.val { Chan.reset with
      tpl := x.tpl, dwl := x.dwl, soundSeq := x.soundSeq, noise := x.noise }).keepJobs fun j => decide (j.chan ≠ c.val)
  | .rly => { s with net := { s.net with frames := s.net.frames.filter fun f => decide (f.kind ≠ .fwd) } }
  | .dir => { s with net := { s.net with dirCmd := none } }
  | .slp => { s with slp := Sleep.reset }
  | .cph =>
    let s1 := (List.finRange 8).foldl (fun s t => s.flushDirect t true) s
    let s2 := (List.range 24).foldl (fun s j => s.requeue j) s1
    match s2.cph.test with
    | some j => ({ s2 with cph := { s2.cph with test := none } }).setLaneIn j true
    | none => s2
  | .key => { s with cph := { s.cph with busy := false } }
  | .ent => { s with cph := { s.cph with calls := 0, passes := 0 } }
  | .twn => s.twnOff
  | .mon m => s.setChain m { Chain.reset with dirty := true }
  | .mns => { s with mains := { Mains.reset with lgOpen := s.mains.lgOpen, lgSent := s.mains.lgSent } }
  | .uart u => s.setUart u Uart.reset
  | .pmx => s.pinsOff
  | .cmdio => s.cmdioRestart
  | .cnt => { s with gather := { Gather.empty with units := s.gather.units } }
  | _ => s

/-- A soft reset begins; a running isolated test of the block is abandoned (R360). -/
def State.softBegin (s : State) (p : Page) : State :=
  let s1 : State := { s with
    softReset := if s.softReset.contains p then s.softReset else s.softReset ++ [p], isoTests := s.isoTests.filter (· ≠ p) }
  (s1.resetRegs p).blockReset p

/-- SOFT_RESET_DONE: a soft reset finishes; a chain settles anew (R390). -/
def execSoftResetDone (p : Page) (s : State) : Host.Outcome State Fault Refusal :=
  .next (
    if !s.softReset.contains p then s
    else
      let s1 : State := { s with softReset := s.softReset.filter (· ≠ p) }
      match p with
      | .mon m => s1.setChain m { s1.chain m with dirty := true }
      | _ => s1)

/-! TEST_ISOLATE (R358, R360). -/

/-- A block is isolated: it leaves service and its test begins. -/
def State.isolateSet (s : State) (p : Page) : State :=
  let s1 : State := { s with isoTests := if s.isoTests.contains p then s.isoTests else s.isoTests ++ [p] }
  match p with
  | .np _ | .wp _ => s1.portsRemove
  | .mon m => s1.monSilent m
  | .twn => s1.twnIsolated
  | _ => s1

/-- The isolation ends; a running test is abandoned. -/
def State.isolateClear (s : State) (p : Page) : State :=
  let s1 : State := { s with isoTests := s.isoTests.filter (· ≠ p) }
  match p with
  | .mon m => s1.setChain m { s1.chain m with dirty := true }
  | _ => s1

/-- ISOLATED_TEST_DONE: the isolated test of a block ends. -/
def execIsolatedTestDone (p : Page) (pass : Bool) (s : State) : Host.Outcome State Fault Refusal :=
  .next (
    if !s.isoTests.contains p then s
    else
      let s1 : State := { s with isoTests := s.isoTests.filter (· ≠ p) }
      let rec_ := 2 ^ 31 + (if pass then 2 ^ 30 else 0) + pageInst p * 2 ^ 16 + blockCode p
      let s2 := ((s1.setReg .hlt 0x04C (BitVec.ofNat 32 rec_)).event .hlt 4).bump .hlt 1
      if pass then s2
      else
        let s3 := s2.bump .hlt 2
        match p with
        | .np n => s3.portFault n.val 1 0 0
        | .wp w => s3.portFault (12 + w.val) 1 0 0
        | _ => s3.fault p 1 0)

/-! The header's writes. -/

/-- A write of `PG_CTRL`. -/
def ctrlWrite (p : Page) (w : Word) (s : State) : State :=
  let en := w.getLsbD 0
  let iso := w.getLsbD 2
  let wasEn := s.enabled p
  let wasIso := s.isolated p
  let s1 := if alwaysEnabled p then s else s.setReg p offCtrl (w &&& definedBits p offCtrl &&& 5)
  let s2 := if alwaysEnabled p || decide (en = wasEn) then s1 else if en then s1.enableSet p else s1.enableClear p
  let s3 := if !hasTestIsolate p || decide (iso = wasIso) then s2 else if iso then s2.isolateSet p else s2.isolateClear p
  if w.getLsbD 1 && !alwaysEnabled p then s3.softBegin p else s3

/-- A write of `PG_EVENT` clears bits; a vector that is still asserted sends again (R40, R69). -/
def eventWrite (p : Page) (w : Word) (s : State) : State :=
  s.withEvents p true fun s => s.setReg p offEvent (s.reg p offEvent &&& ~~~ w)

/-- A write of `PG_EVENT_EN` (R69). -/
def eventEnWrite (p : Page) (w : Word) (s : State) : State :=
  s.withEvents p true fun s => s.setReg p offEventEn (w &&& eventMask p)

/-- A write of `PG_EVENT_SET` sets bits as their conditions would (R40). -/
def eventSetWrite (p : Page) (w : Word) (s : State) : State :=
  s.withEvents p true fun s => s.setReg p offEvent (s.reg p offEvent ||| (w &&& eventMask p))

/-- A write of `PG_FAULT` clears bits (R41). -/
def faultWrite (p : Page) (w : Word) (s : State) : State := s.clearFaults p w

/-- A write of `PG_CNT_CTRL`: EN is stored, CLR zeroes (R42). -/
def cntClrWrite (p : Page) (w : Word) (s : State) : State :=
  let n := nCounters p
  (List.range n).foldl (fun s i => if w.getLsbD (16 + i) then s.setCounter p i 0 else s) (s.setReg p offCntCtrl (w &&& onesAt 0 n))

/-- What a write of a header word does; the others are RO. -/
def headerEffect (p : Page) (off : Nat) : Word → State → State :=
  match off with
  | 0x00C => ctrlWrite p
  | 0x014 => eventWrite p
  | 0x018 => eventEnWrite p
  | 0x01C => eventSetWrite p
  | 0x020 => faultWrite p
  | 0x028 => cntClrWrite p
  | _ => fun _ s => s

/-! The DEV page. -/

/-- A write of `DEV_FEAT_ACCEPT`: before the lock it sets the accepted set, and clears REFUSED (R57). -/
def acceptWrite (off : Nat) (p : Page) (w : Word) (s : State) : State :=
  if s.devLocked then s
  else (s.setReg p off (if off = 0x050 then w ||| 1 else w)).setFlag .dev F.DEV_FEAT_STATUS_REFUSED false

/-- Whether a set satisfies the "Requires" column of Table 02-9. -/
def featuresMeet (a : Nat) : Bool :=
  (!bitOf a 3 || bitOf a 2) && (!bitOf a 10 || bitOf a 9) && (!bitOf a 11 || bitOf a 13)

/-- A write of `DEV_FEAT_LOCK`: the set is locked or refused (R58); recovery locks with F0 alone (R493). -/
def lockWrite (_ : Page) (w : Word) (s : State) : State :=
  if !w.getLsbD 0 || s.devLocked then s
  else
    let a := (s.reg .dev 0x050).toNat
    if !featuresMeet a || (s.nvm.recovery && decide (a ≠ 1)) then s.setFlag .dev F.DEV_FEAT_STATUS_REFUSED true
    else ((s.setFlag .dev F.DEV_FEAT_LOCK_LOCK true).setFlag .dev F.DEV_FEAT_STATUS_REFUSED false).healthyPin

/-- A write of `DEV_VIOL_CLR` zeroes the count and the record, and arms the record again (R65). -/
def violClrWrite (_ : Page) (w : Word) (s : State) : State :=
  if w.getLsbD 0 then { ((s.setReg .dev 0x068 0).setReg .dev 0x06C 0).setReg .dev 0x070 0 with violArmed := true } else s

/-- A write of `DEV_EVT_VEC` or `DEV_EVT_CHVEC`: a vector that comes to be asserted sends its message (R71). -/
def routeWrite (off : Nat) (p : Page) (w : Word) (s : State) : State :=
  let t := applyWrite p off w s
  (List.range 64).foldl (fun t v => if t.vecAsserted 0 v && !s.vecAsserted 0 v then t.msix 0 v else t) t

/-- What a write of a DEV register does. -/
def devEffect (off : Nat) : Page → Word → State → State :=
  if 0x050 ≤ off ∧ off < 0x060 then acceptWrite off
  else if off = 0x060 then lockWrite
  else if off = 0x074 then violClrWrite
  else if (0x0A0 ≤ off ∧ off < 0x0B0) ∨ (0x0C0 ≤ off ∧ off < 0x100) then routeWrite off
  else fun p w s => applyWrite p off w s

/-! Channels. -/

/-- The registers of a CH page whose change is an admission request while the page is enabled (R221). -/
def chAdmits (off : Nat) : Bool := [0x040, 0x044, 0x048, 0x04C, 0x050, 0x058].contains off

/-- What a write of a CH register does. -/
def chEffect (c : Fin 64) (e : AccEnv) (off : Nat) (p : Page) (w : Word) (s : State) : State :=
  match off with
  | 0x418 => linkSelWrite c.val p w s
  | 0x480 => tmapOvfWrite p w s
  | 0x4F8 => chProposeWrite c.val p w s
  | _ =>
    let s1 := applyWrite p off w s
    if chAdmits off && s.enabled p then s1.request (.chan c.val) else s1

/-! Every page. -/

/-- What a write of `TNT_VEC` does: the pages' vector changes. -/
def tntVecWrite (t : Fin 8) (p : Page) (w : Word) (s : State) : State :=
  s.withVec (t.val + 1) (F.TNT_VEC_VEC.get w) false fun s => applyWrite p 0x070 w s

/-- What a write of a page's word does. -/
def pageEffect (q : Req) (e : AccEnv) (off : Nat) (p : Page) : Word → State → State :=
  if off < 0x040 then headerEffect p off
  else match p with
  | .dev => devEffect off p
  | .pwr => pwrEffect off p
  | .rst => if off = 0x040 then rstCmdWrite p else if off = 0x04C then bootCfgWrite p else applyWrite p off
  | .nvm => if off = 0x044 then nvmReadWrite e.bits p else applyWrite p off
  | .upd => updEffect off p
  | .np _ => npEffect off p
  | .wp _ => wpEffect off p
  | .spx k =>
    if k.val = 0 then (if off = 0x040 then decIterWrite p else applyWrite p off)
    else if off = 0x05C then stnTestWrite k.val p else applyWrite p off
  | .sch => schEffect off p
  | .fig => if off = 0x048 then figNextWrite p else applyWrite p off
  | .rly => fun w s => (applyWrite p off w s).fwdLeft
  | .rte => if off = 0x05C then rteCmdWrite p else applyWrite p off
  | .dir => if off = 0x048 then dirCmdWrite p else applyWrite p off
  | .seen => seenEffect off p
  | .slp => slpEffect off p
  | .tnt t => tntEffect t off p
  | .tpage t => if off = 0x070 then tntVecWrite t p else tpageEffect off p
  | .dbell _ =>
    if off % 8 = 0 then dbSqWrite q ((off - 0x040) / 8) p else dbCqWrite ((off - 0x044) / 8) p
  | .crq _ =>
    match off with
    | 0x048 => sqCfgWrite 8 p
    | 0x058 => cqCfgWrite 8 p
    | 0x060 => crDbSqWrite p
    | 0x064 => crDbCqWrite p
    | _ => applyWrite p off
  | .key => keyEffect off p
  | .cph => cphEffect off p
  | .ent => entEffect off p
  | .twn => twnEffect off p
  | .hlt => if off = 0x044 then hltCfgWrite p else applyWrite p off
  | .mon m => monEffect m off p
  | .mns => fun w s => (applyWrite p off w s).lgEnd
  | .hst _ => hstEffect off p
  | .cnt => cntEffect off p
  | .uart u => uartEffect u off p
  | .pmx => pmxEffect off p
  | .cmdio => cmdioEffect off p
  | .ch c => chEffect c e off p
  | .clk | .thm | .hif | .shp | .dwl | .cmd | .ucp _ => applyWrite p off

/-! The rows of the header and of DEV. -/

/-- ENABLE_SET: a write of `PG_CTRL`. -/
def execEnableSet (q : Req) (p : Page) (s : State) : Host.Outcome State Fault Refusal := .next (writeWord q p offCtrl ctrlWrite s)
/-- ENABLE_CLEAR: a write of `PG_CTRL`. -/
def execEnableClear (q : Req) (p : Page) (s : State) : Host.Outcome State Fault Refusal := .next (writeWord q p offCtrl ctrlWrite s)
/-- SRESET: a write of `PG_CTRL`. -/
def execSreset (q : Req) (p : Page) (s : State) : Host.Outcome State Fault Refusal := .next (writeWord q p offCtrl ctrlWrite s)
/-- TEST_ISOLATE: a write of `PG_CTRL`. -/
def execTestIsolate (q : Req) (p : Page) (s : State) : Host.Outcome State Fault Refusal := .next (writeWord q p offCtrl ctrlWrite s)
/-- PG_EVENT_CLEAR: a write of `PG_EVENT`. -/
def execPgEventClear (q : Req) (p : Page) (s : State) : Host.Outcome State Fault Refusal := .next (writeWord q p offEvent eventWrite s)
/-- PG_EVENT_EN_WRITE: a write of `PG_EVENT_EN`. -/
def execPgEventEnWrite (q : Req) (p : Page) (s : State) : Host.Outcome State Fault Refusal := .next (writeWord q p offEventEn eventEnWrite s)
/-- PG_EVENT_SET: a write of `PG_EVENT_SET`. -/
def execPgEventSet (q : Req) (p : Page) (s : State) : Host.Outcome State Fault Refusal := .next (writeWord q p offEventSet eventSetWrite s)
/-- PG_FAULT_CLEAR: a write of `PG_FAULT`. -/
def execPgFaultClear (q : Req) (p : Page) (s : State) : Host.Outcome State Fault Refusal := .next (writeWord q p offFault faultWrite s)
/-- CNT_CLR: a write of `PG_CNT_CTRL`. -/
def execCntClr (q : Req) (p : Page) (s : State) : Host.Outcome State Fault Refusal := .next (writeWord q p offCntCtrl cntClrWrite s)

/-- The offset of a routing register: 0 to 3 `DEV_EVT_VEC`, 4 to 19 `DEV_EVT_CHVEC`. -/
def routeOff (k : Nat) : Nat := if k < 4 then 0x0A0 + 4 * k else 0x0C0 + 4 * (k - 4)

/-- EVENT_ROUTE_CHANGE: a write of `DEV_EVT_VEC` or `DEV_EVT_CHVEC`. -/
def execEventRouteChange (q : Req) (k : Fin 20) (s : State) : Host.Outcome State Fault Refusal :=
  .next (writeWord q .dev (routeOff k.val) (routeWrite (routeOff k.val)) s)
/-- FEAT_ACCEPT_WRITE: a write of `DEV_FEAT_ACCEPT`. -/
def execFeatAcceptWrite (q : Req) (k : Fin 4) (s : State) : Host.Outcome State Fault Refusal :=
  .next (writeWord q .dev (0x050 + 4 * k.val) (acceptWrite (0x050 + 4 * k.val)) s)
/-- FEAT_LOCK: a write of `DEV_FEAT_LOCK`. -/
def execFeatLock (q : Req) (s : State) : Host.Outcome State Fault Refusal := .next (writeWord q .dev 0x060 lockWrite s)
/-- VIOL_CLR: a write of `DEV_VIOL_CLR`. -/
def execViolClr (q : Req) (s : State) : Host.Outcome State Fault Refusal := .next (writeWord q .dev 0x074 violClrWrite s)

end Sys2Proof.Machine
end

