-- ==== Sys2Proof/Machine/Access.lean ====
section
/-! DEFINITION. A word access at any address (R44 to R55): registers, paired registers and windows. -/

set_option Elab.async false

namespace Sys2Proof.Machine

/-! Where an address leads. -/

/-- A window of Table 02-7, a tenant's queue memory window (Table 02-6), or a reserved range of a BAR0. -/
inductive Win where
  | qmem
  | dir
  | tmap
  | sbuf
  | tenQmem (t : Fin 8)
  | hole (t : Option (Fin 8))
  deriving DecidableEq, Repr

/-- What a word access reaches: a page's word, a window's word by its byte offset in the window with the address it was named by, or
nothing of the device. -/
inductive Target where
  | page (p : Page) (off : Nat)
  | win (w : Win) (off addr : Nat)
  | nothing
  deriving DecidableEq, Repr

/-- Manager BAR0 (Table 02-5, Table 02-7). -/
def mgrTarget (a : Nat) : Target :=
  if a < 0x200000 then
    match mgrPages.find? fun p => decide (pageBase p ≤ a ∧ a < pageBase p + 0x1000) with
    | some p => .page p (a - pageBase p)
    | none => .win (.hole none) 0 a
  else if a < 0x300000 then .win .qmem (a - 0x200000) a
  else if a < 0x400000 then .win (.hole none) 0 a
  else if a < 0x800000 then .win .dir (a - 0x400000) a
  else if a < 0x1000000 then .win .tmap (a - 0x800000) a
  else if a < 0x2000000 then .win .sbuf (a - 0x1000000) a
  else .nothing

/-- A tenant's BAR0 (Table 02-6). -/
def tenTarget (t : Fin 8) (o : Nat) : Target :=
  if o < 0x1000 then .page (.tpage t) o
  else if o < 0x2000 then .page (.dbell t) (o - 0x1000)
  else if o < 0x3000 then .page (.crq t) (o - 0x2000)
  else if 0x8000 ≤ o ∧ o < 0x9000 then .page (.ucp t) (o - 0x8000)
  else if 0x10000 ≤ o ∧ o < 0x110000 then .win (.tenQmem t) (o - 0x10000) o
  else if o < 0x200000 then .win (.hole (some t)) 0 o
  else .nothing

/-- The target of a place; over the serial host port a tenant's page is that of the selected tenant, and the windows above the
directory's are out of reach (R47). -/
def State.target (s : State) (serial : Bool) (l : Loc) : Target :=
  match l with
  | .mgr a => if serial && decide (0x800000 ≤ a) then .nothing else mgrTarget a
  | .ten t o => tenTarget (if serial then s.serialTenant else t) o
  | .reg p o =>
    match (s.reach p serial).tenant? with
    | some t => tenTarget t (pageBase (s.reach p serial) - 0x2000000 - t.val * 0x200000 + o)
    | none => mgrTarget (pageBase p + o)

/-- The function an access to a window is judged as. -/
def Win.fn (w : Win) (serial : Bool) : Fn :=
  match w with
  | .tenQmem t | .hole (some t) => if serial then .shpTen else .pf ⟨t.val + 1, by omega⟩
  | _ => if serial then .shpMgr else .pf 0

/-- Whether a window is a tenant's. -/
def Win.tenant? : Win → Option (Fin 8)
  | .tenQmem t => some t
  | .hole t => t
  | _ => none

/-! Judging an access to a window. -/

/-- The domain a window's memory lies in (Table 01-5). -/
def Win.domain : Win → Nat
  | .qmem | .tenQmem _ | .hole _ => 3
  | .dir => 2
  | .tmap | .sbuf => 10

/-- The word index that a 64-bit slot shows (R48, R49). -/
def State.slotWord (s : State) (w : Win) (off : Nat) : Nat :=
  off / 8 + (if w = .tmap then s.fld .dev F.DEV_WIN_TMAP_BASE_BASE * 1048576 else s.fld .dev F.DEV_WIN_SBUF_BASE_BASE * 2097152)

/-- The directory byte that the window shows. -/
def State.dirAddr (s : State) (off : Nat) : Nat := s.fld .dev F.DEV_WIN_DIR_BASE_BASE * 4194304 + off

/-- Whether a window's word lies within its memory as configured (R48). -/
def State.winWithin (s : State) (w : Win) (off : Nat) : Bool :=
  match w with
  | .qmem | .tenQmem _ => true
  | .dir => decide (s.dirAddr off < 64 * 2 ^ s.dirLog)
  | .tmap => decide (s.slotWord w off < 1572864 + (s.mapBlocks - 5888) * 256)
  | .sbuf => decide (s.slotWord w off < 4194304)
  | .hole _ => false

/-- Whether a window access reads zero and drops its write without violation. DESIGN CHOICE (log 214): so does an access to a window whose
memory's domain is off, where R55 speaks of pages only. -/
def State.winDropped (s : State) (w : Win) : Bool :=
  !s.bootDone ||
  (match w.tenant? with
   | some t => !s.tenOpen t || s.twinSilent || s.nvm.recovery
   | none => (match w with
     | .hole _ => false
     | _ => s.devLocked && (s.nvm.recovery || decide (s.dom w.domain ≠ .on))))

/-- The violations of a window access (R63); before the lock every window is unavailable (R59). -/
def State.winKinds (s : State) (w : Win) (off : Nat) (be : BitVec 4) (wr : Bool) : List Nat :=
  let hole := match w with | .hole _ => true | _ => false
  if !s.devLocked && !hole then [2]
  else
    (if s.winWithin w (off / 4 * 4) then [] else [0]) ++
    (if (match w with
         | .tmap | .sbuf => wr
         | .tenQmem t => decide ((s.alloc t).2 ≤ off / 4 * 4)
         | _ => false) then [1] else []) ++
    (if subWord off be then [4] else [])

/-- The verdict on an access to a window. -/
def State.judgeWin (s : State) (w : Win) (off : Nat) (be : BitVec 4) (wr : Bool) : Verdict :=
  if s.winDropped w then .drop
  else match s.winKinds w off be wr with
    | [] => .act
    | k :: ks => .viol (k :: ks)

/-! Memory words through windows (R51). -/

/-- Four bytes of a store as a word. -/
def wordAt (m : Store Byte) (a : Nat) : Word := BitVec.ofNat 32 (ofLe ((storeGetList 0 m a 4).map (·.toNat)))

/-- The tenant whose allocation holds an address of queue memory. -/
def State.ownerOf (s : State) (a : Nat) : Option (Fin 8) :=
  (List.finRange 8).find? fun t => decide ((s.alloc t).1 ≤ a ∧ a < (s.alloc t).1 + (s.alloc t).2)

/-- The ring of a tenant in which an offset of its allocation lies, as DETAIL names it: bit 3 its CQ, 16 for none. DESIGN CHOICE (log
217): a word of a cipher ring (CR_SQ, CR_CQ), or of a ring that is not enabled, counts as one of no ring. -/
def State.ringOf (s : State) (t : Fin 8) (off : Nat) : Nat :=
  match (List.range 8).find? fun q => s.sqEn t q && s.sqQmem t q &&
      decide (s.sqBase t q ≤ off ∧ off < s.sqBase t q + 64 * s.sqSize t q) with
  | some q => q
  | none =>
    match (List.range 8).find? fun q => s.cqEn t q && s.cqQmem t q &&
        decide (s.cqBase t q ≤ off ∧ off < s.cqBase t q + 32 * s.cqSize t q) with
    | some q => 8 + q
    | none => 16

/-- A word of queue memory is read through a window; one that fails parity is marked and faults. -/
def State.qmemWindowRead (s : State) (a : Nat) (bad : Bool) : Word × Bool × State :=
  let ep := bad || s.mem.qmemBad.contains (a / 4)
  if !ep then (wordAt s.mem.qmem a, false, s)
  else
    let s1 : State := { s with mem := { s.mem with
      qmemBad := if s.mem.qmemBad.contains (a / 4) then s.mem.qmemBad else s.mem.qmemBad ++ [a / 4] } }
    (wordAt s.mem.qmem a, true, match s.ownerOf a with
      | some t => s1.tenFault t 2 (s.ringOf t (a - (s.alloc t).1))
      | none => s1.fault .hif 0 0)

/-- A word of queue memory is written through a window. -/
def State.qmemWindowWrite (s : State) (a : Nat) (w : Word) : State :=
  { s with mem := { s.mem with
    qmem := storePutList 0 s.mem.qmem a ((leBytes 4 w.toNat).map (BitVec.ofNat 8)), qmemBad := s.mem.qmemBad.filter (· ≠ a / 4) } }

/-- The fault that a failing word of the directory records (R51): DRAM for one read from DRAM, MEM_PARITY for one of the on-chip
array, which holds the whole directory or the cached entries. -/
def State.dirFaultBit (s : State) (a : Nat) : Nat := if s.dirDram && !s.net.cached.contains (a / 64) then 2 else 0

/-- A word of the directory is read through the window. -/
def State.dirWindowRead (s : State) (a : Nat) (bad : Bool) : Word × Bool × State :=
  let ep := bad || s.mem.dirBad.contains (a / 4) || (s.dirDram && !s.net.cached.contains (a / 64) && s.dramDamaged 0 a)
  if !ep then (wordAt s.mem.dir a, false, s)
  else
    let s1 : State := { s with mem := { s.mem with
      dirBad := if s.mem.dirBad.contains (a / 4) then s.mem.dirBad else s.mem.dirBad ++ [a / 4] } }
    (wordAt s.mem.dir a, true, s1.fault .dir (s.dirFaultBit a) 0)

/-- A word of the directory is written through the window. Bytes 0 to 3 of an entry are RO (R249). DESIGN CHOICE (log 216): a 1 written
to a reserved bit of Table 08-4 is stored, and is no violation. -/
def State.dirWindowWrite (s : State) (a : Nat) (w : Word) : State :=
  if a % 64 < 4 then s
  else ({ s with mem := { s.mem with
    dir := storePutList 0 s.mem.dir a ((leBytes 4 w.toNat).map (BitVec.ofNat 8)), dirBad := s.mem.dirBad.filter (· ≠ a / 4) } }).quotas

/-- The 64 bits of a slot (R49); the words of the link index have no stated contents (R150). -/
def State.slotValue (s : State) (w : Win) (i : Nat) (bad : Bool) : Nat × State :=
  let tags := fun (v : Nat) (m : Bool) => setBitOf (if s.mem.rowBad.contains (m, i) ||
    (!m && decide (1572864 ≤ i) && s.dramDamaged 2 (8 * (i - 1572864))) then setBitOf v 37 true else v) 36 (bad || bitOf v 36)
  if w = .sbuf then (tags (s.sbufGet i) true, s)
  else if 1536000 ≤ i ∧ i < 1572864 then let f := s.freeNat; (tags (f.1 % 2 ^ 36) false, f.2)
  else (tags (s.tmapGet i) false, s)

/-! Paired registers (R50). -/

/-- The low words of a page's pairs beside its counters. -/
def pairLows : Page → List Nat
  | .sch => [0x048]
  | .pwr => [0x064]
  | .pmx => [0x044, 0x04C]
  | .clk => [0x044]
  | .rst => [0x050]
  | .cph => [0x064]
  | .slp => [0x05C, 0x064]
  | .twn => [0x058, 0x064]
  | .hlt => [0x058]
  | .mns => [0x060]
  | .mon _ => [0x0D4, 0x0F4]
  | .upd => [0x06C]
  | .cnt => [0x048, 0x050] ++ (List.range 8).map fun i => 0x100 + 8 * i
  | .hst _ => (List.range 4).flatMap fun j => [0x110 + 0x100 * j, 0x118 + 0x100 * j]
  | .ucp _ => ((List.range 8).map fun i => 0x080 + 8 * i) ++ (List.range 8).flatMap fun k => [0x110 + 0x100 * k, 0x118 + 0x100 * k]
  | _ => []

/-- The group of words in which a register is read coherently: the low word's offset and the register's place, or none. -/
def pairPlace (p : Page) (off : Nat) : Option (Nat × Nat) :=
  if isCounterOff p off then some (off / 8 * 8, off % 8 / 4)
  else if p = .cph ∧ 0x058 ≤ off ∧ off ≤ 0x060 then some (0x058, (off - 0x058) / 4)
  else if (pairLows p).contains off then some (off, 0)
  else if 4 ≤ off ∧ (pairLows p).contains (off - 4) then some (off - 4, 1)
  else none

/-- The higher words at the read of a low word are latched; a read of a higher word returns the latch where it is still valid: for a
pair where the read of the low word was the previous access, for a group of three while only its higher words are read. -/
def State.pairedRead (s : State) (fn : Fn) (key : Nat) (place : Nat) (three : Bool) (now : Nat → Word) : Word × State :=
  let l := s.latch fn
  if place = 0 then (now 0, s.setLatch fn ⟨some key, now 1, now 2⟩)
  else if l.grp = some key then
    (if place = 1 then l.w1 else l.w2, if three then s else s.setLatch fn ⟨none, 0, 0⟩)
  else (now place, s.setLatch fn ⟨none, 0, 0⟩)

/-! Reading and writing. -/

/-- A register is read: with its side effect where it has one, else as it shows, under its pair's latch. -/
def State.readReg (s : State) (fn : Fn) (serial bad : Bool) (p : Page) (off : Nat) : Word × Bool × State :=
  match p, off with
  | .mon m, 0x060 => monDataRead m (s.setLatch fn ⟨none, 0, 0⟩)
  | .uart u, 0x060 => uartRxdRead u bad (s.setLatch fn ⟨none, 0, 0⟩)
  | .ent, 0x048 => entRandRead (s.setLatch fn ⟨none, 0, 0⟩)
  | .pmx, 0x054 | .pmx, 0x058 =>
    let lo := gpioRead 0 s
    let hi := gpioRead 1 lo.2
    let r := hi.2.pairedRead fn (regKey .pmx 0x054) ((off - 0x054) / 4) false fun i => if i = 0 then lo.1 else hi.1
    (r.1, false, r.2)
  | _, _ =>
    match pairPlace p off with
    | none => (s.shown p serial off, false, s.setLatch fn ⟨none, 0, 0⟩)
    | some (low, k) =>
      let r := s.pairedRead fn (regKey p low) k (decide (p = .cph ∧ low = 0x058)) fun i => s.shown p serial (low + 4 * i)
      (r.1, false, r.2)

/-- A window's word is read. -/
def State.readWin (s : State) (fn : Fn) (bad : Bool) (w : Win) (off addr : Nat) : Word × Bool × State :=
  let t := s.setLatch fn ⟨none, 0, 0⟩
  match w with
  | .qmem => t.qmemWindowRead off bad
  | .tenQmem k => t.qmemWindowRead ((s.alloc k).1 + off) bad
  | .dir => t.dirWindowRead (s.dirAddr off) bad
  | .tmap | .sbuf =>
    let v := s.slotValue w (s.slotWord w off) bad
    let r := v.2.pairedRead fn (addr / 8 * 8) (addr % 8 / 4) false fun i => BitVec.ofNat 32 (v.1 / 2 ^ (32 * i))
    (r.1, false, r.2)
  | .hole _ => (0, false, t)

/-- The address that a violation records: within the function's BAR0, or on the serial host port (R65). -/
def Target.addr (x : Target) (serial : Bool) : Nat :=
  match x with
  | .page p off => accessAddr (p.fn serial) p off
  | .win w _ a => a + (if serial && w.tenant?.isSome then 0x800000 else 0)
  | .nothing => 0

/-- The function that an access to a target is judged as. -/
def Target.fn (x : Target) (serial : Bool) : Fn :=
  match x with
  | .page p _ => p.fn serial
  | .win w _ _ => w.fn serial
  | .nothing => if serial then .shpMgr else .pf 0

/-- Whether a target is a tenant's. -/
def Target.tenant (x : Target) : Bool :=
  match x with
  | .page p _ => p.tenant?.isSome
  | .win w _ _ => w.tenant?.isSome
  | .nothing => false

/-- One word read of a target, judged: its data, whether it is poisoned, and the state after it. `barred`: a serial access finds the
tenant side disabled (R421). -/
def State.readAt (s : State) (serial barred bad : Bool) (be : BitVec 4) (x : Target) : Word × Bool × State :=
  let fn := x.fn serial
  let refuse := fun (k : Nat) => (0, false, (s.touch fn).violation fn (x.addr serial) k false be)
  if barred && x.tenant && s.bootDone then refuse 1
  else
    let v := match x with
      | .page p off => s.judge p off be none
      | .win w off _ => s.judgeWin w off be false
      | .nothing => .drop
    match v with
    | .act => (match x with
      | .page p off => s.endIdle.readReg fn serial bad p off
      | .win w off a => let r := s.endIdle.readWin fn bad w off a; (r.1, r.2.1 && !serial, r.2.2)
      | .nothing => (0, false, s))
    | .drop => (0, false, s.touch fn)
    | .viol ks => refuse (pickKind ks)

/-- One word write to a target, judged. -/
def State.writeAt (s : State) (barred : Bool) (q : Req) (e : AccEnv) (x : Target) : State :=
  let fn := x.fn q.serial
  let s1 := s.touch fn
  let refuse := fun (k : Nat) => s1.violation fn (x.addr q.serial) k true q.be
  if barred && x.tenant && s.bootDone then refuse 1
  else
    let v := match x with
      | .page p off => s1.judge p off q.be (some q.val)
      | .win w off _ => s1.judgeWin w off q.be true
      | .nothing => .drop
    match v with
    | .act => (match x with
      | .page p off => pageEffect q e off p q.val s1
      | .win .qmem off _ => s1.qmemWindowWrite off q.val
      | .win (.tenQmem k) off _ => s1.qmemWindowWrite ((s1.alloc k).1 + off) q.val
      | .win .dir off _ => s1.dirWindowWrite (s1.dirAddr off) q.val
      | .win .tmap _ _ | .win .sbuf _ _ | .win (.hole _) _ _ | .nothing => s1)
    | .drop => s1
    | .viol ks => refuse (pickKind ks)

/-- Whether a serial access is barred from the tenant side. -/
def State.tenBarred (s : State) (serial : Bool) : Bool := serial && !s.flag .shp F.SHP_CFG_TEN_EN

/-- The function in whose BAR0 a place lies. -/
def locFn : Loc → Nat
  | .mgr _ => 0
  | .ten t _ => t.val + 1
  | .reg p _ => (p.fn false).code

/-- A word read at any place, answered to its reader. -/
def State.accessRead (s : State) (q : RdReq) (bad : Bool) (l : Loc) : State :=
  if !s.hostOn then s
  else match s.target q.serial l with
    | .nothing => if q.serial then s else s.emit (.unsupported (locFn l))
    | x =>
      let r := s.readAt q.serial (s.tenBarred q.serial) bad q.be x
      r.2.2.emit (.readData (x.fn q.serial) r.1 r.2.1)

/-- PAIRED_LOW_READ: a word read, of the low word of a slot or pair (R50) or of any other word. -/
def execPairedLowRead (q : RdReq) (l : Loc) (bad : Bool) (s : State) : Host.Outcome State Fault Refusal := .next (s.accessRead q bad l)

/-- PAIRED_HIGH_READ: a word read, of a higher word of a slot or pair or of any other word. -/
def execPairedHighRead (q : RdReq) (l : Loc) (bad : Bool) (s : State) : Host.Outcome State Fault Refusal := .next (s.accessRead q bad l)

/-- WRITE_REGISTER: a word write. -/
def execWriteRegister (q : Req) (l : Loc) (e : AccEnv) (s : State) : Host.Outcome State Fault Refusal :=
  .next (
    if !s.hostOn then s
    else match s.target q.serial l with
      | .nothing => if q.serial then s else s.emit (.unsupported (locFn l))
      | x => s.writeAt (s.tenBarred q.serial) q e x)

end Sys2Proof.Machine
end

