-- ==== Sys2Proof/Machine/Serial.lean ====
section
/-! DEFINITION. The serial host port (R416 to R421), the application of the boot record (R465), admission outcomes, and the test
access port (R441). -/

set_option Elab.async false

namespace Sys2Proof.Machine

/-! Frames. A frame keeps the tenant and TEN_EN that it finds at its start (R421). -/

/-- The target of a word of a frame (R47), for the tenant selected at its start. -/
def serialTarget (t : Fin 8) (a : Nat) : Target :=
  if a < 0x800000 then mgrTarget a else if a < 0xA00000 then tenTarget t (a - 0x800000) else .win (.hole none) 0 a

/-- The word address after `i` words, wrapping at 24 bits (R417). -/
def serialAddr (a i : Nat) : Nat := (a + 4 * i) % 2 ^ 24

/-- Bytes of a word, least significant first. -/
def wordBytes (w : Word) : List Nat := leBytes 4 w.toNat

/-- A misaligned word of a frame: a violation of kind 4 (R417), unless nothing answers before the boot or, on the tenant side, the
locks (R464, R61). -/
def State.serialMisaligned (s : State) (barred : Bool) (x : Target) (a : Nat) (wr : Bool) : State :=
  let fn := if a < 0x800000 ∨ 0xA00000 ≤ a then Fn.shpMgr else Fn.shpTen
  let quiet := !s.bootDone || (x.tenant && !barred &&
    (match x with
     | .page p _ => (match p.tenant? with | some t => !s.tenOpen t || s.twinSilent | none => false)
     | .win w _ _ => s.winDropped w
     | .nothing => false))
  if quiet then s.touch fn else (s.touch fn).violation fn a 4 wr 0xF

/-- One word read of a frame. -/
def State.serialWord (s : State) (barred : Bool) (t : Fin 8) (a : Nat) (bad : Bool) : Word × State :=
  let x := serialTarget t a
  if a % 4 ≠ 0 then (0, s.serialMisaligned barred (serialTarget t (a / 4 * 4)) a false)
  else let r := s.readAt true barred bad 0xF x; (r.1, r.2.2)

/-- The words of a read frame in order, with what the device sends for each: its wait bytes, its ready byte and the word, until a word is
late; that word becomes the held word (R418). -/
def State.serialReads (s : State) (barred : Bool) (t : Fin 8) (a : Nat) : List SerRead → Nat → List Nat × State
  | [], _ => ([], s)
  | w :: ws, i =>
    let r := s.serialWord barred t (serialAddr a i) w.env.bad
    let s1 := r.2.bump .shp 1
    if 255 ≤ w.waits then
      let s2 := if s1.io.held.isSome then s1.setFlag .shp F.SHP_STAT_HELD_LOST true else s1
      let s3 : State := { s2 with io := { s2.io with held := some r.1 } }
      (List.replicate 255 0 ++ [0xE1], ((s3.bumpBy .shp 3 255).bump .shp 4).event .shp 2)
    else
      let n := (s1.bumpBy .shp 3 w.waits).serialReads barred t a ws (i + 1)
      (List.replicate w.waits 0 ++ [0xA5] ++ wordBytes r.1 ++ n.1, n.2)

/-- A frame begins. -/
def State.frameBegin (s : State) : State := s.endIdle.bump .shp 0

/-- A read frame: the words whose internal read starts within it, and the bytes clocked out before it ends. -/
def State.readFrame (s : State) (a : Nat) (ws : List SerRead) (clocked : Nat) : State :=
  if !s.hostOn then s
  else
    let r := s.frameBegin.serialReads (s.tenBarred true) s.serialTenant (a % 2 ^ 24) ws 0
    r.2.emit (.serial (r.1.take clocked))

/-- READ: a frame in 1-1-1 mode. -/
def execShpRead (addr : Nat) (ws : List SerRead) (clocked : Nat) (s : State) : Host.Outcome State Fault Refusal :=
  .next (s.readFrame addr ws clocked)

/-- QREAD: a frame in 1-4-4 mode. -/
def execShpQread (addr : Nat) (ws : List SerRead) (clocked : Nat) (s : State) : Host.Outcome State Fault Refusal :=
  .next (s.readFrame addr ws clocked)

/-- SHP_READY_TIMEOUT: a read frame whose last word is late. -/
def execShpReadyTimeout (addr : Nat) (ws : List SerRead) (s : State) : Host.Outcome State Fault Refusal :=
  .next (
    match ws.getLast? with
    | some w => if 255 ≤ w.waits then s.readFrame addr ws (1000 * (ws.length + 1)) else s
    | none => s)

/-- One word written by a frame. -/
def State.serialWrite (s : State) (barred : Bool) (t : Fin 8) (a : Nat) (w : SerWrite) : State :=
  let s1 := s.bump .shp 2
  if a % 4 ≠ 0 then s1.serialMisaligned barred (serialTarget t (a / 4 * 4)) a true
  else s1.writeAt barred ⟨true, w.val, 0xF⟩ w.env (serialTarget t a)

/-- A write frame; `part`: it ends within a further word, which is a violation of kind 4 (R419). -/
def State.writeFrame (s : State) (a : Nat) (ws : List SerWrite) (part : Bool) : State :=
  if !s.hostOn then s
  else
    let b := s.tenBarred true
    let t := s.serialTenant
    let a0 := a % 2 ^ 24
    let s1 := (ws.zipIdx).foldl (fun s e => s.serialWrite b t (serialAddr a0 e.2) e.1) s.frameBegin
    let last := serialAddr a0 ws.length
    if part then s1.serialMisaligned b (serialTarget t (last / 4 * 4)) last true else s1

/-- WRITE: a frame in 1-1-1 mode. -/
def execShpWrite (addr : Nat) (ws : List SerWrite) (part : Bool) (s : State) : Host.Outcome State Fault Refusal :=
  .next (s.writeFrame addr ws part)

/-- QWRITE: a frame in 1-4-4 mode. -/
def execShpQwrite (addr : Nat) (ws : List SerWrite) (part : Bool) (s : State) : Host.Outcome State Fault Refusal :=
  .next (s.writeFrame addr ws part)

/-- The status byte (R420). -/
def State.shpByte (s : State) : Nat :=
  (if s.io.held.isSome then 8 else 0) + (if s.flag .shp F.SHP_CFG_TEN_EN then 2 else 0) + (if s.intN then 1 else 0)

/-- STATUS: a frame that reads the status byte `n` times. -/
def execShpStatus (n : Nat) (s : State) : Host.Outcome State Fault Refusal :=
  .next (if !s.hostOn then s else let s1 := s.frameBegin; s1.emit (.serial (List.replicate n s1.shpByte)))

/-- READ_HELD: a frame that returns the held word, or zero, and clears it. -/
def execReadHeld (clocked : Nat) (s : State) : Host.Outcome State Fault Refusal :=
  .next (
    if !s.hostOn then s
    else
      let s1 := s.frameBegin
      let s2 : State := { s1 with io := { s1.io with held := none } }
      s2.emit (.serial (([0xA5] ++ wordBytes (s.io.held.getD 0)).take clocked)))

/-- SHP_BAD_CMD: a frame with an undefined command byte. -/
def execShpBadCmd (s : State) : Host.Outcome State Fault Refusal :=
  .next (if !s.hostOn then s else ((s.frameBegin).bump .shp 5).event .shp 1)

/-! The boot record is applied (R465). -/

/-- The application stops. -/
def State.applyFail (s : State) : State :=
  ((s.setNvm { s.nvm with applying := [] }).setFlag .rst F.RST_STAT_BOOT_RECORD_FAIL true).event .rst 2

/-- What a write of the firmware brings from outside: nothing. -/
def noEnv : AccEnv := ⟨false, 0⟩

/-- One step, with whether it fails: a refused lock or a violating write. -/
def State.applyStep (s : State) (a : ApplyStep) : Bool × State :=
  match a with
  | .lock w =>
    if s.writeBad .dev 0x050 w then (true, s)
    else
      let s1 := lockWrite .dev 1 (acceptWrite 0x050 .dev w s)
      (!s1.devLocked, s1)
  | .word p off w =>
    match s.judge p off 0xF (some w) with
    | .act => (false, pageEffect ⟨false, w, 0xF⟩ noEnv off p w s)
    | .drop => (false, s)
    | .viol _ => (true, s)
  | .sched ver tables =>
    (false, ({ s with line := { s.line with sched := { s.line.sched with staged := some (ver, sfOf s.ct, tables) } } }).request .sched)

/-- What is left where only an admission's outcome is awaited: a write of a read-only word, which changes nothing. -/
def awaitOnly : ApplyStep := .word .dev 0x000 0

/-- The steps that are left, as far as the next admission request, whose outcome the firmware awaits. -/
def State.applyRun (s : State) : List ApplyStep → State
  | [] =>
    ((s.setNvm { s.nvm with applying := [] }).setFlag .rst F.RST_STAT_BOOT_RECORD_APPLIED true).bump .rst 7
  | a :: l =>
    let r := s.applyStep a
    if r.1 then r.2.applyFail
    else if r.2.line.spx.queue.length ≠ s.line.spx.queue.length then
      r.2.setNvm { r.2.nvm with applying := if l = [] then [awaitOnly] else l }
    else r.2.applyRun l

/-- The steps of a record: the lock, the words, and the schedule version if one was in force. -/
def BootRec.steps (r : BootRec) : List ApplyStep :=
  [.lock r.accept] ++ r.words.map (fun e => .word e.1 e.2.1 e.2.2) ++
    (if r.ver = 0 then [] else [.sched r.ver r.tables])

/-- BOOT_RECORD_APPLY: after the boot the firmware applies the newest record, once. -/
def execBootRecordApply (s : State) : Host.Outcome State Fault Refusal :=
  .next (
    match s.nvm.boot with
    | r :: _ =>
      if s.bootDone && s.running && s.nvm.autoRest && s.nvm.applying = [] && !s.flag .rst F.RST_STAT_BOOT_RECORD_APPLIED &&
          !s.flag .rst F.RST_STAT_BOOT_RECORD_FAIL then s.applyRun r.steps
      else s
    | [] => s)

/-- ADMISSION_DONE: the oldest waiting request has been evaluated (R170 to R172); an application of the boot record that awaited it
goes on, or stops at a refusal (R465). -/
def execAdmissionDone (s : State) : Host.Outcome State Fault Refusal :=
  .next (
    match s.line.spx.queue with
    | [] => s
    | _ :: rest =>
      let r := s.admissionDone
      if s.nvm.applying = [] || rest != [] then r.2
      else if r.1 then r.2.applyRun s.nvm.applying else r.2.applyFail)

/-! The test access port. -/

/-- TAP_INSTRUCTION: an instruction takes effect; while it is none of BYPASS, IDCODE and SAMPLE/PRELOAD, the pins are as in a reset, so
that the PCIe link is lost, the CMD_IN lines are inactive and the drivers are at high impedance. -/
def execTapInstruction (i : Tap) (s : State) : Host.Outcome State Fault Refusal :=
  .next (
    if s.pwr.mode = .off then s
    else
      let was := s.padsHeld
      let s1 := s.setPwr { s.pwr with tap := i }
      if s1.padsHeld && !was then
        let s2 := if s1.io.link.up then s1.pcieDown else s1
        ({ s2 with io := { s2.io with cmdIn := List.replicate 8 CmdIn.reset } }).outUpdate
      else if was && !s1.padsHeld then s1.outUpdate
      else s1)

end Sys2Proof.Machine
end

