-- ==== Sys2Proof/Machine/Dispatch.lean ====
section
/-! DEFINITION. Dispatch: what each command does to everything but the queue, one arm for each row. -/

namespace Sys2Proof.Machine

def exec (i : Instr) (s : State) : Host.Outcome State Fault Refusal :=
  match i with
  | .writeRegister q l e => Sys2Proof.Machine.execWriteRegister q l e s
  | .pairedLowRead q l bad => Sys2Proof.Machine.execPairedLowRead q l bad s
  | .pairedHighRead q l bad => Sys2Proof.Machine.execPairedHighRead q l bad s
  | .enableSet q p => Sys2Proof.Machine.execEnableSet q p s
  | .enableClear q p => Sys2Proof.Machine.execEnableClear q p s
  | .quiescent p => Sys2Proof.Machine.execQuiescent p s
  | .sreset q p => Sys2Proof.Machine.execSreset q p s
  | .softResetDone p => Sys2Proof.Machine.execSoftResetDone p s
  | .testIsolate q p => Sys2Proof.Machine.execTestIsolate q p s
  | .isolatedTestDone p pass => Sys2Proof.Machine.execIsolatedTestDone p pass s
  | .pgEventClear q p => Sys2Proof.Machine.execPgEventClear q p s
  | .pgEventEnWrite q p => Sys2Proof.Machine.execPgEventEnWrite q p s
  | .pgEventSet q p => Sys2Proof.Machine.execPgEventSet q p s
  | .msixUnmask fn vec mask => Sys2Proof.Machine.execMsixUnmask fn vec mask s
  | .pgFaultClear q p => Sys2Proof.Machine.execPgFaultClear q p s
  | .cntClr q p => Sys2Proof.Machine.execCntClr q p s
  | .eventRouteChange q k => Sys2Proof.Machine.execEventRouteChange q k s
  | .featAcceptWrite q k => Sys2Proof.Machine.execFeatAcceptWrite q k s
  | .featLock q => Sys2Proof.Machine.execFeatLock q s
  | .violClr q => Sys2Proof.Machine.execViolClr q s
  | .slotBoundary x => Sys2Proof.Machine.execSlotBoundary x s
  | .symbolBoundary c frac tx loads rx => Sys2Proof.Machine.execSymbolBoundary c frac tx loads rx s
  | .superframeBoundary x => Sys2Proof.Machine.execSuperframeBoundary x s
  | .sy1Detect c frac np => Sys2Proof.Machine.execSy1Detect c frac np s
  | .vdrvSet q => Sys2Proof.Machine.execVdrvSet q s
  | .vdrvSettled meas => Sys2Proof.Machine.execVdrvSettled meas s
  | .vdrvUv meas => Sys2Proof.Machine.execVdrvUv meas s
  | .ledgerCapWrite q => Sys2Proof.Machine.execLedgerCapWrite q s
  | .shareWrite q c => Sys2Proof.Machine.execShareWrite q c s
  | .drvCurrentLimit p => Sys2Proof.Machine.execDrvCurrentLimit p s
  | .paTrip p mv => Sys2Proof.Machine.execPaTrip p mv s
  | .drvThermal p temp => Sys2Proof.Machine.execDrvThermal p temp s
  | .fcDecode c bits iters parity => Sys2Proof.Machine.execFcDecode c bits iters parity s
  | .decodeDone c k iters info parity resid cells => Sys2Proof.Machine.execDecodeDone c k iters info parity resid cells s
  | .soundingRx c x => Sys2Proof.Machine.execSoundingRx c x s
  | .proposeNow q c => Sys2Proof.Machine.execProposeNow q c s
  | .soundRequest q c => Sys2Proof.Machine.execSoundRequest q c s
  | .linkSelect q c => Sys2Proof.Machine.execLinkSelect q c s
  | .tmapProposalRx c p => Sys2Proof.Machine.execTmapProposalRx c p s
  | .tmapStatusRx c peer id boundary outcome => Sys2Proof.Machine.execTmapStatusRx c peer id boundary outcome s
  | .turnBoundary => Sys2Proof.Machine.execTurnBoundary s
  | .spindleJobDone id => Sys2Proof.Machine.execSpindleJobDone id s
  | .jobDeadline id ok => Sys2Proof.Machine.execJobDeadline id ok s
  | .decIterWrite q => Sys2Proof.Machine.execDecIterWrite q s
  | .admissionDone => Sys2Proof.Machine.execAdmissionDone s
  | .lgTestPeriod k => Sys2Proof.Machine.execLgTestPeriod k s
  | .lgTestStart q k => Sys2Proof.Machine.execLgTestStart q k s
  | .lgTestDone k pass => Sys2Proof.Machine.execLgTestDone k pass s
  | .lgSelfCheckFail k lg => Sys2Proof.Machine.execLgSelfCheckFail k lg s
  | .beaconRx c x => Sys2Proof.Machine.execBeaconRx c x s
  | .syncLost => Sys2Proof.Machine.execSyncLost s
  | .schedStageGo q => Sys2Proof.Machine.execSchedStageGo q s
  | .figNextGo q => Sys2Proof.Machine.execFigNextGo q s
  | .dwlBucket p => Sys2Proof.Machine.execDwlBucket p s
  | .priorityWindow c p => Sys2Proof.Machine.execPriorityWindow c p s
  | .priorityBurstRx c j level => Sys2Proof.Machine.execPriorityBurstRx c j level s
  | .backoffMinislot c k => Sys2Proof.Machine.execBackoffMinislot c k s
  | .cmdCopySend c overlap => Sys2Proof.Machine.execCmdCopySend c overlap s
  | .cmdRepeat j persist => Sys2Proof.Machine.execCmdRepeat j persist s
  | .cmdDetect c lines rho overlap => Sys2Proof.Machine.execCmdDetect c lines rho overlap s
  | .macFrameRx r rx => Sys2Proof.Machine.execMacFrameRx r rx s
  | .seenAgeExpire src seq epoch => Sys2Proof.Machine.execSeenAgeExpire src seq epoch s
  | .reelAckTimeout src seq epoch => Sys2Proof.Machine.execReelAckTimeout src seq epoch s
  | .fwdHoldExpire id => Sys2Proof.Machine.execFwdHoldExpire id s
  | .routeAdvTimer => Sys2Proof.Machine.execRouteAdvTimer s
  | .routeAdvRx c src d => Sys2Proof.Machine.execRouteAdvRx c src d s
  | .routeExpire j => Sys2Proof.Machine.execRouteExpire j s
  | .linkDown c peer => Sys2Proof.Machine.execLinkDown c peer s
  | .rteRead q => Sys2Proof.Machine.execRteRead q s
  | .rteWrite q => Sys2Proof.Machine.execRteWrite q s
  | .rteDelete q => Sys2Proof.Machine.execRteDelete q s
  | .rteLookup q => Sys2Proof.Machine.execRteLookup q s
  | .rteFlush q => Sys2Proof.Machine.execRteFlush q s
  | .seenFlush q => Sys2Proof.Machine.execSeenFlush q s
  | .seenQuery q => Sys2Proof.Machine.execSeenQuery q s
  | .dirLookup q => Sys2Proof.Machine.execDirLookup q s
  | .dirInsert q => Sys2Proof.Machine.execDirInsert q s
  | .dirDelete q => Sys2Proof.Machine.execDirDelete q s
  | .mergeNow q => Sys2Proof.Machine.execMergeNow q s
  | .dirDramFetchDone x ok => Sys2Proof.Machine.execDirDramFetchDone x ok s
  | .claimWaitExpire => Sys2Proof.Machine.execClaimWaitExpire s
  | .dirMergeRx d => Sys2Proof.Machine.execDirMergeRx d s
  | .sleepTimerWake => Sys2Proof.Machine.execSleepTimerWake s
  | .wakeComplete slots frac edges => Sys2Proof.Machine.execWakeComplete slots frac edges s
  | .wakeRx c src rx d => Sys2Proof.Machine.execWakeRx c src rx d s
  | .answerBurst => Sys2Proof.Machine.execAnswerBurst s
  | .answerWindowEnd c k alive aliveUp => Sys2Proof.Machine.execAnswerWindowEnd c k alive aliveUp s
  | .rendezvousMiss => Sys2Proof.Machine.execRendezvousMiss s
  | .stayEnd => Sys2Proof.Machine.execStayEnd s
  | .adriftListenEnd => Sys2Proof.Machine.execAdriftListenEnd s
  | .adriftWaitEnd => Sys2Proof.Machine.execAdriftWaitEnd s
  | .announceNow q => Sys2Proof.Machine.execAnnounceNow q s
  | .sleepAnnounceRx src d => Sys2Proof.Machine.execSleepAnnounceRx src d s
  | .energyWindowEnd => Sys2Proof.Machine.execEnergyWindowEnd s
  | .dbSqWrite q t k => Sys2Proof.Machine.execDbSqWrite q t k s
  | .dbCqWrite q t k => Sys2Proof.Machine.execDbCqWrite q t k s
  | .ringEnable q t k cq => Sys2Proof.Machine.execRingEnable q t k cq s
  | .sqDisable q t k => Sys2Proof.Machine.execSqDisable q t k s
  | .cqDisable q t k => Sys2Proof.Machine.execCqDisable q t k s
  | .descFetchDone o => Sys2Proof.Machine.execDescFetchDone o s
  | .payloadReadDone t id r => Sys2Proof.Machine.execPayloadReadDone t id r s
  | .completionWriteDone t q ok => Sys2Proof.Machine.execCompletionWriteDone t q ok s
  | .ackRx c peer recs => Sys2Proof.Machine.execAckRx c peer recs s
  | .lseqGapExpire c peer => Sys2Proof.Machine.execLseqGapExpire c peer s
  | .e2eTimeout t id => Sys2Proof.Machine.execE2eTimeout t id s
  | .holdLimitExpire t id => Sys2Proof.Machine.execHoldLimitExpire t id s
  | .confirmationRx src recs => Sys2Proof.Machine.execConfirmationRx src recs s
  | .reasmTimeout src svc prio no dev => Sys2Proof.Machine.execReasmTimeout src svc prio no dev s
  | .orderWaitExpire t id => Sys2Proof.Machine.execOrderWaitExpire t id s
  | .deliveryStart t q bad => Sys2Proof.Machine.execDeliveryStart t q bad s
  | .deliveryWriteDone t ok => Sys2Proof.Machine.execDeliveryWriteDone t ok s
  | .waitAgeExpire t id => Sys2Proof.Machine.execWaitAgeExpire t id s
  | .qmemWrite q t => Sys2Proof.Machine.execQmemWrite q t s
  | .tenantFeatLock q t => Sys2Proof.Machine.execTenantFeatLock q t s
  | .tntMctlReset q t => Sys2Proof.Machine.execTntMctlReset q t s
  | .tntReset q t => Sys2Proof.Machine.execTntReset q t s
  | .tenantResetDone t => Sys2Proof.Machine.execTenantResetDone t s
  | .crDbSqWrite q t => Sys2Proof.Machine.execCrDbSqWrite q t s
  | .crDbCqWrite q t => Sys2Proof.Machine.execCrDbCqWrite q t s
  | .cipherEncrypt t r => Sys2Proof.Machine.execCipherEncrypt t r s
  | .cipherDecrypt t r => Sys2Proof.Machine.execCipherDecrypt t r s
  | .cipherMac t r => Sys2Proof.Machine.execCipherMac t r s
  | .cipherVerify t r => Sys2Proof.Machine.execCipherVerify t r s
  | .cipherRandom t => Sys2Proof.Machine.execCipherRandom t s
  | .loadKey t r => Sys2Proof.Machine.execLoadKey t r s
  | .keyUnload t => Sys2Proof.Machine.execKeyUnload t s
  | .cipherLaneDone j wr => Sys2Proof.Machine.execCipherLaneDone j wr s
  | .pkLoad q => Sys2Proof.Machine.execPkLoad q s
  | .pkClear q => Sys2Proof.Machine.execPkClear q s
  | .keyDerive q => Sys2Proof.Machine.execKeyDerive q s
  | .groupLoad q => Sys2Proof.Machine.execGroupLoad q s
  | .ownLoad q => Sys2Proof.Machine.execOwnLoad q s
  | .wktPut q => Sys2Proof.Machine.execWktPut q s
  | .slotQuery q => Sys2Proof.Machine.execSlotQuery q s
  | .slotClear q => Sys2Proof.Machine.execSlotClear q s
  | .zeroise q => Sys2Proof.Machine.execZeroise q s
  | .provLock q => Sys2Proof.Machine.execProvLock q s
  | .nodeKeyResolved h readable => Sys2Proof.Machine.execNodeKeyResolved h readable s
  | .nonceReserveDone => Sys2Proof.Machine.execNonceReserveDone s
  | .keySlotParity k => Sys2Proof.Machine.execKeySlotParity k s
  | .keySlotRestored k => Sys2Proof.Machine.execKeySlotRestored k s
  | .entropyHealthTest pass => Sys2Proof.Machine.execEntropyHealthTest pass s
  | .drbgHalt => Sys2Proof.Machine.execDrbgHalt s
  | .entropyRetest pass => Sys2Proof.Machine.execEntropyRetest pass s
  | .reseedNow q => Sys2Proof.Machine.execReseedNow q s
  | .entRandRead q => Sys2Proof.Machine.execEntRandRead q s
  | .cipherTestPeriod => Sys2Proof.Machine.execCipherTestPeriod s
  | .cipherTestStart q => Sys2Proof.Machine.execCipherTestStart q s
  | .cipherTestDone pass => Sys2Proof.Machine.execCipherTestDone pass s
  | .cipherLaneFail j => Sys2Proof.Machine.execCipherLaneFail j s
  | .fatalFault f => Sys2Proof.Machine.execFatalFault f s
  | .watchdogExpire => Sys2Proof.Machine.execWatchdogExpire s
  | .forceLowWrite q => Sys2Proof.Machine.execForceLowWrite q s
  | .heartbeatTx high lanes replays => Sys2Proof.Machine.execHeartbeatTx high lanes replays s
  | .heartbeatRx lane b => Sys2Proof.Machine.execHeartbeatRx lane b s
  | .heartbeatLoss => Sys2Proof.Machine.execHeartbeatLoss s
  | .peerOkFall => Sys2Proof.Machine.execPeerOkFall s
  | .twinElection high => Sys2Proof.Machine.execTwinElection high s
  | .bulkCopyDone => Sys2Proof.Machine.execBulkCopyDone s
  | .mirrorRecordRx seq progress m => Sys2Proof.Machine.execMirrorRecordRx seq progress m s
  | .mirrorAckRx seq => Sys2Proof.Machine.execMirrorAckRx seq s
  | .twinSwap q => Sys2Proof.Machine.execTwinSwap q s
  | .twinResync q => Sys2Proof.Machine.execTwinResync q s
  | .twinLaneFail lane => Sys2Proof.Machine.execTwinLaneFail lane s
  | .rowMarchTest sbuf fail words => Sys2Proof.Machine.execRowMarchTest sbuf fail words s
  | .sramScrub corrected => Sys2Proof.Machine.execSramScrub corrected s
  | .vsSample frac va vb vc taps => Sys2Proof.Machine.execVsSample frac va vb vc taps s
  | .mainsTimeout frac => Sys2Proof.Machine.execMainsTimeout frac s
  | .monDataRead q m => Sys2Proof.Machine.execMonDataRead q m s
  | .bankSwap q m => Sys2Proof.Machine.execBankSwap q m s
  | .pciePerst pin => Sys2Proof.Machine.execPciePerst pin s
  | .pcieLinkUp speed two => Sys2Proof.Machine.execPcieLinkUp speed two s
  | .pcieFlr fn => Sys2Proof.Machine.execPcieFlr fn s
  | .bmeChange fn bme d3 msixEn => Sys2Proof.Machine.execBmeChange fn bme d3 msixEn s
  | .pcieRequestNoBar fn => Sys2Proof.Machine.execPcieRequestNoBar fn s
  | .shpRead addr ws clocked => Sys2Proof.Machine.execShpRead addr ws clocked s
  | .shpQread addr ws clocked => Sys2Proof.Machine.execShpQread addr ws clocked s
  | .shpWrite addr ws part => Sys2Proof.Machine.execShpWrite addr ws part s
  | .shpQwrite addr ws part => Sys2Proof.Machine.execShpQwrite addr ws part s
  | .shpStatus n => Sys2Proof.Machine.execShpStatus n s
  | .readHeld clocked => Sys2Proof.Machine.execReadHeld clocked s
  | .shpBadCmd => Sys2Proof.Machine.execShpBadCmd s
  | .shpReadyTimeout addr ws => Sys2Proof.Machine.execShpReadyTimeout addr ws s
  | .uartRxChar u data par stop => Sys2Proof.Machine.execUartRxChar u data par stop s
  | .uartTxChar u cts => Sys2Proof.Machine.execUartTxChar u cts s
  | .uartTxdWrite q u => Sys2Proof.Machine.execUartTxdWrite q u s
  | .uartRxdRead q u bad => Sys2Proof.Machine.execUartRxdRead q u bad s
  | .uartIdle u => Sys2Proof.Machine.execUartIdle u s
  | .uartBreak u => Sys2Proof.Machine.execUartBreak u s
  | .rxFlush q u => Sys2Proof.Machine.execRxFlush q u s
  | .txFlush q u => Sys2Proof.Machine.execTxFlush q u s
  | .cmdInSample hi mid => Sys2Proof.Machine.execCmdInSample hi mid s
  | .cmdInActivate j => Sys2Proof.Machine.execCmdInActivate j s
  | .cmdInDeactivate j => Sys2Proof.Machine.execCmdInDeactivate j s
  | .cmdOutHoldExpire j => Sys2Proof.Machine.execCmdOutHoldExpire j s
  | .pmxSelect q n => Sys2Proof.Machine.execPmxSelect q n s
  | .pmxSwitchDone n => Sys2Proof.Machine.execPmxSwitchDone n s
  | .tapInstruction j => Sys2Proof.Machine.execTapInstruction j s
  | .shedStage j vin => Sys2Proof.Machine.execShedStage j vin s
  | .restoreTimerExpire j => Sys2Proof.Machine.execRestoreTimerExpire j s
  | .stage5JournalDone => Sys2Proof.Machine.execStage5JournalDone s
  | .supplyReset vin vbat => Sys2Proof.Machine.execSupplyReset vin vbat s
  | .aoPor vin vbat => Sys2Proof.Machine.execAoPor vin vbat s
  | .vbatLow vbat => Sys2Proof.Machine.execVbatLow vbat s
  | .railFault rail => Sys2Proof.Machine.execRailFault rail s
  | .idleEnter => Sys2Proof.Machine.execIdleEnter s
  | .pwrSlumber q => Sys2Proof.Machine.execPwrSlumber q s
  | .pwrStandby q => Sys2Proof.Machine.execPwrStandby q s
  | .pwrWake q => Sys2Proof.Machine.execPwrWake q s
  | .alarmMatch => Sys2Proof.Machine.execAlarmMatch s
  | .xtal32Fail => Sys2Proof.Machine.execXtal32Fail s
  | .xtal32Restore => Sys2Proof.Machine.execXtal32Restore s
  | .refclkLoss pll => Sys2Proof.Machine.execRefclkLoss pll s
  | .cnvpllUnlock => Sys2Proof.Machine.execCnvpllUnlock s
  | .cnvpllRelock => Sys2Proof.Machine.execCnvpllRelock s
  | .drampllUnlock => Sys2Proof.Machine.execDrampllUnlock s
  | .pcieRefLoss => Sys2Proof.Machine.execPcieRefLoss s
  | .dramTrainDone ok mib => Sys2Proof.Machine.execDramTrainDone ok mib s
  | .deviceReset q => Sys2Proof.Machine.execDeviceReset q s
  | .pinReset => Sys2Proof.Machine.execPinReset s
  | .bootStart r => Sys2Proof.Machine.execBootStart r s
  | .bootDone us => Sys2Proof.Machine.execBootDone us s
  | .bootRecordApply => Sys2Proof.Machine.execBootRecordApply s
  | .bootSave q => Sys2Proof.Machine.execBootSave q s
  | .bootErase q => Sys2Proof.Machine.execBootErase q s
  | .bootSaveDone => Sys2Proof.Machine.execBootSaveDone s
  | .thermalSample l drv => Sys2Proof.Machine.execThermalSample l drv s
  | .thermalWarnClear => Sys2Proof.Machine.execThermalWarnClear s
  | .thermalShutdown => Sys2Proof.Machine.execThermalShutdown s
  | .thermalRelease => Sys2Proof.Machine.execThermalRelease s
  | .updBegin q => Sys2Proof.Machine.execUpdBegin q s
  | .updDataWrite q => Sys2Proof.Machine.execUpdDataWrite q s
  | .updOffsetWrite q => Sys2Proof.Machine.execUpdOffsetWrite q s
  | .stagingRowWrite waits => Sys2Proof.Machine.execStagingRowWrite waits s
  | .verifyImage q => Sys2Proof.Machine.execVerifyImage q s
  | .verifyDone => Sys2Proof.Machine.execVerifyDone s
  | .updActivate q => Sys2Proof.Machine.execUpdActivate q s
  | .activationRestartDone => Sys2Proof.Machine.execActivationRestartDone s
  | .migrationDone => Sys2Proof.Machine.execMigrationDone s
  | .updCommit q => Sys2Proof.Machine.execUpdCommit q s
  | .updRollback q => Sys2Proof.Machine.execUpdRollback q s
  | .updAbort q => Sys2Proof.Machine.execUpdAbort q s
  | .updRevoke q => Sys2Proof.Machine.execUpdRevoke q s
  | .nvmRowRead q bits => Sys2Proof.Machine.execNvmRowRead q bits s
  | .scrubRow bits waits => Sys2Proof.Machine.execScrubRow bits waits s
  | .logCompact free recs => Sys2Proof.Machine.execLogCompact free recs s
  | .compacted free => Sys2Proof.Machine.execCompacted free s
  | .cntSnap q => Sys2Proof.Machine.execCntSnap q s
  | .cntSnapClr q => Sys2Proof.Machine.execCntSnapClr q s
  | .cntClrAll q => Sys2Proof.Machine.execCntClrAll q s
  | .holdRelease q => Sys2Proof.Machine.execHoldRelease q s
  | .snapPeriod => Sys2Proof.Machine.execSnapPeriod s
  | .snapDone => Sys2Proof.Machine.execSnapDone s
  | .hstCfgWrite q h j filter => Sys2Proof.Machine.execHstCfgWrite q h j filter s
  | .hstClr q h j => Sys2Proof.Machine.execHstClr q h j s
  | .vinRisingThreshold j vin => Sys2Proof.Machine.execVinRisingThreshold j vin s
  | .pd0SupplyLoss => Sys2Proof.Machine.execPd0SupplyLoss s
  | .drampllRelock => Sys2Proof.Machine.execDrampllRelock s
  | .pcieRefRestore => Sys2Proof.Machine.execPcieRefRestore s
  | .pciePerstRise => Sys2Proof.Machine.execPciePerstRise s
  | .dramScrub corrected bad => Sys2Proof.Machine.execDramScrub corrected bad s
  | .mirrorRecordLost => Sys2Proof.Machine.execMirrorRecordLost s
  | .directRequestSetAside j => Sys2Proof.Machine.execDirectRequestSetAside j s

end Sys2Proof.Machine
end

