-- ==== Sys2Proof/Safety.lean ====
section
/-! DEFINITION. What holds of the block in every run, in the terms that statements use: the canonical form of its stores, the
lengths of its fixed sets of latches and functions, and what no command ever changes. -/

set_option Elab.async false

namespace Sys2Proof.Machine

/-- The windowed memories (Table 02-7) are in canonical form: in each, addresses strictly rising, and no entry equal to what
an unlisted address reads as. -/
def Mem.wf (m : Mem) : Bool :=
  storeWf (fun _ => 0) m.qmem && storeWf (fun _ => 0) m.dir && storeWf tmapDefault m.tmap && storeWf (fun _ => 0) m.sbuf

/-- The state is well formed: canonical memories, register addresses strictly rising (each register listed at most once), one
latch for each reading function (R50, R65), and nine physical functions (R46). -/
def State.Wf (s : State) : Prop :=
  s.mem.wf = true ∧ risingFrom 0 s.regs = true ∧ s.latches.length = 11 ∧ s.fns.length = 9

/-- What manufacture fixed is untouched (Table 16-7, R483): the part, the DRAM fitted, the die's identifier, which
trust entries are fused and their digests; a blown revocation fuse stays blown. -/
def Chip.Kept (c d : Chip) : Prop :=
  d.is7236 = c.is7236 ∧ d.dramMib = c.dramMib ∧ d.devId = c.devId ∧ d.fused = c.fused ∧ d.trust = c.trust ∧
    ∀ i, bitOf c.revoked i = true → bitOf d.revoked i = true

/-- A word write to a page's register acts: the host interfaces work, the access is not a serial one to a tenant side that is
disabled, and it is judged to act (R52 to R66, R408, R421). -/
abbrev State.Takes (s : State) (q : Req) (p : Page) (off : Nat) : Prop :=
  s.hostOn = true ∧ s.serialBarred (s.reach p q.serial) q.serial = false ∧
    s.judge (s.reach p q.serial) off q.be (some q.val) = .act

/-- A word read of a page's register acts. -/
abbrev State.Gives (s : State) (q : RdReq) (p : Page) (off : Nat) : Prop :=
  s.hostOn = true ∧ s.serialBarred (s.reach p q.serial) q.serial = false ∧ s.judge (s.reach p q.serial) off q.be none = .act

/-- The state in which a word access to a page acts: IDLE has ended (R450) and the accessing function's latch is spent (R50). -/
abbrev State.at_ (s : State) (p : Page) (serial : Bool) : State := s.touch ((s.reach p serial).fn serial)

/-- At most the registers, what has been emitted, the functions' MSI-X bits, and what any word access ends (IDLE and latches) differ:
everything else of `t` is as in `s`. -/
abbrev State.Beside (s t : State) : Prop :=
  t = { s with regs := t.regs, out := t.out, fns := t.fns, latches := t.latches, pwr := { s.pwr with mode := t.pwr.mode } }

end Sys2Proof.Machine
end

