-- ==== Sys2Proof/Certificates/Slice0/Obligations.lean ====
section
/-! DEFINITION. The statements for the provers. Each says of the commands it names that they complete with the effect their rules give,
in every state and with every operand that meets its premises. -/

set_option Elab.async false

open Sys2Proof Sys2Proof.Machine

/-- Step by step, the front command of the queue is carried out on the state with the rest of the queue; an empty queue idles (the model's
choice: notes/assumptions/1.md). -/
def Obligations.StepRunsTheFrontCommand : Prop :=
  (∀ (c : Instr) (rest : List Instr) (s : State), step { s with pending := c :: rest } = exec c { s with pending := rest }) ∧
  ∀ s : State, s.pending = [] → step s = .next s

/-- Every command, with any operands and in any state, completes: it answers a next state, in which the queue is as it was and what
manufacture fixed is untouched; revocation fuses are only ever blown (R483). -/
def Obligations.EveryCommandCompletes : Prop :=
  ∀ (c : Instr) (s : State), ∃ t, exec c s = .next t ∧ t.pending = s.pending ∧ s.chip.Kept t.chip

/-- A step keeps the state well formed: canonical memories, registers listed once, the fixed numbers of latches and functions. -/
def Obligations.StepKeepsTheStateWellFormed : Prop :=
  ∀ s t : State, s.Wf → step s = .next t → t.Wf

/-- The state after reset is well formed, and no command waits in it. -/
def Obligations.ResetStateIsWellFormed : Prop :=
 State.reset.Wf ∧ State.reset.pending = []

/-- After reset every register holds its reset value, the device is in STANDBY with every stage shed, no accepted set is locked, and the
violation record is armed. -/
def Obligations.ResetLeavesEveryRegisterAtItsResetValue : Prop :=
  (∀ (p : Page) (off : Nat), State.reset.reg p off = resetWord p off) ∧
  State.reset.pwr.mode = .standby ∧ (∀ k, k < 5 → State.reset.stageShed (k + 1) = true) ∧
  State.reset.devLocked = false ∧ State.reset.violArmed = true ∧ State.reset.mem = Mem.empty

/-- PG_EVENT, PG_EVENT_EN and PG_EVENT_SET: a served write clears the bits written 1, sets the enables that the page defines, or sets the
written bits that it defines; no other register changes, and nothing else does but what an interrupt message changes. -/
def Obligations.EventRegistersActOnTheirBits : Prop :=
  ∀ (q : Req) (p0 : Page) (s : State), s.Wf →
    let p := s.reach p0 q.serial
    (s.Takes q p0 offEvent → ∃ t, exec (.pgEventClear q p0) s = .next t ∧ t.reg p offEvent = s.reg p offEvent &&& ~~~ q.val ∧
      (∀ r o, regKey r o ≠ regKey p offEvent → t.reg r o = s.reg r o) ∧ s.Beside t) ∧
    (s.Takes q p0 offEventEn → ∃ t, exec (.pgEventEnWrite q p0) s = .next t ∧ t.reg p offEventEn = q.val &&& eventMask p ∧
      (∀ r o, regKey r o ≠ regKey p offEventEn → t.reg r o = s.reg r o) ∧ s.Beside t) ∧
    (s.Takes q p0 offEventSet → ∃ t, exec (.pgEventSet q p0) s = .next t ∧
      t.reg p offEvent = s.reg p offEvent ||| (q.val &&& eventMask p) ∧
      (∀ r o, regKey r o ≠ regKey p offEvent → t.reg r o = s.reg r o) ∧ s.Beside t)

/-- PG_FAULT is W1C, and PG_FAULT_INFO keeps its description while any bit of PG_FAULT stays set and reads zero from the moment it is
entirely clear. A fault bit that sets is sticky and sets the event FAULT; the first one while PG_FAULT is clear is described in
PG_FAULT_INFO, by its index and detail, and a later one leaves the description as it is. -/
def Obligations.FaultsAreStickyAndTheFirstIsDescribed : Prop :=
  (∀ (q : Req) (p0 : Page) (s : State), s.Wf → s.Takes q p0 offFault →
    let p := s.reach p0 q.serial
    ∃ t, exec (.pgFaultClear q p0) s = .next t ∧ t.reg p offFault = s.reg p offFault &&& ~~~ q.val ∧
      t.reg p offFaultInfo = (if s.reg p offFault &&& ~~~ q.val = 0 then 0 else s.reg p offFaultInfo) ∧
      (∀ r o, regKey r o ≠ regKey p offFault → regKey r o ≠ regKey p offFaultInfo → t.reg r o = s.reg r o) ∧ s.Beside t) ∧
  (∀ (p : Page) (i detail : Nat) (s : State), s.Wf → i < 32 → (faultMask p).getLsbD i = true →
    let t := s.fault p i detail
    (t.reg p offFault).getLsbD i = true ∧
    (∀ j, j < 32 → j ≠ i → (t.reg p offFault).getLsbD j = (s.reg p offFault).getLsbD j) ∧
    ((s.reg p offFault).getLsbD i = false → (t.reg p offEvent).getLsbD 0 = (eventMask p ||| s.reg p offEvent).getLsbD 0) ∧
    t.reg p offFaultInfo = if s.reg p offFault = 0 then BitVec.ofNat 32 (i * 2 ^ 27 + detail % 2 ^ 27) else s.reg p offFaultInfo)

/-- PG_CNT_CTRL: EN takes its value and a CLR bit written 1 zeroes its counter, the others keeping theirs; a counter counts events modulo
2^48 while its EN bit is 1, and stays otherwise. -/
def Obligations.CountersClearAndCountWhileEnabled : Prop :=
  (∀ (q : Req) (p0 : Page) (s : State), s.Wf → s.Takes q p0 offCntCtrl →
    let p := s.reach p0 q.serial
    ∃ t, exec (.cntClr q p0) s = .next t ∧
      (∀ i, i < nCounters p → t.cntEn p i = q.val.getLsbD i ∧
        t.counter p i = if q.val.getLsbD (16 + i) then 0 else s.counter p i) ∧
      (∀ r o, o < 4096 → r ≠ p → t.reg r o = s.reg r o) ∧ (∀ o, o < 0x080 → o ≠ offCntCtrl → t.reg p o = s.reg p o) ∧ s.Beside t) ∧
  ∀ (p : Page) (i n : Nat) (s : State), s.Wf →
    (s.bumpBy p i n).counter p i = if s.cntEn p i then (s.counter p i + n) % 2 ^ 48 else s.counter p i

/-- PG_CTRL: on a page that is not always enabled, ENABLE rising and falling, SRESET and TEST_ISOLATE are stored and act; on an always-
enabled page a write of PG_CTRL changes nothing. A block whose ENABLE is 0 and whose work has ended reads QUIESCENT; a soft reset that
finishes ends for its page alone; an isolated test that ends is recorded in HLT_TEST_LAST with its outcome, its page's instance and block
code, and is no longer running. -/
def Obligations.BlocksStartStopAndAreTested : Prop :=
  (∀ (q : Req) (p0 : Page) (s : State), s.Takes q p0 offCtrl →
    let p := s.reach p0 q.serial
    let u := (s.at_ p0 q.serial).setReg p offCtrl (q.val &&& definedBits p offCtrl &&& 5)
    (alwaysEnabled p = false → s.isolated p = q.val.getLsbD 2 →
      (q.val.getLsbD 1 = false → q.val.getLsbD 0 = true → s.enabled p = false → exec (.enableSet q p0) s = .next (u.enableSet p)) ∧
      (q.val.getLsbD 1 = false → q.val.getLsbD 0 = false → s.enabled p = true → exec (.enableClear q p0) s = .next (u.enableClear p)) ∧
      (q.val.getLsbD 1 = true → q.val.getLsbD 0 = s.enabled p → exec (.sreset q p0) s = .next (u.softBegin p))) ∧
    (hasTestIsolate p = true → q.val.getLsbD 1 = false → q.val.getLsbD 0 = s.enabled p → s.isolated p = false → q.val.getLsbD 2 = true →
      exec (.testIsolate q p0) s = .next (u.isolateSet p)) ∧
    (hasTestIsolate p = true → q.val.getLsbD 1 = false → q.val.getLsbD 0 = s.enabled p → s.isolated p = true → q.val.getLsbD 2 = false →
      exec (.testIsolate q p0) s = .next (u.isolateClear p)) ∧
    (alwaysEnabled p = true → exec (.enableSet q p0) s = .next (s.at_ p0 q.serial) ∧ exec (.enableClear q p0) s = .next (s.at_ p0 q.serial) ∧
      exec (.sreset q p0) s = .next (s.at_ p0 q.serial) ∧ exec (.testIsolate q p0) s = .next (s.at_ p0 q.serial))) ∧
  ((∀ (p : Page) (s : State), s.Wf → s.enabled p = false → s.hasWork p = false → ∃ t, exec (.quiescent p) s = .next t ∧
    t.status p 2 = true ∧ (∀ j, j < 32 → j ≠ 2 → t.status p j = s.status p j) ∧
    (∀ r o, regKey r o ≠ regKey p offStatus → t.reg r o = s.reg r o) ∧ t = { s with regs := t.regs }) ∧
  (∀ (p : Page) (s : State), p ∈ s.softReset → ∃ t, exec (.softResetDone p) s = .next t ∧ p ∉ t.softReset ∧
    (∀ r, r ≠ p → (r ∈ t.softReset ↔ r ∈ s.softReset)) ∧ t = { s with softReset := t.softReset, chains := t.chains }) ∧
  (∀ (p : Page) (s : State), s.Wf → p ∈ s.isoTests → ∃ t, exec (.isolatedTestDone p true) s = .next t ∧ p ∉ t.isoTests ∧
    t.reg .hlt 0x04C = BitVec.ofNat 32 (2 ^ 31 + 2 ^ 30 + pageInst p * 2 ^ 16 + blockCode p) ∧
    (∀ r o, o < 4096 → r ≠ .hlt → t.reg r o = s.reg r o) ∧ ({ s with isoTests := t.isoTests }).Beside t) ∧
  (∀ (p : Page) (s : State), s.Wf → p ∈ s.isoTests → ∃ u, p ∉ u.isoTests ∧
    exec (.isolatedTestDone p false) s = .next (match p with | .np _ | .wp _ => u.portsRemove | _ => u) ∧
    u.reg .hlt 0x04C = BitVec.ofNat 32 (2 ^ 31 + pageInst p * 2 ^ 16 + blockCode p) ∧
    ((faultMask p).getLsbD 1 = true → (u.reg p offFault).getLsbD 1 = true) ∧
    ({ s with isoTests := u.isoTests }).Beside u))

/-- A written word acts on each field by the field's own access type, and on no other bit; and a write to a register of a page whose
registers have no effect of their own (CLK, THM, HIF, SHP, DWL, CMD) stores the word so formed and changes no other register. -/
def Obligations.WritesFollowTheAccessTypes : Prop :=
  (∀ (p : Page) (off : Nat) (w : Word) (s : State) (f : Fld) (i : Nat), f ∈ regFlds p off → f.lo ≤ i → i < f.lo + f.w → i < 32 →
    (s.written p off w).getLsbD i = match f.acc with
      | .rw => w.getLsbD i
      | .rwl => if s.locked p { f with off := off } then (s.reg p off).getLsbD i else w.getLsbD i
      | .w1c => (s.reg p off).getLsbD i && !w.getLsbD i
      | .w1s => (s.reg p off).getLsbD i || w.getLsbD i
      | .ro | .wo => (s.reg p off).getLsbD i) ∧
  (∀ (p : Page) (off : Nat) (w : Word) (s : State) (i : Nat), (∀ f ∈ regFlds p off, ¬ (f.lo ≤ i ∧ i < f.lo + f.w)) →
    (s.written p off w).getLsbD i = (s.reg p off).getLsbD i) ∧
  ∀ (q : Req) (p : Page) (off : Nat) (e : AccEnv) (s : State), s.Wf → p ∈ [Page.clk, .thm, .hif, .shp, .dwl, .cmd] →
    0x040 ≤ off → off < 0x1000 → s.Takes q p off → ∃ t, exec (.writeRegister q (.reg p off) e) s = .next t ∧
      t.reg p off = s.written p off q.val ∧ (∀ r o, regKey r o ≠ regKey p off → t.reg r o = s.reg r o) ∧ s.Beside t

/-- DEV_FEAT_ACCEPT0 to 3 take the set that the manager writes, with bit 0 of the first always 1, and REFUSED clears; a word with a 1 for
a feature that is not offered is ignored as a whole and is a violation of kind 3, which is counted, and recorded if it is the first. -/
def Obligations.AcceptedFeaturesAreTheOfferedOnes : Prop :=
  ∀ (q : Req) (k : Fin 4) (s : State), s.Wf → s.devLocked = false →
    (s.Takes q .dev (0x050 + 4 * k.val) → ∃ t, exec (.featAcceptWrite q k) s = .next t ∧
      t.reg .dev (0x050 + 4 * k.val) = (if k.val = 0 then q.val ||| 1 else q.val) ∧ t.flag .dev F.DEV_FEAT_STATUS_REFUSED = false ∧
      (∀ r o, regKey r o ≠ regKey .dev (0x050 + 4 * k.val) → regKey r o ≠ regKey .dev 0x064 → t.reg r o = s.reg r o) ∧ s.Beside t) ∧
    (s.hostOn = true → s.dropped .dev (0x050 + 4 * k.val) = false → q.be = 0xF →
      (∃ i, i < 32 ∧ q.val.getLsbD i = true ∧ (k.val = 0 → i ≠ 0 ∧ bitOf s.offer i = false)) →
      ∃ t, exec (.featAcceptWrite q k) s = .next t ∧ (∀ r o, o < 0x1000 → (r = .dev → o < 0x068 ∨ 0x070 < o) → t.reg r o = s.reg r o) ∧
        t.fld .dev F.DEV_VIOL_COUNT_COUNT = min (s.fld .dev F.DEV_VIOL_COUNT_COUNT + 1) 0xFFFFFFFF ∧
        (s.violArmed = true → t.fld .dev F.DEV_VIOL_INFO_KIND = 3))

/-- DEV_FEAT_LOCK: a set that meets the "Requires" column is locked and REFUSED clears; one that does not is refused without violation,
with LOCK still 0 and the ACCEPT registers as they were; once LOCK is 1, the ACCEPT registers keep their values. -/
def Obligations.TheLockTakesACompleteSet : Prop :=
  ∀ (q : Req) (s : State), s.Wf → s.nvm.recovery = false →
    (s.Takes q .dev 0x060 → q.val.getLsbD 0 = true → s.devLocked = false → featuresMeet (s.reg .dev 0x050).toNat = true →
      ∃ t, exec (.featLock q) s = .next t ∧ t.devLocked = true ∧ t.flag .dev F.DEV_FEAT_STATUS_REFUSED = false ∧
        (∀ k, k < 4 → t.reg .dev (0x050 + 4 * k) = s.reg .dev (0x050 + 4 * k))) ∧
    (s.Takes q .dev 0x060 → q.val.getLsbD 0 = true → s.devLocked = false → featuresMeet (s.reg .dev 0x050).toNat = false →
      ∃ t, exec (.featLock q) s = .next t ∧ t.devLocked = false ∧ t.flag .dev F.DEV_FEAT_STATUS_REFUSED = true ∧
        (∀ r o, regKey r o ≠ regKey .dev 0x064 → t.reg r o = s.reg r o) ∧ s.Beside t) ∧
    ∀ k : Fin 4, s.Takes q .dev (0x050 + 4 * k.val) → s.devLocked = true → exec (.featAcceptWrite q k) s = .next (s.at_ .dev q.serial)

/-- A violating word write is ignored as a whole: it increments the count, which saturates, and is recorded while the record is armed,
which disarms it; nothing else changes. DEV_VIOL_CLR zeroes the count and the record and arms the record. -/
def Obligations.ViolationsAreCountedAndTheFirstRecorded : Prop :=
  (∀ (q : Req) (p0 : Page) (off : Nat) (e : AccEnv) (ks : List Nat) (s : State), s.Wf → off < 0x1000 → s.hostOn = true →
    let p := s.reach p0 q.serial
    s.serialBarred p q.serial = false → s.judge p off q.be (some q.val) = .viol ks →
    ∃ t, exec (.writeRegister q (.reg p0 off) e) s = .next t ∧
      t.fld .dev F.DEV_VIOL_COUNT_COUNT = min (s.fld .dev F.DEV_VIOL_COUNT_COUNT + 1) 0xFFFFFFFF ∧ t.violArmed = false ∧
      t.reg .dev 0x06C = (if s.violArmed then BitVec.ofNat 32 (accessAddr (p.fn q.serial) p off % 2 ^ 25) else s.reg .dev 0x06C) ∧
      t.reg .dev 0x070 = (if s.violArmed then violInfo (p.fn q.serial) (pickKind ks) true q.be else s.reg .dev 0x070) ∧
      (∀ r o, o < 0x1000 → (r = .dev → o < 0x068 ∨ 0x070 < o) → t.reg r o = s.reg r o) ∧ ({ s with violArmed := false }).Beside t) ∧
  ∀ (q : Req) (s : State), s.Wf → s.Takes q .dev 0x074 → q.val.getLsbD 0 = true → ∃ t, exec (.violClr q) s = .next t ∧
    t.reg .dev 0x068 = 0 ∧ t.reg .dev 0x06C = 0 ∧ t.reg .dev 0x070 = 0 ∧ t.violArmed = true ∧
    (∀ r o, o < 0x1000 → (r = .dev → o < 0x068 ∨ 0x070 < o) → t.reg r o = s.reg r o) ∧ ({ s with violArmed := true }).Beside t

/-- A counter is read coherently: the read of its low word answers it and latches its high word for the reading function; the read of the
high word answers the latch where that low word was the function's previous access, and otherwise the current content. -/
def Obligations.PairedReadsAreCoherent : Prop :=
  ∀ (q : RdReq) (p0 : Page) (i : Nat) (bad : Bool) (s : State), s.Wf →
    let p := s.reach p0 q.serial
    let fn := p.fn q.serial
    i < nCounters p →
    (s.Gives q p0 (cntOff i) → ∃ t, exec (.pairedLowRead q (.reg p0 (cntOff i)) bad) s = .next t ∧
      t.out = s.out ++ [.readData fn (s.endIdle.shown p q.serial (cntOff i)) false] ∧
      (t.latch fn).grp = some (regKey p (cntOff i)) ∧ (t.latch fn).w1 = s.endIdle.shown p q.serial (cntOff i + 4) ∧
      t = { s with out := t.out, latches := t.latches, pwr := { s.pwr with mode := t.pwr.mode } }) ∧
    (s.Gives q p0 (cntOff i + 4) → ∃ t, exec (.pairedHighRead q (.reg p0 (cntOff i + 4)) bad) s = .next t ∧
      t.out = s.out ++ [.readData fn (if (s.latch fn).grp = some (regKey p (cntOff i)) then (s.latch fn).w1
        else s.endIdle.shown p q.serial (cntOff i + 4)) false] ∧ (t.latch fn).grp = none ∧
      t = { s with out := t.out, latches := t.latches, pwr := { s.pwr with mode := t.pwr.mode } })

/-- DEV_FEAT_OFFER0 reads 0x00FF_FFFF on the OLF-7236 and 0x00FB_FEF3 on the OLF-7224, whatever the state, and DEV_FEAT_OFFER1 to 3 read
zero: a read that acts is answered so. -/
def Obligations.TheOfferReadsByPart : Prop :=
  ∀ (q : RdReq) (k : Fin 4) (bad : Bool) (s : State), s.Gives q .dev (0x040 + 4 * k.val) →
    ∃ t, exec (.pairedLowRead q (.reg .dev (0x040 + 4 * k.val)) bad) s = .next t ∧ t.out = s.out ++ [.readData (Page.dev.fn q.serial)
      (if k.val = 0 then (if s.chip.is7236 then 0x00FFFFFF else 0x00FBFEF3) else 0) false] ∧
      t = { s with out := t.out, latches := t.latches, pwr := { s.pwr with mode := t.pwr.mode } }

/-- CNT_CTRL: SNAP captures every counter and histogram unit, as they stand, into the back bank; SNAP_CLR captures them and zeroes each;
CLR_ALL zeroes them without capturing; HOLD written 0 lets the pending command start. -/
def Obligations.SnapshotsCaptureAndClear : Prop :=
  ∀ (q : Req) (s : State), s.Wf → s.Takes q .cnt 0x040 → s.gather.busy = false → s.running = true →
    let zero := fun (t : State) => ∀ (p : Page) (i : Nat), p ∈ counterPages → i < nCounters p → (p ≠ .cnt ∨ i ≠ 3) → t.counter p i = 0
    (s.enabled .cnt = true → s.gather.pend = none → q.val.getLsbD 28 = false → q.val.getLsbD 29 = false →
      (q.val.getLsbD 31 = true → q.val.getLsbD 30 = false → ∃ t, exec (.cntSnap q) s = .next t ∧
        t.gather = { s.gather with back := s.capture, busy := true } ∧ t.reg .cnt 0x040 = s.written .cnt 0x040 q.val ∧
        (∀ r o, regKey r o ≠ regKey .cnt 0x040 → t.reg r o = s.reg r o) ∧ ({ s with gather := t.gather }).Beside t) ∧
      (q.val.getLsbD 30 = true → ∃ t, exec (.cntSnapClr q) s = .next t ∧ zero t ∧
        t.gather = { s.gather with back := s.capture, busy := true, units := List.replicate 16 HistUnit.empty } ∧
        ({ s with gather := t.gather }).Beside t)) ∧
    (q.val.getLsbD 29 = true → q.val.getLsbD 30 = false → q.val.getLsbD 31 = false → s.gather.pend = none → ∃ t,
      exec (.cntClrAll q) s = .next t ∧ zero t ∧ t.gather = { s.gather with units := List.replicate 16 HistUnit.empty } ∧
      ({ s with gather := t.gather }).Beside t) ∧
    (s.gather.pend = some false → q.val.getLsbD 28 = false → q.val.getLsbD 29 = false → q.val.getLsbD 30 = false →
      q.val.getLsbD 31 = false → ∃ t, exec (.holdRelease q) s = .next t ∧
      t.gather = { s.gather with pend := none, back := s.capture, busy := true } ∧
      (∀ r o, regKey r o ≠ regKey .cnt 0x040 → t.reg r o = s.reg r o) ∧ ({ s with gather := t.gather }).Beside t)

/-- A snapshot that completes swaps the banks and advances SEQ; a periodic one starts where it is due and nothing holds it back, and is
skipped otherwise, which counts and sets SKIPPED. HST_CFG of a unit is stored where it does not set EN on a unit that is enabled,
HST_FILTER is stored where the unit is not enabled and is dropped otherwise, and CLR zeroes the unit. -/
def Obligations.SnapshotBanksAndHistogramUnits : Prop :=
  (∀ s : State, s.Wf →
    (s.gather.busy = true → s.gather.pend = none → ∃ t, exec .snapDone s = .next t ∧
      t.gather = { s.gather with front := s.gather.back, back := s.gather.front, busy := false, seq := (s.gather.seq + 1) % 65536 } ∧
      t.counter .cnt 0 = (if s.cntEn .cnt 0 then (s.counter .cnt 0 + 1) % 2 ^ 48 else s.counter .cnt 0) ∧
      (t.reg .cnt offEvent).getLsbD 1 = true ∧ (∀ r o, o < 0x1000 → r ≠ .cnt → t.reg r o = s.reg r o) ∧
      ({ s with gather := t.gather }).Beside t) ∧
    (s.periodDue = true → s.gather.pend = none → s.flag .cnt F.CNT_CTRL_HOLD = false → s.running = true → s.enabled .cnt = true →
      s.gather.busy = false → exec .snapPeriod s = .next { s with gather := { s.gather with back := s.capture, busy := true } }) ∧
    (s.periodDue = true → s.gather.busy = true → ∃ t, exec .snapPeriod s = .next t ∧
      t.counter .cnt 1 = (if s.cntEn .cnt 1 then (s.counter .cnt 1 + 1) % 2 ^ 48 else s.counter .cnt 1) ∧
      (t.reg .cnt offEvent).getLsbD 3 = true ∧ (∀ r o, o < 0x1000 → r ≠ .cnt → t.reg r o = s.reg r o) ∧ s.Beside t)) ∧
  (∀ (q : Req) (h j : Fin 4) (s : State), s.Wf →
    let u := s.at_ (.hst h) q.serial
    (s.Takes q (.hst h) (0x100 + 0x100 * j.val) → (s.flag (.hst h) (F.HST_CFG_EN.at j.val) = true → q.val.getLsbD 31 = false) →
      ∃ t, exec (.hstCfgWrite q h j false) s = .next t ∧
        t.reg (.hst h) (0x100 + 0x100 * j.val) = s.written (.hst h) (0x100 + 0x100 * j.val) q.val ∧
        (∀ r o, regKey r o ≠ regKey (.hst h) (0x100 + 0x100 * j.val) → t.reg r o = s.reg r o) ∧ s.Beside t) ∧
    (s.Takes q (.hst h) (0x104 + 0x100 * j.val) → s.flag (.hst h) (F.HST_CFG_EN.at j.val) = false →
      ∃ t, exec (.hstCfgWrite q h j true) s = .next t ∧
        t.reg (.hst h) (0x104 + 0x100 * j.val) = s.written (.hst h) (0x104 + 0x100 * j.val) q.val ∧
        (∀ r o, regKey r o ≠ regKey (.hst h) (0x104 + 0x100 * j.val) → t.reg r o = s.reg r o) ∧ s.Beside t) ∧
    (s.Takes q (.hst h) (0x104 + 0x100 * j.val) → s.flag (.hst h) (F.HST_CFG_EN.at j.val) = true →
      exec (.hstCfgWrite q h j true) s = .next u) ∧
    (s.Takes q (.hst h) (0x120 + 0x100 * j.val) → q.val.getLsbD 0 = true → ∃ t, exec (.hstClr q h j) s = .next t ∧
      t.gather = { s.gather with units := s.gather.units.set (4 * h.val + j.val) HistUnit.empty } ∧
      (∀ r o, regKey r o ≠ regKey (.hst h) (0x120 + 0x100 * j.val) → t.reg r o = s.reg r o) ∧ ({ s with gather := t.gather }).Beside t))

/-- MON_DATA_LO: a read removes the head word of a chain's FIFO and answers its low 32 bits, latching its flags and timestamp; an empty
FIFO answers zero and latches EMPTY. MON_BANK: the length of a bank that is in use, and both lengths during a fade, are not written; the
chains go on as they were. A VS sample acts where the sampling runs, on the three inputs at its place in the slot; a timeout of the
crossings likewise; and while the sampling does not run, neither does anything. -/
def Obligations.MonitorChainsAndMainsSampling : Prop :=
  (∀ (q : RdReq) (m : Fin 8) (s : State), s.Gives q (.mon m) 0x060 →
    let u := s.at_ (.mon m) q.serial
    let c := s.chain m
    (c.fifo = [] → exec (.monDataRead q m) s = .next ((u.setChain m { c with hiWord := 0x80000000, tsLo := 0, tsHi := 0 }).emit
      (.readData ((Page.mon m).fn q.serial) 0 false))) ∧
    ∀ w r, c.fifo = w :: r → exec (.monDataRead q m) s = .next (((u.setChain m { c with
      fifo := r, hiWord := BitVec.ofNat 32 ((if w.poison then 2 ^ 30 else 0) + w.flags),
      tsLo := BitVec.ofNat 32 (w.ts % 2 ^ 32), tsHi := BitVec.ofNat 32 (w.ts / 2 ^ 32) }).monPressure m).emit
      (.readData ((Page.mon m).fn q.serial) (BitVec.ofNat 32 (w.value % 2 ^ 32).toNat) false))) ∧
  (∀ (q : Req) (m : Fin 8) (s : State), s.Wf → s.Takes q (.mon m) 0x04C → ∃ t, exec (.bankSwap q m) s = .next t ∧
    t.fld (.mon m) F.MON_BANK_SEL = F.MON_BANK_SEL.get q.val ∧
    (∀ b, b < 2 → ((s.chain m).fade.isSome = true ∨ (s.chain m).active = b) →
      t.fld (.mon m) (if b = 0 then F.MON_BANK_LEN0 else F.MON_BANK_LEN1) =
        s.fld (.mon m) (if b = 0 then F.MON_BANK_LEN0 else F.MON_BANK_LEN1)) ∧
    (∀ r o, regKey r o ≠ regKey (.mon m) 0x04C → t.reg r o = s.reg r o) ∧ s.Beside t) ∧
  (∀ (frac : Nat) (va vb vc : Int) (taps : List Nat) (s : State),
    let u : State := { s with ct := s.ct / 2 ^ 20 * 2 ^ 20 + frac % 2 ^ 20 }
    (s.vsRuns = true →
      exec (.vsSample frac va vb vc taps) s = .next ((u.vsInstant [va, vb, vc] taps).1.lossAct (u.vsInstant [va, vb, vc] taps).2) ∧
      exec (.mainsTimeout frac) s = .next (u.mainsTimeout.1.lossAct u.mainsTimeout.2)) ∧
    (s.vsRuns = false → exec (.vsSample frac va vb vc taps) s = .next s ∧ exec (.mainsTimeout frac) s = .next s))

/-- PMX_SEL: a selection that another pin holds is not stored, and is recorded with its pin and function, counted and announced; any other
is stored, and the pin's switch begins where none is running. A switch that completes acts, is counted and announced, and a selection that
came during it then starts. The command input lines are sampled together while they are sampled at all; a line becomes active, with its
event, its count and its wake, after DEB_US samples at its active level, and inactive likewise; an output's hold ends and the outputs
follow what drives them. -/
def Obligations.PinsAndCommandLines : Prop :=
  (∀ (q : Req) (n : Fin 48) (s : State), s.Wf →
    (s.Takes q .pmx (0x100 + 4 * n.val) → s.pinConflict n.val (F.PMX_SEL_FUNC.get q.val) = true → ∃ t, exec (.pmxSelect q n) s = .next t ∧
      (∀ k, k < 48 → t.reg .pmx (0x100 + 4 * k) = s.reg .pmx (0x100 + 4 * k)) ∧ t.flag .pmx F.PMX_STAT_CONFLICT = true ∧
      t.fld .pmx F.PMX_STAT_PIN = n.val ∧ t.fld .pmx F.PMX_STAT_FUNC = F.PMX_SEL_FUNC.get q.val ∧
      (t.reg .pmx offEvent).getLsbD 2 = true ∧ (∀ r o, o < 0x1000 → r ≠ .pmx → t.reg r o = s.reg r o) ∧ s.Beside t) ∧
    (s.Takes q .pmx (0x100 + 4 * n.val) → s.pinConflict n.val (F.PMX_SEL_FUNC.get q.val) = false →
      exec (.pmxSelect q n) s = .next ((applyWrite .pmx (0x100 + 4 * n.val) q.val (s.at_ .pmx q.serial)).startSwitch n.val)) ∧
    ∀ f, (s.pin n.val).dest = some f →
      exec (.pmxSwitchDone n) s = .next ((((s.setPin n.val ⟨f, none⟩).bump .pmx 0).event .pmx 1).startSwitch n.val)) ∧
  (∀ (i : Fin 8) (s : State),
    (∀ hi mid, s.cmdInOn = true → exec (.cmdInSample hi mid) s = .next ((List.finRange 8).foldl (fun s i =>
      s.setCmdIn i ((s.cmdIn i).sample (s.flag .cmdio (F.CMDIO_IN_POL.at i.val)) (bitOf hi i.val) (bitOf mid i.val))) s)) ∧
    (s.debounced i true = true → exec (.cmdInActivate i) s = .next (if (s.lineActive i).l4Flag .cmd (F.CMD_LINE_SRC_PIN.at i.val) then
      (s.lineActive i).cmdTrigger i.val else s.lineActive i)) ∧
    (s.debounced i false = true → exec (.cmdInDeactivate i) s =
      .next ((s.setCmdIn i { s.cmdIn i with active := false }).event .cmdio 2)) ∧
    exec (.cmdOutHoldExpire i) s = .next (({ s with io := { s.io with outHold := s.io.outHold.set i.val false } }).outUpdate))

/-- UART_TXD queues a character where the FIFO has room and loses it with TX_DROP where it is full; the transmitter, when it is free and
nothing holds it, sends the oldest character and counts it; TX_FLUSH discards what waits. A character that is received with mark in its
first stop bit, and without a parity in force, is counted and stored; a break is counted, announced and stored as a BRK word; the end of a
received burst sets IDLE once. UART_RXD answers the oldest received word and removes it, or answers EMPTY and changes nothing; RX_FLUSH
discards what is held. -/
def Obligations.SerialCharactersAreSentAndReceived : Prop :=
  (∀ (q : Req) (u : Fin 2) (s : State),
    let a := s.at_ (.uart u) q.serial
    let x := s.uart u
    (s.Takes q (.uart u) 0x05C →
      (x.tx.length < uartDepth u → exec (.uartTxdWrite q u) s = .next (a.setUart u { x with tx := x.tx ++ [q.val.toNat % 512] })) ∧
      (¬ x.tx.length < uartDepth u → exec (.uartTxdWrite q u) s = .next (a.setFlag (.uart u) F.UART_STAT_TX_DROP true))) ∧
    (s.Takes q (.uart u) 0x068 → q.val.getLsbD 0 = true → q.val.getLsbD 1 = false →
      exec (.txFlush q u) s = .next ((a.setUart u { x with tx := [] }).txLow u x.tx.length)) ∧
    ∀ (cts : Bool) (d : Nat) (r : List Nat), s.enabled (.uart u) = true → s.isolated (.uart u) = false → s.running = true →
      s.pageOn (.uart u) = true → s.padsHeld = false → s.txHeld u = false →
      (s.flag (.uart u) F.UART_CFG_CTS_EN = true → s.ctsSeen u cts = false) → x.tx = d :: r →
      exec (.uartTxChar u cts) s = .next (((((s.setUart u { x with cts := s.ctsSeen u cts, busy := false }).setUart u
        { x with cts := s.ctsSeen u cts, tx := r, busy := true }).emit (.uart u.val (s.uartFrame u d) (s.uartRate u))).bump (.uart u) 1).txLow u
          x.tx.length)) ∧
  (∀ (u : Fin 2) (s : State), s.uartRxOn u = true →
    let x := s.uart u
    (∀ (data : Nat) (par : Bool), s.flag (.uart u) F.UART_CFG_MDROP = false → s.uartParity u = 0 →
      exec (.uartRxChar u data par true) s = .next (((s.setUart u { x with heard := true }).bump (.uart u) 0).uartStore u
        ⟨data % 2 ^ s.uartBits u, false, false, false, false, false, false⟩)) ∧
    exec (.uartBreak u) s = .next (((((s.bump (.uart u) 5).bump (.uart u) 3).event (.uart u) 4).event (.uart u) 3).uartStore u
      ⟨0, false, true, false, true, false, false⟩) ∧
    (x.heard = true → exec (.uartIdle u) s = .next ((s.setUart u { x with heard := false, idle := true }).event (.uart u) 5))) ∧
  (∀ (q : RdReq) (u : Fin 2) (s : State),
    let a := s.at_ (.uart u) q.serial
    let x := s.uart u
    (s.Gives q (.uart u) 0x060 →
      (x.rx = [] → ∀ bad, exec (.uartRxdRead q u bad) s = .next (a.emit (.readData ((Page.uart u).fn q.serial) 0x80000000 false))) ∧
      ∀ w r, x.rx = w :: r → w.poison = false → exec (.uartRxdRead q u false) s = .next (((a.setUart u { x with rx := r }).uartPressure u).emit
        (.readData ((Page.uart u).fn q.serial) (uartRxdWord w) false))) ∧
    ∀ w : Req, s.Takes w (.uart u) 0x068 → w.val.getLsbD 1 = true → w.val.getLsbD 0 = false →
      exec (.rxFlush w u) s = .next (((s.at_ (.uart u) w.serial).setUart u { x with rx := [] }).uartPressure u))

/-- READ and QREAD: while the host interfaces work, a frame reads word after word, each judged and counted on its own, and clocks out the
bytes that it has time for; a READY timeout is such a frame. WRITE and QWRITE: a frame writes its words in order at its address and those
that follow; a frame of no word changes nothing but its count; a frame that ends within a word violates. STATUS answers the status byte as
often as it is clocked, and READ_HELD the held word, or zero, once; every frame is counted, and one with an undefined command counts and
is announced; none of them acts while the host interfaces do not work. -/
def Obligations.SerialFramesReadWriteAndReport : Prop :=
  (∀ (addr : Nat) (ws : List SerRead) (clocked : Nat) (s : State), s.hostOn = true →
    let r := fun (t : State) => t.frameBegin.serialReads (t.tenBarred true) t.serialTenant (addr % 2 ^ 24) ws 0
    exec (.shpRead addr ws clocked) s = .next ((r s).2.emit (.serial ((r s).1.take clocked))) ∧
    exec (.shpQread addr ws clocked) s = .next ((r s).2.emit (.serial ((r s).1.take clocked))) ∧
    ∀ w, ws.getLast? = some w → 255 ≤ w.waits →
      exec (.shpReadyTimeout addr ws) s = .next ((r s).2.emit (.serial ((r s).1.take (1000 * (ws.length + 1)))))) ∧
  (∀ (addr : Nat) (ws : List SerWrite) (s : State), s.hostOn = true →
    let t := (ws.zipIdx).foldl (fun u e => u.serialWrite (s.tenBarred true) s.serialTenant (serialAddr (addr % 2 ^ 24) e.2) e.1) s.frameBegin
    let last := serialAddr (addr % 2 ^ 24) ws.length
    exec (.shpWrite addr ws false) s = .next t ∧ exec (.shpQwrite addr ws false) s = .next t ∧
    exec (.shpWrite addr ws true) s =
      .next (t.serialMisaligned (s.tenBarred true) (serialTarget s.serialTenant (last / 4 * 4)) last true) ∧
    exec (.shpWrite addr [] false) s = .next s.frameBegin) ∧
  (∀ (n : Nat) (s : State), s.Wf →
    (s.hostOn = true →
      (∃ t, exec (.shpStatus n) s = .next t ∧ t.out = s.out ++ [.serial (List.replicate n s.frameBegin.shpByte)] ∧
        t.counter .shp 0 = (if s.cntEn .shp 0 then (s.counter .shp 0 + 1) % 2 ^ 48 else s.counter .shp 0) ∧
        (∀ r o, o < 0x1000 → r ≠ .shp → t.reg r o = s.reg r o) ∧ s.Beside t) ∧
      (∃ t, exec (.readHeld n) s = .next t ∧ t.io = { s.io with held := none } ∧
        t.out = s.out ++ [.serial (([0xA5] ++ wordBytes (s.io.held.getD 0)).take n)] ∧
        (∀ r o, o < 0x1000 → r ≠ .shp → t.reg r o = s.reg r o) ∧ ({ s with io := t.io }).Beside t) ∧
      (∃ t, exec .shpBadCmd s = .next t ∧ (t.reg .shp offEvent).getLsbD 1 = true ∧
        t.counter .shp 5 = (if s.cntEn .shp 5 then (s.counter .shp 5 + 1) % 2 ^ 48 else s.counter .shp 5) ∧
        (∀ r o, o < 0x1000 → r ≠ .shp → t.reg r o = s.reg r o) ∧ s.Beside t)) ∧
    (s.hostOn = false → exec (.shpStatus n) s = .next s ∧ exec (.readHeld n) s = .next s ∧ exec .shpBadCmd s = .next s))

/-- TAP_INSTRUCTION: an instruction that releases the pins, or that leaves them held or not as they were, changes the instruction alone
and then the outputs; one that comes to hold them puts the pins into their reset condition: the link lost, the command lines inactive. The
link trains to a speed and a width, which are announced; it goes down with every function at its reset values; and the pin's edges are
wake sources. -/
def Obligations.TestAccessAndLink : Prop :=
  (∀ (i : Tap) (s : State), s.pwr.mode ≠ .off →
    let u : State := { s with pwr := { s.pwr with tap := i } }
    (u.padsHeld = true → s.padsHeld = false → s.io.link.up = false →
      exec (.tapInstruction i) s = .next (({ u with io := { s.io with cmdIn := List.replicate 8 CmdIn.reset } }).outUpdate)) ∧
    (u.padsHeld = true → s.padsHeld = false → s.io.link.up = true →
      exec (.tapInstruction i) s =
        .next (({ u.pcieDown with io := { u.pcieDown.io with cmdIn := List.replicate 8 CmdIn.reset } }).outUpdate)) ∧
    (u.padsHeld = s.padsHeld → exec (.tapInstruction i) s = .next u) ∧
    (u.padsHeld = false → s.padsHeld = true → exec (.tapInstruction i) s = .next u.outUpdate)) ∧
  (∀ s : State,
    (∀ (speed : Fin 3) (two : Bool), s.pageOn .hif = true → s.padsHeld = false → s.io.link.perst = true → s.pwr.clk.pcieRef = true →
      s.io.link.up = false → exec (.pcieLinkUp speed two) s =
        .next ((s.setLinkState { s.io.link with up := true, speed := speed.val + 1, width := if two then 2 else 1 }).event .hif 3)) ∧
    (s.pwr.mode ≠ .off → s.pageOn .hif = true → exec (.pciePerst false) s = .next s.pcieDown) ∧
    (s.pwr.mode ≠ .off → s.pageOn .hif = true → s.io.link.perst = true →
      exec (.pciePerst true) s = .next ((s.setLinkState { s.io.link with perst := false }).pcieDown.wake 3)) ∧
    (s.pwr.mode ≠ .off → s.io.link.perst = false →
      exec .pciePerstRise s = .next ((s.setLinkState { s.io.link with perst := true }).wake 3)) ∧
    (s.pageOn .hif = true → s.pwr.clk.pcieRef = true → exec .pcieRefLoss s =
      .next ((((({ s with pwr := { s.pwr with clk := { s.pwr.clk with pcieRef := false } } } : State).bump .clk 0).event .clk 2).fault .clk 2
        0).pcieDown)) ∧
    exec .pcieRefRestore s = .next { s with pwr := { s.pwr with clk := { s.pwr.clk with pcieRef := true } } })

/-- A function's settings and mask bits take the values that configuration software gives them, and what was held as pending then goes
out, as do the reads that a tenant's function may issue again; a Function Level Reset returns the function to reset values; a request that
hits nothing is answered as unsupported. DEV_EVT_VEC and DEV_EVT_CHVEC: a write stores the vectors it names and changes no other register;
a vector that comes to be asserted by it sends its message. -/
def Obligations.FunctionsAndVectorsSendTheirMessages : Prop :=
  (∀ (fn : Fin 9) (s : State), s.pageOn .hif = true →
    (s.io.link.up = true →
      (∀ bme d3 msixEn,
        let u := (s.setFn fn.val { s.fnState fn.val with bme := bme, d3 := d3, msixEn := msixEn }).flushMsix fn.val
        (fn = 0 → exec (.bmeChange fn bme d3 msixEn) s = .next u) ∧
        ∀ t : Fin 8, fn = t.succ →
          (s.dmaOk t = true ∨ u.dmaOk t = false → exec (.bmeChange fn bme d3 msixEn) s = .next u) ∧
          (s.dmaOk t = false → u.dmaOk t = true → exec (.bmeChange fn bme d3 msixEn) s = .next (u.readAgain t).issueFetch)) ∧
      (∀ (vec : Fin 64) (mask : Bool), exec (.msixUnmask fn vec mask) s = .next ((s.setFn fn.val { s.fnState fn.val with
        unmasked := setBitOf (s.fnState fn.val).unmasked vec.val (!mask) }).flushMsix fn.val)) ∧
      ∀ n, exec (.pcieRequestNoBar n) s = .next (s.emit (.unsupported n))) ∧
    (fn = 0 → exec (.pcieFlr fn) s = .next ((s.event .hif 1).fnReset 0)) ∧
    ∀ t : Fin 8, fn = t.succ → exec (.pcieFlr fn) s = .next (((s.event .hif 1).startTenantReset t).fnReset (t.val + 1))) ∧
  (∀ (q : Req) (k : Fin 20) (s : State), s.Wf → s.Takes q .dev (routeOff k.val) → ∃ t, exec (.eventRouteChange q k) s = .next t ∧
    t.reg .dev (routeOff k.val) = s.written .dev (routeOff k.val) q.val ∧
    (∀ r o, regKey r o ≠ regKey .dev (routeOff k.val) → t.reg r o = s.reg r o) ∧ s.Beside t)

/-- NP_VDRV holds the written setpoint, brought into 6.0 to 24.0 V in steps of 50 mV. NP_LEDGER_CAP holds the written rating; its cap is
the written one brought down to 8,000 mW where the heatsink was declared rated before and stays so, and to 6,000 mW otherwise; a write that
clears the rating while the cap is above 6,000 mW makes it 6,000 mW. What was brought into range is flagged as CLAMPED. CH_SHARE is
stored as it is written. -/
def Obligations.PortLimitsAreClamped : Prop :=
  ∀ (q : Req) (s : State), s.Wf →
    (s.Takes q (.np 0) 0x0C0 → ∃ t, exec (.vdrvSet q) s = .next t ∧
      t.fld (.np 0) F.NP_VDRV_SET = clampN 120 480 (F.NP_VDRV_SET.get q.val) ∧
      (clampN 120 480 (F.NP_VDRV_SET.get q.val) ≠ F.NP_VDRV_SET.get q.val → t.flag (.np 0) F.NP_LEDGER_USE_CLAMPED = true) ∧
      (∀ r o, regKey r o ≠ regKey (.np 0) 0x0C0 → regKey r o ≠ regKey (.np 0) F.NP_LEDGER_USE_CLAMPED.off → t.reg r o = s.reg r o) ∧
      s.Beside t) ∧
    (s.Takes q (.np 0) 0x0C8 → ∃ t, exec (.ledgerCapWrite q) s = .next t ∧
      let rated := s.flag (.np 0) F.NP_LEDGER_CAP_HS_RATED
      let hs := F.NP_LEDGER_CAP_HS_RATED.get q.val
      let cap := F.NP_LEDGER_CAP_CAP_MW.get q.val
      let cleared := rated = true ∧ hs = 0 ∧ 6000 < s.fld (.np 0) F.NP_LEDGER_CAP_CAP_MW
      t.fld (.np 0) F.NP_LEDGER_CAP_HS_RATED = hs ∧
      (cleared → t.fld (.np 0) F.NP_LEDGER_CAP_CAP_MW = 6000 ∧ t.flag (.np 0) F.NP_LEDGER_USE_CLAMPED = true) ∧
      (¬ cleared → t.fld (.np 0) F.NP_LEDGER_CAP_CAP_MW = min cap (if rated = true ∧ hs = 1 then 8000 else 6000) ∧
        (t.fld (.np 0) F.NP_LEDGER_CAP_CAP_MW ≠ cap → t.flag (.np 0) F.NP_LEDGER_USE_CLAMPED = true)) ∧
      (∀ r o, regKey r o ≠ regKey (.np 0) 0x0C8 → regKey r o ≠ regKey (.np 0) F.NP_LEDGER_USE_CLAMPED.off → t.reg r o = s.reg r o) ∧
      s.Beside t) ∧
    ∀ c : Fin 64, s.Takes q (.ch c) 0x054 → ∃ t, exec (.shareWrite q c) s = .next t ∧ t.reg (.ch c) 0x054 = s.written (.ch c) 0x054 q.val ∧
      (∀ r o, regKey r o ≠ regKey (.ch c) 0x054 → t.reg r o = s.reg r o) ∧ s.Beside t

/-- VDRV is in regulation once it has settled within 5 % of its setpoint, and an undervoltage, below 90 % of it, is a fault of every port
with DETAIL 1 and takes it out of regulation. A port that transmits is cut for the rest of a symbol by its current limit, and for the rest
of the slot by an amplifier trip, which releases the amplifier; the third symbol in a row is a fault of the port, whose count is the DETAIL; a driver above 155 °C is a fault of its port
and is announced by the thermal page. -/
def Obligations.SupplyAndPortsAreProtected : Prop :=
  (∀ (meas : Nat) (s : State), s.dom 18 = .on →
    (95 * s.vdrvSet ≤ 100 * meas → 100 * meas ≤ 105 * s.vdrvSet → exec (.vdrvSettled meas) s =
      .next (((({ s with line := { s.line with drvOk := true, uv := false } } : State).setFld (.np 0) F.NP_VDRV_STAT_MEAS meas).setFlag
        (.np 0) F.NP_VDRV_STAT_IN_REG true).event (.np 0) 6)) ∧
    (s.line.drvOk = true → 100 * meas < 90 * s.vdrvSet → exec (.vdrvUv meas) s =
      .next ((List.range 16).foldl (fun u p => u.fault (portPage p) 7 1)
        ((({ s with line := { s.line with uv := true } } : State).setFld (.np 0) F.NP_VDRV_STAT_MEAS meas).setFlag (.np 0)
          F.NP_VDRV_STAT_IN_REG false)))) ∧
  (∀ s : State,
    (∀ p : Fin 16, (s.port p.val).txCh.isSome = true → (s.port p.val).cut = false →
      let u := (s.setPort p.val { s.port p.val with cut := true, ocpRun := (s.port p.val).ocpRun + 1 }).emit (.cutSymbol p.val)
      exec (.drvCurrentLimit p) s =
        .next (if 3 ≤ (s.port p.val).ocpRun + 1 then u.portFault p.val 2 ((s.port p.val).ocpRun + 1) 0 else u)) ∧
    (∀ (p : Fin 12) (mv : Nat), s.extPa p.val = true → (s.port p.val).txCh.isSome = true → (s.port p.val).tripped = false →
      4 * s.fld (.np p) F.NP_PA_ILIM < mv →
      let u := (((s.setPort p.val { s.port p.val with tripped := true, tripRun := (s.port p.val).tripRun + 1, pa := none }).emit
        (.paOff p.val)).emit (.cutSlot p.val)).bump (.np p) 7
      exec (.paTrip p mv) s =
        .next (if 3 ≤ (s.port p.val).tripRun + 1 then u.portFault p.val 6 ((s.port p.val).tripRun + 1) 0 else u)) ∧
    ∀ (p : Fin 16) (temp : Int), 1240 < temp → s.faulted (portPage p.val) 3 = false →
      let u := s.setPort p.val { s.port p.val with hot := temp }
      exec (.drvThermal p temp) s = .next ((({ u with pwr := { u.pwr with thm := { u.pwr.thm with
        drvMax := max u.pwr.thm.drvMax temp } } } : State).portFault p.val 3 1 0).event .thm 1))

/-- A proposal of a map that the transmitter holds is answered IN_FORCE with its current ID; one of the wrong shape is refused with the
reason 2 and announced, and counted where its precoding record is at fault; a well-formed one that comes in time is stored as pending for
its boundary and accepted. A status report on the pending map of a link: an acceptance names the boundary in its header and fixes it, and
puts the map in force where that boundary has passed; a refusal drops it and is announced; a report of an identifier that the proposer does
not hold drops the link to the default map. -/
def Obligations.MapsAreProposedAndSettled : Prop :=
  (∀ (c : Fin 64) (p : Proposal) (cfg : List Word) (s : State), s.live c.val = some cfg →
    let l := s.link c.val p.peer
    let held := (l.tx.cur.toList ++ (l.tx.prev.map (·.1)).toList ++ (l.tx.pend.map (·.1)).toList).map (·.id)
    let fits := precFits (cfgGet cfg F.CH_CFG_NUMER) (cfgGet cfg F.CH_BAND_M_LO) (cfgGet cfg F.CH_BAND_M_HI) p.tmapId p.ports p.streams p.prec
    let report := fun (u : State) (id boundary outcome reason : Nat) =>
      u.emit (.tmapStatus c.val p.peer (leBytes 2 (id % 4096) ++ leBytes 4 boundary ++ [outcome, reason]))
    (held.contains p.tmapId = true →
      exec (.tmapProposalRx c p) s = .next (report s ((l.tx.cur.map (·.id)).getD 0) p.adoptSf 3 0)) ∧
    (held.contains p.tmapId = false → fits = false →
      let u := s.setChan c.val { s.chan c.val with precBad := (s.chan c.val).precBad + 1 }
      exec (.tmapProposalRx c p) s = .next ((report u p.tmapId p.adoptSf 2 2).event (.ch c) 19)) ∧
    (held.contains p.tmapId = false → fits = true →
      p.ports + 1 ≠ (s.txPorts cfg).length ∨ s.bundleStreams cfg (s.servicePorts cfg).length ≤ p.streams →
      exec (.tmapProposalRx c p) s = .next ((report s p.tmapId p.adoptSf 2 2).event (.ch c) 19)) ∧
    ∀ m t, held.contains p.tmapId = false → fits = true → p.ports + 1 = (s.txPorts cfg).length →
      p.streams < s.bundleStreams cfg (s.servicePorts cfg).length → sfBefore s.sf p.adoptSf = true →
      (s.setLink { l with tx := { l.tx with pend := none } }).storeMap c.val (cfgGet cfg F.CH_CFG_NUMER) p p.adoptSf = (some m, t) →
      let kept : Link5 := { l with tx := { l.tx with pend := some (m, p.adoptSf, true) }, theta := p.theta }
      exec (.tmapProposalRx c p) s = .next ((report (t.setLink kept) p.tmapId p.adoptSf 1 0).splitWith c.val p.peer cfg p)) ∧
  (∀ (c : Fin 64) (peer id boundary : Nat) (l : Link5) (s : State), s.link? c.val peer = some l →
    (id % 4096 ≠ 0 → (heldIds l).contains (id % 4096) = false → ∀ outcome,
      exec (.tmapStatusRx c peer id boundary outcome) s = .next (s.dropToDefault l)) ∧
    ∀ m sf b, l.rx.pend = some (m, sf, b) → m.id = id % 4096 → (heldIds l).contains (id % 4096) = true →
      let u := s.tmapPut (blockWord m.block + 3) (boundary % 2 ^ 32 % 2 ^ 32)
      (sfBefore s.sf (boundary % 2 ^ 32) = true → exec (.tmapStatusRx c peer id boundary 1) s =
        .next (u.setLink { l with rx := { l.rx with pend := some (m, boundary % 2 ^ 32, true) } })) ∧
      (sfBefore s.sf (boundary % 2 ^ 32) = false → exec (.tmapStatusRx c peer id boundary 1) s =
        .next ((u.setLink { l with rx := l.rx.adopt m (boundary % 2 ^ 32) }).event (chPage l.chan) 18)) ∧
      exec (.tmapStatusRx c peer id boundary 2) s = .next ((s.setLink { l with rx := { l.rx with pend := none } }).event (.ch c) 19))

/-- CH_PROPOSE proposes a map for the selected link, or asks for its sounding; CH_LINK_SEL of a peer with no link reads as no link: its
status and quality registers are zero. A sounding whose frame control, codeword, record version or count of symbols does not hold is
discarded; a good one enters the link's estimates with the symbols that were received, and its ranging; where AUTO_PROPOSE is clear, no map
can be made, or none of the conditions for a new one holds, no proposal follows, and where one holds, one does. -/
def Obligations.LinksAreSelectedSoundedAndUpdated : Prop :=
  (∀ (q : Req) (c : Fin 64) (s : State), s.Wf →
    let a := s.at_ (.ch c) q.serial
    (s.Takes q (.ch c) 0x4F8 → q.val.getLsbD 0 = true → q.val.getLsbD 1 = false →
      exec (.proposeNow q c) s = .next (a.propose c.val (s.fld (.ch c) F.CH_LINK_SEL_PEER))) ∧
    (s.Takes q (.ch c) 0x4F8 → q.val.getLsbD 0 = false → q.val.getLsbD 1 = true →
      exec (.soundRequest q c) s = .next (a.askSound c.val)) ∧
    (s.Takes q (.ch c) 0x418 → s.link? c.val (F.CH_LINK_SEL_PEER.get q.val) = none → ∃ t, exec (.linkSelect q c) s = .next t ∧
      t.reg (.ch c) 0x418 = s.written (.ch c) 0x418 q.val ∧
      (∀ o, o ∈ [0x41C, 0x420, 0x424, 0x428] → t.reg (.ch c) o = 0) ∧
      (∀ r o, o < 0x1000 → (r = .ch c → o ∉ [0x418, 0x41C, 0x420, 0x424, 0x428]) → t.reg r o = s.reg r o))) ∧
  (∀ (c : Fin 64) (x : Sounding) (cfg : List Word) (s : State), s.live c.val = some cfg →
    let kept := ((s.chan c.val).snd).getD (s.slot, [])
    let good := x.fcOk = true ∧ x.cwOk = true ∧ x.recVer = 0 ∧ x.k = ((s.symbolsAt c.val cfg kept.1).1 - 1) % 256
    let l := s.soundLink cfg { s.link c.val x.sounder with theta := x.theta, usedSf := s.sf } (x.ports % 4 + 1) kept.1 kept.2
    let u := ((s.setLink l).setChan c.val { (s.setLink l).chan c.val with snd := none }).ranging c.val x
    let best := u.buildMap c.val cfg (u.link c.val x.sounder) (!u.zcLocked)
    (¬ good → exec (.soundingRx c x) s = .next s) ∧
    (good → cfgFlag cfg F.CH_ADP_CTRL_AUTO_PROPOSE = false ∨ best = none → exec (.soundingRx c x) s = .next u) ∧
    ∀ b, good → cfgFlag cfg F.CH_ADP_CTRL_AUTO_PROPOSE = true → best = some b →
      (u.wantsMap (u.link c.val x.sounder) cfg (x.ports % 4 + 1) b.2 = true → exec (.soundingRx c x) s = .next (u.propose c.val x.sounder)) ∧
      (u.wantsMap (u.link c.val x.sounder) cfg (x.ports % 4 + 1) b.2 = false → exec (.soundingRx c x) s = .next u))

/-- A lane group's test begins by its period or by a write, which takes the lane group out of service; it ends in the next order: passed,
the lane group becomes the spare or is held in reserve; failed, it is retired, as is one whose self-check fails during a job. A turn ends:
the count of turns rises by one, every running job has run one turn more, and what has become ready is ready from then on, before the
stations start what is ready; a job that has run its turns completes and is counted; one that was not running at its deadline is late, and
so is a decoding, which counts as accepted all the same where its syndrome holds. -/
def Obligations.SpindleJobsAndLaneGroups : Prop :=
  (∀ (k : Fin 6) (s : State),
    let n := k.val + 1
    let x := s.stn n
    let p := stnPage n
    (∀ g, s.flag (.spx 0) F.SPX_TEST_CTRL_AUTO = true → s.stnRuns n = true → x.test = none → s.spareOk n = true →
      ((List.range (stnG n + 1)).map fun i => (x.nextLg + i) % (stnG n + 1)).find? (fun g => !s.retired n g && !bitOf x.reserve g) = some g →
      exec (.lgTestPeriod k) s = .next ((s.setStn n { x with test := some (g, false, false), nextLg := (g + 1) % (stnG n + 1) }).beginTest n)) ∧
    (∀ q : Req, s.Takes q p 0x05C → q.val.getLsbD 5 = true → x.test = none →
      (applyWrite p 0x05C q.val (s.at_ p q.serial)).fld p F.SPX_STN_TEST_LG ≤ stnG n →
      let u := applyWrite p 0x05C q.val (s.at_ p q.serial)
      exec (.lgTestStart q k) s = .next ((u.setStn n { x with test := some (u.fld p F.SPX_STN_TEST_LG, false, false) }).beginTest n)) ∧
    (∀ lg, x.test = some (lg, true, false) →
      let u := (((s.setStn n { x with test := none }).setFlag p F.SPX_STN_SPARE_TESTING false).setStatus p 16 false).event p 1
      let v := u.setRegBit p 0x054 lg false
      let f := (u.bump p 6).retireLg n lg
      (v.spareOk n = false → exec (.lgTestDone k true) s = .next (v.setSpare n (some lg))) ∧
      (v.spareOk n = true →
        exec (.lgTestDone k true) s = .next (v.setStn n { v.stn n with reserve := setBitOf (v.stn n).reserve lg true })) ∧
      ((u.bump p 6).retired n lg = false → f.spareOk n = false → exec (.lgTestDone k false) s = .next (f.loseSpare n)) ∧
      (f.spareOk n = true → exec (.lgTestDone k false) s = .next f)) ∧
    ∀ lg, s.laneBusy n lg = true → s.inService n lg = true → exec (.lgSelfCheckFail k lg) s =
      .next ((s.setJobs (s.line.spx.jobs.map fun j => if decide (j.stn = n) && (decide (n = 1) || decide (j.lane = some lg)) then
        { j with lane := none, ran := 0 } else j)).retireLg n lg)) ∧
  (∀ s : State,
    (let x := s.line.spx
     let u : State := { s with line := { s.line with spx :=
       { x with turn := x.turn + 1, mark := if x.mark.1 = s.ct then x.mark else (s.ct, x.turn) } } }
     let v := u.setJobs (x.jobs.map fun j =>
       let r := if s.holds j then { j with ran := j.ran + 1 } else j
       if r.ready.any fun t => decide (t ≤ u.nowCt) then { r with ready := none, since := x.turn + 1 } else r)
     exec .turnBoundary s = .next ((List.range 6).foldl (fun w i =>
       let run := (x.jobs.filter fun j => decide (j.stn = i + 1) && s.holds j).length * (if i + 1 = 1 then s.lanesIn 1 else 1)
       let y := (w.setStn (i + 1) { w.stn (i + 1) with
         busy := (w.stn (i + 1)).busy + run, avail := (w.stn (i + 1)).avail + w.lanesIn (i + 1) }).bumpBy (stnPage (i + 1)) 1 run
       (y.beginTest (i + 1)).startJobs (i + 1)) v)) ∧
    ∀ (id : Nat) (j : Job), s.job? id = some j →
      (j.lane.isSome = true → s.jobTurns j ≤ j.ran → j.kind ≠ .fcDecode → j.kind ≠ .dataDecode →
        exec (.spindleJobDone id) s = .next (((s.endJob id true).bump (stnPage j.stn) 0).beginTest j.stn)) ∧
      (j.kind = .search → j.lane = none → ∀ ok, exec (.jobDeadline id ok) s = .next (s.takeLate j)) ∧
      (j.kind = .search → j.lane.isSome = true → ∀ ok, exec (.jobDeadline id ok) s = .next s) ∧
      (j.kind = .dataDecode → j.lane.isSome = true → exec (.jobDeadline id true) s = .next (((s.takeLate j).bump (.spx 0) 7).cwStat j true)) ∧
      (j.kind = .dataDecode → exec (.jobDeadline id false) s = .next (((s.takeLate j).bump (.spx 0) 3).cwStat j false)))

/-- SPX_DEC_ITER asks for admission of the iteration limit that it stores; the evaluation of the oldest waiting request removes it and
accepts it where no reason stands against it, or refuses it with its reason. SCH_STAGE with GO stages a version other than the one in
force, for the superframe it names, as an admission request; FIG_NEXT with GO at the root schedules the change of index; a bucket period
moves the dwell windows of its profile on. -/
def Obligations.AdmissionAndStagedVersions : Prop :=
  ((∀ (q : Req) (s : State), s.Takes q (.spx 0) 0x040 → exec (.decIterWrite q) s =
    .next ((applyWrite (.spx 0) 0x040 q.val (s.at_ (.spx 0) q.serial)).request .iter)) ∧
  ∀ (src : AdmSource) (rest : List AdmSource) (s : State), s.line.spx.queue = src :: rest → s.nvm.applying = [] →
    let u : State := { s with line := { s.line with spx := { s.line.spx with queue := rest } } }
    ((u.evaluate src).1 = 0 → exec .admissionDone s = .next (u.accept src (u.evaluate src).2.2)) ∧
    ((u.evaluate src).1 ≠ 0 →
      exec .admissionDone s = .next (u.refuse src (u.evaluate src).1 (u.evaluate src).2.1 (u.evaluate src).2.2))) ∧
  (∀ (q : Req) (s : State),
    (s.Takes q .sch 0x070 → q.val.getLsbD 31 = true →
      let u := applyWrite .sch 0x070 q.val (s.at_ .sch q.serial)
      let cur := sfOf u.ct
      let sf := cur + (u.fld .sch F.SCH_STAGE_SF_SF + 2 ^ 32 - cur % 2 ^ 32) % 2 ^ 32
      u.fld .sch F.SCH_STAGE_VERSION ≠ u.fld .sch F.SCH_VER_IN_FORCE →
      exec (.schedStageGo q) s = .next (({ u with line := { u.line with sched := { u.line.sched with
        staged := some (u.fld .sch F.SCH_STAGE_VERSION, sf, (List.range 64).map u.stagedTable) } } }).request .sched)) ∧
    (s.Takes q .fig 0x048 → q.val.getLsbD 31 = true → s.flag .sch F.SCH_CT_STAT_IS_ROOT = true →
      let u := applyWrite .fig 0x048 q.val (s.at_ .fig q.serial)
      exec (.figNextGo q) s = .next { u with line := { u.line with sched := { u.line.sched with
        figNext := some (u.fld .fig F.FIG_NEXT_IDX, u.fld .fig F.FIG_NEXT_SF_SF) } } }) ∧
    ∀ p : Fin 8, exec (.dwlBucket p) s = .next ((List.range 64).foldl (fun u c =>
      if u.dwlOn c && decide (u.dwlProf c = p.val) then
        u.setChan c { u.chan c with dwl := (u.chan c).dwl.map fun l => (0 :: l).take 32 } else u) s))

/-- A decoding that has run its turns ends: a codeword whose checks all hold is accepted, counted and entered in its link's record, and
its symbols refine templates and channel; one that fails at the iteration limit its job started with is counted as failed; below the limit
the decoding goes on. A frame is received from an SY1 within the search window on: its gain freezes and its slot and instant are noted; its
frame control, where its codeword, its code and its fields hold, is kept for the frame, with the encode work of a relayed flood reserved,
and where not, the reception ends and is counted. At a symbol boundary a transmission goes on to its next symbol, and one that is late or
has no power is not sent; a reception takes in the symbol that has ended, and its jobs become known. -/
def Obligations.FramesAndCodewordsAreReceived : Prop :=
  (∀ (c : Fin 64) (k iters : Nat) (info parity : List Nat) (resid : List (Nat × Samples)) (cells : List CellObs) (j : Job) (s : State),
    s.line.spx.jobs.find? (fun j => decide (j.chan = c.val ∧ j.kind = .dataDecode ∧ j.idx = k) && j.lane.isSome) = some j →
    let f := Fc.decode j.fc
    let ok := ldpcOk (if f.div = 0 then f.rate else 0) (liftZ ((fcLongs f).getD k false)) info parity
    let ran := 1 ≤ iters ∧ iters ≤ j.limit ∧ decodeTurns iters (decodeCycles j) ≤ j.ran
    let u := (s.endJob j.id true).bump (stnPage 5) 0
    let v := (u.bump (.spx 0) 7).cwStat j true
    let done := if (v.chan c.val).passed.1 = j.slot then (v.chan c.val).passed.2 else []
    let w := v.setChan c.val { v.chan c.val with passed := (j.slot, done ++ [k]) }
    (ran → ok = true → exec (.decodeDone c k iters info parity resid cells) s =
      .next ((w.residLearn c.val j.slot f resid).ddEstimate c.val j.slot f cells)) ∧
    (ran → ok = false → j.limit ≤ iters → exec (.decodeDone c k iters info parity resid cells) s =
      .next (((u.bump (.spx 0) 6).cwStat j false).unreserve c.val)) ∧
    (ran → ok = false → iters < j.limit → exec (.decodeDone c k iters info parity resid cells) s = .next s) ∧
    (¬ ran → exec (.decodeDone c k iters info parity resid cells) s = .next s)) ∧
  (∀ (c : Fin 64) (cfg : List Word) (s : State), s.live c.val = some cfg →
    (∀ (frac : Nat) (np : Fin 4),
      let x := s.chan c.val
      let at_ := s.slot * 2 ^ 20 + frac % 2 ^ 20
      let r : RxFrame := ⟨s.slot - (if s.sync then (s.entryAt c.val cfg s.slot).pos else 0), x.ty, at_, none,
        if s.sync then s.setAt c.val cfg s.slot else s.searchSet cfg, np.val + 1, 0, [], [], [], [], []⟩
      let y : Chan := if x.ty = tySound then { x with snd := some (r.slot, []) } else x
      (s.searches c.val cfg at_ = true → s.rxNow c.val = false → x.tx = none ∨ x.fd = true ∨ x.split = true → s.servicePorts cfg ≠ [] →
        exec (.sy1Detect c frac np) s = .next (({ s with ct := at_ } : State).setChan c.val { y with frozen := true, rx := some r })) ∧
      (s.searches c.val cfg at_ = false → exec (.sy1Detect c frac np) s = .next s)) ∧
    ∀ (bits iters : Nat) (parity : List Nat) (r : RxFrame) (j : Job), (s.chan c.val).rx = some r →
      s.line.spx.jobs.find? (fun j => decide (j.chan = c.val ∧ j.kind = .fcDecode) && j.lane.isSome) = some j →
      1 ≤ iters → iters ≤ j.limit → decodeTurns iters (decodeCycles j) ≤ j.ran →
      let ok := ldpcOk 0 48 (toBlocks 48 12 (bitsOf 120 bits)) parity
      let u := (s.endJob j.id true).bump (stnPage 5) 0
      let v := u.bump (.spx 0) 7
      (ok = false → j.limit ≤ iters → exec (.fcDecode c bits iters parity) s = .next (((u.bump (.spx 0) 6).bump (.ch c) 2).endRx c.val)) ∧
      (ok = false → iters < j.limit → exec (.fcDecode c bits iters parity) s = .next s) ∧
      (ok = true → fcReceived bits = none → exec (.fcDecode c bits iters parity) s = .next ((v.bump (.ch c) 2).endRx c.val)) ∧
      ∀ w, ok = true → fcReceived bits = some w →
        let f := Fc.decode w
        let y := v.bump (.ch c) 1
        let z := y.setChan c.val { y.chan c.val with reserve := y.nextReel c.val cfg r.slot }
        (f.wellFormed = true → f.dataSyms ≤ (s.symbolsAt c.val cfg r.slot).1 → f.netid = cfgGet cfg F.CH_CFG_NETID → f.tmapId = 0 →
          f.ftype = 3 ∨ s.codewordsFit c.val cfg r.slot f = true →
          (r.ty ≠ tyReel ∨ f.ttl = 0 → exec (.fcDecode c bits iters parity) s =
            .next (y.setChan c.val { y.chan c.val with rx := some { r with fc := some w } })) ∧
          (r.ty = tyReel → f.ttl ≠ 0 → exec (.fcDecode c bits iters parity) s =
            .next (z.setChan c.val { z.chan c.val with rx := some { r with fc := some w } }))) ∧
        (f.wellFormed = false ∨ (s.symbolsAt c.val cfg r.slot).1 < f.dataSyms ∨ f.netid ≠ cfgGet cfg F.CH_CFG_NETID →
          exec (.fcDecode c bits iters parity) s = .next ((v.bump (.ch c) 2).endRx c.val))) ∧
  (∀ (c : Fin 64) (frac : Nat) (loads : List PortLoad) (rx : List RxPort) (cfg : List Word) (s : State), s.live c.val = some cfg →
    let u : State := { s with ct := s.slot * 2 ^ 20 + frac % 2 ^ 20 }
    (∀ x, (s.chan c.val).tx = some x → x.sym < x.syms →
      let v := (List.range 16).foldl (fun s p => if (s.port p).txCh = some c.val then
        (if x.sym = 0 then s else s.symbolCut p).portBoundary p else s) u
      let w := (v.setChan c.val { v.chan c.val with tx := some { x with sym := x.sym + 1 } }).sendSeam c.val cfg x x.sym
      let own := w.ownLoads c.val loads
      let mw := fun (y : State) => y.addEnergy (y.useMw * 1000 * symNs (cfgGet cfg F.CH_CFG_NUMER) (cfgGet cfg F.CH_CFG_CP))
      (x.late.contains x.sym = true → exec (.symbolBoundary c frac true loads rx) s = .next w) ∧
      (x.late.contains x.sym = false → own = [] ∨ (w.gainFor c.val own).isSome = true →
        exec (.symbolBoundary c frac true loads rx) s = .next (mw ((w.sendSymbol c.val cfg x x.sym).symbolGain c.val x.sym loads))) ∧
      (x.late.contains x.sym = false → own ≠ [] → w.gainFor c.val own = none →
        exec (.symbolBoundary c frac true loads rx) s = .next (mw (w.symbolGain c.val x.sym loads)))) ∧
    ∀ r, (s.chan c.val).rx = some r →
      let past := u.sync = true ∧ (r.slot + (u.entryAt c.val cfg r.slot).len) * 2 ^ 20 + u.nsToCt (cfgAllow cfg) < u.ct
      let v := (u.rxSymbol c.val cfg r rx).addRxJobs c.val cfg r
      (¬ past → r.fc = none → exec (.symbolBoundary c frac false loads rx) s =
        .next (v.setChan c.val { v.chan c.val with rx := (v.chan c.val).rx.map fun y => { y with sym := y.sym + 1 } })) ∧
      (¬ past → exec (.symbolBoundary c frac false loads rx) s = .next (u.rxBoundary c.val cfg r rx)) ∧
      (past → exec (.symbolBoundary c frac false loads rx) s = .next u))

/-- In a CONTEND slot a node with a frame of a class sends that class's burst in its window unless it heard one, and draws its mini-slot
freely; a burst of a higher class than its frame's makes it defer; it starts in the mini-slot it drew, or defers to a reception that began
before. Direct-wire commands: a copy that may be sent goes out with the mask of its lines and its chips, those in exhausted sub-bands as
zero, and one whose sub-bands are all exhausted waits (the wait is the model's choice); a line whose trigger persists repeats its copy, and
one whose trigger is gone ends; a detection at its threshold is recorded, counted and announced, erases what it overlaps, and is carried
out line by line. -/
def Obligations.ContentionAndCommandSymbols : Prop :=
  (∀ (c : Fin 64) (cfg : List Word) (x : Tx) (s : State), s.contending c.val = some (cfg, x) →
    (∀ i : Fin 4, (Fc.decode x.fc).prio = i.val → (s.chan c.val).heard = none → (s.chan c.val).won = none →
      ∃ d, d < 8 ∧ exec (.priorityWindow c i) s = .next ((s.freeNat.2.setChan c.val { s.freeNat.2.chan c.val with
        won := some (i.val, d) }).emit (.burst c.val i.val 0))) ∧
    (∀ (i : Fin 4) (level : Nat), (s.chan c.val).ty = tyContend → cfgGet cfg F.CH_CONTEND_DET_TH < level → (s.chan c.val).heard = none →
      let u := s.setChan c.val { s.chan c.val with heard := some i.val }
      s.live c.val = some cfg → u.contending c.val = some (cfg, x) → exec (.priorityBurstRx c i level) s =
        .next (if i.val < (Fc.decode x.fc).prio then u.deferContend c.val else u)) ∧
    ∀ (k : Fin 8) (w d : Nat), (s.chan c.val).won = some (w, d) →
      (s.heardBefore c.val cfg k.val = true → exec (.backoffMinislot c k) s = .next (s.deferContend c.val)) ∧
      (s.heardBefore c.val cfg k.val = false → d = k.val →
        let u := s.sendTx c.val cfg { x with mini := k.val }
        exec (.backoffMinislot c k) s = .next (u.setChan c.val { u.chan c.val with won := none })) ∧
      (s.heardBefore c.val cfg k.val = false → d ≠ k.val → exec (.backoffMinislot c k) s = .next s)) ∧
  ((∀ (c : Fin 64) (overlap : List Nat) (cfg : List Word) (k : List Nat) (s : State), s.live c.val = some cfg →
    let lines := (List.range 8).filter fun i => decide (0 < (s.chan c.val).cmdLeft.getD i 0)
    let u := s.dwlTry c.val (cmdBands cfg lines) (cmdAirUs cfg)
    lines ≠ [] → s.cmdOn c.val = true → s.macKey (s.l4Fld .cmd F.CMD_KEY_SLOT) = some k → s.cmdSlot c.val cfg = true →
    (u.cmdBarred c.val cfg lines = false → ∃ t, exec (.cmdCopySend c overlap) s = .next t ∧ Out.command c.val ((lines.map fun i => 2 ^ i).sum)
      (lines.map fun i => cmdChipsSent cfg k (sfOf u.ct) (u.cmdMute c.val cfg lines) i) ∈ t.out) ∧
    (u.cmdBarred c.val cfg lines = true → exec (.cmdCopySend c overlap) s = .next (u.cmdHold c.val lines true))) ∧
  (∀ (i : Fin 8) (persist : Bool) (s : State),
    let c := s.l4Fld .cmd (F.CMD_LINE_TX_CH.at i.val)
    let x := s.chan c
    bitOf x.cmdOn i.val = true → x.cmdLeft.getD i.val 0 = 0 →
    (s.l4Flag .cmd (F.CMD_LINE_SRC_RX.at i.val) = true → persist = true → s.l4Fld .cmd (F.CMD_LINE_REPEAT.at i.val) ≠ 0 →
      exec (.cmdRepeat i persist) s = .next (s.setChan c { x with cmdLeft := x.cmdLeft.set i.val 1 })) ∧
    (s.l4Fld .cmd (F.CMD_LINE_REPEAT.at i.val) = 0 → exec (.cmdRepeat i persist) s = .next (s.cmdEnd c i.val))) ∧
  ∀ (c : Fin 64) (lines rho : Nat) (overlap : List Nat) (cfg : List Word) (s : State), s.live c.val = some cfg → s.cmdOn c.val = true →
    lines % 256 ≠ 0 → (s.macKey (s.l4Fld .cmd F.CMD_KEY_SLOT)).isSome = true →
    (cfgGet cfg F.CH_CMD_TH ≤ rho → exec (.cmdDetect c lines rho overlap) s =
      .next ((List.range 8).foldl (fun s i => if bitOf (lines % 256) i then
        let u := if s.l4Flag .cmd (F.CMD_LINE_OUT_EN.at i) then s.outDetect i else s
        if u.l4Flag .cmd (F.CMD_LINE_SRC_RX.at i) && decide (u.l4Fld .cmd (F.CMD_LINE_RX_CH.at i) = c.val) then u.cmdTrigger i else u else s)
      ((((s.setReg .cmd 0x068 (BitVec.ofNat 32 (lines % 256 * 2 ^ 24 + c.val * 2 ^ 16 + min 255 rho))).bump .cmd 1).event .cmd 3).cmdErase
        c.val overlap))) ∧
    (rho < cfgGet cfg F.CH_CMD_TH → exec (.cmdDetect c lines rho overlap) s = .next s))

/-- RTE_CMD with GO, while the block takes work: READ copies an entry, or answers NOT_FOUND with zeros; WRITE makes a static entry; DELETE
removes one; LOOKUP answers the entry chosen for a node and counts; FLUSH removes every dynamic entry and no other. Routes end or wait for
their advertisements: a dynamic route that is older than EXPIRE is removed and counted; advertisements go out when ADV_SF superframes have
passed; one that is received is taken in; a link whose condition of loss holds goes down. -/
def Obligations.RoutesAreCommandedAndAge : Prop :=
  (∀ (q : Req) (s : State), s.Takes q .rte 0x05C → q.val.getLsbD 31 = true → s.enabled .rte = true →
    let u := applyWrite .rte 0x05C q.val (s.at_ .rte q.serial)
    let i := s.fld .rte F.RTE_IDX_IDX
    let op := F.RTE_CMD_OP.get q.val
    s.Wf →
    (op = 0 → s.routeAt i = none → ∃ t, exec (.rteRead q) s = .next t ∧ (∀ k, k < 5 → t.reg .rte (0x048 + 4 * k) = 0) ∧
      t.reg .rte 0x064 = BitVec.ofNat 32 (65536 + i) ∧ t.net = s.net) ∧
    (op = 0 → ∀ r, s.routeAt i = some r → ∃ t, exec (.rteRead q) s = .next t ∧
      t.reg .rte 0x04C = BitVec.ofNat 32 (r.chan * 2 ^ 24 + r.next) ∧ t.reg .rte 0x050 = BitVec.ofNat 32 (r.altCh * 2 ^ 24 + r.alt) ∧
      t.reg .rte 0x054 = BitVec.ofNat 32 (r.len * 2 ^ 27 + min 255 r.age * 65536 + r.metric) ∧
      t.reg .rte 0x064 = BitVec.ofNat 32 i ∧ t.net = s.net) ∧
    (op = 1 → isUnicast (u.fld .rte F.RTE_E1_NEXT) = true → u.fld .rte F.RTE_E2_ALT_NEXT = 0 →
      let len := u.fld .rte F.RTE_E3_LEN
      let pre := prefixOf (u.fld .rte F.RTE_E0_PREFIX) len
      u.route? pre len = none → exec (.rteWrite q) s = .next ((u.putRoute ⟨i, pre, len, u.fld .rte F.RTE_E1_NEXT, u.fld .rte F.RTE_E1_CHANNEL, 0,
        u.fld .rte F.RTE_E2_ALT_CH, u.fld .rte F.RTE_E0_ALT_DIV, u.fld .rte F.RTE_E3_METRIC, u.fld .rte F.RTE_E4_HOP, 0, true, false, false,
        u.linkDown (u.fld .rte F.RTE_E1_CHANNEL) (u.fld .rte F.RTE_E1_NEXT)⟩).rteResult 0 i)) ∧
    (op = 2 → (s.routeAt i).isSome = true → ∃ t, exec (.rteDelete q) s = .next t ∧
      t.net = { s.net with routes := s.net.routes.filter fun r => decide (r.idx ≠ i) } ∧ t.reg .rte 0x064 = BitVec.ofNat 32 i ∧
      ({ s with net := t.net }).Beside t) ∧
    (op = 3 → ∀ r, s.lookup (s.fld .rte F.RTE_LOOKUP_NODE) 24 = some r → exec (.rteLookup q) s = .next ((u.bump .rte 0).rteResult 0 r.idx)) ∧
    (op = 4 → ∃ t, exec (.rteFlush q) s = .next t ∧ t.net = { s.net with routes := s.net.routes.filter (·.fixed) } ∧
      t.reg .rte 0x064 = 0 ∧ ({ s with net := t.net }).Beside t)) ∧
  (∀ s : State,
    (∀ (i : Fin 16384) (r : Route), s.routeAt i.val = some r → r.fixed = false → max 1 (s.fld .rte F.RTE_CFG_EXPIRE) < r.age →
      exec (.routeExpire i) s = .next ((s.delRoute i.val).bump .rte 5)) ∧
    (s.fld .rte F.RTE_CFG_ADV_SF ≠ 0 → s.net.advDue + s.fld .rte F.RTE_CFG_ADV_SF ≤ s.line.sched.sfN → exec .routeAdvTimer s = .next s.advertise) ∧
    (∀ (c : Fin 64) (src : Nat) (d : List Nat), s.serving = true → exec (.routeAdvRx c src d) s = .next (s.advIn c.val src d)) ∧
    ∀ (c : Fin 64) (peer : Nat), s.linkDown c.val peer = false → s.linkLost c.val peer = true →
      exec (.linkDown c peer) s = .next ((((s.setArq { s.arq c.val peer with down := true }).markLink c.val peer true).leaveLink c.val
        peer).dispatch))

/-- DIR_CMD with GO, while no command runs and the node's bucket is on chip: LOOKUP answers the entry's index; DELETE erases it; INSERT
makes a static entry where one can be placed; MERGE sends the entries of the epoch before. An entry that has been read from DRAM serves
what waited for it, and one that could not be read, or that another region's write has damaged, is a fault; what other nodes send of their directory or of their sleep is taken in
while the device serves. -/
def Obligations.DirectoryIsCommandedAndServed : Prop :=
  (∀ (q : Req) (s : State), s.Takes q .dir 0x048 → q.val.getLsbD 31 = true → s.enabled .dir = true → s.flag .dir F.DIR_CMD_BUSY = false →
    let u := (applyWrite .dir 0x048 q.val (s.at_ .dir q.serial)).setFlag .dir F.DIR_CMD_BUSY true
    let x := (applyWrite .dir 0x048 q.val (s.at_ .dir q.serial)).fld .dir F.DIR_NODE_NODE
    let owner := (applyWrite .dir 0x048 q.val (s.at_ .dir q.serial)).fld .dir F.DIR_NODE_OWNER
    let op := (applyWrite .dir 0x048 q.val (s.at_ .dir q.serial)).fld .dir F.DIR_CMD_OP
    (op = 0 → u.dirHit x = true → ∀ i, (u.bump .dir 0).dirFind x = some i →
      exec (.dirLookup q) s = .next ((((u.bump .dir 0).dirCache i).dirResult 0 i).dispatch)) ∧
    (op = 1 → u.dirHit x = true → u.dirFind x = none → isUnicast x = true → owner = 15 → ∀ i, u.dirPlace x = some (i, false) →
      exec (.dirInsert q) s = .next (((((((u.dirMake i x owner 0x40).dirCache i).bump .dir 2).dirResult 0 i).quotas)).dispatch)) ∧
    (op = 2 → u.dirHit x = true → ∀ i, u.dirFind x = some i → exec (.dirDelete q) s = .next ((((u.dirErase i).dirResult 0 i).quotas).dispatch)) ∧
    (op = 3 → exec (.mergeNow q) s = .next (((u.sendDeltas ((u.epoch + 255) % 256)).dirResult 0 0).dispatch))) ∧
  (∀ s : State,
    (∀ x, s.net.dirWait.contains x = true → s.dramOn = true →
      let u : State := { s with net := { s.net with dirWait := s.net.dirWait.filter (· ≠ x) } }
      (s.dramDamaged 0 (512 * s.dirBucket x) = false →
        exec (.dirDramFetchDone x true) s = .next ((u.dirFetched x).afterFetch x (s.dirFind x).isSome)) ∧
      (s.dramDamaged 0 (512 * s.dirBucket x) = true →
        exec (.dirDramFetchDone x true) s = .next ((u.dirLost x).afterFetch x false)) ∧
      exec (.dirDramFetchDone x false) s = .next ((u.dirLost x).afterFetch x false)) ∧
    (s.serving = true → ∀ d, exec (.dirMergeRx d) s = .next (s.mergeIn d).quotas ∧
      ∀ src, exec (.sleepAnnounceRx src d) s = .next (s.announceIn src d)))

/-- A MAC frame that a live channel decodes is taken in, or buffered during the pause of an activation; acknowledgements are matched with
the frames that wait for them; held frames that have waited too long for a missing number are passed on from the first that is held.
Floods and waiting frames end by their times: a settled flood that is older than AGE is forgotten and counted; one that nothing has
acknowledged in time falls back on its neighbours, or is done; a queued frame that has had no route for its hold is dropped and counted.
-/
def Obligations.FramesAndFloodsAreTakenAndExpire : Prop :=
  (∀ s : State,
    (∀ (r : MacRx) (rx : Nat), s.running = true → (s.live r.chan.val).isSome = true →
      (s.restarting = false → exec (.macFrameRx r rx) s = .next (s.macFrame r rx)) ∧
      (s.restarting = true → s.nvm.upd.kept.length < 256 → exec (.macFrameRx r rx) s =
        .next { s with nvm := { s.nvm with upd := { s.nvm.upd with kept := s.nvm.upd.kept ++ [(r, rx)] } } })) ∧
    (∀ (c : Fin 64) (peer : Nat) (recs : List (Nat × Nat × Nat)), s.serving = true →
      exec (.ackRx c peer recs) s = .next ((s.acksIn c.val peer recs).dispatch.originate)) ∧
    ∀ (c : Fin 64) (peer q m : Nat) (b : MacRx), (s.arq c.val peer).held = [(q, b, m)] →
      m + s.arqWait * (s.arqRetry + 1) ≤ s.line.sched.slotN →
      exec (.lseqGapExpire c peer) s =
        .next (((s.setArq { s.arq c.val peer with next := some q }).drainHeld c.val peer 2).dispatch.originate)) ∧
  (∀ s : State,
    (∀ (src seq epoch : Nat) (x : Flood), s.flood? src seq epoch = some x →
      (x.settled = true → s.floodAged x = true → exec (.seenAgeExpire src seq epoch) s = .next ((s.delFlood src seq epoch).bump .seen 3)) ∧
      (x.st = .sent → max 1 (s.fld .rly F.RLY_FB_ACK_SLOTS) ≤ x.waited →
        (s.fallbackTargets x = [] → exec (.reelAckTimeout src seq epoch) s = .next ((s.event .rly 1).floodDone x).dispatch) ∧
        (s.fallbackTargets x ≠ [] → exec (.reelAckTimeout src seq epoch) s =
          .next (((s.floodCopies { x with st := .fallback } (s.fallbackTargets x)).bump .rly 3).event .rly 2).dispatch))) ∧
    ∀ (id n : Nat) (f : Frame), s.frame? id = some f → f.noRoute = some n → f.queued = true → f.st = .path →
      n + max 1 (s.fld .rly F.RLY_FWD_HOLD_SF) ≤ s.line.sched.sfN →
      exec (.fwdHoldExpire id) s = .next (((s.delFrame id).bump .rly 7).fwdLeft.dispatch))

/-- SEEN_FLUSH with ALL empties the table of floods and counts its entries, and a frame of the node's own that went as one of them takes
its path anew; SEEN_Q_KEY with GO answers whether a flood is known, and if so
its state, its time to live and its age. -/
def Obligations.TheSeenTableIsFlushedAndAsked : Prop :=
  ∀ (q : Req) (s : State), s.Wf →
    (s.Takes q .seen 0x048 → q.val.getLsbD 0 = true →
      exec (.seenFlush q) s = .next ((applyWrite .seen 0x048 q.val (s.at_ .seen q.serial)).flushFloods fun _ => true)) ∧
    (s.Takes q .seen 0x048 → q.val.getLsbD 0 = true → (∀ x ∈ s.net.floods, x.seg = none) → ∃ t, exec (.seenFlush q) s = .next t ∧ t.net = { s.net with floods := [] } ∧
      t.counter .seen 4 = (if s.cntEn .seen 4 then (s.counter .seen 4 + s.net.floods.length) % 2 ^ 48 else s.counter .seen 4) ∧
      (∀ r o, o < 0x1000 → r ≠ .seen → t.reg r o = s.reg r o) ∧ ({ s with net := t.net }).Beside t) ∧
    (s.Takes q .seen 0x050 → q.val.getLsbD 31 = true →
      let found := s.flood? (s.fld .seen F.SEEN_Q_SRC_SRC) (F.SEEN_Q_KEY_SEQ.get q.val) (F.SEEN_Q_KEY_EPOCH.get q.val)
      ∃ t, exec (.seenQuery q) s = .next t ∧ t.net = s.net ∧ (t.reg .seen offEvent).getLsbD 1 = true ∧
        t.reg .seen 0x054 = (match found with
          | some x => BitVec.ofNat 32 (2 ^ 31 + (2 ^ 30 + x.st.code * 2 ^ 27 + x.ttl % 64 * 2 ^ 20 + min 65535 (s.floodAge x)))
          | none => BitVec.ofNat 32 (2 ^ 31)) ∧
        (∀ r o, o < 0x1000 → r ≠ .seen → t.reg r o = s.reg r o) ∧ s.Beside t)

/-- KEY_CMD with GO, while the block takes work and no command is in progress: each operation, where its arguments are good, has its
effect and ends with STATUS 0. A key command that ends reports its status and place, leaves no staged key word, is announced, and lets the
next command in. -/
def Obligations.KeyCommandsDoTheirWorkAndForget : Prop :=
  (∀ (q : Req) (s : State), s.Takes q .key 0x040 → q.val.getLsbD 31 = true → s.enabled .key = true → s.cph.busy = false →
    let a := applyWrite .key 0x040 q.val (s.at_ .key q.serial)
    let u : State := { a with cph := { a.cph with busy := true } }
    let op := u.kArg F.KEY_CMD_OP
    let pk := u.kArg F.KEY_ARG0_PK
    let slot := u.kArg F.KEY_ARG1_SLOT
    let kid := u.kArg F.KEY_ARG1_KID
    let big := decide (u.kArg F.KEY_ARG0_SIZE256 = 1)
    let good := !attrBad (u.kArg F.KEY_ARG0_MODES) (u.kArg F.KEY_ARG0_TAG16 = 1)
    u.privOk = true → u.cmdSlots.any u.slotInUse = false →
    (op = 0 → pk ≠ 0 → 2 ≤ u.kArg F.KEY_ARG0_ROLE → u.kArg F.KEY_ARG0_ROLE ≤ 5 → u.kArg F.KEY_ARG0_WRAPPED = 0 → s.nvm.locked = false →
      exec (.pkLoad q) s = .next (State.keyEnd (0, 0) (u.setPk pk ⟨u.kArg F.KEY_ARG0_ROLE, big, u.stagedKey⟩))) ∧
    (op = 1 → pk ≠ 0 → exec (.pkClear q) s = .next (State.keyEnd (0, 0) (u.setPk pk ⟨0, false, 0⟩))) ∧
    (op = 2 → 64 ≤ slot → kid ≤ 0xFFEF → u.slot? slot = none → u.loadFull = false → u.kidHeld kid slot = false →
      let d : DeriveCmd := ⟨pk, u.kArg F.KEY_ARG0_LABEL, u.kArg F.KEY_ARG0_IDX, u.kArg F.KEY_ARG2_NODE % 65536⟩
      1 ≤ d.label → d.label ≤ 4 → (d.label ≠ 3 → d.idx = 0) → ∀ key, u.deriveCmdKey d = some key → exec (.keyDerive q) s =
        .next (State.keyEnd (0, slot) (((u.putSlot slot (derivedSlot d.label kid key)).useSlot slot).saveSlot slot (some d)))) ∧
    (op = 3 → slot < 64 → kid ≤ 0xFFEF → good = true → u.kidHeld kid slot = false → ∀ key,
      u.stagedUnwrap 3 ([2] ++ beBytes 2 kid ++ [u.argAttr, u.kArg F.KEY_ARG2_USE, 0, 0, 0]) = (0, key) → exec (.groupLoad q) s =
        .next (State.keyEnd (0, slot) (((u.putSlot slot (u.argSlot 0 kid (u.kArg F.KEY_ARG2_USE) key)).useSlot slot).saveSlot slot none))) ∧
    (op = 4 → good = true → ∀ key k, u.stagedUnwrap 3 ([3] ++ beBytes 3 u.ownNode ++ [u.argAttr, 0, 0, 0]) = (0, key) → u.ownSlot = some k →
      exec (.ownLoad q) s = .next (State.keyEnd (0, k) (((u.putSlot k (u.argSlot 4 0 0 key)).useSlot k).saveSlot k none))) ∧
    (op = 5 → u.kArg F.KEY_ARG3_LOC = 2 → u.kArg F.KEY_ARG3_INDEX < 8192 → big = false → ∀ key,
      u.stagedUnwrap 3 ([3] ++ beBytes 3 (u.kArg F.KEY_ARG2_NODE) ++ [u.argAttr, 0, 0, 0]) = (0, key) →
      let i := u.kArg F.KEY_ARG3_INDEX
      let v := (({ u with nvm := { u.nvm with wkt := storeIns u.nvm.wkt i ⟨true, u.kArg F.KEY_ARG2_NODE, u.kArg F.KEY_ARG0_WRAP_PK,
        u.stagedBytes.take 32 ++ List.replicate 16 0⟩ } } : State)).bumpBy .nvm 0 2
      v.handleSlot (2 * 2 ^ 28 + i) = none → exec (.wktPut q) s = .next (State.keyEnd (0, i) v)) ∧
    (op = 6 → u.slot? slot = none →
      exec (.slotQuery q) s = .next (State.keyEnd (7, 0) ((u.setReg .key 0x058 0).setReg .key 0x05C 0))) ∧
    (op = 7 → ∀ x, u.slot? slot = some x → 64 ≤ slot → x.typ < 3 → exec (.slotClear q) s = .next (State.keyEnd (0, slot) (u.delSlot slot true)))) ∧
  (∀ (r : Nat × Nat) (s : State), s.Wf →
    let t := State.keyEnd r s
    t.reg .key 0x054 = BitVec.ofNat 32 (r.1 * 2 ^ 28 + r.2 % 2 ^ 28) ∧ (∀ i, i < 12 → t.reg .key (0x0C0 + 4 * i) = 0) ∧
    (t.reg .key offEvent).getLsbD 1 = true ∧ t.cph = { s.cph with busy := false } ∧ t.nvm = s.nvm)

/-- KEY_PROV locks the provisioning once, in MRAM; KEY_ZERO zeroises on its exact word and does nothing on another: all slots, provisioned
keys but PK0, records and stored commands are gone. A slot whose parity fails is a fault and is counted; a kept slot is lost until MRAM
restores it, and any other is gone; frames that waited for a key of a handle go on once it has been read. -/
def Obligations.KeysAreProvisionedZeroisedAndRestored : Prop :=
  (∀ (q : Req) (s : State),
    let a := s.at_ .key q.serial
    (s.Takes q .key 0x060 → q.val.getLsbD 0 = true → s.nvm.locked = false →
      exec (.provLock q) s = .next ({ a with nvm := { a.nvm with locked := true } }).nvmRows) ∧
    (s.Takes q .key 0x064 → q.val ≠ 0x800000A5 → exec (.zeroise q) s = .next a) ∧
    (s.Takes q .key 0x064 → q.val = 0x800000A5 → ∃ t, exec (.zeroise q) s = .next t ∧ t.cph.slots = [] ∧ t.cph.wait = [] ∧
      t.nvm.slots = [] ∧ t.nvm.derives = [] ∧ t.nvm.wkt = [] ∧ t.nvm.locked = false ∧
      (∀ k, 0 < k → t.pkEntry k = ⟨0, false, 0⟩) ∧ (t.reg .key offEvent).getLsbD 2 = true)) ∧
  (∀ (k : Fin 4096) (x : KeySlot) (s : State), s.slot? k.val = some x →
    let u := (s.fault .key 0 k.val).bump .key 5
    (k.val < 64 ∨ 3 ≤ x.typ → exec (.keySlotParity k) s = .next (u.putSlot k.val { x with lost := true })) ∧
    (64 ≤ k.val → x.typ ≤ 1 → exec (.keySlotParity k) s = .next (((u.delSlot k.val false).event .key 3).quotas)) ∧
    (64 ≤ k.val → x.typ = 2 → exec (.keySlotParity k) s = .next (u.delSlot k.val false).quotas) ∧
    ∀ n y, s.nvm.slots.find? (fun e => decide (e.1 = k.val)) = some (n, y) → x.lost = true →
      exec (.keySlotRestored k) s = .next (s.putSlot k.val { y with lost := false, used := x.used }))

/-- A doorbell of an enabled submission queue moves its tail on by what it gains, which is then in flight, or is a violation of kind 5
where it would overrun the room; a cipher doorbell that would sets OVERRUN; a completion doorbell moves the head of an enabled queue. A
ring's configuration word: EN written to a disabled ring that fits starts it empty, or is refused with its event; EN cleared ends a
submission queue, and stores a completion queue's word. -/
def Obligations.RingsAndDoorbells : Prop :=
  (∀ (q : Req) (t v : Fin 8) (k : Fin 8) (s : State),
    (s.Takes q (.dbell t) (0x040 + 8 * k.val) → s.reach (.dbell t) q.serial = .dbell v → s.sqEn v k.val = true →
      let u := s.at_ (.dbell t) q.serial
      let n := u.sqSize v k.val
      let new := q.val.toNat % 4096 % n
      let adv := (new + n - u.ring v k.val F.TNT_SQ_STAT_WR_TAIL % n) % n
      (adv ≤ u.sqRoom v k.val → exec (.dbSqWrite q t k) s = .next ((((u.setTenant v { u.tenant v with
        inflight := (u.tenant v).inflight + adv }).setRing v k.val F.TNT_SQ_STAT_WR_TAIL new).quotas).issueFetch)) ∧
      (u.sqRoom v k.val < adv → exec (.dbSqWrite q t k) s = .next (u.violation ((Page.dbell v).fn q.serial)
        (accessAddr ((Page.dbell v).fn q.serial) (.dbell v) (0x040 + 8 * k.val)) 5 true q.be))) ∧
    (s.Takes q (.dbell t) (0x044 + 8 * k.val) → s.reach (.dbell t) q.serial = .dbell v → s.cqEn v k.val = true →
      let u := s.at_ (.dbell t) q.serial
      let n := u.cqSize v k.val
      let h := u.ring v k.val F.TNT_CQ_STAT_HEAD
      let tail := u.ring v k.val F.TNT_CQ_STAT_TAIL
      exec (.dbCqWrite q t k) s = .next (u.withVec (v.val + 1) (u.ring v k.val F.TNT_CQ_CFG_VEC) true fun w => w.setRing v k.val
        F.TNT_CQ_STAT_HEAD (if (tail + n - h) % n < (q.val.toNat % 4096 % n + n - h) % n then tail else q.val.toNat % 4096 % n))) ∧
    (s.Takes q (.crq t) F.CR_DB_SQ_TAIL.off → s.reach (.crq t) q.serial = .crq v → s.sqEn v 8 = true →
      let u := s.at_ (.crq t) q.serial
      (∀ w, u.newTail v 8 (q.val.toNat % 4096) = some w → exec (.crDbSqWrite q t) s = .next w) ∧
      (u.newTail v 8 (q.val.toNat % 4096) = none → exec (.crDbSqWrite q t) s = .next ((u.setFlag (.crq v) F.CR_STAT_OVERRUN true).event (.crq v) 3))) ∧
    (s.Takes q (.crq t) F.CR_DB_CQ_HEAD.off → s.reach (.crq t) q.serial = .crq v →
      exec (.crDbCqWrite q t) s = .next ((s.at_ (.crq t) q.serial).newHead v 8 (q.val.toNat % 4096)))) ∧
  (∀ (q : Req) (t v : Fin 8) (k : Fin 9) (s : State), s.reach (ringPage t k.val) q.serial = ringPage v k.val →
    let sq := ringOff k.val + 0x08
    let cq := ringOff k.val + 0x18
    let a := s.at_ (ringPage t k.val) q.serial
    let u := applyWrite (ringPage v k.val) sq q.val a
    let w := applyWrite (ringPage v k.val) cq q.val a
    (s.Takes q (ringPage t k.val) sq → a.sqEn v k.val = false → u.sqEn v k.val = true → u.ringFits v k.val false = true →
      let x := u.tenant v
      exec (.ringEnable q t k false) s = .next ((u.setReg (ringPage v k.val) (ringOff k.val + 0x0C) 0).setTenant v
        (if k.val = 8 then { x with crAcc := 0 } else { x with acc := x.acc.set k.val 0 }))) ∧
    (s.Takes q (ringPage t k.val) sq → a.sqEn v k.val = false → u.sqEn v k.val = true → u.ringFits v k.val false = false →
      exec (.ringEnable q t k false) s = .next ((u.setRing v k.val F.TNT_SQ_CFG_EN 0).ringRefused v k.val)) ∧
    (s.Takes q (ringPage t k.val) sq → a.sqEn v k.val = true → u.sqEn v k.val = false →
      exec (.sqDisable q t k) s = .next (((u.sqOff v k.val).quotas).issueFetch)) ∧
    (s.Takes q (ringPage t k.val) cq → a.cqEn v k.val = false → w.cqEn v k.val = true → w.ringFits v k.val true = true →
      exec (.ringEnable q t k true) s = .next (a.withVec (v.val + 1) (F.TNT_CQ_CFG_VEC.get q.val) false fun _ =>
        w.setReg (ringPage v k.val) (ringOff k.val + 0x1C) 0x1000)) ∧
    (s.Takes q (ringPage t k.val) cq → a.cqEn v k.val = true → w.cqEn v k.val = false →
      exec (.cqDisable q t k) s = .next (a.withVec (v.val + 1) (F.TNT_CQ_CFG_VEC.get q.val) false fun _ => w)))

/-- A descriptor that has been fetched moves the head of its ring on, and is accepted, or first mirrored; a fetch that fails ends the ring
with its fault; a payload that has been read gives its message the next number and is segmented, and one that is poisoned or cannot be
read completes its message. -/
def Obligations.DescriptorsAndPayloadsArrive : Prop :=
  ∀ s : State,
    (∀ (k q head : Nat), s.restarting = false → s.net.fetch = some (k, q, head) →
      let t := Fin.ofNat 8 k
      let u : State := { s with net := { s.net with fetch := none } }
      u.sqQmem t q = false →
      (∀ b, b.length = 64 → u.ring t q F.TNT_SQ_STAT_HEAD = head → u.mirrors = false →
        let v := u.setRing t q F.TNT_SQ_STAT_HEAD ((head + 1) % u.sqSize t q)
        v.mirrors = false → exec (.descFetchDone (.ok b false)) s =
          .next (((((v.acceptDesc t q b false).dispatch).originate).quotas).issueFetch)) ∧
      exec (.descFetchDone .fail) s = .next (((((u.sqOff t q).dmaFault t q false).quotas)).issueFetch)) ∧
    ∀ (t : Fin 8) (id : Nat) (m : Msg), (s.tenant t).msgs.find? (fun m => decide (m.id = id)) = some m → m.data = none → m.qmem = false →
      (∀ b, let n := s.takeNumber m.svc m.prio
        let x : Msg := { m with data := some (b.take m.len), no := n.1 }
        exec (.payloadReadDone t id (.ok b false)) s = .next ((((n.2.setMsg t x).trySegment t x).dispatch).originate)) ∧
      (∀ b, exec (.payloadReadDone t id (.ok b true)) s = .next ((s.completeMsg t m 0x0E).quotas)) ∧
      exec (.payloadReadDone t id .fail) s = .next (((s.dmaFault t m.q false).completeMsg t m 0x0D).quotas)

/-- The times of a message: without a confirmation it is sent again, past its hold it completes with status 5 if it was handed on and 3 or
4 if not; a confirmation ends the message that asked for it. A message that waits for lower numbers, or for its buffers, or for its
missing segments, waits no longer than its time: it comes into order, after the lower numbers that are held, it moves to the spill area or is dropped, or it is given up and
counted. -/
def Obligations.MessagesEndAndWaitByTheirTimes : Prop :=
  (∀ (t : Fin 8) (id : Nat) (m : Msg) (s : State), (s.tenant t).msgs.find? (fun m => decide (m.id = id)) = some m →
    (∀ n, m.handed = some n → m.e2e = true → m.left = [] → n + max 1 (s.fld (.tnt 0) F.TNT_MSCFG_E2E_SF) ≤ s.line.sched.sfN →
      exec (.e2eTimeout t id) s = .next ((((s.setMsg t { m with cut := false, handed := some s.line.sched.sfN }).trySegment t
        { m with cut := false, handed := some s.line.sched.sfN }).dispatch).originate)) ∧
    (m.sf + max 1 (s.fld (.tnt t) F.TNT_LIMITS_HOLD_SF) ≤ s.line.sched.sfN →
      (m.handed.isSome = true → exec (.holdLimitExpire t id) s = .next ((s.dropFrames m.id).completeMsg t m 5)) ∧
      (m.handed = none → exec (.holdLimitExpire t id) s = .next ((s.dropFrames m.id).completeMsg t m
        (if (match s.dirFind m.dst with | some i => s.dirUnreached i | none => false) then 4 else 3)))) ∧
    ∀ src recs, s.serving = true → exec (.confirmationRx src recs) s = .next (s.confirm src recs)) ∧
  (∀ s : State,
    (∀ (t : Fin 8) (id : Nat) (w : Waiting), (s.tenant t).waits.find? (fun w => decide (w.id = id)) = some w →
      (w.ordered = false → w.sf + max 1 (s.fld (.tnt t) F.TNT_LIMITS_ORDER_SF) ≤ s.line.sched.sfN →
        exec (.orderWaitExpire t id) s =
          .next (((((s.lowerOf t w).foldl (fun u x => u.setOrdered t x) s).setOrdered t w).settleOrder t).dispatch)) ∧
      (w.ordered = true → w.spilled = false → max 1 (s.fld (.tnt t) F.TNT_LIMITS_WAIT_AGE_MS) * 10000 ≤ s.tenths w.sf →
        exec (.waitAgeExpire t id) s = .next (((s.spillOrDrop t w).settleWaits t).dispatch))) ∧
    ∀ (src svc prio no : Nat) (dev : Bool) (r : Reasm), s.net.reasm.find? (fun r => r.key src svc prio no dev) = some r →
      r.sf + max 1 (s.fld (.tnt 0) F.TNT_MSCFG_REASM_SF) ≤ s.line.sched.sfN →
      let u : State := { s with net := { s.net with reasm := s.net.reasm.filter fun x => !x.key src svc prio no dev } }
      (u.binding svc = none → exec (.reasmTimeout src svc prio no dev) s = .next u) ∧
      ∀ t x, u.binding svc = some (t, x) → dev = false → exec (.reasmTimeout src svc prio no dev) s =
        .next ((((u.bump (.tnt t) 6).histSample 2 (rxSample t prio) none).settleOrder t).dispatch))

/-- A delivery takes the buffers it fills, and the room of one completion; its end waits while the function may issue no request; when its
data is written it completes, and when a write to the host fails it is dropped with its notice, its buffers returned; a completion goes
out to its ring. -/
def Obligations.DeliveriesFillTheirBuffers : Prop :=
  ∀ (t q : Fin 8) (s : State),
    (∀ (w : Waiting) (bs : List Buf), (s.tenant t).waits.find? (fun w => w.queued && decide (w.q = q.val)) = some w →
      let x := s.tenant t
      let mine := x.bufs.filter fun b => decide (b.q = q.val)
      x.deliv = none → s.cqEn t q.val = true → (x.comps.filter fun c => decide (c.q = q.val)).length < s.cqRoom t q.val → w.spilled = false →
      s.serving = true → mine ≠ [] → takeBufs mine w.data.length = some bs → s.mirrors = false →
      let u := s.setTenant t { x with
        waits := x.waits.filter (fun y => decide (y.id ≠ w.id)), bufs := x.bufs.filter (fun b => !bs.contains b), deliv := some ⟨w, bs, true⟩ }
      u.mirrors = false → exec (.deliveryStart t q false) s = .next (u.settleWaits t)) ∧
    (∀ d : Delivery, (s.tenant t).deliv = some d → d.mir = true → s.restarting = false → d.msg.e2e = false →
      let u := s.setTenant t { s.tenant t with deliv := none }
      let host := d.bufs.any fun b => !b.qmem
      (host = true → s.dmaOk t = false → ∀ ok, exec (.deliveryWriteDone t ok) s = .next s) ∧
      ((host = true → s.dmaOk t = true) → ∀ v b bs ok, (host = true → ok = true) → u.writeBufs t d.bufs d.msg.data = some v →
        d.bufs = b :: bs → exec (.deliveryWriteDone t ok) s =
        .next ((((((v.histTimed 2 (rxSample t d.msg.prio) d.msg.at_ (v.tenths d.msg.at_)).postComp t d.msg.q (compBytes b.tag 1 0
          (d.msg.prio % 4 + if d.msg.spilled then 64 else 0) d.msg.svc d.msg.src d.bufs.length d.msg.no d.msg.data.length) false
          d.bufs.length).bump (.tnt t) 3).settleWaits t)).dispatch)) ∧
      (host = true → s.dmaOk t = true → exec (.deliveryWriteDone t false) s = .next ((((((d.bufs.foldl (fun s b => s.returnBuf t b 0x0D)
        (u.dmaFault t d.msg.q false)).dropNotice t d.msg 0x0D).bump (.tnt t) 6).settleWaits t)).dispatch))) ∧
    ∀ (k : Fin 9) (ok : Bool), exec (.completionWriteDone t k ok) s = .next ((s.compWritten t k.val ok).quotas).issueFetch

/-- TNT_QMEM is stored where no ring uses the allocation and it lies in the array apart from the others, is ignored while one does, and is
refused otherwise; TNT_FEAT_LOCK is stored; both reset bits start a tenant reset, whose end is announced on both pages, and fetching goes on. -/
def Obligations.TenantsAreConfiguredAndReset : Prop :=
  ∀ (q : Req) (t : Fin 8) (s : State),
    let a := s.at_ (.tnt t) q.serial
    let base := F.TNT_QMEM_BASE.get q.val
    let size := F.TNT_QMEM_SIZE.get q.val
    let used := (List.range 9).any fun k => (s.sqEn t k && s.sqQmem t k) || (s.cqEn t k && s.cqQmem t k)
    let clash := (List.finRange 8).any fun u => decide (u ≠ t) && decide (s.fld (.tnt u) F.TNT_QMEM_SIZE ≠ 0 ∧ size ≠ 0) &&
      decide (base < s.fld (.tnt u) F.TNT_QMEM_BASE + s.fld (.tnt u) F.TNT_QMEM_SIZE ∧ s.fld (.tnt u) F.TNT_QMEM_BASE < base + size)
    (s.Takes q (.tnt t) 0x050 → used = false → base + size ≤ 256 → clash = false →
      exec (.qmemWrite q t) s = .next (applyWrite (.tnt t) 0x050 q.val a)) ∧
    (s.Takes q (.tnt t) 0x050 → used = false → 256 < base + size ∨ clash = true →
      exec (.qmemWrite q t) s = .next ((a.setFlag (.tnt t) F.TNT_MSTAT_QMEM_REFUSED true).event (.tnt t) 5)) ∧
    (s.Takes q (.tnt t) 0x050 → used = true → exec (.qmemWrite q t) s = .next a) ∧
    (s.Takes q (.tnt t) 0x040 → q.val.getLsbD 1 = true →
      exec (.tntMctlReset q t) s = .next ((applyWrite (.tnt t) 0x040 q.val a).startTenantReset t)) ∧
    (∀ v, s.reach (.tpage t) q.serial = .tpage v →
      (s.Takes q (.tpage t) 0x048 → exec (.tenantFeatLock q t) s = .next (applyWrite (.tpage v) 0x048 q.val (s.at_ (.tpage t) q.serial))) ∧
      (s.Takes q (.tpage t) 0x04C → q.val.getLsbD 0 = true →
        exec (.tntReset q t) s = .next ((s.at_ (.tpage t) q.serial).startTenantReset v))) ∧
    (s.resetting t = true → exec (.tenantResetDone t) s =
      .next ((((s.setFlag (.tnt t) F.TNT_MSTAT_RESETTING false).event (.tnt t) 1).event (.tpage t) 1).quotas.issueFetch))

/-- ENCRYPT, DECRYPT, MAC and VERIFY: the tenant's oldest such request is taken; one that fails its checks completes with the first
failing check's status, one whose data cannot be had or is poisoned with 9 or 10, and a good one marks its slot as used and waits for a
lane. RANDOM is refused while the DRBG is halted or has failed its start-up test, and else waits for a lane; a key that is loaded takes a
new slot of its tenant; a slot that its tenant unloads is gone, or goes once no lane uses it. -/
def Obligations.CipherRequestsAndCommands : Prop :=
  (∀ (t : Fin 8) (opc : Nat) (c : Instr) (r : Fetched) (d : List Nat) (s u : State),
    (opc, c) ∈ [(0x10, Instr.cipherEncrypt t r), (0x11, .cipherDecrypt t r), (0x12, .cipherMac t r), (0x13, .cipherVerify t r)] →
    s.takeCr t opc = some (d, u) →
    (u.crCheck t d ≠ 0 → exec c s = .next ((u.postCr t d (u.crCheck t d) (crKey d) [] 0).quotas)) ∧
    (u.crCheck t d = 0 → bitOf (d.getD 1 0) 5 = false →
      (r = .fail → exec c s = .next (((u.dmaFault t 8 false).postCr t d 9 (crKey d) [] 0).quotas)) ∧
      (∀ b, r = .ok b true → exec c s = .next ((u.postCr t d 0x0A (crKey d) [] 0).quotas)) ∧
      ∀ b, r = .ok b false →
        exec c s = .next (((u.useSlot (crKey d)).addReq (.direct t.val d (b.take (u.crNeed d)))).dispatch))) ∧
  (∀ (t : Fin 8) (d : List Nat) (s u : State),
    (s.takeCr t 0x14 = some (d, u) → crInvalid d = false →
      (u.halted = true ∨ u.faulted .ent 1 = true →
        exec (.cipherRandom t) s = .next (((u.postCr t d 0x0B (crKey d) [] 0).bump .ent 2).quotas)) ∧
      (u.halted = false → u.faulted .ent 1 = false → exec (.cipherRandom t) s = .next ((u.addReq (.direct t.val d [])).dispatch))) ∧
    (s.takeCr t 0x20 = some (d, u) → bitOf (d.getD 50 0) 7 = false → ∀ (r : Fetched) (key k : Nat),
      let v := (u.crData t d (crLen d) r).2
      v.loadKeyStatus t d (u.crData t d (crLen d) r).1 = (0, key) → v.newSlot = some k →
      let x := if bitOf (d.getD 50 0) 6 then KeySlot.make 1 false false 0 false t.val 0 (leAt d 48 2) 0 0
        else KeySlot.make 0 (bitOf (d.getD 50 0) 5) (bitOf (d.getD 50 0) 4) (d.getD 50 0 % 16) false t.val 0 (leAt d 48 2) key 0
      exec (.loadKey t r) s = .next ((((((v.putSlot k x).useSlot k).bump .key 0).postCr t d 0 k [] 0)).quotas)) ∧
    (s.takeCr t 0x21 = some (d, u) → crReserved d = false → ∀ x, u.slot? (crKey d) = some x → x.typ ≤ 1 → x.owner = t.val →
      (u.slotInUse (crKey d) = true →
        exec (.keyUnload t) s = .next (u.putSlot (crKey d) { x with dying := some (some (t.val, d)) })) ∧
      (u.slotInUse (crKey d) = false →
        exec (.keyUnload t) s = .next (((((u.delSlot (crKey d) false).bump .key 1).postCr t d 0 (crKey d) [] 0)).quotas))))

/-- A lane that ends its request is free for the next, unless the request's output waits for the tenant's function; one that a frame needs
sets its direct request aside; a nonce block that has been recorded extends the limit by 2^20 and lets waiting requests go on; a node's
key that has been resolved does the same for its frames. The lanes are tested in rotation or on request; a lane under test takes no
request, a test that passes gives it back, except a lane that stage 3 has shed, and one that fails retires it, as a self-check that fails
during a request does. -/
def Obligations.CipherLanesServeAndAreTested : Prop :=
  (∀ s : State,
    (∀ (j : Fin 24) (wr : Bool) (r : CReq), s.laneRun j.val = some r →
      (s.outputWaits r = true → exec (.cipherLaneDone j wr) s = .next s.originate) ∧
      ∀ (t : Nat) (d src : List Nat), r.work = .direct t d src → s.outputWaits r = false →
        let u : State := { s with cph := { s.cph with lanes := s.cph.lanes.set j.val none } }
        exec (.cipherLaneDone j wr) s = .next (((((u.freeNat.2.bumpBy .cph 4 u.freeNat.1).maskBlocks j.val u.freeNat.1).directDone
          (Fin.ofNat 8 t) r d src wr).settleKeys).dispatch).originate) ∧
    (∀ (j : Fin 24) (r : CReq) (t : Nat) (d src : List Nat), s.laneRun j.val = some r → r.work = .direct t d src →
      (s.cph.wait.any fun x => (match x.work with | .direct .. => false | _ => true) && s.canStart x) = true → s.freeLane = none →
      exec (.directRequestSetAside j) s = .next (s.requeue j.val).dispatch) ∧
    (s.cph.reserving = true → exec .nonceReserveDone s = .next ((((({ s with
      cph := { s.cph with limit := (s.cph.limit / 2 ^ 20 + 1) * 2 ^ 20, reserving := false }
      nvm := { s.nvm with nonce := some (s.cph.limit / 2 ^ 20) } } : State).bump .nvm 0).bump .nvm 7)).dispatch)) ∧
    ∀ (h k : Nat) (readable : Bool), (s.net.frames.any fun f => decide (f.st = .key ∧ f.handle = h)) = true → s.privOk = true →
      s.handleSlot h = some k → exec (.nodeKeyResolved h readable) s = .next (((((s.net.frames.filter fun f =>
        decide (f.st = .key ∧ f.handle = h)).foldl (fun s f => s.keyFrame f) s).rxAgain).dispatch).originate)) ∧
  (∀ s : State,
    (∀ j, s.flag .cph F.CPH_TEST_AUTO = true → s.cph.test = none → ((List.range 26).map fun k => (s.cph.next + k) % 26).find? s.testable = some j →
      exec .cipherTestPeriod s = .next (({ s with cph := { s.cph with next := (j + 1) % 26 } } : State).startLaneTest j)) ∧
    (∀ q : Req, s.Takes q .cph 0x048 → q.val.getLsbD 30 = true →
      let u := applyWrite .cph 0x048 q.val (s.at_ .cph q.serial)
      u.fld .cph F.CPH_TEST_LANE < 26 → exec (.cipherTestStart q) s = .next (u.startLaneTest (u.fld .cph F.CPH_TEST_LANE))) ∧
    (∀ j, s.cph.test = some j → s.laneRun j = none →
      let u := ((({ s with cph := { s.cph with test := none } } : State).bump .cph 5)).event .cph 3
      exec (.cipherTestDone true) s =
        .next (((u.setLaneIn j (!(u.stageShed 3 && decide (12 ≤ j ∧ j < 24)))).keyRun).dispatch) ∧
      exec (.cipherTestDone false) s = .next ((((u.bump .cph 6).retireLane j).keyRun).dispatch)) ∧
    ∀ j : Fin 26, s.laneRetired j.val = false → (s.laneRun j.val).isSome = true → s.cph.test ≠ some j.val →
      exec (.cipherLaneFail j) s = .next (s.retireLane j.val).dispatch)

/-- The entropy source: a failed health test is a fault and clears HEALTHY, a reseed that then falls due halts the DRBG, three passes in a
row reseed and resume it; RESEED reseeds at once; a halted DRBG reads zero, and each read is counted. -/
def Obligations.TheEntropySourceIsTested : Prop :=
  ∀ s : State,
    (s.healthy = true → exec (.entropyHealthTest false) s =
      .next { (((s.fault .ent 2 0).setFlag .ent F.ENT_STAT_HEALTHY false).bump .ent 1).event .ent 2 with
        cph := { ((((s.fault .ent 2 0).setFlag .ent F.ENT_STAT_HEALTHY false).bump .ent 1).event .ent 2).cph with passes := 0 } } ∧
      exec (.entropyHealthTest true) s = .next s) ∧
    (s.healthy = false → s.halted = false → exec .drbgHalt s = .next s.drbgHalt) ∧
    (s.healthy = false →
      (s.cph.passes + 1 < 3 → exec (.entropyRetest true) s = .next { s with cph := { s.cph with passes := s.cph.passes + 1 } }) ∧
      (3 ≤ s.cph.passes + 1 → exec (.entropyRetest true) s = .next (((((({ s with cph := { s.cph with passes := 0 } } : State).setFlag .ent
        F.ENT_STAT_HEALTHY true).setFlag .ent F.ENT_STAT_HALTED false).setFlag .ent F.ENT_STAT_DEGRADED false).reseed).event .ent 1)) ∧
      exec (.entropyRetest false) s = .next (({ s with cph := { s.cph with passes := 0 } } : State).bump .ent 1)) ∧
    (∀ q : Req, s.Takes q .ent 0x04C → q.val.getLsbD 0 = true → s.halted = false →
      let u := applyWrite .ent 0x04C q.val (s.at_ .ent q.serial)
      exec (.reseedNow q) s = .next (if s.healthy then u.reseed else u.drbgHalt)) ∧
    ∀ q : RdReq, s.Gives q .ent 0x048 →
      let u := (s.at_ .ent q.serial).bump .ent 3
      (s.halted = true → exec (.entRandRead q) s = .next (u.emit (.readData (Page.ent.fn q.serial) 0 false))) ∧
      (s.halted = false → s.faulted .ent 1 = false →
        ∃ w, exec (.entRandRead q) s = .next (u.draw.2.emit (.readData (Page.ent.fn q.serial) w false)))

/-- A slot boundary ends the slot in progress and begins the next, whose start follows at once, or as the first of a superframe with its
own command, or not at all where the device goes to SLUMBER; a superframe boundary does the superframe's work first. A slot that begins
carries the number after the one that ends, modulo 2^44, at its start, and counts as one slot. -/
def Obligations.SlotsAndSuperframesFollow : Prop :=
  ((∀ (x : SlotIn) (s : State), s.running = true → s.line.sched.due = false →
    let u := (s.endIdle.slotEnd x).nextSlot x
    (u.pwr.slumberDue = false → u.slot % 64 ≠ 0 → exec (.slotBoundary x) s = .next (u.slotStart x.guard)) ∧
    (u.pwr.slumberDue = false → u.slot % 64 = 0 → exec (.slotBoundary x) s = .next (u.setSched { u.line.sched with due := true })) ∧
    (u.pwr.slumberDue = true → u.slot % 64 ≠ 0 → exec (.slotBoundary x) s =
      .next ((u.setSched { u.line.sched with due := false, sfN := u.line.sched.sfN }).enterSlumber))) ∧
  ∀ (x : SfIn) (s : State), s.running = true → s.line.sched.due = true → exec (.superframeBoundary x) s =
    .next (((s.setSched { s.line.sched with due := false, sfN := s.line.sched.sfN + 1 }).sfWork x).slotStart x.guard)) ∧
  (∀ (x : SlotIn) (s : State),
    (s.nextSlot x).slot = (s.slot + 1) % 2 ^ 44 ∧ (s.nextSlot x).ct % 2 ^ 20 = 0 ∧
    (s.nextSlot x).line.sched.slotN = s.line.sched.slotN + 1 ∧ (s.nextSlot x).pwr.rtc = (s.pwr.rtc + x.edges) % 2 ^ 48 ∧
    (s.nextSlot x).regs = s.regs)

/-- A beacon that does not hold, or whose root does not count, is rejected and counted; one that is the node's own is ignored; any other
is accepted, and waiting work goes on. Without a beacon for BCN_LOSS superframes a node is LOST, which two events tell, and waits for its
claim; at the end of the wait, where it may, it becomes provisional root with the next epoch. -/
def Obligations.BeaconsAndTheRootClaim : Prop :=
  (∀ (c : Fin 64) (x : BeaconIn) (cfg : List Word) (s : State), s.live c.val = some cfg → s.running = true →
    (s.beaconGood x = false → exec (.beaconRx c x) s = .next (s.bump .sch 2)) ∧
    (s.beaconGood x = true → s.beaconDo (Beacon.of x.bytes) = .reject → exec (.beaconRx c x) s = .next (s.bump .sch 2)) ∧
    (s.beaconGood x = true → s.beaconDo (Beacon.of x.bytes) = .ignore → exec (.beaconRx c x) s = .next s) ∧
    ∀ how, how ∈ [BeaconDo.first, .merge, .follow] → s.beaconGood x = true → s.beaconDo (Beacon.of x.bytes) = how →
      exec (.beaconRx c x) s = .next ((s.beaconIn c.val cfg x how).dispatch)) ∧
  (∀ s : State,
    (s.sync = true → s.isRoot = false → s.part ≠ ptLost → max 1 (s.fld .sch F.SCH_MODE_BCN_LOSS) ≤ s.line.sched.noBeacon →
      let u := ((s.event .sch 2).setPart ptLost).event .rly 4
      exec .syncLost s = .next { u with net := { u.net with claim := 2 * (255 - s.fld .sch F.SCH_MODE_ROOT_PRIO) + s.ownNode % 8 } }) ∧
    (s.part = ptLost → s.net.claim = 0 → s.flag .rly F.RLY_PART_CLAIM_EN = true →
      exec .claimWaitExpire s = .next (((s.beRoot ((s.epoch + 1) % 256) true).setPart ptProv).event .rly 5)))

/-- The sleeper's wakes and its account: the timer wakes the device in SLUMBER, a wake that is complete brings corridor time and the RTC
up to date, and an energy window that ends zeroes the account. A rendezvous without contact is a miss, and the sleeper sleeps again unless
it goes adrift; a stay ends into sleep; adrift, a listen of one superframe ends in a wait, and a wait in a listen, or in another wait
where the energy account is exhausted. -/
def Obligations.SleepersWakeMissStayAndDrift : Prop :=
  (∀ s : State,
    (s.pwr.mode = .slumber → s.slpState = slAsleep ∨ s.slpState = slWait → exec .sleepTimerWake s = .next (s.wake 0)) ∧
    exec .energyWindowEnd s = .next (s.setSlp { s.slp with energy := 0, overspent := false }) ∧
    ∀ slots frac edges, s.pwr.mode = .waking →
      let u := (s.slept slots frac).rtcAdd edges
      sfOf s.ct = sfOf u.ct → s.line.sched.due = false →
      let v := (((u.setSched { u.line.sched with due := false }).addEnergy
        (s.fld .slp F.SLP_POWER_P_SLUMBER * (s.ctSpan s.ct u.ct / 2 ^ 20))).wakeDone)
      let w := (List.range 16).foldl (fun s p => s.bindPort [] p)
        ((List.range 64).foldl (fun s c => ((s.chanStart c).chanStat c).slotJobs c) v)
      w.slpOn = false → exec (.wakeComplete slots frac edges) s = .next w) ∧
  (∀ s : State, s.slpOn = true → s.running = true →
    (s.slpState = slAwake → s.slpErr = false → s.slp.held = false → s.slp.rend.isSome = true →
      s.fld .slp F.SLP_NEXT_LO_SLOT + s.fld .slp F.SLP_NEXT_HI_SLOT * 2 ^ 32 ≤ s.slot →
      (s.slpMiss.adrift = true → exec .rendezvousMiss s = .next s.slpMiss) ∧
      (s.slpMiss.adrift = false → exec .rendezvousMiss s = .next ((s.slpMiss.setSlp { s.slpMiss.slp with held := true }).goSleep))) ∧
    (∀ idle sfs, s.slp.stay = some (idle, sfs) → s.slpState = slAwake → max 1 (s.fld .slp F.SLP_CFG_STAY) ≤ idle → s.toParent = false →
      exec .stayEnd s = .next ((s.setSlp { s.slp with back := false }).goSleep)) ∧
    (s.slpState = slListen → s.slp.left ≤ s.line.sched.sfN → exec .adriftListenEnd s = .next s.adriftWait) ∧
    (s.slpState = slWait → s.slp.left ≤ s.line.sched.sfN →
      exec .adriftWaitEnd s = .next (if s.overBudget then (s.bump .slp 3).adriftWait else s.slpListen)))

/-- WAKE frames and answers: a frame of the parent is a contact and is carried out by the sleeper it is for; a listed sleeper answers in
its window and sleeps on where nothing is left to do; the parent takes a level above the threshold as the answer, and its absence as a
miss. -/
def Obligations.WakeFramesAreAnswered : Prop :=
  ∀ s : State,
    (∀ (c : Fin 64) (src rx : Nat) (d : List Nat),
      let u := s.contact c.val src rx
      exec (.wakeRx c src rx d) s = .next (if u.wakeMine c.val src then u.wakeIn d else u)) ∧
    (∀ (k u : Nat) (cfg : List Word), s.slp.listed = some (k, false, u) → s.live s.slpChan = some cfg → s.slpOn = true → s.slpState = slAwake →
      s.slot = u → s.mayTx cfg = true → s.toParent = false → s.slp.stay = none →
      exec .answerBurst s = .next (((s.setSlp { s.slp with listed := none }).emit (.burst s.slpChan (2 * k) (s.delayCt s.slpChan s.slpParent))).goSleep)) ∧
    (∀ (c : Fin 64) (k : Fin 8) (alive up node i : Nat) (l : List (Nat × Nat × Bool)),
      s.slp.answers.find? (fun a => decide (a.1 = c.val ∧ a.2.1 = s.slot)) = some (c.val, s.slot, l) →
      l.find? (fun e => decide (e.1 = k.val)) = some (k.val, node, false) →
      let u := s.endWindow c.val s.slot k.val
      let th := match s.live c.val with
        | some cfg => cfgGet cfg F.CH_CONTEND_DET_TH
        | none => s.fld (.ch c) F.CH_CONTEND_DET_TH
      u.dirFind node = some i →
      (alive ≤ th → up ≤ th →
        exec (.answerWindowEnd c k alive up) s = .next (u.sleeperMiss i node)) ∧
      (th < alive → up ≤ th →
        exec (.answerWindowEnd c k alive up) s = .next ((u.reached i).bump .slp 5))) ∧
    ∀ q : Req, s.Takes q .slp 0x078 → q.val.getLsbD 0 = true → exec (.announceNow q) s = .next (s.at_ .slp q.serial).announce

/-- VIN that falls below a stage's threshold sheds that stage and every lower one that still stands; the stage's timer starts where VIN
rises above its rising threshold and is cleared where it does not; its expiry makes the restoration due. The power states: a complete
stage 5 journal keeps the slot, the epoch and the RTC and leads to STANDBY; IDLE is entered from RUN alone; a supply that is lost in
STANDBY leads to OFF; PD0's power returns everything outside MRAM to reset and leads to STANDBY. PWR_CMD: with GO, OP 0 asks for SLUMBER,
OP 1 enters STANDBY at once, and OP 2 is a wake source; an alarm that the RTC reaches is one too; a backup battery below 2.0 V is
announced. -/
def Obligations.StagesStatesAndPowerCommands : Prop :=
  (∀ (i : Fin 5) (vin : Nat) (s : State), s.pwr.mode ≠ .off →
    (vin < fallTh (i.val + 1) → s.pwr.journalling = false → exec (.shedStage i vin) s = .next (((List.range 5).foldl (fun u j =>
      if decide (j < i.val + 1) && !u.stageShed (j + 1) then u.shed (j + 1) else u) (s.setPwr { s.pwr with vin := vin })).healthyPin)) ∧
    ((s.stage (i.val + 1)).shed = true → (s.stage (i.val + 1)).timing = true →
      exec (.restoreTimerExpire i) s = .next ((s.setStage (i.val + 1) ⟨true, false, true⟩).restoreDue)) ∧
    (∀ j : Fin 6, j.val = i.val → (s.stage (i.val + 1)).shed = true →
      (riseTh (i.val + 1) ≤ vin → (s.stage (i.val + 1)).timing = false → (s.stage (i.val + 1)).due = false →
        exec (.vinRisingThreshold j vin) s = .next ((s.setPwr { s.pwr with vin := vin }).setStage (i.val + 1) ⟨true, true, false⟩)) ∧
      (vin < riseTh (i.val + 1) →
        exec (.vinRisingThreshold j vin) s = .next ((s.setPwr { s.pwr with vin := vin }).setStage (i.val + 1) ⟨true, false, false⟩))) ∧
    (riseTh 6 ≤ vin → exec (.vinRisingThreshold 5 vin) s = .next { s with pwr := { s.pwr with vin := vin, supply := false } })) ∧
  (∀ s : State,
    (s.pwr.journalling = true → exec .stage5JournalDone s =
      .next ((s.setPwr { s.pwr with journal := some ⟨s.slot % 2 ^ 44, s.epoch, s.pwr.rtc⟩ }).toStandby true)) ∧
    (s.pwr.mode = .run → s.pwr.journalling = false → s.pwr.slumberDue = false →
      exec .idleEnter s = .next { s with pwr := { s.pwr with mode := .idle } }) ∧
    (s.pwr.mode = .standby → exec .pd0SupplyLoss s = .next { s with pwr := { s.pwr with mode := .off, vin := 0, vbat := 0 } }) ∧
    (∀ vin vbat, s.pwr.mode = .off → ∃ t, exec (.aoPor vin vbat) s = .next t ∧ t.pwr.mode = .standby ∧ t.pwr.vin = vin ∧ t.pwr.vbat = vbat ∧
      (∀ r o, regKey r o ≠ regKey .pwr offStatus → t.reg r o = resetWord r o) ∧ t.mem = Mem.empty ∧ t.net = Net.reset ∧
      t.cph = Cipher.reset ∧ t.chip = s.chip ∧ t.pending = s.pending ∧
      t.nvm = { s.nvm with dramWkt := [], saving := none, applying := [], upd := Upd.idle }) ∧
    (∀ vin vbat, s.pwr.mode ≠ .off → s.pwr.supply = false → vin < 600 → ∃ t, exec (.supplyReset vin vbat) s = .next t ∧
      t.pwr.mode = (if 1600 ≤ vbat then .standby else .off) ∧ t.pwr.supply = true ∧ t.pwr.stages = List.replicate 5 ⟨true, false, false⟩ ∧
      t.mem = Mem.empty ∧ t.net = Net.reset ∧ (s.Wf → (t.reg .rst 0x044).getLsbD 2 = true))) ∧
  (∀ s : State,
    (∀ q : Req, s.Takes q .pwr 0x058 → F.PWR_CMD_GO.get q.val = 1 →
      let u := applyWrite .pwr 0x058 q.val (s.at_ .pwr q.serial)
      (F.PWR_CMD_OP.get q.val = 0 → exec (.pwrSlumber q) s = .next (u.slumberReq true)) ∧
      (F.PWR_CMD_OP.get q.val = 1 → u.running = true → u.pwr.journalling = false → exec (.pwrStandby q) s = .next (u.toStandby true)) ∧
      (F.PWR_CMD_OP.get q.val = 2 → u.dom 3 = .on → exec (.pwrWake q) s = .next (u.wake 6))) ∧
    (s.pwr.mode ≠ .off → s.pwr.alarm ≠ 0 →
      exec .alarmMatch s = .next ((s.setPwr { s.pwr with rtc := max s.pwr.rtc s.pwr.alarm }).wake 1)) ∧
    (∀ vbat, s.pwr.mode ≠ .off → s.pwr.supply = false → vbat < 2000 →
      exec (.vbatLow vbat) s = .next ((s.setPwr { s.pwr with vbat := vbat }).event .pwr 3)))

/-- RST_CMD with GO resets the device on the key 0xA5 alone, with the cause MANAGER, and is ignored without violation on any other; the
reset leaves the device in reset with everything outside PD0, MRAM and the pins at its reset values. The fatal faults: each sets its fault
and counts, is noted for a trial, lets HEALTHY fall and begins a device reset with its own cause; the thermal shutdown holds the reset
until its release. -/
def Obligations.DeviceResetsAndFatalFaults : Prop :=
  (∀ (q : Req) (s : State), s.Wf → s.Takes q .rst 0x040 →
    (F.RST_CMD_KEY.get q.val ≠ 0xA5 → exec (.deviceReset q) s = .next (applyWrite .rst 0x040 q.val (s.at_ .rst q.serial))) ∧
    (F.RST_CMD_GO.get q.val = 1 → F.RST_CMD_KEY.get q.val = 0xA5 → ∃ t, exec (.deviceReset q) s = .next t ∧ t.pwr.mode = .reset ∧
      (t.reg .rst 0x044).getLsbD 4 = true ∧
      (∀ r o, aoKey (regKey r o) = false → regKey r o ≠ regKey .hlt offFault → regKey r o ≠ regKey .hlt offFaultInfo → t.reg r o = resetWord r o) ∧
      t.mem = Mem.empty ∧ t.net = Net.reset ∧ t.line = Line.reset ∧ t.cph = Cipher.reset ∧ t.slp = Sleep.reset ∧ t.gather = Gather.empty ∧
      t.chip = s.chip ∧ t.nvm.slots = s.nvm.slots ∧ t.nvm.settings = s.nvm.settings ∧ t.pwr.rtc = s.pwr.rtc)) ∧
  (∀ s : State, s.awake = true →
    exec (.fatalFault .lockstep) s = .next ((((s.fault .hlt 2 0).bump .rst 4).trialFatal).fatalEnd 6) ∧
    exec (.fatalFault .sram) s = .next ((((s.fault .hlt 2 0).bump .rst 4).trialFatal).fatalEnd 6) ∧
    (∀ p, noOnlineTest p = true → exec (.fatalFault (.internal p)) s =
      .next (((((s.fault p 1 0).fault .hlt 6 ((eventGroup p).getD 0)).bump .rst 4).trialFatal).fatalEnd 6)) ∧
    exec .watchdogExpire s = .next ((((s.fault .hlt 3 0).bump .rst 3).trialFatal).fatalEnd 5) ∧
    (∀ rail : Fin 3, exec (.railFault rail) s = .next ((((s.fault .pwr 3 rail.val).bump .rst 4).trialFatal).fatalEnd 6)) ∧
    ∀ u : State, 1200 ≤ u.pwr.thm.max → u.pwr.thm.hold = false → u.pwr.mode ≠ .standby → u.pwr.mode ≠ .off →
      ∃ t, exec .thermalShutdown u = .next t ∧ t.pwr.thm.hold = true ∧ t.pwr.mode = .reset)

/-- RESET_N: the pin's reset returns every register but the causes, the RST counters and the HLT faults to its reset value, and is
recorded and counted. -/
def Obligations.ThePinResetReachesPd0 : Prop :=
  ∀ s : State, s.Wf → s.pwr.mode ≠ .off → ∃ t, exec .pinReset s = .next t ∧
    t.pwr.mode = (if s.pwr.mode = .standby ∧ s.stageShed 5 = true then .standby else .reset) ∧
    (∀ r o, pinKey (regKey r o) = false → regKey r o ≠ regKey .pwr offStatus → regKey r o ≠ regKey .thm offStatus → t.reg r o = resetWord r o) ∧
    (t.reg .rst 0x044).getLsbD 3 = true ∧
    t.counter .rst 1 = (if s.cntEn .rst 1 then (s.counter .rst 1 + 1) % 2 ^ 48 else s.counter .rst 1) ∧
    t.pwr.alarm = 0 ∧ t.mem = Mem.empty ∧ t.chip = s.chip

/-- Clocks that are lost and come back: the loss of REFCLK or of SYSPLL's lock resets the device with the cause CLOCK; the converters' PLL
stops ports and sampling, the DRAM's takes DRAM out of service; XTAL32's failure is a fault, and its return an event. A training of DRAM
that ends well makes DRAM trained with the size it found, and one that does not is a fault of PWR, and of DIR where F8 is accepted. -/
def Obligations.ClocksAndDramAreWatched : Prop :=
  (∀ s : State,
    (s.pwr.mode ≠ .off → s.pwr.clk.xtal32 = true → s.pwr.mode ≠ .slumber → exec .xtal32Fail s =
      .next ((((s.setClk { s.pwr.clk with xtal32 := false }).fault .clk 3 0).event .clk 4).bump .clk 1)) ∧
    (s.pwr.mode ≠ .off → s.pwr.clk.xtal32 = false →
      exec .xtal32Restore s = .next ((s.setClk { s.pwr.clk with xtal32 := true }).event .clk 3)) ∧
    (s.running = true → exec (.refclkLoss true) s = .next (s.lockLost.devReset 8) ∧
      exec (.refclkLoss false) s = .next (((s.setClk { s.pwr.clk with refclk := false }).event .clk 1).devReset 8)) ∧
    (s.running = true → s.pwr.clk.cnvLock = true → exec .cnvpllUnlock s = .next ((((List.finRange 8).foldl (fun s m => s.monSilent m)
      ((s.setClk { s.pwr.clk with cnvLock := false }).lockLost)).endAllRx).portsRemove)) ∧
    (s.running = true → exec .cnvpllRelock s = .next (s.setClk { s.pwr.clk with cnvLock := true })) ∧
    (s.pwr.clk.drmLock = true → let u := (s.setClk { s.pwr.clk with drmLock := false }).lockLost
      exec .drampllUnlock s = .next (u.setDram { u.pwr.dram with trained := false })) ∧
    (s.running = true → s.dom 5 = .on → exec .drampllRelock s = .next (s.setClk { s.pwr.clk with drmLock := true }))) ∧
  (∀ (mib : Nat) (s : State), s.devLocked = true → s.feat 8 = true ∨ s.feat 18 = true → s.running = true → s.dom 5 = .on → s.stageShed 3 = false →
    s.pwr.dram.trained = false → s.pwr.clk.drmLock = true →
    let u := (s.setDram { s.pwr.dram with trainFail := true }).fault .pwr 4 0
    (s.chip.dramMib ≠ 0 → exec (.dramTrainDone true mib) s =
      .next (s.setDram { s.pwr.dram with trained := true, trainFail := false, sizeMib := mib % 2 ^ 13 })) ∧
    exec (.dramTrainDone false mib) s = .next (if u.feat 8 then u.fault .dir 2 0 else u))

/-- A temperature sample sets MAX to the highest sensor that is not excluded and raises PEAK to it; the warning comes at 140 °C and goes
after MAX has been below 135 °C, with their events; a shutdown's hold is released below 130 °C. -/
def Obligations.TemperaturesAreWatched : Prop :=
  ∀ s : State,
    (∀ (l : List Int) (drv : Int) (h : Nat), s.pwr.mode ≠ .standby → s.pwr.mode ≠ .off → hottest l (excludedSensors l) = some h →
      ∃ t, exec (.thermalSample l drv) s = .next t ∧ t.pwr.thm.max = l.getD h 0 ∧ t.pwr.thm.hot = h ∧ t.pwr.thm.sensors = l ∧
        t.pwr.thm.excluded = excludedSensors l ∧ t.pwr.thm.drvMax = drv ∧ t.pwr.thm.warn = (s.pwr.thm.warn || decide (1120 ≤ l.getD h 0)) ∧
        (s.Wf → (signed 16 (s.fld .thm F.THM_TEMP_PEAK) < l.getD h 0 → t.fld .thm F.THM_TEMP_PEAK = satSigned 16 (l.getD h 0)) ∧
          (l.getD h 0 ≤ signed 16 (s.fld .thm F.THM_TEMP_PEAK) → t.fld .thm F.THM_TEMP_PEAK = s.fld .thm F.THM_TEMP_PEAK) ∧
          (s.pwr.thm.warn = false → 1120 ≤ l.getD h 0 → (t.reg .thm offEvent).getLsbD 3 = true))) ∧
    (s.pwr.thm.warn = true → s.pwr.thm.clearing = true → exec .thermalWarnClear s =
      .next (((s.setThm { s.pwr.thm with warn := false, clearing := false }).setStatus .thm 16 false).event .thm 2)) ∧
    (s.pwr.thm.hold = true → s.pwr.thm.max < 1040 → exec .thermalRelease s =
      .next { s with pwr := { s.pwr with thm := { s.pwr.thm with hold := false } } })

/-- A boot begins where it may, with the rollback of an open commit, the choice of the image, the keys, and the tests in their order; it
ends in RUN with BOOT_DONE, its length and its event, and restorations that fell due take effect. RST_BOOTCFG: AUTO is kept in MRAM; SAVE,
with the features locked, and ERASE begin a commit that SAVE_DONE completes; the newest record is applied after a boot, once, while AUTO
is set. -/
def Obligations.BootsBeginEndAndApplyRecords : Prop :=
  (∀ s : State,
    (∀ r : BootIn, s.bootReady = true → r.sigBad = false → exec (.bootStart r) s =
      .next ((((((s.bootBegin.journalRollback).imageChoice).restoreKeys r).resumeNonce).testCipher r).testStations r)) ∧
    ∀ us, s.pwr.mode = .booting →
      let u := (s.setPwr { s.pwr with mode := .run, dram := { s.pwr.dram with selfRefresh := s.stageShed 3 } }).allDoms
      let v := u.setPwr { u.pwr with clk := { u.pwr.clk with drmLock := decide (u.dom 5 = .on), twnLock := decide (u.dom 4 = .on) } }
      exec (.bootDone us) s = .next ((((((v.setFlag .rst F.RST_STAT_BOOT_DONE true).setFld .rst F.RST_STAT_BOOT_US
        (min 65535 (us / 10))).event .rst 1)).restoreDue).healthyPin)) ∧
  (∀ s : State,
    (∀ q : Req, s.Takes q .rst 0x04C → s.nvm.saving = none →
      let a := s.at_ .rst q.serial
      let u := a.setNvm { a.nvm with autoRest := F.RST_BOOTCFG_AUTO.get q.val = 1 }
      (F.RST_BOOTCFG_SAVE.get q.val = 1 → s.devLocked = true →
        exec (.bootSave q) s = .next (u.setNvm { u.nvm with saving := some (some u.bootRecord), open_ := true })) ∧
      (F.RST_BOOTCFG_SAVE.get q.val = 0 → F.RST_BOOTCFG_ERASE.get q.val = 1 →
        exec (.bootErase q) s = .next (u.setNvm { u.nvm with saving := some none, open_ := true }))) ∧
    (∀ r, s.nvm.saving = some r → exec .bootSaveDone s = .next (((s.setNvm { s.nvm with
      boot := (match r with | some x => (x :: s.nvm.boot).take 2 | none => []), saving := none, open_ := false }).nvmRows).event .rst 3)) ∧
    ∀ r l, s.nvm.boot = r :: l → s.bootDone = true → s.running = true → s.nvm.autoRest = true → s.nvm.applying = [] →
      s.flag .rst F.RST_STAT_BOOT_RECORD_APPLIED = false → s.flag .rst F.RST_STAT_BOOT_RECORD_FAIL = false →
      exec .bootRecordApply s = .next (s.applyRun r.steps))

/-- UPD_CMD with GO, while neither a check nor a pause is in progress: BEGIN opens a transfer, unless the slot runs or is the fallback of
a trial; VERIFY begins its check; ABORT ends the transfer; REVOKE blows the entry's fuse where another usable entry is left. UPD_CMD with
GO: ACTIVATE of a verified image that the running one can hand over to, and ROLLBACK of a trial, set the pause for the second slot from
now; COMMIT of a trial whose migration is complete ends the trial, raises the floor and is announced. -/
def Obligations.UpdatesAreTransferredAndActivated : Prop :=
  (∀ (q : Req) (s : State), s.Takes q .upd 0x040 → q.val.getLsbD 31 = true →
    let u := applyWrite .upd 0x040 q.val (s.at_ .upd q.serial)
    u.updBusy = false →
    (F.UPD_CMD_OP.get q.val = 0 → u.runsSlot u.argUpd = false → u.isPrevious u.argUpd = false → ∃ t, exec (.updBegin q) s = .next t ∧
      t.nvm.upd.load = some u.argUpd ∧ t.nvm.upd.fill = 0 ∧ t.nvm.upd.staged = [] ∧ t.nvm.slots2 = s.nvm.slots2.set u.argUpd ⟨false, false⟩ ∧
      t.nvm.img = s.nvm.img ∧ (s.Wf → t.fld .upd F.UPD_OFFSET_OFFSET = 0 ∧ t.fld .upd F.UPD_STAT_STATUS = 0)) ∧
    (F.UPD_CMD_OP.get q.val = 0 → u.runsSlot u.argUpd = true ∨ u.isPrevious u.argUpd = true →
      exec (.updBegin q) s = .next (u.updStatus 2)) ∧
    (F.UPD_CMD_OP.get q.val = 1 →
      exec (.verifyImage q) s = .next { u with nvm := { u.nvm with upd := { u.nvm.upd with verify := some u.argUpd } } }) ∧
    (F.UPD_CMD_OP.get q.val = 5 →
      exec (.updAbort q) s = .next ((u.setUpd { u.nvm.upd with load := none, staged := [] }).updStatus 0)) ∧
    (F.UPD_CMD_OP.get q.val = 6 →
      let e := u.fld .upd F.UPD_ARG_KEY
      (s.nvm.recovery = false → u.imgKey u.nvm.running ≠ e) → (u.inTrial = true → u.imgKey u.nvm.act.prev ≠ e) →
      ((List.range 4).any fun i => decide (i ≠ e) && bitOf s.chip.fused i && !bitOf s.chip.revoked i) = true →
      exec (.updRevoke q) s = .next (({ u with chip := { u.chip with revoked := setBitOf u.chip.revoked e true } } : State).updStatus 0))) ∧
  (∀ (q : Req) (s : State), s.Takes q .upd 0x040 → q.val.getLsbD 31 = true →
    let u := applyWrite .upd 0x040 q.val (s.at_ .upd q.serial)
    let k := u.argUpd
    let r := u.nvm.running
    let pause := fun (target : Nat) (back : Bool) => (((u.setUpd { u.nvm.upd with pause := some ⟨u.slot + 2, target, back, false, false, false⟩ }).setFld
      .upd F.UPD_PAUSE_SLOT_LO_SLOT (u.slot + 2)).setFld .upd F.UPD_PAUSE_SLOT_HI_SLOT ((u.slot + 2) / 2 ^ 32)).updStatus 0
    u.updBusy = false →
    (F.UPD_CMD_OP.get q.val = 2 → u.runsSlot k = false → u.verified k = true → u.inTrial = false → u.shedTop < 2 →
      u.flag .twn F.TWN_CMD_BUSY = false → s.nvm.recovery = false → u.imgHoMin k ≤ u.imgHoVer r → u.imgHoVer r ≤ u.imgHoVer k →
      (u.currentRecs.any fun x => decide (u.imgSetVer k < x.2.1)) = false → exec (.updActivate q) s = .next (pause k false)) ∧
    (F.UPD_CMD_OP.get q.val = 4 → u.inTrial = true → exec (.updRollback q) s = .next (pause u.nvm.act.prev true)) ∧
    (F.UPD_CMD_OP.get q.val = 3 → u.inTrial = true → s.nvm.upd.migr = false → ∃ t, exec (.updCommit q) s = .next t ∧
      t.nvm.act = { s.nvm.act with trial := false } ∧ t.nvm.floor = max s.nvm.floor (u.imgSecVer s.nvm.act.target) ∧
      t.nvm.slots2 = s.nvm.slots2.set s.nvm.act.prev ⟨false, false⟩ ∧ t.nvm.img = s.nvm.img ∧
      (s.Wf → (t.reg .upd offEvent).getLsbD 3 = true ∧ t.fld .upd F.UPD_STAT_STATUS = 0)) ∧
    (F.UPD_CMD_OP.get q.val = 3 → u.inTrial = false → exec (.updCommit q) s = .next (u.updStatus 15)))

/-- UPD_DATA stages a word at the offset, which advances by four, or is lost with OVERRUN; UPD_OFFSET takes a multiple of 32 that is not
above the offset; a complete staged row is written to its slot, and its bytes, no others, change. A check that completes reports its
outcome, counts it, and is announced; an image that passes is verified and locked; the restart that ends an activation takes in what has
waited; a migration that is complete is shown and announced. The array: NVM_RD_ADDR reads a row and is counted and announced; the scrubber
reads row after row; the log is compacted when its space falls below 64 KiB, and its new space is shown when that ends. -/
def Obligations.ImagesAndTheArray : Prop :=
  (∀ (q : Req) (s : State),
    let a := s.at_ .upd q.serial
    let o := s.fld .upd F.UPD_OFFSET_OFFSET
    (s.Takes q .upd 0x04C → s.nvm.upd.load.isSome = true → o < 0x600000 → a.updRoom ≠ 0 → exec (.updDataWrite q) s =
      .next ((a.setUpd { a.nvm.upd with staged := a.nvm.upd.staged ++ [(o, q.val)], fill := max a.nvm.upd.fill (o + 4) }).setFld .upd
        F.UPD_OFFSET_OFFSET (o + 4))) ∧
    (s.Takes q .upd 0x04C → s.nvm.upd.load = none →
      exec (.updDataWrite q) s = .next ((a.setFlag .upd F.UPD_STAT_OVERRUN true).event .upd 1)) ∧
    (s.Takes q .upd 0x048 → F.UPD_OFFSET_OFFSET.get q.val % 32 = 0 → F.UPD_OFFSET_OFFSET.get q.val ≤ o → exec (.updOffsetWrite q) s =
      .next ((a.setUpd { a.nvm.upd with staged := a.nvm.upd.staged.filter fun e => decide (o % 32 = 0 ∨ e.1 / 32 ≠ o / 32) }).setFld .upd
        F.UPD_OFFSET_OFFSET (F.UPD_OFFSET_OFFSET.get q.val))) ∧
    (s.Takes q .upd 0x048 → F.UPD_OFFSET_OFFSET.get q.val % 32 ≠ 0 ∨ o < F.UPD_OFFSET_OFFSET.get q.val →
      exec (.updOffsetWrite q) s = .next a) ∧
    ∀ (waits k : Nat), s.nvm.upd.load = some k → 8 ≤ s.nvm.upd.staged.length → ∃ t, exec (.stagingRowWrite waits) s = .next t ∧
      t.nvm.upd = { s.nvm.upd with staged := s.nvm.upd.staged.drop 8 } ∧
      t.nvm.img = (s.nvm.upd.staged.take 8).foldl (fun m e => storePut 0 m (k * 0x180000 + e.1 / 4) e.2) s.nvm.img ∧
      (∀ r x, x < 0x1000 → r ≠ .nvm → t.reg r x = s.reg r x)) ∧
  (∀ s : State,
    (∀ k, s.nvm.upd.verify = some k → s.nvm.upd.staged.length < 8 →
      let code := s.checkSlot k (if s.nvm.upd.load = some k then s.nvm.upd.fill - 4096 else 6287360)
      let u := ((s.setUpd { s.nvm.upd with verify := none }).countCheck code).updStatus code
      let w := u.setImgSlot k ⟨true, true⟩
      exec .verifyDone s = .next (if code ≠ 0 then u.event .upd 6 else if s.nvm.upd.load = some k then
        (w.setUpd { w.nvm.upd with load := none, staged := [] }).event .upd 6 else w.event .upd 6)) ∧
    (∀ p, s.nvm.upd.pause = some p → p.begun = true → p.done = false → exec .activationRestartDone s =
      .next ((((s.nvm.upd.kept.foldl (fun u r => u.macFrame r.1 r.2) (s.setUpd { s.nvm.upd with
        pause := some { p with done := true }, kept := [] })).twinAnew.dispatch).originate).issueFetch)) ∧
    (s.inTrial = true → s.nvm.upd.migr = true → ∃ t, exec .migrationDone s = .next t ∧ t.nvm.upd = { s.nvm.upd with migr := false } ∧
      t.nvm.settings = (s.currentRecs.filter fun r => decide (r.2.1 < s.imgSetVer s.nvm.running)).map (fun r =>
        (r.1, s.imgSetVer s.nvm.running, s.nvm.act.gen)) ++ s.nvm.settings ∧
      (s.Wf → (t.reg .upd offEvent).getLsbD 4 = true ∧ t.fld .upd F.UPD_TRIAL_PROGRESS = 1000))) ∧
  (∀ s : State,
    (∀ (q : Req), s.Takes q .nvm 0x044 →
      let u := applyWrite .nvm 0x044 q.val (s.at_ .nvm q.serial)
      let r := u.fld .nvm F.NVM_RD_ADDR_ROW
      s.nvm.bad.contains r = false → s.Wf → ∃ t, exec (.nvmRowRead q 0) s = .next t ∧ (t.reg .nvm offEvent).getLsbD 1 = true ∧
        t.reg .nvm 0x048 = BitVec.ofNat 32 (2 ^ 31 + if 0xC00000 ≤ 32 * r ∧ 32 * r < 0xC84000 then 2 ^ 30 else 0) ∧
        t.nvm = s.nvm ∧ t.counter .nvm 2 = (if s.cntEn .nvm 2 then (s.counter .nvm 2 + 1) % 2 ^ 48 else s.counter .nvm 2)) ∧
    (s.running = true → s.nvm.bad.contains (s.fld .nvm F.NVM_SCRUB_NEXT_ROW) = false → s.fld .nvm F.NVM_SCRUB_NEXT_ROW < 524287 → ∀ waits,
      exec (.scrubRow 0 waits) s = .next (s.setFld .nvm F.NVM_SCRUB_NEXT_ROW (s.fld .nvm F.NVM_SCRUB_NEXT_ROW + 1))) ∧
    (∀ free recs, s.running = true → s.nvm.compact = false → free < 64 → exec (.logCompact free recs) s = .next ((s.setNvm { s.nvm with
      settings := (recs.map fun r => (r.1, r.2, if s.inTrial then s.nvm.act.gen else 0)) ++ s.nvm.settings
      logFree := free, compact := true }).event .nvm 2)) ∧
    (∀ free, s.nvm.compact = true → exec (.compacted free) s =
      .next ((((s.setNvm { s.nvm with logFree := min 1392 free, compact := false }).nvmRows).bump .nvm 6).event .nvm 3)))

/-- The election and the heartbeats of a pair: who wins goes on alone and who does not joins; one is sent while a lane is up and counted;
what comes in is noted, and leads a pair together, or apart where the partner joins or is isolated. What a device of a pair does when its
partner falls silent or PEER_OK falls, a lane fails, or a copy is complete. Mirror records are applied in their order and acknowledged,
one that is lost starts the copy anew, and what an acknowledgement covers goes on; SWAP and RESYNC of TWN_CMD begin where the roles allow
them. -/
def Obligations.ThePairElectsJoinsAndMirrors : Prop :=
  (∀ s : State,
    (∀ high, s.twn.listen = true →
      let u := s.setTwn { s.twn with listen := false, elected := true, peerOk := high }
      (s.twn.hbOk = false → exec (.twinElection high) s =
        .next (if high then (u.role twSevered (some 4)).event .twn 4 else u.role twAlone (some 4))) ∧
      ∀ b, s.twn.hbOk = true → s.twn.beat = some b →
        let win := if s.flag .twn F.TWN_CFG_PRIMARY_PREF != b.pref then s.flag .twn F.TWN_CFG_PRIMARY_PREF else decide (s.chip.devId < b.devId)
        exec (.twinElection high) s = .next (if b.serving || !win then u.join (some 4) else u.role twAlone (some 4))) ∧
    (∀ high (lanes : Fin 4), s.twnOn = true → s.running = true → s.isolated .twn = false → lanes.val ≠ 0 →
      let u := s.setTwn { s.twn with peerOk := s.twn.peerOk || high, lanes := lanes.val }
      exec (.heartbeatTx high lanes 0) s = .next (((u.bumpBy .twn 6 0).emit (.heartbeat (u.bumpBy .twn 6 0).ownBeat)).bump .twn 0)) ∧
    ∀ (lane : Fin 2) (b : Beat), s.twnOn = true → s.isolated .twn = false → s.running = true → s.twn.listen = false →
      let u := s.noteBeat lane.val b
      (s.twState = twAlone → b.state = twStandby → s.twn.elected = true →
        exec (.heartbeatRx lane b) s = .next ((u.setFlag .twn F.TWN_CMD_BUSY false).role twPrimary none)) ∧
      (s.twState = twPrimary → b.state = twJoining ∨ b.iso = true → exec (.heartbeatRx lane b) s = .next (u.goAlone none)) ∧
      (s.twState = twSevered → exec (.heartbeatRx lane b) s = .next (u.join none)) ∧
      (s.twState = twJoining → b.serving = true → exec (.heartbeatRx lane b) s = .next (u.followBeat b))) ∧
  (∀ s : State, s.twnOn = true → s.isolated .twn = false →
    (s.twn.hbOk = true → s.twn.listen = false → (∀ b, s.twn.beat = some b → b.iso = false) →
      let u := ((s.setTwn { s.twn with hbOk := false }).bump .twn 1).noSwap
      (s.twState = twPrimary → s.twn.peerOk = true → exec .heartbeatLoss s = .next (u.setTwn { u.twn with sever := true })) ∧
      (s.twState = twStandby → s.twn.take = none →
        exec .heartbeatLoss s = .next (u.setTwn { u.twn with take := some (1, s.ct + s.nsToCt 500000) }))) ∧
    (s.running = true → s.twn.listen = false →
      let u := (s.setTwn { s.twn with peerOk := false }).noSwap
      (s.twState = twPrimary → exec .peerOkFall s = .next (u.goAlone (some 2))) ∧
      (s.twState = twJoining → exec .peerOkFall s = .next u.partialAlone) ∧
      (s.twState = twStandby → exec .peerOkFall s = .next (u.setTwn { u.twn with take := some (2, 0) }))) ∧
    (∀ lane : Fin 2, bitOf s.twn.lanes lane.val = true →
      let left := setBitOf s.twn.lanes lane.val false
      let u := ((s.setTwn { s.twn with lanes := left }).fault .twn 2 lane.val).event .twn 1
      exec (.twinLaneFail lane) s = .next (if left = 0 then u.fault .twn 3 0 else u)) ∧
    ∀ b, s.twState = twJoining → s.twn.hbOk = true → s.twn.beat = some b → b.serving = true → (s.protoWith b.proto).isSome = true →
      exec .bulkCopyDone s = .next ((((s.setFld .twn F.TWN_SYNC_PROGRESS 1000).setFlag .twn F.TWN_CMD_BUSY false).role twStandby none).event
        .twn 3)) ∧
  (∀ s : State, s.twnOn = true →
    (∀ (seq progress : Nat) (m : Mirror), s.isolated .twn = false → s.running = true → s.twState = twStandby → seq = s.twn.rxSeq + 1 →
      exec (.mirrorRecordRx seq progress m) s =
        .next ((((s.setTwn { s.twn with rxSeq := seq }).mirrorIn m).bump .twn 5).emit (.mirrorAck seq))) ∧
    (∀ (seq progress : Nat) (m : Mirror), s.twState = twStandby → seq ≠ s.twn.rxSeq + 1 →
      exec (.mirrorRecordRx seq progress m) s = .next s) ∧
    (s.twState = twStandby → exec .mirrorRecordLost s = .next (s.join none)) ∧
    (∀ seq, s.isolated .twn = false → s.twState = twPrimary →
      let l := s.twn.await.filter fun a => decide (a.1 ≤ seq)
      exec (.mirrorAckRx seq) s = .next ((s.setTwn { s.twn with
        await := s.twn.await.filter (fun a => decide (seq < a.1)), lag := s.twn.lag ++ l.map fun a => s.tenths a.2.1 }).resumeList l)) ∧
    ∀ q : Req, s.Takes q .twn 0x048 → q.val.getLsbD 31 = true →
      let u := applyWrite .twn 0x048 q.val (s.at_ .twn q.serial)
      (F.TWN_CMD_OP.get q.val = 0 → exec (.twinSwap q) s = .next u.startSwap) ∧
      (F.TWN_CMD_OP.get q.val = 1 → exec (.twinResync q) s = .next u.startResync))

/-- A failing row is repaired with a spare, whose number falls, or its words read poisoned where none is left; the scrubs count what they
correct; FORCE_LOW holds HEALTHY low. -/
def Obligations.StoresAreTestedAndScrubbed : Prop :=
  ∀ s : State,
    (∀ sbuf words, s.dom 10 = .on → exec (.rowMarchTest sbuf true words) s = .next (s.rowRepair sbuf words)) ∧
    (∀ n, s.running = true → exec (.sramScrub n) s = .next (s.bumpBy .hlt 0 n)) ∧
    (∀ n bad, s.running = true → s.pwr.dram.trained = true →
      let u := s.bumpBy .hlt 6 n
      let v : State := { u with mem := { u.mem with dirBad := u.mem.dirBad ++ bad.filter fun w => !u.mem.dirBad.contains w } }
      exec (.dramScrub n bad) s = .next (if bad = [] then v else v.scrubUncorr bad.length)) ∧
    ∀ q : Req, s.Takes q .hlt 0x044 →
      exec (.forceLowWrite q) s = .next (applyWrite .hlt 0x044 q.val (s.at_ .hlt q.serial)).healthyPin
end

