-- ==== Sys2Proof/Laws/Fields.lean ====
section
/-! SUPPORT. The laws of register fields: a field reads what was put into it, and putting one field leaves every other alone. -/

set_option Elab.async false

namespace Sys2Proof.Machine

theorem onesAt_bit (lo w i : Nat) : (onesAt lo w).getLsbD i = (decide (i < 32) && (decide (lo ≤ i) && decide (i - lo < w))) := by
  simp [onesAt, BitVec.getLsbD_ofNat, Nat.testBit_mul_two_pow, Nat.testBit_two_pow_sub_one]

theorem place_bit (f : Fld) (v i : Nat) :
    (f.place v).getLsbD i = (decide (i < 32) && (decide (f.lo ≤ i) && (decide (i - f.lo < f.w) && v.testBit (i - f.lo)))) := by
  simp [Fld.place, BitVec.getLsbD_ofNat, Nat.testBit_mul_two_pow, Nat.testBit_mod_two_pow]

/-- The bits of a word after a field has been replaced. -/
theorem put_bit (f : Fld) (v : Nat) (x : Word) {i : Nat} (hi : i < 32) :
    (f.put v x).getLsbD i =
      if f.lo ≤ i ∧ i - f.lo < f.w then v.testBit (i - f.lo) else x.getLsbD i := by
  simp only [Fld.put, Fld.mask, BitVec.getLsbD_or, BitVec.getLsbD_and, BitVec.getLsbD_not, onesAt_bit, place_bit, hi]
  by_cases h1 : f.lo ≤ i <;> by_cases h2 : i - f.lo < f.w <;> simp [h1, h2]

theorem get_bit (f : Fld) (x : Word) (i : Nat) : (f.get x).testBit i = (decide (i < f.w) && x.getLsbD (f.lo + i)) := by
  simp [Fld.get, Nat.testBit_mod_two_pow, Nat.testBit_div_two_pow, BitVec.getLsbD, Nat.add_comm]

/-- A field reads the value put into it, wrapped at its width. -/
theorem get_put_same (f : Fld) (v : Nat) (x : Word) (h : f.lo + f.w ≤ 32) : f.get (f.put v x) = v % 2 ^ f.w := by
  apply Nat.eq_of_testBit_eq
  intro i
  rw [get_bit, Nat.testBit_mod_two_pow]
  by_cases hi : i < f.w
  · rw [put_bit f v x (by omega)]
    simp [hi]
  · simp [hi]

/-- Replacing a field leaves a field of other bits alone. -/
theorem get_put_other (f g : Fld) (v : Nat) (x : Word) (hg : g.lo + g.w ≤ 32)
    (h : f.lo + f.w ≤ g.lo ∨ g.lo + g.w ≤ f.lo) : g.get (f.put v x) = g.get x := by
  apply Nat.eq_of_testBit_eq
  intro i
  rw [get_bit, get_bit]
  by_cases hi : i < g.w
  · rw [put_bit f v x (by omega), if_neg (by omega)]
  · simp [hi]

/-- Replacing a field leaves a bit outside it alone. -/
theorem put_bit_other (f : Fld) (v : Nat) (x : Word) {i : Nat} (hi : i < 32) (h : i < f.lo ∨ f.lo + f.w ≤ i) :
    (f.put v x).getLsbD i = x.getLsbD i := by
  rw [put_bit f v x hi, if_neg (by omega)]

end Sys2Proof.Machine
end

