-- ==== Sys2Proof/Laws/State.lean ====
section
/-! SUPPORT. What each named update of the state leaves alone: one lemma for each field of each update. -/

set_option Elab.async false

namespace Sys2Proof.Machine

variable (s : State)

@[simp] theorem State.setReg_pending (p : Page) (off : Nat) (w : Word) : (s.setReg p off w).pending = s.pending := (rfl)
@[simp] theorem State.setReg_out (p : Page) (off : Nat) (w : Word) : (s.setReg p off w).out = s.out := (rfl)
@[simp] theorem State.setReg_fresh (p : Page) (off : Nat) (w : Word) : (s.setReg p off w).fresh = s.fresh := (rfl)
@[simp] theorem State.setReg_chip (p : Page) (off : Nat) (w : Word) : (s.setReg p off w).chip = s.chip := (rfl)
@[simp] theorem State.setReg_latches (p : Page) (off : Nat) (w : Word) : (s.setReg p off w).latches = s.latches := (rfl)
@[simp] theorem State.setReg_violArmed (p : Page) (off : Nat) (w : Word) : (s.setReg p off w).violArmed = s.violArmed := (rfl)
@[simp] theorem State.setReg_softReset (p : Page) (off : Nat) (w : Word) : (s.setReg p off w).softReset = s.softReset := (rfl)
@[simp] theorem State.setReg_isoTests (p : Page) (off : Nat) (w : Word) : (s.setReg p off w).isoTests = s.isoTests := (rfl)
@[simp] theorem State.setReg_fns (p : Page) (off : Nat) (w : Word) : (s.setReg p off w).fns = s.fns := (rfl)
@[simp] theorem State.setReg_pwr (p : Page) (off : Nat) (w : Word) : (s.setReg p off w).pwr = s.pwr := (rfl)
@[simp] theorem State.setReg_mem (p : Page) (off : Nat) (w : Word) : (s.setReg p off w).mem = s.mem := (rfl)
@[simp] theorem State.setReg_gather (p : Page) (off : Nat) (w : Word) : (s.setReg p off w).gather = s.gather := (rfl)
@[simp] theorem State.setReg_ct (p : Page) (off : Nat) (w : Word) : (s.setReg p off w).ct = s.ct := (rfl)
@[simp] theorem State.setReg_chains (p : Page) (off : Nat) (w : Word) : (s.setReg p off w).chains = s.chains := (rfl)
@[simp] theorem State.setReg_mains (p : Page) (off : Nat) (w : Word) : (s.setReg p off w).mains = s.mains := (rfl)
@[simp] theorem State.setReg_io (p : Page) (off : Nat) (w : Word) : (s.setReg p off w).io = s.io := (rfl)
@[simp] theorem State.setReg_line (p : Page) (off : Nat) (w : Word) : (s.setReg p off w).line = s.line := (rfl)
@[simp] theorem State.setReg_net (p : Page) (off : Nat) (w : Word) : (s.setReg p off w).net = s.net := (rfl)
@[simp] theorem State.setReg_cph (p : Page) (off : Nat) (w : Word) : (s.setReg p off w).cph = s.cph := (rfl)
@[simp] theorem State.setReg_slp (p : Page) (off : Nat) (w : Word) : (s.setReg p off w).slp = s.slp := (rfl)
@[simp] theorem State.setReg_nvm (p : Page) (off : Nat) (w : Word) : (s.setReg p off w).nvm = s.nvm := (rfl)
@[simp] theorem State.setReg_twn (p : Page) (off : Nat) (w : Word) : (s.setReg p off w).twn = s.twn := (rfl)

@[simp] theorem State.setFld_pending (p : Page) (f : Fld) (v : Nat) : (s.setFld p f v).pending = s.pending := by simp [State.setFld]
@[simp] theorem State.setFld_out (p : Page) (f : Fld) (v : Nat) : (s.setFld p f v).out = s.out := by simp [State.setFld]
@[simp] theorem State.setFld_fresh (p : Page) (f : Fld) (v : Nat) : (s.setFld p f v).fresh = s.fresh := by simp [State.setFld]
@[simp] theorem State.setFld_chip (p : Page) (f : Fld) (v : Nat) : (s.setFld p f v).chip = s.chip := by simp [State.setFld]
@[simp] theorem State.setFld_latches (p : Page) (f : Fld) (v : Nat) : (s.setFld p f v).latches = s.latches := by simp [State.setFld]
@[simp] theorem State.setFld_violArmed (p : Page) (f : Fld) (v : Nat) : (s.setFld p f v).violArmed = s.violArmed := by simp [State.setFld]
@[simp] theorem State.setFld_softReset (p : Page) (f : Fld) (v : Nat) : (s.setFld p f v).softReset = s.softReset := by simp [State.setFld]
@[simp] theorem State.setFld_isoTests (p : Page) (f : Fld) (v : Nat) : (s.setFld p f v).isoTests = s.isoTests := by simp [State.setFld]
@[simp] theorem State.setFld_fns (p : Page) (f : Fld) (v : Nat) : (s.setFld p f v).fns = s.fns := by simp [State.setFld]
@[simp] theorem State.setFld_pwr (p : Page) (f : Fld) (v : Nat) : (s.setFld p f v).pwr = s.pwr := by simp [State.setFld]
@[simp] theorem State.setFld_mem (p : Page) (f : Fld) (v : Nat) : (s.setFld p f v).mem = s.mem := by simp [State.setFld]
@[simp] theorem State.setFld_gather (p : Page) (f : Fld) (v : Nat) : (s.setFld p f v).gather = s.gather := by simp [State.setFld]
@[simp] theorem State.setFld_ct (p : Page) (f : Fld) (v : Nat) : (s.setFld p f v).ct = s.ct := by simp [State.setFld]
@[simp] theorem State.setFld_chains (p : Page) (f : Fld) (v : Nat) : (s.setFld p f v).chains = s.chains := by simp [State.setFld]
@[simp] theorem State.setFld_mains (p : Page) (f : Fld) (v : Nat) : (s.setFld p f v).mains = s.mains := by simp [State.setFld]
@[simp] theorem State.setFld_io (p : Page) (f : Fld) (v : Nat) : (s.setFld p f v).io = s.io := by simp [State.setFld]
@[simp] theorem State.setFld_line (p : Page) (f : Fld) (v : Nat) : (s.setFld p f v).line = s.line := by simp [State.setFld]
@[simp] theorem State.setFld_net (p : Page) (f : Fld) (v : Nat) : (s.setFld p f v).net = s.net := by simp [State.setFld]
@[simp] theorem State.setFld_cph (p : Page) (f : Fld) (v : Nat) : (s.setFld p f v).cph = s.cph := by simp [State.setFld]
@[simp] theorem State.setFld_slp (p : Page) (f : Fld) (v : Nat) : (s.setFld p f v).slp = s.slp := by simp [State.setFld]
@[simp] theorem State.setFld_nvm (p : Page) (f : Fld) (v : Nat) : (s.setFld p f v).nvm = s.nvm := by simp [State.setFld]
@[simp] theorem State.setFld_twn (p : Page) (f : Fld) (v : Nat) : (s.setFld p f v).twn = s.twn := by simp [State.setFld]

@[simp] theorem State.setFlag_pending (p : Page) (f : Fld) (b : Bool) : (s.setFlag p f b).pending = s.pending := by simp [State.setFlag]
@[simp] theorem State.setFlag_out (p : Page) (f : Fld) (b : Bool) : (s.setFlag p f b).out = s.out := by simp [State.setFlag]
@[simp] theorem State.setFlag_fresh (p : Page) (f : Fld) (b : Bool) : (s.setFlag p f b).fresh = s.fresh := by simp [State.setFlag]
@[simp] theorem State.setFlag_chip (p : Page) (f : Fld) (b : Bool) : (s.setFlag p f b).chip = s.chip := by simp [State.setFlag]
@[simp] theorem State.setFlag_latches (p : Page) (f : Fld) (b : Bool) : (s.setFlag p f b).latches = s.latches := by simp [State.setFlag]
@[simp] theorem State.setFlag_violArmed (p : Page) (f : Fld) (b : Bool) : (s.setFlag p f b).violArmed = s.violArmed := by simp [State.setFlag]
@[simp] theorem State.setFlag_softReset (p : Page) (f : Fld) (b : Bool) : (s.setFlag p f b).softReset = s.softReset := by simp [State.setFlag]
@[simp] theorem State.setFlag_isoTests (p : Page) (f : Fld) (b : Bool) : (s.setFlag p f b).isoTests = s.isoTests := by simp [State.setFlag]
@[simp] theorem State.setFlag_fns (p : Page) (f : Fld) (b : Bool) : (s.setFlag p f b).fns = s.fns := by simp [State.setFlag]
@[simp] theorem State.setFlag_pwr (p : Page) (f : Fld) (b : Bool) : (s.setFlag p f b).pwr = s.pwr := by simp [State.setFlag]
@[simp] theorem State.setFlag_mem (p : Page) (f : Fld) (b : Bool) : (s.setFlag p f b).mem = s.mem := by simp [State.setFlag]
@[simp] theorem State.setFlag_gather (p : Page) (f : Fld) (b : Bool) : (s.setFlag p f b).gather = s.gather := by simp [State.setFlag]
@[simp] theorem State.setFlag_ct (p : Page) (f : Fld) (b : Bool) : (s.setFlag p f b).ct = s.ct := by simp [State.setFlag]
@[simp] theorem State.setFlag_chains (p : Page) (f : Fld) (b : Bool) : (s.setFlag p f b).chains = s.chains := by simp [State.setFlag]
@[simp] theorem State.setFlag_mains (p : Page) (f : Fld) (b : Bool) : (s.setFlag p f b).mains = s.mains := by simp [State.setFlag]
@[simp] theorem State.setFlag_io (p : Page) (f : Fld) (b : Bool) : (s.setFlag p f b).io = s.io := by simp [State.setFlag]
@[simp] theorem State.setFlag_line (p : Page) (f : Fld) (b : Bool) : (s.setFlag p f b).line = s.line := by simp [State.setFlag]
@[simp] theorem State.setFlag_net (p : Page) (f : Fld) (b : Bool) : (s.setFlag p f b).net = s.net := by simp [State.setFlag]
@[simp] theorem State.setFlag_cph (p : Page) (f : Fld) (b : Bool) : (s.setFlag p f b).cph = s.cph := by simp [State.setFlag]
@[simp] theorem State.setFlag_slp (p : Page) (f : Fld) (b : Bool) : (s.setFlag p f b).slp = s.slp := by simp [State.setFlag]
@[simp] theorem State.setFlag_nvm (p : Page) (f : Fld) (b : Bool) : (s.setFlag p f b).nvm = s.nvm := by simp [State.setFlag]
@[simp] theorem State.setFlag_twn (p : Page) (f : Fld) (b : Bool) : (s.setFlag p f b).twn = s.twn := by simp [State.setFlag]

@[simp] theorem State.setRegBit_pending (p : Page) (off i : Nat) (b : Bool) : (s.setRegBit p off i b).pending = s.pending := by simp [State.setRegBit]
@[simp] theorem State.setRegBit_out (p : Page) (off i : Nat) (b : Bool) : (s.setRegBit p off i b).out = s.out := by simp [State.setRegBit]
@[simp] theorem State.setRegBit_fresh (p : Page) (off i : Nat) (b : Bool) : (s.setRegBit p off i b).fresh = s.fresh := by simp [State.setRegBit]
@[simp] theorem State.setRegBit_chip (p : Page) (off i : Nat) (b : Bool) : (s.setRegBit p off i b).chip = s.chip := by simp [State.setRegBit]
@[simp] theorem State.setRegBit_latches (p : Page) (off i : Nat) (b : Bool) : (s.setRegBit p off i b).latches = s.latches := by simp [State.setRegBit]
@[simp] theorem State.setRegBit_violArmed (p : Page) (off i : Nat) (b : Bool) : (s.setRegBit p off i b).violArmed = s.violArmed := by simp [State.setRegBit]
@[simp] theorem State.setRegBit_softReset (p : Page) (off i : Nat) (b : Bool) : (s.setRegBit p off i b).softReset = s.softReset := by simp [State.setRegBit]
@[simp] theorem State.setRegBit_isoTests (p : Page) (off i : Nat) (b : Bool) : (s.setRegBit p off i b).isoTests = s.isoTests := by simp [State.setRegBit]
@[simp] theorem State.setRegBit_fns (p : Page) (off i : Nat) (b : Bool) : (s.setRegBit p off i b).fns = s.fns := by simp [State.setRegBit]
@[simp] theorem State.setRegBit_pwr (p : Page) (off i : Nat) (b : Bool) : (s.setRegBit p off i b).pwr = s.pwr := by simp [State.setRegBit]
@[simp] theorem State.setRegBit_mem (p : Page) (off i : Nat) (b : Bool) : (s.setRegBit p off i b).mem = s.mem := by simp [State.setRegBit]
@[simp] theorem State.setRegBit_gather (p : Page) (off i : Nat) (b : Bool) : (s.setRegBit p off i b).gather = s.gather := by simp [State.setRegBit]
@[simp] theorem State.setRegBit_ct (p : Page) (off i : Nat) (b : Bool) : (s.setRegBit p off i b).ct = s.ct := by simp [State.setRegBit]
@[simp] theorem State.setRegBit_chains (p : Page) (off i : Nat) (b : Bool) : (s.setRegBit p off i b).chains = s.chains := by simp [State.setRegBit]
@[simp] theorem State.setRegBit_mains (p : Page) (off i : Nat) (b : Bool) : (s.setRegBit p off i b).mains = s.mains := by simp [State.setRegBit]
@[simp] theorem State.setRegBit_io (p : Page) (off i : Nat) (b : Bool) : (s.setRegBit p off i b).io = s.io := by simp [State.setRegBit]
@[simp] theorem State.setRegBit_line (p : Page) (off i : Nat) (b : Bool) : (s.setRegBit p off i b).line = s.line := by simp [State.setRegBit]
@[simp] theorem State.setRegBit_net (p : Page) (off i : Nat) (b : Bool) : (s.setRegBit p off i b).net = s.net := by simp [State.setRegBit]
@[simp] theorem State.setRegBit_cph (p : Page) (off i : Nat) (b : Bool) : (s.setRegBit p off i b).cph = s.cph := by simp [State.setRegBit]
@[simp] theorem State.setRegBit_slp (p : Page) (off i : Nat) (b : Bool) : (s.setRegBit p off i b).slp = s.slp := by simp [State.setRegBit]
@[simp] theorem State.setRegBit_nvm (p : Page) (off i : Nat) (b : Bool) : (s.setRegBit p off i b).nvm = s.nvm := by simp [State.setRegBit]
@[simp] theorem State.setRegBit_twn (p : Page) (off i : Nat) (b : Bool) : (s.setRegBit p off i b).twn = s.twn := by simp [State.setRegBit]

@[simp] theorem State.setStatus_pending (p : Page) (i : Nat) (b : Bool) : (s.setStatus p i b).pending = s.pending := by simp [State.setStatus]
@[simp] theorem State.setStatus_out (p : Page) (i : Nat) (b : Bool) : (s.setStatus p i b).out = s.out := by simp [State.setStatus]
@[simp] theorem State.setStatus_fresh (p : Page) (i : Nat) (b : Bool) : (s.setStatus p i b).fresh = s.fresh := by simp [State.setStatus]
@[simp] theorem State.setStatus_chip (p : Page) (i : Nat) (b : Bool) : (s.setStatus p i b).chip = s.chip := by simp [State.setStatus]
@[simp] theorem State.setStatus_latches (p : Page) (i : Nat) (b : Bool) : (s.setStatus p i b).latches = s.latches := by simp [State.setStatus]
@[simp] theorem State.setStatus_violArmed (p : Page) (i : Nat) (b : Bool) : (s.setStatus p i b).violArmed = s.violArmed := by simp [State.setStatus]
@[simp] theorem State.setStatus_softReset (p : Page) (i : Nat) (b : Bool) : (s.setStatus p i b).softReset = s.softReset := by simp [State.setStatus]
@[simp] theorem State.setStatus_isoTests (p : Page) (i : Nat) (b : Bool) : (s.setStatus p i b).isoTests = s.isoTests := by simp [State.setStatus]
@[simp] theorem State.setStatus_fns (p : Page) (i : Nat) (b : Bool) : (s.setStatus p i b).fns = s.fns := by simp [State.setStatus]
@[simp] theorem State.setStatus_pwr (p : Page) (i : Nat) (b : Bool) : (s.setStatus p i b).pwr = s.pwr := by simp [State.setStatus]
@[simp] theorem State.setStatus_mem (p : Page) (i : Nat) (b : Bool) : (s.setStatus p i b).mem = s.mem := by simp [State.setStatus]
@[simp] theorem State.setStatus_gather (p : Page) (i : Nat) (b : Bool) : (s.setStatus p i b).gather = s.gather := by simp [State.setStatus]
@[simp] theorem State.setStatus_ct (p : Page) (i : Nat) (b : Bool) : (s.setStatus p i b).ct = s.ct := by simp [State.setStatus]
@[simp] theorem State.setStatus_chains (p : Page) (i : Nat) (b : Bool) : (s.setStatus p i b).chains = s.chains := by simp [State.setStatus]
@[simp] theorem State.setStatus_mains (p : Page) (i : Nat) (b : Bool) : (s.setStatus p i b).mains = s.mains := by simp [State.setStatus]
@[simp] theorem State.setStatus_io (p : Page) (i : Nat) (b : Bool) : (s.setStatus p i b).io = s.io := by simp [State.setStatus]
@[simp] theorem State.setStatus_line (p : Page) (i : Nat) (b : Bool) : (s.setStatus p i b).line = s.line := by simp [State.setStatus]
@[simp] theorem State.setStatus_net (p : Page) (i : Nat) (b : Bool) : (s.setStatus p i b).net = s.net := by simp [State.setStatus]
@[simp] theorem State.setStatus_cph (p : Page) (i : Nat) (b : Bool) : (s.setStatus p i b).cph = s.cph := by simp [State.setStatus]
@[simp] theorem State.setStatus_slp (p : Page) (i : Nat) (b : Bool) : (s.setStatus p i b).slp = s.slp := by simp [State.setStatus]
@[simp] theorem State.setStatus_nvm (p : Page) (i : Nat) (b : Bool) : (s.setStatus p i b).nvm = s.nvm := by simp [State.setStatus]
@[simp] theorem State.setStatus_twn (p : Page) (i : Nat) (b : Bool) : (s.setStatus p i b).twn = s.twn := by simp [State.setStatus]

@[simp] theorem State.setCounter_pending (p : Page) (i v : Nat) : (s.setCounter p i v).pending = s.pending := by simp [State.setCounter]
@[simp] theorem State.setCounter_out (p : Page) (i v : Nat) : (s.setCounter p i v).out = s.out := by simp [State.setCounter]
@[simp] theorem State.setCounter_fresh (p : Page) (i v : Nat) : (s.setCounter p i v).fresh = s.fresh := by simp [State.setCounter]
@[simp] theorem State.setCounter_chip (p : Page) (i v : Nat) : (s.setCounter p i v).chip = s.chip := by simp [State.setCounter]
@[simp] theorem State.setCounter_latches (p : Page) (i v : Nat) : (s.setCounter p i v).latches = s.latches := by simp [State.setCounter]
@[simp] theorem State.setCounter_violArmed (p : Page) (i v : Nat) : (s.setCounter p i v).violArmed = s.violArmed := by simp [State.setCounter]
@[simp] theorem State.setCounter_softReset (p : Page) (i v : Nat) : (s.setCounter p i v).softReset = s.softReset := by simp [State.setCounter]
@[simp] theorem State.setCounter_isoTests (p : Page) (i v : Nat) : (s.setCounter p i v).isoTests = s.isoTests := by simp [State.setCounter]
@[simp] theorem State.setCounter_fns (p : Page) (i v : Nat) : (s.setCounter p i v).fns = s.fns := by simp [State.setCounter]
@[simp] theorem State.setCounter_pwr (p : Page) (i v : Nat) : (s.setCounter p i v).pwr = s.pwr := by simp [State.setCounter]
@[simp] theorem State.setCounter_mem (p : Page) (i v : Nat) : (s.setCounter p i v).mem = s.mem := by simp [State.setCounter]
@[simp] theorem State.setCounter_gather (p : Page) (i v : Nat) : (s.setCounter p i v).gather = s.gather := by simp [State.setCounter]
@[simp] theorem State.setCounter_ct (p : Page) (i v : Nat) : (s.setCounter p i v).ct = s.ct := by simp [State.setCounter]
@[simp] theorem State.setCounter_chains (p : Page) (i v : Nat) : (s.setCounter p i v).chains = s.chains := by simp [State.setCounter]
@[simp] theorem State.setCounter_mains (p : Page) (i v : Nat) : (s.setCounter p i v).mains = s.mains := by simp [State.setCounter]
@[simp] theorem State.setCounter_io (p : Page) (i v : Nat) : (s.setCounter p i v).io = s.io := by simp [State.setCounter]
@[simp] theorem State.setCounter_line (p : Page) (i v : Nat) : (s.setCounter p i v).line = s.line := by simp [State.setCounter]
@[simp] theorem State.setCounter_net (p : Page) (i v : Nat) : (s.setCounter p i v).net = s.net := by simp [State.setCounter]
@[simp] theorem State.setCounter_cph (p : Page) (i v : Nat) : (s.setCounter p i v).cph = s.cph := by simp [State.setCounter]
@[simp] theorem State.setCounter_slp (p : Page) (i v : Nat) : (s.setCounter p i v).slp = s.slp := by simp [State.setCounter]
@[simp] theorem State.setCounter_nvm (p : Page) (i v : Nat) : (s.setCounter p i v).nvm = s.nvm := by simp [State.setCounter]
@[simp] theorem State.setCounter_twn (p : Page) (i v : Nat) : (s.setCounter p i v).twn = s.twn := by simp [State.setCounter]

@[simp] theorem State.bumpBy_pending (p : Page) (i n : Nat) : (s.bumpBy p i n).pending = s.pending := by unfold State.bumpBy; split <;> simp
@[simp] theorem State.bumpBy_out (p : Page) (i n : Nat) : (s.bumpBy p i n).out = s.out := by unfold State.bumpBy; split <;> simp
@[simp] theorem State.bumpBy_fresh (p : Page) (i n : Nat) : (s.bumpBy p i n).fresh = s.fresh := by unfold State.bumpBy; split <;> simp
@[simp] theorem State.bumpBy_chip (p : Page) (i n : Nat) : (s.bumpBy p i n).chip = s.chip := by unfold State.bumpBy; split <;> simp
@[simp] theorem State.bumpBy_latches (p : Page) (i n : Nat) : (s.bumpBy p i n).latches = s.latches := by unfold State.bumpBy; split <;> simp
@[simp] theorem State.bumpBy_violArmed (p : Page) (i n : Nat) : (s.bumpBy p i n).violArmed = s.violArmed := by unfold State.bumpBy; split <;> simp
@[simp] theorem State.bumpBy_softReset (p : Page) (i n : Nat) : (s.bumpBy p i n).softReset = s.softReset := by unfold State.bumpBy; split <;> simp
@[simp] theorem State.bumpBy_isoTests (p : Page) (i n : Nat) : (s.bumpBy p i n).isoTests = s.isoTests := by unfold State.bumpBy; split <;> simp
@[simp] theorem State.bumpBy_fns (p : Page) (i n : Nat) : (s.bumpBy p i n).fns = s.fns := by unfold State.bumpBy; split <;> simp
@[simp] theorem State.bumpBy_pwr (p : Page) (i n : Nat) : (s.bumpBy p i n).pwr = s.pwr := by unfold State.bumpBy; split <;> simp
@[simp] theorem State.bumpBy_mem (p : Page) (i n : Nat) : (s.bumpBy p i n).mem = s.mem := by unfold State.bumpBy; split <;> simp
@[simp] theorem State.bumpBy_gather (p : Page) (i n : Nat) : (s.bumpBy p i n).gather = s.gather := by unfold State.bumpBy; split <;> simp
@[simp] theorem State.bumpBy_ct (p : Page) (i n : Nat) : (s.bumpBy p i n).ct = s.ct := by unfold State.bumpBy; split <;> simp
@[simp] theorem State.bumpBy_chains (p : Page) (i n : Nat) : (s.bumpBy p i n).chains = s.chains := by unfold State.bumpBy; split <;> simp
@[simp] theorem State.bumpBy_mains (p : Page) (i n : Nat) : (s.bumpBy p i n).mains = s.mains := by unfold State.bumpBy; split <;> simp
@[simp] theorem State.bumpBy_io (p : Page) (i n : Nat) : (s.bumpBy p i n).io = s.io := by unfold State.bumpBy; split <;> simp
@[simp] theorem State.bumpBy_line (p : Page) (i n : Nat) : (s.bumpBy p i n).line = s.line := by unfold State.bumpBy; split <;> simp
@[simp] theorem State.bumpBy_net (p : Page) (i n : Nat) : (s.bumpBy p i n).net = s.net := by unfold State.bumpBy; split <;> simp
@[simp] theorem State.bumpBy_cph (p : Page) (i n : Nat) : (s.bumpBy p i n).cph = s.cph := by unfold State.bumpBy; split <;> simp
@[simp] theorem State.bumpBy_slp (p : Page) (i n : Nat) : (s.bumpBy p i n).slp = s.slp := by unfold State.bumpBy; split <;> simp
@[simp] theorem State.bumpBy_nvm (p : Page) (i n : Nat) : (s.bumpBy p i n).nvm = s.nvm := by unfold State.bumpBy; split <;> simp
@[simp] theorem State.bumpBy_twn (p : Page) (i n : Nat) : (s.bumpBy p i n).twn = s.twn := by unfold State.bumpBy; split <;> simp

@[simp] theorem State.bump_pending (p : Page) (i : Nat) : (s.bump p i).pending = s.pending := by simp [State.bump]
@[simp] theorem State.bump_out (p : Page) (i : Nat) : (s.bump p i).out = s.out := by simp [State.bump]
@[simp] theorem State.bump_fresh (p : Page) (i : Nat) : (s.bump p i).fresh = s.fresh := by simp [State.bump]
@[simp] theorem State.bump_chip (p : Page) (i : Nat) : (s.bump p i).chip = s.chip := by simp [State.bump]
@[simp] theorem State.bump_latches (p : Page) (i : Nat) : (s.bump p i).latches = s.latches := by simp [State.bump]
@[simp] theorem State.bump_violArmed (p : Page) (i : Nat) : (s.bump p i).violArmed = s.violArmed := by simp [State.bump]
@[simp] theorem State.bump_softReset (p : Page) (i : Nat) : (s.bump p i).softReset = s.softReset := by simp [State.bump]
@[simp] theorem State.bump_isoTests (p : Page) (i : Nat) : (s.bump p i).isoTests = s.isoTests := by simp [State.bump]
@[simp] theorem State.bump_fns (p : Page) (i : Nat) : (s.bump p i).fns = s.fns := by simp [State.bump]
@[simp] theorem State.bump_pwr (p : Page) (i : Nat) : (s.bump p i).pwr = s.pwr := by simp [State.bump]
@[simp] theorem State.bump_mem (p : Page) (i : Nat) : (s.bump p i).mem = s.mem := by simp [State.bump]
@[simp] theorem State.bump_gather (p : Page) (i : Nat) : (s.bump p i).gather = s.gather := by simp [State.bump]
@[simp] theorem State.bump_ct (p : Page) (i : Nat) : (s.bump p i).ct = s.ct := by simp [State.bump]
@[simp] theorem State.bump_chains (p : Page) (i : Nat) : (s.bump p i).chains = s.chains := by simp [State.bump]
@[simp] theorem State.bump_mains (p : Page) (i : Nat) : (s.bump p i).mains = s.mains := by simp [State.bump]
@[simp] theorem State.bump_io (p : Page) (i : Nat) : (s.bump p i).io = s.io := by simp [State.bump]
@[simp] theorem State.bump_line (p : Page) (i : Nat) : (s.bump p i).line = s.line := by simp [State.bump]
@[simp] theorem State.bump_net (p : Page) (i : Nat) : (s.bump p i).net = s.net := by simp [State.bump]
@[simp] theorem State.bump_cph (p : Page) (i : Nat) : (s.bump p i).cph = s.cph := by simp [State.bump]
@[simp] theorem State.bump_slp (p : Page) (i : Nat) : (s.bump p i).slp = s.slp := by simp [State.bump]
@[simp] theorem State.bump_nvm (p : Page) (i : Nat) : (s.bump p i).nvm = s.nvm := by simp [State.bump]
@[simp] theorem State.bump_twn (p : Page) (i : Nat) : (s.bump p i).twn = s.twn := by simp [State.bump]

@[simp] theorem State.faultNote_pending (p : Page) (i detail : Nat) : (s.faultNote p i detail).pending = s.pending := by unfold State.faultNote; split <;> simp
@[simp] theorem State.faultNote_out (p : Page) (i detail : Nat) : (s.faultNote p i detail).out = s.out := by unfold State.faultNote; split <;> simp
@[simp] theorem State.faultNote_fresh (p : Page) (i detail : Nat) : (s.faultNote p i detail).fresh = s.fresh := by unfold State.faultNote; split <;> simp
@[simp] theorem State.faultNote_chip (p : Page) (i detail : Nat) : (s.faultNote p i detail).chip = s.chip := by unfold State.faultNote; split <;> simp
@[simp] theorem State.faultNote_latches (p : Page) (i detail : Nat) : (s.faultNote p i detail).latches = s.latches := by unfold State.faultNote; split <;> simp
@[simp] theorem State.faultNote_violArmed (p : Page) (i detail : Nat) : (s.faultNote p i detail).violArmed = s.violArmed := by unfold State.faultNote; split <;> simp
@[simp] theorem State.faultNote_softReset (p : Page) (i detail : Nat) : (s.faultNote p i detail).softReset = s.softReset := by unfold State.faultNote; split <;> simp
@[simp] theorem State.faultNote_isoTests (p : Page) (i detail : Nat) : (s.faultNote p i detail).isoTests = s.isoTests := by unfold State.faultNote; split <;> simp
@[simp] theorem State.faultNote_fns (p : Page) (i detail : Nat) : (s.faultNote p i detail).fns = s.fns := by unfold State.faultNote; split <;> simp
@[simp] theorem State.faultNote_pwr (p : Page) (i detail : Nat) : (s.faultNote p i detail).pwr = s.pwr := by unfold State.faultNote; split <;> simp
@[simp] theorem State.faultNote_mem (p : Page) (i detail : Nat) : (s.faultNote p i detail).mem = s.mem := by unfold State.faultNote; split <;> simp
@[simp] theorem State.faultNote_gather (p : Page) (i detail : Nat) : (s.faultNote p i detail).gather = s.gather := by unfold State.faultNote; split <;> simp
@[simp] theorem State.faultNote_ct (p : Page) (i detail : Nat) : (s.faultNote p i detail).ct = s.ct := by unfold State.faultNote; split <;> simp
@[simp] theorem State.faultNote_chains (p : Page) (i detail : Nat) : (s.faultNote p i detail).chains = s.chains := by unfold State.faultNote; split <;> simp
@[simp] theorem State.faultNote_mains (p : Page) (i detail : Nat) : (s.faultNote p i detail).mains = s.mains := by unfold State.faultNote; split <;> simp
@[simp] theorem State.faultNote_io (p : Page) (i detail : Nat) : (s.faultNote p i detail).io = s.io := by unfold State.faultNote; split <;> simp
@[simp] theorem State.faultNote_line (p : Page) (i detail : Nat) : (s.faultNote p i detail).line = s.line := by unfold State.faultNote; split <;> simp
@[simp] theorem State.faultNote_net (p : Page) (i detail : Nat) : (s.faultNote p i detail).net = s.net := by unfold State.faultNote; split <;> simp
@[simp] theorem State.faultNote_cph (p : Page) (i detail : Nat) : (s.faultNote p i detail).cph = s.cph := by unfold State.faultNote; split <;> simp
@[simp] theorem State.faultNote_slp (p : Page) (i detail : Nat) : (s.faultNote p i detail).slp = s.slp := by unfold State.faultNote; split <;> simp
@[simp] theorem State.faultNote_nvm (p : Page) (i detail : Nat) : (s.faultNote p i detail).nvm = s.nvm := by unfold State.faultNote; split <;> simp
@[simp] theorem State.faultNote_twn (p : Page) (i detail : Nat) : (s.faultNote p i detail).twn = s.twn := by unfold State.faultNote; split <;> simp

@[simp] theorem State.clearFaults_pending (p : Page) (m : Word) : (s.clearFaults p m).pending = s.pending := by unfold State.clearFaults; dsimp only; split <;> simp
@[simp] theorem State.clearFaults_out (p : Page) (m : Word) : (s.clearFaults p m).out = s.out := by unfold State.clearFaults; dsimp only; split <;> simp
@[simp] theorem State.clearFaults_fresh (p : Page) (m : Word) : (s.clearFaults p m).fresh = s.fresh := by unfold State.clearFaults; dsimp only; split <;> simp
@[simp] theorem State.clearFaults_chip (p : Page) (m : Word) : (s.clearFaults p m).chip = s.chip := by unfold State.clearFaults; dsimp only; split <;> simp
@[simp] theorem State.clearFaults_latches (p : Page) (m : Word) : (s.clearFaults p m).latches = s.latches := by unfold State.clearFaults; dsimp only; split <;> simp
@[simp] theorem State.clearFaults_violArmed (p : Page) (m : Word) : (s.clearFaults p m).violArmed = s.violArmed := by unfold State.clearFaults; dsimp only; split <;> simp
@[simp] theorem State.clearFaults_softReset (p : Page) (m : Word) : (s.clearFaults p m).softReset = s.softReset := by unfold State.clearFaults; dsimp only; split <;> simp
@[simp] theorem State.clearFaults_isoTests (p : Page) (m : Word) : (s.clearFaults p m).isoTests = s.isoTests := by unfold State.clearFaults; dsimp only; split <;> simp
@[simp] theorem State.clearFaults_fns (p : Page) (m : Word) : (s.clearFaults p m).fns = s.fns := by unfold State.clearFaults; dsimp only; split <;> simp
@[simp] theorem State.clearFaults_pwr (p : Page) (m : Word) : (s.clearFaults p m).pwr = s.pwr := by unfold State.clearFaults; dsimp only; split <;> simp
@[simp] theorem State.clearFaults_mem (p : Page) (m : Word) : (s.clearFaults p m).mem = s.mem := by unfold State.clearFaults; dsimp only; split <;> simp
@[simp] theorem State.clearFaults_gather (p : Page) (m : Word) : (s.clearFaults p m).gather = s.gather := by unfold State.clearFaults; dsimp only; split <;> simp
@[simp] theorem State.clearFaults_ct (p : Page) (m : Word) : (s.clearFaults p m).ct = s.ct := by unfold State.clearFaults; dsimp only; split <;> simp
@[simp] theorem State.clearFaults_chains (p : Page) (m : Word) : (s.clearFaults p m).chains = s.chains := by unfold State.clearFaults; dsimp only; split <;> simp
@[simp] theorem State.clearFaults_mains (p : Page) (m : Word) : (s.clearFaults p m).mains = s.mains := by unfold State.clearFaults; dsimp only; split <;> simp
@[simp] theorem State.clearFaults_io (p : Page) (m : Word) : (s.clearFaults p m).io = s.io := by unfold State.clearFaults; dsimp only; split <;> simp
@[simp] theorem State.clearFaults_line (p : Page) (m : Word) : (s.clearFaults p m).line = s.line := by unfold State.clearFaults; dsimp only; split <;> simp
@[simp] theorem State.clearFaults_net (p : Page) (m : Word) : (s.clearFaults p m).net = s.net := by unfold State.clearFaults; dsimp only; split <;> simp
@[simp] theorem State.clearFaults_cph (p : Page) (m : Word) : (s.clearFaults p m).cph = s.cph := by unfold State.clearFaults; dsimp only; split <;> simp
@[simp] theorem State.clearFaults_slp (p : Page) (m : Word) : (s.clearFaults p m).slp = s.slp := by unfold State.clearFaults; dsimp only; split <;> simp
@[simp] theorem State.clearFaults_nvm (p : Page) (m : Word) : (s.clearFaults p m).nvm = s.nvm := by unfold State.clearFaults; dsimp only; split <;> simp
@[simp] theorem State.clearFaults_twn (p : Page) (m : Word) : (s.clearFaults p m).twn = s.twn := by unfold State.clearFaults; dsimp only; split <;> simp

@[simp] theorem State.applyWrite_pending (p : Page) (off : Nat) (w : Word) : (applyWrite p off w s).pending = s.pending := by simp [applyWrite]
@[simp] theorem State.applyWrite_out (p : Page) (off : Nat) (w : Word) : (applyWrite p off w s).out = s.out := by simp [applyWrite]
@[simp] theorem State.applyWrite_fresh (p : Page) (off : Nat) (w : Word) : (applyWrite p off w s).fresh = s.fresh := by simp [applyWrite]
@[simp] theorem State.applyWrite_chip (p : Page) (off : Nat) (w : Word) : (applyWrite p off w s).chip = s.chip := by simp [applyWrite]
@[simp] theorem State.applyWrite_latches (p : Page) (off : Nat) (w : Word) : (applyWrite p off w s).latches = s.latches := by simp [applyWrite]
@[simp] theorem State.applyWrite_violArmed (p : Page) (off : Nat) (w : Word) : (applyWrite p off w s).violArmed = s.violArmed := by simp [applyWrite]
@[simp] theorem State.applyWrite_softReset (p : Page) (off : Nat) (w : Word) : (applyWrite p off w s).softReset = s.softReset := by simp [applyWrite]
@[simp] theorem State.applyWrite_isoTests (p : Page) (off : Nat) (w : Word) : (applyWrite p off w s).isoTests = s.isoTests := by simp [applyWrite]
@[simp] theorem State.applyWrite_fns (p : Page) (off : Nat) (w : Word) : (applyWrite p off w s).fns = s.fns := by simp [applyWrite]
@[simp] theorem State.applyWrite_pwr (p : Page) (off : Nat) (w : Word) : (applyWrite p off w s).pwr = s.pwr := by simp [applyWrite]
@[simp] theorem State.applyWrite_mem (p : Page) (off : Nat) (w : Word) : (applyWrite p off w s).mem = s.mem := by simp [applyWrite]
@[simp] theorem State.applyWrite_gather (p : Page) (off : Nat) (w : Word) : (applyWrite p off w s).gather = s.gather := by simp [applyWrite]
@[simp] theorem State.applyWrite_ct (p : Page) (off : Nat) (w : Word) : (applyWrite p off w s).ct = s.ct := by simp [applyWrite]
@[simp] theorem State.applyWrite_chains (p : Page) (off : Nat) (w : Word) : (applyWrite p off w s).chains = s.chains := by simp [applyWrite]
@[simp] theorem State.applyWrite_mains (p : Page) (off : Nat) (w : Word) : (applyWrite p off w s).mains = s.mains := by simp [applyWrite]
@[simp] theorem State.applyWrite_io (p : Page) (off : Nat) (w : Word) : (applyWrite p off w s).io = s.io := by simp [applyWrite]
@[simp] theorem State.applyWrite_line (p : Page) (off : Nat) (w : Word) : (applyWrite p off w s).line = s.line := by simp [applyWrite]
@[simp] theorem State.applyWrite_net (p : Page) (off : Nat) (w : Word) : (applyWrite p off w s).net = s.net := by simp [applyWrite]
@[simp] theorem State.applyWrite_cph (p : Page) (off : Nat) (w : Word) : (applyWrite p off w s).cph = s.cph := by simp [applyWrite]
@[simp] theorem State.applyWrite_slp (p : Page) (off : Nat) (w : Word) : (applyWrite p off w s).slp = s.slp := by simp [applyWrite]
@[simp] theorem State.applyWrite_nvm (p : Page) (off : Nat) (w : Word) : (applyWrite p off w s).nvm = s.nvm := by simp [applyWrite]
@[simp] theorem State.applyWrite_twn (p : Page) (off : Nat) (w : Word) : (applyWrite p off w s).twn = s.twn := by simp [applyWrite]

@[simp] theorem State.emit_pending (o : Out) : (s.emit o).pending = s.pending := (rfl)
@[simp] theorem State.emit_fresh (o : Out) : (s.emit o).fresh = s.fresh := (rfl)
@[simp] theorem State.emit_chip (o : Out) : (s.emit o).chip = s.chip := (rfl)
@[simp] theorem State.emit_regs (o : Out) : (s.emit o).regs = s.regs := (rfl)
@[simp] theorem State.emit_latches (o : Out) : (s.emit o).latches = s.latches := (rfl)
@[simp] theorem State.emit_violArmed (o : Out) : (s.emit o).violArmed = s.violArmed := (rfl)
@[simp] theorem State.emit_softReset (o : Out) : (s.emit o).softReset = s.softReset := (rfl)
@[simp] theorem State.emit_isoTests (o : Out) : (s.emit o).isoTests = s.isoTests := (rfl)
@[simp] theorem State.emit_fns (o : Out) : (s.emit o).fns = s.fns := (rfl)
@[simp] theorem State.emit_pwr (o : Out) : (s.emit o).pwr = s.pwr := (rfl)
@[simp] theorem State.emit_mem (o : Out) : (s.emit o).mem = s.mem := (rfl)
@[simp] theorem State.emit_gather (o : Out) : (s.emit o).gather = s.gather := (rfl)
@[simp] theorem State.emit_ct (o : Out) : (s.emit o).ct = s.ct := (rfl)
@[simp] theorem State.emit_chains (o : Out) : (s.emit o).chains = s.chains := (rfl)
@[simp] theorem State.emit_mains (o : Out) : (s.emit o).mains = s.mains := (rfl)
@[simp] theorem State.emit_io (o : Out) : (s.emit o).io = s.io := (rfl)
@[simp] theorem State.emit_line (o : Out) : (s.emit o).line = s.line := (rfl)
@[simp] theorem State.emit_net (o : Out) : (s.emit o).net = s.net := (rfl)
@[simp] theorem State.emit_cph (o : Out) : (s.emit o).cph = s.cph := (rfl)
@[simp] theorem State.emit_slp (o : Out) : (s.emit o).slp = s.slp := (rfl)
@[simp] theorem State.emit_nvm (o : Out) : (s.emit o).nvm = s.nvm := (rfl)
@[simp] theorem State.emit_twn (o : Out) : (s.emit o).twn = s.twn := (rfl)

@[simp] theorem State.setFn_pending (fn : Nat) (f : PcieFn) : (s.setFn fn f).pending = s.pending := (rfl)
@[simp] theorem State.setFn_out (fn : Nat) (f : PcieFn) : (s.setFn fn f).out = s.out := (rfl)
@[simp] theorem State.setFn_fresh (fn : Nat) (f : PcieFn) : (s.setFn fn f).fresh = s.fresh := (rfl)
@[simp] theorem State.setFn_chip (fn : Nat) (f : PcieFn) : (s.setFn fn f).chip = s.chip := (rfl)
@[simp] theorem State.setFn_regs (fn : Nat) (f : PcieFn) : (s.setFn fn f).regs = s.regs := (rfl)
@[simp] theorem State.setFn_latches (fn : Nat) (f : PcieFn) : (s.setFn fn f).latches = s.latches := (rfl)
@[simp] theorem State.setFn_violArmed (fn : Nat) (f : PcieFn) : (s.setFn fn f).violArmed = s.violArmed := (rfl)
@[simp] theorem State.setFn_softReset (fn : Nat) (f : PcieFn) : (s.setFn fn f).softReset = s.softReset := (rfl)
@[simp] theorem State.setFn_isoTests (fn : Nat) (f : PcieFn) : (s.setFn fn f).isoTests = s.isoTests := (rfl)
@[simp] theorem State.setFn_pwr (fn : Nat) (f : PcieFn) : (s.setFn fn f).pwr = s.pwr := (rfl)
@[simp] theorem State.setFn_mem (fn : Nat) (f : PcieFn) : (s.setFn fn f).mem = s.mem := (rfl)
@[simp] theorem State.setFn_gather (fn : Nat) (f : PcieFn) : (s.setFn fn f).gather = s.gather := (rfl)
@[simp] theorem State.setFn_ct (fn : Nat) (f : PcieFn) : (s.setFn fn f).ct = s.ct := (rfl)
@[simp] theorem State.setFn_chains (fn : Nat) (f : PcieFn) : (s.setFn fn f).chains = s.chains := (rfl)
@[simp] theorem State.setFn_mains (fn : Nat) (f : PcieFn) : (s.setFn fn f).mains = s.mains := (rfl)
@[simp] theorem State.setFn_io (fn : Nat) (f : PcieFn) : (s.setFn fn f).io = s.io := (rfl)
@[simp] theorem State.setFn_line (fn : Nat) (f : PcieFn) : (s.setFn fn f).line = s.line := (rfl)
@[simp] theorem State.setFn_net (fn : Nat) (f : PcieFn) : (s.setFn fn f).net = s.net := (rfl)
@[simp] theorem State.setFn_cph (fn : Nat) (f : PcieFn) : (s.setFn fn f).cph = s.cph := (rfl)
@[simp] theorem State.setFn_slp (fn : Nat) (f : PcieFn) : (s.setFn fn f).slp = s.slp := (rfl)
@[simp] theorem State.setFn_nvm (fn : Nat) (f : PcieFn) : (s.setFn fn f).nvm = s.nvm := (rfl)
@[simp] theorem State.setFn_twn (fn : Nat) (f : PcieFn) : (s.setFn fn f).twn = s.twn := (rfl)

@[simp] theorem State.msix_pending (fn vec : Nat) : (s.msix fn vec).pending = s.pending := by unfold State.msix; dsimp only; split <;> simp
@[simp] theorem State.msix_fresh (fn vec : Nat) : (s.msix fn vec).fresh = s.fresh := by unfold State.msix; dsimp only; split <;> simp
@[simp] theorem State.msix_chip (fn vec : Nat) : (s.msix fn vec).chip = s.chip := by unfold State.msix; dsimp only; split <;> simp
@[simp] theorem State.msix_regs (fn vec : Nat) : (s.msix fn vec).regs = s.regs := by unfold State.msix; dsimp only; split <;> simp
@[simp] theorem State.msix_latches (fn vec : Nat) : (s.msix fn vec).latches = s.latches := by unfold State.msix; dsimp only; split <;> simp
@[simp] theorem State.msix_violArmed (fn vec : Nat) : (s.msix fn vec).violArmed = s.violArmed := by unfold State.msix; dsimp only; split <;> simp
@[simp] theorem State.msix_softReset (fn vec : Nat) : (s.msix fn vec).softReset = s.softReset := by unfold State.msix; dsimp only; split <;> simp
@[simp] theorem State.msix_isoTests (fn vec : Nat) : (s.msix fn vec).isoTests = s.isoTests := by unfold State.msix; dsimp only; split <;> simp
@[simp] theorem State.msix_pwr (fn vec : Nat) : (s.msix fn vec).pwr = s.pwr := by unfold State.msix; dsimp only; split <;> simp
@[simp] theorem State.msix_mem (fn vec : Nat) : (s.msix fn vec).mem = s.mem := by unfold State.msix; dsimp only; split <;> simp
@[simp] theorem State.msix_gather (fn vec : Nat) : (s.msix fn vec).gather = s.gather := by unfold State.msix; dsimp only; split <;> simp
@[simp] theorem State.msix_ct (fn vec : Nat) : (s.msix fn vec).ct = s.ct := by unfold State.msix; dsimp only; split <;> simp
@[simp] theorem State.msix_chains (fn vec : Nat) : (s.msix fn vec).chains = s.chains := by unfold State.msix; dsimp only; split <;> simp
@[simp] theorem State.msix_mains (fn vec : Nat) : (s.msix fn vec).mains = s.mains := by unfold State.msix; dsimp only; split <;> simp
@[simp] theorem State.msix_io (fn vec : Nat) : (s.msix fn vec).io = s.io := by unfold State.msix; dsimp only; split <;> simp
@[simp] theorem State.msix_line (fn vec : Nat) : (s.msix fn vec).line = s.line := by unfold State.msix; dsimp only; split <;> simp
@[simp] theorem State.msix_net (fn vec : Nat) : (s.msix fn vec).net = s.net := by unfold State.msix; dsimp only; split <;> simp
@[simp] theorem State.msix_cph (fn vec : Nat) : (s.msix fn vec).cph = s.cph := by unfold State.msix; dsimp only; split <;> simp
@[simp] theorem State.msix_slp (fn vec : Nat) : (s.msix fn vec).slp = s.slp := by unfold State.msix; dsimp only; split <;> simp
@[simp] theorem State.msix_nvm (fn vec : Nat) : (s.msix fn vec).nvm = s.nvm := by unfold State.msix; dsimp only; split <;> simp
@[simp] theorem State.msix_twn (fn vec : Nat) : (s.msix fn vec).twn = s.twn := by unfold State.msix; dsimp only; split <;> simp

@[simp] theorem State.setLatch_pending (fn : Fn) (l : Latch) : (s.setLatch fn l).pending = s.pending := (rfl)
@[simp] theorem State.setLatch_out (fn : Fn) (l : Latch) : (s.setLatch fn l).out = s.out := (rfl)
@[simp] theorem State.setLatch_fresh (fn : Fn) (l : Latch) : (s.setLatch fn l).fresh = s.fresh := (rfl)
@[simp] theorem State.setLatch_chip (fn : Fn) (l : Latch) : (s.setLatch fn l).chip = s.chip := (rfl)
@[simp] theorem State.setLatch_regs (fn : Fn) (l : Latch) : (s.setLatch fn l).regs = s.regs := (rfl)
@[simp] theorem State.setLatch_violArmed (fn : Fn) (l : Latch) : (s.setLatch fn l).violArmed = s.violArmed := (rfl)
@[simp] theorem State.setLatch_softReset (fn : Fn) (l : Latch) : (s.setLatch fn l).softReset = s.softReset := (rfl)
@[simp] theorem State.setLatch_isoTests (fn : Fn) (l : Latch) : (s.setLatch fn l).isoTests = s.isoTests := (rfl)
@[simp] theorem State.setLatch_fns (fn : Fn) (l : Latch) : (s.setLatch fn l).fns = s.fns := (rfl)
@[simp] theorem State.setLatch_pwr (fn : Fn) (l : Latch) : (s.setLatch fn l).pwr = s.pwr := (rfl)
@[simp] theorem State.setLatch_mem (fn : Fn) (l : Latch) : (s.setLatch fn l).mem = s.mem := (rfl)
@[simp] theorem State.setLatch_gather (fn : Fn) (l : Latch) : (s.setLatch fn l).gather = s.gather := (rfl)
@[simp] theorem State.setLatch_ct (fn : Fn) (l : Latch) : (s.setLatch fn l).ct = s.ct := (rfl)
@[simp] theorem State.setLatch_chains (fn : Fn) (l : Latch) : (s.setLatch fn l).chains = s.chains := (rfl)
@[simp] theorem State.setLatch_mains (fn : Fn) (l : Latch) : (s.setLatch fn l).mains = s.mains := (rfl)
@[simp] theorem State.setLatch_io (fn : Fn) (l : Latch) : (s.setLatch fn l).io = s.io := (rfl)
@[simp] theorem State.setLatch_line (fn : Fn) (l : Latch) : (s.setLatch fn l).line = s.line := (rfl)
@[simp] theorem State.setLatch_net (fn : Fn) (l : Latch) : (s.setLatch fn l).net = s.net := (rfl)
@[simp] theorem State.setLatch_cph (fn : Fn) (l : Latch) : (s.setLatch fn l).cph = s.cph := (rfl)
@[simp] theorem State.setLatch_slp (fn : Fn) (l : Latch) : (s.setLatch fn l).slp = s.slp := (rfl)
@[simp] theorem State.setLatch_nvm (fn : Fn) (l : Latch) : (s.setLatch fn l).nvm = s.nvm := (rfl)
@[simp] theorem State.setLatch_twn (fn : Fn) (l : Latch) : (s.setLatch fn l).twn = s.twn := (rfl)

@[simp] theorem State.endIdle_pending  : (s.endIdle).pending = s.pending := by unfold State.endIdle; split <;> rfl
@[simp] theorem State.endIdle_out  : (s.endIdle).out = s.out := by unfold State.endIdle; split <;> rfl
@[simp] theorem State.endIdle_fresh  : (s.endIdle).fresh = s.fresh := by unfold State.endIdle; split <;> rfl
@[simp] theorem State.endIdle_chip  : (s.endIdle).chip = s.chip := by unfold State.endIdle; split <;> rfl
@[simp] theorem State.endIdle_regs  : (s.endIdle).regs = s.regs := by unfold State.endIdle; split <;> rfl
@[simp] theorem State.endIdle_latches  : (s.endIdle).latches = s.latches := by unfold State.endIdle; split <;> rfl
@[simp] theorem State.endIdle_violArmed  : (s.endIdle).violArmed = s.violArmed := by unfold State.endIdle; split <;> rfl
@[simp] theorem State.endIdle_softReset  : (s.endIdle).softReset = s.softReset := by unfold State.endIdle; split <;> rfl
@[simp] theorem State.endIdle_isoTests  : (s.endIdle).isoTests = s.isoTests := by unfold State.endIdle; split <;> rfl
@[simp] theorem State.endIdle_fns  : (s.endIdle).fns = s.fns := by unfold State.endIdle; split <;> rfl
@[simp] theorem State.endIdle_mem  : (s.endIdle).mem = s.mem := by unfold State.endIdle; split <;> rfl
@[simp] theorem State.endIdle_gather  : (s.endIdle).gather = s.gather := by unfold State.endIdle; split <;> rfl
@[simp] theorem State.endIdle_ct  : (s.endIdle).ct = s.ct := by unfold State.endIdle; split <;> rfl
@[simp] theorem State.endIdle_chains  : (s.endIdle).chains = s.chains := by unfold State.endIdle; split <;> rfl
@[simp] theorem State.endIdle_mains  : (s.endIdle).mains = s.mains := by unfold State.endIdle; split <;> rfl
@[simp] theorem State.endIdle_io  : (s.endIdle).io = s.io := by unfold State.endIdle; split <;> rfl
@[simp] theorem State.endIdle_line  : (s.endIdle).line = s.line := by unfold State.endIdle; split <;> rfl
@[simp] theorem State.endIdle_net  : (s.endIdle).net = s.net := by unfold State.endIdle; split <;> rfl
@[simp] theorem State.endIdle_cph  : (s.endIdle).cph = s.cph := by unfold State.endIdle; split <;> rfl
@[simp] theorem State.endIdle_slp  : (s.endIdle).slp = s.slp := by unfold State.endIdle; split <;> rfl
@[simp] theorem State.endIdle_nvm  : (s.endIdle).nvm = s.nvm := by unfold State.endIdle; split <;> rfl
@[simp] theorem State.endIdle_twn  : (s.endIdle).twn = s.twn := by unfold State.endIdle; split <;> rfl

@[simp] theorem State.touch_pending (fn : Fn) : (s.touch fn).pending = s.pending := by simp [State.touch]
@[simp] theorem State.touch_out (fn : Fn) : (s.touch fn).out = s.out := by simp [State.touch]
@[simp] theorem State.touch_fresh (fn : Fn) : (s.touch fn).fresh = s.fresh := by simp [State.touch]
@[simp] theorem State.touch_chip (fn : Fn) : (s.touch fn).chip = s.chip := by simp [State.touch]
@[simp] theorem State.touch_regs (fn : Fn) : (s.touch fn).regs = s.regs := by simp [State.touch]
@[simp] theorem State.touch_violArmed (fn : Fn) : (s.touch fn).violArmed = s.violArmed := by simp [State.touch]
@[simp] theorem State.touch_softReset (fn : Fn) : (s.touch fn).softReset = s.softReset := by simp [State.touch]
@[simp] theorem State.touch_isoTests (fn : Fn) : (s.touch fn).isoTests = s.isoTests := by simp [State.touch]
@[simp] theorem State.touch_fns (fn : Fn) : (s.touch fn).fns = s.fns := by simp [State.touch]
@[simp] theorem State.touch_mem (fn : Fn) : (s.touch fn).mem = s.mem := by simp [State.touch]
@[simp] theorem State.touch_gather (fn : Fn) : (s.touch fn).gather = s.gather := by simp [State.touch]
@[simp] theorem State.touch_ct (fn : Fn) : (s.touch fn).ct = s.ct := by simp [State.touch]
@[simp] theorem State.touch_chains (fn : Fn) : (s.touch fn).chains = s.chains := by simp [State.touch]
@[simp] theorem State.touch_mains (fn : Fn) : (s.touch fn).mains = s.mains := by simp [State.touch]
@[simp] theorem State.touch_io (fn : Fn) : (s.touch fn).io = s.io := by simp [State.touch]
@[simp] theorem State.touch_line (fn : Fn) : (s.touch fn).line = s.line := by simp [State.touch]
@[simp] theorem State.touch_net (fn : Fn) : (s.touch fn).net = s.net := by simp [State.touch]
@[simp] theorem State.touch_cph (fn : Fn) : (s.touch fn).cph = s.cph := by simp [State.touch]
@[simp] theorem State.touch_slp (fn : Fn) : (s.touch fn).slp = s.slp := by simp [State.touch]
@[simp] theorem State.touch_nvm (fn : Fn) : (s.touch fn).nvm = s.nvm := by simp [State.touch]
@[simp] theorem State.touch_twn (fn : Fn) : (s.touch fn).twn = s.twn := by simp [State.touch]

@[simp] theorem State.violCount_pending  : (s.violCount).pending = s.pending := by simp [State.violCount]
@[simp] theorem State.violCount_out  : (s.violCount).out = s.out := by simp [State.violCount]
@[simp] theorem State.violCount_fresh  : (s.violCount).fresh = s.fresh := by simp [State.violCount]
@[simp] theorem State.violCount_chip  : (s.violCount).chip = s.chip := by simp [State.violCount]
@[simp] theorem State.violCount_latches  : (s.violCount).latches = s.latches := by simp [State.violCount]
@[simp] theorem State.violCount_violArmed  : (s.violCount).violArmed = s.violArmed := by simp [State.violCount]
@[simp] theorem State.violCount_softReset  : (s.violCount).softReset = s.softReset := by simp [State.violCount]
@[simp] theorem State.violCount_isoTests  : (s.violCount).isoTests = s.isoTests := by simp [State.violCount]
@[simp] theorem State.violCount_fns  : (s.violCount).fns = s.fns := by simp [State.violCount]
@[simp] theorem State.violCount_pwr  : (s.violCount).pwr = s.pwr := by simp [State.violCount]
@[simp] theorem State.violCount_mem  : (s.violCount).mem = s.mem := by simp [State.violCount]
@[simp] theorem State.violCount_gather  : (s.violCount).gather = s.gather := by simp [State.violCount]
@[simp] theorem State.violCount_ct  : (s.violCount).ct = s.ct := by simp [State.violCount]
@[simp] theorem State.violCount_chains  : (s.violCount).chains = s.chains := by simp [State.violCount]
@[simp] theorem State.violCount_mains  : (s.violCount).mains = s.mains := by simp [State.violCount]
@[simp] theorem State.violCount_io  : (s.violCount).io = s.io := by simp [State.violCount]
@[simp] theorem State.violCount_line  : (s.violCount).line = s.line := by simp [State.violCount]
@[simp] theorem State.violCount_net  : (s.violCount).net = s.net := by simp [State.violCount]
@[simp] theorem State.violCount_cph  : (s.violCount).cph = s.cph := by simp [State.violCount]
@[simp] theorem State.violCount_slp  : (s.violCount).slp = s.slp := by simp [State.violCount]
@[simp] theorem State.violCount_nvm  : (s.violCount).nvm = s.nvm := by simp [State.violCount]
@[simp] theorem State.violCount_twn  : (s.violCount).twn = s.twn := by simp [State.violCount]

@[simp] theorem State.violRecord_pending (fn : Fn) (addr kind : Nat) (wr : Bool) (be : BitVec 4) : (s.violRecord fn addr kind wr be).pending = s.pending := by unfold State.violRecord; rw [State.setReg_pending, State.setReg_pending]
@[simp] theorem State.violRecord_out (fn : Fn) (addr kind : Nat) (wr : Bool) (be : BitVec 4) : (s.violRecord fn addr kind wr be).out = s.out := by unfold State.violRecord; rw [State.setReg_out, State.setReg_out]
@[simp] theorem State.violRecord_fresh (fn : Fn) (addr kind : Nat) (wr : Bool) (be : BitVec 4) : (s.violRecord fn addr kind wr be).fresh = s.fresh := by unfold State.violRecord; rw [State.setReg_fresh, State.setReg_fresh]
@[simp] theorem State.violRecord_chip (fn : Fn) (addr kind : Nat) (wr : Bool) (be : BitVec 4) : (s.violRecord fn addr kind wr be).chip = s.chip := by unfold State.violRecord; rw [State.setReg_chip, State.setReg_chip]
@[simp] theorem State.violRecord_latches (fn : Fn) (addr kind : Nat) (wr : Bool) (be : BitVec 4) : (s.violRecord fn addr kind wr be).latches = s.latches := by unfold State.violRecord; rw [State.setReg_latches, State.setReg_latches]
@[simp] theorem State.violRecord_softReset (fn : Fn) (addr kind : Nat) (wr : Bool) (be : BitVec 4) : (s.violRecord fn addr kind wr be).softReset = s.softReset := by unfold State.violRecord; rw [State.setReg_softReset, State.setReg_softReset]
@[simp] theorem State.violRecord_isoTests (fn : Fn) (addr kind : Nat) (wr : Bool) (be : BitVec 4) : (s.violRecord fn addr kind wr be).isoTests = s.isoTests := by unfold State.violRecord; rw [State.setReg_isoTests, State.setReg_isoTests]
@[simp] theorem State.violRecord_fns (fn : Fn) (addr kind : Nat) (wr : Bool) (be : BitVec 4) : (s.violRecord fn addr kind wr be).fns = s.fns := by unfold State.violRecord; rw [State.setReg_fns, State.setReg_fns]
@[simp] theorem State.violRecord_pwr (fn : Fn) (addr kind : Nat) (wr : Bool) (be : BitVec 4) : (s.violRecord fn addr kind wr be).pwr = s.pwr := by unfold State.violRecord; rw [State.setReg_pwr, State.setReg_pwr]
@[simp] theorem State.violRecord_mem (fn : Fn) (addr kind : Nat) (wr : Bool) (be : BitVec 4) : (s.violRecord fn addr kind wr be).mem = s.mem := by unfold State.violRecord; rw [State.setReg_mem, State.setReg_mem]
@[simp] theorem State.violRecord_gather (fn : Fn) (addr kind : Nat) (wr : Bool) (be : BitVec 4) : (s.violRecord fn addr kind wr be).gather = s.gather := by unfold State.violRecord; rw [State.setReg_gather, State.setReg_gather]
@[simp] theorem State.violRecord_ct (fn : Fn) (addr kind : Nat) (wr : Bool) (be : BitVec 4) : (s.violRecord fn addr kind wr be).ct = s.ct := by unfold State.violRecord; rw [State.setReg_ct, State.setReg_ct]
@[simp] theorem State.violRecord_chains (fn : Fn) (addr kind : Nat) (wr : Bool) (be : BitVec 4) : (s.violRecord fn addr kind wr be).chains = s.chains := by unfold State.violRecord; rw [State.setReg_chains, State.setReg_chains]
@[simp] theorem State.violRecord_mains (fn : Fn) (addr kind : Nat) (wr : Bool) (be : BitVec 4) : (s.violRecord fn addr kind wr be).mains = s.mains := by unfold State.violRecord; rw [State.setReg_mains, State.setReg_mains]
@[simp] theorem State.violRecord_io (fn : Fn) (addr kind : Nat) (wr : Bool) (be : BitVec 4) : (s.violRecord fn addr kind wr be).io = s.io := by unfold State.violRecord; rw [State.setReg_io, State.setReg_io]
@[simp] theorem State.violRecord_line (fn : Fn) (addr kind : Nat) (wr : Bool) (be : BitVec 4) : (s.violRecord fn addr kind wr be).line = s.line := by unfold State.violRecord; rw [State.setReg_line, State.setReg_line]
@[simp] theorem State.violRecord_net (fn : Fn) (addr kind : Nat) (wr : Bool) (be : BitVec 4) : (s.violRecord fn addr kind wr be).net = s.net := by unfold State.violRecord; rw [State.setReg_net, State.setReg_net]
@[simp] theorem State.violRecord_cph (fn : Fn) (addr kind : Nat) (wr : Bool) (be : BitVec 4) : (s.violRecord fn addr kind wr be).cph = s.cph := by unfold State.violRecord; rw [State.setReg_cph, State.setReg_cph]
@[simp] theorem State.violRecord_slp (fn : Fn) (addr kind : Nat) (wr : Bool) (be : BitVec 4) : (s.violRecord fn addr kind wr be).slp = s.slp := by unfold State.violRecord; rw [State.setReg_slp, State.setReg_slp]
@[simp] theorem State.violRecord_nvm (fn : Fn) (addr kind : Nat) (wr : Bool) (be : BitVec 4) : (s.violRecord fn addr kind wr be).nvm = s.nvm := by unfold State.violRecord; rw [State.setReg_nvm, State.setReg_nvm]
@[simp] theorem State.violRecord_twn (fn : Fn) (addr kind : Nat) (wr : Bool) (be : BitVec 4) : (s.violRecord fn addr kind wr be).twn = s.twn := by unfold State.violRecord; rw [State.setReg_twn, State.setReg_twn]

@[simp] theorem State.violation_pending (fn : Fn) (addr kind : Nat) (wr : Bool) (be : BitVec 4) : (s.violation fn addr kind wr be).pending = s.pending := by unfold State.violation; split <;> simp only [State.violRecord_pending, State.violCount_pending]
@[simp] theorem State.violation_out (fn : Fn) (addr kind : Nat) (wr : Bool) (be : BitVec 4) : (s.violation fn addr kind wr be).out = s.out := by unfold State.violation; split <;> simp only [State.violRecord_out, State.violCount_out]
@[simp] theorem State.violation_fresh (fn : Fn) (addr kind : Nat) (wr : Bool) (be : BitVec 4) : (s.violation fn addr kind wr be).fresh = s.fresh := by unfold State.violation; split <;> simp only [State.violRecord_fresh, State.violCount_fresh]
@[simp] theorem State.violation_chip (fn : Fn) (addr kind : Nat) (wr : Bool) (be : BitVec 4) : (s.violation fn addr kind wr be).chip = s.chip := by unfold State.violation; split <;> simp only [State.violRecord_chip, State.violCount_chip]
@[simp] theorem State.violation_latches (fn : Fn) (addr kind : Nat) (wr : Bool) (be : BitVec 4) : (s.violation fn addr kind wr be).latches = s.latches := by unfold State.violation; split <;> simp only [State.violRecord_latches, State.violCount_latches]
@[simp] theorem State.violation_softReset (fn : Fn) (addr kind : Nat) (wr : Bool) (be : BitVec 4) : (s.violation fn addr kind wr be).softReset = s.softReset := by unfold State.violation; split <;> simp only [State.violRecord_softReset, State.violCount_softReset]
@[simp] theorem State.violation_isoTests (fn : Fn) (addr kind : Nat) (wr : Bool) (be : BitVec 4) : (s.violation fn addr kind wr be).isoTests = s.isoTests := by unfold State.violation; split <;> simp only [State.violRecord_isoTests, State.violCount_isoTests]
@[simp] theorem State.violation_fns (fn : Fn) (addr kind : Nat) (wr : Bool) (be : BitVec 4) : (s.violation fn addr kind wr be).fns = s.fns := by unfold State.violation; split <;> simp only [State.violRecord_fns, State.violCount_fns]
@[simp] theorem State.violation_pwr (fn : Fn) (addr kind : Nat) (wr : Bool) (be : BitVec 4) : (s.violation fn addr kind wr be).pwr = s.pwr := by unfold State.violation; split <;> simp only [State.violRecord_pwr, State.violCount_pwr]
@[simp] theorem State.violation_mem (fn : Fn) (addr kind : Nat) (wr : Bool) (be : BitVec 4) : (s.violation fn addr kind wr be).mem = s.mem := by unfold State.violation; split <;> simp only [State.violRecord_mem, State.violCount_mem]
@[simp] theorem State.violation_gather (fn : Fn) (addr kind : Nat) (wr : Bool) (be : BitVec 4) : (s.violation fn addr kind wr be).gather = s.gather := by unfold State.violation; split <;> simp only [State.violRecord_gather, State.violCount_gather]
@[simp] theorem State.violation_ct (fn : Fn) (addr kind : Nat) (wr : Bool) (be : BitVec 4) : (s.violation fn addr kind wr be).ct = s.ct := by unfold State.violation; split <;> simp only [State.violRecord_ct, State.violCount_ct]
@[simp] theorem State.violation_chains (fn : Fn) (addr kind : Nat) (wr : Bool) (be : BitVec 4) : (s.violation fn addr kind wr be).chains = s.chains := by unfold State.violation; split <;> simp only [State.violRecord_chains, State.violCount_chains]
@[simp] theorem State.violation_mains (fn : Fn) (addr kind : Nat) (wr : Bool) (be : BitVec 4) : (s.violation fn addr kind wr be).mains = s.mains := by unfold State.violation; split <;> simp only [State.violRecord_mains, State.violCount_mains]
@[simp] theorem State.violation_io (fn : Fn) (addr kind : Nat) (wr : Bool) (be : BitVec 4) : (s.violation fn addr kind wr be).io = s.io := by unfold State.violation; split <;> simp only [State.violRecord_io, State.violCount_io]
@[simp] theorem State.violation_line (fn : Fn) (addr kind : Nat) (wr : Bool) (be : BitVec 4) : (s.violation fn addr kind wr be).line = s.line := by unfold State.violation; split <;> simp only [State.violRecord_line, State.violCount_line]
@[simp] theorem State.violation_net (fn : Fn) (addr kind : Nat) (wr : Bool) (be : BitVec 4) : (s.violation fn addr kind wr be).net = s.net := by unfold State.violation; split <;> simp only [State.violRecord_net, State.violCount_net]
@[simp] theorem State.violation_cph (fn : Fn) (addr kind : Nat) (wr : Bool) (be : BitVec 4) : (s.violation fn addr kind wr be).cph = s.cph := by unfold State.violation; split <;> simp only [State.violRecord_cph, State.violCount_cph]
@[simp] theorem State.violation_slp (fn : Fn) (addr kind : Nat) (wr : Bool) (be : BitVec 4) : (s.violation fn addr kind wr be).slp = s.slp := by unfold State.violation; split <;> simp only [State.violRecord_slp, State.violCount_slp]
@[simp] theorem State.violation_nvm (fn : Fn) (addr kind : Nat) (wr : Bool) (be : BitVec 4) : (s.violation fn addr kind wr be).nvm = s.nvm := by unfold State.violation; split <;> simp only [State.violRecord_nvm, State.violCount_nvm]
@[simp] theorem State.violation_twn (fn : Fn) (addr kind : Nat) (wr : Bool) (be : BitVec 4) : (s.violation fn addr kind wr be).twn = s.twn := by unfold State.violation; split <;> simp only [State.violRecord_twn, State.violCount_twn]

@[simp] theorem State.freeNat_pending  : (s.freeNat.2).pending = s.pending := (rfl)
@[simp] theorem State.freeNat_out  : (s.freeNat.2).out = s.out := (rfl)
@[simp] theorem State.freeNat_chip  : (s.freeNat.2).chip = s.chip := (rfl)
@[simp] theorem State.freeNat_regs  : (s.freeNat.2).regs = s.regs := (rfl)
@[simp] theorem State.freeNat_latches  : (s.freeNat.2).latches = s.latches := (rfl)
@[simp] theorem State.freeNat_violArmed  : (s.freeNat.2).violArmed = s.violArmed := (rfl)
@[simp] theorem State.freeNat_softReset  : (s.freeNat.2).softReset = s.softReset := (rfl)
@[simp] theorem State.freeNat_isoTests  : (s.freeNat.2).isoTests = s.isoTests := (rfl)
@[simp] theorem State.freeNat_fns  : (s.freeNat.2).fns = s.fns := (rfl)
@[simp] theorem State.freeNat_pwr  : (s.freeNat.2).pwr = s.pwr := (rfl)
@[simp] theorem State.freeNat_mem  : (s.freeNat.2).mem = s.mem := (rfl)
@[simp] theorem State.freeNat_gather  : (s.freeNat.2).gather = s.gather := (rfl)
@[simp] theorem State.freeNat_ct  : (s.freeNat.2).ct = s.ct := (rfl)
@[simp] theorem State.freeNat_chains  : (s.freeNat.2).chains = s.chains := (rfl)
@[simp] theorem State.freeNat_mains  : (s.freeNat.2).mains = s.mains := (rfl)
@[simp] theorem State.freeNat_io  : (s.freeNat.2).io = s.io := (rfl)
@[simp] theorem State.freeNat_line  : (s.freeNat.2).line = s.line := (rfl)
@[simp] theorem State.freeNat_net  : (s.freeNat.2).net = s.net := (rfl)
@[simp] theorem State.freeNat_cph  : (s.freeNat.2).cph = s.cph := (rfl)
@[simp] theorem State.freeNat_slp  : (s.freeNat.2).slp = s.slp := (rfl)
@[simp] theorem State.freeNat_nvm  : (s.freeNat.2).nvm = s.nvm := (rfl)
@[simp] theorem State.freeNat_twn  : (s.freeNat.2).twn = s.twn := (rfl)

@[simp] theorem State.tmapPut_pending (a v : Nat) : (s.tmapPut a v).pending = s.pending := (rfl)
@[simp] theorem State.tmapPut_out (a v : Nat) : (s.tmapPut a v).out = s.out := (rfl)
@[simp] theorem State.tmapPut_fresh (a v : Nat) : (s.tmapPut a v).fresh = s.fresh := (rfl)
@[simp] theorem State.tmapPut_chip (a v : Nat) : (s.tmapPut a v).chip = s.chip := (rfl)
@[simp] theorem State.tmapPut_regs (a v : Nat) : (s.tmapPut a v).regs = s.regs := (rfl)
@[simp] theorem State.tmapPut_latches (a v : Nat) : (s.tmapPut a v).latches = s.latches := (rfl)
@[simp] theorem State.tmapPut_violArmed (a v : Nat) : (s.tmapPut a v).violArmed = s.violArmed := (rfl)
@[simp] theorem State.tmapPut_softReset (a v : Nat) : (s.tmapPut a v).softReset = s.softReset := (rfl)
@[simp] theorem State.tmapPut_isoTests (a v : Nat) : (s.tmapPut a v).isoTests = s.isoTests := (rfl)
@[simp] theorem State.tmapPut_fns (a v : Nat) : (s.tmapPut a v).fns = s.fns := (rfl)
@[simp] theorem State.tmapPut_pwr (a v : Nat) : (s.tmapPut a v).pwr = s.pwr := (rfl)
@[simp] theorem State.tmapPut_gather (a v : Nat) : (s.tmapPut a v).gather = s.gather := (rfl)
@[simp] theorem State.tmapPut_ct (a v : Nat) : (s.tmapPut a v).ct = s.ct := (rfl)
@[simp] theorem State.tmapPut_chains (a v : Nat) : (s.tmapPut a v).chains = s.chains := (rfl)
@[simp] theorem State.tmapPut_mains (a v : Nat) : (s.tmapPut a v).mains = s.mains := (rfl)
@[simp] theorem State.tmapPut_io (a v : Nat) : (s.tmapPut a v).io = s.io := (rfl)
@[simp] theorem State.tmapPut_line (a v : Nat) : (s.tmapPut a v).line = s.line := (rfl)
@[simp] theorem State.tmapPut_net (a v : Nat) : (s.tmapPut a v).net = s.net := (rfl)
@[simp] theorem State.tmapPut_cph (a v : Nat) : (s.tmapPut a v).cph = s.cph := (rfl)
@[simp] theorem State.tmapPut_slp (a v : Nat) : (s.tmapPut a v).slp = s.slp := (rfl)
@[simp] theorem State.tmapPut_nvm (a v : Nat) : (s.tmapPut a v).nvm = s.nvm := (rfl)
@[simp] theorem State.tmapPut_twn (a v : Nat) : (s.tmapPut a v).twn = s.twn := (rfl)

@[simp] theorem State.sbufPut_pending (a v : Nat) : (s.sbufPut a v).pending = s.pending := (rfl)
@[simp] theorem State.sbufPut_out (a v : Nat) : (s.sbufPut a v).out = s.out := (rfl)
@[simp] theorem State.sbufPut_fresh (a v : Nat) : (s.sbufPut a v).fresh = s.fresh := (rfl)
@[simp] theorem State.sbufPut_chip (a v : Nat) : (s.sbufPut a v).chip = s.chip := (rfl)
@[simp] theorem State.sbufPut_regs (a v : Nat) : (s.sbufPut a v).regs = s.regs := (rfl)
@[simp] theorem State.sbufPut_latches (a v : Nat) : (s.sbufPut a v).latches = s.latches := (rfl)
@[simp] theorem State.sbufPut_violArmed (a v : Nat) : (s.sbufPut a v).violArmed = s.violArmed := (rfl)
@[simp] theorem State.sbufPut_softReset (a v : Nat) : (s.sbufPut a v).softReset = s.softReset := (rfl)
@[simp] theorem State.sbufPut_isoTests (a v : Nat) : (s.sbufPut a v).isoTests = s.isoTests := (rfl)
@[simp] theorem State.sbufPut_fns (a v : Nat) : (s.sbufPut a v).fns = s.fns := (rfl)
@[simp] theorem State.sbufPut_pwr (a v : Nat) : (s.sbufPut a v).pwr = s.pwr := (rfl)
@[simp] theorem State.sbufPut_gather (a v : Nat) : (s.sbufPut a v).gather = s.gather := (rfl)
@[simp] theorem State.sbufPut_ct (a v : Nat) : (s.sbufPut a v).ct = s.ct := (rfl)
@[simp] theorem State.sbufPut_chains (a v : Nat) : (s.sbufPut a v).chains = s.chains := (rfl)
@[simp] theorem State.sbufPut_mains (a v : Nat) : (s.sbufPut a v).mains = s.mains := (rfl)
@[simp] theorem State.sbufPut_io (a v : Nat) : (s.sbufPut a v).io = s.io := (rfl)
@[simp] theorem State.sbufPut_line (a v : Nat) : (s.sbufPut a v).line = s.line := (rfl)
@[simp] theorem State.sbufPut_net (a v : Nat) : (s.sbufPut a v).net = s.net := (rfl)
@[simp] theorem State.sbufPut_cph (a v : Nat) : (s.sbufPut a v).cph = s.cph := (rfl)
@[simp] theorem State.sbufPut_slp (a v : Nat) : (s.sbufPut a v).slp = s.slp := (rfl)
@[simp] theorem State.sbufPut_nvm (a v : Nat) : (s.sbufPut a v).nvm = s.nvm := (rfl)
@[simp] theorem State.sbufPut_twn (a v : Nat) : (s.sbufPut a v).twn = s.twn := (rfl)

@[simp] theorem State.setChan_pending (c : Nat) (x : Chan) : (s.setChan c x).pending = s.pending := (rfl)
@[simp] theorem State.setChan_out (c : Nat) (x : Chan) : (s.setChan c x).out = s.out := (rfl)
@[simp] theorem State.setChan_fresh (c : Nat) (x : Chan) : (s.setChan c x).fresh = s.fresh := (rfl)
@[simp] theorem State.setChan_chip (c : Nat) (x : Chan) : (s.setChan c x).chip = s.chip := (rfl)
@[simp] theorem State.setChan_regs (c : Nat) (x : Chan) : (s.setChan c x).regs = s.regs := (rfl)
@[simp] theorem State.setChan_latches (c : Nat) (x : Chan) : (s.setChan c x).latches = s.latches := (rfl)
@[simp] theorem State.setChan_violArmed (c : Nat) (x : Chan) : (s.setChan c x).violArmed = s.violArmed := (rfl)
@[simp] theorem State.setChan_softReset (c : Nat) (x : Chan) : (s.setChan c x).softReset = s.softReset := (rfl)
@[simp] theorem State.setChan_isoTests (c : Nat) (x : Chan) : (s.setChan c x).isoTests = s.isoTests := (rfl)
@[simp] theorem State.setChan_fns (c : Nat) (x : Chan) : (s.setChan c x).fns = s.fns := (rfl)
@[simp] theorem State.setChan_pwr (c : Nat) (x : Chan) : (s.setChan c x).pwr = s.pwr := (rfl)
@[simp] theorem State.setChan_mem (c : Nat) (x : Chan) : (s.setChan c x).mem = s.mem := (rfl)
@[simp] theorem State.setChan_gather (c : Nat) (x : Chan) : (s.setChan c x).gather = s.gather := (rfl)
@[simp] theorem State.setChan_ct (c : Nat) (x : Chan) : (s.setChan c x).ct = s.ct := (rfl)
@[simp] theorem State.setChan_chains (c : Nat) (x : Chan) : (s.setChan c x).chains = s.chains := (rfl)
@[simp] theorem State.setChan_mains (c : Nat) (x : Chan) : (s.setChan c x).mains = s.mains := (rfl)
@[simp] theorem State.setChan_io (c : Nat) (x : Chan) : (s.setChan c x).io = s.io := (rfl)
@[simp] theorem State.setChan_net (c : Nat) (x : Chan) : (s.setChan c x).net = s.net := (rfl)
@[simp] theorem State.setChan_cph (c : Nat) (x : Chan) : (s.setChan c x).cph = s.cph := (rfl)
@[simp] theorem State.setChan_slp (c : Nat) (x : Chan) : (s.setChan c x).slp = s.slp := (rfl)
@[simp] theorem State.setChan_nvm (c : Nat) (x : Chan) : (s.setChan c x).nvm = s.nvm := (rfl)
@[simp] theorem State.setChan_twn (c : Nat) (x : Chan) : (s.setChan c x).twn = s.twn := (rfl)

@[simp] theorem State.setPort_pending (p : Nat) (x : Port) : (s.setPort p x).pending = s.pending := (rfl)
@[simp] theorem State.setPort_out (p : Nat) (x : Port) : (s.setPort p x).out = s.out := (rfl)
@[simp] theorem State.setPort_fresh (p : Nat) (x : Port) : (s.setPort p x).fresh = s.fresh := (rfl)
@[simp] theorem State.setPort_chip (p : Nat) (x : Port) : (s.setPort p x).chip = s.chip := (rfl)
@[simp] theorem State.setPort_regs (p : Nat) (x : Port) : (s.setPort p x).regs = s.regs := (rfl)
@[simp] theorem State.setPort_latches (p : Nat) (x : Port) : (s.setPort p x).latches = s.latches := (rfl)
@[simp] theorem State.setPort_violArmed (p : Nat) (x : Port) : (s.setPort p x).violArmed = s.violArmed := (rfl)
@[simp] theorem State.setPort_softReset (p : Nat) (x : Port) : (s.setPort p x).softReset = s.softReset := (rfl)
@[simp] theorem State.setPort_isoTests (p : Nat) (x : Port) : (s.setPort p x).isoTests = s.isoTests := (rfl)
@[simp] theorem State.setPort_fns (p : Nat) (x : Port) : (s.setPort p x).fns = s.fns := (rfl)
@[simp] theorem State.setPort_pwr (p : Nat) (x : Port) : (s.setPort p x).pwr = s.pwr := (rfl)
@[simp] theorem State.setPort_mem (p : Nat) (x : Port) : (s.setPort p x).mem = s.mem := (rfl)
@[simp] theorem State.setPort_gather (p : Nat) (x : Port) : (s.setPort p x).gather = s.gather := (rfl)
@[simp] theorem State.setPort_ct (p : Nat) (x : Port) : (s.setPort p x).ct = s.ct := (rfl)
@[simp] theorem State.setPort_chains (p : Nat) (x : Port) : (s.setPort p x).chains = s.chains := (rfl)
@[simp] theorem State.setPort_mains (p : Nat) (x : Port) : (s.setPort p x).mains = s.mains := (rfl)
@[simp] theorem State.setPort_io (p : Nat) (x : Port) : (s.setPort p x).io = s.io := (rfl)
@[simp] theorem State.setPort_net (p : Nat) (x : Port) : (s.setPort p x).net = s.net := (rfl)
@[simp] theorem State.setPort_cph (p : Nat) (x : Port) : (s.setPort p x).cph = s.cph := (rfl)
@[simp] theorem State.setPort_slp (p : Nat) (x : Port) : (s.setPort p x).slp = s.slp := (rfl)
@[simp] theorem State.setPort_nvm (p : Nat) (x : Port) : (s.setPort p x).nvm = s.nvm := (rfl)
@[simp] theorem State.setPort_twn (p : Nat) (x : Port) : (s.setPort p x).twn = s.twn := (rfl)

@[simp] theorem State.setStn_pending (k : Nat) (x : Stn) : (s.setStn k x).pending = s.pending := (rfl)
@[simp] theorem State.setStn_out (k : Nat) (x : Stn) : (s.setStn k x).out = s.out := (rfl)
@[simp] theorem State.setStn_fresh (k : Nat) (x : Stn) : (s.setStn k x).fresh = s.fresh := (rfl)
@[simp] theorem State.setStn_chip (k : Nat) (x : Stn) : (s.setStn k x).chip = s.chip := (rfl)
@[simp] theorem State.setStn_regs (k : Nat) (x : Stn) : (s.setStn k x).regs = s.regs := (rfl)
@[simp] theorem State.setStn_latches (k : Nat) (x : Stn) : (s.setStn k x).latches = s.latches := (rfl)
@[simp] theorem State.setStn_violArmed (k : Nat) (x : Stn) : (s.setStn k x).violArmed = s.violArmed := (rfl)
@[simp] theorem State.setStn_softReset (k : Nat) (x : Stn) : (s.setStn k x).softReset = s.softReset := (rfl)
@[simp] theorem State.setStn_isoTests (k : Nat) (x : Stn) : (s.setStn k x).isoTests = s.isoTests := (rfl)
@[simp] theorem State.setStn_fns (k : Nat) (x : Stn) : (s.setStn k x).fns = s.fns := (rfl)
@[simp] theorem State.setStn_pwr (k : Nat) (x : Stn) : (s.setStn k x).pwr = s.pwr := (rfl)
@[simp] theorem State.setStn_mem (k : Nat) (x : Stn) : (s.setStn k x).mem = s.mem := (rfl)
@[simp] theorem State.setStn_gather (k : Nat) (x : Stn) : (s.setStn k x).gather = s.gather := (rfl)
@[simp] theorem State.setStn_ct (k : Nat) (x : Stn) : (s.setStn k x).ct = s.ct := (rfl)
@[simp] theorem State.setStn_chains (k : Nat) (x : Stn) : (s.setStn k x).chains = s.chains := (rfl)
@[simp] theorem State.setStn_mains (k : Nat) (x : Stn) : (s.setStn k x).mains = s.mains := (rfl)
@[simp] theorem State.setStn_io (k : Nat) (x : Stn) : (s.setStn k x).io = s.io := (rfl)
@[simp] theorem State.setStn_net (k : Nat) (x : Stn) : (s.setStn k x).net = s.net := (rfl)
@[simp] theorem State.setStn_cph (k : Nat) (x : Stn) : (s.setStn k x).cph = s.cph := (rfl)
@[simp] theorem State.setStn_slp (k : Nat) (x : Stn) : (s.setStn k x).slp = s.slp := (rfl)
@[simp] theorem State.setStn_nvm (k : Nat) (x : Stn) : (s.setStn k x).nvm = s.nvm := (rfl)
@[simp] theorem State.setStn_twn (k : Nat) (x : Stn) : (s.setStn k x).twn = s.twn := (rfl)

@[simp] theorem State.setJobs_pending (l : List Job) : (s.setJobs l).pending = s.pending := (rfl)
@[simp] theorem State.setJobs_out (l : List Job) : (s.setJobs l).out = s.out := (rfl)
@[simp] theorem State.setJobs_fresh (l : List Job) : (s.setJobs l).fresh = s.fresh := (rfl)
@[simp] theorem State.setJobs_chip (l : List Job) : (s.setJobs l).chip = s.chip := (rfl)
@[simp] theorem State.setJobs_regs (l : List Job) : (s.setJobs l).regs = s.regs := (rfl)
@[simp] theorem State.setJobs_latches (l : List Job) : (s.setJobs l).latches = s.latches := (rfl)
@[simp] theorem State.setJobs_violArmed (l : List Job) : (s.setJobs l).violArmed = s.violArmed := (rfl)
@[simp] theorem State.setJobs_softReset (l : List Job) : (s.setJobs l).softReset = s.softReset := (rfl)
@[simp] theorem State.setJobs_isoTests (l : List Job) : (s.setJobs l).isoTests = s.isoTests := (rfl)
@[simp] theorem State.setJobs_fns (l : List Job) : (s.setJobs l).fns = s.fns := (rfl)
@[simp] theorem State.setJobs_pwr (l : List Job) : (s.setJobs l).pwr = s.pwr := (rfl)
@[simp] theorem State.setJobs_mem (l : List Job) : (s.setJobs l).mem = s.mem := (rfl)
@[simp] theorem State.setJobs_gather (l : List Job) : (s.setJobs l).gather = s.gather := (rfl)
@[simp] theorem State.setJobs_ct (l : List Job) : (s.setJobs l).ct = s.ct := (rfl)
@[simp] theorem State.setJobs_chains (l : List Job) : (s.setJobs l).chains = s.chains := (rfl)
@[simp] theorem State.setJobs_mains (l : List Job) : (s.setJobs l).mains = s.mains := (rfl)
@[simp] theorem State.setJobs_io (l : List Job) : (s.setJobs l).io = s.io := (rfl)
@[simp] theorem State.setJobs_net (l : List Job) : (s.setJobs l).net = s.net := (rfl)
@[simp] theorem State.setJobs_cph (l : List Job) : (s.setJobs l).cph = s.cph := (rfl)
@[simp] theorem State.setJobs_slp (l : List Job) : (s.setJobs l).slp = s.slp := (rfl)
@[simp] theorem State.setJobs_nvm (l : List Job) : (s.setJobs l).nvm = s.nvm := (rfl)
@[simp] theorem State.setJobs_twn (l : List Job) : (s.setJobs l).twn = s.twn := (rfl)

@[simp] theorem State.setLink_pending (l : Link5) : (s.setLink l).pending = s.pending := (rfl)
@[simp] theorem State.setLink_out (l : Link5) : (s.setLink l).out = s.out := (rfl)
@[simp] theorem State.setLink_fresh (l : Link5) : (s.setLink l).fresh = s.fresh := (rfl)
@[simp] theorem State.setLink_chip (l : Link5) : (s.setLink l).chip = s.chip := (rfl)
@[simp] theorem State.setLink_regs (l : Link5) : (s.setLink l).regs = s.regs := (rfl)
@[simp] theorem State.setLink_latches (l : Link5) : (s.setLink l).latches = s.latches := (rfl)
@[simp] theorem State.setLink_violArmed (l : Link5) : (s.setLink l).violArmed = s.violArmed := (rfl)
@[simp] theorem State.setLink_softReset (l : Link5) : (s.setLink l).softReset = s.softReset := (rfl)
@[simp] theorem State.setLink_isoTests (l : Link5) : (s.setLink l).isoTests = s.isoTests := (rfl)
@[simp] theorem State.setLink_fns (l : Link5) : (s.setLink l).fns = s.fns := (rfl)
@[simp] theorem State.setLink_pwr (l : Link5) : (s.setLink l).pwr = s.pwr := (rfl)
@[simp] theorem State.setLink_mem (l : Link5) : (s.setLink l).mem = s.mem := (rfl)
@[simp] theorem State.setLink_gather (l : Link5) : (s.setLink l).gather = s.gather := (rfl)
@[simp] theorem State.setLink_ct (l : Link5) : (s.setLink l).ct = s.ct := (rfl)
@[simp] theorem State.setLink_chains (l : Link5) : (s.setLink l).chains = s.chains := (rfl)
@[simp] theorem State.setLink_mains (l : Link5) : (s.setLink l).mains = s.mains := (rfl)
@[simp] theorem State.setLink_io (l : Link5) : (s.setLink l).io = s.io := (rfl)
@[simp] theorem State.setLink_net (l : Link5) : (s.setLink l).net = s.net := (rfl)
@[simp] theorem State.setLink_cph (l : Link5) : (s.setLink l).cph = s.cph := (rfl)
@[simp] theorem State.setLink_slp (l : Link5) : (s.setLink l).slp = s.slp := (rfl)
@[simp] theorem State.setLink_nvm (l : Link5) : (s.setLink l).nvm = s.nvm := (rfl)
@[simp] theorem State.setLink_twn (l : Link5) : (s.setLink l).twn = s.twn := (rfl)

@[simp] theorem State.setChain_pending (m : Fin 8) (c : Chain) : (s.setChain m c).pending = s.pending := (rfl)
@[simp] theorem State.setChain_out (m : Fin 8) (c : Chain) : (s.setChain m c).out = s.out := (rfl)
@[simp] theorem State.setChain_fresh (m : Fin 8) (c : Chain) : (s.setChain m c).fresh = s.fresh := (rfl)
@[simp] theorem State.setChain_chip (m : Fin 8) (c : Chain) : (s.setChain m c).chip = s.chip := (rfl)
@[simp] theorem State.setChain_regs (m : Fin 8) (c : Chain) : (s.setChain m c).regs = s.regs := (rfl)
@[simp] theorem State.setChain_latches (m : Fin 8) (c : Chain) : (s.setChain m c).latches = s.latches := (rfl)
@[simp] theorem State.setChain_violArmed (m : Fin 8) (c : Chain) : (s.setChain m c).violArmed = s.violArmed := (rfl)
@[simp] theorem State.setChain_softReset (m : Fin 8) (c : Chain) : (s.setChain m c).softReset = s.softReset := (rfl)
@[simp] theorem State.setChain_isoTests (m : Fin 8) (c : Chain) : (s.setChain m c).isoTests = s.isoTests := (rfl)
@[simp] theorem State.setChain_fns (m : Fin 8) (c : Chain) : (s.setChain m c).fns = s.fns := (rfl)
@[simp] theorem State.setChain_pwr (m : Fin 8) (c : Chain) : (s.setChain m c).pwr = s.pwr := (rfl)
@[simp] theorem State.setChain_mem (m : Fin 8) (c : Chain) : (s.setChain m c).mem = s.mem := (rfl)
@[simp] theorem State.setChain_gather (m : Fin 8) (c : Chain) : (s.setChain m c).gather = s.gather := (rfl)
@[simp] theorem State.setChain_ct (m : Fin 8) (c : Chain) : (s.setChain m c).ct = s.ct := (rfl)
@[simp] theorem State.setChain_mains (m : Fin 8) (c : Chain) : (s.setChain m c).mains = s.mains := (rfl)
@[simp] theorem State.setChain_io (m : Fin 8) (c : Chain) : (s.setChain m c).io = s.io := (rfl)
@[simp] theorem State.setChain_line (m : Fin 8) (c : Chain) : (s.setChain m c).line = s.line := (rfl)
@[simp] theorem State.setChain_net (m : Fin 8) (c : Chain) : (s.setChain m c).net = s.net := (rfl)
@[simp] theorem State.setChain_cph (m : Fin 8) (c : Chain) : (s.setChain m c).cph = s.cph := (rfl)
@[simp] theorem State.setChain_slp (m : Fin 8) (c : Chain) : (s.setChain m c).slp = s.slp := (rfl)
@[simp] theorem State.setChain_nvm (m : Fin 8) (c : Chain) : (s.setChain m c).nvm = s.nvm := (rfl)
@[simp] theorem State.setChain_twn (m : Fin 8) (c : Chain) : (s.setChain m c).twn = s.twn := (rfl)

@[simp] theorem State.setUart_pending (u : Fin 2) (x : Uart) : (s.setUart u x).pending = s.pending := (rfl)
@[simp] theorem State.setUart_out (u : Fin 2) (x : Uart) : (s.setUart u x).out = s.out := (rfl)
@[simp] theorem State.setUart_fresh (u : Fin 2) (x : Uart) : (s.setUart u x).fresh = s.fresh := (rfl)
@[simp] theorem State.setUart_chip (u : Fin 2) (x : Uart) : (s.setUart u x).chip = s.chip := (rfl)
@[simp] theorem State.setUart_regs (u : Fin 2) (x : Uart) : (s.setUart u x).regs = s.regs := (rfl)
@[simp] theorem State.setUart_latches (u : Fin 2) (x : Uart) : (s.setUart u x).latches = s.latches := (rfl)
@[simp] theorem State.setUart_violArmed (u : Fin 2) (x : Uart) : (s.setUart u x).violArmed = s.violArmed := (rfl)
@[simp] theorem State.setUart_softReset (u : Fin 2) (x : Uart) : (s.setUart u x).softReset = s.softReset := (rfl)
@[simp] theorem State.setUart_isoTests (u : Fin 2) (x : Uart) : (s.setUart u x).isoTests = s.isoTests := (rfl)
@[simp] theorem State.setUart_fns (u : Fin 2) (x : Uart) : (s.setUart u x).fns = s.fns := (rfl)
@[simp] theorem State.setUart_pwr (u : Fin 2) (x : Uart) : (s.setUart u x).pwr = s.pwr := (rfl)
@[simp] theorem State.setUart_mem (u : Fin 2) (x : Uart) : (s.setUart u x).mem = s.mem := (rfl)
@[simp] theorem State.setUart_gather (u : Fin 2) (x : Uart) : (s.setUart u x).gather = s.gather := (rfl)
@[simp] theorem State.setUart_ct (u : Fin 2) (x : Uart) : (s.setUart u x).ct = s.ct := (rfl)
@[simp] theorem State.setUart_chains (u : Fin 2) (x : Uart) : (s.setUart u x).chains = s.chains := (rfl)
@[simp] theorem State.setUart_mains (u : Fin 2) (x : Uart) : (s.setUart u x).mains = s.mains := (rfl)
@[simp] theorem State.setUart_line (u : Fin 2) (x : Uart) : (s.setUart u x).line = s.line := (rfl)
@[simp] theorem State.setUart_net (u : Fin 2) (x : Uart) : (s.setUart u x).net = s.net := (rfl)
@[simp] theorem State.setUart_cph (u : Fin 2) (x : Uart) : (s.setUart u x).cph = s.cph := (rfl)
@[simp] theorem State.setUart_slp (u : Fin 2) (x : Uart) : (s.setUart u x).slp = s.slp := (rfl)
@[simp] theorem State.setUart_nvm (u : Fin 2) (x : Uart) : (s.setUart u x).nvm = s.nvm := (rfl)
@[simp] theorem State.setUart_twn (u : Fin 2) (x : Uart) : (s.setUart u x).twn = s.twn := (rfl)

@[simp] theorem State.setCmdIn_pending (i : Fin 8) (x : CmdIn) : (s.setCmdIn i x).pending = s.pending := (rfl)
@[simp] theorem State.setCmdIn_out (i : Fin 8) (x : CmdIn) : (s.setCmdIn i x).out = s.out := (rfl)
@[simp] theorem State.setCmdIn_fresh (i : Fin 8) (x : CmdIn) : (s.setCmdIn i x).fresh = s.fresh := (rfl)
@[simp] theorem State.setCmdIn_chip (i : Fin 8) (x : CmdIn) : (s.setCmdIn i x).chip = s.chip := (rfl)
@[simp] theorem State.setCmdIn_regs (i : Fin 8) (x : CmdIn) : (s.setCmdIn i x).regs = s.regs := (rfl)
@[simp] theorem State.setCmdIn_latches (i : Fin 8) (x : CmdIn) : (s.setCmdIn i x).latches = s.latches := (rfl)
@[simp] theorem State.setCmdIn_violArmed (i : Fin 8) (x : CmdIn) : (s.setCmdIn i x).violArmed = s.violArmed := (rfl)
@[simp] theorem State.setCmdIn_softReset (i : Fin 8) (x : CmdIn) : (s.setCmdIn i x).softReset = s.softReset := (rfl)
@[simp] theorem State.setCmdIn_isoTests (i : Fin 8) (x : CmdIn) : (s.setCmdIn i x).isoTests = s.isoTests := (rfl)
@[simp] theorem State.setCmdIn_fns (i : Fin 8) (x : CmdIn) : (s.setCmdIn i x).fns = s.fns := (rfl)
@[simp] theorem State.setCmdIn_pwr (i : Fin 8) (x : CmdIn) : (s.setCmdIn i x).pwr = s.pwr := (rfl)
@[simp] theorem State.setCmdIn_mem (i : Fin 8) (x : CmdIn) : (s.setCmdIn i x).mem = s.mem := (rfl)
@[simp] theorem State.setCmdIn_gather (i : Fin 8) (x : CmdIn) : (s.setCmdIn i x).gather = s.gather := (rfl)
@[simp] theorem State.setCmdIn_ct (i : Fin 8) (x : CmdIn) : (s.setCmdIn i x).ct = s.ct := (rfl)
@[simp] theorem State.setCmdIn_chains (i : Fin 8) (x : CmdIn) : (s.setCmdIn i x).chains = s.chains := (rfl)
@[simp] theorem State.setCmdIn_mains (i : Fin 8) (x : CmdIn) : (s.setCmdIn i x).mains = s.mains := (rfl)
@[simp] theorem State.setCmdIn_line (i : Fin 8) (x : CmdIn) : (s.setCmdIn i x).line = s.line := (rfl)
@[simp] theorem State.setCmdIn_net (i : Fin 8) (x : CmdIn) : (s.setCmdIn i x).net = s.net := (rfl)
@[simp] theorem State.setCmdIn_cph (i : Fin 8) (x : CmdIn) : (s.setCmdIn i x).cph = s.cph := (rfl)
@[simp] theorem State.setCmdIn_slp (i : Fin 8) (x : CmdIn) : (s.setCmdIn i x).slp = s.slp := (rfl)
@[simp] theorem State.setCmdIn_nvm (i : Fin 8) (x : CmdIn) : (s.setCmdIn i x).nvm = s.nvm := (rfl)
@[simp] theorem State.setCmdIn_twn (i : Fin 8) (x : CmdIn) : (s.setCmdIn i x).twn = s.twn := (rfl)

@[simp] theorem State.setPin_pending (p : Nat) (x : Pin) : (s.setPin p x).pending = s.pending := (rfl)
@[simp] theorem State.setPin_out (p : Nat) (x : Pin) : (s.setPin p x).out = s.out := (rfl)
@[simp] theorem State.setPin_fresh (p : Nat) (x : Pin) : (s.setPin p x).fresh = s.fresh := (rfl)
@[simp] theorem State.setPin_chip (p : Nat) (x : Pin) : (s.setPin p x).chip = s.chip := (rfl)
@[simp] theorem State.setPin_regs (p : Nat) (x : Pin) : (s.setPin p x).regs = s.regs := (rfl)
@[simp] theorem State.setPin_latches (p : Nat) (x : Pin) : (s.setPin p x).latches = s.latches := (rfl)
@[simp] theorem State.setPin_violArmed (p : Nat) (x : Pin) : (s.setPin p x).violArmed = s.violArmed := (rfl)
@[simp] theorem State.setPin_softReset (p : Nat) (x : Pin) : (s.setPin p x).softReset = s.softReset := (rfl)
@[simp] theorem State.setPin_isoTests (p : Nat) (x : Pin) : (s.setPin p x).isoTests = s.isoTests := (rfl)
@[simp] theorem State.setPin_fns (p : Nat) (x : Pin) : (s.setPin p x).fns = s.fns := (rfl)
@[simp] theorem State.setPin_pwr (p : Nat) (x : Pin) : (s.setPin p x).pwr = s.pwr := (rfl)
@[simp] theorem State.setPin_mem (p : Nat) (x : Pin) : (s.setPin p x).mem = s.mem := (rfl)
@[simp] theorem State.setPin_gather (p : Nat) (x : Pin) : (s.setPin p x).gather = s.gather := (rfl)
@[simp] theorem State.setPin_ct (p : Nat) (x : Pin) : (s.setPin p x).ct = s.ct := (rfl)
@[simp] theorem State.setPin_chains (p : Nat) (x : Pin) : (s.setPin p x).chains = s.chains := (rfl)
@[simp] theorem State.setPin_mains (p : Nat) (x : Pin) : (s.setPin p x).mains = s.mains := (rfl)
@[simp] theorem State.setPin_line (p : Nat) (x : Pin) : (s.setPin p x).line = s.line := (rfl)
@[simp] theorem State.setPin_net (p : Nat) (x : Pin) : (s.setPin p x).net = s.net := (rfl)
@[simp] theorem State.setPin_cph (p : Nat) (x : Pin) : (s.setPin p x).cph = s.cph := (rfl)
@[simp] theorem State.setPin_slp (p : Nat) (x : Pin) : (s.setPin p x).slp = s.slp := (rfl)
@[simp] theorem State.setPin_nvm (p : Nat) (x : Pin) : (s.setPin p x).nvm = s.nvm := (rfl)
@[simp] theorem State.setPin_twn (p : Nat) (x : Pin) : (s.setPin p x).twn = s.twn := (rfl)

@[simp] theorem State.setLinkState_pending (l : Link) : (s.setLinkState l).pending = s.pending := (rfl)
@[simp] theorem State.setLinkState_out (l : Link) : (s.setLinkState l).out = s.out := (rfl)
@[simp] theorem State.setLinkState_fresh (l : Link) : (s.setLinkState l).fresh = s.fresh := (rfl)
@[simp] theorem State.setLinkState_chip (l : Link) : (s.setLinkState l).chip = s.chip := (rfl)
@[simp] theorem State.setLinkState_regs (l : Link) : (s.setLinkState l).regs = s.regs := (rfl)
@[simp] theorem State.setLinkState_latches (l : Link) : (s.setLinkState l).latches = s.latches := (rfl)
@[simp] theorem State.setLinkState_violArmed (l : Link) : (s.setLinkState l).violArmed = s.violArmed := (rfl)
@[simp] theorem State.setLinkState_softReset (l : Link) : (s.setLinkState l).softReset = s.softReset := (rfl)
@[simp] theorem State.setLinkState_isoTests (l : Link) : (s.setLinkState l).isoTests = s.isoTests := (rfl)
@[simp] theorem State.setLinkState_fns (l : Link) : (s.setLinkState l).fns = s.fns := (rfl)
@[simp] theorem State.setLinkState_pwr (l : Link) : (s.setLinkState l).pwr = s.pwr := (rfl)
@[simp] theorem State.setLinkState_mem (l : Link) : (s.setLinkState l).mem = s.mem := (rfl)
@[simp] theorem State.setLinkState_gather (l : Link) : (s.setLinkState l).gather = s.gather := (rfl)
@[simp] theorem State.setLinkState_ct (l : Link) : (s.setLinkState l).ct = s.ct := (rfl)
@[simp] theorem State.setLinkState_chains (l : Link) : (s.setLinkState l).chains = s.chains := (rfl)
@[simp] theorem State.setLinkState_mains (l : Link) : (s.setLinkState l).mains = s.mains := (rfl)
@[simp] theorem State.setLinkState_line (l : Link) : (s.setLinkState l).line = s.line := (rfl)
@[simp] theorem State.setLinkState_net (l : Link) : (s.setLinkState l).net = s.net := (rfl)
@[simp] theorem State.setLinkState_cph (l : Link) : (s.setLinkState l).cph = s.cph := (rfl)
@[simp] theorem State.setLinkState_slp (l : Link) : (s.setLinkState l).slp = s.slp := (rfl)
@[simp] theorem State.setLinkState_nvm (l : Link) : (s.setLinkState l).nvm = s.nvm := (rfl)
@[simp] theorem State.setLinkState_twn (l : Link) : (s.setLinkState l).twn = s.twn := (rfl)

@[simp] theorem State.setTenant_pending (t : Fin 8) (x : Tenant) : (s.setTenant t x).pending = s.pending := (rfl)
@[simp] theorem State.setTenant_out (t : Fin 8) (x : Tenant) : (s.setTenant t x).out = s.out := (rfl)
@[simp] theorem State.setTenant_fresh (t : Fin 8) (x : Tenant) : (s.setTenant t x).fresh = s.fresh := (rfl)
@[simp] theorem State.setTenant_chip (t : Fin 8) (x : Tenant) : (s.setTenant t x).chip = s.chip := (rfl)
@[simp] theorem State.setTenant_regs (t : Fin 8) (x : Tenant) : (s.setTenant t x).regs = s.regs := (rfl)
@[simp] theorem State.setTenant_latches (t : Fin 8) (x : Tenant) : (s.setTenant t x).latches = s.latches := (rfl)
@[simp] theorem State.setTenant_violArmed (t : Fin 8) (x : Tenant) : (s.setTenant t x).violArmed = s.violArmed := (rfl)
@[simp] theorem State.setTenant_softReset (t : Fin 8) (x : Tenant) : (s.setTenant t x).softReset = s.softReset := (rfl)
@[simp] theorem State.setTenant_isoTests (t : Fin 8) (x : Tenant) : (s.setTenant t x).isoTests = s.isoTests := (rfl)
@[simp] theorem State.setTenant_fns (t : Fin 8) (x : Tenant) : (s.setTenant t x).fns = s.fns := (rfl)
@[simp] theorem State.setTenant_pwr (t : Fin 8) (x : Tenant) : (s.setTenant t x).pwr = s.pwr := (rfl)
@[simp] theorem State.setTenant_mem (t : Fin 8) (x : Tenant) : (s.setTenant t x).mem = s.mem := (rfl)
@[simp] theorem State.setTenant_gather (t : Fin 8) (x : Tenant) : (s.setTenant t x).gather = s.gather := (rfl)
@[simp] theorem State.setTenant_ct (t : Fin 8) (x : Tenant) : (s.setTenant t x).ct = s.ct := (rfl)
@[simp] theorem State.setTenant_chains (t : Fin 8) (x : Tenant) : (s.setTenant t x).chains = s.chains := (rfl)
@[simp] theorem State.setTenant_mains (t : Fin 8) (x : Tenant) : (s.setTenant t x).mains = s.mains := (rfl)
@[simp] theorem State.setTenant_io (t : Fin 8) (x : Tenant) : (s.setTenant t x).io = s.io := (rfl)
@[simp] theorem State.setTenant_line (t : Fin 8) (x : Tenant) : (s.setTenant t x).line = s.line := (rfl)
@[simp] theorem State.setTenant_cph (t : Fin 8) (x : Tenant) : (s.setTenant t x).cph = s.cph := (rfl)
@[simp] theorem State.setTenant_slp (t : Fin 8) (x : Tenant) : (s.setTenant t x).slp = s.slp := (rfl)
@[simp] theorem State.setTenant_nvm (t : Fin 8) (x : Tenant) : (s.setTenant t x).nvm = s.nvm := (rfl)
@[simp] theorem State.setTenant_twn (t : Fin 8) (x : Tenant) : (s.setTenant t x).twn = s.twn := (rfl)

@[simp] theorem State.setArq_pending (a : Arq) : (s.setArq a).pending = s.pending := (rfl)
@[simp] theorem State.setArq_out (a : Arq) : (s.setArq a).out = s.out := (rfl)
@[simp] theorem State.setArq_fresh (a : Arq) : (s.setArq a).fresh = s.fresh := (rfl)
@[simp] theorem State.setArq_chip (a : Arq) : (s.setArq a).chip = s.chip := (rfl)
@[simp] theorem State.setArq_regs (a : Arq) : (s.setArq a).regs = s.regs := (rfl)
@[simp] theorem State.setArq_latches (a : Arq) : (s.setArq a).latches = s.latches := (rfl)
@[simp] theorem State.setArq_violArmed (a : Arq) : (s.setArq a).violArmed = s.violArmed := (rfl)
@[simp] theorem State.setArq_softReset (a : Arq) : (s.setArq a).softReset = s.softReset := (rfl)
@[simp] theorem State.setArq_isoTests (a : Arq) : (s.setArq a).isoTests = s.isoTests := (rfl)
@[simp] theorem State.setArq_fns (a : Arq) : (s.setArq a).fns = s.fns := (rfl)
@[simp] theorem State.setArq_pwr (a : Arq) : (s.setArq a).pwr = s.pwr := (rfl)
@[simp] theorem State.setArq_mem (a : Arq) : (s.setArq a).mem = s.mem := (rfl)
@[simp] theorem State.setArq_gather (a : Arq) : (s.setArq a).gather = s.gather := (rfl)
@[simp] theorem State.setArq_ct (a : Arq) : (s.setArq a).ct = s.ct := (rfl)
@[simp] theorem State.setArq_chains (a : Arq) : (s.setArq a).chains = s.chains := (rfl)
@[simp] theorem State.setArq_mains (a : Arq) : (s.setArq a).mains = s.mains := (rfl)
@[simp] theorem State.setArq_io (a : Arq) : (s.setArq a).io = s.io := (rfl)
@[simp] theorem State.setArq_line (a : Arq) : (s.setArq a).line = s.line := (rfl)
@[simp] theorem State.setArq_cph (a : Arq) : (s.setArq a).cph = s.cph := (rfl)
@[simp] theorem State.setArq_slp (a : Arq) : (s.setArq a).slp = s.slp := (rfl)
@[simp] theorem State.setArq_nvm (a : Arq) : (s.setArq a).nvm = s.nvm := (rfl)
@[simp] theorem State.setArq_twn (a : Arq) : (s.setArq a).twn = s.twn := (rfl)

@[simp] theorem State.setPwr_pending (x : Pwr) : (s.setPwr x).pending = s.pending := (rfl)
@[simp] theorem State.setPwr_out (x : Pwr) : (s.setPwr x).out = s.out := (rfl)
@[simp] theorem State.setPwr_fresh (x : Pwr) : (s.setPwr x).fresh = s.fresh := (rfl)
@[simp] theorem State.setPwr_chip (x : Pwr) : (s.setPwr x).chip = s.chip := (rfl)
@[simp] theorem State.setPwr_regs (x : Pwr) : (s.setPwr x).regs = s.regs := (rfl)
@[simp] theorem State.setPwr_latches (x : Pwr) : (s.setPwr x).latches = s.latches := (rfl)
@[simp] theorem State.setPwr_violArmed (x : Pwr) : (s.setPwr x).violArmed = s.violArmed := (rfl)
@[simp] theorem State.setPwr_softReset (x : Pwr) : (s.setPwr x).softReset = s.softReset := (rfl)
@[simp] theorem State.setPwr_isoTests (x : Pwr) : (s.setPwr x).isoTests = s.isoTests := (rfl)
@[simp] theorem State.setPwr_fns (x : Pwr) : (s.setPwr x).fns = s.fns := (rfl)
@[simp] theorem State.setPwr_mem (x : Pwr) : (s.setPwr x).mem = s.mem := (rfl)
@[simp] theorem State.setPwr_gather (x : Pwr) : (s.setPwr x).gather = s.gather := (rfl)
@[simp] theorem State.setPwr_ct (x : Pwr) : (s.setPwr x).ct = s.ct := (rfl)
@[simp] theorem State.setPwr_chains (x : Pwr) : (s.setPwr x).chains = s.chains := (rfl)
@[simp] theorem State.setPwr_mains (x : Pwr) : (s.setPwr x).mains = s.mains := (rfl)
@[simp] theorem State.setPwr_io (x : Pwr) : (s.setPwr x).io = s.io := (rfl)
@[simp] theorem State.setPwr_line (x : Pwr) : (s.setPwr x).line = s.line := (rfl)
@[simp] theorem State.setPwr_net (x : Pwr) : (s.setPwr x).net = s.net := (rfl)
@[simp] theorem State.setPwr_cph (x : Pwr) : (s.setPwr x).cph = s.cph := (rfl)
@[simp] theorem State.setPwr_slp (x : Pwr) : (s.setPwr x).slp = s.slp := (rfl)
@[simp] theorem State.setPwr_nvm (x : Pwr) : (s.setPwr x).nvm = s.nvm := (rfl)
@[simp] theorem State.setPwr_twn (x : Pwr) : (s.setPwr x).twn = s.twn := (rfl)

@[simp] theorem State.setNvm_pending (x : Nvm) : (s.setNvm x).pending = s.pending := (rfl)
@[simp] theorem State.setNvm_out (x : Nvm) : (s.setNvm x).out = s.out := (rfl)
@[simp] theorem State.setNvm_fresh (x : Nvm) : (s.setNvm x).fresh = s.fresh := (rfl)
@[simp] theorem State.setNvm_chip (x : Nvm) : (s.setNvm x).chip = s.chip := (rfl)
@[simp] theorem State.setNvm_regs (x : Nvm) : (s.setNvm x).regs = s.regs := (rfl)
@[simp] theorem State.setNvm_latches (x : Nvm) : (s.setNvm x).latches = s.latches := (rfl)
@[simp] theorem State.setNvm_violArmed (x : Nvm) : (s.setNvm x).violArmed = s.violArmed := (rfl)
@[simp] theorem State.setNvm_softReset (x : Nvm) : (s.setNvm x).softReset = s.softReset := (rfl)
@[simp] theorem State.setNvm_isoTests (x : Nvm) : (s.setNvm x).isoTests = s.isoTests := (rfl)
@[simp] theorem State.setNvm_fns (x : Nvm) : (s.setNvm x).fns = s.fns := (rfl)
@[simp] theorem State.setNvm_pwr (x : Nvm) : (s.setNvm x).pwr = s.pwr := (rfl)
@[simp] theorem State.setNvm_mem (x : Nvm) : (s.setNvm x).mem = s.mem := (rfl)
@[simp] theorem State.setNvm_gather (x : Nvm) : (s.setNvm x).gather = s.gather := (rfl)
@[simp] theorem State.setNvm_ct (x : Nvm) : (s.setNvm x).ct = s.ct := (rfl)
@[simp] theorem State.setNvm_chains (x : Nvm) : (s.setNvm x).chains = s.chains := (rfl)
@[simp] theorem State.setNvm_mains (x : Nvm) : (s.setNvm x).mains = s.mains := (rfl)
@[simp] theorem State.setNvm_io (x : Nvm) : (s.setNvm x).io = s.io := (rfl)
@[simp] theorem State.setNvm_line (x : Nvm) : (s.setNvm x).line = s.line := (rfl)
@[simp] theorem State.setNvm_net (x : Nvm) : (s.setNvm x).net = s.net := (rfl)
@[simp] theorem State.setNvm_cph (x : Nvm) : (s.setNvm x).cph = s.cph := (rfl)
@[simp] theorem State.setNvm_slp (x : Nvm) : (s.setNvm x).slp = s.slp := (rfl)
@[simp] theorem State.setNvm_twn (x : Nvm) : (s.setNvm x).twn = s.twn := (rfl)

@[simp] theorem State.setTwn_pending (x : Twin) : (s.setTwn x).pending = s.pending := (rfl)
@[simp] theorem State.setTwn_out (x : Twin) : (s.setTwn x).out = s.out := (rfl)
@[simp] theorem State.setTwn_fresh (x : Twin) : (s.setTwn x).fresh = s.fresh := (rfl)
@[simp] theorem State.setTwn_chip (x : Twin) : (s.setTwn x).chip = s.chip := (rfl)
@[simp] theorem State.setTwn_regs (x : Twin) : (s.setTwn x).regs = s.regs := (rfl)
@[simp] theorem State.setTwn_latches (x : Twin) : (s.setTwn x).latches = s.latches := (rfl)
@[simp] theorem State.setTwn_violArmed (x : Twin) : (s.setTwn x).violArmed = s.violArmed := (rfl)
@[simp] theorem State.setTwn_softReset (x : Twin) : (s.setTwn x).softReset = s.softReset := (rfl)
@[simp] theorem State.setTwn_isoTests (x : Twin) : (s.setTwn x).isoTests = s.isoTests := (rfl)
@[simp] theorem State.setTwn_fns (x : Twin) : (s.setTwn x).fns = s.fns := (rfl)
@[simp] theorem State.setTwn_pwr (x : Twin) : (s.setTwn x).pwr = s.pwr := (rfl)
@[simp] theorem State.setTwn_mem (x : Twin) : (s.setTwn x).mem = s.mem := (rfl)
@[simp] theorem State.setTwn_gather (x : Twin) : (s.setTwn x).gather = s.gather := (rfl)
@[simp] theorem State.setTwn_ct (x : Twin) : (s.setTwn x).ct = s.ct := (rfl)
@[simp] theorem State.setTwn_chains (x : Twin) : (s.setTwn x).chains = s.chains := (rfl)
@[simp] theorem State.setTwn_mains (x : Twin) : (s.setTwn x).mains = s.mains := (rfl)
@[simp] theorem State.setTwn_io (x : Twin) : (s.setTwn x).io = s.io := (rfl)
@[simp] theorem State.setTwn_line (x : Twin) : (s.setTwn x).line = s.line := (rfl)
@[simp] theorem State.setTwn_net (x : Twin) : (s.setTwn x).net = s.net := (rfl)
@[simp] theorem State.setTwn_cph (x : Twin) : (s.setTwn x).cph = s.cph := (rfl)
@[simp] theorem State.setTwn_slp (x : Twin) : (s.setTwn x).slp = s.slp := (rfl)
@[simp] theorem State.setTwn_nvm (x : Twin) : (s.setTwn x).nvm = s.nvm := (rfl)

@[simp] theorem State.setSlp_pending (x : Sleep) : (s.setSlp x).pending = s.pending := (rfl)
@[simp] theorem State.setSlp_out (x : Sleep) : (s.setSlp x).out = s.out := (rfl)
@[simp] theorem State.setSlp_fresh (x : Sleep) : (s.setSlp x).fresh = s.fresh := (rfl)
@[simp] theorem State.setSlp_chip (x : Sleep) : (s.setSlp x).chip = s.chip := (rfl)
@[simp] theorem State.setSlp_regs (x : Sleep) : (s.setSlp x).regs = s.regs := (rfl)
@[simp] theorem State.setSlp_latches (x : Sleep) : (s.setSlp x).latches = s.latches := (rfl)
@[simp] theorem State.setSlp_violArmed (x : Sleep) : (s.setSlp x).violArmed = s.violArmed := (rfl)
@[simp] theorem State.setSlp_softReset (x : Sleep) : (s.setSlp x).softReset = s.softReset := (rfl)
@[simp] theorem State.setSlp_isoTests (x : Sleep) : (s.setSlp x).isoTests = s.isoTests := (rfl)
@[simp] theorem State.setSlp_fns (x : Sleep) : (s.setSlp x).fns = s.fns := (rfl)
@[simp] theorem State.setSlp_pwr (x : Sleep) : (s.setSlp x).pwr = s.pwr := (rfl)
@[simp] theorem State.setSlp_mem (x : Sleep) : (s.setSlp x).mem = s.mem := (rfl)
@[simp] theorem State.setSlp_gather (x : Sleep) : (s.setSlp x).gather = s.gather := (rfl)
@[simp] theorem State.setSlp_ct (x : Sleep) : (s.setSlp x).ct = s.ct := (rfl)
@[simp] theorem State.setSlp_chains (x : Sleep) : (s.setSlp x).chains = s.chains := (rfl)
@[simp] theorem State.setSlp_mains (x : Sleep) : (s.setSlp x).mains = s.mains := (rfl)
@[simp] theorem State.setSlp_io (x : Sleep) : (s.setSlp x).io = s.io := (rfl)
@[simp] theorem State.setSlp_line (x : Sleep) : (s.setSlp x).line = s.line := (rfl)
@[simp] theorem State.setSlp_net (x : Sleep) : (s.setSlp x).net = s.net := (rfl)
@[simp] theorem State.setSlp_cph (x : Sleep) : (s.setSlp x).cph = s.cph := (rfl)
@[simp] theorem State.setSlp_nvm (x : Sleep) : (s.setSlp x).nvm = s.nvm := (rfl)
@[simp] theorem State.setSlp_twn (x : Sleep) : (s.setSlp x).twn = s.twn := (rfl)

@[simp] theorem State.withVec_pending (fn vec : Nat) (write : Bool) (f : State → State) : (s.withVec fn vec write f).pending = (f s).pending := by unfold State.withVec; dsimp only; split <;> simp
@[simp] theorem State.withVec_fresh (fn vec : Nat) (write : Bool) (f : State → State) : (s.withVec fn vec write f).fresh = (f s).fresh := by unfold State.withVec; dsimp only; split <;> simp
@[simp] theorem State.withVec_chip (fn vec : Nat) (write : Bool) (f : State → State) : (s.withVec fn vec write f).chip = (f s).chip := by unfold State.withVec; dsimp only; split <;> simp
@[simp] theorem State.withVec_regs (fn vec : Nat) (write : Bool) (f : State → State) : (s.withVec fn vec write f).regs = (f s).regs := by unfold State.withVec; dsimp only; split <;> simp
@[simp] theorem State.withVec_latches (fn vec : Nat) (write : Bool) (f : State → State) : (s.withVec fn vec write f).latches = (f s).latches := by unfold State.withVec; dsimp only; split <;> simp
@[simp] theorem State.withVec_violArmed (fn vec : Nat) (write : Bool) (f : State → State) : (s.withVec fn vec write f).violArmed = (f s).violArmed := by unfold State.withVec; dsimp only; split <;> simp
@[simp] theorem State.withVec_softReset (fn vec : Nat) (write : Bool) (f : State → State) : (s.withVec fn vec write f).softReset = (f s).softReset := by unfold State.withVec; dsimp only; split <;> simp
@[simp] theorem State.withVec_isoTests (fn vec : Nat) (write : Bool) (f : State → State) : (s.withVec fn vec write f).isoTests = (f s).isoTests := by unfold State.withVec; dsimp only; split <;> simp
@[simp] theorem State.withVec_pwr (fn vec : Nat) (write : Bool) (f : State → State) : (s.withVec fn vec write f).pwr = (f s).pwr := by unfold State.withVec; dsimp only; split <;> simp
@[simp] theorem State.withVec_mem (fn vec : Nat) (write : Bool) (f : State → State) : (s.withVec fn vec write f).mem = (f s).mem := by unfold State.withVec; dsimp only; split <;> simp
@[simp] theorem State.withVec_gather (fn vec : Nat) (write : Bool) (f : State → State) : (s.withVec fn vec write f).gather = (f s).gather := by unfold State.withVec; dsimp only; split <;> simp
@[simp] theorem State.withVec_ct (fn vec : Nat) (write : Bool) (f : State → State) : (s.withVec fn vec write f).ct = (f s).ct := by unfold State.withVec; dsimp only; split <;> simp
@[simp] theorem State.withVec_chains (fn vec : Nat) (write : Bool) (f : State → State) : (s.withVec fn vec write f).chains = (f s).chains := by unfold State.withVec; dsimp only; split <;> simp
@[simp] theorem State.withVec_mains (fn vec : Nat) (write : Bool) (f : State → State) : (s.withVec fn vec write f).mains = (f s).mains := by unfold State.withVec; dsimp only; split <;> simp
@[simp] theorem State.withVec_io (fn vec : Nat) (write : Bool) (f : State → State) : (s.withVec fn vec write f).io = (f s).io := by unfold State.withVec; dsimp only; split <;> simp
@[simp] theorem State.withVec_line (fn vec : Nat) (write : Bool) (f : State → State) : (s.withVec fn vec write f).line = (f s).line := by unfold State.withVec; dsimp only; split <;> simp
@[simp] theorem State.withVec_net (fn vec : Nat) (write : Bool) (f : State → State) : (s.withVec fn vec write f).net = (f s).net := by unfold State.withVec; dsimp only; split <;> simp
@[simp] theorem State.withVec_cph (fn vec : Nat) (write : Bool) (f : State → State) : (s.withVec fn vec write f).cph = (f s).cph := by unfold State.withVec; dsimp only; split <;> simp
@[simp] theorem State.withVec_slp (fn vec : Nat) (write : Bool) (f : State → State) : (s.withVec fn vec write f).slp = (f s).slp := by unfold State.withVec; dsimp only; split <;> simp
@[simp] theorem State.withVec_nvm (fn vec : Nat) (write : Bool) (f : State → State) : (s.withVec fn vec write f).nvm = (f s).nvm := by unfold State.withVec; dsimp only; split <;> simp
@[simp] theorem State.withVec_twn (fn vec : Nat) (write : Bool) (f : State → State) : (s.withVec fn vec write f).twn = (f s).twn := by unfold State.withVec; dsimp only; split <;> simp

@[simp] theorem State.withEvents_pending (p : Page) (write : Bool) (f : State → State) : (s.withEvents p write f).pending = (f s).pending := by unfold State.withEvents; split <;> simp
@[simp] theorem State.withEvents_fresh (p : Page) (write : Bool) (f : State → State) : (s.withEvents p write f).fresh = (f s).fresh := by unfold State.withEvents; split <;> simp
@[simp] theorem State.withEvents_chip (p : Page) (write : Bool) (f : State → State) : (s.withEvents p write f).chip = (f s).chip := by unfold State.withEvents; split <;> simp
@[simp] theorem State.withEvents_regs (p : Page) (write : Bool) (f : State → State) : (s.withEvents p write f).regs = (f s).regs := by unfold State.withEvents; split <;> simp
@[simp] theorem State.withEvents_latches (p : Page) (write : Bool) (f : State → State) : (s.withEvents p write f).latches = (f s).latches := by unfold State.withEvents; split <;> simp
@[simp] theorem State.withEvents_violArmed (p : Page) (write : Bool) (f : State → State) : (s.withEvents p write f).violArmed = (f s).violArmed := by unfold State.withEvents; split <;> simp
@[simp] theorem State.withEvents_softReset (p : Page) (write : Bool) (f : State → State) : (s.withEvents p write f).softReset = (f s).softReset := by unfold State.withEvents; split <;> simp
@[simp] theorem State.withEvents_isoTests (p : Page) (write : Bool) (f : State → State) : (s.withEvents p write f).isoTests = (f s).isoTests := by unfold State.withEvents; split <;> simp
@[simp] theorem State.withEvents_pwr (p : Page) (write : Bool) (f : State → State) : (s.withEvents p write f).pwr = (f s).pwr := by unfold State.withEvents; split <;> simp
@[simp] theorem State.withEvents_mem (p : Page) (write : Bool) (f : State → State) : (s.withEvents p write f).mem = (f s).mem := by unfold State.withEvents; split <;> simp
@[simp] theorem State.withEvents_gather (p : Page) (write : Bool) (f : State → State) : (s.withEvents p write f).gather = (f s).gather := by unfold State.withEvents; split <;> simp
@[simp] theorem State.withEvents_ct (p : Page) (write : Bool) (f : State → State) : (s.withEvents p write f).ct = (f s).ct := by unfold State.withEvents; split <;> simp
@[simp] theorem State.withEvents_chains (p : Page) (write : Bool) (f : State → State) : (s.withEvents p write f).chains = (f s).chains := by unfold State.withEvents; split <;> simp
@[simp] theorem State.withEvents_mains (p : Page) (write : Bool) (f : State → State) : (s.withEvents p write f).mains = (f s).mains := by unfold State.withEvents; split <;> simp
@[simp] theorem State.withEvents_io (p : Page) (write : Bool) (f : State → State) : (s.withEvents p write f).io = (f s).io := by unfold State.withEvents; split <;> simp
@[simp] theorem State.withEvents_line (p : Page) (write : Bool) (f : State → State) : (s.withEvents p write f).line = (f s).line := by unfold State.withEvents; split <;> simp
@[simp] theorem State.withEvents_net (p : Page) (write : Bool) (f : State → State) : (s.withEvents p write f).net = (f s).net := by unfold State.withEvents; split <;> simp
@[simp] theorem State.withEvents_cph (p : Page) (write : Bool) (f : State → State) : (s.withEvents p write f).cph = (f s).cph := by unfold State.withEvents; split <;> simp
@[simp] theorem State.withEvents_slp (p : Page) (write : Bool) (f : State → State) : (s.withEvents p write f).slp = (f s).slp := by unfold State.withEvents; split <;> simp
@[simp] theorem State.withEvents_nvm (p : Page) (write : Bool) (f : State → State) : (s.withEvents p write f).nvm = (f s).nvm := by unfold State.withEvents; split <;> simp
@[simp] theorem State.withEvents_twn (p : Page) (write : Bool) (f : State → State) : (s.withEvents p write f).twn = (f s).twn := by unfold State.withEvents; split <;> simp

@[simp] theorem State.setEvents_pending (p : Page) (m : Word) : (s.setEvents p m).pending = s.pending := by simp [State.setEvents]
@[simp] theorem State.setEvents_fresh (p : Page) (m : Word) : (s.setEvents p m).fresh = s.fresh := by simp [State.setEvents]
@[simp] theorem State.setEvents_chip (p : Page) (m : Word) : (s.setEvents p m).chip = s.chip := by simp [State.setEvents]
@[simp] theorem State.setEvents_latches (p : Page) (m : Word) : (s.setEvents p m).latches = s.latches := by simp [State.setEvents]
@[simp] theorem State.setEvents_violArmed (p : Page) (m : Word) : (s.setEvents p m).violArmed = s.violArmed := by simp [State.setEvents]
@[simp] theorem State.setEvents_softReset (p : Page) (m : Word) : (s.setEvents p m).softReset = s.softReset := by simp [State.setEvents]
@[simp] theorem State.setEvents_isoTests (p : Page) (m : Word) : (s.setEvents p m).isoTests = s.isoTests := by simp [State.setEvents]
@[simp] theorem State.setEvents_pwr (p : Page) (m : Word) : (s.setEvents p m).pwr = s.pwr := by simp [State.setEvents]
@[simp] theorem State.setEvents_mem (p : Page) (m : Word) : (s.setEvents p m).mem = s.mem := by simp [State.setEvents]
@[simp] theorem State.setEvents_gather (p : Page) (m : Word) : (s.setEvents p m).gather = s.gather := by simp [State.setEvents]
@[simp] theorem State.setEvents_ct (p : Page) (m : Word) : (s.setEvents p m).ct = s.ct := by simp [State.setEvents]
@[simp] theorem State.setEvents_chains (p : Page) (m : Word) : (s.setEvents p m).chains = s.chains := by simp [State.setEvents]
@[simp] theorem State.setEvents_mains (p : Page) (m : Word) : (s.setEvents p m).mains = s.mains := by simp [State.setEvents]
@[simp] theorem State.setEvents_io (p : Page) (m : Word) : (s.setEvents p m).io = s.io := by simp [State.setEvents]
@[simp] theorem State.setEvents_line (p : Page) (m : Word) : (s.setEvents p m).line = s.line := by simp [State.setEvents]
@[simp] theorem State.setEvents_net (p : Page) (m : Word) : (s.setEvents p m).net = s.net := by simp [State.setEvents]
@[simp] theorem State.setEvents_cph (p : Page) (m : Word) : (s.setEvents p m).cph = s.cph := by simp [State.setEvents]
@[simp] theorem State.setEvents_slp (p : Page) (m : Word) : (s.setEvents p m).slp = s.slp := by simp [State.setEvents]
@[simp] theorem State.setEvents_nvm (p : Page) (m : Word) : (s.setEvents p m).nvm = s.nvm := by simp [State.setEvents]
@[simp] theorem State.setEvents_twn (p : Page) (m : Word) : (s.setEvents p m).twn = s.twn := by simp [State.setEvents]

@[simp] theorem State.event_pending (p : Page) (i : Nat) : (s.event p i).pending = s.pending := by simp [State.event]
@[simp] theorem State.event_fresh (p : Page) (i : Nat) : (s.event p i).fresh = s.fresh := by simp [State.event]
@[simp] theorem State.event_chip (p : Page) (i : Nat) : (s.event p i).chip = s.chip := by simp [State.event]
@[simp] theorem State.event_latches (p : Page) (i : Nat) : (s.event p i).latches = s.latches := by simp [State.event]
@[simp] theorem State.event_violArmed (p : Page) (i : Nat) : (s.event p i).violArmed = s.violArmed := by simp [State.event]
@[simp] theorem State.event_softReset (p : Page) (i : Nat) : (s.event p i).softReset = s.softReset := by simp [State.event]
@[simp] theorem State.event_isoTests (p : Page) (i : Nat) : (s.event p i).isoTests = s.isoTests := by simp [State.event]
@[simp] theorem State.event_pwr (p : Page) (i : Nat) : (s.event p i).pwr = s.pwr := by simp [State.event]
@[simp] theorem State.event_mem (p : Page) (i : Nat) : (s.event p i).mem = s.mem := by simp [State.event]
@[simp] theorem State.event_gather (p : Page) (i : Nat) : (s.event p i).gather = s.gather := by simp [State.event]
@[simp] theorem State.event_ct (p : Page) (i : Nat) : (s.event p i).ct = s.ct := by simp [State.event]
@[simp] theorem State.event_chains (p : Page) (i : Nat) : (s.event p i).chains = s.chains := by simp [State.event]
@[simp] theorem State.event_mains (p : Page) (i : Nat) : (s.event p i).mains = s.mains := by simp [State.event]
@[simp] theorem State.event_io (p : Page) (i : Nat) : (s.event p i).io = s.io := by simp [State.event]
@[simp] theorem State.event_line (p : Page) (i : Nat) : (s.event p i).line = s.line := by simp [State.event]
@[simp] theorem State.event_net (p : Page) (i : Nat) : (s.event p i).net = s.net := by simp [State.event]
@[simp] theorem State.event_cph (p : Page) (i : Nat) : (s.event p i).cph = s.cph := by simp [State.event]
@[simp] theorem State.event_slp (p : Page) (i : Nat) : (s.event p i).slp = s.slp := by simp [State.event]
@[simp] theorem State.event_nvm (p : Page) (i : Nat) : (s.event p i).nvm = s.nvm := by simp [State.event]
@[simp] theorem State.event_twn (p : Page) (i : Nat) : (s.event p i).twn = s.twn := by simp [State.event]

@[simp] theorem State.fault_pending (p : Page) (i detail : Nat) : (s.fault p i detail).pending = s.pending := by unfold State.fault; (repeat' split) <;> simp
@[simp] theorem State.fault_fresh (p : Page) (i detail : Nat) : (s.fault p i detail).fresh = s.fresh := by unfold State.fault; (repeat' split) <;> simp
@[simp] theorem State.fault_chip (p : Page) (i detail : Nat) : (s.fault p i detail).chip = s.chip := by unfold State.fault; (repeat' split) <;> simp
@[simp] theorem State.fault_latches (p : Page) (i detail : Nat) : (s.fault p i detail).latches = s.latches := by unfold State.fault; (repeat' split) <;> simp
@[simp] theorem State.fault_violArmed (p : Page) (i detail : Nat) : (s.fault p i detail).violArmed = s.violArmed := by unfold State.fault; (repeat' split) <;> simp
@[simp] theorem State.fault_softReset (p : Page) (i detail : Nat) : (s.fault p i detail).softReset = s.softReset := by unfold State.fault; (repeat' split) <;> simp
@[simp] theorem State.fault_isoTests (p : Page) (i detail : Nat) : (s.fault p i detail).isoTests = s.isoTests := by unfold State.fault; (repeat' split) <;> simp
@[simp] theorem State.fault_pwr (p : Page) (i detail : Nat) : (s.fault p i detail).pwr = s.pwr := by unfold State.fault; (repeat' split) <;> simp
@[simp] theorem State.fault_mem (p : Page) (i detail : Nat) : (s.fault p i detail).mem = s.mem := by unfold State.fault; (repeat' split) <;> simp
@[simp] theorem State.fault_gather (p : Page) (i detail : Nat) : (s.fault p i detail).gather = s.gather := by unfold State.fault; (repeat' split) <;> simp
@[simp] theorem State.fault_ct (p : Page) (i detail : Nat) : (s.fault p i detail).ct = s.ct := by unfold State.fault; (repeat' split) <;> simp
@[simp] theorem State.fault_chains (p : Page) (i detail : Nat) : (s.fault p i detail).chains = s.chains := by unfold State.fault; (repeat' split) <;> simp
@[simp] theorem State.fault_mains (p : Page) (i detail : Nat) : (s.fault p i detail).mains = s.mains := by unfold State.fault; (repeat' split) <;> simp
@[simp] theorem State.fault_io (p : Page) (i detail : Nat) : (s.fault p i detail).io = s.io := by unfold State.fault; (repeat' split) <;> simp
@[simp] theorem State.fault_line (p : Page) (i detail : Nat) : (s.fault p i detail).line = s.line := by unfold State.fault; (repeat' split) <;> simp
@[simp] theorem State.fault_net (p : Page) (i detail : Nat) : (s.fault p i detail).net = s.net := by unfold State.fault; (repeat' split) <;> simp
@[simp] theorem State.fault_cph (p : Page) (i detail : Nat) : (s.fault p i detail).cph = s.cph := by unfold State.fault; (repeat' split) <;> simp
@[simp] theorem State.fault_slp (p : Page) (i detail : Nat) : (s.fault p i detail).slp = s.slp := by unfold State.fault; (repeat' split) <;> simp
@[simp] theorem State.fault_nvm (p : Page) (i detail : Nat) : (s.fault p i detail).nvm = s.nvm := by unfold State.fault; (repeat' split) <;> simp
@[simp] theorem State.fault_twn (p : Page) (i detail : Nat) : (s.fault p i detail).twn = s.twn := by unfold State.fault; (repeat' split) <;> simp

@[simp] theorem State.emit_out (o : Out) : (s.emit o).out = s.out ++ [o] := (rfl)
@[simp] theorem State.setPwr_pwr (x : Pwr) : (s.setPwr x).pwr = x := (rfl)
@[simp] theorem State.setNvm_nvm (x : Nvm) : (s.setNvm x).nvm = x := (rfl)
@[simp] theorem State.setTwn_twn (x : Twin) : (s.setTwn x).twn = x := (rfl)
@[simp] theorem State.setSlp_slp (x : Sleep) : (s.setSlp x).slp = x := (rfl)
@[simp] theorem State.setLinkState_io (l : Link) : (s.setLinkState l).io = { s.io with link := l } := (rfl)
@[simp] theorem State.freeNat_fresh : s.freeNat.2.fresh = s.fresh + 1 := (rfl)
@[simp] theorem State.setJobs_line (l : List Job) : (s.setJobs l).line = { s.line with spx := { s.line.spx with jobs := l } } := (rfl)

end Sys2Proof.Machine
end

