-- ==== Sys2Proof/Laws/Store.lean ====
section
/-! SUPPORT. The laws of the sparse stores: a read after a write, and that every operation keeps the canonical form. -/

set_option Elab.async false

namespace Sys2Proof.Machine

variable {V : Type}

theorem risingFrom_mono {b c : Nat} (h : c ≤ b) : ∀ {m : Store V}, risingFrom b m = true → risingFrom c m = true
  | [], _ => rfl
  | (a, _) :: _, hm => by
    simp only [risingFrom, Bool.and_eq_true, decide_eq_true_eq] at hm ⊢
    exact ⟨Nat.le_trans h hm.1, hm.2⟩

/-- An address below all entries reads as the default. -/
theorem storeGet_below (d : V) {b k : Nat} (h : k < b) : ∀ {m : Store V}, risingFrom b m = true → storeGet d m k = d
  | [], _ => rfl
  | (a, v) :: r, hm => by
    simp only [risingFrom, Bool.and_eq_true, decide_eq_true_eq] at hm
    have h1 : k ≠ a := by omega
    have h2 : k < a := by omega
    simp [storeGet, h1, h2]

theorem storeDel_rising {b k : Nat} : ∀ {m : Store V}, risingFrom b m = true → risingFrom b (storeDel m k) = true
  | [], _ => rfl
  | (a, v) :: r, hm => by
    simp only [risingFrom, Bool.and_eq_true, decide_eq_true_eq] at hm
    unfold storeDel
    split
    · exact risingFrom_mono (by omega) hm.2
    · split
      · simp [risingFrom, hm.1, hm.2]
      · simp [risingFrom, hm.1, storeDel_rising hm.2]

theorem storeIns_rising {b k : Nat} {v : V} (hk : b ≤ k) :
    ∀ {m : Store V}, risingFrom b m = true → risingFrom b (storeIns m k v) = true
  | [], _ => by simp [storeIns, risingFrom, hk]
  | (a, w) :: r, hm => by
    simp only [risingFrom, Bool.and_eq_true, decide_eq_true_eq] at hm
    unfold storeIns
    split
    · rename_i he
      simp [risingFrom, he, hm.1, hm.2]
    · split
      · simp [risingFrom, hk, hm.2]
        omega
      · have hr : risingFrom (a + 1) (storeIns r k v) = true := storeIns_rising (by omega) hm.2
        simp [risingFrom, hm.1, hr]

theorem storeKeep_rising (keep : Nat → Bool) {b : Nat} :
    ∀ {m : Store V}, risingFrom b m = true → risingFrom b (storeKeep keep m) = true
  | [], _ => rfl
  | (a, v) :: r, hm => by
    simp only [risingFrom, Bool.and_eq_true, decide_eq_true_eq] at hm
    have hr := storeKeep_rising keep hm.2
    unfold storeKeep at hr ⊢
    by_cases hk : keep a
    · simp [hk, risingFrom, hm.1, hr]
    · simp [hk]
      exact risingFrom_mono (by omega) hr

theorem storePut_rising [DecidableEq V] {d v : V} {k : Nat} {m : Store V} (h : risingFrom 0 m = true) :
    risingFrom 0 (storePut d m k v) = true := by
  unfold storePut
  split
  · exact storeDel_rising h
  · exact storeIns_rising (Nat.zero_le _) h

/-- A read of the address just inserted. -/
theorem storeGet_ins_same (d : V) (k : Nat) (v : V) : ∀ (m : Store V), storeGet d (storeIns m k v) k = v
  | [] => by simp [storeIns, storeGet]
  | (a, w) :: r => by
    unfold storeIns
    split
    · simp [storeGet]
    · split
      · simp [storeGet]
      · rename_i h1 h2
        simp [storeGet, h1, h2, storeGet_ins_same d k v r]

theorem storeGet_ins_other (d : V) {k j : Nat} (v : V) (h : j ≠ k) :
    ∀ {m : Store V} {b : Nat}, risingFrom b m = true → storeGet d (storeIns m k v) j = storeGet d m j
  | [], _, _ => by simp [storeIns, storeGet, h]
  | (a, w) :: r, b, hm => by
    simp only [risingFrom, Bool.and_eq_true, decide_eq_true_eq] at hm
    unfold storeIns
    split
    · rename_i he
      simp only [storeGet, h, he ▸ h, if_false]
      split
      · subst he; rename_i hlt; simp [hlt]
      · subst he; rename_i hlt; simp [hlt]
    · split
      · rename_i h1 h2
        simp only [storeGet, h, if_false]
        split
        · rename_i hlt
          have h3 : j ≠ a := by omega
          have h4 : j < a := by omega
          simp [h3, h4]
        · rfl
      · simp only [storeGet]
        split
        · rfl
        · split
          · rfl
          · exact storeGet_ins_other d v h hm.2

/-- A read of the address just removed. -/
theorem storeGet_del_same (d : V) (k : Nat) :
    ∀ {m : Store V} {b : Nat}, risingFrom b m = true → storeGet d (storeDel m k) k = d
  | [], _, _ => rfl
  | (a, w) :: r, b, hm => by
    simp only [risingFrom, Bool.and_eq_true, decide_eq_true_eq] at hm
    unfold storeDel
    split
    · rename_i he
      exact storeGet_below d (by omega) hm.2
    · split
      · rename_i h1 h2; simp [storeGet, h1, h2]
      · rename_i h1 h2; simp [storeGet, h1, h2, storeGet_del_same d k hm.2]

theorem storeGet_del_other (d : V) {k j : Nat} (h : j ≠ k) :
    ∀ {m : Store V} {b : Nat}, risingFrom b m = true → storeGet d (storeDel m k) j = storeGet d m j
  | [], _, _ => rfl
  | (a, w) :: r, b, hm => by
    simp only [risingFrom, Bool.and_eq_true, decide_eq_true_eq] at hm
    unfold storeDel
    split
    · rename_i he
      subst he
      simp only [storeGet, h, if_false]
      split
      · rename_i hlt; exact storeGet_below d (by omega) hm.2
      · rfl
    · split
      · rfl
      · simp only [storeGet]
        split
        · rfl
        · split
          · rfl
          · exact storeGet_del_other d h hm.2

/-- A read of the address just written gives the written value. -/
theorem storeGet_put_same [DecidableEq V] (d : V) {m : Store V} (k : Nat) (v : V) (h : risingFrom 0 m = true) :
    storeGet d (storePut d m k v) k = v := by
  unfold storePut
  split
  · rename_i hv; rw [hv]; exact storeGet_del_same d k h
  · exact storeGet_ins_same d k v m

/-- A write leaves every other address alone, whatever default the reader uses. -/
theorem storeGet_put_other [DecidableEq V] (d e : V) {m : Store V} {k j : Nat} (v : V) (h : risingFrom 0 m = true) (hj : j ≠ k) :
    storeGet e (storePut d m k v) j = storeGet e m j := by
  unfold storePut
  split
  · exact storeGet_del_other e hj h
  · exact storeGet_ins_other e v hj h

/-! The canonical form. -/

theorem storeDel_mem {m : Store V} {k : Nat} {e : Nat × V} (h : e ∈ storeDel m k) : e ∈ m := by
  induction m with
  | nil => exact h
  | cons x r ih =>
    obtain ⟨a, w⟩ := x
    unfold storeDel at h
    split at h
    · exact List.mem_cons_of_mem _ h
    · split at h
      · exact h
      · rcases List.mem_cons.1 h with h | h
        · exact h ▸ List.mem_cons_self
        · exact List.mem_cons_of_mem _ (ih h)

theorem storeIns_mem {m : Store V} {k : Nat} {v : V} {e : Nat × V} (h : e ∈ storeIns m k v) : e = (k, v) ∨ e ∈ m := by
  induction m with
  | nil => exact .inl (List.mem_singleton.1 h)
  | cons x r ih =>
    obtain ⟨a, w⟩ := x
    unfold storeIns at h
    split at h
    · rcases List.mem_cons.1 h with h | h
      · exact .inl h
      · exact .inr (List.mem_cons_of_mem _ h)
    · split at h
      · rcases List.mem_cons.1 h with h | h
        · exact .inl h
        · exact .inr h
      · rcases List.mem_cons.1 h with h | h
        · exact .inr (h ▸ List.mem_cons_self)
        · rcases ih h with h | h
          · exact .inl h
          · exact .inr (List.mem_cons_of_mem _ h)

theorem storeWf_iff [DecidableEq V] {d : Nat → V} {m : Store V} :
    storeWf d m = true ↔ risingFrom 0 m = true ∧ ∀ e ∈ m, e.2 ≠ d e.1 := by
  simp [storeWf]

theorem storePut_wf [DecidableEq V] {d : Nat → V} {m : Store V} {k : Nat} {v : V} (h : storeWf d m = true) :
    storeWf d (storePut (d k) m k v) = true := by
  rw [storeWf_iff] at h ⊢
  refine ⟨storePut_rising h.1, fun e he => ?_⟩
  unfold storePut at he
  split at he
  · exact h.2 e (storeDel_mem he)
  · rename_i hv
    rcases storeIns_mem he with rfl | he
    · exact hv
    · exact h.2 e he

theorem storeKeep_wf [DecidableEq V] {d : Nat → V} {m : Store V} (keep : Nat → Bool) (h : storeWf d m = true) :
    storeWf d (storeKeep keep m) = true := by
  rw [storeWf_iff] at h ⊢
  exact ⟨storeKeep_rising keep h.1, fun e he => h.2 e (List.mem_filter.1 he).1⟩

theorem storePutList_wf [DecidableEq V] {d : V} (vs : List V) :
    ∀ {m : Store V} {k : Nat}, storeWf (fun _ => d) m = true → storeWf (fun _ => d) (storePutList d m k vs) = true := by
  induction vs with
  | nil => exact fun h => h
  | cons v vs ih => exact fun h => ih (storePut_wf (d := fun _ => d) h)

theorem storeNil_wf [DecidableEq V] (d : Nat → V) : storeWf d [] = true := rfl

end Sys2Proof.Machine
end

