-- ==== Sys2Proof/Laws/Regs.lean ====
section
/-! SUPPORT. The laws of the register file: no two words share a key, and what a read gives after each of the named updates of registers,
fields, status bits, counters and events. -/

set_option Elab.async false

namespace Sys2Proof.Machine

/-! Keys. -/

theorem mem_allPages (p : Page) : p ∈ allPages := by
  cases p <;> simp [allPages, mgrPages, tenPages, List.mem_finRange]
  case uart u => revert u; decide

/-- Whether each page of a list lies at least 0x1000 above the one before it. -/
def pagesRise : List Page → Bool
  | p :: q :: r => decide (pageBase p + 4096 ≤ pageBase q) && pagesRise (q :: r)
  | _ => true

theorem allPages_rise : pagesRise allPages = true := by
  set_option maxRecDepth 4000 in decide

/-- The first page of a rising list lies below the others. -/
theorem first_below {p q : Page} : ∀ {l : List Page}, pagesRise (p :: l) = true → q ∈ l → pageBase p + 4096 ≤ pageBase q
  | [], _, hq => by cases hq
  | r :: l, h, hq => by
    simp only [pagesRise, Bool.and_eq_true, decide_eq_true_eq] at h
    rcases List.mem_cons.1 hq with rfl | hq
    · exact h.1
    · have := first_below h.2 hq
      omega

/-- Two pages of a rising list lie apart. -/
theorem apart_of_rise {p q : Page} (hne : p ≠ q) : ∀ {l : List Page}, pagesRise l = true → p ∈ l → q ∈ l →
    pageBase p + 4096 ≤ pageBase q ∨ pageBase q + 4096 ≤ pageBase p
  | [], _, hp, _ => by cases hp
  | r :: l, h, hp, hq => by
    have hl : pagesRise l = true := by
      cases l with
      | nil => rfl
      | cons a l => simp only [pagesRise, Bool.and_eq_true] at h; exact h.2
    rcases List.mem_cons.1 hp with hpr | hpl
    · rcases List.mem_cons.1 hq with hqr | hql
      · exact absurd (hpr.trans hqr.symm) hne
      · exact .inl (first_below (hpr ▸ h) hql)
    · rcases List.mem_cons.1 hq with hqr | hql
      · exact .inr (first_below (hqr ▸ h) hpl)
      · exact apart_of_rise hne hl hpl hql

/-- A key names one word of one page (Table 02-5, Table 02-6). -/
theorem regKey_inj {p q : Page} {o k : Nat} (ho : o < 4096) (hk : k < 4096) (h : regKey p o = regKey q k) : p = q ∧ o = k := by
  unfold regKey at h
  by_cases hpq : p = q
  · subst hpq; exact ⟨rfl, by omega⟩
  · rcases apart_of_rise hpq allPages_rise (mem_allPages p) (mem_allPages q) with h1 | h1 <;> omega

/-! Registers. -/

section
variable {s : State} (h : risingFrom 0 s.regs = true)
include h

/-- A register reads the word just stored in it. -/
theorem setReg_reg_same (p : Page) (o : Nat) (w : Word) : (s.setReg p o w).reg p o = w := storeGet_put_same _ _ _ h

/-- Storing a word leaves every word of another key alone. -/
theorem setReg_reg_key {p q : Page} {o k : Nat} (w : Word) (hk : regKey q k ≠ regKey p o) : (s.setReg p o w).reg q k = s.reg q k :=
  storeGet_put_other _ _ _ h hk

/-- Storing a word leaves the other words of its page alone. -/
theorem setReg_reg_off (p : Page) {o k : Nat} (w : Word) (hk : k ≠ o) : (s.setReg p o w).reg p k = s.reg p k :=
  setReg_reg_key h w (by unfold regKey; omega)

/-- Storing a word leaves every other page alone. -/
theorem setReg_reg_page {p q : Page} {o k : Nat} (w : Word) (hpq : q ≠ p) (ho : o < 4096) (hk : k < 4096) :
    (s.setReg p o w).reg q k = s.reg q k :=
  setReg_reg_key h w fun he => hpq (regKey_inj hk ho he).1

theorem setReg_rising (p : Page) (o : Nat) (w : Word) : risingFrom 0 (s.setReg p o w).regs = true := storePut_rising h

/-- A field reads the value just put into it, wrapped at its width. -/
theorem setFld_fld_same (p : Page) (f : Fld) (v : Nat) (hf : f.lo + f.w ≤ 32) : (s.setFld p f v).fld p f = v % 2 ^ f.w := by
  unfold State.fld State.setFld
  rw [setReg_reg_same h, get_put_same f v _ hf]

/-- Putting a field leaves the register's other fields alone. -/
theorem setFld_fld_bits (p : Page) (f g : Fld) (v : Nat) (hfg : g.off = f.off) (hg : g.lo + g.w ≤ 32)
    (hd : f.lo + f.w ≤ g.lo ∨ g.lo + g.w ≤ f.lo) : (s.setFld p f v).fld p g = s.fld p g := by
  unfold State.fld State.setFld
  rw [hfg, setReg_reg_same h, get_put_other f g v _ hg hd]

/-- Putting a field leaves the fields of the page's other registers alone. -/
theorem setFld_fld_off (p : Page) (f g : Fld) (v : Nat) (hfg : g.off ≠ f.off) : (s.setFld p f v).fld p g = s.fld p g := by
  unfold State.fld State.setFld
  rw [setReg_reg_off h p _ hfg]

theorem setFld_reg_off (p : Page) (f : Fld) (v : Nat) {k : Nat} (hk : k ≠ f.off) : (s.setFld p f v).reg p k = s.reg p k :=
  setReg_reg_off h p _ hk

theorem setFld_reg_page {p q : Page} (f : Fld) (v : Nat) {k : Nat} (hpq : q ≠ p) (ho : f.off < 4096) (hk : k < 4096) :
    (s.setFld p f v).reg q k = s.reg q k := setReg_reg_page h _ hpq ho hk

theorem setFlag_flag_same (p : Page) (f : Fld) (b : Bool) (hf : f.lo + f.w ≤ 32) (hw : 1 ≤ f.w) : (s.setFlag p f b).flag p f = b := by
  unfold State.flag State.setFlag
  rw [setFld_fld_same h p f _ hf]
  have h2 : (2 : Nat) ∣ 2 ^ f.w := by
    obtain ⟨k, hk⟩ : ∃ k, f.w = k + 1 := ⟨f.w - 1, by omega⟩
    rw [hk, Nat.pow_succ]
    exact Nat.dvd_mul_left 2 (2 ^ k)
  rw [Nat.mod_mod_of_dvd _ h2]
  cases b <;> rfl

/-! Single bits. -/

theorem setRegBit_bit (p : Page) (o : Nat) {i j : Nat} (b : Bool) (hi : i < 32) (hj : j < 32) :
    ((s.setRegBit p o i b).reg p o).getLsbD j = if j = i then b else (s.reg p o).getLsbD j := by
  unfold State.setRegBit
  rw [setReg_reg_same h]
  by_cases he : j = i
  · subst he
    cases b <;> simp [onesAt_bit, hj]
  · have hn : (onesAt i 1).getLsbD j = false := by
      rw [onesAt_bit, Bool.and_eq_false_iff, Bool.and_eq_false_iff, decide_eq_false_iff_not, decide_eq_false_iff_not,
        decide_eq_false_iff_not]
      omega
    rw [if_neg he]
    cases b
    · rw [if_neg (by decide), BitVec.getLsbD_and, BitVec.getLsbD_not, hn, decide_eq_true hj, Bool.not_false, Bool.and_true, Bool.and_true]
    · rw [if_pos rfl, BitVec.getLsbD_or, hn, Bool.or_false]

theorem setRegBit_reg_off (p : Page) {o k : Nat} (i : Nat) (b : Bool) (hk : k ≠ o) : (s.setRegBit p o i b).reg p k = s.reg p k :=
  setReg_reg_off h p _ hk

/-- A block-specific status bit reads as set (R39). -/
theorem setStatus_status (p : Page) {i j : Nat} (b : Bool) (hi : i < 32) (hj : j < 32) :
    (s.setStatus p i b).status p j = if j = i then b else s.status p j := setRegBit_bit h p offStatus b hi hj

/-! Events (R40): an event sets its bit of `PG_EVENT`, if the page defines it, and leaves every other register alone. -/

omit h in
theorem setEvents_regs (p : Page) (m : Word) :
    (s.setEvents p m).regs = (s.setReg p offEvent (s.reg p offEvent ||| (m &&& eventMask p))).regs := by
  simp [State.setEvents]

theorem event_reg_event (p : Page) (i : Nat) : (s.event p i).reg p offEvent = s.reg p offEvent ||| (onesAt i 1 &&& eventMask p) := by
  have he : (s.event p i).regs = (s.setReg p offEvent (s.reg p offEvent ||| (onesAt i 1 &&& eventMask p))).regs :=
    setEvents_regs p (onesAt i 1)
  have := setReg_reg_same h p offEvent (s.reg p offEvent ||| (onesAt i 1 &&& eventMask p))
  unfold State.reg at this ⊢
  rw [he]
  exact this

/-- A defined event bit reads 1 after its event. -/
theorem event_bit (p : Page) {i : Nat} (hi : i < 32) (hm : (eventMask p).getLsbD i = true) :
    ((s.event p i).reg p offEvent).getLsbD i = true := by
  rw [event_reg_event h]
  simp [onesAt_bit, hi, hm]

theorem event_reg_key {p q : Page} {k : Nat} (i : Nat) (hk : regKey q k ≠ regKey p offEvent) :
    (s.event p i).reg q k = s.reg q k := by
  have he : (s.event p i).regs = (s.setReg p offEvent (s.reg p offEvent ||| (onesAt i 1 &&& eventMask p))).regs :=
    setEvents_regs p (onesAt i 1)
  have := setReg_reg_key h (s.reg p offEvent ||| (onesAt i 1 &&& eventMask p)) hk
  unfold State.reg at this ⊢
  rw [he]
  exact this

theorem event_reg_off (p : Page) (i : Nat) {k : Nat} (hk : k ≠ offEvent) : (s.event p i).reg p k = s.reg p k :=
  event_reg_key h i (by unfold regKey; omega)

theorem event_reg_page {p q : Page} (i : Nat) {k : Nat} (hpq : q ≠ p) (hk : k < 4096) : (s.event p i).reg q k = s.reg q k :=
  event_reg_key h i fun he => hpq (regKey_inj hk (by unfold offEvent; omega) he).1

/-! Counters (R42): 48 bits wide, wrapping. -/

theorem setCounter_counter_same (p : Page) (i v : Nat) : (s.setCounter p i v).counter p i = v % 2 ^ 48 := by
  unfold State.counter State.setCounter
  rw [setReg_reg_off (setReg_rising h _ _ _) p _ (by omega : cntOff i ≠ cntOff i + 4), setReg_reg_same h,
    setReg_reg_same (setReg_rising h _ _ _)]
  simp only [BitVec.toNat_ofNat]
  omega

theorem setCounter_counter_other (p : Page) {i j : Nat} (v : Nat) (hij : j ≠ i) :
    (s.setCounter p i v).counter p j = s.counter p j := by
  unfold State.counter State.setCounter
  have h1 : cntOff j ≠ cntOff i + 4 := by unfold cntOff; omega
  have h2 : cntOff j ≠ cntOff i := by unfold cntOff; omega
  have h3 : cntOff j + 4 ≠ cntOff i + 4 := by unfold cntOff; omega
  have h4 : cntOff j + 4 ≠ cntOff i := by unfold cntOff; omega
  rw [setReg_reg_off (setReg_rising h _ _ _) p _ h1, setReg_reg_off h p _ h2,
    setReg_reg_off (setReg_rising h _ _ _) p _ h3, setReg_reg_off h p _ h4]

theorem setCounter_reg_key {p q : Page} {i k : Nat} (v : Nat) (h1 : regKey q k ≠ regKey p (cntOff i))
    (h2 : regKey q k ≠ regKey p (cntOff i + 4)) : (s.setCounter p i v).reg q k = s.reg q k := by
  unfold State.setCounter
  rw [setReg_reg_key (setReg_rising h _ _ _) _ h2, setReg_reg_key h _ h1]

/-- A counter that counts advances by the number of events, modulo 2^48; one that does not stays. -/
theorem bumpBy_counter (p : Page) (i n : Nat) :
    (s.bumpBy p i n).counter p i = if s.cntEn p i then (s.counter p i + n) % 2 ^ 48 else s.counter p i := by
  unfold State.bumpBy
  split
  · exact setCounter_counter_same h p i _
  · rfl

theorem bump_counter (p : Page) (i : Nat) :
    (s.bump p i).counter p i = if s.cntEn p i then (s.counter p i + 1) % 2 ^ 48 else s.counter p i := bumpBy_counter h p i 1

/-- An advance of a page's counter leaves the registers outside its counters alone. -/
theorem bumpBy_reg_off (p : Page) (i n : Nat) {k : Nat} (hk : k < 0x080) : (s.bumpBy p i n).reg p k = s.reg p k := by
  unfold State.bumpBy
  split
  · exact setCounter_reg_key h _ (by unfold regKey cntOff; omega) (by unfold regKey cntOff; omega)
  · rfl

theorem bump_reg_off (p : Page) (i : Nat) {k : Nat} (hk : k < 0x080) : (s.bump p i).reg p k = s.reg p k := bumpBy_reg_off h p i 1 hk

theorem bumpBy_rising (p : Page) (i n : Nat) : risingFrom 0 (s.bumpBy p i n).regs = true := by
  unfold State.bumpBy
  split
  · exact setReg_rising (setReg_rising h _ _ _) _ _ _
  · exact h

theorem bump_rising (p : Page) (i : Nat) : risingFrom 0 (s.bump p i).regs = true := bumpBy_rising h p i 1

theorem setRegBit_rising (p : Page) (o i : Nat) (b : Bool) : risingFrom 0 (s.setRegBit p o i b).regs = true := setReg_rising h _ _ _

theorem setFld_rising (p : Page) (f : Fld) (v : Nat) : risingFrom 0 (s.setFld p f v).regs = true := setReg_rising h _ _ _

theorem setFlag_rising (p : Page) (f : Fld) (b : Bool) : risingFrom 0 (s.setFlag p f b).regs = true := setReg_rising h _ _ _

/-- An advance of a page's counter leaves every other page alone. -/
theorem bumpBy_reg_page {p q : Page} (i n : Nat) {k : Nat} (hpq : q ≠ p) (hk : k < 4096) : (s.bumpBy p i n).reg q k = s.reg q k := by
  unfold State.bumpBy
  split
  · rename_i hc
    have hn : i < 8 := by
      have : nCounters p ≤ 8 := by cases p <;> simp [nCounters]
      unfold State.cntEn at hc
      simp only [Bool.and_eq_true, decide_eq_true_eq] at hc
      omega
    exact setCounter_reg_key h _ (fun e => hpq (regKey_inj hk (by unfold cntOff; omega) e).1)
      (fun e => hpq (regKey_inj hk (by unfold cntOff; omega) e).1)
  · rfl

theorem bump_reg_page {p q : Page} (i : Nat) {k : Nat} (hpq : q ≠ p) (hk : k < 4096) : (s.bump p i).reg q k = s.reg q k :=
  bumpBy_reg_page h i 1 hpq hk

theorem event_rising (p : Page) (i : Nat) : risingFrom 0 (s.event p i).regs = true := by
  have he : (s.event p i).regs = (s.setReg p offEvent (s.reg p offEvent ||| (onesAt i 1 &&& eventMask p))).regs :=
    setEvents_regs p (onesAt i 1)
  rw [he]
  exact setReg_rising h _ _ _

/-! Faults (R41). -/

theorem faultNote_rising (p : Page) (i d : Nat) : risingFrom 0 (s.faultNote p i d).regs = true := by
  unfold State.faultNote
  split
  · exact setReg_rising h _ _ _
  · exact h

theorem faultNote_reg_key {p q : Page} {k : Nat} (i d : Nat) (hk : regKey q k ≠ regKey p offFaultInfo) :
    (s.faultNote p i d).reg q k = s.reg q k := by
  unfold State.faultNote
  split
  · exact setReg_reg_key h _ hk
  · rfl

omit h in
/-- A fault that its page does not define, or that is set already, changes nothing; another notes itself, sets its bit and sets
FAULT. -/
theorem fault_set (p : Page) (i d : Nat) : s.fault p i d =
    if (faultMask p).getLsbD i = true ∧ (s.reg p offFault).getLsbD i = false then ((s.faultNote p i d).setRegBit p offFault i true).event p 0
    else s := by
  unfold State.fault
  cases (faultMask p).getLsbD i <;> cases (s.reg p offFault).getLsbD i <;> simp

theorem fault_rising (p : Page) (i d : Nat) : risingFrom 0 (s.fault p i d).regs = true := by
  rw [fault_set]
  split
  · exact event_rising (setRegBit_rising (faultNote_rising h p i d) _ _ _ _) _ _
  · exact h

/-- A fault leaves every register but its page's `PG_FAULT`, `PG_FAULT_INFO` and `PG_EVENT` alone. -/
theorem fault_reg_key {p q : Page} {k : Nat} (i d : Nat) (h1 : regKey q k ≠ regKey p offFault)
    (h2 : regKey q k ≠ regKey p offFaultInfo) (h3 : regKey q k ≠ regKey p offEvent) : (s.fault p i d).reg q k = s.reg q k := by
  rw [fault_set]
  split
  · rw [event_reg_key (setRegBit_rising (faultNote_rising h p i d) _ _ _ _) _ h3]
    unfold State.setRegBit
    rw [setReg_reg_key (faultNote_rising h p i d) _ h1, faultNote_reg_key h _ _ h2]
  · rfl

/-- A fault that its page defines reads as set. -/
theorem fault_bit {p : Page} {i : Nat} (d : Nat) (hi : i < 32) (hm : (faultMask p).getLsbD i = true) :
    ((s.fault p i d).reg p offFault).getLsbD i = true := by
  rw [fault_set]
  split
  · have n1 := faultNote_rising h p i d
    rw [event_reg_off (setRegBit_rising n1 _ _ _ _) _ _ (by decide), setRegBit_bit n1 _ _ _ hi hi, if_pos rfl]
  · rename_i hn
    rw [hm] at hn
    simpa using hn

end

end Sys2Proof.Machine
end

