-- ==== Sys2Proof/Laws/Access.lean ====
section
/-! SUPPORT. The laws of a word access: what the touch of an access leaves as it was, and where an access that acts leads. -/

set_option Elab.async false

namespace Sys2Proof.Machine

variable {s : State}

/-- The end of IDLE changes at most the mode. -/
theorem endIdle_eq (s : State) : s.endIdle = { s with pwr := { s.pwr with mode := if s.pwr.mode = .idle then .run else s.pwr.mode } } := by
  unfold State.endIdle
  split <;> rfl

@[simp] theorem endIdle_dom (s : State) : s.endIdle.pwr.dom = s.pwr.dom := by rw [endIdle_eq]
@[simp] theorem endIdle_reg (s : State) (p : Page) (o : Nat) : s.endIdle.reg p o = s.reg p o := by rw [endIdle_eq]; rfl
@[simp] theorem touch_dom (s : State) (fn : Fn) : (s.touch fn).pwr.dom = s.pwr.dom := by
  unfold State.touch; exact endIdle_dom s
@[simp] theorem touch_reg (s : State) (fn : Fn) (p : Page) (o : Nat) : (s.touch fn).reg p o = s.reg p o := by
  unfold State.touch; exact endIdle_reg s p o
@[simp] theorem touch_fld (s : State) (fn : Fn) (p : Page) (f : Fld) : (s.touch fn).fld p f = s.fld p f := by
  unfold State.fld; rw [touch_reg]
@[simp] theorem touch_flag (s : State) (fn : Fn) (p : Page) (f : Fld) : (s.touch fn).flag p f = s.flag p f := by
  unfold State.flag; rw [touch_fld]

/-- An access is judged alike before and after its touch. -/
theorem touch_judge (s : State) (fn : Fn) (p : Page) (off : Nat) (be : BitVec 4) (wr : Option Word) :
    (s.touch fn).judge p off be wr = s.judge p off be wr := by
  unfold State.touch
  rw [endIdle_eq]
  rfl

theorem touch_serialBarred (s : State) (fn : Fn) (p : Page) (b : Bool) : (s.touch fn).serialBarred p b = s.serialBarred p b := by
  unfold State.touch
  rw [endIdle_eq]
  rfl

/-- A word write that acts carries out its register's effect (R53). -/
theorem writeWord_takes {q : Req} {p : Page} {off : Nat} (h : s.Takes q p off) (act : Page → Word → State → State) :
    writeWord q p off act s = act (s.reach p q.serial) q.val (s.at_ p q.serial) := by
  obtain ⟨h1, h2, h3⟩ := h
  unfold writeWord
  rw [if_neg (by rw [h1]; decide)]
  simp only [touch_serialBarred, touch_judge, h2, h3]
  rfl

/-- A word write judged a violation is counted, and recorded if it is the first, and nothing else (R63, R64). -/
theorem writeWord_violates {q : Req} {p : Page} {off : Nat} {ks : List Nat} (h1 : s.hostOn = true)
    (h2 : s.serialBarred (s.reach p q.serial) q.serial = false) (h3 : s.judge (s.reach p q.serial) off q.be (some q.val) = .viol ks)
    (act : Page → Word → State → State) :
    writeWord q p off act s = (s.at_ p q.serial).violation ((s.reach p q.serial).fn q.serial)
      (accessAddr ((s.reach p q.serial).fn q.serial) (s.reach p q.serial) off) (pickKind ks) true q.be := by
  unfold writeWord
  rw [if_neg (by rw [h1]; decide)]
  simp only [touch_serialBarred, touch_judge, h2, h3]
  rfl

/-- A word read that acts is answered with its register's data (R53). -/
theorem readWord_gives {q : RdReq} {p : Page} {off : Nat} (h : s.Gives q p off) (act : Page → State → Word × Bool × State) :
    readWord q p off act s = ((act (s.reach p q.serial) s.endIdle).2.2.emit (.readData ((s.reach p q.serial).fn q.serial)
      (act (s.reach p q.serial) s.endIdle).1 (act (s.reach p q.serial) s.endIdle).2.1)) := by
  obtain ⟨h1, h2, h3⟩ := h
  unfold readWord
  rw [if_neg (by rw [h1]; decide)]
  simp only [h2, h3]
  rfl

/-! Where a register's place leads. -/

theorem mem_mgrPages {p : Page} (h : p.tenant? = none) : p ∈ mgrPages := by
  cases p <;> first | (cases h; done) | (simp [mgrPages, List.mem_finRange]; done) | skip
  case uart u => revert u; decide

theorem mgrBase {p : Page} (h : p.tenant? = none) : pageBase p + 0x1000 ≤ 0x200000 := by
  cases p <;> first | (cases h; done) | (simp [pageBase]; done) | (simp only [pageBase]; omega)

theorem mgrTarget_page {p : Page} {off : Nat} (h : p.tenant? = none) (ho : off < 0x1000) :
    mgrTarget (pageBase p + off) = .page p off := by
  have hb := mgrBase h
  unfold mgrTarget
  rw [if_pos (by omega)]
  have hf : (mgrPages.find? fun r => decide (pageBase r ≤ pageBase p + off ∧ pageBase p + off < pageBase r + 0x1000)) = some p := by
    have : ∃ r, (mgrPages.find? fun r => decide (pageBase r ≤ pageBase p + off ∧ pageBase p + off < pageBase r + 0x1000)) = some r := by
      rw [← Option.isSome_iff_exists, List.find?_isSome]
      exact ⟨p, mem_mgrPages h, by simp; omega⟩
    obtain ⟨r, hr⟩ := this
    have h1 := List.find?_some hr
    simp only [decide_eq_true_eq] at h1
    have : r = p := by
      refine Decidable.byContradiction fun hne => ?_
      rcases apart_of_rise hne allPages_rise (mem_allPages r) (mem_allPages p) with h2 | h2 <;> omega
    rw [hr, this]
  rw [hf]
  show Target.page p (pageBase p + off - pageBase p) = _
  rw [Nat.add_sub_cancel_left]

theorem tenTarget_page {p : Page} {t : Fin 8} {off : Nat} (h : p.tenant? = some t) (ho : off < 0x1000) :
    tenTarget t (pageBase p - 0x2000000 - t.val * 0x200000 + off) = .page p off := by
  unfold tenTarget
  cases p <;> first | (cases h; done) | skip
  all_goals
    cases h
    unfold pageBase
    dsimp only
  · rw [if_pos (by omega)]; exact congrArg (Target.page _) (by omega)
  · rw [if_neg (by omega), if_pos (by omega)]; exact congrArg (Target.page _) (by omega)
  · rw [if_neg (by omega), if_neg (by omega), if_pos (by omega)]; exact congrArg (Target.page _) (by omega)
  · rw [if_neg (by omega), if_neg (by omega), if_neg (by omega), if_pos (by omega)]; exact congrArg (Target.page _) (by omega)

/-- The place of a register leads to it: over the serial host port, to that of the selected tenant (R47). -/
theorem target_reg (s : State) (b : Bool) (p : Page) {off : Nat} (ho : off < 0x1000) :
    s.target b (.reg p off) = .page (s.reach p b) off := by
  unfold State.target
  dsimp only
  cases h : (s.reach p b).tenant? with
  | some t => exact tenTarget_page h ho
  | none =>
    dsimp only
    have : s.reach p b = p := by
      revert h
      unfold State.reach
      cases b
      · intro _; rfl
      · cases p <;> intro h <;> first | rfl | (cases h; done)
    rw [this] at h ⊢
    exact mgrTarget_page h ho

/-! Violations (R64, R65). -/

theorem violCount_reg (s : State) {r : Page} {o : Nat} (h : risingFrom 0 s.regs = true) (hk : regKey r o ≠ regKey .dev 0x068) :
    s.violCount.reg r o = s.reg r o := setReg_reg_key h _ hk

theorem violCount_rising {s : State} (h : risingFrom 0 s.regs = true) : risingFrom 0 s.violCount.regs = true := setReg_rising h _ _ _

/-- What a violation leaves in the registers: the count advanced and saturating, the record where it was armed, and nothing else. -/
theorem violation_regs {s : State} (h : risingFrom 0 s.regs = true) (fn : Fn) (a k : Nat) (wr : Bool) (be : BitVec 4) :
    (s.violation fn a k wr be).fld .dev F.DEV_VIOL_COUNT_COUNT = min (s.fld .dev F.DEV_VIOL_COUNT_COUNT + 1) 0xFFFFFFFF ∧
    (s.violation fn a k wr be).reg .dev 0x06C = (if s.violArmed then BitVec.ofNat 32 (a % 2 ^ 25) else s.reg .dev 0x06C) ∧
    (s.violation fn a k wr be).reg .dev 0x070 = (if s.violArmed then violInfo fn k wr be else s.reg .dev 0x070) ∧
    (∀ r o, o < 0x1000 → (r = .dev → o < 0x068 ∨ 0x070 < o) → (s.violation fn a k wr be).reg r o = s.reg r o) := by
  have hc := violCount_rising h
  have hcnt : s.violCount.fld .dev F.DEV_VIOL_COUNT_COUNT = min (s.fld .dev F.DEV_VIOL_COUNT_COUNT + 1) 0xFFFFFFFF := by
    unfold State.violCount
    rw [setFld_fld_same h _ _ _ (by decide)]
    show _ % 4294967296 = _
    exact Nat.mod_eq_of_lt (by omega)
  have keys : ∀ (r : Page) (o k : Nat), o < 0x1000 → k < 0x1000 → (r = .dev → o ≠ k) → regKey r o ≠ regKey .dev k := by
    intro r o k ho hk hne he
    obtain ⟨h1, h2⟩ := regKey_inj ho hk he
    exact hne h1 h2
  have h1 : risingFrom 0 (({ s.violCount with violArmed := false } : State).setReg .dev 0x06C (BitVec.ofNat 32 (a % 2 ^ 25))).regs = true :=
    setReg_rising (s := { s.violCount with violArmed := false }) hc _ _ _
  unfold State.violation
  split
  · rename_i ha
    unfold State.violRecord
    refine ⟨?_, ?_, ?_, ?_⟩
    · unfold State.fld
      rw [setReg_reg_off h1 _ _ (by decide), setReg_reg_off (s := { s.violCount with violArmed := false }) hc _ _ (by decide)]
      exact hcnt
    · rw [setReg_reg_off h1 _ _ (by decide), setReg_reg_same (s := { s.violCount with violArmed := false }) hc]
    · rw [setReg_reg_same h1]
    · intro r o ho hne
      rw [setReg_reg_key h1 _ (keys r o 0x070 ho (by decide) fun hr => by have := hne hr; omega),
        setReg_reg_key (s := { s.violCount with violArmed := false }) hc _ (keys r o 0x06C ho (by decide) fun hr => by have := hne hr; omega)]
      exact violCount_reg s h (keys r o 0x068 ho (by decide) fun hr => by have := hne hr; omega)
  · refine ⟨hcnt, violCount_reg s h (by decide), violCount_reg s h (by decide), ?_⟩
    intro r o ho hne
    exact violCount_reg s h (keys r o 0x068 ho (by decide) fun hr => by have := hne hr; omega)

end Sys2Proof.Machine
end

