-- ==== Sys2Proof/Laws/Beside.lean ====
section
/-! SUPPORT. Frames: that the named updates of the flags and registers leave everything beside them as it was. -/

set_option Elab.async false

namespace Sys2Proof.Machine

/-- Two states are the same beside what `State.Beside` names once every other field is. -/
theorem beside_of {s t : State} (h1 : t.pending = s.pending) (h2 : t.fresh = s.fresh) (h3 : t.chip = s.chip)
    (h4 : t.violArmed = s.violArmed) (h5 : t.softReset = s.softReset) (h6 : t.isoTests = s.isoTests)
    (h7 : t.pwr = { s.pwr with mode := t.pwr.mode }) (h8 : t.mem = s.mem) (h9 : t.gather = s.gather) (h10 : t.ct = s.ct)
    (h11 : t.chains = s.chains) (h12 : t.mains = s.mains) (h13 : t.io = s.io) (h14 : t.line = s.line) (h15 : t.net = s.net)
    (h16 : t.cph = s.cph) (h17 : t.slp = s.slp) (h18 : t.nvm = s.nvm) (h19 : t.twn = s.twn) : s.Beside t := by
  cases s; cases t
  simp only at *
  subst h1 h2 h3 h4 h5 h6 h8 h9 h10 h11 h12 h13 h14 h15 h16 h17 h18 h19
  simp only [State.Beside]
  rw [← h7]

theorem beside_refl (s : State) : s.Beside s := rfl

theorem beside_trans {s t u : State} (h : s.Beside t) (k : t.Beside u) : s.Beside u := by
  unfold State.Beside at *
  rw [k, h]

theorem beside_pending {s t : State} (h : s.Beside t) : t.pending = s.pending := by rw [h]
theorem beside_fresh {s t : State} (h : s.Beside t) : t.fresh = s.fresh := by rw [h]
theorem beside_chip {s t : State} (h : s.Beside t) : t.chip = s.chip := by rw [h]
theorem beside_violArmed {s t : State} (h : s.Beside t) : t.violArmed = s.violArmed := by rw [h]
theorem beside_softReset {s t : State} (h : s.Beside t) : t.softReset = s.softReset := by rw [h]
theorem beside_isoTests {s t : State} (h : s.Beside t) : t.isoTests = s.isoTests := by rw [h]
theorem beside_mem {s t : State} (h : s.Beside t) : t.mem = s.mem := by rw [h]
theorem beside_gather {s t : State} (h : s.Beside t) : t.gather = s.gather := by rw [h]
theorem beside_ct {s t : State} (h : s.Beside t) : t.ct = s.ct := by rw [h]
theorem beside_chains {s t : State} (h : s.Beside t) : t.chains = s.chains := by rw [h]
theorem beside_mains {s t : State} (h : s.Beside t) : t.mains = s.mains := by rw [h]
theorem beside_io {s t : State} (h : s.Beside t) : t.io = s.io := by rw [h]
theorem beside_line {s t : State} (h : s.Beside t) : t.line = s.line := by rw [h]
theorem beside_net {s t : State} (h : s.Beside t) : t.net = s.net := by rw [h]
theorem beside_cph {s t : State} (h : s.Beside t) : t.cph = s.cph := by rw [h]
theorem beside_slp {s t : State} (h : s.Beside t) : t.slp = s.slp := by rw [h]
theorem beside_nvm {s t : State} (h : s.Beside t) : t.nvm = s.nvm := by rw [h]
theorem beside_twn {s t : State} (h : s.Beside t) : t.twn = s.twn := by rw [h]

theorem endIdle_beside (s : State) : s.Beside s.endIdle := by
  refine beside_of ?_ ?_ ?_ ?_ ?_ ?_ ?_ ?_ ?_ ?_ ?_ ?_ ?_ ?_ ?_ ?_ ?_ ?_ ?_ <;> first | (simp; done) | skip
  unfold State.endIdle
  split <;> rfl

theorem setLatch_beside (s : State) (fn : Fn) (l : Latch) : s.Beside (s.setLatch fn l) := rfl

theorem touch_beside (s : State) (fn : Fn) : s.Beside (s.touch fn) := beside_trans (endIdle_beside s) (setLatch_beside _ _ _)

theorem setReg_beside (s : State) (p : Page) (o : Nat) (w : Word) : s.Beside (s.setReg p o w) := rfl

theorem setFld_beside (s : State) (p : Page) (f : Fld) (v : Nat) : s.Beside (s.setFld p f v) := rfl

theorem setFlag_beside (s : State) (p : Page) (f : Fld) (b : Bool) : s.Beside (s.setFlag p f b) := rfl

theorem setRegBit_beside (s : State) (p : Page) (o i : Nat) (b : Bool) : s.Beside (s.setRegBit p o i b) := rfl

theorem emit_beside (s : State) (o : Out) : s.Beside (s.emit o) := rfl

theorem setCounter_beside (s : State) (p : Page) (i v : Nat) : s.Beside (s.setCounter p i v) := rfl

theorem bumpBy_beside (s : State) (p : Page) (i n : Nat) : s.Beside (s.bumpBy p i n) := by
  unfold State.bumpBy
  split
  · exact setCounter_beside _ _ _ _
  · exact beside_refl s

theorem msix_beside (s : State) (fn vec : Nat) : s.Beside (s.msix fn vec) := by
  unfold State.msix
  dsimp only
  split <;> rfl

theorem withVec_beside {s : State} {f : State → State} (h : s.Beside (f s)) (fn vec : Nat) (w : Bool) : s.Beside (s.withVec fn vec w f) := by
  unfold State.withVec
  dsimp only
  split
  · exact beside_trans h (msix_beside _ _ _)
  · exact h

theorem withEvents_beside {s : State} {f : State → State} (h : s.Beside (f s)) (p : Page) (w : Bool) : s.Beside (s.withEvents p w f) := by
  unfold State.withEvents
  split
  · exact h
  · exact withVec_beside h _ _ _

theorem event_beside (s : State) (p : Page) (i : Nat) : s.Beside (s.event p i) :=
  withEvents_beside (f := fun s => s.setReg p offEvent (s.reg p offEvent ||| (onesAt i 1 &&& eventMask p))) (setReg_beside s p offEvent _) p false

theorem fault_beside (s : State) (p : Page) (i d : Nat) : s.Beside (s.fault p i d) := by
  unfold State.fault
  split
  · exact beside_refl s
  split
  · exact beside_refl s
  refine beside_trans (t := s.faultNote p i d) ?_ (beside_trans (setRegBit_beside _ _ _ _ _) (event_beside _ _ _))
  unfold State.faultNote
  split
  · exact setReg_beside _ _ _ _
  · exact beside_refl s

theorem foldl_beside {α : Type} {f : State → α → State} (h : ∀ (s : State) (a : α), s.Beside (f s a)) : ∀ (l : List α) (s : State), s.Beside (l.foldl f s)
  | [], s => beside_refl s
  | a :: l, s => beside_trans (h s a) (foldl_beside h l (f s a))

end Sys2Proof.Machine
end

