-- ==== Sys2Proof/Laws/Keeps.lean ====
section
/-! SUPPORT. The relation that every operation of the block keeps: from state `s` to state `t` the queue is untouched, what
manufacture fixed is untouched, and a well-formed state stays well formed. One lemma for each shape of definition. -/

set_option Elab.async false

namespace Sys2Proof.Machine

/-- What every operation keeps from `s` to `t`. -/
structure Keeps (s t : State) : Prop where
  pending : t.pending = s.pending
  chip : s.chip.Kept t.chip
  wf : s.Wf → t.Wf

theorem div_add_pow_odd {v e i : Nat} (h : v / 2 ^ i % 2 = 1) (hne : ¬ v / 2 ^ e % 2 = 1) :
    (v + 2 ^ e) / 2 ^ i % 2 = 1 := by
  rcases Nat.lt_trichotomy i e with hlt | heq | hgt
  · obtain ⟨k, rfl⟩ : ∃ k, e = i + (k + 1) := ⟨e - i - 1, by omega⟩
    rw [Nat.pow_add, Nat.add_mul_div_left _ _ (Nat.two_pow_pos i), Nat.pow_succ]
    omega
  · subst heq; exact absurd h hne
  · obtain ⟨k, rfl⟩ : ∃ k, i = e + 1 + k := ⟨i - e - 1, by omega⟩
    have hd : (v + 2 ^ e) / 2 ^ (e + 1) = v / 2 ^ (e + 1) := by
      rw [Nat.pow_succ, ← Nat.div_div_eq_div_mul, ← Nat.div_div_eq_div_mul,
        Nat.add_div_right _ (Nat.two_pow_pos e)]
      omega
    rw [Nat.pow_add, ← Nat.div_div_eq_div_mul] at h ⊢
    rw [hd]
    exact h

/-- Setting one bit of a number leaves every bit that is set. -/
theorem bitOf_setBitOf_keep {v e i : Nat} (h : bitOf v i = true) : bitOf (setBitOf v e true) i = true := by
  unfold setBitOf
  simp only [if_true]
  split
  · exact h
  · rename_i hne
    simp only [bitOf, decide_eq_true_eq] at h hne ⊢
    exact div_add_pow_odd h hne

theorem Chip.Kept.refl (c : Chip) : c.Kept c := ⟨rfl, rfl, rfl, rfl, rfl, fun _ h => h⟩

theorem Keeps.refl (s : State) : Keeps s s := ⟨rfl, Chip.Kept.refl _, fun h => h⟩

variable {s0 s t u : State}

/-- An update of none of the fields that the relation speaks of. -/
theorem Keeps.congr (h : Keeps s0 u) (hp : t.pending = u.pending) (hc : t.chip = u.chip) (hr : t.regs = u.regs)
    (h1 : t.mem.qmem = u.mem.qmem) (h2 : t.mem.dir = u.mem.dir) (h3 : t.mem.tmap = u.mem.tmap)
    (h4 : t.mem.sbuf = u.mem.sbuf) (hl : t.latches = u.latches) (hf : t.fns = u.fns) : Keeps s0 t := by
  refine ⟨hp.trans h.pending, hc ▸ h.chip, fun hs => ?_⟩
  have := h.wf hs
  unfold State.Wf Mem.wf at *
  rw [hr, h1, h2, h3, h4, hl, hf]
  exact this

/-- An update of some of the other fields. -/
theorem Keeps.mk' {pending : List Instr} {out : List Out} {fresh : Nat} {chip : Chip} {regs : Store Word} {latches : List Latch}
    {violArmed : Bool} {softReset isoTests : List Page} {fns : List PcieFn} {pwr : Pwr} {mem : Mem} {gather : Gather} {ct : Nat}
    {chains : List Chain} {mains : Mains} {io : HostIo} {line : Line} {net : Net} {cph : Cipher} {slp : Sleep} {nvm : Nvm}
    {twn : Twin} (hp : pending = u.pending) (hc : chip = u.chip) (hr : regs = u.regs)
    (h1 : mem.qmem = u.mem.qmem) (h2 : mem.dir = u.mem.dir) (h3 : mem.tmap = u.mem.tmap)
    (h4 : mem.sbuf = u.mem.sbuf) (hl : latches = u.latches) (hf : fns = u.fns) (h : Keeps s0 u) :
    Keeps s0 ⟨pending, out, fresh, chip, regs, latches, violArmed, softReset, isoTests, fns, pwr, mem, gather, ct, chains, mains,
      io, line, net, cph, slp, nvm, twn⟩ :=
  Keeps.congr h hp hc hr h1 h2 h3 h4 hl hf

/-- An update of fields that the relation speaks of, each shown to keep its part. -/
theorem Keeps.upd (h : Keeps s0 u) (hp : t.pending = u.pending) (hc : u.chip.Kept t.chip) (hw : u.Wf → t.Wf) : Keeps s0 t :=
  have hk := h.chip
  ⟨hp.trans h.pending, ⟨hc.1.trans hk.1, hc.2.1.trans hk.2.1, hc.2.2.1.trans hk.2.2.1, hc.2.2.2.1.trans hk.2.2.2.1,
    hc.2.2.2.2.1.trans hk.2.2.2.2.1, fun i hi => hc.2.2.2.2.2 i (hk.2.2.2.2.2 i hi)⟩, fun hs => hw (h.wf hs)⟩

theorem Mem.wf_iff {m : Mem} : m.wf = true ↔ storeWf (fun _ => 0) m.qmem = true ∧ storeWf (fun _ => 0) m.dir = true ∧
    storeWf tmapDefault m.tmap = true ∧ storeWf (fun _ => 0) m.sbuf = true := by
  simp [Mem.wf, and_assoc]

theorem Keeps.setMem {m : Mem} (h : Keeps s0 u) (hm : u.mem.wf = true → m.wf = true) : Keeps s0 { u with mem := m } :=
  h.upd rfl (Chip.Kept.refl _) fun hw => ⟨hm hw.1, hw.2⟩

theorem Keeps.setRegs {r : Store Word} (h : Keeps s0 u) (hr : risingFrom 0 u.regs = true → risingFrom 0 r = true) :
    Keeps s0 { u with regs := r } :=
  h.upd rfl (Chip.Kept.refl _) fun hw => ⟨hw.1, hr hw.2.1, hw.2.2⟩

theorem Keeps.setLatches {l : List Latch} (h : Keeps s0 u) (hl : l.length = u.latches.length) :
    Keeps s0 { u with latches := l } :=
  h.upd rfl (Chip.Kept.refl _) fun hw => ⟨hw.1, hw.2.1, hl.trans hw.2.2.1, hw.2.2.2⟩

theorem Keeps.setFns {l : List PcieFn} (h : Keeps s0 u) (hl : l.length = u.fns.length) : Keeps s0 { u with fns := l } :=
  h.upd rfl (Chip.Kept.refl _) fun hw => ⟨hw.1, hw.2.1, hw.2.2.1, hl.trans hw.2.2.2⟩

/-- A loss of power, which empties the memories and the latches. -/
theorem Keeps.lost (h : Keeps s0 u) (hp : t.pending = u.pending) (hc : t.chip = u.chip)
    (hr : risingFrom 0 u.regs = true → risingFrom 0 t.regs = true) (hm : t.mem = Mem.empty) (hl : t.latches.length = 11)
    (hf : t.fns.length = 9) : Keeps s0 t :=
  h.upd hp (hc ▸ Chip.Kept.refl _) fun hw => ⟨hm ▸ rfl, hr hw.2.1, hl, hf⟩

theorem Keeps.foldl {α : Type} {f : State → α → State} {l : List α} (h : Keeps s0 s)
    (hf : ∀ s a, Keeps s0 s → Keeps s0 (f s a)) : Keeps s0 (l.foldl f s) := by
  induction l generalizing s with
  | nil => exact h
  | cons a l ih => exact ih (hf s a h)

theorem Keeps.foldl_snd {α β : Type} {f : β × State → α → β × State} {l : List α} {p : β × State} (h : Keeps s0 p.2)
    (hf : ∀ p a, Keeps s0 p.2 → Keeps s0 (f p a).2) : Keeps s0 (l.foldl f p).2 := by
  induction l generalizing p with
  | nil => exact h
  | cons a l ih => exact ih (hf p a h)

theorem Keeps.foldl_snd2 {α β γ : Type} {f : β × γ × State → α → β × γ × State} {l : List α} {p : β × γ × State}
    (h : Keeps s0 p.2.2) (hf : ∀ p a, Keeps s0 p.2.2 → Keeps s0 (f p a).2.2) : Keeps s0 (l.foldl f p).2.2 := by
  induction l generalizing p with
  | nil => exact h
  | cons a l ih => exact ih (hf p a h)

theorem Keeps.foldl_fst {α β : Type} {f : State × β → α → State × β} {l : List α} {p : State × β} (h : Keeps s0 p.1)
    (hf : ∀ p a, Keeps s0 p.1 → Keeps s0 (f p a).1) : Keeps s0 (l.foldl f p).1 := by
  induction l generalizing p with
  | nil => exact h
  | cons a l ih => exact ih (hf p a h)

theorem Keeps.of_snd {β : Type} {p : β × State} {b : β} (e : p = (b, t)) (h : Keeps s0 p.2) : Keeps s0 t := by
  subst e; exact h

theorem Keeps.of_fst {β : Type} {p : State × β} {b : β} (e : p = (t, b)) (h : Keeps s0 p.1) : Keeps s0 t := by
  subst e; exact h

theorem Keeps.of_snd2 {β γ : Type} {p : β × γ × State} {b : β} {c : γ} (e : p = (b, c, t)) (h : Keeps s0 p.2.2) :
    Keeps s0 t := by
  subst e; exact h

theorem Keeps.of_some {x : Option State} (e : x = some t) (h : ∀ t, x = some t → Keeps s0 t) : Keeps s0 t := h t e

theorem Keeps.of_ite {c : Prop} [Decidable c] {x : Option State} (e : (if c then x else none) = some t)
    (h : ∀ t, x = some t → Keeps s0 t) : Keeps s0 t := by
  split at e
  · exact h t e
  · cases e

theorem Keeps.getD {x : Option State} (h : ∀ t, x = some t → Keeps s0 t) (hs : Keeps s0 s) : Keeps s0 (x.getD s) := by
  cases x with
  | none => exact hs
  | some u => exact h u rfl

/-- A command's meaning that answers a next state. -/
theorem Keeps.of_next (h : Keeps s0 u)
    (e : (Host.Outcome.next u : Host.Outcome State Fault Refusal) = .next t) : Keeps s0 t := by
  cases e; exact h

end Sys2Proof.Machine
end

