-- ==== Sys2Proof/Laws/Keeps/Ops.lean ====
section
/-! SUPPORT. That every operation of Ops keeps the relation of Laws/Keeps. -/

set_option Elab.async false

namespace Sys2Proof.Machine

theorem State.tmapPut_keeps (s : State) (a : Nat) (v : Nat) {s0 : State} (h : Keeps s0 s) :
    Keeps s0 (State.tmapPut s a v) := by
  refine h.setMem fun hm => ?_
  rw [Mem.wf_iff] at hm ⊢
  exact ⟨hm.1, hm.2.1, storePut_wf hm.2.2.1, hm.2.2.2⟩

theorem State.sbufPut_keeps (s : State) (a : Nat) (v : Nat) {s0 : State} (h : Keeps s0 s) :
    Keeps s0 (State.sbufPut s a v) := by
  refine h.setMem fun hm => ?_
  rw [Mem.wf_iff] at hm ⊢
  exact ⟨hm.1, hm.2.1, hm.2.2.1, storePut_wf (d := fun _ => 0) hm.2.2.2⟩

theorem State.setReg_keeps (s : State) (p : Page) (off : Nat) (w : Word) {s0 : State} (h : Keeps s0 s) :
    Keeps s0 (State.setReg s p off w) := by
  exact h.setRegs fun hr => storePut_rising hr

theorem State.setFld_keeps (s : State) (p : Page) (f : Fld) (v : Nat) {s0 : State} (h : Keeps s0 s) :
    Keeps s0 (State.setFld s p f v) := by
  unfold State.setFld
  repeat' first
    | with_reducible assumption
    | with_reducible apply State.setReg_keeps

theorem State.setFlag_keeps (s : State) (p : Page) (f : Fld) (b : Bool) {s0 : State} (h : Keeps s0 s) :
    Keeps s0 (State.setFlag s p f b) := by
  unfold State.setFlag
  repeat' first
    | with_reducible assumption
    | with_reducible apply State.setFld_keeps
    | split

theorem State.emit_keeps (s : State) (o : Out) {s0 : State} (h : Keeps s0 s) :
    Keeps s0 (State.emit s o) := by
  unfold State.emit
  repeat' first
    | with_reducible assumption
    | with_reducible apply Keeps.mk' rfl rfl rfl rfl rfl rfl rfl rfl rfl

theorem State.setRegBit_keeps (s : State) (p : Page) (off : Nat) (i : Nat) (b : Bool) {s0 : State} (h : Keeps s0 s) :
    Keeps s0 (State.setRegBit s p off i b) := by
  unfold State.setRegBit
  repeat' first
    | with_reducible assumption
    | with_reducible apply State.setReg_keeps
    | split

theorem State.setStatus_keeps (s : State) (p : Page) (i : Nat) (b : Bool) {s0 : State} (h : Keeps s0 s) :
    Keeps s0 (State.setStatus s p i b) := by
  unfold State.setStatus
  repeat' first
    | with_reducible assumption
    | with_reducible apply State.setRegBit_keeps

theorem State.setCounter_keeps (s : State) (p : Page) (i : Nat) (v : Nat) {s0 : State} (h : Keeps s0 s) :
    Keeps s0 (State.setCounter s p i v) := by
  unfold State.setCounter
  repeat' first
    | with_reducible assumption
    | with_reducible apply State.setReg_keeps

theorem State.bumpBy_keeps (s : State) (p : Page) (i : Nat) (n : Nat) {s0 : State} (h : Keeps s0 s) :
    Keeps s0 (State.bumpBy s p i n) := by
  unfold State.bumpBy
  repeat' first
    | with_reducible assumption
    | with_reducible apply State.setCounter_keeps
    | split

theorem State.bump_keeps (s : State) (p : Page) (i : Nat) {s0 : State} (h : Keeps s0 s) :
    Keeps s0 (State.bump s p i) := by
  unfold State.bump
  repeat' first
    | with_reducible assumption
    | with_reducible apply State.bumpBy_keeps

theorem State.freeNat_keeps (s : State) {s0 : State} (h : Keeps s0 s) :
    Keeps s0 (State.freeNat s).2 := by
  unfold State.freeNat
  repeat' first
    | with_reducible assumption
    | with_reducible apply Keeps.mk' rfl rfl rfl rfl rfl rfl rfl rfl rfl

end Sys2Proof.Machine
end

