-- ==== Sys2Proof/Laws/Keeps/Flags.lean ====
section
/-! SUPPORT. That every operation of Flags keeps the relation of Laws/Keeps. -/

set_option Elab.async false

namespace Sys2Proof.Machine

theorem State.setFn_keeps (s : State) (fn : Nat) (f : PcieFn) {s0 : State} (h : Keeps s0 s) :
    Keeps s0 (State.setFn s fn f) := by
  exact h.setFns (List.length_set ..)

theorem State.msix_keeps (s : State) (fn : Nat) (vec : Nat) {s0 : State} (h : Keeps s0 s) :
    Keeps s0 (State.msix s fn vec) := by
  unfold State.msix
  repeat' first
    | with_reducible assumption
    | with_reducible apply State.emit_keeps
    | with_reducible apply State.setFn_keeps
    | (extract_lets +onlyGivenNames xl; first
        | (clear_value xl; revert xl; intro yl)
        | (revert xl; intro yl))
    | split

theorem State.withVec_keeps (s : State) (fn : Nat) (vec : Nat) (write : Bool) (f : State → State) {s0 : State} (h : Keeps s0 s) (hf : ∀ t, Keeps s0 t → Keeps s0 (f  t)) :
    Keeps s0 (State.withVec s fn vec write f) := by
  unfold State.withVec
  repeat' first
    | with_reducible assumption
    | with_reducible apply hf
    | with_reducible apply State.msix_keeps
    | (extract_lets +onlyGivenNames xl; first
        | (refine (fun (hx : Keeps s0 xl) => ?_) ?_; rotate_left; unfold xl; clear xl; rotate_left; clear_value xl; revert xl; intro yl hy))
    | split

theorem State.withEvents_keeps (s : State) (p : Page) (write : Bool) (f : State → State) {s0 : State} (h : Keeps s0 s) (hf : ∀ t, Keeps s0 t → Keeps s0 (f  t)) :
    Keeps s0 (State.withEvents s p write f) := by
  unfold State.withEvents
  repeat' first
    | with_reducible assumption
    | with_reducible apply hf
    | with_reducible apply State.withVec_keeps
    | intro _
    | split

theorem State.setEvents_keeps (s : State) (p : Page) (m : Word) {s0 : State} (h : Keeps s0 s) :
    Keeps s0 (State.setEvents s p m) := by
  unfold State.setEvents
  repeat' first
    | with_reducible assumption
    | with_reducible apply State.withEvents_keeps
    | with_reducible apply State.setReg_keeps
    | intro _

theorem State.event_keeps (s : State) (p : Page) (i : Nat) {s0 : State} (h : Keeps s0 s) :
    Keeps s0 (State.event s p i) := by
  unfold State.event
  repeat' first
    | with_reducible assumption
    | with_reducible apply State.setEvents_keeps

theorem State.faultNote_keeps (s : State) (p : Page) (i : Nat) (detail : Nat) {s0 : State} (h : Keeps s0 s) :
    Keeps s0 (State.faultNote s p i detail) := by
  unfold State.faultNote
  repeat' first
    | with_reducible assumption
    | with_reducible apply State.setReg_keeps
    | split

theorem State.fault_keeps (s : State) (p : Page) (i : Nat) (detail : Nat) {s0 : State} (h : Keeps s0 s) :
    Keeps s0 (State.fault s p i detail) := by
  unfold State.fault
  repeat' first
    | with_reducible assumption
    | with_reducible apply State.event_keeps
    | with_reducible apply State.setRegBit_keeps
    | with_reducible apply State.faultNote_keeps
    | split

theorem State.clearFaults_keeps (s : State) (p : Page) (m : Word) {s0 : State} (h : Keeps s0 s) :
    Keeps s0 (State.clearFaults s p m) := by
  unfold State.clearFaults
  repeat' first
    | with_reducible assumption
    | with_reducible apply State.setReg_keeps
    | (extract_lets +onlyGivenNames xl; first
        | (refine (fun (hx : Keeps s0 xl) => ?_) ?_; rotate_left; unfold xl; clear xl; rotate_left; clear_value xl; revert xl; intro yl hy)
        | (clear_value xl; revert xl; intro yl)
        | (revert xl; intro yl))
    | split

end Sys2Proof.Machine
end

