-- ==== Sys2Proof/Laws/Keeps/Operands.lean ====
section
/-! SUPPORT. That every operation of Operands keeps the relation of Laws/Keeps. -/

set_option Elab.async false

namespace Sys2Proof.Machine

theorem State.violCount_keeps (s : State) {s0 : State} (h : Keeps s0 s) :
    Keeps s0 (State.violCount s) := by
  unfold State.violCount
  repeat' first
    | with_reducible assumption
    | with_reducible apply State.setFld_keeps

theorem State.violRecord_keeps (s : State) (fn : Fn) (addr : Nat) (kind : Nat) (wr : Bool) (be : BitVec 4) {s0 : State} (h : Keeps s0 s) :
    Keeps s0 (State.violRecord s fn addr kind wr be) := by
  unfold State.violRecord
  repeat' first
    | with_reducible assumption
    | with_reducible apply State.setReg_keeps
    | with_reducible apply Keeps.mk' rfl rfl rfl rfl rfl rfl rfl rfl rfl

theorem State.violation_keeps (s : State) (fn : Fn) (addr : Nat) (kind : Nat) (wr : Bool) (be : BitVec 4) {s0 : State} (h : Keeps s0 s) :
    Keeps s0 (State.violation s fn addr kind wr be) := by
  unfold State.violation
  repeat' first
    | with_reducible assumption
    | with_reducible apply State.violRecord_keeps
    | with_reducible apply State.violCount_keeps
    | split

theorem State.setLatch_keeps (s : State) (fn : Fn) (l : Latch) {s0 : State} (h : Keeps s0 s) :
    Keeps s0 (State.setLatch s fn l) := by
  exact h.setLatches (List.length_set ..)

theorem State.endIdle_keeps (s : State) {s0 : State} (h : Keeps s0 s) :
    Keeps s0 (State.endIdle s) := by
  unfold State.endIdle
  repeat' first
    | with_reducible assumption
    | (extract_lets +onlyGivenNames xl; first
        | (clear_value xl; revert xl; intro yl)
        | (revert xl; intro yl))
    | split
    | with_reducible apply Keeps.mk' rfl rfl rfl rfl rfl rfl rfl rfl rfl

theorem State.touch_keeps (s : State) (fn : Fn) {s0 : State} (h : Keeps s0 s) :
    Keeps s0 (State.touch s fn) := by
  unfold State.touch
  repeat' first
    | with_reducible assumption
    | with_reducible apply State.setLatch_keeps
    | with_reducible apply State.endIdle_keeps

theorem applyWrite_keeps (p : Page) (off : Nat) (w : Word) (s : State) {s0 : State} (h : Keeps s0 s) :
    Keeps s0 (applyWrite p off w s) := by
  unfold applyWrite
  repeat' first
    | with_reducible assumption
    | with_reducible apply State.setReg_keeps

theorem writeWord_keeps (q : Req) (p0 : Page) (off : Nat) (act : Page → Word → State → State) (s : State) {s0 : State} (h : Keeps s0 s) (hf : ∀ x0, ∀ x1, ∀ t, Keeps s0 t → Keeps s0 (act x0 x1 t)) :
    Keeps s0 (writeWord q p0 off act s) := by
  unfold writeWord
  repeat' first
    | with_reducible assumption
    | with_reducible apply hf
    | with_reducible apply State.touch_keeps
    | with_reducible apply State.violation_keeps
    | (extract_lets +onlyGivenNames xl; first
        | (refine (fun (hx : Keeps s0 xl) => ?_) ?_; rotate_left; unfold xl; clear xl; rotate_left; clear_value xl; revert xl; intro yl hy)
        | (clear_value xl; revert xl; intro yl)
        | (revert xl; intro yl))
    | split

theorem readWord_keeps (q : RdReq) (p0 : Page) (off : Nat) (act : Page → State → Word × Bool × State) (s : State) {s0 : State} (h : Keeps s0 s) (hf : ∀ x0, ∀ t, Keeps s0 t → Keeps s0 (act x0 t).2.2) :
    Keeps s0 (readWord q p0 off act s) := by
  unfold readWord
  repeat' first
    | with_reducible assumption
    | with_reducible apply hf
    | with_reducible apply State.emit_keeps
    | with_reducible apply State.violation_keeps
    | with_reducible apply State.touch_keeps
    | with_reducible apply State.endIdle_keeps
    | intro _
    | (extract_lets +onlyGivenNames xl; first
        | (refine (fun (hx : Keeps s0 xl.2.2) => ?_) ?_; rotate_left; unfold xl; clear xl; rotate_left; clear_value xl; revert xl; intro yl hy)
        | (clear_value xl; revert xl; intro yl)
        | (revert xl; intro yl))
    | split

end Sys2Proof.Machine
end

