-- ==== Sys2Proof/Laws/Keeps/Entries.lean ====
section
/-! SUPPORT. That every operation of Entries keeps the relation of Laws/Keeps. -/

set_option Elab.async false

namespace Sys2Proof.Machine

theorem State.setChan_keeps (s : State) (c : Nat) (x : Chan) {s0 : State} (h : Keeps s0 s) :
    Keeps s0 (State.setChan s c x) := by
  unfold State.setChan
  repeat' first
    | with_reducible assumption
    | (extract_lets +onlyGivenNames xl; first
        | (clear_value xl; revert xl; intro yl)
        | (revert xl; intro yl))
    | with_reducible apply Keeps.mk' rfl rfl rfl rfl rfl rfl rfl rfl rfl

end Sys2Proof.Machine
end

