-- ==== Sys2Proof/Laws/Keeps/Counters.lean ====
section
/-! SUPPORT. That every operation of Counters keeps the relation of Laws/Keeps. -/

set_option Elab.async false

namespace Sys2Proof.Machine

theorem State.clearCounters_keeps (s : State) {s0 : State} (h : Keeps s0 s) :
    Keeps s0 (State.clearCounters s) := by
  unfold State.clearCounters
  exact (h.setRegs (r := storeKeep (fun k => !isCounterKey k) s.regs) (fun hr => storeKeep_rising _ hr)).congr
    rfl rfl rfl rfl rfl rfl rfl rfl rfl

theorem State.startSnap_keeps (s : State) (clr : Bool) {s0 : State} (h : Keeps s0 s) :
    Keeps s0 (State.startSnap s clr) := by
  unfold State.startSnap
  repeat' first
    | with_reducible assumption
    | with_reducible apply State.event_keeps
    | with_reducible apply State.bump_keeps
    | with_reducible apply State.clearCounters_keeps
    | (extract_lets +onlyGivenNames xl; first
        | (refine (fun (hx : Keeps s0 xl) => ?_) ?_; rotate_left; unfold xl; clear xl; rotate_left; clear_value xl; revert xl; intro yl hy)
        | (clear_value xl; revert xl; intro yl)
        | (revert xl; intro yl))
    | split
    | with_reducible apply Keeps.mk' rfl rfl rfl rfl rfl rfl rfl rfl rfl

theorem State.cmdSnap_keeps (s : State) (clr : Bool) {s0 : State} (h : Keeps s0 s) :
    Keeps s0 (State.cmdSnap s clr) := by
  unfold State.cmdSnap
  repeat' first
    | with_reducible assumption
    | with_reducible apply State.bump_keeps
    | with_reducible apply State.startSnap_keeps
    | (extract_lets +onlyGivenNames xl; first
        | (clear_value xl; revert xl; intro yl)
        | (revert xl; intro yl))
    | split
    | with_reducible apply Keeps.mk' rfl rfl rfl rfl rfl rfl rfl rfl rfl

theorem State.startPending_keeps (s : State) {s0 : State} (h : Keeps s0 s) :
    Keeps s0 (State.startPending s) := by
  unfold State.startPending
  repeat' first
    | with_reducible assumption
    | with_reducible apply State.startSnap_keeps
    | (extract_lets +onlyGivenNames xl; first
        | (clear_value xl; revert xl; intro yl)
        | (revert xl; intro yl))
    | split
    | with_reducible apply Keeps.mk' rfl rfl rfl rfl rfl rfl rfl rfl rfl

theorem State.periodSnap_keeps (s : State) {s0 : State} (h : Keeps s0 s) :
    Keeps s0 (State.periodSnap s) := by
  unfold State.periodSnap
  repeat' first
    | with_reducible assumption
    | with_reducible apply State.event_keeps
    | with_reducible apply State.bump_keeps
    | with_reducible apply State.startSnap_keeps
    | split

theorem State.clrAll_keeps (s : State) {s0 : State} (h : Keeps s0 s) :
    Keeps s0 (State.clrAll s) := by
  unfold State.clrAll
  repeat' first
    | with_reducible assumption
    | with_reducible apply State.event_keeps
    | with_reducible apply State.bump_keeps
    | with_reducible apply State.clearCounters_keeps

theorem cntCtrlWrite_keeps (p : Page) (w : Word) (s : State) {s0 : State} (h : Keeps s0 s) :
    Keeps s0 (cntCtrlWrite p w s) := by
  unfold cntCtrlWrite
  repeat' first
    | with_reducible assumption
    | with_reducible apply State.startPending_keeps
    | with_reducible apply applyWrite_keeps
    | with_reducible apply State.cmdSnap_keeps
    | with_reducible apply State.clrAll_keeps
    | (extract_lets +onlyGivenNames xl; first
        | (refine (fun (hx : Keeps s0 xl) => ?_) ?_; rotate_left; unfold xl; clear xl; rotate_left; clear_value xl; revert xl; intro yl hy))
    | split

theorem execCntSnap_keeps (q : Req) (s : State) {s0 : State} (h : Keeps s0 s) :
    ∀ z, execCntSnap q s = .next z → Keeps s0 z := by
  unfold execCntSnap
  intro z e
  refine Keeps.of_next ?_ e
  repeat' first
    | with_reducible assumption
    | with_reducible apply writeWord_keeps
    | with_reducible apply cntCtrlWrite_keeps
    | intro _

theorem execCntSnapClr_keeps (q : Req) (s : State) {s0 : State} (h : Keeps s0 s) :
    ∀ z, execCntSnapClr q s = .next z → Keeps s0 z := by
  unfold execCntSnapClr
  intro z e
  refine Keeps.of_next ?_ e
  repeat' first
    | with_reducible assumption
    | with_reducible apply writeWord_keeps
    | with_reducible apply cntCtrlWrite_keeps
    | intro _

theorem execCntClrAll_keeps (q : Req) (s : State) {s0 : State} (h : Keeps s0 s) :
    ∀ z, execCntClrAll q s = .next z → Keeps s0 z := by
  unfold execCntClrAll
  intro z e
  refine Keeps.of_next ?_ e
  repeat' first
    | with_reducible assumption
    | with_reducible apply writeWord_keeps
    | with_reducible apply cntCtrlWrite_keeps
    | intro _

theorem execHoldRelease_keeps (q : Req) (s : State) {s0 : State} (h : Keeps s0 s) :
    ∀ z, execHoldRelease q s = .next z → Keeps s0 z := by
  unfold execHoldRelease
  intro z e
  refine Keeps.of_next ?_ e
  repeat' first
    | with_reducible assumption
    | with_reducible apply writeWord_keeps
    | with_reducible apply cntCtrlWrite_keeps
    | intro _

theorem execSnapPeriod_keeps (s : State) {s0 : State} (h : Keeps s0 s) :
    ∀ z, execSnapPeriod s = .next z → Keeps s0 z := by
  unfold execSnapPeriod
  intro z e
  refine Keeps.of_next ?_ e
  repeat' first
    | with_reducible assumption
    | with_reducible apply State.periodSnap_keeps
    | split

theorem execSnapDone_keeps (s : State) {s0 : State} (h : Keeps s0 s) :
    ∀ z, execSnapDone s = .next z → Keeps s0 z := by
  unfold execSnapDone
  intro z e
  refine Keeps.of_next ?_ e
  repeat' first
    | with_reducible assumption
    | with_reducible apply State.startPending_keeps
    | with_reducible apply State.event_keeps
    | with_reducible apply State.bump_keeps
    | (extract_lets +onlyGivenNames xl; first
        | (refine (fun (hx : Keeps s0 xl) => ?_) ?_; rotate_left; unfold xl; clear xl; rotate_left; clear_value xl; revert xl; intro yl hy)
        | (clear_value xl; revert xl; intro yl)
        | (revert xl; intro yl))
    | split
    | with_reducible apply Keeps.mk' rfl rfl rfl rfl rfl rfl rfl rfl rfl

theorem State.setHunit_keeps (s : State) (u : Nat) (a2 : HistUnit) {s0 : State} (h : Keeps s0 s) :
    Keeps s0 (State.setHunit s u a2) := by
  unfold State.setHunit
  repeat' first
    | with_reducible assumption
    | (extract_lets +onlyGivenNames xl; first
        | (clear_value xl; revert xl; intro yl)
        | (revert xl; intro yl))
    | with_reducible apply Keeps.mk' rfl rfl rfl rfl rfl rfl rfl rfl rfl

theorem State.histAdd_keeps (s : State) (u : Nat) (v : Nat) {s0 : State} (h : Keeps s0 s) :
    Keeps s0 (State.histAdd s u v) := by
  unfold State.histAdd
  repeat' first
    | with_reducible assumption
    | with_reducible apply State.setHunit_keeps
    | with_reducible apply State.event_keeps
    | (extract_lets +onlyGivenNames xl; first
        | (refine (fun (hx : Keeps s0 xl) => ?_) ?_; rotate_left; unfold xl; clear xl; rotate_left; clear_value xl; revert xl; intro yl hy)
        | (clear_value xl; revert xl; intro yl)
        | (revert xl; intro yl))
    | split

theorem State.histSample_keeps (s : State) (src : Nat) (o : SampleOf) (v : Option Nat) {s0 : State} (h : Keeps s0 s) :
    Keeps s0 (State.histSample s src o v) := by
  unfold State.histSample
  repeat' first
    | with_reducible assumption
    | with_reducible apply State.histAdd_keeps
    | with_reducible apply State.setHunit_keeps
    | intro _
    | (extract_lets +onlyGivenNames xl; first
        | (clear_value xl; revert xl; intro yl)
        | (revert xl; intro yl))
    | split
    | with_reducible apply Keeps.foldl
    | with_reducible apply Keeps.foldl_snd2
    | with_reducible apply Keeps.foldl_snd
    | with_reducible apply Keeps.foldl_fst

theorem State.histTimed_keeps (s : State) (src : Nat) (o : SampleOf) (start : Nat) (v : Nat) {s0 : State} (h : Keeps s0 s) :
    Keeps s0 (State.histTimed s src o start v) := by
  unfold State.histTimed
  repeat' first
    | with_reducible assumption
    | with_reducible apply State.histSample_keeps
    | intro _
    | split
    | with_reducible apply Keeps.mk' rfl rfl rfl rfl rfl rfl rfl rfl rfl

theorem State.floodSample_keeps (s : State) (o : SampleOf) (ttl : Nat) {s0 : State} (h : Keeps s0 s) :
    Keeps s0 (State.floodSample s o ttl) := by
  unfold State.floodSample
  repeat' first
    | with_reducible assumption
    | with_reducible apply State.setHunit_keeps
    | with_reducible apply State.histAdd_keeps
    | intro _
    | (extract_lets +onlyGivenNames xl; first
        | (clear_value xl; revert xl; intro yl)
        | (revert xl; intro yl))
    | split
    | with_reducible apply Keeps.foldl
    | with_reducible apply Keeps.foldl_snd2
    | with_reducible apply Keeps.foldl_snd
    | with_reducible apply Keeps.foldl_fst

theorem hstCfgWrite_keeps (j : Nat) (p : Page) (w : Word) (s : State) {s0 : State} (h : Keeps s0 s) :
    Keeps s0 (hstCfgWrite j p w s) := by
  unfold hstCfgWrite
  repeat' first
    | with_reducible assumption
    | with_reducible apply applyWrite_keeps
    | (extract_lets +onlyGivenNames xl; first
        | (clear_value xl; revert xl; intro yl)
        | (revert xl; intro yl))
    | split

theorem hstFilterWrite_keeps (j : Nat) (p : Page) (w : Word) (s : State) {s0 : State} (h : Keeps s0 s) :
    Keeps s0 (hstFilterWrite j p w s) := by
  unfold hstFilterWrite
  repeat' first
    | with_reducible assumption
    | with_reducible apply applyWrite_keeps
    | split

theorem hstCmdWrite_keeps (j : Nat) (p : Page) (w : Word) (s : State) {s0 : State} (h : Keeps s0 s) :
    Keeps s0 (hstCmdWrite j p w s) := by
  unfold hstCmdWrite
  repeat' first
    | with_reducible assumption
    | with_reducible apply applyWrite_keeps
    | with_reducible apply State.setHunit_keeps
    | (extract_lets +onlyGivenNames xl; first
        | (refine (fun (hx : Keeps s0 xl) => ?_) ?_; rotate_left; unfold xl; clear xl; rotate_left; clear_value xl; revert xl; intro yl hy))
    | split

theorem execHstCfgWrite_keeps (q : Req) (a1 : Fin 4) (j : Fin 4) (filter : Bool) (s : State) {s0 : State} (h : Keeps s0 s) :
    ∀ z, execHstCfgWrite q a1 j filter s = .next z → Keeps s0 z := by
  unfold execHstCfgWrite
  intro z e
  refine Keeps.of_next ?_ e
  repeat' first
    | with_reducible assumption
    | with_reducible apply writeWord_keeps
    | with_reducible apply hstFilterWrite_keeps
    | with_reducible apply hstCfgWrite_keeps
    | intro _
    | split

theorem execHstClr_keeps (q : Req) (a1 : Fin 4) (j : Fin 4) (s : State) {s0 : State} (h : Keeps s0 s) :
    ∀ z, execHstClr q a1 j s = .next z → Keeps s0 z := by
  unfold execHstClr
  intro z e
  refine Keeps.of_next ?_ e
  repeat' first
    | with_reducible assumption
    | with_reducible apply writeWord_keeps
    | with_reducible apply hstCmdWrite_keeps
    | intro _

end Sys2Proof.Machine
end

