-- ==== Sys2Proof/Laws/Keeps/Monitor.lean ====
section
/-! SUPPORT. That every operation of Monitor keeps the relation of Laws/Keeps. -/

set_option Elab.async false

namespace Sys2Proof.Machine

theorem State.setChain_keeps (s : State) (m : Fin 8) (c : Chain) {s0 : State} (h : Keeps s0 s) :
    Keeps s0 (State.setChain s m c) := by
  unfold State.setChain
  repeat' first
    | with_reducible assumption
    | with_reducible apply Keeps.mk' rfl rfl rfl rfl rfl rfl rfl rfl rfl

theorem State.monPressure_keeps (s : State) (m : Fin 8) {s0 : State} (h : Keeps s0 s) :
    Keeps s0 (State.monPressure s m) := by
  unfold State.monPressure
  repeat' first
    | with_reducible assumption
    | with_reducible apply State.setChain_keeps
    | with_reducible apply State.event_keeps
    | (extract_lets +onlyGivenNames xl; first
        | (refine (fun (hx : Keeps s0 xl) => ?_) ?_; rotate_left; unfold xl; clear xl; rotate_left; clear_value xl; revert xl; intro yl hy)
        | (clear_value xl; revert xl; intro yl)
        | (revert xl; intro yl))
    | split

theorem State.monPush_keeps (s : State) (m : Fin 8) (unsettled : Bool) (sat : Bool) (xf : Bool) (v : Int) (ts : Nat) {s0 : State} (h : Keeps s0 s) :
    Keeps s0 (State.monPush s m unsettled sat xf v ts) := by
  unfold State.monPush
  repeat' first
    | with_reducible assumption
    | with_reducible apply State.event_keeps
    | with_reducible apply State.bump_keeps
    | with_reducible apply State.setChain_keeps
    | with_reducible apply State.monPressure_keeps
    | (extract_lets +onlyGivenNames xl; first
        | (refine (fun (hx : Keeps s0 xl) => ?_) ?_; rotate_left; unfold xl; clear xl; rotate_left; clear_value xl; revert xl; intro yl hy)
        | (clear_value xl; revert xl; intro yl)
        | (revert xl; intro yl))
    | split

theorem State.zcSettle_keeps (s : State) (m : Fin 8) {s0 : State} (h : Keeps s0 s) :
    Keeps s0 (State.zcSettle s m) := by
  unfold State.zcSettle
  repeat' first
    | with_reducible assumption
    | (extract_lets +onlyGivenNames xl; first
        | (clear_value xl; revert xl; intro yl)
        | (revert xl; intro yl))
    | split
    | with_reducible apply Keeps.mk' rfl rfl rfl rfl rfl rfl rfl rfl rfl

theorem State.settle_keeps (s : State) (m : Fin 8) {s0 : State} (h : Keeps s0 s) :
    Keeps s0 (State.settle s m) := by
  unfold State.settle
  repeat' first
    | with_reducible assumption
    | with_reducible apply State.setChain_keeps
    | with_reducible apply State.zcSettle_keeps
    | with_reducible apply State.bump_keeps
    | with_reducible apply State.event_keeps
    | (extract_lets +onlyGivenNames xl; first
        | (refine (fun (hx : Keeps s0 xl) => ?_) ?_; rotate_left; unfold xl; clear xl; rotate_left; clear_value xl; revert xl; intro yl hy)
        | (clear_value xl; revert xl; intro yl)
        | (revert xl; intro yl))
    | split

theorem State.monSwap_keeps (s : State) (m : Fin 8) {s0 : State} (h : Keeps s0 s) :
    Keeps s0 (State.monSwap s m) := by
  unfold State.monSwap
  repeat' first
    | with_reducible assumption
    | with_reducible apply State.setChain_keeps
    | with_reducible apply State.bump_keeps
    | with_reducible apply State.event_keeps
    | with_reducible apply State.settle_keeps
    | (extract_lets +onlyGivenNames xl; first
        | (refine (fun (hx : Keeps s0 xl) => ?_) ?_; rotate_left; unfold xl; clear xl; rotate_left; clear_value xl; revert xl; intro yl hy)
        | (clear_value xl; revert xl; intro yl)
        | (revert xl; intro yl))
    | split

theorem State.thRecord_keeps (s : State) (m : Fin 8) (k : Nat) (asserted : Bool) (v : Int) (onset : Nat) {s0 : State} (h : Keeps s0 s) :
    Keeps s0 (State.thRecord s m k asserted v onset) := by
  unfold State.thRecord
  repeat' first
    | with_reducible assumption
    | with_reducible apply State.setFlag_keeps
    | with_reducible apply State.setFld_keeps
    | with_reducible apply State.bump_keeps
    | with_reducible apply State.event_keeps
    | (extract_lets +onlyGivenNames xl; first
        | (refine (fun (hx : Keeps s0 xl) => ?_) ?_; rotate_left; unfold xl; clear xl; rotate_left; clear_value xl; revert xl; intro yl hy)
        | (clear_value xl; revert xl; intro yl)
        | (revert xl; intro yl))

theorem State.thStep_keeps (s : State) (m : Fin 8) (k : Nat) (v : Int) (ts : Nat) {s0 : State} (h : Keeps s0 s) :
    Keeps s0 (State.thStep s m k v ts) := by
  unfold State.thStep
  repeat' first
    | with_reducible assumption
    | with_reducible apply State.thRecord_keeps
    | with_reducible apply State.setChain_keeps
    | (extract_lets +onlyGivenNames xl; first
        | (clear_value xl; revert xl; intro yl)
        | (revert xl; intro yl))
    | split

theorem State.loseLock_keeps (s : State) {s0 : State} (h : Keeps s0 s) :
    Keeps s0 (State.loseLock s) := by
  unfold State.loseLock
  repeat' first
    | with_reducible assumption
    | with_reducible apply State.bump_keeps
    | with_reducible apply State.event_keeps
    | (extract_lets +onlyGivenNames xl; first
        | (clear_value xl; revert xl; intro yl)
        | (revert xl; intro yl))
    | split
    | with_reducible apply Keeps.mk' rfl rfl rfl rfl rfl rfl rfl rfl rfl

theorem State.validCrossing_keeps (s : State) (t : Nat) {s0 : State} (h : Keeps s0 s) :
    Keeps s0 (State.validCrossing s t) := by
  unfold State.validCrossing
  repeat' first
    | with_reducible assumption
    | with_reducible apply State.bump_keeps
    | with_reducible apply State.event_keeps
    | (extract_lets +onlyGivenNames xl; first
        | (refine (fun (hx : Keeps s0 xl) => ?_) ?_; rotate_left; unfold xl; clear xl; rotate_left; clear_value xl; revert xl; intro yl hy)
        | (clear_value xl; revert xl; intro yl)
        | (revert xl; intro yl))
    | split
    | with_reducible apply Keeps.mk' rfl rfl rfl rfl rfl rfl rfl rfl rfl

theorem State.crossing_keeps (s : State) (t : Nat) (ok : Bool) (cand : Bool) {s0 : State} (h : Keeps s0 s) :
    Keeps s0 (State.crossing s t ok cand) := by
  unfold State.crossing
  repeat' first
    | with_reducible assumption
    | with_reducible apply State.bump_keeps
    | with_reducible apply State.validCrossing_keeps
    | (extract_lets +onlyGivenNames xl; first
        | (clear_value xl; revert xl; intro yl)
        | (revert xl; intro yl))
    | split
    | with_reducible apply Keeps.mk' rfl rfl rfl rfl rfl rfl rfl rfl rfl

theorem State.zcStep_keeps (s : State) (m : Fin 8) (y2 : Int) (fading : Bool) {s0 : State} (h : Keeps s0 s) :
    Keeps s0 (State.zcStep s m y2 fading) := by
  unfold State.zcStep
  repeat' first
    | with_reducible assumption
    | with_reducible apply State.crossing_keeps
    | (extract_lets +onlyGivenNames xl; first
        | (clear_value xl; revert xl; intro yl)
        | (revert xl; intro yl))
    | split
    | with_reducible apply Keeps.mk' rfl rfl rfl rfl rfl rfl rfl rfl rfl

theorem State.monStage2_keeps (a0 : State) (m : Fin 8) (y1 : Int) (sat1 : Bool) {s0 : State} (h : Keeps s0 a0) :
    Keeps s0 (State.monStage2 a0 m y1 sat1) := by
  unfold State.monStage2
  repeat' first
    | with_reducible assumption
    | with_reducible apply State.monSwap_keeps
    | with_reducible apply State.setChain_keeps
    | with_reducible apply State.bump_keeps
    | with_reducible apply State.event_keeps
    | with_reducible apply State.zcStep_keeps
    | with_reducible apply State.thStep_keeps
    | with_reducible apply State.monPush_keeps
    | intro _
    | (extract_lets +onlyGivenNames xl; first
        | (refine (fun (hx : Keeps s0 xl) => ?_) ?_; rotate_left; unfold xl; clear xl; rotate_left; clear_value xl; revert xl; intro yl hy)
        | (clear_value xl; revert xl; intro yl)
        | (revert xl; intro yl))
    | split
    | with_reducible apply Keeps.foldl
    | with_reducible apply Keeps.foldl_snd2
    | with_reducible apply Keeps.foldl_snd
    | with_reducible apply Keeps.foldl_fst

theorem State.monSample_keeps (a0 : State) (m : Fin 8) (x : Int) (overload : Bool) {s0 : State} (h : Keeps s0 a0) :
    Keeps s0 (State.monSample a0 m x overload) := by
  unfold State.monSample
  repeat' first
    | with_reducible assumption
    | with_reducible apply State.bump_keeps
    | with_reducible apply State.event_keeps
    | with_reducible apply State.settle_keeps
    | with_reducible apply State.setChain_keeps
    | with_reducible apply State.monStage2_keeps
    | (extract_lets +onlyGivenNames xl; first
        | (refine (fun (hx : Keeps s0 xl) => ?_) ?_; rotate_left; unfold xl; clear xl; rotate_left; clear_value xl; revert xl; intro yl hy)
        | (clear_value xl; revert xl; intro yl)
        | (revert xl; intro yl))
    | split

theorem State.monSilent_keeps (s : State) (m : Fin 8) {s0 : State} (h : Keeps s0 s) :
    Keeps s0 (State.monSilent s m) := by
  unfold State.monSilent
  repeat' first
    | with_reducible assumption
    | with_reducible apply State.setChain_keeps
    | (extract_lets +onlyGivenNames xl; first
        | (clear_value xl; revert xl; intro yl)
        | (revert xl; intro yl))

theorem State.vsOver_keeps (s : State) (vs : List Int) {s0 : State} (h : Keeps s0 s) :
    Keeps s0 (State.vsOver s vs) := by
  unfold State.vsOver
  repeat' first
    | with_reducible assumption
    | with_reducible apply State.bump_keeps
    | with_reducible apply State.setFld_keeps
    | with_reducible apply State.event_keeps
    | intro _
    | (extract_lets +onlyGivenNames xl; first
        | (refine (fun (hx : Keeps s0 xl) => ?_) ?_; rotate_left; unfold xl; clear xl; rotate_left; clear_value xl; revert xl; intro yl hy)
        | (clear_value xl; revert xl; intro yl)
        | (revert xl; intro yl))
    | split
    | with_reducible apply Keeps.foldl
    | with_reducible apply Keeps.foldl_snd2
    | with_reducible apply Keeps.foldl_snd
    | with_reducible apply Keeps.foldl_fst

theorem State.sampleChains_keeps (s : State) (vs : List Int) (taps : List Nat) {s0 : State} (h : Keeps s0 s) :
    Keeps s0 (State.sampleChains s vs taps) := by
  unfold State.sampleChains
  repeat' first
    | with_reducible assumption
    | with_reducible apply State.monSample_keeps
    | with_reducible apply State.monSilent_keeps
    | with_reducible apply State.vsOver_keeps
    | intro _
    | split
    | with_reducible apply Keeps.foldl
    | with_reducible apply Keeps.foldl_snd2
    | with_reducible apply Keeps.foldl_snd
    | with_reducible apply Keeps.foldl_fst

theorem State.lossEvent_keeps (s : State) {s0 : State} (h : Keeps s0 s) :
    Keeps s0 (State.lossEvent s) := by
  unfold State.lossEvent
  repeat' first
    | with_reducible assumption
    | with_reducible apply State.bump_keeps
    | with_reducible apply State.event_keeps
    | (extract_lets +onlyGivenNames xl; first
        | (clear_value xl; revert xl; intro yl)
        | (revert xl; intro yl))
    | with_reducible apply Keeps.mk' rfl rfl rfl rfl rfl rfl rfl rfl rfl

theorem State.restoreCheck_keeps (s : State) (wasPresent : Bool) {s0 : State} (h : Keeps s0 s) :
    Keeps s0 (State.restoreCheck s wasPresent) := by
  unfold State.restoreCheck
  repeat' first
    | with_reducible assumption
    | with_reducible apply State.event_keeps
    | (extract_lets +onlyGivenNames xl; first
        | (clear_value xl; revert xl; intro yl)
        | (revert xl; intro yl))
    | split
    | with_reducible apply Keeps.mk' rfl rfl rfl rfl rfl rfl rfl rfl rfl

theorem State.zcConfig_keeps (s : State) {s0 : State} (h : Keeps s0 s) :
    Keeps s0 (State.zcConfig s) := by
  unfold State.zcConfig
  repeat' first
    | with_reducible assumption
    | with_reducible apply State.loseLock_keeps
    | (extract_lets +onlyGivenNames xl; first
        | (refine (fun (hx : Keeps s0 xl) => ?_) ?_; rotate_left; unfold xl; clear xl; rotate_left; clear_value xl; revert xl; intro yl hy)
        | (clear_value xl; revert xl; intro yl)
        | (revert xl; intro yl))
    | split
    | with_reducible apply Keeps.mk' rfl rfl rfl rfl rfl rfl rfl rfl rfl

theorem State.lossByUnit_keeps (s : State) (unitWas : Bool) (was : Bool) {s0 : State} (h : Keeps s0 s) :
    Keeps s0 (State.lossByUnit s unitWas was).1 := by
  unfold State.lossByUnit
  repeat' first
    | with_reducible assumption
    | with_reducible apply State.lossEvent_keeps
    | with_reducible apply State.restoreCheck_keeps
    | split

theorem State.vsInstant_keeps (s : State) (vs : List Int) (taps : List Nat) {s0 : State} (h : Keeps s0 s) :
    Keeps s0 (State.vsInstant s vs taps).1 := by
  unfold State.vsInstant
  repeat' first
    | with_reducible assumption
    | with_reducible apply State.lossByUnit_keeps
    | with_reducible apply State.zcConfig_keeps
    | with_reducible apply State.sampleChains_keeps
    | (refine Keeps.of_fst (by with_reducible assumption) ?_)

theorem State.mainsTimeout_keeps (s : State) {s0 : State} (h : Keeps s0 s) :
    Keeps s0 (State.mainsTimeout s).1 := by
  unfold State.mainsTimeout
  repeat' first
    | with_reducible assumption
    | with_reducible apply State.loseLock_keeps
    | with_reducible apply State.lossEvent_keeps
    | intro _
    | (extract_lets +onlyGivenNames xl; first
        | (refine (fun (hx : Keeps s0 xl) => ?_) ?_; rotate_left; unfold xl; clear xl; rotate_left; clear_value xl; revert xl; intro yl hy)
        | (clear_value xl; revert xl; intro yl)
        | (revert xl; intro yl))
    | split
    | (refine Keeps.of_snd (by with_reducible assumption) ?_)
    | with_reducible apply Keeps.mk' rfl rfl rfl rfl rfl rfl rfl rfl rfl

theorem monCfgWrite_keeps (m : Fin 8) (off : Nat) (p : Page) (w : Word) (s : State) {s0 : State} (h : Keeps s0 s) :
    Keeps s0 (monCfgWrite m off p w s) := by
  unfold monCfgWrite
  repeat' first
    | with_reducible assumption
    | with_reducible apply applyWrite_keeps
    | with_reducible apply State.setChain_keeps
    | (extract_lets +onlyGivenNames xl; first
        | (refine (fun (hx : Keeps s0 xl) => ?_) ?_; rotate_left; unfold xl; clear xl; rotate_left; clear_value xl; revert xl; intro yl hy)
        | (clear_value xl; revert xl; intro yl)
        | (revert xl; intro yl))
    | split

theorem monBankWrite_keeps (m : Fin 8) (p : Page) (w : Word) (s : State) {s0 : State} (h : Keeps s0 s) :
    Keeps s0 (monBankWrite m p w s) := by
  unfold monBankWrite
  repeat' first
    | with_reducible assumption
    | with_reducible apply applyWrite_keeps
    | with_reducible apply State.setFld_keeps
    | (extract_lets +onlyGivenNames xl; first
        | (refine (fun (hx : Keeps s0 xl) => ?_) ?_; rotate_left; unfold xl; clear xl; rotate_left; clear_value xl; revert xl; intro yl hy)
        | (clear_value xl; revert xl; intro yl)
        | (revert xl; intro yl))
    | split

theorem monCoefWrite_keeps (m : Fin 8) (off : Nat) (p : Page) (w : Word) (s : State) {s0 : State} (h : Keeps s0 s) :
    Keeps s0 (monCoefWrite m off p w s) := by
  unfold monCoefWrite
  repeat' first
    | with_reducible assumption
    | with_reducible apply applyWrite_keeps
    | (extract_lets +onlyGivenNames xl; first
        | (clear_value xl; revert xl; intro yl)
        | (revert xl; intro yl))
    | split

theorem monWmWrite_keeps (m : Fin 8) (p : Page) (w : Word) (s : State) {s0 : State} (h : Keeps s0 s) :
    Keeps s0 (monWmWrite m p w s) := by
  unfold monWmWrite
  repeat' first
    | with_reducible assumption
    | with_reducible apply State.monPressure_keeps
    | with_reducible apply applyWrite_keeps

theorem monThCfgWrite_keeps (m : Fin 8) (k : Nat) (p : Page) (w : Word) (s : State) {s0 : State} (h : Keeps s0 s) :
    Keeps s0 (monThCfgWrite m k p w s) := by
  unfold monThCfgWrite
  repeat' first
    | with_reducible assumption
    | with_reducible apply applyWrite_keeps
    | with_reducible apply State.setChain_keeps
    | (extract_lets +onlyGivenNames xl; first
        | (refine (fun (hx : Keeps s0 xl) => ?_) ?_; rotate_left; unfold xl; clear xl; rotate_left; clear_value xl; revert xl; intro yl hy)
        | (clear_value xl; revert xl; intro yl)
        | (revert xl; intro yl))
    | split

theorem monThEvtWrite_keeps (k : Nat) (p : Page) (w : Word) (s : State) {s0 : State} (h : Keeps s0 s) :
    Keeps s0 (monThEvtWrite k p w s) := by
  unfold monThEvtWrite
  repeat' first
    | with_reducible assumption
    | with_reducible apply applyWrite_keeps
    | with_reducible apply State.setFlag_keeps
    | (extract_lets +onlyGivenNames xl; first
        | (refine (fun (hx : Keeps s0 xl) => ?_) ?_; rotate_left; unfold xl; clear xl; rotate_left; clear_value xl; revert xl; intro yl hy))
    | split

theorem monDataRead_keeps (m : Fin 8) (s : State) {s0 : State} (h : Keeps s0 s) :
    Keeps s0 (monDataRead m s).2.2 := by
  unfold monDataRead
  repeat' first
    | with_reducible assumption
    | with_reducible apply State.setChain_keeps
    | with_reducible apply State.monPressure_keeps
    | (extract_lets +onlyGivenNames xl; first
        | (clear_value xl; revert xl; intro yl)
        | (revert xl; intro yl))
    | split

theorem execMonDataRead_keeps (q : RdReq) (m : Fin 8) (s : State) {s0 : State} (h : Keeps s0 s) :
    ∀ z, execMonDataRead q m s = .next z → Keeps s0 z := by
  unfold execMonDataRead
  intro z e
  refine Keeps.of_next ?_ e
  repeat' first
    | with_reducible assumption
    | with_reducible apply readWord_keeps
    | with_reducible apply monDataRead_keeps
    | with_reducible apply State.touch_keeps
    | intro _
    | (refine Keeps.of_snd2 (by with_reducible assumption) ?_)

theorem execBankSwap_keeps (q : Req) (m : Fin 8) (s : State) {s0 : State} (h : Keeps s0 s) :
    ∀ z, execBankSwap q m s = .next z → Keeps s0 z := by
  unfold execBankSwap
  intro z e
  refine Keeps.of_next ?_ e
  repeat' first
    | with_reducible assumption
    | with_reducible apply writeWord_keeps
    | with_reducible apply monBankWrite_keeps
    | intro _

end Sys2Proof.Machine
end

