-- ==== Sys2Proof/Laws/Keeps/Admission.lean ====
section
/-! SUPPORT. That every operation of Admission keeps the relation of Laws/Keeps. -/

set_option Elab.async false

namespace Sys2Proof.Machine

theorem State.admRecord_keeps (s : State) (src : AdmSource) (reason : Nat) (station : Nat) (load : Nat) {s0 : State} (h : Keeps s0 s) :
    Keeps s0 (State.admRecord s src reason station load) := by
  unfold State.admRecord
  repeat' first
    | with_reducible assumption
    | with_reducible apply State.setReg_keeps
    | with_reducible apply State.setFld_keeps
    | with_reducible apply State.bump_keeps
    | with_reducible apply State.event_keeps
    | (extract_lets +onlyGivenNames xl; first
        | (refine (fun (hx : Keeps s0 xl) => ?_) ?_; rotate_left; unfold xl; clear xl; rotate_left; clear_value xl; revert xl; intro yl hy)
        | (clear_value xl; revert xl; intro yl)
        | (revert xl; intro yl))
    | split

theorem State.setRefused_keeps (s : State) (c : Nat) (b : Bool) {s0 : State} (h : Keeps s0 s) :
    Keeps s0 (State.setRefused s c b) := by
  unfold State.setRefused
  repeat' first
    | with_reducible assumption
    | with_reducible apply State.setRegBit_keeps

theorem State.refuse_keeps (s : State) (src : AdmSource) (reason : Nat) (station : Nat) (load : Nat) {s0 : State} (h : Keeps s0 s) :
    Keeps s0 (State.refuse s src reason station load) := by
  unfold State.refuse
  repeat' first
    | with_reducible assumption
    | with_reducible apply State.admRecord_keeps
    | with_reducible apply State.event_keeps
    | with_reducible apply State.setRefused_keeps
    | with_reducible apply State.setFlag_keeps
    | (extract_lets +onlyGivenNames xl; first
        | (refine (fun (hx : Keeps s0 xl) => ?_) ?_; rotate_left; unfold xl; clear xl; rotate_left; clear_value xl; revert xl; intro yl hy))
    | split

theorem State.request_keeps (s : State) (src : AdmSource) {s0 : State} (h : Keeps s0 s) :
    Keeps s0 (State.request s src) := by
  unfold State.request
  repeat' first
    | with_reducible assumption
    | with_reducible apply State.refuse_keeps
    | (extract_lets +onlyGivenNames xl; first
        | (clear_value xl; revert xl; intro yl)
        | (revert xl; intro yl))
    | split
    | with_reducible apply Keeps.mk' rfl rfl rfl rfl rfl rfl rfl rfl rfl

end Sys2Proof.Machine
end

