-- ==== Sys2Proof/Laws/Keeps/Wake.lean ====
section
/-! SUPPORT. That every operation of Wake keeps the relation of Laws/Keeps. -/

set_option Elab.async false

namespace Sys2Proof.Machine

theorem State.wake_keeps (s : State) (i : Nat) {s0 : State} (h : Keeps s0 s) :
    Keeps s0 (State.wake s i) := by
  unfold State.wake
  repeat' first
    | with_reducible assumption
    | with_reducible apply State.setReg_keeps
    | (extract_lets +onlyGivenNames xl; first
        | (refine (fun (hx : Keeps s0 xl) => ?_) ?_; rotate_left; unfold xl; clear xl; rotate_left; clear_value xl; revert xl; intro yl hy)
        | (clear_value xl; revert xl; intro yl)
        | (revert xl; intro yl))
    | split
    | with_reducible apply Keeps.mk' rfl rfl rfl rfl rfl rfl rfl rfl rfl

end Sys2Proof.Machine
end

