-- ==== Sys2Proof/Laws/Keeps/Uart.lean ====
section
/-! SUPPORT. That every operation of Uart keeps the relation of Laws/Keeps. -/

set_option Elab.async false

namespace Sys2Proof.Machine

theorem State.setPin_keeps (s : State) (p : Nat) (x : Pin) {s0 : State} (h : Keeps s0 s) :
    Keeps s0 (State.setPin s p x) := by
  unfold State.setPin
  repeat' first
    | with_reducible assumption
    | (extract_lets +onlyGivenNames xl; first
        | (clear_value xl; revert xl; intro yl)
        | (revert xl; intro yl))
    | with_reducible apply Keeps.mk' rfl rfl rfl rfl rfl rfl rfl rfl rfl

theorem State.loseTx_keeps (s : State) (a : Nat) {s0 : State} (h : Keeps s0 s) :
    Keeps s0 (State.loseTx s a) := by
  unfold State.loseTx
  repeat' first
    | with_reducible assumption
    | (extract_lets +onlyGivenNames xl; first
        | (clear_value xl; revert xl; intro yl)
        | (revert xl; intro yl))
    | split
    | with_reducible apply Keeps.mk' rfl rfl rfl rfl rfl rfl rfl rfl rfl

theorem State.startSwitch_keeps (s : State) (p : Nat) {s0 : State} (h : Keeps s0 s) :
    Keeps s0 (State.startSwitch s p) := by
  unfold State.startSwitch
  repeat' first
    | with_reducible assumption
    | with_reducible apply State.loseTx_keeps
    | with_reducible apply State.setPin_keeps
    | (extract_lets +onlyGivenNames xl; first
        | (clear_value xl; revert xl; intro yl)
        | (revert xl; intro yl))
    | split

theorem State.pinsOn_keeps (s : State) {s0 : State} (h : Keeps s0 s) :
    Keeps s0 (State.pinsOn s) := by
  unfold State.pinsOn
  repeat' first
    | with_reducible assumption
    | with_reducible apply State.startSwitch_keeps
    | intro _
    | with_reducible apply Keeps.foldl
    | with_reducible apply Keeps.foldl_snd2
    | with_reducible apply Keeps.foldl_snd
    | with_reducible apply Keeps.foldl_fst

theorem State.pinsOff_keeps (s : State) {s0 : State} (h : Keeps s0 s) :
    Keeps s0 (State.pinsOff s) := by
  unfold State.pinsOff
  repeat' first
    | with_reducible assumption
    | with_reducible apply State.loseTx_keeps
    | (extract_lets +onlyGivenNames xl; first
        | (clear_value xl; revert xl; intro yl)
        | (revert xl; intro yl))
    | with_reducible apply Keeps.mk' rfl rfl rfl rfl rfl rfl rfl rfl rfl

theorem pmxSelWrite_keeps (n : Nat) (p : Page) (w : Word) (s : State) {s0 : State} (h : Keeps s0 s) :
    Keeps s0 (pmxSelWrite n p w s) := by
  unfold pmxSelWrite
  repeat' first
    | with_reducible assumption
    | with_reducible apply State.event_keeps
    | with_reducible apply State.bump_keeps
    | with_reducible apply State.setFld_keeps
    | with_reducible apply State.setFlag_keeps
    | with_reducible apply State.startSwitch_keeps
    | with_reducible apply applyWrite_keeps
    | (extract_lets +onlyGivenNames xl; first
        | (clear_value xl; revert xl; intro yl)
        | (revert xl; intro yl))
    | split

theorem execPmxSelect_keeps (q : Req) (n : Fin 48) (s : State) {s0 : State} (h : Keeps s0 s) :
    ∀ z, execPmxSelect q n s = .next z → Keeps s0 z := by
  unfold execPmxSelect
  intro z e
  refine Keeps.of_next ?_ e
  repeat' first
    | with_reducible assumption
    | with_reducible apply writeWord_keeps
    | with_reducible apply pmxSelWrite_keeps
    | intro _

theorem execPmxSwitchDone_keeps (n : Fin 48) (s : State) {s0 : State} (h : Keeps s0 s) :
    ∀ z, execPmxSwitchDone n s = .next z → Keeps s0 z := by
  unfold execPmxSwitchDone
  intro z e
  refine Keeps.of_next ?_ e
  repeat' first
    | with_reducible assumption
    | with_reducible apply State.startSwitch_keeps
    | with_reducible apply State.event_keeps
    | with_reducible apply State.bump_keeps
    | with_reducible apply State.setPin_keeps
    | split

theorem gpioRead_keeps (hi : Nat) (s : State) {s0 : State} (h : Keeps s0 s) :
    Keeps s0 (gpioRead hi s).2 := by
  unfold gpioRead
  repeat' first
    | with_reducible assumption
    | with_reducible apply State.freeNat_keeps
    | with_reducible apply State.setReg_keeps
    | intro _
    | (extract_lets +onlyGivenNames xl; first
        | (refine (fun (hx : Keeps s0 xl.2) => ?_) ?_; rotate_left; unfold xl; clear xl; rotate_left; clear_value xl; revert xl; intro yl hy)
        | (clear_value xl; revert xl; intro yl)
        | (revert xl; intro yl))
    | split
    | with_reducible apply Keeps.foldl
    | (refine Keeps.of_snd (by with_reducible assumption) ?_)
    | with_reducible apply Keeps.foldl_snd2
    | with_reducible apply Keeps.foldl_snd
    | with_reducible apply Keeps.foldl_fst

theorem State.setUart_keeps (s : State) (u : Fin 2) (x : Uart) {s0 : State} (h : Keeps s0 s) :
    Keeps s0 (State.setUart s u x) := by
  unfold State.setUart
  repeat' first
    | with_reducible assumption
    | (extract_lets +onlyGivenNames xl; first
        | (clear_value xl; revert xl; intro yl)
        | (revert xl; intro yl))
    | with_reducible apply Keeps.mk' rfl rfl rfl rfl rfl rfl rfl rfl rfl

theorem State.uartPressure_keeps (s : State) (u : Fin 2) {s0 : State} (h : Keeps s0 s) :
    Keeps s0 (State.uartPressure s u) := by
  unfold State.uartPressure
  repeat' first
    | with_reducible assumption
    | with_reducible apply State.setUart_keeps
    | with_reducible apply State.event_keeps
    | (extract_lets +onlyGivenNames xl; first
        | (refine (fun (hx : Keeps s0 xl) => ?_) ?_; rotate_left; unfold xl; clear xl; rotate_left; clear_value xl; revert xl; intro yl hy)
        | (clear_value xl; revert xl; intro yl)
        | (revert xl; intro yl))
    | split

theorem State.uartStore_keeps (s : State) (u : Fin 2) (w : UartWord) {s0 : State} (h : Keeps s0 s) :
    Keeps s0 (State.uartStore s u w) := by
  unfold State.uartStore
  repeat' first
    | with_reducible assumption
    | with_reducible apply State.uartPressure_keeps
    | with_reducible apply State.setUart_keeps
    | with_reducible apply State.event_keeps
    | with_reducible apply State.bump_keeps
    | with_reducible apply State.setFlag_keeps
    | (extract_lets +onlyGivenNames xl; first
        | (clear_value xl; revert xl; intro yl)
        | (revert xl; intro yl))
    | split

theorem State.addrMatch_keeps (s : State) (u : Fin 2) {s0 : State} (h : Keeps s0 s) :
    Keeps s0 (State.addrMatch s u) := by
  unfold State.addrMatch
  repeat' first
    | with_reducible assumption
    | with_reducible apply State.event_keeps
    | with_reducible apply State.bump_keeps
    | with_reducible apply State.wake_keeps
    | (extract_lets +onlyGivenNames xl; first
        | (refine (fun (hx : Keeps s0 xl) => ?_) ?_; rotate_left; unfold xl; clear xl; rotate_left; clear_value xl; revert xl; intro yl hy))
    | split

theorem execUartRxChar_keeps (u : Fin 2) (data : Nat) (par : Bool) (stop : Bool) (s : State) {s0 : State} (h : Keeps s0 s) :
    ∀ z, execUartRxChar u data par stop s = .next z → Keeps s0 z := by
  unfold execUartRxChar
  intro z e
  refine Keeps.of_next ?_ e
  repeat' first
    | with_reducible assumption
    | with_reducible apply State.bump_keeps
    | with_reducible apply State.setUart_keeps
    | with_reducible apply State.event_keeps
    | with_reducible apply State.addrMatch_keeps
    | with_reducible apply State.uartStore_keeps
    | (extract_lets +onlyGivenNames xl; first
        | (refine (fun (hx : Keeps s0 xl) => ?_) ?_; rotate_left; unfold xl; clear xl; rotate_left; clear_value xl; revert xl; intro yl hy)
        | (clear_value xl; revert xl; intro yl)
        | (revert xl; intro yl))
    | split

theorem execUartBreak_keeps (u : Fin 2) (s : State) {s0 : State} (h : Keeps s0 s) :
    ∀ z, execUartBreak u s = .next z → Keeps s0 z := by
  unfold execUartBreak
  intro z e
  refine Keeps.of_next ?_ e
  repeat' first
    | with_reducible assumption
    | with_reducible apply State.uartStore_keeps
    | with_reducible apply State.event_keeps
    | with_reducible apply State.bump_keeps
    | (extract_lets +onlyGivenNames xl; first
        | (clear_value xl; revert xl; intro yl)
        | (revert xl; intro yl))
    | split

theorem execUartIdle_keeps (u : Fin 2) (s : State) {s0 : State} (h : Keeps s0 s) :
    ∀ z, execUartIdle u s = .next z → Keeps s0 z := by
  unfold execUartIdle
  intro z e
  refine Keeps.of_next ?_ e
  repeat' first
    | with_reducible assumption
    | with_reducible apply State.event_keeps
    | with_reducible apply State.setUart_keeps
    | (extract_lets +onlyGivenNames xl; first
        | (clear_value xl; revert xl; intro yl)
        | (revert xl; intro yl))
    | split

theorem State.txLow_keeps (s : State) (u : Fin 2) (was : Nat) {s0 : State} (h : Keeps s0 s) :
    Keeps s0 (State.txLow s u was) := by
  unfold State.txLow
  repeat' first
    | with_reducible assumption
    | with_reducible apply State.event_keeps
    | (extract_lets +onlyGivenNames xl; first
        | (clear_value xl; revert xl; intro yl)
        | (revert xl; intro yl))
    | split

theorem execUartTxChar_keeps (u : Fin 2) (cts : Bool) (s : State) {s0 : State} (h : Keeps s0 s) :
    ∀ z, execUartTxChar u cts s = .next z → Keeps s0 z := by
  unfold execUartTxChar
  intro z e
  refine Keeps.of_next ?_ e
  repeat' first
    | with_reducible assumption
    | with_reducible apply State.emit_keeps
    | with_reducible apply State.bump_keeps
    | with_reducible apply State.setUart_keeps
    | with_reducible apply State.txLow_keeps
    | intro _
    | (extract_lets +onlyGivenNames xl; first
        | (refine (fun (hx : Keeps s0 xl) => ?_) ?_; rotate_left; unfold xl; clear xl; rotate_left; clear_value xl; revert xl; intro yl hy)
        | (clear_value xl; revert xl; intro yl)
        | (revert xl; intro yl))
    | split
    | (refine Keeps.of_snd (by with_reducible assumption) ?_)
    | with_reducible apply Keeps.mk' rfl rfl rfl rfl rfl rfl rfl rfl rfl

theorem uartTxdWrite_keeps (u : Fin 2) (p : Page) (w : Word) (s : State) {s0 : State} (h : Keeps s0 s) :
    Keeps s0 (uartTxdWrite u p w s) := by
  unfold uartTxdWrite
  repeat' first
    | with_reducible assumption
    | with_reducible apply State.setUart_keeps
    | with_reducible apply State.setFlag_keeps
    | (extract_lets +onlyGivenNames xl; first
        | (clear_value xl; revert xl; intro yl)
        | (revert xl; intro yl))
    | split

theorem execUartTxdWrite_keeps (q : Req) (u : Fin 2) (s : State) {s0 : State} (h : Keeps s0 s) :
    ∀ z, execUartTxdWrite q u s = .next z → Keeps s0 z := by
  unfold execUartTxdWrite
  intro z e
  refine Keeps.of_next ?_ e
  repeat' first
    | with_reducible assumption
    | with_reducible apply writeWord_keeps
    | with_reducible apply uartTxdWrite_keeps
    | intro _

theorem uartRxdRead_keeps (u : Fin 2) (bad : Bool) (s : State) {s0 : State} (h : Keeps s0 s) :
    Keeps s0 (uartRxdRead u bad s).2.2 := by
  unfold uartRxdRead
  repeat' first
    | with_reducible assumption
    | with_reducible apply State.uartPressure_keeps
    | with_reducible apply State.setUart_keeps
    | with_reducible apply State.bump_keeps
    | (extract_lets +onlyGivenNames xl; first
        | (refine (fun (hx : Keeps s0 xl) => ?_) ?_; rotate_left; unfold xl; clear xl; rotate_left; clear_value xl; revert xl; intro yl hy)
        | (clear_value xl; revert xl; intro yl)
        | (revert xl; intro yl))
    | split

theorem execUartRxdRead_keeps (q : RdReq) (u : Fin 2) (bad : Bool) (s : State) {s0 : State} (h : Keeps s0 s) :
    ∀ z, execUartRxdRead q u bad s = .next z → Keeps s0 z := by
  unfold execUartRxdRead
  intro z e
  refine Keeps.of_next ?_ e
  repeat' first
    | with_reducible assumption
    | with_reducible apply readWord_keeps
    | with_reducible apply uartRxdRead_keeps
    | with_reducible apply State.touch_keeps
    | intro _
    | (refine Keeps.of_snd2 (by with_reducible assumption) ?_)

theorem uartFifoWrite_keeps (u : Fin 2) (a1 : Page) (w : Word) (s : State) {s0 : State} (h : Keeps s0 s) :
    Keeps s0 (uartFifoWrite u a1 w s) := by
  unfold uartFifoWrite
  repeat' first
    | with_reducible assumption
    | with_reducible apply State.uartPressure_keeps
    | with_reducible apply State.setUart_keeps
    | with_reducible apply State.txLow_keeps
    | (extract_lets +onlyGivenNames xl; first
        | (refine (fun (hx : Keeps s0 xl) => ?_) ?_; rotate_left; unfold xl; clear xl; rotate_left; clear_value xl; revert xl; intro yl hy)
        | (clear_value xl; revert xl; intro yl)
        | (revert xl; intro yl))
    | split

theorem execRxFlush_keeps (q : Req) (u : Fin 2) (s : State) {s0 : State} (h : Keeps s0 s) :
    ∀ z, execRxFlush q u s = .next z → Keeps s0 z := by
  unfold execRxFlush
  intro z e
  refine Keeps.of_next ?_ e
  repeat' first
    | with_reducible assumption
    | with_reducible apply writeWord_keeps
    | with_reducible apply uartFifoWrite_keeps
    | intro _

theorem execTxFlush_keeps (q : Req) (u : Fin 2) (s : State) {s0 : State} (h : Keeps s0 s) :
    ∀ z, execTxFlush q u s = .next z → Keeps s0 z := by
  unfold execTxFlush
  intro z e
  refine Keeps.of_next ?_ e
  repeat' first
    | with_reducible assumption
    | with_reducible apply writeWord_keeps
    | with_reducible apply uartFifoWrite_keeps
    | intro _

theorem uartEffect_keeps (u : Fin 2) (off : Nat) (a2 : Page) (a3 : Word) (a4 : State) {s0 : State} (h : Keeps s0 a4) :
    Keeps s0 (uartEffect u off a2 a3 a4) := by
  unfold uartEffect
  repeat' first
    | with_reducible assumption
    | with_reducible apply State.uartPressure_keeps
    | with_reducible apply applyWrite_keeps
    | with_reducible apply uartTxdWrite_keeps
    | with_reducible apply uartFifoWrite_keeps
    | split

theorem State.setCmdIn_keeps (s : State) (i : Fin 8) (x : CmdIn) {s0 : State} (h : Keeps s0 s) :
    Keeps s0 (State.setCmdIn s i x) := by
  unfold State.setCmdIn
  repeat' first
    | with_reducible assumption
    | (extract_lets +onlyGivenNames xl; first
        | (clear_value xl; revert xl; intro yl)
        | (revert xl; intro yl))
    | with_reducible apply Keeps.mk' rfl rfl rfl rfl rfl rfl rfl rfl rfl

theorem execCmdInSample_keeps (hi : Nat) (mid : Nat) (s : State) {s0 : State} (h : Keeps s0 s) :
    ∀ z, execCmdInSample hi mid s = .next z → Keeps s0 z := by
  unfold execCmdInSample
  intro z e
  refine Keeps.of_next ?_ e
  repeat' first
    | with_reducible assumption
    | with_reducible apply State.setCmdIn_keeps
    | intro _
    | split
    | with_reducible apply Keeps.foldl
    | with_reducible apply Keeps.foldl_snd2
    | with_reducible apply Keeps.foldl_snd
    | with_reducible apply Keeps.foldl_fst

theorem execCmdInDeactivate_keeps (i : Fin 8) (s : State) {s0 : State} (h : Keeps s0 s) :
    ∀ z, execCmdInDeactivate i s = .next z → Keeps s0 z := by
  unfold execCmdInDeactivate
  intro z e
  refine Keeps.of_next ?_ e
  repeat' first
    | with_reducible assumption
    | with_reducible apply State.event_keeps
    | with_reducible apply State.setCmdIn_keeps
    | (extract_lets +onlyGivenNames xl; first
        | (clear_value xl; revert xl; intro yl)
        | (revert xl; intro yl))
    | split

theorem State.lineActive_keeps (s : State) (i : Fin 8) {s0 : State} (h : Keeps s0 s) :
    Keeps s0 (State.lineActive s i) := by
  unfold State.lineActive
  repeat' first
    | with_reducible assumption
    | with_reducible apply State.wake_keeps
    | with_reducible apply State.event_keeps
    | with_reducible apply State.bump_keeps
    | with_reducible apply State.setCmdIn_keeps
    | (extract_lets +onlyGivenNames xl; first
        | (clear_value xl; revert xl; intro yl)
        | (revert xl; intro yl))

theorem State.outUpdate_keeps (s : State) {s0 : State} (h : Keeps s0 s) :
    Keeps s0 (State.outUpdate s) := by
  unfold State.outUpdate
  repeat' first
    | with_reducible assumption
    | with_reducible apply State.event_keeps
    | with_reducible apply State.bump_keeps
    | intro _
    | (extract_lets +onlyGivenNames xl; first
        | (refine (fun (hx : Keeps s0 xl) => ?_) ?_; rotate_left; unfold xl; clear xl; rotate_left; clear_value xl; revert xl; intro yl hy)
        | (clear_value xl; revert xl; intro yl)
        | (revert xl; intro yl))
    | split
    | with_reducible apply Keeps.foldl
    | with_reducible apply Keeps.foldl_snd2
    | with_reducible apply Keeps.foldl_snd
    | with_reducible apply Keeps.foldl_fst
    | with_reducible apply Keeps.mk' rfl rfl rfl rfl rfl rfl rfl rfl rfl

theorem State.outDetect_keeps (s : State) (i : Nat) {s0 : State} (h : Keeps s0 s) :
    Keeps s0 (State.outDetect s i) := by
  unfold State.outDetect
  repeat' first
    | with_reducible assumption
    | with_reducible apply State.outUpdate_keeps
    | (extract_lets +onlyGivenNames xl; first
        | (clear_value xl; revert xl; intro yl)
        | (revert xl; intro yl))
    | split
    | with_reducible apply Keeps.mk' rfl rfl rfl rfl rfl rfl rfl rfl rfl

theorem execCmdOutHoldExpire_keeps (i : Fin 8) (s : State) {s0 : State} (h : Keeps s0 s) :
    ∀ z, execCmdOutHoldExpire i s = .next z → Keeps s0 z := by
  unfold execCmdOutHoldExpire
  intro z e
  refine Keeps.of_next ?_ e
  repeat' first
    | with_reducible assumption
    | with_reducible apply State.outUpdate_keeps
    | (extract_lets +onlyGivenNames xl; first
        | (clear_value xl; revert xl; intro yl)
        | (revert xl; intro yl))
    | with_reducible apply Keeps.mk' rfl rfl rfl rfl rfl rfl rfl rfl rfl

theorem cmdioEffect_keeps (off : Nat) (p : Page) (w : Word) (s : State) {s0 : State} (h : Keeps s0 s) :
    Keeps s0 (cmdioEffect off p w s) := by
  unfold cmdioEffect
  repeat' first
    | with_reducible assumption
    | with_reducible apply State.outUpdate_keeps
    | with_reducible apply applyWrite_keeps

theorem State.cmdioRestart_keeps (s : State) {s0 : State} (h : Keeps s0 s) :
    Keeps s0 (State.cmdioRestart s) := by
  unfold State.cmdioRestart
  repeat' first
    | with_reducible assumption
    | with_reducible apply State.outUpdate_keeps
    | (extract_lets +onlyGivenNames xl; first
        | (clear_value xl; revert xl; intro yl)
        | (revert xl; intro yl))
    | with_reducible apply Keeps.mk' rfl rfl rfl rfl rfl rfl rfl rfl rfl

theorem pmxEffect_keeps (off : Nat) (a1 : Page) (a2 : Word) (a3 : State) {s0 : State} (h : Keeps s0 a3) :
    Keeps s0 (pmxEffect off a1 a2 a3) := by
  unfold pmxEffect
  repeat' first
    | with_reducible assumption
    | with_reducible apply pmxSelWrite_keeps
    | with_reducible apply applyWrite_keeps
    | split

theorem monEffect_keeps (m : Fin 8) (off : Nat) (a2 : Page) (a3 : Word) (a4 : State) {s0 : State} (h : Keeps s0 a4) :
    Keeps s0 (monEffect m off a2 a3 a4) := by
  unfold monEffect
  repeat' first
    | with_reducible assumption
    | with_reducible apply monCfgWrite_keeps
    | with_reducible apply monBankWrite_keeps
    | with_reducible apply monWmWrite_keeps
    | with_reducible apply monThCfgWrite_keeps
    | with_reducible apply monThEvtWrite_keeps
    | with_reducible apply monCoefWrite_keeps
    | with_reducible apply applyWrite_keeps
    | split

theorem hstEffect_keeps (off : Nat) (a1 : Page) (a2 : Word) (a3 : State) {s0 : State} (h : Keeps s0 a3) :
    Keeps s0 (hstEffect off a1 a2 a3) := by
  unfold hstEffect
  repeat' first
    | with_reducible assumption
    | with_reducible apply hstCfgWrite_keeps
    | with_reducible apply hstFilterWrite_keeps
    | with_reducible apply hstCmdWrite_keeps
    | with_reducible apply applyWrite_keeps
    | (extract_lets +onlyGivenNames xl; first
        | (clear_value xl; revert xl; intro yl)
        | (revert xl; intro yl))
    | split

theorem cntEffect_keeps (off : Nat) (a1 : Page) (a2 : Word) (a3 : State) {s0 : State} (h : Keeps s0 a3) :
    Keeps s0 (cntEffect off a1 a2 a3) := by
  unfold cntEffect
  repeat' first
    | with_reducible assumption
    | with_reducible apply cntCtrlWrite_keeps
    | with_reducible apply applyWrite_keeps
    | split

end Sys2Proof.Machine
end

