-- ==== Sys2Proof/Laws/Keeps/Ports.lean ====
section
/-! SUPPORT. That every operation of Ports keeps the relation of Laws/Keeps. -/

set_option Elab.async false

namespace Sys2Proof.Machine

theorem State.setPort_keeps (s : State) (p : Nat) (x : Port) {s0 : State} (h : Keeps s0 s) :
    Keeps s0 (State.setPort s p x) := by
  unfold State.setPort
  repeat' first
    | with_reducible assumption
    | (extract_lets +onlyGivenNames xl; first
        | (clear_value xl; revert xl; intro yl)
        | (revert xl; intro yl))
    | with_reducible apply Keeps.mk' rfl rfl rfl rfl rfl rfl rfl rfl rfl

theorem State.askSound_keeps (s : State) (c : Nat) {s0 : State} (h : Keeps s0 s) :
    Keeps s0 (State.askSound s c) := by
  unfold State.askSound
  repeat' first
    | with_reducible assumption
    | with_reducible apply State.setChan_keeps
    | (extract_lets +onlyGivenNames xl; first
        | (clear_value xl; revert xl; intro yl)
        | (revert xl; intro yl))

theorem State.staleLinks_keeps (s : State) (c : Nat) {s0 : State} (h : Keeps s0 s) :
    Keeps s0 (State.staleLinks s c) := by
  unfold State.staleLinks
  repeat' first
    | with_reducible assumption
    | intro _
    | split
    | with_reducible apply Keeps.mk' rfl rfl rfl rfl rfl rfl rfl rfl rfl

theorem State.dropTaps_keeps (s : State) (p : Nat) {s0 : State} (h : Keeps s0 s) :
    Keeps s0 (State.dropTaps s p) := by
  unfold State.dropTaps
  repeat' first
    | with_reducible assumption
    | with_reducible apply State.setChan_keeps
    | intro _
    | split
    | with_reducible apply Keeps.foldl
    | with_reducible apply Keeps.foldl_snd2
    | with_reducible apply Keeps.foldl_snd
    | with_reducible apply Keeps.foldl_fst
    | with_reducible apply Keeps.mk' rfl rfl rfl rfl rfl rfl rfl rfl rfl

theorem State.setInSvc_keeps (s : State) (p : Nat) (b : Bool) {s0 : State} (h : Keeps s0 s) :
    Keeps s0 (State.setInSvc s p b) := by
  unfold State.setInSvc
  repeat' first
    | with_reducible assumption
    | with_reducible apply State.event_keeps
    | with_reducible apply State.setPort_keeps
    | with_reducible apply State.askSound_keeps
    | with_reducible apply State.staleLinks_keeps
    | with_reducible apply State.dropTaps_keeps
    | intro _
    | (extract_lets +onlyGivenNames xl; first
        | (refine (fun (hx : Keeps s0 xl) => ?_) ?_; rotate_left; unfold xl; clear xl; rotate_left; clear_value xl; revert xl; intro yl hy)
        | (clear_value xl; revert xl; intro yl)
        | (revert xl; intro yl))
    | split
    | with_reducible apply Keeps.foldl
    | with_reducible apply Keeps.foldl_snd2
    | with_reducible apply Keeps.foldl_snd
    | with_reducible apply Keeps.foldl_fst
    | (refine Keeps.of_snd (by with_reducible assumption) ?_)
    | with_reducible apply Keeps.mk' rfl rfl rfl rfl rfl rfl rfl rfl rfl

theorem State.portsRemove_keeps (s : State) {s0 : State} (h : Keeps s0 s) :
    Keeps s0 (State.portsRemove s) := by
  unfold State.portsRemove
  repeat' first
    | with_reducible assumption
    | with_reducible apply State.setInSvc_keeps
    | intro _
    | split
    | with_reducible apply Keeps.foldl
    | with_reducible apply Keeps.foldl_snd2
    | with_reducible apply Keeps.foldl_snd
    | with_reducible apply Keeps.foldl_fst

theorem State.portsRejoin_keeps (s : State) {s0 : State} (h : Keeps s0 s) :
    Keeps s0 (State.portsRejoin s) := by
  unfold State.portsRejoin
  repeat' first
    | with_reducible assumption
    | with_reducible apply State.setInSvc_keeps
    | intro _
    | split
    | with_reducible apply Keeps.foldl
    | with_reducible apply Keeps.foldl_snd2
    | with_reducible apply Keeps.foldl_snd
    | with_reducible apply Keeps.foldl_fst
    | with_reducible apply Keeps.mk' rfl rfl rfl rfl rfl rfl rfl rfl rfl

theorem State.stopPort_keeps (s : State) (p : Nat) {s0 : State} (h : Keeps s0 s) :
    Keeps s0 (State.stopPort s p) := by
  unfold State.stopPort
  repeat' first
    | with_reducible assumption
    | with_reducible apply State.setFlag_keeps
    | with_reducible apply State.setPort_keeps
    | with_reducible apply State.dropTaps_keeps
    | intro _
    | (extract_lets +onlyGivenNames xl; first
        | (refine (fun (hx : Keeps s0 xl) => ?_) ?_; rotate_left; unfold xl; clear xl; rotate_left; clear_value xl; revert xl; intro yl hy)
        | (clear_value xl; revert xl; intro yl)
        | (revert xl; intro yl))
    | split
    | (refine Keeps.of_snd (by with_reducible assumption) ?_)
    | with_reducible apply Keeps.mk' rfl rfl rfl rfl rfl rfl rfl rfl rfl

theorem State.portBoundary_keeps (s : State) (p : Nat) {s0 : State} (h : Keeps s0 s) :
    Keeps s0 (State.portBoundary s p) := by
  unfold State.portBoundary
  repeat' first
    | with_reducible assumption
    | with_reducible apply State.setPort_keeps
    | with_reducible apply State.stopPort_keeps
    | intro _
    | split
    | with_reducible apply Keeps.mk' rfl rfl rfl rfl rfl rfl rfl rfl rfl

theorem State.portFault_keeps (s : State) (p : Nat) (bit : Nat) (count : Nat) (region : Nat) {s0 : State} (h : Keeps s0 s) :
    Keeps s0 (State.portFault s p bit count region) := by
  unfold State.portFault
  repeat' first
    | with_reducible assumption
    | with_reducible apply State.fault_keeps
    | with_reducible apply State.portsRemove_keeps
    | with_reducible apply State.stopPort_keeps
    | intro _
    | (extract_lets +onlyGivenNames xl; first
        | (refine (fun (hx : Keeps s0 xl) => ?_) ?_; rotate_left; unfold xl; clear xl; rotate_left; clear_value xl; revert xl; intro yl hy)
        | (clear_value xl; revert xl; intro yl)
        | (revert xl; intro yl))
    | split
    | (refine Keeps.of_snd (by with_reducible assumption) ?_)
    | with_reducible apply Keeps.mk' rfl rfl rfl rfl rfl rfl rfl rfl rfl

theorem vdrvWrite_keeps (p : Page) (w : Word) (s : State) {s0 : State} (h : Keeps s0 s) :
    Keeps s0 (vdrvWrite p w s) := by
  unfold vdrvWrite
  repeat' first
    | with_reducible assumption
    | with_reducible apply State.setFld_keeps
    | with_reducible apply State.setFlag_keeps
    | (extract_lets +onlyGivenNames xl; first
        | (refine (fun (hx : Keeps s0 xl) => ?_) ?_; rotate_left; unfold xl; clear xl; rotate_left; clear_value xl; revert xl; intro yl hy)
        | (clear_value xl; revert xl; intro yl)
        | (revert xl; intro yl))
    | split

theorem execVdrvSet_keeps (q : Req) (s : State) {s0 : State} (h : Keeps s0 s) :
    ∀ z, execVdrvSet q s = .next z → Keeps s0 z := by
  unfold execVdrvSet
  intro z e
  refine Keeps.of_next ?_ e
  repeat' first
    | with_reducible assumption
    | with_reducible apply writeWord_keeps
    | with_reducible apply vdrvWrite_keeps
    | intro _

theorem execVdrvSettled_keeps (meas : Nat) (s : State) {s0 : State} (h : Keeps s0 s) :
    ∀ z, execVdrvSettled meas s = .next z → Keeps s0 z := by
  unfold execVdrvSettled
  intro z e
  refine Keeps.of_next ?_ e
  repeat' first
    | with_reducible assumption
    | with_reducible apply State.event_keeps
    | with_reducible apply State.setFlag_keeps
    | with_reducible apply State.setFld_keeps
    | (extract_lets +onlyGivenNames xl; first
        | (refine (fun (hx : Keeps s0 xl) => ?_) ?_; rotate_left; unfold xl; clear xl; rotate_left; clear_value xl; revert xl; intro yl hy)
        | (clear_value xl; revert xl; intro yl)
        | (revert xl; intro yl))
    | split
    | with_reducible apply Keeps.mk' rfl rfl rfl rfl rfl rfl rfl rfl rfl

theorem execVdrvUv_keeps (meas : Nat) (s : State) {s0 : State} (h : Keeps s0 s) :
    ∀ z, execVdrvUv meas s = .next z → Keeps s0 z := by
  unfold execVdrvUv
  intro z e
  refine Keeps.of_next ?_ e
  repeat' first
    | with_reducible assumption
    | with_reducible apply State.setFlag_keeps
    | with_reducible apply State.setFld_keeps
    | with_reducible apply State.fault_keeps
    | intro _
    | (extract_lets +onlyGivenNames xl; first
        | (refine (fun (hx : Keeps s0 xl) => ?_) ?_; rotate_left; unfold xl; clear xl; rotate_left; clear_value xl; revert xl; intro yl hy)
        | (clear_value xl; revert xl; intro yl)
        | (revert xl; intro yl))
    | split
    | with_reducible apply Keeps.foldl
    | with_reducible apply Keeps.foldl_snd2
    | with_reducible apply Keeps.foldl_snd
    | with_reducible apply Keeps.foldl_fst
    | with_reducible apply Keeps.mk' rfl rfl rfl rfl rfl rfl rfl rfl rfl

theorem State.driversOff_keeps (s : State) {s0 : State} (h : Keeps s0 s) :
    Keeps s0 (State.driversOff s) := by
  unfold State.driversOff
  repeat' first
    | with_reducible assumption
    | with_reducible apply State.setFlag_keeps
    | (extract_lets +onlyGivenNames xl; first
        | (clear_value xl; revert xl; intro yl)
        | (revert xl; intro yl))
    | with_reducible apply Keeps.mk' rfl rfl rfl rfl rfl rfl rfl rfl rfl

theorem ledgerCapWrite_keeps (p : Page) (w : Word) (s : State) {s0 : State} (h : Keeps s0 s) :
    Keeps s0 (ledgerCapWrite p w s) := by
  unfold ledgerCapWrite
  repeat' first
    | with_reducible assumption
    | with_reducible apply State.setFld_keeps
    | with_reducible apply State.setFlag_keeps
    | intro _
    | (extract_lets +onlyGivenNames xl; first
        | (refine (fun (hx : Keeps s0 xl) => ?_) ?_; rotate_left; unfold xl; clear xl; rotate_left; clear_value xl; revert xl; intro yl hy)
        | (clear_value xl; revert xl; intro yl)
        | (revert xl; intro yl))
    | split
    | (refine Keeps.of_snd (by with_reducible assumption) ?_)
    | with_reducible apply Keeps.mk' rfl rfl rfl rfl rfl rfl rfl rfl rfl

theorem execLedgerCapWrite_keeps (q : Req) (s : State) {s0 : State} (h : Keeps s0 s) :
    ∀ z, execLedgerCapWrite q s = .next z → Keeps s0 z := by
  unfold execLedgerCapWrite
  intro z e
  refine Keeps.of_next ?_ e
  repeat' first
    | with_reducible assumption
    | with_reducible apply writeWord_keeps
    | with_reducible apply ledgerCapWrite_keeps
    | intro _

theorem execShareWrite_keeps (q : Req) (c : Fin 64) (s : State) {s0 : State} (h : Keeps s0 s) :
    ∀ z, execShareWrite q c s = .next z → Keeps s0 z := by
  unfold execShareWrite
  intro z e
  refine Keeps.of_next ?_ e
  repeat' first
    | with_reducible assumption
    | with_reducible apply writeWord_keeps
    | with_reducible apply applyWrite_keeps
    | intro _

theorem State.symbolGain_keeps (s : State) (c : Nat) (k : Nat) (loads : List PortLoad) {s0 : State} (h : Keeps s0 s) :
    Keeps s0 (State.symbolGain s c k loads) := by
  unfold State.symbolGain
  repeat' first
    | with_reducible assumption
    | with_reducible apply State.event_keeps
    | with_reducible apply State.setFld_keeps
    | with_reducible apply State.emit_keeps
    | with_reducible apply State.bump_keeps
    | intro _
    | (extract_lets +onlyGivenNames xl; first
        | (refine (fun (hx : Keeps s0 xl) => ?_) ?_; rotate_left; unfold xl; clear xl; rotate_left; clear_value xl; revert xl; intro yl hy)
        | (clear_value xl; revert xl; intro yl)
        | (revert xl; intro yl))
    | split
    | with_reducible apply Keeps.foldl
    | with_reducible apply Keeps.foldl_snd2
    | with_reducible apply Keeps.foldl_snd
    | with_reducible apply Keeps.foldl_fst
    | (refine Keeps.of_snd (by with_reducible assumption) ?_)
    | with_reducible apply Keeps.mk' rfl rfl rfl rfl rfl rfl rfl rfl rfl

theorem State.symbolCut_keeps (s : State) (p : Nat) {s0 : State} (h : Keeps s0 s) :
    Keeps s0 (State.symbolCut s p) := by
  unfold State.symbolCut
  repeat' first
    | with_reducible assumption
    | with_reducible apply State.setPort_keeps
    | (extract_lets +onlyGivenNames xl; first
        | (clear_value xl; revert xl; intro yl)
        | (revert xl; intro yl))
    | split

theorem State.setSlp_keeps (s : State) (x : Sleep) {s0 : State} (h : Keeps s0 s) :
    Keeps s0 (State.setSlp s x) := by
  unfold State.setSlp
  repeat' first
    | with_reducible assumption
    | with_reducible apply Keeps.mk' rfl rfl rfl rfl rfl rfl rfl rfl rfl

theorem State.addEnergy_keeps (s : State) (e : Nat) {s0 : State} (h : Keeps s0 s) :
    Keeps s0 (State.addEnergy s e) := by
  unfold State.addEnergy
  repeat' first
    | with_reducible assumption
    | with_reducible apply State.setSlp_keeps
    | with_reducible apply State.event_keeps
    | (extract_lets +onlyGivenNames xl; first
        | (refine (fun (hx : Keeps s0 xl) => ?_) ?_; rotate_left; unfold xl; clear xl; rotate_left; clear_value xl; revert xl; intro yl hy)
        | (clear_value xl; revert xl; intro yl)
        | (revert xl; intro yl))
    | split

theorem execDrvCurrentLimit_keeps (p : Fin 16) (s : State) {s0 : State} (h : Keeps s0 s) :
    ∀ z, execDrvCurrentLimit p s = .next z → Keeps s0 z := by
  unfold execDrvCurrentLimit
  intro z e
  refine Keeps.of_next ?_ e
  repeat' first
    | with_reducible assumption
    | with_reducible apply State.emit_keeps
    | with_reducible apply State.setPort_keeps
    | with_reducible apply State.portFault_keeps
    | intro _
    | (extract_lets +onlyGivenNames xl; first
        | (refine (fun (hx : Keeps s0 xl) => ?_) ?_; rotate_left; unfold xl; clear xl; rotate_left; clear_value xl; revert xl; intro yl hy)
        | (clear_value xl; revert xl; intro yl)
        | (revert xl; intro yl))
    | split
    | (refine Keeps.of_snd (by with_reducible assumption) ?_)
    | with_reducible apply Keeps.mk' rfl rfl rfl rfl rfl rfl rfl rfl rfl

theorem execPaTrip_keeps (p : Fin 12) (mv : Nat) (s : State) {s0 : State} (h : Keeps s0 s) :
    ∀ z, execPaTrip p mv s = .next z → Keeps s0 z := by
  unfold execPaTrip
  intro z e
  refine Keeps.of_next ?_ e
  repeat' first
    | with_reducible assumption
    | with_reducible apply State.emit_keeps
    | with_reducible apply State.bump_keeps
    | with_reducible apply State.setPort_keeps
    | with_reducible apply State.portFault_keeps
    | intro _
    | (extract_lets +onlyGivenNames xl; first
        | (refine (fun (hx : Keeps s0 xl) => ?_) ?_; rotate_left; unfold xl; clear xl; rotate_left; clear_value xl; revert xl; intro yl hy)
        | (clear_value xl; revert xl; intro yl)
        | (revert xl; intro yl))
    | split
    | (refine Keeps.of_snd (by with_reducible assumption) ?_)
    | with_reducible apply Keeps.mk' rfl rfl rfl rfl rfl rfl rfl rfl rfl

theorem execDrvThermal_keeps (p : Fin 16) (temp : Int) (u : State) {s0 : State} (h : Keeps s0 u) :
    ∀ z, execDrvThermal p temp u = .next z → Keeps s0 z := by
  unfold execDrvThermal
  intro z e
  refine Keeps.of_next ?_ e
  repeat' first
    | with_reducible assumption
    | with_reducible apply State.event_keeps
    | with_reducible apply State.setPort_keeps
    | with_reducible apply State.portFault_keeps
    | intro _
    | (extract_lets +onlyGivenNames xl; first
        | (refine (fun (hx : Keeps s0 xl) => ?_) ?_; rotate_left; unfold xl; clear xl; rotate_left; clear_value xl; revert xl; intro yl hy)
        | (clear_value xl; revert xl; intro yl)
        | (revert xl; intro yl))
    | split
    | (refine Keeps.of_snd (by with_reducible assumption) ?_)
    | with_reducible apply Keeps.mk' rfl rfl rfl rfl rfl rfl rfl rfl rfl

theorem State.impMeasure_keeps (s : State) (cfg : List Word) (x : ImpMeas) {s0 : State} (h : Keeps s0 s) :
    Keeps s0 (State.impMeasure s cfg x) := by
  unfold State.impMeasure
  repeat' first
    | with_reducible assumption
    | with_reducible apply State.event_keeps
    | with_reducible apply State.tmapPut_keeps
    | with_reducible apply State.setFld_keeps
    | with_reducible apply State.bump_keeps
    | with_reducible apply State.setPort_keeps
    | with_reducible apply State.portFault_keeps
    | intro _
    | (extract_lets +onlyGivenNames xl; first
        | (refine (fun (hx : Keeps s0 xl) => ?_) ?_; rotate_left; unfold xl; clear xl; rotate_left; clear_value xl; revert xl; intro yl hy)
        | (clear_value xl; revert xl; intro yl)
        | (revert xl; intro yl))
    | split
    | with_reducible apply Keeps.foldl
    | with_reducible apply Keeps.foldl_snd2
    | with_reducible apply Keeps.foldl_snd
    | with_reducible apply Keeps.foldl_fst
    | (refine Keeps.of_snd (by with_reducible assumption) ?_)
    | with_reducible apply Keeps.mk' rfl rfl rfl rfl rfl rfl rfl rfl rfl

theorem State.portSlotEnd_keeps (s : State) (x : PortSlot) {s0 : State} (h : Keeps s0 s) :
    Keeps s0 (State.portSlotEnd s x) := by
  unfold State.portSlotEnd
  repeat' first
    | with_reducible assumption
    | with_reducible apply State.event_keeps
    | with_reducible apply State.setFld_keeps
    | with_reducible apply State.bumpBy_keeps
    | with_reducible apply State.bump_keeps
    | with_reducible apply State.setPort_keeps
    | with_reducible apply State.portFault_keeps
    | intro _
    | (extract_lets +onlyGivenNames xl; first
        | (refine (fun (hx : Keeps s0 xl) => ?_) ?_; rotate_left; unfold xl; clear xl; rotate_left; clear_value xl; revert xl; intro yl hy)
        | (clear_value xl; revert xl; intro yl)
        | (revert xl; intro yl))
    | split
    | (refine Keeps.of_snd (by with_reducible assumption) ?_)
    | with_reducible apply Keeps.mk' rfl rfl rfl rfl rfl rfl rfl rfl rfl

theorem npEffect_keeps (off : Nat) (a1 : Page) (a2 : Word) (a3 : State) {s0 : State} (h : Keeps s0 a3) :
    Keeps s0 (npEffect off a1 a2 a3) := by
  unfold npEffect
  repeat' first
    | with_reducible assumption
    | with_reducible apply vdrvWrite_keeps
    | with_reducible apply ledgerCapWrite_keeps
    | with_reducible apply applyWrite_keeps
    | split

theorem wpEffect_keeps (off : Nat) (p : Page) (w : Word) (s : State) {s0 : State} (h : Keeps s0 s) :
    Keeps s0 (wpEffect off p w s) := by
  unfold wpEffect
  repeat' first
    | with_reducible assumption
    | with_reducible apply applyWrite_keeps
    | with_reducible apply State.staleLinks_keeps
    | intro _
    | (extract_lets +onlyGivenNames xl; first
        | (refine (fun (hx : Keeps s0 xl) => ?_) ?_; rotate_left; unfold xl; clear xl; rotate_left; clear_value xl; revert xl; intro yl hy))
    | split
    | with_reducible apply Keeps.foldl
    | with_reducible apply Keeps.foldl_snd2
    | with_reducible apply Keeps.foldl_snd
    | with_reducible apply Keeps.foldl_fst

end Sys2Proof.Machine
end

