-- ==== Sys2Proof/Laws/Keeps/Sounding.lean ====
section
/-! SUPPORT. That every operation of Sounding keeps the relation of Laws/Keeps. -/

set_option Elab.async false

namespace Sys2Proof.Machine

theorem State.setLink_keeps (s : State) (l : Link5) {s0 : State} (h : Keeps s0 s) :
    Keeps s0 (State.setLink s l) := by
  unfold State.setLink
  repeat' first
    | with_reducible assumption
    | intro _
    | (extract_lets +onlyGivenNames xl; first
        | (refine (fun (hx : Keeps s0 xl) => ?_) ?_; rotate_left; unfold xl; clear xl; rotate_left; clear_value xl; revert xl; intro yl hy)
        | (clear_value xl; revert xl; intro yl)
        | (revert xl; intro yl))
    | split
    | (refine Keeps.of_snd (by with_reducible assumption) ?_)
    | with_reducible apply Keeps.mk' rfl rfl rfl rfl rfl rfl rfl rfl rfl

theorem State.noiseIn_keeps (s : State) (c : Nat) (r : Nat) (port : Nat) (l : List (Nat × Nat)) {s0 : State} (h : Keeps s0 s) :
    Keeps s0 (State.noiseIn s c r port l) := by
  unfold State.noiseIn
  repeat' first
    | with_reducible assumption
    | with_reducible apply State.setChan_keeps
    | intro _
    | (extract_lets +onlyGivenNames xl; first
        | (refine (fun (hx : Keeps s0 xl) => ?_) ?_; rotate_left; unfold xl; clear xl; rotate_left; clear_value xl; revert xl; intro yl hy)
        | (clear_value xl; revert xl; intro yl)
        | (revert xl; intro yl))
    | split
    | (refine Keeps.of_snd (by with_reducible assumption) ?_)
    | with_reducible apply Keeps.mk' rfl rfl rfl rfl rfl rfl rfl rfl rfl

end Sys2Proof.Machine
end

