-- ==== Sys2Proof/Laws/Keeps/Adapt.lean ====
section
/-! SUPPORT. That every operation of Adapt keeps the relation of Laws/Keeps. -/

set_option Elab.async false

namespace Sys2Proof.Machine

theorem State.zeroTemplate_keeps (s : State) (i : Nat) {s0 : State} (h : Keeps s0 s) :
    Keeps s0 (State.zeroTemplate s i) := by
  refine h.setMem fun hm => ?_
  rw [Mem.wf_iff] at hm ⊢
  exact ⟨hm.1, hm.2.1, hm.2.2.1, storeKeep_wf (d := fun _ => 0) (fun a => !decide (templateBase i ≤ a ∧ a < templateBase (i + 1))) hm.2.2.2⟩

theorem State.assignTemplate_keeps (s : State) (port : Nat) {s0 : State} (h : Keeps s0 s) :
    Keeps s0 (State.assignTemplate s port).2 := by
  unfold State.assignTemplate
  repeat' first
    | with_reducible assumption
    | with_reducible apply State.freeNat_keeps
    | with_reducible apply State.zeroTemplate_keeps
    | (extract_lets +onlyGivenNames xl; first
        | (refine (fun (hx : Keeps s0 xl.2) => ?_) ?_; rotate_left; unfold xl; clear xl; rotate_left; clear_value xl; revert xl; intro yl hy)
        | (clear_value xl; revert xl; intro yl)
        | (revert xl; intro yl))
    | split
    | (refine Keeps.of_snd (by with_reducible assumption) ?_)

theorem State.binPut_keeps (s : State) (a : Nat) (i : Int) (q : Int) {s0 : State} (h : Keeps s0 s) :
    Keeps s0 (State.binPut s a i q) := by
  unfold State.binPut
  repeat' first
    | with_reducible assumption
    | with_reducible apply State.sbufPut_keeps

theorem State.learn_keeps (s : State) (n : Nat) (t : Template) (slot : Nat) (k : Int) (shift : Nat) (l : List (Nat × Int × Int)) {s0 : State} (h : Keeps s0 s) :
    Keeps s0 (State.learn s n t slot k shift l) := by
  unfold State.learn
  repeat' first
    | with_reducible assumption
    | with_reducible apply State.binPut_keeps
    | intro _
    | (extract_lets +onlyGivenNames xl; first
        | (clear_value xl; revert xl; intro yl)
        | (revert xl; intro yl))
    | with_reducible apply Keeps.foldl
    | with_reducible apply Keeps.foldl_snd2
    | with_reducible apply Keeps.foldl_snd
    | with_reducible apply Keeps.foldl_fst

theorem State.tplEvents_keeps (s : State) (c : Nat) (valid : Bool) (susp : Bool) {s0 : State} (h : Keeps s0 s) :
    Keeps s0 (State.tplEvents s c valid susp) := by
  unfold State.tplEvents
  repeat' first
    | with_reducible assumption
    | with_reducible apply State.event_keeps
    | (extract_lets +onlyGivenNames xl; first
        | (refine (fun (hx : Keeps s0 xl) => ?_) ?_; rotate_left; unfold xl; clear xl; rotate_left; clear_value xl; revert xl; intro yl hy))
    | split

theorem State.templatesFor_keeps (s : State) (c : Nat) (new : List Word) {s0 : State} (h : Keeps s0 s) :
    Keeps s0 (State.templatesFor s c new) := by
  unfold State.templatesFor
  repeat' first
    | with_reducible assumption
    | with_reducible apply State.assignTemplate_keeps
    | with_reducible apply State.setChan_keeps
    | intro _
    | (extract_lets +onlyGivenNames xl; first
        | (refine (fun (hx : Keeps s0 xl) => ?_) ?_; rotate_left; unfold xl; clear xl; rotate_left; clear_value xl; revert xl; intro yl hy)
        | (refine (fun (hx : Keeps s0 xl.2) => ?_) ?_; rotate_left; unfold xl; clear xl; rotate_left; clear_value xl; revert xl; intro yl hy)
        | (clear_value xl; revert xl; intro yl)
        | (revert xl; intro yl))
    | split
    | with_reducible apply Keeps.foldl
    | with_reducible apply Keeps.foldl_snd2
    | with_reducible apply Keeps.foldl_snd
    | with_reducible apply Keeps.foldl_fst
    | (refine Keeps.of_snd (by with_reducible assumption) ?_)
    | with_reducible apply Keeps.mk' rfl rfl rfl rfl rfl rfl rfl rfl rfl

theorem State.templatesNow_keeps (s : State) (c : Nat) (new : List Word) {s0 : State} (h : Keeps s0 s) :
    Keeps s0 (State.templatesNow s c new) := by
  unfold State.templatesNow
  repeat' first
    | with_reducible assumption
    | with_reducible apply State.zeroTemplate_keeps
    | with_reducible apply State.tplEvents_keeps
    | with_reducible apply State.templatesFor_keeps
    | with_reducible apply State.setChan_keeps
    | intro _
    | (extract_lets +onlyGivenNames xl; first
        | (refine (fun (hx : Keeps s0 xl) => ?_) ?_; rotate_left; unfold xl; clear xl; rotate_left; clear_value xl; revert xl; intro yl hy)
        | (clear_value xl; revert xl; intro yl)
        | (revert xl; intro yl))
    | split
    | with_reducible apply Keeps.foldl
    | with_reducible apply Keeps.foldl_snd2
    | with_reducible apply Keeps.foldl_snd
    | with_reducible apply Keeps.foldl_fst
    | (refine Keeps.of_snd (by with_reducible assumption) ?_)
    | with_reducible apply Keeps.mk' rfl rfl rfl rfl rfl rfl rfl rfl rfl

theorem State.setTemplate_keeps (s : State) (c : Nat) (t : Template) {s0 : State} (h : Keeps s0 s) :
    Keeps s0 (State.setTemplate s c t) := by
  unfold State.setTemplate
  repeat' first
    | with_reducible assumption
    | with_reducible apply State.setChan_keeps
    | (extract_lets +onlyGivenNames xl; first
        | (clear_value xl; revert xl; intro yl)
        | (revert xl; intro yl))
    | split

theorem State.scaleBins_keeps (s : State) (n : Nat) (slot : Nat) (k : Int) {s0 : State} (h : Keeps s0 s) :
    Keeps s0 (State.scaleBins s n slot k) := by
  unfold State.scaleBins
  repeat' first
    | with_reducible assumption
    | with_reducible apply State.binPut_keeps
    | intro _
    | (extract_lets +onlyGivenNames xl; first
        | (refine (fun (hx : Keeps s0 xl) => ?_) ?_; rotate_left; unfold xl; clear xl; rotate_left; clear_value xl; revert xl; intro yl hy)
        | (clear_value xl; revert xl; intro yl)
        | (revert xl; intro yl))
    | split
    | with_reducible apply Keeps.foldl
    | with_reducible apply Keeps.foldl_snd2
    | with_reducible apply Keeps.foldl_snd
    | with_reducible apply Keeps.foldl_fst
    | (refine Keeps.of_snd (by with_reducible assumption) ?_)
    | with_reducible apply Keeps.mk' rfl rfl rfl rfl rfl rfl rfl rfl rfl

theorem State.quietLearn_keeps (s : State) (slot : Nat) (x : Samples) {s0 : State} (h : Keeps s0 s) :
    Keeps s0 (State.quietLearn s slot x) := by
  unfold State.quietLearn
  repeat' first
    | with_reducible assumption
    | with_reducible apply State.learn_keeps
    | with_reducible apply State.tplEvents_keeps
    | with_reducible apply State.setTemplate_keeps
    | with_reducible apply State.scaleBins_keeps
    | intro _
    | (extract_lets +onlyGivenNames xl; first
        | (refine (fun (hx : Keeps s0 xl) => ?_) ?_; rotate_left; unfold xl; clear xl; rotate_left; clear_value xl; revert xl; intro yl hy)
        | (clear_value xl; revert xl; intro yl)
        | (revert xl; intro yl))
    | split
    | (refine Keeps.of_snd (by with_reducible assumption) ?_)
    | with_reducible apply Keeps.mk' rfl rfl rfl rfl rfl rfl rfl rfl rfl

theorem State.quietSkip_keeps (s : State) (c : Nat) {s0 : State} (h : Keeps s0 s) :
    Keeps s0 (State.quietSkip s c) := by
  unfold State.quietSkip
  repeat' first
    | with_reducible assumption
    | with_reducible apply State.setChan_keeps
    | (extract_lets +onlyGivenNames xl; first
        | (clear_value xl; revert xl; intro yl)
        | (revert xl; intro yl))
    | split

theorem State.ddLearn_keeps (s : State) (slot : Nat) (x : Samples) {s0 : State} (h : Keeps s0 s) :
    Keeps s0 (State.ddLearn s slot x) := by
  unfold State.ddLearn
  repeat' first
    | with_reducible assumption
    | with_reducible apply State.learn_keeps
    | with_reducible apply State.setTemplate_keeps
    | intro _
    | (extract_lets +onlyGivenNames xl; first
        | (refine (fun (hx : Keeps s0 xl) => ?_) ?_; rotate_left; unfold xl; clear xl; rotate_left; clear_value xl; revert xl; intro yl hy)
        | (clear_value xl; revert xl; intro yl)
        | (revert xl; intro yl))
    | split
    | (refine Keeps.of_snd (by with_reducible assumption) ?_)
    | with_reducible apply Keeps.mk' rfl rfl rfl rfl rfl rfl rfl rfl rfl

theorem State.scaleTemplates_keeps (s : State) (c : Nat) (n : Nat) (k : Int) {s0 : State} (h : Keeps s0 s) :
    Keeps s0 (State.scaleTemplates s c n k) := by
  unfold State.scaleTemplates
  repeat' first
    | with_reducible assumption
    | with_reducible apply State.scaleBins_keeps
    | intro _
    | split
    | with_reducible apply Keeps.foldl
    | with_reducible apply Keeps.foldl_snd2
    | with_reducible apply Keeps.foldl_snd
    | with_reducible apply Keeps.foldl_fst
    | with_reducible apply Keeps.mk' rfl rfl rfl rfl rfl rfl rfl rfl rfl

theorem State.allocate_keeps (s : State) (k : Nat) {s0 : State} (h : Keeps s0 s) :
    Keeps s0 (State.allocate s k).2 := by
  unfold State.allocate
  repeat' first
    | with_reducible assumption
    | with_reducible apply State.freeNat_keeps
    | (extract_lets +onlyGivenNames xl; first
        | (refine (fun (hx : Keeps s0 xl.2) => ?_) ?_; rotate_left; unfold xl; clear xl; rotate_left; clear_value xl; revert xl; intro yl hy)
        | (clear_value xl; revert xl; intro yl)
        | (revert xl; intro yl))
    | (refine Keeps.of_snd (by with_reducible assumption) ?_)

theorem State.writeRow_keeps (s : State) (a : Nat) (n : Nat) (lo : Nat) (row : List (Nat × Nat)) {s0 : State} (h : Keeps s0 s) :
    Keeps s0 (State.writeRow s a n lo row) := by
  unfold State.writeRow
  repeat' first
    | with_reducible assumption
    | with_reducible apply State.tmapPut_keeps
    | intro _
    | (extract_lets +onlyGivenNames xl; first
        | (clear_value xl; revert xl; intro yl)
        | (revert xl; intro yl))
    | split
    | with_reducible apply Keeps.foldl
    | with_reducible apply Keeps.foldl_snd2
    | with_reducible apply Keeps.foldl_snd
    | with_reducible apply Keeps.foldl_fst

theorem State.writeMap_keeps (s : State) (c : Nat) (n : Nat) (block : Nat) (p : Proposal) (adoptSf : Nat) {s0 : State} (h : Keeps s0 s) :
    Keeps s0 (State.writeMap s c n block p adoptSf) := by
  unfold State.writeMap
  repeat' first
    | with_reducible assumption
    | with_reducible apply State.writeRow_keeps
    | with_reducible apply State.tmapPut_keeps
    | with_reducible apply State.rowWords_keeps
    | intro _
    | (extract_lets +onlyGivenNames xl; first
        | (refine (fun (hx : Keeps s0 xl) => ?_) ?_; rotate_left; unfold xl; clear xl; rotate_left; clear_value xl; revert xl; intro yl hy)
        | (refine (fun (hx : Keeps s0 xl.2) => ?_) ?_; rotate_left; unfold xl; clear xl; rotate_left; clear_value xl; revert xl; intro yl hy)
        | (clear_value xl; revert xl; intro yl)
        | (revert xl; intro yl))
    | split
    | with_reducible apply Keeps.foldl
    | with_reducible apply Keeps.foldl_snd2
    | with_reducible apply Keeps.foldl_snd
    | with_reducible apply Keeps.foldl_fst
    | (refine Keeps.of_snd (by with_reducible assumption) ?_)
    | with_reducible apply Keeps.mk' rfl rfl rfl rfl rfl rfl rfl rfl rfl

theorem State.storeMap_keeps (s : State) (c : Nat) (n : Nat) (p : Proposal) (adoptSf : Nat) {s0 : State} (h : Keeps s0 s) :
    Keeps s0 (State.storeMap s c n p adoptSf).2 := by
  unfold State.storeMap
  repeat' first
    | with_reducible assumption
    | with_reducible apply State.allocate_keeps
    | with_reducible apply State.writeMap_keeps
    | intro _
    | (extract_lets +onlyGivenNames xl; first
        | (refine (fun (hx : Keeps s0 xl) => ?_) ?_; rotate_left; unfold xl; clear xl; rotate_left; clear_value xl; revert xl; intro yl hy)
        | (refine (fun (hx : Keeps s0 xl.2) => ?_) ?_; rotate_left; unfold xl; clear xl; rotate_left; clear_value xl; revert xl; intro yl hy)
        | (clear_value xl; revert xl; intro yl)
        | (revert xl; intro yl))
    | split
    | (refine Keeps.of_snd (by with_reducible assumption) ?_)
    | with_reducible apply Keeps.mk' rfl rfl rfl rfl rfl rfl rfl rfl rfl

theorem State.sendProposal_keeps (s : State) (c : Nat) (l : Link5) (x : Proposal × Nat) (m : MapRef) {s0 : State} (h : Keeps s0 s) :
    Keeps s0 (State.sendProposal s c l x m) := by
  unfold State.sendProposal
  repeat' first
    | with_reducible assumption
    | with_reducible apply State.propose_keeps
    | with_reducible apply State.emit_keeps
    | with_reducible apply State.bump_keeps
    | with_reducible apply State.setLink_keeps
    | intro _
    | split
    | with_reducible apply Keeps.mk' rfl rfl rfl rfl rfl rfl rfl rfl rfl

theorem State.tryPropose_keeps (s : State) (c : Nat) (peer : Nat) (n : Nat) (l : Link5) (x : Proposal × Nat) {s0 : State} (h : Keeps s0 s) :
    Keeps s0 (State.tryPropose s c peer n l x).2 := by
  unfold State.tryPropose
  repeat' first
    | with_reducible assumption
    | with_reducible apply State.storeMap_keeps
    | with_reducible apply State.sendProposal_keeps
    | intro _
    | split
    | (refine Keeps.of_snd (by with_reducible assumption) ?_)
    | with_reducible apply Keeps.mk' rfl rfl rfl rfl rfl rfl rfl rfl rfl

theorem State.propose_keeps (s : State) (c : Nat) (peer : Nat) {s0 : State} (h : Keeps s0 s) :
    Keeps s0 (State.propose s c peer) := by
  unfold State.propose
  repeat' first
    | with_reducible assumption
    | with_reducible apply State.tryPropose_keeps
    | with_reducible apply State.event_keeps
    | with_reducible apply State.setLink_keeps
    | intro _
    | (extract_lets +onlyGivenNames xl; first
        | (refine (fun (hx : Keeps s0 xl) => ?_) ?_; rotate_left; unfold xl; clear xl; rotate_left; clear_value xl; revert xl; intro yl hy)
        | (refine (fun (hx : Keeps s0 xl.2) => ?_) ?_; rotate_left; unfold xl; clear xl; rotate_left; clear_value xl; revert xl; intro yl hy)
        | (clear_value xl; revert xl; intro yl)
        | (revert xl; intro yl))
    | split
    | (refine Keeps.of_snd (by with_reducible assumption) ?_)
    | with_reducible apply Keeps.mk' rfl rfl rfl rfl rfl rfl rfl rfl rfl

theorem State.proposeStale_keeps (s : State) {s0 : State} (h : Keeps s0 s) :
    Keeps s0 (State.proposeStale s) := by
  unfold State.proposeStale
  repeat' first
    | with_reducible assumption
    | with_reducible apply State.propose_keeps
    | with_reducible apply State.setLink_keeps
    | intro _
    | (extract_lets +onlyGivenNames xl; first
        | (refine (fun (hx : Keeps s0 xl) => ?_) ?_; rotate_left; unfold xl; clear xl; rotate_left; clear_value xl; revert xl; intro yl hy)
        | (clear_value xl; revert xl; intro yl)
        | (revert xl; intro yl))
    | split
    | with_reducible apply Keeps.foldl
    | with_reducible apply Keeps.foldl_snd2
    | with_reducible apply Keeps.foldl_snd
    | with_reducible apply Keeps.foldl_fst
    | (refine Keeps.of_snd (by with_reducible assumption) ?_)
    | with_reducible apply Keeps.mk' rfl rfl rfl rfl rfl rfl rfl rfl rfl

theorem State.proposeLinks_keeps (s : State) (c : Nat) {s0 : State} (h : Keeps s0 s) :
    Keeps s0 (State.proposeLinks s c) := by
  unfold State.proposeLinks
  repeat' first
    | with_reducible assumption
    | with_reducible apply State.propose_keeps
    | intro _
    | split
    | with_reducible apply Keeps.foldl
    | with_reducible apply Keeps.foldl_snd2
    | with_reducible apply Keeps.foldl_snd
    | with_reducible apply Keeps.foldl_fst
    | with_reducible apply Keeps.mk' rfl rfl rfl rfl rfl rfl rfl rfl rfl

theorem State.dropToDefault_keeps (s : State) (l : Link5) {s0 : State} (h : Keeps s0 s) :
    Keeps s0 (State.dropToDefault s l) := by
  unfold State.dropToDefault
  repeat' first
    | with_reducible assumption
    | with_reducible apply State.askSound_keeps
    | with_reducible apply State.event_keeps
    | with_reducible apply State.setLink_keeps

theorem State.sendStatus_keeps (s : State) (c : Nat) (peer : Nat) (id : Nat) (boundary : Nat) (outcome : Nat) (reason : Nat) {s0 : State} (h : Keeps s0 s) :
    Keeps s0 (State.sendStatus s c peer id boundary outcome reason) := by
  unfold State.sendStatus
  repeat' first
    | with_reducible assumption
    | with_reducible apply State.emit_keeps
    | intro _
    | split
    | with_reducible apply Keeps.mk' rfl rfl rfl rfl rfl rfl rfl rfl rfl

theorem State.splitWith_keeps (s : State) (c : Nat) (peer : Nat) (cfg : List Word) (p : Proposal) {s0 : State} (h : Keeps s0 s) :
    Keeps s0 (State.splitWith s c peer cfg p) := by
  unfold State.splitWith
  repeat' first
    | with_reducible assumption
    | with_reducible apply State.propose_keeps
    | with_reducible apply State.setChan_keeps
    | intro _
    | split
    | with_reducible apply Keeps.mk' rfl rfl rfl rfl rfl rfl rfl rfl rfl

theorem execTmapProposalRx_keeps (c : Fin 64) (p : Proposal) (s : State) {s0 : State} (h : Keeps s0 s) :
    ∀ z, execTmapProposalRx c p s = .next z → Keeps s0 z := by
  unfold execTmapProposalRx
  intro z e
  refine Keeps.of_next ?_ e
  repeat' first
    | with_reducible assumption
    | with_reducible apply State.storeMap_keeps
    | with_reducible apply State.sendStatus_keeps
    | with_reducible apply State.splitWith_keeps
    | with_reducible apply State.setChan_keeps
    | with_reducible apply State.event_keeps
    | with_reducible apply State.setLink_keeps
    | intro _
    | (extract_lets +onlyGivenNames xl; first
        | (refine (fun (hx : Keeps s0 xl) => ?_) ?_; rotate_left; unfold xl; clear xl; rotate_left; clear_value xl; revert xl; intro yl hy)
        | (refine (fun (hx : Keeps s0 xl.2) => ?_) ?_; rotate_left; unfold xl; clear xl; rotate_left; clear_value xl; revert xl; intro yl hy)
        | (clear_value xl; revert xl; intro yl)
        | (revert xl; intro yl))
    | split
    | (refine Keeps.of_snd (by with_reducible assumption) ?_)
    | with_reducible apply Keeps.mk' rfl rfl rfl rfl rfl rfl rfl rfl rfl

theorem State.accepted5_keeps (s : State) (l : Link5) (m : MapRef) (b : Nat) {s0 : State} (h : Keeps s0 s) :
    Keeps s0 (State.accepted5 s l m b) := by
  unfold State.accepted5
  repeat' first
    | with_reducible assumption
    | with_reducible apply State.event_keeps
    | with_reducible apply State.tmapPut_keeps
    | with_reducible apply State.setLink_keeps
    | intro _
    | (extract_lets +onlyGivenNames xl; first
        | (refine (fun (hx : Keeps s0 xl) => ?_) ?_; rotate_left; unfold xl; clear xl; rotate_left; clear_value xl; revert xl; intro yl hy)
        | (clear_value xl; revert xl; intro yl)
        | (revert xl; intro yl))
    | split
    | (refine Keeps.of_snd (by with_reducible assumption) ?_)
    | with_reducible apply Keeps.mk' rfl rfl rfl rfl rfl rfl rfl rfl rfl

theorem execTmapStatusRx_keeps (c : Fin 64) (peer : Nat) (id : Nat) (boundary : Nat) (outcome : Nat) (s : State) {s0 : State} (h : Keeps s0 s) :
    ∀ z, execTmapStatusRx c peer id boundary outcome s = .next z → Keeps s0 z := by
  unfold execTmapStatusRx
  intro z e
  refine Keeps.of_next ?_ e
  repeat' first
    | with_reducible assumption
    | with_reducible apply State.dropToDefault_keeps
    | with_reducible apply State.accepted5_keeps
    | with_reducible apply State.event_keeps
    | with_reducible apply State.setLink_keeps
    | intro _
    | split
    | (refine Keeps.of_snd (by with_reducible assumption) ?_)
    | with_reducible apply Keeps.mk' rfl rfl rfl rfl rfl rfl rfl rfl rfl

theorem State.resendMap_keeps (s : State) (l : Link5) (m : MapRef) {s0 : State} (h : Keeps s0 s) :
    Keeps s0 (State.resendMap s l m) := by
  unfold State.resendMap
  repeat' first
    | with_reducible assumption
    | with_reducible apply State.propose_keeps
    | with_reducible apply State.tmapPut_keeps
    | with_reducible apply State.emit_keeps
    | with_reducible apply State.bump_keeps
    | with_reducible apply State.setLink_keeps
    | intro _
    | (extract_lets +onlyGivenNames xl; first
        | (refine (fun (hx : Keeps s0 xl) => ?_) ?_; rotate_left; unfold xl; clear xl; rotate_left; clear_value xl; revert xl; intro yl hy)
        | (clear_value xl; revert xl; intro yl)
        | (revert xl; intro yl))
    | split
    | (refine Keeps.of_snd (by with_reducible assumption) ?_)
    | with_reducible apply Keeps.mk' rfl rfl rfl rfl rfl rfl rfl rfl rfl

theorem State.mapsAtSuperframe_keeps (s : State) {s0 : State} (h : Keeps s0 s) :
    Keeps s0 (State.mapsAtSuperframe s) := by
  unfold State.mapsAtSuperframe
  repeat' first
    | with_reducible assumption
    | with_reducible apply State.resendMap_keeps
    | with_reducible apply State.event_keeps
    | with_reducible apply State.setLink_keeps
    | intro _
    | (extract_lets +onlyGivenNames xl; first
        | (refine (fun (hx : Keeps s0 xl) => ?_) ?_; rotate_left; unfold xl; clear xl; rotate_left; clear_value xl; revert xl; intro yl hy)
        | (clear_value xl; revert xl; intro yl)
        | (revert xl; intro yl))
    | split
    | with_reducible apply Keeps.foldl
    | with_reducible apply Keeps.foldl_snd2
    | with_reducible apply Keeps.foldl_snd
    | with_reducible apply Keeps.foldl_fst
    | (refine Keeps.of_snd (by with_reducible assumption) ?_)
    | with_reducible apply Keeps.mk' rfl rfl rfl rfl rfl rfl rfl rfl rfl

theorem State.ranging_keeps (s : State) (c : Nat) (x : Sounding) {s0 : State} (h : Keeps s0 s) :
    Keeps s0 (State.ranging s c x) := by
  unfold State.ranging
  repeat' first
    | with_reducible assumption
    | with_reducible apply State.setChan_keeps
    | with_reducible apply State.event_keeps
    | with_reducible apply State.bump_keeps
    | with_reducible apply State.setLink_keeps
    | intro _
    | (extract_lets +onlyGivenNames xl; first
        | (refine (fun (hx : Keeps s0 xl) => ?_) ?_; rotate_left; unfold xl; clear xl; rotate_left; clear_value xl; revert xl; intro yl hy)
        | (clear_value xl; revert xl; intro yl)
        | (revert xl; intro yl))
    | split
    | (refine Keeps.of_snd (by with_reducible assumption) ?_)
    | with_reducible apply Keeps.mk' rfl rfl rfl rfl rfl rfl rfl rfl rfl

theorem chProposeWrite_keeps (c : Nat) (p : Page) (w : Word) (s : State) {s0 : State} (h : Keeps s0 s) :
    Keeps s0 (chProposeWrite c p w s) := by
  unfold chProposeWrite
  repeat' first
    | with_reducible assumption
    | with_reducible apply State.propose_keeps
    | with_reducible apply State.askSound_keeps
    | intro _
    | (extract_lets +onlyGivenNames xl; first
        | (refine (fun (hx : Keeps s0 xl) => ?_) ?_; rotate_left; unfold xl; clear xl; rotate_left; clear_value xl; revert xl; intro yl hy)
        | (clear_value xl; revert xl; intro yl)
        | (revert xl; intro yl))
    | split
    | (refine Keeps.of_snd (by with_reducible assumption) ?_)
    | with_reducible apply Keeps.mk' rfl rfl rfl rfl rfl rfl rfl rfl rfl

theorem execProposeNow_keeps (q : Req) (c : Fin 64) (s : State) {s0 : State} (h : Keeps s0 s) :
    ∀ z, execProposeNow q c s = .next z → Keeps s0 z := by
  unfold execProposeNow
  intro z e
  refine Keeps.of_next ?_ e
  repeat' first
    | with_reducible assumption
    | with_reducible apply chProposeWrite_keeps
    | with_reducible apply writeWord_keeps
    | intro _
    | split
    | with_reducible apply Keeps.mk' rfl rfl rfl rfl rfl rfl rfl rfl rfl

theorem execSoundRequest_keeps (q : Req) (c : Fin 64) (s : State) {s0 : State} (h : Keeps s0 s) :
    ∀ z, execSoundRequest q c s = .next z → Keeps s0 z := by
  unfold execSoundRequest
  intro z e
  refine Keeps.of_next ?_ e
  repeat' first
    | with_reducible assumption
    | with_reducible apply chProposeWrite_keeps
    | with_reducible apply writeWord_keeps
    | intro _
    | split
    | with_reducible apply Keeps.mk' rfl rfl rfl rfl rfl rfl rfl rfl rfl

theorem linkSelWrite_keeps (c : Nat) (p : Page) (w : Word) (s : State) {s0 : State} (h : Keeps s0 s) :
    Keeps s0 (linkSelWrite c p w s) := by
  unfold linkSelWrite
  repeat' first
    | with_reducible assumption
    | with_reducible apply State.setChan_keeps
    | with_reducible apply applyWrite_keeps
    | with_reducible apply State.setReg_keeps
    | intro _
    | (extract_lets +onlyGivenNames xl; first
        | (refine (fun (hx : Keeps s0 xl) => ?_) ?_; rotate_left; unfold xl; clear xl; rotate_left; clear_value xl; revert xl; intro yl hy)
        | (clear_value xl; revert xl; intro yl)
        | (revert xl; intro yl))
    | split
    | with_reducible apply Keeps.foldl
    | with_reducible apply Keeps.foldl_snd2
    | with_reducible apply Keeps.foldl_snd
    | with_reducible apply Keeps.foldl_fst
    | (refine Keeps.of_snd (by with_reducible assumption) ?_)
    | with_reducible apply Keeps.mk' rfl rfl rfl rfl rfl rfl rfl rfl rfl

theorem execLinkSelect_keeps (q : Req) (c : Fin 64) (s : State) {s0 : State} (h : Keeps s0 s) :
    ∀ z, execLinkSelect q c s = .next z → Keeps s0 z := by
  unfold execLinkSelect
  intro z e
  refine Keeps.of_next ?_ e
  repeat' first
    | with_reducible assumption
    | with_reducible apply writeWord_keeps
    | with_reducible apply linkSelWrite_keeps
    | intro _

theorem tmapOvfWrite_keeps (p : Page) (w : Word) (s : State) {s0 : State} (h : Keeps s0 s) :
    Keeps s0 (tmapOvfWrite p w s) := by
  unfold tmapOvfWrite
  repeat' first
    | with_reducible assumption
    | with_reducible apply applyWrite_keeps
    | with_reducible apply State.setFld_keeps
    | (extract_lets +onlyGivenNames xl; first
        | (refine (fun (hx : Keeps s0 xl) => ?_) ?_; rotate_left; unfold xl; clear xl; rotate_left; clear_value xl; revert xl; intro yl hy))
    | split

end Sys2Proof.Machine
end

