-- ==== Sys2Proof/Laws/Keeps/Slots.lean ====
section
/-! SUPPORT. That every operation of Slots keeps the relation of Laws/Keeps. -/

set_option Elab.async false

namespace Sys2Proof.Machine

theorem State.takeL4_keeps (s : State) {s0 : State} (h : Keeps s0 s) :
    Keeps s0 (State.takeL4 s) := by
  unfold State.takeL4
  repeat' first
    | with_reducible assumption
    | intro _
    | split
    | with_reducible apply Keeps.mk' rfl rfl rfl rfl rfl rfl rfl rfl rfl

theorem State.mapFrames_keeps (s : State) (g : Frame → Frame) {s0 : State} (h : Keeps s0 s) :
    Keeps s0 (State.mapFrames s g) := by
  unfold State.mapFrames
  repeat' first
    | with_reducible assumption
    | intro _
    | split
    | with_reducible apply Keeps.mk' rfl rfl rfl rfl rfl rfl rfl rfl rfl

end Sys2Proof.Machine
end

