-- ==== Sys2Proof/Laws/Keeps/Symbols.lean ====
section
/-! SUPPORT. That every operation of Symbols keeps the relation of Laws/Keeps. -/

set_option Elab.async false

namespace Sys2Proof.Machine

theorem State.sendSymbol_keeps (s : State) (c : Nat) (cfg : List Word) (x : Tx) (k : Nat) {s0 : State} (h : Keeps s0 s) :
    Keeps s0 (State.sendSymbol s c cfg x k) := by
  unfold State.sendSymbol
  repeat' first
    | with_reducible assumption
    | with_reducible apply State.emit_keeps
    | intro _
    | (extract_lets +onlyGivenNames xl; first
        | (refine (fun (hx : Keeps s0 xl) => ?_) ?_; rotate_left; unfold xl; clear xl; rotate_left; clear_value xl; revert xl; intro yl hy)
        | (clear_value xl; revert xl; intro yl)
        | (revert xl; intro yl))
    | split
    | (refine Keeps.of_snd (by with_reducible assumption) ?_)
    | with_reducible apply Keeps.mk' rfl rfl rfl rfl rfl rfl rfl rfl rfl

theorem State.sendSeam_keeps (s : State) (c : Nat) (cfg : List Word) (x : Tx) (k : Nat) {s0 : State} (h : Keeps s0 s) :
    Keeps s0 (State.sendSeam s c cfg x k) := by
  unfold State.sendSeam
  repeat' first
    | with_reducible assumption
    | with_reducible apply State.emit_keeps
    | intro _
    | (extract_lets +onlyGivenNames xl; first
        | (refine (fun (hx : Keeps s0 xl) => ?_) ?_; rotate_left; unfold xl; clear xl; rotate_left; clear_value xl; revert xl; intro yl hy)
        | (clear_value xl; revert xl; intro yl)
        | (revert xl; intro yl))
    | split
    | (refine Keeps.of_snd (by with_reducible assumption) ?_)
    | with_reducible apply Keeps.mk' rfl rfl rfl rfl rfl rfl rfl rfl rfl

end Sys2Proof.Machine
end

