-- ==== Sys2Proof/Laws/Keeps/Sensing.lean ====
section
/-! SUPPORT. That every operation of Sensing keeps the relation of Laws/Keeps. -/

set_option Elab.async false

namespace Sys2Proof.Machine

theorem State.adaptTaps_keeps (s : State) (c : Nat) (x : RxPort) {s0 : State} (h : Keeps s0 s) :
    Keeps s0 (State.adaptTaps s c x) := by
  unfold State.adaptTaps
  repeat' first
    | with_reducible assumption
    | with_reducible apply State.setChan_keeps
    | with_reducible apply State.take_keeps
    | intro _
    | (extract_lets +onlyGivenNames xl; first
        | (refine (fun (hx : Keeps s0 xl) => ?_) ?_; rotate_left; unfold xl; clear xl; rotate_left; clear_value xl; revert xl; intro yl hy)
        | (refine (fun (hx : Keeps s0 xl.2) => ?_) ?_; rotate_left; unfold xl; clear xl; rotate_left; clear_value xl; revert xl; intro yl hy)
        | (clear_value xl; revert xl; intro yl)
        | (revert xl; intro yl))
    | split
    | (refine Keeps.of_snd (by with_reducible assumption) ?_)
    | with_reducible apply Keeps.mk' rfl rfl rfl rfl rfl rfl rfl rfl rfl

theorem State.blank_keeps (s : State) (c : Nat) (p : Nat) (cfg : List Word) (l : List (Nat × Int × Int)) {s0 : State} (h : Keeps s0 s) :
    Keeps s0 (State.blank s c p cfg l).2.2 := by
  unfold State.blank
  repeat' first
    | with_reducible assumption
    | with_reducible apply State.setChan_keeps
    | with_reducible apply State.take_keeps
    | intro _
    | (extract_lets +onlyGivenNames xl; first
        | (refine (fun (hx : Keeps s0 xl) => ?_) ?_; rotate_left; unfold xl; clear xl; rotate_left; clear_value xl; revert xl; intro yl hy)
        | (refine (fun (hx : Keeps s0 xl.2) => ?_) ?_; rotate_left; unfold xl; clear xl; rotate_left; clear_value xl; revert xl; intro yl hy)
        | (clear_value xl; revert xl; intro yl)
        | (revert xl; intro yl))
    | split
    | (refine Keeps.of_snd (by with_reducible assumption) ?_)
    | with_reducible apply Keeps.mk' rfl rfl rfl rfl rfl rfl rfl rfl rfl

theorem State.senseSymbol_keeps (s : State) (c : Nat) (cfg : List Word) (r : RxFrame) (x : RxPort) {s0 : State} (h : Keeps s0 s) :
    Keeps s0 (State.senseSymbol s c cfg r x).2.2.2 := by
  unfold State.senseSymbol
  extract_lets n cp y0 b s1 len y useful lost e nFc from_ r1
  have hb : Keeps s0 b.2.2 := State.blank_keeps _ _ _ _ _ h
  have h1 : Keeps s0 s1 := State.adaptTaps_keeps _ _ _ hb
  clear_value s1 lost useful y len r1 nFc
  split
  · exact h1
  · split
    · extract_lets _ _ _
      split <;> exact h1
    · exact h1

theorem State.blankSymbol_keeps (s : State) (c : Nat) (cfg : List Word) (lost : Nat) {s0 : State} (h : Keeps s0 s) :
    Keeps s0 (State.blankSymbol s c cfg lost) := by
  unfold State.blankSymbol
  repeat' first
    | with_reducible assumption
    | with_reducible apply State.bump_keeps
    | intro _
    | (extract_lets +onlyGivenNames xl; first
        | (refine (fun (hx : Keeps s0 xl) => ?_) ?_; rotate_left; unfold xl; clear xl; rotate_left; clear_value xl; revert xl; intro yl hy)
        | (clear_value xl; revert xl; intro yl)
        | (revert xl; intro yl))
    | split
    | (refine Keeps.of_snd (by with_reducible assumption) ?_)
    | with_reducible apply Keeps.mk' rfl rfl rfl rfl rfl rfl rfl rfl rfl

theorem State.keepSound_keeps (s : State) (c : Nat) (cfg : List Word) (r : RxFrame) (port : Nat) (l : List (Nat × Int × Int)) {s0 : State} (h : Keeps s0 s) :
    Keeps s0 (State.keepSound s c cfg r port l) := by
  unfold State.keepSound
  repeat' first
    | with_reducible assumption
    | with_reducible apply State.setChan_keeps
    | intro _
    | (extract_lets +onlyGivenNames xl; first
        | (refine (fun (hx : Keeps s0 xl) => ?_) ?_; rotate_left; unfold xl; clear xl; rotate_left; clear_value xl; revert xl; intro yl hy)
        | (clear_value xl; revert xl; intro yl)
        | (revert xl; intro yl))
    | split
    | (refine Keeps.of_snd (by with_reducible assumption) ?_)
    | with_reducible apply Keeps.mk' rfl rfl rfl rfl rfl rfl rfl rfl rfl

theorem State.rxPort_keeps (s : State) (c : Nat) (cfg : List Word) (r : RxFrame) (x : RxPort) {s0 : State} (h : Keeps s0 s) :
    Keeps s0 (State.rxPort s c cfg r x).2.2 := by
  unfold State.rxPort
  repeat' first
    | with_reducible assumption
    | with_reducible apply State.setFlag_keeps
    | with_reducible apply State.senseSymbol_keeps
    | with_reducible apply State.keepSound_keeps
    | intro _
    | (extract_lets +onlyGivenNames xl; first
        | (refine (fun (hx : Keeps s0 xl) => ?_) ?_; rotate_left; unfold xl; clear xl; rotate_left; clear_value xl; revert xl; intro yl hy)
        | (refine (fun (hx : Keeps s0 xl.2) => ?_) ?_; rotate_left; unfold xl; clear xl; rotate_left; clear_value xl; revert xl; intro yl hy)
        | (clear_value xl; revert xl; intro yl)
        | (revert xl; intro yl))
    | split
    | (refine Keeps.of_snd (by with_reducible assumption) ?_)
    | with_reducible apply Keeps.mk' rfl rfl rfl rfl rfl rfl rfl rfl rfl

theorem State.rxSymbol_keeps (s : State) (c : Nat) (cfg : List Word) (r : RxFrame) (rx : List RxPort) {s0 : State} (h : Keeps s0 s) :
    Keeps s0 (State.rxSymbol s c cfg r rx) := by
  unfold State.rxSymbol
  extract_lets a n soft s1
  have ha : Keeps s0 a.2.2 := Keeps.foldl_snd2 h fun _ _ ht => State.rxPort_keeps _ _ _ _ _ ht
  clear_value a
  have h1 : Keeps s0 s1 := by
    unfold s1
    split
    · exact State.blankSymbol_keeps _ _ _ _ ha
    · exact ha
  exact State.setChan_keeps _ _ _ h1

theorem State.ddEstimate_keeps (s : State) (c : Nat) (slot : Nat) (f : Fc) (cells : List CellObs) {s0 : State} (h : Keeps s0 s) :
    Keeps s0 (State.ddEstimate s c slot f cells) := by
  unfold State.ddEstimate
  repeat' first
    | with_reducible assumption
    | with_reducible apply State.setChan_keeps
    | intro _
    | split
    | (refine Keeps.of_snd (by with_reducible assumption) ?_)
    | with_reducible apply Keeps.mk' rfl rfl rfl rfl rfl rfl rfl rfl rfl

theorem State.noiseFrom_keeps (s : State) (slot : Nat) (x : Samples) {s0 : State} (h : Keeps s0 s) :
    Keeps s0 (State.noiseFrom s slot x) := by
  unfold State.noiseFrom
  repeat' first
    | with_reducible assumption
    | with_reducible apply State.take_keeps
    | with_reducible apply State.noiseIn_keeps
    | intro _
    | (extract_lets +onlyGivenNames xl; first
        | (refine (fun (hx : Keeps s0 xl) => ?_) ?_; rotate_left; unfold xl; clear xl; rotate_left; clear_value xl; revert xl; intro yl hy)
        | (refine (fun (hx : Keeps s0 xl.2) => ?_) ?_; rotate_left; unfold xl; clear xl; rotate_left; clear_value xl; revert xl; intro yl hy)
        | (clear_value xl; revert xl; intro yl)
        | (revert xl; intro yl))
    | split
    | with_reducible apply Keeps.foldl
    | with_reducible apply Keeps.foldl_snd2
    | with_reducible apply Keeps.foldl_snd
    | with_reducible apply Keeps.foldl_fst
    | (refine Keeps.of_snd (by with_reducible assumption) ?_)
    | with_reducible apply Keeps.mk' rfl rfl rfl rfl rfl rfl rfl rfl rfl

theorem execSoundingRx_keeps (c : Fin 64) (x : Sounding) (s : State) {s0 : State} (h : Keeps s0 s) :
    ∀ z, execSoundingRx c x s = .next z → Keeps s0 z := by
  unfold execSoundingRx
  intro z e
  refine Keeps.of_next ?_ e
  repeat' first
    | with_reducible assumption
    | with_reducible apply State.propose_keeps
    | with_reducible apply State.ranging_keeps
    | with_reducible apply State.setChan_keeps
    | with_reducible apply State.setLink_keeps
    | intro _
    | (extract_lets +onlyGivenNames xl; first
        | (refine (fun (hx : Keeps s0 xl) => ?_) ?_; rotate_left; unfold xl; clear xl; rotate_left; clear_value xl; revert xl; intro yl hy)
        | (clear_value xl; revert xl; intro yl)
        | (revert xl; intro yl))
    | split
    | (refine Keeps.of_snd (by with_reducible assumption) ?_)
    | with_reducible apply Keeps.mk' rfl rfl rfl rfl rfl rfl rfl rfl rfl

end Sys2Proof.Machine
end

