-- ==== Sys2Proof/Laws/Keeps/Spindle.lean ====
section
/-! SUPPORT. That every operation of Spindle keeps the relation of Laws/Keeps. -/

set_option Elab.async false

namespace Sys2Proof.Machine

theorem State.setStn_keeps (s : State) (k : Nat) (x : Stn) {s0 : State} (h : Keeps s0 s) :
    Keeps s0 (State.setStn s k x) := by
  unfold State.setStn
  repeat' first
    | with_reducible assumption
    | (extract_lets +onlyGivenNames xl; first
        | (clear_value xl; revert xl; intro yl)
        | (revert xl; intro yl))
    | with_reducible apply Keeps.mk' rfl rfl rfl rfl rfl rfl rfl rfl rfl

theorem State.setJobs_keeps (s : State) (l : List Job) {s0 : State} (h : Keeps s0 s) :
    Keeps s0 (State.setJobs s l) := by
  unfold State.setJobs
  repeat' first
    | with_reducible assumption
    | (extract_lets +onlyGivenNames xl; first
        | (clear_value xl; revert xl; intro yl)
        | (revert xl; intro yl))
    | with_reducible apply Keeps.mk' rfl rfl rfl rfl rfl rfl rfl rfl rfl

theorem State.addJob_keeps (s : State) (j : Job) {s0 : State} (h : Keeps s0 s) :
    Keeps s0 (State.addJob s j) := by
  unfold State.addJob
  repeat' first
    | with_reducible assumption
    | (extract_lets +onlyGivenNames xl; first
        | (clear_value xl; revert xl; intro yl)
        | (revert xl; intro yl))
    | with_reducible apply Keeps.mk' rfl rfl rfl rfl rfl rfl rfl rfl rfl

theorem State.keepJobs_keeps (s : State) (f : Job → Bool) {s0 : State} (h : Keeps s0 s) :
    Keeps s0 (State.keepJobs s f) := by
  unfold State.keepJobs
  repeat' first
    | with_reducible assumption
    | with_reducible apply State.setJobs_keeps

theorem State.setService_keeps (s : State) (k : Nat) (lg : Nat) (b : Bool) {s0 : State} (h : Keeps s0 s) :
    Keeps s0 (State.setService s k lg b) := by
  unfold State.setService
  repeat' first
    | with_reducible assumption
    | with_reducible apply State.setRegBit_keeps

theorem State.startJob_keeps (s : State) (k : Nat) (lg : Nat) (j : Job) {s0 : State} (h : Keeps s0 s) :
    Keeps s0 (State.startJob s k lg j) := by
  unfold State.startJob
  repeat' first
    | with_reducible assumption
    | with_reducible apply State.histSample_keeps
    | with_reducible apply State.bump_keeps
    | with_reducible apply State.setStn_keeps
    | with_reducible apply State.setJobs_keeps
    | intro _
    | (extract_lets +onlyGivenNames xl; first
        | (refine (fun (hx : Keeps s0 xl) => ?_) ?_; rotate_left; unfold xl; clear xl; rotate_left; clear_value xl; revert xl; intro yl hy)
        | (clear_value xl; revert xl; intro yl)
        | (revert xl; intro yl))
    | split
    | (refine Keeps.of_snd (by with_reducible assumption) ?_)
    | with_reducible apply Keeps.mk' rfl rfl rfl rfl rfl rfl rfl rfl rfl

theorem State.startJobs_keeps (s : State) (k : Nat) {s0 : State} (h : Keeps s0 s) :
    Keeps s0 (State.startJobs s k) := by
  unfold State.startJobs
  repeat' first
    | with_reducible assumption
    | with_reducible apply State.startJob_keeps
    | intro _
    | split
    | with_reducible apply Keeps.foldl
    | with_reducible apply Keeps.foldl_snd2
    | with_reducible apply Keeps.foldl_snd
    | with_reducible apply Keeps.foldl_fst
    | (refine Keeps.of_snd (by with_reducible assumption) ?_)
    | with_reducible apply Keeps.mk' rfl rfl rfl rfl rfl rfl rfl rfl rfl

theorem State.setSpare_keeps (s : State) (k : Nat) (lg : Option Nat) {s0 : State} (h : Keeps s0 s) :
    Keeps s0 (State.setSpare s k lg) := by
  unfold State.setSpare
  repeat' first
    | with_reducible assumption
    | with_reducible apply State.setStatus_keeps
    | with_reducible apply State.setFlag_keeps
    | with_reducible apply State.setFld_keeps
    | (extract_lets +onlyGivenNames xl; first
        | (clear_value xl; revert xl; intro yl)
        | (revert xl; intro yl))
    | split

theorem State.nextSpare_keeps (s : State) (k : Nat) {s0 : State} (h : Keeps s0 s) :
    Keeps s0 (State.nextSpare s k) := by
  unfold State.nextSpare
  repeat' first
    | with_reducible assumption
    | with_reducible apply State.reserve_keeps
    | with_reducible apply State.setStn_keeps
    | with_reducible apply State.setSpare_keeps
    | intro _
    | (extract_lets +onlyGivenNames xl; first
        | (refine (fun (hx : Keeps s0 xl) => ?_) ?_; rotate_left; unfold xl; clear xl; rotate_left; clear_value xl; revert xl; intro yl hy)
        | (clear_value xl; revert xl; intro yl)
        | (revert xl; intro yl))
    | split
    | (refine Keeps.of_snd (by with_reducible assumption) ?_)
    | with_reducible apply Keeps.mk' rfl rfl rfl rfl rfl rfl rfl rfl rfl

theorem State.loseSpare_keeps (s : State) (k : Nat) {s0 : State} (h : Keeps s0 s) :
    Keeps s0 (State.loseSpare s k) := by
  unfold State.loseSpare
  repeat' first
    | with_reducible assumption
    | with_reducible apply State.event_keeps
    | with_reducible apply State.nextSpare_keeps
    | intro _
    | (extract_lets +onlyGivenNames xl; first
        | (refine (fun (hx : Keeps s0 xl) => ?_) ?_; rotate_left; unfold xl; clear xl; rotate_left; clear_value xl; revert xl; intro yl hy)
        | (clear_value xl; revert xl; intro yl)
        | (revert xl; intro yl))
    | split
    | (refine Keeps.of_snd (by with_reducible assumption) ?_)
    | with_reducible apply Keeps.mk' rfl rfl rfl rfl rfl rfl rfl rfl rfl

theorem State.retireLg_keeps (s : State) (k : Nat) (lg : Nat) {s0 : State} (h : Keeps s0 s) :
    Keeps s0 (State.retireLg s k lg) := by
  unfold State.retireLg
  repeat' first
    | with_reducible assumption
    | with_reducible apply State.event_keeps
    | with_reducible apply State.fault_keeps
    | with_reducible apply State.setRegBit_keeps
    | with_reducible apply State.setService_keeps
    | with_reducible apply State.loseSpare_keeps
    | with_reducible apply State.bump_keeps
    | with_reducible apply State.setStn_keeps
    | (extract_lets +onlyGivenNames xl; first
        | (refine (fun (hx : Keeps s0 xl) => ?_) ?_; rotate_left; unfold xl; clear xl; rotate_left; clear_value xl; revert xl; intro yl hy)
        | (clear_value xl; revert xl; intro yl)
        | (revert xl; intro yl))
    | split

theorem State.beginTest_keeps (s : State) (k : Nat) {s0 : State} (h : Keeps s0 s) :
    Keeps s0 (State.beginTest s k) := by
  unfold State.beginTest
  repeat' first
    | with_reducible assumption
    | with_reducible apply State.setFld_keeps
    | with_reducible apply State.setFlag_keeps
    | with_reducible apply State.setStatus_keeps
    | with_reducible apply State.bump_keeps
    | with_reducible apply State.setStn_keeps
    | with_reducible apply State.setService_keeps
    | with_reducible apply State.nextSpare_keeps
    | intro _
    | (extract_lets +onlyGivenNames xl; first
        | (refine (fun (hx : Keeps s0 xl) => ?_) ?_; rotate_left; unfold xl; clear xl; rotate_left; clear_value xl; revert xl; intro yl hy)
        | (clear_value xl; revert xl; intro yl)
        | (revert xl; intro yl))
    | split
    | (refine Keeps.of_snd (by with_reducible assumption) ?_)
    | with_reducible apply Keeps.mk' rfl rfl rfl rfl rfl rfl rfl rfl rfl

theorem execLgTestPeriod_keeps (k : Fin 6) (s : State) {s0 : State} (h : Keeps s0 s) :
    ∀ z, execLgTestPeriod k s = .next z → Keeps s0 z := by
  unfold execLgTestPeriod
  intro z e
  refine Keeps.of_next ?_ e
  repeat' first
    | with_reducible assumption
    | with_reducible apply State.beginTest_keeps
    | with_reducible apply State.setStn_keeps
    | (extract_lets +onlyGivenNames xl; first
        | (clear_value xl; revert xl; intro yl)
        | (revert xl; intro yl))
    | split

theorem stnTestWrite_keeps (k : Nat) (p : Page) (w : Word) (s : State) {s0 : State} (h : Keeps s0 s) :
    Keeps s0 (stnTestWrite k p w s) := by
  unfold stnTestWrite
  repeat' first
    | with_reducible assumption
    | with_reducible apply applyWrite_keeps
    | with_reducible apply State.beginTest_keeps
    | with_reducible apply State.setStn_keeps
    | (extract_lets +onlyGivenNames xl; first
        | (refine (fun (hx : Keeps s0 xl) => ?_) ?_; rotate_left; unfold xl; clear xl; rotate_left; clear_value xl; revert xl; intro yl hy)
        | (clear_value xl; revert xl; intro yl)
        | (revert xl; intro yl))
    | split

theorem execLgTestStart_keeps (q : Req) (k : Fin 6) (s : State) {s0 : State} (h : Keeps s0 s) :
    ∀ z, execLgTestStart q k s = .next z → Keeps s0 z := by
  unfold execLgTestStart
  intro z e
  refine Keeps.of_next ?_ e
  repeat' first
    | with_reducible assumption
    | with_reducible apply writeWord_keeps
    | with_reducible apply stnTestWrite_keeps
    | intro _

theorem execLgTestDone_keeps (k : Fin 6) (pass : Bool) (s : State) {s0 : State} (h : Keeps s0 s) :
    ∀ z, execLgTestDone k pass s = .next z → Keeps s0 z := by
  unfold execLgTestDone
  intro z e
  refine Keeps.of_next ?_ e
  repeat' first
    | with_reducible assumption
    | with_reducible apply State.setStatus_keeps
    | with_reducible apply State.setFlag_keeps
    | with_reducible apply State.setStn_keeps
    | with_reducible apply State.event_keeps
    | with_reducible apply State.setRegBit_keeps
    | with_reducible apply State.setService_keeps
    | with_reducible apply State.setSpare_keeps
    | with_reducible apply State.bump_keeps
    | with_reducible apply State.retireLg_keeps
    | with_reducible apply State.loseSpare_keeps
    | (extract_lets +onlyGivenNames xl; first
        | (refine (fun (hx : Keeps s0 xl) => ?_) ?_; rotate_left; unfold xl; clear xl; rotate_left; clear_value xl; revert xl; intro yl hy)
        | (clear_value xl; revert xl; intro yl)
        | (revert xl; intro yl))
    | split

theorem execLgSelfCheckFail_keeps (k : Fin 6) (lg : Nat) (s : State) {s0 : State} (h : Keeps s0 s) :
    ∀ z, execLgSelfCheckFail k lg s = .next z → Keeps s0 z := by
  unfold execLgSelfCheckFail
  intro z e
  refine Keeps.of_next ?_ e
  repeat' first
    | with_reducible assumption
    | with_reducible apply State.retireLg_keeps
    | with_reducible apply State.setJobs_keeps
    | (extract_lets +onlyGivenNames xl; first
        | (clear_value xl; revert xl; intro yl)
        | (revert xl; intro yl))
    | split

theorem execTurnBoundary_keeps (s : State) {s0 : State} (h : Keeps s0 s) :
    ∀ z, execTurnBoundary s = .next z → Keeps s0 z := by
  unfold execTurnBoundary
  intro z e
  refine Keeps.of_next ?_ e
  repeat' first
    | with_reducible assumption
    | with_reducible apply State.bumpBy_keeps
    | with_reducible apply State.setStn_keeps
    | with_reducible apply State.setJobs_keeps
    | with_reducible apply State.startJobs_keeps
    | with_reducible apply State.beginTest_keeps
    | intro _
    | (extract_lets +onlyGivenNames xl; first
        | (refine (fun (hx : Keeps s0 xl) => ?_) ?_; rotate_left; unfold xl; clear xl; rotate_left; clear_value xl; revert xl; intro yl hy)
        | (clear_value xl; revert xl; intro yl)
        | (revert xl; intro yl))
    | split
    | with_reducible apply Keeps.foldl
    | with_reducible apply Keeps.foldl_snd2
    | with_reducible apply Keeps.foldl_snd
    | with_reducible apply Keeps.foldl_fst
    | (refine Keeps.of_snd (by with_reducible assumption) ?_)
    | with_reducible apply Keeps.mk' rfl rfl rfl rfl rfl rfl rfl rfl rfl

theorem State.endJob_keeps (s : State) (id : Nat) (done : Bool) {s0 : State} (h : Keeps s0 s) :
    Keeps s0 (State.endJob s id done) := by
  unfold State.endJob
  repeat' first
    | with_reducible assumption
    | with_reducible apply State.setJobs_keeps
    | split

theorem State.cwStat_keeps (s : State) (j : Job) (ok : Bool) {s0 : State} (h : Keeps s0 s) :
    Keeps s0 (State.cwStat s j ok) := by
  unfold State.cwStat
  repeat' first
    | with_reducible assumption
    | with_reducible apply State.setChan_keeps
    | with_reducible apply State.setLink_keeps
    | intro _
    | (extract_lets +onlyGivenNames xl; first
        | (refine (fun (hx : Keeps s0 xl) => ?_) ?_; rotate_left; unfold xl; clear xl; rotate_left; clear_value xl; revert xl; intro yl hy)
        | (clear_value xl; revert xl; intro yl)
        | (revert xl; intro yl))
    | split
    | (refine Keeps.of_snd (by with_reducible assumption) ?_)
    | with_reducible apply Keeps.mk' rfl rfl rfl rfl rfl rfl rfl rfl rfl

theorem State.addDecodes_keeps (s : State) (c : Nat) (r : RxFrame) (nFc : Nat) (f : Fc) (bits : List Nat) (t : Nat) (need : Nat) {s0 : State} (h : Keeps s0 s) :
    Keeps s0 (State.addDecodes s c r nFc f bits t need) := by
  unfold State.addDecodes
  extract_lets lens
  refine Keeps.foldl h fun s k hs => ?_
  split
  · extract_lets j
    clear_value j
    split
    · exact State.cwStat_keeps _ _ _ (State.bump_keeps _ _ _ hs)
    · exact State.addJob_keeps _ _ hs
  · exact hs

theorem State.addSense_keeps (s : State) (c : Nat) (cfg : List Word) (r : RxFrame) (fft : Bool) {s0 : State} (h : Keeps s0 s) :
    Keeps s0 (State.addSense s c cfg r fft).1 := by
  unfold State.addSense
  extract_lets n filt sense job pairs
  clear_value n filt sense job pairs
  refine Keeps.foldl_fst h fun a p ha => ?_
  extract_lets s1 t first echo
  have hf : Keeps s0 first.1 := by
    unfold first t
    split
    · exact State.addJob_keeps _ _ ha
    · exact ha
  clear_value first t
  have he : Keeps s0 echo.1 := Keeps.foldl_fst hf fun b _ hb => State.addJob_keeps _ _ hb
  clear_value echo
  split
  · exact he
  · split
    · exact State.addJob_keeps _ _ he
    · exact State.addJob_keeps _ _ (State.addJob_keeps _ _ he)

theorem State.addRxJobs_keeps (s : State) (c : Nat) (cfg : List Word) (r : RxFrame) {s0 : State} (h : Keeps s0 s) :
    Keeps s0 (State.addRxJobs s c cfg r) := by
  unfold State.addRxJobs
  extract_lets n e ports nFc t more from_ s1 fft f job k s2 bits coded s3 dm
  have hm : ∀ (u : State) (k : Nat), Keeps s0 u → Keeps s0 (more u k) := fun u k hu =>
    Keeps.foldl hu fun _ _ hv => State.addSense_keeps _ _ _ _ _ hv
  have h1 : Keeps s0 s1 := by
    unfold s1
    split
    · exact hm _ _ h
    · exact h
  have h2 : Keeps s0 fft.1 := State.addSense_keeps _ _ _ _ _ h1
  have h3 : Keeps s0 s2 := State.addJob_keeps _ _ h2
  have h4 : Keeps s0 s3 := State.addJob_keeps _ _ h3
  clear_value more s1 fft s2 s3 job k bits coded dm f
  split
  · exact hm _ _ (State.addSense_keeps _ _ _ _ _ h)
  · split
    · exact h2
    · split
      · exact State.addJob_keeps _ _ h4
      · split
        · split
          · exact State.addDecodes_keeps _ _ _ _ _ _ _ _ h4
          · exact h4
        · exact h4

theorem State.addEncode_keeps (s : State) (c : Nat) (cfg : List Word) (x : Tx) (k : Nat) (long : Bool) {s0 : State} (h : Keeps s0 s) :
    Keeps s0 (State.addEncode s c cfg x k long) := by
  unfold State.addEncode
  repeat' first
    | with_reducible assumption
    | with_reducible apply State.addJob_keeps
    | intro _
    | (extract_lets +onlyGivenNames xl; first
        | (refine (fun (hx : Keeps s0 xl) => ?_) ?_; rotate_left; unfold xl; clear xl; rotate_left; clear_value xl; revert xl; intro yl hy)
        | (clear_value xl; revert xl; intro yl)
        | (revert xl; intro yl))
    | split
    | (refine Keeps.of_snd (by with_reducible assumption) ?_)
    | with_reducible apply Keeps.mk' rfl rfl rfl rfl rfl rfl rfl rfl rfl

theorem State.refill_keeps (s : State) (c : Nat) (cfg : List Word) (x : Tx) (from_ : Nat) (upto : Nat) {s0 : State} (h : Keeps s0 s) :
    Keeps s0 (State.refill s c cfg x from_ upto) := by
  unfold State.refill
  repeat' first
    | with_reducible assumption
    | with_reducible apply State.keepJobs_keeps
    | with_reducible apply State.addEncode_keeps
    | intro _
    | (extract_lets +onlyGivenNames xl; first
        | (refine (fun (hx : Keeps s0 xl) => ?_) ?_; rotate_left; unfold xl; clear xl; rotate_left; clear_value xl; revert xl; intro yl hy)
        | (clear_value xl; revert xl; intro yl)
        | (revert xl; intro yl))
    | split
    | with_reducible apply Keeps.foldl
    | with_reducible apply Keeps.foldl_snd2
    | with_reducible apply Keeps.foldl_snd
    | with_reducible apply Keeps.foldl_fst
    | (refine Keeps.of_snd (by with_reducible assumption) ?_)
    | with_reducible apply Keeps.mk' rfl rfl rfl rfl rfl rfl rfl rfl rfl

theorem State.addTxJobs_keeps (s : State) (c : Nat) (cfg : List Word) (x : Tx) {s0 : State} (h : Keeps s0 s) :
    Keeps s0 (State.addTxJobs s c cfg x) := by
  unfold State.addTxJobs
  extract_lets n start enc set ports
  have he : Keeps s0 enc.1 := Keeps.foldl_fst h fun a e ha => State.addEncode_keeps _ _ _ _ _ _ ha
  clear_value enc
  refine Keeps.foldl he fun s k hs => ?_
  extract_lets needs src s1 m
  have h1 : Keeps s0 s1 := State.addJob_keeps _ _ hs
  clear_value s1
  exact Keeps.foldl h1 fun _ _ ht => State.addJob_keeps _ _ ht

theorem execSpindleJobDone_keeps (id : Nat) (s : State) {s0 : State} (h : Keeps s0 s) :
    ∀ z, execSpindleJobDone id s = .next z → Keeps s0 z := by
  unfold execSpindleJobDone
  intro z e
  refine Keeps.of_next ?_ e
  repeat' first
    | with_reducible assumption
    | with_reducible apply State.beginTest_keeps
    | with_reducible apply State.bump_keeps
    | with_reducible apply State.endJob_keeps
    | split

theorem State.unreserve_keeps (s : State) (c : Nat) {s0 : State} (h : Keeps s0 s) :
    Keeps s0 (State.unreserve s c) := by
  unfold State.unreserve
  repeat' first
    | with_reducible assumption
    | with_reducible apply State.setChan_keeps
    | with_reducible apply State.reserve_keeps
    | intro _
    | split
    | with_reducible apply Keeps.mk' rfl rfl rfl rfl rfl rfl rfl rfl rfl

theorem State.endRx_keeps (s : State) (c : Nat) {s0 : State} (h : Keeps s0 s) :
    Keeps s0 (State.endRx s c) := by
  unfold State.endRx
  repeat' first
    | with_reducible assumption
    | with_reducible apply State.keepJobs_keeps
    | with_reducible apply State.setChan_keeps
    | (extract_lets +onlyGivenNames xl; first
        | (clear_value xl; revert xl; intro yl)
        | (revert xl; intro yl))
    | split

theorem State.lateTx_keeps (s : State) (c : Nat) (slot : Nat) (k : Nat) {s0 : State} (h : Keeps s0 s) :
    Keeps s0 (State.lateTx s c slot k) := by
  unfold State.lateTx
  extract_lets mark ch hit count
  have hc : ∀ u, Keeps s0 u → Keeps s0 (count u) := fun u hu => State.event_keeps _ _ _ (State.bump_keeps _ _ _ hu)
  clear_value count hit mark
  split
  · exact hc _ (State.emit_keeps _ _ (State.setChan_keeps _ _ _ h))
  · split
    · exact hc _ (State.setChan_keeps _ _ _ h)
    · split
      · exact hc _ (State.setChan_keeps _ _ _ h)
      · exact h

theorem State.relayLate_keeps (s : State) (c : Nat) (x : Tx) (k : Nat) {s0 : State} (h : Keeps s0 s) :
    Keeps s0 (State.relayLate s c x k) := by
  unfold State.relayLate
  extract_lets pos
  split
  · exact h
  · exact State.emit_keeps _ _ (State.setChan_keeps _ _ _ (State.mapFrames_keeps _ _ h))

theorem State.takeLate_keeps (s : State) (j : Job) {s0 : State} (h : Keeps s0 s) :
    Keeps s0 (State.takeLate s j) := by
  unfold State.takeLate
  repeat' first
    | with_reducible assumption
    | with_reducible apply State.bump_keeps
    | with_reducible apply State.setStn_keeps
    | with_reducible apply State.endJob_keeps
    | intro _
    | (extract_lets +onlyGivenNames xl; first
        | (refine (fun (hx : Keeps s0 xl) => ?_) ?_; rotate_left; unfold xl; clear xl; rotate_left; clear_value xl; revert xl; intro yl hy)
        | (clear_value xl; revert xl; intro yl)
        | (revert xl; intro yl))
    | split
    | (refine Keeps.of_snd (by with_reducible assumption) ?_)
    | with_reducible apply Keeps.mk' rfl rfl rfl rfl rfl rfl rfl rfl rfl

theorem State.lateFc_keeps (s : State) (c : Nat) (slot : Nat) {s0 : State} (h : Keeps s0 s) :
    Keeps s0 (State.lateFc s c slot) := by
  unfold State.lateFc
  repeat' first
    | with_reducible assumption
    | with_reducible apply State.event_keeps
    | with_reducible apply State.bump_keeps
    | with_reducible apply State.endRx_keeps
    | intro _
    | (extract_lets +onlyGivenNames xl; first
        | (refine (fun (hx : Keeps s0 xl) => ?_) ?_; rotate_left; unfold xl; clear xl; rotate_left; clear_value xl; revert xl; intro yl hy)
        | (clear_value xl; revert xl; intro yl)
        | (revert xl; intro yl))
    | split
    | (refine Keeps.of_snd (by with_reducible assumption) ?_)
    | with_reducible apply Keeps.mk' rfl rfl rfl rfl rfl rfl rfl rfl rfl

theorem State.lateSymbol_keeps (s : State) (j : Job) {s0 : State} (h : Keeps s0 s) :
    Keeps s0 (State.lateSymbol s j) := by
  unfold State.lateSymbol
  repeat' first
    | with_reducible assumption
    | with_reducible apply State.setChan_keeps
    | with_reducible apply State.event_keeps
    | with_reducible apply State.bump_keeps
    | with_reducible apply State.cwStat_keeps
    | with_reducible apply State.takeLate_keeps
    | with_reducible apply State.lateFc_keeps
    | intro _
    | (extract_lets +onlyGivenNames xl; first
        | (refine (fun (hx : Keeps s0 xl) => ?_) ?_; rotate_left; unfold xl; clear xl; rotate_left; clear_value xl; revert xl; intro yl hy)
        | (clear_value xl; revert xl; intro yl)
        | (revert xl; intro yl))
    | split
    | with_reducible apply Keeps.foldl
    | with_reducible apply Keeps.foldl_snd2
    | with_reducible apply Keeps.foldl_snd
    | with_reducible apply Keeps.foldl_fst
    | (refine Keeps.of_snd (by with_reducible assumption) ?_)
    | with_reducible apply Keeps.mk' rfl rfl rfl rfl rfl rfl rfl rfl rfl

theorem State.jobLate_keeps (s : State) (id : Nat) (ok : Bool) (off : Bool) {s0 : State} (h : Keeps s0 s) :
    Keeps s0 (State.jobLate s id ok off) := by
  unfold State.jobLate
  repeat' first
    | with_reducible assumption
    | with_reducible apply State.quietSkip_keeps
    | with_reducible apply State.setChan_keeps
    | with_reducible apply State.bump_keeps
    | with_reducible apply State.cwStat_keeps
    | with_reducible apply State.lateTx_keeps
    | with_reducible apply State.relayLate_keeps
    | with_reducible apply State.takeLate_keeps
    | with_reducible apply State.lateFc_keeps
    | with_reducible apply State.lateSymbol_keeps
    | intro _
    | (extract_lets +onlyGivenNames xl; first
        | (refine (fun (hx : Keeps s0 xl) => ?_) ?_; rotate_left; unfold xl; clear xl; rotate_left; clear_value xl; revert xl; intro yl hy)
        | (clear_value xl; revert xl; intro yl)
        | (revert xl; intro yl))
    | split
    | with_reducible apply Keeps.foldl
    | with_reducible apply Keeps.foldl_snd2
    | with_reducible apply Keeps.foldl_snd
    | with_reducible apply Keeps.foldl_fst
    | (refine Keeps.of_snd (by with_reducible assumption) ?_)
    | with_reducible apply Keeps.mk' rfl rfl rfl rfl rfl rfl rfl rfl rfl

theorem execJobDeadline_keeps (id : Nat) (ok : Bool) (s : State) {s0 : State} (h : Keeps s0 s) :
    ∀ z, execJobDeadline id ok s = .next z → Keeps s0 z := by
  unfold execJobDeadline
  intro z e
  refine Keeps.of_next ?_ e
  repeat' first
    | with_reducible assumption
    | with_reducible apply State.jobLate_keeps
    | intro _
    | split
    | with_reducible apply Keeps.mk' rfl rfl rfl rfl rfl rfl rfl rfl rfl

theorem State.abandonJobs_keeps (s : State) (k : Nat) (all : Bool) {s0 : State} (h : Keeps s0 s) :
    Keeps s0 (State.abandonJobs s k all) := by
  unfold State.abandonJobs
  repeat' first
    | with_reducible assumption
    | with_reducible apply State.jobLate_keeps
    | intro _
    | split
    | with_reducible apply Keeps.foldl
    | with_reducible apply Keeps.foldl_snd2
    | with_reducible apply Keeps.foldl_snd
    | with_reducible apply Keeps.foldl_fst
    | with_reducible apply Keeps.mk' rfl rfl rfl rfl rfl rfl rfl rfl rfl

theorem State.residLearn_keeps (s : State) (c : Nat) (slot : Nat) (f : Fc) (resid : List (Nat × Samples)) {s0 : State} (h : Keeps s0 s) :
    Keeps s0 (State.residLearn s c slot f resid) := by
  unfold State.residLearn
  repeat' first
    | with_reducible assumption
    | with_reducible apply State.ddLearn_keeps
    | intro _
    | (extract_lets +onlyGivenNames xl; first
        | (refine (fun (hx : Keeps s0 xl) => ?_) ?_; rotate_left; unfold xl; clear xl; rotate_left; clear_value xl; revert xl; intro yl hy)
        | (clear_value xl; revert xl; intro yl)
        | (revert xl; intro yl))
    | split
    | with_reducible apply Keeps.foldl
    | with_reducible apply Keeps.foldl_snd2
    | with_reducible apply Keeps.foldl_snd
    | with_reducible apply Keeps.foldl_fst
    | (refine Keeps.of_snd (by with_reducible assumption) ?_)
    | with_reducible apply Keeps.mk' rfl rfl rfl rfl rfl rfl rfl rfl rfl

theorem execDecodeDone_keeps (c : Fin 64) (k : Nat) (iters : Nat) (info : List Nat) (parity : List Nat) (resid : List (Nat × Samples)) (cells : List CellObs) (s : State) {s0 : State} (h : Keeps s0 s) :
    ∀ z, execDecodeDone c k iters info parity resid cells s = .next z → Keeps s0 z := by
  unfold execDecodeDone
  intro z e
  refine Keeps.of_next ?_ e
  clear e
  split
  · rename_i j _
    extract_lets f long ended s1 x done s2
    have hd : ∀ u, Keeps s0 u → Keeps s0 (ended u) := fun u hu => State.bump_keeps _ _ _ (State.endJob_keeps _ _ _ hu)
    have h1 : Keeps s0 s1 := State.cwStat_keeps _ _ _ (State.bump_keeps _ _ _ (hd _ h))
    clear_value s1
    have h2 : Keeps s0 s2 := State.setChan_keeps _ _ _ h1
    clear_value s2 ended
    repeat' first
      | exact h
      | exact State.ddEstimate_keeps _ _ _ _ _ (State.residLearn_keeps _ _ _ _ _ h2)
      | exact State.unreserve_keeps _ _ (State.cwStat_keeps _ _ _ (State.bump_keeps _ _ _ (hd _ h)))
      | split
  · exact h

theorem execSy1Detect_keeps (c : Fin 64) (frac : Nat) (np : Fin 4) (s : State) {s0 : State} (h : Keeps s0 s) :
    ∀ z, execSy1Detect c frac np s = .next z → Keeps s0 z := by
  unfold execSy1Detect
  intro z e
  refine Keeps.of_next ?_ e
  repeat' first
    | with_reducible assumption
    | with_reducible apply State.setChan_keeps
    | intro _
    | (extract_lets +onlyGivenNames xl; first
        | (refine (fun (hx : Keeps s0 xl) => ?_) ?_; rotate_left; unfold xl; clear xl; rotate_left; clear_value xl; revert xl; intro yl hy)
        | (clear_value xl; revert xl; intro yl)
        | (revert xl; intro yl))
    | split
    | (refine Keeps.of_snd (by with_reducible assumption) ?_)
    | with_reducible apply Keeps.mk' rfl rfl rfl rfl rfl rfl rfl rfl rfl

theorem execFcDecode_keeps (c : Fin 64) (bits : Nat) (iters : Nat) (parity : List Nat) (s : State) {s0 : State} (h : Keeps s0 s) :
    ∀ z, execFcDecode c bits iters parity s = .next z → Keeps s0 z := by
  unfold execFcDecode
  intro z e
  refine Keeps.of_next ?_ e
  clear e
  extract_lets ch drop
  split
  · rename_i r cfg j _ _ _
    extract_lets s1 s2 s3 src
    have h1 : Keeps s0 s1 := State.bump_keeps _ _ _ (State.endJob_keeps _ _ _ h)
    clear_value s1
    have hd : ∀ u, Keeps s0 u → Keeps s0 (drop u) := fun u hu => State.endRx_keeps _ _ (State.bump_keeps _ _ _ hu)
    have h2 : Keeps s0 s2 := State.bump_keeps _ _ _ h1
    clear_value s2 drop
    split
    · exact h
    · split
      · split
        · exact hd _ (State.bump_keeps _ _ _ h1)
        · exact h
      · split
        · extract_lets f known s4 src4 s5
          have h3 : Keeps s0 s3 := State.bump_keeps _ _ _ h2
          clear_value s3
          have h4 : Keeps s0 s4 := by
            unfold s4
            split
            · exact State.setChan_keeps _ _ _ h3
            · exact h3
          clear_value s4
          have h5 : Keeps s0 s5 := State.endRx_keeps _ _ (State.bump_keeps _ _ _ h4)
          clear_value s5 known f
          split
          · split
            · exact State.setChan_keeps _ _ _ h4
            · split
              · exact State.propose_keeps _ _ _ h5
              · exact h5
          · exact hd _ h2
        · exact hd _ h2
  · exact h

theorem State.rxBoundary_keeps (s : State) (c : Nat) (cfg : List Word) (r : RxFrame) (rx : List RxPort) {s0 : State} (h : Keeps s0 s) :
    Keeps s0 (State.rxBoundary s c cfg r rx) := by
  unfold State.rxBoundary
  repeat' first
    | with_reducible assumption
    | with_reducible apply State.setChan_keeps
    | with_reducible apply State.rxSymbol_keeps
    | with_reducible apply State.setLink_keeps
    | with_reducible apply State.addRxJobs_keeps
    | intro _
    | (extract_lets +onlyGivenNames xl; first
        | (refine (fun (hx : Keeps s0 xl) => ?_) ?_; rotate_left; unfold xl; clear xl; rotate_left; clear_value xl; revert xl; intro yl hy)
        | (clear_value xl; revert xl; intro yl)
        | (revert xl; intro yl))
    | split
    | (refine Keeps.of_snd (by with_reducible assumption) ?_)
    | with_reducible apply Keeps.mk' rfl rfl rfl rfl rfl rfl rfl rfl rfl

theorem State.txBoundary_keeps (s : State) (c : Nat) (cfg : List Word) (x : Tx) (loads : List PortLoad) {s0 : State} (h : Keeps s0 s) :
    Keeps s0 (State.txBoundary s c cfg x loads) := by
  unfold State.txBoundary
  repeat' first
    | with_reducible assumption
    | with_reducible apply State.setChan_keeps
    | with_reducible apply State.portBoundary_keeps
    | with_reducible apply State.symbolGain_keeps
    | with_reducible apply State.symbolCut_keeps
    | with_reducible apply State.addEnergy_keeps
    | with_reducible apply State.sendSymbol_keeps
    | with_reducible apply State.sendSeam_keeps
    | intro _
    | (extract_lets +onlyGivenNames xl; first
        | (refine (fun (hx : Keeps s0 xl) => ?_) ?_; rotate_left; unfold xl; clear xl; rotate_left; clear_value xl; revert xl; intro yl hy)
        | (clear_value xl; revert xl; intro yl)
        | (revert xl; intro yl))
    | split
    | with_reducible apply Keeps.foldl
    | with_reducible apply Keeps.foldl_snd2
    | with_reducible apply Keeps.foldl_snd
    | with_reducible apply Keeps.foldl_fst
    | (refine Keeps.of_snd (by with_reducible assumption) ?_)
    | with_reducible apply Keeps.mk' rfl rfl rfl rfl rfl rfl rfl rfl rfl

theorem execSymbolBoundary_keeps (c : Fin 64) (frac : Nat) (tx : Bool) (loads : List PortLoad) (rx : List RxPort) (u : State) {s0 : State} (h : Keeps s0 u) :
    ∀ z, execSymbolBoundary c frac tx loads rx u = .next z → Keeps s0 z := by
  unfold execSymbolBoundary
  intro z e
  refine Keeps.of_next ?_ e
  repeat' first
    | with_reducible assumption
    | with_reducible apply State.rxBoundary_keeps
    | with_reducible apply State.txBoundary_keeps
    | intro _
    | (extract_lets +onlyGivenNames xl; first
        | (refine (fun (hx : Keeps s0 xl) => ?_) ?_; rotate_left; unfold xl; clear xl; rotate_left; clear_value xl; revert xl; intro yl hy)
        | (clear_value xl; revert xl; intro yl)
        | (revert xl; intro yl))
    | split
    | (refine Keeps.of_snd (by with_reducible assumption) ?_)
    | with_reducible apply Keeps.mk' rfl rfl rfl rfl rfl rfl rfl rfl rfl

end Sys2Proof.Machine
end

