-- ==== Sys2Proof/Laws/Keeps/Schedule.lean ====
section
/-! SUPPORT. That every operation of Schedule keeps the relation of Laws/Keeps. -/

set_option Elab.async false

namespace Sys2Proof.Machine

theorem State.setDuplex_keeps (s : State) (c : Nat) (fd : Bool) (split : Bool) {s0 : State} (h : Keeps s0 s) :
    Keeps s0 (State.setDuplex s c fd split) := by
  unfold State.setDuplex
  repeat' first
    | with_reducible assumption
    | with_reducible apply State.setStatus_keeps
    | with_reducible apply State.setChan_keeps
    | with_reducible apply State.event_keeps
    | (extract_lets +onlyGivenNames xl; first
        | (refine (fun (hx : Keeps s0 xl) => ?_) ?_; rotate_left; unfold xl; clear xl; rotate_left; clear_value xl; revert xl; intro yl hy)
        | (clear_value xl; revert xl; intro yl)
        | (revert xl; intro yl))
    | split

theorem State.gainChange_keeps (s : State) (c : Nat) (new : List Word) {s0 : State} (h : Keeps s0 s) :
    Keeps s0 (State.gainChange s c new) := by
  unfold State.gainChange
  repeat' first
    | with_reducible assumption
    | with_reducible apply State.scaleTemplates_keeps
    | intro _
    | split
    | (refine Keeps.of_snd (by with_reducible assumption) ?_)
    | with_reducible apply Keeps.mk' rfl rfl rfl rfl rfl rfl rfl rfl rfl

theorem State.takeEffect_keeps (u : State) (c : Nat) {s0 : State} (h : Keeps s0 u) :
    Keeps s0 (State.takeEffect u c) := by
  unfold State.takeEffect
  repeat' first
    | with_reducible assumption
    | with_reducible apply State.templatesNow_keeps
    | with_reducible apply State.setChan_keeps
    | with_reducible apply State.event_keeps
    | with_reducible apply State.setDuplex_keeps
    | with_reducible apply State.gainChange_keeps
    | intro _
    | (extract_lets +onlyGivenNames xl; first
        | (refine (fun (hx : Keeps s0 xl) => ?_) ?_; rotate_left; unfold xl; clear xl; rotate_left; clear_value xl; revert xl; intro yl hy)
        | (clear_value xl; revert xl; intro yl)
        | (revert xl; intro yl))
    | split
    | (refine Keeps.of_snd (by with_reducible assumption) ?_)
    | with_reducible apply Keeps.mk' rfl rfl rfl rfl rfl rfl rfl rfl rfl

theorem State.stopChannel_keeps (s : State) (c : Nat) {s0 : State} (h : Keeps s0 s) :
    Keeps s0 (State.stopChannel s c) := by
  unfold State.stopChannel
  repeat' first
    | with_reducible assumption
    | with_reducible apply State.templatesNow_keeps
    | with_reducible apply State.setChan_keeps
    | with_reducible apply State.setStatus_keeps
    | with_reducible apply State.setDuplex_keeps
    | with_reducible apply State.keepJobs_keeps
    | intro _
    | (extract_lets +onlyGivenNames xl; first
        | (refine (fun (hx : Keeps s0 xl) => ?_) ?_; rotate_left; unfold xl; clear xl; rotate_left; clear_value xl; revert xl; intro yl hy)
        | (clear_value xl; revert xl; intro yl)
        | (revert xl; intro yl))
    | split
    | (refine Keeps.of_snd (by with_reducible assumption) ?_)
    | with_reducible apply Keeps.mk' rfl rfl rfl rfl rfl rfl rfl rfl rfl

theorem State.channelBoundary_keeps (s : State) (c : Nat) {s0 : State} (h : Keeps s0 s) :
    Keeps s0 (State.channelBoundary s c) := by
  unfold State.channelBoundary
  repeat' first
    | with_reducible assumption
    | with_reducible apply State.stopChannel_keeps
    | with_reducible apply State.takeEffect_keeps
    | with_reducible apply State.setChan_keeps
    | intro _
    | (extract_lets +onlyGivenNames xl; first
        | (refine (fun (hx : Keeps s0 xl) => ?_) ?_; rotate_left; unfold xl; clear xl; rotate_left; clear_value xl; revert xl; intro yl hy)
        | (clear_value xl; revert xl; intro yl)
        | (revert xl; intro yl))
    | split
    | with_reducible apply Keeps.foldl
    | with_reducible apply Keeps.foldl_snd2
    | with_reducible apply Keeps.foldl_snd
    | with_reducible apply Keeps.foldl_fst

theorem State.installTables_keeps (s : State) (ver : Nat) (tables : List (List Word)) {s0 : State} (h : Keeps s0 s) :
    Keeps s0 (State.installTables s ver tables) := by
  unfold State.installTables
  repeat' first
    | with_reducible assumption
    | with_reducible apply State.setReg_keeps
    | with_reducible apply State.event_keeps
    | with_reducible apply State.setFlag_keeps
    | intro _
    | (extract_lets +onlyGivenNames xl; first
        | (refine (fun (hx : Keeps s0 xl) => ?_) ?_; rotate_left; unfold xl; clear xl; rotate_left; clear_value xl; revert xl; intro yl hy))
    | with_reducible apply Keeps.foldl
    | with_reducible apply Keeps.foldl_snd2
    | with_reducible apply Keeps.foldl_snd
    | with_reducible apply Keeps.foldl_fst

theorem State.versionLate_keeps (s : State) {s0 : State} (h : Keeps s0 s) :
    Keeps s0 (State.versionLate s) := by
  unfold State.versionLate
  repeat' first
    | with_reducible assumption
    | with_reducible apply State.event_keeps
    | with_reducible apply State.setFlag_keeps

theorem State.versionBoundary_keeps (s : State) {s0 : State} (h : Keeps s0 s) :
    Keeps s0 (State.versionBoundary s) := by
  unfold State.versionBoundary
  repeat' first
    | with_reducible assumption
    | with_reducible apply State.installTables_keeps
    | (extract_lets +onlyGivenNames xl; first
        | (clear_value xl; revert xl; intro yl)
        | (revert xl; intro yl))
    | split
    | with_reducible apply Keeps.mk' rfl rfl rfl rfl rfl rfl rfl rfl rfl

theorem schStageWrite_keeps (p : Page) (w : Word) (s : State) {s0 : State} (h : Keeps s0 s) :
    Keeps s0 (schStageWrite p w s) := by
  unfold schStageWrite
  repeat' first
    | with_reducible assumption
    | with_reducible apply applyWrite_keeps
    | with_reducible apply State.request_keeps
    | (extract_lets +onlyGivenNames xl; first
        | (refine (fun (hx : Keeps s0 xl) => ?_) ?_; rotate_left; unfold xl; clear xl; rotate_left; clear_value xl; revert xl; intro yl hy)
        | (clear_value xl; revert xl; intro yl)
        | (revert xl; intro yl))
    | split
    | with_reducible apply Keeps.mk' rfl rfl rfl rfl rfl rfl rfl rfl rfl

theorem execSchedStageGo_keeps (q : Req) (s : State) {s0 : State} (h : Keeps s0 s) :
    ∀ z, execSchedStageGo q s = .next z → Keeps s0 z := by
  unfold execSchedStageGo
  intro z e
  refine Keeps.of_next ?_ e
  repeat' first
    | with_reducible assumption
    | with_reducible apply writeWord_keeps
    | with_reducible apply schStageWrite_keeps
    | intro _

theorem decIterWrite_keeps (p : Page) (w : Word) (s : State) {s0 : State} (h : Keeps s0 s) :
    Keeps s0 (decIterWrite p w s) := by
  unfold decIterWrite
  repeat' first
    | with_reducible assumption
    | with_reducible apply State.request_keeps
    | with_reducible apply applyWrite_keeps

theorem execDecIterWrite_keeps (q : Req) (s : State) {s0 : State} (h : Keeps s0 s) :
    ∀ z, execDecIterWrite q s = .next z → Keeps s0 z := by
  unfold execDecIterWrite
  intro z e
  refine Keeps.of_next ?_ e
  repeat' first
    | with_reducible assumption
    | with_reducible apply writeWord_keeps
    | with_reducible apply decIterWrite_keeps
    | intro _

theorem State.accept_keeps (s : State) (src : AdmSource) (load : Nat) {s0 : State} (h : Keeps s0 s) :
    Keeps s0 (State.accept s src load) := by
  cases src with
  | iter =>
    unfold State.accept
    exact State.setFld_keeps _ _ _ _ (State.admRecord_keeps s .iter 0 0 load h)
  | chan c =>
    have h1 := State.admRecord_keeps s (.chan c) 0 0 load h
    unfold State.accept
    generalize State.admRecord s (.chan c) 0 0 load = s1 at h1 ⊢
    have h2 := State.templatesFor_keeps _ c (s1.pageCfg c) (State.setRefused_keeps s1 c false h1)
    dsimp only
    generalize State.templatesFor _ c (s1.pageCfg c) = s2 at h2 ⊢
    have h3 := State.setChan_keeps s2 c { s2.chan c with next := some (s1.pageCfg c) } h2
    split
    · exact h3
    · exact State.takeEffect_keeps _ c h3
  | sched =>
    have h1 := State.admRecord_keeps s .sched 0 0 load h
    unfold State.accept
    have h2 := State.setFlag_keeps _ .sch F.SCH_VER_STAT_REFUSED false h1
    dsimp only
    generalize State.setFlag _ .sch F.SCH_VER_STAT_REFUSED false = s2 at h2 ⊢
    split
    · exact h2
    · split
      · exact State.installTables_keeps _ _ _ (h2.congr rfl rfl rfl rfl rfl rfl rfl rfl rfl)
      · split
        · exact State.versionLate_keeps _ (h2.congr rfl rfl rfl rfl rfl rfl rfl rfl rfl)
        · exact State.setFlag_keeps _ _ _ _ (State.setFld_keeps _ _ _ _ (h2.congr rfl rfl rfl rfl rfl rfl rfl rfl rfl))

theorem State.admissionDone_keeps (s : State) {s0 : State} (h : Keeps s0 s) :
    Keeps s0 (State.admissionDone s).2 := by
  unfold State.admissionDone
  repeat' first
    | with_reducible assumption
    | with_reducible apply State.accept_keeps
    | with_reducible apply State.refuse_keeps
    | (extract_lets +onlyGivenNames xl; first
        | (refine (fun (hx : Keeps s0 xl) => ?_) ?_; rotate_left; unfold xl; clear xl; rotate_left; clear_value xl; revert xl; intro yl hy)
        | (clear_value xl; revert xl; intro yl)
        | (revert xl; intro yl))
    | split
    | with_reducible apply Keeps.mk' rfl rfl rfl rfl rfl rfl rfl rfl rfl

theorem State.setFigIdx_keeps (s : State) (i : Nat) {s0 : State} (h : Keeps s0 s) :
    Keeps s0 (State.setFigIdx s i) := by
  unfold State.setFigIdx
  repeat' first
    | with_reducible assumption
    | with_reducible apply State.event_keeps
    | with_reducible apply State.setFld_keeps
    | split

theorem State.figureBoundary_keeps (s : State) {s0 : State} (h : Keeps s0 s) :
    Keeps s0 (State.figureBoundary s) := by
  unfold State.figureBoundary
  repeat' first
    | with_reducible assumption
    | with_reducible apply State.setFigIdx_keeps
    | with_reducible apply State.setFlag_keeps
    | with_reducible apply State.event_keeps
    | with_reducible apply State.setStatus_keeps
    | with_reducible apply State.setChan_keeps
    | with_reducible apply State.bump_keeps
    | intro _
    | (extract_lets +onlyGivenNames xl; first
        | (refine (fun (hx : Keeps s0 xl) => ?_) ?_; rotate_left; unfold xl; clear xl; rotate_left; clear_value xl; revert xl; intro yl hy)
        | (clear_value xl; revert xl; intro yl)
        | (revert xl; intro yl))
    | split
    | with_reducible apply Keeps.foldl
    | with_reducible apply Keeps.foldl_snd2
    | with_reducible apply Keeps.foldl_snd
    | with_reducible apply Keeps.foldl_fst
    | with_reducible apply Keeps.mk' rfl rfl rfl rfl rfl rfl rfl rfl rfl

theorem figNextWrite_keeps (p : Page) (w : Word) (s : State) {s0 : State} (h : Keeps s0 s) :
    Keeps s0 (figNextWrite p w s) := by
  unfold figNextWrite
  repeat' first
    | with_reducible assumption
    | with_reducible apply applyWrite_keeps
    | (extract_lets +onlyGivenNames xl; first
        | (refine (fun (hx : Keeps s0 xl) => ?_) ?_; rotate_left; unfold xl; clear xl; rotate_left; clear_value xl; revert xl; intro yl hy)
        | (clear_value xl; revert xl; intro yl)
        | (revert xl; intro yl))
    | split
    | with_reducible apply Keeps.mk' rfl rfl rfl rfl rfl rfl rfl rfl rfl

theorem execFigNextGo_keeps (q : Req) (s : State) {s0 : State} (h : Keeps s0 s) :
    ∀ z, execFigNextGo q s = .next z → Keeps s0 z := by
  unfold execFigNextGo
  intro z e
  refine Keeps.of_next ?_ e
  repeat' first
    | with_reducible assumption
    | with_reducible apply writeWord_keeps
    | with_reducible apply figNextWrite_keeps
    | intro _

theorem State.dwlPut_keeps (s : State) (c : Nat) (b : Nat) (x : Chan) {s0 : State} (h : Keeps s0 s) :
    Keeps s0 (State.dwlPut s c b x) := by
  unfold State.dwlPut
  repeat' first
    | with_reducible assumption
    | with_reducible apply State.setChan_keeps
    | with_reducible apply State.event_keeps
    | intro _
    | (extract_lets +onlyGivenNames xl; first
        | (refine (fun (hx : Keeps s0 xl) => ?_) ?_; rotate_left; unfold xl; clear xl; rotate_left; clear_value xl; revert xl; intro yl hy)
        | (clear_value xl; revert xl; intro yl)
        | (revert xl; intro yl))
    | split
    | (refine Keeps.of_snd (by with_reducible assumption) ?_)
    | with_reducible apply Keeps.mk' rfl rfl rfl rfl rfl rfl rfl rfl rfl

theorem State.dwlTry_keeps (s : State) (c : Nat) (mask : Nat) (air : Nat) {s0 : State} (h : Keeps s0 s) :
    Keeps s0 (State.dwlTry s c mask air) := by
  unfold State.dwlTry
  repeat' first
    | with_reducible assumption
    | with_reducible apply State.dwlPut_keeps
    | intro _
    | (extract_lets +onlyGivenNames xl; first
        | (refine (fun (hx : Keeps s0 xl) => ?_) ?_; rotate_left; unfold xl; clear xl; rotate_left; clear_value xl; revert xl; intro yl hy)
        | (clear_value xl; revert xl; intro yl)
        | (revert xl; intro yl))
    | split
    | with_reducible apply Keeps.foldl
    | with_reducible apply Keeps.foldl_snd2
    | with_reducible apply Keeps.foldl_snd
    | with_reducible apply Keeps.foldl_fst
    | (refine Keeps.of_snd (by with_reducible assumption) ?_)
    | with_reducible apply Keeps.mk' rfl rfl rfl rfl rfl rfl rfl rfl rfl

theorem State.dwlCharge_keeps (s : State) (c : Nat) (mask : Nat) (air : Nat) {s0 : State} (h : Keeps s0 s) :
    Keeps s0 (State.dwlCharge s c mask air) := by
  unfold State.dwlCharge
  repeat' first
    | with_reducible assumption
    | with_reducible apply State.dwlPut_keeps
    | intro _
    | (extract_lets +onlyGivenNames xl; first
        | (refine (fun (hx : Keeps s0 xl) => ?_) ?_; rotate_left; unfold xl; clear xl; rotate_left; clear_value xl; revert xl; intro yl hy)
        | (clear_value xl; revert xl; intro yl)
        | (revert xl; intro yl))
    | split
    | with_reducible apply Keeps.foldl
    | with_reducible apply Keeps.foldl_snd2
    | with_reducible apply Keeps.foldl_snd
    | with_reducible apply Keeps.foldl_fst
    | (refine Keeps.of_snd (by with_reducible assumption) ?_)
    | with_reducible apply Keeps.mk' rfl rfl rfl rfl rfl rfl rfl rfl rfl

theorem execDwlBucket_keeps (p : Fin 8) (s : State) {s0 : State} (h : Keeps s0 s) :
    ∀ z, execDwlBucket p s = .next z → Keeps s0 z := by
  unfold execDwlBucket
  intro z e
  refine Keeps.of_next ?_ e
  repeat' first
    | with_reducible assumption
    | with_reducible apply State.setChan_keeps
    | intro _
    | (extract_lets +onlyGivenNames xl; first
        | (clear_value xl; revert xl; intro yl)
        | (revert xl; intro yl))
    | split
    | with_reducible apply Keeps.foldl
    | with_reducible apply Keeps.foldl_snd2
    | with_reducible apply Keeps.foldl_snd
    | with_reducible apply Keeps.foldl_fst

theorem State.paAssert_keeps (s : State) (p : Nat) (t : Nat × Nat) {s0 : State} (h : Keeps s0 s) :
    Keeps s0 (State.paAssert s p t) := by
  unfold State.paAssert
  repeat' first
    | with_reducible assumption
    | with_reducible apply State.emit_keeps
    | with_reducible apply State.setPort_keeps
    | intro _
    | (extract_lets +onlyGivenNames xl; first
        | (refine (fun (hx : Keeps s0 xl) => ?_) ?_; rotate_left; unfold xl; clear xl; rotate_left; clear_value xl; revert xl; intro yl hy)
        | (clear_value xl; revert xl; intro yl)
        | (revert xl; intro yl))
    | split
    | (refine Keeps.of_snd (by with_reducible assumption) ?_)
    | with_reducible apply Keeps.mk' rfl rfl rfl rfl rfl rfl rfl rfl rfl

theorem State.portStart_keeps (s : State) (c : Nat) (cfg : List Word) (x : Tx) (p : Nat) {s0 : State} (h : Keeps s0 s) :
    Keeps s0 (State.portStart s c cfg x p) := by
  unfold State.portStart
  repeat' first
    | with_reducible assumption
    | with_reducible apply State.setFld_keeps
    | with_reducible apply State.setFlag_keeps
    | with_reducible apply State.setPort_keeps
    | with_reducible apply State.paAssert_keeps
    | intro _
    | (extract_lets +onlyGivenNames xl; first
        | (refine (fun (hx : Keeps s0 xl) => ?_) ?_; rotate_left; unfold xl; clear xl; rotate_left; clear_value xl; revert xl; intro yl hy)
        | (clear_value xl; revert xl; intro yl)
        | (revert xl; intro yl))
    | split
    | (refine Keeps.of_snd (by with_reducible assumption) ?_)
    | with_reducible apply Keeps.mk' rfl rfl rfl rfl rfl rfl rfl rfl rfl

theorem State.launch_keeps (s : State) (c : Nat) (cfg : List Word) (x : Tx) {s0 : State} (h : Keeps s0 s) :
    Keeps s0 (State.launch s c cfg x) := by
  unfold State.launch
  repeat' first
    | with_reducible assumption
    | with_reducible apply State.setChan_keeps
    | with_reducible apply State.setFlag_keeps
    | with_reducible apply State.emit_keeps
    | with_reducible apply State.bump_keeps
    | with_reducible apply State.dwlCharge_keeps
    | with_reducible apply State.portStart_keeps
    | intro _
    | (extract_lets +onlyGivenNames xl; first
        | (refine (fun (hx : Keeps s0 xl) => ?_) ?_; rotate_left; unfold xl; clear xl; rotate_left; clear_value xl; revert xl; intro yl hy)
        | (clear_value xl; revert xl; intro yl)
        | (revert xl; intro yl))
    | split
    | with_reducible apply Keeps.foldl
    | with_reducible apply Keeps.foldl_snd2
    | with_reducible apply Keeps.foldl_snd
    | with_reducible apply Keeps.foldl_fst
    | (refine Keeps.of_snd (by with_reducible assumption) ?_)
    | with_reducible apply Keeps.mk' rfl rfl rfl rfl rfl rfl rfl rfl rfl

theorem State.deferContend_keeps (s : State) (c : Nat) {s0 : State} (h : Keeps s0 s) :
    Keeps s0 (State.deferContend s c) := by
  unfold State.deferContend
  repeat' first
    | with_reducible assumption
    | with_reducible apply State.setChan_keeps
    | with_reducible apply State.mapFrames_keeps
    | with_reducible apply State.keepJobs_keeps
    | with_reducible apply State.event_keeps
    | with_reducible apply State.bump_keeps
    | (extract_lets +onlyGivenNames xl; first
        | (refine (fun (hx : Keeps s0 xl) => ?_) ?_; rotate_left; unfold xl; clear xl; rotate_left; clear_value xl; revert xl; intro yl hy)
        | (clear_value xl; revert xl; intro yl)
        | (revert xl; intro yl))
    | split

theorem execPriorityWindow_keeps (c : Fin 64) (i : Fin 4) (s : State) {s0 : State} (h : Keeps s0 s) :
    ∀ z, execPriorityWindow c i s = .next z → Keeps s0 z := by
  unfold execPriorityWindow
  intro z e
  refine Keeps.of_next ?_ e
  repeat' first
    | with_reducible assumption
    | with_reducible apply State.setChan_keeps
    | with_reducible apply State.emit_keeps
    | with_reducible apply State.freeNat_keeps
    | intro _
    | (extract_lets +onlyGivenNames xl; first
        | (refine (fun (hx : Keeps s0 xl) => ?_) ?_; rotate_left; unfold xl; clear xl; rotate_left; clear_value xl; revert xl; intro yl hy)
        | (refine (fun (hx : Keeps s0 xl.2) => ?_) ?_; rotate_left; unfold xl; clear xl; rotate_left; clear_value xl; revert xl; intro yl hy)
        | (clear_value xl; revert xl; intro yl)
        | (revert xl; intro yl))
    | split
    | (refine Keeps.of_snd (by with_reducible assumption) ?_)
    | with_reducible apply Keeps.mk' rfl rfl rfl rfl rfl rfl rfl rfl rfl

theorem execPriorityBurstRx_keeps (c : Fin 64) (i : Fin 4) (level : Nat) (s : State) {s0 : State} (h : Keeps s0 s) :
    ∀ z, execPriorityBurstRx c i level s = .next z → Keeps s0 z := by
  unfold execPriorityBurstRx
  intro z e
  refine Keeps.of_next ?_ e
  repeat' first
    | with_reducible assumption
    | with_reducible apply State.setChan_keeps
    | with_reducible apply State.deferContend_keeps
    | intro _
    | (extract_lets +onlyGivenNames xl; first
        | (refine (fun (hx : Keeps s0 xl) => ?_) ?_; rotate_left; unfold xl; clear xl; rotate_left; clear_value xl; revert xl; intro yl hy)
        | (clear_value xl; revert xl; intro yl)
        | (revert xl; intro yl))
    | split
    | (refine Keeps.of_snd (by with_reducible assumption) ?_)
    | with_reducible apply Keeps.mk' rfl rfl rfl rfl rfl rfl rfl rfl rfl

theorem State.cmdTrigger_keeps (s : State) (i : Nat) {s0 : State} (h : Keeps s0 s) :
    Keeps s0 (State.cmdTrigger s i) := by
  unfold State.cmdTrigger
  repeat' first
    | with_reducible assumption
    | with_reducible apply State.setChan_keeps
    | with_reducible apply State.setRegBit_keeps
    | intro _
    | (extract_lets +onlyGivenNames xl; first
        | (refine (fun (hx : Keeps s0 xl) => ?_) ?_; rotate_left; unfold xl; clear xl; rotate_left; clear_value xl; revert xl; intro yl hy)
        | (clear_value xl; revert xl; intro yl)
        | (revert xl; intro yl))
    | split
    | (refine Keeps.of_snd (by with_reducible assumption) ?_)
    | with_reducible apply Keeps.mk' rfl rfl rfl rfl rfl rfl rfl rfl rfl

theorem State.cmdEnd_keeps (s : State) (c : Nat) (i : Nat) {s0 : State} (h : Keeps s0 s) :
    Keeps s0 (State.cmdEnd s c i) := by
  unfold State.cmdEnd
  repeat' first
    | with_reducible assumption
    | with_reducible apply State.setRegBit_keeps
    | with_reducible apply State.setChan_keeps
    | (extract_lets +onlyGivenNames xl; first
        | (clear_value xl; revert xl; intro yl)
        | (revert xl; intro yl))

theorem execCmdInActivate_keeps (i : Fin 8) (s : State) {s0 : State} (h : Keeps s0 s) :
    ∀ z, execCmdInActivate i s = .next z → Keeps s0 z := by
  unfold execCmdInActivate
  intro z e
  refine Keeps.of_next ?_ e
  repeat' first
    | with_reducible assumption
    | with_reducible apply State.cmdTrigger_keeps
    | with_reducible apply State.lineActive_keeps
    | intro _
    | (extract_lets +onlyGivenNames xl; first
        | (refine (fun (hx : Keeps s0 xl) => ?_) ?_; rotate_left; unfold xl; clear xl; rotate_left; clear_value xl; revert xl; intro yl hy)
        | (clear_value xl; revert xl; intro yl)
        | (revert xl; intro yl))
    | split
    | (refine Keeps.of_snd (by with_reducible assumption) ?_)
    | with_reducible apply Keeps.mk' rfl rfl rfl rfl rfl rfl rfl rfl rfl

theorem State.deferTx_keeps (s : State) (c : Nat) {s0 : State} (h : Keeps s0 s) :
    Keeps s0 (State.deferTx s c) := by
  unfold State.deferTx
  repeat' first
    | with_reducible assumption
    | with_reducible apply State.event_keeps
    | with_reducible apply State.bump_keeps
    | intro _
    | split
    | with_reducible apply Keeps.mk' rfl rfl rfl rfl rfl rfl rfl rfl rfl

theorem State.cmdHold_keeps (s : State) (c : Nat) (lines : List Nat) (ledger : Bool) {s0 : State} (h : Keeps s0 s) :
    Keeps s0 (State.cmdHold s c lines ledger) := by
  unfold State.cmdHold
  repeat' first
    | with_reducible assumption
    | with_reducible apply State.setChan_keeps
    | with_reducible apply State.bump_keeps
    | with_reducible apply State.deferTx_keeps
    | intro _
    | (extract_lets +onlyGivenNames xl; first
        | (refine (fun (hx : Keeps s0 xl) => ?_) ?_; rotate_left; unfold xl; clear xl; rotate_left; clear_value xl; revert xl; intro yl hy)
        | (clear_value xl; revert xl; intro yl)
        | (revert xl; intro yl))
    | split
    | (refine Keeps.of_snd (by with_reducible assumption) ?_)
    | with_reducible apply Keeps.mk' rfl rfl rfl rfl rfl rfl rfl rfl rfl

theorem execCmdCopySend_keeps (c : Fin 64) (overlap : List Nat) (s : State) {s0 : State} (h : Keeps s0 s) :
    ∀ z, execCmdCopySend c overlap s = .next z → Keeps s0 z := by
  unfold execCmdCopySend
  intro z e
  refine Keeps.of_next ?_ e
  clear e
  extract_lets ch lines spend
  have hs : ∀ u, Keeps s0 u → Keeps s0 (spend u) := by
    intro u hu
    unfold spend
    extract_lets x s1
    have h1 : Keeps s0 s1 := State.setChan_keeps _ _ _ hu
    clear_value s1
    refine Keeps.foldl h1 fun t i ht => ?_
    split
    · exact State.cmdEnd_keeps _ _ _ ht
    · exact ht
  clear_value spend lines
  split
  · exact h
  · split
    · exact h
    · split
      · exact hs _ (State.event_keeps _ _ _ h)
      · split
        · exact State.cmdHold_keeps _ _ _ _ h
        · extract_lets s1 mute chips s2 src s3 s4 s5
          have h1 : Keeps s0 s1 := State.dwlTry_keeps _ _ _ _ h
          clear_value s1
          have h2 : Keeps s0 s2 := State.event_keeps _ _ _ (State.bump_keeps _ _ _ (State.emit_keeps _ _ h1))
          clear_value s2
          have h3 : Keeps s0 s3 := by
            unfold s3
            split
            · exact State.bumpBy_keeps _ _ _ _ (State.setChan_keeps _ _ _ h2)
            · exact h2
          clear_value s3
          split
          · exact State.cmdHold_keeps _ _ _ _ h1
          · have h4 : Keeps s0 s4 := State.dwlCharge_keeps _ _ _ _ h3
            clear_value s4
            have h5 : Keeps s0 s5 := by
              unfold s5
              split
              · exact h4
              · exact State.bump_keeps _ _ _ h4
            clear_value s5
            refine hs _ ?_
            split
            · exact State.bump_keeps _ _ _ h5
            · exact h5

theorem execCmdRepeat_keeps (i : Fin 8) (persist : Bool) (s : State) {s0 : State} (h : Keeps s0 s) :
    ∀ z, execCmdRepeat i persist s = .next z → Keeps s0 z := by
  unfold execCmdRepeat
  intro z e
  refine Keeps.of_next ?_ e
  repeat' first
    | with_reducible assumption
    | with_reducible apply State.setChan_keeps
    | with_reducible apply State.cmdEnd_keeps
    | intro _
    | (extract_lets +onlyGivenNames xl; first
        | (refine (fun (hx : Keeps s0 xl) => ?_) ?_; rotate_left; unfold xl; clear xl; rotate_left; clear_value xl; revert xl; intro yl hy)
        | (clear_value xl; revert xl; intro yl)
        | (revert xl; intro yl))
    | split
    | (refine Keeps.of_snd (by with_reducible assumption) ?_)
    | with_reducible apply Keeps.mk' rfl rfl rfl rfl rfl rfl rfl rfl rfl

theorem State.cmdErase_keeps (s : State) (c : Nat) (overlap : List Nat) {s0 : State} (h : Keeps s0 s) :
    Keeps s0 (State.cmdErase s c overlap) := by
  unfold State.cmdErase
  repeat' first
    | with_reducible assumption
    | with_reducible apply State.setChan_keeps
    | intro _
    | (extract_lets +onlyGivenNames xl; first
        | (refine (fun (hx : Keeps s0 xl) => ?_) ?_; rotate_left; unfold xl; clear xl; rotate_left; clear_value xl; revert xl; intro yl hy)
        | (clear_value xl; revert xl; intro yl)
        | (revert xl; intro yl))
    | split
    | (refine Keeps.of_snd (by with_reducible assumption) ?_)
    | with_reducible apply Keeps.mk' rfl rfl rfl rfl rfl rfl rfl rfl rfl

theorem execCmdDetect_keeps (c : Fin 64) (lines : Nat) (rho : Nat) (overlap : List Nat) (s : State) {s0 : State} (h : Keeps s0 s) :
    ∀ z, execCmdDetect c lines rho overlap s = .next z → Keeps s0 z := by
  unfold execCmdDetect
  intro z e
  refine Keeps.of_next ?_ e
  repeat' first
    | with_reducible assumption
    | with_reducible apply State.event_keeps
    | with_reducible apply State.setReg_keeps
    | with_reducible apply State.bump_keeps
    | with_reducible apply State.cmdTrigger_keeps
    | with_reducible apply State.cmdErase_keeps
    | with_reducible apply State.outDetect_keeps
    | intro _
    | (extract_lets +onlyGivenNames xl; first
        | (refine (fun (hx : Keeps s0 xl) => ?_) ?_; rotate_left; unfold xl; clear xl; rotate_left; clear_value xl; revert xl; intro yl hy)
        | (clear_value xl; revert xl; intro yl)
        | (revert xl; intro yl))
    | split
    | with_reducible apply Keeps.foldl
    | with_reducible apply Keeps.foldl_snd2
    | with_reducible apply Keeps.foldl_snd
    | with_reducible apply Keeps.foldl_fst
    | (refine Keeps.of_snd (by with_reducible assumption) ?_)
    | with_reducible apply Keeps.mk' rfl rfl rfl rfl rfl rfl rfl rfl rfl

end Sys2Proof.Machine
end

