-- ==== Sys2Proof/Laws/Keeps/Directory.lean ====
section
/-! SUPPORT. That every operation of Directory keeps the relation of Laws/Keeps. -/

set_option Elab.async false

namespace Sys2Proof.Machine

theorem State.dirBytes_keeps (s : State) (a : Nat) (bs : List Nat) {s0 : State} (h : Keeps s0 s) :
    Keeps s0 (State.dirBytes s a bs) := by
  refine h.setMem fun hm => ?_
  rw [Mem.wf_iff] at hm ⊢
  exact ⟨hm.1, storePutList_wf _ hm.2.1, hm.2.2.1, hm.2.2.2⟩

theorem State.dirPut_keeps (s : State) (i : Nat) (k : Nat) (bs : List Nat) {s0 : State} (h : Keeps s0 s) :
    Keeps s0 (State.dirPut s i k bs) := by
  unfold State.dirPut
  repeat' first
    | with_reducible assumption
    | with_reducible apply State.dirBytes_keeps

theorem State.dirPutLe_keeps (s : State) (i : Nat) (k : Nat) (n : Nat) (v : Nat) {s0 : State} (h : Keeps s0 s) :
    Keeps s0 (State.dirPutLe s i k n v) := by
  unfold State.dirPutLe
  repeat' first
    | with_reducible assumption
    | with_reducible apply State.dirPut_keeps

theorem State.dirSetFlag_keeps (s : State) (i : Nat) (b : Nat) (v : Bool) {s0 : State} (h : Keeps s0 s) :
    Keeps s0 (State.dirSetFlag s i b v) := by
  unfold State.dirSetFlag
  repeat' first
    | with_reducible assumption
    | with_reducible apply State.dirPut_keeps

theorem State.dirCount_keeps (s : State) (i : Nat) (k : Nat) (n : Nat) {s0 : State} (h : Keeps s0 s) :
    Keeps s0 (State.dirCount s i k n) := by
  unfold State.dirCount
  repeat' first
    | with_reducible assumption
    | with_reducible apply State.dirPutLe_keeps

theorem State.dirErase_keeps (s : State) (i : Nat) {s0 : State} (h : Keeps s0 s) :
    Keeps s0 (State.dirErase s i) := by
  unfold State.dirErase
  repeat' first
    | with_reducible assumption
    | with_reducible apply State.dirPut_keeps

theorem State.dirMake_keeps (s : State) (i : Nat) (x : Nat) (owner : Nat) (flags : Nat) {s0 : State} (h : Keeps s0 s) :
    Keeps s0 (State.dirMake s i x owner flags) := by
  unfold State.dirMake
  repeat' first
    | with_reducible assumption
    | with_reducible apply State.dirPut_keeps
    | with_reducible apply State.dirPutLe_keeps
    | with_reducible apply State.dirErase_keeps

theorem State.dirLearn_keeps (s : State) (x : Nat) {s0 : State} (h : Keeps s0 s) :
    Keeps s0 (State.dirLearn s x) := by
  unfold State.dirLearn
  repeat' first
    | with_reducible assumption
    | with_reducible apply State.bump_keeps
    | with_reducible apply State.dirMake_keeps
    | with_reducible apply State.event_keeps
    | (extract_lets +onlyGivenNames xl; first
        | (refine (fun (hx : Keeps s0 xl) => ?_) ?_; rotate_left; unfold xl; clear xl; rotate_left; clear_value xl; revert xl; intro yl hy))
    | split

theorem State.dirCache_keeps (s : State) (i : Nat) {s0 : State} (h : Keeps s0 s) :
    Keeps s0 (State.dirCache s i) := by
  unfold State.dirCache
  repeat' first
    | with_reducible assumption
    | with_reducible apply State.take_keeps
    | intro _
    | (extract_lets +onlyGivenNames xl; first
        | (refine (fun (hx : Keeps s0 xl) => ?_) ?_; rotate_left; unfold xl; clear xl; rotate_left; clear_value xl; revert xl; intro yl hy)
        | (refine (fun (hx : Keeps s0 xl.2) => ?_) ?_; rotate_left; unfold xl; clear xl; rotate_left; clear_value xl; revert xl; intro yl hy)
        | (clear_value xl; revert xl; intro yl)
        | (revert xl; intro yl))
    | split
    | (refine Keeps.of_snd (by with_reducible assumption) ?_)
    | with_reducible apply Keeps.mk' rfl rfl rfl rfl rfl rfl rfl rfl rfl

theorem State.dirFetch_keeps (s : State) (x : Nat) {s0 : State} (h : Keeps s0 s) :
    Keeps s0 (State.dirFetch s x) := by
  unfold State.dirFetch
  repeat' first
    | with_reducible assumption
    | with_reducible apply State.bump_keeps
    | (extract_lets +onlyGivenNames xl; first
        | (clear_value xl; revert xl; intro yl)
        | (revert xl; intro yl))
    | split
    | with_reducible apply Keeps.mk' rfl rfl rfl rfl rfl rfl rfl rfl rfl

theorem State.dirMiss_keeps (s : State) (x : Nat) {s0 : State} (h : Keeps s0 s) :
    Keeps s0 (State.dirMiss s x) := by
  unfold State.dirMiss
  repeat' first
    | with_reducible assumption
    | with_reducible apply State.dirFetch_keeps
    | with_reducible apply State.bump_keeps
    | (extract_lets +onlyGivenNames xl; first
        | (refine (fun (hx : Keeps s0 xl) => ?_) ?_; rotate_left; unfold xl; clear xl; rotate_left; clear_value xl; revert xl; intro yl hy))
    | split

theorem State.dirHeard_keeps (s : State) (x : Nat) (epoch : Nat) (route : Option (Nat × Nat)) {s0 : State} (h : Keeps s0 s) :
    Keeps s0 (State.dirHeard s x epoch route) := by
  unfold State.dirHeard
  repeat' first
    | with_reducible assumption
    | with_reducible apply State.dirLearn_keeps
    | with_reducible apply State.dirCache_keeps
    | with_reducible apply State.dirCount_keeps
    | with_reducible apply State.dirPut_keeps
    | with_reducible apply State.dirPutLe_keeps
    | with_reducible apply State.dirSetFlag_keeps
    | (extract_lets +onlyGivenNames xl; first
        | (refine (fun (hx : Keeps s0 xl) => ?_) ?_; rotate_left; unfold xl; clear xl; rotate_left; clear_value xl; revert xl; intro yl hy))
    | split

end Sys2Proof.Machine
end

