-- ==== Sys2Proof/Laws/Keeps/Tenants.lean ====
section
/-! SUPPORT. That every operation of Tenants keeps the relation of Laws/Keeps. -/

set_option Elab.async false

namespace Sys2Proof.Machine

theorem State.setTenant_keeps (s : State) (t : Fin 8) (x : Tenant) {s0 : State} (h : Keeps s0 s) :
    Keeps s0 (State.setTenant s t x) := by
  unfold State.setTenant
  repeat' first
    | with_reducible assumption
    | (extract_lets +onlyGivenNames xl; first
        | (clear_value xl; revert xl; intro yl)
        | (revert xl; intro yl))
    | with_reducible apply Keeps.mk' rfl rfl rfl rfl rfl rfl rfl rfl rfl

theorem State.newId_keeps (s : State) {s0 : State} (h : Keeps s0 s) :
    Keeps s0 (State.newId s).2 := by
  unfold State.newId
  repeat' first
    | with_reducible assumption
    | (extract_lets +onlyGivenNames xl; first
        | (clear_value xl; revert xl; intro yl)
        | (revert xl; intro yl))
    | with_reducible apply Keeps.mk' rfl rfl rfl rfl rfl rfl rfl rfl rfl

theorem State.tenFault_keeps (s : State) (t : Fin 8) (i : Nat) (detail : Nat) {s0 : State} (h : Keeps s0 s) :
    Keeps s0 (State.tenFault s t i detail) := by
  unfold State.tenFault
  repeat' first
    | with_reducible assumption
    | with_reducible apply State.fault_keeps

theorem State.awaitMirror_keeps (s : State) (a : Await) (data : List Nat) {s0 : State} (h : Keeps s0 s) :
    Keeps s0 (State.awaitMirror s a data) := by
  unfold State.awaitMirror
  repeat' first
    | with_reducible assumption
    | with_reducible apply State.bump_keeps
    | with_reducible apply State.emit_keeps
    | (extract_lets +onlyGivenNames xl; first
        | (clear_value xl; revert xl; intro yl)
        | (revert xl; intro yl))
    | with_reducible apply Keeps.mk' rfl rfl rfl rfl rfl rfl rfl rfl rfl

theorem State.quotas_keeps (s : State) {s0 : State} (h : Keeps s0 s) :
    Keeps s0 (State.quotas s) := by
  unfold State.quotas
  repeat' first
    | with_reducible assumption
    | with_reducible apply State.setTenant_keeps
    | with_reducible apply State.event_keeps
    | intro _
    | (extract_lets +onlyGivenNames xl; first
        | (refine (fun (hx : Keeps s0 xl) => ?_) ?_; rotate_left; unfold xl; clear xl; rotate_left; clear_value xl; revert xl; intro yl hy)
        | (clear_value xl; revert xl; intro yl)
        | (revert xl; intro yl))
    | split
    | with_reducible apply Keeps.foldl
    | with_reducible apply Keeps.foldl_snd2
    | with_reducible apply Keeps.foldl_snd
    | with_reducible apply Keeps.foldl_fst

theorem State.qmemFetch_keeps (s : State) (t : Fin 8) (off : Nat) (len : Nat) (ring : Nat) (o : Fetched) {s0 : State} (h : Keeps s0 s) :
    Keeps s0 (State.qmemFetch s t off len ring o).2 := by
  unfold State.qmemFetch
  repeat' first
    | with_reducible assumption
    | with_reducible apply State.tenFault_keeps
    | (extract_lets +onlyGivenNames xl; first
        | (clear_value xl; revert xl; intro yl)
        | (revert xl; intro yl))
    | split

theorem State.qmemWrite_keeps (s : State) (t : Fin 8) (off : Nat) (bs : List Nat) {s0 : State} (h : Keeps s0 s) :
    Keeps s0 (State.qmemWrite s t off bs) := by
  refine h.setMem fun hm => ?_
  rw [Mem.wf_iff] at hm ⊢
  exact ⟨storePutList_wf _ hm.1, hm.2.1, hm.2.2.1, hm.2.2.2⟩

theorem State.setRing_keeps (s : State) (t : Fin 8) (q : Nat) (f : Fld) (v : Nat) {s0 : State} (h : Keeps s0 s) :
    Keeps s0 (State.setRing s t q f v) := by
  unfold State.setRing
  repeat' first
    | with_reducible assumption
    | with_reducible apply State.setFld_keeps

theorem State.issueFetch_keeps (s : State) {s0 : State} (h : Keeps s0 s) :
    Keeps s0 (State.issueFetch s) := by
  unfold State.issueFetch
  repeat' first
    | with_reducible assumption
    | with_reducible apply State.setTenant_keeps
    | with_reducible apply State.emit_keeps
    | (extract_lets +onlyGivenNames xl; first
        | (refine (fun (hx : Keeps s0 xl) => ?_) ?_; rotate_left; unfold xl; clear xl; rotate_left; clear_value xl; revert xl; intro yl hy)
        | (clear_value xl; revert xl; intro yl)
        | (revert xl; intro yl))
    | split
    | with_reducible apply Keeps.mk' rfl rfl rfl rfl rfl rfl rfl rfl rfl

theorem State.postComp_keeps (s : State) (t : Fin 8) (q : Nat) (bytes : List Nat) (head : Bool) (covers : Nat) {s0 : State} (h : Keeps s0 s) :
    Keeps s0 (State.postComp s t q bytes head covers) := by
  unfold State.postComp
  repeat' first
    | with_reducible assumption
    | with_reducible apply State.newId_keeps
    | with_reducible apply State.setTenant_keeps
    | with_reducible apply State.awaitMirror_keeps
    | (extract_lets +onlyGivenNames xl; first
        | (refine (fun (hx : Keeps s0 xl) => ?_) ?_; rotate_left; unfold xl; clear xl; rotate_left; clear_value xl; revert xl; intro yl hy)
        | (refine (fun (hx : Keeps s0 xl.2) => ?_) ?_; rotate_left; unfold xl; clear xl; rotate_left; clear_value xl; revert xl; intro yl hy)
        | (clear_value xl; revert xl; intro yl)
        | (revert xl; intro yl))
    | split
    | (refine Keeps.of_snd (by with_reducible assumption) ?_)

theorem State.fences_keeps (s : State) (t : Fin 8) {s0 : State} (h : Keeps s0 s) :
    Keeps s0 (State.fences s t) := by
  unfold State.fences
  repeat' first
    | with_reducible assumption
    | with_reducible apply State.postComp_keeps
    | with_reducible apply State.setTenant_keeps
    | intro _
    | (extract_lets +onlyGivenNames xl; first
        | (clear_value xl; revert xl; intro yl)
        | (revert xl; intro yl))
    | split
    | with_reducible apply Keeps.foldl
    | with_reducible apply Keeps.foldl_snd2
    | with_reducible apply Keeps.foldl_snd
    | with_reducible apply Keeps.foldl_fst

theorem State.completeMsg_keeps (s : State) (t : Fin 8) (m : Msg) (status : Nat) {s0 : State} (h : Keeps s0 s) :
    Keeps s0 (State.completeMsg s t m status) := by
  unfold State.completeMsg
  repeat' first
    | with_reducible assumption
    | with_reducible apply State.postComp_keeps
    | with_reducible apply State.bump_keeps
    | with_reducible apply State.setTenant_keeps
    | with_reducible apply State.histSample_keeps
    | with_reducible apply State.fences_keeps
    | (extract_lets +onlyGivenNames xl; first
        | (refine (fun (hx : Keeps s0 xl) => ?_) ?_; rotate_left; unfold xl; clear xl; rotate_left; clear_value xl; revert xl; intro yl hy)
        | (clear_value xl; revert xl; intro yl)
        | (revert xl; intro yl))
    | split

theorem State.dropFrames_keeps (s : State) (m : Nat) {s0 : State} (h : Keeps s0 s) :
    Keeps s0 (State.dropFrames s m) := by
  unfold State.dropFrames
  repeat' first
    | with_reducible assumption
    | (extract_lets +onlyGivenNames xl; first
        | (clear_value xl; revert xl; intro yl)
        | (revert xl; intro yl))
    | split
    | with_reducible apply Keeps.mk' rfl rfl rfl rfl rfl rfl rfl rfl rfl

theorem State.returnBuf_keeps (s : State) (t : Fin 8) (b : Buf) (status : Nat) {s0 : State} (h : Keeps s0 s) :
    Keeps s0 (State.returnBuf s t b status) := by
  unfold State.returnBuf
  repeat' first
    | with_reducible assumption
    | with_reducible apply State.postComp_keeps

theorem State.dmaFault_keeps (s : State) (t : Fin 8) (q : Nat) (cq : Bool) {s0 : State} (h : Keeps s0 s) :
    Keeps s0 (State.dmaFault s t q cq) := by
  unfold State.dmaFault
  repeat' first
    | with_reducible assumption
    | with_reducible apply State.fault_keeps
    | with_reducible apply State.tenFault_keeps
    | (extract_lets +onlyGivenNames xl; first
        | (clear_value xl; revert xl; intro yl)
        | (revert xl; intro yl))
    | split

theorem State.compWritten_keeps (s : State) (t : Fin 8) (q : Nat) (ok : Bool) {s0 : State} (h : Keeps s0 s) :
    Keeps s0 (State.compWritten s t q ok) := by
  unfold State.compWritten
  repeat' first
    | with_reducible assumption
    | with_reducible apply State.dmaFault_keeps
    | with_reducible apply State.setRing_keeps
    | with_reducible apply State.qmemWrite_keeps
    | with_reducible apply State.emit_keeps
    | with_reducible apply State.withVec_keeps
    | with_reducible apply State.setTenant_keeps
    | intro _
    | (extract_lets +onlyGivenNames xl; first
        | (refine (fun (hx : Keeps s0 xl) => ?_) ?_; rotate_left; unfold xl; clear xl; rotate_left; clear_value xl; revert xl; intro yl hy)
        | (clear_value xl; revert xl; intro yl)
        | (revert xl; intro yl))
    | split

end Sys2Proof.Machine
end

