-- ==== Sys2Proof/Laws/Keeps/Keys.lean ====
section
/-! SUPPORT. That every operation of Keys keeps the relation of Laws/Keeps. -/

set_option Elab.async false

namespace Sys2Proof.Machine

theorem State.postCr_keeps (s : State) (t : Fin 8) (d : List Nat) (status : Nat) (slot : Nat) (nonce : List Nat) (outLen : Nat) {s0 : State} (h : Keeps s0 s) :
    Keeps s0 (State.postCr s t d status slot nonce outLen) := by
  unfold State.postCr
  repeat' first
    | with_reducible assumption
    | with_reducible apply State.bump_keeps
    | with_reducible apply State.postComp_keeps
    | (extract_lets +onlyGivenNames xl; first
        | (clear_value xl; revert xl; intro yl)
        | (revert xl; intro yl))
    | split

theorem State.putSlot_keeps (s : State) (k : Nat) (x : KeySlot) {s0 : State} (h : Keeps s0 s) :
    Keeps s0 (State.putSlot s k x) := by
  unfold State.putSlot
  repeat' first
    | with_reducible assumption
    | (extract_lets +onlyGivenNames xl; first
        | (clear_value xl; revert xl; intro yl)
        | (revert xl; intro yl))
    | with_reducible apply Keeps.mk' rfl rfl rfl rfl rfl rfl rfl rfl rfl

theorem State.delSlot_keeps (s : State) (k : Nat) (tell : Bool) {s0 : State} (h : Keeps s0 s) :
    Keeps s0 (State.delSlot s k tell) := by
  unfold State.delSlot
  repeat' first
    | with_reducible assumption
    | with_reducible apply State.event_keeps
    | (extract_lets +onlyGivenNames xl; first
        | (refine (fun (hx : Keeps s0 xl) => ?_) ?_; rotate_left; unfold xl; clear xl; rotate_left; clear_value xl; revert xl; intro yl hy)
        | (clear_value xl; revert xl; intro yl)
        | (revert xl; intro yl))
    | split
    | with_reducible apply Keeps.mk' rfl rfl rfl rfl rfl rfl rfl rfl rfl

theorem State.useSlot_keeps (s : State) (k : Nat) {s0 : State} (h : Keeps s0 s) :
    Keeps s0 (State.useSlot s k) := by
  unfold State.useSlot
  repeat' first
    | with_reducible assumption
    | (extract_lets +onlyGivenNames xl; first
        | (clear_value xl; revert xl; intro yl)
        | (revert xl; intro yl))
    | split
    | with_reducible apply Keeps.mk' rfl rfl rfl rfl rfl rfl rfl rfl rfl

theorem State.nvmRows_keeps (s : State) {s0 : State} (h : Keeps s0 s) :
    Keeps s0 (State.nvmRows s) := by
  unfold State.nvmRows
  repeat' first
    | with_reducible assumption
    | with_reducible apply State.freeNat_keeps
    | with_reducible apply State.bumpBy_keeps
    | (extract_lets +onlyGivenNames xl; first
        | (refine (fun (hx : Keeps s0 xl.2) => ?_) ?_; rotate_left; unfold xl; clear xl; rotate_left; clear_value xl; revert xl; intro yl hy))
    | (refine Keeps.of_snd (by with_reducible assumption) ?_)

theorem State.saveSlot_keeps (s : State) (k : Nat) (d : Option DeriveCmd) {s0 : State} (h : Keeps s0 s) :
    Keeps s0 (State.saveSlot s k d) := by
  unfold State.saveSlot
  repeat' first
    | with_reducible assumption
    | with_reducible apply State.nvmRows_keeps
    | (extract_lets +onlyGivenNames xl; first
        | (clear_value xl; revert xl; intro yl)
        | (revert xl; intro yl))
    | split
    | with_reducible apply Keeps.mk' rfl rfl rfl rfl rfl rfl rfl rfl rfl

theorem State.setPk_keeps (s : State) (k : Nat) (e : Pk) {s0 : State} (h : Keeps s0 s) :
    Keeps s0 (State.setPk s k e) := by
  unfold State.setPk
  repeat' first
    | with_reducible assumption
    | with_reducible apply State.nvmRows_keeps
    | (extract_lets +onlyGivenNames xl; first
        | (clear_value xl; revert xl; intro yl)
        | (revert xl; intro yl))
    | with_reducible apply Keeps.mk' rfl rfl rfl rfl rfl rfl rfl rfl rfl

theorem State.unwrapFail_keeps (s : State) {s0 : State} (h : Keeps s0 s) :
    Keeps s0 (State.unwrapFail s) := by
  unfold State.unwrapFail
  repeat' first
    | with_reducible assumption
    | with_reducible apply State.event_keeps
    | with_reducible apply State.bump_keeps

theorem State.resolveHandle_keeps (s : State) (a1 : Nat) (readable : Bool) {s0 : State} (h : Keeps s0 s) :
    Keeps s0 (State.resolveHandle s a1 readable).2 := by
  unfold State.resolveHandle
  repeat' first
    | with_reducible assumption
    | with_reducible apply State.unwrapFail_keeps
    | with_reducible apply State.bump_keeps
    | with_reducible apply State.useSlot_keeps
    | with_reducible apply State.putSlot_keeps
    | (extract_lets +onlyGivenNames xl; first
        | (clear_value xl; revert xl; intro yl)
        | (revert xl; intro yl))
    | split

theorem State.pkLoadCmd_keeps (s : State) {s0 : State} (h : Keeps s0 s) :
    Keeps s0 (State.pkLoadCmd s).2.2 := by
  unfold State.pkLoadCmd
  repeat' first
    | with_reducible assumption
    | with_reducible apply State.setPk_keeps
    | (extract_lets +onlyGivenNames xl; first
        | (clear_value xl; revert xl; intro yl)
        | (revert xl; intro yl))
    | split

theorem State.pkClearCmd_keeps (s : State) {s0 : State} (h : Keeps s0 s) :
    Keeps s0 (State.pkClearCmd s).2.2 := by
  unfold State.pkClearCmd
  repeat' first
    | with_reducible assumption
    | with_reducible apply State.setPk_keeps
    | (extract_lets +onlyGivenNames xl; first
        | (clear_value xl; revert xl; intro yl)
        | (revert xl; intro yl))
    | split

theorem State.deriveRun_keeps (s : State) {s0 : State} (h : Keeps s0 s) :
    Keeps s0 (State.deriveRun s).2.2 := by
  unfold State.deriveRun
  repeat' first
    | with_reducible assumption
    | with_reducible apply State.saveSlot_keeps
    | with_reducible apply State.useSlot_keeps
    | with_reducible apply State.putSlot_keeps
    | (extract_lets +onlyGivenNames xl; first
        | (clear_value xl; revert xl; intro yl)
        | (revert xl; intro yl))
    | split

theorem State.groupLoadCmd_keeps (s : State) {s0 : State} (h : Keeps s0 s) :
    Keeps s0 (State.groupLoadCmd s).2.2 := by
  unfold State.groupLoadCmd
  repeat' first
    | with_reducible assumption
    | with_reducible apply State.saveSlot_keeps
    | with_reducible apply State.useSlot_keeps
    | with_reducible apply State.putSlot_keeps
    | (extract_lets +onlyGivenNames xl; first
        | (clear_value xl; revert xl; intro yl)
        | (revert xl; intro yl))
    | split

theorem State.ownLoadCmd_keeps (s : State) {s0 : State} (h : Keeps s0 s) :
    Keeps s0 (State.ownLoadCmd s).2.2 := by
  unfold State.ownLoadCmd
  repeat' first
    | with_reducible assumption
    | with_reducible apply State.saveSlot_keeps
    | with_reducible apply State.useSlot_keeps
    | with_reducible apply State.putSlot_keeps
    | (extract_lets +onlyGivenNames xl; first
        | (clear_value xl; revert xl; intro yl)
        | (revert xl; intro yl))
    | split

theorem State.wktPutCmd_keeps (s : State) {s0 : State} (h : Keeps s0 s) :
    Keeps s0 (State.wktPutCmd s).2.2 := by
  unfold State.wktPutCmd
  repeat' first
    | with_reducible assumption
    | with_reducible apply State.bumpBy_keeps
    | with_reducible apply State.delSlot_keeps
    | (extract_lets +onlyGivenNames xl; first
        | (refine (fun (hx : Keeps s0 xl) => ?_) ?_; rotate_left; unfold xl; clear xl; rotate_left; clear_value xl; revert xl; intro yl hy)
        | (clear_value xl; revert xl; intro yl)
        | (revert xl; intro yl))
    | split
    | with_reducible apply Keeps.mk' rfl rfl rfl rfl rfl rfl rfl rfl rfl

theorem State.slotQueryCmd_keeps (s : State) {s0 : State} (h : Keeps s0 s) :
    Keeps s0 (State.slotQueryCmd s).2.2 := by
  unfold State.slotQueryCmd
  repeat' first
    | with_reducible assumption
    | with_reducible apply State.setReg_keeps
    | intro _
    | with_reducible apply hg
    | with_reducible apply hg1
    | with_reducible apply hg2
    | (extract_lets +onlyGivenNames xl; first
        | (refine (fun (hx : ∀ t, Keeps s0 t → Keeps s0 (xl t)) => ?_) ?_; rotate_left; unfold xl; clear xl; rotate_left; clear_value xl; revert xl; intro yg hg1)
        | (refine (fun (hx : ∀ t a, Keeps s0 t → Keeps s0 (xl t a)) => ?_) ?_; rotate_left; unfold xl; clear xl; rotate_left; clear_value xl; revert xl; intro yg hg2)
        | (refine (fun (hx : ∀ t a b, Keeps s0 t → Keeps s0 (xl t a b)) => ?_) ?_; rotate_left; unfold xl; clear xl; rotate_left; clear_value xl; revert xl; intro yg hg)
        | (refine (fun (hx : ∀ t a b c, Keeps s0 t → Keeps s0 (xl t a b c)) => ?_) ?_; rotate_left; unfold xl; clear xl; rotate_left; clear_value xl; revert xl; intro yg hg)
        | (refine (fun (hx : ∀ a, Keeps s0 (xl a)) => ?_) ?_; rotate_left; unfold xl; clear xl; rotate_left; clear_value xl; revert xl; intro yg hg)
        | (refine (fun (hx : ∀ a b, Keeps s0 (xl a b)) => ?_) ?_; rotate_left; unfold xl; clear xl; rotate_left; clear_value xl; revert xl; intro yg hg)
        | (clear_value xl; revert xl; intro yl)
        | (revert xl; intro yl))
    | split

theorem State.slotClearCmd_keeps (s : State) {s0 : State} (h : Keeps s0 s) :
    Keeps s0 (State.slotClearCmd s).2.2 := by
  unfold State.slotClearCmd
  repeat' first
    | with_reducible assumption
    | with_reducible apply State.delSlot_keeps
    | with_reducible apply State.saveSlot_keeps
    | (extract_lets +onlyGivenNames xl; first
        | (refine (fun (hx : Keeps s0 xl) => ?_) ?_; rotate_left; unfold xl; clear xl; rotate_left; clear_value xl; revert xl; intro yl hy)
        | (clear_value xl; revert xl; intro yl)
        | (revert xl; intro yl))
    | split

theorem State.keyOp_keeps (s : State) {s0 : State} (h : Keeps s0 s) :
    Keeps s0 (State.keyOp s).2.2 := by
  unfold State.keyOp
  repeat' first
    | with_reducible assumption
    | with_reducible apply State.pkLoadCmd_keeps
    | with_reducible apply State.pkClearCmd_keeps
    | with_reducible apply State.deriveRun_keeps
    | with_reducible apply State.groupLoadCmd_keeps
    | with_reducible apply State.ownLoadCmd_keeps
    | with_reducible apply State.wktPutCmd_keeps
    | with_reducible apply State.slotQueryCmd_keeps
    | with_reducible apply State.slotClearCmd_keeps
    | split
    | (refine Keeps.of_snd2 (by with_reducible assumption) ?_)

theorem State.keyEnd_keeps (r : Nat × Nat) (s : State) {s0 : State} (h : Keeps s0 s) :
    Keeps s0 (State.keyEnd r s) := by
  unfold State.keyEnd
  repeat' first
    | with_reducible assumption
    | with_reducible apply State.unwrapFail_keeps
    | with_reducible apply State.bump_keeps
    | with_reducible apply State.setReg_keeps
    | with_reducible apply State.quotas_keeps
    | with_reducible apply State.event_keeps
    | intro _
    | (extract_lets +onlyGivenNames xl; first
        | (refine (fun (hx : Keeps s0 xl) => ?_) ?_; rotate_left; unfold xl; clear xl; rotate_left; clear_value xl; revert xl; intro yl hy)
        | (clear_value xl; revert xl; intro yl)
        | (revert xl; intro yl))
    | split
    | with_reducible apply Keeps.foldl
    | with_reducible apply Keeps.foldl_snd2
    | with_reducible apply Keeps.foldl_snd
    | with_reducible apply Keeps.foldl_fst
    | with_reducible apply Keeps.mk' rfl rfl rfl rfl rfl rfl rfl rfl rfl

theorem State.keyRun_keeps (s : State) {s0 : State} (h : Keeps s0 s) :
    Keeps s0 (State.keyRun s) := by
  unfold State.keyRun
  repeat' first
    | with_reducible assumption
    | with_reducible apply State.keyEnd_keeps
    | with_reducible apply State.keyOp_keeps
    | (extract_lets +onlyGivenNames xl; first
        | (clear_value xl; revert xl; intro yl)
        | (revert xl; intro yl))
    | split
    | (refine Keeps.of_snd2 (by with_reducible assumption) ?_)

theorem keyCmdWrite_keeps (p : Page) (w : Word) (s : State) {s0 : State} (h : Keeps s0 s) :
    Keeps s0 (keyCmdWrite p w s) := by
  unfold keyCmdWrite
  repeat' first
    | with_reducible assumption
    | with_reducible apply applyWrite_keeps
    | with_reducible apply State.keyRun_keeps
    | (extract_lets +onlyGivenNames xl; first
        | (refine (fun (hx : Keeps s0 xl) => ?_) ?_; rotate_left; unfold xl; clear xl; rotate_left; clear_value xl; revert xl; intro yl hy)
        | (clear_value xl; revert xl; intro yl)
        | (revert xl; intro yl))
    | split
    | with_reducible apply Keeps.mk' rfl rfl rfl rfl rfl rfl rfl rfl rfl

theorem execPkLoad_keeps (q : Req) (s : State) {s0 : State} (h : Keeps s0 s) :
    ∀ z, execPkLoad q s = .next z → Keeps s0 z := by
  unfold execPkLoad
  intro z e
  refine Keeps.of_next ?_ e
  repeat' first
    | with_reducible assumption
    | with_reducible apply writeWord_keeps
    | with_reducible apply keyCmdWrite_keeps
    | intro _

theorem execPkClear_keeps (q : Req) (s : State) {s0 : State} (h : Keeps s0 s) :
    ∀ z, execPkClear q s = .next z → Keeps s0 z := by
  unfold execPkClear
  intro z e
  refine Keeps.of_next ?_ e
  repeat' first
    | with_reducible assumption
    | with_reducible apply writeWord_keeps
    | with_reducible apply keyCmdWrite_keeps
    | intro _

theorem execKeyDerive_keeps (q : Req) (s : State) {s0 : State} (h : Keeps s0 s) :
    ∀ z, execKeyDerive q s = .next z → Keeps s0 z := by
  unfold execKeyDerive
  intro z e
  refine Keeps.of_next ?_ e
  repeat' first
    | with_reducible assumption
    | with_reducible apply writeWord_keeps
    | with_reducible apply keyCmdWrite_keeps
    | intro _

theorem execGroupLoad_keeps (q : Req) (s : State) {s0 : State} (h : Keeps s0 s) :
    ∀ z, execGroupLoad q s = .next z → Keeps s0 z := by
  unfold execGroupLoad
  intro z e
  refine Keeps.of_next ?_ e
  repeat' first
    | with_reducible assumption
    | with_reducible apply writeWord_keeps
    | with_reducible apply keyCmdWrite_keeps
    | intro _

theorem execOwnLoad_keeps (q : Req) (s : State) {s0 : State} (h : Keeps s0 s) :
    ∀ z, execOwnLoad q s = .next z → Keeps s0 z := by
  unfold execOwnLoad
  intro z e
  refine Keeps.of_next ?_ e
  repeat' first
    | with_reducible assumption
    | with_reducible apply writeWord_keeps
    | with_reducible apply keyCmdWrite_keeps
    | intro _

theorem execWktPut_keeps (q : Req) (s : State) {s0 : State} (h : Keeps s0 s) :
    ∀ z, execWktPut q s = .next z → Keeps s0 z := by
  unfold execWktPut
  intro z e
  refine Keeps.of_next ?_ e
  repeat' first
    | with_reducible assumption
    | with_reducible apply writeWord_keeps
    | with_reducible apply keyCmdWrite_keeps
    | intro _

theorem execSlotQuery_keeps (q : Req) (s : State) {s0 : State} (h : Keeps s0 s) :
    ∀ z, execSlotQuery q s = .next z → Keeps s0 z := by
  unfold execSlotQuery
  intro z e
  refine Keeps.of_next ?_ e
  repeat' first
    | with_reducible assumption
    | with_reducible apply writeWord_keeps
    | with_reducible apply keyCmdWrite_keeps
    | intro _

theorem execSlotClear_keeps (q : Req) (s : State) {s0 : State} (h : Keeps s0 s) :
    ∀ z, execSlotClear q s = .next z → Keeps s0 z := by
  unfold execSlotClear
  intro z e
  refine Keeps.of_next ?_ e
  repeat' first
    | with_reducible assumption
    | with_reducible apply writeWord_keeps
    | with_reducible apply keyCmdWrite_keeps
    | intro _

theorem keyStageWrite_keeps (off : Nat) (p : Page) (w : Word) (s : State) {s0 : State} (h : Keeps s0 s) :
    Keeps s0 (keyStageWrite off p w s) := by
  unfold keyStageWrite
  repeat' first
    | with_reducible assumption
    | with_reducible apply State.setReg_keeps

theorem keyProvWrite_keeps (a0 : Page) (w : Word) (s : State) {s0 : State} (h : Keeps s0 s) :
    Keeps s0 (keyProvWrite a0 w s) := by
  unfold keyProvWrite
  repeat' first
    | with_reducible assumption
    | with_reducible apply State.nvmRows_keeps
    | (extract_lets +onlyGivenNames xl; first
        | (clear_value xl; revert xl; intro yl)
        | (revert xl; intro yl))
    | split
    | with_reducible apply Keeps.mk' rfl rfl rfl rfl rfl rfl rfl rfl rfl

theorem execProvLock_keeps (q : Req) (s : State) {s0 : State} (h : Keeps s0 s) :
    ∀ z, execProvLock q s = .next z → Keeps s0 z := by
  unfold execProvLock
  intro z e
  refine Keeps.of_next ?_ e
  repeat' first
    | with_reducible assumption
    | with_reducible apply writeWord_keeps
    | with_reducible apply keyProvWrite_keeps
    | intro _

theorem State.flushDirect_keeps (s : State) (t : Fin 8) (all : Bool) {s0 : State} (h : Keeps s0 s) :
    Keeps s0 (State.flushDirect s t all) := by
  unfold State.flushDirect
  repeat' first
    | with_reducible assumption
    | with_reducible apply State.postCr_keeps
    | with_reducible apply State.setTenant_keeps
    | intro _
    | (extract_lets +onlyGivenNames xl; first
        | (refine (fun (hx : Keeps s0 xl) => ?_) ?_; rotate_left; unfold xl; clear xl; rotate_left; clear_value xl; revert xl; intro yl hy)
        | (clear_value xl; revert xl; intro yl)
        | (revert xl; intro yl))
    | split
    | with_reducible apply Keeps.foldl
    | with_reducible apply Keeps.foldl_snd2
    | with_reducible apply Keeps.foldl_snd
    | with_reducible apply Keeps.foldl_fst
    | (refine Keeps.of_snd (by with_reducible assumption) ?_)
    | with_reducible apply Keeps.mk' rfl rfl rfl rfl rfl rfl rfl rfl rfl

theorem State.zeroise_keeps (s : State) {s0 : State} (h : Keeps s0 s) :
    Keeps s0 (State.zeroise s) := by
  unfold State.zeroise
  repeat' first
    | with_reducible assumption
    | with_reducible apply State.event_keeps
    | with_reducible apply State.nvmRows_keeps
    | with_reducible apply State.flushDirect_keeps
    | with_reducible apply State.bumpBy_keeps
    | with_reducible apply State.quotas_keeps
    | with_reducible apply State.completeMsg_keeps
    | with_reducible apply State.dropFrames_keeps
    | intro _
    | (extract_lets +onlyGivenNames xl; first
        | (refine (fun (hx : Keeps s0 xl) => ?_) ?_; rotate_left; unfold xl; clear xl; rotate_left; clear_value xl; revert xl; intro yl hy)
        | (clear_value xl; revert xl; intro yl)
        | (revert xl; intro yl))
    | split
    | with_reducible apply Keeps.foldl
    | with_reducible apply Keeps.foldl_snd2
    | with_reducible apply Keeps.foldl_snd
    | with_reducible apply Keeps.foldl_fst
    | (refine Keeps.of_snd (by with_reducible assumption) ?_)
    | with_reducible apply Keeps.mk' rfl rfl rfl rfl rfl rfl rfl rfl rfl

theorem keyZeroWrite_keeps (a0 : Page) (w : Word) (s : State) {s0 : State} (h : Keeps s0 s) :
    Keeps s0 (keyZeroWrite a0 w s) := by
  unfold keyZeroWrite
  repeat' first
    | with_reducible assumption
    | with_reducible apply State.zeroise_keeps
    | split

theorem execZeroise_keeps (q : Req) (s : State) {s0 : State} (h : Keeps s0 s) :
    ∀ z, execZeroise q s = .next z → Keeps s0 z := by
  unfold execZeroise
  intro z e
  refine Keeps.of_next ?_ e
  repeat' first
    | with_reducible assumption
    | with_reducible apply writeWord_keeps
    | with_reducible apply keyZeroWrite_keeps
    | intro _

theorem execKeySlotParity_keeps (k : Fin 4096) (s : State) {s0 : State} (h : Keeps s0 s) :
    ∀ z, execKeySlotParity k s = .next z → Keeps s0 z := by
  unfold execKeySlotParity
  intro z e
  refine Keeps.of_next ?_ e
  repeat' first
    | with_reducible assumption
    | with_reducible apply State.bump_keeps
    | with_reducible apply State.fault_keeps
    | with_reducible apply State.putSlot_keeps
    | with_reducible apply State.delSlot_keeps
    | with_reducible apply State.quotas_keeps
    | with_reducible apply State.event_keeps
    | (extract_lets +onlyGivenNames xl; first
        | (refine (fun (hx : Keeps s0 xl) => ?_) ?_; rotate_left; unfold xl; clear xl; rotate_left; clear_value xl; revert xl; intro yl hy))
    | split

theorem execKeySlotRestored_keeps (k : Fin 4096) (s : State) {s0 : State} (h : Keeps s0 s) :
    ∀ z, execKeySlotRestored k s = .next z → Keeps s0 z := by
  unfold execKeySlotRestored
  intro z e
  refine Keeps.of_next ?_ e
  repeat' first
    | with_reducible assumption
    | with_reducible apply State.putSlot_keeps
    | (extract_lets +onlyGivenNames xl; first
        | (clear_value xl; revert xl; intro yl)
        | (revert xl; intro yl))
    | split

theorem keyEffect_keeps (off : Nat) (p : Page) (w : Word) (s : State) {s0 : State} (h : Keeps s0 s) :
    Keeps s0 (keyEffect off p w s) := by
  unfold keyEffect
  repeat' first
    | with_reducible assumption
    | with_reducible apply keyCmdWrite_keeps
    | with_reducible apply keyProvWrite_keeps
    | with_reducible apply keyZeroWrite_keeps
    | with_reducible apply keyStageWrite_keeps
    | with_reducible apply applyWrite_keeps
    | split

end Sys2Proof.Machine
end

