-- ==== Sys2Proof/Laws/Keeps/Routing.lean ====
section
/-! SUPPORT. That every operation of Routing keeps the relation of Laws/Keeps. -/

set_option Elab.async false

namespace Sys2Proof.Machine

theorem State.setArq_keeps (s : State) (a : Arq) {s0 : State} (h : Keeps s0 s) :
    Keeps s0 (State.setArq s a) := by
  unfold State.setArq
  repeat' first
    | with_reducible assumption
    | (extract_lets +onlyGivenNames xl; first
        | (clear_value xl; revert xl; intro yl)
        | (revert xl; intro yl))
    | with_reducible apply Keeps.mk' rfl rfl rfl rfl rfl rfl rfl rfl rfl

theorem State.delRoute_keeps (s : State) (i : Nat) {s0 : State} (h : Keeps s0 s) :
    Keeps s0 (State.delRoute s i) := by
  unfold State.delRoute
  repeat' first
    | with_reducible assumption
    | (extract_lets +onlyGivenNames xl; first
        | (clear_value xl; revert xl; intro yl)
        | (revert xl; intro yl))
    | with_reducible apply Keeps.mk' rfl rfl rfl rfl rfl rfl rfl rfl rfl

theorem State.putRoute_keeps (s : State) (r : Route) {s0 : State} (h : Keeps s0 s) :
    Keeps s0 (State.putRoute s r) := by
  unfold State.putRoute
  repeat' first
    | with_reducible assumption
    | (extract_lets +onlyGivenNames xl; first
        | (clear_value xl; revert xl; intro yl)
        | (revert xl; intro yl))
    | with_reducible apply Keeps.mk' rfl rfl rfl rfl rfl rfl rfl rfl rfl

theorem State.countLookup_keeps (s : State) (dst : Nat) (orig : Bool) (netid : Option Nat) (x : Hop) {s0 : State} (h : Keeps s0 s) :
    Keeps s0 (State.countLookup s dst orig netid x) := by
  unfold State.countLookup
  repeat' first
    | with_reducible assumption
    | with_reducible apply State.dirCache_keeps
    | with_reducible apply State.dirFetch_keeps
    | with_reducible apply State.bump_keeps
    | intro _
    | (extract_lets +onlyGivenNames xl; first
        | (refine (fun (hx : Keeps s0 xl) => ?_) ?_; rotate_left; unfold xl; clear xl; rotate_left; clear_value xl; revert xl; intro yl hy)
        | (clear_value xl; revert xl; intro yl)
        | (revert xl; intro yl))
    | split
    | (refine Keeps.of_snd (by with_reducible assumption) ?_)
    | with_reducible apply Keeps.mk' rfl rfl rfl rfl rfl rfl rfl rfl rfl

theorem State.markLink_keeps (s : State) (c : Nat) (peer : Nat) (down : Bool) {s0 : State} (h : Keeps s0 s) :
    Keeps s0 (State.markLink s c peer down) := by
  unfold State.markLink
  repeat' first
    | with_reducible assumption
    | with_reducible apply State.event_keeps
    | with_reducible apply State.bumpBy_keeps
    | (extract_lets +onlyGivenNames xl; first
        | (refine (fun (hx : Keeps s0 xl) => ?_) ?_; rotate_left; unfold xl; clear xl; rotate_left; clear_value xl; revert xl; intro yl hy)
        | (clear_value xl; revert xl; intro yl)
        | (revert xl; intro yl))
    | split
    | with_reducible apply Keeps.mk' rfl rfl rfl rfl rfl rfl rfl rfl rfl

theorem State.rteResult_keeps (s : State) (status : Nat) (idx : Nat) {s0 : State} (h : Keeps s0 s) :
    Keeps s0 (State.rteResult s status idx) := by
  unfold State.rteResult
  repeat' first
    | with_reducible assumption
    | with_reducible apply State.event_keeps
    | with_reducible apply State.setReg_keeps

theorem State.rteRead_keeps (s : State) (i : Nat) {s0 : State} (h : Keeps s0 s) :
    Keeps s0 (State.rteRead s i) := by
  unfold State.rteRead
  repeat' first
    | with_reducible assumption
    | with_reducible apply State.setReg_keeps
    | with_reducible apply State.rteResult_keeps
    | intro _
    | (extract_lets +onlyGivenNames xl; first
        | (refine (fun (hx : Keeps s0 xl) => ?_) ?_; rotate_left; unfold xl; clear xl; rotate_left; clear_value xl; revert xl; intro yl hy)
        | (clear_value xl; revert xl; intro yl)
        | (revert xl; intro yl))
    | split
    | with_reducible apply Keeps.foldl
    | with_reducible apply Keeps.foldl_snd2
    | with_reducible apply Keeps.foldl_snd
    | with_reducible apply Keeps.foldl_fst

theorem State.rteWrite_keeps (s : State) (i : Nat) {s0 : State} (h : Keeps s0 s) :
    Keeps s0 (State.rteWrite s i) := by
  unfold State.rteWrite
  repeat' first
    | with_reducible assumption
    | with_reducible apply State.rteResult_keeps
    | with_reducible apply State.putRoute_keeps
    | (extract_lets +onlyGivenNames xl; first
        | (clear_value xl; revert xl; intro yl)
        | (revert xl; intro yl))
    | split

theorem State.rteDelete_keeps (s : State) (i : Nat) {s0 : State} (h : Keeps s0 s) :
    Keeps s0 (State.rteDelete s i) := by
  unfold State.rteDelete
  repeat' first
    | with_reducible assumption
    | with_reducible apply State.rteResult_keeps
    | with_reducible apply State.delRoute_keeps
    | split

theorem State.rteLookup_keeps (s : State) {s0 : State} (h : Keeps s0 s) :
    Keeps s0 (State.rteLookup s) := by
  unfold State.rteLookup
  repeat' first
    | with_reducible assumption
    | with_reducible apply State.bump_keeps
    | with_reducible apply State.rteResult_keeps
    | (extract_lets +onlyGivenNames xl; first
        | (refine (fun (hx : Keeps s0 xl) => ?_) ?_; rotate_left; unfold xl; clear xl; rotate_left; clear_value xl; revert xl; intro yl hy))
    | split

theorem State.rteFlush_keeps (s : State) {s0 : State} (h : Keeps s0 s) :
    Keeps s0 (State.rteFlush s) := by
  unfold State.rteFlush
  repeat' first
    | with_reducible assumption
    | with_reducible apply State.rteResult_keeps
    | (extract_lets +onlyGivenNames xl; first
        | (clear_value xl; revert xl; intro yl)
        | (revert xl; intro yl))
    | with_reducible apply Keeps.mk' rfl rfl rfl rfl rfl rfl rfl rfl rfl

theorem rteCmdWrite_keeps (p : Page) (w : Word) (s : State) {s0 : State} (h : Keeps s0 s) :
    Keeps s0 (rteCmdWrite p w s) := by
  unfold rteCmdWrite
  repeat' first
    | with_reducible assumption
    | with_reducible apply applyWrite_keeps
    | with_reducible apply State.rteRead_keeps
    | with_reducible apply State.rteWrite_keeps
    | with_reducible apply State.rteDelete_keeps
    | with_reducible apply State.rteLookup_keeps
    | with_reducible apply State.rteFlush_keeps
    | (extract_lets +onlyGivenNames xl; first
        | (refine (fun (hx : Keeps s0 xl) => ?_) ?_; rotate_left; unfold xl; clear xl; rotate_left; clear_value xl; revert xl; intro yl hy)
        | (clear_value xl; revert xl; intro yl)
        | (revert xl; intro yl))
    | split

theorem execRteRead_keeps (q : Req) (s : State) {s0 : State} (h : Keeps s0 s) :
    ∀ z, execRteRead q s = .next z → Keeps s0 z := by
  unfold execRteRead
  intro z e
  refine Keeps.of_next ?_ e
  repeat' first
    | with_reducible assumption
    | with_reducible apply writeWord_keeps
    | with_reducible apply rteCmdWrite_keeps
    | intro _

theorem execRteWrite_keeps (q : Req) (s : State) {s0 : State} (h : Keeps s0 s) :
    ∀ z, execRteWrite q s = .next z → Keeps s0 z := by
  unfold execRteWrite
  intro z e
  refine Keeps.of_next ?_ e
  repeat' first
    | with_reducible assumption
    | with_reducible apply writeWord_keeps
    | with_reducible apply rteCmdWrite_keeps
    | intro _

theorem execRteDelete_keeps (q : Req) (s : State) {s0 : State} (h : Keeps s0 s) :
    ∀ z, execRteDelete q s = .next z → Keeps s0 z := by
  unfold execRteDelete
  intro z e
  refine Keeps.of_next ?_ e
  repeat' first
    | with_reducible assumption
    | with_reducible apply writeWord_keeps
    | with_reducible apply rteCmdWrite_keeps
    | intro _

theorem execRteLookup_keeps (q : Req) (s : State) {s0 : State} (h : Keeps s0 s) :
    ∀ z, execRteLookup q s = .next z → Keeps s0 z := by
  unfold execRteLookup
  intro z e
  refine Keeps.of_next ?_ e
  repeat' first
    | with_reducible assumption
    | with_reducible apply writeWord_keeps
    | with_reducible apply rteCmdWrite_keeps
    | intro _

theorem execRteFlush_keeps (q : Req) (s : State) {s0 : State} (h : Keeps s0 s) :
    ∀ z, execRteFlush q s = .next z → Keeps s0 z := by
  unfold execRteFlush
  intro z e
  refine Keeps.of_next ?_ e
  repeat' first
    | with_reducible assumption
    | with_reducible apply writeWord_keeps
    | with_reducible apply rteCmdWrite_keeps
    | intro _

theorem execRouteExpire_keeps (i : Fin 16384) (s : State) {s0 : State} (h : Keeps s0 s) :
    ∀ z, execRouteExpire i s = .next z → Keeps s0 z := by
  unfold execRouteExpire
  intro z e
  refine Keeps.of_next ?_ e
  repeat' first
    | with_reducible assumption
    | with_reducible apply State.bump_keeps
    | with_reducible apply State.delRoute_keeps
    | split

theorem State.ageRoutes_keeps (s : State) {s0 : State} (h : Keeps s0 s) :
    Keeps s0 (State.ageRoutes s) := by
  unfold State.ageRoutes
  repeat' first
    | with_reducible assumption
    | (extract_lets +onlyGivenNames xl; first
        | (clear_value xl; revert xl; intro yl)
        | (revert xl; intro yl))
    | split
    | with_reducible apply Keeps.mk' rfl rfl rfl rfl rfl rfl rfl rfl rfl

end Sys2Proof.Machine
end

