-- ==== Sys2Proof/Laws/Keeps/Lanes.lean ====
section
/-! SUPPORT. That every operation of Lanes keeps the relation of Laws/Keeps. -/

set_option Elab.async false

namespace Sys2Proof.Machine

theorem State.reseed_keeps (s : State) {s0 : State} (h : Keeps s0 s) :
    Keeps s0 (State.reseed s) := by
  unfold State.reseed
  repeat' first
    | with_reducible assumption
    | with_reducible apply State.bump_keeps
    | (extract_lets +onlyGivenNames xl; first
        | (clear_value xl; revert xl; intro yl)
        | (revert xl; intro yl))
    | with_reducible apply Keeps.mk' rfl rfl rfl rfl rfl rfl rfl rfl rfl

theorem State.drbgHalt_keeps (s : State) {s0 : State} (h : Keeps s0 s) :
    Keeps s0 (State.drbgHalt s) := by
  unfold State.drbgHalt
  repeat' first
    | with_reducible assumption
    | with_reducible apply State.setFlag_keeps

theorem State.generate_keeps (s : State) {s0 : State} (h : Keeps s0 s) :
    Keeps s0 (State.generate s) := by
  unfold State.generate
  repeat' first
    | with_reducible assumption
    | with_reducible apply State.reseed_keeps
    | with_reducible apply State.drbgHalt_keeps
    | (extract_lets +onlyGivenNames xl; first
        | (refine (fun (hx : Keeps s0 xl) => ?_) ?_; rotate_left; unfold xl; clear xl; rotate_left; clear_value xl; revert xl; intro yl hy)
        | (clear_value xl; revert xl; intro yl)
        | (revert xl; intro yl))
    | split
    | with_reducible apply Keeps.mk' rfl rfl rfl rfl rfl rfl rfl rfl rfl

theorem State.draw_keeps (s : State) {s0 : State} (h : Keeps s0 s) :
    Keeps s0 (State.draw s).2 := by
  unfold State.draw
  repeat' first
    | with_reducible assumption
    | with_reducible apply State.freeNat_keeps
    | with_reducible apply State.generate_keeps
    | (extract_lets +onlyGivenNames xl; first
        | (refine (fun (hx : Keeps s0 xl.2) => ?_) ?_; rotate_left; unfold xl; clear xl; rotate_left; clear_value xl; revert xl; intro yl hy))
    | (refine Keeps.of_snd (by with_reducible assumption) ?_)

theorem State.setMask_keeps (s : State) (j : Nat) (m : MaskGen) {s0 : State} (h : Keeps s0 s) :
    Keeps s0 (State.setMask s j m) := by
  unfold State.setMask
  repeat' first
    | with_reducible assumption
    | intro _
    | split
    | with_reducible apply Keeps.mk' rfl rfl rfl rfl rfl rfl rfl rfl rfl

theorem State.maskSeed_keeps (s : State) (j : Nat) {s0 : State} (h : Keeps s0 s) :
    Keeps s0 (State.maskSeed s j) := by
  unfold State.maskSeed
  repeat' first
    | with_reducible assumption
    | with_reducible apply State.draw_keeps
    | with_reducible apply State.setMask_keeps
    | intro _
    | (extract_lets +onlyGivenNames xl; first
        | (refine (fun (hx : Keeps s0 xl) => ?_) ?_; rotate_left; unfold xl; clear xl; rotate_left; clear_value xl; revert xl; intro yl hy)
        | (refine (fun (hx : Keeps s0 xl.2) => ?_) ?_; rotate_left; unfold xl; clear xl; rotate_left; clear_value xl; revert xl; intro yl hy)
        | (clear_value xl; revert xl; intro yl)
        | (revert xl; intro yl))
    | split
    | (refine Keeps.of_snd (by with_reducible assumption) ?_)
    | with_reducible apply Keeps.mk' rfl rfl rfl rfl rfl rfl rfl rfl rfl

theorem State.maskKey_keeps (s : State) (j : Nat) (k : Nat) (x : KeySlot) {s0 : State} (h : Keeps s0 s) :
    Keeps s0 (State.maskKey s j k x) := by
  unfold State.maskKey
  repeat' first
    | with_reducible assumption
    | with_reducible apply State.setMask_keeps
    | with_reducible apply State.maskSeed_keeps
    | intro _
    | (extract_lets +onlyGivenNames xl; first
        | (refine (fun (hx : Keeps s0 xl) => ?_) ?_; rotate_left; unfold xl; clear xl; rotate_left; clear_value xl; revert xl; intro yl hy)
        | (clear_value xl; revert xl; intro yl)
        | (revert xl; intro yl))
    | split
    | (refine Keeps.of_snd (by with_reducible assumption) ?_)
    | with_reducible apply Keeps.mk' rfl rfl rfl rfl rfl rfl rfl rfl rfl

theorem State.maskBlocks_keeps (s : State) (j : Nat) (n : Nat) {s0 : State} (h : Keeps s0 s) :
    Keeps s0 (State.maskBlocks s j n) := by
  unfold State.maskBlocks
  repeat' first
    | with_reducible assumption
    | with_reducible apply State.setMask_keeps
    | with_reducible apply State.maskSeed_keeps
    | intro _
    | (extract_lets +onlyGivenNames xl; first
        | (refine (fun (hx : Keeps s0 xl) => ?_) ?_; rotate_left; unfold xl; clear xl; rotate_left; clear_value xl; revert xl; intro yl hy)
        | (clear_value xl; revert xl; intro yl)
        | (revert xl; intro yl))
    | split
    | with_reducible apply Keeps.foldl
    | with_reducible apply Keeps.foldl_snd2
    | with_reducible apply Keeps.foldl_snd
    | with_reducible apply Keeps.foldl_fst
    | (refine Keeps.of_snd (by with_reducible assumption) ?_)
    | with_reducible apply Keeps.mk' rfl rfl rfl rfl rfl rfl rfl rfl rfl

theorem State.freeBytes_keeps (s : State) (a1 : Nat) {s0 : State} (h : Keeps s0 s) :
    Keeps s0 (State.freeBytes s a1).2 := by
  induction a1 with
  | zero => exact h
  | succ n ih => exact State.freeNat_keeps _ ih

theorem State.reserve_keeps (s : State) {s0 : State} (h : Keeps s0 s) :
    Keeps s0 (State.reserve s) := by
  unfold State.reserve
  repeat' first
    | with_reducible assumption
    | (extract_lets +onlyGivenNames xl; first
        | (clear_value xl; revert xl; intro yl)
        | (revert xl; intro yl))
    | split
    | with_reducible apply Keeps.mk' rfl rfl rfl rfl rfl rfl rfl rfl rfl

theorem State.takeNonce_keeps (s : State) {s0 : State} (h : Keeps s0 s) :
    Keeps s0 (State.takeNonce s).2 := by
  unfold State.takeNonce
  repeat' first
    | with_reducible assumption
    | with_reducible apply State.reserve_keeps
    | (extract_lets +onlyGivenNames xl; first
        | (clear_value xl; revert xl; intro yl)
        | (revert xl; intro yl))
    | split
    | with_reducible apply Keeps.mk' rfl rfl rfl rfl rfl rfl rfl rfl rfl

theorem State.loseKey_keeps (s : State) (f : Frame) {s0 : State} (h : Keeps s0 s) :
    Keeps s0 (State.loseKey s f) := by
  unfold State.loseKey
  repeat' first
    | with_reducible assumption
    | with_reducible apply State.completeMsg_keeps
    | with_reducible apply State.dropFrames_keeps
    | intro _
    | (extract_lets +onlyGivenNames xl; first
        | (refine (fun (hx : Keeps s0 xl) => ?_) ?_; rotate_left; unfold xl; clear xl; rotate_left; clear_value xl; revert xl; intro yl hy)
        | (clear_value xl; revert xl; intro yl)
        | (revert xl; intro yl))
    | split
    | with_reducible apply Keeps.foldl
    | with_reducible apply Keeps.foldl_snd2
    | with_reducible apply Keeps.foldl_snd
    | with_reducible apply Keeps.foldl_fst
    | with_reducible apply Keeps.mk' rfl rfl rfl rfl rfl rfl rfl rfl rfl

theorem State.reqNoKey_keeps (s : State) (r : CReq) {s0 : State} (h : Keeps s0 s) :
    Keeps s0 (State.reqNoKey s r) := by
  unfold State.reqNoKey
  repeat' first
    | with_reducible assumption
    | with_reducible apply State.postCr_keeps
    | with_reducible apply State.loseKey_keeps
    | with_reducible apply State.bump_keeps
    | intro _
    | split
    | (refine Keeps.of_snd (by with_reducible assumption) ?_)
    | with_reducible apply Keeps.mk' rfl rfl rfl rfl rfl rfl rfl rfl rfl

theorem State.onLane_keeps (s : State) (j : Nat) (r : CReq) {s0 : State} (h : Keeps s0 s) :
    Keeps s0 (State.onLane s j r) := by
  unfold State.onLane
  repeat' first
    | with_reducible assumption
    | with_reducible apply State.histTimed_keeps
    | with_reducible apply State.takeNonce_keeps
    | with_reducible apply State.take_keeps
    | with_reducible apply State.mapFrames_keeps
    | intro _
    | (extract_lets +onlyGivenNames xl; first
        | (refine (fun (hx : Keeps s0 xl) => ?_) ?_; rotate_left; unfold xl; clear xl; rotate_left; clear_value xl; revert xl; intro yl hy)
        | (refine (fun (hx : Keeps s0 xl.2) => ?_) ?_; rotate_left; unfold xl; clear xl; rotate_left; clear_value xl; revert xl; intro yl hy)
        | (clear_value xl; revert xl; intro yl)
        | (revert xl; intro yl))
    | split
    | (refine Keeps.of_snd (by with_reducible assumption) ?_)
    | with_reducible apply Keeps.mk' rfl rfl rfl rfl rfl rfl rfl rfl rfl

theorem State.startReq_keeps (s : State) (j : Nat) (r : CReq) {s0 : State} (h : Keeps s0 s) :
    Keeps s0 (State.startReq s j r) := by
  unfold State.startReq
  repeat' first
    | with_reducible assumption
    | with_reducible apply State.useSlot_keeps
    | with_reducible apply State.maskKey_keeps
    | with_reducible apply State.reqNoKey_keeps
    | with_reducible apply State.onLane_keeps
    | intro _
    | (extract_lets +onlyGivenNames xl; first
        | (refine (fun (hx : Keeps s0 xl) => ?_) ?_; rotate_left; unfold xl; clear xl; rotate_left; clear_value xl; revert xl; intro yl hy)
        | (clear_value xl; revert xl; intro yl)
        | (revert xl; intro yl))
    | split
    | (refine Keeps.of_snd (by with_reducible assumption) ?_)
    | with_reducible apply Keeps.mk' rfl rfl rfl rfl rfl rfl rfl rfl rfl

theorem State.nonceWaits_keeps (s : State) {s0 : State} (h : Keeps s0 s) :
    Keeps s0 (State.nonceWaits s) := by
  unfold State.nonceWaits
  repeat' first
    | with_reducible assumption
    | with_reducible apply State.event_keeps
    | with_reducible apply State.bumpBy_keeps
    | (extract_lets +onlyGivenNames xl; first
        | (clear_value xl; revert xl; intro yl)
        | (revert xl; intro yl))
    | split
    | with_reducible apply Keeps.mk' rfl rfl rfl rfl rfl rfl rfl rfl rfl

theorem State.fillLanes_keeps (s : State) (a1 : Nat) {s0 : State} (h : Keeps s0 s) :
    Keeps s0 (State.fillLanes s a1) := by
  induction a1 generalizing s with
  | zero => exact h
  | succ n ih =>
    unfold State.fillLanes
    split
    · exact ih _ (State.startReq_keeps _ _ _ h)
    · exact h

theorem State.dispatch_keeps (s : State) {s0 : State} (h : Keeps s0 s) :
    Keeps s0 (State.dispatch s) := by
  unfold State.dispatch
  repeat' first
    | with_reducible assumption
    | with_reducible apply State.quotas_keeps
    | with_reducible apply State.nonceWaits_keeps
    | with_reducible apply State.fillLanes_keeps
    | with_reducible apply State.reserve_keeps
    | split

theorem State.addReq_keeps (s : State) (w : Work) {s0 : State} (h : Keeps s0 s) :
    Keeps s0 (State.addReq s w) := by
  unfold State.addReq
  repeat' first
    | with_reducible assumption
    | with_reducible apply State.newId_keeps
    | (extract_lets +onlyGivenNames xl; first
        | (refine (fun (hx : Keeps s0 xl) => ?_) ?_; rotate_left; unfold xl; clear xl; rotate_left; clear_value xl; revert xl; intro yl hy)
        | (refine (fun (hx : Keeps s0 xl.2) => ?_) ?_; rotate_left; unfold xl; clear xl; rotate_left; clear_value xl; revert xl; intro yl hy)
        | (clear_value xl; revert xl; intro yl)
        | (revert xl; intro yl))
    | (refine Keeps.of_snd (by with_reducible assumption) ?_)
    | with_reducible apply Keeps.mk' rfl rfl rfl rfl rfl rfl rfl rfl rfl

theorem State.protect_keeps (s : State) (f : Frame) {s0 : State} (h : Keeps s0 s) :
    Keeps s0 (State.protect s f) := by
  unfold State.protect
  repeat' first
    | with_reducible assumption
    | with_reducible apply State.addReq_keeps

theorem State.crHostFault_keeps (s : State) (t : Fin 8) (d : List Nat) (bit : Nat) {s0 : State} (h : Keeps s0 s) :
    Keeps s0 (State.crHostFault s t d bit) := by
  unfold State.crHostFault
  repeat' first
    | with_reducible assumption
    | with_reducible apply State.dmaFault_keeps
    | split

theorem State.crData_keeps (s : State) (t : Fin 8) (d : List Nat) (len : Nat) (r : Fetched) {s0 : State} (h : Keeps s0 s) :
    Keeps s0 (State.crData s t d len r).2 := by
  unfold State.crData
  repeat' first
    | with_reducible assumption
    | with_reducible apply State.qmemFetch_keeps
    | split
    | (refine Keeps.of_snd (by with_reducible assumption) ?_)

theorem State.takeCr_keeps (s : State) (t : Fin 8) (opc : Nat) {s0 : State} (h : Keeps s0 s) :
    ∀ y z, State.takeCr s t opc = some (y, z) → Keeps s0 z := by
  unfold State.takeCr
  intro d u e
  split at e
  · cases e
    exact State.setTenant_keeps _ _ _ h
  · cases e

theorem State.runCr_keeps (s : State) (t : Fin 8) (opc : Nat) (r : Fetched) {s0 : State} (h : Keeps s0 s) :
    Keeps s0 (State.runCr s t opc r) := by
  unfold State.runCr
  repeat' first
    | with_reducible assumption
    | (refine State.takeCr_keeps _ _ _ ?_ _ _ (by with_reducible assumption))
    | with_reducible apply State.quotas_keeps
    | with_reducible apply State.postCr_keeps
    | with_reducible apply State.crData_keeps
    | with_reducible apply State.crHostFault_keeps
    | with_reducible apply State.dispatch_keeps
    | with_reducible apply State.addReq_keeps
    | with_reducible apply State.useSlot_keeps
    | (extract_lets +onlyGivenNames xl; first
        | (refine (fun (hx : Keeps s0 xl) => ?_) ?_; rotate_left; unfold xl; clear xl; rotate_left; clear_value xl; revert xl; intro yl hy)
        | (refine (fun (hx : Keeps s0 xl.2) => ?_) ?_; rotate_left; unfold xl; clear xl; rotate_left; clear_value xl; revert xl; intro yl hy)
        | (clear_value xl; revert xl; intro yl)
        | (revert xl; intro yl))
    | split
    | (refine Keeps.of_snd (by with_reducible assumption) ?_)

theorem execCipherEncrypt_keeps (t : Fin 8) (r : Fetched) (s : State) {s0 : State} (h : Keeps s0 s) :
    ∀ z, execCipherEncrypt t r s = .next z → Keeps s0 z := by
  unfold execCipherEncrypt
  intro z e
  refine Keeps.of_next ?_ e
  repeat' first
    | with_reducible assumption
    | with_reducible apply State.runCr_keeps

theorem execCipherDecrypt_keeps (t : Fin 8) (r : Fetched) (s : State) {s0 : State} (h : Keeps s0 s) :
    ∀ z, execCipherDecrypt t r s = .next z → Keeps s0 z := by
  unfold execCipherDecrypt
  intro z e
  refine Keeps.of_next ?_ e
  repeat' first
    | with_reducible assumption
    | with_reducible apply State.runCr_keeps

theorem execCipherMac_keeps (t : Fin 8) (r : Fetched) (s : State) {s0 : State} (h : Keeps s0 s) :
    ∀ z, execCipherMac t r s = .next z → Keeps s0 z := by
  unfold execCipherMac
  intro z e
  refine Keeps.of_next ?_ e
  repeat' first
    | with_reducible assumption
    | with_reducible apply State.runCr_keeps

theorem execCipherVerify_keeps (t : Fin 8) (r : Fetched) (s : State) {s0 : State} (h : Keeps s0 s) :
    ∀ z, execCipherVerify t r s = .next z → Keeps s0 z := by
  unfold execCipherVerify
  intro z e
  refine Keeps.of_next ?_ e
  repeat' first
    | with_reducible assumption
    | with_reducible apply State.runCr_keeps

theorem execCipherRandom_keeps (t : Fin 8) (s : State) {s0 : State} (h : Keeps s0 s) :
    ∀ z, execCipherRandom t s = .next z → Keeps s0 z := by
  unfold execCipherRandom
  intro z e
  refine Keeps.of_next ?_ e
  repeat' first
    | with_reducible assumption
    | (refine State.takeCr_keeps _ _ _ ?_ _ _ (by with_reducible assumption))
    | with_reducible apply State.quotas_keeps
    | with_reducible apply State.postCr_keeps
    | with_reducible apply State.bump_keeps
    | with_reducible apply State.dispatch_keeps
    | with_reducible apply State.addReq_keeps
    | split

theorem State.crWrite_keeps (s : State) (t : Fin 8) (d : List Nat) (out : List Nat) {s0 : State} (h : Keeps s0 s) :
    ∀ z, State.crWrite s t d out = some z → Keeps s0 z := by
  unfold State.crWrite
  intro t e
  (repeat' split at e) <;> first | cases e | skip
  repeat' first
    | with_reducible assumption
    | with_reducible apply State.qmemWrite_keeps
    | with_reducible apply State.emit_keeps
    | intro _
    | split

theorem State.directDone_keeps (s : State) (t : Fin 8) (r : CReq) (d : List Nat) (src : List Nat) (wr : Bool) {s0 : State} (h : Keeps s0 s) :
    Keeps s0 (State.directDone s t r d src wr) := by
  have fin : ∀ (u : State) (out : List Nat) (zeros : Bool) (status : Nat) (nonce : List Nat), Keeps s0 u →
      Keeps s0 (if out = [] then u.postCr t d status (crKey d) nonce 0
        else match if wr || bitOf (d.getD 1 0) 4 then u.crWrite t d out else none with
          | none => (u.crHostFault t d 4).freeNat.2.postCr t d 9 (crKey d) nonce ((u.crHostFault t d 4).freeNat.1 % 2 ^ 32)
          | some s1 => (if zeros then (s1.crWrite t d (List.replicate out.length 0)).getD s1 else s1).postCr t d status
              (crKey d) nonce out.length) := by
    intro u out zeros status nonce hu
    split
    · exact State.postCr_keeps _ _ _ _ _ _ _ hu
    · split
      · exact State.postCr_keeps _ _ _ _ _ _ _ (State.freeNat_keeps _ (State.crHostFault_keeps _ _ _ _ hu))
      · rename_i heq
        split at heq
        · have h1 := State.crWrite_keeps _ _ _ _ hu _ heq
          split
          · exact State.postCr_keeps _ _ _ _ _ _ _ (Keeps.getD (State.crWrite_keeps _ _ _ _ h1) h1)
          · exact State.postCr_keeps _ _ _ _ _ _ _ h1
        · cases heq
  unfold State.directDone
  dsimp only
  split
  · exact fin _ _ _ _ _ (State.freeBytes_keeps _ _ (State.generate_keeps _ h))
  · split
    · exact State.postCr_keeps _ _ _ _ _ _ _ h
    · exact fin _ _ _ _ _ h

theorem execLoadKey_keeps (t : Fin 8) (r : Fetched) (s : State) {s0 : State} (h : Keeps s0 s) :
    ∀ z, execLoadKey t r s = .next z → Keeps s0 z := by
  unfold execLoadKey
  intro z e
  refine Keeps.of_next ?_ e
  repeat' first
    | with_reducible assumption
    | (refine State.takeCr_keeps _ _ _ ?_ _ _ (by with_reducible assumption))
    | with_reducible apply State.crData_keeps
    | with_reducible apply State.quotas_keeps
    | with_reducible apply State.postCr_keeps
    | with_reducible apply State.bump_keeps
    | with_reducible apply State.useSlot_keeps
    | with_reducible apply State.putSlot_keeps
    | with_reducible apply State.unwrapFail_keeps
    | with_reducible apply State.crHostFault_keeps
    | (extract_lets +onlyGivenNames xl; first
        | (refine (fun (hx : Keeps s0 xl) => ?_) ?_; rotate_left; unfold xl; clear xl; rotate_left; clear_value xl; revert xl; intro yl hy)
        | (refine (fun (hx : Keeps s0 xl.2) => ?_) ?_; rotate_left; unfold xl; clear xl; rotate_left; clear_value xl; revert xl; intro yl hy)
        | (clear_value xl; revert xl; intro yl)
        | (revert xl; intro yl))
    | split
    | (refine Keeps.of_snd (by with_reducible assumption) ?_)

theorem execKeyUnload_keeps (t : Fin 8) (s : State) {s0 : State} (h : Keeps s0 s) :
    ∀ z, execKeyUnload t s = .next z → Keeps s0 z := by
  unfold execKeyUnload
  intro z e
  refine Keeps.of_next ?_ e
  repeat' first
    | with_reducible assumption
    | (refine State.takeCr_keeps _ _ _ ?_ _ _ (by with_reducible assumption))
    | with_reducible apply State.quotas_keeps
    | with_reducible apply State.postCr_keeps
    | with_reducible apply State.putSlot_keeps
    | with_reducible apply State.bump_keeps
    | with_reducible apply State.delSlot_keeps
    | split

theorem State.settleKeys_keeps (s : State) {s0 : State} (h : Keeps s0 s) :
    Keeps s0 (State.settleKeys s) := by
  unfold State.settleKeys
  repeat' first
    | with_reducible assumption
    | with_reducible apply State.keyRun_keeps
    | with_reducible apply State.postCr_keeps
    | with_reducible apply State.bump_keeps
    | with_reducible apply State.delSlot_keeps
    | intro _
    | (extract_lets +onlyGivenNames xl; first
        | (clear_value xl; revert xl; intro yl)
        | (revert xl; intro yl))
    | split
    | with_reducible apply Keeps.foldl
    | with_reducible apply Keeps.foldl_snd2
    | with_reducible apply Keeps.foldl_snd
    | with_reducible apply Keeps.foldl_fst

theorem State.requeue_keeps (s : State) (j : Nat) {s0 : State} (h : Keeps s0 s) :
    Keeps s0 (State.requeue s j) := by
  unfold State.requeue
  repeat' first
    | with_reducible assumption
    | (extract_lets +onlyGivenNames xl; first
        | (clear_value xl; revert xl; intro yl)
        | (revert xl; intro yl))
    | split
    | with_reducible apply Keeps.mk' rfl rfl rfl rfl rfl rfl rfl rfl rfl

theorem execDirectRequestSetAside_keeps (j : Fin 24) (s : State) {s0 : State} (h : Keeps s0 s) :
    ∀ z, execDirectRequestSetAside j s = .next z → Keeps s0 z := by
  unfold execDirectRequestSetAside
  intro z e
  refine Keeps.of_next ?_ e
  repeat' first
    | with_reducible assumption
    | with_reducible apply State.dispatch_keeps
    | with_reducible apply State.requeue_keeps
    | intro _
    | (extract_lets +onlyGivenNames xl; first
        | (refine (fun (hx : Keeps s0 xl) => ?_) ?_; rotate_left; unfold xl; clear xl; rotate_left; clear_value xl; revert xl; intro yl hy)
        | (clear_value xl; revert xl; intro yl)
        | (revert xl; intro yl))
    | split
    | (refine Keeps.of_snd (by with_reducible assumption) ?_)
    | with_reducible apply Keeps.mk' rfl rfl rfl rfl rfl rfl rfl rfl rfl

theorem execNonceReserveDone_keeps (s : State) {s0 : State} (h : Keeps s0 s) :
    ∀ z, execNonceReserveDone s = .next z → Keeps s0 z := by
  unfold execNonceReserveDone
  intro z e
  refine Keeps.of_next ?_ e
  repeat' first
    | with_reducible assumption
    | with_reducible apply State.dispatch_keeps
    | with_reducible apply State.bump_keeps
    | (extract_lets +onlyGivenNames xl; first
        | (refine (fun (hx : Keeps s0 xl) => ?_) ?_; rotate_left; unfold xl; clear xl; rotate_left; clear_value xl; revert xl; intro yl hy)
        | (clear_value xl; revert xl; intro yl)
        | (revert xl; intro yl))
    | split
    | with_reducible apply Keeps.mk' rfl rfl rfl rfl rfl rfl rfl rfl rfl

theorem State.setLaneIn_keeps (s : State) (j : Nat) (b : Bool) {s0 : State} (h : Keeps s0 s) :
    Keeps s0 (State.setLaneIn s j b) := by
  unfold State.setLaneIn
  repeat' first
    | with_reducible assumption
    | with_reducible apply State.setRegBit_keeps

theorem State.retireLane_keeps (s : State) (j : Nat) {s0 : State} (h : Keeps s0 s) :
    Keeps s0 (State.retireLane s j) := by
  unfold State.retireLane
  repeat' first
    | with_reducible assumption
    | with_reducible apply State.setRegBit_keeps
    | with_reducible apply State.setLaneIn_keeps
    | with_reducible apply State.requeue_keeps
    | with_reducible apply State.event_keeps
    | with_reducible apply State.fault_keeps
    | (extract_lets +onlyGivenNames xl; first
        | (refine (fun (hx : Keeps s0 xl) => ?_) ?_; rotate_left; unfold xl; clear xl; rotate_left; clear_value xl; revert xl; intro yl hy))
    | split

theorem State.startLaneTest_keeps (s : State) (j : Nat) {s0 : State} (h : Keeps s0 s) :
    Keeps s0 (State.startLaneTest s j) := by
  unfold State.startLaneTest
  repeat' first
    | with_reducible assumption
    | with_reducible apply State.setLaneIn_keeps
    | (extract_lets +onlyGivenNames xl; first
        | (clear_value xl; revert xl; intro yl)
        | (revert xl; intro yl))
    | split
    | with_reducible apply Keeps.mk' rfl rfl rfl rfl rfl rfl rfl rfl rfl

theorem execCipherTestPeriod_keeps (s : State) {s0 : State} (h : Keeps s0 s) :
    ∀ z, execCipherTestPeriod s = .next z → Keeps s0 z := by
  unfold execCipherTestPeriod
  intro z e
  refine Keeps.of_next ?_ e
  repeat' first
    | with_reducible assumption
    | with_reducible apply State.startLaneTest_keeps
    | (extract_lets +onlyGivenNames xl; first
        | (clear_value xl; revert xl; intro yl)
        | (revert xl; intro yl))
    | split
    | with_reducible apply Keeps.mk' rfl rfl rfl rfl rfl rfl rfl rfl rfl

theorem cphTestWrite_keeps (p : Page) (w : Word) (s : State) {s0 : State} (h : Keeps s0 s) :
    Keeps s0 (cphTestWrite p w s) := by
  unfold cphTestWrite
  repeat' first
    | with_reducible assumption
    | with_reducible apply applyWrite_keeps
    | with_reducible apply State.startLaneTest_keeps
    | (extract_lets +onlyGivenNames xl; first
        | (refine (fun (hx : Keeps s0 xl) => ?_) ?_; rotate_left; unfold xl; clear xl; rotate_left; clear_value xl; revert xl; intro yl hy)
        | (clear_value xl; revert xl; intro yl)
        | (revert xl; intro yl))
    | split

theorem execCipherTestStart_keeps (q : Req) (s : State) {s0 : State} (h : Keeps s0 s) :
    ∀ z, execCipherTestStart q s = .next z → Keeps s0 z := by
  unfold execCipherTestStart
  intro z e
  refine Keeps.of_next ?_ e
  repeat' first
    | with_reducible assumption
    | with_reducible apply writeWord_keeps
    | with_reducible apply cphTestWrite_keeps
    | intro _

theorem execCipherTestDone_keeps (pass : Bool) (s : State) {s0 : State} (h : Keeps s0 s) :
    ∀ z, execCipherTestDone pass s = .next z → Keeps s0 z := by
  unfold execCipherTestDone
  intro z e
  refine Keeps.of_next ?_ e
  repeat' first
    | with_reducible assumption
    | with_reducible apply State.event_keeps
    | with_reducible apply State.bump_keeps
    | with_reducible apply State.dispatch_keeps
    | with_reducible apply State.keyRun_keeps
    | with_reducible apply State.setLaneIn_keeps
    | with_reducible apply State.retireLane_keeps
    | (extract_lets +onlyGivenNames xl; first
        | (refine (fun (hx : Keeps s0 xl) => ?_) ?_; rotate_left; unfold xl; clear xl; rotate_left; clear_value xl; revert xl; intro yl hy)
        | (clear_value xl; revert xl; intro yl)
        | (revert xl; intro yl))
    | split
    | with_reducible apply Keeps.mk' rfl rfl rfl rfl rfl rfl rfl rfl rfl

theorem execCipherLaneFail_keeps (j : Fin 26) (s : State) {s0 : State} (h : Keeps s0 s) :
    ∀ z, execCipherLaneFail j s = .next z → Keeps s0 z := by
  unfold execCipherLaneFail
  intro z e
  refine Keeps.of_next ?_ e
  repeat' first
    | with_reducible assumption
    | with_reducible apply State.dispatch_keeps
    | with_reducible apply State.retireLane_keeps
    | (extract_lets +onlyGivenNames xl; first
        | (refine (fun (hx : Keeps s0 xl) => ?_) ?_; rotate_left; unfold xl; clear xl; rotate_left; clear_value xl; revert xl; intro yl hy)
        | (clear_value xl; revert xl; intro yl)
        | (revert xl; intro yl))
    | split
    | with_reducible apply Keeps.mk' rfl rfl rfl rfl rfl rfl rfl rfl rfl

theorem State.lanesShed_keeps (s : State) (shed : Bool) {s0 : State} (h : Keeps s0 s) :
    Keeps s0 (State.lanesShed s shed) := by
  unfold State.lanesShed
  repeat' first
    | with_reducible assumption
    | with_reducible apply State.dispatch_keeps
    | with_reducible apply State.setLaneIn_keeps
    | with_reducible apply State.requeue_keeps
    | intro _
    | (extract_lets +onlyGivenNames xl; first
        | (clear_value xl; revert xl; intro yl)
        | (revert xl; intro yl))
    | split
    | with_reducible apply Keeps.foldl
    | with_reducible apply Keeps.foldl_snd2
    | with_reducible apply Keeps.foldl_snd
    | with_reducible apply Keeps.foldl_fst

theorem execEntropyHealthTest_keeps (pass : Bool) (s : State) {s0 : State} (h : Keeps s0 s) :
    ∀ z, execEntropyHealthTest pass s = .next z → Keeps s0 z := by
  unfold execEntropyHealthTest
  intro z e
  refine Keeps.of_next ?_ e
  repeat' first
    | with_reducible assumption
    | with_reducible apply State.event_keeps
    | with_reducible apply State.bump_keeps
    | with_reducible apply State.setFlag_keeps
    | with_reducible apply State.fault_keeps
    | (extract_lets +onlyGivenNames xl; first
        | (refine (fun (hx : Keeps s0 xl) => ?_) ?_; rotate_left; unfold xl; clear xl; rotate_left; clear_value xl; revert xl; intro yl hy)
        | (clear_value xl; revert xl; intro yl)
        | (revert xl; intro yl))
    | split
    | with_reducible apply Keeps.mk' rfl rfl rfl rfl rfl rfl rfl rfl rfl

theorem execDrbgHalt_keeps (s : State) {s0 : State} (h : Keeps s0 s) :
    ∀ z, execDrbgHalt s = .next z → Keeps s0 z := by
  unfold execDrbgHalt
  intro z e
  refine Keeps.of_next ?_ e
  repeat' first
    | with_reducible assumption
    | with_reducible apply State.drbgHalt_keeps
    | split

theorem execEntropyRetest_keeps (pass : Bool) (s : State) {s0 : State} (h : Keeps s0 s) :
    ∀ z, execEntropyRetest pass s = .next z → Keeps s0 z := by
  unfold execEntropyRetest
  intro z e
  refine Keeps.of_next ?_ e
  repeat' first
    | with_reducible assumption
    | with_reducible apply State.bump_keeps
    | with_reducible apply State.event_keeps
    | with_reducible apply State.reseed_keeps
    | with_reducible apply State.setFlag_keeps
    | (extract_lets +onlyGivenNames xl; first
        | (refine (fun (hx : Keeps s0 xl) => ?_) ?_; rotate_left; unfold xl; clear xl; rotate_left; clear_value xl; revert xl; intro yl hy)
        | (clear_value xl; revert xl; intro yl)
        | (revert xl; intro yl))
    | split
    | with_reducible apply Keeps.mk' rfl rfl rfl rfl rfl rfl rfl rfl rfl

theorem entReseedWrite_keeps (p : Page) (w : Word) (s : State) {s0 : State} (h : Keeps s0 s) :
    Keeps s0 (entReseedWrite p w s) := by
  unfold entReseedWrite
  repeat' first
    | with_reducible assumption
    | with_reducible apply applyWrite_keeps
    | with_reducible apply State.reseed_keeps
    | with_reducible apply State.drbgHalt_keeps
    | (extract_lets +onlyGivenNames xl; first
        | (refine (fun (hx : Keeps s0 xl) => ?_) ?_; rotate_left; unfold xl; clear xl; rotate_left; clear_value xl; revert xl; intro yl hy))
    | split

theorem execReseedNow_keeps (q : Req) (s : State) {s0 : State} (h : Keeps s0 s) :
    ∀ z, execReseedNow q s = .next z → Keeps s0 z := by
  unfold execReseedNow
  intro z e
  refine Keeps.of_next ?_ e
  repeat' first
    | with_reducible assumption
    | with_reducible apply writeWord_keeps
    | with_reducible apply entReseedWrite_keeps
    | intro _

theorem entRandRead_keeps (s : State) {s0 : State} (h : Keeps s0 s) :
    Keeps s0 (entRandRead s).2.2 := by
  unfold entRandRead
  repeat' first
    | with_reducible assumption
    | with_reducible apply State.bump_keeps
    | with_reducible apply State.draw_keeps
    | (extract_lets +onlyGivenNames xl; first
        | (refine (fun (hx : Keeps s0 xl) => ?_) ?_; rotate_left; unfold xl; clear xl; rotate_left; clear_value xl; revert xl; intro yl hy)
        | (refine (fun (hx : Keeps s0 xl.2) => ?_) ?_; rotate_left; unfold xl; clear xl; rotate_left; clear_value xl; revert xl; intro yl hy))
    | split
    | (refine Keeps.of_snd (by with_reducible assumption) ?_)

theorem execEntRandRead_keeps (q : RdReq) (s : State) {s0 : State} (h : Keeps s0 s) :
    ∀ z, execEntRandRead q s = .next z → Keeps s0 z := by
  unfold execEntRandRead
  intro z e
  refine Keeps.of_next ?_ e
  repeat' first
    | with_reducible assumption
    | with_reducible apply readWord_keeps
    | with_reducible apply entRandRead_keeps
    | with_reducible apply State.setLatch_keeps
    | intro _
    | (extract_lets +onlyGivenNames xl; first
        | (refine (fun (hx : Keeps s0 xl.2.2) => ?_) ?_; rotate_left; unfold xl; clear xl; rotate_left; clear_value xl; revert xl; intro yl hy))
    | (refine Keeps.of_snd2 (by with_reducible assumption) ?_)

theorem cphEffect_keeps (off : Nat) (p : Page) (w : Word) (s : State) {s0 : State} (h : Keeps s0 s) :
    Keeps s0 (cphEffect off p w s) := by
  unfold cphEffect
  repeat' first
    | with_reducible assumption
    | with_reducible apply cphTestWrite_keeps
    | with_reducible apply applyWrite_keeps
    | split

theorem entEffect_keeps (off : Nat) (p : Page) (w : Word) (s : State) {s0 : State} (h : Keeps s0 s) :
    Keeps s0 (entEffect off p w s) := by
  unfold entEffect
  repeat' first
    | with_reducible assumption
    | with_reducible apply entReseedWrite_keeps
    | with_reducible apply applyWrite_keeps
    | split

end Sys2Proof.Machine
end

