-- ==== Sys2Proof/Laws/Keeps/Frames.lean ====
section
/-! SUPPORT. That every operation of Frames keeps the relation of Laws/Keeps. -/

set_option Elab.async false

namespace Sys2Proof.Machine

theorem State.putFrame_keeps (s : State) (f : Frame) {s0 : State} (h : Keeps s0 s) :
    Keeps s0 (State.putFrame s f) := by
  unfold State.putFrame
  repeat' first
    | with_reducible assumption
    | with_reducible apply State.mapFrames_keeps
    | (extract_lets +onlyGivenNames xl; first
        | (clear_value xl; revert xl; intro yl)
        | (revert xl; intro yl))
    | split
    | with_reducible apply Keeps.mk' rfl rfl rfl rfl rfl rfl rfl rfl rfl

theorem State.delFrame_keeps (s : State) (id : Nat) {s0 : State} (h : Keeps s0 s) :
    Keeps s0 (State.delFrame s id) := by
  unfold State.delFrame
  repeat' first
    | with_reducible assumption
    | (extract_lets +onlyGivenNames xl; first
        | (clear_value xl; revert xl; intro yl)
        | (revert xl; intro yl))
    | with_reducible apply Keeps.mk' rfl rfl rfl rfl rfl rfl rfl rfl rfl

theorem State.takeNumber_keeps (s : State) (svc : Nat) (cls : Nat) {s0 : State} (h : Keeps s0 s) :
    Keeps s0 (State.takeNumber s svc cls).2 := by
  unfold State.takeNumber
  repeat' first
    | with_reducible assumption
    | with_reducible apply State.bump_keeps
    | (extract_lets +onlyGivenNames xl; first
        | (refine (fun (hx : Keeps s0 xl) => ?_) ?_; rotate_left; unfold xl; clear xl; rotate_left; clear_value xl; revert xl; intro yl hy)
        | (clear_value xl; revert xl; intro yl)
        | (revert xl; intro yl))
    | split
    | with_reducible apply Keeps.mk' rfl rfl rfl rfl rfl rfl rfl rfl rfl

theorem State.keyFrame_keeps (s : State) (f : Frame) {s0 : State} (h : Keeps s0 s) :
    Keeps s0 (State.keyFrame s f) := by
  unfold State.keyFrame
  repeat' first
    | with_reducible assumption
    | with_reducible apply State.protect_keeps
    | with_reducible apply State.putFrame_keeps
    | with_reducible apply State.dirMiss_keeps
    | with_reducible apply State.loseKey_keeps
    | (extract_lets +onlyGivenNames xl; first
        | (clear_value xl; revert xl; intro yl)
        | (revert xl; intro yl))
    | split

theorem State.noPath_keeps (s : State) (f : Frame) {s0 : State} (h : Keeps s0 s) :
    Keeps s0 (State.noPath s f) := by
  unfold State.noPath
  repeat' first
    | with_reducible assumption
    | with_reducible apply State.putFrame_keeps

theorem State.pathFrame_keeps (s : State) (f : Frame) (c : Nat) (peer : Nat) (div : Nat) {s0 : State} (h : Keeps s0 s) :
    Keeps s0 (State.pathFrame s f c peer div) := by
  unfold State.pathFrame
  repeat' first
    | with_reducible assumption
    | with_reducible apply State.putFrame_keeps
    | with_reducible apply State.keyFrame_keeps
    | (extract_lets +onlyGivenNames xl; first
        | (clear_value xl; revert xl; intro yl)
        | (revert xl; intro yl))
    | split

theorem State.floodFrame_keeps (s : State) (f : Frame) {s0 : State} (h : Keeps s0 s) :
    Keeps s0 (State.floodFrame s f) := by
  unfold State.floodFrame
  repeat' first
    | with_reducible assumption
    | with_reducible apply State.keyFrame_keeps
    | (extract_lets +onlyGivenNames xl; first
        | (refine (fun (hx : Keeps s0 xl) => ?_) ?_; rotate_left; unfold xl; clear xl; rotate_left; clear_value xl; revert xl; intro yl hy)
        | (clear_value xl; revert xl; intro yl)
        | (revert xl; intro yl))
    | with_reducible apply Keeps.mk' rfl rfl rfl rfl rfl rfl rfl rfl rfl

theorem State.oneHop_keeps (s : State) (f : Frame) {s0 : State} (h : Keeps s0 s) :
    Keeps s0 (State.oneHop s f) := by
  unfold State.oneHop
  repeat' first
    | with_reducible assumption
    | with_reducible apply State.noPath_keeps
    | with_reducible apply State.newId_keeps
    | with_reducible apply State.keyFrame_keeps
    | intro _
    | (extract_lets +onlyGivenNames xl; first
        | (refine (fun (hx : Keeps s0 xl.2) => ?_) ?_; rotate_left; unfold xl; clear xl; rotate_left; clear_value xl; revert xl; intro yl hy)
        | (clear_value xl; revert xl; intro yl)
        | (revert xl; intro yl))
    | split
    | with_reducible apply Keeps.foldl
    | (refine Keeps.of_snd (by with_reducible assumption) ?_)
    | with_reducible apply Keeps.foldl_snd2
    | with_reducible apply Keeps.foldl_snd
    | with_reducible apply Keeps.foldl_fst

theorem State.routeOrig_keeps (s : State) (f : Frame) {s0 : State} (h : Keeps s0 s) :
    Keeps s0 (State.routeOrig s f) := by
  unfold State.routeOrig
  repeat' first
    | with_reducible assumption
    | with_reducible apply State.floodFrame_keeps
    | with_reducible apply State.noPath_keeps
    | with_reducible apply State.oneHop_keeps
    | with_reducible apply State.countLookup_keeps
    | with_reducible apply State.pathFrame_keeps
    | with_reducible apply State.dirMiss_keeps
    | (extract_lets +onlyGivenNames xl; first
        | (refine (fun (hx : Keeps s0 xl) => ?_) ?_; rotate_left; unfold xl; clear xl; rotate_left; clear_value xl; revert xl; intro yl hy)
        | (clear_value xl; revert xl; intro yl)
        | (revert xl; intro yl))
    | split

theorem State.routeFwd_keeps (s : State) (f : Frame) {s0 : State} (h : Keeps s0 s) :
    Keeps s0 (State.routeFwd s f) := by
  unfold State.routeFwd
  repeat' first
    | with_reducible assumption
    | with_reducible apply State.putFrame_keeps
    | with_reducible apply State.noPath_keeps
    | with_reducible apply State.take_keeps
    | with_reducible apply State.countLookup_keeps
    | intro _
    | (extract_lets +onlyGivenNames xl; first
        | (refine (fun (hx : Keeps s0 xl) => ?_) ?_; rotate_left; unfold xl; clear xl; rotate_left; clear_value xl; revert xl; intro yl hy)
        | (refine (fun (hx : Keeps s0 xl.2) => ?_) ?_; rotate_left; unfold xl; clear xl; rotate_left; clear_value xl; revert xl; intro yl hy)
        | (clear_value xl; revert xl; intro yl)
        | (revert xl; intro yl))
    | split
    | (refine Keeps.of_snd (by with_reducible assumption) ?_)
    | with_reducible apply Keeps.mk' rfl rfl rfl rfl rfl rfl rfl rfl rfl

theorem State.routeFrame_keeps (s : State) (f : Frame) {s0 : State} (h : Keeps s0 s) :
    Keeps s0 (State.routeFrame s f) := by
  unfold State.routeFrame
  repeat' first
    | with_reducible assumption
    | with_reducible apply State.routeFwd_keeps
    | with_reducible apply State.routeOrig_keeps
    | split

theorem State.retryPaths_keeps (s : State) {s0 : State} (h : Keeps s0 s) :
    Keeps s0 (State.retryPaths s) := by
  unfold State.retryPaths
  repeat' first
    | with_reducible assumption
    | with_reducible apply State.routeFrame_keeps
    | intro _
    | with_reducible apply Keeps.foldl
    | with_reducible apply Keeps.foldl_snd2
    | with_reducible apply Keeps.foldl_snd
    | with_reducible apply Keeps.foldl_fst

theorem State.sendDev_keeps (s : State) (mtype : Nat) (svc : Nat) (prio : Nat) (dst : Nat) (data : List Nat) {s0 : State} (h : Keeps s0 s) :
    Keeps s0 (State.sendDev s mtype svc prio dst data) := by
  unfold State.sendDev
  repeat' first
    | with_reducible assumption
    | with_reducible apply State.takeNumber_keeps
    | with_reducible apply State.newId_keeps
    | with_reducible apply State.routeFrame_keeps
    | intro _
    | (extract_lets +onlyGivenNames xl; first
        | (refine (fun (hx : Keeps s0 xl.2) => ?_) ?_; rotate_left; unfold xl; clear xl; rotate_left; clear_value xl; revert xl; intro yl hy)
        | (clear_value xl; revert xl; intro yl)
        | (revert xl; intro yl))
    | split
    | with_reducible apply Keeps.foldl
    | (refine Keeps.of_snd (by with_reducible assumption) ?_)
    | with_reducible apply Keeps.foldl_snd2
    | with_reducible apply Keeps.foldl_snd
    | with_reducible apply Keeps.foldl_fst

end Sys2Proof.Machine
end

