-- ==== Sys2Proof/Laws/Keeps/Relay.lean ====
section
/-! SUPPORT. That every operation of Relay keeps the relation of Laws/Keeps. -/

set_option Elab.async false

namespace Sys2Proof.Machine

theorem State.segHanded_keeps (s : State) (id : Nat) (off : Nat) {s0 : State} (h : Keeps s0 s) :
    Keeps s0 (State.segHanded s id off) := by
  unfold State.segHanded
  repeat' first
    | with_reducible assumption
    | with_reducible apply State.setTenant_keeps
    | with_reducible apply State.completeMsg_keeps
    | intro _
    | with_reducible apply hg
    | with_reducible apply hg1
    | with_reducible apply hg2
    | (extract_lets +onlyGivenNames xl; first
        | (refine (fun (hx : ∀ t, Keeps s0 t → Keeps s0 (xl t)) => ?_) ?_; rotate_left; unfold xl; clear xl; rotate_left; clear_value xl; revert xl; intro yg hg1)
        | (refine (fun (hx : ∀ t a, Keeps s0 t → Keeps s0 (xl t a)) => ?_) ?_; rotate_left; unfold xl; clear xl; rotate_left; clear_value xl; revert xl; intro yg hg2)
        | (refine (fun (hx : ∀ t a b, Keeps s0 t → Keeps s0 (xl t a b)) => ?_) ?_; rotate_left; unfold xl; clear xl; rotate_left; clear_value xl; revert xl; intro yg hg)
        | (refine (fun (hx : ∀ t a b c, Keeps s0 t → Keeps s0 (xl t a b c)) => ?_) ?_; rotate_left; unfold xl; clear xl; rotate_left; clear_value xl; revert xl; intro yg hg)
        | (refine (fun (hx : ∀ a, Keeps s0 (xl a)) => ?_) ?_; rotate_left; unfold xl; clear xl; rotate_left; clear_value xl; revert xl; intro yg hg)
        | (refine (fun (hx : ∀ a b, Keeps s0 (xl a b)) => ?_) ?_; rotate_left; unfold xl; clear xl; rotate_left; clear_value xl; revert xl; intro yg hg)
        | (clear_value xl; revert xl; intro yl)
        | (revert xl; intro yl))
    | split

theorem State.setFlood_keeps (s : State) (x : Flood) {s0 : State} (h : Keeps s0 s) :
    Keeps s0 (State.setFlood s x) := by
  unfold State.setFlood
  repeat' first
    | with_reducible assumption
    | (extract_lets +onlyGivenNames xl; first
        | (clear_value xl; revert xl; intro yl)
        | (revert xl; intro yl))
    | split
    | with_reducible apply Keeps.mk' rfl rfl rfl rfl rfl rfl rfl rfl rfl

theorem State.delFlood_keeps (s : State) (src : Nat) (seq : Nat) (epoch : Nat) {s0 : State} (h : Keeps s0 s) :
    Keeps s0 (State.delFlood s src seq epoch) := by
  unfold State.delFlood
  repeat' first
    | with_reducible assumption
    | (extract_lets +onlyGivenNames xl; first
        | (clear_value xl; revert xl; intro yl)
        | (revert xl; intro yl))
    | with_reducible apply Keeps.mk' rfl rfl rfl rfl rfl rfl rfl rfl rfl

theorem State.seenInsert_keeps (s : State) (x : Flood) {s0 : State} (h : Keeps s0 s) :
    Keeps s0 (State.seenInsert s x).2 := by
  unfold State.seenInsert
  repeat' first
    | with_reducible assumption
    | with_reducible apply State.bump_keeps
    | with_reducible apply State.event_keeps
    | with_reducible apply State.delFlood_keeps
    | intro _
    | with_reducible apply hg
    | with_reducible apply hg1
    | with_reducible apply hg2
    | (extract_lets +onlyGivenNames xl; first
        | (refine (fun (hx : ∀ t, Keeps s0 t → Keeps s0 (xl t)) => ?_) ?_; rotate_left; unfold xl; clear xl; rotate_left; clear_value xl; revert xl; intro yg hg1)
        | (refine (fun (hx : ∀ t a, Keeps s0 t → Keeps s0 (xl t a)) => ?_) ?_; rotate_left; unfold xl; clear xl; rotate_left; clear_value xl; revert xl; intro yg hg2)
        | (refine (fun (hx : ∀ t a b, Keeps s0 t → Keeps s0 (xl t a b)) => ?_) ?_; rotate_left; unfold xl; clear xl; rotate_left; clear_value xl; revert xl; intro yg hg)
        | (refine (fun (hx : ∀ t a b c, Keeps s0 t → Keeps s0 (xl t a b c)) => ?_) ?_; rotate_left; unfold xl; clear xl; rotate_left; clear_value xl; revert xl; intro yg hg)
        | (refine (fun (hx : ∀ a, Keeps s0 (xl a)) => ?_) ?_; rotate_left; unfold xl; clear xl; rotate_left; clear_value xl; revert xl; intro yg hg)
        | (refine (fun (hx : ∀ a b, Keeps s0 (xl a b)) => ?_) ?_; rotate_left; unfold xl; clear xl; rotate_left; clear_value xl; revert xl; intro yg hg)
        | (clear_value xl; revert xl; intro yl)
        | (revert xl; intro yl))
    | split
    | with_reducible apply Keeps.foldl
    | with_reducible apply Keeps.foldl_snd2
    | with_reducible apply Keeps.foldl_snd
    | with_reducible apply Keeps.foldl_fst
    | with_reducible apply Keeps.mk' rfl rfl rfl rfl rfl rfl rfl rfl rfl

theorem State.annAcked_keeps (s : State) (id : Nat) {s0 : State} (h : Keeps s0 s) :
    Keeps s0 (State.annAcked s id) := by
  unfold State.annAcked
  repeat' first
    | with_reducible assumption
    | (extract_lets +onlyGivenNames xl; first
        | (clear_value xl; revert xl; intro yl)
        | (revert xl; intro yl))
    | split
    | with_reducible apply Keeps.mk' rfl rfl rfl rfl rfl rfl rfl rfl rfl

theorem State.floodDone_keeps (s : State) (x : Flood) {s0 : State} (h : Keeps s0 s) :
    Keeps s0 (State.floodDone s x) := by
  unfold State.floodDone
  repeat' first
    | with_reducible assumption
    | with_reducible apply State.bump_keeps
    | with_reducible apply State.delFlood_keeps
    | with_reducible apply State.setFlood_keeps
    | with_reducible apply State.delFrame_keeps
    | with_reducible apply State.segHanded_keeps
    | with_reducible apply State.annAcked_keeps
    | with_reducible apply State.routeFrame_keeps
    | (extract_lets +onlyGivenNames xl; first
        | (refine (fun (hx : Keeps s0 xl) => ?_) ?_; rotate_left; unfold xl; clear xl; rotate_left; clear_value xl; revert xl; intro yl hy))
    | split

theorem State.copyDone_keeps (s : State) (id : Nat) (ok : Bool) {s0 : State} (h : Keeps s0 s) :
    Keeps s0 (State.copyDone s id ok) := by
  unfold State.copyDone
  repeat' first
    | with_reducible assumption
    | with_reducible apply State.bump_keeps
    | with_reducible apply State.setFlood_keeps
    | with_reducible apply State.floodDone_keeps
    | (extract_lets +onlyGivenNames xl; first
        | (refine (fun (hx : Keeps s0 xl) => ?_) ?_; rotate_left; unfold xl; clear xl; rotate_left; clear_value xl; revert xl; intro yl hy)
        | (clear_value xl; revert xl; intro yl)
        | (revert xl; intro yl))
    | split

theorem State.floodCopy_keeps (s : State) (x : Flood) (c : Nat) (peer : Nat) (div : Nat) {s0 : State} (h : Keeps s0 s) :
    Keeps s0 (State.floodCopy s x c peer div).2 := by
  unfold State.floodCopy
  repeat' first
    | with_reducible assumption
    | with_reducible apply State.newId_keeps
    | with_reducible apply State.putFrame_keeps
    | (extract_lets +onlyGivenNames xl; first
        | (refine (fun (hx : Keeps s0 xl.2) => ?_) ?_; rotate_left; unfold xl; clear xl; rotate_left; clear_value xl; revert xl; intro yl hy)
        | (clear_value xl; revert xl; intro yl)
        | (revert xl; intro yl))
    | (refine Keeps.of_snd (by with_reducible assumption) ?_)

theorem State.floodCopies_keeps (s : State) (x : Flood) (l : List (Nat × Nat × Nat)) {s0 : State} (h : Keeps s0 s) :
    Keeps s0 (State.floodCopies s x l) := by
  unfold State.floodCopies
  repeat' first
    | with_reducible assumption
    | with_reducible apply State.floodCopy_keeps
    | with_reducible apply State.setFlood_keeps
    | intro _
    | (extract_lets +onlyGivenNames xl; first
        | (refine (fun (hx : Keeps s0 xl.2) => ?_) ?_; rotate_left; unfold xl; clear xl; rotate_left; clear_value xl; revert xl; intro yl hy))
    | with_reducible apply Keeps.foldl
    | (refine Keeps.of_snd (by with_reducible assumption) ?_)
    | with_reducible apply Keeps.foldl_snd2
    | with_reducible apply Keeps.foldl_snd
    | with_reducible apply Keeps.foldl_fst

theorem State.floodStart_keeps (s : State) (x : Flood) (netid : Nat) {s0 : State} (h : Keeps s0 s) :
    Keeps s0 (State.floodStart s x netid).2 := by
  unfold State.floodStart
  repeat' first
    | with_reducible assumption
    | with_reducible apply State.seenInsert_keeps
    | with_reducible apply State.awaitMirror_keeps
    | with_reducible apply State.floodCopies_keeps
    | with_reducible apply State.floodDone_keeps
    | with_reducible apply State.setFlood_keeps
    | (extract_lets +onlyGivenNames xl; first
        | (refine (fun (hx : Keeps s0 xl) => ?_) ?_; rotate_left; unfold xl; clear xl; rotate_left; clear_value xl; revert xl; intro yl hy)
        | (refine (fun (hx : Keeps s0 xl.2) => ?_) ?_; rotate_left; unfold xl; clear xl; rotate_left; clear_value xl; revert xl; intro yl hy)
        | (clear_value xl; revert xl; intro yl)
        | (revert xl; intro yl))
    | split
    | (refine Keeps.of_snd (by with_reducible assumption) ?_)

theorem State.fwdLeft_keeps (s : State) {s0 : State} (h : Keeps s0 s) :
    Keeps s0 (State.fwdLeft s) := by
  unfold State.fwdLeft
  repeat' first
    | with_reducible assumption
    | with_reducible apply State.setStatus_keeps
    | split

theorem State.originate_keeps (s : State) {s0 : State} (h : Keeps s0 s) :
    Keeps s0 (State.originate s) := by
  unfold State.originate
  repeat' first
    | with_reducible assumption
    | with_reducible apply State.putFrame_keeps
    | with_reducible apply State.delFrame_keeps
    | with_reducible apply State.bump_keeps
    | with_reducible apply State.floodStart_keeps
    | with_reducible apply State.fwdLeft_keeps
    | intro _
    | (extract_lets +onlyGivenNames xl; first
        | (refine (fun (hx : Keeps s0 xl) => ?_) ?_; rotate_left; unfold xl; clear xl; rotate_left; clear_value xl; revert xl; intro yl hy)
        | (refine (fun (hx : Keeps s0 xl.2) => ?_) ?_; rotate_left; unfold xl; clear xl; rotate_left; clear_value xl; revert xl; intro yl hy)
        | (clear_value xl; revert xl; intro yl)
        | (revert xl; intro yl))
    | split
    | with_reducible apply Keeps.foldl
    | with_reducible apply Keeps.foldl_snd2
    | with_reducible apply Keeps.foldl_snd
    | with_reducible apply Keeps.foldl_fst
    | (refine Keeps.of_snd (by with_reducible assumption) ?_)
    | with_reducible apply Keeps.mk' rfl rfl rfl rfl rfl rfl rfl rfl rfl

theorem State.relayDraw_keeps (s : State) (m : Mac) {s0 : State} (h : Keeps s0 s) :
    Keeps s0 (State.relayDraw s m).2 := by
  unfold State.relayDraw
  repeat' first
    | with_reducible assumption
    | with_reducible apply State.draw_keeps
    | (extract_lets +onlyGivenNames xl; first
        | (refine (fun (hx : Keeps s0 xl.2) => ?_) ?_; rotate_left; unfold xl; clear xl; rotate_left; clear_value xl; revert xl; intro yl hy)
        | (clear_value xl; revert xl; intro yl)
        | (revert xl; intro yl))
    | split
    | (refine Keeps.of_snd (by with_reducible assumption) ?_)

theorem State.floodHeard_keeps (s : State) (c : Nat) (m : Mac) (bytes : List Nat) (routed : Bool) {s0 : State} (h : Keeps s0 s) :
    Keeps s0 (State.floodHeard s c m bytes routed) := by
  unfold State.floodHeard
  repeat' first
    | with_reducible assumption
    | with_reducible apply State.relayDraw_keeps
    | with_reducible apply State.bump_keeps
    | with_reducible apply State.floodStart_keeps
    | with_reducible apply State.seenInsert_keeps
    | (extract_lets +onlyGivenNames xl; first
        | (refine (fun (hx : Keeps s0 xl) => ?_) ?_; rotate_left; unfold xl; clear xl; rotate_left; clear_value xl; revert xl; intro yl hy)
        | (refine (fun (hx : Keeps s0 xl.2) => ?_) ?_; rotate_left; unfold xl; clear xl; rotate_left; clear_value xl; revert xl; intro yl hy)
        | (clear_value xl; revert xl; intro yl)
        | (revert xl; intro yl))
    | split
    | (refine Keeps.of_snd (by with_reducible assumption) ?_)

theorem State.floodAgain_keeps (s : State) (x : Flood) (ttl : Nat) {s0 : State} (h : Keeps s0 s) :
    Keeps s0 (State.floodAgain s x ttl) := by
  unfold State.floodAgain
  repeat' first
    | with_reducible assumption
    | with_reducible apply State.bump_keeps
    | with_reducible apply State.floodDone_keeps
    | (extract_lets +onlyGivenNames xl; first
        | (refine (fun (hx : Keeps s0 xl) => ?_) ?_; rotate_left; unfold xl; clear xl; rotate_left; clear_value xl; revert xl; intro yl hy))
    | split

theorem execSeenAgeExpire_keeps (src : Nat) (seq : Nat) (epoch : Nat) (s : State) {s0 : State} (h : Keeps s0 s) :
    ∀ z, execSeenAgeExpire src seq epoch s = .next z → Keeps s0 z := by
  unfold execSeenAgeExpire
  intro z e
  refine Keeps.of_next ?_ e
  repeat' first
    | with_reducible assumption
    | with_reducible apply State.bump_keeps
    | with_reducible apply State.delFlood_keeps
    | split

theorem execReelAckTimeout_keeps (src : Nat) (seq : Nat) (epoch : Nat) (s : State) {s0 : State} (h : Keeps s0 s) :
    ∀ z, execReelAckTimeout src seq epoch s = .next z → Keeps s0 z := by
  unfold execReelAckTimeout
  intro z e
  refine Keeps.of_next ?_ e
  repeat' first
    | with_reducible assumption
    | with_reducible apply State.dispatch_keeps
    | with_reducible apply State.floodDone_keeps
    | with_reducible apply State.event_keeps
    | with_reducible apply State.bump_keeps
    | with_reducible apply State.floodCopies_keeps
    | split

theorem State.flushFloods_keeps (s : State) (gone : Flood → Bool) {s0 : State} (h : Keeps s0 s) :
    Keeps s0 (State.flushFloods s gone) := by
  unfold State.flushFloods
  repeat' first
    | with_reducible assumption
    | with_reducible apply State.routeFrame_keeps
    | with_reducible apply State.dispatch_keeps
    | with_reducible apply State.bumpBy_keeps
    | intro _
    | (extract_lets +onlyGivenNames xl; first
        | (refine (fun (hx : Keeps s0 xl) => ?_) ?_; rotate_left; unfold xl; clear xl; rotate_left; clear_value xl; revert xl; intro yl hy)
        | (clear_value xl; revert xl; intro yl)
        | (revert xl; intro yl))
    | split
    | with_reducible apply Keeps.foldl
    | with_reducible apply Keeps.foldl_snd2
    | with_reducible apply Keeps.foldl_snd
    | with_reducible apply Keeps.foldl_fst
    | (refine Keeps.of_snd (by with_reducible assumption) ?_)
    | with_reducible apply Keeps.mk' rfl rfl rfl rfl rfl rfl rfl rfl rfl

theorem seenFlushWrite_keeps (p : Page) (w : Word) (s : State) {s0 : State} (h : Keeps s0 s) :
    Keeps s0 (seenFlushWrite p w s) := by
  unfold seenFlushWrite
  repeat' first
    | with_reducible assumption
    | with_reducible apply applyWrite_keeps
    | with_reducible apply State.flushFloods_keeps
    | intro _
    | (extract_lets +onlyGivenNames xl; first
        | (refine (fun (hx : Keeps s0 xl) => ?_) ?_; rotate_left; unfold xl; clear xl; rotate_left; clear_value xl; revert xl; intro yl hy)
        | (clear_value xl; revert xl; intro yl)
        | (revert xl; intro yl))
    | split
    | (refine Keeps.of_snd (by with_reducible assumption) ?_)
    | with_reducible apply Keeps.mk' rfl rfl rfl rfl rfl rfl rfl rfl rfl

theorem execSeenFlush_keeps (q : Req) (s : State) {s0 : State} (h : Keeps s0 s) :
    ∀ z, execSeenFlush q s = .next z → Keeps s0 z := by
  unfold execSeenFlush
  intro z e
  refine Keeps.of_next ?_ e
  repeat' first
    | with_reducible assumption
    | with_reducible apply writeWord_keeps
    | with_reducible apply seenFlushWrite_keeps
    | intro _

theorem seenQueryWrite_keeps (p : Page) (w : Word) (s : State) {s0 : State} (h : Keeps s0 s) :
    Keeps s0 (seenQueryWrite p w s) := by
  unfold seenQueryWrite
  repeat' first
    | with_reducible assumption
    | with_reducible apply applyWrite_keeps
    | with_reducible apply State.event_keeps
    | with_reducible apply State.setReg_keeps
    | (extract_lets +onlyGivenNames xl; first
        | (refine (fun (hx : Keeps s0 xl) => ?_) ?_; rotate_left; unfold xl; clear xl; rotate_left; clear_value xl; revert xl; intro yl hy)
        | (clear_value xl; revert xl; intro yl)
        | (revert xl; intro yl))
    | split

theorem execSeenQuery_keeps (q : Req) (s : State) {s0 : State} (h : Keeps s0 s) :
    ∀ z, execSeenQuery q s = .next z → Keeps s0 z := by
  unfold execSeenQuery
  intro z e
  refine Keeps.of_next ?_ e
  repeat' first
    | with_reducible assumption
    | with_reducible apply writeWord_keeps
    | with_reducible apply seenQueryWrite_keeps
    | intro _

theorem State.forward_keeps (s : State) (m : Mac) (bytes : List Nat) {s0 : State} (h : Keeps s0 s) :
    Keeps s0 (State.forward s m bytes).2 := by
  unfold State.forward
  repeat' first
    | with_reducible assumption
    | with_reducible apply State.bump_keeps
    | with_reducible apply State.newId_keeps
    | with_reducible apply State.event_keeps
    | with_reducible apply State.setStatus_keeps
    | with_reducible apply State.routeFrame_keeps
    | (extract_lets +onlyGivenNames xl; first
        | (refine (fun (hx : Keeps s0 xl.2) => ?_) ?_; rotate_left; unfold xl; clear xl; rotate_left; clear_value xl; revert xl; intro yl hy)
        | (clear_value xl; revert xl; intro yl)
        | (revert xl; intro yl))
    | split
    | (refine Keeps.of_snd (by with_reducible assumption) ?_)

theorem execFwdHoldExpire_keeps (id : Nat) (s : State) {s0 : State} (h : Keeps s0 s) :
    ∀ z, execFwdHoldExpire id s = .next z → Keeps s0 z := by
  unfold execFwdHoldExpire
  intro z e
  refine Keeps.of_next ?_ e
  repeat' first
    | with_reducible assumption
    | with_reducible apply State.dispatch_keeps
    | with_reducible apply State.fwdLeft_keeps
    | with_reducible apply State.bump_keeps
    | with_reducible apply State.delFrame_keeps
    | split

theorem State.addAck_keeps (s : State) (c : Nat) (peer : Nat) (lseq : Nat) (cls : Nat) {s0 : State} (h : Keeps s0 s) :
    Keeps s0 (State.addAck s c peer lseq cls) := by
  unfold State.addAck
  repeat' first
    | with_reducible assumption
    | with_reducible apply State.putFrame_keeps
    | with_reducible apply State.keyFrame_keeps
    | with_reducible apply State.setArq_keeps
    | with_reducible apply State.newId_keeps
    | intro _
    | (extract_lets +onlyGivenNames xl; first
        | (refine (fun (hx : Keeps s0 xl) => ?_) ?_; rotate_left; unfold xl; clear xl; rotate_left; clear_value xl; revert xl; intro yl hy)
        | (refine (fun (hx : Keeps s0 xl.2) => ?_) ?_; rotate_left; unfold xl; clear xl; rotate_left; clear_value xl; revert xl; intro yl hy)
        | (clear_value xl; revert xl; intro yl)
        | (revert xl; intro yl))
    | split
    | with_reducible apply Keeps.foldl
    | with_reducible apply Keeps.foldl_snd2
    | with_reducible apply Keeps.foldl_snd
    | with_reducible apply Keeps.foldl_fst
    | (refine Keeps.of_snd (by with_reducible assumption) ?_)
    | with_reducible apply Keeps.mk' rfl rfl rfl rfl rfl rfl rfl rfl rfl

theorem State.ackLink_keeps (s : State) (c : Nat) (peer : Nat) (lseq : Nat) (cls : Nat) {s0 : State} (h : Keeps s0 s) :
    Keeps s0 (State.ackLink s c peer lseq cls) := by
  unfold State.ackLink
  repeat' first
    | with_reducible assumption
    | with_reducible apply State.awaitMirror_keeps
    | with_reducible apply State.addAck_keeps
    | split

theorem State.frameAcked_keeps (s : State) (f : Frame) {s0 : State} (h : Keeps s0 s) :
    Keeps s0 (State.frameAcked s f) := by
  unfold State.frameAcked
  repeat' first
    | with_reducible assumption
    | with_reducible apply State.delFrame_keeps
    | with_reducible apply State.segHanded_keeps
    | with_reducible apply State.annAcked_keeps
    | with_reducible apply State.copyDone_keeps
    | with_reducible apply State.fwdLeft_keeps
    | (extract_lets +onlyGivenNames xl; first
        | (refine (fun (hx : Keeps s0 xl) => ?_) ?_; rotate_left; unfold xl; clear xl; rotate_left; clear_value xl; revert xl; intro yl hy))
    | split

theorem State.acksIn_keeps (s : State) (c : Nat) (peer : Nat) (recs : List (Nat × Nat × Nat)) {s0 : State} (h : Keeps s0 s) :
    Keeps s0 (State.acksIn s c peer recs) := by
  unfold State.acksIn
  repeat' first
    | with_reducible assumption
    | with_reducible apply State.setArq_keeps
    | with_reducible apply State.frameAcked_keeps
    | intro _
    | (extract_lets +onlyGivenNames xl; first
        | (refine (fun (hx : Keeps s0 xl) => ?_) ?_; rotate_left; unfold xl; clear xl; rotate_left; clear_value xl; revert xl; intro yl hy)
        | (clear_value xl; revert xl; intro yl)
        | (revert xl; intro yl))
    | split
    | with_reducible apply Keeps.foldl
    | with_reducible apply Keeps.foldl_snd2
    | with_reducible apply Keeps.foldl_snd
    | with_reducible apply Keeps.foldl_fst

theorem execAckRx_keeps (c : Fin 64) (peer : Nat) (recs : List (Nat × Nat × Nat)) (s : State) {s0 : State} (h : Keeps s0 s) :
    ∀ z, execAckRx c peer recs s = .next z → Keeps s0 z := by
  unfold execAckRx
  intro z e
  refine Keeps.of_next ?_ e
  repeat' first
    | with_reducible assumption
    | with_reducible apply State.originate_keeps
    | with_reducible apply State.dispatch_keeps
    | with_reducible apply State.acksIn_keeps
    | split

theorem State.placeAgain_keeps (s : State) (f : Frame) {s0 : State} (h : Keeps s0 s) :
    Keeps s0 (State.placeAgain s f) := by
  unfold State.placeAgain
  repeat' first
    | with_reducible assumption
    | with_reducible apply State.copyDone_keeps
    | with_reducible apply State.delFrame_keeps
    | with_reducible apply State.routeFwd_keeps
    | with_reducible apply State.routeOrig_keeps
    | split

theorem State.retransmits_keeps (s : State) {s0 : State} (h : Keeps s0 s) :
    Keeps s0 (State.retransmits s) := by
  unfold State.retransmits
  repeat' first
    | with_reducible assumption
    | with_reducible apply State.putFrame_keeps
    | with_reducible apply State.setArq_keeps
    | with_reducible apply State.dropToDefault_keeps
    | with_reducible apply State.placeAgain_keeps
    | intro _
    | (extract_lets +onlyGivenNames xl; first
        | (refine (fun (hx : Keeps s0 xl) => ?_) ?_; rotate_left; unfold xl; clear xl; rotate_left; clear_value xl; revert xl; intro yl hy)
        | (clear_value xl; revert xl; intro yl)
        | (revert xl; intro yl))
    | split
    | with_reducible apply Keeps.foldl
    | with_reducible apply Keeps.foldl_snd2
    | with_reducible apply Keeps.foldl_snd
    | with_reducible apply Keeps.foldl_fst

theorem State.leaveLink_keeps (s : State) (c : Nat) (peer : Nat) {s0 : State} (h : Keeps s0 s) :
    Keeps s0 (State.leaveLink s c peer) := by
  unfold State.leaveLink
  repeat' first
    | with_reducible assumption
    | with_reducible apply State.placeAgain_keeps
    | intro _
    | split
    | with_reducible apply Keeps.foldl
    | with_reducible apply Keeps.foldl_snd2
    | with_reducible apply Keeps.foldl_snd
    | with_reducible apply Keeps.foldl_fst

theorem execLinkDown_keeps (c : Fin 64) (peer : Nat) (s : State) {s0 : State} (h : Keeps s0 s) :
    ∀ z, execLinkDown c peer s = .next z → Keeps s0 z := by
  unfold execLinkDown
  intro z e
  refine Keeps.of_next ?_ e
  repeat' first
    | with_reducible assumption
    | with_reducible apply State.setArq_keeps
    | with_reducible apply State.dispatch_keeps
    | with_reducible apply State.leaveLink_keeps
    | with_reducible apply State.markLink_keeps
    | (extract_lets +onlyGivenNames xl; first
        | (refine (fun (hx : Keeps s0 xl) => ?_) ?_; rotate_left; unfold xl; clear xl; rotate_left; clear_value xl; revert xl; intro yl hy)
        | (clear_value xl; revert xl; intro yl)
        | (revert xl; intro yl))
    | split

theorem State.linksAtSuperframe_keeps (s : State) {s0 : State} (h : Keeps s0 s) :
    Keeps s0 (State.linksAtSuperframe s) := by
  unfold State.linksAtSuperframe
  repeat' first
    | with_reducible assumption
    | with_reducible apply State.setArq_keeps
    | with_reducible apply State.markLink_keeps
    | intro _
    | (extract_lets +onlyGivenNames xl; first
        | (refine (fun (hx : Keeps s0 xl) => ?_) ?_; rotate_left; unfold xl; clear xl; rotate_left; clear_value xl; revert xl; intro yl hy)
        | (clear_value xl; revert xl; intro yl)
        | (revert xl; intro yl))
    | split
    | with_reducible apply Keeps.foldl
    | with_reducible apply Keeps.foldl_snd2
    | with_reducible apply Keeps.foldl_snd
    | with_reducible apply Keeps.foldl_fst
    | (refine Keeps.of_snd (by with_reducible assumption) ?_)
    | with_reducible apply Keeps.mk' rfl rfl rfl rfl rfl rfl rfl rfl rfl

theorem seenEffect_keeps (off : Nat) (p : Page) (w : Word) (s : State) {s0 : State} (h : Keeps s0 s) :
    Keeps s0 (seenEffect off p w s) := by
  unfold seenEffect
  repeat' first
    | with_reducible assumption
    | with_reducible apply seenFlushWrite_keeps
    | with_reducible apply seenQueryWrite_keeps
    | with_reducible apply applyWrite_keeps
    | split

end Sys2Proof.Machine
end

