-- ==== Sys2Proof/Laws/Keeps/Reception.lean ====
section
/-! SUPPORT. That every operation of Reception keeps the relation of Laws/Keeps. -/

set_option Elab.async false

namespace Sys2Proof.Machine

theorem State.confirm_keeps (s : State) (src : Nat) (recs : List (Nat × Nat × Nat)) {s0 : State} (h : Keeps s0 s) :
    Keeps s0 (State.confirm s src recs) := by
  unfold State.confirm
  repeat' first
    | with_reducible assumption
    | with_reducible apply State.completeMsg_keeps
    | with_reducible apply State.dropFrames_keeps
    | intro _
    | split
    | with_reducible apply Keeps.foldl
    | with_reducible apply Keeps.foldl_snd2
    | with_reducible apply Keeps.foldl_snd
    | with_reducible apply Keeps.foldl_fst

theorem State.sendConfirm_keeps (s : State) (src : Nat) (svc : Nat) (no : Nat) (status : Nat) {s0 : State} (h : Keeps s0 s) :
    Keeps s0 (State.sendConfirm s src svc no status) := by
  unfold State.sendConfirm
  repeat' first
    | with_reducible assumption
    | with_reducible apply State.confirm_keeps
    | with_reducible apply State.sendDev_keeps
    | split

theorem execConfirmationRx_keeps (src : Nat) (recs : List (Nat × Nat × Nat)) (s : State) {s0 : State} (h : Keeps s0 s) :
    ∀ z, execConfirmationRx src recs s = .next z → Keeps s0 z := by
  unfold execConfirmationRx
  intro z e
  refine Keeps.of_next ?_ e
  repeat' first
    | with_reducible assumption
    | with_reducible apply State.confirm_keeps
    | split

theorem State.advRecord_keeps (s : State) (c : Nat) (adv : Nat) (hop : Nat) (pre : Nat) (len : Nat) (metric : Nat) {s0 : State} (h : Keeps s0 s) :
    Keeps s0 (State.advRecord s c adv hop pre len metric) := by
  unfold State.advRecord
  repeat' first
    | with_reducible assumption
    | with_reducible apply State.bump_keeps
    | with_reducible apply State.putRoute_keeps
    | with_reducible apply State.event_keeps
    | with_reducible apply State.delRoute_keeps
    | (extract_lets +onlyGivenNames xl; first
        | (clear_value xl; revert xl; intro yl)
        | (revert xl; intro yl))
    | split

theorem State.advIn_keeps (s : State) (c : Nat) (src : Nat) (d : List Nat) {s0 : State} (h : Keeps s0 s) :
    Keeps s0 (State.advIn s c src d) := by
  unfold State.advIn
  repeat' first
    | with_reducible assumption
    | with_reducible apply State.advRecord_keeps
    | with_reducible apply State.bump_keeps
    | intro _
    | (extract_lets +onlyGivenNames xl; first
        | (clear_value xl; revert xl; intro yl)
        | (revert xl; intro yl))
    | split
    | with_reducible apply Keeps.foldl
    | with_reducible apply Keeps.foldl_snd2
    | with_reducible apply Keeps.foldl_snd
    | with_reducible apply Keeps.foldl_fst

theorem execRouteAdvRx_keeps (c : Fin 64) (src : Nat) (d : List Nat) (s : State) {s0 : State} (h : Keeps s0 s) :
    ∀ z, execRouteAdvRx c src d s = .next z → Keeps s0 z := by
  unfold execRouteAdvRx
  intro z e
  refine Keeps.of_next ?_ e
  repeat' first
    | with_reducible assumption
    | with_reducible apply State.advIn_keeps
    | split

theorem State.mergeEntry_keeps (s : State) (b : List Nat) {s0 : State} (h : Keeps s0 s) :
    Keeps s0 (State.mergeEntry s b) := by
  unfold State.mergeEntry
  repeat' first
    | with_reducible assumption
    | with_reducible apply State.dirPut_keeps
    | with_reducible apply State.bump_keeps
    | with_reducible apply State.dirMake_keeps
    | with_reducible apply State.event_keeps
    | intro _
    | with_reducible apply hg
    | with_reducible apply hg1
    | with_reducible apply hg2
    | (extract_lets +onlyGivenNames xl; first
        | (refine (fun (hx : Keeps s0 xl) => ?_) ?_; rotate_left; unfold xl; clear xl; rotate_left; clear_value xl; revert xl; intro yl hy)
        | (refine (fun (hx : ∀ t, Keeps s0 t → Keeps s0 (xl t)) => ?_) ?_; rotate_left; unfold xl; clear xl; rotate_left; clear_value xl; revert xl; intro yg hg1)
        | (refine (fun (hx : ∀ t a, Keeps s0 t → Keeps s0 (xl t a)) => ?_) ?_; rotate_left; unfold xl; clear xl; rotate_left; clear_value xl; revert xl; intro yg hg2)
        | (refine (fun (hx : ∀ t a b, Keeps s0 t → Keeps s0 (xl t a b)) => ?_) ?_; rotate_left; unfold xl; clear xl; rotate_left; clear_value xl; revert xl; intro yg hg)
        | (refine (fun (hx : ∀ t a b c, Keeps s0 t → Keeps s0 (xl t a b c)) => ?_) ?_; rotate_left; unfold xl; clear xl; rotate_left; clear_value xl; revert xl; intro yg hg)
        | (refine (fun (hx : ∀ a, Keeps s0 (xl a)) => ?_) ?_; rotate_left; unfold xl; clear xl; rotate_left; clear_value xl; revert xl; intro yg hg)
        | (refine (fun (hx : ∀ a b, Keeps s0 (xl a b)) => ?_) ?_; rotate_left; unfold xl; clear xl; rotate_left; clear_value xl; revert xl; intro yg hg)
        | (clear_value xl; revert xl; intro yl)
        | (revert xl; intro yl))
    | split

theorem State.mergeIn_keeps (s : State) (d : List Nat) {s0 : State} (h : Keeps s0 s) :
    Keeps s0 (State.mergeIn s d) := by
  unfold State.mergeIn
  repeat' first
    | with_reducible assumption
    | with_reducible apply State.mergeEntry_keeps
    | intro _
    | with_reducible apply Keeps.foldl
    | with_reducible apply Keeps.foldl_snd2
    | with_reducible apply Keeps.foldl_snd
    | with_reducible apply Keeps.foldl_fst

theorem execDirMergeRx_keeps (d : List Nat) (s : State) {s0 : State} (h : Keeps s0 s) :
    ∀ z, execDirMergeRx d s = .next z → Keeps s0 z := by
  unfold execDirMergeRx
  intro z e
  refine Keeps.of_next ?_ e
  repeat' first
    | with_reducible assumption
    | with_reducible apply State.quotas_keeps
    | with_reducible apply State.mergeIn_keeps
    | split

theorem State.reached_keeps (s : State) (i : Nat) {s0 : State} (h : Keeps s0 s) :
    Keeps s0 (State.reached s i) := by
  unfold State.reached
  repeat' first
    | with_reducible assumption
    | with_reducible apply State.dirPutLe_keeps
    | with_reducible apply State.dirPut_keeps
    | with_reducible apply State.dirSetFlag_keeps
    | with_reducible apply State.event_keeps
    | (extract_lets +onlyGivenNames xl; first
        | (refine (fun (hx : Keeps s0 xl) => ?_) ?_; rotate_left; unfold xl; clear xl; rotate_left; clear_value xl; revert xl; intro yl hy)
        | (clear_value xl; revert xl; intro yl)
        | (revert xl; intro yl))
    | split

theorem State.addAwake_keeps (s : State) (n : Nat) {s0 : State} (h : Keeps s0 s) :
    Keeps s0 (State.addAwake s n) := by
  unfold State.addAwake
  repeat' first
    | with_reducible assumption
    | (extract_lets +onlyGivenNames xl; first
        | (clear_value xl; revert xl; intro yl)
        | (revert xl; intro yl))
    | split
    | with_reducible apply Keeps.mk' rfl rfl rfl rfl rfl rfl rfl rfl rfl

theorem State.sleeperHeard_keeps (s : State) (n : Nat) {s0 : State} (h : Keeps s0 s) :
    Keeps s0 (State.sleeperHeard s n) := by
  unfold State.sleeperHeard
  repeat' first
    | with_reducible assumption
    | with_reducible apply State.addAwake_keeps
    | with_reducible apply State.reached_keeps
    | split

theorem State.announceIn_keeps (s : State) (src : Nat) (d : List Nat) {s0 : State} (h : Keeps s0 s) :
    Keeps s0 (State.announceIn s src d) := by
  unfold State.announceIn
  repeat' first
    | with_reducible assumption
    | with_reducible apply State.bump_keeps
    | with_reducible apply State.dirMake_keeps
    | with_reducible apply State.event_keeps
    | with_reducible apply State.addAwake_keeps
    | with_reducible apply State.reached_keeps
    | with_reducible apply State.dirSetFlag_keeps
    | with_reducible apply State.dirPut_keeps
    | (extract_lets +onlyGivenNames xl; first
        | (refine (fun (hx : Keeps s0 xl) => ?_) ?_; rotate_left; unfold xl; clear xl; rotate_left; clear_value xl; revert xl; intro yl hy)
        | (refine (fun (hx : Keeps s0 xl.2) => ?_) ?_; rotate_left; unfold xl; clear xl; rotate_left; clear_value xl; revert xl; intro yl hy))
    | split

theorem execSleepAnnounceRx_keeps (src : Nat) (d : List Nat) (s : State) {s0 : State} (h : Keeps s0 s) :
    ∀ z, execSleepAnnounceRx src d s = .next z → Keeps s0 z := by
  unfold execSleepAnnounceRx
  intro z e
  refine Keeps.of_next ?_ e
  repeat' first
    | with_reducible assumption
    | with_reducible apply State.announceIn_keeps
    | split

theorem State.lastGaspIn_keeps (s : State) (src : Nat) (d : List Nat) {s0 : State} (h : Keeps s0 s) :
    Keeps s0 (State.lastGaspIn s src d) := by
  unfold State.lastGaspIn
  repeat' first
    | with_reducible assumption
    | with_reducible apply State.bump_keeps
    | with_reducible apply State.event_keeps
    | with_reducible apply State.setReg_keeps

theorem State.devMessage_keeps (s : State) (c : Nat) (src : Nat) (svc : Nat) (d : List Nat) {s0 : State} (h : Keeps s0 s) :
    Keeps s0 (State.devMessage s c src svc d) := by
  unfold State.devMessage
  repeat' first
    | with_reducible assumption
    | with_reducible apply State.advIn_keeps
    | with_reducible apply State.mergeIn_keeps
    | with_reducible apply State.announceIn_keeps
    | with_reducible apply State.confirm_keeps
    | with_reducible apply State.lastGaspIn_keeps
    | (extract_lets +onlyGivenNames xl; first
        | (clear_value xl; revert xl; intro yl)
        | (revert xl; intro yl))
    | split

theorem State.dupTouch_keeps (s : State) (src : Nat) (svc : Nat) (prio : Nat) (no : Nat) {s0 : State} (h : Keeps s0 s) :
    Keeps s0 (State.dupTouch s src svc prio no) := by
  unfold State.dupTouch
  repeat' first
    | with_reducible assumption
    | intro _
    | (extract_lets +onlyGivenNames xl; first
        | (refine (fun (hx : Keeps s0 xl) => ?_) ?_; rotate_left; unfold xl; clear xl; rotate_left; clear_value xl; revert xl; intro yl hy)
        | (clear_value xl; revert xl; intro yl)
        | (revert xl; intro yl))
    | split
    | with_reducible apply Keeps.foldl
    | with_reducible apply Keeps.foldl_snd2
    | with_reducible apply Keeps.foldl_snd
    | with_reducible apply Keeps.foldl_fst
    | (refine Keeps.of_snd (by with_reducible assumption) ?_)
    | with_reducible apply Keeps.mk' rfl rfl rfl rfl rfl rfl rfl rfl rfl

theorem State.dupMark_keeps (s : State) (src : Nat) (svc : Nat) (prio : Nat) (no : Nat) {s0 : State} (h : Keeps s0 s) :
    Keeps s0 (State.dupMark s src svc prio no) := by
  unfold State.dupMark
  repeat' first
    | with_reducible assumption
    | (extract_lets +onlyGivenNames xl; first
        | (clear_value xl; revert xl; intro yl)
        | (revert xl; intro yl))
    | split
    | with_reducible apply Keeps.mk' rfl rfl rfl rfl rfl rfl rfl rfl rfl

theorem State.setWaits_keeps (s : State) (t : Fin 8) (l : List Waiting) {s0 : State} (h : Keeps s0 s) :
    Keeps s0 (State.setWaits s t l) := by
  unfold State.setWaits
  repeat' first
    | with_reducible assumption
    | with_reducible apply State.setTenant_keeps
    | (extract_lets +onlyGivenNames xl; first
        | (clear_value xl; revert xl; intro yl)
        | (revert xl; intro yl))

theorem State.dropNotice_keeps (s : State) (t : Fin 8) (w : Waiting) (status : Nat) {s0 : State} (h : Keeps s0 s) :
    Keeps s0 (State.dropNotice s t w status) := by
  unfold State.dropNotice
  repeat' first
    | with_reducible assumption
    | with_reducible apply State.histSample_keeps
    | with_reducible apply State.setWaits_keeps
    | with_reducible apply State.event_keeps
    | with_reducible apply State.postComp_keeps
    | with_reducible apply State.sendConfirm_keeps
    | (extract_lets +onlyGivenNames xl; first
        | (refine (fun (hx : Keeps s0 xl) => ?_) ?_; rotate_left; unfold xl; clear xl; rotate_left; clear_value xl; revert xl; intro yl hy)
        | (clear_value xl; revert xl; intro yl)
        | (revert xl; intro yl))
    | split

theorem State.spillOrDrop_keeps (s : State) (t : Fin 8) (w : Waiting) {s0 : State} (h : Keeps s0 s) :
    Keeps s0 (State.spillOrDrop s t w) := by
  unfold State.spillOrDrop
  repeat' first
    | with_reducible assumption
    | with_reducible apply State.event_keeps
    | with_reducible apply State.bump_keeps
    | with_reducible apply State.setWaits_keeps
    | with_reducible apply State.dropNotice_keeps
    | (extract_lets +onlyGivenNames xl; first
        | (clear_value xl; revert xl; intro yl)
        | (revert xl; intro yl))
    | split

theorem State.pressure_keeps (s : State) (t : Fin 8) {s0 : State} (h : Keeps s0 s) :
    Keeps s0 (State.pressure s t) := by
  unfold State.pressure
  repeat' first
    | with_reducible assumption
    | with_reducible apply State.setTenant_keeps
    | (extract_lets +onlyGivenNames xl; first
        | (clear_value xl; revert xl; intro yl)
        | (revert xl; intro yl))

theorem State.settleWaits_keeps (s : State) (t : Fin 8) {s0 : State} (h : Keeps s0 s) :
    Keeps s0 (State.settleWaits s t) := by
  unfold State.settleWaits
  repeat' first
    | with_reducible assumption
    | with_reducible apply State.setWaits_keeps
    | with_reducible apply State.spillOrDrop_keeps
    | with_reducible apply State.quotas_keeps
    | with_reducible apply State.pressure_keeps
    | intro _
    | (extract_lets +onlyGivenNames xl; first
        | (refine (fun (hx : Keeps s0 xl) => ?_) ?_; rotate_left; unfold xl; clear xl; rotate_left; clear_value xl; revert xl; intro yl hy)
        | (clear_value xl; revert xl; intro yl)
        | (revert xl; intro yl))
    | split
    | with_reducible apply Keeps.foldl
    | with_reducible apply Keeps.foldl_snd2
    | with_reducible apply Keeps.foldl_snd
    | with_reducible apply Keeps.foldl_fst

theorem State.setOrdered_keeps (s : State) (t : Fin 8) (w : Waiting) {s0 : State} (h : Keeps s0 s) :
    Keeps s0 (State.setOrdered s t w) := by
  unfold State.setOrdered
  repeat' first
    | with_reducible assumption
    | with_reducible apply State.setWaits_keeps
    | (extract_lets +onlyGivenNames xl; first
        | (refine (fun (hx : Keeps s0 xl) => ?_) ?_; rotate_left; unfold xl; clear xl; rotate_left; clear_value xl; revert xl; intro yl hy)
        | (clear_value xl; revert xl; intro yl)
        | (revert xl; intro yl))
    | split
    | with_reducible apply Keeps.mk' rfl rfl rfl rfl rfl rfl rfl rfl rfl

theorem State.settleOrder_keeps (s : State) (t : Fin 8) {s0 : State} (h : Keeps s0 s) :
    Keeps s0 (State.settleOrder s t) := by
  unfold State.settleOrder
  repeat' first
    | with_reducible assumption
    | with_reducible apply State.settleWaits_keeps
    | with_reducible apply State.setOrdered_keeps
    | intro _
    | (extract_lets +onlyGivenNames xl; first
        | (clear_value xl; revert xl; intro yl)
        | (revert xl; intro yl))
    | split
    | with_reducible apply Keeps.foldl
    | with_reducible apply Keeps.foldl_snd2
    | with_reducible apply Keeps.foldl_snd
    | with_reducible apply Keeps.foldl_fst

theorem State.unboundIn_keeps (s : State) {s0 : State} (h : Keeps s0 s) :
    Keeps s0 (State.unboundIn s) := by
  unfold State.unboundIn
  repeat' first
    | with_reducible assumption
    | intro _
    | split
    | with_reducible apply Keeps.mk' rfl rfl rfl rfl rfl rfl rfl rfl rfl

theorem State.fullIn_keeps (s : State) {s0 : State} (h : Keeps s0 s) :
    Keeps s0 (State.fullIn s) := by
  unfold State.fullIn
  repeat' first
    | with_reducible assumption
    | intro _
    | split
    | with_reducible apply Keeps.mk' rfl rfl rfl rfl rfl rfl rfl rfl rfl

theorem State.confirmNo_keeps (s : State) (e2e : Bool) (src : Nat) (svc : Nat) (no : Nat) (st : Nat) {s0 : State} (h : Keeps s0 s) :
    Keeps s0 (State.confirmNo s e2e src svc no st) := by
  unfold State.confirmNo
  repeat' first
    | with_reducible assumption
    | with_reducible apply State.sendConfirm_keeps
    | intro _
    | split
    | with_reducible apply Keeps.mk' rfl rfl rfl rfl rfl rfl rfl rfl rfl

theorem State.waitIn_keeps (s : State) (t : Fin 8) (w : Nat → Waiting) {s0 : State} (h : Keeps s0 s) :
    Keeps s0 (State.waitIn s t w) := by
  unfold State.waitIn
  repeat' first
    | with_reducible assumption
    | with_reducible apply State.setWaits_keeps
    | with_reducible apply State.settleOrder_keeps
    | with_reducible apply State.newId_keeps
    | intro _
    | (extract_lets +onlyGivenNames xl; first
        | (refine (fun (hx : Keeps s0 xl) => ?_) ?_; rotate_left; unfold xl; clear xl; rotate_left; clear_value xl; revert xl; intro yl hy)
        | (refine (fun (hx : Keeps s0 xl.2) => ?_) ?_; rotate_left; unfold xl; clear xl; rotate_left; clear_value xl; revert xl; intro yl hy)
        | (clear_value xl; revert xl; intro yl)
        | (revert xl; intro yl))
    | split
    | (refine Keeps.of_snd (by with_reducible assumption) ?_)
    | with_reducible apply Keeps.mk' rfl rfl rfl rfl rfl rfl rfl rfl rfl

theorem State.messageIn_keeps (s : State) (src : Nat) (svc : Nat) (prio : Nat) (no : Nat) (dst : Nat) (e2e : Bool) (keysel : Option Nat) (data : List Nat) (at_ : Nat) {s0 : State} (h : Keeps s0 s) :
    Keeps s0 (State.messageIn s src svc prio no dst e2e keysel data at_) := by
  unfold State.messageIn
  have h1 := State.dupMark_keeps _ src svc prio no (State.dupTouch_keeps _ src svc prio no h)
  generalize (s.dupTouch src svc prio no).dupMark src svc prio no = s1 at h1
  dsimp only
  repeat' first
    | with_reducible exact State.confirmNo_keeps _ _ _ _ _ _ (State.unboundIn_keeps _ h1)
    | with_reducible exact State.confirmNo_keeps _ _ _ _ _ _ (State.bump_keeps _ _ _ (State.histSample_keeps _ _ _ _ h1))
    | with_reducible exact State.histSample_keeps _ _ _ _ h1
    | with_reducible exact State.waitIn_keeps _ _ _ h1
    | split

theorem execOrderWaitExpire_keeps (t : Fin 8) (id : Nat) (s : State) {s0 : State} (h : Keeps s0 s) :
    ∀ z, execOrderWaitExpire t id s = .next z → Keeps s0 z := by
  unfold execOrderWaitExpire
  intro z e
  refine Keeps.of_next ?_ e
  repeat' first
    | with_reducible assumption
    | with_reducible apply State.dispatch_keeps
    | with_reducible apply State.setOrdered_keeps
    | with_reducible apply State.settleOrder_keeps
    | intro _
    | split
    | with_reducible apply Keeps.foldl
    | with_reducible apply Keeps.foldl_snd2
    | with_reducible apply Keeps.foldl_snd
    | with_reducible apply Keeps.foldl_fst
    | (refine Keeps.of_snd (by with_reducible assumption) ?_)
    | with_reducible apply Keeps.mk' rfl rfl rfl rfl rfl rfl rfl rfl rfl

theorem execWaitAgeExpire_keeps (t : Fin 8) (id : Nat) (s : State) {s0 : State} (h : Keeps s0 s) :
    ∀ z, execWaitAgeExpire t id s = .next z → Keeps s0 z := by
  unfold execWaitAgeExpire
  intro z e
  refine Keeps.of_next ?_ e
  repeat' first
    | with_reducible assumption
    | with_reducible apply State.dispatch_keeps
    | with_reducible apply State.settleWaits_keeps
    | with_reducible apply State.spillOrDrop_keeps
    | split

theorem State.segmentIn_keeps (s : State) (m : Mac) (dev : Bool) (p : List Nat) {s0 : State} (h : Keeps s0 s) :
    Keeps s0 (State.segmentIn s m dev p).2 := by
  unfold State.segmentIn
  repeat' first
    | with_reducible assumption
    | (extract_lets +onlyGivenNames xl; first
        | (clear_value xl; revert xl; intro yl)
        | (revert xl; intro yl))
    | split
    | with_reducible apply Keeps.mk' rfl rfl rfl rfl rfl rfl rfl rfl rfl

theorem execReasmTimeout_keeps (src : Nat) (svc : Nat) (prio : Nat) (no : Nat) (dev : Bool) (s : State) {s0 : State} (h : Keeps s0 s) :
    ∀ z, execReasmTimeout src svc prio no dev s = .next z → Keeps s0 z := by
  unfold execReasmTimeout
  intro z e
  refine Keeps.of_next ?_ e
  repeat' first
    | with_reducible assumption
    | with_reducible apply State.dispatch_keeps
    | with_reducible apply State.settleOrder_keeps
    | with_reducible apply State.histSample_keeps
    | with_reducible apply State.bump_keeps
    | (extract_lets +onlyGivenNames xl; first
        | (refine (fun (hx : Keeps s0 xl) => ?_) ?_; rotate_left; unfold xl; clear xl; rotate_left; clear_value xl; revert xl; intro yl hy)
        | (clear_value xl; revert xl; intro yl)
        | (revert xl; intro yl))
    | split
    | with_reducible apply Keeps.mk' rfl rfl rfl rfl rfl rfl rfl rfl rfl

theorem State.devFrame_keeps (s : State) (c : Nat) (m : Mac) (p : List Nat) {s0 : State} (h : Keeps s0 s) :
    Keeps s0 (State.devFrame s c m p) := by
  unfold State.devFrame
  repeat' first
    | with_reducible assumption
    | with_reducible apply State.acksIn_keeps
    | with_reducible apply State.segmentIn_keeps
    | with_reducible apply State.devMessage_keeps
    | (extract_lets +onlyGivenNames xl; first
        | (refine (fun (hx : Keeps s0 xl.2) => ?_) ?_; rotate_left; unfold xl; clear xl; rotate_left; clear_value xl; revert xl; intro yl hy))
    | split
    | (refine Keeps.of_snd (by with_reducible assumption) ?_)

theorem State.tenFrame_keeps (s : State) (m : Mac) (p : List Nat) (at_ : Nat) {s0 : State} (h : Keeps s0 s) :
    Keeps s0 (State.tenFrame s m p at_).2 := by
  unfold State.tenFrame
  repeat' first
    | with_reducible assumption
    | with_reducible apply State.refuse_keeps
    | with_reducible apply State.dirCount_keeps
    | with_reducible apply State.bump_keeps
    | with_reducible apply State.sendConfirm_keeps
    | with_reducible apply State.dupTouch_keeps
    | with_reducible apply State.settleOrder_keeps
    | with_reducible apply State.fullIn_keeps
    | with_reducible apply State.messageIn_keeps
    | with_reducible apply State.segmentIn_keeps
    | intro _
    | (extract_lets +onlyGivenNames xl; first
        | (refine (fun (hx : Keeps s0 xl) => ?_) ?_; rotate_left; unfold xl; clear xl; rotate_left; clear_value xl; revert xl; intro yl hy)
        | (refine (fun (hx : Keeps s0 xl.2) => ?_) ?_; rotate_left; unfold xl; clear xl; rotate_left; clear_value xl; revert xl; intro yl hy)
        | (clear_value xl; revert xl; intro yl)
        | (revert xl; intro yl))
    | split
    | with_reducible apply Keeps.foldl
    | with_reducible apply Keeps.foldl_snd2
    | with_reducible apply Keeps.foldl_snd
    | with_reducible apply Keeps.foldl_fst
    | (refine Keeps.of_snd (by with_reducible assumption) ?_)
    | with_reducible apply Keeps.mk' rfl rfl rfl rfl rfl rfl rfl rfl rfl

theorem State.askAuth_keeps (s : State) (r : MacRx) (m : Mac) (wake : Option Nat) (k : Nat) {s0 : State} (h : Keeps s0 s) :
    Keeps s0 (State.askAuth s r m wake k) := by
  unfold State.askAuth
  repeat' first
    | with_reducible assumption
    | with_reducible apply State.addReq_keeps
    | with_reducible apply State.newId_keeps
    | with_reducible apply State.wake_keeps
    | intro _
    | (extract_lets +onlyGivenNames xl; first
        | (refine (fun (hx : Keeps s0 xl) => ?_) ?_; rotate_left; unfold xl; clear xl; rotate_left; clear_value xl; revert xl; intro yl hy)
        | (refine (fun (hx : Keeps s0 xl.2) => ?_) ?_; rotate_left; unfold xl; clear xl; rotate_left; clear_value xl; revert xl; intro yl hy)
        | (clear_value xl; revert xl; intro yl)
        | (revert xl; intro yl))
    | split
    | (refine Keeps.of_snd (by with_reducible assumption) ?_)
    | with_reducible apply Keeps.mk' rfl rfl rfl rfl rfl rfl rfl rfl rfl

theorem State.deliver_keeps (s : State) (r : MacRx) (m : Mac) {s0 : State} (h : Keeps s0 s) :
    Keeps s0 (State.deliver s r m).2 := by
  unfold State.deliver
  repeat' first
    | with_reducible assumption
    | with_reducible apply State.refuse_keeps
    | with_reducible apply State.bump_keeps
    | with_reducible apply State.askAuth_keeps
    | with_reducible apply State.handle_keeps
    | intro _
    | (extract_lets +onlyGivenNames xl; first
        | (refine (fun (hx : Keeps s0 xl) => ?_) ?_; rotate_left; unfold xl; clear xl; rotate_left; clear_value xl; revert xl; intro yl hy)
        | (refine (fun (hx : Keeps s0 xl.2) => ?_) ?_; rotate_left; unfold xl; clear xl; rotate_left; clear_value xl; revert xl; intro yl hy)
        | (clear_value xl; revert xl; intro yl)
        | (revert xl; intro yl))
    | split
    | (refine Keeps.of_snd (by with_reducible assumption) ?_)
    | with_reducible apply Keeps.mk' rfl rfl rfl rfl rfl rfl rfl rfl rfl

theorem State.opened_keeps (s : State) (r : MacRx) (m : Mac) (p : List Nat) {s0 : State} (h : Keeps s0 s) :
    Keeps s0 (State.opened s r m p).2 := by
  unfold State.opened
  repeat' first
    | with_reducible assumption
    | with_reducible apply State.refuse_keeps
    | with_reducible apply State.floodSample_keeps
    | with_reducible apply State.dirHeard_keeps
    | with_reducible apply State.bump_keeps
    | with_reducible apply State.sleeperHeard_keeps
    | with_reducible apply State.devFrame_keeps
    | with_reducible apply State.tenFrame_keeps
    | intro _
    | (extract_lets +onlyGivenNames xl; first
        | (refine (fun (hx : Keeps s0 xl) => ?_) ?_; rotate_left; unfold xl; clear xl; rotate_left; clear_value xl; revert xl; intro yl hy)
        | (refine (fun (hx : Keeps s0 xl.2) => ?_) ?_; rotate_left; unfold xl; clear xl; rotate_left; clear_value xl; revert xl; intro yl hy)
        | (clear_value xl; revert xl; intro yl)
        | (revert xl; intro yl))
    | split
    | (refine Keeps.of_snd (by with_reducible assumption) ?_)
    | with_reducible apply Keeps.mk' rfl rfl rfl rfl rfl rfl rfl rfl rfl

theorem State.handle_keeps (s : State) (r : MacRx) (m : Mac) {s0 : State} (h : Keeps s0 s) :
    Keeps s0 (State.handle s r m).2 := by
  unfold State.handle
  repeat' first
    | with_reducible assumption
    | with_reducible apply State.refuse_keeps
    | with_reducible apply State.deliver_keeps
    | with_reducible apply State.floodHeard_keeps
    | with_reducible apply State.floodAgain_keeps
    | with_reducible apply State.forward_keeps
    | with_reducible apply State.unreserve_keeps
    | intro _
    | (extract_lets +onlyGivenNames xl; first
        | (refine (fun (hx : Keeps s0 xl) => ?_) ?_; rotate_left; unfold xl; clear xl; rotate_left; clear_value xl; revert xl; intro yl hy)
        | (refine (fun (hx : Keeps s0 xl.2) => ?_) ?_; rotate_left; unfold xl; clear xl; rotate_left; clear_value xl; revert xl; intro yl hy)
        | (clear_value xl; revert xl; intro yl)
        | (revert xl; intro yl))
    | split
    | (refine Keeps.of_snd (by with_reducible assumption) ?_)
    | with_reducible apply Keeps.mk' rfl rfl rfl rfl rfl rfl rfl rfl rfl

theorem State.passOn_keeps (s : State) (r : MacRx) (m : Mac) {s0 : State} (h : Keeps s0 s) :
    Keeps s0 (State.passOn s r m) := by
  unfold State.passOn
  repeat' first
    | with_reducible assumption
    | with_reducible apply State.handle_keeps
    | with_reducible apply State.ackLink_keeps
    | with_reducible apply State.setArq_keeps
    | (extract_lets +onlyGivenNames xl; first
        | (refine (fun (hx : Keeps s0 xl.2) => ?_) ?_; rotate_left; unfold xl; clear xl; rotate_left; clear_value xl; revert xl; intro yl hy)
        | (clear_value xl; revert xl; intro yl)
        | (revert xl; intro yl))
    | split
    | (refine Keeps.of_snd (by with_reducible assumption) ?_)

theorem State.drainHeld_keeps (s : State) (c : Nat) (peer : Nat) (a3 : Nat) {s0 : State} (h : Keeps s0 s) :
    Keeps s0 (State.drainHeld s c peer a3) := by
  induction a3 generalizing s with
  | zero => exact h
  | succ n ih =>
    unfold State.drainHeld
    dsimp only
    split
    · exact ih _ (State.passOn_keeps _ _ _ (State.setArq_keeps _ _ h))
    · exact h

theorem State.linkFrame_keeps (s : State) (r : MacRx) (m : Mac) {s0 : State} (h : Keeps s0 s) :
    Keeps s0 (State.linkFrame s r m) := by
  unfold State.linkFrame
  repeat' first
    | with_reducible assumption
    | with_reducible apply State.ackLink_keeps
    | with_reducible apply State.drainHeld_keeps
    | with_reducible apply State.passOn_keeps
    | with_reducible apply State.setArq_keeps
    | (extract_lets +onlyGivenNames xl; first
        | (clear_value xl; revert xl; intro yl)
        | (revert xl; intro yl))
    | split

theorem execLseqGapExpire_keeps (c : Fin 64) (peer : Nat) (s : State) {s0 : State} (h : Keeps s0 s) :
    ∀ z, execLseqGapExpire c peer s = .next z → Keeps s0 z := by
  unfold execLseqGapExpire
  intro z e
  refine Keeps.of_next ?_ e
  repeat' first
    | with_reducible assumption
    | with_reducible apply State.originate_keeps
    | with_reducible apply State.dispatch_keeps
    | with_reducible apply State.drainHeld_keeps
    | with_reducible apply State.setArq_keeps
    | intro _
    | (extract_lets +onlyGivenNames xl; first
        | (clear_value xl; revert xl; intro yl)
        | (revert xl; intro yl))
    | split
    | with_reducible apply Keeps.foldl
    | with_reducible apply Keeps.foldl_snd2
    | with_reducible apply Keeps.foldl_snd
    | with_reducible apply Keeps.foldl_fst

theorem State.macDrop_keeps (s : State) {s0 : State} (h : Keeps s0 s) :
    Keeps s0 (State.macDrop s) := by
  unfold State.macDrop
  repeat' first
    | with_reducible assumption
    | intro _
    | split
    | with_reducible apply Keeps.mk' rfl rfl rfl rfl rfl rfl rfl rfl rfl

theorem State.overhear_keeps (s : State) {s0 : State} (h : Keeps s0 s) :
    Keeps s0 (State.overhear s) := by
  unfold State.overhear
  repeat' first
    | with_reducible assumption
    | intro _
    | split
    | with_reducible apply Keeps.mk' rfl rfl rfl rfl rfl rfl rfl rfl rfl

theorem State.frameIn_keeps (s : State) (r0 : MacRx) {s0 : State} (h : Keeps s0 s) :
    Keeps s0 (State.frameIn s r0) := by
  unfold State.frameIn
  repeat' first
    | with_reducible assumption
    | with_reducible apply State.retryPaths_keeps
    | with_reducible apply State.dispatch_keeps
    | with_reducible apply State.bump_keeps
    | with_reducible apply State.take_keeps
    | with_reducible apply State.handle_keeps
    | with_reducible apply State.linkFrame_keeps
    | with_reducible apply State.macDrop_keeps
    | with_reducible apply State.overhear_keeps
    | with_reducible apply State.originate_keeps
    | with_reducible apply State.forward_keeps
    | with_reducible apply State.setArq_keeps
    | intro _
    | (extract_lets +onlyGivenNames xl; first
        | (refine (fun (hx : Keeps s0 xl) => ?_) ?_; rotate_left; unfold xl; clear xl; rotate_left; clear_value xl; revert xl; intro yl hy)
        | (refine (fun (hx : Keeps s0 xl.2) => ?_) ?_; rotate_left; unfold xl; clear xl; rotate_left; clear_value xl; revert xl; intro yl hy)
        | (clear_value xl; revert xl; intro yl)
        | (revert xl; intro yl))
    | split
    | (refine Keeps.of_snd (by with_reducible assumption) ?_)
    | with_reducible apply Keeps.mk' rfl rfl rfl rfl rfl rfl rfl rfl rfl

theorem State.ackTaken_keeps (s : State) (r : MacRx) (m : Mac) {s0 : State} (h : Keeps s0 s) :
    Keeps s0 (State.ackTaken s r m) := by
  unfold State.ackTaken
  repeat' first
    | with_reducible assumption
    | with_reducible apply State.take_keeps
    | with_reducible apply State.ackLink_keeps
    | with_reducible apply State.setArq_keeps
    | intro _
    | (extract_lets +onlyGivenNames xl; first
        | (refine (fun (hx : Keeps s0 xl) => ?_) ?_; rotate_left; unfold xl; clear xl; rotate_left; clear_value xl; revert xl; intro yl hy)
        | (refine (fun (hx : Keeps s0 xl.2) => ?_) ?_; rotate_left; unfold xl; clear xl; rotate_left; clear_value xl; revert xl; intro yl hy)
        | (clear_value xl; revert xl; intro yl)
        | (revert xl; intro yl))
    | split
    | (refine Keeps.of_snd (by with_reducible assumption) ?_)
    | with_reducible apply Keeps.mk' rfl rfl rfl rfl rfl rfl rfl rfl rfl

theorem State.rxAgain_keeps (s : State) {s0 : State} (h : Keeps s0 s) :
    Keeps s0 (State.rxAgain s) := by
  unfold State.rxAgain
  repeat' first
    | with_reducible assumption
    | with_reducible apply State.deliver_keeps
    | intro _
    | split
    | with_reducible apply Keeps.foldl
    | with_reducible apply Keeps.foldl_snd2
    | with_reducible apply Keeps.foldl_snd
    | with_reducible apply Keeps.foldl_fst
    | with_reducible apply Keeps.mk' rfl rfl rfl rfl rfl rfl rfl rfl rfl

theorem execNodeKeyResolved_keeps (a0 : Nat) (readable : Bool) (s : State) {s0 : State} (h : Keeps s0 s) :
    ∀ z, execNodeKeyResolved a0 readable s = .next z → Keeps s0 z := by
  unfold execNodeKeyResolved
  intro z e
  refine Keeps.of_next ?_ e
  repeat' first
    | with_reducible assumption
    | with_reducible apply State.resolveHandle_keeps
    | with_reducible apply State.keyFrame_keeps
    | with_reducible apply State.loseKey_keeps
    | with_reducible apply State.rxAgain_keeps
    | with_reducible apply State.bumpBy_keeps
    | with_reducible apply State.originate_keeps
    | with_reducible apply State.dispatch_keeps
    | intro _
    | (extract_lets +onlyGivenNames xl; first
        | (refine (fun (hx : Keeps s0 xl) => ?_) ?_; rotate_left; unfold xl; clear xl; rotate_left; clear_value xl; revert xl; intro yl hy)
        | (refine (fun (hx : Keeps s0 xl.2) => ?_) ?_; rotate_left; unfold xl; clear xl; rotate_left; clear_value xl; revert xl; intro yl hy)
        | (clear_value xl; revert xl; intro yl)
        | (revert xl; intro yl))
    | split
    | with_reducible apply Keeps.foldl
    | (refine Keeps.of_snd (by with_reducible assumption) ?_)
    | with_reducible apply Keeps.foldl_snd2
    | with_reducible apply Keeps.foldl_snd
    | with_reducible apply Keeps.foldl_fst
    | with_reducible apply Keeps.mk' rfl rfl rfl rfl rfl rfl rfl rfl rfl

end Sys2Proof.Machine
end

