-- ==== Sys2Proof/Laws/Keeps/Messages.lean ====
section
/-! SUPPORT. That every operation of Messages keeps the relation of Laws/Keeps. -/

set_option Elab.async false

namespace Sys2Proof.Machine

theorem State.setMsg_keeps (s : State) (t : Fin 8) (m : Msg) {s0 : State} (h : Keeps s0 s) :
    Keeps s0 (State.setMsg s t m) := by
  unfold State.setMsg
  repeat' first
    | with_reducible assumption
    | with_reducible apply State.setTenant_keeps
    | (extract_lets +onlyGivenNames xl; first
        | (clear_value xl; revert xl; intro yl)
        | (revert xl; intro yl))
    | split

theorem State.cutMsg_keeps (s : State) (t : Fin 8) (m : Msg) (data : List Nat) (flood : Bool) {s0 : State} (h : Keeps s0 s) :
    Keeps s0 (State.cutMsg s t m data flood) := by
  unfold State.cutMsg
  repeat' first
    | with_reducible assumption
    | with_reducible apply State.setMsg_keeps
    | with_reducible apply State.newId_keeps
    | with_reducible apply State.routeFrame_keeps
    | intro _
    | (extract_lets +onlyGivenNames xl; first
        | (refine (fun (hx : Keeps s0 xl) => ?_) ?_; rotate_left; unfold xl; clear xl; rotate_left; clear_value xl; revert xl; intro yl hy)
        | (refine (fun (hx : Keeps s0 xl.2) => ?_) ?_; rotate_left; unfold xl; clear xl; rotate_left; clear_value xl; revert xl; intro yl hy)
        | (clear_value xl; revert xl; intro yl)
        | (revert xl; intro yl))
    | split
    | with_reducible apply Keeps.foldl
    | (refine Keeps.of_snd (by with_reducible assumption) ?_)
    | with_reducible apply Keeps.foldl_snd2
    | with_reducible apply Keeps.foldl_snd
    | with_reducible apply Keeps.foldl_fst

theorem State.localMsg_keeps (s : State) (t : Fin 8) (m : Msg) (data : List Nat) {s0 : State} (h : Keeps s0 s) :
    Keeps s0 (State.localMsg s t m data) := by
  unfold State.localMsg
  repeat' first
    | with_reducible assumption
    | with_reducible apply State.setMsg_keeps
    | with_reducible apply State.sendConfirm_keeps
    | with_reducible apply State.messageIn_keeps
    | with_reducible apply State.completeMsg_keeps
    | (extract_lets +onlyGivenNames xl; first
        | (refine (fun (hx : Keeps s0 xl) => ?_) ?_; rotate_left; unfold xl; clear xl; rotate_left; clear_value xl; revert xl; intro yl hy)
        | (clear_value xl; revert xl; intro yl)
        | (revert xl; intro yl))
    | split

theorem State.trySegment_keeps (s : State) (t : Fin 8) (m : Msg) {s0 : State} (h : Keeps s0 s) :
    Keeps s0 (State.trySegment s t m) := by
  unfold State.trySegment
  repeat' first
    | with_reducible assumption
    | with_reducible apply State.localMsg_keeps
    | with_reducible apply State.cutMsg_keeps
    | with_reducible apply State.dirMiss_keeps
    | (extract_lets +onlyGivenNames xl; first
        | (clear_value xl; revert xl; intro yl)
        | (revert xl; intro yl))
    | split

theorem State.retryMsgs_keeps (s : State) {s0 : State} (h : Keeps s0 s) :
    Keeps s0 (State.retryMsgs s) := by
  unfold State.retryMsgs
  repeat' first
    | with_reducible assumption
    | with_reducible apply State.trySegment_keeps
    | intro _
    | with_reducible apply Keeps.foldl
    | with_reducible apply Keeps.foldl_snd2
    | with_reducible apply Keeps.foldl_snd
    | with_reducible apply Keeps.foldl_fst

theorem State.refuseSend_keeps (s : State) (t : Fin 8) (q : Nat) (d : List Nat) (status : Nat) {s0 : State} (h : Keeps s0 s) :
    Keeps s0 (State.refuseSend s t q d status) := by
  unfold State.refuseSend
  repeat' first
    | with_reducible assumption
    | with_reducible apply State.bump_keeps
    | with_reducible apply State.postComp_keeps

theorem State.acceptSend_keeps (s : State) (t : Fin 8) (q : Nat) (d : List Nat) {s0 : State} (h : Keeps s0 s) :
    Keeps s0 (State.acceptSend s t q d) := by
  unfold State.acceptSend
  repeat' first
    | with_reducible assumption
    | with_reducible apply State.bump_keeps
    | with_reducible apply State.refuseSend_keeps
    | with_reducible apply State.takeNumber_keeps
    | with_reducible apply State.newId_keeps
    | with_reducible apply State.setTenant_keeps
    | with_reducible apply State.trySegment_keeps
    | with_reducible apply State.emit_keeps
    | (extract_lets +onlyGivenNames xl; first
        | (refine (fun (hx : Keeps s0 xl) => ?_) ?_; rotate_left; unfold xl; clear xl; rotate_left; clear_value xl; revert xl; intro yl hy)
        | (refine (fun (hx : Keeps s0 xl.2) => ?_) ?_; rotate_left; unfold xl; clear xl; rotate_left; clear_value xl; revert xl; intro yl hy)
        | (clear_value xl; revert xl; intro yl)
        | (revert xl; intro yl))
    | split
    | (refine Keeps.of_snd (by with_reducible assumption) ?_)

theorem State.acceptBuf_keeps (s : State) (t : Fin 8) (q : Nat) (d : List Nat) {s0 : State} (h : Keeps s0 s) :
    Keeps s0 (State.acceptBuf s t q d) := by
  unfold State.acceptBuf
  repeat' first
    | with_reducible assumption
    | with_reducible apply State.postComp_keeps
    | with_reducible apply State.newId_keeps
    | with_reducible apply State.setTenant_keeps
    | (extract_lets +onlyGivenNames xl; first
        | (refine (fun (hx : Keeps s0 xl.2) => ?_) ?_; rotate_left; unfold xl; clear xl; rotate_left; clear_value xl; revert xl; intro yl hy)
        | (clear_value xl; revert xl; intro yl)
        | (revert xl; intro yl))
    | split
    | (refine Keeps.of_snd (by with_reducible assumption) ?_)

theorem State.acceptNop_keeps (s : State) (t : Fin 8) (q : Nat) (d : List Nat) {s0 : State} (h : Keeps s0 s) :
    Keeps s0 (State.acceptNop s t q d) := by
  unfold State.acceptNop
  repeat' first
    | with_reducible assumption
    | with_reducible apply State.postComp_keeps
    | with_reducible apply State.newId_keeps
    | with_reducible apply State.fences_keeps
    | with_reducible apply State.setTenant_keeps
    | (extract_lets +onlyGivenNames xl; first
        | (refine (fun (hx : Keeps s0 xl.2) => ?_) ?_; rotate_left; unfold xl; clear xl; rotate_left; clear_value xl; revert xl; intro yl hy)
        | (clear_value xl; revert xl; intro yl)
        | (revert xl; intro yl))
    | split
    | (refine Keeps.of_snd (by with_reducible assumption) ?_)

theorem State.acceptCr_keeps (s : State) (t : Fin 8) (d : List Nat) (poison : Bool) {s0 : State} (h : Keeps s0 s) :
    Keeps s0 (State.acceptCr s t d poison) := by
  unfold State.acceptCr
  repeat' first
    | with_reducible assumption
    | with_reducible apply State.postCr_keeps
    | with_reducible apply State.newId_keeps
    | with_reducible apply State.setTenant_keeps
    | with_reducible apply State.emit_keeps
    | (extract_lets +onlyGivenNames xl; first
        | (refine (fun (hx : Keeps s0 xl) => ?_) ?_; rotate_left; unfold xl; clear xl; rotate_left; clear_value xl; revert xl; intro yl hy)
        | (refine (fun (hx : Keeps s0 xl.2) => ?_) ?_; rotate_left; unfold xl; clear xl; rotate_left; clear_value xl; revert xl; intro yl hy)
        | (clear_value xl; revert xl; intro yl)
        | (revert xl; intro yl))
    | split
    | (refine Keeps.of_snd (by with_reducible assumption) ?_)

theorem State.acceptDesc_keeps (s : State) (t : Fin 8) (q : Nat) (d : List Nat) (poison : Bool) {s0 : State} (h : Keeps s0 s) :
    Keeps s0 (State.acceptDesc s t q d poison) := by
  unfold State.acceptDesc
  repeat' first
    | with_reducible assumption
    | with_reducible apply State.acceptCr_keeps
    | with_reducible apply State.setTenant_keeps
    | with_reducible apply State.postComp_keeps
    | with_reducible apply State.refuseSend_keeps
    | with_reducible apply State.acceptBuf_keeps
    | with_reducible apply State.acceptNop_keeps
    | with_reducible apply State.acceptSend_keeps
    | (extract_lets +onlyGivenNames xl; first
        | (refine (fun (hx : Keeps s0 xl) => ?_) ?_; rotate_left; unfold xl; clear xl; rotate_left; clear_value xl; revert xl; intro yl hy)
        | (clear_value xl; revert xl; intro yl)
        | (revert xl; intro yl))
    | split

theorem State.releaseSq_keeps (s : State) (t : Fin 8) (q : Nat) {s0 : State} (h : Keeps s0 s) :
    Keeps s0 (State.releaseSq s t q) := by
  unfold State.releaseSq
  repeat' first
    | with_reducible assumption
    | with_reducible apply State.setRing_keeps
    | with_reducible apply State.setTenant_keeps
    | (extract_lets +onlyGivenNames xl; first
        | (clear_value xl; revert xl; intro yl)
        | (revert xl; intro yl))
    | split

theorem State.sqOff_keeps (s : State) (t : Fin 8) (q : Nat) {s0 : State} (h : Keeps s0 s) :
    Keeps s0 (State.sqOff s t q) := by
  unfold State.sqOff
  repeat' first
    | with_reducible assumption
    | with_reducible apply State.setRing_keeps
    | with_reducible apply State.releaseSq_keeps
    | with_reducible apply State.flushDirect_keeps
    | with_reducible apply State.returnBuf_keeps
    | with_reducible apply State.setTenant_keeps
    | intro _
    | (extract_lets +onlyGivenNames xl; first
        | (refine (fun (hx : Keeps s0 xl) => ?_) ?_; rotate_left; unfold xl; clear xl; rotate_left; clear_value xl; revert xl; intro yl hy)
        | (clear_value xl; revert xl; intro yl)
        | (revert xl; intro yl))
    | split
    | with_reducible apply Keeps.foldl
    | with_reducible apply Keeps.foldl_snd2
    | with_reducible apply Keeps.foldl_snd
    | with_reducible apply Keeps.foldl_fst

theorem execDescFetchDone_keeps (o : Fetched) (s : State) {s0 : State} (h : Keeps s0 s) :
    ∀ z, execDescFetchDone o s = .next z → Keeps s0 z := by
  unfold execDescFetchDone
  intro z e
  refine Keeps.of_next ?_ e
  repeat' first
    | with_reducible assumption
    | with_reducible apply State.dispatch_keeps
    | with_reducible apply State.acceptDesc_keeps
    | with_reducible apply State.sqOff_keeps
    | with_reducible apply State.take_keeps
    | with_reducible apply State.originate_keeps
    | with_reducible apply State.awaitMirror_keeps
    | with_reducible apply State.quotas_keeps
    | with_reducible apply State.qmemFetch_keeps
    | with_reducible apply State.setRing_keeps
    | with_reducible apply State.issueFetch_keeps
    | with_reducible apply State.dmaFault_keeps
    | intro _
    | (extract_lets +onlyGivenNames xl; first
        | (refine (fun (hx : Keeps s0 xl) => ?_) ?_; rotate_left; unfold xl; clear xl; rotate_left; clear_value xl; revert xl; intro yl hy)
        | (refine (fun (hx : Keeps s0 xl.2) => ?_) ?_; rotate_left; unfold xl; clear xl; rotate_left; clear_value xl; revert xl; intro yl hy)
        | (clear_value xl; revert xl; intro yl)
        | (revert xl; intro yl))
    | split
    | (refine Keeps.of_snd (by with_reducible assumption) ?_)
    | with_reducible apply Keeps.mk' rfl rfl rfl rfl rfl rfl rfl rfl rfl

theorem State.readAgain_keeps (s : State) (t : Fin 8) {s0 : State} (h : Keeps s0 s) :
    Keeps s0 (State.readAgain s t) := by
  unfold State.readAgain
  repeat' first
    | with_reducible assumption
    | with_reducible apply State.emit_keeps
    | intro _
    | (extract_lets +onlyGivenNames xl; first
        | (refine (fun (hx : Keeps s0 xl) => ?_) ?_; rotate_left; unfold xl; clear xl; rotate_left; clear_value xl; revert xl; intro yl hy)
        | (clear_value xl; revert xl; intro yl)
        | (revert xl; intro yl))
    | split
    | with_reducible apply Keeps.foldl
    | with_reducible apply Keeps.foldl_snd2
    | with_reducible apply Keeps.foldl_snd
    | with_reducible apply Keeps.foldl_fst

theorem execPayloadReadDone_keeps (t : Fin 8) (id : Nat) (r : Fetched) (s : State) {s0 : State} (h : Keeps s0 s) :
    ∀ z, execPayloadReadDone t id r s = .next z → Keeps s0 z := by
  unfold execPayloadReadDone
  intro z e
  refine Keeps.of_next ?_ e
  repeat' first
    | with_reducible assumption
    | with_reducible apply State.qmemFetch_keeps
    | with_reducible apply State.quotas_keeps
    | with_reducible apply State.completeMsg_keeps
    | with_reducible apply State.dmaFault_keeps
    | with_reducible apply State.takeNumber_keeps
    | with_reducible apply State.originate_keeps
    | with_reducible apply State.dispatch_keeps
    | with_reducible apply State.trySegment_keeps
    | with_reducible apply State.setMsg_keeps
    | (extract_lets +onlyGivenNames xl; first
        | (refine (fun (hx : Keeps s0 xl) => ?_) ?_; rotate_left; unfold xl; clear xl; rotate_left; clear_value xl; revert xl; intro yl hy)
        | (refine (fun (hx : Keeps s0 xl.2) => ?_) ?_; rotate_left; unfold xl; clear xl; rotate_left; clear_value xl; revert xl; intro yl hy)
        | (clear_value xl; revert xl; intro yl)
        | (revert xl; intro yl))
    | split
    | (refine Keeps.of_snd (by with_reducible assumption) ?_)

theorem execCompletionWriteDone_keeps (t : Fin 8) (q : Fin 9) (ok : Bool) (s : State) {s0 : State} (h : Keeps s0 s) :
    ∀ z, execCompletionWriteDone t q ok s = .next z → Keeps s0 z := by
  unfold execCompletionWriteDone
  intro z e
  refine Keeps.of_next ?_ e
  repeat' first
    | with_reducible assumption
    | with_reducible apply State.issueFetch_keeps
    | with_reducible apply State.quotas_keeps
    | with_reducible apply State.compWritten_keeps

theorem State.newTail_keeps (s : State) (t : Fin 8) (q : Nat) (v : Nat) {s0 : State} (h : Keeps s0 s) :
    ∀ z, State.newTail s t q v = some z → Keeps s0 z := by
  unfold State.newTail
  intro z e
  dsimp only at e
  split at e
  · cases e
  · cases e
    refine State.issueFetch_keeps _ (State.quotas_keeps _ (State.setRing_keeps _ _ _ _ _ ?_))
    split
    · exact h
    · exact State.setTenant_keeps _ _ _ h

theorem dbSqWrite_keeps (q : Req) (k : Nat) (p : Page) (w : Word) (s : State) {s0 : State} (h : Keeps s0 s) :
    Keeps s0 (dbSqWrite q k p w s) := by
  unfold dbSqWrite
  repeat' first
    | with_reducible assumption
    | (refine State.newTail_keeps _ _ _ _ ?_ _ (by with_reducible assumption))
    | (with_reducible refine Keeps.getD (State.newTail_keeps _ _ _ _ ?_) ?_)
    | (refine Keeps.of_ite (by with_reducible assumption) (State.newTail_keeps _ _ _ _ ?_))
    | with_reducible apply State.violation_keeps
    | split

theorem State.newHead_keeps (s : State) (t : Fin 8) (q : Nat) (v : Nat) {s0 : State} (h : Keeps s0 s) :
    Keeps s0 (State.newHead s t q v) := by
  unfold State.newHead
  repeat' first
    | with_reducible assumption
    | with_reducible apply State.withVec_keeps
    | with_reducible apply State.setRing_keeps
    | intro _
    | (extract_lets +onlyGivenNames xl; first
        | (clear_value xl; revert xl; intro yl)
        | (revert xl; intro yl))
    | split

theorem dbCqWrite_keeps (k : Nat) (p : Page) (w : Word) (s : State) {s0 : State} (h : Keeps s0 s) :
    Keeps s0 (dbCqWrite k p w s) := by
  unfold dbCqWrite
  repeat' first
    | with_reducible assumption
    | with_reducible apply State.newHead_keeps
    | split

theorem execDbSqWrite_keeps (q : Req) (t : Fin 8) (k : Fin 8) (s : State) {s0 : State} (h : Keeps s0 s) :
    ∀ z, execDbSqWrite q t k s = .next z → Keeps s0 z := by
  unfold execDbSqWrite
  intro z e
  refine Keeps.of_next ?_ e
  repeat' first
    | with_reducible assumption
    | with_reducible apply writeWord_keeps
    | with_reducible apply dbSqWrite_keeps
    | intro _

theorem execDbCqWrite_keeps (q : Req) (t : Fin 8) (k : Fin 8) (s : State) {s0 : State} (h : Keeps s0 s) :
    ∀ z, execDbCqWrite q t k s = .next z → Keeps s0 z := by
  unfold execDbCqWrite
  intro z e
  refine Keeps.of_next ?_ e
  repeat' first
    | with_reducible assumption
    | with_reducible apply writeWord_keeps
    | with_reducible apply dbCqWrite_keeps
    | intro _

theorem crDbSqWrite_keeps (p : Page) (w : Word) (s : State) {s0 : State} (h : Keeps s0 s) :
    Keeps s0 (crDbSqWrite p w s) := by
  unfold crDbSqWrite
  repeat' first
    | with_reducible assumption
    | (refine State.newTail_keeps _ _ _ _ ?_ _ (by with_reducible assumption))
    | (with_reducible refine Keeps.getD (State.newTail_keeps _ _ _ _ ?_) ?_)
    | (refine Keeps.of_ite (by with_reducible assumption) (State.newTail_keeps _ _ _ _ ?_))
    | with_reducible apply State.event_keeps
    | with_reducible apply State.setFlag_keeps
    | split

theorem crDbCqWrite_keeps (p : Page) (w : Word) (s : State) {s0 : State} (h : Keeps s0 s) :
    Keeps s0 (crDbCqWrite p w s) := by
  unfold crDbCqWrite
  repeat' first
    | with_reducible assumption
    | with_reducible apply dbCqWrite_keeps

theorem execCrDbSqWrite_keeps (q : Req) (t : Fin 8) (s : State) {s0 : State} (h : Keeps s0 s) :
    ∀ z, execCrDbSqWrite q t s = .next z → Keeps s0 z := by
  unfold execCrDbSqWrite
  intro z e
  refine Keeps.of_next ?_ e
  repeat' first
    | with_reducible assumption
    | with_reducible apply writeWord_keeps
    | with_reducible apply crDbSqWrite_keeps
    | intro _

theorem execCrDbCqWrite_keeps (q : Req) (t : Fin 8) (s : State) {s0 : State} (h : Keeps s0 s) :
    ∀ z, execCrDbCqWrite q t s = .next z → Keeps s0 z := by
  unfold execCrDbCqWrite
  intro z e
  refine Keeps.of_next ?_ e
  repeat' first
    | with_reducible assumption
    | with_reducible apply writeWord_keeps
    | with_reducible apply crDbCqWrite_keeps
    | intro _

theorem State.ringRefused_keeps (s : State) (t : Fin 8) (k : Nat) {s0 : State} (h : Keeps s0 s) :
    Keeps s0 (State.ringRefused s t k) := by
  unfold State.ringRefused
  repeat' first
    | with_reducible assumption
    | with_reducible apply State.event_keeps
    | split

theorem sqCfgWrite_keeps (k : Nat) (p : Page) (w : Word) (s : State) {s0 : State} (h : Keeps s0 s) :
    Keeps s0 (sqCfgWrite k p w s) := by
  unfold sqCfgWrite
  repeat' first
    | with_reducible assumption
    | with_reducible apply applyWrite_keeps
    | with_reducible apply State.setReg_keeps
    | with_reducible apply State.setTenant_keeps
    | with_reducible apply State.ringRefused_keeps
    | with_reducible apply State.setRing_keeps
    | with_reducible apply State.issueFetch_keeps
    | with_reducible apply State.quotas_keeps
    | with_reducible apply State.sqOff_keeps
    | (extract_lets +onlyGivenNames xl; first
        | (refine (fun (hx : Keeps s0 xl) => ?_) ?_; rotate_left; unfold xl; clear xl; rotate_left; clear_value xl; revert xl; intro yl hy)
        | (clear_value xl; revert xl; intro yl)
        | (revert xl; intro yl))
    | split

theorem cqCfgWrite_keeps (k : Nat) (p : Page) (w : Word) (s : State) {s0 : State} (h : Keeps s0 s) :
    Keeps s0 (cqCfgWrite k p w s) := by
  unfold cqCfgWrite
  repeat' first
    | with_reducible assumption
    | with_reducible apply State.withVec_keeps
    | with_reducible apply applyWrite_keeps
    | with_reducible apply State.setReg_keeps
    | with_reducible apply State.ringRefused_keeps
    | with_reducible apply State.setRing_keeps
    | intro _
    | (extract_lets +onlyGivenNames xl; first
        | (refine (fun (hx : Keeps s0 xl) => ?_) ?_; rotate_left; unfold xl; clear xl; rotate_left; clear_value xl; revert xl; intro yl hy)
        | (clear_value xl; revert xl; intro yl)
        | (revert xl; intro yl))
    | split

theorem execRingEnable_keeps (q : Req) (t : Fin 8) (k : Fin 9) (cq : Bool) (s : State) {s0 : State} (h : Keeps s0 s) :
    ∀ z, execRingEnable q t k cq s = .next z → Keeps s0 z := by
  unfold execRingEnable
  intro z e
  refine Keeps.of_next ?_ e
  repeat' first
    | with_reducible assumption
    | with_reducible apply writeWord_keeps
    | with_reducible apply cqCfgWrite_keeps
    | with_reducible apply sqCfgWrite_keeps
    | intro _
    | split

theorem execSqDisable_keeps (q : Req) (t : Fin 8) (k : Fin 9) (s : State) {s0 : State} (h : Keeps s0 s) :
    ∀ z, execSqDisable q t k s = .next z → Keeps s0 z := by
  unfold execSqDisable
  intro z e
  refine Keeps.of_next ?_ e
  repeat' first
    | with_reducible assumption
    | with_reducible apply writeWord_keeps
    | with_reducible apply sqCfgWrite_keeps
    | intro _

theorem execCqDisable_keeps (q : Req) (t : Fin 8) (k : Fin 9) (s : State) {s0 : State} (h : Keeps s0 s) :
    ∀ z, execCqDisable q t k s = .next z → Keeps s0 z := by
  unfold execCqDisable
  intro z e
  refine Keeps.of_next ?_ e
  repeat' first
    | with_reducible assumption
    | with_reducible apply writeWord_keeps
    | with_reducible apply cqCfgWrite_keeps
    | intro _

theorem execE2eTimeout_keeps (t : Fin 8) (id : Nat) (s : State) {s0 : State} (h : Keeps s0 s) :
    ∀ z, execE2eTimeout t id s = .next z → Keeps s0 z := by
  unfold execE2eTimeout
  intro z e
  refine Keeps.of_next ?_ e
  repeat' first
    | with_reducible assumption
    | with_reducible apply State.originate_keeps
    | with_reducible apply State.dispatch_keeps
    | with_reducible apply State.trySegment_keeps
    | with_reducible apply State.setMsg_keeps
    | (extract_lets +onlyGivenNames xl; first
        | (clear_value xl; revert xl; intro yl)
        | (revert xl; intro yl))
    | split

theorem execHoldLimitExpire_keeps (t : Fin 8) (id : Nat) (s : State) {s0 : State} (h : Keeps s0 s) :
    ∀ z, execHoldLimitExpire t id s = .next z → Keeps s0 z := by
  unfold execHoldLimitExpire
  intro z e
  refine Keeps.of_next ?_ e
  repeat' first
    | with_reducible assumption
    | with_reducible apply State.completeMsg_keeps
    | with_reducible apply State.dropFrames_keeps
    | (extract_lets +onlyGivenNames xl; first
        | (clear_value xl; revert xl; intro yl)
        | (revert xl; intro yl))
    | split

theorem execDeliveryStart_keeps (t : Fin 8) (q : Fin 8) (bad : Bool) (s : State) {s0 : State} (h : Keeps s0 s) :
    ∀ z, execDeliveryStart t q bad s = .next z → Keeps s0 z := by
  unfold execDeliveryStart
  intro z e
  refine Keeps.of_next ?_ e
  repeat' first
    | with_reducible assumption
    | with_reducible apply State.dispatch_keeps
    | with_reducible apply State.settleWaits_keeps
    | with_reducible apply State.bump_keeps
    | with_reducible apply State.dropNotice_keeps
    | with_reducible apply State.setTenant_keeps
    | with_reducible apply State.awaitMirror_keeps
    | (extract_lets +onlyGivenNames xl; first
        | (refine (fun (hx : Keeps s0 xl) => ?_) ?_; rotate_left; unfold xl; clear xl; rotate_left; clear_value xl; revert xl; intro yl hy)
        | (clear_value xl; revert xl; intro yl)
        | (revert xl; intro yl))
    | split

theorem State.writeBufs_keeps (s : State) (t : Fin 8) (a2 : List Buf) (a3 : List Nat) {s0 : State} (h : Keeps s0 s) :
    ∀ z, State.writeBufs s t a2 a3 = some z → Keeps s0 z := by
  induction a2 generalizing s a3 with
  | nil => intro z e; cases e; exact h
  | cons b bs ih =>
    intro z e
    unfold State.writeBufs at e
    dsimp only at e
    split at e
    · cases e
    · rename_i heq
      refine ih _ _ ?_ z e
      repeat' split at heq
      all_goals cases heq
      · exact State.qmemWrite_keeps _ _ _ _ h
      · exact h
      · exact State.emit_keeps _ _ h

theorem execDeliveryWriteDone_keeps (t : Fin 8) (ok : Bool) (s : State) {s0 : State} (h : Keeps s0 s) :
    ∀ z, execDeliveryWriteDone t ok s = .next z → Keeps s0 z := by
  unfold execDeliveryWriteDone
  intro z e
  refine Keeps.of_next ?_ e
  repeat' first
    | with_reducible assumption
    | with_reducible apply State.setTenant_keeps
    | (refine State.writeBufs_keeps _ _ _ _ ?_ _ (by with_reducible assumption))
    | (with_reducible refine Keeps.getD (State.writeBufs_keeps _ _ _ _ ?_) ?_)
    | (refine Keeps.of_ite (by with_reducible assumption) (State.writeBufs_keeps _ _ _ _ ?_))
    | with_reducible apply State.histTimed_keeps
    | with_reducible apply State.postComp_keeps
    | with_reducible apply State.bump_keeps
    | with_reducible apply State.dispatch_keeps
    | with_reducible apply State.settleWaits_keeps
    | with_reducible apply State.sendConfirm_keeps
    | with_reducible apply State.returnBuf_keeps
    | with_reducible apply State.dmaFault_keeps
    | with_reducible apply State.dropNotice_keeps
    | intro _
    | (extract_lets +onlyGivenNames xl; first
        | (refine (fun (hx : Keeps s0 xl) => ?_) ?_; rotate_left; unfold xl; clear xl; rotate_left; clear_value xl; revert xl; intro yl hy)
        | (clear_value xl; revert xl; intro yl)
        | (revert xl; intro yl))
    | split
    | with_reducible apply Keeps.foldl
    | with_reducible apply Keeps.foldl_snd2
    | with_reducible apply Keeps.foldl_snd
    | with_reducible apply Keeps.foldl_fst

theorem qmemCfgWrite_keeps (t : Fin 8) (p : Page) (w : Word) (s : State) {s0 : State} (h : Keeps s0 s) :
    Keeps s0 (qmemCfgWrite t p w s) := by
  unfold qmemCfgWrite
  repeat' first
    | with_reducible assumption
    | with_reducible apply State.event_keeps
    | with_reducible apply applyWrite_keeps
    | with_reducible apply State.setFlag_keeps
    | intro _
    | (extract_lets +onlyGivenNames xl; first
        | (refine (fun (hx : Keeps s0 xl) => ?_) ?_; rotate_left; unfold xl; clear xl; rotate_left; clear_value xl; revert xl; intro yl hy)
        | (clear_value xl; revert xl; intro yl)
        | (revert xl; intro yl))
    | split
    | (refine Keeps.of_snd (by with_reducible assumption) ?_)
    | with_reducible apply Keeps.mk' rfl rfl rfl rfl rfl rfl rfl rfl rfl

theorem execQmemWrite_keeps (q : Req) (t : Fin 8) (s : State) {s0 : State} (h : Keeps s0 s) :
    ∀ z, execQmemWrite q t s = .next z → Keeps s0 z := by
  unfold execQmemWrite
  intro z e
  refine Keeps.of_next ?_ e
  repeat' first
    | with_reducible assumption
    | with_reducible apply writeWord_keeps
    | with_reducible apply qmemCfgWrite_keeps
    | intro _

theorem execTenantFeatLock_keeps (q : Req) (t : Fin 8) (s : State) {s0 : State} (h : Keeps s0 s) :
    ∀ z, execTenantFeatLock q t s = .next z → Keeps s0 z := by
  unfold execTenantFeatLock
  intro z e
  refine Keeps.of_next ?_ e
  repeat' first
    | with_reducible assumption
    | with_reducible apply writeWord_keeps
    | with_reducible apply applyWrite_keeps
    | intro _

theorem State.startTenantReset_keeps (s : State) (t : Fin 8) {s0 : State} (h : Keeps s0 s) :
    Keeps s0 (State.startTenantReset s t) := by
  unfold State.startTenantReset
  repeat' first
    | with_reducible assumption
    | with_reducible apply State.histSample_keeps
    | with_reducible apply State.putSlot_keeps
    | with_reducible apply State.delSlot_keeps
    | with_reducible apply State.flushDirect_keeps
    | with_reducible apply State.dispatch_keeps
    | with_reducible apply State.setReg_keeps
    | with_reducible apply State.setFlag_keeps
    | with_reducible apply State.bumpBy_keeps
    | with_reducible apply State.bump_keeps
    | with_reducible apply State.setTenant_keeps
    | with_reducible apply State.quotas_keeps
    | with_reducible apply State.issueFetch_keeps
    | intro _
    | (extract_lets +onlyGivenNames xl; first
        | (refine (fun (hx : Keeps s0 xl) => ?_) ?_; rotate_left; unfold xl; clear xl; rotate_left; clear_value xl; revert xl; intro yl hy)
        | (clear_value xl; revert xl; intro yl)
        | (revert xl; intro yl))
    | split
    | with_reducible apply Keeps.foldl
    | with_reducible apply Keeps.foldl_snd2
    | with_reducible apply Keeps.foldl_snd
    | with_reducible apply Keeps.foldl_fst
    | (refine Keeps.of_snd (by with_reducible assumption) ?_)
    | with_reducible apply Keeps.mk' rfl rfl rfl rfl rfl rfl rfl rfl rfl

theorem State.drainTenants_keeps (s : State) {s0 : State} (h : Keeps s0 s) :
    Keeps s0 (State.drainTenants s) := by
  unfold State.drainTenants
  repeat' first
    | with_reducible assumption
    | with_reducible apply State.setTenant_keeps
    | intro _
    | (extract_lets +onlyGivenNames xl; first
        | (refine (fun (hx : Keeps s0 xl) => ?_) ?_; rotate_left; unfold xl; clear xl; rotate_left; clear_value xl; revert xl; intro yl hy)
        | (clear_value xl; revert xl; intro yl)
        | (revert xl; intro yl))
    | split
    | with_reducible apply Keeps.foldl
    | with_reducible apply Keeps.foldl_snd2
    | with_reducible apply Keeps.foldl_snd
    | with_reducible apply Keeps.foldl_fst
    | with_reducible apply Keeps.mk' rfl rfl rfl rfl rfl rfl rfl rfl rfl

theorem execTenantResetDone_keeps (t : Fin 8) (s : State) {s0 : State} (h : Keeps s0 s) :
    ∀ z, execTenantResetDone t s = .next z → Keeps s0 z := by
  unfold execTenantResetDone
  intro z e
  refine Keeps.of_next ?_ e
  repeat' first
    | with_reducible assumption
    | with_reducible apply State.event_keeps
    | with_reducible apply State.setFlag_keeps
    | with_reducible apply State.quotas_keeps
    | with_reducible apply State.issueFetch_keeps
    | intro _
    | split
    | with_reducible apply Keeps.mk' rfl rfl rfl rfl rfl rfl rfl rfl rfl

theorem mctlWrite_keeps (t : Fin 8) (p : Page) (w : Word) (s : State) {s0 : State} (h : Keeps s0 s) :
    Keeps s0 (mctlWrite t p w s) := by
  unfold mctlWrite
  repeat' first
    | with_reducible assumption
    | with_reducible apply applyWrite_keeps
    | with_reducible apply State.startTenantReset_keeps
    | (extract_lets +onlyGivenNames xl; first
        | (refine (fun (hx : Keeps s0 xl) => ?_) ?_; rotate_left; unfold xl; clear xl; rotate_left; clear_value xl; revert xl; intro yl hy))
    | split

theorem tntResetWrite_keeps (p : Page) (w : Word) (s : State) {s0 : State} (h : Keeps s0 s) :
    Keeps s0 (tntResetWrite p w s) := by
  unfold tntResetWrite
  repeat' first
    | with_reducible assumption
    | with_reducible apply State.startTenantReset_keeps
    | split

theorem execTntMctlReset_keeps (q : Req) (t : Fin 8) (s : State) {s0 : State} (h : Keeps s0 s) :
    ∀ z, execTntMctlReset q t s = .next z → Keeps s0 z := by
  unfold execTntMctlReset
  intro z e
  refine Keeps.of_next ?_ e
  repeat' first
    | with_reducible assumption
    | with_reducible apply writeWord_keeps
    | with_reducible apply mctlWrite_keeps
    | intro _

theorem execTntReset_keeps (q : Req) (t : Fin 8) (s : State) {s0 : State} (h : Keeps s0 s) :
    ∀ z, execTntReset q t s = .next z → Keeps s0 z := by
  unfold execTntReset
  intro z e
  refine Keeps.of_next ?_ e
  repeat' first
    | with_reducible assumption
    | with_reducible apply writeWord_keeps
    | with_reducible apply tntResetWrite_keeps
    | intro _

theorem tntEffect_keeps (t : Fin 8) (off : Nat) (p : Page) (w : Word) (s : State) {s0 : State} (h : Keeps s0 s) :
    Keeps s0 (tntEffect t off p w s) := by
  unfold tntEffect
  repeat' first
    | with_reducible assumption
    | with_reducible apply mctlWrite_keeps
    | with_reducible apply qmemCfgWrite_keeps
    | with_reducible apply State.pressure_keeps
    | with_reducible apply applyWrite_keeps
    | with_reducible apply State.quotas_keeps
    | split

theorem tpageEffect_keeps (off : Nat) (p : Page) (w : Word) (s : State) {s0 : State} (h : Keeps s0 s) :
    Keeps s0 (tpageEffect off p w s) := by
  unfold tpageEffect
  repeat' first
    | with_reducible assumption
    | with_reducible apply tntResetWrite_keeps
    | with_reducible apply sqCfgWrite_keeps
    | with_reducible apply cqCfgWrite_keeps
    | with_reducible apply applyWrite_keeps
    | split

end Sys2Proof.Machine
end

