-- ==== Sys2Proof/Laws/Keeps/Lookup.lean ====
section
/-! SUPPORT. That every operation of Lookup keeps the relation of Laws/Keeps. -/

set_option Elab.async false

namespace Sys2Proof.Machine

theorem State.sendDeltas_keeps (s : State) (e : Nat) {s0 : State} (h : Keeps s0 s) :
    Keeps s0 (State.sendDeltas s e) := by
  unfold State.sendDeltas
  repeat' first
    | with_reducible assumption
    | with_reducible apply State.event_keeps
    | with_reducible apply State.sendDev_keeps
    | intro _
    | (extract_lets +onlyGivenNames xl; first
        | (clear_value xl; revert xl; intro yl)
        | (revert xl; intro yl))
    | split
    | with_reducible apply Keeps.foldl
    | with_reducible apply Keeps.foldl_snd2
    | with_reducible apply Keeps.foldl_snd
    | with_reducible apply Keeps.foldl_fst

theorem State.dirResult_keeps (s : State) (status : Nat) (idx : Nat) {s0 : State} (h : Keeps s0 s) :
    Keeps s0 (State.dirResult s status idx) := by
  unfold State.dirResult
  repeat' first
    | with_reducible assumption
    | with_reducible apply State.event_keeps
    | with_reducible apply State.setFlag_keeps
    | with_reducible apply State.setReg_keeps
    | (extract_lets +onlyGivenNames xl; first
        | (clear_value xl; revert xl; intro yl)
        | (revert xl; intro yl))
    | with_reducible apply Keeps.mk' rfl rfl rfl rfl rfl rfl rfl rfl rfl

theorem State.dirRefuse_keeps (s : State) (status : Nat) {s0 : State} (h : Keeps s0 s) :
    Keeps s0 (State.dirRefuse s status) := by
  unfold State.dirRefuse
  repeat' first
    | with_reducible assumption
    | with_reducible apply State.dirResult_keeps
    | with_reducible apply State.bump_keeps

theorem State.dirInsert_keeps (s : State) (x : Nat) (owner : Nat) {s0 : State} (h : Keeps s0 s) :
    Keeps s0 (State.dirInsert s x owner) := by
  unfold State.dirInsert
  repeat' first
    | with_reducible assumption
    | with_reducible apply State.dirRefuse_keeps
    | with_reducible apply State.event_keeps
    | with_reducible apply State.bump_keeps
    | with_reducible apply State.dirCache_keeps
    | with_reducible apply State.dirMake_keeps
    | with_reducible apply State.quotas_keeps
    | with_reducible apply State.dirResult_keeps
    | (extract_lets +onlyGivenNames xl; first
        | (refine (fun (hx : Keeps s0 xl) => ?_) ?_; rotate_left; unfold xl; clear xl; rotate_left; clear_value xl; revert xl; intro yl hy))
    | split

theorem State.dirDelete_keeps (s : State) (x : Nat) {s0 : State} (h : Keeps s0 s) :
    Keeps s0 (State.dirDelete s x) := by
  unfold State.dirDelete
  repeat' first
    | with_reducible assumption
    | with_reducible apply State.quotas_keeps
    | with_reducible apply State.dirResult_keeps
    | with_reducible apply State.dirErase_keeps
    | split

theorem State.dirLookup_keeps (s : State) (x : Nat) {s0 : State} (h : Keeps s0 s) :
    Keeps s0 (State.dirLookup s x) := by
  unfold State.dirLookup
  repeat' first
    | with_reducible assumption
    | with_reducible apply State.bump_keeps
    | with_reducible apply State.dirResult_keeps
    | with_reducible apply State.dirCache_keeps
    | (extract_lets +onlyGivenNames xl; first
        | (refine (fun (hx : Keeps s0 xl) => ?_) ?_; rotate_left; unfold xl; clear xl; rotate_left; clear_value xl; revert xl; intro yl hy))
    | split

theorem State.dirRun_keeps (s : State) (op : Nat) (x : Nat) (owner : Nat) {s0 : State} (h : Keeps s0 s) :
    Keeps s0 (State.dirRun s op x owner) := by
  unfold State.dirRun
  repeat' first
    | with_reducible assumption
    | with_reducible apply State.dirResult_keeps
    | with_reducible apply State.sendDeltas_keeps
    | with_reducible apply State.dirMiss_keeps
    | with_reducible apply State.dirLookup_keeps
    | with_reducible apply State.dirInsert_keeps
    | with_reducible apply State.dirDelete_keeps
    | (extract_lets +onlyGivenNames xl; first
        | (clear_value xl; revert xl; intro yl)
        | (revert xl; intro yl))
    | split
    | with_reducible apply Keeps.mk' rfl rfl rfl rfl rfl rfl rfl rfl rfl

theorem dirCmdWrite_keeps (p : Page) (w : Word) (s : State) {s0 : State} (h : Keeps s0 s) :
    Keeps s0 (dirCmdWrite p w s) := by
  unfold dirCmdWrite
  repeat' first
    | with_reducible assumption
    | with_reducible apply applyWrite_keeps
    | with_reducible apply State.dispatch_keeps
    | with_reducible apply State.dirRun_keeps
    | with_reducible apply State.setFlag_keeps
    | (extract_lets +onlyGivenNames xl; first
        | (refine (fun (hx : Keeps s0 xl) => ?_) ?_; rotate_left; unfold xl; clear xl; rotate_left; clear_value xl; revert xl; intro yl hy))
    | split

theorem execDirLookup_keeps (q : Req) (s : State) {s0 : State} (h : Keeps s0 s) :
    ∀ z, execDirLookup q s = .next z → Keeps s0 z := by
  unfold execDirLookup
  intro z e
  refine Keeps.of_next ?_ e
  repeat' first
    | with_reducible assumption
    | with_reducible apply writeWord_keeps
    | with_reducible apply dirCmdWrite_keeps
    | intro _

theorem execDirInsert_keeps (q : Req) (s : State) {s0 : State} (h : Keeps s0 s) :
    ∀ z, execDirInsert q s = .next z → Keeps s0 z := by
  unfold execDirInsert
  intro z e
  refine Keeps.of_next ?_ e
  repeat' first
    | with_reducible assumption
    | with_reducible apply writeWord_keeps
    | with_reducible apply dirCmdWrite_keeps
    | intro _

theorem execDirDelete_keeps (q : Req) (s : State) {s0 : State} (h : Keeps s0 s) :
    ∀ z, execDirDelete q s = .next z → Keeps s0 z := by
  unfold execDirDelete
  intro z e
  refine Keeps.of_next ?_ e
  repeat' first
    | with_reducible assumption
    | with_reducible apply writeWord_keeps
    | with_reducible apply dirCmdWrite_keeps
    | intro _

theorem execMergeNow_keeps (q : Req) (s : State) {s0 : State} (h : Keeps s0 s) :
    ∀ z, execMergeNow q s = .next z → Keeps s0 z := by
  unfold execMergeNow
  intro z e
  refine Keeps.of_next ?_ e
  repeat' first
    | with_reducible assumption
    | with_reducible apply writeWord_keeps
    | with_reducible apply dirCmdWrite_keeps
    | intro _

theorem State.dirFetched_keeps (s : State) (x : Nat) {s0 : State} (h : Keeps s0 s) :
    Keeps s0 (State.dirFetched s x) := by
  unfold State.dirFetched
  repeat' first
    | with_reducible assumption
    | with_reducible apply State.dirCache_keeps
    | with_reducible apply State.dirLookup_keeps
    | with_reducible apply State.dirInsert_keeps
    | with_reducible apply State.dirDelete_keeps
    | (extract_lets +onlyGivenNames xl; first
        | (refine (fun (hx : Keeps s0 xl) => ?_) ?_; rotate_left; unfold xl; clear xl; rotate_left; clear_value xl; revert xl; intro yl hy))
    | split

theorem State.dirLost_keeps (s : State) (x : Nat) {s0 : State} (h : Keeps s0 s) :
    Keeps s0 (State.dirLost s x) := by
  unfold State.dirLost
  repeat' first
    | with_reducible assumption
    | with_reducible apply State.fault_keeps
    | with_reducible apply State.dirRefuse_keeps
    | with_reducible apply State.dirResult_keeps
    | (extract_lets +onlyGivenNames xl; first
        | (refine (fun (hx : Keeps s0 xl) => ?_) ?_; rotate_left; unfold xl; clear xl; rotate_left; clear_value xl; revert xl; intro yl hy))
    | split

theorem State.afterFetch_keeps (s : State) (x : Nat) (found : Bool) {s0 : State} (h : Keeps s0 s) :
    Keeps s0 (State.afterFetch s x found) := by
  unfold State.afterFetch
  repeat' first
    | with_reducible assumption
    | with_reducible apply State.retryPaths_keeps
    | with_reducible apply State.dispatch_keeps
    | with_reducible apply State.retryMsgs_keeps
    | with_reducible apply State.originate_keeps
    | intro _
    | (extract_lets +onlyGivenNames xl; first
        | (refine (fun (hx : Keeps s0 xl) => ?_) ?_; rotate_left; unfold xl; clear xl; rotate_left; clear_value xl; revert xl; intro yl hy)
        | (clear_value xl; revert xl; intro yl)
        | (revert xl; intro yl))
    | split
    | (refine Keeps.of_snd (by with_reducible assumption) ?_)
    | with_reducible apply Keeps.mk' rfl rfl rfl rfl rfl rfl rfl rfl rfl

theorem execDirDramFetchDone_keeps (x : Nat) (ok : Bool) (s : State) {s0 : State} (h : Keeps s0 s) :
    ∀ z, execDirDramFetchDone x ok s = .next z → Keeps s0 z := by
  unfold execDirDramFetchDone
  intro z e
  refine Keeps.of_next ?_ e
  repeat' first
    | with_reducible assumption
    | with_reducible apply State.dirFetched_keeps
    | with_reducible apply State.dirLost_keeps
    | with_reducible apply State.afterFetch_keeps
    | intro _
    | (extract_lets +onlyGivenNames xl; first
        | (refine (fun (hx : Keeps s0 xl) => ?_) ?_; rotate_left; unfold xl; clear xl; rotate_left; clear_value xl; revert xl; intro yl hy)
        | (clear_value xl; revert xl; intro yl)
        | (revert xl; intro yl))
    | split
    | (refine Keeps.of_snd (by with_reducible assumption) ?_)
    | with_reducible apply Keeps.mk' rfl rfl rfl rfl rfl rfl rfl rfl rfl

theorem State.sendDevOn_keeps (s : State) (c : Nat) (svc : Nat) (prio : Nat) (data : List Nat) {s0 : State} (h : Keeps s0 s) :
    Keeps s0 (State.sendDevOn s c svc prio data) := by
  unfold State.sendDevOn
  repeat' first
    | with_reducible assumption
    | with_reducible apply State.takeNumber_keeps
    | with_reducible apply State.newId_keeps
    | with_reducible apply State.keyFrame_keeps
    | intro _
    | (extract_lets +onlyGivenNames xl; first
        | (refine (fun (hx : Keeps s0 xl.2) => ?_) ?_; rotate_left; unfold xl; clear xl; rotate_left; clear_value xl; revert xl; intro yl hy)
        | (clear_value xl; revert xl; intro yl)
        | (revert xl; intro yl))
    | split
    | with_reducible apply Keeps.foldl
    | (refine Keeps.of_snd (by with_reducible assumption) ?_)
    | with_reducible apply Keeps.foldl_snd2
    | with_reducible apply Keeps.foldl_snd
    | with_reducible apply Keeps.foldl_fst

theorem State.advertise_keeps (s : State) {s0 : State} (h : Keeps s0 s) :
    Keeps s0 (State.advertise s) := by
  unfold State.advertise
  repeat' first
    | with_reducible assumption
    | with_reducible apply State.dispatch_keeps
    | with_reducible apply State.bump_keeps
    | with_reducible apply State.sendDevOn_keeps
    | intro _
    | (extract_lets +onlyGivenNames xl; first
        | (refine (fun (hx : Keeps s0 xl) => ?_) ?_; rotate_left; unfold xl; clear xl; rotate_left; clear_value xl; revert xl; intro yl hy)
        | (clear_value xl; revert xl; intro yl)
        | (revert xl; intro yl))
    | split
    | with_reducible apply Keeps.foldl
    | with_reducible apply Keeps.foldl_snd2
    | with_reducible apply Keeps.foldl_snd
    | with_reducible apply Keeps.foldl_fst
    | with_reducible apply Keeps.mk' rfl rfl rfl rfl rfl rfl rfl rfl rfl

theorem execRouteAdvTimer_keeps (s : State) {s0 : State} (h : Keeps s0 s) :
    ∀ z, execRouteAdvTimer s = .next z → Keeps s0 z := by
  unfold execRouteAdvTimer
  intro z e
  refine Keeps.of_next ?_ e
  repeat' first
    | with_reducible assumption
    | with_reducible apply State.advertise_keeps
    | (extract_lets +onlyGivenNames xl; first
        | (clear_value xl; revert xl; intro yl)
        | (revert xl; intro yl))
    | split

end Sys2Proof.Machine
end

