-- ==== Sys2Proof/Laws/Keeps/Pcie.lean ====
section
/-! SUPPORT. That every operation of Pcie keeps the relation of Laws/Keeps. -/

set_option Elab.async false

namespace Sys2Proof.Machine

theorem State.setLinkState_keeps (s : State) (l : Link) {s0 : State} (h : Keeps s0 s) :
    Keeps s0 (State.setLinkState s l) := by
  unfold State.setLinkState
  repeat' first
    | with_reducible assumption
    | (extract_lets +onlyGivenNames xl; first
        | (clear_value xl; revert xl; intro yl)
        | (revert xl; intro yl))
    | with_reducible apply Keeps.mk' rfl rfl rfl rfl rfl rfl rfl rfl rfl

theorem State.fnReset_keeps (s : State) (fn : Nat) {s0 : State} (h : Keeps s0 s) :
    Keeps s0 (State.fnReset s fn) := by
  unfold State.fnReset
  repeat' first
    | with_reducible assumption
    | with_reducible apply State.setFn_keeps
    | (extract_lets +onlyGivenNames xl; first
        | (clear_value xl; revert xl; intro yl)
        | (revert xl; intro yl))

theorem State.pcieDown_keeps (s : State) {s0 : State} (h : Keeps s0 s) :
    Keeps s0 (State.pcieDown s) := by
  unfold State.pcieDown
  repeat' first
    | with_reducible assumption
    | with_reducible apply State.setLinkState_keeps
    | with_reducible apply State.bump_keeps
    | with_reducible apply State.event_keeps
    | with_reducible apply State.startTenantReset_keeps
    | with_reducible apply State.fnReset_keeps
    | intro _
    | (extract_lets +onlyGivenNames xl; first
        | (refine (fun (hx : Keeps s0 xl) => ?_) ?_; rotate_left; unfold xl; clear xl; rotate_left; clear_value xl; revert xl; intro yl hy)
        | (clear_value xl; revert xl; intro yl)
        | (revert xl; intro yl))
    | split
    | with_reducible apply Keeps.foldl
    | with_reducible apply Keeps.foldl_snd2
    | with_reducible apply Keeps.foldl_snd
    | with_reducible apply Keeps.foldl_fst

theorem execPciePerst_keeps (pin : Bool) (s : State) {s0 : State} (h : Keeps s0 s) :
    ∀ z, execPciePerst pin s = .next z → Keeps s0 z := by
  unfold execPciePerst
  intro z e
  refine Keeps.of_next ?_ e
  repeat' first
    | with_reducible assumption
    | with_reducible apply State.setLinkState_keeps
    | with_reducible apply State.pcieDown_keeps
    | with_reducible apply State.wake_keeps
    | (extract_lets +onlyGivenNames xl; first
        | (refine (fun (hx : Keeps s0 xl) => ?_) ?_; rotate_left; unfold xl; clear xl; rotate_left; clear_value xl; revert xl; intro yl hy)
        | (clear_value xl; revert xl; intro yl)
        | (revert xl; intro yl))
    | split

theorem execPciePerstRise_keeps (s : State) {s0 : State} (h : Keeps s0 s) :
    ∀ z, execPciePerstRise s = .next z → Keeps s0 z := by
  unfold execPciePerstRise
  intro z e
  refine Keeps.of_next ?_ e
  repeat' first
    | with_reducible assumption
    | with_reducible apply State.wake_keeps
    | with_reducible apply State.setLinkState_keeps
    | (extract_lets +onlyGivenNames xl; first
        | (clear_value xl; revert xl; intro yl)
        | (revert xl; intro yl))
    | split

theorem execPcieLinkUp_keeps (speed : Fin 3) (two : Bool) (s : State) {s0 : State} (h : Keeps s0 s) :
    ∀ z, execPcieLinkUp speed two s = .next z → Keeps s0 z := by
  unfold execPcieLinkUp
  intro z e
  refine Keeps.of_next ?_ e
  repeat' first
    | with_reducible assumption
    | with_reducible apply State.event_keeps
    | with_reducible apply State.setLinkState_keeps
    | (extract_lets +onlyGivenNames xl; first
        | (clear_value xl; revert xl; intro yl)
        | (revert xl; intro yl))
    | split

theorem execPcieFlr_keeps (fn : Fin 9) (s : State) {s0 : State} (h : Keeps s0 s) :
    ∀ z, execPcieFlr fn s = .next z → Keeps s0 z := by
  unfold execPcieFlr
  intro z e
  refine Keeps.of_next ?_ e
  repeat' first
    | with_reducible assumption
    | with_reducible apply State.event_keeps
    | with_reducible apply State.startTenantReset_keeps
    | with_reducible apply State.fnReset_keeps
    | (extract_lets +onlyGivenNames xl; first
        | (refine (fun (hx : Keeps s0 xl) => ?_) ?_; rotate_left; unfold xl; clear xl; rotate_left; clear_value xl; revert xl; intro yl hy))
    | split

theorem State.flushMsix_keeps (s : State) (fn : Nat) {s0 : State} (h : Keeps s0 s) :
    Keeps s0 (State.flushMsix s fn) := by
  unfold State.flushMsix
  repeat' first
    | with_reducible assumption
    | with_reducible apply State.emit_keeps
    | with_reducible apply State.setFn_keeps
    | intro _
    | (extract_lets +onlyGivenNames xl; first
        | (clear_value xl; revert xl; intro yl)
        | (revert xl; intro yl))
    | split
    | with_reducible apply Keeps.foldl
    | with_reducible apply Keeps.foldl_snd2
    | with_reducible apply Keeps.foldl_snd
    | with_reducible apply Keeps.foldl_fst

theorem execBmeChange_keeps (fn : Fin 9) (bme : Bool) (d3 : Bool) (msixEn : Bool) (s : State) {s0 : State} (h : Keeps s0 s) :
    ∀ z, execBmeChange fn bme d3 msixEn s = .next z → Keeps s0 z := by
  unfold execBmeChange
  intro z e
  refine Keeps.of_next ?_ e
  repeat' first
    | with_reducible assumption
    | with_reducible apply State.flushMsix_keeps
    | with_reducible apply State.setFn_keeps
    | with_reducible apply State.issueFetch_keeps
    | with_reducible apply State.readAgain_keeps
    | (extract_lets +onlyGivenNames xl; first
        | (refine (fun (hx : Keeps s0 xl) => ?_) ?_; rotate_left; unfold xl; clear xl; rotate_left; clear_value xl; revert xl; intro yl hy)
        | (clear_value xl; revert xl; intro yl)
        | (revert xl; intro yl))
    | split

theorem execMsixUnmask_keeps (fn : Fin 9) (vec : Fin 64) (mask : Bool) (s : State) {s0 : State} (h : Keeps s0 s) :
    ∀ z, execMsixUnmask fn vec mask s = .next z → Keeps s0 z := by
  unfold execMsixUnmask
  intro z e
  refine Keeps.of_next ?_ e
  repeat' first
    | with_reducible assumption
    | with_reducible apply State.flushMsix_keeps
    | with_reducible apply State.setFn_keeps
    | (extract_lets +onlyGivenNames xl; first
        | (clear_value xl; revert xl; intro yl)
        | (revert xl; intro yl))
    | split

theorem execPcieRequestNoBar_keeps (fn : Nat) (s : State) {s0 : State} (h : Keeps s0 s) :
    ∀ z, execPcieRequestNoBar fn s = .next z → Keeps s0 z := by
  unfold execPcieRequestNoBar
  intro z e
  refine Keeps.of_next ?_ e
  repeat' first
    | with_reducible assumption
    | with_reducible apply State.emit_keeps
    | split

theorem execPcieRefLoss_keeps (s : State) {s0 : State} (h : Keeps s0 s) :
    ∀ z, execPcieRefLoss s = .next z → Keeps s0 z := by
  unfold execPcieRefLoss
  intro z e
  refine Keeps.of_next ?_ e
  repeat' first
    | with_reducible assumption
    | with_reducible apply State.pcieDown_keeps
    | with_reducible apply State.fault_keeps
    | with_reducible apply State.event_keeps
    | with_reducible apply State.bump_keeps
    | (extract_lets +onlyGivenNames xl; first
        | (refine (fun (hx : Keeps s0 xl) => ?_) ?_; rotate_left; unfold xl; clear xl; rotate_left; clear_value xl; revert xl; intro yl hy)
        | (clear_value xl; revert xl; intro yl)
        | (revert xl; intro yl))
    | split
    | with_reducible apply Keeps.mk' rfl rfl rfl rfl rfl rfl rfl rfl rfl

theorem execPcieRefRestore_keeps (s : State) {s0 : State} (h : Keeps s0 s) :
    ∀ z, execPcieRefRestore s = .next z → Keeps s0 z := by
  unfold execPcieRefRestore
  intro z e
  refine Keeps.of_next ?_ e
  repeat' first
    | with_reducible assumption
    | (extract_lets +onlyGivenNames xl; first
        | (clear_value xl; revert xl; intro yl)
        | (revert xl; intro yl))
    | with_reducible apply Keeps.mk' rfl rfl rfl rfl rfl rfl rfl rfl rfl

end Sys2Proof.Machine
end

