-- ==== Sys2Proof/Laws/Keeps/Power.lean ====
section
/-! SUPPORT. That every operation of Power keeps the relation of Laws/Keeps. -/

set_option Elab.async false

namespace Sys2Proof.Machine

theorem State.setPwr_keeps (s : State) (x : Pwr) {s0 : State} (h : Keeps s0 s) :
    Keeps s0 (State.setPwr s x) := by
  unfold State.setPwr
  repeat' first
    | with_reducible assumption
    | with_reducible apply Keeps.mk' rfl rfl rfl rfl rfl rfl rfl rfl rfl

theorem State.setMode_keeps (s : State) (m : PwrMode) {s0 : State} (h : Keeps s0 s) :
    Keeps s0 (State.setMode s m) := by
  unfold State.setMode
  repeat' first
    | with_reducible assumption
    | with_reducible apply State.setPwr_keeps
    | (extract_lets +onlyGivenNames xl; first
        | (clear_value xl; revert xl; intro yl)
        | (revert xl; intro yl))

theorem State.healthyPin_keeps (s : State) {s0 : State} (h : Keeps s0 s) :
    Keeps s0 (State.healthyPin s) := by
  unfold State.healthyPin
  repeat' first
    | with_reducible assumption
    | with_reducible apply State.event_keeps
    | with_reducible apply State.setStatus_keeps
    | with_reducible apply State.setFlag_keeps
    | with_reducible apply State.bump_keeps
    | (extract_lets +onlyGivenNames xl; first
        | (refine (fun (hx : Keeps s0 xl) => ?_) ?_; rotate_left; unfold xl; clear xl; rotate_left; clear_value xl; revert xl; intro yl hy)
        | (clear_value xl; revert xl; intro yl)
        | (revert xl; intro yl))
    | split

theorem State.setStage_keeps (s : State) (k : Nat) (x : Stage) {s0 : State} (h : Keeps s0 s) :
    Keeps s0 (State.setStage s k x) := by
  unfold State.setStage
  repeat' first
    | with_reducible assumption
    | with_reducible apply State.setPwr_keeps
    | with_reducible apply State.setStatus_keeps
    | (extract_lets +onlyGivenNames xl; first
        | (refine (fun (hx : Keeps s0 xl) => ?_) ?_; rotate_left; unfold xl; clear xl; rotate_left; clear_value xl; revert xl; intro yl hy)
        | (clear_value xl; revert xl; intro yl)
        | (revert xl; intro yl))

theorem State.endIsoTests_keeps (s : State) {s0 : State} (h : Keeps s0 s) :
    Keeps s0 (State.endIsoTests s) := by
  unfold State.endIsoTests
  repeat' first
    | with_reducible assumption
    | with_reducible apply Keeps.mk' rfl rfl rfl rfl rfl rfl rfl rfl rfl

theorem State.setDom_keeps (s : State) (d : Nat) (m : DomMode) {s0 : State} (h : Keeps s0 s) :
    Keeps s0 (State.setDom s d m) := by
  unfold State.setDom
  repeat' first
    | with_reducible assumption
    | with_reducible apply State.endIsoTests_keeps
    | with_reducible apply State.setPwr_keeps
    | (extract_lets +onlyGivenNames xl; first
        | (clear_value xl; revert xl; intro yl)
        | (revert xl; intro yl))

theorem State.allDoms_keeps (s : State) {s0 : State} (h : Keeps s0 s) :
    Keeps s0 (State.allDoms s) := by
  unfold State.allDoms
  repeat' first
    | with_reducible assumption
    | with_reducible apply State.setPwr_keeps
    | (extract_lets +onlyGivenNames xl; first
        | (clear_value xl; revert xl; intro yl)
        | (revert xl; intro yl))

theorem State.dramStatus_keeps (s : State) (was : Bool) {s0 : State} (h : Keeps s0 s) :
    Keeps s0 (State.dramStatus s was) := by
  unfold State.dramStatus
  repeat' first
    | with_reducible assumption
    | with_reducible apply State.setStatus_keeps
    | with_reducible apply State.event_keeps
    | (extract_lets +onlyGivenNames xl; first
        | (refine (fun (hx : Keeps s0 xl) => ?_) ?_; rotate_left; unfold xl; clear xl; rotate_left; clear_value xl; revert xl; intro yl hy)
        | (clear_value xl; revert xl; intro yl)
        | (revert xl; intro yl))
    | split

theorem State.setDram_keeps (s : State) (x : Dram) {s0 : State} (h : Keeps s0 s) :
    Keeps s0 (State.setDram s x) := by
  unfold State.setDram
  repeat' first
    | with_reducible assumption
    | with_reducible apply State.dramStatus_keeps
    | with_reducible apply State.setPwr_keeps
    | (extract_lets +onlyGivenNames xl; first
        | (clear_value xl; revert xl; intro yl)
        | (revert xl; intro yl))

theorem State.lastGasp_keeps (s : State) (cause : Nat) {s0 : State} (h : Keeps s0 s) :
    Keeps s0 (State.lastGasp s cause) := by
  unfold State.lastGasp
  repeat' first
    | with_reducible assumption
    | with_reducible apply State.takeNumber_keeps
    | with_reducible apply State.newId_keeps
    | with_reducible apply State.routeFrame_keeps
    | (extract_lets +onlyGivenNames xl; first
        | (refine (fun (hx : Keeps s0 xl) => ?_) ?_; rotate_left; unfold xl; clear xl; rotate_left; clear_value xl; revert xl; intro yl hy)
        | (refine (fun (hx : Keeps s0 xl.2) => ?_) ?_; rotate_left; unfold xl; clear xl; rotate_left; clear_value xl; revert xl; intro yl hy)
        | (clear_value xl; revert xl; intro yl)
        | (revert xl; intro yl))
    | split
    | (refine Keeps.of_snd (by with_reducible assumption) ?_)
    | with_reducible apply Keeps.mk' rfl rfl rfl rfl rfl rfl rfl rfl rfl

theorem State.lgEnd_keeps (s : State) {s0 : State} (h : Keeps s0 s) :
    Keeps s0 (State.lgEnd s) := by
  unfold State.lgEnd
  repeat' first
    | with_reducible assumption
    | with_reducible apply State.setFlag_keeps
    | (extract_lets +onlyGivenNames xl; first
        | (clear_value xl; revert xl; intro yl)
        | (revert xl; intro yl))
    | split
    | with_reducible apply Keeps.mk' rfl rfl rfl rfl rfl rfl rfl rfl rfl

theorem State.stnsOff_keeps (s : State) {s0 : State} (h : Keeps s0 s) :
    Keeps s0 (State.stnsOff s) := by
  unfold State.stnsOff
  repeat' first
    | with_reducible assumption
    | with_reducible apply State.abandonJobs_keeps
    | intro _
    | split
    | with_reducible apply Keeps.foldl
    | with_reducible apply Keeps.foldl_snd2
    | with_reducible apply Keeps.foldl_snd
    | with_reducible apply Keeps.foldl_fst
    | with_reducible apply Keeps.mk' rfl rfl rfl rfl rfl rfl rfl rfl rfl

theorem State.endAllRx_keeps (s : State) {s0 : State} (h : Keeps s0 s) :
    Keeps s0 (State.endAllRx s) := by
  unfold State.endAllRx
  repeat' first
    | with_reducible assumption
    | with_reducible apply State.endRx_keeps
    | intro _
    | split
    | with_reducible apply Keeps.foldl
    | with_reducible apply Keeps.foldl_snd2
    | with_reducible apply Keeps.foldl_snd
    | with_reducible apply Keeps.foldl_fst

theorem State.stageAct_keeps (s : State) (k : Nat) {s0 : State} (h : Keeps s0 s) :
    Keeps s0 (State.stageAct s k) := by
  unfold State.stageAct
  repeat' first
    | with_reducible assumption
    | with_reducible apply State.lastGasp_keeps
    | with_reducible apply State.setDram_keeps
    | with_reducible apply State.setDom_keeps
    | with_reducible apply State.lanesShed_keeps
    | with_reducible apply State.driversOff_keeps
    | with_reducible apply State.healthyPin_keeps
    | with_reducible apply State.portsRemove_keeps
    | with_reducible apply State.endAllRx_keeps
    | with_reducible apply State.stnsOff_keeps
    | with_reducible apply State.setPwr_keeps
    | intro _
    | (extract_lets +onlyGivenNames xl; first
        | (refine (fun (hx : Keeps s0 xl) => ?_) ?_; rotate_left; unfold xl; clear xl; rotate_left; clear_value xl; revert xl; intro yl hy)
        | (clear_value xl; revert xl; intro yl)
        | (revert xl; intro yl))
    | split
    | with_reducible apply Keeps.foldl
    | with_reducible apply Keeps.foldl_snd2
    | with_reducible apply Keeps.foldl_snd
    | with_reducible apply Keeps.foldl_fst

theorem State.stageBack_keeps (s : State) (k : Nat) {s0 : State} (h : Keeps s0 s) :
    Keeps s0 (State.stageBack s k) := by
  unfold State.stageBack
  repeat' first
    | with_reducible assumption
    | with_reducible apply State.lgEnd_keeps
    | with_reducible apply State.setDom_keeps
    | with_reducible apply State.setDram_keeps
    | with_reducible apply State.lanesShed_keeps
    | with_reducible apply State.healthyPin_keeps
    | intro _
    | (extract_lets +onlyGivenNames xl; first
        | (refine (fun (hx : Keeps s0 xl) => ?_) ?_; rotate_left; unfold xl; clear xl; rotate_left; clear_value xl; revert xl; intro yl hy)
        | (clear_value xl; revert xl; intro yl)
        | (revert xl; intro yl))
    | split
    | with_reducible apply Keeps.foldl
    | with_reducible apply Keeps.foldl_snd2
    | with_reducible apply Keeps.foldl_snd
    | with_reducible apply Keeps.foldl_fst

theorem State.lose_keeps (s : State) {s0 : State} (h : Keeps s0 s) :
    Keeps s0 (State.lose s) := by
  unfold State.lose
  extract_lets hf hi c1 c2 c3 c4 c5 s1 s2 s3
  have h1 : Keeps s0 s1 := h.lost rfl rfl (fun hr => storeKeep_rising _ hr) rfl rfl rfl
  clear_value s1
  have h3 : Keeps s0 s3 := by
    unfold s3
    split
    · exact State.setReg_keeps _ _ _ _ h1
    · exact State.setReg_keeps _ _ _ _ (State.setReg_keeps _ _ _ _ h1)
  exact State.setStatus_keeps _ _ _ _ (Keeps.foldl h3 fun _ _ ht => State.setFlag_keeps _ _ _ _ ht)

theorem State.toStandby_keeps (s : State) (asked : Bool) {s0 : State} (h : Keeps s0 s) :
    Keeps s0 (State.toStandby s asked) := by
  unfold State.toStandby
  repeat' first
    | with_reducible assumption
    | with_reducible apply State.lose_keeps
    | with_reducible apply State.setPwr_keeps
    | (extract_lets +onlyGivenNames xl; first
        | (refine (fun (hx : Keeps s0 xl) => ?_) ?_; rotate_left; unfold xl; clear xl; rotate_left; clear_value xl; revert xl; intro yl hy)
        | (clear_value xl; revert xl; intro yl)
        | (revert xl; intro yl))

theorem State.shed_keeps (s : State) (k : Nat) {s0 : State} (h : Keeps s0 s) :
    Keeps s0 (State.shed s k) := by
  unfold State.shed
  repeat' first
    | with_reducible assumption
    | with_reducible apply State.event_keeps
    | with_reducible apply State.bump_keeps
    | with_reducible apply State.setStage_keeps
    | with_reducible apply State.stageAct_keeps
    | with_reducible apply State.endIdle_keeps
    | with_reducible apply State.setPwr_keeps
    | with_reducible apply State.wake_keeps
    | with_reducible apply State.toStandby_keeps
    | (extract_lets +onlyGivenNames xl; first
        | (refine (fun (hx : Keeps s0 xl) => ?_) ?_; rotate_left; unfold xl; clear xl; rotate_left; clear_value xl; revert xl; intro yl hy)
        | (clear_value xl; revert xl; intro yl)
        | (revert xl; intro yl))
    | split

theorem execShedStage_keeps (i : Fin 5) (vin : Nat) (s : State) {s0 : State} (h : Keeps s0 s) :
    ∀ z, execShedStage i vin s = .next z → Keeps s0 z := by
  unfold execShedStage
  intro z e
  refine Keeps.of_next ?_ e
  repeat' first
    | with_reducible assumption
    | with_reducible apply State.setPwr_keeps
    | with_reducible apply State.healthyPin_keeps
    | with_reducible apply State.shed_keeps
    | intro _
    | (extract_lets +onlyGivenNames xl; first
        | (refine (fun (hx : Keeps s0 xl) => ?_) ?_; rotate_left; unfold xl; clear xl; rotate_left; clear_value xl; revert xl; intro yl hy)
        | (clear_value xl; revert xl; intro yl)
        | (revert xl; intro yl))
    | split
    | with_reducible apply Keeps.foldl
    | with_reducible apply Keeps.foldl_snd2
    | with_reducible apply Keeps.foldl_snd
    | with_reducible apply Keeps.foldl_fst

theorem State.restoreStage_keeps (s : State) (k : Nat) {s0 : State} (h : Keeps s0 s) :
    Keeps s0 (State.restoreStage s k) := by
  unfold State.restoreStage
  repeat' first
    | with_reducible assumption
    | with_reducible apply State.event_keeps
    | with_reducible apply State.setStage_keeps
    | with_reducible apply State.setPwr_keeps
    | with_reducible apply State.stageBack_keeps
    | with_reducible apply State.endIdle_keeps
    | (extract_lets +onlyGivenNames xl; first
        | (refine (fun (hx : Keeps s0 xl) => ?_) ?_; rotate_left; unfold xl; clear xl; rotate_left; clear_value xl; revert xl; intro yl hy)
        | (clear_value xl; revert xl; intro yl)
        | (revert xl; intro yl))
    | split

theorem State.restoreDue_keeps (s : State) {s0 : State} (h : Keeps s0 s) :
    Keeps s0 (State.restoreDue s) := by
  unfold State.restoreDue
  repeat' first
    | with_reducible assumption
    | with_reducible apply State.restoreStage_keeps
    | intro _
    | with_reducible apply Keeps.foldl
    | with_reducible apply Keeps.foldl_snd2
    | with_reducible apply Keeps.foldl_snd
    | with_reducible apply Keeps.foldl_fst

theorem execRestoreTimerExpire_keeps (i : Fin 5) (s : State) {s0 : State} (h : Keeps s0 s) :
    ∀ z, execRestoreTimerExpire i s = .next z → Keeps s0 z := by
  unfold execRestoreTimerExpire
  intro z e
  refine Keeps.of_next ?_ e
  repeat' first
    | with_reducible assumption
    | with_reducible apply State.restoreDue_keeps
    | with_reducible apply State.setStage_keeps
    | (extract_lets +onlyGivenNames xl; first
        | (clear_value xl; revert xl; intro yl)
        | (revert xl; intro yl))
    | split

theorem execVinRisingThreshold_keeps (i : Fin 6) (vin : Nat) (s : State) {s0 : State} (h : Keeps s0 s) :
    ∀ z, execVinRisingThreshold i vin s = .next z → Keeps s0 z := by
  unfold execVinRisingThreshold
  intro z e
  refine Keeps.of_next ?_ e
  repeat' first
    | with_reducible assumption
    | with_reducible apply State.setPwr_keeps
    | with_reducible apply State.setStage_keeps
    | (extract_lets +onlyGivenNames xl; first
        | (refine (fun (hx : Keeps s0 xl) => ?_) ?_; rotate_left; unfold xl; clear xl; rotate_left; clear_value xl; revert xl; intro yl hy)
        | (clear_value xl; revert xl; intro yl)
        | (revert xl; intro yl))
    | split

theorem execStage5JournalDone_keeps (s : State) {s0 : State} (h : Keeps s0 s) :
    ∀ z, execStage5JournalDone s = .next z → Keeps s0 z := by
  unfold execStage5JournalDone
  intro z e
  refine Keeps.of_next ?_ e
  repeat' first
    | with_reducible assumption
    | with_reducible apply State.setPwr_keeps
    | with_reducible apply State.toStandby_keeps
    | (extract_lets +onlyGivenNames xl; first
        | (refine (fun (hx : Keeps s0 xl) => ?_) ?_; rotate_left; unfold xl; clear xl; rotate_left; clear_value xl; revert xl; intro yl hy)
        | (clear_value xl; revert xl; intro yl)
        | (revert xl; intro yl))
    | split

theorem execIdleEnter_keeps (s : State) {s0 : State} (h : Keeps s0 s) :
    ∀ z, execIdleEnter s = .next z → Keeps s0 z := by
  unfold execIdleEnter
  intro z e
  refine Keeps.of_next ?_ e
  repeat' first
    | with_reducible assumption
    | with_reducible apply State.setMode_keeps
    | split

theorem State.slumberReq_keeps (s : State) (cmd : Bool) {s0 : State} (h : Keeps s0 s) :
    Keeps s0 (State.slumberReq s cmd) := by
  unfold State.slumberReq
  repeat' first
    | with_reducible assumption
    | with_reducible apply State.event_keeps
    | with_reducible apply State.setPwr_keeps
    | (extract_lets +onlyGivenNames xl; first
        | (clear_value xl; revert xl; intro yl)
        | (revert xl; intro yl))
    | split

theorem State.loseSbuf_keeps (s : State) {s0 : State} (h : Keeps s0 s) :
    Keeps s0 (State.loseSbuf s) := by
  refine (h.setMem (m := { s.mem with sbuf := [], tmap := [] }) fun hm => ?_).congr rfl rfl rfl rfl rfl rfl rfl rfl rfl
  rw [Mem.wf_iff] at hm ⊢
  exact ⟨hm.1, hm.2.1, rfl, rfl⟩

theorem State.losePd2_keeps (s : State) {s0 : State} (h : Keeps s0 s) :
    Keeps s0 (State.losePd2 s) := by
  refine (h.setMem (m := if s.dirDram then s.mem else { s.mem with dir := [], dirBad := [] }) fun hm => ?_).congr
    rfl rfl rfl rfl rfl rfl rfl rfl rfl
  rw [Mem.wf_iff] at hm ⊢
  split
  · exact hm
  · exact ⟨hm.1, rfl, hm.2.2⟩

theorem State.loseDram_keeps (s : State) {s0 : State} (h : Keeps s0 s) :
    Keeps s0 (State.loseDram s) := by
  refine (h.setMem (m := if s.dirDram then { s.mem with dir := [], dirBad := [] } else s.mem) fun hm => ?_).congr
    rfl rfl rfl rfl rfl rfl rfl rfl rfl
  rw [Mem.wf_iff] at hm ⊢
  split
  · exact ⟨hm.1, rfl, hm.2.2⟩
  · exact hm

theorem State.unplace_keeps (s : State) {s0 : State} (h : Keeps s0 s) :
    Keeps s0 (State.unplace s) := by
  unfold State.unplace
  repeat' first
    | with_reducible assumption
    | with_reducible apply State.mapFrames_keeps
    | with_reducible apply State.setChan_keeps
    | intro _
    | (extract_lets +onlyGivenNames xl; first
        | (refine (fun (hx : Keeps s0 xl) => ?_) ?_; rotate_left; unfold xl; clear xl; rotate_left; clear_value xl; revert xl; intro yl hy)
        | (clear_value xl; revert xl; intro yl)
        | (revert xl; intro yl))
    | split
    | with_reducible apply Keeps.foldl
    | with_reducible apply Keeps.foldl_snd2
    | with_reducible apply Keeps.foldl_snd
    | with_reducible apply Keeps.foldl_fst

theorem State.enterSlumber_keeps (s : State) {s0 : State} (h : Keeps s0 s) :
    Keeps s0 (State.enterSlumber s) := by
  unfold State.enterSlumber
  extract_lets dom lost s1 p1 p2 s2 s3 s4 s5 s6
  have h1 : Keeps s0 s1 := State.bump_keeps _ _ _ (State.setJobs_keeps _ _ (State.stnsOff_keeps _ (State.unplace_keeps _ h)))
  clear_value s1
  have h2 : Keeps s0 s2 := by
    unfold s2 p2 p1
    split
    · exact h1
    · have hd := State.pcieDown_keeps _ h1
      refine hd.setMem fun hm => ?_
      rw [Mem.wf_iff] at hm ⊢
      exact ⟨rfl, hm.2⟩
  clear_value s2
  have h3 : Keeps s0 s3 := by
    unfold s3
    split
    · exact State.loseSbuf_keeps _ h2
    · exact h2
  clear_value s3
  have h4 : Keeps s0 s4 := by
    unfold s4
    split
    · exact State.losePd2_keeps _ h3
    · exact h3
  clear_value s4
  have h5 : Keeps s0 s5 := by
    unfold s5
    split
    · exact State.loseDram_keeps _ h4
    · exact h4
  clear_value s5
  have h6 : Keeps s0 s6 := State.driversOff_keeps _ (Keeps.foldl h5 fun _ _ ht => State.monSilent_keeps _ _ ht)
  clear_value s6
  exact State.portsRemove_keeps _ (State.endIsoTests_keeps _ (State.setStatus_keeps _ _ _ _ (State.setPwr_keeps _ _ h6)))

theorem State.slept_keeps (s : State) (slots : Nat) (frac : Nat) {s0 : State} (h : Keeps s0 s) :
    Keeps s0 (State.slept s slots frac) := by
  unfold State.slept
  repeat' first
    | with_reducible assumption
    | (extract_lets +onlyGivenNames xl; first
        | (clear_value xl; revert xl; intro yl)
        | (revert xl; intro yl))
    | with_reducible apply Keeps.mk' rfl rfl rfl rfl rfl rfl rfl rfl rfl

theorem State.rtcAdd_keeps (s : State) (n : Nat) {s0 : State} (h : Keeps s0 s) :
    Keeps s0 (State.rtcAdd s n) := by
  unfold State.rtcAdd
  repeat' first
    | with_reducible assumption
    | with_reducible apply State.setPwr_keeps
    | (extract_lets +onlyGivenNames xl; first
        | (clear_value xl; revert xl; intro yl)
        | (revert xl; intro yl))

theorem State.wakeDone_keeps (s : State) {s0 : State} (h : Keeps s0 s) :
    Keeps s0 (State.wakeDone s) := by
  unfold State.wakeDone
  repeat' first
    | with_reducible assumption
    | with_reducible apply State.startPending_keeps
    | with_reducible apply State.event_keeps
    | with_reducible apply State.setPwr_keeps
    | with_reducible apply State.healthyPin_keeps
    | with_reducible apply State.allDoms_keeps
    | with_reducible apply State.dramStatus_keeps
    | with_reducible apply State.stageAct_keeps
    | with_reducible apply State.restoreDue_keeps
    | with_reducible apply State.pinsOn_keeps
    | intro _
    | (extract_lets +onlyGivenNames xl; first
        | (refine (fun (hx : Keeps s0 xl) => ?_) ?_; rotate_left; unfold xl; clear xl; rotate_left; clear_value xl; revert xl; intro yl hy)
        | (clear_value xl; revert xl; intro yl)
        | (revert xl; intro yl))
    | split
    | with_reducible apply Keeps.foldl
    | with_reducible apply Keeps.foldl_snd2
    | with_reducible apply Keeps.foldl_snd
    | with_reducible apply Keeps.foldl_fst
    | (refine Keeps.of_snd (by with_reducible assumption) ?_)
    | with_reducible apply Keeps.mk' rfl rfl rfl rfl rfl rfl rfl rfl rfl

theorem pwrCmdWrite_keeps (p : Page) (w : Word) (s : State) {s0 : State} (h : Keeps s0 s) :
    Keeps s0 (pwrCmdWrite p w s) := by
  unfold pwrCmdWrite
  repeat' first
    | with_reducible assumption
    | with_reducible apply applyWrite_keeps
    | with_reducible apply State.slumberReq_keeps
    | with_reducible apply State.toStandby_keeps
    | with_reducible apply State.wake_keeps
    | (extract_lets +onlyGivenNames xl; first
        | (refine (fun (hx : Keeps s0 xl) => ?_) ?_; rotate_left; unfold xl; clear xl; rotate_left; clear_value xl; revert xl; intro yl hy))
    | split

theorem execPwrSlumber_keeps (q : Req) (s : State) {s0 : State} (h : Keeps s0 s) :
    ∀ z, execPwrSlumber q s = .next z → Keeps s0 z := by
  unfold execPwrSlumber
  intro z e
  refine Keeps.of_next ?_ e
  repeat' first
    | with_reducible assumption
    | with_reducible apply writeWord_keeps
    | with_reducible apply pwrCmdWrite_keeps
    | intro _

theorem execPwrStandby_keeps (q : Req) (s : State) {s0 : State} (h : Keeps s0 s) :
    ∀ z, execPwrStandby q s = .next z → Keeps s0 z := by
  unfold execPwrStandby
  intro z e
  refine Keeps.of_next ?_ e
  repeat' first
    | with_reducible assumption
    | with_reducible apply writeWord_keeps
    | with_reducible apply pwrCmdWrite_keeps
    | intro _

theorem execPwrWake_keeps (q : Req) (s : State) {s0 : State} (h : Keeps s0 s) :
    ∀ z, execPwrWake q s = .next z → Keeps s0 z := by
  unfold execPwrWake
  intro z e
  refine Keeps.of_next ?_ e
  repeat' first
    | with_reducible assumption
    | with_reducible apply writeWord_keeps
    | with_reducible apply pwrCmdWrite_keeps
    | intro _

theorem pwrAlarmWrite_keeps (p : Page) (w : Word) (s : State) {s0 : State} (h : Keeps s0 s) :
    Keeps s0 (pwrAlarmWrite p w s) := by
  unfold pwrAlarmWrite
  repeat' first
    | with_reducible assumption
    | with_reducible apply applyWrite_keeps
    | with_reducible apply State.setPwr_keeps
    | (extract_lets +onlyGivenNames xl; first
        | (refine (fun (hx : Keeps s0 xl) => ?_) ?_; rotate_left; unfold xl; clear xl; rotate_left; clear_value xl; revert xl; intro yl hy)
        | (clear_value xl; revert xl; intro yl)
        | (revert xl; intro yl))

theorem execAlarmMatch_keeps (s : State) {s0 : State} (h : Keeps s0 s) :
    ∀ z, execAlarmMatch s = .next z → Keeps s0 z := by
  unfold execAlarmMatch
  intro z e
  refine Keeps.of_next ?_ e
  repeat' first
    | with_reducible assumption
    | with_reducible apply State.wake_keeps
    | with_reducible apply State.setPwr_keeps
    | (extract_lets +onlyGivenNames xl; first
        | (clear_value xl; revert xl; intro yl)
        | (revert xl; intro yl))
    | split

theorem execVbatLow_keeps (vbat : Nat) (s : State) {s0 : State} (h : Keeps s0 s) :
    ∀ z, execVbatLow vbat s = .next z → Keeps s0 z := by
  unfold execVbatLow
  intro z e
  refine Keeps.of_next ?_ e
  repeat' first
    | with_reducible assumption
    | with_reducible apply State.event_keeps
    | with_reducible apply State.setPwr_keeps
    | (extract_lets +onlyGivenNames xl; first
        | (clear_value xl; revert xl; intro yl)
        | (revert xl; intro yl))
    | split

theorem execDramTrainDone_keeps (ok : Bool) (mib : Nat) (s : State) {s0 : State} (h : Keeps s0 s) :
    ∀ z, execDramTrainDone ok mib s = .next z → Keeps s0 z := by
  unfold execDramTrainDone
  intro z e
  refine Keeps.of_next ?_ e
  repeat' first
    | with_reducible assumption
    | with_reducible apply State.setDram_keeps
    | with_reducible apply State.fault_keeps
    | (extract_lets +onlyGivenNames xl; first
        | (refine (fun (hx : Keeps s0 xl) => ?_) ?_; rotate_left; unfold xl; clear xl; rotate_left; clear_value xl; revert xl; intro yl hy)
        | (clear_value xl; revert xl; intro yl)
        | (revert xl; intro yl))
    | split

theorem pwrEffect_keeps (off : Nat) (a1 : Page) (a2 : Word) (a3 : State) {s0 : State} (h : Keeps s0 a3) :
    Keeps s0 (pwrEffect off a1 a2 a3) := by
  unfold pwrEffect
  repeat' first
    | with_reducible assumption
    | with_reducible apply pwrCmdWrite_keeps
    | with_reducible apply pwrAlarmWrite_keeps
    | with_reducible apply applyWrite_keeps
    | split

end Sys2Proof.Machine
end

