-- ==== Sys2Proof/Laws/Keeps/Reset.lean ====
section
/-! SUPPORT. That every operation of Reset keeps the relation of Laws/Keeps. -/

set_option Elab.async false

namespace Sys2Proof.Machine

theorem State.cause_keeps (s : State) (bit : Nat) {s0 : State} (h : Keeps s0 s) :
    Keeps s0 (State.cause s bit) := by
  unfold State.cause
  repeat' first
    | with_reducible assumption
    | with_reducible apply State.setRegBit_keeps

theorem State.devReset_keeps (s : State) (bit : Nat) {s0 : State} (h : Keeps s0 s) :
    Keeps s0 (State.devReset s bit) := by
  unfold State.devReset
  repeat' first
    | with_reducible assumption
    | with_reducible apply State.cause_keeps
    | with_reducible apply State.lose_keeps
    | with_reducible apply State.setPwr_keeps
    | (extract_lets +onlyGivenNames xl; first
        | (refine (fun (hx : Keeps s0 xl) => ?_) ?_; rotate_left; unfold xl; clear xl; rotate_left; clear_value xl; revert xl; intro yl hy)
        | (clear_value xl; revert xl; intro yl)
        | (revert xl; intro yl))

theorem State.fatalEnd_keeps (s : State) (bit : Nat) {s0 : State} (h : Keeps s0 s) :
    Keeps s0 (State.fatalEnd s bit) := by
  unfold State.fatalEnd
  repeat' first
    | with_reducible assumption
    | with_reducible apply State.devReset_keeps
    | with_reducible apply State.healthyPin_keeps
    | with_reducible apply State.setFlag_keeps

theorem State.trialFatal_keeps (s : State) {s0 : State} (h : Keeps s0 s) :
    Keeps s0 (State.trialFatal s) := by
  unfold State.trialFatal
  repeat' first
    | with_reducible assumption
    | (extract_lets +onlyGivenNames xl; first
        | (clear_value xl; revert xl; intro yl)
        | (revert xl; intro yl))
    | with_reducible apply Keeps.mk' rfl rfl rfl rfl rfl rfl rfl rfl rfl

theorem execFatalFault_keeps (f : Fatal) (s : State) {s0 : State} (h : Keeps s0 s) :
    ∀ z, execFatalFault f s = .next z → Keeps s0 z := by
  unfold execFatalFault
  intro z e
  refine Keeps.of_next ?_ e
  repeat' first
    | with_reducible assumption
    | with_reducible apply State.fatalEnd_keeps
    | with_reducible apply State.trialFatal_keeps
    | with_reducible apply State.bump_keeps
    | with_reducible apply State.fault_keeps
    | split

theorem execWatchdogExpire_keeps (s : State) {s0 : State} (h : Keeps s0 s) :
    ∀ z, execWatchdogExpire s = .next z → Keeps s0 z := by
  unfold execWatchdogExpire
  intro z e
  refine Keeps.of_next ?_ e
  repeat' first
    | with_reducible assumption
    | with_reducible apply State.fatalEnd_keeps
    | with_reducible apply State.trialFatal_keeps
    | with_reducible apply State.bump_keeps
    | with_reducible apply State.fault_keeps
    | split

theorem execRailFault_keeps (rail : Fin 3) (s : State) {s0 : State} (h : Keeps s0 s) :
    ∀ z, execRailFault rail s = .next z → Keeps s0 z := by
  unfold execRailFault
  intro z e
  refine Keeps.of_next ?_ e
  repeat' first
    | with_reducible assumption
    | with_reducible apply State.fatalEnd_keeps
    | with_reducible apply State.trialFatal_keeps
    | with_reducible apply State.bump_keeps
    | with_reducible apply State.fault_keeps
    | split

theorem rstCmdWrite_keeps (p : Page) (w : Word) (s : State) {s0 : State} (h : Keeps s0 s) :
    Keeps s0 (rstCmdWrite p w s) := by
  unfold rstCmdWrite
  repeat' first
    | with_reducible assumption
    | with_reducible apply applyWrite_keeps
    | with_reducible apply State.devReset_keeps
    | with_reducible apply State.bump_keeps
    | (extract_lets +onlyGivenNames xl; first
        | (refine (fun (hx : Keeps s0 xl) => ?_) ?_; rotate_left; unfold xl; clear xl; rotate_left; clear_value xl; revert xl; intro yl hy))
    | split

theorem execDeviceReset_keeps (q : Req) (s : State) {s0 : State} (h : Keeps s0 s) :
    ∀ z, execDeviceReset q s = .next z → Keeps s0 z := by
  unfold execDeviceReset
  intro z e
  refine Keeps.of_next ?_ e
  repeat' first
    | with_reducible assumption
    | with_reducible apply writeWord_keeps
    | with_reducible apply rstCmdWrite_keeps
    | intro _

theorem execPinReset_keeps (s : State) {s0 : State} (h : Keeps s0 s) :
    ∀ z, execPinReset s = .next z → Keeps s0 z := by
  unfold execPinReset
  intro z e
  refine Keeps.of_next ?_ e
  split
  · exact h
  · have h1 := State.lose_keeps _ (State.cause_keeps _ 3 (State.bump_keeps s .rst 1 h))
    dsimp only
    generalize State.lose _ = s1 at h1 ⊢
    exact State.setStatus_keeps _ _ _ _ (State.setStatus_keeps _ _ _ _ ((h1.setRegs (r := storeKeep pinKey s1.regs) fun hr =>
      storeKeep_rising _ hr).congr rfl rfl rfl rfl rfl rfl rfl rfl rfl))

theorem execSupplyReset_keeps (vin : Nat) (vbat : Nat) (s : State) {s0 : State} (h : Keeps s0 s) :
    ∀ z, execSupplyReset vin vbat s = .next z → Keeps s0 z := by
  unfold execSupplyReset
  intro z e
  refine Keeps.of_next ?_ e
  repeat' first
    | with_reducible assumption
    | with_reducible apply State.lose_keeps
    | with_reducible apply State.cause_keeps
    | with_reducible apply State.bump_keeps
    | with_reducible apply State.setPwr_keeps
    | with_reducible apply State.setStatus_keeps
    | with_reducible apply State.setMode_keeps
    | (extract_lets +onlyGivenNames xl; first
        | (refine (fun (hx : Keeps s0 xl) => ?_) ?_; rotate_left; unfold xl; clear xl; rotate_left; clear_value xl; revert xl; intro yl hy)
        | (clear_value xl; revert xl; intro yl)
        | (revert xl; intro yl))
    | split

theorem execPd0SupplyLoss_keeps (s : State) {s0 : State} (h : Keeps s0 s) :
    ∀ z, execPd0SupplyLoss s = .next z → Keeps s0 z := by
  unfold execPd0SupplyLoss
  intro z e
  refine Keeps.of_next ?_ e
  repeat' first
    | with_reducible assumption
    | with_reducible apply State.setPwr_keeps
    | (extract_lets +onlyGivenNames xl; first
        | (clear_value xl; revert xl; intro yl)
        | (revert xl; intro yl))
    | split

theorem execAoPor_keeps (vin : Nat) (vbat : Nat) (s : State) {s0 : State} (h : Keeps s0 s) :
    ∀ z, execAoPor vin vbat s = .next z → Keeps s0 z := by
  unfold execAoPor
  intro z e
  refine Keeps.of_next ?_ e
  split
  · exact h
  · dsimp only
    exact State.setStatus_keeps _ _ _ _ (State.setPwr_keeps _ _ (h.lost rfl rfl (fun _ => rfl) rfl rfl rfl))

theorem State.setClk_keeps (s : State) (c : Clocks) {s0 : State} (h : Keeps s0 s) :
    Keeps s0 (State.setClk s c) := by
  unfold State.setClk
  repeat' first
    | with_reducible assumption
    | with_reducible apply State.setPwr_keeps
    | (extract_lets +onlyGivenNames xl; first
        | (clear_value xl; revert xl; intro yl)
        | (revert xl; intro yl))

theorem State.lockLost_keeps (s : State) {s0 : State} (h : Keeps s0 s) :
    Keeps s0 (State.lockLost s) := by
  unfold State.lockLost
  repeat' first
    | with_reducible assumption
    | with_reducible apply State.fault_keeps
    | with_reducible apply State.event_keeps
    | with_reducible apply State.bump_keeps

theorem execXtal32Fail_keeps (s : State) {s0 : State} (h : Keeps s0 s) :
    ∀ z, execXtal32Fail s = .next z → Keeps s0 z := by
  unfold execXtal32Fail
  intro z e
  refine Keeps.of_next ?_ e
  repeat' first
    | with_reducible assumption
    | with_reducible apply State.bump_keeps
    | with_reducible apply State.event_keeps
    | with_reducible apply State.fault_keeps
    | with_reducible apply State.setClk_keeps
    | with_reducible apply State.setMode_keeps
    | (extract_lets +onlyGivenNames xl; first
        | (refine (fun (hx : Keeps s0 xl) => ?_) ?_; rotate_left; unfold xl; clear xl; rotate_left; clear_value xl; revert xl; intro yl hy)
        | (clear_value xl; revert xl; intro yl)
        | (revert xl; intro yl))
    | split

theorem execXtal32Restore_keeps (s : State) {s0 : State} (h : Keeps s0 s) :
    ∀ z, execXtal32Restore s = .next z → Keeps s0 z := by
  unfold execXtal32Restore
  intro z e
  refine Keeps.of_next ?_ e
  repeat' first
    | with_reducible assumption
    | with_reducible apply State.event_keeps
    | with_reducible apply State.setClk_keeps
    | (extract_lets +onlyGivenNames xl; first
        | (clear_value xl; revert xl; intro yl)
        | (revert xl; intro yl))
    | split

theorem execRefclkLoss_keeps (pll : Bool) (s : State) {s0 : State} (h : Keeps s0 s) :
    ∀ z, execRefclkLoss pll s = .next z → Keeps s0 z := by
  unfold execRefclkLoss
  intro z e
  refine Keeps.of_next ?_ e
  repeat' first
    | with_reducible assumption
    | with_reducible apply State.lockLost_keeps
    | with_reducible apply State.event_keeps
    | with_reducible apply State.setClk_keeps
    | with_reducible apply State.devReset_keeps
    | (extract_lets +onlyGivenNames xl; first
        | (refine (fun (hx : Keeps s0 xl) => ?_) ?_; rotate_left; unfold xl; clear xl; rotate_left; clear_value xl; revert xl; intro yl hy)
        | (clear_value xl; revert xl; intro yl)
        | (revert xl; intro yl))
    | split

theorem execCnvpllUnlock_keeps (s : State) {s0 : State} (h : Keeps s0 s) :
    ∀ z, execCnvpllUnlock s = .next z → Keeps s0 z := by
  unfold execCnvpllUnlock
  intro z e
  refine Keeps.of_next ?_ e
  repeat' first
    | with_reducible assumption
    | with_reducible apply State.lockLost_keeps
    | with_reducible apply State.setClk_keeps
    | with_reducible apply State.portsRemove_keeps
    | with_reducible apply State.endAllRx_keeps
    | with_reducible apply State.monSilent_keeps
    | intro _
    | (extract_lets +onlyGivenNames xl; first
        | (refine (fun (hx : Keeps s0 xl) => ?_) ?_; rotate_left; unfold xl; clear xl; rotate_left; clear_value xl; revert xl; intro yl hy)
        | (clear_value xl; revert xl; intro yl)
        | (revert xl; intro yl))
    | split
    | with_reducible apply Keeps.foldl
    | with_reducible apply Keeps.foldl_snd2
    | with_reducible apply Keeps.foldl_snd
    | with_reducible apply Keeps.foldl_fst

theorem execCnvpllRelock_keeps (s : State) {s0 : State} (h : Keeps s0 s) :
    ∀ z, execCnvpllRelock s = .next z → Keeps s0 z := by
  unfold execCnvpllRelock
  intro z e
  refine Keeps.of_next ?_ e
  repeat' first
    | with_reducible assumption
    | with_reducible apply State.setClk_keeps
    | (extract_lets +onlyGivenNames xl; first
        | (clear_value xl; revert xl; intro yl)
        | (revert xl; intro yl))
    | split

theorem execDrampllUnlock_keeps (s : State) {s0 : State} (h : Keeps s0 s) :
    ∀ z, execDrampllUnlock s = .next z → Keeps s0 z := by
  unfold execDrampllUnlock
  intro z e
  refine Keeps.of_next ?_ e
  repeat' first
    | with_reducible assumption
    | with_reducible apply State.lockLost_keeps
    | with_reducible apply State.setClk_keeps
    | with_reducible apply State.setDram_keeps
    | (extract_lets +onlyGivenNames xl; first
        | (refine (fun (hx : Keeps s0 xl) => ?_) ?_; rotate_left; unfold xl; clear xl; rotate_left; clear_value xl; revert xl; intro yl hy)
        | (clear_value xl; revert xl; intro yl)
        | (revert xl; intro yl))
    | split

theorem execDrampllRelock_keeps (s : State) {s0 : State} (h : Keeps s0 s) :
    ∀ z, execDrampllRelock s = .next z → Keeps s0 z := by
  unfold execDrampllRelock
  intro z e
  refine Keeps.of_next ?_ e
  repeat' first
    | with_reducible assumption
    | with_reducible apply State.setClk_keeps
    | (extract_lets +onlyGivenNames xl; first
        | (clear_value xl; revert xl; intro yl)
        | (revert xl; intro yl))
    | split

theorem State.setThm_keeps (s : State) (x : Thermal) {s0 : State} (h : Keeps s0 s) :
    Keeps s0 (State.setThm s x) := by
  unfold State.setThm
  repeat' first
    | with_reducible assumption
    | with_reducible apply State.setPwr_keeps
    | (extract_lets +onlyGivenNames xl; first
        | (clear_value xl; revert xl; intro yl)
        | (revert xl; intro yl))

theorem execThermalSample_keeps (l : List Int) (drv : Int) (s : State) {s0 : State} (h : Keeps s0 s) :
    ∀ z, execThermalSample l drv s = .next z → Keeps s0 z := by
  unfold execThermalSample
  intro z e
  refine Keeps.of_next ?_ e
  repeat' first
    | with_reducible assumption
    | with_reducible apply State.freeNat_keeps
    | with_reducible apply State.bump_keeps
    | with_reducible apply State.fault_keeps
    | with_reducible apply State.setThm_keeps
    | with_reducible apply State.setFld_keeps
    | with_reducible apply State.event_keeps
    | with_reducible apply State.setStatus_keeps
    | intro _
    | (extract_lets +onlyGivenNames xl; first
        | (refine (fun (hx : Keeps s0 xl) => ?_) ?_; rotate_left; unfold xl; clear xl; rotate_left; clear_value xl; revert xl; intro yl hy)
        | (refine (fun (hx : Keeps s0 xl.2) => ?_) ?_; rotate_left; unfold xl; clear xl; rotate_left; clear_value xl; revert xl; intro yl hy)
        | (clear_value xl; revert xl; intro yl)
        | (revert xl; intro yl))
    | split
    | with_reducible apply Keeps.foldl
    | (refine Keeps.of_snd (by with_reducible assumption) ?_)
    | with_reducible apply Keeps.foldl_snd2
    | with_reducible apply Keeps.foldl_snd
    | with_reducible apply Keeps.foldl_fst

theorem execThermalWarnClear_keeps (s : State) {s0 : State} (h : Keeps s0 s) :
    ∀ z, execThermalWarnClear s = .next z → Keeps s0 z := by
  unfold execThermalWarnClear
  intro z e
  refine Keeps.of_next ?_ e
  repeat' first
    | with_reducible assumption
    | with_reducible apply State.event_keeps
    | with_reducible apply State.setStatus_keeps
    | with_reducible apply State.setThm_keeps
    | (extract_lets +onlyGivenNames xl; first
        | (clear_value xl; revert xl; intro yl)
        | (revert xl; intro yl))
    | split

theorem execThermalShutdown_keeps (s : State) {s0 : State} (h : Keeps s0 s) :
    ∀ z, execThermalShutdown s = .next z → Keeps s0 z := by
  unfold execThermalShutdown
  intro z e
  refine Keeps.of_next ?_ e
  repeat' first
    | with_reducible assumption
    | with_reducible apply State.fatalEnd_keeps
    | with_reducible apply State.bump_keeps
    | with_reducible apply State.fault_keeps
    | with_reducible apply State.setThm_keeps
    | (extract_lets +onlyGivenNames xl; first
        | (refine (fun (hx : Keeps s0 xl) => ?_) ?_; rotate_left; unfold xl; clear xl; rotate_left; clear_value xl; revert xl; intro yl hy)
        | (clear_value xl; revert xl; intro yl)
        | (revert xl; intro yl))
    | split

theorem execThermalRelease_keeps (s : State) {s0 : State} (h : Keeps s0 s) :
    ∀ z, execThermalRelease s = .next z → Keeps s0 z := by
  unfold execThermalRelease
  intro z e
  refine Keeps.of_next ?_ e
  repeat' first
    | with_reducible assumption
    | with_reducible apply State.setThm_keeps
    | (extract_lets +onlyGivenNames xl; first
        | (clear_value xl; revert xl; intro yl)
        | (revert xl; intro yl))
    | split

end Sys2Proof.Machine
end

