-- ==== Sys2Proof/Laws/Keeps/Timing.lean ====
section
/-! SUPPORT. That every operation of Timing keeps the relation of Laws/Keeps. -/

set_option Elab.async false

namespace Sys2Proof.Machine

theorem State.setSched_keeps (s : State) (x : Sched) {s0 : State} (h : Keeps s0 s) :
    Keeps s0 (State.setSched s x) := by
  unfold State.setSched
  repeat' first
    | with_reducible assumption
    | (extract_lets +onlyGivenNames xl; first
        | (clear_value xl; revert xl; intro yl)
        | (revert xl; intro yl))
    | with_reducible apply Keeps.mk' rfl rfl rfl rfl rfl rfl rfl rfl rfl

theorem State.setPart_keeps (s : State) (n : Nat) {s0 : State} (h : Keeps s0 s) :
    Keeps s0 (State.setPart s n) := by
  unfold State.setPart
  repeat' first
    | with_reducible assumption
    | with_reducible apply State.setStatus_keeps
    | with_reducible apply State.setFld_keeps

theorem State.moveCt_keeps (s : State) (e : Int) {s0 : State} (h : Keeps s0 s) :
    Keeps s0 (State.moveCt s e) := by
  unfold State.moveCt
  repeat' first
    | with_reducible assumption
    | with_reducible apply Keeps.mk' rfl rfl rfl rfl rfl rfl rfl rfl rfl

theorem State.discipline_keeps (s : State) (e : Int) (full : Bool) {s0 : State} (h : Keeps s0 s) :
    Keeps s0 (State.discipline s e full) := by
  unfold State.discipline
  repeat' first
    | with_reducible assumption
    | with_reducible apply State.setFld_keeps
    | with_reducible apply State.setSched_keeps
    | with_reducible apply State.moveCt_keeps
    | (extract_lets +onlyGivenNames xl; first
        | (refine (fun (hx : Keeps s0 xl) => ?_) ?_; rotate_left; unfold xl; clear xl; rotate_left; clear_value xl; revert xl; intro yl hy)
        | (clear_value xl; revert xl; intro yl)
        | (revert xl; intro yl))
    | split
    | with_reducible apply Keeps.mk' rfl rfl rfl rfl rfl rfl rfl rfl rfl

theorem State.slew_keeps (s : State) {s0 : State} (h : Keeps s0 s) :
    Keeps s0 (State.slew s) := by
  unfold State.slew
  repeat' first
    | with_reducible assumption
    | with_reducible apply State.setSched_keeps
    | with_reducible apply State.bump_keeps
    | (extract_lets +onlyGivenNames xl; first
        | (refine (fun (hx : Keeps s0 xl) => ?_) ?_; rotate_left; unfold xl; clear xl; rotate_left; clear_value xl; revert xl; intro yl hy)
        | (clear_value xl; revert xl; intro yl)
        | (revert xl; intro yl))
    | split

theorem State.rootSlot_keeps (s : State) {s0 : State} (h : Keeps s0 s) :
    Keeps s0 (State.rootSlot s) := by
  unfold State.rootSlot
  repeat' first
    | with_reducible assumption
    | with_reducible apply State.setFld_keeps
    | split

theorem State.gainSync_keeps (s : State) {s0 : State} (h : Keeps s0 s) :
    Keeps s0 (State.gainSync s) := by
  unfold State.gainSync
  repeat' first
    | with_reducible assumption
    | with_reducible apply State.event_keeps
    | with_reducible apply State.setFlag_keeps
    | with_reducible apply State.setStatus_keeps
    | with_reducible apply State.takeL4_keeps
    | intro _
    | split
    | with_reducible apply Keeps.mk' rfl rfl rfl rfl rfl rfl rfl rfl rfl

theorem State.setRoot_keeps (s : State) (node : Nat) (prio : Nat) (epoch : Nat) (prov : Bool) {s0 : State} (h : Keeps s0 s) :
    Keeps s0 (State.setRoot s node prio epoch prov) := by
  unfold State.setRoot
  repeat' first
    | with_reducible assumption
    | with_reducible apply State.setFlag_keeps
    | with_reducible apply State.setFld_keeps
    | with_reducible apply State.event_keeps
    | (extract_lets +onlyGivenNames xl; first
        | (refine (fun (hx : Keeps s0 xl) => ?_) ?_; rotate_left; unfold xl; clear xl; rotate_left; clear_value xl; revert xl; intro yl hy)
        | (clear_value xl; revert xl; intro yl)
        | (revert xl; intro yl))
    | split

theorem State.beRoot_keeps (s : State) (epoch : Nat) (prov : Bool) {s0 : State} (h : Keeps s0 s) :
    Keeps s0 (State.beRoot s epoch prov) := by
  unfold State.beRoot
  repeat' first
    | with_reducible assumption
    | with_reducible apply State.setRoot_keeps
    | with_reducible apply State.setReg_keeps
    | with_reducible apply State.setFld_keeps
    | with_reducible apply State.setFlag_keeps
    | (extract_lets +onlyGivenNames xl; first
        | (refine (fun (hx : Keeps s0 xl) => ?_) ?_; rotate_left; unfold xl; clear xl; rotate_left; clear_value xl; revert xl; intro yl hy))

theorem State.startRoot_keeps (s : State) {s0 : State} (h : Keeps s0 s) :
    Keeps s0 (State.startRoot s) := by
  unfold State.startRoot
  repeat' first
    | with_reducible assumption
    | with_reducible apply State.setPart_keeps
    | with_reducible apply State.gainSync_keeps
    | with_reducible apply State.beRoot_keeps
    | with_reducible apply State.setFld_keeps
    | (extract_lets +onlyGivenNames xl; first
        | (refine (fun (hx : Keeps s0 xl) => ?_) ?_; rotate_left; unfold xl; clear xl; rotate_left; clear_value xl; revert xl; intro yl hy)
        | (clear_value xl; revert xl; intro yl)
        | (revert xl; intro yl))
    | split
    | with_reducible apply Keeps.mk' rfl rfl rfl rfl rfl rfl rfl rfl rfl

theorem State.dropTxJobs_keeps (s : State) (c : Nat) (slot : Nat) {s0 : State} (h : Keeps s0 s) :
    Keeps s0 (State.dropTxJobs s c slot) := by
  unfold State.dropTxJobs
  repeat' first
    | with_reducible assumption
    | with_reducible apply State.keepJobs_keeps
    | intro _
    | split
    | (refine Keeps.of_snd (by with_reducible assumption) ?_)
    | with_reducible apply Keeps.mk' rfl rfl rfl rfl rfl rfl rfl rfl rfl

theorem State.giveUp_keeps (s : State) (c : Nat) (x : Tx) {s0 : State} (h : Keeps s0 s) :
    Keeps s0 (State.giveUp s c x) := by
  unfold State.giveUp
  repeat' first
    | with_reducible assumption
    | with_reducible apply State.mapFrames_keeps
    | with_reducible apply State.dropTxJobs_keeps
    | intro _
    | split
    | (refine Keeps.of_snd (by with_reducible assumption) ?_)
    | with_reducible apply Keeps.mk' rfl rfl rfl rfl rfl rfl rfl rfl rfl

theorem State.replaceAll_keeps (s : State) (keep : Nat) {s0 : State} (h : Keeps s0 s) :
    Keeps s0 (State.replaceAll s keep) := by
  unfold State.replaceAll
  repeat' first
    | with_reducible assumption
    | with_reducible apply State.giveUp_keeps
    | with_reducible apply State.setChan_keeps
    | intro _
    | (extract_lets +onlyGivenNames xl; first
        | (refine (fun (hx : Keeps s0 xl) => ?_) ?_; rotate_left; unfold xl; clear xl; rotate_left; clear_value xl; revert xl; intro yl hy)
        | (clear_value xl; revert xl; intro yl)
        | (revert xl; intro yl))
    | with_reducible apply Keeps.foldl
    | with_reducible apply Keeps.foldl_snd2
    | with_reducible apply Keeps.foldl_snd
    | with_reducible apply Keeps.foldl_fst

theorem State.ctStep_keeps (s : State) {s0 : State} (h : Keeps s0 s) :
    Keeps s0 (State.ctStep s) := by
  unfold State.ctStep
  repeat' first
    | with_reducible assumption
    | with_reducible apply State.moveCt_keeps
    | with_reducible apply State.replaceAll_keeps
    | with_reducible apply State.setSched_keeps
    | with_reducible apply State.event_keeps
    | with_reducible apply State.bump_keeps
    | (extract_lets +onlyGivenNames xl; first
        | (refine (fun (hx : Keeps s0 xl) => ?_) ?_; rotate_left; unfold xl; clear xl; rotate_left; clear_value xl; revert xl; intro yl hy)
        | (clear_value xl; revert xl; intro yl)
        | (revert xl; intro yl))
    | split

theorem State.setParent_keeps (s : State) (c : Nat) (node : Nat) (hop : Nat) {s0 : State} (h : Keeps s0 s) :
    Keeps s0 (State.setParent s c node hop) := by
  unfold State.setParent
  repeat' first
    | with_reducible assumption
    | with_reducible apply State.setFld_keeps

theorem State.parentLoss_keeps (s : State) {s0 : State} (h : Keeps s0 s) :
    Keeps s0 (State.parentLoss s) := by
  unfold State.parentLoss
  repeat' first
    | with_reducible assumption
    | with_reducible apply State.bump_keeps
    | with_reducible apply State.setParent_keeps
    | with_reducible apply State.setSched_keeps
    | (extract_lets +onlyGivenNames xl; first
        | (refine (fun (hx : Keeps s0 xl) => ?_) ?_; rotate_left; unfold xl; clear xl; rotate_left; clear_value xl; revert xl; intro yl hy)
        | (clear_value xl; revert xl; intro yl)
        | (revert xl; intro yl))
    | split

theorem execSyncLost_keeps (s : State) {s0 : State} (h : Keeps s0 s) :
    ∀ z, execSyncLost s = .next z → Keeps s0 z := by
  unfold execSyncLost
  intro z e
  refine Keeps.of_next ?_ e
  repeat' first
    | with_reducible assumption
    | with_reducible apply State.event_keeps
    | with_reducible apply State.setPart_keeps
    | (extract_lets +onlyGivenNames xl; first
        | (refine (fun (hx : Keeps s0 xl) => ?_) ?_; rotate_left; unfold xl; clear xl; rotate_left; clear_value xl; revert xl; intro yl hy)
        | (clear_value xl; revert xl; intro yl)
        | (revert xl; intro yl))
    | split
    | with_reducible apply Keeps.mk' rfl rfl rfl rfl rfl rfl rfl rfl rfl

theorem execClaimWaitExpire_keeps (s : State) {s0 : State} (h : Keeps s0 s) :
    ∀ z, execClaimWaitExpire s = .next z → Keeps s0 z := by
  unfold execClaimWaitExpire
  intro z e
  refine Keeps.of_next ?_ e
  repeat' first
    | with_reducible assumption
    | with_reducible apply State.event_keeps
    | with_reducible apply State.setPart_keeps
    | with_reducible apply State.beRoot_keeps
    | split

theorem State.flushEpochs_keeps (s : State) {s0 : State} (h : Keeps s0 s) :
    Keeps s0 (State.flushEpochs s) := by
  unfold State.flushEpochs
  repeat' first
    | with_reducible assumption
    | with_reducible apply State.flushFloods_keeps
    | intro _
    | split
    | with_reducible apply Keeps.mk' rfl rfl rfl rfl rfl rfl rfl rfl rfl

theorem State.mergeStart_keeps (s : State) (old : Nat) {s0 : State} (h : Keeps s0 s) :
    Keeps s0 (State.mergeStart s old) := by
  unfold State.mergeStart
  have h1 := State.setFlag_keeps _ .sch F.SCH_CT_STAT_IS_ROOT false
    (State.event_keeps _ .rly 6 (State.setPart_keeps s ptMerging h))
  dsimp only
  generalize State.setFlag _ .sch F.SCH_CT_STAT_IS_ROOT false = s1 at h1 ⊢
  refine State.dispatch_keeps _ ?_
  have h3 := State.retryPaths_keeps _ (State.flushEpochs_keeps _ (h1.congr (t := { s1 with net := { s1.net with
    oldEpoch := old, inLimit := false, advSoon := true, claim := 0
    routes := s1.net.routes.map fun r => if r.fixed then r else { r with stale := true } } }) rfl rfl rfl rfl rfl rfl rfl rfl rfl))
  split
  · exact State.sendDeltas_keeps _ _ h3
  · exact h3

theorem State.mergeEnd_keeps (s : State) (heard : Bool) {s0 : State} (h : Keeps s0 s) :
    Keeps s0 (State.mergeEnd s heard) := by
  unfold State.mergeEnd
  repeat' first
    | with_reducible assumption
    | with_reducible apply State.setPart_keeps
    | (extract_lets +onlyGivenNames xl; first
        | (refine (fun (hx : Keeps s0 xl) => ?_) ?_; rotate_left; unfold xl; clear xl; rotate_left; clear_value xl; revert xl; intro yl hy)
        | (clear_value xl; revert xl; intro yl)
        | (revert xl; intro yl))
    | split
    | with_reducible apply Keeps.mk' rfl rfl rfl rfl rfl rfl rfl rfl rfl

theorem schEffect_keeps (off : Nat) (a1 : Page) (a2 : Word) (a3 : State) {s0 : State} (h : Keeps s0 a3) :
    Keeps s0 (schEffect off a1 a2 a3) := by
  unfold schEffect
  repeat' first
    | with_reducible assumption
    | with_reducible apply schStageWrite_keeps
    | with_reducible apply applyWrite_keeps
    | split

end Sys2Proof.Machine
end

