-- ==== Sys2Proof/Laws/Keeps/Sleep.lean ====
section
/-! SUPPORT. That every operation of Sleep keeps the relation of Laws/Keeps. -/

set_option Elab.async false

namespace Sys2Proof.Machine

theorem State.setSlpState_keeps (s : State) (n : Nat) {s0 : State} (h : Keeps s0 s) :
    Keeps s0 (State.setSlpState s n) := by
  unfold State.setSlpState
  repeat' first
    | with_reducible assumption
    | with_reducible apply State.setStatus_keeps
    | with_reducible apply State.setFld_keeps

theorem State.announce_keeps (s : State) {s0 : State} (h : Keeps s0 s) :
    Keeps s0 (State.announce s) := by
  unfold State.announce
  repeat' first
    | with_reducible assumption
    | with_reducible apply State.dispatch_keeps
    | with_reducible apply State.setSlp_keeps
    | with_reducible apply State.sendDev_keeps
    | (extract_lets +onlyGivenNames xl; first
        | (clear_value xl; revert xl; intro yl)
        | (revert xl; intro yl))
    | split

theorem State.planRdv_keeps (s : State) {s0 : State} (h : Keeps s0 s) :
    Keeps s0 (State.planRdv s) := by
  unfold State.planRdv
  repeat' first
    | with_reducible assumption
    | with_reducible apply State.setFld_keeps
    | with_reducible apply State.setFlag_keeps
    | with_reducible apply State.event_keeps
    | with_reducible apply State.setSlp_keeps
    | (extract_lets +onlyGivenNames xl; first
        | (refine (fun (hx : Keeps s0 xl) => ?_) ?_; rotate_left; unfold xl; clear xl; rotate_left; clear_value xl; revert xl; intro yl hy)
        | (clear_value xl; revert xl; intro yl)
        | (revert xl; intro yl))
    | split

theorem State.slpPlan_keeps (s : State) {s0 : State} (h : Keeps s0 s) :
    Keeps s0 (State.slpPlan s) := by
  unfold State.slpPlan
  repeat' first
    | with_reducible assumption
    | with_reducible apply State.planRdv_keeps
    | with_reducible apply State.announce_keeps
    | with_reducible apply State.setFlag_keeps
    | with_reducible apply State.event_keeps
    | with_reducible apply State.setSlpState_keeps
    | split

theorem execEnergyWindowEnd_keeps (s : State) {s0 : State} (h : Keeps s0 s) :
    ∀ z, execEnergyWindowEnd s = .next z → Keeps s0 z := by
  unfold execEnergyWindowEnd
  intro z e
  refine Keeps.of_next ?_ e
  repeat' first
    | with_reducible assumption
    | with_reducible apply State.setSlp_keeps
    | (extract_lets +onlyGivenNames xl; first
        | (clear_value xl; revert xl; intro yl)
        | (revert xl; intro yl))

theorem State.slpListen_keeps (s : State) {s0 : State} (h : Keeps s0 s) :
    Keeps s0 (State.slpListen s) := by
  unfold State.slpListen
  repeat' first
    | with_reducible assumption
    | with_reducible apply State.setSlp_keeps
    | with_reducible apply State.setSlpState_keeps
    | with_reducible apply State.event_keeps
    | (extract_lets +onlyGivenNames xl; first
        | (refine (fun (hx : Keeps s0 xl) => ?_) ?_; rotate_left; unfold xl; clear xl; rotate_left; clear_value xl; revert xl; intro yl hy)
        | (clear_value xl; revert xl; intro yl)
        | (revert xl; intro yl))
    | split

theorem State.slpMiss_keeps (s : State) {s0 : State} (h : Keeps s0 s) :
    Keeps s0 (State.slpMiss s) := by
  unfold State.slpMiss
  repeat' first
    | with_reducible assumption
    | with_reducible apply State.bump_keeps
    | with_reducible apply State.setFld_keeps
    | with_reducible apply State.slpListen_keeps
    | (extract_lets +onlyGivenNames xl; first
        | (refine (fun (hx : Keeps s0 xl) => ?_) ?_; rotate_left; unfold xl; clear xl; rotate_left; clear_value xl; revert xl; intro yl hy)
        | (clear_value xl; revert xl; intro yl)
        | (revert xl; intro yl))
    | split

theorem State.goSleep_keeps (s : State) {s0 : State} (h : Keeps s0 s) :
    Keeps s0 (State.goSleep s) := by
  unfold State.goSleep
  repeat' first
    | with_reducible assumption
    | with_reducible apply State.setSlp_keeps
    | with_reducible apply State.announce_keeps
    | with_reducible apply State.setFlag_keeps
    | with_reducible apply State.planRdv_keeps
    | with_reducible apply State.slpMiss_keeps
    | with_reducible apply State.slumberReq_keeps
    | with_reducible apply State.setSlpState_keeps
    | (extract_lets +onlyGivenNames xl; first
        | (refine (fun (hx : Keeps s0 xl) => ?_) ?_; rotate_left; unfold xl; clear xl; rotate_left; clear_value xl; revert xl; intro yl hy)
        | (clear_value xl; revert xl; intro yl)
        | (revert xl; intro yl))
    | split

theorem execSleepTimerWake_keeps (s : State) {s0 : State} (h : Keeps s0 s) :
    ∀ z, execSleepTimerWake s = .next z → Keeps s0 z := by
  unfold execSleepTimerWake
  intro z e
  refine Keeps.of_next ?_ e
  repeat' first
    | with_reducible assumption
    | with_reducible apply State.wake_keeps
    | split

theorem execRendezvousMiss_keeps (s : State) {s0 : State} (h : Keeps s0 s) :
    ∀ z, execRendezvousMiss s = .next z → Keeps s0 z := by
  unfold execRendezvousMiss
  intro z e
  refine Keeps.of_next ?_ e
  repeat' first
    | with_reducible assumption
    | with_reducible apply State.slpMiss_keeps
    | with_reducible apply State.goSleep_keeps
    | with_reducible apply State.setSlp_keeps
    | (extract_lets +onlyGivenNames xl; first
        | (refine (fun (hx : Keeps s0 xl) => ?_) ?_; rotate_left; unfold xl; clear xl; rotate_left; clear_value xl; revert xl; intro yl hy)
        | (clear_value xl; revert xl; intro yl)
        | (revert xl; intro yl))
    | split

theorem execStayEnd_keeps (s : State) {s0 : State} (h : Keeps s0 s) :
    ∀ z, execStayEnd s = .next z → Keeps s0 z := by
  unfold execStayEnd
  intro z e
  refine Keeps.of_next ?_ e
  repeat' first
    | with_reducible assumption
    | with_reducible apply State.goSleep_keeps
    | with_reducible apply State.setSlp_keeps
    | (extract_lets +onlyGivenNames xl; first
        | (clear_value xl; revert xl; intro yl)
        | (revert xl; intro yl))
    | split

theorem State.adriftWait_keeps (s : State) {s0 : State} (h : Keeps s0 s) :
    Keeps s0 (State.adriftWait s) := by
  unfold State.adriftWait
  repeat' first
    | with_reducible assumption
    | with_reducible apply State.slumberReq_keeps
    | with_reducible apply State.setSlp_keeps
    | with_reducible apply State.setSlpState_keeps
    | with_reducible apply State.setFld_keeps
    | (extract_lets +onlyGivenNames xl; first
        | (clear_value xl; revert xl; intro yl)
        | (revert xl; intro yl))

theorem execAdriftListenEnd_keeps (s : State) {s0 : State} (h : Keeps s0 s) :
    ∀ z, execAdriftListenEnd s = .next z → Keeps s0 z := by
  unfold execAdriftListenEnd
  intro z e
  refine Keeps.of_next ?_ e
  repeat' first
    | with_reducible assumption
    | with_reducible apply State.adriftWait_keeps
    | split

theorem execAdriftWaitEnd_keeps (s : State) {s0 : State} (h : Keeps s0 s) :
    ∀ z, execAdriftWaitEnd s = .next z → Keeps s0 z := by
  unfold execAdriftWaitEnd
  intro z e
  refine Keeps.of_next ?_ e
  repeat' first
    | with_reducible assumption
    | with_reducible apply State.adriftWait_keeps
    | with_reducible apply State.bump_keeps
    | with_reducible apply State.slpListen_keeps
    | split

theorem State.adriftReturn_keeps (s : State) {s0 : State} (h : Keeps s0 s) :
    Keeps s0 (State.adriftReturn s) := by
  unfold State.adriftReturn
  repeat' first
    | with_reducible assumption
    | with_reducible apply State.setSlpState_keeps
    | with_reducible apply State.setFld_keeps
    | with_reducible apply State.event_keeps
    | with_reducible apply State.announce_keeps
    | with_reducible apply State.setSlp_keeps
    | (extract_lets +onlyGivenNames xl; first
        | (refine (fun (hx : Keeps s0 xl) => ?_) ?_; rotate_left; unfold xl; clear xl; rotate_left; clear_value xl; revert xl; intro yl hy)
        | (clear_value xl; revert xl; intro yl)
        | (revert xl; intro yl))

theorem State.versionSeen_keeps (s : State) (v : Nat) {s0 : State} (h : Keeps s0 s) :
    Keeps s0 (State.versionSeen s v) := by
  unfold State.versionSeen
  repeat' first
    | with_reducible assumption
    | with_reducible apply State.bump_keeps
    | with_reducible apply State.event_keeps
    | with_reducible apply State.setFlag_keeps
    | split

theorem State.contact_keeps (s : State) (c : Nat) (peer : Nat) (rx : Nat) {s0 : State} (h : Keeps s0 s) :
    Keeps s0 (State.contact s c peer rx) := by
  unfold State.contact
  repeat' first
    | with_reducible assumption
    | with_reducible apply State.discipline_keeps
    | with_reducible apply State.setSched_keeps
    | with_reducible apply State.setFld_keeps
    | with_reducible apply State.adriftReturn_keeps
    | (extract_lets +onlyGivenNames xl; first
        | (refine (fun (hx : Keeps s0 xl) => ?_) ?_; rotate_left; unfold xl; clear xl; rotate_left; clear_value xl; revert xl; intro yl hy)
        | (clear_value xl; revert xl; intro yl)
        | (revert xl; intro yl))
    | split

theorem State.stayUsed_keeps (s : State) {s0 : State} (h : Keeps s0 s) :
    Keeps s0 (State.stayUsed s) := by
  unfold State.stayUsed
  repeat' first
    | with_reducible assumption
    | with_reducible apply State.setSlp_keeps
    | (extract_lets +onlyGivenNames xl; first
        | (clear_value xl; revert xl; intro yl)
        | (revert xl; intro yl))

theorem State.wakeIn_keeps (s : State) (d : List Nat) {s0 : State} (h : Keeps s0 s) :
    Keeps s0 (State.wakeIn s d) := by
  unfold State.wakeIn
  repeat' first
    | with_reducible assumption
    | with_reducible apply State.setSlp_keeps
    | with_reducible apply State.versionSeen_keeps
    | with_reducible apply State.bump_keeps
    | with_reducible apply State.setFld_keeps
    | with_reducible apply State.goSleep_keeps
    | intro _
    | with_reducible apply hg
    | with_reducible apply hg1
    | with_reducible apply hg2
    | (extract_lets +onlyGivenNames xl; first
        | (refine (fun (hx : Keeps s0 xl) => ?_) ?_; rotate_left; unfold xl; clear xl; rotate_left; clear_value xl; revert xl; intro yl hy)
        | (refine (fun (hx : ∀ t, Keeps s0 t → Keeps s0 (xl t)) => ?_) ?_; rotate_left; unfold xl; clear xl; rotate_left; clear_value xl; revert xl; intro yg hg1)
        | (refine (fun (hx : ∀ t a, Keeps s0 t → Keeps s0 (xl t a)) => ?_) ?_; rotate_left; unfold xl; clear xl; rotate_left; clear_value xl; revert xl; intro yg hg2)
        | (refine (fun (hx : ∀ t a b, Keeps s0 t → Keeps s0 (xl t a b)) => ?_) ?_; rotate_left; unfold xl; clear xl; rotate_left; clear_value xl; revert xl; intro yg hg)
        | (refine (fun (hx : ∀ t a b c, Keeps s0 t → Keeps s0 (xl t a b c)) => ?_) ?_; rotate_left; unfold xl; clear xl; rotate_left; clear_value xl; revert xl; intro yg hg)
        | (refine (fun (hx : ∀ a, Keeps s0 (xl a)) => ?_) ?_; rotate_left; unfold xl; clear xl; rotate_left; clear_value xl; revert xl; intro yg hg)
        | (refine (fun (hx : ∀ a b, Keeps s0 (xl a b)) => ?_) ?_; rotate_left; unfold xl; clear xl; rotate_left; clear_value xl; revert xl; intro yg hg)
        | (clear_value xl; revert xl; intro yl)
        | (revert xl; intro yl))
    | split

theorem execWakeRx_keeps (c : Fin 64) (src : Nat) (rx : Nat) (d : List Nat) (s : State) {s0 : State} (h : Keeps s0 s) :
    ∀ z, execWakeRx c src rx d s = .next z → Keeps s0 z := by
  unfold execWakeRx
  intro z e
  refine Keeps.of_next ?_ e
  repeat' first
    | with_reducible assumption
    | with_reducible apply State.contact_keeps
    | with_reducible apply State.wakeIn_keeps
    | (extract_lets +onlyGivenNames xl; first
        | (refine (fun (hx : Keeps s0 xl) => ?_) ?_; rotate_left; unfold xl; clear xl; rotate_left; clear_value xl; revert xl; intro yl hy))
    | split

theorem execAnswerBurst_keeps (s : State) {s0 : State} (h : Keeps s0 s) :
    ∀ z, execAnswerBurst s = .next z → Keeps s0 z := by
  unfold execAnswerBurst
  intro z e
  refine Keeps.of_next ?_ e
  repeat' first
    | with_reducible assumption
    | with_reducible apply State.emit_keeps
    | with_reducible apply State.setSlp_keeps
    | with_reducible apply State.goSleep_keeps
    | intro _
    | (extract_lets +onlyGivenNames xl; first
        | (refine (fun (hx : Keeps s0 xl) => ?_) ?_; rotate_left; unfold xl; clear xl; rotate_left; clear_value xl; revert xl; intro yl hy)
        | (clear_value xl; revert xl; intro yl)
        | (revert xl; intro yl))
    | split
    | (refine Keeps.of_snd (by with_reducible assumption) ?_)
    | with_reducible apply Keeps.mk' rfl rfl rfl rfl rfl rfl rfl rfl rfl

theorem State.sleeperMiss_keeps (s : State) (i : Nat) (node : Nat) {s0 : State} (h : Keeps s0 s) :
    Keeps s0 (State.sleeperMiss s i node) := by
  unfold State.sleeperMiss
  repeat' first
    | with_reducible assumption
    | with_reducible apply State.bump_keeps
    | with_reducible apply State.dirCount_keeps
    | with_reducible apply State.dirPut_keeps
    | with_reducible apply State.event_keeps
    | with_reducible apply State.setFld_keeps
    | with_reducible apply State.dirSetFlag_keeps
    | (extract_lets +onlyGivenNames xl; first
        | (refine (fun (hx : Keeps s0 xl) => ?_) ?_; rotate_left; unfold xl; clear xl; rotate_left; clear_value xl; revert xl; intro yl hy)
        | (clear_value xl; revert xl; intro yl)
        | (revert xl; intro yl))
    | split

theorem State.endWindow_keeps (s : State) (c : Nat) (up : Nat) (k : Nat) {s0 : State} (h : Keeps s0 s) :
    Keeps s0 (State.endWindow s c up k) := by
  unfold State.endWindow
  repeat' first
    | with_reducible assumption
    | with_reducible apply State.setSlp_keeps
    | (extract_lets +onlyGivenNames xl; first
        | (clear_value xl; revert xl; intro yl)
        | (revert xl; intro yl))
    | split

theorem execAnswerWindowEnd_keeps (c : Fin 64) (k : Fin 8) (alive : Nat) (aliveUp : Nat) (s : State) {s0 : State} (h : Keeps s0 s) :
    ∀ z, execAnswerWindowEnd c k alive aliveUp s = .next z → Keeps s0 z := by
  unfold execAnswerWindowEnd
  intro z e
  refine Keeps.of_next ?_ e
  repeat' first
    | with_reducible assumption
    | with_reducible apply State.bump_keeps
    | with_reducible apply State.setSlp_keeps
    | with_reducible apply State.reached_keeps
    | with_reducible apply State.addAwake_keeps
    | with_reducible apply State.sleeperMiss_keeps
    | with_reducible apply State.endWindow_keeps
    | intro _
    | (extract_lets +onlyGivenNames xl; first
        | (refine (fun (hx : Keeps s0 xl) => ?_) ?_; rotate_left; unfold xl; clear xl; rotate_left; clear_value xl; revert xl; intro yl hy)
        | (clear_value xl; revert xl; intro yl)
        | (revert xl; intro yl))
    | split
    | (refine Keeps.of_snd (by with_reducible assumption) ?_)
    | with_reducible apply Keeps.mk' rfl rfl rfl rfl rfl rfl rfl rfl rfl

theorem State.slpStop_keeps (s : State) {s0 : State} (h : Keeps s0 s) :
    Keeps s0 (State.slpStop s) := by
  unfold State.slpStop
  repeat' first
    | with_reducible assumption
    | with_reducible apply State.setSlp_keeps
    | with_reducible apply State.setFlag_keeps
    | with_reducible apply State.setFld_keeps
    | with_reducible apply State.setSlpState_keeps
    | (extract_lets +onlyGivenNames xl; first
        | (clear_value xl; revert xl; intro yl)
        | (revert xl; intro yl))

theorem slpParamWrite_keeps (off : Nat) (p : Page) (w : Word) (s : State) {s0 : State} (h : Keeps s0 s) :
    Keeps s0 (slpParamWrite off p w s) := by
  unfold slpParamWrite
  repeat' first
    | with_reducible assumption
    | with_reducible apply applyWrite_keeps
    | with_reducible apply State.announce_keeps
    | with_reducible apply State.slpPlan_keeps
    | with_reducible apply State.setSlpState_keeps
    | with_reducible apply State.slpStop_keeps
    | (extract_lets +onlyGivenNames xl; first
        | (refine (fun (hx : Keeps s0 xl) => ?_) ?_; rotate_left; unfold xl; clear xl; rotate_left; clear_value xl; revert xl; intro yl hy))
    | split

theorem slpAnnounceWrite_keeps (a0 : Page) (w : Word) (s : State) {s0 : State} (h : Keeps s0 s) :
    Keeps s0 (slpAnnounceWrite a0 w s) := by
  unfold slpAnnounceWrite
  repeat' first
    | with_reducible assumption
    | with_reducible apply State.announce_keeps
    | split

theorem execAnnounceNow_keeps (q : Req) (s : State) {s0 : State} (h : Keeps s0 s) :
    ∀ z, execAnnounceNow q s = .next z → Keeps s0 z := by
  unfold execAnnounceNow
  intro z e
  refine Keeps.of_next ?_ e
  repeat' first
    | with_reducible assumption
    | with_reducible apply writeWord_keeps
    | with_reducible apply slpAnnounceWrite_keeps
    | intro _

theorem slpEffect_keeps (off : Nat) (a1 : Page) (a2 : Word) (a3 : State) {s0 : State} (h : Keeps s0 a3) :
    Keeps s0 (slpEffect off a1 a2 a3) := by
  unfold slpEffect
  repeat' first
    | with_reducible assumption
    | with_reducible apply slpParamWrite_keeps
    | with_reducible apply slpAnnounceWrite_keeps
    | with_reducible apply applyWrite_keeps
    | split

end Sys2Proof.Machine
end

