-- ==== Sys2Proof/Laws/Keeps/Beacon.lean ====
section
/-! SUPPORT. That every operation of Beacon keeps the relation of Laws/Keeps. -/

set_option Elab.async false

namespace Sys2Proof.Machine

theorem State.fromParent_keeps (s : State) (b : Beacon) {s0 : State} (h : Keeps s0 s) :
    Keeps s0 (State.fromParent s b) := by
  unfold State.fromParent
  repeat' first
    | with_reducible assumption
    | with_reducible apply State.setFld_keeps
    | with_reducible apply State.setSched_keeps
    | (extract_lets +onlyGivenNames xl; first
        | (refine (fun (hx : Keeps s0 xl) => ?_) ?_; rotate_left; unfold xl; clear xl; rotate_left; clear_value xl; revert xl; intro yl hy)
        | (clear_value xl; revert xl; intro yl)
        | (revert xl; intro yl))
    | split

theorem State.parentBeacon_keeps (s : State) (c : Nat) (cfg : List Word) (x : BeaconIn) (b : Beacon) {s0 : State} (h : Keeps s0 s) :
    Keeps s0 (State.parentBeacon s c cfg x b) := by
  unfold State.parentBeacon
  repeat' first
    | with_reducible assumption
    | with_reducible apply State.setSched_keeps
    | with_reducible apply State.setParent_keeps
    | with_reducible apply State.fromParent_keeps
    | with_reducible apply State.discipline_keeps
    | with_reducible apply State.adriftReturn_keeps
    | (extract_lets +onlyGivenNames xl; first
        | (refine (fun (hx : Keeps s0 xl) => ?_) ?_; rotate_left; unfold xl; clear xl; rotate_left; clear_value xl; revert xl; intro yl hy)
        | (clear_value xl; revert xl; intro yl)
        | (revert xl; intro yl))
    | split

theorem State.beaconIn_keeps (s : State) (c : Nat) (cfg : List Word) (x : BeaconIn) (how : BeaconDo) {s0 : State} (h : Keeps s0 s) :
    Keeps s0 (State.beaconIn s c cfg x how) := by
  unfold State.beaconIn
  repeat' first
    | with_reducible assumption
    | with_reducible apply State.fromParent_keeps
    | with_reducible apply State.parentBeacon_keeps
    | with_reducible apply State.event_keeps
    | with_reducible apply State.setFld_keeps
    | with_reducible apply State.setFlag_keeps
    | with_reducible apply State.bump_keeps
    | with_reducible apply State.versionSeen_keeps
    | with_reducible apply State.setSched_keeps
    | with_reducible apply State.setPart_keeps
    | with_reducible apply State.gainSync_keeps
    | with_reducible apply State.setRoot_keeps
    | with_reducible apply State.setParent_keeps
    | with_reducible apply State.mergeStart_keeps
    | intro _
    | (extract_lets +onlyGivenNames xl; first
        | (refine (fun (hx : Keeps s0 xl) => ?_) ?_; rotate_left; unfold xl; clear xl; rotate_left; clear_value xl; revert xl; intro yl hy)
        | (clear_value xl; revert xl; intro yl)
        | (revert xl; intro yl))
    | split
    | (refine Keeps.of_snd (by with_reducible assumption) ?_)
    | with_reducible apply Keeps.mk' rfl rfl rfl rfl rfl rfl rfl rfl rfl

theorem execBeaconRx_keeps (c : Fin 64) (x : BeaconIn) (s : State) {s0 : State} (h : Keeps s0 s) :
    ∀ z, execBeaconRx c x s = .next z → Keeps s0 z := by
  unfold execBeaconRx
  intro z e
  refine Keeps.of_next ?_ e
  repeat' first
    | with_reducible assumption
    | with_reducible apply State.bump_keeps
    | with_reducible apply State.dispatch_keeps
    | with_reducible apply State.beaconIn_keeps
    | split

theorem State.wakeFrame_keeps (s : State) (r : MacRx) (m : Mac) (rx : Nat) {s0 : State} (h : Keeps s0 s) :
    Keeps s0 (State.wakeFrame s r m rx) := by
  unfold State.wakeFrame
  repeat' first
    | with_reducible assumption
    | with_reducible apply State.dispatch_keeps
    | with_reducible apply State.bump_keeps
    | with_reducible apply State.take_keeps
    | with_reducible apply State.askAuth_keeps
    | with_reducible apply State.setArq_keeps
    | intro _
    | (extract_lets +onlyGivenNames xl; first
        | (refine (fun (hx : Keeps s0 xl) => ?_) ?_; rotate_left; unfold xl; clear xl; rotate_left; clear_value xl; revert xl; intro yl hy)
        | (refine (fun (hx : Keeps s0 xl.2) => ?_) ?_; rotate_left; unfold xl; clear xl; rotate_left; clear_value xl; revert xl; intro yl hy)
        | (clear_value xl; revert xl; intro yl)
        | (revert xl; intro yl))
    | split
    | (refine Keeps.of_snd (by with_reducible assumption) ?_)
    | with_reducible apply Keeps.mk' rfl rfl rfl rfl rfl rfl rfl rfl rfl

theorem State.wakeOpened_keeps (s : State) (r : MacRx) (m : Mac) (rx : Nat) (p : List Nat) {s0 : State} (h : Keeps s0 s) :
    Keeps s0 (State.wakeOpened s r m rx p) := by
  unfold State.wakeOpened
  repeat' first
    | with_reducible assumption
    | with_reducible apply State.dirHeard_keeps
    | with_reducible apply State.sleeperHeard_keeps
    | with_reducible apply State.contact_keeps
    | with_reducible apply State.wakeIn_keeps
    | intro _
    | (extract_lets +onlyGivenNames xl; first
        | (refine (fun (hx : Keeps s0 xl) => ?_) ?_; rotate_left; unfold xl; clear xl; rotate_left; clear_value xl; revert xl; intro yl hy)
        | (clear_value xl; revert xl; intro yl)
        | (revert xl; intro yl))
    | split
    | (refine Keeps.of_snd (by with_reducible assumption) ?_)
    | with_reducible apply Keeps.mk' rfl rfl rfl rfl rfl rfl rfl rfl rfl

theorem State.authDone_keeps (s : State) (id : Nat) {s0 : State} (h : Keeps s0 s) :
    Keeps s0 (State.authDone s id) := by
  unfold State.authDone
  repeat' first
    | with_reducible assumption
    | with_reducible apply State.wakeOpened_keeps
    | with_reducible apply State.retryPaths_keeps
    | with_reducible apply State.bump_keeps
    | with_reducible apply State.opened_keeps
    | with_reducible apply State.ackTaken_keeps
    | with_reducible apply State.wake_keeps
    | intro _
    | (extract_lets +onlyGivenNames xl; first
        | (refine (fun (hx : Keeps s0 xl) => ?_) ?_; rotate_left; unfold xl; clear xl; rotate_left; clear_value xl; revert xl; intro yl hy)
        | (refine (fun (hx : Keeps s0 xl.2) => ?_) ?_; rotate_left; unfold xl; clear xl; rotate_left; clear_value xl; revert xl; intro yl hy)
        | (clear_value xl; revert xl; intro yl)
        | (revert xl; intro yl))
    | split
    | (refine Keeps.of_snd (by with_reducible assumption) ?_)
    | with_reducible apply Keeps.mk' rfl rfl rfl rfl rfl rfl rfl rfl rfl

theorem State.laneDone_keeps (s : State) (j : Nat) (wr : Bool) {s0 : State} (h : Keeps s0 s) :
    Keeps s0 (State.laneDone s j wr) := by
  unfold State.laneDone
  repeat' first
    | with_reducible assumption
    | with_reducible apply State.authDone_keeps
    | with_reducible apply State.maskBlocks_keeps
    | with_reducible apply State.loseKey_keeps
    | with_reducible apply State.dispatch_keeps
    | with_reducible apply State.directDone_keeps
    | with_reducible apply State.settleKeys_keeps
    | with_reducible apply State.bumpBy_keeps
    | with_reducible apply State.bump_keeps
    | with_reducible apply State.freeNat_keeps
    | with_reducible apply State.mapFrames_keeps
    | intro _
    | (extract_lets +onlyGivenNames xl; first
        | (refine (fun (hx : Keeps s0 xl) => ?_) ?_; rotate_left; unfold xl; clear xl; rotate_left; clear_value xl; revert xl; intro yl hy)
        | (refine (fun (hx : Keeps s0 xl.2) => ?_) ?_; rotate_left; unfold xl; clear xl; rotate_left; clear_value xl; revert xl; intro yl hy)
        | (clear_value xl; revert xl; intro yl)
        | (revert xl; intro yl))
    | split
    | (refine Keeps.of_snd (by with_reducible assumption) ?_)
    | with_reducible apply Keeps.mk' rfl rfl rfl rfl rfl rfl rfl rfl rfl

theorem execCipherLaneDone_keeps (j : Fin 24) (wr : Bool) (s : State) {s0 : State} (h : Keeps s0 s) :
    ∀ z, execCipherLaneDone j wr s = .next z → Keeps s0 z := by
  unfold execCipherLaneDone
  intro z e
  refine Keeps.of_next ?_ e
  repeat' first
    | with_reducible assumption
    | with_reducible apply State.laneDone_keeps
    | with_reducible apply State.originate_keeps
    | intro _
    | split
    | with_reducible apply Keeps.mk' rfl rfl rfl rfl rfl rfl rfl rfl rfl

theorem State.pauseFrame_keeps (s : State) (r : MacRx) (rx : Nat) {s0 : State} (h : Keeps s0 s) :
    Keeps s0 (State.pauseFrame s r rx) := by
  unfold State.pauseFrame
  repeat' first
    | with_reducible assumption
    | with_reducible apply State.bump_keeps
    | (extract_lets +onlyGivenNames xl; first
        | (clear_value xl; revert xl; intro yl)
        | (revert xl; intro yl))
    | split
    | with_reducible apply Keeps.mk' rfl rfl rfl rfl rfl rfl rfl rfl rfl

end Sys2Proof.Machine
end

