-- ==== Sys2Proof/Laws/Keeps/Place.lean ====
section
/-! SUPPORT. That every operation of Place keeps the relation of Laws/Keeps. -/

set_option Elab.async false

namespace Sys2Proof.Machine

theorem State.setAir_keeps (s : State) (t : Fin 8) (c : Nat) (x : Nat × Int) {s0 : State} (h : Keeps s0 s) :
    Keeps s0 (State.setAir s t c x) := by
  unfold State.setAir
  repeat' first
    | with_reducible assumption
    | with_reducible apply State.setTenant_keeps
    | (extract_lets +onlyGivenNames xl; first
        | (clear_value xl; revert xl; intro yl)
        | (revert xl; intro yl))

theorem State.airReplenish_keeps (s : State) {s0 : State} (h : Keeps s0 s) :
    Keeps s0 (State.airReplenish s) := by
  unfold State.airReplenish
  repeat' first
    | with_reducible assumption
    | with_reducible apply State.setAir_keeps
    | intro _
    | (extract_lets +onlyGivenNames xl; first
        | (clear_value xl; revert xl; intro yl)
        | (revert xl; intro yl))
    | split
    | with_reducible apply Keeps.foldl
    | with_reducible apply Keeps.foldl_snd2
    | with_reducible apply Keeps.foldl_snd
    | with_reducible apply Keeps.foldl_fst

theorem State.airCharge_keeps (s : State) (c : Nat) (r : Room) (f : Frame) {s0 : State} (h : Keeps s0 s) :
    Keeps s0 (State.airCharge s c r f) := by
  unfold State.airCharge
  repeat' first
    | with_reducible assumption
    | with_reducible apply State.setAir_keeps
    | (extract_lets +onlyGivenNames xl; first
        | (clear_value xl; revert xl; intro yl)
        | (revert xl; intro yl))
    | split

theorem State.dwlCheck_keeps (u : State) (c : Nat) (cfg : List Word) (x : Tx) {s0 : State} (h : Keeps s0 u) :
    Keeps s0 (State.dwlCheck u c cfg x).2 := by
  unfold State.dwlCheck
  repeat' first
    | with_reducible assumption
    | with_reducible apply State.bump_keeps
    | with_reducible apply State.dwlTry_keeps
    | intro _
    | (extract_lets +onlyGivenNames xl; first
        | (refine (fun (hx : Keeps s0 xl) => ?_) ?_; rotate_left; unfold xl; clear xl; rotate_left; clear_value xl; revert xl; intro yl hy)
        | (clear_value xl; revert xl; intro yl)
        | (revert xl; intro yl))
    | split
    | (refine Keeps.of_snd (by with_reducible assumption) ?_)
    | with_reducible apply Keeps.mk' rfl rfl rfl rfl rfl rfl rfl rfl rfl

theorem State.take_keeps (s : State) (c : Nat) (r : Room) (got : List Frame) (a4 : List Frame) {s0 : State} (h : Keeps s0 s) :
    Keeps s0 (State.take s c r got a4).2 := by
  induction a4 generalizing s got with
  | nil => exact h
  | cons f fs ih =>
    unfold State.take
    split
    · exact ih _ _ h
    · split
      · exact ih _ _ (State.airCharge_keeps _ _ _ _ h)
      · exact h

theorem State.stamp_keeps (s : State) (f : Frame) {s0 : State} (h : Keeps s0 s) :
    Keeps s0 (State.stamp s f).2 := by
  unfold State.stamp
  repeat' first
    | with_reducible assumption
    | with_reducible apply State.setArq_keeps
    | (extract_lets +onlyGivenNames xl; first
        | (clear_value xl; revert xl; intro yl)
        | (revert xl; intro yl))
    | split

theorem State.stampAll_keeps (s : State) (l : List Frame) {s0 : State} (h : Keeps s0 s) :
    Keeps s0 (State.stampAll s l).2 := by
  unfold State.stampAll
  repeat' first
    | with_reducible assumption
    | with_reducible apply State.stamp_keeps
    | intro _
    | (extract_lets +onlyGivenNames xl; first
        | (refine (fun (hx : Keeps s0 xl.2) => ?_) ?_; rotate_left; unfold xl; clear xl; rotate_left; clear_value xl; revert xl; intro yl hy))
    | with_reducible apply Keeps.foldl
    | (refine Keeps.of_snd (by with_reducible assumption) ?_)
    | with_reducible apply Keeps.foldl_snd2
    | with_reducible apply Keeps.foldl_snd
    | with_reducible apply Keeps.foldl_fst

theorem State.setPlaced_keeps (s : State) (slot : Nat) (l : List Frame) {s0 : State} (h : Keeps s0 s) :
    Keeps s0 (State.setPlaced s slot l) := by
  unfold State.setPlaced
  repeat' first
    | with_reducible assumption
    | with_reducible apply State.putFrame_keeps
    | intro _
    | with_reducible apply Keeps.foldl
    | with_reducible apply Keeps.foldl_snd2
    | with_reducible apply Keeps.foldl_snd
    | with_reducible apply Keeps.foldl_fst

theorem State.placeIn_keeps (s : State) (c : Nat) (cfg : List Word) (slot : Nat) (late : Bool) {s0 : State} (h : Keeps s0 s) :
    Keeps s0 (State.placeIn s c cfg slot late).2 := by
  unfold State.placeIn
  repeat' first
    | with_reducible assumption
    | with_reducible apply State.dwlCheck_keeps
    | with_reducible apply State.take_keeps
    | with_reducible apply State.stampAll_keeps
    | with_reducible apply State.setPlaced_keeps
    | with_reducible apply State.deferTx_keeps
    | with_reducible apply State.addTxJobs_keeps
    | intro _
    | (extract_lets +onlyGivenNames xl; first
        | (refine (fun (hx : Keeps s0 xl) => ?_) ?_; rotate_left; unfold xl; clear xl; rotate_left; clear_value xl; revert xl; intro yl hy)
        | (refine (fun (hx : Keeps s0 xl.2) => ?_) ?_; rotate_left; unfold xl; clear xl; rotate_left; clear_value xl; revert xl; intro yl hy)
        | (clear_value xl; revert xl; intro yl)
        | (revert xl; intro yl))
    | split
    | (refine Keeps.of_snd (by with_reducible assumption) ?_)
    | with_reducible apply Keeps.mk' rfl rfl rfl rfl rfl rfl rfl rfl rfl

theorem State.placeNext_keeps (s : State) {s0 : State} (h : Keeps s0 s) :
    Keeps s0 (State.placeNext s) := by
  unfold State.placeNext
  repeat' first
    | with_reducible assumption
    | with_reducible apply State.placeIn_keeps
    | with_reducible apply State.setChan_keeps
    | intro _
    | (extract_lets +onlyGivenNames xl; first
        | (refine (fun (hx : Keeps s0 xl.2) => ?_) ?_; rotate_left; unfold xl; clear xl; rotate_left; clear_value xl; revert xl; intro yl hy)
        | (clear_value xl; revert xl; intro yl)
        | (revert xl; intro yl))
    | split
    | with_reducible apply Keeps.foldl
    | (refine Keeps.of_snd (by with_reducible assumption) ?_)
    | with_reducible apply Keeps.foldl_snd2
    | with_reducible apply Keeps.foldl_snd
    | with_reducible apply Keeps.foldl_fst

theorem State.gaspSent_keeps (s : State) {s0 : State} (h : Keeps s0 s) :
    Keeps s0 (State.gaspSent s) := by
  unfold State.gaspSent
  repeat' first
    | with_reducible assumption
    | with_reducible apply State.bump_keeps
    | with_reducible apply State.event_keeps
    | with_reducible apply State.setFlag_keeps
    | (extract_lets +onlyGivenNames xl; first
        | (refine (fun (hx : Keeps s0 xl) => ?_) ?_; rotate_left; unfold xl; clear xl; rotate_left; clear_value xl; revert xl; intro yl hy)
        | (clear_value xl; revert xl; intro yl)
        | (revert xl; intro yl))
    | split
    | with_reducible apply Keeps.mk' rfl rfl rfl rfl rfl rfl rfl rfl rfl

theorem State.firstSent_keeps (s : State) (m : Nat) (atCt : Nat) {s0 : State} (h : Keeps s0 s) :
    Keeps s0 (State.firstSent s m atCt) := by
  unfold State.firstSent
  repeat' first
    | with_reducible assumption
    | with_reducible apply State.histTimed_keeps
    | with_reducible apply State.setTenant_keeps
    | intro _
    | (extract_lets +onlyGivenNames xl; first
        | (refine (fun (hx : Keeps s0 xl) => ?_) ?_; rotate_left; unfold xl; clear xl; rotate_left; clear_value xl; revert xl; intro yl hy)
        | (clear_value xl; revert xl; intro yl)
        | (revert xl; intro yl))
    | split
    | (refine Keeps.of_snd (by with_reducible assumption) ?_)
    | with_reducible apply Keeps.mk' rfl rfl rfl rfl rfl rfl rfl rfl rfl

theorem State.frameSent_keeps (s : State) (atCt : Nat) (f : Frame) {s0 : State} (h : Keeps s0 s) :
    Keeps s0 (State.frameSent s atCt f) := by
  unfold State.frameSent
  repeat' first
    | with_reducible assumption
    | with_reducible apply State.putFrame_keeps
    | with_reducible apply State.firstSent_keeps
    | with_reducible apply State.bump_keeps
    | with_reducible apply State.gaspSent_keeps
    | with_reducible apply State.dirCount_keeps
    | with_reducible apply State.setLink_keeps
    | intro _
    | with_reducible apply hg
    | with_reducible apply hg1
    | with_reducible apply hg2
    | (extract_lets +onlyGivenNames xl; first
        | (refine (fun (hx : Keeps s0 xl) => ?_) ?_; rotate_left; unfold xl; clear xl; rotate_left; clear_value xl; revert xl; intro yl hy)
        | (refine (fun (hx : ∀ t, Keeps s0 t → Keeps s0 (xl t)) => ?_) ?_; rotate_left; unfold xl; clear xl; rotate_left; clear_value xl; revert xl; intro yg hg1)
        | (refine (fun (hx : ∀ t a, Keeps s0 t → Keeps s0 (xl t a)) => ?_) ?_; rotate_left; unfold xl; clear xl; rotate_left; clear_value xl; revert xl; intro yg hg2)
        | (refine (fun (hx : ∀ t a b, Keeps s0 t → Keeps s0 (xl t a b)) => ?_) ?_; rotate_left; unfold xl; clear xl; rotate_left; clear_value xl; revert xl; intro yg hg)
        | (refine (fun (hx : ∀ t a b c, Keeps s0 t → Keeps s0 (xl t a b c)) => ?_) ?_; rotate_left; unfold xl; clear xl; rotate_left; clear_value xl; revert xl; intro yg hg)
        | (refine (fun (hx : ∀ a, Keeps s0 (xl a)) => ?_) ?_; rotate_left; unfold xl; clear xl; rotate_left; clear_value xl; revert xl; intro yg hg)
        | (refine (fun (hx : ∀ a b, Keeps s0 (xl a b)) => ?_) ?_; rotate_left; unfold xl; clear xl; rotate_left; clear_value xl; revert xl; intro yg hg)
        | (clear_value xl; revert xl; intro yl)
        | (revert xl; intro yl))
    | split

theorem State.sendTx_keeps (s : State) (c : Nat) (cfg : List Word) (x : Tx) {s0 : State} (h : Keeps s0 s) :
    Keeps s0 (State.sendTx s c cfg x) := by
  unfold State.sendTx
  repeat' first
    | with_reducible assumption
    | with_reducible apply State.setChan_keeps
    | with_reducible apply State.frameSent_keeps
    | with_reducible apply State.launch_keeps
    | with_reducible apply State.stayUsed_keeps
    | with_reducible apply State.giveUp_keeps
    | intro _
    | (extract_lets +onlyGivenNames xl; first
        | (refine (fun (hx : Keeps s0 xl) => ?_) ?_; rotate_left; unfold xl; clear xl; rotate_left; clear_value xl; revert xl; intro yl hy)
        | (clear_value xl; revert xl; intro yl)
        | (revert xl; intro yl))
    | split
    | with_reducible apply Keeps.foldl
    | with_reducible apply Keeps.foldl_snd2
    | with_reducible apply Keeps.foldl_snd
    | with_reducible apply Keeps.foldl_fst
    | (refine Keeps.of_snd (by with_reducible assumption) ?_)
    | with_reducible apply Keeps.mk' rfl rfl rfl rfl rfl rfl rfl rfl rfl

theorem execBackoffMinislot_keeps (c : Fin 64) (k : Fin 8) (s : State) {s0 : State} (h : Keeps s0 s) :
    ∀ z, execBackoffMinislot c k s = .next z → Keeps s0 z := by
  unfold execBackoffMinislot
  intro z e
  refine Keeps.of_next ?_ e
  repeat' first
    | with_reducible assumption
    | with_reducible apply State.setChan_keeps
    | with_reducible apply State.sendTx_keeps
    | with_reducible apply State.deferContend_keeps
    | intro _
    | (extract_lets +onlyGivenNames xl; first
        | (refine (fun (hx : Keeps s0 xl) => ?_) ?_; rotate_left; unfold xl; clear xl; rotate_left; clear_value xl; revert xl; intro yl hy)
        | (clear_value xl; revert xl; intro yl)
        | (revert xl; intro yl))
    | split
    | (refine Keeps.of_snd (by with_reducible assumption) ?_)
    | with_reducible apply Keeps.mk' rfl rfl rfl rfl rfl rfl rfl rfl rfl

theorem State.fillRelay_keeps (s : State) (c : Nat) (cfg : List Word) (x : Tx) (f : Frame) {s0 : State} (h : Keeps s0 s) :
    ∀ z, State.fillRelay s c cfg x f = some z → Keeps s0 z := by
  unfold State.fillRelay
  intro z e
  dsimp only at e
  split at e
  · cases e
    exact State.frameSent_keeps _ _ _ (State.emit_keeps _ _ (State.refill_keeps _ _ _ _ _ _ (State.setChan_keeps _ _ _
      (State.putFrame_keeps _ _ (State.stamp_keeps _ _ h)))))
  · cases e

theorem State.fillAll_keeps (s : State) (c : Nat) (cfg : List Word) (held : List Nat) (l : List Frame) {s0 : State} (h : Keeps s0 s) :
    Keeps s0 (State.fillAll s c cfg held l) := by
  induction l generalizing s held with
  | nil => exact h
  | cons f fs ih =>
    unfold State.fillAll
    split
    · exact h
    · split
      · exact ih _ _ h
      · split
        · exact ih _ _ (State.fillRelay_keeps _ _ _ _ _ h _ ‹_›)
        · exact ih _ _ h

theorem State.relayChan_keeps (s : State) (c : Nat) (start : Bool) {s0 : State} (h : Keeps s0 s) :
    Keeps s0 (State.relayChan s c start) := by
  unfold State.relayChan
  split
  · exact h
  · rename_i cfg _
    extract_lets e ch
    split
    · exact h
    · split
      · split
        · exact h
        · exact State.fillAll_keeps _ _ _ _ _ h
      · split
        · exact h
        · extract_lets held more
          split
          · split
            · exact h
            · exact State.setChan_keeps _ _ _ (State.addTxJobs_keeps _ _ _ _ (State.dropTxJobs_keeps _ _ _
                (State.setPlaced_keeps _ _ _ (State.stampAll_keeps _ _ (State.take_keeps _ _ _ _ _ h)))))
          · exact h
      · split
        · exact h
        · have hr := State.placeIn_keeps s c cfg s.slot true h
          split
          · exact hr
          · split
            · exact State.setChan_keeps _ _ _ hr
            · exact State.sendTx_keeps _ _ _ _ (State.setChan_keeps _ _ _ hr)

theorem State.reelOff_keeps (s : State) (c : Nat) (x : Flood) {s0 : State} (h : Keeps s0 s) :
    Keeps s0 (State.reelOff s c x) := by
  unfold State.reelOff
  repeat' first
    | with_reducible assumption
    | with_reducible apply State.setFlood_keeps
    | with_reducible apply State.floodDone_keeps
    | intro _
    | (extract_lets +onlyGivenNames xl; first
        | (refine (fun (hx : Keeps s0 xl) => ?_) ?_; rotate_left; unfold xl; clear xl; rotate_left; clear_value xl; revert xl; intro yl hy)
        | (clear_value xl; revert xl; intro yl)
        | (revert xl; intro yl))
    | split
    | (refine Keeps.of_snd (by with_reducible assumption) ?_)
    | with_reducible apply Keeps.mk' rfl rfl rfl rfl rfl rfl rfl rfl rfl

theorem State.reelSent_keeps (s : State) (c : Nat) (x : Flood) {s0 : State} (h : Keeps s0 s) :
    Keeps s0 (State.reelSent s c x) := by
  unfold State.reelSent
  repeat' first
    | with_reducible assumption
    | with_reducible apply State.bump_keeps
    | with_reducible apply State.firstSent_keeps
    | with_reducible apply State.reelOff_keeps
    | intro _
    | (extract_lets +onlyGivenNames xl; first
        | (refine (fun (hx : Keeps s0 xl) => ?_) ?_; rotate_left; unfold xl; clear xl; rotate_left; clear_value xl; revert xl; intro yl hy)
        | (clear_value xl; revert xl; intro yl)
        | (revert xl; intro yl))
    | split
    | (refine Keeps.of_snd (by with_reducible assumption) ?_)
    | with_reducible apply Keeps.mk' rfl rfl rfl rfl rfl rfl rfl rfl rfl

theorem State.reelSlot_keeps (s : State) (c : Nat) (now : Bool) {s0 : State} (h : Keeps s0 s) :
    Keeps s0 (State.reelSlot s c now) := by
  unfold State.reelSlot
  repeat' first
    | with_reducible assumption
    | with_reducible apply State.bump_keeps
    | with_reducible apply State.dwlCheck_keeps
    | with_reducible apply State.sendTx_keeps
    | with_reducible apply State.reelOff_keeps
    | with_reducible apply State.reelSent_keeps
    | with_reducible apply State.addTxJobs_keeps
    | with_reducible apply State.dropTxJobs_keeps
    | intro _
    | split
    | (refine Keeps.of_snd (by with_reducible assumption) ?_)
    | with_reducible apply Keeps.mk' rfl rfl rfl rfl rfl rfl rfl rfl rfl

theorem State.relayNow_keeps (s : State) (rxSlot : Nat) {s0 : State} (h : Keeps s0 s) :
    Keeps s0 (State.relayNow s rxSlot) := by
  unfold State.relayNow
  repeat' first
    | with_reducible assumption
    | with_reducible apply State.relayChan_keeps
    | with_reducible apply State.reelSlot_keeps
    | intro _
    | (extract_lets +onlyGivenNames xl; first
        | (refine (fun (hx : Keeps s0 xl) => ?_) ?_; rotate_left; unfold xl; clear xl; rotate_left; clear_value xl; revert xl; intro yl hy)
        | (clear_value xl; revert xl; intro yl)
        | (revert xl; intro yl))
    | split
    | with_reducible apply Keeps.foldl
    | with_reducible apply Keeps.foldl_snd2
    | with_reducible apply Keeps.foldl_snd
    | with_reducible apply Keeps.foldl_fst
    | (refine Keeps.of_snd (by with_reducible assumption) ?_)
    | with_reducible apply Keeps.mk' rfl rfl rfl rfl rfl rfl rfl rfl rfl

theorem State.linkUsed_keeps (s : State) (l : Link5) {s0 : State} (h : Keeps s0 s) :
    Keeps s0 (State.linkUsed s l) := by
  unfold State.linkUsed
  repeat' first
    | with_reducible assumption
    | with_reducible apply State.setChan_keeps
    | with_reducible apply State.setLink_keeps
    | intro _
    | (extract_lets +onlyGivenNames xl; first
        | (refine (fun (hx : Keeps s0 xl) => ?_) ?_; rotate_left; unfold xl; clear xl; rotate_left; clear_value xl; revert xl; intro yl hy)
        | (clear_value xl; revert xl; intro yl)
        | (revert xl; intro yl))
    | split
    | with_reducible apply Keeps.foldl
    | with_reducible apply Keeps.foldl_snd2
    | with_reducible apply Keeps.foldl_snd
    | with_reducible apply Keeps.foldl_fst
    | (refine Keeps.of_snd (by with_reducible assumption) ?_)
    | with_reducible apply Keeps.mk' rfl rfl rfl rfl rfl rfl rfl rfl rfl

theorem State.macFrame_keeps (s : State) (r : MacRx) (rx : Nat) {s0 : State} (h : Keeps s0 s) :
    Keeps s0 (State.macFrame s r rx) := by
  unfold State.macFrame
  repeat' first
    | with_reducible assumption
    | with_reducible apply State.wakeFrame_keeps
    | with_reducible apply State.bump_keeps
    | with_reducible apply State.relayNow_keeps
    | with_reducible apply State.linkUsed_keeps
    | with_reducible apply State.macDrop_keeps
    | with_reducible apply State.frameIn_keeps
    | with_reducible apply State.contact_keeps
    | with_reducible apply State.stayUsed_keeps
    | intro _
    | (extract_lets +onlyGivenNames xl; first
        | (refine (fun (hx : Keeps s0 xl) => ?_) ?_; rotate_left; unfold xl; clear xl; rotate_left; clear_value xl; revert xl; intro yl hy)
        | (clear_value xl; revert xl; intro yl)
        | (revert xl; intro yl))
    | split
    | (refine Keeps.of_snd (by with_reducible assumption) ?_)
    | with_reducible apply Keeps.mk' rfl rfl rfl rfl rfl rfl rfl rfl rfl

theorem execMacFrameRx_keeps (r : MacRx) (rx : Nat) (s : State) {s0 : State} (h : Keeps s0 s) :
    ∀ z, execMacFrameRx r rx s = .next z → Keeps s0 z := by
  unfold execMacFrameRx
  intro z e
  refine Keeps.of_next ?_ e
  repeat' first
    | with_reducible assumption
    | with_reducible apply State.pauseFrame_keeps
    | with_reducible apply State.macFrame_keeps
    | split

end Sys2Proof.Machine
end

