-- ==== Sys2Proof/Laws/Keeps/Twin.lean ====
section
/-! SUPPORT. That every operation of Twin keeps the relation of Laws/Keeps. -/

set_option Elab.async false

namespace Sys2Proof.Machine

theorem State.setTwn_keeps (s : State) (x : Twin) {s0 : State} (h : Keeps s0 s) :
    Keeps s0 (State.setTwn s x) := by
  unfold State.setTwn
  repeat' first
    | with_reducible assumption
    | with_reducible apply Keeps.mk' rfl rfl rfl rfl rfl rfl rfl rfl rfl

theorem State.role_keeps (s : State) (st : Nat) (cause : Option Nat) {s0 : State} (h : Keeps s0 s) :
    Keeps s0 (State.role s st cause) := by
  unfold State.role
  repeat' first
    | with_reducible assumption
    | with_reducible apply State.setFld_keeps
    | with_reducible apply State.event_keeps
    | (extract_lets +onlyGivenNames xl; first
        | (refine (fun (hx : Keeps s0 xl) => ?_) ?_; rotate_left; unfold xl; clear xl; rotate_left; clear_value xl; revert xl; intro yl hy))
    | split

theorem State.noSwap_keeps (s : State) {s0 : State} (h : Keeps s0 s) :
    Keeps s0 (State.noSwap s) := by
  unfold State.noSwap
  repeat' first
    | with_reducible assumption
    | with_reducible apply State.setFlag_keeps
    | with_reducible apply State.setFld_keeps
    | with_reducible apply State.setTwn_keeps
    | (extract_lets +onlyGivenNames xl; first
        | (clear_value xl; revert xl; intro yl)
        | (revert xl; intro yl))

theorem State.unprepare_keeps (s : State) {s0 : State} (h : Keeps s0 s) :
    Keeps s0 (State.unprepare s) := by
  unfold State.unprepare
  repeat' first
    | with_reducible assumption
    | with_reducible apply State.replaceAll_keeps

theorem State.resume_keeps (s : State) (a1 : Await) {s0 : State} (h : Keeps s0 s) :
    Keeps s0 (State.resume s a1) := by
  unfold State.resume
  repeat' first
    | with_reducible assumption
    | with_reducible apply State.issueFetch_keeps
    | with_reducible apply State.quotas_keeps
    | with_reducible apply State.originate_keeps
    | with_reducible apply State.dispatch_keeps
    | with_reducible apply State.acceptDesc_keeps
    | with_reducible apply State.addAck_keeps
    | with_reducible apply State.setFlood_keeps
    | with_reducible apply State.setTenant_keeps
    | (extract_lets +onlyGivenNames xl; first
        | (clear_value xl; revert xl; intro yl)
        | (revert xl; intro yl))
    | split

theorem State.resumeList_keeps (s : State) (l : List (Nat × Nat × Await)) {s0 : State} (h : Keeps s0 s) :
    Keeps s0 (State.resumeList s l) := by
  unfold State.resumeList
  repeat' first
    | with_reducible assumption
    | with_reducible apply State.resume_keeps
    | intro _
    | with_reducible apply Keeps.foldl
    | with_reducible apply Keeps.foldl_snd2
    | with_reducible apply Keeps.foldl_snd
    | with_reducible apply Keeps.foldl_fst

theorem State.resumeAll_keeps (s : State) {s0 : State} (h : Keeps s0 s) :
    Keeps s0 (State.resumeAll s) := by
  unfold State.resumeAll
  repeat' first
    | with_reducible assumption
    | with_reducible apply State.resumeList_keeps
    | with_reducible apply State.setTwn_keeps
    | (extract_lets +onlyGivenNames xl; first
        | (clear_value xl; revert xl; intro yl)
        | (revert xl; intro yl))

theorem State.goAlone_keeps (s : State) (cause : Option Nat) {s0 : State} (h : Keeps s0 s) :
    Keeps s0 (State.goAlone s cause) := by
  unfold State.goAlone
  repeat' first
    | with_reducible assumption
    | with_reducible apply State.resumeAll_keeps
    | with_reducible apply State.role_keeps
    | with_reducible apply State.noSwap_keeps
    | with_reducible apply State.setTwn_keeps
    | (extract_lets +onlyGivenNames xl; first
        | (clear_value xl; revert xl; intro yl)
        | (revert xl; intro yl))

theorem State.join_keeps (s : State) (cause : Option Nat) {s0 : State} (h : Keeps s0 s) :
    Keeps s0 (State.join s cause) := by
  unfold State.join
  repeat' first
    | with_reducible assumption
    | with_reducible apply State.unprepare_keeps
    | with_reducible apply State.noSwap_keeps
    | with_reducible apply State.setTwn_keeps
    | with_reducible apply State.bump_keeps
    | with_reducible apply State.role_keeps
    | with_reducible apply State.setFld_keeps
    | (extract_lets +onlyGivenNames xl; first
        | (refine (fun (hx : Keeps s0 xl) => ?_) ?_; rotate_left; unfold xl; clear xl; rotate_left; clear_value xl; revert xl; intro yl hy)
        | (clear_value xl; revert xl; intro yl)
        | (revert xl; intro yl))

theorem State.tenantsAnew_keeps (s : State) {s0 : State} (h : Keeps s0 s) :
    Keeps s0 (State.tenantsAnew s) := by
  unfold State.tenantsAnew
  repeat' first
    | with_reducible assumption
    | with_reducible apply State.setFlag_keeps
    | with_reducible apply State.startTenantReset_keeps
    | intro _
    | with_reducible apply Keeps.foldl
    | with_reducible apply Keeps.foldl_snd2
    | with_reducible apply Keeps.foldl_snd
    | with_reducible apply Keeps.foldl_fst

theorem State.partialAlone_keeps (s : State) {s0 : State} (h : Keeps s0 s) :
    Keeps s0 (State.partialAlone s) := by
  unfold State.partialAlone
  repeat' first
    | with_reducible assumption
    | with_reducible apply State.role_keeps
    | with_reducible apply State.setFlag_keeps
    | with_reducible apply State.tenantsAnew_keeps

theorem State.takeFrame_keeps (s : State) (f : Frame) {s0 : State} (h : Keeps s0 s) :
    Keeps s0 (State.takeFrame s f) := by
  unfold State.takeFrame
  repeat' first
    | with_reducible assumption
    | with_reducible apply State.putFrame_keeps
    | with_reducible apply State.keyFrame_keeps
    | split

theorem State.takeState_keeps (s : State) {s0 : State} (h : Keeps s0 s) :
    Keeps s0 (State.takeState s) := by
  unfold State.takeState
  repeat' first
    | with_reducible assumption
    | with_reducible apply State.readAgain_keeps
    | with_reducible apply State.setTenant_keeps
    | with_reducible apply State.takeFrame_keeps
    | intro _
    | (extract_lets +onlyGivenNames xl; first
        | (refine (fun (hx : Keeps s0 xl) => ?_) ?_; rotate_left; unfold xl; clear xl; rotate_left; clear_value xl; revert xl; intro yl hy)
        | (clear_value xl; revert xl; intro yl)
        | (revert xl; intro yl))
    | split
    | with_reducible apply Keeps.foldl
    | with_reducible apply Keeps.foldl_snd2
    | with_reducible apply Keeps.foldl_snd
    | with_reducible apply Keeps.foldl_fst
    | (refine Keeps.of_snd (by with_reducible assumption) ?_)
    | with_reducible apply Keeps.mk' rfl rfl rfl rfl rfl rfl rfl rfl rfl

theorem State.takeover_keeps (s : State) (cause : Nat) {s0 : State} (h : Keeps s0 s) :
    Keeps s0 (State.takeover s cause) := by
  unfold State.takeover
  repeat' first
    | with_reducible assumption
    | with_reducible apply State.event_keeps
    | with_reducible apply State.dispatch_keeps
    | with_reducible apply State.bump_keeps
    | with_reducible apply State.take_keeps
    | with_reducible apply State.originate_keeps
    | with_reducible apply State.cause_keeps
    | with_reducible apply State.issueFetch_keeps
    | with_reducible apply State.setTwn_keeps
    | with_reducible apply State.role_keeps
    | with_reducible apply State.noSwap_keeps
    | with_reducible apply State.resumeAll_keeps
    | with_reducible apply State.takeState_keeps
    | intro _
    | (extract_lets +onlyGivenNames xl; first
        | (refine (fun (hx : Keeps s0 xl) => ?_) ?_; rotate_left; unfold xl; clear xl; rotate_left; clear_value xl; revert xl; intro yl hy)
        | (refine (fun (hx : Keeps s0 xl.2) => ?_) ?_; rotate_left; unfold xl; clear xl; rotate_left; clear_value xl; revert xl; intro yl hy)
        | (clear_value xl; revert xl; intro yl)
        | (revert xl; intro yl))
    | split
    | (refine Keeps.of_snd (by with_reducible assumption) ?_)
    | with_reducible apply Keeps.mk' rfl rfl rfl rfl rfl rfl rfl rfl rfl

theorem State.twinSlot_keeps (s : State) {s0 : State} (h : Keeps s0 s) :
    Keeps s0 (State.twinSlot s) := by
  unfold State.twinSlot
  repeat' first
    | with_reducible assumption
    | with_reducible apply State.takeover_keeps
    | with_reducible apply State.event_keeps
    | with_reducible apply State.role_keeps
    | with_reducible apply State.unprepare_keeps
    | with_reducible apply State.noSwap_keeps
    | with_reducible apply State.setTwn_keeps
    | (extract_lets +onlyGivenNames xl; first
        | (clear_value xl; revert xl; intro yl)
        | (revert xl; intro yl))
    | split

theorem State.swapBoundary_keeps (s : State) {s0 : State} (h : Keeps s0 s) :
    Keeps s0 (State.swapBoundary s) := by
  unfold State.swapBoundary
  repeat' first
    | with_reducible assumption
    | with_reducible apply State.bump_keeps
    | with_reducible apply State.noSwap_keeps
    | with_reducible apply State.role_keeps
    | with_reducible apply State.unprepare_keeps
    | with_reducible apply State.setTwn_keeps
    | with_reducible apply State.issueFetch_keeps
    | with_reducible apply State.originate_keeps
    | with_reducible apply State.dispatch_keeps
    | with_reducible apply State.event_keeps
    | with_reducible apply State.takeState_keeps
    | (extract_lets +onlyGivenNames xl; first
        | (refine (fun (hx : Keeps s0 xl) => ?_) ?_; rotate_left; unfold xl; clear xl; rotate_left; clear_value xl; revert xl; intro yl hy)
        | (clear_value xl; revert xl; intro yl)
        | (revert xl; intro yl))
    | split

theorem State.asServing_keeps (s : State) (f : State → State) {s0 : State} (h : Keeps s0 s) (hf : ∀ t, Keeps s0 t → Keeps s0 (f  t)) :
    Keeps s0 (State.asServing s f) := by
  unfold State.asServing
  repeat' first
    | with_reducible assumption
    | with_reducible apply hf
    | with_reducible apply State.setFld_keeps
    | (extract_lets +onlyGivenNames xl; first
        | (clear_value xl; revert xl; intro yl)
        | (revert xl; intro yl))
    | split

theorem State.electStart_keeps (s : State) {s0 : State} (h : Keeps s0 s) :
    Keeps s0 (State.electStart s) := by
  unfold State.electStart
  repeat' first
    | with_reducible assumption
    | with_reducible apply State.setTwn_keeps
    | (extract_lets +onlyGivenNames xl; first
        | (clear_value xl; revert xl; intro yl)
        | (revert xl; intro yl))
    | split

theorem execTwinElection_keeps (high : Bool) (s : State) {s0 : State} (h : Keeps s0 s) :
    ∀ z, execTwinElection high s = .next z → Keeps s0 z := by
  unfold execTwinElection
  intro z e
  refine Keeps.of_next ?_ e
  repeat' first
    | with_reducible assumption
    | with_reducible apply State.setTwn_keeps
    | with_reducible apply State.join_keeps
    | with_reducible apply State.role_keeps
    | with_reducible apply State.event_keeps
    | (extract_lets +onlyGivenNames xl; first
        | (refine (fun (hx : Keeps s0 xl) => ?_) ?_; rotate_left; unfold xl; clear xl; rotate_left; clear_value xl; revert xl; intro yl hy)
        | (clear_value xl; revert xl; intro yl)
        | (revert xl; intro yl))
    | split

theorem State.twnOff_keeps (s : State) {s0 : State} (h : Keeps s0 s) :
    Keeps s0 (State.twnOff s) := by
  unfold State.twnOff
  repeat' first
    | with_reducible assumption
    | with_reducible apply State.noSwap_keeps
    | with_reducible apply State.setTwn_keeps
    | with_reducible apply State.resumeAll_keeps
    | with_reducible apply State.role_keeps
    | (extract_lets +onlyGivenNames xl; first
        | (refine (fun (hx : Keeps s0 xl) => ?_) ?_; rotate_left; unfold xl; clear xl; rotate_left; clear_value xl; revert xl; intro yl hy)
        | (clear_value xl; revert xl; intro yl)
        | (revert xl; intro yl))
    | split

theorem twnCfgWrite_keeps (p : Page) (w : Word) (s : State) {s0 : State} (h : Keeps s0 s) :
    Keeps s0 (twnCfgWrite p w s) := by
  unfold twnCfgWrite
  repeat' first
    | with_reducible assumption
    | with_reducible apply applyWrite_keeps
    | with_reducible apply State.electStart_keeps
    | with_reducible apply State.twnOff_keeps
    | (extract_lets +onlyGivenNames xl; first
        | (refine (fun (hx : Keeps s0 xl) => ?_) ?_; rotate_left; unfold xl; clear xl; rotate_left; clear_value xl; revert xl; intro yl hy))
    | split

theorem execHeartbeatTx_keeps (high : Bool) (lanes : Fin 4) (replays : Nat) (s : State) {s0 : State} (h : Keeps s0 s) :
    ∀ z, execHeartbeatTx high lanes replays s = .next z → Keeps s0 z := by
  unfold execHeartbeatTx
  intro z e
  refine Keeps.of_next ?_ e
  repeat' first
    | with_reducible assumption
    | with_reducible apply State.bumpBy_keeps
    | with_reducible apply State.setTwn_keeps
    | with_reducible apply State.bump_keeps
    | with_reducible apply State.emit_keeps
    | (extract_lets +onlyGivenNames xl; first
        | (refine (fun (hx : Keeps s0 xl) => ?_) ?_; rotate_left; unfold xl; clear xl; rotate_left; clear_value xl; revert xl; intro yl hy)
        | (clear_value xl; revert xl; intro yl)
        | (revert xl; intro yl))
    | split

theorem State.followBeat_keeps (s : State) (b : Beat) {s0 : State} (h : Keeps s0 s) :
    Keeps s0 (State.followBeat s b) := by
  unfold State.followBeat
  repeat' first
    | with_reducible assumption
    | with_reducible apply State.setSched_keeps
    | with_reducible apply State.setFld_keeps
    | with_reducible apply State.setFlag_keeps
    | with_reducible apply State.setRoot_keeps
    | with_reducible apply State.gainSync_keeps
    | (extract_lets +onlyGivenNames xl; first
        | (refine (fun (hx : Keeps s0 xl) => ?_) ?_; rotate_left; unfold xl; clear xl; rotate_left; clear_value xl; revert xl; intro yl hy)
        | (clear_value xl; revert xl; intro yl)
        | (revert xl; intro yl))
    | split
    | with_reducible apply Keeps.mk' rfl rfl rfl rfl rfl rfl rfl rfl rfl

theorem State.noteBeat_keeps (s : State) (lane : Nat) (b : Beat) {s0 : State} (h : Keeps s0 s) :
    Keeps s0 (State.noteBeat s lane b) := by
  unfold State.noteBeat
  repeat' first
    | with_reducible assumption
    | with_reducible apply State.setTwn_keeps
    | with_reducible apply State.setFlag_keeps
    | with_reducible apply State.setFld_keeps
    | with_reducible apply State.event_keeps
    | (extract_lets +onlyGivenNames xl; first
        | (refine (fun (hx : Keeps s0 xl) => ?_) ?_; rotate_left; unfold xl; clear xl; rotate_left; clear_value xl; revert xl; intro yl hy)
        | (clear_value xl; revert xl; intro yl)
        | (revert xl; intro yl))
    | split

theorem execHeartbeatRx_keeps (lane : Fin 2) (b : Beat) (s : State) {s0 : State} (h : Keeps s0 s) :
    ∀ z, execHeartbeatRx lane b s = .next z → Keeps s0 z := by
  unfold execHeartbeatRx
  intro z e
  refine Keeps.of_next ?_ e
  repeat' first
    | with_reducible assumption
    | with_reducible apply State.noteBeat_keeps
    | with_reducible apply State.role_keeps
    | with_reducible apply State.setFlag_keeps
    | with_reducible apply State.goAlone_keeps
    | with_reducible apply State.join_keeps
    | with_reducible apply State.followBeat_keeps
    | (extract_lets +onlyGivenNames xl; first
        | (refine (fun (hx : Keeps s0 xl) => ?_) ?_; rotate_left; unfold xl; clear xl; rotate_left; clear_value xl; revert xl; intro yl hy)
        | (clear_value xl; revert xl; intro yl)
        | (revert xl; intro yl))
    | split

theorem execHeartbeatLoss_keeps (s : State) {s0 : State} (h : Keeps s0 s) :
    ∀ z, execHeartbeatLoss s = .next z → Keeps s0 z := by
  unfold execHeartbeatLoss
  intro z e
  refine Keeps.of_next ?_ e
  repeat' first
    | with_reducible assumption
    | with_reducible apply State.bump_keeps
    | with_reducible apply State.setTwn_keeps
    | with_reducible apply State.noSwap_keeps
    | (extract_lets +onlyGivenNames xl; first
        | (refine (fun (hx : Keeps s0 xl) => ?_) ?_; rotate_left; unfold xl; clear xl; rotate_left; clear_value xl; revert xl; intro yl hy)
        | (clear_value xl; revert xl; intro yl)
        | (revert xl; intro yl))
    | split

theorem execPeerOkFall_keeps (s : State) {s0 : State} (h : Keeps s0 s) :
    ∀ z, execPeerOkFall s = .next z → Keeps s0 z := by
  unfold execPeerOkFall
  intro z e
  refine Keeps.of_next ?_ e
  repeat' first
    | with_reducible assumption
    | with_reducible apply State.setTwn_keeps
    | with_reducible apply State.noSwap_keeps
    | with_reducible apply State.goAlone_keeps
    | with_reducible apply State.partialAlone_keeps
    | (extract_lets +onlyGivenNames xl; first
        | (refine (fun (hx : Keeps s0 xl) => ?_) ?_; rotate_left; unfold xl; clear xl; rotate_left; clear_value xl; revert xl; intro yl hy)
        | (clear_value xl; revert xl; intro yl)
        | (revert xl; intro yl))
    | split

theorem execTwinLaneFail_keeps (lane : Fin 2) (s : State) {s0 : State} (h : Keeps s0 s) :
    ∀ z, execTwinLaneFail lane s = .next z → Keeps s0 z := by
  unfold execTwinLaneFail
  intro z e
  refine Keeps.of_next ?_ e
  repeat' first
    | with_reducible assumption
    | with_reducible apply State.event_keeps
    | with_reducible apply State.fault_keeps
    | with_reducible apply State.setTwn_keeps
    | (extract_lets +onlyGivenNames xl; first
        | (refine (fun (hx : Keeps s0 xl) => ?_) ?_; rotate_left; unfold xl; clear xl; rotate_left; clear_value xl; revert xl; intro yl hy)
        | (clear_value xl; revert xl; intro yl)
        | (revert xl; intro yl))
    | split

theorem execBulkCopyDone_keeps (s : State) {s0 : State} (h : Keeps s0 s) :
    ∀ z, execBulkCopyDone s = .next z → Keeps s0 z := by
  unfold execBulkCopyDone
  intro z e
  refine Keeps.of_next ?_ e
  repeat' first
    | with_reducible assumption
    | with_reducible apply State.event_keeps
    | with_reducible apply State.role_keeps
    | with_reducible apply State.setFlag_keeps
    | with_reducible apply State.setFld_keeps
    | (extract_lets +onlyGivenNames xl; first
        | (clear_value xl; revert xl; intro yl)
        | (revert xl; intro yl))
    | split

theorem State.tmapWords_keeps (s : State) (l : List (Nat × Nat)) {s0 : State} (h : Keeps s0 s) :
    Keeps s0 (State.tmapWords s l) := by
  unfold State.tmapWords
  repeat' first
    | with_reducible assumption
    | with_reducible apply State.tmapPut_keeps
    | intro _
    | with_reducible apply Keeps.foldl
    | with_reducible apply Keeps.foldl_snd2
    | with_reducible apply Keeps.foldl_snd
    | with_reducible apply Keeps.foldl_fst

theorem State.mirrorVersion_keeps (s : State) (ver : Nat) (sf : Nat) (tables : List (List Word)) (inForce : Bool) {s0 : State} (h : Keeps s0 s) :
    Keeps s0 (State.mirrorVersion s ver sf tables inForce) := by
  unfold State.mirrorVersion
  repeat' first
    | with_reducible assumption
    | with_reducible apply State.installTables_keeps
    | with_reducible apply State.setFlag_keeps
    | with_reducible apply State.setSched_keeps
    | (extract_lets +onlyGivenNames xl; first
        | (clear_value xl; revert xl; intro yl)
        | (revert xl; intro yl))
    | split

theorem State.mirrorSlot_keeps (s : State) (k : Nat) (x : KeySlot) (wrapped : List Nat) {s0 : State} (h : Keeps s0 s) :
    Keeps s0 (State.mirrorSlot s k x wrapped) := by
  unfold State.mirrorSlot
  repeat' first
    | with_reducible assumption
    | with_reducible apply State.putSlot_keeps
    | with_reducible apply State.unwrapFail_keeps
    | split

theorem State.mirrorNumbers_keeps (s : State) (k : Nat) (limit : Nat) {s0 : State} (h : Keeps s0 s) :
    Keeps s0 (State.mirrorNumbers s k limit) := by
  unfold State.mirrorNumbers
  repeat' first
    | with_reducible assumption
    | (extract_lets +onlyGivenNames xl; first
        | (clear_value xl; revert xl; intro yl)
        | (revert xl; intro yl))
    | with_reducible apply Keeps.mk' rfl rfl rfl rfl rfl rfl rfl rfl rfl

theorem State.mirrorNonces_keeps (s : State) (limit : Nat) {s0 : State} (h : Keeps s0 s) :
    Keeps s0 (State.mirrorNonces s limit) := by
  unfold State.mirrorNonces
  repeat' first
    | with_reducible assumption
    | (extract_lets +onlyGivenNames xl; first
        | (clear_value xl; revert xl; intro yl)
        | (revert xl; intro yl))
    | with_reducible apply Keeps.mk' rfl rfl rfl rfl rfl rfl rfl rfl rfl

theorem State.mirrorIn_keeps (s : State) (m : Mirror) {s0 : State} (h : Keeps s0 s) :
    Keeps s0 (State.mirrorIn s m) := by
  unfold State.mirrorIn
  repeat' first
    | with_reducible assumption
    | with_reducible apply State.dirBytes_keeps
    | with_reducible apply State.setChan_keeps
    | with_reducible apply State.setReg_keeps
    | with_reducible apply State.setFld_keeps
    | with_reducible apply State.setFlag_keeps
    | with_reducible apply State.setFlood_keeps
    | with_reducible apply State.delFlood_keeps
    | with_reducible apply State.delRoute_keeps
    | with_reducible apply State.putRoute_keeps
    | with_reducible apply State.setFigIdx_keeps
    | with_reducible apply State.setLink_keeps
    | with_reducible apply State.setTenant_keeps
    | with_reducible apply State.setTwn_keeps
    | with_reducible apply State.join_keeps
    | with_reducible apply State.tmapWords_keeps
    | with_reducible apply State.mirrorVersion_keeps
    | with_reducible apply State.mirrorSlot_keeps
    | with_reducible apply State.mirrorNumbers_keeps
    | with_reducible apply State.mirrorNonces_keeps
    | intro _
    | split
    | with_reducible apply Keeps.foldl
    | with_reducible apply Keeps.foldl_snd2
    | with_reducible apply Keeps.foldl_snd
    | with_reducible apply Keeps.foldl_fst
    | (refine Keeps.of_snd (by with_reducible assumption) ?_)
    | with_reducible apply Keeps.mk' rfl rfl rfl rfl rfl rfl rfl rfl rfl

theorem execMirrorRecordRx_keeps (seq : Nat) (progress : Nat) (m : Mirror) (s : State) {s0 : State} (h : Keeps s0 s) :
    ∀ z, execMirrorRecordRx seq progress m s = .next z → Keeps s0 z := by
  unfold execMirrorRecordRx
  intro z e
  refine Keeps.of_next ?_ e
  repeat' first
    | with_reducible assumption
    | with_reducible apply State.emit_keeps
    | with_reducible apply State.bump_keeps
    | with_reducible apply State.mirrorIn_keeps
    | with_reducible apply State.setTwn_keeps
    | with_reducible apply State.setFld_keeps
    | (extract_lets +onlyGivenNames xl; first
        | (clear_value xl; revert xl; intro yl)
        | (revert xl; intro yl))
    | split

theorem execMirrorAckRx_keeps (seq : Nat) (s : State) {s0 : State} (h : Keeps s0 s) :
    ∀ z, execMirrorAckRx seq s = .next z → Keeps s0 z := by
  unfold execMirrorAckRx
  intro z e
  refine Keeps.of_next ?_ e
  repeat' first
    | with_reducible assumption
    | with_reducible apply State.setTwn_keeps
    | with_reducible apply State.resumeList_keeps
    | (extract_lets +onlyGivenNames xl; first
        | (refine (fun (hx : Keeps s0 xl) => ?_) ?_; rotate_left; unfold xl; clear xl; rotate_left; clear_value xl; revert xl; intro yl hy)
        | (clear_value xl; revert xl; intro yl)
        | (revert xl; intro yl))
    | split

theorem execMirrorRecordLost_keeps (s : State) {s0 : State} (h : Keeps s0 s) :
    ∀ z, execMirrorRecordLost s = .next z → Keeps s0 z := by
  unfold execMirrorRecordLost
  intro z e
  refine Keeps.of_next ?_ e
  repeat' first
    | with_reducible assumption
    | with_reducible apply State.join_keeps
    | split

theorem State.startSwap_keeps (s : State) {s0 : State} (h : Keeps s0 s) :
    Keeps s0 (State.startSwap s) := by
  unfold State.startSwap
  repeat' first
    | with_reducible assumption
    | with_reducible apply State.setFlag_keeps
    | with_reducible apply State.setFld_keeps
    | with_reducible apply State.setTwn_keeps
    | with_reducible apply State.bump_keeps
    | with_reducible apply State.emit_keeps
    | (extract_lets +onlyGivenNames xl; first
        | (refine (fun (hx : Keeps s0 xl) => ?_) ?_; rotate_left; unfold xl; clear xl; rotate_left; clear_value xl; revert xl; intro yl hy)
        | (clear_value xl; revert xl; intro yl)
        | (revert xl; intro yl))
    | split

theorem State.startResync_keeps (s : State) {s0 : State} (h : Keeps s0 s) :
    Keeps s0 (State.startResync s) := by
  unfold State.startResync
  repeat' first
    | with_reducible assumption
    | with_reducible apply State.setFlag_keeps
    | with_reducible apply State.join_keeps
    | with_reducible apply State.setTwn_keeps
    | with_reducible apply State.bump_keeps
    | with_reducible apply State.goAlone_keeps
    | with_reducible apply State.emit_keeps
    | (extract_lets +onlyGivenNames xl; first
        | (refine (fun (hx : Keeps s0 xl) => ?_) ?_; rotate_left; unfold xl; clear xl; rotate_left; clear_value xl; revert xl; intro yl hy)
        | (clear_value xl; revert xl; intro yl)
        | (revert xl; intro yl))
    | split

theorem twnCmdWrite_keeps (p : Page) (w : Word) (s : State) {s0 : State} (h : Keeps s0 s) :
    Keeps s0 (twnCmdWrite p w s) := by
  unfold twnCmdWrite
  repeat' first
    | with_reducible assumption
    | with_reducible apply applyWrite_keeps
    | with_reducible apply State.startSwap_keeps
    | with_reducible apply State.startResync_keeps
    | (extract_lets +onlyGivenNames xl; first
        | (refine (fun (hx : Keeps s0 xl) => ?_) ?_; rotate_left; unfold xl; clear xl; rotate_left; clear_value xl; revert xl; intro yl hy))
    | split

theorem execTwinSwap_keeps (q : Req) (s : State) {s0 : State} (h : Keeps s0 s) :
    ∀ z, execTwinSwap q s = .next z → Keeps s0 z := by
  unfold execTwinSwap
  intro z e
  refine Keeps.of_next ?_ e
  repeat' first
    | with_reducible assumption
    | with_reducible apply writeWord_keeps
    | with_reducible apply twnCmdWrite_keeps
    | intro _

theorem execTwinResync_keeps (q : Req) (s : State) {s0 : State} (h : Keeps s0 s) :
    ∀ z, execTwinResync q s = .next z → Keeps s0 z := by
  unfold execTwinResync
  intro z e
  refine Keeps.of_next ?_ e
  repeat' first
    | with_reducible assumption
    | with_reducible apply writeWord_keeps
    | with_reducible apply twnCmdWrite_keeps
    | intro _

theorem State.twnIsolated_keeps (s : State) {s0 : State} (h : Keeps s0 s) :
    Keeps s0 (State.twnIsolated s) := by
  unfold State.twnIsolated
  repeat' first
    | with_reducible assumption
    | with_reducible apply State.goAlone_keeps
    | with_reducible apply State.join_keeps
    | split

theorem State.twnLag_keeps (s : State) {s0 : State} (h : Keeps s0 s) :
    Keeps s0 (State.twnLag s) := by
  unfold State.twnLag
  repeat' first
    | with_reducible assumption
    | with_reducible apply State.setFld_keeps
    | with_reducible apply State.setTwn_keeps
    | intro _
    | (extract_lets +onlyGivenNames xl; first
        | (refine (fun (hx : Keeps s0 xl) => ?_) ?_; rotate_left; unfold xl; clear xl; rotate_left; clear_value xl; revert xl; intro yl hy)
        | (clear_value xl; revert xl; intro yl)
        | (revert xl; intro yl))
    | split
    | with_reducible apply Keeps.foldl
    | with_reducible apply Keeps.foldl_snd2
    | with_reducible apply Keeps.foldl_snd
    | with_reducible apply Keeps.foldl_fst

theorem twnEffect_keeps (off : Nat) (a1 : Page) (a2 : Word) (a3 : State) {s0 : State} (h : Keeps s0 a3) :
    Keeps s0 (twnEffect off a1 a2 a3) := by
  unfold twnEffect
  repeat' first
    | with_reducible assumption
    | with_reducible apply twnCfgWrite_keeps
    | with_reducible apply twnCmdWrite_keeps
    | with_reducible apply applyWrite_keeps
    | split

end Sys2Proof.Machine
end

