-- ==== Sys2Proof/Laws/Keeps/Update.lean ====
section
/-! SUPPORT. That every operation of Update keeps the relation of Laws/Keeps. -/

set_option Elab.async false

namespace Sys2Proof.Machine

theorem State.setNvm_keeps (s : State) (x : Nvm) {s0 : State} (h : Keeps s0 s) :
    Keeps s0 (State.setNvm s x) := by
  unfold State.setNvm
  repeat' first
    | with_reducible assumption
    | with_reducible apply Keeps.mk' rfl rfl rfl rfl rfl rfl rfl rfl rfl

theorem State.setUpd_keeps (s : State) (x : Upd) {s0 : State} (h : Keeps s0 s) :
    Keeps s0 (State.setUpd s x) := by
  unfold State.setUpd
  repeat' first
    | with_reducible assumption
    | with_reducible apply State.setNvm_keeps
    | (extract_lets +onlyGivenNames xl; first
        | (clear_value xl; revert xl; intro yl)
        | (revert xl; intro yl))

theorem State.setAct_keeps (s : State) (x : ActRec) {s0 : State} (h : Keeps s0 s) :
    Keeps s0 (State.setAct s x) := by
  unfold State.setAct
  repeat' first
    | with_reducible assumption
    | with_reducible apply State.setNvm_keeps
    | (extract_lets +onlyGivenNames xl; first
        | (clear_value xl; revert xl; intro yl)
        | (revert xl; intro yl))

theorem State.setImgSlot_keeps (s : State) (k : Nat) (x : ImgSlot) {s0 : State} (h : Keeps s0 s) :
    Keeps s0 (State.setImgSlot s k x) := by
  unfold State.setImgSlot
  repeat' first
    | with_reducible assumption
    | with_reducible apply State.setNvm_keeps
    | (extract_lets +onlyGivenNames xl; first
        | (clear_value xl; revert xl; intro yl)
        | (revert xl; intro yl))

theorem State.countCheck_keeps (s : State) (status : Nat) {s0 : State} (h : Keeps s0 s) :
    Keeps s0 (State.countCheck s status) := by
  unfold State.countCheck
  repeat' first
    | with_reducible assumption
    | with_reducible apply State.bump_keeps
    | split

theorem State.dropTrial_keeps (s : State) {s0 : State} (h : Keeps s0 s) :
    Keeps s0 (State.dropTrial s) := by
  unfold State.dropTrial
  repeat' first
    | with_reducible assumption
    | with_reducible apply State.setNvm_keeps
    | (extract_lets +onlyGivenNames xl; first
        | (clear_value xl; revert xl; intro yl)
        | (revert xl; intro yl))

theorem State.updStatus_keeps (s : State) (code : Nat) {s0 : State} (h : Keeps s0 s) :
    Keeps s0 (State.updStatus s code) := by
  unfold State.updStatus
  repeat' first
    | with_reducible assumption
    | with_reducible apply State.setFld_keeps

theorem State.updBegin_keeps (s : State) {s0 : State} (h : Keeps s0 s) :
    Keeps s0 (State.updBegin s) := by
  unfold State.updBegin
  repeat' first
    | with_reducible assumption
    | with_reducible apply State.updStatus_keeps
    | with_reducible apply State.setUpd_keeps
    | with_reducible apply State.setImgSlot_keeps
    | with_reducible apply State.setNvm_keeps
    | with_reducible apply State.bump_keeps
    | with_reducible apply State.setFld_keeps
    | (extract_lets +onlyGivenNames xl; first
        | (refine (fun (hx : Keeps s0 xl) => ?_) ?_; rotate_left; unfold xl; clear xl; rotate_left; clear_value xl; revert xl; intro yl hy)
        | (clear_value xl; revert xl; intro yl)
        | (revert xl; intro yl))
    | split

theorem State.updActivate_keeps (s : State) {s0 : State} (h : Keeps s0 s) :
    Keeps s0 (State.updActivate s) := by
  unfold State.updActivate
  repeat' first
    | with_reducible assumption
    | with_reducible apply State.updStatus_keeps
    | with_reducible apply State.devReset_keeps
    | with_reducible apply State.bump_keeps
    | with_reducible apply State.nvmRows_keeps
    | with_reducible apply State.setAct_keeps
    | with_reducible apply State.setUpd_keeps
    | with_reducible apply State.setFld_keeps
    | (extract_lets +onlyGivenNames xl; first
        | (refine (fun (hx : Keeps s0 xl) => ?_) ?_; rotate_left; unfold xl; clear xl; rotate_left; clear_value xl; revert xl; intro yl hy)
        | (clear_value xl; revert xl; intro yl)
        | (revert xl; intro yl))
    | split

theorem State.updCommit_keeps (s : State) {s0 : State} (h : Keeps s0 s) :
    Keeps s0 (State.updCommit s) := by
  unfold State.updCommit
  repeat' first
    | with_reducible assumption
    | with_reducible apply State.updStatus_keeps
    | with_reducible apply State.setNvm_keeps
    | with_reducible apply State.event_keeps
    | with_reducible apply State.bump_keeps
    | with_reducible apply State.nvmRows_keeps
    | (extract_lets +onlyGivenNames xl; first
        | (refine (fun (hx : Keeps s0 xl) => ?_) ?_; rotate_left; unfold xl; clear xl; rotate_left; clear_value xl; revert xl; intro yl hy)
        | (clear_value xl; revert xl; intro yl)
        | (revert xl; intro yl))
    | split

theorem State.updRollback_keeps (s : State) {s0 : State} (h : Keeps s0 s) :
    Keeps s0 (State.updRollback s) := by
  unfold State.updRollback
  repeat' first
    | with_reducible assumption
    | with_reducible apply State.updStatus_keeps
    | with_reducible apply State.setUpd_keeps
    | with_reducible apply State.setFld_keeps
    | (extract_lets +onlyGivenNames xl; first
        | (refine (fun (hx : Keeps s0 xl) => ?_) ?_; rotate_left; unfold xl; clear xl; rotate_left; clear_value xl; revert xl; intro yl hy)
        | (clear_value xl; revert xl; intro yl)
        | (revert xl; intro yl))
    | split

theorem State.updRevoke_keeps (s : State) {s0 : State} (h : Keeps s0 s) :
    Keeps s0 (State.updRevoke s) := by
  unfold State.updRevoke
  extract_lets e uses left c s1
  split
  · exact State.updStatus_keeps _ _ h
  · split
    · exact State.updStatus_keeps _ _ h
    · exact State.updStatus_keeps _ _ (h.upd rfl ⟨rfl, rfl, rfl, rfl, rfl, fun i hi => bitOf_setBitOf_keep hi⟩ fun hw => hw)

theorem updCmdWrite_keeps (p : Page) (w : Word) (s : State) {s0 : State} (h : Keeps s0 s) :
    Keeps s0 (updCmdWrite p w s) := by
  unfold updCmdWrite
  repeat' first
    | with_reducible assumption
    | with_reducible apply applyWrite_keeps
    | with_reducible apply State.updStatus_keeps
    | with_reducible apply State.updBegin_keeps
    | with_reducible apply State.setUpd_keeps
    | with_reducible apply State.updActivate_keeps
    | with_reducible apply State.updCommit_keeps
    | with_reducible apply State.updRollback_keeps
    | with_reducible apply State.updRevoke_keeps
    | (extract_lets +onlyGivenNames xl; first
        | (refine (fun (hx : Keeps s0 xl) => ?_) ?_; rotate_left; unfold xl; clear xl; rotate_left; clear_value xl; revert xl; intro yl hy)
        | (clear_value xl; revert xl; intro yl)
        | (revert xl; intro yl))
    | split

theorem execUpdBegin_keeps (q : Req) (s : State) {s0 : State} (h : Keeps s0 s) :
    ∀ z, execUpdBegin q s = .next z → Keeps s0 z := by
  unfold execUpdBegin
  intro z e
  refine Keeps.of_next ?_ e
  repeat' first
    | with_reducible assumption
    | with_reducible apply writeWord_keeps
    | with_reducible apply updCmdWrite_keeps
    | intro _

theorem execVerifyImage_keeps (q : Req) (s : State) {s0 : State} (h : Keeps s0 s) :
    ∀ z, execVerifyImage q s = .next z → Keeps s0 z := by
  unfold execVerifyImage
  intro z e
  refine Keeps.of_next ?_ e
  repeat' first
    | with_reducible assumption
    | with_reducible apply writeWord_keeps
    | with_reducible apply updCmdWrite_keeps
    | intro _

theorem execUpdActivate_keeps (q : Req) (s : State) {s0 : State} (h : Keeps s0 s) :
    ∀ z, execUpdActivate q s = .next z → Keeps s0 z := by
  unfold execUpdActivate
  intro z e
  refine Keeps.of_next ?_ e
  repeat' first
    | with_reducible assumption
    | with_reducible apply writeWord_keeps
    | with_reducible apply updCmdWrite_keeps
    | intro _

theorem execUpdCommit_keeps (q : Req) (s : State) {s0 : State} (h : Keeps s0 s) :
    ∀ z, execUpdCommit q s = .next z → Keeps s0 z := by
  unfold execUpdCommit
  intro z e
  refine Keeps.of_next ?_ e
  repeat' first
    | with_reducible assumption
    | with_reducible apply writeWord_keeps
    | with_reducible apply updCmdWrite_keeps
    | intro _

theorem execUpdRollback_keeps (q : Req) (s : State) {s0 : State} (h : Keeps s0 s) :
    ∀ z, execUpdRollback q s = .next z → Keeps s0 z := by
  unfold execUpdRollback
  intro z e
  refine Keeps.of_next ?_ e
  repeat' first
    | with_reducible assumption
    | with_reducible apply writeWord_keeps
    | with_reducible apply updCmdWrite_keeps
    | intro _

theorem execUpdAbort_keeps (q : Req) (s : State) {s0 : State} (h : Keeps s0 s) :
    ∀ z, execUpdAbort q s = .next z → Keeps s0 z := by
  unfold execUpdAbort
  intro z e
  refine Keeps.of_next ?_ e
  repeat' first
    | with_reducible assumption
    | with_reducible apply writeWord_keeps
    | with_reducible apply updCmdWrite_keeps
    | intro _

theorem execUpdRevoke_keeps (q : Req) (s : State) {s0 : State} (h : Keeps s0 s) :
    ∀ z, execUpdRevoke q s = .next z → Keeps s0 z := by
  unfold execUpdRevoke
  intro z e
  refine Keeps.of_next ?_ e
  repeat' first
    | with_reducible assumption
    | with_reducible apply writeWord_keeps
    | with_reducible apply updCmdWrite_keeps
    | intro _

theorem updDataWrite_keeps (a0 : Page) (w : Word) (s : State) {s0 : State} (h : Keeps s0 s) :
    Keeps s0 (updDataWrite a0 w s) := by
  unfold updDataWrite
  repeat' first
    | with_reducible assumption
    | with_reducible apply State.event_keeps
    | with_reducible apply State.setFlag_keeps
    | with_reducible apply State.setFld_keeps
    | with_reducible apply State.setUpd_keeps
    | (extract_lets +onlyGivenNames xl; first
        | (clear_value xl; revert xl; intro yl)
        | (revert xl; intro yl))
    | split

theorem execUpdDataWrite_keeps (q : Req) (s : State) {s0 : State} (h : Keeps s0 s) :
    ∀ z, execUpdDataWrite q s = .next z → Keeps s0 z := by
  unfold execUpdDataWrite
  intro z e
  refine Keeps.of_next ?_ e
  repeat' first
    | with_reducible assumption
    | with_reducible apply writeWord_keeps
    | with_reducible apply updDataWrite_keeps
    | intro _

theorem updOffsetWrite_keeps (a0 : Page) (w : Word) (s : State) {s0 : State} (h : Keeps s0 s) :
    Keeps s0 (updOffsetWrite a0 w s) := by
  unfold updOffsetWrite
  repeat' first
    | with_reducible assumption
    | with_reducible apply State.setFld_keeps
    | with_reducible apply State.setUpd_keeps
    | (extract_lets +onlyGivenNames xl; first
        | (clear_value xl; revert xl; intro yl)
        | (revert xl; intro yl))
    | split

theorem execUpdOffsetWrite_keeps (q : Req) (s : State) {s0 : State} (h : Keeps s0 s) :
    ∀ z, execUpdOffsetWrite q s = .next z → Keeps s0 z := by
  unfold execUpdOffsetWrite
  intro z e
  refine Keeps.of_next ?_ e
  repeat' first
    | with_reducible assumption
    | with_reducible apply writeWord_keeps
    | with_reducible apply updOffsetWrite_keeps
    | intro _

theorem execStagingRowWrite_keeps (waits : Nat) (s : State) {s0 : State} (h : Keeps s0 s) :
    ∀ z, execStagingRowWrite waits s = .next z → Keeps s0 z := by
  unfold execStagingRowWrite
  intro z e
  refine Keeps.of_next ?_ e
  repeat' first
    | with_reducible assumption
    | with_reducible apply State.setNvm_keeps
    | with_reducible apply State.bumpBy_keeps
    | with_reducible apply State.bump_keeps
    | intro _
    | (extract_lets +onlyGivenNames xl; first
        | (refine (fun (hx : Keeps s0 xl) => ?_) ?_; rotate_left; unfold xl; clear xl; rotate_left; clear_value xl; revert xl; intro yl hy)
        | (clear_value xl; revert xl; intro yl)
        | (revert xl; intro yl))
    | split
    | with_reducible apply Keeps.foldl
    | with_reducible apply Keeps.foldl_snd2
    | with_reducible apply Keeps.foldl_snd
    | with_reducible apply Keeps.foldl_fst

theorem execVerifyDone_keeps (s : State) {s0 : State} (h : Keeps s0 s) :
    ∀ z, execVerifyDone s = .next z → Keeps s0 z := by
  unfold execVerifyDone
  intro z e
  refine Keeps.of_next ?_ e
  repeat' first
    | with_reducible assumption
    | with_reducible apply State.updStatus_keeps
    | with_reducible apply State.countCheck_keeps
    | with_reducible apply State.setUpd_keeps
    | with_reducible apply State.setImgSlot_keeps
    | with_reducible apply State.event_keeps
    | (extract_lets +onlyGivenNames xl; first
        | (refine (fun (hx : Keeps s0 xl) => ?_) ?_; rotate_left; unfold xl; clear xl; rotate_left; clear_value xl; revert xl; intro yl hy)
        | (clear_value xl; revert xl; intro yl)
        | (revert xl; intro yl))
    | split

theorem State.pauseSlot_keeps (s : State) {s0 : State} (h : Keeps s0 s) :
    Keeps s0 (State.pauseSlot s) := by
  unfold State.pauseSlot
  repeat' first
    | with_reducible assumption
    | with_reducible apply State.setAct_keeps
    | with_reducible apply State.dropTrial_keeps
    | with_reducible apply State.setUpd_keeps
    | with_reducible apply State.bump_keeps
    | with_reducible apply State.nvmRows_keeps
    | with_reducible apply State.event_keeps
    | with_reducible apply State.setNvm_keeps
    | with_reducible apply State.setFlag_keeps
    | (extract_lets +onlyGivenNames xl; first
        | (refine (fun (hx : Keeps s0 xl) => ?_) ?_; rotate_left; unfold xl; clear xl; rotate_left; clear_value xl; revert xl; intro yl hy)
        | (clear_value xl; revert xl; intro yl)
        | (revert xl; intro yl))
    | split

theorem State.twinAnew_keeps (s : State) {s0 : State} (h : Keeps s0 s) :
    Keeps s0 (State.twinAnew s) := by
  unfold State.twinAnew
  repeat' first
    | with_reducible assumption
    | with_reducible apply State.electStart_keeps
    | with_reducible apply State.setFld_keeps
    | with_reducible apply State.setTwn_keeps
    | (extract_lets +onlyGivenNames xl; first
        | (clear_value xl; revert xl; intro yl)
        | (revert xl; intro yl))
    | split

theorem execActivationRestartDone_keeps (s : State) {s0 : State} (h : Keeps s0 s) :
    ∀ z, execActivationRestartDone s = .next z → Keeps s0 z := by
  unfold execActivationRestartDone
  intro z e
  refine Keeps.of_next ?_ e
  repeat' first
    | with_reducible assumption
    | with_reducible apply State.setUpd_keeps
    | with_reducible apply State.issueFetch_keeps
    | with_reducible apply State.originate_keeps
    | with_reducible apply State.dispatch_keeps
    | with_reducible apply State.twinAnew_keeps
    | with_reducible apply State.macFrame_keeps
    | intro _
    | (extract_lets +onlyGivenNames xl; first
        | (refine (fun (hx : Keeps s0 xl) => ?_) ?_; rotate_left; unfold xl; clear xl; rotate_left; clear_value xl; revert xl; intro yl hy)
        | (clear_value xl; revert xl; intro yl)
        | (revert xl; intro yl))
    | split
    | with_reducible apply Keeps.foldl
    | with_reducible apply Keeps.foldl_snd2
    | with_reducible apply Keeps.foldl_snd
    | with_reducible apply Keeps.foldl_fst

theorem execMigrationDone_keeps (s : State) {s0 : State} (h : Keeps s0 s) :
    ∀ z, execMigrationDone s = .next z → Keeps s0 z := by
  unfold execMigrationDone
  intro z e
  refine Keeps.of_next ?_ e
  repeat' first
    | with_reducible assumption
    | with_reducible apply State.setNvm_keeps
    | with_reducible apply State.event_keeps
    | with_reducible apply State.setFld_keeps
    | with_reducible apply State.nvmRows_keeps
    | (extract_lets +onlyGivenNames xl; first
        | (refine (fun (hx : Keeps s0 xl) => ?_) ?_; rotate_left; unfold xl; clear xl; rotate_left; clear_value xl; revert xl; intro yl hy)
        | (clear_value xl; revert xl; intro yl)
        | (revert xl; intro yl))
    | split

theorem State.rowConsequence_keeps (s : State) (r : Nat) {s0 : State} (h : Keeps s0 s) :
    Keeps s0 (State.rowConsequence s r) := by
  unfold State.rowConsequence
  repeat' first
    | with_reducible assumption
    | with_reducible apply State.setNvm_keeps
    | with_reducible apply State.freeNat_keeps
    | (extract_lets +onlyGivenNames xl; first
        | (refine (fun (hx : Keeps s0 xl.2) => ?_) ?_; rotate_left; unfold xl; clear xl; rotate_left; clear_value xl; revert xl; intro yl hy)
        | (clear_value xl; revert xl; intro yl)
        | (revert xl; intro yl))
    | split
    | (refine Keeps.of_snd (by with_reducible assumption) ?_)

theorem State.rowUncorr_keeps (s : State) (r : Nat) {s0 : State} (h : Keeps s0 s) :
    Keeps s0 (State.rowUncorr s r) := by
  unfold State.rowUncorr
  repeat' first
    | with_reducible assumption
    | with_reducible apply State.setNvm_keeps
    | with_reducible apply State.bump_keeps
    | with_reducible apply State.setFld_keeps
    | with_reducible apply State.event_keeps
    | with_reducible apply State.fault_keeps
    | with_reducible apply State.rowConsequence_keeps
    | (extract_lets +onlyGivenNames xl; first
        | (refine (fun (hx : Keeps s0 xl) => ?_) ?_; rotate_left; unfold xl; clear xl; rotate_left; clear_value xl; revert xl; intro yl hy)
        | (clear_value xl; revert xl; intro yl)
        | (revert xl; intro yl))
    | split

theorem State.rowWords_keeps (s : State) (r : Nat) (uncorr : Bool) {s0 : State} (h : Keeps s0 s) :
    Keeps s0 (State.rowWords s r uncorr).2 := by
  unfold State.rowWords
  repeat' first
    | with_reducible assumption
    | with_reducible apply State.freeNat_keeps
    | intro _
    | (extract_lets +onlyGivenNames xl; first
        | (refine (fun (hx : Keeps s0 xl.2) => ?_) ?_; rotate_left; unfold xl; clear xl; rotate_left; clear_value xl; revert xl; intro yl hy)
        | (clear_value xl; revert xl; intro yl)
        | (revert xl; intro yl))
    | split
    | with_reducible apply Keeps.foldl
    | (refine Keeps.of_snd (by with_reducible assumption) ?_)
    | with_reducible apply Keeps.foldl_snd2
    | with_reducible apply Keeps.foldl_snd
    | with_reducible apply Keeps.foldl_fst

theorem nvmReadWrite_keeps (bits : Nat) (p : Page) (w : Word) (s : State) {s0 : State} (h : Keeps s0 s) :
    Keeps s0 (nvmReadWrite bits p w s) := by
  unfold nvmReadWrite
  repeat' first
    | with_reducible assumption
    | with_reducible apply applyWrite_keeps
    | with_reducible apply State.rowWords_keeps
    | with_reducible apply State.setFld_keeps
    | with_reducible apply State.event_keeps
    | with_reducible apply State.bump_keeps
    | with_reducible apply State.setReg_keeps
    | with_reducible apply State.rowUncorr_keeps
    | intro _
    | (extract_lets +onlyGivenNames xl; first
        | (refine (fun (hx : Keeps s0 xl) => ?_) ?_; rotate_left; unfold xl; clear xl; rotate_left; clear_value xl; revert xl; intro yl hy)
        | (refine (fun (hx : Keeps s0 xl.2) => ?_) ?_; rotate_left; unfold xl; clear xl; rotate_left; clear_value xl; revert xl; intro yl hy)
        | (clear_value xl; revert xl; intro yl)
        | (revert xl; intro yl))
    | split
    | with_reducible apply Keeps.foldl
    | (refine Keeps.of_snd (by with_reducible assumption) ?_)
    | with_reducible apply Keeps.foldl_snd2
    | with_reducible apply Keeps.foldl_snd
    | with_reducible apply Keeps.foldl_fst

theorem execNvmRowRead_keeps (q : Req) (bits : Nat) (s : State) {s0 : State} (h : Keeps s0 s) :
    ∀ z, execNvmRowRead q bits s = .next z → Keeps s0 z := by
  unfold execNvmRowRead
  intro z e
  refine Keeps.of_next ?_ e
  repeat' first
    | with_reducible assumption
    | with_reducible apply writeWord_keeps
    | with_reducible apply nvmReadWrite_keeps
    | intro _

theorem State.scrubUncorr_keeps (s : State) (n : Nat) {s0 : State} (h : Keeps s0 s) :
    Keeps s0 (State.scrubUncorr s n) := by
  unfold State.scrubUncorr
  repeat' first
    | with_reducible assumption
    | with_reducible apply State.bumpBy_keeps
    | with_reducible apply State.fault_keeps
    | split

theorem execScrubRow_keeps (bits : Nat) (waits : Nat) (s : State) {s0 : State} (h : Keeps s0 s) :
    ∀ z, execScrubRow bits waits s = .next z → Keeps s0 z := by
  unfold execScrubRow
  intro z e
  refine Keeps.of_next ?_ e
  repeat' first
    | with_reducible assumption
    | with_reducible apply State.setFld_keeps
    | with_reducible apply State.scrubUncorr_keeps
    | with_reducible apply State.rowUncorr_keeps
    | with_reducible apply State.bumpBy_keeps
    | with_reducible apply State.bump_keeps
    | (extract_lets +onlyGivenNames xl; first
        | (refine (fun (hx : Keeps s0 xl) => ?_) ?_; rotate_left; unfold xl; clear xl; rotate_left; clear_value xl; revert xl; intro yl hy)
        | (clear_value xl; revert xl; intro yl)
        | (revert xl; intro yl))
    | split

theorem execLogCompact_keeps (free : Nat) (recs : List (Nat × Nat)) (s : State) {s0 : State} (h : Keeps s0 s) :
    ∀ z, execLogCompact free recs s = .next z → Keeps s0 z := by
  unfold execLogCompact
  intro z e
  refine Keeps.of_next ?_ e
  repeat' first
    | with_reducible assumption
    | with_reducible apply State.event_keeps
    | with_reducible apply State.setNvm_keeps
    | (extract_lets +onlyGivenNames xl; first
        | (clear_value xl; revert xl; intro yl)
        | (revert xl; intro yl))
    | split

theorem execCompacted_keeps (free : Nat) (s : State) {s0 : State} (h : Keeps s0 s) :
    ∀ z, execCompacted free s = .next z → Keeps s0 z := by
  unfold execCompacted
  intro z e
  refine Keeps.of_next ?_ e
  repeat' first
    | with_reducible assumption
    | with_reducible apply State.event_keeps
    | with_reducible apply State.bump_keeps
    | with_reducible apply State.nvmRows_keeps
    | with_reducible apply State.setNvm_keeps
    | (extract_lets +onlyGivenNames xl; first
        | (clear_value xl; revert xl; intro yl)
        | (revert xl; intro yl))
    | split

theorem updEffect_keeps (off : Nat) (a1 : Page) (a2 : Word) (a3 : State) {s0 : State} (h : Keeps s0 a3) :
    Keeps s0 (updEffect off a1 a2 a3) := by
  unfold updEffect
  repeat' first
    | with_reducible assumption
    | with_reducible apply updCmdWrite_keeps
    | with_reducible apply updOffsetWrite_keeps
    | with_reducible apply updDataWrite_keeps
    | with_reducible apply applyWrite_keeps
    | split

end Sys2Proof.Machine
end

