-- ==== Sys2Proof/Laws/Keeps/Boot.lean ====
section
/-! SUPPORT. That every operation of Boot keeps the relation of Laws/Keeps. -/

set_option Elab.async false

namespace Sys2Proof.Machine

theorem State.trialStart_keeps (s : State) {s0 : State} (h : Keeps s0 s) :
    Keeps s0 (State.trialStart s) := by
  unfold State.trialStart
  repeat' first
    | with_reducible assumption
    | with_reducible apply State.setAct_keeps
    | with_reducible apply State.dropTrial_keeps
    | with_reducible apply State.bump_keeps
    | with_reducible apply State.event_keeps
    | with_reducible apply State.setFlag_keeps
    | (extract_lets +onlyGivenNames xl; first
        | (refine (fun (hx : Keeps s0 xl) => ?_) ?_; rotate_left; unfold xl; clear xl; rotate_left; clear_value xl; revert xl; intro yl hy)
        | (clear_value xl; revert xl; intro yl)
        | (revert xl; intro yl))
    | split

theorem State.runSlot_keeps (s : State) (k : Nat) {s0 : State} (h : Keeps s0 s) :
    Keeps s0 (State.runSlot s k) := by
  unfold State.runSlot
  repeat' first
    | with_reducible assumption
    | with_reducible apply State.setNvm_keeps
    | (extract_lets +onlyGivenNames xl; first
        | (clear_value xl; revert xl; intro yl)
        | (revert xl; intro yl))

theorem State.imageChoice_keeps (a0 : State) {s0 : State} (h : Keeps s0 a0) :
    Keeps s0 (State.imageChoice a0) := by
  unfold State.imageChoice
  repeat' first
    | with_reducible assumption
    | with_reducible apply State.trialStart_keeps
    | with_reducible apply State.setImgSlot_keeps
    | with_reducible apply State.runSlot_keeps
    | with_reducible apply State.setAct_keeps
    | with_reducible apply State.dropTrial_keeps
    | with_reducible apply State.bump_keeps
    | with_reducible apply State.setFlag_keeps
    | with_reducible apply State.fault_keeps
    | with_reducible apply State.setNvm_keeps
    | intro _
    | with_reducible apply hg
    | with_reducible apply hg1
    | with_reducible apply hg2
    | (extract_lets +onlyGivenNames xl; first
        | (refine (fun (hx : Keeps s0 xl) => ?_) ?_; rotate_left; unfold xl; clear xl; rotate_left; clear_value xl; revert xl; intro yl hy)
        | (refine (fun (hx : ∀ t, Keeps s0 t → Keeps s0 (xl t)) => ?_) ?_; rotate_left; unfold xl; clear xl; rotate_left; clear_value xl; revert xl; intro yg hg1)
        | (refine (fun (hx : ∀ t a, Keeps s0 t → Keeps s0 (xl t a)) => ?_) ?_; rotate_left; unfold xl; clear xl; rotate_left; clear_value xl; revert xl; intro yg hg2)
        | (refine (fun (hx : ∀ t a b, Keeps s0 t → Keeps s0 (xl t a b)) => ?_) ?_; rotate_left; unfold xl; clear xl; rotate_left; clear_value xl; revert xl; intro yg hg)
        | (refine (fun (hx : ∀ t a b c, Keeps s0 t → Keeps s0 (xl t a b c)) => ?_) ?_; rotate_left; unfold xl; clear xl; rotate_left; clear_value xl; revert xl; intro yg hg)
        | (refine (fun (hx : ∀ a, Keeps s0 (xl a)) => ?_) ?_; rotate_left; unfold xl; clear xl; rotate_left; clear_value xl; revert xl; intro yg hg)
        | (refine (fun (hx : ∀ a b, Keeps s0 (xl a b)) => ?_) ?_; rotate_left; unfold xl; clear xl; rotate_left; clear_value xl; revert xl; intro yg hg)
        | (clear_value xl; revert xl; intro yl)
        | (revert xl; intro yl))
    | split

theorem State.restoreKeys_keeps (s : State) (r : BootIn) {s0 : State} (h : Keeps s0 s) :
    Keeps s0 (State.restoreKeys s r) := by
  unfold State.restoreKeys
  repeat' first
    | with_reducible assumption
    | with_reducible apply State.fault_keeps
    | (extract_lets +onlyGivenNames xl; first
        | (refine (fun (hx : Keeps s0 xl) => ?_) ?_; rotate_left; unfold xl; clear xl; rotate_left; clear_value xl; revert xl; intro yl hy)
        | (clear_value xl; revert xl; intro yl)
        | (revert xl; intro yl))
    | split
    | with_reducible apply Keeps.mk' rfl rfl rfl rfl rfl rfl rfl rfl rfl

theorem State.resumeNonce_keeps (s : State) {s0 : State} (h : Keeps s0 s) :
    Keeps s0 (State.resumeNonce s) := by
  unfold State.resumeNonce
  repeat' first
    | with_reducible assumption
    | with_reducible apply State.bump_keeps
    | (extract_lets +onlyGivenNames xl; first
        | (refine (fun (hx : Keeps s0 xl) => ?_) ?_; rotate_left; unfold xl; clear xl; rotate_left; clear_value xl; revert xl; intro yl hy)
        | (clear_value xl; revert xl; intro yl)
        | (revert xl; intro yl))
    | split
    | with_reducible apply Keeps.mk' rfl rfl rfl rfl rfl rfl rfl rfl rfl

theorem State.testCipher_keeps (s : State) (r : BootIn) {s0 : State} (h : Keeps s0 s) :
    Keeps s0 (State.testCipher s r) := by
  unfold State.testCipher
  repeat' first
    | with_reducible assumption
    | with_reducible apply State.retireLane_keeps
    | with_reducible apply State.setReg_keeps
    | with_reducible apply State.fault_keeps
    | with_reducible apply State.setUpd_keeps
    | intro _
    | (extract_lets +onlyGivenNames xl; first
        | (refine (fun (hx : Keeps s0 xl) => ?_) ?_; rotate_left; unfold xl; clear xl; rotate_left; clear_value xl; revert xl; intro yl hy)
        | (clear_value xl; revert xl; intro yl)
        | (revert xl; intro yl))
    | split
    | with_reducible apply Keeps.foldl
    | with_reducible apply Keeps.foldl_snd2
    | with_reducible apply Keeps.foldl_snd
    | with_reducible apply Keeps.foldl_fst

theorem State.testStations_keeps (s : State) (r : BootIn) {s0 : State} (h : Keeps s0 s) :
    Keeps s0 (State.testStations s r) := by
  unfold State.testStations
  repeat' first
    | with_reducible assumption
    | with_reducible apply State.setReg_keeps
    | with_reducible apply State.setSpare_keeps
    | with_reducible apply State.retireLg_keeps
    | intro _
    | (extract_lets +onlyGivenNames xl; first
        | (refine (fun (hx : Keeps s0 xl) => ?_) ?_; rotate_left; unfold xl; clear xl; rotate_left; clear_value xl; revert xl; intro yl hy))
    | split
    | with_reducible apply Keeps.foldl
    | with_reducible apply Keeps.foldl_snd2
    | with_reducible apply Keeps.foldl_snd
    | with_reducible apply Keeps.foldl_fst

theorem State.journalRollback_keeps (s : State) {s0 : State} (h : Keeps s0 s) :
    Keeps s0 (State.journalRollback s) := by
  unfold State.journalRollback
  repeat' first
    | with_reducible assumption
    | with_reducible apply State.bump_keeps
    | with_reducible apply State.cause_keeps
    | with_reducible apply State.setNvm_keeps
    | (extract_lets +onlyGivenNames xl; first
        | (clear_value xl; revert xl; intro yl)
        | (revert xl; intro yl))
    | split

theorem State.bootBegin_keeps (s : State) {s0 : State} (h : Keeps s0 s) :
    Keeps s0 (State.bootBegin s) := by
  unfold State.bootBegin
  repeat' first
    | with_reducible assumption
    | with_reducible apply State.setReg_keeps
    | with_reducible apply State.bump_keeps
    | with_reducible apply State.cause_keeps
    | with_reducible apply State.setPwr_keeps
    | with_reducible apply State.allDoms_keeps
    | with_reducible apply State.setFld_keeps
    | (extract_lets +onlyGivenNames xl; first
        | (refine (fun (hx : Keeps s0 xl) => ?_) ?_; rotate_left; unfold xl; clear xl; rotate_left; clear_value xl; revert xl; intro yl hy)
        | (clear_value xl; revert xl; intro yl)
        | (revert xl; intro yl))
    | split

theorem execBootStart_keeps (r : BootIn) (s : State) {s0 : State} (h : Keeps s0 s) :
    ∀ z, execBootStart r s = .next z → Keeps s0 z := by
  unfold execBootStart
  intro z e
  refine Keeps.of_next ?_ e
  repeat' first
    | with_reducible assumption
    | with_reducible apply State.journalRollback_keeps
    | with_reducible apply State.bootBegin_keeps
    | with_reducible apply State.setUpd_keeps
    | with_reducible apply State.testStations_keeps
    | with_reducible apply State.testCipher_keeps
    | with_reducible apply State.resumeNonce_keeps
    | with_reducible apply State.restoreKeys_keeps
    | with_reducible apply State.imageChoice_keeps
    | (extract_lets +onlyGivenNames xl; first
        | (refine (fun (hx : Keeps s0 xl) => ?_) ?_; rotate_left; unfold xl; clear xl; rotate_left; clear_value xl; revert xl; intro yl hy)
        | (clear_value xl; revert xl; intro yl)
        | (revert xl; intro yl))
    | split

theorem execBootDone_keeps (us : Nat) (s : State) {s0 : State} (h : Keeps s0 s) :
    ∀ z, execBootDone us s = .next z → Keeps s0 z := by
  unfold execBootDone
  intro z e
  refine Keeps.of_next ?_ e
  repeat' first
    | with_reducible assumption
    | with_reducible apply State.allDoms_keeps
    | with_reducible apply State.setPwr_keeps
    | with_reducible apply State.setFld_keeps
    | with_reducible apply State.setFlag_keeps
    | with_reducible apply State.healthyPin_keeps
    | with_reducible apply State.restoreDue_keeps
    | with_reducible apply State.event_keeps
    | (extract_lets +onlyGivenNames xl; first
        | (refine (fun (hx : Keeps s0 xl) => ?_) ?_; rotate_left; unfold xl; clear xl; rotate_left; clear_value xl; revert xl; intro yl hy)
        | (clear_value xl; revert xl; intro yl)
        | (revert xl; intro yl))
    | split

theorem bootCfgWrite_keeps (a0 : Page) (w : Word) (s : State) {s0 : State} (h : Keeps s0 s) :
    Keeps s0 (bootCfgWrite a0 w s) := by
  unfold bootCfgWrite
  repeat' first
    | with_reducible assumption
    | with_reducible apply State.setNvm_keeps
    | (extract_lets +onlyGivenNames xl; first
        | (refine (fun (hx : Keeps s0 xl) => ?_) ?_; rotate_left; unfold xl; clear xl; rotate_left; clear_value xl; revert xl; intro yl hy)
        | (clear_value xl; revert xl; intro yl)
        | (revert xl; intro yl))
    | split

theorem execBootSave_keeps (q : Req) (s : State) {s0 : State} (h : Keeps s0 s) :
    ∀ z, execBootSave q s = .next z → Keeps s0 z := by
  unfold execBootSave
  intro z e
  refine Keeps.of_next ?_ e
  repeat' first
    | with_reducible assumption
    | with_reducible apply writeWord_keeps
    | with_reducible apply bootCfgWrite_keeps
    | intro _

theorem execBootErase_keeps (q : Req) (s : State) {s0 : State} (h : Keeps s0 s) :
    ∀ z, execBootErase q s = .next z → Keeps s0 z := by
  unfold execBootErase
  intro z e
  refine Keeps.of_next ?_ e
  repeat' first
    | with_reducible assumption
    | with_reducible apply writeWord_keeps
    | with_reducible apply bootCfgWrite_keeps
    | intro _

theorem execBootSaveDone_keeps (s : State) {s0 : State} (h : Keeps s0 s) :
    ∀ z, execBootSaveDone s = .next z → Keeps s0 z := by
  unfold execBootSaveDone
  intro z e
  refine Keeps.of_next ?_ e
  repeat' first
    | with_reducible assumption
    | with_reducible apply State.event_keeps
    | with_reducible apply State.nvmRows_keeps
    | with_reducible apply State.setNvm_keeps
    | (extract_lets +onlyGivenNames xl; first
        | (clear_value xl; revert xl; intro yl)
        | (revert xl; intro yl))
    | split

end Sys2Proof.Machine
end

