-- ==== Sys2Proof/Laws/Keeps/Health.lean ====
section
/-! SUPPORT. That every operation of Health keeps the relation of Laws/Keeps. -/

set_option Elab.async false

namespace Sys2Proof.Machine

theorem State.rowRepair_keeps (s : State) (sbuf : Bool) (words : List Nat) {s0 : State} (h : Keeps s0 s) :
    Keeps s0 (State.rowRepair s sbuf words) := by
  unfold State.rowRepair
  repeat' first
    | with_reducible assumption
    | with_reducible apply State.bump_keeps
    | with_reducible apply State.event_keeps
    | with_reducible apply State.setFld_keeps
    | (extract_lets +onlyGivenNames xl; first
        | (refine (fun (hx : Keeps s0 xl) => ?_) ?_; rotate_left; unfold xl; clear xl; rotate_left; clear_value xl; revert xl; intro yl hy)
        | (have mm : Mem := xl; clear mm; revert xl; intro yl)
        | (clear_value xl; revert xl; intro yl)
        | (revert xl; intro yl))
    | split
    | exact Keeps.congr hy rfl rfl rfl rfl rfl rfl rfl rfl rfl
    | exact Keeps.congr h rfl rfl rfl rfl rfl rfl rfl rfl rfl

theorem execRowMarchTest_keeps (sbuf : Bool) (fail : Bool) (words : List Nat) (s : State) {s0 : State} (h : Keeps s0 s) :
    ∀ z, execRowMarchTest sbuf fail words s = .next z → Keeps s0 z := by
  unfold execRowMarchTest
  intro z e
  refine Keeps.of_next ?_ e
  repeat' first
    | with_reducible assumption
    | with_reducible apply State.rowRepair_keeps
    | split

theorem execSramScrub_keeps (corrected : Nat) (s : State) {s0 : State} (h : Keeps s0 s) :
    ∀ z, execSramScrub corrected s = .next z → Keeps s0 z := by
  unfold execSramScrub
  intro z e
  refine Keeps.of_next ?_ e
  repeat' first
    | with_reducible assumption
    | with_reducible apply State.bumpBy_keeps
    | split

theorem execDramScrub_keeps (corrected : Nat) (bad : List Nat) (s : State) {s0 : State} (h : Keeps s0 s) :
    ∀ z, execDramScrub corrected bad s = .next z → Keeps s0 z := by
  unfold execDramScrub
  intro z e
  refine Keeps.of_next ?_ e
  repeat' first
    | with_reducible assumption
    | with_reducible apply State.bumpBy_keeps
    | with_reducible apply State.scrubUncorr_keeps
    | (extract_lets +onlyGivenNames xl; first
        | (refine (fun (hx : Keeps s0 xl) => ?_) ?_; rotate_left; unfold xl; clear xl; rotate_left; clear_value xl; revert xl; intro yl hy)
        | (have mm : Mem := xl; clear mm; revert xl; intro yl))
    | split
    | exact Keeps.congr hy rfl rfl rfl rfl rfl rfl rfl rfl rfl
    | exact Keeps.congr h rfl rfl rfl rfl rfl rfl rfl rfl rfl

theorem hltCfgWrite_keeps (p : Page) (w : Word) (s : State) {s0 : State} (h : Keeps s0 s) :
    Keeps s0 (hltCfgWrite p w s) := by
  unfold hltCfgWrite
  repeat' first
    | with_reducible assumption
    | with_reducible apply State.healthyPin_keeps
    | with_reducible apply applyWrite_keeps

theorem execForceLowWrite_keeps (q : Req) (s : State) {s0 : State} (h : Keeps s0 s) :
    ∀ z, execForceLowWrite q s = .next z → Keeps s0 z := by
  unfold execForceLowWrite
  intro z e
  refine Keeps.of_next ?_ e
  repeat' first
    | with_reducible assumption
    | with_reducible apply writeWord_keeps
    | with_reducible apply hltCfgWrite_keeps
    | intro _

end Sys2Proof.Machine
end

