-- ==== Sys2Proof/Laws/Keeps/Effects.lean ====
section
/-! SUPPORT. That every operation of Effects keeps the relation of Laws/Keeps. -/

set_option Elab.async false

namespace Sys2Proof.Machine

theorem State.enableSet_keeps (a0 : State) (p : Page) {s0 : State} (h : Keeps s0 a0) :
    Keeps s0 (State.enableSet a0 p) := by
  unfold State.enableSet
  repeat' first
    | with_reducible assumption
    | with_reducible apply State.setStatus_keeps
    | with_reducible apply State.request_keeps
    | with_reducible apply State.startRoot_keeps
    | with_reducible apply State.setChan_keeps
    | with_reducible apply State.setChain_keeps
    | with_reducible apply State.pinsOn_keeps
    | with_reducible apply State.cmdioRestart_keeps
    | with_reducible apply State.electStart_keeps
    | with_reducible apply State.announce_keeps
    | with_reducible apply State.slpPlan_keeps
    | with_reducible apply State.setSlpState_keeps
    | with_reducible apply State.lgEnd_keeps
    | (extract_lets +onlyGivenNames xl; first
        | (refine (fun (hx : Keeps s0 xl) => ?_) ?_; rotate_left; unfold xl; clear xl; rotate_left; clear_value xl; revert xl; intro yl hy)
        | (clear_value xl; revert xl; intro yl)
        | (revert xl; intro yl))
    | split

theorem State.enableClear_keeps (s : State) (p : Page) {s0 : State} (h : Keeps s0 s) :
    Keeps s0 (State.enableClear s p) := by
  unfold State.enableClear
  repeat' first
    | with_reducible assumption
    | with_reducible apply State.setChan_keeps
    | with_reducible apply State.portsRemove_keeps
    | with_reducible apply State.lgEnd_keeps
    | with_reducible apply State.loseLock_keeps
    | with_reducible apply State.pinsOff_keeps
    | with_reducible apply State.cmdioRestart_keeps
    | with_reducible apply State.twnOff_keeps
    | with_reducible apply State.slpStop_keeps
    | (extract_lets +onlyGivenNames xl; first
        | (clear_value xl; revert xl; intro yl)
        | (revert xl; intro yl))
    | split

theorem execQuiescent_keeps (p : Page) (s : State) {s0 : State} (h : Keeps s0 s) :
    ∀ z, execQuiescent p s = .next z → Keeps s0 z := by
  unfold execQuiescent
  intro z e
  refine Keeps.of_next ?_ e
  repeat' first
    | with_reducible assumption
    | with_reducible apply State.setStatus_keeps
    | split

theorem State.resetRegs_keeps (s : State) (p : Page) {s0 : State} (h : Keeps s0 s) :
    Keeps s0 (State.resetRegs s p) := by
  unfold State.resetRegs
  extract_lets mine s1 s2
  have h1 : Keeps s0 s1 := h.setRegs fun hr => storeKeep_rising _ hr
  clear_value s1
  have h2 : Keeps s0 s2 := State.setReg_keeps _ _ _ _ h1
  clear_value s2
  split
  · split
    · exact h2
    · exact State.setStatus_keeps _ _ _ _ h2
  · exact h2

theorem State.abandonTest_keeps (s : State) (k : Nat) {s0 : State} (h : Keeps s0 s) :
    Keeps s0 (State.abandonTest s k) := by
  unfold State.abandonTest
  repeat' first
    | with_reducible assumption
    | with_reducible apply State.reserve_keeps
    | with_reducible apply State.setFlag_keeps
    | with_reducible apply State.setStatus_keeps
    | with_reducible apply State.setStn_keeps
    | with_reducible apply State.setService_keeps
    | with_reducible apply State.setSpare_keeps
    | intro _
    | (extract_lets +onlyGivenNames xl; first
        | (refine (fun (hx : Keeps s0 xl) => ?_) ?_; rotate_left; unfold xl; clear xl; rotate_left; clear_value xl; revert xl; intro yl hy)
        | (clear_value xl; revert xl; intro yl)
        | (revert xl; intro yl))
    | split
    | (refine Keeps.of_snd (by with_reducible assumption) ?_)
    | with_reducible apply Keeps.mk' rfl rfl rfl rfl rfl rfl rfl rfl rfl

theorem State.blockReset_keeps (s : State) (p : Page) {s0 : State} (h : Keeps s0 s) :
    Keeps s0 (State.blockReset s p) := by
  unfold State.blockReset
  repeat' first
    | with_reducible assumption
    | with_reducible apply State.abandonTest_keeps
    | with_reducible apply State.setChan_keeps
    | with_reducible apply State.flushDirect_keeps
    | with_reducible apply State.requeue_keeps
    | with_reducible apply State.setLaneIn_keeps
    | with_reducible apply State.setChain_keeps
    | with_reducible apply State.setFld_keeps
    | with_reducible apply State.setPort_keeps
    | with_reducible apply State.portsRemove_keeps
    | with_reducible apply State.setDuplex_keeps
    | with_reducible apply State.takeL4_keeps
    | with_reducible apply State.keepJobs_keeps
    | with_reducible apply State.abandonJobs_keeps
    | with_reducible apply State.twnOff_keeps
    | with_reducible apply State.pinsOff_keeps
    | with_reducible apply State.setUart_keeps
    | with_reducible apply State.cmdioRestart_keeps
    | intro _
    | (extract_lets +onlyGivenNames xl; first
        | (refine (fun (hx : Keeps s0 xl) => ?_) ?_; rotate_left; unfold xl; clear xl; rotate_left; clear_value xl; revert xl; intro yl hy)
        | (clear_value xl; revert xl; intro yl)
        | (revert xl; intro yl))
    | split
    | with_reducible apply Keeps.foldl
    | with_reducible apply Keeps.foldl_snd2
    | with_reducible apply Keeps.foldl_snd
    | with_reducible apply Keeps.foldl_fst
    | (refine Keeps.of_snd (by with_reducible assumption) ?_)
    | with_reducible apply Keeps.mk' rfl rfl rfl rfl rfl rfl rfl rfl rfl

theorem State.softBegin_keeps (s : State) (p : Page) {s0 : State} (h : Keeps s0 s) :
    Keeps s0 (State.softBegin s p) := by
  unfold State.softBegin
  repeat' first
    | with_reducible assumption
    | with_reducible apply State.blockReset_keeps
    | with_reducible apply State.resetRegs_keeps
    | (extract_lets +onlyGivenNames xl; first
        | (refine (fun (hx : Keeps s0 xl) => ?_) ?_; rotate_left; unfold xl; clear xl; rotate_left; clear_value xl; revert xl; intro yl hy))
    | split
    | with_reducible apply Keeps.mk' rfl rfl rfl rfl rfl rfl rfl rfl rfl

theorem execSoftResetDone_keeps (p : Page) (s : State) {s0 : State} (h : Keeps s0 s) :
    ∀ z, execSoftResetDone p s = .next z → Keeps s0 z := by
  unfold execSoftResetDone
  intro z e
  refine Keeps.of_next ?_ e
  repeat' first
    | with_reducible assumption
    | with_reducible apply State.setChain_keeps
    | (extract_lets +onlyGivenNames xl; first
        | (refine (fun (hx : Keeps s0 xl) => ?_) ?_; rotate_left; unfold xl; clear xl; rotate_left; clear_value xl; revert xl; intro yl hy)
        | (clear_value xl; revert xl; intro yl)
        | (revert xl; intro yl))
    | split
    | with_reducible apply Keeps.mk' rfl rfl rfl rfl rfl rfl rfl rfl rfl

theorem State.isolateSet_keeps (s : State) (p : Page) {s0 : State} (h : Keeps s0 s) :
    Keeps s0 (State.isolateSet s p) := by
  unfold State.isolateSet
  repeat' first
    | with_reducible assumption
    | with_reducible apply State.portsRemove_keeps
    | with_reducible apply State.monSilent_keeps
    | with_reducible apply State.twnIsolated_keeps
    | (extract_lets +onlyGivenNames xl; first
        | (refine (fun (hx : Keeps s0 xl) => ?_) ?_; rotate_left; unfold xl; clear xl; rotate_left; clear_value xl; revert xl; intro yl hy))
    | split
    | with_reducible apply Keeps.mk' rfl rfl rfl rfl rfl rfl rfl rfl rfl

theorem State.isolateClear_keeps (s : State) (p : Page) {s0 : State} (h : Keeps s0 s) :
    Keeps s0 (State.isolateClear s p) := by
  unfold State.isolateClear
  repeat' first
    | with_reducible assumption
    | with_reducible apply State.setChain_keeps
    | (extract_lets +onlyGivenNames xl; first
        | (refine (fun (hx : Keeps s0 xl) => ?_) ?_; rotate_left; unfold xl; clear xl; rotate_left; clear_value xl; revert xl; intro yl hy)
        | (clear_value xl; revert xl; intro yl)
        | (revert xl; intro yl))
    | split
    | with_reducible apply Keeps.mk' rfl rfl rfl rfl rfl rfl rfl rfl rfl

theorem execIsolatedTestDone_keeps (p : Page) (pass : Bool) (s : State) {s0 : State} (h : Keeps s0 s) :
    ∀ z, execIsolatedTestDone p pass s = .next z → Keeps s0 z := by
  unfold execIsolatedTestDone
  intro z e
  refine Keeps.of_next ?_ e
  repeat' first
    | with_reducible assumption
    | with_reducible apply State.bump_keeps
    | with_reducible apply State.event_keeps
    | with_reducible apply State.setReg_keeps
    | with_reducible apply State.portFault_keeps
    | with_reducible apply State.fault_keeps
    | (extract_lets +onlyGivenNames xl; first
        | (refine (fun (hx : Keeps s0 xl) => ?_) ?_; rotate_left; unfold xl; clear xl; rotate_left; clear_value xl; revert xl; intro yl hy)
        | (clear_value xl; revert xl; intro yl)
        | (revert xl; intro yl))
    | split
    | with_reducible apply Keeps.mk' rfl rfl rfl rfl rfl rfl rfl rfl rfl

theorem ctrlWrite_keeps (p : Page) (w : Word) (s : State) {s0 : State} (h : Keeps s0 s) :
    Keeps s0 (ctrlWrite p w s) := by
  unfold ctrlWrite
  repeat' first
    | with_reducible assumption
    | with_reducible apply State.setReg_keeps
    | with_reducible apply State.enableSet_keeps
    | with_reducible apply State.enableClear_keeps
    | with_reducible apply State.isolateSet_keeps
    | with_reducible apply State.isolateClear_keeps
    | with_reducible apply State.softBegin_keeps
    | (extract_lets +onlyGivenNames xl; first
        | (refine (fun (hx : Keeps s0 xl) => ?_) ?_; rotate_left; unfold xl; clear xl; rotate_left; clear_value xl; revert xl; intro yl hy)
        | (clear_value xl; revert xl; intro yl)
        | (revert xl; intro yl))
    | split

theorem eventWrite_keeps (p : Page) (w : Word) (s : State) {s0 : State} (h : Keeps s0 s) :
    Keeps s0 (eventWrite p w s) := by
  unfold eventWrite
  repeat' first
    | with_reducible assumption
    | with_reducible apply State.withEvents_keeps
    | with_reducible apply State.setReg_keeps
    | intro _

theorem eventEnWrite_keeps (p : Page) (w : Word) (s : State) {s0 : State} (h : Keeps s0 s) :
    Keeps s0 (eventEnWrite p w s) := by
  unfold eventEnWrite
  repeat' first
    | with_reducible assumption
    | with_reducible apply State.withEvents_keeps
    | with_reducible apply State.setReg_keeps
    | intro _

theorem eventSetWrite_keeps (p : Page) (w : Word) (s : State) {s0 : State} (h : Keeps s0 s) :
    Keeps s0 (eventSetWrite p w s) := by
  unfold eventSetWrite
  repeat' first
    | with_reducible assumption
    | with_reducible apply State.withEvents_keeps
    | with_reducible apply State.setReg_keeps
    | intro _

theorem faultWrite_keeps (p : Page) (w : Word) (s : State) {s0 : State} (h : Keeps s0 s) :
    Keeps s0 (faultWrite p w s) := by
  unfold faultWrite
  repeat' first
    | with_reducible assumption
    | with_reducible apply State.clearFaults_keeps

theorem cntClrWrite_keeps (p : Page) (w : Word) (s : State) {s0 : State} (h : Keeps s0 s) :
    Keeps s0 (cntClrWrite p w s) := by
  unfold cntClrWrite
  repeat' first
    | with_reducible assumption
    | with_reducible apply State.setCounter_keeps
    | with_reducible apply State.setReg_keeps
    | intro _
    | (extract_lets +onlyGivenNames xl; first
        | (clear_value xl; revert xl; intro yl)
        | (revert xl; intro yl))
    | split
    | with_reducible apply Keeps.foldl
    | with_reducible apply Keeps.foldl_snd2
    | with_reducible apply Keeps.foldl_snd
    | with_reducible apply Keeps.foldl_fst

theorem headerEffect_keeps (p : Page) (off : Nat) (a2 : Word) (a3 : State) {s0 : State} (h : Keeps s0 a3) :
    Keeps s0 (headerEffect p off a2 a3) := by
  unfold headerEffect
  repeat' first
    | with_reducible assumption
    | with_reducible apply ctrlWrite_keeps
    | with_reducible apply eventWrite_keeps
    | with_reducible apply eventEnWrite_keeps
    | with_reducible apply eventSetWrite_keeps
    | with_reducible apply faultWrite_keeps
    | with_reducible apply cntClrWrite_keeps
    | split

theorem acceptWrite_keeps (off : Nat) (p : Page) (w : Word) (s : State) {s0 : State} (h : Keeps s0 s) :
    Keeps s0 (acceptWrite off p w s) := by
  unfold acceptWrite
  repeat' first
    | with_reducible assumption
    | with_reducible apply State.setFlag_keeps
    | with_reducible apply State.setReg_keeps
    | split

theorem lockWrite_keeps (a0 : Page) (w : Word) (s : State) {s0 : State} (h : Keeps s0 s) :
    Keeps s0 (lockWrite a0 w s) := by
  unfold lockWrite
  repeat' first
    | with_reducible assumption
    | with_reducible apply State.setFlag_keeps
    | with_reducible apply State.healthyPin_keeps
    | (extract_lets +onlyGivenNames xl; first
        | (clear_value xl; revert xl; intro yl)
        | (revert xl; intro yl))
    | split

theorem violClrWrite_keeps (a0 : Page) (w : Word) (s : State) {s0 : State} (h : Keeps s0 s) :
    Keeps s0 (violClrWrite a0 w s) := by
  unfold violClrWrite
  repeat' first
    | with_reducible assumption
    | with_reducible apply State.setReg_keeps
    | (extract_lets +onlyGivenNames xl; first
        | (refine (fun (hx : Keeps s0 xl) => ?_) ?_; rotate_left; unfold xl; clear xl; rotate_left; clear_value xl; revert xl; intro yl hy))
    | split
    | with_reducible apply Keeps.mk' rfl rfl rfl rfl rfl rfl rfl rfl rfl

theorem routeWrite_keeps (off : Nat) (p : Page) (w : Word) (s : State) {s0 : State} (h : Keeps s0 s) :
    Keeps s0 (routeWrite off p w s) := by
  unfold routeWrite
  repeat' first
    | with_reducible assumption
    | with_reducible apply applyWrite_keeps
    | with_reducible apply State.msix_keeps
    | intro _
    | (extract_lets +onlyGivenNames xl; first
        | (refine (fun (hx : Keeps s0 xl) => ?_) ?_; rotate_left; unfold xl; clear xl; rotate_left; clear_value xl; revert xl; intro yl hy))
    | split
    | with_reducible apply Keeps.foldl
    | with_reducible apply Keeps.foldl_snd2
    | with_reducible apply Keeps.foldl_snd
    | with_reducible apply Keeps.foldl_fst

theorem devEffect_keeps (off : Nat) (a1 : Page) (a2 : Word) (a3 : State) {s0 : State} (h : Keeps s0 a3) :
    Keeps s0 (devEffect off a1 a2 a3) := by
  unfold devEffect
  repeat' first
    | with_reducible assumption
    | with_reducible apply acceptWrite_keeps
    | with_reducible apply lockWrite_keeps
    | with_reducible apply violClrWrite_keeps
    | with_reducible apply routeWrite_keeps
    | with_reducible apply applyWrite_keeps
    | split

theorem chEffect_keeps (c : Fin 64) (e : AccEnv) (off : Nat) (p : Page) (w : Word) (s : State) {s0 : State} (h : Keeps s0 s) :
    Keeps s0 (chEffect c e off p w s) := by
  unfold chEffect
  repeat' first
    | with_reducible assumption
    | with_reducible apply chProposeWrite_keeps
    | with_reducible apply linkSelWrite_keeps
    | with_reducible apply tmapOvfWrite_keeps
    | with_reducible apply State.request_keeps
    | with_reducible apply applyWrite_keeps
    | intro _
    | (extract_lets +onlyGivenNames xl; first
        | (refine (fun (hx : Keeps s0 xl) => ?_) ?_; rotate_left; unfold xl; clear xl; rotate_left; clear_value xl; revert xl; intro yl hy)
        | (clear_value xl; revert xl; intro yl)
        | (revert xl; intro yl))
    | split
    | (refine Keeps.of_snd (by with_reducible assumption) ?_)
    | with_reducible apply Keeps.mk' rfl rfl rfl rfl rfl rfl rfl rfl rfl

theorem tntVecWrite_keeps (t : Fin 8) (p : Page) (w : Word) (s : State) {s0 : State} (h : Keeps s0 s) :
    Keeps s0 (tntVecWrite t p w s) := by
  unfold tntVecWrite
  repeat' first
    | with_reducible assumption
    | with_reducible apply State.withVec_keeps
    | with_reducible apply applyWrite_keeps
    | intro _

theorem pageEffect_keeps (q : Req) (e : AccEnv) (off : Nat) (p : Page) (a4 : Word) (a5 : State) {s0 : State} (h : Keeps s0 a5) :
    Keeps s0 (pageEffect q e off p a4 a5) := by
  unfold pageEffect
  repeat' first
    | with_reducible assumption
    | with_reducible apply headerEffect_keeps
    | with_reducible apply devEffect_keeps
    | with_reducible apply pwrEffect_keeps
    | with_reducible apply rstCmdWrite_keeps
    | with_reducible apply bootCfgWrite_keeps
    | with_reducible apply applyWrite_keeps
    | with_reducible apply nvmReadWrite_keeps
    | with_reducible apply updEffect_keeps
    | with_reducible apply npEffect_keeps
    | with_reducible apply wpEffect_keeps
    | with_reducible apply decIterWrite_keeps
    | with_reducible apply stnTestWrite_keeps
    | with_reducible apply schEffect_keeps
    | with_reducible apply figNextWrite_keeps
    | with_reducible apply State.fwdLeft_keeps
    | with_reducible apply rteCmdWrite_keeps
    | with_reducible apply dirCmdWrite_keeps
    | with_reducible apply seenEffect_keeps
    | with_reducible apply slpEffect_keeps
    | with_reducible apply tntEffect_keeps
    | with_reducible apply tntVecWrite_keeps
    | with_reducible apply tpageEffect_keeps
    | with_reducible apply dbSqWrite_keeps
    | with_reducible apply dbCqWrite_keeps
    | with_reducible apply sqCfgWrite_keeps
    | with_reducible apply cqCfgWrite_keeps
    | with_reducible apply crDbSqWrite_keeps
    | with_reducible apply crDbCqWrite_keeps
    | with_reducible apply keyEffect_keeps
    | with_reducible apply cphEffect_keeps
    | with_reducible apply entEffect_keeps
    | with_reducible apply twnEffect_keeps
    | with_reducible apply hltCfgWrite_keeps
    | with_reducible apply monEffect_keeps
    | with_reducible apply State.lgEnd_keeps
    | with_reducible apply hstEffect_keeps
    | with_reducible apply cntEffect_keeps
    | with_reducible apply uartEffect_keeps
    | with_reducible apply pmxEffect_keeps
    | with_reducible apply cmdioEffect_keeps
    | with_reducible apply chEffect_keeps
    | split

theorem execEnableSet_keeps (q : Req) (p : Page) (s : State) {s0 : State} (h : Keeps s0 s) :
    ∀ z, execEnableSet q p s = .next z → Keeps s0 z := by
  unfold execEnableSet
  intro z e
  refine Keeps.of_next ?_ e
  repeat' first
    | with_reducible assumption
    | with_reducible apply writeWord_keeps
    | with_reducible apply ctrlWrite_keeps
    | intro _

theorem execEnableClear_keeps (q : Req) (p : Page) (s : State) {s0 : State} (h : Keeps s0 s) :
    ∀ z, execEnableClear q p s = .next z → Keeps s0 z := by
  unfold execEnableClear
  intro z e
  refine Keeps.of_next ?_ e
  repeat' first
    | with_reducible assumption
    | with_reducible apply writeWord_keeps
    | with_reducible apply ctrlWrite_keeps
    | intro _

theorem execSreset_keeps (q : Req) (p : Page) (s : State) {s0 : State} (h : Keeps s0 s) :
    ∀ z, execSreset q p s = .next z → Keeps s0 z := by
  unfold execSreset
  intro z e
  refine Keeps.of_next ?_ e
  repeat' first
    | with_reducible assumption
    | with_reducible apply writeWord_keeps
    | with_reducible apply ctrlWrite_keeps
    | intro _

theorem execTestIsolate_keeps (q : Req) (p : Page) (s : State) {s0 : State} (h : Keeps s0 s) :
    ∀ z, execTestIsolate q p s = .next z → Keeps s0 z := by
  unfold execTestIsolate
  intro z e
  refine Keeps.of_next ?_ e
  repeat' first
    | with_reducible assumption
    | with_reducible apply writeWord_keeps
    | with_reducible apply ctrlWrite_keeps
    | intro _

theorem execPgEventClear_keeps (q : Req) (p : Page) (s : State) {s0 : State} (h : Keeps s0 s) :
    ∀ z, execPgEventClear q p s = .next z → Keeps s0 z := by
  unfold execPgEventClear
  intro z e
  refine Keeps.of_next ?_ e
  repeat' first
    | with_reducible assumption
    | with_reducible apply writeWord_keeps
    | with_reducible apply eventWrite_keeps
    | intro _

theorem execPgEventEnWrite_keeps (q : Req) (p : Page) (s : State) {s0 : State} (h : Keeps s0 s) :
    ∀ z, execPgEventEnWrite q p s = .next z → Keeps s0 z := by
  unfold execPgEventEnWrite
  intro z e
  refine Keeps.of_next ?_ e
  repeat' first
    | with_reducible assumption
    | with_reducible apply writeWord_keeps
    | with_reducible apply eventEnWrite_keeps
    | intro _

theorem execPgEventSet_keeps (q : Req) (p : Page) (s : State) {s0 : State} (h : Keeps s0 s) :
    ∀ z, execPgEventSet q p s = .next z → Keeps s0 z := by
  unfold execPgEventSet
  intro z e
  refine Keeps.of_next ?_ e
  repeat' first
    | with_reducible assumption
    | with_reducible apply writeWord_keeps
    | with_reducible apply eventSetWrite_keeps
    | intro _

theorem execPgFaultClear_keeps (q : Req) (p : Page) (s : State) {s0 : State} (h : Keeps s0 s) :
    ∀ z, execPgFaultClear q p s = .next z → Keeps s0 z := by
  unfold execPgFaultClear
  intro z e
  refine Keeps.of_next ?_ e
  repeat' first
    | with_reducible assumption
    | with_reducible apply writeWord_keeps
    | with_reducible apply faultWrite_keeps
    | intro _

theorem execCntClr_keeps (q : Req) (p : Page) (s : State) {s0 : State} (h : Keeps s0 s) :
    ∀ z, execCntClr q p s = .next z → Keeps s0 z := by
  unfold execCntClr
  intro z e
  refine Keeps.of_next ?_ e
  repeat' first
    | with_reducible assumption
    | with_reducible apply writeWord_keeps
    | with_reducible apply cntClrWrite_keeps
    | intro _

theorem execEventRouteChange_keeps (q : Req) (k : Fin 20) (s : State) {s0 : State} (h : Keeps s0 s) :
    ∀ z, execEventRouteChange q k s = .next z → Keeps s0 z := by
  unfold execEventRouteChange
  intro z e
  refine Keeps.of_next ?_ e
  repeat' first
    | with_reducible assumption
    | with_reducible apply writeWord_keeps
    | with_reducible apply routeWrite_keeps
    | intro _

theorem execFeatAcceptWrite_keeps (q : Req) (k : Fin 4) (s : State) {s0 : State} (h : Keeps s0 s) :
    ∀ z, execFeatAcceptWrite q k s = .next z → Keeps s0 z := by
  unfold execFeatAcceptWrite
  intro z e
  refine Keeps.of_next ?_ e
  repeat' first
    | with_reducible assumption
    | with_reducible apply writeWord_keeps
    | with_reducible apply acceptWrite_keeps
    | intro _

theorem execFeatLock_keeps (q : Req) (s : State) {s0 : State} (h : Keeps s0 s) :
    ∀ z, execFeatLock q s = .next z → Keeps s0 z := by
  unfold execFeatLock
  intro z e
  refine Keeps.of_next ?_ e
  repeat' first
    | with_reducible assumption
    | with_reducible apply writeWord_keeps
    | with_reducible apply lockWrite_keeps
    | intro _

theorem execViolClr_keeps (q : Req) (s : State) {s0 : State} (h : Keeps s0 s) :
    ∀ z, execViolClr q s = .next z → Keeps s0 z := by
  unfold execViolClr
  intro z e
  refine Keeps.of_next ?_ e
  repeat' first
    | with_reducible assumption
    | with_reducible apply writeWord_keeps
    | with_reducible apply violClrWrite_keeps
    | intro _

end Sys2Proof.Machine
end

