-- ==== Sys2Proof/Laws/Keeps/Access.lean ====
section
/-! SUPPORT. That every operation of Access keeps the relation of Laws/Keeps. -/

set_option Elab.async false

namespace Sys2Proof.Machine

theorem State.qmemWindowRead_keeps (s : State) (a : Nat) (bad : Bool) {s0 : State} (h : Keeps s0 s) :
    Keeps s0 (State.qmemWindowRead s a bad).2.2 := by
  unfold State.qmemWindowRead
  repeat' first
    | with_reducible assumption
    | with_reducible apply State.tenFault_keeps
    | with_reducible apply State.fault_keeps
    | (extract_lets +onlyGivenNames xl; first
        | (refine (fun (hx : Keeps s0 xl) => ?_) ?_; rotate_left; unfold xl; clear xl; rotate_left; clear_value xl; revert xl; intro yl hy)
        | (have mm : Mem := xl; clear mm; revert xl; intro yl)
        | (clear_value xl; revert xl; intro yl)
        | (revert xl; intro yl))
    | split
    | exact Keeps.congr hy rfl rfl rfl rfl rfl rfl rfl rfl rfl
    | exact Keeps.congr h rfl rfl rfl rfl rfl rfl rfl rfl rfl

theorem State.qmemWindowWrite_keeps (s : State) (a : Nat) (w : Word) {s0 : State} (h : Keeps s0 s) :
    Keeps s0 (State.qmemWindowWrite s a w) := by
  refine h.setMem fun hm => ?_
  rw [Mem.wf_iff] at hm ⊢
  exact ⟨storePutList_wf _ hm.1, hm.2⟩

theorem State.dirWindowRead_keeps (s : State) (a : Nat) (bad : Bool) {s0 : State} (h : Keeps s0 s) :
    Keeps s0 (State.dirWindowRead s a bad).2.2 := by
  unfold State.dirWindowRead
  repeat' first
    | with_reducible assumption
    | with_reducible apply State.fault_keeps
    | (extract_lets +onlyGivenNames xl; first
        | (refine (fun (hx : Keeps s0 xl) => ?_) ?_; rotate_left; unfold xl; clear xl; rotate_left; clear_value xl; revert xl; intro yl hy)
        | (have mm : Mem := xl; clear mm; revert xl; intro yl)
        | (clear_value xl; revert xl; intro yl)
        | (revert xl; intro yl))
    | split
    | exact Keeps.congr hy rfl rfl rfl rfl rfl rfl rfl rfl rfl
    | exact Keeps.congr h rfl rfl rfl rfl rfl rfl rfl rfl rfl

theorem State.dirWindowWrite_keeps (s : State) (a : Nat) (w : Word) {s0 : State} (h : Keeps s0 s) :
    Keeps s0 (State.dirWindowWrite s a w) := by
  unfold State.dirWindowWrite
  split
  · exact h
  refine State.quotas_keeps _ (h.setMem fun hm => ?_)
  rw [Mem.wf_iff] at hm ⊢
  exact ⟨hm.1, storePutList_wf _ hm.2.1, hm.2.2⟩

theorem State.slotValue_keeps (s : State) (w : Win) (i : Nat) (bad : Bool) {s0 : State} (h : Keeps s0 s) :
    Keeps s0 (State.slotValue s w i bad).2 := by
  unfold State.slotValue
  repeat' first
    | with_reducible assumption
    | with_reducible apply State.freeNat_keeps
    | intro _
    | (extract_lets +onlyGivenNames xl; first
        | (refine (fun (hx : Keeps s0 xl) => ?_) ?_; rotate_left; unfold xl; clear xl; rotate_left; clear_value xl; revert xl; intro yl hy)
        | (refine (fun (hx : Keeps s0 xl.2) => ?_) ?_; rotate_left; unfold xl; clear xl; rotate_left; clear_value xl; revert xl; intro yl hy)
        | (clear_value xl; revert xl; intro yl)
        | (revert xl; intro yl))
    | split
    | (refine Keeps.of_snd (by with_reducible assumption) ?_)
    | with_reducible apply Keeps.mk' rfl rfl rfl rfl rfl rfl rfl rfl rfl

theorem State.pairedRead_keeps (s : State) (fn : Fn) (key : Nat) (place : Nat) (three : Bool) (now : Nat → Word) {s0 : State} (h : Keeps s0 s) :
    Keeps s0 (State.pairedRead s fn key place three now).2 := by
  unfold State.pairedRead
  repeat' first
    | with_reducible assumption
    | with_reducible apply State.setLatch_keeps
    | (extract_lets +onlyGivenNames xl; first
        | (clear_value xl; revert xl; intro yl)
        | (revert xl; intro yl))
    | split

theorem State.readReg_keeps (s : State) (fn : Fn) (serial : Bool) (bad : Bool) (p : Page) (off : Nat) {s0 : State} (h : Keeps s0 s) :
    Keeps s0 (State.readReg s fn serial bad p off).2.2 := by
  unfold State.readReg
  repeat' first
    | with_reducible assumption
    | with_reducible apply State.pairedRead_keeps
    | with_reducible apply entRandRead_keeps
    | with_reducible apply monDataRead_keeps
    | with_reducible apply State.setLatch_keeps
    | with_reducible apply gpioRead_keeps
    | with_reducible apply uartRxdRead_keeps
    | intro _
    | (extract_lets +onlyGivenNames xl; first
        | (refine (fun (hx : Keeps s0 xl) => ?_) ?_; rotate_left; unfold xl; clear xl; rotate_left; clear_value xl; revert xl; intro yl hy)
        | (refine (fun (hx : Keeps s0 xl.2) => ?_) ?_; rotate_left; unfold xl; clear xl; rotate_left; clear_value xl; revert xl; intro yl hy)
        | (clear_value xl; revert xl; intro yl)
        | (revert xl; intro yl))
    | split
    | (refine Keeps.of_snd (by with_reducible assumption) ?_)
    | with_reducible apply Keeps.mk' rfl rfl rfl rfl rfl rfl rfl rfl rfl

theorem State.readWin_keeps (s : State) (fn : Fn) (bad : Bool) (w : Win) (off : Nat) (addr : Nat) {s0 : State} (h : Keeps s0 s) :
    Keeps s0 (State.readWin s fn bad w off addr).2.2 := by
  unfold State.readWin
  repeat' first
    | with_reducible assumption
    | with_reducible apply State.setLatch_keeps
    | with_reducible apply State.qmemWindowRead_keeps
    | with_reducible apply State.dirWindowRead_keeps
    | with_reducible apply State.slotValue_keeps
    | with_reducible apply State.pairedRead_keeps
    | (extract_lets +onlyGivenNames xl; first
        | (refine (fun (hx : Keeps s0 xl) => ?_) ?_; rotate_left; unfold xl; clear xl; rotate_left; clear_value xl; revert xl; intro yl hy)
        | (refine (fun (hx : Keeps s0 xl.2) => ?_) ?_; rotate_left; unfold xl; clear xl; rotate_left; clear_value xl; revert xl; intro yl hy))
    | split
    | (refine Keeps.of_snd (by with_reducible assumption) ?_)
    | (refine Keeps.of_snd2 (by with_reducible assumption) ?_)

theorem State.readAt_keeps (s : State) (serial : Bool) (barred : Bool) (bad : Bool) (be : BitVec 4) (x : Target) {s0 : State} (h : Keeps s0 s) :
    Keeps s0 (State.readAt s serial barred bad be x).2.2 := by
  have hr : ∀ k, Keeps s0 ((s.touch (x.fn serial)).violation (x.fn serial) (x.addr serial) k false be) := fun k =>
    State.violation_keeps _ _ _ _ _ _ (State.touch_keeps _ _ h)
  have ht := State.touch_keeps s (x.fn serial) h
  have he := State.endIdle_keeps s h
  cases x <;> unfold State.readAt <;> dsimp only <;> split
  · exact hr 1
  · split
    · exact State.readReg_keeps _ _ _ _ _ _ he
    · exact ht
    · exact hr _
  · exact hr 1
  · split
    · exact State.readWin_keeps _ _ _ _ _ _ he
    · exact ht
    · exact hr _
  · exact hr 1
  · exact ht

theorem State.writeAt_keeps (s : State) (barred : Bool) (q : Req) (e : AccEnv) (x : Target) {s0 : State} (h : Keeps s0 s) :
    Keeps s0 (State.writeAt s barred q e x) := by
  unfold State.writeAt
  repeat' first
    | with_reducible assumption
    | with_reducible apply State.touch_keeps
    | with_reducible apply State.violation_keeps
    | with_reducible apply pageEffect_keeps
    | with_reducible apply State.qmemWindowWrite_keeps
    | with_reducible apply State.dirWindowWrite_keeps
    | intro _
    | with_reducible apply hg
    | with_reducible apply hg1
    | with_reducible apply hg2
    | (extract_lets +onlyGivenNames xl; first
        | (refine (fun (hx : Keeps s0 xl) => ?_) ?_; rotate_left; unfold xl; clear xl; rotate_left; clear_value xl; revert xl; intro yl hy)
        | (refine (fun (hx : ∀ t, Keeps s0 t → Keeps s0 (xl t)) => ?_) ?_; rotate_left; unfold xl; clear xl; rotate_left; clear_value xl; revert xl; intro yg hg1)
        | (refine (fun (hx : ∀ t a, Keeps s0 t → Keeps s0 (xl t a)) => ?_) ?_; rotate_left; unfold xl; clear xl; rotate_left; clear_value xl; revert xl; intro yg hg2)
        | (refine (fun (hx : ∀ t a b, Keeps s0 t → Keeps s0 (xl t a b)) => ?_) ?_; rotate_left; unfold xl; clear xl; rotate_left; clear_value xl; revert xl; intro yg hg)
        | (refine (fun (hx : ∀ t a b c, Keeps s0 t → Keeps s0 (xl t a b c)) => ?_) ?_; rotate_left; unfold xl; clear xl; rotate_left; clear_value xl; revert xl; intro yg hg)
        | (refine (fun (hx : ∀ a, Keeps s0 (xl a)) => ?_) ?_; rotate_left; unfold xl; clear xl; rotate_left; clear_value xl; revert xl; intro yg hg)
        | (refine (fun (hx : ∀ a b, Keeps s0 (xl a b)) => ?_) ?_; rotate_left; unfold xl; clear xl; rotate_left; clear_value xl; revert xl; intro yg hg)
        | (clear_value xl; revert xl; intro yl)
        | (revert xl; intro yl))
    | split

theorem State.accessRead_keeps (s : State) (q : RdReq) (bad : Bool) (l : Loc) {s0 : State} (h : Keeps s0 s) :
    Keeps s0 (State.accessRead s q bad l) := by
  unfold State.accessRead
  repeat' first
    | with_reducible assumption
    | with_reducible apply State.emit_keeps
    | with_reducible apply State.readAt_keeps
    | (extract_lets +onlyGivenNames xl; first
        | (refine (fun (hx : Keeps s0 xl.2.2) => ?_) ?_; rotate_left; unfold xl; clear xl; rotate_left; clear_value xl; revert xl; intro yl hy))
    | split
    | (refine Keeps.of_snd2 (by with_reducible assumption) ?_)

theorem execPairedLowRead_keeps (q : RdReq) (l : Loc) (bad : Bool) (s : State) {s0 : State} (h : Keeps s0 s) :
    ∀ z, execPairedLowRead q l bad s = .next z → Keeps s0 z := by
  unfold execPairedLowRead
  intro z e
  refine Keeps.of_next ?_ e
  repeat' first
    | with_reducible assumption
    | with_reducible apply State.accessRead_keeps

theorem execPairedHighRead_keeps (q : RdReq) (l : Loc) (bad : Bool) (s : State) {s0 : State} (h : Keeps s0 s) :
    ∀ z, execPairedHighRead q l bad s = .next z → Keeps s0 z := by
  unfold execPairedHighRead
  intro z e
  refine Keeps.of_next ?_ e
  repeat' first
    | with_reducible assumption
    | with_reducible apply State.accessRead_keeps

theorem execWriteRegister_keeps (q : Req) (l : Loc) (e : AccEnv) (s : State) {s0 : State} (h : Keeps s0 s) :
    ∀ z, execWriteRegister q l e s = .next z → Keeps s0 z := by
  unfold execWriteRegister
  intro z e
  refine Keeps.of_next ?_ e
  repeat' first
    | with_reducible assumption
    | with_reducible apply State.emit_keeps
    | with_reducible apply State.writeAt_keeps
    | split

end Sys2Proof.Machine
end

