-- ==== Sys2Proof/Laws/Keeps/SlotEnd.lean ====
section
/-! SUPPORT. That every operation of SlotEnd keeps the relation of Laws/Keeps. -/

set_option Elab.async false

namespace Sys2Proof.Machine

theorem State.portEnd_keeps (s : State) (x : PortSlot) {s0 : State} (h : Keeps s0 s) :
    Keeps s0 (State.portEnd s x) := by
  unfold State.portEnd
  repeat' first
    | with_reducible assumption
    | with_reducible apply State.bump_keeps
    | with_reducible apply State.portSlotEnd_keeps
    | intro _
    | (extract_lets +onlyGivenNames xl; first
        | (refine (fun (hx : Keeps s0 xl) => ?_) ?_; rotate_left; unfold xl; clear xl; rotate_left; clear_value xl; revert xl; intro yl hy)
        | (clear_value xl; revert xl; intro yl)
        | (revert xl; intro yl))
    | split
    | (refine Keeps.of_snd (by with_reducible assumption) ?_)
    | with_reducible apply Keeps.mk' rfl rfl rfl rfl rfl rfl rfl rfl rfl

theorem State.probesEnd_keeps (s : State) {s0 : State} (h : Keeps s0 s) :
    Keeps s0 (State.probesEnd s) := by
  unfold State.probesEnd
  repeat' first
    | with_reducible assumption
    | with_reducible apply State.stopPort_keeps
    | intro _
    | split
    | with_reducible apply Keeps.foldl
    | with_reducible apply Keeps.foldl_snd2
    | with_reducible apply Keeps.foldl_snd
    | with_reducible apply Keeps.foldl_fst
    | with_reducible apply Keeps.mk' rfl rfl rfl rfl rfl rfl rfl rfl rfl

theorem State.quietEnd_keeps (s : State) (c : Nat) (l : List Samples) {s0 : State} (h : Keeps s0 s) :
    Keeps s0 (State.quietEnd s c l) := by
  unfold State.quietEnd
  repeat' first
    | with_reducible assumption
    | with_reducible apply State.quietLearn_keeps
    | with_reducible apply State.quietSkip_keeps
    | intro _
    | (extract_lets +onlyGivenNames xl; first
        | (refine (fun (hx : Keeps s0 xl) => ?_) ?_; rotate_left; unfold xl; clear xl; rotate_left; clear_value xl; revert xl; intro yl hy)
        | (clear_value xl; revert xl; intro yl)
        | (revert xl; intro yl))
    | split
    | with_reducible apply Keeps.foldl
    | with_reducible apply Keeps.foldl_snd2
    | with_reducible apply Keeps.foldl_snd
    | with_reducible apply Keeps.foldl_fst
    | (refine Keeps.of_snd (by with_reducible assumption) ?_)
    | with_reducible apply Keeps.mk' rfl rfl rfl rfl rfl rfl rfl rfl rfl

theorem State.echoSeen_keeps (s : State) (e : EchoMeas) {s0 : State} (h : Keeps s0 s) :
    Keeps s0 (State.echoSeen s e) := by
  unfold State.echoSeen
  repeat' first
    | with_reducible assumption
    | intro _
    | (extract_lets +onlyGivenNames xl; first
        | (refine (fun (hx : Keeps s0 xl) => ?_) ?_; rotate_left; unfold xl; clear xl; rotate_left; clear_value xl; revert xl; intro yl hy)
        | (clear_value xl; revert xl; intro yl)
        | (revert xl; intro yl))
    | split
    | (refine Keeps.of_snd (by with_reducible assumption) ?_)
    | with_reducible apply Keeps.mk' rfl rfl rfl rfl rfl rfl rfl rfl rfl

theorem State.echoTest_keeps (s : State) (e : EchoMeas) {s0 : State} (h : Keeps s0 s) :
    Keeps s0 (State.echoTest s e) := by
  unfold State.echoTest
  repeat' first
    | with_reducible assumption
    | with_reducible apply State.proposeLinks_keeps
    | with_reducible apply State.setChan_keeps
    | with_reducible apply State.echoSeen_keeps
    | intro _
    | (extract_lets +onlyGivenNames xl; first
        | (refine (fun (hx : Keeps s0 xl) => ?_) ?_; rotate_left; unfold xl; clear xl; rotate_left; clear_value xl; revert xl; intro yl hy)
        | (clear_value xl; revert xl; intro yl)
        | (revert xl; intro yl))
    | split
    | (refine Keeps.of_snd (by with_reducible assumption) ?_)
    | with_reducible apply Keeps.mk' rfl rfl rfl rfl rfl rfl rfl rfl rfl

theorem State.mirrorTaps_keeps (s : State) (c : Nat) {s0 : State} (h : Keeps s0 s) :
    Keeps s0 (State.mirrorTaps s c) := by
  unfold State.mirrorTaps
  repeat' first
    | with_reducible assumption
    | with_reducible apply State.emit_keeps
    | with_reducible apply State.bump_keeps
    | intro _
    | (extract_lets +onlyGivenNames xl; first
        | (refine (fun (hx : Keeps s0 xl) => ?_) ?_; rotate_left; unfold xl; clear xl; rotate_left; clear_value xl; revert xl; intro yl hy)
        | (clear_value xl; revert xl; intro yl)
        | (revert xl; intro yl))
    | split
    | (refine Keeps.of_snd (by with_reducible assumption) ?_)
    | with_reducible apply Keeps.mk' rfl rfl rfl rfl rfl rfl rfl rfl rfl

theorem State.frameEnded_keeps (s : State) (c : Nat) (e : Nat) (f : Frame) {s0 : State} (h : Keeps s0 s) :
    Keeps s0 (State.frameEnded s c e f) := by
  unfold State.frameEnded
  repeat' first
    | with_reducible assumption
    | with_reducible apply State.delFrame_keeps
    | with_reducible apply State.putFrame_keeps
    | with_reducible apply State.segHanded_keeps
    | with_reducible apply State.annAcked_keeps
    | (extract_lets +onlyGivenNames xl; first
        | (refine (fun (hx : Keeps s0 xl) => ?_) ?_; rotate_left; unfold xl; clear xl; rotate_left; clear_value xl; revert xl; intro yl hy)
        | (clear_value xl; revert xl; intro yl)
        | (revert xl; intro yl))
    | split

theorem State.txEnd_keeps (s : State) (c : Nat) (x : Tx) {s0 : State} (h : Keeps s0 s) :
    Keeps s0 (State.txEnd s c x) := by
  unfold State.txEnd
  repeat' first
    | with_reducible assumption
    | with_reducible apply State.setChan_keeps
    | with_reducible apply State.setFlag_keeps
    | with_reducible apply State.stopPort_keeps
    | with_reducible apply State.symbolCut_keeps
    | with_reducible apply State.frameEnded_keeps
    | intro _
    | (extract_lets +onlyGivenNames xl; first
        | (refine (fun (hx : Keeps s0 xl) => ?_) ?_; rotate_left; unfold xl; clear xl; rotate_left; clear_value xl; revert xl; intro yl hy)
        | (clear_value xl; revert xl; intro yl)
        | (revert xl; intro yl))
    | split
    | with_reducible apply Keeps.foldl
    | with_reducible apply Keeps.foldl_snd2
    | with_reducible apply Keeps.foldl_snd
    | with_reducible apply Keeps.foldl_fst
    | (refine Keeps.of_snd (by with_reducible assumption) ?_)
    | with_reducible apply Keeps.mk' rfl rfl rfl rfl rfl rfl rfl rfl rfl

theorem State.chanEnd_keeps (s : State) (c : Nat) {s0 : State} (h : Keeps s0 s) :
    Keeps s0 (State.chanEnd s c) := by
  unfold State.chanEnd
  repeat' first
    | with_reducible assumption
    | with_reducible apply State.setChan_keeps
    | with_reducible apply State.bump_keeps
    | with_reducible apply State.deferContend_keeps
    | with_reducible apply State.txEnd_keeps
    | intro _
    | (extract_lets +onlyGivenNames xl; first
        | (refine (fun (hx : Keeps s0 xl) => ?_) ?_; rotate_left; unfold xl; clear xl; rotate_left; clear_value xl; revert xl; intro yl hy)
        | (clear_value xl; revert xl; intro yl)
        | (revert xl; intro yl))
    | split
    | (refine Keeps.of_snd (by with_reducible assumption) ?_)
    | with_reducible apply Keeps.mk' rfl rfl rfl rfl rfl rfl rfl rfl rfl

theorem State.reelHeard_keeps (s : State) {s0 : State} (h : Keeps s0 s) :
    Keeps s0 (State.reelHeard s) := by
  unfold State.reelHeard
  repeat' first
    | with_reducible assumption
    | (extract_lets +onlyGivenNames xl; first
        | (clear_value xl; revert xl; intro yl)
        | (revert xl; intro yl))
    | split
    | with_reducible apply Keeps.mk' rfl rfl rfl rfl rfl rfl rfl rfl rfl

theorem State.stayEnd_keeps (s : State) {s0 : State} (h : Keeps s0 s) :
    Keeps s0 (State.stayEnd s) := by
  unfold State.stayEnd
  repeat' first
    | with_reducible assumption
    | with_reducible apply State.setSlp_keeps
    | (extract_lets +onlyGivenNames xl; first
        | (clear_value xl; revert xl; intro yl)
        | (revert xl; intro yl))
    | split

theorem State.claimTick_keeps (s : State) {s0 : State} (h : Keeps s0 s) :
    Keeps s0 (State.claimTick s) := by
  unfold State.claimTick
  repeat' first
    | with_reducible assumption
    | (extract_lets +onlyGivenNames xl; first
        | (clear_value xl; revert xl; intro yl)
        | (revert xl; intro yl))
    | split
    | with_reducible apply Keeps.mk' rfl rfl rfl rfl rfl rfl rfl rfl rfl

theorem State.slotEnd_keeps (s : State) (x : SlotIn) {s0 : State} (h : Keeps s0 s) :
    Keeps s0 (State.slotEnd s x) := by
  unfold State.slotEnd
  repeat' first
    | with_reducible assumption
    | with_reducible apply State.addEnergy_keeps
    | with_reducible apply State.impMeasure_keeps
    | with_reducible apply State.noiseFrom_keeps
    | with_reducible apply State.portEnd_keeps
    | with_reducible apply State.probesEnd_keeps
    | with_reducible apply State.quietEnd_keeps
    | with_reducible apply State.echoTest_keeps
    | with_reducible apply State.mirrorTaps_keeps
    | with_reducible apply State.chanEnd_keeps
    | with_reducible apply State.reelHeard_keeps
    | with_reducible apply State.stayEnd_keeps
    | with_reducible apply State.claimTick_keeps
    | with_reducible apply State.slew_keeps
    | with_reducible apply State.rootSlot_keeps
    | intro _
    | (extract_lets +onlyGivenNames xl; first
        | (refine (fun (hx : Keeps s0 xl) => ?_) ?_; rotate_left; unfold xl; clear xl; rotate_left; clear_value xl; revert xl; intro yl hy)
        | (clear_value xl; revert xl; intro yl)
        | (revert xl; intro yl))
    | split
    | with_reducible apply Keeps.foldl
    | with_reducible apply Keeps.foldl_snd2
    | with_reducible apply Keeps.foldl_snd
    | with_reducible apply Keeps.foldl_fst
    | (refine Keeps.of_snd (by with_reducible assumption) ?_)
    | with_reducible apply Keeps.mk' rfl rfl rfl rfl rfl rfl rfl rfl rfl

end Sys2Proof.Machine
end

