-- ==== Sys2Proof/Laws/Keeps/Boundary.lean ====
section
/-! SUPPORT. That every operation of Boundary keeps the relation of Laws/Keeps. -/

set_option Elab.async false

namespace Sys2Proof.Machine

theorem State.bindPath_keeps (s : State) (p : Nat) (k : Nat) (c : Option Nat) {s0 : State} (h : Keeps s0 s) :
    Keeps s0 (State.bindPath s p k c) := by
  unfold State.bindPath
  repeat' first
    | with_reducible assumption
    | with_reducible apply State.setReg_keeps
    | with_reducible apply State.setFlag_keeps
    | with_reducible apply State.setFld_keeps
    | (extract_lets +onlyGivenNames xl; first
        | (refine (fun (hx : Keeps s0 xl) => ?_) ?_; rotate_left; unfold xl; clear xl; rotate_left; clear_value xl; revert xl; intro yl hy)
        | (clear_value xl; revert xl; intro yl)
        | (revert xl; intro yl))
    | split

theorem State.setGain_keeps (s : State) (p : Nat) (cs : List Nat) (level : Option Nat) {s0 : State} (h : Keeps s0 s) :
    Keeps s0 (State.setGain s p cs level) := by
  unfold State.setGain
  repeat' first
    | with_reducible assumption
    | with_reducible apply State.setFld_keeps
    | with_reducible apply State.setPort_keeps
    | intro _
    | (extract_lets +onlyGivenNames xl; first
        | (refine (fun (hx : Keeps s0 xl) => ?_) ?_; rotate_left; unfold xl; clear xl; rotate_left; clear_value xl; revert xl; intro yl hy)
        | (clear_value xl; revert xl; intro yl)
        | (revert xl; intro yl))
    | split
    | (refine Keeps.of_snd (by with_reducible assumption) ?_)
    | with_reducible apply Keeps.mk' rfl rfl rfl rfl rfl rfl rfl rfl rfl

theorem State.portSlotStart_keeps (s : State) (p : Nat) {s0 : State} (h : Keeps s0 s) :
    Keeps s0 (State.portSlotStart s p) := by
  unfold State.portSlotStart
  repeat' first
    | with_reducible assumption
    | with_reducible apply State.setPort_keeps
    | with_reducible apply State.stopPort_keeps
    | intro _
    | (extract_lets +onlyGivenNames xl; first
        | (refine (fun (hx : Keeps s0 xl) => ?_) ?_; rotate_left; unfold xl; clear xl; rotate_left; clear_value xl; revert xl; intro yl hy)
        | (clear_value xl; revert xl; intro yl)
        | (revert xl; intro yl))
    | split
    | (refine Keeps.of_snd (by with_reducible assumption) ?_)
    | with_reducible apply Keeps.mk' rfl rfl rfl rfl rfl rfl rfl rfl rfl

theorem State.bindPort_keeps (s : State) (guard : List (Fin 16 × Nat)) (p : Nat) {s0 : State} (h : Keeps s0 s) :
    Keeps s0 (State.bindPort s guard p) := by
  unfold State.bindPort
  repeat' first
    | with_reducible assumption
    | with_reducible apply State.bindPath_keeps
    | with_reducible apply State.setGain_keeps
    | with_reducible apply State.setFlag_keeps
    | intro _
    | (extract_lets +onlyGivenNames xl; first
        | (refine (fun (hx : Keeps s0 xl) => ?_) ?_; rotate_left; unfold xl; clear xl; rotate_left; clear_value xl; revert xl; intro yl hy)
        | (clear_value xl; revert xl; intro yl)
        | (revert xl; intro yl))
    | split
    | (refine Keeps.of_snd (by with_reducible assumption) ?_)
    | with_reducible apply Keeps.mk' rfl rfl rfl rfl rfl rfl rfl rfl rfl

theorem State.slotJobs_keeps (s : State) (c : Nat) {s0 : State} (h : Keeps s0 s) :
    Keeps s0 (State.slotJobs s c) := by
  unfold State.slotJobs
  repeat' first
    | with_reducible assumption
    | with_reducible apply State.addJob_keeps
    | intro _
    | (extract_lets +onlyGivenNames xl; first
        | (refine (fun (hx : Keeps s0 xl) => ?_) ?_; rotate_left; unfold xl; clear xl; rotate_left; clear_value xl; revert xl; intro yl hy)
        | (clear_value xl; revert xl; intro yl)
        | (revert xl; intro yl))
    | split
    | with_reducible apply Keeps.foldl
    | with_reducible apply Keeps.foldl_snd2
    | with_reducible apply Keeps.foldl_snd
    | with_reducible apply Keeps.foldl_fst
    | (refine Keeps.of_snd (by with_reducible assumption) ?_)
    | with_reducible apply Keeps.mk' rfl rfl rfl rfl rfl rfl rfl rfl rfl

theorem State.chanStart_keeps (s : State) (c : Nat) {s0 : State} (h : Keeps s0 s) :
    Keeps s0 (State.chanStart s c) := by
  unfold State.chanStart
  repeat' first
    | with_reducible assumption
    | with_reducible apply State.setChan_keeps
    | with_reducible apply State.setReg_keeps
    | intro _
    | split
    | (refine Keeps.of_snd (by with_reducible assumption) ?_)
    | with_reducible apply Keeps.mk' rfl rfl rfl rfl rfl rfl rfl rfl rfl

theorem State.chanStat_keeps (s : State) (c : Nat) {s0 : State} (h : Keeps s0 s) :
    Keeps s0 (State.chanStat s c) := by
  unfold State.chanStat
  repeat' first
    | with_reducible assumption
    | with_reducible apply State.setFlag_keeps
    | with_reducible apply State.setFld_keeps
    | (extract_lets +onlyGivenNames xl; first
        | (refine (fun (hx : Keeps s0 xl) => ?_) ?_; rotate_left; unfold xl; clear xl; rotate_left; clear_value xl; revert xl; intro yl hy)
        | (clear_value xl; revert xl; intro yl)
        | (revert xl; intro yl))
    | split

theorem State.takePrep_keeps (s : State) (c : Nat) {s0 : State} (h : Keeps s0 s) :
    Keeps s0 (State.takePrep s c) := by
  unfold State.takePrep
  repeat' first
    | with_reducible assumption
    | with_reducible apply State.giveUp_keeps
    | with_reducible apply State.setChan_keeps
    | intro _
    | (extract_lets +onlyGivenNames xl; first
        | (refine (fun (hx : Keeps s0 xl) => ?_) ?_; rotate_left; unfold xl; clear xl; rotate_left; clear_value xl; revert xl; intro yl hy)
        | (clear_value xl; revert xl; intro yl)
        | (revert xl; intro yl))
    | with_reducible apply Keeps.foldl
    | with_reducible apply Keeps.foldl_snd2
    | with_reducible apply Keeps.foldl_snd
    | with_reducible apply Keeps.foldl_fst

theorem State.dataStart_keeps (s : State) (c : Nat) {s0 : State} (h : Keeps s0 s) :
    Keeps s0 (State.dataStart s c) := by
  unfold State.dataStart
  repeat' first
    | with_reducible assumption
    | with_reducible apply State.sendTx_keeps
    | split

theorem State.prepare_keeps (s : State) (c : Nat) (cfg : List Word) (x : Tx) (no : State → State) {s0 : State} (h : Keeps s0 s) (hno : ∀ t, Keeps s0 t → Keeps s0 (no t)) :
    Keeps s0 (State.prepare s c cfg x no) := by
  unfold State.prepare
  repeat' first
    | with_reducible assumption
    | with_reducible apply hno
    | with_reducible apply State.setChan_keeps
    | with_reducible apply State.dwlCheck_keeps
    | with_reducible apply State.addTxJobs_keeps
    | intro _
    | (extract_lets +onlyGivenNames xl; first
        | (refine (fun (hx : Keeps s0 xl) => ?_) ?_; rotate_left; unfold xl; clear xl; rotate_left; clear_value xl; revert xl; intro yl hy)
        | (refine (fun (hx : Keeps s0 xl.2) => ?_) ?_; rotate_left; unfold xl; clear xl; rotate_left; clear_value xl; revert xl; intro yl hy)
        | (clear_value xl; revert xl; intro yl)
        | (revert xl; intro yl))
    | split
    | (refine Keeps.of_snd (by with_reducible assumption) ?_)
    | with_reducible apply Keeps.mk' rfl rfl rfl rfl rfl rfl rfl rfl rfl

theorem State.startOwn_keeps (s : State) (c : Nat) (ok : Bool) (sent : State → State) {s0 : State} (h : Keeps s0 s) (hsent : ∀ t, Keeps s0 t → Keeps s0 (sent t)) :
    Keeps s0 (State.startOwn s c ok sent) := by
  unfold State.startOwn
  repeat' first
    | with_reducible assumption
    | with_reducible apply hsent
    | with_reducible apply State.setChan_keeps
    | with_reducible apply State.sendTx_keeps
    | with_reducible apply State.giveUp_keeps
    | intro _
    | (extract_lets +onlyGivenNames xl; first
        | (refine (fun (hx : Keeps s0 xl) => ?_) ?_; rotate_left; unfold xl; clear xl; rotate_left; clear_value xl; revert xl; intro yl hy)
        | (clear_value xl; revert xl; intro yl)
        | (revert xl; intro yl))
    | split
    | (refine Keeps.of_snd (by with_reducible assumption) ?_)
    | with_reducible apply Keeps.mk' rfl rfl rfl rfl rfl rfl rfl rfl rfl

theorem State.dropWakes_keeps (s : State) {s0 : State} (h : Keeps s0 s) :
    Keeps s0 (State.dropWakes s) := by
  unfold State.dropWakes
  repeat' first
    | with_reducible assumption
    | with_reducible apply State.wake_keeps
    | intro _
    | (extract_lets +onlyGivenNames xl; first
        | (refine (fun (hx : Keeps s0 xl) => ?_) ?_; rotate_left; unfold xl; clear xl; rotate_left; clear_value xl; revert xl; intro yl hy)
        | (clear_value xl; revert xl; intro yl)
        | (revert xl; intro yl))
    | split
    | (refine Keeps.of_snd (by with_reducible assumption) ?_)
    | with_reducible apply Keeps.mk' rfl rfl rfl rfl rfl rfl rfl rfl rfl

theorem State.makeWake_keeps (s : State) (c : Nat) {s0 : State} (h : Keeps s0 s) :
    Keeps s0 (State.makeWake s c) := by
  unfold State.makeWake
  repeat' first
    | with_reducible assumption
    | with_reducible apply State.setChan_keeps
    | with_reducible apply State.keyFrame_keeps
    | with_reducible apply State.take_keeps
    | with_reducible apply State.newId_keeps
    | with_reducible apply State.wake_keeps
    | intro _
    | (extract_lets +onlyGivenNames xl; first
        | (refine (fun (hx : Keeps s0 xl) => ?_) ?_; rotate_left; unfold xl; clear xl; rotate_left; clear_value xl; revert xl; intro yl hy)
        | (refine (fun (hx : Keeps s0 xl.2) => ?_) ?_; rotate_left; unfold xl; clear xl; rotate_left; clear_value xl; revert xl; intro yl hy)
        | (clear_value xl; revert xl; intro yl)
        | (revert xl; intro yl))
    | split
    | (refine Keeps.of_snd (by with_reducible assumption) ?_)
    | with_reducible apply Keeps.mk' rfl rfl rfl rfl rfl rfl rfl rfl rfl

theorem State.placeWake_keeps (s : State) (c : Nat) (cfg : List Word) (slot : Nat) {s0 : State} (h : Keeps s0 s) :
    Keeps s0 (State.placeWake s c cfg slot) := by
  unfold State.placeWake
  repeat' first
    | with_reducible assumption
    | with_reducible apply State.prepare_keeps
    | with_reducible apply State.take_keeps
    | with_reducible apply State.deferTx_keeps
    | with_reducible apply State.wake_keeps
    | intro _
    | (extract_lets +onlyGivenNames xl; first
        | (refine (fun (hx : Keeps s0 xl) => ?_) ?_; rotate_left; unfold xl; clear xl; rotate_left; clear_value xl; revert xl; intro yl hy)
        | (refine (fun (hx : Keeps s0 xl.2) => ?_) ?_; rotate_left; unfold xl; clear xl; rotate_left; clear_value xl; revert xl; intro yl hy)
        | (clear_value xl; revert xl; intro yl)
        | (revert xl; intro yl))
    | split
    | (refine Keeps.of_snd (by with_reducible assumption) ?_)
    | with_reducible apply Keeps.mk' rfl rfl rfl rfl rfl rfl rfl rfl rfl

theorem State.wakeChan_keeps (s : State) (c : Nat) {s0 : State} (h : Keeps s0 s) :
    Keeps s0 (State.wakeChan s c) := by
  unfold State.wakeChan
  repeat' first
    | with_reducible assumption
    | with_reducible apply State.startOwn_keeps
    | with_reducible apply State.bump_keeps
    | with_reducible apply State.setSlp_keeps
    | with_reducible apply State.wake_keeps
    | intro _
    | (extract_lets +onlyGivenNames xl; first
        | (refine (fun (hx : Keeps s0 xl) => ?_) ?_; rotate_left; unfold xl; clear xl; rotate_left; clear_value xl; revert xl; intro yl hy)
        | (clear_value xl; revert xl; intro yl)
        | (revert xl; intro yl))
    | split
    | (refine Keeps.of_snd (by with_reducible assumption) ?_)
    | with_reducible apply Keeps.mk' rfl rfl rfl rfl rfl rfl rfl rfl rfl

theorem State.placeBeacon_keeps (s : State) (c : Nat) (cfg : List Word) (slot : Nat) {s0 : State} (h : Keeps s0 s) :
    Keeps s0 (State.placeBeacon s c cfg slot) := by
  unfold State.placeBeacon
  repeat' first
    | with_reducible assumption
    | with_reducible apply State.prepare_keeps
    | with_reducible apply State.bump_keeps
    | intro _
    | (extract_lets +onlyGivenNames xl; first
        | (refine (fun (hx : Keeps s0 xl) => ?_) ?_; rotate_left; unfold xl; clear xl; rotate_left; clear_value xl; revert xl; intro yl hy)
        | (clear_value xl; revert xl; intro yl)
        | (revert xl; intro yl))
    | split
    | (refine Keeps.of_snd (by with_reducible assumption) ?_)
    | with_reducible apply Keeps.mk' rfl rfl rfl rfl rfl rfl rfl rfl rfl

theorem State.beaconChan_keeps (s : State) (c : Nat) {s0 : State} (h : Keeps s0 s) :
    Keeps s0 (State.beaconChan s c) := by
  unfold State.beaconChan
  repeat' first
    | with_reducible assumption
    | with_reducible apply State.startOwn_keeps
    | with_reducible apply State.bump_keeps
    | intro _
    | (extract_lets +onlyGivenNames xl; first
        | (refine (fun (hx : Keeps s0 xl) => ?_) ?_; rotate_left; unfold xl; clear xl; rotate_left; clear_value xl; revert xl; intro yl hy)
        | (clear_value xl; revert xl; intro yl)
        | (revert xl; intro yl))
    | split
    | (refine Keeps.of_snd (by with_reducible assumption) ?_)
    | with_reducible apply Keeps.mk' rfl rfl rfl rfl rfl rfl rfl rfl rfl

theorem State.placeSound_keeps (s : State) (c : Nat) (cfg : List Word) (slot : Nat) {s0 : State} (h : Keeps s0 s) :
    Keeps s0 (State.placeSound s c cfg slot) := by
  unfold State.placeSound
  repeat' first
    | with_reducible assumption
    | with_reducible apply State.prepare_keeps
    | with_reducible apply State.bump_keeps
    | intro _
    | (extract_lets +onlyGivenNames xl; first
        | (refine (fun (hx : Keeps s0 xl) => ?_) ?_; rotate_left; unfold xl; clear xl; rotate_left; clear_value xl; revert xl; intro yl hy)
        | (clear_value xl; revert xl; intro yl)
        | (revert xl; intro yl))
    | split
    | (refine Keeps.of_snd (by with_reducible assumption) ?_)
    | with_reducible apply Keeps.mk' rfl rfl rfl rfl rfl rfl rfl rfl rfl

theorem State.soundChan_keeps (s : State) (c : Nat) {s0 : State} (h : Keeps s0 s) :
    Keeps s0 (State.soundChan s c) := by
  unfold State.soundChan
  repeat' first
    | with_reducible assumption
    | with_reducible apply State.startOwn_keeps
    | with_reducible apply State.setChan_keeps
    | with_reducible apply State.take_keeps
    | intro _
    | (extract_lets +onlyGivenNames xl; first
        | (refine (fun (hx : Keeps s0 xl) => ?_) ?_; rotate_left; unfold xl; clear xl; rotate_left; clear_value xl; revert xl; intro yl hy)
        | (refine (fun (hx : Keeps s0 xl.2) => ?_) ?_; rotate_left; unfold xl; clear xl; rotate_left; clear_value xl; revert xl; intro yl hy)
        | (clear_value xl; revert xl; intro yl)
        | (revert xl; intro yl))
    | split
    | (refine Keeps.of_snd (by with_reducible assumption) ?_)
    | with_reducible apply Keeps.mk' rfl rfl rfl rfl rfl rfl rfl rfl rfl

theorem State.placeReel_keeps (s : State) (c : Nat) (cfg : List Word) (slot : Nat) {s0 : State} (h : Keeps s0 s) :
    Keeps s0 (State.placeReel s c cfg slot) := by
  unfold State.placeReel
  repeat' first
    | with_reducible assumption
    | with_reducible apply State.prepare_keeps
    | with_reducible apply State.reserve_keeps
    | with_reducible apply State.deferTx_keeps
    | intro _
    | split
    | (refine Keeps.of_snd (by with_reducible assumption) ?_)
    | with_reducible apply Keeps.mk' rfl rfl rfl rfl rfl rfl rfl rfl rfl

theorem State.reelStart_keeps (s : State) (c : Nat) {s0 : State} (h : Keeps s0 s) :
    Keeps s0 (State.reelStart s c) := by
  unfold State.reelStart
  split
  · split
    · exact h
    · split
      · exact State.startOwn_keeps _ _ _ _ h fun t ht => State.reelSent_keeps _ _ _ ht
      · exact State.startOwn_keeps _ _ _ _ h fun t ht => ht
  · exact h

theorem State.placeOwn_keeps (s : State) {s0 : State} (h : Keeps s0 s) :
    Keeps s0 (State.placeOwn s) := by
  unfold State.placeOwn
  repeat' first
    | with_reducible assumption
    | with_reducible apply State.placeWake_keeps
    | with_reducible apply State.placeBeacon_keeps
    | with_reducible apply State.placeSound_keeps
    | with_reducible apply State.placeReel_keeps
    | intro _
    | (extract_lets +onlyGivenNames xl; first
        | (refine (fun (hx : Keeps s0 xl) => ?_) ?_; rotate_left; unfold xl; clear xl; rotate_left; clear_value xl; revert xl; intro yl hy)
        | (clear_value xl; revert xl; intro yl)
        | (revert xl; intro yl))
    | split
    | with_reducible apply Keeps.foldl
    | with_reducible apply Keeps.foldl_snd2
    | with_reducible apply Keeps.foldl_snd
    | with_reducible apply Keeps.foldl_fst
    | (refine Keeps.of_snd (by with_reducible assumption) ?_)
    | with_reducible apply Keeps.mk' rfl rfl rfl rfl rfl rfl rfl rfl rfl

theorem State.placeAhead_keeps (s : State) {s0 : State} (h : Keeps s0 s) :
    Keeps s0 (State.placeAhead s) := by
  unfold State.placeAhead
  repeat' first
    | with_reducible assumption
    | with_reducible apply State.dropWakes_keeps
    | with_reducible apply State.makeWake_keeps
    | with_reducible apply State.placeOwn_keeps
    | with_reducible apply State.dispatch_keeps
    | with_reducible apply State.placeNext_keeps
    | intro _
    | (extract_lets +onlyGivenNames xl; first
        | (refine (fun (hx : Keeps s0 xl) => ?_) ?_; rotate_left; unfold xl; clear xl; rotate_left; clear_value xl; revert xl; intro yl hy)
        | (clear_value xl; revert xl; intro yl)
        | (revert xl; intro yl))
    | split
    | with_reducible apply Keeps.foldl
    | with_reducible apply Keeps.foldl_snd2
    | with_reducible apply Keeps.foldl_snd
    | with_reducible apply Keeps.foldl_fst
    | (refine Keeps.of_snd (by with_reducible assumption) ?_)
    | with_reducible apply Keeps.mk' rfl rfl rfl rfl rfl rfl rfl rfl rfl

theorem State.probePort_keeps (s : State) (c : Nat) (p : Nat) {s0 : State} (h : Keeps s0 s) :
    Keeps s0 (State.probePort s c p) := by
  unfold State.probePort
  repeat' first
    | with_reducible assumption
    | with_reducible apply State.draw_keeps
    | with_reducible apply State.setFld_keeps
    | with_reducible apply State.setFlag_keeps
    | with_reducible apply State.emit_keeps
    | with_reducible apply State.setPort_keeps
    | intro _
    | (extract_lets +onlyGivenNames xl; first
        | (refine (fun (hx : Keeps s0 xl) => ?_) ?_; rotate_left; unfold xl; clear xl; rotate_left; clear_value xl; revert xl; intro yl hy)
        | (refine (fun (hx : Keeps s0 xl.2) => ?_) ?_; rotate_left; unfold xl; clear xl; rotate_left; clear_value xl; revert xl; intro yl hy)
        | (clear_value xl; revert xl; intro yl)
        | (revert xl; intro yl))
    | split
    | with_reducible apply Keeps.foldl
    | with_reducible apply Keeps.foldl_snd2
    | with_reducible apply Keeps.foldl_snd
    | with_reducible apply Keeps.foldl_fst
    | (refine Keeps.of_snd (by with_reducible assumption) ?_)
    | with_reducible apply Keeps.mk' rfl rfl rfl rfl rfl rfl rfl rfl rfl

theorem State.probeChan_keeps (s : State) (c : Nat) {s0 : State} (h : Keeps s0 s) :
    Keeps s0 (State.probeChan s c) := by
  unfold State.probeChan
  repeat' first
    | with_reducible assumption
    | with_reducible apply State.probePort_keeps
    | intro _
    | split
    | with_reducible apply Keeps.foldl
    | with_reducible apply Keeps.foldl_snd2
    | with_reducible apply Keeps.foldl_snd
    | with_reducible apply Keeps.foldl_fst
    | (refine Keeps.of_snd (by with_reducible assumption) ?_)
    | with_reducible apply Keeps.mk' rfl rfl rfl rfl rfl rfl rfl rfl rfl

theorem State.startTx_keeps (s : State) {s0 : State} (h : Keeps s0 s) :
    Keeps s0 (State.startTx s) := by
  refine Keeps.foldl (Keeps.foldl (Keeps.foldl h ?_) ?_) ?_
  · exact fun _ _ ht => State.dataStart_keeps _ _ (State.relayChan_keeps _ _ _ ht)
  · exact fun _ _ ht => State.reelSlot_keeps _ _ _ (State.reelStart_keeps _ _ ht)
  · exact fun _ _ ht => State.probeChan_keeps _ _ (State.soundChan_keeps _ _ (State.beaconChan_keeps _ _
      (State.wakeChan_keeps _ _ ht)))

theorem State.slotStart_keeps (s : State) (guard : List (Fin 16 × Nat)) {s0 : State} (h : Keeps s0 s) :
    Keeps s0 (State.slotStart s guard) := by
  have all : ∀ (f : State → Nat → State) (t : State), Keeps s0 t → (∀ u c, Keeps s0 u → Keeps s0 (f u c)) →
      Keeps s0 ((List.range 64).foldl f t) := fun f t ht hf => Keeps.foldl ht hf
  unfold State.slotStart
  extract_lets af s1 s2 s3 s4 s5 s6 s7
  have h1 : Keeps s0 s1 := State.pauseSlot_keeps _ (State.twinSlot_keeps _ h)
  have h2 : Keeps s0 s2 := by
    unfold s2
    split
    · exact State.portsRemove_keeps _ (State.setDom_keeps _ _ _ (State.setDom_keeps _ _ _ h1))
    · exact h1
  have h3 : Keeps s0 s3 := all _ _ (Keeps.foldl h2 fun _ _ ht => State.portSlotStart_keeps _ _ ht) fun _ _ ht => State.chanStart_keeps _ _ ht
  have h4 : Keeps s0 s4 := by
    unfold s4
    split
    · exact State.originate_keeps _ (State.dispatch_keeps _ (State.rxAgain_keeps _ (State.retryPaths_keeps _
        (State.retryMsgs_keeps _ (State.retransmits_keeps _ (State.drainTenants_keeps _ (State.proposeStale_keeps _ h3)))))))
    · exact h3
  have h5 : Keeps s0 s5 := all _ _ h4 fun _ _ ht => State.takePrep_keeps _ _ ht
  have h6 : Keeps s0 s6 := by
    unfold s6
    split
    · exact h5
    · exact State.startTx_keeps _ h5
  have h7 : Keeps s0 s7 := Keeps.foldl
    (all _ _ h6 fun _ _ ht => State.slotJobs_keeps _ _ (State.chanStat_keeps _ _ ht)) fun _ _ ht => State.bindPort_keeps _ _ _ ht
  split
  · exact State.asServing_keeps _ _ h7 fun _ ht => State.placeAhead_keeps _ ht
  · exact h7

theorem State.duplexBoundary_keeps (s : State) {s0 : State} (h : Keeps s0 s) :
    Keeps s0 (State.duplexBoundary s) := by
  unfold State.duplexBoundary
  repeat' first
    | with_reducible assumption
    | with_reducible apply State.setDuplex_keeps
    | intro _
    | (extract_lets +onlyGivenNames xl; first
        | (clear_value xl; revert xl; intro yl)
        | (revert xl; intro yl))
    | split
    | with_reducible apply Keeps.foldl
    | with_reducible apply Keeps.foldl_snd2
    | with_reducible apply Keeps.foldl_snd
    | with_reducible apply Keeps.foldl_fst

theorem State.stnFigures_keeps (s : State) (k : Nat) {s0 : State} (h : Keeps s0 s) :
    Keeps s0 (State.stnFigures s k) := by
  unfold State.stnFigures
  repeat' first
    | with_reducible assumption
    | with_reducible apply State.setFld_keeps
    | with_reducible apply State.event_keeps
    | with_reducible apply State.setStn_keeps
    | with_reducible apply State.setStatus_keeps
    | (extract_lets +onlyGivenNames xl; first
        | (refine (fun (hx : Keeps s0 xl) => ?_) ?_; rotate_left; unfold xl; clear xl; rotate_left; clear_value xl; revert xl; intro yl hy)
        | (clear_value xl; revert xl; intro yl)
        | (revert xl; intro yl))
    | split

theorem State.sfFigures_keeps (s : State) (x : SfIn) {s0 : State} (h : Keeps s0 s) :
    Keeps s0 (State.sfFigures s x) := by
  unfold State.sfFigures
  repeat' first
    | with_reducible assumption
    | with_reducible apply State.stnFigures_keeps
    | with_reducible apply State.twnLag_keeps
    | with_reducible apply State.setFld_keeps
    | with_reducible apply State.setFlag_keeps
    | intro _
    | (extract_lets +onlyGivenNames xl; first
        | (refine (fun (hx : Keeps s0 xl) => ?_) ?_; rotate_left; unfold xl; clear xl; rotate_left; clear_value xl; revert xl; intro yl hy))
    | split
    | with_reducible apply Keeps.foldl
    | with_reducible apply Keeps.foldl_snd2
    | with_reducible apply Keeps.foldl_snd
    | with_reducible apply Keeps.foldl_fst

theorem State.sfForce_keeps (s : State) {s0 : State} (h : Keeps s0 s) :
    Keeps s0 (State.sfForce s) := by
  unfold State.sfForce
  repeat' first
    | with_reducible assumption
    | with_reducible apply State.channelBoundary_keeps
    | with_reducible apply State.versionBoundary_keeps
    | with_reducible apply State.figureBoundary_keeps
    | with_reducible apply State.takeL4_keeps
    | intro _
    | split
    | with_reducible apply Keeps.foldl
    | with_reducible apply Keeps.foldl_snd2
    | with_reducible apply Keeps.foldl_snd
    | with_reducible apply Keeps.foldl_fst
    | with_reducible apply Keeps.mk' rfl rfl rfl rfl rfl rfl rfl rfl rfl

theorem State.sfWork_keeps (s : State) (x : SfIn) {s0 : State} (h : Keeps s0 s) :
    Keeps s0 (State.sfWork s x) := by
  unfold State.sfWork
  repeat' first
    | with_reducible assumption
    | with_reducible apply State.sfForce_keeps
    | with_reducible apply State.portsRejoin_keeps
    | with_reducible apply State.ctStep_keeps
    | with_reducible apply State.sfFigures_keeps
    | with_reducible apply State.ageRoutes_keeps
    | with_reducible apply State.linksAtSuperframe_keeps
    | with_reducible apply State.duplexBoundary_keeps
    | with_reducible apply State.mapsAtSuperframe_keeps
    | with_reducible apply State.parentLoss_keeps
    | with_reducible apply State.mergeEnd_keeps
    | with_reducible apply State.advertise_keeps
    | with_reducible apply State.slpPlan_keeps
    | with_reducible apply State.airReplenish_keeps
    | with_reducible apply State.swapBoundary_keeps
    | with_reducible apply State.setSlp_keeps
    | (extract_lets +onlyGivenNames xl; first
        | (refine (fun (hx : Keeps s0 xl) => ?_) ?_; rotate_left; unfold xl; clear xl; rotate_left; clear_value xl; revert xl; intro yl hy)
        | (clear_value xl; revert xl; intro yl)
        | (revert xl; intro yl))
    | split

theorem State.nextSlot_keeps (s : State) (x : SlotIn) {s0 : State} (h : Keeps s0 s) :
    Keeps s0 (State.nextSlot s x) := by
  unfold State.nextSlot
  repeat' first
    | with_reducible assumption
    | with_reducible apply State.setSched_keeps
    | with_reducible apply State.rtcAdd_keeps
    | with_reducible apply State.setPwr_keeps
    | (extract_lets +onlyGivenNames xl; first
        | (refine (fun (hx : Keeps s0 xl) => ?_) ?_; rotate_left; unfold xl; clear xl; rotate_left; clear_value xl; revert xl; intro yl hy)
        | (clear_value xl; revert xl; intro yl)
        | (revert xl; intro yl))
    | with_reducible apply Keeps.mk' rfl rfl rfl rfl rfl rfl rfl rfl rfl

theorem execSlotBoundary_keeps (x : SlotIn) (s : State) {s0 : State} (h : Keeps s0 s) :
    ∀ z, execSlotBoundary x s = .next z → Keeps s0 z := by
  unfold execSlotBoundary
  intro z e
  refine Keeps.of_next ?_ e
  repeat' first
    | with_reducible assumption
    | with_reducible apply State.nextSlot_keeps
    | with_reducible apply State.slotEnd_keeps
    | with_reducible apply State.endIdle_keeps
    | with_reducible apply State.enterSlumber_keeps
    | with_reducible apply State.setSched_keeps
    | with_reducible apply State.slotStart_keeps
    | (extract_lets +onlyGivenNames xl; first
        | (refine (fun (hx : Keeps s0 xl) => ?_) ?_; rotate_left; unfold xl; clear xl; rotate_left; clear_value xl; revert xl; intro yl hy)
        | (clear_value xl; revert xl; intro yl)
        | (revert xl; intro yl))
    | split

theorem execSuperframeBoundary_keeps (x : SfIn) (s : State) {s0 : State} (h : Keeps s0 s) :
    ∀ z, execSuperframeBoundary x s = .next z → Keeps s0 z := by
  unfold execSuperframeBoundary
  intro z e
  refine Keeps.of_next ?_ e
  repeat' first
    | with_reducible assumption
    | with_reducible apply State.setSched_keeps
    | with_reducible apply State.slotStart_keeps
    | with_reducible apply State.sfWork_keeps
    | (extract_lets +onlyGivenNames xl; first
        | (refine (fun (hx : Keeps s0 xl) => ?_) ?_; rotate_left; unfold xl; clear xl; rotate_left; clear_value xl; revert xl; intro yl hy)
        | (clear_value xl; revert xl; intro yl)
        | (revert xl; intro yl))
    | split

theorem execWakeComplete_keeps (slots : Nat) (frac : Nat) (edges : Nat) (s : State) {s0 : State} (h : Keeps s0 s) :
    ∀ z, execWakeComplete slots frac edges s = .next z → Keeps s0 z := by
  unfold execWakeComplete
  intro z e
  refine Keeps.of_next ?_ e
  repeat' first
    | with_reducible assumption
    | with_reducible apply State.rtcAdd_keeps
    | with_reducible apply State.slept_keeps
    | with_reducible apply State.addEnergy_keeps
    | with_reducible apply State.setSched_keeps
    | with_reducible apply State.sfForce_keeps
    | with_reducible apply State.wakeDone_keeps
    | with_reducible apply State.slotJobs_keeps
    | with_reducible apply State.chanStat_keeps
    | with_reducible apply State.chanStart_keeps
    | with_reducible apply State.bindPort_keeps
    | with_reducible apply State.setSlpState_keeps
    | with_reducible apply State.setSlp_keeps
    | intro _
    | (extract_lets +onlyGivenNames xl; first
        | (refine (fun (hx : Keeps s0 xl) => ?_) ?_; rotate_left; unfold xl; clear xl; rotate_left; clear_value xl; revert xl; intro yl hy)
        | (clear_value xl; revert xl; intro yl)
        | (revert xl; intro yl))
    | split
    | with_reducible apply Keeps.foldl
    | with_reducible apply Keeps.foldl_snd2
    | with_reducible apply Keeps.foldl_snd
    | with_reducible apply Keeps.foldl_fst

end Sys2Proof.Machine
end

