-- ==== Sys2Proof/Laws/Keeps/Mains.lean ====
section
/-! SUPPORT. That every operation of Mains keeps the relation of Laws/Keeps. -/

set_option Elab.async false

namespace Sys2Proof.Machine

theorem State.lossAct_keeps (s : State) (loss : Bool) {s0 : State} (h : Keeps s0 s) :
    Keeps s0 (State.lossAct s loss) := by
  unfold State.lossAct
  repeat' first
    | with_reducible assumption
    | with_reducible apply State.lastGasp_keeps
    | with_reducible apply State.bump_keeps
    | with_reducible apply State.lgEnd_keeps
    | (extract_lets +onlyGivenNames xl; first
        | (refine (fun (hx : Keeps s0 xl) => ?_) ?_; rotate_left; unfold xl; clear xl; rotate_left; clear_value xl; revert xl; intro yl hy)
        | (clear_value xl; revert xl; intro yl)
        | (revert xl; intro yl))
    | split

theorem State.atFrac_keeps (s : State) (frac : Nat) {s0 : State} (h : Keeps s0 s) :
    Keeps s0 (State.atFrac s frac) := by
  unfold State.atFrac
  repeat' first
    | with_reducible assumption
    | with_reducible apply Keeps.mk' rfl rfl rfl rfl rfl rfl rfl rfl rfl

theorem execVsSample_keeps (frac : Nat) (va : Int) (vb : Int) (vc : Int) (taps : List Nat) (s : State) {s0 : State} (h : Keeps s0 s) :
    ∀ z, execVsSample frac va vb vc taps s = .next z → Keeps s0 z := by
  unfold execVsSample
  intro z e
  refine Keeps.of_next ?_ e
  repeat' first
    | with_reducible assumption
    | with_reducible apply State.vsInstant_keeps
    | with_reducible apply State.atFrac_keeps
    | with_reducible apply State.lossAct_keeps
    | (extract_lets +onlyGivenNames xl; first
        | (refine (fun (hx : Keeps s0 xl.1) => ?_) ?_; rotate_left; unfold xl; clear xl; rotate_left; clear_value xl; revert xl; intro yl hy))
    | split
    | (refine Keeps.of_fst (by with_reducible assumption) ?_)

theorem execMainsTimeout_keeps (frac : Nat) (s : State) {s0 : State} (h : Keeps s0 s) :
    ∀ z, execMainsTimeout frac s = .next z → Keeps s0 z := by
  unfold execMainsTimeout
  intro z e
  refine Keeps.of_next ?_ e
  repeat' first
    | with_reducible assumption
    | with_reducible apply State.mainsTimeout_keeps
    | with_reducible apply State.atFrac_keeps
    | with_reducible apply State.lossAct_keeps
    | (extract_lets +onlyGivenNames xl; first
        | (refine (fun (hx : Keeps s0 xl.1) => ?_) ?_; rotate_left; unfold xl; clear xl; rotate_left; clear_value xl; revert xl; intro yl hy))
    | split
    | (refine Keeps.of_fst (by with_reducible assumption) ?_)

end Sys2Proof.Machine
end

