-- ==== Sys2Proof/Laws/Keeps/Serial.lean ====
section
/-! SUPPORT. That every operation of Serial keeps the relation of Laws/Keeps. -/

set_option Elab.async false

namespace Sys2Proof.Machine

theorem State.serialMisaligned_keeps (s : State) (barred : Bool) (x : Target) (a : Nat) (wr : Bool) {s0 : State} (h : Keeps s0 s) :
    Keeps s0 (State.serialMisaligned s barred x a wr) := by
  unfold State.serialMisaligned
  repeat' first
    | with_reducible assumption
    | with_reducible apply State.touch_keeps
    | with_reducible apply State.violation_keeps
    | (extract_lets +onlyGivenNames xl; first
        | (clear_value xl; revert xl; intro yl)
        | (revert xl; intro yl))
    | split

theorem State.serialWord_keeps (s : State) (barred : Bool) (t : Fin 8) (a : Nat) (bad : Bool) {s0 : State} (h : Keeps s0 s) :
    Keeps s0 (State.serialWord s barred t a bad).2 := by
  unfold State.serialWord
  repeat' first
    | with_reducible assumption
    | with_reducible apply State.serialMisaligned_keeps
    | with_reducible apply State.readAt_keeps
    | (extract_lets +onlyGivenNames xl; first
        | (refine (fun (hx : Keeps s0 xl.2.2) => ?_) ?_; rotate_left; unfold xl; clear xl; rotate_left; clear_value xl; revert xl; intro yl hy)
        | (clear_value xl; revert xl; intro yl)
        | (revert xl; intro yl))
    | split
    | (refine Keeps.of_snd2 (by with_reducible assumption) ?_)

theorem State.serialReads_keeps (s : State) (barred : Bool) (t : Fin 8) (a : Nat) (a4 : List SerRead) (a5 : Nat) {s0 : State} (h : Keeps s0 s) :
    Keeps s0 (State.serialReads s barred t a a4 a5).2 := by
  induction a4 generalizing s a5 with
  | nil => exact h
  | cons w ws ih =>
    unfold State.serialReads
    have h1 := State.bump_keeps _ .shp 1 (State.serialWord_keeps s barred t (serialAddr a a5) w.env.bad h)
    dsimp only
    generalize State.bump _ .shp 1 = s1 at h1 ⊢
    split
    · dsimp only
      refine State.event_keeps _ _ _ (State.bump_keeps _ _ _ (State.bumpBy_keeps _ _ _ _ ?_))
      refine Keeps.congr (u := if s1.io.held.isSome then s1.setFlag .shp F.SHP_STAT_HELD_LOST true else s1) ?_
        rfl rfl rfl rfl rfl rfl rfl rfl rfl
      split
      · exact State.setFlag_keeps _ _ _ _ h1
      · exact h1
    · exact ih _ _ (State.bumpBy_keeps _ _ _ _ h1)

theorem State.frameBegin_keeps (s : State) {s0 : State} (h : Keeps s0 s) :
    Keeps s0 (State.frameBegin s) := by
  unfold State.frameBegin
  repeat' first
    | with_reducible assumption
    | with_reducible apply State.bump_keeps
    | with_reducible apply State.endIdle_keeps

theorem State.readFrame_keeps (s : State) (a : Nat) (ws : List SerRead) (clocked : Nat) {s0 : State} (h : Keeps s0 s) :
    Keeps s0 (State.readFrame s a ws clocked) := by
  unfold State.readFrame
  repeat' first
    | with_reducible assumption
    | with_reducible apply State.serialReads_keeps
    | with_reducible apply State.frameBegin_keeps
    | with_reducible apply State.emit_keeps
    | (extract_lets +onlyGivenNames xl; first
        | (refine (fun (hx : Keeps s0 xl.2) => ?_) ?_; rotate_left; unfold xl; clear xl; rotate_left; clear_value xl; revert xl; intro yl hy))
    | split
    | (refine Keeps.of_snd (by with_reducible assumption) ?_)

theorem execShpRead_keeps (addr : Nat) (ws : List SerRead) (clocked : Nat) (s : State) {s0 : State} (h : Keeps s0 s) :
    ∀ z, execShpRead addr ws clocked s = .next z → Keeps s0 z := by
  unfold execShpRead
  intro z e
  refine Keeps.of_next ?_ e
  repeat' first
    | with_reducible assumption
    | with_reducible apply State.readFrame_keeps

theorem execShpQread_keeps (addr : Nat) (ws : List SerRead) (clocked : Nat) (s : State) {s0 : State} (h : Keeps s0 s) :
    ∀ z, execShpQread addr ws clocked s = .next z → Keeps s0 z := by
  unfold execShpQread
  intro z e
  refine Keeps.of_next ?_ e
  repeat' first
    | with_reducible assumption
    | with_reducible apply State.readFrame_keeps

theorem execShpReadyTimeout_keeps (addr : Nat) (ws : List SerRead) (s : State) {s0 : State} (h : Keeps s0 s) :
    ∀ z, execShpReadyTimeout addr ws s = .next z → Keeps s0 z := by
  unfold execShpReadyTimeout
  intro z e
  refine Keeps.of_next ?_ e
  repeat' first
    | with_reducible assumption
    | with_reducible apply State.readFrame_keeps
    | split

theorem State.serialWrite_keeps (s : State) (barred : Bool) (t : Fin 8) (a : Nat) (w : SerWrite) {s0 : State} (h : Keeps s0 s) :
    Keeps s0 (State.serialWrite s barred t a w) := by
  unfold State.serialWrite
  repeat' first
    | with_reducible assumption
    | with_reducible apply State.bump_keeps
    | with_reducible apply State.serialMisaligned_keeps
    | with_reducible apply State.writeAt_keeps
    | (extract_lets +onlyGivenNames xl; first
        | (refine (fun (hx : Keeps s0 xl) => ?_) ?_; rotate_left; unfold xl; clear xl; rotate_left; clear_value xl; revert xl; intro yl hy))
    | split

theorem State.writeFrame_keeps (s : State) (a : Nat) (ws : List SerWrite) (part : Bool) {s0 : State} (h : Keeps s0 s) :
    Keeps s0 (State.writeFrame s a ws part) := by
  unfold State.writeFrame
  repeat' first
    | with_reducible assumption
    | with_reducible apply State.serialWrite_keeps
    | with_reducible apply State.frameBegin_keeps
    | with_reducible apply State.serialMisaligned_keeps
    | intro _
    | (extract_lets +onlyGivenNames xl; first
        | (refine (fun (hx : Keeps s0 xl) => ?_) ?_; rotate_left; unfold xl; clear xl; rotate_left; clear_value xl; revert xl; intro yl hy)
        | (clear_value xl; revert xl; intro yl)
        | (revert xl; intro yl))
    | split
    | with_reducible apply Keeps.foldl
    | with_reducible apply Keeps.foldl_snd2
    | with_reducible apply Keeps.foldl_snd
    | with_reducible apply Keeps.foldl_fst

theorem execShpWrite_keeps (addr : Nat) (ws : List SerWrite) (part : Bool) (s : State) {s0 : State} (h : Keeps s0 s) :
    ∀ z, execShpWrite addr ws part s = .next z → Keeps s0 z := by
  unfold execShpWrite
  intro z e
  refine Keeps.of_next ?_ e
  repeat' first
    | with_reducible assumption
    | with_reducible apply State.writeFrame_keeps

theorem execShpQwrite_keeps (addr : Nat) (ws : List SerWrite) (part : Bool) (s : State) {s0 : State} (h : Keeps s0 s) :
    ∀ z, execShpQwrite addr ws part s = .next z → Keeps s0 z := by
  unfold execShpQwrite
  intro z e
  refine Keeps.of_next ?_ e
  repeat' first
    | with_reducible assumption
    | with_reducible apply State.writeFrame_keeps

theorem execShpStatus_keeps (n : Nat) (s : State) {s0 : State} (h : Keeps s0 s) :
    ∀ z, execShpStatus n s = .next z → Keeps s0 z := by
  unfold execShpStatus
  intro z e
  refine Keeps.of_next ?_ e
  repeat' first
    | with_reducible assumption
    | with_reducible apply State.frameBegin_keeps
    | with_reducible apply State.emit_keeps
    | (extract_lets +onlyGivenNames xl; first
        | (refine (fun (hx : Keeps s0 xl) => ?_) ?_; rotate_left; unfold xl; clear xl; rotate_left; clear_value xl; revert xl; intro yl hy))
    | split

theorem execReadHeld_keeps (clocked : Nat) (s : State) {s0 : State} (h : Keeps s0 s) :
    ∀ z, execReadHeld clocked s = .next z → Keeps s0 z := by
  unfold execReadHeld
  intro z e
  refine Keeps.of_next ?_ e
  repeat' first
    | with_reducible assumption
    | with_reducible apply State.frameBegin_keeps
    | with_reducible apply State.emit_keeps
    | (extract_lets +onlyGivenNames xl; first
        | (refine (fun (hx : Keeps s0 xl) => ?_) ?_; rotate_left; unfold xl; clear xl; rotate_left; clear_value xl; revert xl; intro yl hy)
        | (clear_value xl; revert xl; intro yl)
        | (revert xl; intro yl))
    | split
    | with_reducible apply Keeps.mk' rfl rfl rfl rfl rfl rfl rfl rfl rfl

theorem execShpBadCmd_keeps (s : State) {s0 : State} (h : Keeps s0 s) :
    ∀ z, execShpBadCmd s = .next z → Keeps s0 z := by
  unfold execShpBadCmd
  intro z e
  refine Keeps.of_next ?_ e
  repeat' first
    | with_reducible assumption
    | with_reducible apply State.event_keeps
    | with_reducible apply State.bump_keeps
    | with_reducible apply State.frameBegin_keeps
    | split

theorem State.applyFail_keeps (s : State) {s0 : State} (h : Keeps s0 s) :
    Keeps s0 (State.applyFail s) := by
  unfold State.applyFail
  repeat' first
    | with_reducible assumption
    | with_reducible apply State.event_keeps
    | with_reducible apply State.setFlag_keeps
    | with_reducible apply State.setNvm_keeps
    | (extract_lets +onlyGivenNames xl; first
        | (clear_value xl; revert xl; intro yl)
        | (revert xl; intro yl))

theorem State.applyStep_keeps (s : State) (a : ApplyStep) {s0 : State} (h : Keeps s0 s) :
    Keeps s0 (State.applyStep s a).2 := by
  unfold State.applyStep
  repeat' first
    | with_reducible assumption
    | with_reducible apply lockWrite_keeps
    | with_reducible apply acceptWrite_keeps
    | with_reducible apply pageEffect_keeps
    | with_reducible apply State.request_keeps
    | (extract_lets +onlyGivenNames xl; first
        | (refine (fun (hx : Keeps s0 xl) => ?_) ?_; rotate_left; unfold xl; clear xl; rotate_left; clear_value xl; revert xl; intro yl hy)
        | (clear_value xl; revert xl; intro yl)
        | (revert xl; intro yl))
    | split
    | with_reducible apply Keeps.mk' rfl rfl rfl rfl rfl rfl rfl rfl rfl

theorem State.applyRun_keeps (s : State) (a1 : List ApplyStep) {s0 : State} (h : Keeps s0 s) :
    Keeps s0 (State.applyRun s a1) := by
  induction a1 generalizing s with
  | nil => exact State.bump_keeps _ _ _ (State.setFlag_keeps _ _ _ _ (State.setNvm_keeps _ _ h))
  | cons a l ih =>
    unfold State.applyRun
    have h1 := State.applyStep_keeps s a h
    dsimp only
    split
    · exact State.applyFail_keeps _ h1
    · split
      · exact State.setNvm_keeps _ _ h1
      · exact ih _ h1

theorem execBootRecordApply_keeps (s : State) {s0 : State} (h : Keeps s0 s) :
    ∀ z, execBootRecordApply s = .next z → Keeps s0 z := by
  unfold execBootRecordApply
  intro z e
  refine Keeps.of_next ?_ e
  repeat' first
    | with_reducible assumption
    | with_reducible apply State.applyRun_keeps
    | split

theorem execAdmissionDone_keeps (s : State) {s0 : State} (h : Keeps s0 s) :
    ∀ z, execAdmissionDone s = .next z → Keeps s0 z := by
  unfold execAdmissionDone
  intro z e
  refine Keeps.of_next ?_ e
  repeat' first
    | with_reducible assumption
    | with_reducible apply State.admissionDone_keeps
    | with_reducible apply State.applyRun_keeps
    | with_reducible apply State.applyFail_keeps
    | (extract_lets +onlyGivenNames xl; first
        | (refine (fun (hx : Keeps s0 xl.2) => ?_) ?_; rotate_left; unfold xl; clear xl; rotate_left; clear_value xl; revert xl; intro yl hy))
    | split
    | (refine Keeps.of_snd (by with_reducible assumption) ?_)

theorem execTapInstruction_keeps (i : Tap) (s : State) {s0 : State} (h : Keeps s0 s) :
    ∀ z, execTapInstruction i s = .next z → Keeps s0 z := by
  unfold execTapInstruction
  intro z e
  refine Keeps.of_next ?_ e
  repeat' first
    | with_reducible assumption
    | with_reducible apply State.setPwr_keeps
    | with_reducible apply State.pcieDown_keeps
    | with_reducible apply State.outUpdate_keeps
    | (extract_lets +onlyGivenNames xl; first
        | (refine (fun (hx : Keeps s0 xl) => ?_) ?_; rotate_left; unfold xl; clear xl; rotate_left; clear_value xl; revert xl; intro yl hy)
        | (clear_value xl; revert xl; intro yl)
        | (revert xl; intro yl))
    | split
    | with_reducible apply Keeps.mk' rfl rfl rfl rfl rfl rfl rfl rfl rfl

end Sys2Proof.Machine
end

