-- ==== Sys2Proof/Laws/Keeps/Dispatch.lean ====
section
/-! SUPPORT. That every operation of Dispatch keeps the relation of Laws/Keeps. -/

set_option Elab.async false

namespace Sys2Proof.Machine

theorem exec_keeps (i : Instr) (s : State) {s0 : State} (hk : Keeps s0 s) :
    ∀ z, exec i s = .next z → Keeps s0 z := by
  cases i with
  | writeRegister q l e => exact execWriteRegister_keeps q l e s hk
  | pairedLowRead q l bad => exact execPairedLowRead_keeps q l bad s hk
  | pairedHighRead q l bad => exact execPairedHighRead_keeps q l bad s hk
  | enableSet q p => exact execEnableSet_keeps q p s hk
  | enableClear q p => exact execEnableClear_keeps q p s hk
  | quiescent p => exact execQuiescent_keeps p s hk
  | sreset q p => exact execSreset_keeps q p s hk
  | softResetDone p => exact execSoftResetDone_keeps p s hk
  | testIsolate q p => exact execTestIsolate_keeps q p s hk
  | isolatedTestDone p pass => exact execIsolatedTestDone_keeps p pass s hk
  | pgEventClear q p => exact execPgEventClear_keeps q p s hk
  | pgEventEnWrite q p => exact execPgEventEnWrite_keeps q p s hk
  | pgEventSet q p => exact execPgEventSet_keeps q p s hk
  | msixUnmask fn vec mask => exact execMsixUnmask_keeps fn vec mask s hk
  | pgFaultClear q p => exact execPgFaultClear_keeps q p s hk
  | cntClr q p => exact execCntClr_keeps q p s hk
  | eventRouteChange q k => exact execEventRouteChange_keeps q k s hk
  | featAcceptWrite q k => exact execFeatAcceptWrite_keeps q k s hk
  | featLock q => exact execFeatLock_keeps q s hk
  | violClr q => exact execViolClr_keeps q s hk
  | slotBoundary x => exact execSlotBoundary_keeps x s hk
  | symbolBoundary c frac tx loads rx => exact execSymbolBoundary_keeps c frac tx loads rx s hk
  | superframeBoundary x => exact execSuperframeBoundary_keeps x s hk
  | sy1Detect c frac np => exact execSy1Detect_keeps c frac np s hk
  | vdrvSet q => exact execVdrvSet_keeps q s hk
  | vdrvSettled meas => exact execVdrvSettled_keeps meas s hk
  | vdrvUv meas => exact execVdrvUv_keeps meas s hk
  | ledgerCapWrite q => exact execLedgerCapWrite_keeps q s hk
  | shareWrite q c => exact execShareWrite_keeps q c s hk
  | drvCurrentLimit p => exact execDrvCurrentLimit_keeps p s hk
  | paTrip p mv => exact execPaTrip_keeps p mv s hk
  | drvThermal p temp => exact execDrvThermal_keeps p temp s hk
  | fcDecode c bits iters parity => exact execFcDecode_keeps c bits iters parity s hk
  | decodeDone c k iters info parity resid cells => exact execDecodeDone_keeps c k iters info parity resid cells s hk
  | soundingRx c x => exact execSoundingRx_keeps c x s hk
  | proposeNow q c => exact execProposeNow_keeps q c s hk
  | soundRequest q c => exact execSoundRequest_keeps q c s hk
  | linkSelect q c => exact execLinkSelect_keeps q c s hk
  | tmapProposalRx c p => exact execTmapProposalRx_keeps c p s hk
  | tmapStatusRx c peer id boundary outcome => exact execTmapStatusRx_keeps c peer id boundary outcome s hk
  | turnBoundary => exact execTurnBoundary_keeps s hk
  | spindleJobDone id => exact execSpindleJobDone_keeps id s hk
  | jobDeadline id ok => exact execJobDeadline_keeps id ok s hk
  | decIterWrite q => exact execDecIterWrite_keeps q s hk
  | admissionDone => exact execAdmissionDone_keeps s hk
  | lgTestPeriod k => exact execLgTestPeriod_keeps k s hk
  | lgTestStart q k => exact execLgTestStart_keeps q k s hk
  | lgTestDone k pass => exact execLgTestDone_keeps k pass s hk
  | lgSelfCheckFail k lg => exact execLgSelfCheckFail_keeps k lg s hk
  | beaconRx c x => exact execBeaconRx_keeps c x s hk
  | syncLost => exact execSyncLost_keeps s hk
  | schedStageGo q => exact execSchedStageGo_keeps q s hk
  | figNextGo q => exact execFigNextGo_keeps q s hk
  | dwlBucket p => exact execDwlBucket_keeps p s hk
  | priorityWindow c p => exact execPriorityWindow_keeps c p s hk
  | priorityBurstRx c j level => exact execPriorityBurstRx_keeps c j level s hk
  | backoffMinislot c k => exact execBackoffMinislot_keeps c k s hk
  | cmdCopySend c overlap => exact execCmdCopySend_keeps c overlap s hk
  | cmdRepeat j persist => exact execCmdRepeat_keeps j persist s hk
  | cmdDetect c lines rho overlap => exact execCmdDetect_keeps c lines rho overlap s hk
  | macFrameRx r rx => exact execMacFrameRx_keeps r rx s hk
  | seenAgeExpire src seq epoch => exact execSeenAgeExpire_keeps src seq epoch s hk
  | reelAckTimeout src seq epoch => exact execReelAckTimeout_keeps src seq epoch s hk
  | fwdHoldExpire id => exact execFwdHoldExpire_keeps id s hk
  | routeAdvTimer => exact execRouteAdvTimer_keeps s hk
  | routeAdvRx c src d => exact execRouteAdvRx_keeps c src d s hk
  | routeExpire j => exact execRouteExpire_keeps j s hk
  | linkDown c peer => exact execLinkDown_keeps c peer s hk
  | rteRead q => exact execRteRead_keeps q s hk
  | rteWrite q => exact execRteWrite_keeps q s hk
  | rteDelete q => exact execRteDelete_keeps q s hk
  | rteLookup q => exact execRteLookup_keeps q s hk
  | rteFlush q => exact execRteFlush_keeps q s hk
  | seenFlush q => exact execSeenFlush_keeps q s hk
  | seenQuery q => exact execSeenQuery_keeps q s hk
  | dirLookup q => exact execDirLookup_keeps q s hk
  | dirInsert q => exact execDirInsert_keeps q s hk
  | dirDelete q => exact execDirDelete_keeps q s hk
  | mergeNow q => exact execMergeNow_keeps q s hk
  | dirDramFetchDone x ok => exact execDirDramFetchDone_keeps x ok s hk
  | claimWaitExpire => exact execClaimWaitExpire_keeps s hk
  | dirMergeRx d => exact execDirMergeRx_keeps d s hk
  | sleepTimerWake => exact execSleepTimerWake_keeps s hk
  | wakeComplete slots frac edges => exact execWakeComplete_keeps slots frac edges s hk
  | wakeRx c src rx d => exact execWakeRx_keeps c src rx d s hk
  | answerBurst => exact execAnswerBurst_keeps s hk
  | answerWindowEnd c k alive aliveUp => exact execAnswerWindowEnd_keeps c k alive aliveUp s hk
  | rendezvousMiss => exact execRendezvousMiss_keeps s hk
  | stayEnd => exact execStayEnd_keeps s hk
  | adriftListenEnd => exact execAdriftListenEnd_keeps s hk
  | adriftWaitEnd => exact execAdriftWaitEnd_keeps s hk
  | announceNow q => exact execAnnounceNow_keeps q s hk
  | sleepAnnounceRx src d => exact execSleepAnnounceRx_keeps src d s hk
  | energyWindowEnd => exact execEnergyWindowEnd_keeps s hk
  | dbSqWrite q t k => exact execDbSqWrite_keeps q t k s hk
  | dbCqWrite q t k => exact execDbCqWrite_keeps q t k s hk
  | ringEnable q t k cq => exact execRingEnable_keeps q t k cq s hk
  | sqDisable q t k => exact execSqDisable_keeps q t k s hk
  | cqDisable q t k => exact execCqDisable_keeps q t k s hk
  | descFetchDone o => exact execDescFetchDone_keeps o s hk
  | payloadReadDone t id r => exact execPayloadReadDone_keeps t id r s hk
  | completionWriteDone t q ok => exact execCompletionWriteDone_keeps t q ok s hk
  | ackRx c peer recs => exact execAckRx_keeps c peer recs s hk
  | lseqGapExpire c peer => exact execLseqGapExpire_keeps c peer s hk
  | e2eTimeout t id => exact execE2eTimeout_keeps t id s hk
  | holdLimitExpire t id => exact execHoldLimitExpire_keeps t id s hk
  | confirmationRx src recs => exact execConfirmationRx_keeps src recs s hk
  | reasmTimeout src svc prio no dev => exact execReasmTimeout_keeps src svc prio no dev s hk
  | orderWaitExpire t id => exact execOrderWaitExpire_keeps t id s hk
  | deliveryStart t q bad => exact execDeliveryStart_keeps t q bad s hk
  | deliveryWriteDone t ok => exact execDeliveryWriteDone_keeps t ok s hk
  | waitAgeExpire t id => exact execWaitAgeExpire_keeps t id s hk
  | qmemWrite q t => exact execQmemWrite_keeps q t s hk
  | tenantFeatLock q t => exact execTenantFeatLock_keeps q t s hk
  | tntMctlReset q t => exact execTntMctlReset_keeps q t s hk
  | tntReset q t => exact execTntReset_keeps q t s hk
  | tenantResetDone t => exact execTenantResetDone_keeps t s hk
  | crDbSqWrite q t => exact execCrDbSqWrite_keeps q t s hk
  | crDbCqWrite q t => exact execCrDbCqWrite_keeps q t s hk
  | cipherEncrypt t r => exact execCipherEncrypt_keeps t r s hk
  | cipherDecrypt t r => exact execCipherDecrypt_keeps t r s hk
  | cipherMac t r => exact execCipherMac_keeps t r s hk
  | cipherVerify t r => exact execCipherVerify_keeps t r s hk
  | cipherRandom t => exact execCipherRandom_keeps t s hk
  | loadKey t r => exact execLoadKey_keeps t r s hk
  | keyUnload t => exact execKeyUnload_keeps t s hk
  | cipherLaneDone j wr => exact execCipherLaneDone_keeps j wr s hk
  | pkLoad q => exact execPkLoad_keeps q s hk
  | pkClear q => exact execPkClear_keeps q s hk
  | keyDerive q => exact execKeyDerive_keeps q s hk
  | groupLoad q => exact execGroupLoad_keeps q s hk
  | ownLoad q => exact execOwnLoad_keeps q s hk
  | wktPut q => exact execWktPut_keeps q s hk
  | slotQuery q => exact execSlotQuery_keeps q s hk
  | slotClear q => exact execSlotClear_keeps q s hk
  | zeroise q => exact execZeroise_keeps q s hk
  | provLock q => exact execProvLock_keeps q s hk
  | nodeKeyResolved h readable => exact execNodeKeyResolved_keeps h readable s hk
  | nonceReserveDone => exact execNonceReserveDone_keeps s hk
  | keySlotParity k => exact execKeySlotParity_keeps k s hk
  | keySlotRestored k => exact execKeySlotRestored_keeps k s hk
  | entropyHealthTest pass => exact execEntropyHealthTest_keeps pass s hk
  | drbgHalt => exact execDrbgHalt_keeps s hk
  | entropyRetest pass => exact execEntropyRetest_keeps pass s hk
  | reseedNow q => exact execReseedNow_keeps q s hk
  | entRandRead q => exact execEntRandRead_keeps q s hk
  | cipherTestPeriod => exact execCipherTestPeriod_keeps s hk
  | cipherTestStart q => exact execCipherTestStart_keeps q s hk
  | cipherTestDone pass => exact execCipherTestDone_keeps pass s hk
  | cipherLaneFail j => exact execCipherLaneFail_keeps j s hk
  | fatalFault f => exact execFatalFault_keeps f s hk
  | watchdogExpire => exact execWatchdogExpire_keeps s hk
  | forceLowWrite q => exact execForceLowWrite_keeps q s hk
  | heartbeatTx high lanes replays => exact execHeartbeatTx_keeps high lanes replays s hk
  | heartbeatRx lane b => exact execHeartbeatRx_keeps lane b s hk
  | heartbeatLoss => exact execHeartbeatLoss_keeps s hk
  | peerOkFall => exact execPeerOkFall_keeps s hk
  | twinElection high => exact execTwinElection_keeps high s hk
  | bulkCopyDone => exact execBulkCopyDone_keeps s hk
  | mirrorRecordRx seq progress m => exact execMirrorRecordRx_keeps seq progress m s hk
  | mirrorAckRx seq => exact execMirrorAckRx_keeps seq s hk
  | twinSwap q => exact execTwinSwap_keeps q s hk
  | twinResync q => exact execTwinResync_keeps q s hk
  | twinLaneFail lane => exact execTwinLaneFail_keeps lane s hk
  | rowMarchTest sbuf fail words => exact execRowMarchTest_keeps sbuf fail words s hk
  | sramScrub corrected => exact execSramScrub_keeps corrected s hk
  | vsSample frac va vb vc taps => exact execVsSample_keeps frac va vb vc taps s hk
  | mainsTimeout frac => exact execMainsTimeout_keeps frac s hk
  | monDataRead q m => exact execMonDataRead_keeps q m s hk
  | bankSwap q m => exact execBankSwap_keeps q m s hk
  | pciePerst pin => exact execPciePerst_keeps pin s hk
  | pcieLinkUp speed two => exact execPcieLinkUp_keeps speed two s hk
  | pcieFlr fn => exact execPcieFlr_keeps fn s hk
  | bmeChange fn bme d3 msixEn => exact execBmeChange_keeps fn bme d3 msixEn s hk
  | pcieRequestNoBar fn => exact execPcieRequestNoBar_keeps fn s hk
  | shpRead addr ws clocked => exact execShpRead_keeps addr ws clocked s hk
  | shpQread addr ws clocked => exact execShpQread_keeps addr ws clocked s hk
  | shpWrite addr ws part => exact execShpWrite_keeps addr ws part s hk
  | shpQwrite addr ws part => exact execShpQwrite_keeps addr ws part s hk
  | shpStatus n => exact execShpStatus_keeps n s hk
  | readHeld clocked => exact execReadHeld_keeps clocked s hk
  | shpBadCmd => exact execShpBadCmd_keeps s hk
  | shpReadyTimeout addr ws => exact execShpReadyTimeout_keeps addr ws s hk
  | uartRxChar u data par stop => exact execUartRxChar_keeps u data par stop s hk
  | uartTxChar u cts => exact execUartTxChar_keeps u cts s hk
  | uartTxdWrite q u => exact execUartTxdWrite_keeps q u s hk
  | uartRxdRead q u bad => exact execUartRxdRead_keeps q u bad s hk
  | uartIdle u => exact execUartIdle_keeps u s hk
  | uartBreak u => exact execUartBreak_keeps u s hk
  | rxFlush q u => exact execRxFlush_keeps q u s hk
  | txFlush q u => exact execTxFlush_keeps q u s hk
  | cmdInSample hi mid => exact execCmdInSample_keeps hi mid s hk
  | cmdInActivate j => exact execCmdInActivate_keeps j s hk
  | cmdInDeactivate j => exact execCmdInDeactivate_keeps j s hk
  | cmdOutHoldExpire j => exact execCmdOutHoldExpire_keeps j s hk
  | pmxSelect q n => exact execPmxSelect_keeps q n s hk
  | pmxSwitchDone n => exact execPmxSwitchDone_keeps n s hk
  | tapInstruction j => exact execTapInstruction_keeps j s hk
  | shedStage j vin => exact execShedStage_keeps j vin s hk
  | restoreTimerExpire j => exact execRestoreTimerExpire_keeps j s hk
  | stage5JournalDone => exact execStage5JournalDone_keeps s hk
  | supplyReset vin vbat => exact execSupplyReset_keeps vin vbat s hk
  | aoPor vin vbat => exact execAoPor_keeps vin vbat s hk
  | vbatLow vbat => exact execVbatLow_keeps vbat s hk
  | railFault rail => exact execRailFault_keeps rail s hk
  | idleEnter => exact execIdleEnter_keeps s hk
  | pwrSlumber q => exact execPwrSlumber_keeps q s hk
  | pwrStandby q => exact execPwrStandby_keeps q s hk
  | pwrWake q => exact execPwrWake_keeps q s hk
  | alarmMatch => exact execAlarmMatch_keeps s hk
  | xtal32Fail => exact execXtal32Fail_keeps s hk
  | xtal32Restore => exact execXtal32Restore_keeps s hk
  | refclkLoss pll => exact execRefclkLoss_keeps pll s hk
  | cnvpllUnlock => exact execCnvpllUnlock_keeps s hk
  | cnvpllRelock => exact execCnvpllRelock_keeps s hk
  | drampllUnlock => exact execDrampllUnlock_keeps s hk
  | pcieRefLoss => exact execPcieRefLoss_keeps s hk
  | dramTrainDone ok mib => exact execDramTrainDone_keeps ok mib s hk
  | deviceReset q => exact execDeviceReset_keeps q s hk
  | pinReset => exact execPinReset_keeps s hk
  | bootStart r => exact execBootStart_keeps r s hk
  | bootDone us => exact execBootDone_keeps us s hk
  | bootRecordApply => exact execBootRecordApply_keeps s hk
  | bootSave q => exact execBootSave_keeps q s hk
  | bootErase q => exact execBootErase_keeps q s hk
  | bootSaveDone => exact execBootSaveDone_keeps s hk
  | thermalSample l drv => exact execThermalSample_keeps l drv s hk
  | thermalWarnClear => exact execThermalWarnClear_keeps s hk
  | thermalShutdown => exact execThermalShutdown_keeps s hk
  | thermalRelease => exact execThermalRelease_keeps s hk
  | updBegin q => exact execUpdBegin_keeps q s hk
  | updDataWrite q => exact execUpdDataWrite_keeps q s hk
  | updOffsetWrite q => exact execUpdOffsetWrite_keeps q s hk
  | stagingRowWrite waits => exact execStagingRowWrite_keeps waits s hk
  | verifyImage q => exact execVerifyImage_keeps q s hk
  | verifyDone => exact execVerifyDone_keeps s hk
  | updActivate q => exact execUpdActivate_keeps q s hk
  | activationRestartDone => exact execActivationRestartDone_keeps s hk
  | migrationDone => exact execMigrationDone_keeps s hk
  | updCommit q => exact execUpdCommit_keeps q s hk
  | updRollback q => exact execUpdRollback_keeps q s hk
  | updAbort q => exact execUpdAbort_keeps q s hk
  | updRevoke q => exact execUpdRevoke_keeps q s hk
  | nvmRowRead q bits => exact execNvmRowRead_keeps q bits s hk
  | scrubRow bits waits => exact execScrubRow_keeps bits waits s hk
  | logCompact free recs => exact execLogCompact_keeps free recs s hk
  | compacted free => exact execCompacted_keeps free s hk
  | cntSnap q => exact execCntSnap_keeps q s hk
  | cntSnapClr q => exact execCntSnapClr_keeps q s hk
  | cntClrAll q => exact execCntClrAll_keeps q s hk
  | holdRelease q => exact execHoldRelease_keeps q s hk
  | snapPeriod => exact execSnapPeriod_keeps s hk
  | snapDone => exact execSnapDone_keeps s hk
  | hstCfgWrite q h j filter => exact execHstCfgWrite_keeps q h j filter s hk
  | hstClr q h j => exact execHstClr_keeps q h j s hk
  | vinRisingThreshold j vin => exact execVinRisingThreshold_keeps j vin s hk
  | pd0SupplyLoss => exact execPd0SupplyLoss_keeps s hk
  | drampllRelock => exact execDrampllRelock_keeps s hk
  | pcieRefRestore => exact execPcieRefRestore_keeps s hk
  | pciePerstRise => exact execPciePerstRise_keeps s hk
  | dramScrub corrected bad => exact execDramScrub_keeps corrected bad s hk
  | mirrorRecordLost => exact execMirrorRecordLost_keeps s hk
  | directRequestSetAside j => exact execDirectRequestSetAside_keeps j s hk

end Sys2Proof.Machine
end

