-- ==== Sys2Proof/WellFormed.lean ====
section
/-! DEFINITION. Well-formed commands: the ranges that a command's operands have on the device's interfaces. The meanings are total and do
not rest on it. -/

set_option Elab.async false

namespace Sys2Proof

/-- Bytes. -/
def bytesOk (l : List Nat) : Bool := l.all fun b => decide (b < 256)

/-- A bound. -/
def below (n x : Nat) : Bool := decide (x < n)

/-- The place of a word access: aligned, and within its page or BAR0 (R44, R45, R53). -/
def locOk : Loc → Bool
  | .reg _ o => decide (o < 0x1000 ∧ o % 4 = 0)
  | .mgr a => decide (a < 0x2000000 ∧ a % 4 = 0)
  | .ten _ o => decide (o < 0x200000 ∧ o % 4 = 0)

/-- What a read of host memory brings. -/
def fetchedOk : Fetched → Bool
  | .ok b _ => bytesOk b
  | .fail => true

/-- The words of a serial read: at most 255 wait bytes each (R418). -/
def readsOk (l : List SerRead) : Bool := l.all fun w => decide (w.waits ≤ 255)

/-- A beacon's record: 32 bytes. -/
def beaconOk (b : BeaconIn) : Bool := decide (b.bytes.length = 32) && bytesOk b.bytes

/-- The readings of the eight sensors (R467). -/
def sensorsOk (l : List Int) : Bool := decide (l.length = 8)

/-- Whether a command is well formed. -/
def Instr.wf : Instr → Bool
  | .writeRegister _ l _ => locOk l
  | .pairedLowRead _ l _ => locOk l
  | .pairedHighRead _ l _ => locOk l
  | .enableSet _ _ => true
  | .enableClear _ _ => true
  | .quiescent _ => true
  | .sreset _ _ => true
  | .softResetDone _ => true
  | .testIsolate _ _ => true
  | .isolatedTestDone _ _ => true
  | .pgEventClear _ _ => true
  | .pgEventEnWrite _ _ => true
  | .pgEventSet _ _ => true
  | .msixUnmask _ _ _ => true
  | .pgFaultClear _ _ => true
  | .cntClr _ _ => true
  | .eventRouteChange _ _ => true
  | .featAcceptWrite _ _ => true
  | .featLock _ => true
  | .violClr _ => true
  | .slotBoundary _ => true
  | .symbolBoundary _ frac _ _ _ => below (2 ^ 20) frac
  | .superframeBoundary _ => true
  | .sy1Detect _ frac _ => below (2 ^ 20) frac
  | .vdrvSet _ => true
  | .vdrvSettled _ => true
  | .vdrvUv _ => true
  | .ledgerCapWrite _ => true
  | .shareWrite _ _ => true
  | .drvCurrentLimit _ => true
  | .paTrip _ _ => true
  | .drvThermal _ _ => true
  | .fcDecode _ _ _ _ => true
  | .decodeDone _ _ _ _ _ _ _ => true
  | .soundingRx _ _ => true
  | .proposeNow _ _ => true
  | .soundRequest _ _ => true
  | .linkSelect _ _ => true
  | .tmapProposalRx _ _ => true
  | .tmapStatusRx _ peer _ _ _ => below (2 ^ 24) peer
  | .turnBoundary => true
  | .spindleJobDone _ => true
  | .jobDeadline _ _ => true
  | .decIterWrite _ => true
  | .admissionDone => true
  | .lgTestPeriod _ => true
  | .lgTestStart _ _ => true
  | .lgTestDone _ _ => true
  | .lgSelfCheckFail _ _ => true
  | .beaconRx _ x => beaconOk x
  | .syncLost => true
  | .schedStageGo _ => true
  | .figNextGo _ => true
  | .dwlBucket _ => true
  | .priorityWindow _ _ => true
  | .priorityBurstRx _ _ _ => true
  | .backoffMinislot _ _ => true
  | .cmdCopySend _ _ => true
  | .cmdRepeat _ _ => true
  | .cmdDetect _ _ _ _ => true
  | .macFrameRx r _ => bytesOk r.bytes
  | .seenAgeExpire src _ _ => below (2 ^ 24) src
  | .reelAckTimeout src _ _ => below (2 ^ 24) src
  | .fwdHoldExpire _ => true
  | .routeAdvTimer => true
  | .routeAdvRx _ src d => below (2 ^ 24) src && bytesOk d
  | .routeExpire _ => true
  | .linkDown _ peer => below (2 ^ 24) peer
  | .rteRead _ => true
  | .rteWrite _ => true
  | .rteDelete _ => true
  | .rteLookup _ => true
  | .rteFlush _ => true
  | .seenFlush _ => true
  | .seenQuery _ => true
  | .dirLookup _ => true
  | .dirInsert _ => true
  | .dirDelete _ => true
  | .mergeNow _ => true
  | .dirDramFetchDone x _ => below (2 ^ 24) x
  | .claimWaitExpire => true
  | .dirMergeRx d => bytesOk d
  | .sleepTimerWake => true
  | .wakeComplete _ frac _ => below (2 ^ 20) frac
  | .wakeRx _ src _ d => below (2 ^ 24) src && bytesOk d
  | .answerBurst => true
  | .answerWindowEnd _ _ _ _ => true
  | .rendezvousMiss => true
  | .stayEnd => true
  | .adriftListenEnd => true
  | .adriftWaitEnd => true
  | .announceNow _ => true
  | .sleepAnnounceRx src d => below (2 ^ 24) src && bytesOk d
  | .energyWindowEnd => true
  | .dbSqWrite _ _ _ => true
  | .dbCqWrite _ _ _ => true
  | .ringEnable _ _ _ _ => true
  | .sqDisable _ _ _ => true
  | .cqDisable _ _ _ => true
  | .descFetchDone o => fetchedOk o
  | .payloadReadDone _ _ r => fetchedOk r
  | .completionWriteDone _ _ _ => true
  | .ackRx _ peer _ => below (2 ^ 24) peer
  | .lseqGapExpire _ peer => below (2 ^ 24) peer
  | .e2eTimeout _ _ => true
  | .holdLimitExpire _ _ => true
  | .confirmationRx src _ => below (2 ^ 24) src
  | .reasmTimeout src _ _ _ _ => below (2 ^ 24) src
  | .orderWaitExpire _ _ => true
  | .deliveryStart _ _ _ => true
  | .deliveryWriteDone _ _ => true
  | .waitAgeExpire _ _ => true
  | .qmemWrite _ _ => true
  | .tenantFeatLock _ _ => true
  | .tntMctlReset _ _ => true
  | .tntReset _ _ => true
  | .tenantResetDone _ => true
  | .crDbSqWrite _ _ => true
  | .crDbCqWrite _ _ => true
  | .cipherEncrypt _ r => fetchedOk r
  | .cipherDecrypt _ r => fetchedOk r
  | .cipherMac _ r => fetchedOk r
  | .cipherVerify _ r => fetchedOk r
  | .cipherRandom _ => true
  | .loadKey _ r => fetchedOk r
  | .keyUnload _ => true
  | .cipherLaneDone _ _ => true
  | .pkLoad _ => true
  | .pkClear _ => true
  | .keyDerive _ => true
  | .groupLoad _ => true
  | .ownLoad _ => true
  | .wktPut _ => true
  | .slotQuery _ => true
  | .slotClear _ => true
  | .zeroise _ => true
  | .provLock _ => true
  | .nodeKeyResolved _ _ => true
  | .nonceReserveDone => true
  | .keySlotParity _ => true
  | .keySlotRestored _ => true
  | .entropyHealthTest _ => true
  | .drbgHalt => true
  | .entropyRetest _ => true
  | .reseedNow _ => true
  | .entRandRead _ => true
  | .cipherTestPeriod => true
  | .cipherTestStart _ => true
  | .cipherTestDone _ => true
  | .cipherLaneFail _ => true
  | .fatalFault _ => true
  | .watchdogExpire => true
  | .forceLowWrite _ => true
  | .heartbeatTx _ _ _ => true
  | .heartbeatRx _ _ => true
  | .heartbeatLoss => true
  | .peerOkFall => true
  | .twinElection _ => true
  | .bulkCopyDone => true
  | .mirrorRecordRx _ _ _ => true
  | .mirrorAckRx _ => true
  | .twinSwap _ => true
  | .twinResync _ => true
  | .twinLaneFail _ => true
  | .rowMarchTest _ _ _ => true
  | .sramScrub _ => true
  | .vsSample frac _ _ _ _ => below (2 ^ 20) frac
  | .mainsTimeout frac => below (2 ^ 20) frac
  | .monDataRead _ _ => true
  | .bankSwap _ _ => true
  | .pciePerst _ => true
  | .pcieLinkUp _ _ => true
  | .pcieFlr _ => true
  | .bmeChange _ _ _ _ => true
  | .pcieRequestNoBar _ => true
  | .shpRead addr ws _ => below (2 ^ 24) addr && readsOk ws
  | .shpQread addr ws _ => below (2 ^ 24) addr && readsOk ws
  | .shpWrite addr _ _ => below (2 ^ 24) addr
  | .shpQwrite addr _ _ => below (2 ^ 24) addr
  | .shpStatus _ => true
  | .readHeld _ => true
  | .shpBadCmd => true
  | .shpReadyTimeout addr ws => below (2 ^ 24) addr && readsOk ws
  | .uartRxChar _ data _ _ => below 512 data
  | .uartTxChar _ _ => true
  | .uartTxdWrite _ _ => true
  | .uartRxdRead _ _ _ => true
  | .uartIdle _ => true
  | .uartBreak _ => true
  | .rxFlush _ _ => true
  | .txFlush _ _ => true
  | .cmdInSample hi mid => below 256 hi && below 256 mid
  | .cmdInActivate _ => true
  | .cmdInDeactivate _ => true
  | .cmdOutHoldExpire _ => true
  | .pmxSelect _ _ => true
  | .pmxSwitchDone _ => true
  | .tapInstruction _ => true
  | .shedStage _ vin => below (2 ^ 16) vin
  | .restoreTimerExpire _ => true
  | .stage5JournalDone => true
  | .supplyReset vin vbat => below (2 ^ 16) vin && below (2 ^ 16) vbat
  | .aoPor vin vbat => below (2 ^ 16) vin && below (2 ^ 16) vbat
  | .vbatLow vbat => below (2 ^ 16) vbat
  | .railFault _ => true
  | .idleEnter => true
  | .pwrSlumber _ => true
  | .pwrStandby _ => true
  | .pwrWake _ => true
  | .alarmMatch => true
  | .xtal32Fail => true
  | .xtal32Restore => true
  | .refclkLoss _ => true
  | .cnvpllUnlock => true
  | .cnvpllRelock => true
  | .drampllUnlock => true
  | .pcieRefLoss => true
  | .dramTrainDone _ _ => true
  | .deviceReset _ => true
  | .pinReset => true
  | .bootStart _ => true
  | .bootDone _ => true
  | .bootRecordApply => true
  | .bootSave _ => true
  | .bootErase _ => true
  | .bootSaveDone => true
  | .thermalSample l _ => sensorsOk l
  | .thermalWarnClear => true
  | .thermalShutdown => true
  | .thermalRelease => true
  | .updBegin _ => true
  | .updDataWrite _ => true
  | .updOffsetWrite _ => true
  | .stagingRowWrite _ => true
  | .verifyImage _ => true
  | .verifyDone => true
  | .updActivate _ => true
  | .activationRestartDone => true
  | .migrationDone => true
  | .updCommit _ => true
  | .updRollback _ => true
  | .updAbort _ => true
  | .updRevoke _ => true
  | .nvmRowRead _ _ => true
  | .scrubRow _ _ => true
  | .logCompact _ _ => true
  | .compacted _ => true
  | .cntSnap _ => true
  | .cntSnapClr _ => true
  | .cntClrAll _ => true
  | .holdRelease _ => true
  | .snapPeriod => true
  | .snapDone => true
  | .hstCfgWrite _ _ _ _ => true
  | .hstClr _ _ _ => true
  | .vinRisingThreshold _ vin => below (2 ^ 16) vin
  | .pd0SupplyLoss => true
  | .drampllRelock => true
  | .pcieRefRestore => true
  | .pciePerstRise => true
  | .dramScrub _ _ => true
  | .mirrorRecordLost => true
  | .directRequestSetAside _ => true

end Sys2Proof
end

