-- ==== Sys2Proof/Tests/Slice0.lean ====
section
/-! SUPPORT. Tests: commands that are not well formed, worked examples of the spec, and, for each statement, states and operands that meet the
premises of its clauses together. Each theorem is about one step, or none, on a small state. -/

set_option Elab.async false

namespace Sys2Proof.Tests

open Sys2Proof Sys2Proof.Machine

/-- A device in RUN with every domain on, booted, its features all accepted and locked. -/
def up : State :=
  let s : State := { State.reset with pwr := { Pwr.reset with
    mode := .run, vin := 1200, vbat := 3000, stages := List.replicate 5 ⟨false, false, false⟩, supply := false, dom := List.replicate 20 .on
    clk := ⟨true, true, true, true, true, true, true⟩, dram := ⟨true, false, false, 4096⟩ } }
  ((s.setFlag .rst F.RST_STAT_BOOT_DONE true).setReg .dev 0x050 0x00FFFFFF).setFlag .dev F.DEV_FEAT_LOCK_LOCK true

/-- The same with a page's ENABLE set. -/
def on (p : Page) : State := up.setReg p offCtrl 1

/-- The same before the lock. -/
def open_ : State := up.setFlag .dev F.DEV_FEAT_LOCK_LOCK false

def w (v : Nat) : Req := ⟨false, BitVec.ofNat 32 v, 15⟩

/-- The same with a periodic snapshot due. -/
def per (s : State) : State := s.setFld .cnt F.CNT_CTRL_MODE 1

def rd : RdReq := ⟨false, 15⟩

def env0 : AccEnv := ⟨false, 0⟩

/-- A slot that brings no more than its voltages. -/
def slotIn0 : SlotIn := { ports := [], imps := [], quiet := [], rest := [], echo := [], guard := [], vin := 1200, vbat := 3000, edges := 0 }

/-- Settings with one field replaced. -/
def cfgSet (cfg : List Word) (f : Fld) (v : Nat) : List Word :=
  let i := if f.off < 0x400 then (f.off - 0x040) / 4 else 13 + (f.off - 0x400) / 4
  cfg.set i (f.put v (cfg.getD i 0))

/-- Settings of an N1k channel on N0 that carries commands and keeps a ledger. -/
def cfg0 : List Word :=
  cfgSet (cfgSet (cfgSet (cfgSet (List.replicate 15 0) F.CH_PORTS_N 1) F.CH_CMD_EN 1) F.CH_FIG_DWL_EN 1) F.CH_ADP_CTRL_AUTO_PROPOSE 1

/-- A synchronised device with channel 0 active on port N0. -/
def chUp (f : Chan → Chan) : State :=
  let s := ((((on (.np 0)).setFld .sch F.SCH_NODE_NODE 5).setFlag .sch F.SCH_CT_STAT_SYNC true).setReg .cmd offCtrl 1)
  { s with line := { s.line with drvOk := true, ports := s.line.ports.set 0 { Port.reset with inSvc := true }
                                 chans := s.line.chans.set 0 (f { Chan.reset with live := some cfg0 }) } }

/-- The same without further state of the channel. -/
def ch0 : State := chUp id

/-- A map of channel 0 to node 9 and its proposal. -/
def prop0 (id : Nat) : Proposal := ⟨9, id, 5, none, 0, 0, 0, 0, 0, 15, [], precRecord 0 id 0 0 [0]⟩

def link0 (rx tx : Dir) : Link5 := { State.reset.freshLink 0 9 with rx := rx, tx := tx }

def sound0 (k : Nat) : Sounding :=
  { fcOk := true, cwOk := true, recVer := 0, k := k, sounder := 9, seq := 0, ports := 0, theta := none, peer := 5, peerSeq := 0, arrival := 0,
    arrValid := false, ownOfs := 0, snr := 0 }

/-- A transmission of channel 0 in the slot in progress. -/
def tx0 : Tx :=
  { slot := 0, len := 1, ty := 4, fc := 0, set := [], mask := 0, mute := 0, nFc := 2, nd := 1, bits := [], frames := [], bytes := [], peer := 9,
    relay := false, mini := 0, sym := 0, late := [] }

/-- A reception of channel 0 in a slot of a type, its SY1 just detected. -/
def rx0 (ty : Nat) : RxFrame :=
  { slot := 0, ty := ty, at_ := 0, fc := none, set := [], np := 1, sym := 0, late := [], soft := [], cmd := [], est := [], strm := [] }

/-- A job, and a device with jobs in the Spindle. -/
def job0 (stn : Nat) (k : JobKind) (lane : Option Nat) (fc : Nat) : Job :=
  { id := 7, stn := stn, kind := k, chan := 0, port := 0, idx := 0, turns := 1, ran := 99, due := 0, since := 0, ready := none, needs := [],
    lane := lane, limit := 8, slot := 0, fc := fc }

def jobs (s : State) (l : List Job) : State := { s with line := { s.line with spx := { s.line.spx with jobs := l } } }

/-- An FC word with only its type, and the bits in which it is received. -/
def fc3 : Nat := 3 * 2 ^ 92

def fcBits (w : Nat) : Nat := ofBits (scramble 0x7FFFFF (fcWithCrc w))

/-- A route to every node, a device with it, and one whose network holds what is given. -/
def route0 : Route := ⟨16383, 0, 0, 9, 0, 0, 0, 0, 10, 1, 70, false, false, false, false⟩

def netUp (s : State) (f : Net → Net) : State := { s with net := f s.net }

/-- A directory entry of node 9 at its first place. -/
def dirUp : State := (on .dir).dirMake 36848 9 15 0x40

def flood0 (st : FloodSt) : Flood := ⟨9, 3, 0, st, 1, 0, 0, 0, [], [], 4000, none, false, false, []⟩

def frame0 (st : FrameSt) (noRoute : Option Nat) (h : Nat) : Frame := ⟨6, .fwd, 0, [], [], 255, 0, h, [], none, st, 0, 0, none, [], noRoute, false⟩

def mac0 : MacRx := ⟨0, 0, [], 0⟩

def late (s : State) : State := { s with line := { s.line with sched := { s.line.sched with sfN := 100000, slotN := 100000 } } }

/-- The key store enabled, with arguments, key material staged, and an entry of the privileged store. -/
def keyUp (args : List Nat) (stage : List Nat) (pk : Pk) : State :=
  let s := ((List.range 4).foldl (fun s i => s.setReg .key (0x044 + 4 * i) (BitVec.ofNat 32 (args.getD i 0))) ((on .key).setReg .cph 0x040 0x3FFFFFF))
  let s := (List.range stage.length).foldl (fun s i => s.setReg .key (0x0C0 + 4 * i) (BitVec.ofNat 32 (stage.getD i 0))) s
  { s with cph := { s.cph with pk := s.cph.pk.set 1 pk } }

def keyCmd (s : State) (v : Nat) : State :=
  let a := applyWrite .key 0x040 (w v).val (s.at_ .key false)
  { a with cph := { a.cph with busy := true } }

def wrapG : List Nat := [2750991573, 1364233233, 3154886485, 2874293372, 1503447707, 2394783105, 3468904118, 2518395016]

def wrapN : List Nat := [291122437, 2692345848, 159697519, 102241971, 3670897956, 2434125865, 2772330816, 4170768504]

def slot0 (typ : Nat) (lost : Bool) : KeySlot := ⟨typ, false, true, 8, true, 0, 0, 1, 0, 77, 0, none, lost⟩

/-- Tenant 7 with its features locked and its function a bus master; ring 0 enabled or not; and with what it holds. -/
def tenUp : State :=
  ((up.setFlag (.tpage 7) F.TNT_FEAT_LOCK_LOCK true).setReg (.tpage 7) 0x044 0xFFFFFFFF).setFn 8 { PcieFn.reset with bme := true }

def rings : State :=
  ((((tenUp.setRing 7 0 F.TNT_SQ_CFG_EN 1).setRing 7 0 F.TNT_CQ_CFG_EN 1).setRing 7 0 F.TNT_SQ_CFG_SIZE_LOG2 4).setRing 7 0
    F.TNT_CQ_CFG_SIZE_LOG2 4).setRing 7 8 F.TNT_SQ_CFG_EN 1

def ten (s : State) (f : Tenant → Tenant) : State := s.setTenant 7 (f (s.tenant 7))

def msg0 (handed : Option Nat) (e2e : Bool) : Msg := ⟨3, 7, 0, 0, 9, 1, 0, 0, 4, 0, e2e, false, none, false, 0, 0, 0, none, [], false, handed, 0, false⟩

def wait0 (ordered : Bool) : Waiting := ⟨4, 0, 9, 1, 0, 0, false, [1], 0, 0, ordered, true, false, false⟩

def buf0 : Buf := ⟨1, 0, 2, 64, 0, false⟩

/-- A cipher descriptor of 64 bytes: its first bytes, then zeros. -/
def desc0 (l : List Nat) : List Nat := l ++ List.replicate (64 - l.length) 0

def cr (l : List Nat) : State := { ten tenUp fun x => { x with creqs := [(0, desc0 l)] } with cph := { tenUp.cph with
  slots := [(100, ⟨0, false, true, 15, false, 7, 1, 4, 0, 0, 0, none, false⟩)] } }

/-- Its `takeCr`, the rest of which is looked at by the function. -/
def crTake (s : State) (o : Nat) (f : List Nat → State → Bool) : Bool := match s.takeCr 7 o with | some (d, u) => f d u | none => false

def creq0 (t : Nat) : CReq := ⟨1, .direct t (desc0 [0x10, 0, 100]) [], 0, none, false⟩

/-- A beacon of root 0 or 7, with its tag under the key of slot 64. -/
def bkey : KeySlot := ⟨3, false, true, 8, true, 15, 0, 1, 5, 0, 0, none, false⟩

def bcn0 (root : Nat) : BeaconIn :=
  let b := [0, 0, 0, 0, 0, 0, 0, root, 0, 0, 0, 1] ++ List.replicate 12 0
  ⟨true, true, 512, b ++ (if root = 0 then [59, 218, 31, 32, 105, 104, 202, 124] else [69, 246, 143, 217, 224, 210, 12, 190]), 9, 0, 0⟩

def bcnUp (s : State) : State := { (s.setFld .key F.KEY_DEV_BEACON 64).setReg .cph 0x040 0x3FFFFFF with cph := { s.cph with slots := [(64, bkey)] } }

/-- A sleeping node in a state of Table 09-5. -/
def slp (n : Nat) (f : Sleep → Sleep) : State :=
  let s := ((ch0.setReg .slp offCtrl 1).setFlag .slp F.SLP_CFG_SLEEP_EN true).setSlpState n
  { s with slp := f s.slp }

def pwrIn (s : State) (f : Pwr → Pwr) : State := { s with pwr := f s.pwr }

/-- Boot, update and twin state beside the registers. -/
def nvmIn (s : State) (f : Nvm → Nvm) : State := { s with nvm := f s.nvm }

def updIn (f : Upd → Upd) : State := nvmIn up fun n => { n with upd := f n.upd }

def trial : State := nvmIn up fun n => { n with act := ⟨true, 0, 1, 1, 0, false⟩ }

def beat0 (state : Nat) (serving iso : Bool) : Beat := ⟨state, serving, 0, 0, 0, 0, 0, 0, 2, false, iso, 0, 0, 0, false, 0, 0, 0, 0⟩

def twin (st : Nat) (f : Twin → Twin) : State :=
  let s := ((on .twn).setFlag .twn F.TWN_CFG_EN true).setFld .twn F.TWN_STAT_STATE st
  { s with twn := f s.twn }

def rec0 : BootRec := ⟨1, [], 0, [], 0, 0⟩

/-- A map is stored where a free block is at hand, whichever the device takes. -/
theorem map_stored (s : State) (c n : Nat) (p : Proposal) (sf b : Nat)
    (hb : b < s.mapBlocks) (hf : s.blocksFree b (ceilDiv (mapWords n p.rows.length (p.streams + 1) (p.prec.length - 8)) 256) = true) :
    (s.storeMap c n p sf).1.isSome = true := by
  have ha : ∀ k, s.blocksFree b k = true → (s.allocate k).1.isSome = true := by
    intro k hk
    unfold State.allocate
    generalize hl : (List.range s.mapBlocks).filter (fun b => s.blocksFree b k) = l
    have hm : b ∈ l := by rw [← hl]; simp [hb, hk]
    have hp : 0 < l.length := List.length_pos_of_mem hm
    have hi : s.freeNat.1 % max 1 l.length < l.length := by
      have := Nat.mod_lt s.freeNat.1 (y := max 1 l.length) (by omega)
      omega
    simp [hi]
  have h := ha _ hf
  unfold State.storeMap
  generalize ht : s.allocate (ceilDiv (mapWords n p.rows.length (p.streams + 1) (p.prec.length - 8)) 256) = t at h
  rcases t with ⟨_ | x, u⟩
  · simp at h
  · simp [ht]

def stageOf (l : List Nat) : List Nat := (l ++ List.replicate (12 - l.length) 0).flatMap (leBytes 4)

/-- Staged material that unwraps under the entry named. -/
theorem staged_ok (s : State) (b stage bind : List Nat) (k : Nat) (h1 : s.pkEntry (s.kArg F.KEY_ARG0_WRAP_PK) = ⟨3, false, 7⟩)
    (h2 : s.kArg F.KEY_ARG0_SIZE256 = 0) (h3 : s.stagedBytes = stage) (h4 : b = bind)
    (hk : unwrapKey ⟨3, false, 7⟩ false stage bind = some k) : (s.stagedUnwrap 3 b).1 = 0 := by
  unfold State.stagedUnwrap
  simp [h1, h2, h3, h4, hk]

/-- R332: wrapped material unwraps where its binding is the one expected. -/
theorem unwrap_group : unwrapKey ⟨3, false, 7⟩ false (stageOf wrapG) [2, 0, 5, 8, 0, 0, 0, 0] = some (ofBe (List.replicate 16 1)) := by
  decide +kernel
theorem unwrap_node : unwrapKey ⟨3, false, 7⟩ false (stageOf wrapN) [3, 0, 0, 9, 8, 0, 0, 0] = some (ofBe (List.replicate 16 1)) := by
  decide +kernel


/-! The premises of the statements can be met. -/

theorem test_premises_EventRegistersActOnTheirBits :
  (up.Wf ∧ up.Takes (w 1) .hif offEvent ∧ up.Takes (w 3) .hif offEventEn ∧ up.Takes (w 3) .hif offEventSet) := by unfold State.Wf; (repeat' apply And.intro) <;> decide +kernel

theorem test_premises_FaultsAreStickyAndTheFirstIsDescribed :
  ((up.setReg .hlt offFault 4).Wf ∧ (up.setReg .hlt offFault 4).Takes (w 4) .hlt offFault ∧
    (up.setReg .hlt offFault 4).reg .hlt offFault ≠ 0) ∧
  (up.Wf ∧ (faultMask (.hlt)).getLsbD 2 = true ∧ up.reg .hlt offFault = 0 ∧ (faultMask (.np 11)).getLsbD 7 = true) := by unfold State.Wf; (repeat' apply And.intro) <;> decide +kernel

theorem test_premises_CountersClearAndCountWhileEnabled :
  (up.Wf ∧ up.Takes (w 0x10001) .hif offCntCtrl ∧ 0 < nCounters .hif ∧ up.cntEn .hif 0 = false) := by unfold State.Wf; (repeat' apply And.intro) <;> decide +kernel

theorem test_premises_BlocksStartStopAndAreTested :
  (up.Takes (w 1) .rte offCtrl ∧ alwaysEnabled .rte = false ∧ up.isolated .rte = (w 1).val.getLsbD 2 ∧ up.enabled .rte = false) ∧
  ((on .rte).Takes (w 0) .rte offCtrl ∧ (on .rte).isolated .rte = (w 0).val.getLsbD 2 ∧ (on .rte).enabled .rte = true) ∧
  ((on .rte).Takes (w 3) .rte offCtrl ∧ (on .rte).isolated .rte = (w 3).val.getLsbD 2 ∧ (w 3).val.getLsbD 0 = (on .rte).enabled .rte) ∧
  (hasTestIsolate .twn = true ∧ up.Takes (w 4) .twn offCtrl ∧ (w 4).val.getLsbD 0 = up.enabled .twn ∧ up.isolated .twn = false) ∧
  ((up.setReg .twn offCtrl 4).Takes (w 0) .twn offCtrl ∧ (w 0).val.getLsbD 0 = (up.setReg .twn offCtrl 4).enabled .twn ∧
    (up.setReg .twn offCtrl 4).isolated .twn = true) ∧
  (alwaysEnabled .hif = true ∧ up.Takes (w 0) .hif offCtrl) ∧
  (up.Wf ∧ up.enabled .rte = false ∧ up.hasWork .rte = false) ∧
  (Page.rte ∈ ({ up with softReset := [.rte] } : State).softReset) ∧
  (({ up with isoTests := [.np 3] } : State).Wf ∧ Page.np 3 ∈ ({ up with isoTests := [.np 3] } : State).isoTests) := by unfold State.Wf; (repeat' apply And.intro) <;> decide +kernel

theorem test_premises_WritesFollowTheAccessTypes :
  (0 < (regFlds .hif 0x040).length ∧ up.Wf ∧ Page.thm ∈ [Page.clk, .thm, .hif, .shp, .dwl, .cmd] ∧ up.Takes (w 0) .shp 0x040 ∧
    up.Takes (w 0) .cmd 0x040) := by unfold State.Wf; (repeat' apply And.intro) <;> decide +kernel

theorem test_premises_AcceptedFeaturesAreTheOfferedOnes :
  (open_.Wf ∧ open_.devLocked = false ∧ open_.Takes (w 0xFFFFFF) .dev 0x050 ∧ open_.Takes (w 0) .dev 0x05C) ∧
  (open_.hostOn = true ∧ open_.dropped .dev 0x050 = false ∧ (w 0x1000000).be = 0xF ∧ ((w 0x1000000).val.getLsbD 24 = true ∧
    bitOf open_.offer 24 = false)) ∧
  (open_.dropped .dev 0x05C = false ∧ (w 1).val.getLsbD 0 = true) := by unfold State.Wf; (repeat' apply And.intro) <;> decide +kernel

theorem test_premises_TheLockTakesACompleteSet :
  (open_.Wf ∧ open_.nvm.recovery = false ∧ open_.Takes (w 1) .dev 0x060 ∧ open_.devLocked = false ∧
    featuresMeet (open_.reg .dev 0x050).toNat = true) ∧
  ((open_.setReg .dev 0x050 0x00000009).Wf ∧ (open_.setReg .dev 0x050 0x00000009).Takes (w 1) .dev 0x060 ∧
    (open_.setReg .dev 0x050 0x00000009).devLocked = false ∧
    featuresMeet ((open_.setReg .dev 0x050 0x00000009).reg .dev 0x050).toNat = false) ∧
  (up.Wf ∧ (up.Takes (w 1) .dev 0x05C ∨ up.Takes (w 0) .dev 0x05C) ∧ up.devLocked = true) := by unfold State.Wf; (repeat' apply And.intro) <;> decide +kernel

theorem test_premises_ViolationsAreCountedAndTheFirstRecorded :
  (up.Wf ∧ up.hostOn = true ∧ up.serialBarred .hif false = false ∧ up.judge .hif 0xFFC 15 (some 0) = .viol [0]) ∧
  (({ up with violArmed := false } : State).Wf ∧ ({ up with violArmed := false } : State).judge .hif 0x041 15 (some 0) = .viol [4]) ∧
  (up.Takes (w 1) .dev 0x074) := by unfold State.Wf; (repeat' apply And.intro) <;> decide +kernel

theorem test_premises_PairedReadsAreCoherent :
  (up.Wf ∧ 6 < nCounters .hif ∧ up.Gives rd .hif (cntOff 6) ∧ up.Gives rd .hif (cntOff 6 + 4) ∧ (up.latch (.pf 0)).grp = none) := by unfold State.Wf; (repeat' apply And.intro) <;> decide +kernel

theorem test_premises_TheOfferReadsByPart :
  (up.Gives rd .dev 0x040 ∧ up.Gives rd .dev 0x04C) ∧
  (({ up with chip := { up.chip with is7236 := false } } : State).Gives rd .dev 0x040) := by (repeat' apply And.intro) <;> decide +kernel

theorem test_premises_SnapshotsCaptureAndClear :
  ((on .cnt).Wf ∧ (on .cnt).Takes (w 0x80000000) .cnt 0x040 ∧ (on .cnt).Takes (w 0x40000000) .cnt 0x040 ∧ (on .cnt).gather.busy = false ∧
    (on .cnt).running = true ∧ (on .cnt).enabled .cnt = true ∧ (on .cnt).gather.pend = none) ∧
  ((on .cnt).Takes (w 0x20000000) .cnt 0x040 ∧ (on .cnt).gather.pend = none) ∧
  (({ on .cnt with gather := { up.gather with pend := some false } } : State).Wf ∧
    ({ on .cnt with gather := { up.gather with pend := some false } } : State).Takes (w 0) .cnt 0x040 ∧
    ({ on .cnt with gather := { up.gather with pend := some false } } : State).gather.busy = false ∧
    ({ on .cnt with gather := { up.gather with pend := some false } } : State).gather.pend = some false) := by unfold State.Wf; (repeat' apply And.intro) <;> decide +kernel

theorem test_premises_SnapshotBanksAndHistogramUnits :
  (({ up with gather := { up.gather with busy := true } } : State).Wf ∧
    ({ up with gather := { up.gather with busy := true } } : State).gather.busy = true ∧
    ({ up with gather := { up.gather with busy := true } } : State).gather.pend = none) ∧
  ((per (on .cnt)).Wf ∧ (per (on .cnt)).periodDue = true ∧ (per (on .cnt)).gather.pend = none ∧
    (per (on .cnt)).flag .cnt F.CNT_CTRL_HOLD = false ∧ (per (on .cnt)).running = true ∧ (per (on .cnt)).enabled .cnt = true ∧
    (per (on .cnt)).gather.busy = false) ∧
  (({ per up with gather := { up.gather with busy := true } } : State).Wf ∧
    ({ per up with gather := { up.gather with busy := true } } : State).periodDue = true ∧
    ({ per up with gather := { up.gather with busy := true } } : State).gather.busy = true) ∧
  (up.Wf ∧ up.Takes (w 0x80000000) (.hst 3) 0x400 ∧ up.flag (.hst 3) (F.HST_CFG_EN.at 3) = false ∧ up.Takes (w 0) (.hst 3) 0x404 ∧
    up.Takes (w 1) (.hst 0) 0x120) ∧
  ((up.setFlag (.hst 0) F.HST_CFG_EN true).Takes (w 0) (.hst 0) 0x104 ∧
    (up.setFlag (.hst 0) F.HST_CFG_EN true).flag (.hst 0) F.HST_CFG_EN = true ∧
    (up.setFlag (.hst 0) F.HST_CFG_EN true).Takes (w 0) (.hst 0) 0x100) := by unfold State.Wf; (repeat' apply And.intro) <;> decide +kernel

theorem test_premises_MonitorChainsAndMainsSampling :
  (up.Gives rd (.mon 7) 0x060 ∧ (up.chain 7).fifo = []) ∧
  ((up.setChain 0 { Chain.reset with fifo := [⟨0, 5, 9, false⟩] }).Gives rd (.mon 0) 0x060 ∧
    ((up.setChain 0 { Chain.reset with fifo := [⟨0, 5, 9, false⟩] }).chain 0).fifo = [⟨0, 5, 9, false⟩]) ∧
  ((up.setChain 1 { Chain.reset with fade := some ⟨0, 4⟩, active := 1 }).Wf ∧
    (up.setChain 1 { Chain.reset with fade := some ⟨0, 4⟩, active := 1 }).Takes (w 0x80010100) (.mon 1) 0x04C ∧
    (((up.setChain 1 { Chain.reset with fade := some ⟨0, 4⟩, active := 1 }).chain 1).fade.isSome = true ∧
    ((up.setChain 1 { Chain.reset with fade := some ⟨0, 4⟩, active := 1 }).chain 1).active = 1)) ∧
  ((on .mns).vsRuns = true ∧ State.reset.vsRuns = false) := by unfold State.Wf; (repeat' apply And.intro) <;> decide +kernel

theorem test_premises_PinsAndCommandLines :
  (up.Wf ∧ up.Takes (w 1) .pmx 0x1BC ∧ up.pinConflict 47 (F.PMX_SEL_FUNC.get (w 1).val) = false) ∧
  ((up.setReg .pmx 0x100 0x29).Wf ∧ (up.setReg .pmx 0x100 0x29).Takes (w 0x29) .pmx 0x1BC ∧
    (up.setReg .pmx 0x100 0x29).pinConflict 47 (F.PMX_SEL_FUNC.get (w 0x29).val) = true) ∧
  ((({ up with io := { up.io with pins := up.io.pins.set 3 ⟨0, some 1⟩ } } : State).pin 3).dest = some 1) ∧
  ((on .cmdio).cmdInOn = true) ∧
  (({ on .cmdio with io := { up.io with cmdIn := up.io.cmdIn.set 2 ⟨true, 65535, false⟩ } } : State).debounced 2 true = true) ∧
  (({ on .cmdio with io := { up.io with cmdIn := up.io.cmdIn.set 2 ⟨false, 65535, true⟩ } } : State).debounced 2 false = true) := by unfold State.Wf; (repeat' apply And.intro) <;> decide +kernel

theorem test_premises_SerialCharactersAreSentAndReceived :
  (up.Takes (w 0x41) (.uart 0) 0x05C ∧ (up.uart 0).tx.length < uartDepth 0) ∧
  ((up.setUart 1 { Uart.reset with tx := List.replicate (uartDepth 1) 0 }).Takes (w 0x41) (.uart 1) 0x05C ∧
    ¬ ((up.setUart 1 { Uart.reset with tx := List.replicate (uartDepth 1) 0 }).uart 1).tx.length < uartDepth 1) ∧
  (up.Takes (w 1) (.uart 0) 0x068 ∧ up.Takes (w 2) (.uart 1) 0x068) ∧
  (((on (.uart 0)).setUart 0 { Uart.reset with tx := [0x41] }).enabled (.uart 0) = true ∧
    ((on (.uart 0)).setUart 0 { Uart.reset with tx := [0x41] }).isolated (.uart 0) = false ∧
    ((on (.uart 0)).setUart 0 { Uart.reset with tx := [0x41] }).running = true ∧
    ((on (.uart 0)).setUart 0 { Uart.reset with tx := [0x41] }).pageOn (.uart 0) = true ∧
    ((on (.uart 0)).setUart 0 { Uart.reset with tx := [0x41] }).padsHeld = false ∧
    ((on (.uart 0)).setUart 0 { Uart.reset with tx := [0x41] }).txHeld 0 = false ∧
    (((on (.uart 0)).setUart 0 { Uart.reset with tx := [0x41] }).flag (.uart 0) F.UART_CFG_CTS_EN = true → ((on (.uart 0)).setUart 0 { Uart.reset with tx := [0x41] }).ctsSeen 0 true = false) ∧
    (((on (.uart 0)).setUart 0 { Uart.reset with tx := [0x41] }).uart 0).tx = [0x41]) ∧
  (((on (.uart 0)).setUart 0 { Uart.reset with heard := true }).uartRxOn 0 = true ∧
    ((on (.uart 0)).setUart 0 { Uart.reset with heard := true }).flag (.uart 0) F.UART_CFG_MDROP = false ∧
    ((on (.uart 0)).setUart 0 { Uart.reset with heard := true }).uartParity 0 = 0 ∧
    (((on (.uart 0)).setUart 0 { Uart.reset with heard := true }).uart 0).heard = true) ∧
  (up.Gives rd (.uart 1) 0x060 ∧ (up.uart 1).rx = []) ∧
  ((up.setUart 0 { Uart.reset with rx := [⟨65, false, false, false, false, false, false⟩] }).Gives rd (.uart 0) 0x060 ∧
    ((up.setUart 0 { Uart.reset with rx := [⟨65, false, false, false, false, false, false⟩] }).uart 0).rx.map (·.poison) = [false]) := by (repeat' apply And.intro) <;> decide +kernel

theorem test_premises_SerialFramesReadWriteAndReport :
  (up.Wf ∧ up.hostOn = true ∧ ([⟨255, env0⟩] : List SerRead).getLast? = some ⟨255, env0⟩) ∧
  (State.reset.Wf ∧ State.reset.hostOn = false) := by unfold State.Wf; (repeat' apply And.intro) <;> decide +kernel

theorem test_premises_TestAccessAndLink :
  (up.pwr.mode ≠ .off ∧ ({ up with pwr := { up.pwr with tap := .other 8 } } : State).padsHeld = true ∧ up.padsHeld = false ∧
    up.io.link.up = false ∧ ({ up with pwr := { up.pwr with tap := .bypass } } : State).padsHeld = up.padsHeld) ∧
  ((up.setLinkState ⟨true, 3, 2, true⟩).pwr.mode ≠ .off ∧ (up.setLinkState ⟨true, 3, 2, true⟩).padsHeld = false ∧
    (up.setLinkState ⟨true, 3, 2, true⟩).io.link.up = true) ∧
  (({ up with pwr := { up.pwr with tap := .other 8 } } : State).padsHeld = true ∧ up.padsHeld = false) ∧
  (up.pageOn .hif = true ∧ up.padsHeld = false ∧ up.io.link.perst = true ∧ up.pwr.clk.pcieRef = true ∧ up.io.link.up = false) ∧
  ((up.setLinkState ⟨false, 0, 0, false⟩).pwr.mode ≠ .off ∧ (up.setLinkState ⟨false, 0, 0, false⟩).io.link.perst = false) := by (repeat' apply And.intro) <;> decide +kernel

theorem test_premises_FunctionsAndVectorsSendTheirMessages :
  ((up.setLinkState ⟨true, 3, 2, true⟩).pageOn .hif = true ∧ (up.setLinkState ⟨true, 3, 2, true⟩).io.link.up = true ∧
    (8 : Fin 9) = (7 : Fin 8).succ ∧ (up.setLinkState ⟨true, 3, 2, true⟩).dmaOk 7 = false ∧
    (((up.setLinkState ⟨true, 3, 2, true⟩).setFn 8 { (up.setLinkState ⟨true, 3, 2, true⟩).fnState 8 with bme := true, d3 := false, msixEn := true }).flushMsix 8).dmaOk 7 = true ∧
    (((up.setLinkState ⟨true, 3, 2, true⟩).setFn 8 { (up.setLinkState ⟨true, 3, 2, true⟩).fnState 8 with bme := false, d3 := false, msixEn := true }).flushMsix 8).dmaOk 7 = false) ∧
  (up.Wf ∧ up.Takes (w 0x01020304) .dev (routeOff 0) ∧ up.Takes (w 0) .dev (routeOff 19)) := by unfold State.Wf; (repeat' apply And.intro) <;> decide +kernel

theorem test_premises_PortLimitsAreClamped :
  (up.Wf ∧ up.Takes (w 5) (.np 0) 0x0C0 ∧ clampN 120 480 (F.NP_VDRV_SET.get (w 5).val) ≠ F.NP_VDRV_SET.get (w 5).val ∧
    up.Takes (w 240) (.np 0) 0x0C0 ∧ up.Takes (w 0x80001FFF) (.np 0) 0x0C8 ∧ up.Takes (w 1) (.ch 63) 0x054) := by unfold State.Wf; (repeat' apply And.intro) <;> decide +kernel

theorem test_premises_SupplyAndPortsAreProtected :
  (ch0.dom 18 = .on ∧ 95 * ch0.vdrvSet ≤ 100 * ch0.vdrvSet ∧ 100 * ch0.vdrvSet ≤ 105 * ch0.vdrvSet ∧ ch0.line.drvOk = true ∧
    0 < ch0.vdrvSet) ∧
  (((ch0.setPort 15 { Port.reset with txCh := some 0 }).port 15).txCh.isSome = true ∧
    ((ch0.setPort 15 { Port.reset with txCh := some 0 }).port 15).cut = false ∧ 1240 < (1241 : Int) ∧
    (ch0.setPort 15 { Port.reset with txCh := some 0 }).faulted (portPage 15) 3 = false) ∧
  (((ch0.setFlag (.np 0) F.NP_CFG_EXT_PA true).setPort 0 { Port.reset with txCh := some 0 }).extPa 0 = true ∧
    (((ch0.setFlag (.np 0) F.NP_CFG_EXT_PA true).setPort 0 { Port.reset with txCh := some 0 }).port 0).txCh.isSome = true ∧
    (((ch0.setFlag (.np 0) F.NP_CFG_EXT_PA true).setPort 0 { Port.reset with txCh := some 0 }).port 0).tripped = false ∧
    4 * ((ch0.setFlag (.np 0) F.NP_CFG_EXT_PA true).setPort 0 { Port.reset with txCh := some 0 }).fld (.np 0) F.NP_PA_ILIM < 5000) := by (repeat' apply And.intro) <;> decide +kernel

def held0 : State := ch0.setLink (link0 Dir.empty { Dir.empty with cur := some ⟨4, 0, 1⟩ })

/-- A link with a proposed map. -/
def pend0 : Link5 := link0 { Dir.empty with pend := some (⟨4, 0, 1⟩, 5, false) } Dir.empty

def txIds (l : Link5) : List Nat := (l.tx.cur.toList ++ (l.tx.prev.map (·.1)).toList ++ (l.tx.pend.map (·.1)).toList).map (·.id)

theorem test_premises_MapsAreProposedAndSettled :
  (held0.live 0 = some cfg0 ∧ (txIds (held0.link 0 9)).contains (prop0 4).tmapId = true ∧
    (txIds (held0.link 0 9)).contains (prop0 5).tmapId = false ∧ precFits 0 0 0 5 0 0 (prop0 4).prec = false) ∧
  ((txIds (ch0.link 0 9)).contains 4 = false ∧ precFits 0 0 0 4 0 0 (prop0 4).prec = true ∧ precFits 0 0 0 4 1 0 (precRecord 0 4 1 0 [0]) = true ∧
    ({ prop0 4 with ports := 1 } : Proposal).ports + 1 ≠ (ch0.txPorts cfg0).length ∧ (prop0 4).ports + 1 = (ch0.txPorts cfg0).length ∧
    (prop0 4).streams < ch0.bundleStreams cfg0 (ch0.servicePorts cfg0).length ∧ sfBefore ch0.sf 5 = true ∧
    ((ch0.setLink { ch0.link 0 9 with tx := { (ch0.link 0 9).tx with pend := none } }).storeMap 0 (cfgGet cfg0 F.CH_CFG_NUMER) (prop0 4) 5).1.isSome = true) ∧
  ((ch0.setLink pend0).link? 0 9 = some pend0 ∧ (heldIds pend0).contains 4 = true ∧ sfBefore (ch0.setLink pend0).sf 5 = true ∧
    sfBefore (ch0.setLink pend0).sf 0 = false ∧ (heldIds pend0).contains 6 = false) := by
  repeat' apply And.intro
  all_goals first
    | (with_reducible refine map_stored _ _ _ _ _ 0 ?_ ?_) <;> decide +kernel
    | decide +kernel

def snd0 (cfg : List Word) (l : Link5) : State := (chUp fun x => { x with live := some cfg }).setLink l

/-- A link that has been sounded once, in region 3, and settings that ask a new map for a gain of 10 %. -/
def link9 : Link5 := { link0 Dir.empty Dir.empty with h := [(3, [[⟨0, 0, [(0, 4096, 0)]⟩]])] }

def cfgG : List Word := cfgSet cfg0 F.CH_ADP_CTRL_UPD_GAIN 10

/-- The same link with the map that it would propose already in force. -/
def mapped : State :=
  let s := snd0 cfgG { link9 with rx := { Dir.empty with cur := some ⟨1, 0, 1⟩ } }
  match s.buildMap 0 cfgG (s.link 0 9) true with | some b => s.writeMap 0 0 0 b.1 1 | none => s

/-- After sounding `sound0 5` on it, the map that is made, looked at by whether it is wanted. -/
def sounded (cfg : List Word) (s : State) : Option Bool :=
  let u := ((s.setLink (s.soundLink cfg { s.link 0 9 with theta := none, usedSf := s.sf } 1 s.slot [])).setChan 0 { (s.setLink
    (s.soundLink cfg { s.link 0 9 with theta := none, usedSf := s.sf } 1 s.slot [])).chan 0 with snd := none }).ranging 0 (sound0 5)
  (u.buildMap 0 cfg (u.link 0 9) (!u.zcLocked)).map fun b => u.wantsMap (u.link 0 9) cfg 1 b.2

theorem test_premises_LinksAreSelectedSoundedAndUpdated :
  (up.Wf ∧ up.Takes (w 1) (.ch 0) 0x4F8 ∧ up.Takes (w 2) (.ch 63) 0x4F8 ∧ up.Takes (w 9) (.ch 63) 0x418 ∧
    up.link? 63 (F.CH_LINK_SEL_PEER.get (w 9).val) = none) ∧
  (ch0.live 0 = some cfg0 ∧ (ch0.symbolsAt 0 cfg0 ch0.slot).1 = 6 ∧ (sound0 5).recVer = 0 ∧ (sound0 6).k ≠ (6 - 1) % 256 ∧
    cfgFlag cfg0 F.CH_ADP_CTRL_AUTO_PROPOSE = true ∧ cfgFlag (cfgSet cfg0 F.CH_ADP_CTRL_AUTO_PROPOSE 0) F.CH_ADP_CTRL_AUTO_PROPOSE = false ∧
    (sounded cfg0 ch0).isNone = true) ∧
  ((snd0 cfg0 link9).live 0 = some cfg0 ∧ mapped.live 0 = some cfgG ∧ cfgFlag cfgG F.CH_ADP_CTRL_AUTO_PROPOSE = true) := by
  unfold State.Wf; (repeat' apply And.intro) <;> decide +kernel

theorem test_premises_maps_are_wanted : (sounded cfg0 (snd0 cfg0 link9) == some true) = true := by decide +kernel
theorem test_premises_maps_are_not_wanted : (sounded cfgG mapped == some false) = true := by decide +kernel

theorem test_premises_SpindleJobsAndLaneGroups :
  (((on (.spx 1)).setFlag (.spx 0) F.SPX_TEST_CTRL_AUTO true).flag (.spx 0) F.SPX_TEST_CTRL_AUTO = true ∧
    ((on (.spx 1)).setFlag (.spx 0) F.SPX_TEST_CTRL_AUTO true).stnRuns 1 = true ∧
    (((on (.spx 1)).setFlag (.spx 0) F.SPX_TEST_CTRL_AUTO true).stn 1).test = none ∧
    ((on (.spx 1)).setFlag (.spx 0) F.SPX_TEST_CTRL_AUTO true).spareOk 1 = true ∧
    (((List.range (stnG 1 + 1)).map fun i => ((((on (.spx 1)).setFlag (.spx 0) F.SPX_TEST_CTRL_AUTO true).stn 1).nextLg + i) % (stnG 1 + 1)).find? (fun g => !((on (.spx 1)).setFlag (.spx 0) F.SPX_TEST_CTRL_AUTO true).retired 1 g && !bitOf (((on (.spx 1)).setFlag (.spx 0) F.SPX_TEST_CTRL_AUTO true).stn 1).reserve g)) = some 0) ∧
  (up.Takes (w 0x24) (stnPage 6) 0x05C ∧ (w 0x24).val.getLsbD 5 = true ∧ (up.stn 6).test = none ∧
    (applyWrite (stnPage 6) 0x05C (w 0x24).val (up.at_ (stnPage 6) false)).fld (stnPage 6) F.SPX_STN_TEST_LG ≤ stnG 6) ∧
  (((up.setStn 5 { Stn.reset with test := some (16, true, false) }).stn 5).test = some (16, true, false)) ∧
  ((jobs (up.setService 2 3 true) [{ job0 2 .search (some 3) 0 with ran := 0 }]).laneBusy 2 3 = true ∧
    (jobs (up.setService 2 3 true) [{ job0 2 .search (some 3) 0 with ran := 0 }]).inService 2 3 = true ∧
    (jobs (up.setService 2 3 true) [job0 2 .search (some 3) 0]).job? 7 = some (job0 2 .search (some 3) 0) ∧
    (jobs (up.setService 2 3 true) [job0 2 .search (some 3) 0]).jobTurns (job0 2 .search (some 3) 0) ≤ (job0 2 .search (some 3) 0).ran) ∧
  ((jobs up [job0 2 .search none 0]).job? 7 = some (job0 2 .search none 0) ∧
    (jobs up [job0 5 .dataDecode (some 1) 0]).job? 7 = some (job0 5 .dataDecode (some 1) 0)) := by (repeat' apply And.intro) <;> decide +kernel

theorem test_premises_AdmissionAndStagedVersions :
  (up.Takes (w 4) (.spx 0) 0x040 ∧ up.Takes (w 16) (.spx 0) 0x040) ∧
  (({ on (.spx 0) with line := { up.line with spx := { up.line.spx with queue := [.iter] } } } : State).nvm.applying = [] ∧
    (((on (.spx 0)).evaluate .iter).1 = 0) ∧ (up.evaluate .iter).1 ≠ 0) ∧
  (up.Takes (w 0x80000001) .sch 0x070 ∧ (w 0x80000001).val.getLsbD 31 = true ∧
    (applyWrite .sch 0x070 (w 0x80000001).val (up.at_ .sch false)).fld .sch F.SCH_STAGE_VERSION ≠ (applyWrite .sch 0x070 (w 0x80000001).val (up.at_ .sch false)).fld .sch F.SCH_VER_IN_FORCE) ∧
  ((up.setFlag .sch F.SCH_CT_STAT_IS_ROOT true).Takes (w 0x80000001) .fig 0x048 ∧
    (up.setFlag .sch F.SCH_CT_STAT_IS_ROOT true).flag .sch F.SCH_CT_STAT_IS_ROOT = true) := by (repeat' apply And.intro) <;> decide +kernel

/-- A channel that may detect SY1 in a slot of its table, one that receives the frame control of a REEL slot, and one that receives. -/
def listens : State := (chUp fun x => { x with ty := 3 }).setReg (.ch 0) 0x100 0x30000000

def fcUp (ty : Nat) : State := jobs (chUp fun x => { x with rx := some (rx0 ty) }) [job0 5 .fcDecode (some 1) 0]

/-- The same frame control with hops left. -/
def fcTtl : Nat := fc3 + 2 ^ 17

theorem test_premises_FramesAndCodewordsAreReceived :
  (((jobs ch0 [job0 5 .dataDecode (some 1) 0]).line.spx.jobs.find? (fun j => decide (j.chan = 0 ∧ j.kind = .dataDecode ∧
    j.idx = 0) && j.lane.isSome) = some (job0 5 .dataDecode (some 1) 0)) ∧ ldpcOk 0 48 [] [] = false ∧ liftZ false = 48 ∧
    (fcLongs (Fc.decode 0)).getD 0 false = false ∧ decodeTurns 8 (decodeCycles (job0 5 .dataDecode (some 1) 0)) ≤ 99) ∧
  (listens.live 0 = some cfg0 ∧ listens.searches 0 cfg0 51400 = true ∧ listens.searches 0 cfg0 0 = false ∧ listens.rxNow 0 = false ∧
    (listens.chan 0).tx = none ∧ listens.servicePorts cfg0 ≠ []) ∧
  (((fcUp 3).chan 0).rx = some (rx0 3) ∧ ((fcUp 5).chan 0).rx = some (rx0 5) ∧ (rx0 5).ty = tyReel ∧
    ((fcUp 3).line.spx.jobs.find? (fun j => decide (j.chan = 0 ∧ j.kind = .fcDecode) && j.lane.isSome)) = some (job0 5 .fcDecode (some 1) 0) ∧
    decodeTurns 8 (decodeCycles (job0 5 .fcDecode (some 1) 0)) ≤ 99 ∧ fcReceived 0 = none ∧ fcReceived (fcBits fc3) = some fc3 ∧
    fcReceived (fcBits fcTtl) = some fcTtl ∧ (Fc.decode fcTtl).ttl ≠ 0 ∧ (Fc.decode fc3).wellFormed = true ∧
    (Fc.decode fcTtl).wellFormed = true ∧ (Fc.decode fc3).dataSyms ≤ ((fcUp 3).symbolsAt 0 cfg0 0).1 ∧
    (Fc.decode fc3).netid = cfgGet cfg0 F.CH_CFG_NETID ∧ (Fc.decode fc3).tmapId = 0 ∧ (Fc.decode fc3).ftype = 3 ∧ (Fc.decode fc3).ttl = 0 ∧
    fcReceived (fcBits 0) = some 0 ∧ (Fc.decode 0).wellFormed = false) ∧
  (((chUp fun x => { x with tx := some tx0 }).chan 0).tx = some tx0 ∧ tx0.sym < tx0.syms ∧ tx0.late.contains tx0.sym = false ∧
    ({ tx0 with late := [0] } : Tx).late.contains 0 = true ∧ ch0.ownLoads 0 [] = []) ∧
  ((fcUp 3).sync = true ∧ (0 + ((fcUp 3).entryAt 0 cfg0 0).len) * 2 ^ 20 + (fcUp 3).nsToCt (cfgAllow cfg0) < 5 * 2 ^ 20) := by
  (repeat' apply And.intro) <;> decide +kernel

theorem test_premises_fc_holds : ∃ parity, ldpcOk 0 48 (toBlocks 48 12 (bitsOf 120 (fcBits fc3))) parity = true :=
  ⟨ldpcParity 0 48 (toBlocks 48 12 (bitsOf 120 (fcBits fc3))), by simp [ldpcOk]⟩

/-- R92: without a share, no gain fits beside the quiescent dissipation of a port. -/
theorem test_R92 (s : State) (h : s.fld (chPage 0) F.CH_SHARE_SHARE_MW = 0) (hx : s.extPa 0 = false) : s.gainFor 0 [⟨0, []⟩] = none := by
  have hs : s.share 0 = 0 := by simp [State.share, h]
  have hp : ¬ (80 : Rat) ≤ 0 := by norm_num
  simp [State.gainFor, gainSteps, gainFits, hs, hx, State.portLoad, quiescent, hp]

/-- A transmission whose port sends, at its first symbol. -/
def sends : State := (chUp fun x => { x with tx := some { tx0 with sym := 1 } }).setPort 0 { Port.reset with inSvc := true, txCh := some 0 }

theorem test_premises_muted :
  sends.ownLoads 0 [⟨0, []⟩] = [⟨0, []⟩] ∧ sends.fld (chPage 0) F.CH_SHARE_SHARE_MW = 0 ∧ sends.extPa 0 = false ∧
    ((sends.chan 0).tx.map fun x => x.late.contains x.sym) = some false := by (repeat' apply And.intro) <;> decide +kernel

/-- A channel with a copy of a line due under the key of slot 0; one whose one sub-band has used up its dwell limit; and line 2 on. -/
def cmdOf (n : Nat) (dwl : List (List Nat)) : State :=
  let s := ((chUp fun x => { x with ty := 8, cmdLeft := x.cmdLeft.set n 1, dwl := dwl }).setReg .dwl offCtrl 1).setFlag .dwl
    F.DWL_CTRL_URGENT_EXEMPT false
  ({ s with cph := { Cipher.reset with slots := [(0, KeySlot.make 0 false true 8 true 0 0 0 1 0)] } } : State).takeL4

def cmdUp : State := cmdOf 7 Chan.reset.dwl

def cmdSpent : State := cmdOf 0 [[100000000]]

def lineOn (repeats : Nat) : State :=
  (((chUp fun x => { x with cmdOn := 4 }).setFlag .cmd (F.CMD_LINE_SRC_RX.at 2) true).setFld .cmd (F.CMD_LINE_REPEAT.at 2) repeats).takeL4

theorem test_premises_ContentionAndCommandSymbols :
  ((chUp fun x => { x with ty := 4, prep := some tx0 }).contending 0 = some (cfg0, tx0) ∧ (Fc.decode tx0.fc).prio = 0 ∧
    ((chUp fun x => { x with ty := 4, prep := some tx0 }).chan 0).heard = none ∧
    ((chUp fun x => { x with ty := 4, prep := some tx0 }).chan 0).won = none ∧
    ((chUp fun x => { x with ty := 4, prep := some tx0 }).chan 0).ty = tyContend ∧
    cfgGet cfg0 F.CH_CONTEND_DET_TH < 1000 ∧
    ((chUp fun x => { x with ty := 4, prep := some tx0 }).setChan 0 { (chUp fun x => { x with ty := 4, prep := some tx0 }).chan 0 with heard := some 3 }).contending 0 = some (cfg0, tx0)) ∧
  ((chUp fun x => { x with ty := 4, prep := some tx0, won := some (0, 7) }).contending 0 = some (cfg0, tx0) ∧
    ((chUp fun x => { x with ty := 4, prep := some tx0, won := some (0, 7) }).chan 0).won = some (0, 7) ∧
    (chUp fun x => { x with ty := 4, prep := some tx0, won := some (0, 7) }).heardBefore 0 cfg0 7 = false) ∧
  ((chUp fun x => { x with ty := 4, prep := some tx0, won := some (0, 7), rx := some (rx0 4) }).contending 0 = some (cfg0, tx0) ∧
    ((chUp fun x => { x with ty := 4, prep := some tx0, won := some (0, 7), rx := some (rx0 4) }).chan 0).won = some (0, 7) ∧
    (chUp fun x => { x with ty := 4, prep := some tx0, won := some (0, 7), rx := some (rx0 4) }).heardBefore 0 cfg0 7 = true) ∧
  (cmdUp.live 0 = some cfg0 ∧ ((List.range 8).filter fun i => decide (0 < (cmdUp.chan 0).cmdLeft.getD i 0)) = [7] ∧ cmdUp.cmdOn 0 = true ∧
    (cmdUp.macKey (cmdUp.l4Fld .cmd F.CMD_KEY_SLOT)).isSome = true ∧ cmdUp.cmdSlot 0 cfg0 = true ∧
    (cmdUp.dwlTry 0 (cmdBands cfg0 [7]) (cmdAirUs cfg0)).cmdBarred 0 cfg0 [7] = false ∧ cfgGet cfg0 F.CH_CMD_TH ≤ 255 ∧
    cfgGet (cfgSet cfg0 F.CH_CMD_TH 3) F.CH_CMD_TH = 3) ∧
  (cmdSpent.live 0 = some cfg0 ∧ ((List.range 8).filter fun i => decide (0 < (cmdSpent.chan 0).cmdLeft.getD i 0)) = [0] ∧
    cmdSpent.cmdOn 0 = true ∧ (cmdSpent.macKey (cmdSpent.l4Fld .cmd F.CMD_KEY_SLOT)).isSome = true ∧ cmdSpent.cmdSlot 0 cfg0 = true ∧
    (cmdSpent.dwlTry 0 (cmdBands cfg0 [0]) (cmdAirUs cfg0)).cmdBarred 0 cfg0 [0] = true) ∧
  ((lineOn 1).l4Fld .cmd (F.CMD_LINE_TX_CH.at 2) = 0 ∧ bitOf ((lineOn 1).chan 0).cmdOn 2 = true ∧ ((lineOn 1).chan 0).cmdLeft.getD 2 0 = 0 ∧
    (lineOn 1).l4Flag .cmd (F.CMD_LINE_SRC_RX.at 2) = true ∧ (lineOn 1).l4Fld .cmd (F.CMD_LINE_REPEAT.at 2) ≠ 0 ∧
    (lineOn 0).l4Fld .cmd (F.CMD_LINE_REPEAT.at 2) = 0 ∧ bitOf ((lineOn 0).chan 0).cmdOn 2 = true ∧
    (lineOn 0).l4Fld .cmd (F.CMD_LINE_TX_CH.at 2) = 0) := by (repeat' apply And.intro) <;> decide +kernel

theorem test_premises_RoutesAreCommandedAndAge :
  ((((on .rte).setReg .rte 0x040 0x3FFF).setFld .rte F.RTE_E1_NEXT 9).Wf ∧
    (((on .rte).setReg .rte 0x040 0x3FFF).setFld .rte F.RTE_E1_NEXT 9).enabled .rte = true ∧
    (((on .rte).setReg .rte 0x040 0x3FFF).setFld .rte F.RTE_E1_NEXT 9).Takes (w 0x80000000) .rte 0x05C ∧
    F.RTE_CMD_OP.get (w 0x80000000).val = 0 ∧
    (((on .rte).setReg .rte 0x040 0x3FFF).setFld .rte F.RTE_E1_NEXT 9).routeAt ((((on .rte).setReg .rte 0x040 0x3FFF).setFld .rte F.RTE_E1_NEXT 9).fld .rte F.RTE_IDX_IDX) = none ∧
    (((on .rte).setReg .rte 0x040 0x3FFF).setFld .rte F.RTE_E1_NEXT 9).Takes (w 0x80000001) .rte 0x05C ∧
    F.RTE_CMD_OP.get (w 0x80000001).val = 1 ∧
    isUnicast ((applyWrite .rte 0x05C (w 0x80000001).val ((((on .rte).setReg .rte 0x040 0x3FFF).setFld .rte F.RTE_E1_NEXT 9).at_ .rte false)).fld .rte F.RTE_E1_NEXT) = true ∧
    (applyWrite .rte 0x05C (w 0x80000001).val ((((on .rte).setReg .rte 0x040 0x3FFF).setFld .rte F.RTE_E1_NEXT 9).at_ .rte false)).fld .rte F.RTE_E2_ALT_NEXT = 0 ∧
    (applyWrite .rte 0x05C (w 0x80000001).val ((((on .rte).setReg .rte 0x040 0x3FFF).setFld .rte F.RTE_E1_NEXT 9).at_ .rte false)).route? 0 0 = none ∧
    (((on .rte).setReg .rte 0x040 0x3FFF).setFld .rte F.RTE_E1_NEXT 9).Takes (w 0x80000004) .rte 0x05C) ∧
  ((netUp ((on .rte).setFld .rte F.RTE_IDX_IDX 16383) fun n => { n with routes := [route0] }).Wf ∧
    (netUp ((on .rte).setFld .rte F.RTE_IDX_IDX 16383) fun n => { n with routes := [route0] }).routeAt ((netUp ((on .rte).setFld .rte F.RTE_IDX_IDX 16383) fun n => { n with routes := [route0] }).fld .rte F.RTE_IDX_IDX) = some route0 ∧
    (netUp ((on .rte).setFld .rte F.RTE_IDX_IDX 16383) fun n => { n with routes := [route0] }).Takes (w 0x80000002) .rte 0x05C ∧
    (netUp ((on .rte).setFld .rte F.RTE_IDX_IDX 16383) fun n => { n with routes := [route0] }).Takes (w 0x80000003) .rte 0x05C ∧
    ((netUp ((on .rte).setFld .rte F.RTE_IDX_IDX 16383) fun n => { n with routes := [route0] }).lookup ((netUp ((on .rte).setFld .rte F.RTE_IDX_IDX 16383) fun n => { n with routes := [route0] }).fld .rte F.RTE_LOOKUP_NODE) 24) = some route0 ∧
    route0.fixed = false ∧
    max 1 ((netUp ((on .rte).setFld .rte F.RTE_IDX_IDX 16383) fun n => { n with routes := [route0] }).fld .rte F.RTE_CFG_EXPIRE) < route0.age) ∧
  ((late ch0).fld .rte F.RTE_CFG_ADV_SF ≠ 0 ∧ (late ch0).net.advDue + (late ch0).fld .rte F.RTE_CFG_ADV_SF ≤ (late ch0).line.sched.sfN ∧
    (late ch0).serving = true ∧ (late ch0).linkDown 63 9 = false ∧ (late ch0).linkLost 63 9 = true) := by unfold State.Wf; (repeat' apply And.intro) <;> decide +kernel

theorem test_premises_DirectoryIsCommandedAndServed :
  ((netUp (dirUp.setReg .dir 0x04C 0x0F000009) fun n => { n with cached := [36848] }).Takes (w 0x80000000) .dir 0x048 ∧
    (netUp (dirUp.setReg .dir 0x04C 0x0F000009) fun n => { n with cached := [36848] }).Takes (w 0x80000003) .dir 0x048 ∧
    (netUp (dirUp.setReg .dir 0x04C 0x0F000009) fun n => { n with cached := [36848] }).enabled .dir = true ∧
    (netUp (dirUp.setReg .dir 0x04C 0x0F000009) fun n => { n with cached := [36848] }).flag .dir F.DIR_CMD_BUSY = false ∧
    (netUp (dirUp.setReg .dir 0x04C 0x0F000009) fun n => { n with cached := [36848] }).dirHit 9 = true ∧
    (netUp (dirUp.setReg .dir 0x04C 0x0F000009) fun n => { n with cached := [36848] }).dirFind 9 = some 36848) ∧
  ((((on .dir).setReg .dev 0x050 0x00FFFEFF).setReg .dir 0x04C 0x0F000009).Takes (w 0x80000001) .dir 0x048 ∧
    (((on .dir).setReg .dev 0x050 0x00FFFEFF).setReg .dir 0x04C 0x0F000009).dirHit 9 = true ∧
    (((on .dir).setReg .dev 0x050 0x00FFFEFF).setReg .dir 0x04C 0x0F000009).dirFind 9 = none ∧
    ((((on .dir).setReg .dev 0x050 0x00FFFEFF).setReg .dir 0x04C 0x0F000009).dirPlace 9).map (·.2) = some false) ∧
  ((netUp up fun n => { n with dirWait := [9] }).net.dirWait.contains 9 = true ∧
    (netUp up fun n => { n with dirWait := [9] }).dramOn = true ∧ (netUp up fun n => { n with dirWait := [9] }).serving = true ∧
    (netUp up fun n => { n with dirWait := [9] }).dramDamaged 0 (512 * (netUp up fun n => { n with dirWait := [9] }).dirBucket 9) = false ∧
    (netUp (up.setReg .dir 0x044 0xFFF) fun n => { n with dirWait := [9] }).dramOn = true ∧
    (netUp (up.setReg .dir 0x044 0xFFF) fun n => { n with dirWait := [9] }).net.dirWait.contains 9 = true ∧
    (netUp (up.setReg .dir 0x044 0xFFF) fun n => { n with dirWait := [9] }).dramDamaged 0
      (512 * (netUp (up.setReg .dir 0x044 0xFFF) fun n => { n with dirWait := [9] }).dirBucket 9) = true) := by (repeat' apply And.intro) <;> decide +kernel

theorem test_premises_FramesAndFloodsAreTakenAndExpire :
  (ch0.running = true ∧ (ch0.live 0).isSome = true ∧ ch0.restarting = false ∧ ch0.serving = true) ∧
  (({ ch0 with nvm := { ch0.nvm with upd := { Upd.idle with pause := some ⟨0, 0, false, false, true, false⟩ } } } : State).restarting = true ∧
    ({ ch0 with nvm := { ch0.nvm with upd := { Upd.idle with pause := some ⟨0, 0, false, false, true, false⟩ } } } : State).running = true ∧
    (({ ch0 with nvm := { ch0.nvm with upd := { Upd.idle with pause := some ⟨0, 0, false, false, true, false⟩ } } } : State).live 0).isSome = true ∧
    ({ ch0 with nvm := { ch0.nvm with upd := { Upd.idle with pause := some ⟨0, 0, false, false, true, false⟩ } } } : State).nvm.upd.kept.length < 256) ∧
  (((late (netUp ch0 fun n => { n with arq := [{ Arq.fresh 0 9 with held := [(4, mac0, 1)] }] })).arq 0 9).held = [(4, mac0, 1)] ∧
    1 + (late (netUp ch0 fun n => { n with arq := [{ Arq.fresh 0 9 with held := [(4, mac0, 1)] }] })).arqWait * ((late (netUp ch0 fun n => { n with arq := [{ Arq.fresh 0 9 with held := [(4, mac0, 1)] }] })).arqRetry + 1) ≤ (late (netUp ch0 fun n => { n with arq := [{ Arq.fresh 0 9 with held := [(4, mac0, 1)] }] })).line.sched.slotN) ∧
  ((late (netUp ch0 fun n => { n with floods := [flood0 .done] })).flood? 9 3 0 = some (flood0 .done) ∧ (flood0 .done).settled = true ∧
    (late (netUp ch0 fun n => { n with floods := [flood0 .done] })).floodAged (flood0 .done) = true) ∧
  ((netUp ch0 fun n => { n with floods := [flood0 .sent] }).flood? 9 3 0 = some (flood0 .sent) ∧
    max 1 ((netUp ch0 fun n => { n with floods := [flood0 .sent] }).fld .rly F.RLY_FB_ACK_SLOTS) ≤ (flood0 .sent).waited ∧
    (netUp ch0 fun n => { n with floods := [flood0 .sent] }).fallbackTargets (flood0 .sent) = []) ∧
  ((late (netUp ch0 fun n => { n with frames := [frame0 .path (some 2) 0] })).frame? 6 = some (frame0 .path (some 2) 0) ∧
    (frame0 .path (some 2) 0).queued = true ∧
    2 + max 1 ((late (netUp ch0 fun n => { n with frames := [frame0 .path (some 2) 0] })).fld .rly F.RLY_FWD_HOLD_SF) ≤ (late (netUp ch0 fun n => { n with frames := [frame0 .path (some 2) 0] })).line.sched.sfN) := by (repeat' apply And.intro) <;> decide +kernel

theorem test_premises_TheSeenTableIsFlushedAndAsked :
  ((netUp up fun n => { n with floods := [flood0 .done] }).Wf ∧
    (netUp up fun n => { n with floods := [flood0 .done] }).Takes (w 1) .seen 0x048 ∧ (flood0 .done).seg = none ∧
    (netUp up fun n => { n with floods := [flood0 .done] }).Takes (w 0x80000003) .seen 0x050 ∧
    ((netUp up fun n => { n with floods := [flood0 .done] }).flood? ((netUp up fun n => { n with floods := [flood0 .done] }).fld .seen F.SEEN_Q_SRC_SRC) (F.SEEN_Q_KEY_SEQ.get (w 0x80000003).val) (F.SEEN_Q_KEY_EPOCH.get (w 0x80000003).val)) = none ∧
    (((netUp up fun n => { n with floods := [flood0 .done] }).setReg .seen 0x04C 9).flood? 9 3 0) = some (flood0 .done)) := by unfold State.Wf; (repeat' apply And.intro) <;> decide +kernel

theorem test_premises_KeyCommandsDoTheirWorkAndForget :
  ((keyUp [0x10400000] [] ⟨0, false, 0⟩).Takes (w 0x80000000) .key 0x040 ∧ (keyUp [0x10400000] [] ⟨0, false, 0⟩).enabled .key = true ∧
    (keyUp [0x10400000] [] ⟨0, false, 0⟩).cph.busy = false ∧ (keyCmd (keyUp [0x10400000] [] ⟨0, false, 0⟩) 0x80000000).privOk = true ∧
    (keyCmd (keyUp [0x10400000] [] ⟨0, false, 0⟩) 0x80000000).cmdSlots.any (keyCmd (keyUp [0x10400000] [] ⟨0, false, 0⟩) 0x80000000).slotInUse = false ∧
    (keyCmd (keyUp [0x10400000] [] ⟨0, false, 0⟩) 0x80000000).kArg F.KEY_CMD_OP = 0 ∧
    (keyCmd (keyUp [0x10400000] [] ⟨0, false, 0⟩) 0x80000000).kArg F.KEY_ARG0_PK ≠ 0 ∧
    2 ≤ (keyCmd (keyUp [0x10400000] [] ⟨0, false, 0⟩) 0x80000000).kArg F.KEY_ARG0_ROLE ∧
    (keyCmd (keyUp [0x10400000] [] ⟨0, false, 0⟩) 0x80000000).kArg F.KEY_ARG0_ROLE ≤ 5 ∧
    (keyCmd (keyUp [0x10400000] [] ⟨0, false, 0⟩) 0x80000000).kArg F.KEY_ARG0_WRAPPED = 0 ∧
    (keyUp [0x10400000] [] ⟨0, false, 0⟩).nvm.locked = false ∧ (keyUp [0x10400000] [] ⟨0, false, 0⟩).Wf) ∧
  ((keyUp [0x10000000] [] ⟨0, false, 0⟩).Takes (w 0x80000001) .key 0x040 ∧ (keyUp [0x10000000] [] ⟨0, false, 0⟩).enabled .key = true ∧
    (keyUp [0x10000000] [] ⟨0, false, 0⟩).cph.busy = false ∧ (keyCmd (keyUp [0x10000000] [] ⟨0, false, 0⟩) 0x80000001).privOk = true ∧
    (keyCmd (keyUp [0x10000000] [] ⟨0, false, 0⟩) 0x80000001).cmdSlots.any (keyCmd (keyUp [0x10000000] [] ⟨0, false, 0⟩) 0x80000001).slotInUse = false ∧
    (keyCmd (keyUp [0x10000000] [] ⟨0, false, 0⟩) 0x80000001).kArg F.KEY_CMD_OP = 1 ∧
    (keyCmd (keyUp [0x10000000] [] ⟨0, false, 0⟩) 0x80000001).kArg F.KEY_ARG0_PK ≠ 0) ∧
  ((keyUp [0x10000001, 0xFFEF0040] [] ⟨4, false, 7⟩).Takes (w 0x80000002) .key 0x040 ∧
    (keyUp [0x10000001, 0xFFEF0040] [] ⟨4, false, 7⟩).enabled .key = true ∧
    (keyUp [0x10000001, 0xFFEF0040] [] ⟨4, false, 7⟩).cph.busy = false ∧
    (keyCmd (keyUp [0x10000001, 0xFFEF0040] [] ⟨4, false, 7⟩) 0x80000002).privOk = true ∧
    (keyCmd (keyUp [0x10000001, 0xFFEF0040] [] ⟨4, false, 7⟩) 0x80000002).cmdSlots.any (keyCmd (keyUp [0x10000001, 0xFFEF0040] [] ⟨4, false, 7⟩) 0x80000002).slotInUse = false ∧
    (keyCmd (keyUp [0x10000001, 0xFFEF0040] [] ⟨4, false, 7⟩) 0x80000002).kArg F.KEY_CMD_OP = 2 ∧
    64 ≤ (keyCmd (keyUp [0x10000001, 0xFFEF0040] [] ⟨4, false, 7⟩) 0x80000002).kArg F.KEY_ARG1_SLOT ∧
    (keyCmd (keyUp [0x10000001, 0xFFEF0040] [] ⟨4, false, 7⟩) 0x80000002).kArg F.KEY_ARG1_KID ≤ 0xFFEF ∧
    (keyCmd (keyUp [0x10000001, 0xFFEF0040] [] ⟨4, false, 7⟩) 0x80000002).slot? 64 = none ∧
    (keyCmd (keyUp [0x10000001, 0xFFEF0040] [] ⟨4, false, 7⟩) 0x80000002).loadFull = false ∧
    (keyCmd (keyUp [0x10000001, 0xFFEF0040] [] ⟨4, false, 7⟩) 0x80000002).kidHeld 0xFFEF 64 = false ∧
    1 ≤ (keyCmd (keyUp [0x10000001, 0xFFEF0040] [] ⟨4, false, 7⟩) 0x80000002).kArg F.KEY_ARG0_LABEL ∧
    (keyCmd (keyUp [0x10000001, 0xFFEF0040] [] ⟨4, false, 7⟩) 0x80000002).kArg F.KEY_ARG0_LABEL ≤ 4 ∧
    (keyCmd (keyUp [0x10000001, 0xFFEF0040] [] ⟨4, false, 7⟩) 0x80000002).kArg F.KEY_ARG0_IDX = 0 ∧
    ((keyCmd (keyUp [0x10000001, 0xFFEF0040] [] ⟨4, false, 7⟩) 0x80000002).deriveCmdKey ⟨1, 1, 0, 0⟩).isSome = true) ∧
  ((keyUp [0x01008000, 0x0005003F] wrapG ⟨3, false, 7⟩).Takes (w 0x80000003) .key 0x040 ∧
    (keyUp [0x01008000, 0x0005003F] wrapG ⟨3, false, 7⟩).enabled .key = true ∧
    (keyUp [0x01008000, 0x0005003F] wrapG ⟨3, false, 7⟩).cph.busy = false ∧
    (keyCmd (keyUp [0x01008000, 0x0005003F] wrapG ⟨3, false, 7⟩) 0x80000003).privOk = true ∧
    (keyCmd (keyUp [0x01008000, 0x0005003F] wrapG ⟨3, false, 7⟩) 0x80000003).cmdSlots.any (keyCmd (keyUp [0x01008000, 0x0005003F] wrapG ⟨3, false, 7⟩) 0x80000003).slotInUse = false ∧
    (keyCmd (keyUp [0x01008000, 0x0005003F] wrapG ⟨3, false, 7⟩) 0x80000003).kArg F.KEY_CMD_OP = 3 ∧
    (keyCmd (keyUp [0x01008000, 0x0005003F] wrapG ⟨3, false, 7⟩) 0x80000003).kArg F.KEY_ARG1_SLOT < 64 ∧
    (keyCmd (keyUp [0x01008000, 0x0005003F] wrapG ⟨3, false, 7⟩) 0x80000003).kArg F.KEY_ARG1_KID ≤ 0xFFEF ∧
    attrBad ((keyCmd (keyUp [0x01008000, 0x0005003F] wrapG ⟨3, false, 7⟩) 0x80000003).kArg F.KEY_ARG0_MODES) ((keyCmd (keyUp [0x01008000, 0x0005003F] wrapG ⟨3, false, 7⟩) 0x80000003).kArg F.KEY_ARG0_TAG16 = 1) = false ∧
    (keyCmd (keyUp [0x01008000, 0x0005003F] wrapG ⟨3, false, 7⟩) 0x80000003).kidHeld 5 63 = false ∧
    ((keyCmd (keyUp [0x01008000, 0x0005003F] wrapG ⟨3, false, 7⟩) 0x80000003).stagedUnwrap 3 ([2] ++ beBytes 2 5 ++ [(keyCmd (keyUp [0x01008000, 0x0005003F] wrapG ⟨3, false, 7⟩) 0x80000003).argAttr, (keyCmd (keyUp [0x01008000, 0x0005003F] wrapG ⟨3, false, 7⟩) 0x80000003).kArg F.KEY_ARG2_USE, 0, 0, 0])).1 = 0) ∧
  ((({ (keyUp [0x01008000, 0] wrapN ⟨3, false, 7⟩).setFld .sch F.SCH_NODE_NODE 9 with cph := { (keyUp [0x01008000, 0] wrapN ⟨3, false, 7⟩).cph with slots := [(4095, slot0 4 false)] } } : State)).Takes (w 0x80000004) .key 0x040 ∧
    (({ (keyUp [0x01008000, 0] wrapN ⟨3, false, 7⟩).setFld .sch F.SCH_NODE_NODE 9 with cph := { (keyUp [0x01008000, 0] wrapN ⟨3, false, 7⟩).cph with slots := [(4095, slot0 4 false)] } } : State)).enabled .key = true ∧
    (({ (keyUp [0x01008000, 0] wrapN ⟨3, false, 7⟩).setFld .sch F.SCH_NODE_NODE 9 with cph := { (keyUp [0x01008000, 0] wrapN ⟨3, false, 7⟩).cph with slots := [(4095, slot0 4 false)] } } : State)).cph.busy = false ∧
    (keyCmd (({ (keyUp [0x01008000, 0] wrapN ⟨3, false, 7⟩).setFld .sch F.SCH_NODE_NODE 9 with cph := { (keyUp [0x01008000, 0] wrapN ⟨3, false, 7⟩).cph with slots := [(4095, slot0 4 false)] } } : State)) 0x80000004).privOk = true ∧
    (keyCmd (({ (keyUp [0x01008000, 0] wrapN ⟨3, false, 7⟩).setFld .sch F.SCH_NODE_NODE 9 with cph := { (keyUp [0x01008000, 0] wrapN ⟨3, false, 7⟩).cph with slots := [(4095, slot0 4 false)] } } : State)) 0x80000004).cmdSlots.any (keyCmd (({ (keyUp [0x01008000, 0] wrapN ⟨3, false, 7⟩).setFld .sch F.SCH_NODE_NODE 9 with cph := { (keyUp [0x01008000, 0] wrapN ⟨3, false, 7⟩).cph with slots := [(4095, slot0 4 false)] } } : State)) 0x80000004).slotInUse = false ∧
    (keyCmd (({ (keyUp [0x01008000, 0] wrapN ⟨3, false, 7⟩).setFld .sch F.SCH_NODE_NODE 9 with cph := { (keyUp [0x01008000, 0] wrapN ⟨3, false, 7⟩).cph with slots := [(4095, slot0 4 false)] } } : State)) 0x80000004).kArg F.KEY_CMD_OP = 4 ∧
    attrBad ((keyCmd (({ (keyUp [0x01008000, 0] wrapN ⟨3, false, 7⟩).setFld .sch F.SCH_NODE_NODE 9 with cph := { (keyUp [0x01008000, 0] wrapN ⟨3, false, 7⟩).cph with slots := [(4095, slot0 4 false)] } } : State)) 0x80000004).kArg F.KEY_ARG0_MODES) ((keyCmd (({ (keyUp [0x01008000, 0] wrapN ⟨3, false, 7⟩).setFld .sch F.SCH_NODE_NODE 9 with cph := { (keyUp [0x01008000, 0] wrapN ⟨3, false, 7⟩).cph with slots := [(4095, slot0 4 false)] } } : State)) 0x80000004).kArg F.KEY_ARG0_TAG16 = 1) = false ∧
    ((keyCmd (({ (keyUp [0x01008000, 0] wrapN ⟨3, false, 7⟩).setFld .sch F.SCH_NODE_NODE 9 with cph := { (keyUp [0x01008000, 0] wrapN ⟨3, false, 7⟩).cph with slots := [(4095, slot0 4 false)] } } : State)) 0x80000004).stagedUnwrap 3 ([3] ++ beBytes 3 (keyCmd (({ (keyUp [0x01008000, 0] wrapN ⟨3, false, 7⟩).setFld .sch F.SCH_NODE_NODE 9 with cph := { (keyUp [0x01008000, 0] wrapN ⟨3, false, 7⟩).cph with slots := [(4095, slot0 4 false)] } } : State)) 0x80000004).ownNode ++ [(keyCmd (({ (keyUp [0x01008000, 0] wrapN ⟨3, false, 7⟩).setFld .sch F.SCH_NODE_NODE 9 with cph := { (keyUp [0x01008000, 0] wrapN ⟨3, false, 7⟩).cph with slots := [(4095, slot0 4 false)] } } : State)) 0x80000004).argAttr, 0, 0, 0])).1 = 0 ∧
    (keyCmd (({ (keyUp [0x01008000, 0] wrapN ⟨3, false, 7⟩).setFld .sch F.SCH_NODE_NODE 9 with cph := { (keyUp [0x01008000, 0] wrapN ⟨3, false, 7⟩).cph with slots := [(4095, slot0 4 false)] } } : State)) 0x80000004).ownSlot = some 4095) ∧
  ((keyUp [0x01008000, 0, 9, 0x20001FFF] wrapN ⟨3, false, 7⟩).Takes (w 0x80000005) .key 0x040 ∧
    (keyUp [0x01008000, 0, 9, 0x20001FFF] wrapN ⟨3, false, 7⟩).enabled .key = true ∧
    (keyUp [0x01008000, 0, 9, 0x20001FFF] wrapN ⟨3, false, 7⟩).cph.busy = false ∧
    (keyCmd (keyUp [0x01008000, 0, 9, 0x20001FFF] wrapN ⟨3, false, 7⟩) 0x80000005).privOk = true ∧
    (keyCmd (keyUp [0x01008000, 0, 9, 0x20001FFF] wrapN ⟨3, false, 7⟩) 0x80000005).cmdSlots.any (keyCmd (keyUp [0x01008000, 0, 9, 0x20001FFF] wrapN ⟨3, false, 7⟩) 0x80000005).slotInUse = false ∧
    (keyCmd (keyUp [0x01008000, 0, 9, 0x20001FFF] wrapN ⟨3, false, 7⟩) 0x80000005).kArg F.KEY_CMD_OP = 5 ∧
    (keyCmd (keyUp [0x01008000, 0, 9, 0x20001FFF] wrapN ⟨3, false, 7⟩) 0x80000005).kArg F.KEY_ARG3_LOC = 2 ∧
    (keyCmd (keyUp [0x01008000, 0, 9, 0x20001FFF] wrapN ⟨3, false, 7⟩) 0x80000005).kArg F.KEY_ARG3_INDEX < 8192 ∧
    (keyCmd (keyUp [0x01008000, 0, 9, 0x20001FFF] wrapN ⟨3, false, 7⟩) 0x80000005).kArg F.KEY_ARG0_SIZE256 = 0 ∧
    ((keyCmd (keyUp [0x01008000, 0, 9, 0x20001FFF] wrapN ⟨3, false, 7⟩) 0x80000005).stagedUnwrap 3 ([3] ++ beBytes 3 9 ++ [(keyCmd (keyUp [0x01008000, 0, 9, 0x20001FFF] wrapN ⟨3, false, 7⟩) 0x80000005).argAttr, 0, 0, 0])).1 = 0 ∧
    (keyCmd (keyUp [0x01008000, 0, 9, 0x20001FFF] wrapN ⟨3, false, 7⟩) 0x80000005).handleSlot (2 * 2 ^ 28 + 8191) = none) ∧
  ((keyUp [0, 4095] [] ⟨0, false, 0⟩).Takes (w 0x80000006) .key 0x040 ∧ (keyUp [0, 4095] [] ⟨0, false, 0⟩).enabled .key = true ∧
    (keyUp [0, 4095] [] ⟨0, false, 0⟩).cph.busy = false ∧ (keyCmd (keyUp [0, 4095] [] ⟨0, false, 0⟩) 0x80000006).privOk = true ∧
    (keyCmd (keyUp [0, 4095] [] ⟨0, false, 0⟩) 0x80000006).cmdSlots.any (keyCmd (keyUp [0, 4095] [] ⟨0, false, 0⟩) 0x80000006).slotInUse = false ∧
    (keyCmd (keyUp [0, 4095] [] ⟨0, false, 0⟩) 0x80000006).kArg F.KEY_CMD_OP = 6 ∧
    (keyCmd (keyUp [0, 4095] [] ⟨0, false, 0⟩) 0x80000006).slot? 4095 = none) ∧
  ((({ keyUp [0, 4095] [] ⟨0, false, 0⟩ with cph := { (keyUp [0, 4095] [] ⟨0, false, 0⟩).cph with slots := [(4095, slot0 1 false)] } } : State)).Takes (w 0x80000007) .key 0x040 ∧
    (({ keyUp [0, 4095] [] ⟨0, false, 0⟩ with cph := { (keyUp [0, 4095] [] ⟨0, false, 0⟩).cph with slots := [(4095, slot0 1 false)] } } : State)).enabled .key = true ∧
    (({ keyUp [0, 4095] [] ⟨0, false, 0⟩ with cph := { (keyUp [0, 4095] [] ⟨0, false, 0⟩).cph with slots := [(4095, slot0 1 false)] } } : State)).cph.busy = false ∧
    (keyCmd (({ keyUp [0, 4095] [] ⟨0, false, 0⟩ with cph := { (keyUp [0, 4095] [] ⟨0, false, 0⟩).cph with slots := [(4095, slot0 1 false)] } } : State)) 0x80000007).privOk = true ∧
    (keyCmd (({ keyUp [0, 4095] [] ⟨0, false, 0⟩ with cph := { (keyUp [0, 4095] [] ⟨0, false, 0⟩).cph with slots := [(4095, slot0 1 false)] } } : State)) 0x80000007).cmdSlots.any (keyCmd (({ keyUp [0, 4095] [] ⟨0, false, 0⟩ with cph := { (keyUp [0, 4095] [] ⟨0, false, 0⟩).cph with slots := [(4095, slot0 1 false)] } } : State)) 0x80000007).slotInUse = false ∧
    (keyCmd (({ keyUp [0, 4095] [] ⟨0, false, 0⟩ with cph := { (keyUp [0, 4095] [] ⟨0, false, 0⟩).cph with slots := [(4095, slot0 1 false)] } } : State)) 0x80000007).kArg F.KEY_CMD_OP = 7 ∧
    (keyCmd (({ keyUp [0, 4095] [] ⟨0, false, 0⟩ with cph := { (keyUp [0, 4095] [] ⟨0, false, 0⟩).cph with slots := [(4095, slot0 1 false)] } } : State)) 0x80000007).slot? 4095 = some (slot0 1 false) ∧
    64 ≤ (keyCmd (({ keyUp [0, 4095] [] ⟨0, false, 0⟩ with cph := { (keyUp [0, 4095] [] ⟨0, false, 0⟩).cph with slots := [(4095, slot0 1 false)] } } : State)) 0x80000007).kArg F.KEY_ARG1_SLOT ∧
    (slot0 1 false).typ < 3) := by
  repeat' apply And.intro
  all_goals first
    | (with_reducible refine staged_ok _ _ _ _ _ ?_ ?_ ?_ ?_ unwrap_node) <;> decide +kernel
    | (with_reducible refine staged_ok _ _ _ _ _ ?_ ?_ ?_ ?_ unwrap_group) <;> decide +kernel
    | decide +kernel

theorem test_premises_KeysAreProvisionedZeroisedAndRestored :
  (up.Takes (w 1) .key 0x060 ∧ up.nvm.locked = false ∧ up.Takes (w 0) .key 0x064 ∧ (w 0).val ≠ 0x800000A5 ∧
    up.Takes (w 0x800000A5) .key 0x064) ∧
  (({ up with cph := { up.cph with slots := [(63, slot0 3 true), (64, slot0 0 false), (4095, slot0 2 false)] }, nvm := { up.nvm with slots := [(63, slot0 3 false)] } } : State).slot? 63 = some (slot0 3 true) ∧
    ({ up with cph := { up.cph with slots := [(63, slot0 3 true), (64, slot0 0 false), (4095, slot0 2 false)] }, nvm := { up.nvm with slots := [(63, slot0 3 false)] } } : State).slot? 64 = some (slot0 0 false) ∧
    ({ up with cph := { up.cph with slots := [(63, slot0 3 true), (64, slot0 0 false), (4095, slot0 2 false)] }, nvm := { up.nvm with slots := [(63, slot0 3 false)] } } : State).slot? 4095 = some (slot0 2 false) ∧
    ({ up with cph := { up.cph with slots := [(63, slot0 3 true), (64, slot0 0 false), (4095, slot0 2 false)] }, nvm := { up.nvm with slots := [(63, slot0 3 false)] } } : State).nvm.slots.find? (fun e => decide (e.1 = 63)) = some (63, slot0 3 false)) := by (repeat' apply And.intro) <;> decide +kernel

theorem test_premises_RingsAndDoorbells :
  (rings.Takes (w 15) (.dbell 7) 0x040 ∧ rings.reach (.dbell 7) false = .dbell 7 ∧ rings.sqEn 7 0 = true ∧
    (rings.at_ (.dbell 7) false).sqRoom 7 0 = 15 ∧ rings.Takes (w 3) (.dbell 7) 0x044 ∧ rings.cqEn 7 0 = true ∧
    rings.Takes (w 3) (.crq 7) F.CR_DB_SQ_TAIL.off ∧ rings.reach (.crq 7) false = .crq 7 ∧ rings.sqEn 7 8 = true ∧
    ((rings.at_ (.crq 7) false).newTail 7 8 3).isSome = true ∧ rings.Takes (w 3) (.crq 7) F.CR_DB_CQ_HEAD.off) ∧
  ((ten rings fun x => { x with inflight := 4095 }).Takes (w 15) (.dbell 7) 0x040 ∧
    ((ten rings fun x => { x with inflight := 4095 }).at_ (.dbell 7) false).sqRoom 7 0 < 15) ∧
  ((rings.setRing 7 8 F.TNT_SQ_STAT_WR_TAIL 1).Takes (w 0) (.crq 7) F.CR_DB_SQ_TAIL.off ∧
    (((rings.setRing 7 8 F.TNT_SQ_STAT_WR_TAIL 1).at_ (.crq 7) false).newTail 7 8 0) = none) ∧
  (tenUp.reach (ringPage 7 8) false = ringPage 7 8 ∧ tenUp.Takes (w 0x80000004) (ringPage 7 8) 0x048 ∧ tenUp.sqEn 7 8 = false ∧
    (applyWrite (ringPage 7 8) 0x048 (w 0x80000004).val (tenUp.at_ (ringPage 7 8) false)).sqEn 7 8 = true ∧
    (applyWrite (ringPage 7 8) 0x048 (w 0x80000004).val (tenUp.at_ (ringPage 7 8) false)).ringFits 7 8 false = true ∧
    tenUp.Takes (w 0x80000004) (ringPage 7 0) 0x118 ∧ tenUp.cqEn 7 0 = false ∧
    (applyWrite (ringPage 7 0) 0x118 (w 0x80000004).val (tenUp.at_ (ringPage 7 0) false)).cqEn 7 0 = true ∧
    (applyWrite (ringPage 7 0) 0x118 (w 0x80000004).val (tenUp.at_ (ringPage 7 0) false)).ringFits 7 0 true = true ∧
    tenUp.Takes (w 0xC0000004) (ringPage 7 0) 0x108 ∧
    (applyWrite (ringPage 7 0) 0x108 (w 0xC0000004).val (tenUp.at_ (ringPage 7 0) false)).sqEn 7 0 = true ∧
    (applyWrite (ringPage 7 0) 0x108 (w 0xC0000004).val (tenUp.at_ (ringPage 7 0) false)).ringFits 7 0 false = false) ∧
  (rings.Takes (w 0) (ringPage 7 0) 0x108 ∧ (rings.at_ (ringPage 7 0) false).sqEn 7 0 = true ∧
    (applyWrite (ringPage 7 0) 0x108 (w 0).val (rings.at_ (ringPage 7 0) false)).sqEn 7 0 = false ∧
    rings.Takes (w 0) (ringPage 7 0) 0x118 ∧ (rings.at_ (ringPage 7 0) false).cqEn 7 0 = true ∧
    (applyWrite (ringPage 7 0) 0x118 (w 0).val (rings.at_ (ringPage 7 0) false)).cqEn 7 0 = false) := by (repeat' apply And.intro) <;> decide +kernel

theorem test_premises_DescriptorsAndPayloadsArrive :
  ((netUp rings fun n => { n with fetch := some (7, 0, 0) }).restarting = false ∧
    (netUp rings fun n => { n with fetch := some (7, 0, 0) }).net.fetch = some (7, 0, 0) ∧
    (netUp rings fun n => { n with fetch := some (7, 0, 0) }).sqQmem 7 0 = false ∧ (desc0 [3]).length = 64 ∧
    (netUp rings fun n => { n with fetch := some (7, 0, 0) }).ring 7 0 F.TNT_SQ_STAT_HEAD = 0 ∧
    (netUp rings fun n => { n with fetch := some (7, 0, 0) }).mirrors = false ∧
    ((netUp rings fun n => { n with fetch := some (7, 0, 0) }).setRing 7 0 F.TNT_SQ_STAT_HEAD 1).mirrors = false) ∧
  (((ten rings fun x => { x with msgs := [msg0 none false] }).tenant 7).msgs.find? (fun m => decide (m.id = 3)) = some (msg0 none false) ∧
    (msg0 none false).data = none ∧ (msg0 none false).qmem = false) := by (repeat' apply And.intro) <;> decide +kernel

theorem test_premises_MessagesEndAndWaitByTheirTimes :
  (((late (ten rings fun x => { x with msgs := [msg0 (some 0) true] })).tenant 7).msgs.find? (fun m => decide (m.id = 3)) = some (msg0 (some 0) true) ∧
    0 + max 1 ((late (ten rings fun x => { x with msgs := [msg0 (some 0) true] })).fld (.tnt 0) F.TNT_MSCFG_E2E_SF) ≤ (late (ten rings fun x => { x with msgs := [msg0 (some 0) true] })).line.sched.sfN ∧
    (msg0 (some 0) true).left = [] ∧
    (msg0 (some 0) true).sf + max 1 ((late (ten rings fun x => { x with msgs := [msg0 (some 0) true] })).fld (.tnt 7) F.TNT_LIMITS_HOLD_SF) ≤ (late (ten rings fun x => { x with msgs := [msg0 (some 0) true] })).line.sched.sfN ∧
    (msg0 (some 0) true).handed.isSome = true ∧ (late (ten rings fun x => { x with msgs := [msg0 (some 0) true] })).serving = true) ∧
  (((late (ten rings fun x => { x with msgs := [msg0 none true] })).tenant 7).msgs.find? (fun m => decide (m.id = 3)) = some (msg0 none true) ∧
    (msg0 none true).sf + max 1 ((late (ten rings fun x => { x with msgs := [msg0 none true] })).fld (.tnt 7) F.TNT_LIMITS_HOLD_SF) ≤ (late (ten rings fun x => { x with msgs := [msg0 none true] })).line.sched.sfN) ∧
  (((late (ten rings fun x => { x with waits := [wait0 false] })).tenant 7).waits.find? (fun w => decide (w.id = 4)) = some (wait0 false) ∧
    (wait0 false).sf + max 1 ((late (ten rings fun x => { x with waits := [wait0 false] })).fld (.tnt 7) F.TNT_LIMITS_ORDER_SF) ≤ (late (ten rings fun x => { x with waits := [wait0 false] })).line.sched.sfN) ∧
  ((({ ten rings fun x => { x with waits := [wait0 true] } with ct := 2 ^ 40 } : State).tenant 7).waits.find? (fun w => decide (w.id = 4)) = some (wait0 true) ∧
    max 1 (({ ten rings fun x => { x with waits := [wait0 true] } with ct := 2 ^ 40 } : State).fld (.tnt 7) F.TNT_LIMITS_WAIT_AGE_MS) * 10000 ≤ ({ ten rings fun x => { x with waits := [wait0 true] } with ct := 2 ^ 40 } : State).tenths (wait0 true).sf ∧
    (wait0 true).spilled = false) ∧
  ((late (netUp rings fun n => { n with reasm := [⟨9, 1, 0, 0, false, 5, false, 0, [], none, 0⟩] })).net.reasm.find? (fun r => r.key 9 1 0 0 false) = some ⟨9, 1, 0, 0, false, 5, false, 0, [], none, 0⟩ ∧
    0 + max 1 ((late (netUp rings fun n => { n with reasm := [⟨9, 1, 0, 0, false, 5, false, 0, [], none, 0⟩] })).fld (.tnt 0) F.TNT_MSCFG_REASM_SF) ≤ (late (netUp rings fun n => { n with reasm := [⟨9, 1, 0, 0, false, 5, false, 0, [], none, 0⟩] })).line.sched.sfN ∧
    (late (netUp rings fun n => { n with reasm := [⟨9, 1, 0, 0, false, 5, false, 0, [], none, 0⟩] })).binding 1 = none ∧
    (((late (netUp rings fun n => { n with reasm := [⟨9, 1, 0, 0, false, 5, false, 0, [], none, 0⟩] })).setFlag (.tnt 0) (F.TNT_SVC_BOUND.at 1) true).binding 1).isSome = true) := by (repeat' apply And.intro) <;> decide +kernel

theorem test_premises_DeliveriesFillTheirBuffers :
  (((ten rings fun x => { x with waits := [wait0 true], bufs := [buf0] }).tenant 7).waits.find? (fun w => w.queued && decide (w.q = 0)) = some (wait0 true) ∧
    ((ten rings fun x => { x with waits := [wait0 true], bufs := [buf0] }).tenant 7).deliv = none ∧
    (ten rings fun x => { x with waits := [wait0 true], bufs := [buf0] }).cqEn 7 0 = true ∧
    (((ten rings fun x => { x with waits := [wait0 true], bufs := [buf0] }).tenant 7).comps.filter fun c => decide (c.q = 0)).length < (ten rings fun x => { x with waits := [wait0 true], bufs := [buf0] }).cqRoom 7 0 ∧
    (ten rings fun x => { x with waits := [wait0 true], bufs := [buf0] }).serving = true ∧
    takeBufs [buf0] (wait0 true).data.length = some [buf0] ∧
    (ten rings fun x => { x with waits := [wait0 true], bufs := [buf0] }).mirrors = false) ∧
  (((ten rings fun x => { x with deliv := some ⟨wait0 true, [buf0], true⟩ }).tenant 7).deliv = some ⟨wait0 true, [buf0], true⟩ ∧
    (ten rings fun x => { x with deliv := some ⟨wait0 true, [buf0], true⟩ }).restarting = false ∧
    (((ten rings fun x => { x with deliv := some ⟨wait0 true, [buf0], true⟩ }).setTenant 7 { (ten rings fun x => { x with deliv := some ⟨wait0 true, [buf0], true⟩ }).tenant 7 with deliv := none }).writeBufs 7 [buf0] [1]).isSome = true ∧
    ([buf0].any fun b => !b.qmem) = true ∧ (ten rings fun x => { x with deliv := some ⟨wait0 true, [buf0], true⟩ }).dmaOk 7 = true) ∧
  ((((ten rings fun x => { x with deliv := some ⟨wait0 true, [buf0], true⟩ }).setFn 8 PcieFn.reset).tenant 7).deliv = some ⟨wait0 true, [buf0], true⟩ ∧
    ((ten rings fun x => { x with deliv := some ⟨wait0 true, [buf0], true⟩ }).setFn 8 PcieFn.reset).restarting = false ∧
    ([buf0].any fun b => !b.qmem) = true ∧
    ((ten rings fun x => { x with deliv := some ⟨wait0 true, [buf0], true⟩ }).setFn 8 PcieFn.reset).dmaOk 7 = false) := by (repeat' apply And.intro) <;> decide +kernel

theorem test_premises_TenantsAreConfiguredAndReset :
  (up.Takes (w 0x01000000) (.tnt 7) 0x050 ∧ F.TNT_QMEM_BASE.get (w 0x01000000).val + F.TNT_QMEM_SIZE.get (w 0x01000000).val ≤ 256 ∧
    up.Takes (w 0x01000001) (.tnt 7) 0x050 ∧ 256 < F.TNT_QMEM_BASE.get (w 0x01000001).val + F.TNT_QMEM_SIZE.get (w 0x01000001).val ∧
    ((List.range 9).any fun k => (up.sqEn 7 k && up.sqQmem 7 k) || (up.cqEn 7 k && up.cqQmem 7 k)) = false ∧
    ((List.finRange 8).any fun u => decide (u ≠ 7) && decide (up.fld (.tnt u) F.TNT_QMEM_SIZE ≠ 0)) = false ∧
    up.Takes (w 2) (.tnt 7) 0x040 ∧ up.reach (.tpage 7) false = .tpage 7 ∧ up.Takes (w 1) (.tpage 7) 0x048) ∧
  ((rings.setRing 7 0 F.TNT_SQ_CFG_QMEM 1).Takes (w 0x01000000) (.tnt 7) 0x050 ∧
    ((rings.setRing 7 0 F.TNT_SQ_CFG_QMEM 1).sqEn 7 0 && (rings.setRing 7 0 F.TNT_SQ_CFG_QMEM 1).sqQmem 7 0) = true ∧
    (rings.setRing 7 0 F.TNT_SQ_CFG_QMEM 1).Takes (w 1) (.tpage 7) 0x04C) ∧
  ((up.setFlag (.tnt 7) F.TNT_MSTAT_RESETTING true).resetting 7 = true) := by (repeat' apply And.intro) <;> decide +kernel

theorem test_premises_CipherRequestsAndCommands :
  (crTake (cr [0x10, 0, 101, 0, 0, 0, 0, 0, 4]) 0x10 (fun d u => decide (u.crCheck 7 d ≠ 0)) = true) ∧
  (crTake (cr [0x10, 0, 100, 0, 0, 0, 0, 0, 4]) 0x10 (fun d u => decide (u.crCheck 7 d = 0) && !bitOf (d.getD 1 0) 5) = true) ∧
  (crTake (cr [0x14, 0, 0, 0, 0, 0, 0, 0, 4]) 0x14 (fun d u => !crInvalid d && !u.halted && !u.faulted .ent 1) = true ∧
    crTake ((cr [0x14, 0, 0, 0, 0, 0, 0, 0, 4]).setFlag .ent F.ENT_STAT_HALTED true) 0x14 (fun d u => !crInvalid d && u.halted) = true) ∧
  (crTake ((((cr ([0x20, 0, 0, 0, 0, 0, 0, 0, 16] ++ List.replicate 39 0 ++ [5, 0, 8])).setFld .key (F.KEY_TKID_SIZE.at 7) 100).setFlag .key (F.KEY_TPOL_CLEAR_OK.at 7) true).setFld (.tnt 7) F.TNT_QUOTA0_KEYS 9) 0x20 (fun d u => !bitOf (d.getD 50 0) 7 && decide (((u.crData 7 d (crLen d) (.ok (List.replicate 16 1) false)).2.loadKeyStatus 7 d (u.crData 7 d (crLen d) (.ok (List.replicate 16 1) false)).1).1 = 0) && decide (u.newSlot = some 64)) = true) ∧
  (crTake (cr [0x21, 0, 100]) 0x21 (fun d u => !crReserved d && decide ((u.slot? (crKey d)).map (fun x => (decide (x.typ ≤ 1), x.owner)) = some (true, 7)) && !u.slotInUse (crKey d)) = true ∧
    crTake { (cr [0x21, 0, 100]) with cph := { (cr [0x21, 0, 100]).cph with lanes := (cr [0x21, 0, 100]).cph.lanes.set 3 (some (creq0 7)) } } 0x21 (fun d u => u.slotInUse (crKey d)) = true) := by (repeat' apply And.intro) <;> decide +kernel

theorem test_premises_CipherLanesServeAndAreTested :
  (({ tenUp with cph := { tenUp.cph with lanes := tenUp.cph.lanes.set 23 (some (creq0 7)), wait := [⟨2, .frame 6 0 255 100, 0, some 1, false⟩] } } : State).laneRun 23 = some (creq0 7) ∧
    ({ tenUp with cph := { tenUp.cph with lanes := tenUp.cph.lanes.set 23 (some (creq0 7)), wait := [⟨2, .frame 6 0 255 100, 0, some 1, false⟩] } } : State).outputWaits (creq0 7) = false ∧
    (({ tenUp with cph := { tenUp.cph with lanes := tenUp.cph.lanes.set 23 (some (creq0 7)), wait := [⟨2, .frame 6 0 255 100, 0, some 1, false⟩] } } : State).setFn 8 PcieFn.reset).outputWaits (creq0 7) = true ∧
    (({ tenUp with cph := { tenUp.cph with lanes := tenUp.cph.lanes.set 23 (some (creq0 7)), wait := [⟨2, .frame 6 0 255 100, 0, some 1, false⟩] } } : State).setFn 8 PcieFn.reset).laneRun 23 = some (creq0 7) ∧
    (({ tenUp with cph := { tenUp.cph with lanes := tenUp.cph.lanes.set 23 (some (creq0 7)), wait := [⟨2, .frame 6 0 255 100, 0, some 1, false⟩] } } : State).cph.wait.any fun x => (match x.work with | .direct .. => false | _ => true) && ({ tenUp with cph := { tenUp.cph with lanes := tenUp.cph.lanes.set 23 (some (creq0 7)), wait := [⟨2, .frame 6 0 255 100, 0, some 1, false⟩] } } : State).canStart x) = true ∧
    ({ tenUp with cph := { tenUp.cph with lanes := tenUp.cph.lanes.set 23 (some (creq0 7)), wait := [⟨2, .frame 6 0 255 100, 0, some 1, false⟩] } } : State).freeLane = none) ∧
  (({ up with cph := { up.cph with reserving := true } } : State).cph.reserving = true) ∧
  (((({ netUp (up.setReg .cph 0x040 0x3FFFFFF) (fun n => { n with frames := [frame0 .key none 77] }) with cph := { up.cph with slots := [(4095, slot0 2 false)] } } : State).net.frames.any fun f => decide (f.st = .key ∧
    f.handle = 77)) = true) ∧
    ({ netUp (up.setReg .cph 0x040 0x3FFFFFF) (fun n => { n with frames := [frame0 .key none 77] }) with cph := { up.cph with slots := [(4095, slot0 2 false)] } } : State).privOk = true ∧
    ({ netUp (up.setReg .cph 0x040 0x3FFFFFF) (fun n => { n with frames := [frame0 .key none 77] }) with cph := { up.cph with slots := [(4095, slot0 2 false)] } } : State).handleSlot 77 = some 4095) ∧
  (((up.setFlag .cph F.CPH_TEST_AUTO true).setReg .cph 0x040 0x3FFFFFF).flag .cph F.CPH_TEST_AUTO = true ∧
    ((up.setFlag .cph F.CPH_TEST_AUTO true).setReg .cph 0x040 0x3FFFFFF).cph.test = none ∧
    ((List.range 26).map fun k => (((up.setFlag .cph F.CPH_TEST_AUTO true).setReg .cph 0x040 0x3FFFFFF).cph.next + k) % 26).find? ((up.setFlag .cph F.CPH_TEST_AUTO true).setReg .cph 0x040 0x3FFFFFF).testable = some 0 ∧
    ((up.setFlag .cph F.CPH_TEST_AUTO true).setReg .cph 0x040 0x3FFFFFF).Takes (w 0x40000019) .cph 0x048 ∧
    (applyWrite .cph 0x048 (w 0x40000019).val (((up.setFlag .cph F.CPH_TEST_AUTO true).setReg .cph 0x040 0x3FFFFFF).at_ .cph false)).fld .cph F.CPH_TEST_LANE < 26) ∧
  (({ up with cph := { up.cph with test := some 25 } } : State).cph.test = some 25 ∧
    ({ up with cph := { up.cph with test := some 25 } } : State).laneRun 25 = none) ∧
  (({ up with cph := { up.cph with lanes := up.cph.lanes.set 0 (some (creq0 7)) } } : State).laneRetired 0 = false ∧
    (({ up with cph := { up.cph with lanes := up.cph.lanes.set 0 (some (creq0 7)) } } : State).laneRun 0).isSome = true ∧
    ({ up with cph := { up.cph with lanes := up.cph.lanes.set 0 (some (creq0 7)) } } : State).cph.test ≠ some 0) := by (repeat' apply And.intro) <;> decide +kernel

theorem test_premises_TheEntropySourceIsTested :
  (up.healthy = true ∧ up.Takes (w 1) .ent 0x04C ∧ up.halted = false ∧ up.Gives rd .ent 0x048 ∧ up.faulted .ent 1 = false) ∧
  ((up.setFlag .ent F.ENT_STAT_HEALTHY false).healthy = false ∧ (up.setFlag .ent F.ENT_STAT_HEALTHY false).halted = false ∧
    (up.setFlag .ent F.ENT_STAT_HEALTHY false).cph.passes + 1 < 3 ∧
    3 ≤ ({ (up.setFlag .ent F.ENT_STAT_HEALTHY false) with cph := { (up.setFlag .ent F.ENT_STAT_HEALTHY false).cph with passes := 2 } } : State).cph.passes + 1) ∧
  ((up.setFlag .ent F.ENT_STAT_HALTED true).halted = true ∧ (up.setFlag .ent F.ENT_STAT_HALTED true).Gives rd .ent 0x048) := by (repeat' apply And.intro) <;> decide +kernel

theorem test_premises_SlotsAndSuperframesFollow :
  (up.running = true ∧ up.line.sched.due = false ∧
    ((up.endIdle.slotEnd slotIn0).nextSlot slotIn0).pwr.slumberDue = false ∧
    ((up.endIdle.slotEnd slotIn0).nextSlot slotIn0).slot % 64 ≠ 0) ∧
  (({ up with ct := 63 * 2 ^ 20 } : State).running = true ∧
    ((({ up with ct := 63 * 2 ^ 20 } : State).endIdle.slotEnd slotIn0).nextSlot slotIn0).pwr.slumberDue = false ∧
    ((({ up with ct := 63 * 2 ^ 20 } : State).endIdle.slotEnd slotIn0).nextSlot slotIn0).slot % 64 = 0) ∧
  (({ up with pwr := { up.pwr with slumberDue := true } } : State).running = true ∧
    ((({ up with pwr := { up.pwr with slumberDue := true } } : State).endIdle.slotEnd slotIn0).nextSlot slotIn0).pwr.slumberDue = true ∧
    ((({ up with pwr := { up.pwr with slumberDue := true } } : State).endIdle.slotEnd slotIn0).nextSlot slotIn0).slot % 64 ≠ 0) ∧
  ((up.setSched { up.line.sched with due := true }).running = true ∧
    (up.setSched { up.line.sched with due := true }).line.sched.due = true) := by (repeat' apply And.intro) <;> decide +kernel

theorem test_premises_BeaconsAndTheRootClaim :
  ((bcnUp ch0).live 0 = some cfg0 ∧ (bcnUp ch0).running = true ∧ (bcnUp ch0).beaconGood (bcn0 0) = true ∧
    (bcnUp ch0).beaconGood { bcn0 0 with bits := 511 } = false ∧ (bcnUp ch0).beaconDo (Beacon.of (bcn0 0).bytes) = .follow ∧
    ((bcnUp ch0).beaconDo (Beacon.of (bcn0 7).bytes) = .reject ∨ (bcnUp ch0).beaconDo (Beacon.of (bcn0 7).bytes) = .merge)) ∧
  ((bcnUp (ch0.setFlag .sch F.SCH_CT_STAT_IS_ROOT true)).beaconGood (bcn0 0) = true ∧
    (bcnUp (ch0.setFlag .sch F.SCH_CT_STAT_IS_ROOT true)).beaconDo (Beacon.of (bcn0 0).bytes) = .ignore ∧
    (bcnUp (ch0.setFlag .sch F.SCH_CT_STAT_IS_ROOT true)).beaconGood (bcn0 7) = true ∧
    (bcnUp (ch0.setFlag .sch F.SCH_CT_STAT_IS_ROOT true)).beaconDo (Beacon.of (bcn0 7).bytes) = .reject) ∧
  ((bcnUp (ch0.setFlag .sch F.SCH_CT_STAT_SYNC false)).beaconGood (bcn0 0) = true ∧
    (bcnUp (ch0.setFlag .sch F.SCH_CT_STAT_SYNC false)).beaconDo (Beacon.of (bcn0 0).bytes) = .first) ∧
  (({ ch0 with line := { ch0.line with sched := { ch0.line.sched with noBeacon := 300 } } } : State).sync = true ∧
    ({ ch0 with line := { ch0.line with sched := { ch0.line.sched with noBeacon := 300 } } } : State).isRoot = false ∧
    ({ ch0 with line := { ch0.line with sched := { ch0.line.sched with noBeacon := 300 } } } : State).part ≠ ptLost ∧
    max 1 (({ ch0 with line := { ch0.line with sched := { ch0.line.sched with noBeacon := 300 } } } : State).fld .sch F.SCH_MODE_BCN_LOSS) ≤ ({ ch0 with line := { ch0.line with sched := { ch0.line.sched with noBeacon := 300 } } } : State).line.sched.noBeacon) ∧
  (((ch0.setPart ptLost).setFlag .rly F.RLY_PART_CLAIM_EN true).part = ptLost ∧
    ((ch0.setPart ptLost).setFlag .rly F.RLY_PART_CLAIM_EN true).net.claim = 0 ∧
    ((ch0.setPart ptLost).setFlag .rly F.RLY_PART_CLAIM_EN true).flag .rly F.RLY_PART_CLAIM_EN = true) := by (repeat' apply And.intro) <;> decide +kernel

theorem test_premises_SleepersWakeMissStayAndDrift :
  (({ slp slAsleep id with pwr := { up.pwr with mode := .slumber } } : State).pwr.mode = .slumber ∧
    ({ slp slAsleep id with pwr := { up.pwr with mode := .slumber } } : State).slpState = slAsleep) ∧
  (({ up with pwr := { up.pwr with mode := .waking } } : State).pwr.mode = .waking ∧
    sfOf ({ up with pwr := { up.pwr with mode := .waking } } : State).ct = sfOf ((({ up with pwr := { up.pwr with mode := .waking } } : State).slept 3 0).rtcAdd 0).ct ∧
    ({ up with pwr := { up.pwr with mode := .waking } } : State).line.sched.due = false ∧
    ({ up with pwr := { up.pwr with mode := .waking } } : State).slpOn = false) ∧
  ((slp slAwake fun x => { x with rend := some ⟨9, 0, 1, 0, false⟩ }).slpOn = true ∧
    (slp slAwake fun x => { x with rend := some ⟨9, 0, 1, 0, false⟩ }).running = true ∧
    (slp slAwake fun x => { x with rend := some ⟨9, 0, 1, 0, false⟩ }).slpState = slAwake ∧
    (slp slAwake fun x => { x with rend := some ⟨9, 0, 1, 0, false⟩ }).slpErr = false ∧
    (slp slAwake fun x => { x with rend := some ⟨9, 0, 1, 0, false⟩ }).slp.held = false ∧
    (slp slAwake fun x => { x with rend := some ⟨9, 0, 1, 0, false⟩ }).slp.rend.isSome = true ∧
    (slp slAwake fun x => { x with rend := some ⟨9, 0, 1, 0, false⟩ }).fld .slp F.SLP_NEXT_LO_SLOT + (slp slAwake fun x => { x with rend := some ⟨9, 0, 1, 0, false⟩ }).fld .slp F.SLP_NEXT_HI_SLOT * 2 ^ 32 ≤ (slp slAwake fun x => { x with rend := some ⟨9, 0, 1, 0, false⟩ }).slot ∧
    (slp slAwake fun x => { x with rend := some ⟨9, 0, 1, 0, false⟩ }).slpMiss.adrift = false ∧
    ((slp slAwake fun x => { x with rend := some ⟨9, 0, 1, 0, false⟩ }).setFld .slp F.SLP_STAT_MISS_RUN 2).slpMiss.adrift = true) ∧
  ((slp slAwake fun x => { x with stay := some (8, 0) }).slp.stay = some (8, 0) ∧
    (slp slAwake fun x => { x with stay := some (8, 0) }).slpState = slAwake ∧
    max 1 ((slp slAwake fun x => { x with stay := some (8, 0) }).fld .slp F.SLP_CFG_STAY) ≤ 8 ∧
    (slp slAwake fun x => { x with stay := some (8, 0) }).toParent = false) ∧
  ((slp slListen id).slpOn = true ∧ (slp slListen id).slpState = slListen ∧
    (slp slListen id).slp.left ≤ (slp slListen id).line.sched.sfN ∧ (slp slWait id).slpState = slWait) := by (repeat' apply And.intro) <;> decide +kernel

theorem test_premises_WakeFramesAreAnswered :
  ((slp slAwake fun x => { x with listed := some (3, false, 0) }).slp.listed = some (3, false, 0) ∧
    (slp slAwake fun x => { x with listed := some (3, false, 0) }).live (slp slAwake fun x => { x with listed := some (3, false, 0) }).slpChan = some cfg0 ∧
    (slp slAwake fun x => { x with listed := some (3, false, 0) }).slpOn = true ∧
    (slp slAwake fun x => { x with listed := some (3, false, 0) }).slpState = slAwake ∧
    (slp slAwake fun x => { x with listed := some (3, false, 0) }).slot = 0 ∧
    (slp slAwake fun x => { x with listed := some (3, false, 0) }).mayTx cfg0 = true ∧
    (slp slAwake fun x => { x with listed := some (3, false, 0) }).toParent = false ∧
    (slp slAwake fun x => { x with listed := some (3, false, 0) }).slp.stay = none) ∧
  ((({ dirUp with slp := { dirUp.slp with answers := [(0, 0, [(7, 9, false)])] } } : State).slp.answers.find? (fun a => decide (a.1 = 0 ∧
    a.2.1 = ({ dirUp with slp := { dirUp.slp with answers := [(0, 0, [(7, 9, false)])] } } : State).slot)) = some (0, ({ dirUp with slp := { dirUp.slp with answers := [(0, 0, [(7, 9, false)])] } } : State).slot, [(7, 9, false)])) ∧
    [(7, 9, false)].find? (fun e => decide (e.1 = 7)) = some (7, 9, false) ∧
    (({ dirUp with slp := { dirUp.slp with answers := [(0, 0, [(7, 9, false)])] } } : State).endWindow 0 ({ dirUp with slp := { dirUp.slp with answers := [(0, 0, [(7, 9, false)])] } } : State).slot 7).dirFind 9 = some 36848 ∧
    ({ dirUp with slp := { dirUp.slp with answers := [(0, 0, [(7, 9, false)])] } } : State).fld (.ch 0) F.CH_CONTEND_DET_TH < 1000 ∧
    0 ≤ ({ dirUp with slp := { dirUp.slp with answers := [(0, 0, [(7, 9, false)])] } } : State).fld (.ch 0) F.CH_CONTEND_DET_TH) ∧
  (up.Takes (w 1) .slp 0x078) := by (repeat' apply And.intro) <;> decide +kernel

theorem test_premises_StagesStatesAndPowerCommands :
  (up.pwr.mode ≠ .off ∧ 649 < fallTh 5 ∧ up.pwr.journalling = false ∧ riseTh 6 ≤ 640 ∧ up.pwr.mode = .run ∧ up.pwr.slumberDue = false ∧
    up.Takes (w 0x80000000) .pwr 0x058 ∧ F.PWR_CMD_GO.get (w 0x80000000).val = 1 ∧ up.Takes (w 0x80000001) .pwr 0x058 ∧
    F.PWR_CMD_OP.get (w 0x80000001).val = 1 ∧ (applyWrite .pwr 0x058 (w 0x80000001).val (up.at_ .pwr false)).running = true ∧
    up.Takes (w 0x80000002) .pwr 0x058 ∧ (applyWrite .pwr 0x058 (w 0x80000002).val (up.at_ .pwr false)).dom 3 = .on ∧
    up.pwr.supply = false ∧ 1999 < 2000) ∧
  (((pwrIn up fun p => { p with stages := p.stages.set 4 ⟨true, true, false⟩ }).stage 5).shed = true ∧
    ((pwrIn up fun p => { p with stages := p.stages.set 4 ⟨true, true, false⟩ }).stage 5).timing = true ∧ 689 < riseTh 5) ∧
  (((pwrIn up fun p => { p with stages := p.stages.set 4 ⟨true, false, false⟩ }).stage 5).shed = true ∧ riseTh 5 ≤ 690 ∧
    (((pwrIn up fun p => { p with stages := p.stages.set 4 ⟨true, false, false⟩ }).stage 5).timing = false ∧
    ((pwrIn up fun p => { p with stages := p.stages.set 4 ⟨true, false, false⟩ }).stage 5).due = false)) ∧
  ((pwrIn up fun p => { p with journalling := true, alarm := 9 }).pwr.journalling = true ∧
    (pwrIn up fun p => { p with journalling := true, alarm := 9 }).pwr.mode ≠ .off ∧
    (pwrIn up fun p => { p with journalling := true, alarm := 9 }).pwr.alarm ≠ 0) ∧
  (State.reset.pwr.mode = .standby ∧ (pwrIn State.reset fun p => { p with mode := .off }).pwr.mode = .off) ∧
  (up.Wf ∧ up.pwr.mode ≠ .off ∧ up.pwr.supply = false ∧ 599 < 600) := by unfold State.Wf; (repeat' apply And.intro) <;> decide +kernel

theorem test_premises_DeviceResetsAndFatalFaults :
  (up.Wf ∧ up.Takes (w 0x8000A500) .rst 0x040 ∧ F.RST_CMD_GO.get (w 0x8000A500).val = 1 ∧ F.RST_CMD_KEY.get (w 0x8000A500).val = 0xA5 ∧
    up.Takes (w 0x8000A400) .rst 0x040 ∧ F.RST_CMD_KEY.get (w 0x8000A400).val ≠ 0xA5 ∧ up.awake = true ∧ noOnlineTest .rte = true) ∧
  (1200 ≤ (pwrIn up fun p => { p with thm := { p.thm with max := 1200 } }).pwr.thm.max ∧
    (pwrIn up fun p => { p with thm := { p.thm with max := 1200 } }).pwr.thm.hold = false ∧
    (pwrIn up fun p => { p with thm := { p.thm with max := 1200 } }).pwr.mode ≠ .standby ∧
    (pwrIn up fun p => { p with thm := { p.thm with max := 1200 } }).pwr.mode ≠ .off) := by unfold State.Wf; (repeat' apply And.intro) <;> decide +kernel

theorem test_premises_ThePinResetReachesPd0 :
  (up.Wf ∧ up.pwr.mode ≠ .off) ∧
  (State.reset.Wf ∧ (State.reset.pwr.mode = .standby ∧ State.reset.stageShed 5 = true)) := by unfold State.Wf; (repeat' apply And.intro) <;> decide +kernel

theorem test_premises_ClocksAndDramAreWatched :
  (up.pwr.mode ≠ .off ∧ up.pwr.clk.xtal32 = true ∧ up.pwr.mode ≠ .slumber ∧ up.running = true ∧ up.pwr.clk.cnvLock = true ∧
    up.pwr.clk.drmLock = true ∧ up.dom 5 = .on) ∧
  ((pwrIn up fun p => { p with clk := { p.clk with xtal32 := false } }).pwr.mode ≠ .off ∧
    (pwrIn up fun p => { p with clk := { p.clk with xtal32 := false } }).pwr.clk.xtal32 = false) ∧
  ((pwrIn up fun p => { p with dram := ⟨false, false, false, 0⟩ }).devLocked = true ∧
    (pwrIn up fun p => { p with dram := ⟨false, false, false, 0⟩ }).feat 8 = true ∧
    (pwrIn up fun p => { p with dram := ⟨false, false, false, 0⟩ }).running = true ∧
    (pwrIn up fun p => { p with dram := ⟨false, false, false, 0⟩ }).dom 5 = .on ∧
    (pwrIn up fun p => { p with dram := ⟨false, false, false, 0⟩ }).stageShed 3 = false ∧
    (pwrIn up fun p => { p with dram := ⟨false, false, false, 0⟩ }).pwr.dram.trained = false ∧
    (pwrIn up fun p => { p with dram := ⟨false, false, false, 0⟩ }).pwr.clk.drmLock = true ∧
    (pwrIn up fun p => { p with dram := ⟨false, false, false, 0⟩ }).chip.dramMib ≠ 0) := by (repeat' apply And.intro) <;> decide +kernel

theorem test_premises_TemperaturesAreWatched :
  (up.Wf ∧ up.pwr.mode ≠ .standby ∧ up.pwr.mode ≠ .off ∧
    hottest [1100, 1120, 1100, 1100, 1100, 1100, 1100, 1100] (excludedSensors [1100, 1120, 1100, 1100, 1100, 1100, 1100, 1100]) = some 1 ∧
    signed 16 (up.fld .thm F.THM_TEMP_PEAK) < (1120 : Int) ∧ up.pwr.thm.warn = false ∧
    hottest (List.replicate 8 (-2000)) (excludedSensors (List.replicate 8 (-2000))) = some 0 ∧
    (-2000 : Int) ≤ signed 16 ((up.setFld .thm F.THM_TEMP_PEAK 1200).fld .thm F.THM_TEMP_PEAK)) ∧
  ((pwrIn up fun p => { p with thm := { p.thm with warn := true, clearing := true } }).pwr.thm.warn = true ∧
    (pwrIn up fun p => { p with thm := { p.thm with warn := true, clearing := true } }).pwr.thm.clearing = true) ∧
  ((pwrIn up fun p => { p with thm := { p.thm with hold := true, max := 1039 } }).pwr.thm.hold = true ∧
    (pwrIn up fun p => { p with thm := { p.thm with hold := true, max := 1039 } }).pwr.thm.max < 1040) := by unfold State.Wf; (repeat' apply And.intro) <;> decide +kernel

theorem test_premises_BootsBeginEndAndApplyRecords :
  ((pwrIn up fun p => { p with mode := .reset }).bootReady = true ∧ (⟨[], [], [], false, false, []⟩ : BootIn).sigBad = false) ∧
  ((pwrIn up fun p => { p with mode := .booting }).pwr.mode = .booting) ∧
  (up.Takes (w 0x40000000) .rst 0x04C ∧ up.nvm.saving = none ∧ F.RST_BOOTCFG_SAVE.get (w 0x40000000).val = 1 ∧ up.devLocked = true ∧
    up.Takes (w 0x20000000) .rst 0x04C ∧ F.RST_BOOTCFG_SAVE.get (w 0x20000000).val = 0 ∧ F.RST_BOOTCFG_ERASE.get (w 0x20000000).val = 1) ∧
  ((nvmIn up fun n => { n with saving := some none }).nvm.saving = some none) ∧
  ((nvmIn open_ fun n => { n with boot := [rec0], autoRest := true }).nvm.boot = [rec0] ∧
    (nvmIn open_ fun n => { n with boot := [rec0], autoRest := true }).bootDone = true ∧
    (nvmIn open_ fun n => { n with boot := [rec0], autoRest := true }).running = true ∧
    (nvmIn open_ fun n => { n with boot := [rec0], autoRest := true }).nvm.autoRest = true ∧
    (nvmIn open_ fun n => { n with boot := [rec0], autoRest := true }).nvm.applying = [] ∧
    (nvmIn open_ fun n => { n with boot := [rec0], autoRest := true }).flag .rst F.RST_STAT_BOOT_RECORD_APPLIED = false ∧
    (nvmIn open_ fun n => { n with boot := [rec0], autoRest := true }).flag .rst F.RST_STAT_BOOT_RECORD_FAIL = false) := by (repeat' apply And.intro) <;> decide +kernel

theorem test_premises_UpdatesAreTransferredAndActivated :
  ((up.setReg .upd 0x044 1).Wf ∧ (up.setReg .upd 0x044 1).Takes (w 0x80000000) .upd 0x040 ∧
    (applyWrite .upd 0x040 (w 0x80000000).val ((up.setReg .upd 0x044 1).at_ .upd false)).updBusy = false ∧
    F.UPD_CMD_OP.get (w 0x80000000).val = 0 ∧
    (applyWrite .upd 0x040 (w 0x80000000).val ((up.setReg .upd 0x044 1).at_ .upd false)).argUpd = 1 ∧
    (applyWrite .upd 0x040 (w 0x80000000).val ((up.setReg .upd 0x044 1).at_ .upd false)).runsSlot 1 = false ∧
    (applyWrite .upd 0x040 (w 0x80000000).val ((up.setReg .upd 0x044 1).at_ .upd false)).isPrevious 1 = false ∧
    (up.setReg .upd 0x044 1).Takes (w 0x80000001) .upd 0x040 ∧ F.UPD_CMD_OP.get (w 0x80000001).val = 1 ∧
    (up.setReg .upd 0x044 1).Takes (w 0x80000005) .upd 0x040 ∧ F.UPD_CMD_OP.get (w 0x80000005).val = 5 ∧
    (up.setReg .upd 0x044 1).Takes (w 0x80000003) .upd 0x040 ∧
    (applyWrite .upd 0x040 (w 0x80000003).val ((up.setReg .upd 0x044 1).at_ .upd false)).inTrial = false ∧
    F.UPD_CMD_OP.get (w 0x80000003).val = 3) ∧
  ((up.setReg .upd 0x044 0).Takes (w 0x80000000) .upd 0x040 ∧
    (applyWrite .upd 0x040 (w 0x80000000).val ((up.setReg .upd 0x044 0).at_ .upd false)).runsSlot (applyWrite .upd 0x040 (w 0x80000000).val ((up.setReg .upd 0x044 0).at_ .upd false)).argUpd = true) ∧
  ((up.setReg .upd 0x044 4).Takes (w 0x80000006) .upd 0x040 ∧ F.UPD_CMD_OP.get (w 0x80000006).val = 6 ∧
    (applyWrite .upd 0x040 (w 0x80000006).val ((up.setReg .upd 0x044 4).at_ .upd false)).fld .upd F.UPD_ARG_KEY = 1 ∧
    (applyWrite .upd 0x040 (w 0x80000006).val ((up.setReg .upd 0x044 4).at_ .upd false)).imgKey (applyWrite .upd 0x040 (w 0x80000006).val ((up.setReg .upd 0x044 4).at_ .upd false)).nvm.running ≠ 1 ∧
    (applyWrite .upd 0x040 (w 0x80000006).val ((up.setReg .upd 0x044 4).at_ .upd false)).inTrial = false ∧
    ((List.range 4).any fun i => decide (i ≠ 1) && bitOf (up.setReg .upd 0x044 4).chip.fused i && !bitOf (up.setReg .upd 0x044 4).chip.revoked i) = true) ∧
  ((nvmIn (up.setReg .upd 0x044 1) fun n => { n with slots2 := [⟨false, false⟩, ⟨true, true⟩] }).Takes (w 0x80000002) .upd 0x040 ∧
    F.UPD_CMD_OP.get (w 0x80000002).val = 2 ∧
    (applyWrite .upd 0x040 (w 0x80000002).val ((nvmIn (up.setReg .upd 0x044 1) fun n => { n with slots2 := [⟨false, false⟩, ⟨true, true⟩] }).at_ .upd false)).updBusy = false ∧
    (applyWrite .upd 0x040 (w 0x80000002).val ((nvmIn (up.setReg .upd 0x044 1) fun n => { n with slots2 := [⟨false, false⟩, ⟨true, true⟩] }).at_ .upd false)).runsSlot 1 = false ∧
    (applyWrite .upd 0x040 (w 0x80000002).val ((nvmIn (up.setReg .upd 0x044 1) fun n => { n with slots2 := [⟨false, false⟩, ⟨true, true⟩] }).at_ .upd false)).verified 1 = true ∧
    (applyWrite .upd 0x040 (w 0x80000002).val ((nvmIn (up.setReg .upd 0x044 1) fun n => { n with slots2 := [⟨false, false⟩, ⟨true, true⟩] }).at_ .upd false)).inTrial = false ∧
    (applyWrite .upd 0x040 (w 0x80000002).val ((nvmIn (up.setReg .upd 0x044 1) fun n => { n with slots2 := [⟨false, false⟩, ⟨true, true⟩] }).at_ .upd false)).shedTop < 2 ∧
    (applyWrite .upd 0x040 (w 0x80000002).val ((nvmIn (up.setReg .upd 0x044 1) fun n => { n with slots2 := [⟨false, false⟩, ⟨true, true⟩] }).at_ .upd false)).flag .twn F.TWN_CMD_BUSY = false ∧
    (nvmIn (up.setReg .upd 0x044 1) fun n => { n with slots2 := [⟨false, false⟩, ⟨true, true⟩] }).nvm.recovery = false ∧
    (applyWrite .upd 0x040 (w 0x80000002).val ((nvmIn (up.setReg .upd 0x044 1) fun n => { n with slots2 := [⟨false, false⟩, ⟨true, true⟩] }).at_ .upd false)).imgHoMin 1 ≤ (applyWrite .upd 0x040 (w 0x80000002).val ((nvmIn (up.setReg .upd 0x044 1) fun n => { n with slots2 := [⟨false, false⟩, ⟨true, true⟩] }).at_ .upd false)).imgHoVer 0 ∧
    (applyWrite .upd 0x040 (w 0x80000002).val ((nvmIn (up.setReg .upd 0x044 1) fun n => { n with slots2 := [⟨false, false⟩, ⟨true, true⟩] }).at_ .upd false)).imgHoVer 0 ≤ (applyWrite .upd 0x040 (w 0x80000002).val ((nvmIn (up.setReg .upd 0x044 1) fun n => { n with slots2 := [⟨false, false⟩, ⟨true, true⟩] }).at_ .upd false)).imgHoVer 1 ∧
    ((applyWrite .upd 0x040 (w 0x80000002).val ((nvmIn (up.setReg .upd 0x044 1) fun n => { n with slots2 := [⟨false, false⟩, ⟨true, true⟩] }).at_ .upd false)).currentRecs.any fun x => decide ((applyWrite .upd 0x040 (w 0x80000002).val ((nvmIn (up.setReg .upd 0x044 1) fun n => { n with slots2 := [⟨false, false⟩, ⟨true, true⟩] }).at_ .upd false)).imgSetVer 1 < x.2.1)) = false) ∧
  (trial.Wf ∧ trial.Takes (w 0x80000004) .upd 0x040 ∧ F.UPD_CMD_OP.get (w 0x80000004).val = 4 ∧
    (applyWrite .upd 0x040 (w 0x80000004).val (trial.at_ .upd false)).inTrial = true ∧
    (applyWrite .upd 0x040 (w 0x80000004).val (trial.at_ .upd false)).updBusy = false ∧ trial.Takes (w 0x80000003) .upd 0x040 ∧
    trial.nvm.upd.migr = false) := by unfold State.Wf; (repeat' apply And.intro) <;> decide +kernel

theorem test_premises_ImagesAndTheArray :
  ((updIn fun u => { u with load := some 1 }).Takes (w 7) .upd 0x04C ∧
    (updIn fun u => { u with load := some 1 }).nvm.upd.load.isSome = true ∧
    (updIn fun u => { u with load := some 1 }).fld .upd F.UPD_OFFSET_OFFSET < 0x600000 ∧
    ((updIn fun u => { u with load := some 1 }).at_ .upd false).updRoom ≠ 0) ∧
  ((up.setReg .upd 0x048 32).Takes (w 7) .upd 0x04C ∧ (up.setReg .upd 0x048 32).nvm.upd.load = none ∧
    (up.setReg .upd 0x048 32).Takes (w 32) .upd 0x048 ∧ F.UPD_OFFSET_OFFSET.get (w 32).val % 32 = 0 ∧
    F.UPD_OFFSET_OFFSET.get (w 32).val ≤ (up.setReg .upd 0x048 32).fld .upd F.UPD_OFFSET_OFFSET ∧
    (up.setReg .upd 0x048 32).Takes (w 33) .upd 0x048 ∧ F.UPD_OFFSET_OFFSET.get (w 33).val % 32 ≠ 0 ∧
    (up.setReg .upd 0x048 32).Takes (w 64) .upd 0x048 ∧
    (up.setReg .upd 0x048 32).fld .upd F.UPD_OFFSET_OFFSET < F.UPD_OFFSET_OFFSET.get (w 64).val) ∧
  ((updIn fun u => { u with load := some 1, staged := (List.range 8).map fun i => (4 * i, 5) }).nvm.upd.load = some 1 ∧
    8 ≤ (updIn fun u => { u with load := some 1, staged := (List.range 8).map fun i => (4 * i, 5) }).nvm.upd.staged.length) ∧
  ((updIn fun u => { u with verify := some 1 }).nvm.upd.verify = some 1 ∧
    (updIn fun u => { u with verify := some 1 }).nvm.upd.staged.length < 8) ∧
  ((updIn fun u => { u with pause := some ⟨0, 1, false, true, true, false⟩ }).nvm.upd.pause = some ⟨0, 1, false, true, true, false⟩) ∧
  ((nvmIn trial fun n => { n with upd := { n.upd with migr := true } }).Wf ∧
    (nvmIn trial fun n => { n with upd := { n.upd with migr := true } }).inTrial = true ∧
    (nvmIn trial fun n => { n with upd := { n.upd with migr := true } }).nvm.upd.migr = true) ∧
  (up.Wf ∧ up.Takes (w 0xC00000) .nvm 0x044 ∧ up.nvm.bad = [] ∧ up.running = true ∧ up.fld .nvm F.NVM_SCRUB_NEXT_ROW < 524287 ∧
    up.nvm.compact = false ∧ 63 < 64 ∧ (nvmIn up fun n => { n with compact := true }).nvm.compact = true) := by unfold State.Wf; (repeat' apply And.intro) <;> decide +kernel

theorem test_premises_ThePairElectsJoinsAndMirrors :
  ((twin twAlone fun x => { x with listen := true }).twn.listen = true ∧
    (twin twAlone fun x => { x with listen := true }).twn.hbOk = false) ∧
  ((twin twAlone fun x => { x with listen := true, hbOk := true, beat := some (beat0 0 false false) }).twn.listen = true ∧
    (twin twAlone fun x => { x with listen := true, hbOk := true, beat := some (beat0 0 false false) }).twn.hbOk = true ∧
    (twin twAlone fun x => { x with listen := true, hbOk := true, beat := some (beat0 0 false false) }).twn.beat = some (beat0 0 false false)) ∧
  ((twin twAlone fun x => { x with elected := true }).twnOn = true ∧ (twin twAlone fun x => { x with elected := true }).running = true ∧
    (twin twAlone fun x => { x with elected := true }).isolated .twn = false ∧ (3 : Fin 4).val ≠ 0 ∧
    (twin twAlone fun x => { x with elected := true }).twn.listen = false ∧
    (twin twAlone fun x => { x with elected := true }).twState = twAlone ∧ (beat0 twStandby false false).state = twStandby ∧
    (twin twAlone fun x => { x with elected := true }).twn.elected = true) ∧
  ((twin twPrimary fun x => { x with hbOk := true, peerOk := true, lanes := 3 }).twnOn = true ∧
    (twin twPrimary fun x => { x with hbOk := true, peerOk := true, lanes := 3 }).isolated .twn = false ∧
    (twin twPrimary fun x => { x with hbOk := true, peerOk := true, lanes := 3 }).running = true ∧
    (twin twPrimary fun x => { x with hbOk := true, peerOk := true, lanes := 3 }).twn.listen = false ∧
    (twin twPrimary fun x => { x with hbOk := true, peerOk := true, lanes := 3 }).twState = twPrimary ∧
    (beat0 twJoining false false).state = twJoining ∧
    (twin twPrimary fun x => { x with hbOk := true, peerOk := true, lanes := 3 }).twn.hbOk = true ∧
    (twin twPrimary fun x => { x with hbOk := true, peerOk := true, lanes := 3 }).twn.beat = none ∧
    (twin twPrimary fun x => { x with hbOk := true, peerOk := true, lanes := 3 }).twn.peerOk = true ∧
    bitOf (twin twPrimary fun x => { x with hbOk := true, peerOk := true, lanes := 3 }).twn.lanes (1 : Fin 2).val = true ∧
    (twin twPrimary fun x => { x with hbOk := true, peerOk := true, lanes := 3 }).Takes (w 0x80000000) .twn 0x048 ∧
    F.TWN_CMD_OP.get (w 0x80000000).val = 0 ∧
    (twin twPrimary fun x => { x with hbOk := true, peerOk := true, lanes := 3 }).Takes (w 0x80000001) .twn 0x048 ∧
    F.TWN_CMD_OP.get (w 0x80000001).val = 1) ∧
  ((twin twSevered id).twnOn = true ∧ (twin twSevered id).isolated .twn = false ∧ (twin twSevered id).running = true ∧
    (twin twSevered id).twn.listen = false ∧ (twin twSevered id).twState = twSevered) ∧
  ((twin twJoining fun x => { x with hbOk := true, beat := some (beat0 twPrimary true false) }).twState = twJoining ∧
    (twin twJoining fun x => { x with hbOk := true, beat := some (beat0 twPrimary true false) }).twn.hbOk = true ∧
    (twin twJoining fun x => { x with hbOk := true, beat := some (beat0 twPrimary true false) }).twn.beat = some (beat0 twPrimary true false) ∧
    (beat0 twPrimary true false).serving = true ∧
    ((twin twJoining fun x => { x with hbOk := true, beat := some (beat0 twPrimary true false) }).protoWith (beat0 twPrimary true false).proto).isSome = true ∧
    (twin twJoining fun x => { x with hbOk := true, beat := some (beat0 twPrimary true false) }).twn.listen = false) ∧
  ((twin twStandby fun x => { x with hbOk := true }).twnOn = true ∧
    (twin twStandby fun x => { x with hbOk := true }).isolated .twn = false ∧
    (twin twStandby fun x => { x with hbOk := true }).running = true ∧
    (twin twStandby fun x => { x with hbOk := true }).twState = twStandby ∧
    (twin twStandby fun x => { x with hbOk := true }).twn.take = none ∧
    (twin twStandby fun x => { x with hbOk := true }).twn.hbOk = true ∧
    (twin twStandby fun x => { x with hbOk := true }).twn.listen = false ∧
    (twin twStandby fun x => { x with hbOk := true }).twn.beat = none ∧
    1 = (twin twStandby fun x => { x with hbOk := true }).twn.rxSeq + 1) := by (repeat' apply And.intro) <;> decide +kernel

theorem test_premises_StoresAreTestedAndScrubbed :
  (up.dom 10 = .on ∧ up.running = true ∧ up.pwr.dram.trained = true ∧ up.Takes (w 1) .hlt 0x044) := by (repeat' apply And.intro) <;> decide +kernel

theorem test_premises_parity_holds : ∃ info parity, ldpcOk 0 48 info parity = true :=
  ⟨[], ldpcParity 0 48 [], by simp [ldpcOk]⟩

/-! Commands that are not well formed. -/

theorem test_wf_offset : Instr.wf (.writeRegister (w 0) (.reg .hif 0x042) env0) = false := by decide
theorem test_wf_manager_address : Instr.wf (.pairedLowRead rd (.mgr 0x2000000) false) = false := by decide
theorem test_wf_tenant_address : Instr.wf (.pairedHighRead rd (.ten 0 0x200000) false) = false := by decide
theorem test_wf_fraction : Instr.wf (.sy1Detect 0 (2 ^ 20) 0) = false := by decide
theorem test_wf_node : Instr.wf (.linkDown 0 (2 ^ 24)) = false := by decide
theorem test_wf_bytes : Instr.wf (.dirMergeRx [256]) = false := by decide
theorem test_wf_frame_bytes : Instr.wf (.macFrameRx { mac0 with bytes := [256] } 0) = false := by decide
theorem test_wf_fetched : Instr.wf (.descFetchDone (.ok [256] false)) = false := by decide
theorem test_wf_beacon : Instr.wf (.beaconRx 0 ⟨true, true, 512, [], 9, 0, 0⟩) = false := by decide
theorem test_wf_serial_address : Instr.wf (.shpWrite (2 ^ 24) [] false) = false := by decide
theorem test_wf_wait_bytes : Instr.wf (.shpRead 0 [⟨256, env0⟩] 0) = false := by decide
theorem test_wf_character : Instr.wf (.uartRxChar 0 512 false true) = false := by decide
theorem test_wf_lines : Instr.wf (.cmdInSample 256 0) = false := by decide
theorem test_wf_vin : Instr.wf (.vinRisingThreshold 0 65536) = false := by decide
theorem test_wf_sensors : Instr.wf (.thermalSample [] 0) = false := by decide

/-! The worked examples of the spec. -/

/-- What a command leaves, looked at by a function. -/
def after (i : Instr) (s : State) (f : State → Bool) : Bool :=
  match exec i s with
  | .next t => f t
  | _ => false

/-- R66: a tenant's read of a reserved address is a violation of kind 0 and is counted; after the grant its user counter page shows its header. -/
theorem test_R66 :
    after (.pairedLowRead rd (.ten 1 0x7FF0) false) (tenUp.setFlag (.tpage 1) F.TNT_FEAT_LOCK_LOCK true) (fun t => decide (t.fld .dev F.DEV_VIOL_COUNT_COUNT = 1 ∧
      t.fld .dev F.DEV_VIOL_INFO_KIND = 0 ∧ t.fld .dev F.DEV_VIOL_INFO_FUNC = 2)) = true ∧
    ([0x00, 0x04, 0x08].map fun o => (((tenUp.setFlag (.tpage 1) F.TNT_FEAT_LOCK_LOCK true).setFlag (.tnt 1)
      F.TNT_CNT_USER_EN_EN true).endIdle.shown (.ucp 1) false o)) = [0x00010094, 0xB0000100, 0x00010000] := by decide +kernel

/-- R418: the manager reads DEV_VIOL_COUNT and DEV_VIOL_ADDR in one QREAD: a ready byte and four bytes for each word. -/
theorem test_R418 : after (.shpQread 0x68 [⟨0, env0⟩, ⟨0, env0⟩] 10)
    ((up.setReg .dev 0x068 4).setReg .dev 0x06C 0x7FF0)
    (fun t => decide (t.out = [.serial [0xA5, 4, 0, 0, 0, 0xA5, 0xF0, 0x7F, 0, 0]])) = true := by decide +kernel

/-- R287: T1 has QDEPTH 256 and 200 descriptors in flight; QDEPTH falls to 128, and a doorbell of 10 more is a violation and changes no tail;
at 127 in flight one more is accepted. -/
theorem test_R287 :
    let s := ((rings.setRing 7 0 F.TNT_SQ_CFG_SIZE_LOG2 8).setRing 7 0 F.TNT_SQ_STAT_WR_TAIL 0xC8).setRing 7 0 F.TNT_SQ_STAT_HEAD 0xC8
    let u := (s.setFld (.tnt 7) F.TNT_QUOTA0_QDEPTH 128)
    after (.dbSqWrite (w 0xD2) 7 0) (ten u fun x => { x with inflight := 200 }) (fun t => decide (
      t.ring 7 0 F.TNT_SQ_STAT_WR_TAIL = 0xC8 ∧ t.fld .dev F.DEV_VIOL_COUNT_COUNT = 1)) = true ∧
    after (.dbSqWrite (w 0xC9) 7 0) (ten u fun x => { x with inflight := 127 }) (fun t => decide (
      t.ring 7 0 F.TNT_SQ_STAT_WR_TAIL = 0xC9 ∧ (t.tenant 7).inflight = 128)) = true := by decide +kernel

/-- R148: at 30.2 dB under rate 8/9 with MARGIN 12 a carrier gets 8 bits and fine gain 2, at 30.6 dB 9 bits and 1. -/
theorem test_R148 : loadCell 4 12 604 = (8, 2) ∧ loadCell 4 12 612 = (9, 1) := by decide +kernel

/-- Table 15-5: at 6.9 V the timer of stage 5 starts, at 8.2 V that of stage 2 does not. -/
theorem test_Table_15_5 :
    let s := pwrIn State.reset fun p => { p with supply := false }
    after (.vinRisingThreshold 4 690) s (fun t => (t.stage 5).timing) = true ∧
    after (.vinRisingThreshold 1 820) s (fun t => !(t.stage 2).timing && (t.stage 2).shed) = true := by decide +kernel

/-- R137: template slot 5 begins at SBUF word 3,641,344. -/
theorem test_R137 : templateBase 5 = 3641344 := by decide

/-- R356, FIPS 197, appendix C.1: the block cipher on its published example. -/
theorem test_aes : aes (List.range 16) ((List.range 16).map (17 * ·)) =
    [0x69, 0xC4, 0xE0, 0xD8, 0x6A, 0x7B, 0x04, 0x30, 0xD8, 0xCD, 0xB7, 0x80, 0x70, 0xB4, 0xC5, 0x5A] := by decide +kernel

/-- The commands that words spell: the table gives its rows no bits. -/
theorem test_decode_none : decodeTableWord 32 0 = none ∧ State.reset.withFetchWord 32 0 = State.reset := ⟨rfl, rfl⟩

/-- R345, FIPS 180-4: the published digest of the three bytes "abc". -/
theorem test_sha384 : sha384 [97, 98, 99] =
    0xCB00753F45A35E8BB5A03D699AC65007272C32AB0EDED1631A8B605A43FF5BED8086072BA1E7CC2358BAECA134C825A7 := by decide +kernel

end Sys2Proof.Tests
end

section
/-! PROOF. Queue memory, a tenant's features and a tenant's reset (R284, R285, R311): what each of their commands leaves, and that
the access by which it comes does not change what an allocation is judged by. -/

namespace Sys2Proof.Machine

/-- The manager's page of a tenant is the same page over the serial host port (R47). -/
theorem reach_tnt (s : State) (t : Fin 8) (serial : Bool) : s.reach (.tnt t) serial = .tnt t := by
  cases serial <;> rfl

/-! Allocation (R285). -/

/-- An enabled ring of the tenant lies in queue memory. -/
def State.allocUsed (s : State) (t : Fin 8) : Bool :=
  (List.range 9).any fun k => (s.sqEn t k && s.sqQmem t k) || (s.cqEn t k && s.cqQmem t k)

/-- The allocation that `w` asks for shares a block with another tenant's. -/
def State.allocClash (s : State) (t : Fin 8) (w : Word) : Bool :=
  (List.finRange 8).any fun u =>
    decide (u ≠ t) && decide (s.fld (.tnt u) F.TNT_QMEM_SIZE ≠ 0 ∧ F.TNT_QMEM_SIZE.get w ≠ 0) &&
    decide (F.TNT_QMEM_BASE.get w < s.fld (.tnt u) F.TNT_QMEM_BASE + s.fld (.tnt u) F.TNT_QMEM_SIZE ∧
      s.fld (.tnt u) F.TNT_QMEM_BASE < F.TNT_QMEM_BASE.get w + F.TNT_QMEM_SIZE.get w)

@[simp] theorem touch_ring (s : State) (fn : Fn) (t : Fin 8) (k : Nat) (f : Fld) : (s.touch fn).ring t k f = s.ring t k f :=
  touch_fld s fn _ _

@[simp] theorem touch_allocUsed (s : State) (fn : Fn) (t : Fin 8) : (s.touch fn).allocUsed t = s.allocUsed t := by
  simp only [State.allocUsed, State.sqEn, State.sqQmem, State.cqEn, State.cqQmem, touch_ring]

@[simp] theorem touch_allocClash (s : State) (fn : Fn) (t : Fin 8) (w : Word) :
    (s.touch fn).allocClash t w = s.allocClash t w := by
  simp only [State.allocClash, touch_fld]

section
variable {s : State} {t : Fin 8} {p : Page} {w : Word}

theorem qmemCfgWrite_used (hu : s.allocUsed t = true) : qmemCfgWrite t p w s = s := if_pos hu

theorem qmemCfgWrite_refused (hu : s.allocUsed t = false)
    (h : 256 < F.TNT_QMEM_BASE.get w + F.TNT_QMEM_SIZE.get w ∨ s.allocClash t w = true) :
    qmemCfgWrite t p w s = (s.setFlag (.tnt t) F.TNT_MSTAT_QMEM_REFUSED true).event (.tnt t) 5 := by
  have hr : (decide (256 < F.TNT_QMEM_BASE.get w + F.TNT_QMEM_SIZE.get w) || s.allocClash t w) = true := by simpa using h
  exact (if_neg (Bool.eq_false_iff.mp hu)).trans (if_pos hr)

theorem qmemCfgWrite_stored (hu : s.allocUsed t = false) (hfit : F.TNT_QMEM_BASE.get w + F.TNT_QMEM_SIZE.get w ≤ 256)
    (hc : s.allocClash t w = false) : qmemCfgWrite t p w s = applyWrite p 0x050 w s := by
  have hr : (decide (256 < F.TNT_QMEM_BASE.get w + F.TNT_QMEM_SIZE.get w) || s.allocClash t w) = false := by simpa [hc] using hfit
  exact (if_neg (Bool.eq_false_iff.mp hu)).trans (if_neg (Bool.eq_false_iff.mp hr))

end

/-! The commands, where their access acts. -/

section
variable {s : State} {q : Req} {t : Fin 8}

theorem exec_qmemWrite (h : s.Takes q (.tnt t) 0x050) :
    exec (.qmemWrite q t) s = .next (qmemCfgWrite t (.tnt t) q.val (s.at_ (.tnt t) q.serial)) := by
  refine congrArg Host.Outcome.next ((writeWord_takes h _).trans ?_)
  rw [reach_tnt]

theorem exec_qmemWrite_stored (h : s.Takes q (.tnt t) 0x050) (hu : s.allocUsed t = false)
    (hfit : F.TNT_QMEM_BASE.get q.val + F.TNT_QMEM_SIZE.get q.val ≤ 256) (hc : s.allocClash t q.val = false) :
    exec (.qmemWrite q t) s = .next (applyWrite (.tnt t) 0x050 q.val (s.at_ (.tnt t) q.serial)) := by
  rw [exec_qmemWrite h, qmemCfgWrite_stored _ hfit]
  · rwa [touch_allocClash]
  · rwa [touch_allocUsed]

theorem exec_qmemWrite_refused (h : s.Takes q (.tnt t) 0x050) (hu : s.allocUsed t = false)
    (hr : 256 < F.TNT_QMEM_BASE.get q.val + F.TNT_QMEM_SIZE.get q.val ∨ s.allocClash t q.val = true) :
    exec (.qmemWrite q t) s =
      .next (((s.at_ (.tnt t) q.serial).setFlag (.tnt t) F.TNT_MSTAT_QMEM_REFUSED true).event (.tnt t) 5) := by
  rw [exec_qmemWrite h, qmemCfgWrite_refused]
  · rwa [touch_allocUsed]
  · rwa [touch_allocClash]

theorem exec_qmemWrite_used (h : s.Takes q (.tnt t) 0x050) (hu : s.allocUsed t = true) :
    exec (.qmemWrite q t) s = .next (s.at_ (.tnt t) q.serial) := by
  rw [exec_qmemWrite h, qmemCfgWrite_used]
  rwa [touch_allocUsed]

/-- R311: bit 1 of `TNT_MCTL` starts the reset of the page's tenant, after the word has been stored. -/
theorem exec_tntMctlReset (h : s.Takes q (.tnt t) 0x040) (hbit : q.val.getLsbD 1 = true) :
    exec (.tntMctlReset q t) s = .next ((applyWrite (.tnt t) 0x040 q.val (s.at_ (.tnt t) q.serial)).startTenantReset t) := by
  refine congrArg Host.Outcome.next ((writeWord_takes h _).trans ?_)
  rw [reach_tnt]
  exact if_pos hbit

theorem exec_tenantFeatLock {v : Fin 8} (hv : s.reach (.tpage t) q.serial = .tpage v) (h : s.Takes q (.tpage t) 0x048) :
    exec (.tenantFeatLock q t) s = .next (applyWrite (.tpage v) 0x048 q.val (s.at_ (.tpage t) q.serial)) := by
  refine congrArg Host.Outcome.next ((writeWord_takes h _).trans ?_)
  rw [hv]

/-- R311: bit 0 of `TNT_RESET` starts the reset of the tenant whose page the access reaches. -/
theorem exec_tntReset {v : Fin 8} (hv : s.reach (.tpage t) q.serial = .tpage v) (h : s.Takes q (.tpage t) 0x04C)
    (hbit : q.val.getLsbD 0 = true) :
    exec (.tntReset q t) s = .next ((s.at_ (.tpage t) q.serial).startTenantReset v) := by
  refine congrArg Host.Outcome.next ((writeWord_takes h _).trans ?_)
  rw [hv]
  exact if_pos hbit

theorem exec_tenantResetDone (h : s.resetting t = true) :
    exec (.tenantResetDone t) s =
      .next ((((s.setFlag (.tnt t) F.TNT_MSTAT_RESETTING false).event (.tnt t) 1).event (.tpage t) 1).quotas.issueFetch) :=
  congrArg Host.Outcome.next (if_pos h)

end

/-- Settles O42, clause by clause: a write of `TNT_QMEM` has the three outcomes of R285, decided by tests that read the same before and
after the touch of the access, and each of the other commands leaves one state where its access acts. -/
theorem tenantsAreConfiguredAndReset : Obligations.TenantsAreConfiguredAndReset := fun _ _ _ =>
  ⟨exec_qmemWrite_stored, exec_qmemWrite_refused, exec_qmemWrite_used, exec_tntMctlReset,
    fun _ hv => ⟨exec_tenantFeatLock hv, exec_tntReset hv⟩, exec_tenantResetDone⟩

end Sys2Proof.Machine
end

section
/-! PROOF. The step, the state after reset, and what every step keeps (R50, R54, R65, R69). -/

namespace Sys2Proof.Machine

/-- Settles O1: `step` is the match on the queue that the statement writes out. -/
theorem stepRunsTheFrontCommand : Obligations.StepRunsTheFrontCommand := by
  refine ⟨fun _ _ _ => rfl, fun s h => ?_⟩
  unfold step
  rw [h]

/-- The queue is no part of what well-formedness speaks of. -/
theorem wf_setPending {s : State} (l : List Instr) (h : s.Wf) : ({ s with pending := l } : State).Wf := h

/-- Settles O3: a step idles, or carries out a command on the state with the rest of the queue, and every command keeps
well-formedness (`exec_keeps`). -/
theorem stepKeepsTheStateWellFormed : Obligations.StepKeepsTheStateWellFormed := by
  intro s t hs ht
  unfold step at ht
  split at ht
  case h_1 => exact Host.Outcome.next.inj ht ▸ hs
  case h_2 c rest _ => exact (exec_keeps c _ (Keeps.refl _) t ht).wf (wf_setPending rest hs)

/-- Settles O4, by evaluating the reset state. -/
theorem resetStateIsWellFormed : Obligations.ResetStateIsWellFormed := ⟨⟨rfl, rfl, rfl, rfl⟩, rfl⟩

/-- Settles O5: the register file of the reset state lists no word, so each register reads as its reset value. -/
theorem resetLeavesEveryRegisterAtItsResetValue : Obligations.ResetLeavesEveryRegisterAtItsResetValue :=
  ⟨fun _ _ => rfl, rfl, by decide, by decide, rfl, rfl⟩

end Sys2Proof.Machine
end

section
/-! PROOF. The page header (R40 to R42): what a write of an event register, of `PG_FAULT` and of `PG_CNT_CTRL` leaves. -/

namespace Sys2Proof.Machine

/-! An access that acts, and one register that it stores. -/

/-- `t` is `s` with the word `w` in one register, beside what any access and any interrupt message change. -/
def State.Stores (s t : State) (p : Page) (off : Nat) (w : Word) : Prop :=
  t.reg p off = w ∧ (∀ r o, regKey r o ≠ regKey p off → t.reg r o = s.reg r o) ∧ s.Beside t

section
variable {s t u : State} {p : Page} {off : Nat} {w : Word}

theorem touch_rising (h : risingFrom 0 s.regs = true) (fn : Fn) : risingFrom 0 (s.touch fn).regs = true := by
  rwa [State.touch_regs]

theorem reg_of_regs (h : t.regs = s.regs) (r : Page) (o : Nat) : t.reg r o = s.reg r o := by
  unfold State.reg
  rw [h]

/-- A state that has the registers of `u.setReg p off w`, where `u` reads as `s` does. -/
theorem stores_of_regs (h : risingFrom 0 u.regs = true) (hu : u.regs = s.regs) (hb : s.Beside t)
    (ht : t.regs = (u.setReg p off w).regs) : s.Stores t p off w := by
  refine ⟨?_, fun r o hk => ?_, hb⟩
  · rw [reg_of_regs ht, setReg_reg_same h]
  · rw [reg_of_regs ht, setReg_reg_key h w hk, reg_of_regs hu]

/-- A write that acts, by an effect that stores one word and beside it sends at most messages. -/
theorem writeWord_stores {q : Req} {p0 r : Page} {o : Nat} {act : Page → Word → State → State} (hs : s.Wf) (h : s.Takes q p0 off)
    (hr : (act (s.reach p0 q.serial) q.val (s.at_ p0 q.serial)).regs = ((s.at_ p0 q.serial).setReg r o w).regs)
    (hb : (s.at_ p0 q.serial).Beside (act (s.reach p0 q.serial) q.val (s.at_ p0 q.serial))) :
    s.Stores (writeWord q p0 off act s) r o w := by
  obtain ⟨_, hrise, _⟩ := hs
  rw [writeWord_takes h]
  exact stores_of_regs (touch_rising hrise _) (State.touch_regs ..) (beside_trans (touch_beside s _) hb) hr

end

/-! The event registers (R40, R69). -/

section
variable (p : Page) (w : Word) (s : State)

theorem eventWrite_regs : (eventWrite p w s).regs = (s.setReg p offEvent (s.reg p offEvent &&& ~~~ w)).regs :=
  State.withEvents_regs ..

theorem eventEnWrite_regs : (eventEnWrite p w s).regs = (s.setReg p offEventEn (w &&& eventMask p)).regs :=
  State.withEvents_regs ..

theorem eventSetWrite_regs : (eventSetWrite p w s).regs =
    (s.setReg p offEvent (s.reg p offEvent ||| (w &&& eventMask p))).regs :=
  State.withEvents_regs ..

theorem eventWrite_beside : s.Beside (eventWrite p w s) := withEvents_beside (setReg_beside s _ _ _) p true

theorem eventEnWrite_beside : s.Beside (eventEnWrite p w s) := withEvents_beside (setReg_beside s _ _ _) p true

theorem eventSetWrite_beside : s.Beside (eventSetWrite p w s) := withEvents_beside (setReg_beside s _ _ _) p true

end

/-- Settles O6: each of the three effects stores one word of the page, and beside it can only send the page's message. -/
theorem eventRegistersActOnTheirBits : Obligations.EventRegistersActOnTheirBits := by
  intro q p0 s hs
  refine ⟨fun h => ⟨_, rfl, writeWord_stores hs h ?_ (eventWrite_beside ..)⟩,
    fun h => ⟨_, rfl, writeWord_stores hs h (eventEnWrite_regs ..) (eventEnWrite_beside ..)⟩,
    fun h => ⟨_, rfl, writeWord_stores hs h ?_ (eventSetWrite_beside ..)⟩⟩
  · rw [eventWrite_regs, touch_reg]
  · rw [eventSetWrite_regs, touch_reg]

/-! Faults (R41). -/

section
variable {s : State} (h : risingFrom 0 s.regs = true)
include h

theorem clearFaults_reg_fault (p : Page) (m : Word) : (s.clearFaults p m).reg p offFault = s.reg p offFault &&& ~~~ m := by
  unfold State.clearFaults
  dsimp only
  split
  · rw [setReg_reg_off (setReg_rising h _ _ _) p _ (by decide), setReg_reg_same h]
  · exact setReg_reg_same h _ _ _

theorem clearFaults_reg_info (p : Page) (m : Word) : (s.clearFaults p m).reg p offFaultInfo =
    if s.reg p offFault &&& ~~~ m = 0 then 0 else s.reg p offFaultInfo := by
  unfold State.clearFaults
  dsimp only
  split
  · exact setReg_reg_same (setReg_rising h _ _ _) _ _ _
  · exact setReg_reg_off h p _ (by decide)

theorem clearFaults_reg_key {p r : Page} {o : Nat} (m : Word) (h1 : regKey r o ≠ regKey p offFault)
    (h2 : regKey r o ≠ regKey p offFaultInfo) : (s.clearFaults p m).reg r o = s.reg r o := by
  unfold State.clearFaults
  dsimp only
  split
  · rw [setReg_reg_key (setReg_rising h _ _ _) _ h2, setReg_reg_key h _ h1]
  · exact setReg_reg_key h _ h1

omit h in
theorem clearFaults_beside (s : State) (p : Page) (m : Word) : s.Beside (s.clearFaults p m) := by
  unfold State.clearFaults
  dsimp only
  split
  · exact beside_trans (setReg_beside s _ _ _) (setReg_beside _ _ _ _)
  · exact setReg_beside s _ _ _

omit h in
/-- A fault that its page defines and that is not yet set notes itself, sets its bit and sets FAULT. -/
theorem fault_new {p : Page} {i : Nat} (d : Nat) (hm : (faultMask p).getLsbD i = true) (hn : (s.reg p offFault).getLsbD i = false) :
    s.fault p i d = ((s.faultNote p i d).setRegBit p offFault i true).event p 0 := by
  rw [fault_set, if_pos ⟨hm, hn⟩]

omit h in
theorem fault_sticky {p : Page} {i : Nat} (d : Nat) (hn : (s.reg p offFault).getLsbD i = true) : s.fault p i d = s := by
  rw [fault_set, if_neg (by simp [hn])]

theorem faultNote_reg_info (p : Page) (i d : Nat) : (s.faultNote p i d).reg p offFaultInfo =
    if s.reg p offFault = 0 then faultInfo i d else s.reg p offFaultInfo := by
  unfold State.faultNote
  split
  · exact setReg_reg_same h _ _ _
  · rfl

theorem fault_bit_other {p : Page} {i j : Nat} (d : Nat) (hi : i < 32) (hj : j < 32) (hne : j ≠ i) :
    ((s.fault p i d).reg p offFault).getLsbD j = (s.reg p offFault).getLsbD j := by
  have hr := faultNote_rising h p i d
  rw [fault_set]
  split
  · rw [event_reg_off (setRegBit_rising hr _ _ _ _) _ _ (by decide), setRegBit_bit hr _ _ _ hi hj, if_neg hne,
      faultNote_reg_key h _ _ (by unfold regKey offFault offFaultInfo; omega)]
  · rfl

/-- The rise of a fault bit sets the event FAULT where its page defines it (R40). -/
theorem fault_event_bit {p : Page} {i : Nat} (d : Nat) (hm : (faultMask p).getLsbD i = true)
    (hn : (s.reg p offFault).getLsbD i = false) :
    ((s.fault p i d).reg p offEvent).getLsbD 0 = (eventMask p ||| s.reg p offEvent).getLsbD 0 := by
  have hr := faultNote_rising h p i d
  have he : ((s.faultNote p i d).setRegBit p offFault i true).reg p offEvent = s.reg p offEvent := by
    rw [setRegBit_reg_off hr _ _ _ (by decide), faultNote_reg_key h _ _ (by unfold regKey offEvent offFaultInfo; omega)]
  rw [fault_new d hm hn, event_reg_event (setRegBit_rising hr _ _ _ _), he]
  rw [BitVec.getLsbD_or, BitVec.getLsbD_or, BitVec.getLsbD_and, onesAt_bit, Bool.or_comm]
  simp

theorem fault_reg_info {p : Page} {i : Nat} (d : Nat) (hm : (faultMask p).getLsbD i = true) :
    (s.fault p i d).reg p offFaultInfo = if s.reg p offFault = 0 then faultInfo i d else s.reg p offFaultInfo := by
  cases hn : (s.reg p offFault).getLsbD i with
  | true =>
    have hne : s.reg p offFault ≠ 0 := fun h0 => by simp [h0] at hn
    rw [fault_sticky d hn, if_neg hne]
  | false =>
    have hr := faultNote_rising h p i d
    rw [fault_new d hm hn, event_reg_off (setRegBit_rising hr _ _ _ _) _ _ (by decide), setRegBit_reg_off hr _ _ _ (by decide),
      faultNote_reg_info h]

end

/-- Settles O7: the effect of a write of `PG_FAULT`, and of a fault that sets, register by register. -/
theorem faultsAreStickyAndTheFirstIsDescribed : Obligations.FaultsAreStickyAndTheFirstIsDescribed := by
  refine ⟨fun q p0 s hs h => ⟨_, congrArg Host.Outcome.next (writeWord_takes h _), ?_⟩, fun p i d s hs hi hm => ?_⟩
  · obtain ⟨_, hrise, _⟩ := hs
    have hu := touch_rising hrise ((s.reach p0 q.serial).fn q.serial)
    refine ⟨?_, ?_, fun r o h1 h2 => ?_, beside_trans (touch_beside s _) (clearFaults_beside ..)⟩
    · exact (clearFaults_reg_fault hu _ _).trans (by rw [touch_reg])
    · exact (clearFaults_reg_info hu _ _).trans (by rw [touch_reg, touch_reg])
    · exact (clearFaults_reg_key hu _ h1 h2).trans (touch_reg ..)
  · obtain ⟨_, hrise, _⟩ := hs
    exact ⟨fault_bit hrise d hi hm, fun j hj hne => fault_bit_other hrise d hi hj hne, fault_event_bit hrise d hm, fault_reg_info hrise d hm⟩

/-! Counters (R42, R499). -/

/-- Zero the counters of a list whose CLR bit a word sets. -/
def State.clrCounters (s : State) (p : Page) (w : Word) (l : List Nat) : State :=
  l.foldl (fun s i => if w.getLsbD (16 + i) then s.setCounter p i 0 else s) s

theorem cntClrWrite_eq (p : Page) (w : Word) (s : State) : cntClrWrite p w s =
    (s.setReg p offCntCtrl (w &&& onesAt 0 (nCounters p))).clrCounters p w (List.range (nCounters p)) := rfl

theorem clrCounters_beside (p : Page) (w : Word) (l : List Nat) (s : State) : s.Beside (s.clrCounters p w l) :=
  foldl_beside (fun s i => by
    split
    · exact setCounter_beside s _ _ _
    · exact beside_refl s) l s

theorem setCounter_rising {s : State} (h : risingFrom 0 s.regs = true) (p : Page) (i v : Nat) :
    risingFrom 0 (s.setCounter p i v).regs = true := setReg_rising (setReg_rising h _ _ _) _ _ _

/-- Each counter of the list whose CLR bit is 1 reads zero, and every other counter of the page is as it was. -/
theorem clrCounters_counter (p : Page) (w : Word) (j : Nat) : ∀ (l : List Nat) {s : State}, risingFrom 0 s.regs = true →
    (s.clrCounters p w l).counter p j = if j ∈ l ∧ w.getLsbD (16 + j) = true then 0 else s.counter p j
  | [], _, _ => by simp [State.clrCounters]
  | i :: l, s, h => by
    have hcons : s.clrCounters p w (i :: l) = (if w.getLsbD (16 + i) then s.setCounter p i 0 else s).clrCounters p w l := rfl
    rw [hcons]
    by_cases hw : w.getLsbD (16 + i) = true
    · rw [if_pos hw, clrCounters_counter p w j l (setCounter_rising h p i 0)]
      by_cases hj : j = i
      · subst hj
        simp [hw, setCounter_counter_same h]
      · simp [hj, setCounter_counter_other h p 0 hj]
    · rw [if_neg hw, clrCounters_counter p w j l h]
      by_cases hj : j = i
      · subst hj
        simp [hw]
      · simp [hj]

/-- No word outside the counters of the list changes. -/
theorem clrCounters_reg_key (p : Page) (w : Word) {r : Page} {o : Nat} : ∀ (l : List Nat) {s : State}, risingFrom 0 s.regs = true →
    (∀ i ∈ l, regKey r o ≠ regKey p (cntOff i) ∧ regKey r o ≠ regKey p (cntOff i + 4)) →
    (s.clrCounters p w l).reg r o = s.reg r o
  | [], _, _, _ => rfl
  | i :: l, s, h, hk => by
    obtain ⟨hi, hl⟩ := List.forall_mem_cons.1 hk
    have hcons : s.clrCounters p w (i :: l) = (if w.getLsbD (16 + i) then s.setCounter p i 0 else s).clrCounters p w l := rfl
    rw [hcons]
    split
    · rw [clrCounters_reg_key p w l (setCounter_rising h p i 0) hl, setCounter_reg_key h 0 hi.1 hi.2]
    · exact clrCounters_reg_key p w l h hl

theorem nCounters_le (p : Page) : nCounters p ≤ 8 := by
  cases p <;> simp [nCounters]

theorem counter_setReg_low {s : State} (h : risingFrom 0 s.regs = true) (p : Page) {o : Nat} (ho : o < 0x080) (w : Word) (i : Nat) :
    (s.setReg p o w).counter p i = s.counter p i := by
  unfold State.counter
  rw [setReg_reg_off h p w (by unfold cntOff; omega), setReg_reg_off h p w (by unfold cntOff; omega)]

section
variable {s : State} (h : risingFrom 0 s.regs = true) (p : Page) (w : Word)
include h

theorem cntClrWrite_counter {i : Nat} (hi : i < nCounters p) :
    (cntClrWrite p w s).counter p i = if w.getLsbD (16 + i) then 0 else s.counter p i := by
  rw [cntClrWrite_eq, clrCounters_counter p w i _ (setReg_rising h _ _ _), counter_setReg_low h p (by decide)]
  simp [hi]

/-- A word that lies in no counter of the page is as PG_CNT_CTRL's store leaves it. -/
theorem cntClrWrite_reg_key {r : Page} {o : Nat} (hk : ∀ k, 0x080 ≤ k → k < 0x1000 → regKey r o ≠ regKey p k) :
    (cntClrWrite p w s).reg r o = (s.setReg p offCntCtrl (w &&& onesAt 0 (nCounters p))).reg r o := by
  rw [cntClrWrite_eq]
  refine clrCounters_reg_key p w _ (setReg_rising h _ _ _) fun i hi => ?_
  have hlt := List.mem_range.1 hi
  have hle := nCounters_le p
  exact ⟨hk _ (by unfold cntOff; omega) (by unfold cntOff; omega), hk _ (by unfold cntOff; omega) (by unfold cntOff; omega)⟩

theorem cntClrWrite_reg_page {r : Page} {o : Nat} (ho : o < 4096) (hr : r ≠ p) : (cntClrWrite p w s).reg r o = s.reg r o := by
  rw [cntClrWrite_reg_key h p w fun k _ hk he => hr (regKey_inj ho hk he).1, setReg_reg_page h _ hr (by decide) ho]

theorem cntClrWrite_reg_low {o : Nat} (ho : o < 0x080) :
    (cntClrWrite p w s).reg p o = (s.setReg p offCntCtrl (w &&& onesAt 0 (nCounters p))).reg p o :=
  cntClrWrite_reg_key h p w fun k hk _ => by unfold regKey; omega

theorem cntClrWrite_cntEn {i : Nat} (hi : i < nCounters p) : (cntClrWrite p w s).cntEn p i = w.getLsbD i := by
  have hle := nCounters_le p
  unfold State.cntEn
  rw [cntClrWrite_reg_low h p w (by decide), setReg_reg_same h]
  simp [onesAt_bit, hi, show i < 32 by omega]

omit h in
theorem cntClrWrite_beside (s : State) : s.Beside (cntClrWrite p w s) :=
  beside_trans (setReg_beside s _ _ _) (clrCounters_beside ..)

end

theorem touch_counter (s : State) (fn : Fn) (p : Page) (i : Nat) : (s.touch fn).counter p i = s.counter p i := by
  unfold State.counter
  rw [touch_reg, touch_reg]

/-- Settles O8: the effect of a write of `PG_CNT_CTRL`, and `bumpBy_counter`. -/
theorem countersClearAndCountWhileEnabled : Obligations.CountersClearAndCountWhileEnabled := by
  refine ⟨fun q p0 s hs h => ⟨_, congrArg Host.Outcome.next (writeWord_takes h _), ?_⟩, fun p i n s hs => bumpBy_counter hs.2.1 p i n⟩
  obtain ⟨_, hrise, _⟩ := hs
  have hu := touch_rising hrise ((s.reach p0 q.serial).fn q.serial)
  refine ⟨fun i hi => ⟨cntClrWrite_cntEn hu _ _ hi, ?_⟩, fun r o ho hr => ?_, fun o ho hne => ?_,
    beside_trans (touch_beside s _) (cntClrWrite_beside ..)⟩
  · rw [cntClrWrite_counter hu _ _ hi, touch_counter]
  · rw [cntClrWrite_reg_page hu _ _ ho hr, touch_reg]
  · rw [cntClrWrite_reg_low hu _ _ ho, setReg_reg_off hu _ _ hne, touch_reg]

end Sys2Proof.Machine
end

section
/-! PROOF. Starting, stopping, resetting and isolating a block (R37 to R39, R358): the branches of a write of `PG_CTRL`, QUIESCENT, and
the end of a soft reset and of an isolated test. -/

namespace Sys2Proof.Machine

/-! A write of `PG_CTRL`. -/

theorem touch_enabled (s : State) (fn : Fn) (p : Page) : (s.touch fn).enabled p = s.enabled p := by
  unfold State.enabled
  rw [touch_reg]

theorem touch_isolated (s : State) (fn : Fn) (p : Page) : (s.touch fn).isolated p = s.isolated p := by
  unfold State.isolated
  rw [touch_reg]

/-- The pages with TEST_ISOLATE have an ENABLE of their own. -/
theorem alwaysEnabled_of_hasTestIsolate {p : Page} (h : hasTestIsolate p = true) : alwaysEnabled p = false := by
  cases p <;> first | rfl | cases h

theorem hasTestIsolate_of_alwaysEnabled {p : Page} (h : alwaysEnabled p = true) : hasTestIsolate p = false := by
  cases p <;> first | rfl | cases h

/-- The word of `PG_CTRL` that a write stores. -/
def State.ctrlStore (s : State) (p : Page) (w : Word) : State := s.setReg p offCtrl (w &&& definedBits p offCtrl &&& 5)

section
variable {s : State} {p : Page} {w : Word}

/-- On an always-enabled page the write changes nothing (R38). -/
theorem ctrlWrite_always (ha : alwaysEnabled p = true) : ctrlWrite p w s = s := by
  simp [ctrlWrite, ha, hasTestIsolate_of_alwaysEnabled ha]

theorem ctrlWrite_enableSet (ha : alwaysEnabled p = false) (hi : s.isolated p = w.getLsbD 2) (hr : w.getLsbD 1 = false)
    (hw : w.getLsbD 0 = true) (he : s.enabled p = false) : ctrlWrite p w s = (s.ctrlStore p w).enableSet p := by
  simp only [ctrlWrite, ha, hi, hr, hw, he]
  simp [State.ctrlStore]

theorem ctrlWrite_enableClear (ha : alwaysEnabled p = false) (hi : s.isolated p = w.getLsbD 2) (hr : w.getLsbD 1 = false)
    (hw : w.getLsbD 0 = false) (he : s.enabled p = true) : ctrlWrite p w s = (s.ctrlStore p w).enableClear p := by
  simp only [ctrlWrite, ha, hi, hr, hw, he]
  simp [State.ctrlStore]

theorem ctrlWrite_softBegin (ha : alwaysEnabled p = false) (hi : s.isolated p = w.getLsbD 2) (hr : w.getLsbD 1 = true)
    (he : w.getLsbD 0 = s.enabled p) : ctrlWrite p w s = (s.ctrlStore p w).softBegin p := by
  simp only [ctrlWrite, ha, hi, hr, he]
  simp [State.ctrlStore]

theorem ctrlWrite_isolateSet (ht : hasTestIsolate p = true) (hr : w.getLsbD 1 = false) (he : w.getLsbD 0 = s.enabled p)
    (hi : s.isolated p = false) (hw : w.getLsbD 2 = true) : ctrlWrite p w s = (s.ctrlStore p w).isolateSet p := by
  simp only [ctrlWrite, alwaysEnabled_of_hasTestIsolate ht, ht, hr, he, hi, hw]
  simp [State.ctrlStore]

theorem ctrlWrite_isolateClear (ht : hasTestIsolate p = true) (hr : w.getLsbD 1 = false) (he : w.getLsbD 0 = s.enabled p)
    (hi : s.isolated p = true) (hw : w.getLsbD 2 = false) : ctrlWrite p w s = (s.ctrlStore p w).isolateClear p := by
  simp only [ctrlWrite, alwaysEnabled_of_hasTestIsolate ht, ht, hr, he, hi, hw]
  simp [State.ctrlStore]

end

/-- The four commands of `PG_CTRL` are one write. -/
theorem exec_ctrl {q : Req} {p0 : Page} {s : State} (h : s.Takes q p0 offCtrl) :
    writeWord q p0 offCtrl ctrlWrite s = ctrlWrite (s.reach p0 q.serial) q.val (s.at_ p0 q.serial) := writeWord_takes h _

/-! QUIESCENT (R37, R39). -/

theorem exec_quiescent_idle {s : State} {p : Page} (hq : s.status p 2 = true) : exec (.quiescent p) s = .next s :=
  congrArg Host.Outcome.next (if_pos (by simp [hq]))

theorem exec_quiescent_rise {s : State} {p : Page} (he : s.enabled p = false) (hw : s.hasWork p = false) (hq : s.status p 2 = false) :
    exec (.quiescent p) s = .next (s.setStatus p 2 true) :=
  congrArg Host.Outcome.next (if_neg (by simp [he, hw, hq]))

/-! SOFT_RESET_DONE. -/

/-- The soft reset of `p` is over. -/
def State.softEnded (s : State) (p : Page) : State := { s with softReset := s.softReset.filter (· ≠ p) }

theorem exec_softResetDone {s : State} {p : Page} (h : p ∈ s.softReset) :
    ∃ l, exec (.softResetDone p) s = .next { s.softEnded p with chains := l } := by
  have hc : ¬ (!s.softReset.contains p) = true := by simp [h]
  cases p with
  | mon m => exact ⟨_, congrArg Host.Outcome.next (if_neg hc)⟩
  | _ => exact ⟨s.chains, congrArg Host.Outcome.next (if_neg hc)⟩

/-! ISOLATED_TEST_DONE (R358). -/

/-- What `HLT_TEST_LAST` records of a test: VALID, the outcome, the page's number and its block code. -/
def testRecord (p : Page) (pass : Bool) : Word :=
  BitVec.ofNat 32 (2 ^ 31 + (if pass then 2 ^ 30 else 0) + pageInst p * 2 ^ 16 + blockCode p)

/-- The isolated test of `p` no longer runs. -/
def State.testOff (s : State) (p : Page) : State := { s with isoTests := s.isoTests.filter (· ≠ p) }

/-- The isolated test of `p` has ended, is recorded, announced and counted. -/
def State.testEnded (s : State) (p : Page) (pass : Bool) : State :=
  (((s.testOff p).setReg .hlt 0x04C (testRecord p pass)).event .hlt 4).bump .hlt 1

/-- The isolated test of `p` has ended with a failure: counted, and a fault of its page. -/
def State.testFailed (s : State) (p : Page) : State := ((s.testEnded p false).bump .hlt 2).fault p 1 0

/-- The fault that a failed test is: a port's, or the block's own. -/
def State.testFault (u : State) : Page → State
  | .np n => u.portFault n.val 1 0 0
  | .wp w => u.portFault (12 + w.val) 1 0 0
  | p => u.fault p 1 0

/-- A port with a fault leaves service; another block stays as it is. -/
def State.leaveIfPort (u : State) : Page → State
  | .np _ | .wp _ => u.portsRemove
  | _ => u

/-- The fault INTERNAL of a port (bit 1) leaves its driver to the removal. -/
theorem portFault_internal (s : State) (k : Nat) : s.portFault k 1 0 0 = (s.fault (portPage k) 1 0).portsRemove := rfl

theorem portPage_np (n : Fin 12) : portPage n.val = .np n := by
  unfold portPage
  rw [if_pos n.isLt]
  exact congrArg Page.np (Fin.ext (Nat.mod_eq_of_lt n.isLt))

theorem portPage_wp (w : Fin 4) : portPage (12 + w.val) = .wp w := by
  unfold portPage
  rw [if_neg (by omega)]
  exact congrArg Page.wp (Fin.ext (by dsimp only; omega))

section
variable {s : State} {p : Page}

theorem exec_isolatedTestDone_pass (h : p ∈ s.isoTests) : exec (.isolatedTestDone p true) s = .next (s.testEnded p true) :=
  congrArg Host.Outcome.next (if_neg (by simp [h]))

/-- The fault INTERNAL of a block takes a port out of service and leaves another block as it is. -/
theorem testFault_eq (u : State) (p : Page) : u.testFault p = (u.fault p 1 0).leaveIfPort p := by
  cases p with
  | np n => exact (portFault_internal u n.val).trans (by rw [portPage_np]; rfl)
  | wp w => exact (portFault_internal u (12 + w.val)).trans (by rw [portPage_wp]; rfl)
  | _ => rfl

theorem exec_isolatedTestDone_fail (h : p ∈ s.isoTests) :
    exec (.isolatedTestDone p false) s = .next ((s.testFailed p).leaveIfPort p) := by
  have hc : ¬ (!s.isoTests.contains p) = true := by simp [h]
  have he : exec (.isolatedTestDone p false) s = .next (((s.testEnded p false).bump .hlt 2).testFault p) := by
    refine congrArg Host.Outcome.next ((if_neg hc).trans ?_)
    simp only [State.testFault, State.testEnded, State.testOff, testRecord, Bool.false_eq_true, if_false]
    cases p <;> rfl
  rw [he, testFault_eq]
  rfl

theorem testOff_not_mem : p ∉ (s.testOff p).isoTests := by simp [State.testOff]

theorem testEnded_isoTests (pass : Bool) : (s.testEnded p pass).isoTests = (s.testOff p).isoTests := by
  simp [State.testEnded, State.bump]

theorem testFailed_isoTests : (s.testFailed p).isoTests = (s.testOff p).isoTests := by
  simp [State.testFailed, State.bump, testEnded_isoTests]

theorem testEnded_beside (pass : Bool) : (s.testOff p).Beside (s.testEnded p pass) :=
  beside_trans (setReg_beside _ _ _ _) (beside_trans (event_beside _ _ _) (bumpBy_beside _ _ _ _))

theorem testFailed_beside : (s.testOff p).Beside (s.testFailed p) :=
  beside_trans (testEnded_beside false) (beside_trans (bumpBy_beside _ _ _ _) (fault_beside _ _ _ _))

variable (h : risingFrom 0 s.regs = true)
include h

theorem testEnded_rising (pass : Bool) : risingFrom 0 (s.testEnded p pass).regs = true :=
  bump_rising (event_rising (setReg_rising (s := s.testOff p) h _ _ _) _ _) _ _

theorem testEnded_record (pass : Bool) : (s.testEnded p pass).reg .hlt 0x04C = testRecord p pass := by
  have h1 : risingFrom 0 ((s.testOff p).setReg .hlt 0x04C (testRecord p pass)).regs = true := setReg_rising (s := s.testOff p) h _ _ _
  unfold State.testEnded
  rw [bump_reg_off (event_rising h1 _ _) _ _ (by decide), event_reg_off h1 _ _ (by decide)]
  exact setReg_reg_same (s := s.testOff p) h _ _ _

theorem testEnded_reg_page (pass : Bool) {r : Page} {o : Nat} (ho : o < 4096) (hr : r ≠ .hlt) :
    (s.testEnded p pass).reg r o = s.reg r o := by
  have h1 : risingFrom 0 ((s.testOff p).setReg .hlt 0x04C (testRecord p pass)).regs = true := setReg_rising (s := s.testOff p) h _ _ _
  unfold State.testEnded
  rw [bump_reg_page (event_rising h1 _ _) _ hr ho, event_reg_page h1 _ hr ho]
  exact setReg_reg_page (s := s.testOff p) h _ hr (by decide) ho

theorem testFailed_record : (s.testFailed p).reg .hlt 0x04C = testRecord p false := by
  have hk : ∀ k, k < 4096 → k ≠ 0x04C → regKey .hlt 0x04C ≠ regKey p k := fun k hk hne he =>
    hne (regKey_inj (by decide) hk he).2.symm
  have h1 := bump_rising (testEnded_rising (p := p) h false) .hlt 2
  unfold State.testFailed
  rw [fault_reg_key h1 _ _ (hk _ (by decide) (by decide)) (hk _ (by decide) (by decide)) (hk _ (by decide) (by decide)),
    bump_reg_off (testEnded_rising h false) _ _ (by decide), testEnded_record h]

theorem testFailed_fault (hm : (faultMask p).getLsbD 1 = true) : ((s.testFailed p).reg p offFault).getLsbD 1 = true :=
  fault_bit (bump_rising (testEnded_rising h false) _ _) 0 (by decide) hm

end

/-- Settles O9: the branches of a write of `PG_CTRL`, and the commands with which a block comes to rest, a soft reset ends and an
isolated test ends. -/
theorem blocksStartStopAndAreTested : Obligations.BlocksStartStopAndAreTested := by
  refine ⟨fun q p0 s h => ?_, fun p s hs he hw => ?_, fun p s h => ?_, fun p s hs h => ?_, fun p s hs h => ?_⟩
  · have next {w : State} (hw : ctrlWrite (s.reach p0 q.serial) q.val (s.at_ p0 q.serial) = w) :
        (Host.Outcome.next (writeWord q p0 offCtrl ctrlWrite s) : Host.Outcome State Fault Refusal) = .next w :=
      congrArg Host.Outcome.next ((exec_ctrl h).trans hw)
    have hE := touch_enabled s ((s.reach p0 q.serial).fn q.serial) (s.reach p0 q.serial)
    have hI := touch_isolated s ((s.reach p0 q.serial).fn q.serial) (s.reach p0 q.serial)
    refine ⟨fun ha hi => ⟨fun hr hw he => ?_, fun hr hw he => ?_, fun hr hw => ?_⟩, fun ht hr hw hi h2 => ?_, fun ht hr hw hi h2 => ?_,
      fun ha => ?_⟩
    · exact next (ctrlWrite_enableSet ha (hI.trans hi) hr hw (hE.trans he))
    · exact next (ctrlWrite_enableClear ha (hI.trans hi) hr hw (hE.trans he))
    · exact next (ctrlWrite_softBegin ha (hI.trans hi) hr (hw.trans hE.symm))
    · exact next (ctrlWrite_isolateSet ht hr (hw.trans hE.symm) (hI.trans hi) h2)
    · exact next (ctrlWrite_isolateClear ht hr (hw.trans hE.symm) (hI.trans hi) h2)
    · have hn := next (ctrlWrite_always ha)
      exact ⟨hn, hn, hn, hn⟩
  · obtain ⟨_, hrise, _⟩ := hs
    cases hq : s.status p 2 with
    | true => exact ⟨s, exec_quiescent_idle hq, hq, fun _ _ _ => rfl, fun _ _ _ => rfl, rfl⟩
    | false =>
      refine ⟨_, exec_quiescent_rise he hw hq, ?_, fun j hj hne => ?_, fun r o hk => setReg_reg_key hrise _ hk, rfl⟩
      · rw [setStatus_status hrise p true (by decide) (by decide), if_pos rfl]
      · rw [setStatus_status hrise p true (by decide) hj, if_neg hne]
  · obtain ⟨l, hl⟩ := exec_softResetDone h
    exact ⟨_, hl, by simp [State.softEnded], fun r hr => by simp [State.softEnded, hr], rfl⟩
  · obtain ⟨_, hrise, _⟩ := hs
    refine ⟨_, exec_isolatedTestDone_pass h, ?_, testEnded_record hrise true, fun r o ho hr => testEnded_reg_page hrise true ho hr, ?_⟩
    · rw [testEnded_isoTests]; exact testOff_not_mem
    · rw [testEnded_isoTests]; exact testEnded_beside true
  · obtain ⟨_, hrise, _⟩ := hs
    refine ⟨s.testFailed p, ?_, (exec_isolatedTestDone_fail h).trans (by cases p <;> rfl), testFailed_record hrise, testFailed_fault hrise, ?_⟩
    · rw [testFailed_isoTests]; exact testOff_not_mem
    · rw [testFailed_isoTests]; exact testFailed_beside

end Sys2Proof.Machine
end

section
/-! PROOF. Writes by access type (R52): no two fields of one register share a bit, so that each bit of a written word is decided by the
field that holds it alone; and the registers of the pages without effects of their own (R53). -/

namespace Sys2Proof.Machine

/-! The fields of one register lie apart. -/

/-- Two fields share no bit, or no register. -/
def Fld.apart (f g : Fld) : Bool :=
  decide (f.lo + f.w ≤ g.lo ∨ g.lo + g.w ≤ f.lo) || (List.range f.n).all fun i => !g.hits (f.off + i * f.st)

/-- Every two fields of a list lie apart. -/
def fldsApart : List Fld → Bool
  | [] => true
  | f :: l => l.all f.apart && fldsApart l

theorem pairwise_of_fldsApart : ∀ {l : List Fld}, fldsApart l = true → l.Pairwise fun f g => f.apart g = true
  | [], _ => .nil
  | f :: l, h => by
    simp only [fldsApart, Bool.and_eq_true, List.all_eq_true] at h
    exact .cons h.1 (pairwise_of_fldsApart h.2)

/-- The register tables give every bit of a register to at most one field. -/
theorem pageFlds_apart (p : Page) : fldsApart (pageFlds p) = true := by
  cases p with
  | np n | spx n | uart n => simp only [pageFlds]; split <;> decide +kernel
  | _ => simp only [pageFlds]; decide +kernel

/-- A field's bits. -/
def Fld.holds (f : Fld) (i : Nat) : Prop := f.lo ≤ i ∧ i < f.lo + f.w

theorem mask_bit (f : Fld) {i : Nat} (hi : i < 32) : f.mask.getLsbD i = decide (f.lo ≤ i ∧ i < f.lo + f.w) := by
  rw [Fld.mask, onesAt_bit, decide_eq_true hi, Bool.true_and, ← Bool.decide_and]
  exact decide_eq_decide.2 ⟨fun h => ⟨h.1, by omega⟩, fun h => ⟨h.1, by omega⟩⟩

/-- A register that a field hits is one of those that its definition counts. -/
theorem off_of_hits {f : Fld} {off : Nat} (h : f.hits off = true) : ∃ i, i < f.n ∧ off = f.off + i * f.st := by
  simp only [Fld.hits, Bool.and_eq_true, decide_eq_true_eq] at h
  obtain ⟨⟨hle, hmod⟩, hlt⟩ := h
  refine ⟨_, hlt, ?_⟩
  have := Nat.div_mul_cancel (Nat.dvd_of_mod_eq_zero hmod)
  omega

/-- Of two fields that lie apart and hit one register, at most one holds a bit. -/
theorem not_holds_of_apart {f g : Fld} {off i : Nat} (h : f.apart g = true) (hf : f.hits off = true) (hg : g.hits off = true) :
    ¬ (f.holds i ∧ g.holds i) := by
  rintro ⟨⟨h1, h2⟩, h3, h4⟩
  simp only [Fld.apart, Bool.or_eq_true, decide_eq_true_eq, List.all_eq_true, List.mem_range] at h
  rcases h with h | h
  · omega
  · obtain ⟨k, hk, rfl⟩ := off_of_hits hf
    simpa [hg] using h k hk

theorem regFlds_apart (p : Page) (off : Nat) : (regFlds p off).Pairwise fun f g => f.apart g = true :=
  (pairwise_of_fldsApart (pageFlds_apart p)).filter _

theorem hits_of_mem_regFlds {p : Page} {off : Nat} {f : Fld} (h : f ∈ regFlds p off) : f.hits off = true :=
  (List.mem_filter.1 h).2

/-! One field of a written word. -/

/-- What a write of `w` makes of a word, by one field of the register. -/
def State.writeFld (s : State) (p : Page) (off : Nat) (w : Word) (a : Word) (f : Fld) : Word :=
  match f.acc with
  | .rw => (a &&& ~~~ f.mask) ||| (w &&& f.mask)
  | .rwl => if s.locked p { f with off := off } then a else (a &&& ~~~ f.mask) ||| (w &&& f.mask)
  | .w1c => a &&& ~~~ (w &&& f.mask)
  | .w1s => a ||| (w &&& f.mask)
  | .ro | .wo => a

/-- What a write of `w` makes of a bit of one field. -/
def State.writeBit (s : State) (p : Page) (off : Nat) (w : Word) (f : Fld) (i : Nat) (old : Bool) : Bool :=
  match f.acc with
  | .rw => w.getLsbD i
  | .rwl => if s.locked p { f with off := off } then old else w.getLsbD i
  | .w1c => old && !w.getLsbD i
  | .w1s => old || w.getLsbD i
  | .ro | .wo => old

section
variable {s : State} {p : Page} {off : Nat} {w : Word}

theorem written_eq : s.written p off w = (regFlds p off).foldl (s.writeFld p off w) (s.reg p off) := rfl

/-- A field acts on each of its bits by its access type. -/
theorem writeFld_holds {f : Fld} {i : Nat} (hi : i < 32) (h : f.holds i) (a : Word) :
    (s.writeFld p off w a f).getLsbD i = s.writeBit p off w f i (a.getLsbD i) := by
  have hm : f.mask.getLsbD i = true := (mask_bit f hi).trans (decide_eq_true h)
  unfold State.writeFld State.writeBit
  cases f.acc with
  | ro | wo => rfl
  | rw | w1c | w1s =>
    simp only [BitVec.getLsbD_or, BitVec.getLsbD_and, BitVec.getLsbD_not, hm, decide_eq_true hi]
    simp
  | rwl =>
    dsimp only
    split
    · rfl
    · simp only [BitVec.getLsbD_or, BitVec.getLsbD_and, BitVec.getLsbD_not, hm, decide_eq_true hi]
      simp

/-- A field leaves every other bit as it is. -/
theorem writeFld_other {f : Fld} {i : Nat} (hi : i < 32) (h : ¬ f.holds i) (a : Word) :
    (s.writeFld p off w a f).getLsbD i = a.getLsbD i := by
  have hm : f.mask.getLsbD i = false := (mask_bit f hi).trans (decide_eq_false h)
  unfold State.writeFld
  cases f.acc with
  | ro | wo => rfl
  | rw | w1c | w1s =>
    simp only [BitVec.getLsbD_or, BitVec.getLsbD_and, BitVec.getLsbD_not, hm, decide_eq_true hi]
    simp
  | rwl =>
    dsimp only
    split
    · rfl
    · simp only [BitVec.getLsbD_or, BitVec.getLsbD_and, BitVec.getLsbD_not, hm, decide_eq_true hi]
      simp

theorem foldl_writeFld_other {i : Nat} (hi : i < 32) : ∀ {l : List Fld}, (∀ f ∈ l, ¬ f.holds i) → ∀ a : Word,
    (l.foldl (s.writeFld p off w) a).getLsbD i = a.getLsbD i
  | [], _, _ => rfl
  | f :: l, h, a => by
    obtain ⟨hf, hl⟩ := List.forall_mem_cons.1 h
    rw [List.foldl_cons, foldl_writeFld_other hi hl, writeFld_other hi hf]

/-- A bit that a field of the register holds follows that field's access type: the fields before and after it in the table leave the bit
alone. -/
theorem written_holds {f : Fld} {i : Nat} (hf : f ∈ regFlds p off) (hi : i < 32) (h : f.holds i) :
    (s.written p off w).getLsbD i = s.writeBit p off w f i ((s.reg p off).getLsbD i) := by
  have hhit := fun g (hg : g ∈ regFlds p off) => hits_of_mem_regFlds hg
  have hpw := regFlds_apart p off
  rw [written_eq]
  obtain ⟨l, r, hlr⟩ := List.append_of_mem hf
  rw [hlr] at hpw hhit ⊢
  obtain ⟨_, hfr, hcross⟩ := List.pairwise_append.1 hpw
  have hl : ∀ g ∈ l, ¬ g.holds i := fun g hg hgi =>
    not_holds_of_apart (hcross g hg f (by simp)) (hhit g (by simp [hg])) (hhit f (by simp)) ⟨hgi, h⟩
  have hr : ∀ g ∈ r, ¬ g.holds i := fun g hg hgi =>
    not_holds_of_apart ((List.pairwise_cons.1 hfr).1 g hg) (hhit f (by simp)) (hhit g (by simp [hg])) ⟨h, hgi⟩
  rw [List.foldl_append, List.foldl_cons, foldl_writeFld_other hi hr, writeFld_holds hi h, foldl_writeFld_other hi hl]

/-- A bit that no field of the register holds stays. -/
theorem written_other {i : Nat} (h : ∀ f ∈ regFlds p off, ¬ f.holds i) : (s.written p off w).getLsbD i = (s.reg p off).getLsbD i := by
  by_cases hi : i < 32
  · rw [written_eq, foldl_writeFld_other hi h]
  · rw [BitVec.getLsbD_of_ge _ _ (by omega), BitVec.getLsbD_of_ge _ _ (by omega)]

end

/-! A word write at a register's place. -/

theorem touch_written (s : State) (fn : Fn) (p : Page) (off : Nat) (w : Word) : (s.touch fn).written p off w = s.written p off w := by
  unfold State.touch
  rw [endIdle_eq]
  rfl

/-! The pages whose registers have no effect of their own. -/

theorem reach_plain {s : State} {p : Page} {b : Bool} (hp : p ∈ [Page.clk, .thm, .hif, .shp, .dwl, .cmd]) : s.reach p b = p := by
  simp only [List.mem_cons, List.not_mem_nil, or_false] at hp
  rcases hp with rfl | rfl | rfl | rfl | rfl | rfl <;> cases b <;> rfl

theorem pageEffect_plain {q : Req} {e : AccEnv} {p : Page} {off : Nat} (hp : p ∈ [Page.clk, .thm, .hif, .shp, .dwl, .cmd])
    (ho : 0x040 ≤ off) : pageEffect q e off p = applyWrite p off := by
  unfold pageEffect
  rw [if_neg (by omega)]
  simp only [List.mem_cons, List.not_mem_nil, or_false] at hp
  rcases hp with rfl | rfl | rfl | rfl | rfl | rfl <;> rfl

/-- A serial access is barred alike whether its page or its target is asked. -/
theorem tenBarred_page (s : State) (p : Page) (off : Nat) (b : Bool) :
    (s.tenBarred b && (Target.page p off).tenant && s.bootDone) = s.serialBarred p b := by
  simp only [State.tenBarred, State.serialBarred, Target.tenant]
  cases b <;> simp [Bool.and_comm]

/-- A write to a page as a target is a word write with the page's effect. -/
theorem writeAt_page {s : State} (hh : s.hostOn = true) (q : Req) (e : AccEnv) (p0 : Page) (off : Nat) :
    s.writeAt (s.tenBarred q.serial) q e (.page (s.reach p0 q.serial) off) = writeWord q p0 off (pageEffect q e off) s := by
  have hn : ¬ (!s.hostOn) = true := by simp [hh]
  refine Eq.trans ?_ (if_neg hn).symm
  unfold State.writeAt
  dsimp only
  rw [tenBarred_page, touch_serialBarred]
  rfl

theorem exec_writeRegister_reg {q : Req} {p0 : Page} {off : Nat} {e : AccEnv} {s : State} (ho : off < 0x1000)
    (hh : s.hostOn = true) : exec (.writeRegister q (.reg p0 off) e) s = .next (writeWord q p0 off (pageEffect q e off) s) := by
  refine congrArg Host.Outcome.next ((if_neg (by simp [hh])).trans ?_)
  rw [target_reg s q.serial p0 ho]
  exact writeAt_page hh q e p0 off

/-- Settles O10: the first two clauses are what a written word's bits follow, and the third a WRITE_REGISTER that stores one word. -/
theorem writesFollowTheAccessTypes : Obligations.WritesFollowTheAccessTypes := by
  refine ⟨fun p off w s f i hf h1 h2 hi => written_holds hf hi ⟨h1, h2⟩, fun p off w s i h => written_other h,
    fun q p off e s hs hp hlo ho h => ?_⟩
  have hr : s.reach p q.serial = p := reach_plain hp
  have hst : s.Stores (writeWord q p off (pageEffect q e off) s) p off (s.written p off q.val) := by
    refine writeWord_stores hs h ?_ ?_
    · rw [hr, pageEffect_plain hp hlo, applyWrite, touch_written]
    · rw [hr, pageEffect_plain hp hlo]
      exact setReg_beside ..
  exact ⟨_, exec_writeRegister_reg ho h.1, hst⟩

end Sys2Proof.Machine
end

section
/-! PROOF. The DEV page (R57 to R59, R63 to R67): the accepted set, its lock, and the violation record. -/

namespace Sys2Proof.Machine

theorem flag_of_reg {s t : State} {p : Page} {f : Fld} (h : t.reg p f.off = s.reg p f.off) : t.flag p f = s.flag p f := by
  unfold State.flag State.fld
  rw [h]

theorem touch_devLocked (s : State) (fn : Fn) : (s.touch fn).devLocked = s.devLocked := touch_flag ..

theorem reach_dev (s : State) (b : Bool) : s.reach .dev b = .dev := by cases b <;> rfl

/-! The accepted set (R57). -/

section
variable {s : State}

theorem acceptWrite_locked (hl : s.devLocked = true) (off : Nat) (p : Page) (w : Word) : acceptWrite off p w s = s := if_pos hl

theorem acceptWrite_open (hl : s.devLocked = false) (off : Nat) (p : Page) (w : Word) : acceptWrite off p w s =
    (s.setReg p off (if off = 0x050 then w ||| 1 else w)).setFlag .dev F.DEV_FEAT_STATUS_REFUSED false :=
  if_neg (by simp [hl])

/-- A write that is not locked out of any field is judged by the whole of its word. -/
theorem unlocked_open {p : Page} {off : Nat} (w : Word) (h : ∀ f, s.locked p f = false) : s.unlocked p off w = w := by
  unfold State.unlocked
  induction regFlds p off with
  | nil => rfl
  | cons f l ih => rw [List.foldl_cons, h, Bool.and_false, if_neg (by decide), ih]

/-- A bit above bit 0 that is asked for and not offered. -/
theorem subset_false {w : Word} {have_ i : Nat} (hi : i < 32) (h0 : i ≠ 0) (hw : w.getLsbD i = true) (ho : bitOf have_ i = false) :
    subset (w.toNat - w.toNat % 2) have_ = false := by
  have hneed : (w.toNat - w.toNat % 2).testBit i = true := by
    obtain ⟨j, rfl⟩ : ∃ j, i = j + 1 := ⟨i - 1, by omega⟩
    have hd : (w.toNat - w.toNat % 2) / 2 = w.toNat / 2 := by omega
    rw [Nat.testBit_succ, hd, ← Nat.testBit_succ]
    exact hw
  have hoff : have_.testBit i = false := by
    rw [← ho, bitOf, Nat.testBit_eq_decide_div_mod_eq]
  have hbit : (BitVec.ofNat 32 (w.toNat - w.toNat % 2) &&& ~~~ BitVec.ofNat 32 have_).getLsbD i = true := by
    rw [BitVec.getLsbD_and, BitVec.getLsbD_not, BitVec.getLsbD_ofNat, BitVec.getLsbD_ofNat, hneed, hoff, decide_eq_true hi]
    rfl
  refine beq_eq_false_iff_ne.2 fun h => ?_
  rw [h] at hbit
  simp at hbit

theorem accept_exists (k : Fin 4) : regExists .dev (0x050 + 4 * k.val) = true := by
  revert k
  decide

/-- What R57 forbids in a word written to an ACCEPT register. -/
def State.unoffered (s : State) (k : Fin 4) (w : Word) : Prop :=
  ∃ i, i < 32 ∧ w.getLsbD i = true ∧ (k.val = 0 → i ≠ 0 ∧ bitOf s.offer i = false)

theorem badValue_accept0 (w : Word) : s.badValue .dev 0x050 w =
    !subset ((s.unlocked .dev 0x050 w).toNat - (s.unlocked .dev 0x050 w).toNat % 2) s.offer := rfl

/-- ACCEPT1 to 3 offer nothing, so that any 1 is reserved. -/
theorem badValue_accept {k : Fin 4} (hk : k.val ≠ 0) (w : Word) : s.badValue .dev (0x050 + 4 * k.val) w =
    (s.unlocked .dev (0x050 + 4 * k.val) w != 0) := by
  match k, hk with
  | 1, _ | 2, _ | 3, _ => rfl

theorem badValue_unoffered (hl : s.devLocked = false) {k : Fin 4} {w : Word} (h : s.unoffered k w) :
    s.badValue .dev (0x050 + 4 * k.val) w = true := by
  obtain ⟨i, hi, hw, h0⟩ := h
  by_cases hk : k.val = 0
  · obtain ⟨hi0, ho⟩ := h0 hk
    rw [hk, badValue_accept0, unlocked_open (p := .dev) w fun _ => hl, subset_false hi hi0 hw ho]
    rfl
  · rw [badValue_accept hk, unlocked_open (p := .dev) w fun _ => hl]
    exact bne_iff_ne.2 fun he => by simp [he] at hw

/-- R57: a whole word with a 1 for a feature that is not offered is a violation of kind 3 and of no other. -/
theorem judge_unoffered (hl : s.devLocked = false) {k : Fin 4} {w : Word} (hd : s.dropped .dev (0x050 + 4 * k.val) = false)
    (h : s.unoffered k w) : s.judge .dev (0x050 + 4 * k.val) 0xF (some w) = .viol [3] := by
  have halign : (0x050 + 4 * k.val) / 4 * 4 = 0x050 + 4 * k.val := by omega
  have hsub : subWord (0x050 + 4 * k.val) 0xF#4 = false := by simp [subWord]
  have hfeat : s.featBad .dev (0x050 + 4 * k.val) true = false := by
    simp [State.featBad, Page.tenant?, hl]
  have hbad : s.writeBad .dev (0x050 + 4 * k.val) w = true := by
    simp [State.writeBad, badValue_unoffered hl h]
  unfold State.judge
  simp [halign, hd, accept_exists, hsub, hfeat, hbad, State.noRight]

theorem fn_code_lt (fn : Fn) : fn.code < 11 := by
  cases fn with
  | pf k => exact Nat.lt_trans k.isLt (by decide)
  | _ => decide

theorem violInfo_kind (fn : Fn) (be : BitVec 4) : F.DEV_VIOL_INFO_KIND.get (violInfo fn 3 true be) = 3 := by
  have hc := fn_code_lt fn
  have hb := be.isLt
  simp only [Fld.get, F.DEV_VIOL_INFO_KIND, violInfo, BitVec.toNat_ofNat, if_true]
  omega

end

/-! Violations (R63 to R67). -/

section
variable {s t : State}

theorem beside_setArmed (h : s.Beside t) (b : Bool) : ({ s with violArmed := b } : State).Beside { t with violArmed := b } := by
  unfold State.Beside at *
  rw [h]

theorem violation_armed (fn : Fn) (a k : Nat) (wr : Bool) (be : BitVec 4) : (s.violation fn a k wr be).violArmed = false := by
  unfold State.violation
  split
  · rfl
  · rename_i h
    simpa using h

/-- A violation changes at most registers, and disarms the record. -/
theorem violation_beside (s : State) (fn : Fn) (a k : Nat) (wr : Bool) (be : BitVec 4) :
    ({ s with violArmed := false } : State).Beside (s.violation fn a k wr be) := by
  unfold State.violation
  split
  · rfl
  · rename_i h
    have hs : ({ s with violArmed := false } : State) = s := by
      rw [← (by simpa using h : s.violArmed = false)]
    rw [hs]
    exact setFld_beside ..

/-- A word write that violates changes at most registers beside the touch of the access. -/
theorem at_violation_beside (s : State) (p : Page) (b : Bool) (fn : Fn) (a k : Nat) (wr : Bool) (be : BitVec 4) :
    ({ s with violArmed := false } : State).Beside ((s.at_ p b).violation fn a k wr be) :=
  beside_trans (beside_setArmed (touch_beside s _) false) (violation_beside ..)

end

theorem acceptWrite_kept {s : State} {k : Fin 4} (hu : risingFrom 0 s.regs = true) (hl : s.devLocked = false) (w : Word) :
    (acceptWrite (0x050 + 4 * k.val) .dev w s).reg .dev (0x050 + 4 * k.val) = (if k.val = 0 then w ||| 1 else w) ∧
    (acceptWrite (0x050 + 4 * k.val) .dev w s).flag .dev F.DEV_FEAT_STATUS_REFUSED = false ∧
    (∀ r o, regKey r o ≠ regKey .dev (0x050 + 4 * k.val) → regKey r o ≠ regKey .dev 0x064 →
      (acceptWrite (0x050 + 4 * k.val) .dev w s).reg r o = s.reg r o) ∧
    s.Beside (acceptWrite (0x050 + 4 * k.val) .dev w s) := by
  have hif : (0x050 + 4 * k.val = 0x050) = (k.val = 0) := propext (by omega)
  have h1 := setReg_rising hu .dev (0x050 + 4 * k.val) (if k.val = 0 then w ||| 1 else w)
  rw [acceptWrite_open hl]
  simp only [hif]
  refine ⟨?_, setFlag_flag_same h1 _ _ _ (by decide) (by decide), fun r o hk1 hk2 => ?_,
    beside_trans (setReg_beside ..) (setFlag_beside ..)⟩
  · exact (setFld_reg_off h1 _ _ _ (show 0x050 + 4 * k.val ≠ 0x064 by omega)).trans (setReg_reg_same hu _ _ _)
  · exact (setReg_reg_key h1 _ hk2).trans (setReg_reg_key hu _ hk1)

/-- Settles O11: before the lock the accepted set is stored, and a word that asks for what is not offered is the violation of kind 3. -/
theorem acceptedFeaturesAreTheOfferedOnes : Obligations.AcceptedFeaturesAreTheOfferedOnes := by
  intro q k s hs hl
  obtain ⟨_, hrise, _⟩ := hs
  have hu := touch_rising hrise ((s.reach .dev q.serial).fn q.serial)
  have hr := reach_dev s q.serial
  refine ⟨fun h => ⟨_, congrArg Host.Outcome.next (writeWord_takes h _), ?_⟩, fun hh hd hbe hun => ⟨_, congrArg Host.Outcome.next
    (writeWord_violates (ks := [3]) hh (by rw [hr]; cases q.serial <;> rfl) (by rw [hr, hbe]; exact judge_unoffered hl hd hun) _), ?_⟩⟩
  · obtain ⟨h1, h2, h3, h4⟩ := acceptWrite_kept (k := k) hu ((touch_devLocked ..).trans hl) q.val
    rw [hr]
    exact ⟨h1, h2, fun r o hk1 hk2 => (h3 r o hk1 hk2).trans (touch_reg ..), beside_trans (touch_beside s _) h4⟩
  · obtain ⟨hcnt, _, hinfo, hframe⟩ := violation_regs hu ((s.reach .dev q.serial).fn q.serial)
      (accessAddr ((s.reach .dev q.serial).fn q.serial) (s.reach .dev q.serial) (0x050 + 4 * k.val)) (pickKind [3]) true q.be
    refine ⟨fun r o ho hd => (hframe r o ho hd).trans (touch_reg ..), hcnt.trans (by rw [touch_fld]), fun ha => ?_⟩
    have hset := hinfo.trans (if_pos ((State.touch_violArmed ..).trans ha))
    exact (congrArg F.DEV_VIOL_INFO_KIND.get hset).trans (violInfo_kind ..)

/-! The lock (R58). -/

section
variable {s : State}

theorem healthyPin_reg_page (h : risingFrom 0 s.regs = true) {r : Page} {o : Nat} (hr : r ≠ .hlt) (ho : o < 4096) :
    s.healthyPin.reg r o = s.reg r o := by
  unfold State.healthyPin
  dsimp only
  have h1 (b : Bool) := setFlag_rising h .hlt F.HLT_HEALTHY_LEVEL b
  have h2 (b : Bool) : risingFrom 0 ((s.setFlag .hlt F.HLT_HEALTHY_LEVEL b).setStatus .hlt 16 b).regs = true :=
    setRegBit_rising (h1 b) _ _ _ _
  have hs (b : Bool) : (((s.setFlag .hlt F.HLT_HEALTHY_LEVEL b).setStatus .hlt 16 b).event .hlt 1).reg r o = s.reg r o := by
    rw [event_reg_page (h2 b) _ hr ho]
    exact (setReg_reg_page (h1 b) _ hr (by decide) ho).trans (setReg_reg_page h _ hr (by decide) ho)
  split
  · rfl
  split
  · exact hs _
  · rw [bump_reg_page (event_rising (h2 _) _ _) _ hr ho]
    exact hs _

theorem lockWrite_locks {p : Page} {w : Word} (hw : w.getLsbD 0 = true) (hl : s.devLocked = false)
    (hm : featuresMeet (s.reg .dev 0x050).toNat = true) (hrec : s.nvm.recovery = false) : lockWrite p w s =
    ((s.setFlag .dev F.DEV_FEAT_LOCK_LOCK true).setFlag .dev F.DEV_FEAT_STATUS_REFUSED false).healthyPin := by
  unfold lockWrite
  dsimp only
  rw [hw, hl, hm, hrec]
  rfl

theorem lockWrite_refuses {p : Page} {w : Word} (hw : w.getLsbD 0 = true) (hl : s.devLocked = false)
    (hm : featuresMeet (s.reg .dev 0x050).toNat = false) : lockWrite p w s = s.setFlag .dev F.DEV_FEAT_STATUS_REFUSED true := by
  unfold lockWrite
  dsimp only
  rw [hw, hl, hm]
  rfl

theorem lockWrite_kept {p : Page} {w : Word} (hu : risingFrom 0 s.regs = true) (hw : w.getLsbD 0 = true) (hl : s.devLocked = false)
    (hm : featuresMeet (s.reg .dev 0x050).toNat = true) (hrec : s.nvm.recovery = false) :
    (lockWrite p w s).devLocked = true ∧ (lockWrite p w s).flag .dev F.DEV_FEAT_STATUS_REFUSED = false ∧
    ∀ k, k < 4 → (lockWrite p w s).reg .dev (0x050 + 4 * k) = s.reg .dev (0x050 + 4 * k) := by
  have h1 := setFlag_rising hu .dev F.DEV_FEAT_LOCK_LOCK true
  have h2 := setFlag_rising h1 .dev F.DEV_FEAT_STATUS_REFUSED false
  have hp {o : Nat} (ho : o < 4096) : (lockWrite p w s).reg .dev o =
      ((s.setFlag .dev F.DEV_FEAT_LOCK_LOCK true).setFlag .dev F.DEV_FEAT_STATUS_REFUSED false).reg .dev o := by
    rw [lockWrite_locks hw hl hm hrec, healthyPin_reg_page h2 (by decide) ho]
  refine ⟨?_, ?_, fun k hk => ?_⟩
  · refine (flag_of_reg (hp (by decide))).trans ((flag_of_reg (setFld_reg_off h1 _ _ _ (by decide))).trans ?_)
    exact setFlag_flag_same hu _ _ _ (by decide) (by decide)
  · exact (flag_of_reg (hp (by decide))).trans (setFlag_flag_same h1 _ _ _ (by decide) (by decide))
  · rw [hp (by omega)]
    exact (setFld_reg_off h1 _ _ _ (show 0x050 + 4 * k ≠ 0x064 by omega)).trans
      (setFld_reg_off hu _ _ _ (show 0x050 + 4 * k ≠ 0x060 by omega))

end

/-- Settles O12: a complete set is locked, another refused, and a locked one stays. -/
theorem theLockTakesACompleteSet : Obligations.TheLockTakesACompleteSet := by
  intro q s hs hrec
  obtain ⟨_, hrise, _⟩ := hs
  have hu := touch_rising hrise ((s.reach .dev q.serial).fn q.serial)
  have hL := touch_devLocked s ((s.reach .dev q.serial).fn q.serial)
  have hA (k : Nat) := touch_reg s ((s.reach .dev q.serial).fn q.serial) .dev (0x050 + 4 * k)
  refine ⟨fun h hw hl hm => ⟨_, congrArg Host.Outcome.next (writeWord_takes h _), ?_⟩,
    fun h hw hl hm => ⟨_, congrArg Host.Outcome.next ((writeWord_takes h _).trans (lockWrite_refuses hw (hL.trans hl) ?_)), ?_⟩,
    fun k h hl => congrArg Host.Outcome.next ((writeWord_takes h _).trans (acceptWrite_locked (hL.trans hl) _ _ _))⟩
  · obtain ⟨h1, h2, h3⟩ := lockWrite_kept (p := s.reach .dev q.serial) hu hw (hL.trans hl) (by rw [touch_reg]; exact hm)
      ((congrArg Nvm.recovery (State.touch_nvm ..)).trans hrec)
    exact ⟨h1, h2, fun k hk => (h3 k hk).trans (hA k)⟩
  · rw [touch_reg]
    exact hm
  · refine ⟨?_, setFlag_flag_same hu _ _ _ (by decide) (by decide), fun r o hk => (setReg_reg_key hu _ hk).trans (touch_reg ..),
      beside_trans (touch_beside s _) (setFlag_beside ..)⟩
    exact (flag_of_reg (setFld_reg_off hu _ _ _ (by decide))).trans (hL.trans hl)

/-! The record of violations (R65). -/

theorem violClrWrite_kept {s : State} {p : Page} {w : Word} (hu : risingFrom 0 s.regs = true) (hw : w.getLsbD 0 = true) :
    (∀ o ∈ [0x068, 0x06C, 0x070], (violClrWrite p w s).reg .dev o = 0) ∧ (violClrWrite p w s).violArmed = true ∧
    (∀ r o, o < 0x1000 → (r = .dev → o < 0x068 ∨ 0x070 < o) → (violClrWrite p w s).reg r o = s.reg r o) ∧
    ({ s with violArmed := true } : State).Beside (violClrWrite p w s) := by
  have h1 := setReg_rising hu .dev 0x068 0
  have h2 := setReg_rising h1 .dev 0x06C 0
  have he : violClrWrite p w s = { ((s.setReg .dev 0x068 0).setReg .dev 0x06C 0).setReg .dev 0x070 0 with violArmed := true } := if_pos hw
  have hreg (r : Page) (o : Nat) : (violClrWrite p w s).reg r o = (((s.setReg .dev 0x068 0).setReg .dev 0x06C 0).setReg .dev 0x070 0).reg r o := by
    rw [he]
    rfl
  refine ⟨fun o ho => ?_, by rw [he], fun r o ho hd => ?_, by rw [he]; rfl⟩
  · rw [hreg]
    simp only [List.mem_cons, List.not_mem_nil, or_false] at ho
    rcases ho with rfl | rfl | rfl
    · rw [setReg_reg_off h2 _ _ (by decide), setReg_reg_off h1 _ _ (by decide), setReg_reg_same hu]
    · rw [setReg_reg_off h2 _ _ (by decide), setReg_reg_same h1]
    · rw [setReg_reg_same h2]
  · have hk {k : Nat} (h68 : 0x068 ≤ k) (h70 : k ≤ 0x070) : regKey r o ≠ regKey .dev k := fun hkey => by
      obtain ⟨hr, hok⟩ := regKey_inj ho (by omega) hkey
      have := hd hr
      omega
    rw [hreg, setReg_reg_key h2 _ (hk (by decide) (by decide)), setReg_reg_key h1 _ (hk (by decide) (by decide)),
      setReg_reg_key hu _ (hk (by decide) (by decide))]

/-- Settles O13: a violating word write is its violation after the touch of the access (`violation_regs`), and DEV_VIOL_CLR clears what
it left. -/
theorem violationsAreCountedAndTheFirstRecorded : Obligations.ViolationsAreCountedAndTheFirstRecorded := by
  refine ⟨fun q p0 off e ks s hs ho hh hb hj => ⟨_, (exec_writeRegister_reg ho hh).trans
    (congrArg Host.Outcome.next (writeWord_violates hh hb hj _)), ?_⟩,
    fun q s hs h hw => ⟨_, congrArg Host.Outcome.next (writeWord_takes h _), ?_⟩⟩
  · obtain ⟨_, hrise, _⟩ := hs
    have hu := touch_rising hrise ((s.reach p0 q.serial).fn q.serial)
    obtain ⟨hcnt, haddr, hinfo, hframe⟩ := violation_regs hu ((s.reach p0 q.serial).fn q.serial)
      (accessAddr ((s.reach p0 q.serial).fn q.serial) (s.reach p0 q.serial) off) (pickKind ks) true q.be
    rw [State.touch_violArmed, touch_reg] at haddr hinfo
    exact ⟨hcnt.trans (by rw [touch_fld]), violation_armed .., haddr, hinfo, fun r o ho hd => (hframe r o ho hd).trans (touch_reg ..),
      at_violation_beside ..⟩
  · obtain ⟨_, hrise, _⟩ := hs
    have hu := touch_rising hrise ((s.reach .dev q.serial).fn q.serial)
    obtain ⟨hzero, harmed, hframe, hbeside⟩ := violClrWrite_kept (p := s.reach .dev q.serial) hu hw
    exact ⟨hzero _ (by simp), hzero _ (by simp), hzero _ (by simp), harmed, fun r o ho hd => (hframe r o ho hd).trans (touch_reg ..),
      beside_trans (beside_setArmed (touch_beside s _) true) hbeside⟩

end Sys2Proof.Machine
end

section
/-! PROOF. Word reads of registers (R50, R56, R65): a read at a register's place, the latch of a pair, and the offered features. -/

namespace Sys2Proof.Machine

/-! Latches. -/

theorem latch_setLatch {s : State} (hl : s.latches.length = 11) (fn : Fn) (l : Latch) : (s.setLatch fn l).latch fn = l := by
  have hc : fn.code < s.latches.length := hl ▸ fn_code_lt fn
  simp [State.latch, State.setLatch, List.getD_eq_getElem?_getD, List.getElem?_set_self hc]

theorem endIdle_latch (s : State) (fn : Fn) : s.endIdle.latch fn = s.latch fn := by
  unfold State.latch
  rw [State.endIdle_latches]

/-- What a read that only answers, and sets or ends its reader's latch, leaves of the state. -/
theorem answered_frame (s : State) (fn : Fn) (l : Latch) (o : Out) :
    let t := (s.endIdle.setLatch fn l).emit o
    t = { s with out := t.out, latches := t.latches, pwr := { s.pwr with mode := t.pwr.mode } } := by
  rw [endIdle_eq]
  rfl

theorem answered_out (s : State) (fn : Fn) (l : Latch) (o : Out) : ((s.endIdle.setLatch fn l).emit o).out = s.out ++ [o] := by
  rw [endIdle_eq]
  rfl

theorem answered_latch {s : State} (hl : s.latches.length = 11) (fn : Fn) (l : Latch) (o : Out) :
    ((s.endIdle.setLatch fn l).emit o).latch fn = l :=
  latch_setLatch ((congrArg List.length (State.endIdle_latches s)).trans hl) fn l

/-! A word read at a register's place. -/

/-- A read that acts is answered with the register's data, after the access has ended IDLE. -/
theorem accessRead_reg {s : State} {q : RdReq} {p0 : Page} {off : Nat} (ho : off < 0x1000) (bad : Bool) (h : s.Gives q p0 off) :
    s.accessRead q bad (.reg p0 off) =
      (s.endIdle.readReg ((s.reach p0 q.serial).fn q.serial) q.serial bad (s.reach p0 q.serial) off).2.2.emit
        (.readData ((s.reach p0 q.serial).fn q.serial)
          (s.endIdle.readReg ((s.reach p0 q.serial).fn q.serial) q.serial bad (s.reach p0 q.serial) off).1
          (s.endIdle.readReg ((s.reach p0 q.serial).fn q.serial) q.serial bad (s.reach p0 q.serial) off).2.1) := by
  obtain ⟨hh, hb, hj⟩ := h
  refine (if_neg (by simp [hh])).trans ?_
  rw [target_reg s q.serial p0 ho]
  have hat : s.readAt q.serial (s.tenBarred q.serial) bad q.be (.page (s.reach p0 q.serial) off) =
      s.endIdle.readReg ((s.reach p0 q.serial).fn q.serial) q.serial bad (s.reach p0 q.serial) off := by
    unfold State.readAt
    dsimp only
    rw [tenBarred_page, hb, hj]
    rfl
  dsimp only
  rw [hat]
  rfl

/-- The registers whose read has an effect of its own. -/
def readActs (p : Page) (off : Nat) : Bool :=
  match p, off with
  | .mon _, 0x060 | .uart _, 0x060 | .ent, 0x048 | .pmx, 0x054 | .pmx, 0x058 => true
  | _, _ => false

/-- Every other register shows itself, under its pair's latch. -/
theorem readReg_plain (s : State) (fn : Fn) (serial bad : Bool) {p : Page} {off : Nat} (h : readActs p off = false) :
    s.readReg fn serial bad p off = match pairPlace p off with
      | none => (s.shown p serial off, false, s.setLatch fn ⟨none, 0, 0⟩)
      | some (low, k) =>
        let r := s.pairedRead fn (regKey p low) k (decide (p = .cph ∧ low = 0x058)) fun i => s.shown p serial (low + 4 * i)
        (r.1, false, r.2) := by
  unfold State.readReg
  split
  case h_6 => rfl
  all_goals cases h

theorem pairedRead_high (s : State) (fn : Fn) (key : Nat) (now : Nat → Word) : s.pairedRead fn key 1 false now =
    (if (s.latch fn).grp = some key then (s.latch fn).w1 else now 1, s.setLatch fn ⟨none, 0, 0⟩) := by
  unfold State.pairedRead
  dsimp only
  rw [if_neg (by decide)]
  split <;> rfl

/-! The words of a counter (R50). -/

theorem pairPlace_counter {p : Page} {i : Nat} (hi : i < nCounters p) :
    pairPlace p (cntOff i) = some (cntOff i, 0) ∧ pairPlace p (cntOff i + 4) = some (cntOff i, 1) := by
  have hc (d : Nat) (hd : d = 0 ∨ d = 4) : isCounterOff p (cntOff i + d) = true := by
    have : (cntOff i + d - 0x080) / 8 < nCounters p := by unfold cntOff; omega
    simp only [isCounterOff, Bool.and_eq_true, decide_eq_true_eq]
    exact ⟨⟨by unfold cntOff; omega, this⟩, by unfold cntOff; omega⟩
  constructor
  · refine (if_pos (hc 0 (.inl rfl))).trans ?_
    unfold cntOff
    congr 2 <;> omega
  · refine (if_pos (hc 4 (.inr rfl))).trans ?_
    unfold cntOff
    congr 2 <;> omega

/-- No counter word is one of the registers whose read has an effect. -/
theorem counter_plain (p : Page) (i d : Nat) : readActs p (cntOff i + d) = false := by
  unfold readActs cntOff
  split <;> first | rfl | omega

section
variable (s : State) (fn : Fn) (serial bad : Bool) {p : Page} {i : Nat} (hi : i < nCounters p)
include hi

theorem readReg_counter_low : s.readReg fn serial bad p (cntOff i) = (s.shown p serial (cntOff i), false,
    s.setLatch fn ⟨some (regKey p (cntOff i)), s.shown p serial (cntOff i + 4), s.shown p serial (cntOff i + 8)⟩) := by
  have hp : readActs p (cntOff i) = false := counter_plain p i 0
  rw [readReg_plain s fn serial bad hp, (pairPlace_counter hi).1]
  rfl

theorem readReg_counter_high : s.readReg fn serial bad p (cntOff i + 4) = (if (s.latch fn).grp = some (regKey p (cntOff i)) then
    (s.latch fn).w1 else s.shown p serial (cntOff i + 4), false, s.setLatch fn ⟨none, 0, 0⟩) := by
  have hne : ¬ (p = .cph ∧ cntOff i = 0x058) := by
    unfold cntOff
    omega
  rw [readReg_plain s fn serial bad (counter_plain p i 4), (pairPlace_counter hi).2]
  simp only [decide_eq_false hne, pairedRead_high]

end

/-- Settles O14: the two reads of a counter, by `readReg_counter_low` and `readReg_counter_high`. -/
theorem pairedReadsAreCoherent : Obligations.PairedReadsAreCoherent := by
  intro q p0 i bad s hs p fn hi
  obtain ⟨_, _, hl, _⟩ := hs
  have hle := nCounters_le p
  have hlow : cntOff i < 0x1000 := by unfold cntOff; omega
  have hhigh : cntOff i + 4 < 0x1000 := by unfold cntOff; omega
  refine ⟨fun h => ⟨_, congrArg Host.Outcome.next (accessRead_reg hlow bad h), ?_⟩,
    fun h => ⟨_, congrArg Host.Outcome.next (accessRead_reg hhigh bad h), ?_⟩⟩
  · rw [readReg_counter_low _ _ _ _ hi]
    exact ⟨answered_out .., congrArg Latch.grp (answered_latch hl ..), congrArg Latch.w1 (answered_latch hl ..), answered_frame ..⟩
  · rw [readReg_counter_high _ _ _ _ hi, endIdle_latch]
    exact ⟨answered_out .., congrArg Latch.grp (answered_latch hl ..), answered_frame ..⟩

/-! The offered features (R56). -/

section
variable (s : State) (fn : Fn) (serial bad : Bool) (k : Fin 4)

theorem offer_plain : pairPlace .dev (0x040 + 4 * k.val) = none ∧ readActs .dev (0x040 + 4 * k.val) = false ∧
    writeOnly .dev (0x040 + 4 * k.val) = 0 := by
  revert k
  decide

theorem shown_offer : s.shown .dev serial (0x040 + 4 * k.val) = if k.val = 0 then (if s.chip.is7236 then 0x00FFFFFF else 0x00FBFEF3) else 0 := by
  unfold State.shown
  rw [if_neg (by omega), (offer_plain k).2.2]
  match k with
  | 0 =>
    show BitVec.ofNat 32 s.offer &&& ~~~ 0 = if s.chip.is7236 then _ else _
    unfold State.offer
    split <;> rfl
  | 1 | 2 | 3 => exact (rfl : (0 : Word) &&& ~~~ 0 = 0)

theorem readReg_offer : s.readReg fn serial bad .dev (0x040 + 4 * k.val) =
    (s.shown .dev serial (0x040 + 4 * k.val), false, s.setLatch fn ⟨none, 0, 0⟩) := by
  rw [readReg_plain s fn serial bad (offer_plain k).2.1, (offer_plain k).1]

end

/-- Settles O15: the OFFER registers show the part's offer, and their read changes nothing else. -/
theorem theOfferReadsByPart : Obligations.TheOfferReadsByPart := by
  intro q k bad s h
  refine ⟨_, congrArg Host.Outcome.next (accessRead_reg (by omega) bad h), ?_⟩
  rw [reach_dev, readReg_offer, shown_offer, State.endIdle_chip]
  exact ⟨answered_out .., answered_frame ..⟩

end Sys2Proof.Machine
end

section
/-! PROOF. The serial host port (R416 to R421): its frames while the host interfaces work, and their rest while they do not. -/

namespace Sys2Proof.Machine

section
variable {s : State}

theorem hostOn_not (hh : s.hostOn = true) : ¬ (!s.hostOn) = true := by simp [hh]

theorem hostOff (hh : s.hostOn = false) : (!s.hostOn) = true := by simp [hh]

/-! The frames that read and write words. -/

theorem readFrame_on (hh : s.hostOn = true) (addr : Nat) (ws : List SerRead) (clocked : Nat) : s.readFrame addr ws clocked =
    (s.frameBegin.serialReads (s.tenBarred true) s.serialTenant (addr % 2 ^ 24) ws 0).2.emit
      (.serial ((s.frameBegin.serialReads (s.tenBarred true) s.serialTenant (addr % 2 ^ 24) ws 0).1.take clocked)) :=
  if_neg (hostOn_not hh)

theorem exec_shpReadyTimeout {addr : Nat} {ws : List SerRead} {w : SerRead} (hl : ws.getLast? = some w) (hw : 255 ≤ w.waits) :
    exec (.shpReadyTimeout addr ws) s = .next (s.readFrame addr ws (1000 * (ws.length + 1))) := by
  refine congrArg Host.Outcome.next ?_
  rw [hl]
  exact if_pos hw

/-- The words of a write frame, each at its address. -/
def State.serialWrites (s : State) (addr : Nat) (ws : List SerWrite) : State :=
  (ws.zipIdx).foldl (fun u e => u.serialWrite (s.tenBarred true) s.serialTenant (serialAddr (addr % 2 ^ 24) e.2) e.1) s.frameBegin

theorem writeFrame_on (hh : s.hostOn = true) (addr : Nat) (ws : List SerWrite) (part : Bool) : s.writeFrame addr ws part =
    if part then (s.serialWrites addr ws).serialMisaligned (s.tenBarred true)
      (serialTarget s.serialTenant (serialAddr (addr % 2 ^ 24) ws.length / 4 * 4)) (serialAddr (addr % 2 ^ 24) ws.length) true
    else s.serialWrites addr ws :=
  if_neg (hostOn_not hh)

/-! The frame's own count, and the frames that report. -/

theorem endIdle_counter (s : State) (p : Page) (i : Nat) : s.endIdle.counter p i = s.counter p i := by
  unfold State.counter
  rw [endIdle_reg, endIdle_reg]

theorem endIdle_cntEn (s : State) (p : Page) (i : Nat) : s.endIdle.cntEn p i = s.cntEn p i := by
  unfold State.cntEn
  rw [endIdle_reg]

theorem frameBegin_beside (s : State) : s.Beside s.frameBegin := beside_trans (endIdle_beside s) (bumpBy_beside ..)

theorem frameBegin_out (s : State) : s.frameBegin.out = s.out := (State.bumpBy_out ..).trans (State.endIdle_out s)

theorem beside_setIo {t : State} (h : s.Beside t) (io : HostIo) : ({ s with io := io } : State).Beside { t with io := io } := by
  unfold State.Beside at *
  rw [h]

/-- The held word is given up. -/
def State.dropHeld (s : State) : State := { s with io := { s.io with held := none } }

theorem exec_shpStatus (hh : s.hostOn = true) (n : Nat) :
    exec (.shpStatus n) s = .next (s.frameBegin.emit (.serial (List.replicate n s.frameBegin.shpByte))) :=
  congrArg Host.Outcome.next (if_neg (hostOn_not hh))

theorem exec_readHeld (hh : s.hostOn = true) (n : Nat) :
    exec (.readHeld n) s = .next (s.frameBegin.dropHeld.emit (.serial (([0xA5] ++ wordBytes (s.io.held.getD 0)).take n))) :=
  congrArg Host.Outcome.next (if_neg (hostOn_not hh))

theorem exec_shpBadCmd (hh : s.hostOn = true) : exec .shpBadCmd s = .next ((s.frameBegin.bump .shp 5).event .shp 1) :=
  congrArg Host.Outcome.next (if_neg (hostOn_not hh))

variable (h : risingFrom 0 s.regs = true)
include h

theorem endIdle_rising : risingFrom 0 s.endIdle.regs = true := by rwa [State.endIdle_regs]

theorem frameBegin_rising : risingFrom 0 s.frameBegin.regs = true := bump_rising (endIdle_rising h) _ _

theorem frameBegin_counter : s.frameBegin.counter .shp 0 =
    if s.cntEn .shp 0 then (s.counter .shp 0 + 1) % 2 ^ 48 else s.counter .shp 0 := by
  refine (bump_counter (endIdle_rising h) .shp 0).trans ?_
  rw [endIdle_cntEn, endIdle_counter]

theorem frameBegin_reg_page {r : Page} {o : Nat} (hr : r ≠ .shp) (ho : o < 0x1000) : s.frameBegin.reg r o = s.reg r o :=
  (bump_reg_page (endIdle_rising h) 0 hr ho).trans (endIdle_reg ..)

/-- An advance of one counter leaves the page's others alone, and which of them count. -/
theorem bump_counter_other (p : Page) {i j : Nat} (hij : j ≠ i) : (s.bump p i).counter p j = s.counter p j := by
  unfold State.bump State.bumpBy
  split
  · exact setCounter_counter_other h p _ hij
  · rfl

theorem bump_cntEn (p : Page) (i j : Nat) : (s.bump p i).cntEn p j = s.cntEn p j := by
  unfold State.cntEn
  rw [bump_reg_off h p i (by decide)]

theorem event_counter (p : Page) (i j : Nat) : (s.event p i).counter p j = s.counter p j := by
  unfold State.counter
  rw [event_reg_off h p i (by unfold cntOff offEvent; omega), event_reg_off h p i (by unfold cntOff offEvent; omega)]

theorem badCmd_counter : ((s.frameBegin.bump .shp 5).event .shp 1).counter .shp 5 =
    if s.cntEn .shp 5 then (s.counter .shp 5 + 1) % 2 ^ 48 else s.counter .shp 5 := by
  have h1 := endIdle_rising h
  have h2 := frameBegin_rising h
  have hen : s.frameBegin.cntEn .shp 5 = s.cntEn .shp 5 := (bump_cntEn h1 .shp 0 5).trans (endIdle_cntEn ..)
  have hcnt : s.frameBegin.counter .shp 5 = s.counter .shp 5 := (bump_counter_other h1 .shp (by decide)).trans (endIdle_counter ..)
  rw [event_counter (bump_rising h2 _ _), bump_counter h2, hen, hcnt]

end

/-- Settles O21: what each frame does while the host interfaces work, and that none of the three that report does anything while they do
not. -/
theorem serialFramesReadWriteAndReport : Obligations.SerialFramesReadWriteAndReport := by
  refine ⟨fun addr ws clocked s hh => ?_, fun addr ws s hh => ?_, fun n s hs => ⟨fun hh => ?_, fun hh => ?_⟩⟩
  · have hr (c : Nat) := congrArg (Host.Outcome.next (φ := Fault) (ρ := Refusal)) (readFrame_on hh addr ws c)
    exact ⟨hr clocked, hr clocked, fun w hl hw => (exec_shpReadyTimeout hl hw).trans (hr _)⟩
  · have hw (l : List SerWrite) (part : Bool) := congrArg (Host.Outcome.next (φ := Fault) (ρ := Refusal)) (writeFrame_on hh addr l part)
    exact ⟨hw ws false, hw ws false, hw ws true, hw [] false⟩
  · obtain ⟨_, hrise, _⟩ := hs
    have hf := frameBegin_rising hrise
    have h5 := bump_rising hf .shp 5
    refine ⟨⟨_, exec_shpStatus hh n, ?_, frameBegin_counter hrise, fun r o ho hr => frameBegin_reg_page hrise hr ho,
        beside_trans (frameBegin_beside s) (emit_beside ..)⟩,
      ⟨_, exec_readHeld hh n, ?_, ?_, fun r o ho hr => frameBegin_reg_page hrise hr ho,
        beside_trans (beside_setIo (frameBegin_beside s) _) (emit_beside ..)⟩,
      ⟨_, exec_shpBadCmd hh, event_bit h5 .shp (by decide) (by decide), badCmd_counter hrise, fun r o ho hr => ?_,
        beside_trans (frameBegin_beside s) (beside_trans (bumpBy_beside ..) (event_beside ..))⟩⟩
    · exact congrArg (· ++ _) (frameBegin_out s)
    · exact congrArg (fun io : HostIo => { io with held := none }) (beside_io (frameBegin_beside s))
    · exact congrArg (· ++ _) (frameBegin_out s)
    · rw [event_reg_page h5 _ hr ho, bump_reg_page hf _ hr ho, frameBegin_reg_page hrise hr ho]
  · have hoff := hostOff hh
    exact ⟨congrArg Host.Outcome.next (if_pos hoff), congrArg Host.Outcome.next (if_pos hoff), congrArg Host.Outcome.next (if_pos hoff)⟩

end Sys2Proof.Machine
end

section
/-! PROOF. The functions' settings and messages (R68 to R71, R412 to R415): what configuration software sets, and the routes of events. -/

namespace Sys2Proof.Machine

/-! The functions (R412 to R415). -/

/-- A function with new settings, and the messages that they let it send. -/
def State.setFnFlags (s : State) (fn : Nat) (bme d3 msixEn : Bool) : State :=
  (s.setFn fn { s.fnState fn with bme := bme, d3 := d3, msixEn := msixEn }).flushMsix fn

section
variable {s : State}

theorem linkOff_not (hp : s.pageOn .hif = true) (hu : s.io.link.up = true) : ¬ (!s.pageOn .hif || !s.io.link.up) = true := by
  simp [hp, hu]

/-- BME_CHANGE: a tenant's function that may read again issues its reads (R412). -/
theorem exec_bmeChange (hp : s.pageOn .hif = true) (hu : s.io.link.up = true) (fn : Fin 9) (bme d3 msixEn : Bool) :
    exec (.bmeChange fn bme d3 msixEn) s = .next (
      if fn.val ≠ 0 && !s.dmaOk (Fin.ofNat 8 (fn.val - 1)) && (s.setFnFlags fn.val bme d3 msixEn).dmaOk (Fin.ofNat 8 (fn.val - 1)) then
        ((s.setFnFlags fn.val bme d3 msixEn).readAgain (Fin.ofNat 8 (fn.val - 1))).issueFetch
      else s.setFnFlags fn.val bme d3 msixEn) := by
  refine congrArg Host.Outcome.next (if_neg ?_)
  exact linkOff_not hp hu

theorem tenantOf_succ (t : Fin 8) : Fin.ofNat 8 (t.succ.val - 1) = t := by
  revert t
  decide

theorem exec_bmeChange_manager (hp : s.pageOn .hif = true) (hu : s.io.link.up = true) (bme d3 msixEn : Bool) :
    exec (.bmeChange 0 bme d3 msixEn) s = .next (s.setFnFlags 0 bme d3 msixEn) := by
  rw [exec_bmeChange hp hu]
  rfl

theorem exec_bmeChange_tenant (hp : s.pageOn .hif = true) (hu : s.io.link.up = true) (t : Fin 8) (bme d3 msixEn : Bool) :
    exec (.bmeChange t.succ bme d3 msixEn) s = .next (if !s.dmaOk t && (s.setFnFlags t.succ.val bme d3 msixEn).dmaOk t then
      ((s.setFnFlags t.succ.val bme d3 msixEn).readAgain t).issueFetch else s.setFnFlags t.succ.val bme d3 msixEn) := by
  rw [exec_bmeChange hp hu, tenantOf_succ]
  simp

theorem exec_msixUnmask (hp : s.pageOn .hif = true) (hu : s.io.link.up = true) (fn : Fin 9) (vec : Fin 64) (mask : Bool) :
    exec (.msixUnmask fn vec mask) s = .next ((s.setFn fn.val { s.fnState fn.val with
      unmasked := setBitOf (s.fnState fn.val).unmasked vec.val (!mask) }).flushMsix fn.val) := by
  refine congrArg Host.Outcome.next (if_neg ?_)
  exact linkOff_not hp hu

theorem exec_pcieRequestNoBar (hp : s.pageOn .hif = true) (hu : s.io.link.up = true) (n : Nat) :
    exec (.pcieRequestNoBar n) s = .next (s.emit (.unsupported n)) :=
  congrArg Host.Outcome.next (if_pos (by simp [hp, hu]))

theorem exec_pcieFlr_manager (hp : s.pageOn .hif = true) : exec (.pcieFlr 0) s = .next ((s.event .hif 1).fnReset 0) :=
  congrArg Host.Outcome.next (if_neg (by simp [hp]))

theorem exec_pcieFlr_tenant (hp : s.pageOn .hif = true) (t : Fin 8) :
    exec (.pcieFlr t.succ) s = .next (((s.event .hif 1).startTenantReset t).fnReset (t.val + 1)) := by
  refine congrArg Host.Outcome.next ((if_neg (by simp [hp])).trans ?_)
  dsimp only
  rw [dif_pos (show 0 < t.succ.val from Nat.succ_pos t.val)]
  rfl

end

/-! The routes of events (R71). -/

/-- The messages of the vectors of a list that a change from `s` makes asserted. -/
def State.sendRisen (s t : State) (l : List Nat) : State :=
  l.foldl (fun t v => if t.vecAsserted 0 v && !s.vecAsserted 0 v then t.msix 0 v else t) t

theorem routeWrite_eq (off : Nat) (p : Page) (w : Word) (s : State) :
    routeWrite off p w s = s.sendRisen (applyWrite p off w s) (List.range 64) := rfl

theorem sendRisen_regs (s : State) : ∀ (l : List Nat) (t : State), (s.sendRisen t l).regs = t.regs
  | [], _ => rfl
  | v :: l, t => by
    refine (sendRisen_regs s l _).trans ?_
    dsimp only
    split
    · exact State.msix_regs ..
    · rfl

theorem sendRisen_beside (s t : State) (l : List Nat) : t.Beside (s.sendRisen t l) :=
  foldl_beside (fun u v => by
    split
    · exact msix_beside ..
    · exact beside_refl u) l t

/-- Settles O23: the settings of a function through `exec_bmeChange`, a route through what its messages leave unchanged. -/
theorem functionsAndVectorsSendTheirMessages : Obligations.FunctionsAndVectorsSendTheirMessages := by
  refine ⟨fun fn s hp => ⟨fun hu => ⟨fun bme d3 msixEn => ⟨?_, fun t ht => ⟨?_, ?_⟩⟩, fun vec mask => exec_msixUnmask hp hu fn vec mask,
    exec_pcieRequestNoBar hp hu⟩, ?_, fun t ht => ?_⟩, fun q k s hs h => ?_⟩
  · rintro rfl
    exact exec_bmeChange_manager hp hu bme d3 msixEn
  · subst ht
    intro h
    refine (exec_bmeChange_tenant hp hu t bme d3 msixEn).trans (congrArg Host.Outcome.next (if_neg ?_))
    rcases h with h | h
    · simp [h]
    · exact fun hc => absurd ((Bool.and_eq_true _ _).mp hc).2 (by rw [State.setFnFlags, h]; decide)
  · subst ht
    intro h1 h2
    refine (exec_bmeChange_tenant hp hu t bme d3 msixEn).trans (congrArg Host.Outcome.next (if_pos ?_))
    rw [h1, State.setFnFlags, h2]
    rfl
  · rintro rfl
    exact exec_pcieFlr_manager hp
  · subst ht
    exact exec_pcieFlr_tenant hp t
  · have hr := reach_dev s q.serial
    have hst : s.Stores (writeWord q .dev (routeOff k.val) (routeWrite (routeOff k.val)) s) .dev (routeOff k.val)
        (s.written .dev (routeOff k.val) q.val) := by
      refine writeWord_stores hs h ?_ ?_
      · rw [hr, routeWrite_eq, sendRisen_regs, applyWrite, touch_written]
      · rw [hr, routeWrite_eq]
        exact beside_trans (setReg_beside ..) (sendRisen_beside ..)
    exact ⟨_, rfl, hst⟩

end Sys2Proof.Machine
end

section
/-! PROOF. Clocks and DRAM (R458 to R461): each command where its premises hold. -/

namespace Sys2Proof.Machine

/-! What a training reads of the accepted set after it has failed. The statement asks for it in every state, so that these laws do not
rest on the rising order of the register file: a store's entry that a read finds stands before every higher key that is written. -/

section
variable {V : Type}

theorem storeGet_ins_below (e : V) {i k : Nat} (v : V) (h : i < k) : ∀ m : Store V, storeGet e (storeIns m k v) i = storeGet e m i
  | [] => by simp [storeIns, storeGet, h, Nat.ne_of_lt h]
  | (a, w) :: r => by
    unfold storeIns
    split
    · rename_i hk
      subst hk
      simp [storeGet, h, Nat.ne_of_lt h]
    · split
      · rename_i hka
        have hia := Nat.lt_trans h hka
        simp [storeGet, h, Nat.ne_of_lt h, hia, Nat.ne_of_lt hia]
      · simp only [storeGet, storeGet_ins_below e v h r]

/-- An entry that a read finds hides the removal of a higher key from every read up to it. -/
theorem storeGet_del_listed {d : V} (e : V) {i j k : Nat} (hij : i ≤ j) (hjk : j < k) : ∀ {m : Store V}, storeGet d m j ≠ d →
    storeGet e (storeDel m k) i = storeGet e m i
  | [], _ => rfl
  | (a, w) :: r, hj => by
    have haj : a ≤ j := by
      refine Nat.le_of_not_lt fun hlt => hj ?_
      simp [storeGet, hlt, Nat.ne_of_lt hlt]
    have hdel : storeDel ((a, w) :: r) k = (a, w) :: storeDel r k := by
      have hne : ¬ k = a := by omega
      have hge : ¬ k < a := by omega
      simp [storeDel, hne, hge]
    rw [hdel]
    by_cases hia : i ≤ a
    · rcases Nat.eq_or_lt_of_le hia with rfl | hlt
      · simp [storeGet]
      · simp [storeGet, hlt, Nat.ne_of_lt hlt]
    · have hne : ¬ i = a := by omega
      have hge : ¬ i < a := by omega
      have hjne : ¬ j = a := by omega
      have hjge : ¬ j < a := by omega
      have hr : storeGet d r j ≠ d := by simpa [storeGet, hjne, hjge] using hj
      simp [storeGet, hne, hge, storeGet_del_listed e hij hjk hr]

theorem storeGet_put_listed [DecidableEq V] {d d' : V} (e : V) {i j k : Nat} {v : V} {m : Store V} (hij : i ≤ j) (hjk : j < k)
    (hj : storeGet d m j ≠ d) : storeGet e (storePut d' m k v) i = storeGet e m i := by
  unfold storePut
  split
  · exact storeGet_del_listed e hij hjk hj
  · exact storeGet_ins_below e v (Nat.lt_of_le_of_lt hij hjk) m

end

/-- The registers of DEV up to DEV_FEAT_LOCK, the accepted set among them, read the same. -/
def State.LockKept (s t : State) : Prop := ∀ i, i ≤ 0x060 → t.reg .dev i = s.reg .dev i

section
variable {s t u : State}

theorem State.LockKept.refl (s : State) : s.LockKept s := fun _ _ => rfl

theorem State.LockKept.trans (h : s.LockKept t) (k : t.LockKept u) : s.LockKept u := fun i hi => (k i hi).trans (h i hi)

theorem State.LockKept.locked (h : s.LockKept t) : t.devLocked = s.devLocked := flag_of_reg (h _ (by decide))

theorem State.LockKept.feat (h : s.LockKept t) (k : Nat) : t.feat k = s.feat k := by
  unfold State.feat State.accepted
  rw [h.locked, h 0x050 (by decide)]

theorem State.LockKept.of_regs (h : s.LockKept u) (hr : t.regs = u.regs) : s.LockKept t := fun i hi => (reg_of_regs hr _ i).trans (h i hi)

/-- While the set is locked, a store to a higher page leaves the accepted set. -/
theorem lockKept_setReg (hl : s.devLocked = true) {p : Page} {o : Nat} (w : Word) (hk : 0x060 < regKey p o) :
    s.LockKept (s.setReg p o w) := by
  intro i hi
  have hset : s.reg .dev 0x060 ≠ resetWord .dev 0x060 := fun h0 => by
    unfold State.devLocked State.flag State.fld at hl
    rw [show F.DEV_FEAT_LOCK_LOCK.off = 0x060 from rfl, h0] at hl
    exact absurd hl (by decide)
  have hkey (o : Nat) : regKey .dev o = o := Nat.zero_add o
  unfold State.reg State.setReg at *
  rw [hkey] at hset ⊢
  exact storeGet_put_listed _ hi hk hset

theorem pwr_above (o : Nat) : 0x060 < regKey .pwr o := by
  show 0x060 < 0x0001000 + o
  omega

theorem lockKept_event (hl : s.devLocked = true) (i : Nat) : s.LockKept (s.event .pwr i) :=
  (lockKept_setReg hl _ (pwr_above _)).of_regs (setEvents_regs .pwr (onesAt i 1))

theorem lockKept_faultNote (hl : s.devLocked = true) (i d : Nat) : s.LockKept (s.faultNote .pwr i d) := by
  unfold State.faultNote
  split
  · exact lockKept_setReg hl _ (pwr_above _)
  · exact .refl s

theorem lockKept_fault (hl : s.devLocked = true) (i d : Nat) : s.LockKept (s.fault .pwr i d) := by
  rw [fault_set]
  split
  · have h1 := lockKept_faultNote hl i d
    have h2 : s.LockKept ((s.faultNote .pwr i d).setRegBit .pwr offFault i true) :=
      h1.trans (lockKept_setReg (h1.locked.trans hl) _ (pwr_above _))
    exact h2.trans (lockKept_event (h2.locked.trans hl) 0)
  · exact .refl s

theorem lockKept_setDram (hl : s.devLocked = true) (x : Dram) : s.LockKept (s.setDram x) := by
  have h0 : s.LockKept (s.setPwr { s.pwr with dram := x }) := (State.LockKept.refl s).of_regs rfl
  have h1 (b : Bool) : s.LockKept ((s.setPwr { s.pwr with dram := x }).setStatus .pwr 16 b) :=
    h0.trans (lockKept_setReg (h0.locked.trans hl) _ (pwr_above _))
  unfold State.setDram State.dramStatus
  dsimp only
  split
  · exact (h1 _).trans (lockKept_event ((h1 _).locked.trans hl) 1)
  · exact h1 _

end

section
variable {s : State}

/-! The clocks. -/

theorem exec_xtal32Fail (hm : s.pwr.mode ≠ .off) (hx : s.pwr.clk.xtal32 = true) (hs : s.pwr.mode ≠ .slumber) :
    exec .xtal32Fail s = .next ((((s.setClk { s.pwr.clk with xtal32 := false }).fault .clk 3 0).event .clk 4).bump .clk 1) :=
  congrArg Host.Outcome.next ((if_neg (by simp [hm, hx])).trans (if_neg fun h => hs h.1))

theorem exec_xtal32Restore (hm : s.pwr.mode ≠ .off) (hx : s.pwr.clk.xtal32 = false) :
    exec .xtal32Restore s = .next ((s.setClk { s.pwr.clk with xtal32 := true }).event .clk 3) :=
  congrArg Host.Outcome.next (if_neg (by simp [hm, hx]))

/-- The device reset that a lost REFCLK or a lost lock of SYSPLL brings (R460). -/
theorem exec_refclkLoss (hr : s.running = true) (pll : Bool) : exec (.refclkLoss pll) s =
    .next ((if pll then s.lockLost else (s.setClk { s.pwr.clk with refclk := false }).event .clk 1).devReset 8) :=
  congrArg Host.Outcome.next (if_neg (by simp [hr]))

theorem exec_cnvpllUnlock (hr : s.running = true) (hl : s.pwr.clk.cnvLock = true) :
    exec .cnvpllUnlock s = .next ((((List.finRange 8).foldl (fun s m => s.monSilent m)
      ((s.setClk { s.pwr.clk with cnvLock := false }).lockLost)).endAllRx).portsRemove) :=
  congrArg Host.Outcome.next (if_neg (by simp [hr, hl]))

theorem exec_cnvpllRelock (hr : s.running = true) :
    exec .cnvpllRelock s = .next (s.setClk { s.pwr.clk with cnvLock := true }) :=
  congrArg Host.Outcome.next (if_pos hr)

theorem exec_drampllUnlock (hl : s.pwr.clk.drmLock = true) : exec .drampllUnlock s =
    .next (((s.setClk { s.pwr.clk with drmLock := false }).lockLost).setDram
      { ((s.setClk { s.pwr.clk with drmLock := false }).lockLost).pwr.dram with trained := false }) :=
  congrArg Host.Outcome.next (if_neg (by simp [hl]))

theorem exec_drampllRelock (hr : s.running = true) (hd : s.dom 5 = .on) :
    exec .drampllRelock s = .next (s.setClk { s.pwr.clk with drmLock := true }) :=
  congrArg Host.Outcome.next (if_pos (by simp [hr, hd]))

/-! The training of DRAM. -/

/-- The conditions under which a training of DRAM runs (R461, R62). -/
def State.trains (s : State) : Prop :=
  s.devLocked = true ∧ (s.feat 8 = true ∨ s.feat 18 = true) ∧ s.running = true ∧ s.dom 5 = .on ∧ s.stageShed 3 = false ∧
    s.pwr.dram.trained = false ∧ s.pwr.clk.drmLock = true

/-- A training has failed: a fault of PWR. -/
def State.trainFailed (s : State) : State := (s.setDram { s.pwr.dram with trainFail := true }).fault .pwr 4 0

theorem exec_dramTrainDone (h : s.trains) (ok : Bool) (mib : Nat) : exec (.dramTrainDone ok mib) s =
    .next (if ok && decide (s.chip.dramMib ≠ 0) then
      s.setDram { s.pwr.dram with trained := true, trainFail := false, sizeMib := mib % 2 ^ 13 }
    else if s.feat 8 then s.trainFailed.fault .dir 2 0 else s.trainFailed) := by
  obtain ⟨hl, hf, hr, hd, hs, ht, hc⟩ := h
  have hf' : (s.feat 8 || s.feat 18) = true := by simpa using hf
  refine congrArg Host.Outcome.next (if_neg ?_)
  simp [hl, hf', hr, hd, hs, ht, hc]

theorem trainFailed_feat (hl : s.devLocked = true) (k : Nat) : s.trainFailed.feat k = s.feat k := by
  have h1 := lockKept_setDram hl { s.pwr.dram with trainFail := true }
  exact (h1.trans (lockKept_fault (h1.locked.trans hl) 4 0)).feat k

end

/-- Settles O53, clause by clause; that a failed training is judged by the accepted set after its fault as before it is
`trainFailed_feat`. -/
theorem clocksAndDramAreWatched : Obligations.ClocksAndDramAreWatched := by
  refine ⟨fun s => ⟨exec_xtal32Fail, exec_xtal32Restore, fun hr => ⟨exec_refclkLoss hr true, exec_refclkLoss hr false⟩, exec_cnvpllUnlock,
    exec_cnvpllRelock, exec_drampllUnlock, exec_drampllRelock⟩, fun mib s hl hf hr hd hs ht hc => ?_⟩
  have h : s.trains := ⟨hl, hf, hr, hd, hs, ht, hc⟩
  refine ⟨fun hm => (exec_dramTrainDone h true mib).trans (congrArg Host.Outcome.next (if_pos (by simp [hm]))), ?_⟩
  refine (exec_dramTrainDone h false mib).trans (congrArg Host.Outcome.next ?_)
  rw [← trainFailed_feat hl]
  rfl

end Sys2Proof.Machine
end

section
/-! PROOF. The limits that NP_VDRV, NP_LEDGER_CAP and CH_SHARE hold (R81, R89, R90, R93). -/

namespace Sys2Proof.Machine

/-- The manager's pages of the ports and of the channels are the same pages over the serial host port (R47). -/
theorem reach_np (s : State) (n : Fin 12) (serial : Bool) : s.reach (.np n) serial = .np n := by
  cases serial <;> rfl

theorem reach_ch (s : State) (c : Fin 64) (serial : Bool) : s.reach (.ch c) serial = .ch c := by
  cases serial <;> rfl

/-! The flag CLAMPED. -/

/-- Flag CLAMPED where a value was brought into range. -/
def State.noteClamped (s : State) (p : Page) (b : Bool) : State :=
  if b then s.setFlag p F.NP_LEDGER_USE_CLAMPED true else s

theorem noteClamped_beside (s : State) (p : Page) (b : Bool) : s.Beside (s.noteClamped p b) := by
  cases b
  · exact beside_refl s
  · exact setFlag_beside ..

section
variable {s : State} (h : risingFrom 0 s.regs = true) {p : Page}
include h

theorem noteClamped_flag {b : Bool} (hb : b = true) : (s.noteClamped p b).flag p F.NP_LEDGER_USE_CLAMPED = true := by
  subst hb
  exact setFlag_flag_same h _ _ _ (by decide) (by decide)

theorem noteClamped_reg_key {r : Page} {o : Nat} (b : Bool) (hk : regKey r o ≠ regKey p F.NP_LEDGER_USE_CLAMPED.off) :
    (s.noteClamped p b).reg r o = s.reg r o := by
  cases b
  · rfl
  · exact setReg_reg_key h _ hk

theorem noteClamped_fld {f : Fld} (b : Bool) (hf : f.off ≠ F.NP_LEDGER_USE_CLAMPED.off) : (s.noteClamped p b).fld p f = s.fld p f :=
  congrArg f.get (noteClamped_reg_key h b (by unfold regKey; omega))

end

/-! `NP_VDRV` (R81). -/

theorem clampN_le {lo hi : Nat} (h : lo ≤ hi) (v : Nat) : clampN lo hi v ≤ hi := max_le h (min_le_left ..)

theorem vdrvWrite_eq (p : Page) (w : Word) (s : State) : vdrvWrite p w s =
    (s.setFld p F.NP_VDRV_SET (clampN 120 480 (F.NP_VDRV_SET.get w))).noteClamped p
      (decide (clampN 120 480 (F.NP_VDRV_SET.get w) ≠ F.NP_VDRV_SET.get w)) := by
  unfold vdrvWrite State.noteClamped
  simp only [decide_eq_true_eq, ite_not]

section
variable {s : State} (h : risingFrom 0 s.regs = true) (p : Page) (w : Word)
include h

theorem vdrvWrite_set : (vdrvWrite p w s).fld p F.NP_VDRV_SET = clampN 120 480 (F.NP_VDRV_SET.get w) := by
  have hle := clampN_le (show 120 ≤ 480 by decide) (F.NP_VDRV_SET.get w)
  rw [vdrvWrite_eq, noteClamped_fld (setFld_rising h _ _ _) _ (by decide), setFld_fld_same h _ _ _ (by decide)]
  exact Nat.mod_eq_of_lt (Nat.lt_of_le_of_lt hle (by decide))

theorem vdrvWrite_clamped (hc : clampN 120 480 (F.NP_VDRV_SET.get w) ≠ F.NP_VDRV_SET.get w) :
    (vdrvWrite p w s).flag p F.NP_LEDGER_USE_CLAMPED = true := by
  rw [vdrvWrite_eq]
  exact noteClamped_flag (setFld_rising h _ _ _) (decide_eq_true hc)

theorem vdrvWrite_reg_key {r : Page} {o : Nat} (h1 : regKey r o ≠ regKey p 0x0C0)
    (h2 : regKey r o ≠ regKey p F.NP_LEDGER_USE_CLAMPED.off) : (vdrvWrite p w s).reg r o = s.reg r o := by
  rw [vdrvWrite_eq, noteClamped_reg_key (setFld_rising h _ _ _) _ h2]
  exact setReg_reg_key h _ h1

end

theorem vdrvWrite_beside (p : Page) (w : Word) (s : State) : s.Beside (vdrvWrite p w s) := by
  rw [vdrvWrite_eq]
  exact beside_trans (setFld_beside ..) (noteClamped_beside ..)

/-! `NP_LEDGER_CAP` (R89). -/

theorem ledgerCap_cleared {rated : Bool} {old hs : Nat} (v : Nat) (h : rated = true ∧ hs = 0 ∧ 6000 < old) :
    ledgerCap rated old (decide (hs = 1)) v = (6000, true) := by
  obtain ⟨rfl, rfl, hold⟩ := h
  exact if_pos (by simp [hold])

theorem ledgerCap_kept {rated : Bool} {old hs : Nat} (v : Nat) (hs2 : hs < 2) (h : ¬ (rated = true ∧ hs = 0 ∧ 6000 < old)) :
    ledgerCap rated old (decide (hs = 1)) v = (min v (if rated = true ∧ hs = 1 then 8000 else 6000),
      decide (min v (if rated = true ∧ hs = 1 then 8000 else 6000) ≠ v)) := by
  have hc : ¬ (rated && !decide (hs = 1) && decide (6000 < old)) = true := by
    simp only [Bool.and_eq_true, Bool.not_eq_true', decide_eq_false_iff_not, decide_eq_true_eq]
    rintro ⟨⟨hr, h1⟩, hold⟩
    exact h ⟨hr, by omega, hold⟩
  unfold ledgerCap
  rw [if_neg hc]
  simp only [Bool.and_eq_true, decide_eq_true_eq]

/-- The cap that a written word leaves, and whether it was brought into range. -/
def State.capAfter (s : State) (p : Page) (w : Word) : Nat × Bool :=
  ledgerCap (s.flag p F.NP_LEDGER_CAP_HS_RATED) (s.fld p F.NP_LEDGER_CAP_CAP_MW) (decide (F.NP_LEDGER_CAP_HS_RATED.get w = 1))
    (F.NP_LEDGER_CAP_CAP_MW.get w)

theorem ledgerCapWrite_eq (p : Page) (w : Word) (s : State) : ledgerCapWrite p w s =
    ((s.setFld p F.NP_LEDGER_CAP_HS_RATED (F.NP_LEDGER_CAP_HS_RATED.get w)).setFld p F.NP_LEDGER_CAP_CAP_MW
      (s.capAfter p w).1).noteClamped p (s.capAfter p w).2 := rfl

theorem ledgerCap_le (rated : Bool) (old : Nat) (hs : Bool) (v : Nat) : (ledgerCap rated old hs v).1 ≤ 8000 := by
  unfold ledgerCap
  split
  · exact (by decide : 6000 ≤ 8000)
  · dsimp only
    split <;> omega

theorem touch_capAfter (s : State) (fn : Fn) (p : Page) (w : Word) : (s.touch fn).capAfter p w = s.capAfter p w := by
  simp only [State.capAfter, touch_flag, touch_fld]

section
variable {s : State} (h : risingFrom 0 s.regs = true) (p : Page) (w : Word)
include h

theorem ledgerCapWrite_rated :
    (ledgerCapWrite p w s).fld p F.NP_LEDGER_CAP_HS_RATED = F.NP_LEDGER_CAP_HS_RATED.get w := by
  have h1 := setFld_rising h p F.NP_LEDGER_CAP_HS_RATED (F.NP_LEDGER_CAP_HS_RATED.get w)
  rw [ledgerCapWrite_eq, noteClamped_fld (setFld_rising h1 _ _ _) _ (by decide),
    setFld_fld_bits h1 p F.NP_LEDGER_CAP_CAP_MW F.NP_LEDGER_CAP_HS_RATED _ rfl (by decide) (by decide), setFld_fld_same h _ _ _ (by decide)]
  exact Nat.mod_mod _ _

theorem ledgerCapWrite_cap : (ledgerCapWrite p w s).fld p F.NP_LEDGER_CAP_CAP_MW = (s.capAfter p w).1 := by
  have h1 := setFld_rising h p F.NP_LEDGER_CAP_HS_RATED (F.NP_LEDGER_CAP_HS_RATED.get w)
  have hle : (s.capAfter p w).1 ≤ 8000 := ledgerCap_le ..
  rw [ledgerCapWrite_eq, noteClamped_fld (setFld_rising h1 _ _ _) _ (by decide), setFld_fld_same h1 _ _ _ (by decide)]
  exact Nat.mod_eq_of_lt (Nat.lt_of_le_of_lt hle (by decide))

theorem ledgerCapWrite_clamped (hc : (s.capAfter p w).2 = true) :
    (ledgerCapWrite p w s).flag p F.NP_LEDGER_USE_CLAMPED = true := by
  rw [ledgerCapWrite_eq]
  exact noteClamped_flag (setFld_rising (setFld_rising h _ _ _) _ _ _) hc

theorem ledgerCapWrite_reg_key {r : Page} {o : Nat} (h1 : regKey r o ≠ regKey p 0x0C8)
    (h2 : regKey r o ≠ regKey p F.NP_LEDGER_USE_CLAMPED.off) : (ledgerCapWrite p w s).reg r o = s.reg r o := by
  have hr := setFld_rising h p F.NP_LEDGER_CAP_HS_RATED (F.NP_LEDGER_CAP_HS_RATED.get w)
  rw [ledgerCapWrite_eq, noteClamped_reg_key (setFld_rising hr _ _ _) _ h2]
  exact (setReg_reg_key hr _ h1).trans (setReg_reg_key h _ h1)

end

theorem ledgerCapWrite_beside (p : Page) (w : Word) (s : State) : s.Beside (ledgerCapWrite p w s) := by
  rw [ledgerCapWrite_eq]
  exact beside_trans (beside_trans (setFld_beside ..) (setFld_beside ..)) (noteClamped_beside ..)

/-! The commands, where their access acts. -/

section
variable {s : State} {q : Req}

theorem exec_vdrvSet (h : s.Takes q (.np 0) 0x0C0) :
    exec (.vdrvSet q) s = .next (vdrvWrite (.np 0) q.val (s.at_ (.np 0) q.serial)) := by
  refine congrArg Host.Outcome.next ((writeWord_takes h _).trans ?_)
  rw [reach_np]

theorem exec_ledgerCapWrite (h : s.Takes q (.np 0) 0x0C8) :
    exec (.ledgerCapWrite q) s = .next (ledgerCapWrite (.np 0) q.val (s.at_ (.np 0) q.serial)) := by
  refine congrArg Host.Outcome.next ((writeWord_takes h _).trans ?_)
  rw [reach_np]

/-- A write of `CH_SHARE` stores its word (R90). -/
theorem shareWrite_stores {c : Fin 64} (hs : s.Wf) (h : s.Takes q (.ch c) 0x054) :
    s.Stores (writeWord q (.ch c) 0x054 (applyWrite · 0x054) s) (.ch c) 0x054 (s.written (.ch c) 0x054 q.val) := by
  refine writeWord_stores hs h ?_ (setReg_beside ..)
  rw [reach_ch, applyWrite, touch_written]

end

/-- Settles O24: the setpoint through the lemmas on `vdrvWrite`, the cap through those on `ledgerCapWrite` and the two cases of
`ledgerCap`, and the share as the store of one word. -/
theorem portLimitsAreClamped : Obligations.PortLimitsAreClamped := by
  intro q s hs
  have ⟨_, hrise, _⟩ := hs
  have hu := touch_rising hrise ((s.reach (.np 0) q.serial).fn q.serial)
  have hb := touch_beside s ((s.reach (.np 0) q.serial).fn q.serial)
  refine ⟨fun h => ⟨_, exec_vdrvSet h, vdrvWrite_set hu _ _, vdrvWrite_clamped hu _ _, fun r o h1 h2 => ?_,
    beside_trans hb (vdrvWrite_beside ..)⟩, fun h => ⟨_, exec_ledgerCapWrite h, ledgerCapWrite_rated hu _ _, fun hc => ?_, fun hc => ?_,
    fun r o h1 h2 => ?_, beside_trans hb (ledgerCapWrite_beside ..)⟩, fun c h => ?_⟩
  · rw [vdrvWrite_reg_key hu _ _ h1 h2, touch_reg]
  · have hcap : s.capAfter (.np 0) q.val = (6000, true) := ledgerCap_cleared _ hc
    exact ⟨by rw [ledgerCapWrite_cap hu, touch_capAfter, hcap], ledgerCapWrite_clamped hu _ _ (by rw [touch_capAfter, hcap])⟩
  · have hcap : s.capAfter (.np 0) q.val = _ := ledgerCap_kept _ (Nat.mod_lt _ (by decide)) hc
    rw [ledgerCapWrite_cap hu, touch_capAfter, hcap]
    exact ⟨rfl, fun hne => ledgerCapWrite_clamped hu _ _ (by rw [touch_capAfter, hcap]; exact decide_eq_true hne)⟩
  · rw [ledgerCapWrite_reg_key hu _ _ h1 h2, touch_reg]
  · exact ⟨_, rfl, shareWrite_stores hs h⟩

end Sys2Proof.Machine
end

section
/-! PROOF. VDRV is watched, and a port is cut, tripped and removed by its current, its amplifier and its temperature (R79, R81, R83, R95). -/

namespace Sys2Proof.Machine

section
variable {s : State}

/-! VDRV (R81). -/

theorem exec_vdrvSettled {meas : Nat} (hd : s.dom 18 = .on) (hlo : 95 * s.vdrvSet ≤ 100 * meas) (hhi : 100 * meas ≤ 105 * s.vdrvSet) :
    exec (.vdrvSettled meas) s =
      .next (((({ s with line := { s.line with drvOk := true, uv := false } } : State).setFld (.np 0) F.NP_VDRV_STAT_MEAS meas).setFlag
        (.np 0) F.NP_VDRV_STAT_IN_REG true).event (.np 0) 6) :=
  congrArg Host.Outcome.next (if_pos (by simp [hd, hlo, hhi]))

theorem exec_vdrvUv {meas : Nat} (hd : s.dom 18 = .on) (hok : s.line.drvOk = true) (hlo : 100 * meas < 90 * s.vdrvSet) :
    exec (.vdrvUv meas) s =
      .next ((List.range 16).foldl (fun u p => u.fault (portPage p) 7 1)
        ((({ s with line := { s.line with uv := true } } : State).setFld (.np 0) F.NP_VDRV_STAT_MEAS meas).setFlag (.np 0)
          F.NP_VDRV_STAT_IN_REG false)) :=
  congrArg Host.Outcome.next (if_pos (by simp [hd, hok, hlo]))

/-! A port's driver and amplifier (R79, R83, R95). -/

/-- A transmitting port whose symbol is cut by its current limit. -/
def State.symbolLimited (s : State) (p : Nat) : State :=
  (s.setPort p { s.port p with cut := true, ocpRun := (s.port p).ocpRun + 1 }).emit (.cutSymbol p)

/-- A transmitting port whose amplifier has tripped, and is released. -/
def State.paTripped (s : State) (p : Fin 12) : State :=
  (((s.setPort p.val { s.port p.val with tripped := true, tripRun := (s.port p.val).tripRun + 1, pa := none }).emit
    (.paOff p.val)).emit (.cutSlot p.val)).bump (.np p) 7

/-- A port whose driver is above 155 °C, with the largest temperature that the thermal page keeps. -/
def State.driverHot (s : State) (p : Nat) (temp : Int) : State :=
  let u := s.setPort p { s.port p with hot := temp }
  { u with pwr := { u.pwr with thm := { u.pwr.thm with drvMax := max u.pwr.thm.drvMax temp } } }

theorem exec_drvCurrentLimit {p : Fin 16} (ht : (s.port p.val).txCh.isSome = true) (hc : (s.port p.val).cut = false) :
    exec (.drvCurrentLimit p) s = .next (if 3 ≤ (s.port p.val).ocpRun + 1 then
      (s.symbolLimited p.val).portFault p.val 2 ((s.port p.val).ocpRun + 1) 0 else s.symbolLimited p.val) := by
  have hn : ¬ ((s.port p.val).txCh.isNone || (s.port p.val).cut) = true := by
    rw [hc, Bool.or_false, Option.isNone_iff_eq_none]
    exact Option.isSome_iff_ne_none.mp ht
  exact congrArg Host.Outcome.next (if_neg hn)

theorem exec_paTrip {p : Fin 12} {mv : Nat} (hx : s.extPa p.val = true) (ht : (s.port p.val).txCh.isSome = true)
    (hn : (s.port p.val).tripped = false) (hv : 4 * s.fld (.np p) F.NP_PA_ILIM < mv) :
    exec (.paTrip p mv) s = .next (if 3 ≤ (s.port p.val).tripRun + 1 then
      (s.paTripped p).portFault p.val 6 ((s.port p.val).tripRun + 1) 0 else s.paTripped p) :=
  congrArg Host.Outcome.next (if_pos (by simp [hx, ht, hn, hv]))

theorem exec_drvThermal {p : Fin 16} {temp : Int} (ht : 1240 < temp) (hf : s.faulted (portPage p.val) 3 = false) :
    exec (.drvThermal p temp) s = .next (((s.driverHot p.val temp).portFault p.val 3 1 0).event .thm 1) := by
  have hf' : ¬ (s.driverHot p.val temp).faulted (portPage p.val) 3 = true := Bool.eq_false_iff.mp hf
  exact congrArg Host.Outcome.next ((if_pos ht).trans (if_neg hf'))

end

/-- Settles O25, clause by clause: in the case that each clause describes, the command takes the one branch that acts. -/
theorem supplyAndPortsAreProtected : Obligations.SupplyAndPortsAreProtected :=
  ⟨fun _ _ hd => ⟨exec_vdrvSettled hd, exec_vdrvUv hd⟩, fun _ => ⟨fun _ => exec_drvCurrentLimit, fun _ _ => exec_paTrip,
    fun _ _ => exec_drvThermal⟩⟩

end Sys2Proof.Machine
end

section
/-! PROOF. Decoding and reception (R104, R112, R113, R138, R162 to R164) and the symbols of a transmission (R92): the branches of each
command, and how one is chosen. -/

namespace Sys2Proof.Machine

/-- What `decodeRan` tests, as the statement writes it. -/
theorem decodeRan_iff (j : Job) (iters : Nat) :
    decodeRan j iters = true ↔ 1 ≤ iters ∧ iters ≤ j.limit ∧ decodeTurns iters (decodeCycles j) ≤ j.ran := decide_eq_true_iff

/-- A Decode job has come to its end, and the Decode station has counted it. -/
def State.decodeEnded (s : State) (j : Job) : State := (s.endJob j.id true).bump (stnPage 5) 0

/-! A data codeword (R163). -/

/-- The checks of a data codeword, under the code that its job's frame control declares for it. -/
def codewordOk (j : Job) (k : Nat) (info parity : List Nat) : Bool :=
  let f := Fc.decode j.fc
  ldpcOk (if f.div = 0 then f.rate else 0) (liftZ ((fcLongs f).getD k false)) info parity

/-- Codeword `k` of a frame is accepted: counted, entered in its link's record, and noted among the accepted ones of the frame. -/
def State.codewordPassed (s : State) (c k : Nat) (j : Job) : State :=
  let u := ((s.decodeEnded j).bump (.spx 0) 7).cwStat j true
  let x := u.chan c
  u.setChan c { x with passed := (j.slot, (if x.passed.1 = j.slot then x.passed.2 else []) ++ [k]) }

section
variable {c : Fin 64} {k iters : Nat} {info parity : List Nat} {resid : List (Nat × Samples)} {cells : List CellObs} {j : Job} {s : State}
variable (hj : s.line.spx.jobs.find? (fun j => decide (j.chan = c.val ∧ j.kind = .dataDecode ∧ j.idx = k) && j.lane.isSome) = some j)
include hj

theorem exec_decodeDone : exec (.decodeDone c k iters info parity resid cells) s = .next (
    if !decodeRan j iters then s
    else if codewordOk j k info parity then
      ((s.codewordPassed c.val k j).residLearn c.val j.slot (Fc.decode j.fc) resid).ddEstimate c.val j.slot (Fc.decode j.fc) cells
    else if j.limit ≤ iters then (((s.decodeEnded j).bump (.spx 0) 6).cwStat j false).unreserve c.val
    else s) := by
  change execDecodeDone c k iters info parity resid cells s = _
  simp only [execDecodeDone, hj]
  rfl

theorem exec_decodeDone_accepted (hran : decodeRan j iters = true) (hok : codewordOk j k info parity = true) :
    exec (.decodeDone c k iters info parity resid cells) s =
      .next (((s.codewordPassed c.val k j).residLearn c.val j.slot (Fc.decode j.fc) resid).ddEstimate c.val j.slot
        (Fc.decode j.fc) cells) := by
  simp [exec_decodeDone hj, hran, hok]

theorem exec_decodeDone_failed (hran : decodeRan j iters = true) (hok : codewordOk j k info parity = false) (hlim : j.limit ≤ iters) :
    exec (.decodeDone c k iters info parity resid cells) s =
      .next ((((s.decodeEnded j).bump (.spx 0) 6).cwStat j false).unreserve c.val) := by
  simp [exec_decodeDone hj, hran, hok, hlim]

theorem exec_decodeDone_goesOn (hok : codewordOk j k info parity = false) (hlim : iters < j.limit) :
    exec (.decodeDone c k iters info parity resid cells) s = .next s := by
  simp [exec_decodeDone hj, hok, Nat.not_le.mpr hlim]

theorem exec_decodeDone_notRan (hran : decodeRan j iters = false) : exec (.decodeDone c k iters info parity resid cells) s = .next s := by
  simp [exec_decodeDone hj, hran]

end

/-! SY1 (R104, R188). -/

/-- The corridor time at a place within the slot in progress. -/
def State.instant (s : State) (frac : Nat) : Nat := s.slot * 2 ^ 20 + frac % 2 ^ 20

/-- An SY1 on a channel at a corridor time begins a reception: the channel searches, neither receives nor transmits one way, and has a
port to receive on. -/
def State.hearsSy1 (s : State) (c : Nat) (cfg : List Word) (at_ : Nat) : Bool :=
  let x := s.chan c
  s.searches c cfg at_ && !s.rxNow c && (x.tx.isNone || x.fd || x.split) && (s.servicePorts cfg != [])

/-- The frame whose SY1 is detected in the slot in progress, at a corridor time. -/
def State.sy1Frame (s : State) (c : Nat) (cfg : List Word) (at_ np : Nat) : RxFrame :=
  ⟨s.slot - (if s.sync then (s.entryAt c cfg s.slot).pos else 0), (s.chan c).ty, at_, none,
    if s.sync then s.setAt c cfg s.slot else s.searchSet cfg, np + 1, 0, [], [], [], [], []⟩

/-- A frame's reception begins on a channel; in a SOUND slot the record of the sounding begins with it. -/
def State.beginRx (s : State) (c at_ : Nat) (r : RxFrame) : State :=
  let x := s.chan c
  ({ s with ct := at_ } : State).setChan c
    { (if x.ty = tySound then { x with snd := some (r.slot, []) } else x) with frozen := true, rx := some r }

theorem hearsSy1_of_searches {s : State} {c at_ : Nat} {cfg : List Word} (hs : s.searches c cfg at_ = true) (hr : s.rxNow c = false)
    (ht : (s.chan c).tx = none ∨ (s.chan c).fd = true ∨ (s.chan c).split = true) (hp : s.servicePorts cfg ≠ []) :
    s.hearsSy1 c cfg at_ = true := by
  simpa [State.hearsSy1, hs, hr, hp, or_assoc] using ht

theorem hearsSy1_outside {s : State} {c at_ : Nat} {cfg : List Word} (hs : s.searches c cfg at_ = false) :
    s.hearsSy1 c cfg at_ = false := by
  simp [State.hearsSy1, hs]

section
variable {c : Fin 64} {cfg : List Word} {s : State} {frac : Nat} {np : Fin 4}
variable (hl : s.live c.val = some cfg)
include hl

theorem exec_sy1Detect : exec (.sy1Detect c frac np) s = .next (if s.hearsSy1 c.val cfg (s.instant frac) then
    s.beginRx c.val (s.instant frac) (s.sy1Frame c.val cfg (s.instant frac) np.val) else s) := by
  change execSy1Detect c frac np s = _
  simp only [execSy1Detect, hl]
  rfl

theorem exec_sy1Detect_begins (hs : s.searches c.val cfg (s.instant frac) = true) (hr : s.rxNow c.val = false)
    (ht : (s.chan c.val).tx = none ∨ (s.chan c.val).fd = true ∨ (s.chan c.val).split = true) (hp : s.servicePorts cfg ≠ []) :
    exec (.sy1Detect c frac np) s =
      .next (s.beginRx c.val (s.instant frac) (s.sy1Frame c.val cfg (s.instant frac) np.val)) := by
  rw [exec_sy1Detect hl, if_pos (hearsSy1_of_searches hs hr ht hp)]

theorem exec_sy1Detect_ignored (hs : s.searches c.val cfg (s.instant frac) = false) : exec (.sy1Detect c frac np) s = .next s := by
  rw [exec_sy1Detect hl, if_neg (Bool.eq_false_iff.mp (hearsSy1_outside hs))]

end

/-! Frame control (R112, R113, R163, R225). -/

/-- The checks of the codeword of a frame control. -/
def fcOk (bits : Nat) (parity : List Nat) : Bool := ldpcOk 0 48 (toBlocks 48 12 (bitsOf 120 bits)) parity

/-- The codeword of a frame control is accepted and counted. -/
def State.fcPassed (s : State) (j : Job) : State := (s.decodeEnded j).bump (.spx 0) 7

/-- A reception ends for its frame control, and the channel counts it. -/
def State.fcDropped (s : State) (c : Fin 64) : State := (s.bump (.ch c) 2).endRx c.val

/-- A frame control is kept for the frame in reception. -/
def State.keepFc (s : State) (c w : Nat) (r : RxFrame) : State := s.setChan c { s.chan c with rx := some { r with fc := some w } }

/-- The encode work of the next REEL slot after a frame's is reserved for a flood that goes on (R225). -/
def State.reserveReel (s : State) (c : Nat) (cfg : List Word) (r : RxFrame) : State :=
  s.setChan c { s.chan c with reserve := s.nextReel c cfg r.slot }

/-- The map that a frame control names is held. -/
def State.mapKnown (s : State) (c : Nat) (f : Fc) : Bool := decide (f.tmapId = 0) || (s.rxMap? c f.tmapId).isSome

/-- The fields of a frame control hold for the frame in reception (R113). -/
def State.fcHolds (s : State) (c : Nat) (cfg : List Word) (slot : Nat) (f : Fc) : Bool :=
  f.wellFormed && decide (f.dataSyms ≤ (s.symbolsAt c cfg slot).1) && decide (f.netid = cfgGet cfg F.CH_CFG_NETID) &&
    (decide (f.ftype = 3) || !s.mapKnown c f || s.codewordsFit c cfg slot f)

theorem mapKnown_default {s : State} {c : Nat} {f : Fc} (h : f.tmapId = 0) : s.mapKnown c f = true := by simp [State.mapKnown, h]

section
variable {s : State} {c slot : Nat} {cfg : List Word} {f : Fc}

theorem fcHolds_of_fits (hw : f.wellFormed = true)
    (hd : f.dataSyms ≤ (s.symbolsAt c cfg slot).1) (hn : f.netid = cfgGet cfg F.CH_CFG_NETID)
    (hfit : f.ftype = 3 ∨ s.codewordsFit c cfg slot f = true) : s.fcHolds c cfg slot f = true := by
  rcases hfit with hfit | hfit <;> simp [State.fcHolds, hw, hd, hn, hfit]

theorem fcHolds_refuses (h : f.wellFormed = false ∨ (s.symbolsAt c cfg slot).1 < f.dataSyms ∨ f.netid ≠ cfgGet cfg F.CH_CFG_NETID) :
    s.fcHolds c cfg slot f = false := by
  rcases h with h | h | h
  · simp [State.fcHolds, h]
  · simp [State.fcHolds, Nat.not_le.mpr h]
  · simp [State.fcHolds, h]

end

section
variable {c : Fin 64} {cfg : List Word} {s : State} {bits iters : Nat} {parity : List Nat} {r : RxFrame} {j : Job} {w : Nat}
variable (hl : s.live c.val = some cfg) (hr : (s.chan c.val).rx = some r)
  (hj : s.line.spx.jobs.find? (fun j => decide (j.chan = c.val ∧ j.kind = .fcDecode) && j.lane.isSome) = some j)
  (hran : decodeRan j iters = true)
include hl hr hj hran

theorem exec_fcDecode_unchecked (hok : fcOk bits parity = false) : exec (.fcDecode c bits iters parity) s =
    .next (if j.limit ≤ iters then ((s.decodeEnded j).bump (.spx 0) 6).fcDropped c else s) := by
  unfold fcOk at hok
  change execFcDecode c bits iters parity s = _
  simp only [execFcDecode, hr, hl, hj, hran, hok, Bool.not_true, Bool.not_false, Bool.false_eq_true, if_true, if_false]
  rfl

theorem exec_fcDecode_failed (hok : fcOk bits parity = false) (hlim : j.limit ≤ iters) :
    exec (.fcDecode c bits iters parity) s = .next (((s.decodeEnded j).bump (.spx 0) 6).fcDropped c) := by
  rw [exec_fcDecode_unchecked hl hr hj hran hok, if_pos hlim]

theorem exec_fcDecode_goesOn (hok : fcOk bits parity = false) (hlim : iters < j.limit) :
    exec (.fcDecode c bits iters parity) s = .next s := by
  rw [exec_fcDecode_unchecked hl hr hj hran hok, if_neg (Nat.not_le.mpr hlim)]

theorem exec_fcDecode_unreadable (hok : fcOk bits parity = true) (hw : fcReceived bits = none) :
    exec (.fcDecode c bits iters parity) s = .next ((s.fcPassed j).fcDropped c) := by
  unfold fcOk at hok
  change execFcDecode c bits iters parity s = _
  simp only [execFcDecode, hr, hl, hj, hran, hok, hw, Bool.not_true, Bool.false_eq_true, if_false]
  rfl

theorem exec_fcDecode_refused (hok : fcOk bits parity = true) (hw : fcReceived bits = some w)
    (hf : s.fcHolds c.val cfg r.slot (Fc.decode w) = false) :
    exec (.fcDecode c bits iters parity) s = .next ((s.fcPassed j).fcDropped c) := by
  unfold fcOk at hok
  unfold State.fcHolds State.mapKnown at hf
  change execFcDecode c bits iters parity s = _
  simp only [execFcDecode, hr, hl, hj, hran, hok, hw, hf, Bool.not_true,
    Bool.false_eq_true, if_false]
  rfl

/-- With its map held, a frame control that holds is kept; one of a flood with hops left reserves encode work first. -/
theorem exec_fcDecode_kept (hok : fcOk bits parity = true) (hw : fcReceived bits = some w)
    (hf : s.fcHolds c.val cfg r.slot (Fc.decode w) = true) (hm : s.mapKnown c.val (Fc.decode w) = true) :
    exec (.fcDecode c bits iters parity) s = .next ((if r.ty = tyReel ∧ (Fc.decode w).ttl ≠ 0 then
      ((s.fcPassed j).bump (.ch c) 1).reserveReel c.val cfg r else (s.fcPassed j).bump (.ch c) 1).keepFc c.val w r) := by
  unfold fcOk at hok
  simp only [State.fcHolds, hm, Bool.not_true] at hf
  unfold State.mapKnown at hm
  change execFcDecode c bits iters parity s = _
  simp only [execFcDecode, hr, hl, hj, hran, hok, hw, hm, hf, Bool.not_true, Bool.false_eq_true, if_true,
    if_false]
  rfl

theorem exec_fcDecode_kept_last (hok : fcOk bits parity = true) (hw : fcReceived bits = some w)
    (hf : s.fcHolds c.val cfg r.slot (Fc.decode w) = true) (hm : s.mapKnown c.val (Fc.decode w) = true)
    (ht : r.ty ≠ tyReel ∨ (Fc.decode w).ttl = 0) :
    exec (.fcDecode c bits iters parity) s = .next (((s.fcPassed j).bump (.ch c) 1).keepFc c.val w r) := by
  have hn : ¬ (r.ty = tyReel ∧ (Fc.decode w).ttl ≠ 0) := fun h => ht.elim (absurd h.1) h.2
  rw [exec_fcDecode_kept hl hr hj hran hok hw hf hm, if_neg hn]

theorem exec_fcDecode_kept_relayed (hok : fcOk bits parity = true) (hw : fcReceived bits = some w)
    (hf : s.fcHolds c.val cfg r.slot (Fc.decode w) = true) (hm : s.mapKnown c.val (Fc.decode w) = true)
    (hty : r.ty = tyReel) (ht : (Fc.decode w).ttl ≠ 0) :
    exec (.fcDecode c bits iters parity) s =
      .next ((((s.fcPassed j).bump (.ch c) 1).reserveReel c.val cfg r).keepFc c.val w r) := by
  rw [exec_fcDecode_kept hl hr hj hran hok hw hf hm, if_pos ⟨hty, ht⟩]

end

/-! The transmit side of a symbol boundary (R92). -/

/-- A transmission's symbol has ended on its ports, and it is at its next one, with the seam pilot that stands before it. -/
def State.nextSymbol (s : State) (c : Nat) (cfg : List Word) (x : Tx) : State :=
  let v := (List.range 16).foldl (fun s p => if (s.port p).txCh = some c then
    (if x.sym = 0 then s else s.symbolCut p).portBoundary p else s) s
  (v.setChan c { v.chan c with tx := some { x with sym := x.sym + 1 } }).sendSeam c cfg x x.sym

/-- The energy of a symbol enters the account of a sleeper (R280). -/
def State.addSymbolEnergy (s : State) (cfg : List Word) : State :=
  s.addEnergy (s.useMw * 1000 * Sys2Proof.Machine.symNs (cfgGet cfg F.CH_CFG_NUMER) (cfgGet cfg F.CH_CFG_CP))

section
variable {s : State} {c : Nat} {cfg : List Word} {x : Tx} {loads : List PortLoad}
variable (hx : x.sym < x.syms)
include hx

theorem txBoundary_late (h : x.late.contains x.sym = true) : s.txBoundary c cfg x loads = s.nextSymbol c cfg x :=
  (if_neg (Nat.not_le.mpr hx)).trans (if_pos h)

/-- A symbol that is not late is sent, or muted where no gain fits; either way its gain and its energy are accounted. -/
theorem txBoundary_gain (h : x.late.contains x.sym = false) :
    s.txBoundary c cfg x loads =
      (State.symbolGain (if (s.nextSymbol c cfg x).ownLoads c loads != [] &&
          ((s.nextSymbol c cfg x).gainFor c ((s.nextSymbol c cfg x).ownLoads c loads)).isNone
        then s.nextSymbol c cfg x else (s.nextSymbol c cfg x).sendSymbol c cfg x x.sym) c x.sym loads).addSymbolEnergy cfg :=
  (if_neg (Nat.not_le.mpr hx)).trans (if_neg (Bool.eq_false_iff.mp h))

theorem txBoundary_sent (h : x.late.contains x.sym = false) (hg : (s.nextSymbol c cfg x).ownLoads c loads = [] ∨
      ((s.nextSymbol c cfg x).gainFor c ((s.nextSymbol c cfg x).ownLoads c loads)).isSome = true) :
    s.txBoundary c cfg x loads =
      (((s.nextSymbol c cfg x).sendSymbol c cfg x x.sym).symbolGain c x.sym loads).addSymbolEnergy cfg := by
  rw [txBoundary_gain hx h, if_neg]
  rcases hg with hg | hg
  · simp [hg]
  · simp [Option.isSome_iff_ne_none.mp hg]

theorem txBoundary_muted (h : x.late.contains x.sym = false) (ho : (s.nextSymbol c cfg x).ownLoads c loads ≠ [])
    (hg : (s.nextSymbol c cfg x).gainFor c ((s.nextSymbol c cfg x).ownLoads c loads) = none) :
    s.txBoundary c cfg x loads = ((s.nextSymbol c cfg x).symbolGain c x.sym loads).addSymbolEnergy cfg := by
  rw [txBoundary_gain hx h, if_pos]
  simp [ho, hg]

end

/-- Before its frame control is known, a reception takes in the symbol that has ended and goes on to the next, and no link counts it. -/
theorem rxBoundary_without_fc {s : State} {c : Nat} {cfg : List Word} {r : RxFrame} {rx : List RxPort} (h : r.fc = none) :
    s.rxBoundary c cfg r rx =
      let v := (s.rxSymbol c cfg r rx).addRxJobs c cfg r
      v.setChan c { v.chan c with rx := (v.chan c).rx.map fun y => { y with sym := y.sym + 1 } } := by
  simp only [State.rxBoundary, h, Option.bind_none]

/-! The symbol boundary of a channel. -/

theorem atFrac_eq (s : State) (frac : Nat) : { s with ct := s.slot * 2 ^ 20 + frac % 2 ^ 20 } = s.atFrac frac := rfl
@[simp] theorem atFrac_live (s : State) (frac c : Nat) : (s.atFrac frac).live c = s.live c := rfl
@[simp] theorem atFrac_chan (s : State) (frac c : Nat) : (s.atFrac frac).chan c = s.chan c := rfl

/-- The train of a frame has ended, and the allowance after it (R104). -/
def State.rxPast (s : State) (c : Nat) (cfg : List Word) (r : RxFrame) : Bool :=
  s.sync && decide ((r.slot + (s.entryAt c cfg r.slot).len) * 2 ^ 20 + s.nsToCt (cfgAllow cfg) < s.ct)

theorem rxPast_iff (s : State) (c : Nat) (cfg : List Word) (r : RxFrame) : s.rxPast c cfg r = true ↔
    s.sync = true ∧ (r.slot + (s.entryAt c cfg r.slot).len) * 2 ^ 20 + s.nsToCt (cfgAllow cfg) < s.ct := by
  rw [State.rxPast, Bool.and_eq_true, decide_eq_true_iff]

section
variable {c : Fin 64} {frac : Nat} {loads : List PortLoad} {rx : List RxPort} {cfg : List Word} {s : State} {x : Tx} {r : RxFrame}
variable (hl : s.live c.val = some cfg)
include hl

theorem exec_symbolBoundary_tx (hx : (s.chan c.val).tx = some x) :
    exec (.symbolBoundary c frac true loads rx) s = .next ((s.atFrac frac).txBoundary c.val cfg x loads) := by
  change execSymbolBoundary c frac true loads rx s = _
  simp only [execSymbolBoundary, atFrac_eq, atFrac_live, atFrac_chan, hl, hx, if_true]

theorem exec_symbolBoundary_rx (hr : (s.chan c.val).rx = some r) :
    exec (.symbolBoundary c frac false loads rx) s = .next (if (s.atFrac frac).rxPast c.val cfg r then s.atFrac frac else
      (s.atFrac frac).rxBoundary c.val cfg r rx) := by
  change execSymbolBoundary c frac false loads rx s = _
  simp only [execSymbolBoundary, atFrac_eq, atFrac_live, atFrac_chan, hl, hr, Bool.false_eq_true, if_false]
  rfl

theorem exec_symbolBoundary_takesIn (hr : (s.chan c.val).rx = some r) (hp : ¬ (s.atFrac frac).rxPast c.val cfg r = true) :
    exec (.symbolBoundary c frac false loads rx) s = .next ((s.atFrac frac).rxBoundary c.val cfg r rx) := by
  rw [exec_symbolBoundary_rx hl hr, if_neg hp]

theorem exec_symbolBoundary_past (hr : (s.chan c.val).rx = some r) (hp : (s.atFrac frac).rxPast c.val cfg r = true) :
    exec (.symbolBoundary c frac false loads rx) s = .next (s.atFrac frac) := by
  rw [exec_symbolBoundary_rx hl hr, if_pos hp]

end

/-- Settles O30, command by command: each clause is the branch that the command takes where the clause's premises hold. -/
theorem framesAndCodewordsAreReceived : Obligations.FramesAndCodewordsAreReceived := by
  refine ⟨fun c k iters info parity resid cells j s hj => ?_, fun c cfg s hl => ⟨fun frac np => ?_, ?_⟩,
    fun c frac loads rx cfg s hl => ⟨fun x hx hsym => ?_, fun r hr => ?_⟩⟩
  · exact ⟨fun hran => exec_decodeDone_accepted hj ((decodeRan_iff ..).mpr hran),
      fun hran => exec_decodeDone_failed hj ((decodeRan_iff ..).mpr hran), fun _ => exec_decodeDone_goesOn hj,
      fun hran => exec_decodeDone_notRan hj (Bool.eq_false_iff.mpr fun h => hran ((decodeRan_iff ..).mp h))⟩
  · exact ⟨exec_sy1Detect_begins hl, exec_sy1Detect_ignored hl⟩
  · intro bits iters parity r j hr hj h1 hlim hturns
    have hran : decodeRan j iters = true := (decodeRan_iff j iters).mpr ⟨h1, hlim, hturns⟩
    refine ⟨exec_fcDecode_failed hl hr hj hran, exec_fcDecode_goesOn hl hr hj hran, exec_fcDecode_unreadable hl hr hj hran,
      fun w hok hw => ⟨fun hwf hd hn hm hfit => ?_, fun h => exec_fcDecode_refused hl hr hj hran hok hw (fcHolds_refuses h)⟩⟩
    have hf := fcHolds_of_fits hwf hd hn hfit
    exact ⟨exec_fcDecode_kept_last hl hr hj hran hok hw hf (mapKnown_default hm),
      exec_fcDecode_kept_relayed hl hr hj hran hok hw hf (mapKnown_default hm)⟩
  · have ht := exec_symbolBoundary_tx (frac := frac) (loads := loads) (rx := rx) hl hx
    exact ⟨fun h => ht.trans (congrArg _ (txBoundary_late hsym h)), fun h hg => ht.trans (congrArg _ (txBoundary_sent hsym h hg)),
      fun h ho hg => ht.trans (congrArg _ (txBoundary_muted hsym h ho hg))⟩
  · have hp := rxPast_iff (s.atFrac frac) c.val cfg r
    exact ⟨fun hn hfc => (exec_symbolBoundary_takesIn hl hr (mt hp.mp hn)).trans (congrArg _ (rxBoundary_without_fc hfc)),
      fun hn => exec_symbolBoundary_takesIn hl hr (mt hp.mp hn), fun h => exec_symbolBoundary_past hl hr (hp.mpr h)⟩

end Sys2Proof.Machine
end

section
/-! PROOF. Tone maps proposed and settled (R129, R152, R154): the answers to a proposal, and what a status report makes of a link's maps. -/

namespace Sys2Proof.Machine

/-! A proposal received by the transmitter of a link (R154). -/

/-- The identifiers of the maps that a link's transmitter holds. -/
def Link5.txIds (l : Link5) : List Nat :=
  (l.tx.cur.toList ++ (l.tx.prev.map (·.1)).toList ++ (l.tx.pend.map (·.1)).toList).map (·.id)

/-- A proposal's precoding record fits its map and its channel (R129). -/
def precRecordFits (cfg : List Word) (p : Proposal) : Bool :=
  precFits (cfgGet cfg F.CH_CFG_NUMER) (cfgGet cfg F.CH_BAND_M_LO) (cfgGet cfg F.CH_BAND_M_HI) p.tmapId p.ports p.streams p.prec

/-- A channel with one precoding record more that was at fault. -/
def State.countBadRecord (s : State) (c : Nat) : State := s.setChan c { s.chan c with precBad := (s.chan c).precBad + 1 }

/-- A link's proposal is refused for its shape, and the refusal announced. -/
def State.refuseShape (s : State) (c : Fin 64) (p : Proposal) : State :=
  (s.sendStatus c.val p.peer p.tmapId p.adoptSf 2 2).event (.ch c) 19

section
variable {c : Fin 64} {p : Proposal} {cfg : List Word} {s : State} (hl : s.live c.val = some cfg)
include hl

theorem exec_tmapProposalRx_held (hh : (s.link c.val p.peer).txIds.contains p.tmapId = true) : exec (.tmapProposalRx c p) s =
    .next (s.sendStatus c.val p.peer (((s.link c.val p.peer).tx.cur.map (·.id)).getD 0) p.adoptSf 3 0) := by
  change execTmapProposalRx c p s = _
  unfold execTmapProposalRx
  rw [hl]
  exact congrArg _ (if_pos hh)

variable (hh : (s.link c.val p.peer).txIds.contains p.tmapId = false)
include hh

theorem exec_tmapProposalRx_badRecord (hf : precRecordFits cfg p = false) :
    exec (.tmapProposalRx c p) s = .next ((s.countBadRecord c.val).refuseShape c p) := by
  change execTmapProposalRx c p s = _
  unfold execTmapProposalRx
  rw [hl]
  refine congrArg _ ((if_neg (Bool.eq_false_iff.mp hh)).trans ?_)
  unfold precRecordFits at hf
  simp only [hf, or_true, if_true]
  rfl

variable (hf : precRecordFits cfg p = true)
include hf

theorem exec_tmapProposalRx_badShape
    (hs : p.ports + 1 ≠ (s.txPorts cfg).length ∨ s.bundleStreams cfg (s.servicePorts cfg).length ≤ p.streams) :
    exec (.tmapProposalRx c p) s = .next (s.refuseShape c p) := by
  change execTmapProposalRx c p s = _
  unfold execTmapProposalRx
  rw [hl]
  refine congrArg _ ((if_neg (Bool.eq_false_iff.mp hh)).trans ?_)
  unfold precRecordFits at hf
  simp only [hf, if_true]
  exact if_pos (hs.imp_right .inl)

theorem exec_tmapProposalRx_accepted {m : MapRef} {t : State} (hp : p.ports + 1 = (s.txPorts cfg).length)
    (hst : p.streams < s.bundleStreams cfg (s.servicePorts cfg).length) (he : sfBefore s.sf p.adoptSf = true)
    (hm : (s.setLink { s.link c.val p.peer with tx := { (s.link c.val p.peer).tx with pend := none } }).storeMap c.val
      (cfgGet cfg F.CH_CFG_NUMER) p p.adoptSf = (some m, t)) :
    exec (.tmapProposalRx c p) s = .next (((t.setLink { s.link c.val p.peer with
      tx := { (s.link c.val p.peer).tx with pend := some (m, p.adoptSf, true) }, theta := p.theta }).sendStatus c.val p.peer p.tmapId
        p.adoptSf 1 0).splitWith c.val p.peer cfg p) := by
  change execTmapProposalRx c p s = _
  unfold execTmapProposalRx
  rw [hl]
  refine congrArg _ ((if_neg (Bool.eq_false_iff.mp hh)).trans ?_)
  unfold precRecordFits at hf
  simp only [hf, if_true]
  have hshape : ¬ (p.ports + 1 ≠ (s.txPorts cfg).length ∨ s.bundleStreams cfg (s.servicePorts cfg).length ≤ p.streams ∨ true = false) := by
    simp [hp, hst]
  refine (if_neg hshape).trans ?_
  simp [he, hm]

end

/-! A status report received by the proposer of a link (R153, R154). -/

/-- The map of an acceptance whose boundary has not come stays pending, for that boundary. -/
theorem accepted5_ahead {s : State} {l : Link5} {m : MapRef} {b : Nat} (h : sfBefore s.sf b = true) : s.accepted5 l m b =
    (s.tmapPut (blockWord m.block + 3) (b % 2 ^ 32)).setLink { l with rx := { l.rx with pend := some (m, b, true) } } :=
  if_pos h

/-- The map of an acceptance whose boundary has passed is in force. -/
theorem accepted5_past {s : State} {l : Link5} {m : MapRef} {b : Nat} (h : sfBefore s.sf b = false) : s.accepted5 l m b =
    ((s.tmapPut (blockWord m.block + 3) (b % 2 ^ 32)).setLink { l with rx := l.rx.adopt m b }).event (chPage l.chan) 18 :=
  if_neg (Bool.eq_false_iff.mp h)

section
variable {c : Fin 64} {peer id boundary : Nat} {l : Link5} {s : State} (hl : s.link? c.val peer = some l)
include hl

theorem exec_tmapStatusRx_unheld (outcome : Nat) (h0 : id % 4096 ≠ 0) (hh : (heldIds l).contains (id % 4096) = false) :
    exec (.tmapStatusRx c peer id boundary outcome) s = .next (s.dropToDefault l) := by
  change execTmapStatusRx c peer id boundary outcome s = _
  unfold execTmapStatusRx
  rw [hl]
  exact congrArg _ (if_pos (by simpa only [hh, Bool.not_false, Bool.and_true, decide_eq_true_eq] using h0))

variable {m : MapRef} {sf : Nat} {b : Bool} (hp : l.rx.pend = some (m, sf, b)) (hm : m.id = id % 4096)
  (hh : (heldIds l).contains (id % 4096) = true)
include hp hm hh

/-- A report on the pending map acts by its outcome. -/
theorem exec_tmapStatusRx_pending (outcome : Nat) : exec (.tmapStatusRx c peer id boundary outcome) s =
    .next (if outcome = 2 then (s.setLink { l with rx := { l.rx with pend := none } }).event (.ch c) 19
      else if outcome = 1 then s.accepted5 l m (boundary % 2 ^ 32) else if outcome = 3 then s.accepted5 l m sf else s) := by
  change execTmapStatusRx c peer id boundary outcome s = _
  unfold execTmapStatusRx
  rw [hl]
  refine congrArg _ ((if_neg (by simp only [hh]; simp)).trans ?_)
  rw [hp]
  exact if_pos hm

theorem exec_tmapStatusRx_accepted :
    exec (.tmapStatusRx c peer id boundary 1) s = .next (s.accepted5 l m (boundary % 2 ^ 32)) :=
  (exec_tmapStatusRx_pending hl hp hm hh 1).trans (congrArg _ ((if_neg (by decide)).trans (if_pos rfl)))

theorem exec_tmapStatusRx_refused :
    exec (.tmapStatusRx c peer id boundary 2) s = .next ((s.setLink { l with rx := { l.rx with pend := none } }).event (.ch c) 19) :=
  (exec_tmapStatusRx_pending hl hp hm hh 2).trans (congrArg _ (if_pos rfl))

end

/-- Settles O26: each answer to a proposal and each outcome of a report is the branch that its premises choose. -/
theorem mapsAreProposedAndSettled : Obligations.MapsAreProposedAndSettled := by
  refine ⟨fun c p cfg s hl => ⟨exec_tmapProposalRx_held hl, exec_tmapProposalRx_badRecord hl, exec_tmapProposalRx_badShape hl,
    fun m t => exec_tmapProposalRx_accepted (p := p) (m := m) (t := t) hl⟩, fun c peer id boundary l s hl => ⟨fun h0 hh outcome =>
      exec_tmapStatusRx_unheld hl outcome h0 hh, fun m sf b hp hm hh => ?_⟩⟩
  have ha := exec_tmapStatusRx_accepted (boundary := boundary) hl hp hm hh
  exact ⟨fun h => ha.trans (congrArg _ (accepted5_ahead h)), fun h => ha.trans (congrArg _ (accepted5_past h)),
    exec_tmapStatusRx_refused hl hp hm hh⟩

end Sys2Proof.Machine
end

section
/-! PROOF. CH_PROPOSE and CH_LINK_SEL on the selected link, and a sounding received (R146, R148, R153, R155, R156). -/

namespace Sys2Proof.Machine

/-! A field of software's own type reads back what was written to it (R52). -/

theorem get_testBit (f : Fld) (x : Word) (i : Nat) : (f.get x).testBit i = (decide (i < f.w) && x.getLsbD (f.lo + i)) := by
  rw [Fld.get, Nat.testBit_mod_two_pow, Nat.testBit_div_two_pow, Nat.add_comm]
  rfl

theorem get_written_rw {s : State} {p : Page} {off : Nat} {f : Fld} (w : Word) (hf : f ∈ regFlds p off) (ha : f.acc = .rw)
    (hw : f.lo + f.w ≤ 32) : f.get (s.written p off w) = f.get w := by
  refine Nat.eq_of_testBit_eq fun i => ?_
  rw [get_testBit, get_testBit]
  by_cases hi : i < f.w
  · rw [written_holds hf (by omega) ⟨by omega, by omega⟩, State.writeBit, ha]
  · rw [decide_eq_false hi, Bool.false_and, Bool.false_and]

/-! Registers that are cleared together. -/

/-- Some registers of a page are set to zero. -/
def State.clearRegs (s : State) (p : Page) (offs : List Nat) : State := offs.foldl (fun u o => u.setReg p o 0) s

theorem clearRegs_cons (s : State) (p : Page) (k : Nat) (offs : List Nat) :
    s.clearRegs p (k :: offs) = (s.setReg p k 0).clearRegs p offs := rfl

theorem clearRegs_reg_key {p r : Page} {o : Nat} (offs : List Nat) {s : State} (h : risingFrom 0 s.regs = true)
    (hk : ∀ k ∈ offs, regKey r o ≠ regKey p k) : (s.clearRegs p offs).reg r o = s.reg r o := by
  induction offs generalizing s with
  | nil => rfl
  | cons k offs ih =>
    obtain ⟨hk0, hks⟩ := List.forall_mem_cons.1 hk
    rw [clearRegs_cons, ih (setReg_rising h p k 0) hks, setReg_reg_key h 0 hk0]

theorem clearRegs_reg_mem {p : Page} {o : Nat} {offs : List Nat} {s : State} (h : risingFrom 0 s.regs = true) (hm : o ∈ offs) :
    (s.clearRegs p offs).reg p o = 0 := by
  induction offs generalizing s with
  | nil => exact absurd hm List.not_mem_nil
  | cons k offs ih =>
    have hr := setReg_rising h p k 0
    rw [clearRegs_cons]
    by_cases ho : o ∈ offs
    · exact ih hr ho
    · obtain rfl : o = k := (List.mem_cons.1 hm).resolve_right ho
      have hk : ∀ i ∈ offs, regKey p o ≠ regKey p i := fun i hi he => by
        obtain rfl : o = i := Nat.add_left_cancel he
        exact ho hi
      rw [clearRegs_reg_key offs hr hk, setReg_reg_same h]

/-! CH_PROPOSE and CH_LINK_SEL (R156). -/

/-- The registers that show the selected link's status and quality. -/
def linkRegs : List Nat := [0x41C, 0x420, 0x424, 0x428]

theorem touch_link? (s : State) (fn : Fn) (c peer : Nat) : (s.touch fn).link? c peer = s.link? c peer := by
  unfold State.touch
  rw [endIdle_eq]
  rfl

section
variable {s : State} {q : Req} {c : Fin 64}

theorem exec_proposeNow (h : s.Takes q (.ch c) 0x4F8) (h0 : q.val.getLsbD 0 = true) (h1 : q.val.getLsbD 1 = false) :
    exec (.proposeNow q c) s = .next ((s.at_ (.ch c) q.serial).propose c.val (s.fld (.ch c) F.CH_LINK_SEL_PEER)) := by
  refine congrArg Host.Outcome.next ((writeWord_takes h _).trans ?_)
  rw [reach_ch]
  simp only [chProposeWrite, h0, h1, Bool.false_eq_true, if_true, if_false, touch_fld]

theorem exec_soundRequest (h : s.Takes q (.ch c) 0x4F8) (h0 : q.val.getLsbD 0 = false) (h1 : q.val.getLsbD 1 = true) :
    exec (.soundRequest q c) s = .next ((s.at_ (.ch c) q.serial).askSound c.val) := by
  refine congrArg Host.Outcome.next ((writeWord_takes h _).trans ?_)
  simp only [chProposeWrite, h0, h1, Bool.false_eq_true, if_true, if_false]

theorem exec_linkSelect (h : s.Takes q (.ch c) 0x418) :
    exec (.linkSelect q c) s = .next (linkSelWrite c.val (.ch c) q.val (s.at_ (.ch c) q.serial)) := by
  refine congrArg Host.Outcome.next ((writeWord_takes h _).trans ?_)
  rw [reach_ch]

end

section
variable {s : State} (h : risingFrom 0 s.regs = true) {c : Fin 64} {w : Word}
include h

/-- After a write of CH_LINK_SEL the selected peer is the one written. -/
theorem linkSel_peer : (applyWrite (.ch c) 0x418 w s).fld (.ch c) F.CH_LINK_SEL_PEER = F.CH_LINK_SEL_PEER.get w := by
  have hf : F.CH_LINK_SEL_PEER ∈ regFlds (.ch c) 0x418 := by
    change _ ∈ chFlds.filter _
    decide
  exact (congrArg F.CH_LINK_SEL_PEER.get (setReg_reg_same h _ _ _)).trans (get_written_rw w hf rfl (by decide))

/-- The selection of a peer with no link stores the word and clears what is shown of a link. -/
theorem linkSelWrite_none (hn : s.link? c.val (F.CH_LINK_SEL_PEER.get w) = none) : (linkSelWrite c.val (.ch c) w s).regs =
    ((applyWrite (.ch c) 0x418 w s).clearRegs (.ch c) linkRegs).regs := by
  have hn1 : (applyWrite (.ch c) 0x418 w s).link? c.val ((applyWrite (.ch c) 0x418 w s).fld (.ch c) F.CH_LINK_SEL_PEER) = none := by
    rw [linkSel_peer h]
    exact hn
  unfold linkSelWrite
  dsimp only
  rw [hn1]
  rfl

variable (hn : s.link? c.val (F.CH_LINK_SEL_PEER.get w) = none)
include hn

theorem linkSelWrite_none_shown {o : Nat} (ho : o ∈ linkRegs) : (linkSelWrite c.val (.ch c) w s).reg (.ch c) o = 0 := by
  rw [reg_of_regs (linkSelWrite_none h hn)]
  exact clearRegs_reg_mem (setReg_rising h _ _ _) ho

/-- Every register other than those that show a link is as the store of the word leaves it. -/
theorem linkSelWrite_none_reg {r : Page} {o : Nat} (ho : o < 0x1000) (hr : r = .ch c → o ∉ linkRegs) :
    (linkSelWrite c.val (.ch c) w s).reg r o = (applyWrite (.ch c) 0x418 w s).reg r o := by
  have hlt : ∀ k ∈ linkRegs, k < 0x1000 := by decide
  rw [reg_of_regs (linkSelWrite_none h hn)]
  refine clearRegs_reg_key _ (setReg_rising h _ _ _) fun k hk he => ?_
  obtain ⟨hp, rfl⟩ := regKey_inj ho (hlt k hk) he
  exact hr hp hk

theorem linkSelWrite_none_other {r : Page} {o : Nat} (ho : o < 0x1000) (hr : r = .ch c → o ∉ 0x418 :: linkRegs) :
    (linkSelWrite c.val (.ch c) w s).reg r o = s.reg r o := by
  rw [linkSelWrite_none_reg h hn ho fun he hm => hr he (List.mem_cons_of_mem _ hm)]
  refine setReg_reg_key h _ fun he => ?_
  obtain ⟨hp, rfl⟩ := regKey_inj ho (by decide) he
  exact hr hp (List.mem_cons_self ..)

end

/-! A sounding received (R146, R153). -/

theorem soundingGood_iff (k : Nat) (x : Sounding) :
    soundingGood k x = true ↔ x.fcOk = true ∧ x.cwOk = true ∧ x.recVer = 0 ∧ x.k = k % 256 := by
  simp only [soundingGood, Bool.and_eq_true, decide_eq_true_eq, and_assoc]

/-- The slot and the rows of the sounding that a channel has kept. -/
def State.soundKept (s : State) (c : Nat) : Nat × List (Nat × HRow) := ((s.chan c).snd).getD (s.slot, [])

/-- A sounding enters its link's estimates, and its ranging. -/
def State.soundTaken (s : State) (c : Nat) (cfg : List Word) (x : Sounding) : State :=
  let l := s.soundLink cfg { s.link c x.sounder with theta := x.theta, usedSf := s.sf } (x.ports % 4 + 1) (s.soundKept c).1 (s.soundKept c).2
  ((s.setLink l).setChan c { (s.setLink l).chan c with snd := none }).ranging c x

/-- The best map that a link's estimates give (R148). -/
def State.bestFor (s : State) (c : Nat) (cfg : List Word) (peer : Nat) : Option (Proposal × Nat) :=
  s.buildMap c cfg (s.link c peer) (!s.zcLocked)

section
variable {c : Fin 64} {x : Sounding} {cfg : List Word} {s : State} (hl : s.live c.val = some cfg)
include hl

theorem exec_soundingRx_discarded (hg : ¬ soundingGood ((s.symbolsAt c.val cfg (s.soundKept c.val).1).1 - 1) x = true) :
    exec (.soundingRx c x) s = .next s := by
  change execSoundingRx c x s = _
  unfold execSoundingRx
  rw [hl]
  exact congrArg _ (if_pos (by rw [Bool.not_eq_true', ← Bool.not_eq_true]; exact hg))

/-- A good sounding is taken up, and a new map proposed where AUTO_PROPOSE is set, one can be made, and it is wanted (R153). -/
theorem exec_soundingRx_good (hg : soundingGood ((s.symbolsAt c.val cfg (s.soundKept c.val).1).1 - 1) x = true) :
    exec (.soundingRx c x) s = .next (if !cfgFlag cfg F.CH_ADP_CTRL_AUTO_PROPOSE then s.soundTaken c.val cfg x
      else match (s.soundTaken c.val cfg x).bestFor c.val cfg x.sounder with
        | some b => if (s.soundTaken c.val cfg x).wantsMap ((s.soundTaken c.val cfg x).link c.val x.sounder) cfg (x.ports % 4 + 1) b.2
            then (s.soundTaken c.val cfg x).propose c.val x.sounder else s.soundTaken c.val cfg x
        | none => s.soundTaken c.val cfg x) := by
  change execSoundingRx c x s = _
  unfold execSoundingRx
  rw [hl]
  exact congrArg _ (if_neg (by rw [Bool.not_eq_true', Bool.not_eq_false]; exact hg))

variable (hg : soundingGood ((s.symbolsAt c.val cfg (s.soundKept c.val).1).1 - 1) x = true)
include hg

theorem exec_soundingRx_taken (h : cfgFlag cfg F.CH_ADP_CTRL_AUTO_PROPOSE = false ∨
      (s.soundTaken c.val cfg x).bestFor c.val cfg x.sounder = none) :
    exec (.soundingRx c x) s = .next (s.soundTaken c.val cfg x) := by
  rw [exec_soundingRx_good hl hg]
  rcases h with ha | hb
  · rw [ha]
    rfl
  · rw [hb]
    exact congrArg _ (ite_self _)

variable {b : Proposal × Nat} (ha : cfgFlag cfg F.CH_ADP_CTRL_AUTO_PROPOSE = true)
  (hb : (s.soundTaken c.val cfg x).bestFor c.val cfg x.sounder = some b)
include ha hb

theorem exec_soundingRx_judged : exec (.soundingRx c x) s = .next
    (if (s.soundTaken c.val cfg x).wantsMap ((s.soundTaken c.val cfg x).link c.val x.sounder) cfg (x.ports % 4 + 1) b.2
      then (s.soundTaken c.val cfg x).propose c.val x.sounder else s.soundTaken c.val cfg x) := by
  rw [exec_soundingRx_good hl hg, ha, hb]
  rfl

theorem exec_soundingRx_proposes
    (hw : (s.soundTaken c.val cfg x).wantsMap ((s.soundTaken c.val cfg x).link c.val x.sounder) cfg (x.ports % 4 + 1) b.2 = true) :
    exec (.soundingRx c x) s = .next ((s.soundTaken c.val cfg x).propose c.val x.sounder) :=
  (exec_soundingRx_judged hl hg ha hb).trans (congrArg _ (if_pos hw))

theorem exec_soundingRx_unwanted
    (hw : (s.soundTaken c.val cfg x).wantsMap ((s.soundTaken c.val cfg x).link c.val x.sounder) cfg (x.ports % 4 + 1) b.2 = false) :
    exec (.soundingRx c x) s = .next (s.soundTaken c.val cfg x) :=
  (exec_soundingRx_judged hl hg ha hb).trans (congrArg _ (if_neg (Bool.eq_false_iff.mp hw)))

end

/-- Settles O27: the selection through the registers that `linkSelWrite` stores and clears, and a sounding through the branch that its
soundness, AUTO_PROPOSE and the best map choose. That nothing is proposed where no map can be made (log 41), and what the best map is
compared with (log 234), are the model's choices. -/
theorem linksAreSelectedSoundedAndUpdated : Obligations.LinksAreSelectedSoundedAndUpdated := by
  refine ⟨fun q c s hs => ⟨exec_proposeNow, exec_soundRequest, fun h hn => ⟨_, exec_linkSelect h, ?_⟩⟩, fun c x cfg s hl => ?_⟩
  · obtain ⟨_, hrise, _⟩ := hs
    have hu := touch_rising hrise ((s.reach (.ch c) q.serial).fn q.serial)
    have hnu := (touch_link? s ((s.reach (.ch c) q.serial).fn q.serial) c.val _).trans hn
    refine ⟨?_, fun o ho => linkSelWrite_none_shown hu hnu ho, fun r o ho hr => ?_⟩
    · rw [linkSelWrite_none_reg hu hnu (by decide) fun _ => by decide, applyWrite, setReg_reg_same hu, touch_written]
    · rw [linkSelWrite_none_other hu hnu ho hr, touch_reg]
  · have hgood := soundingGood_iff ((s.symbolsAt c.val cfg (s.soundKept c.val).1).1 - 1) x
    exact ⟨fun hg => exec_soundingRx_discarded hl (mt hgood.mp hg), fun hg => exec_soundingRx_taken hl (hgood.mpr hg),
      fun b hg ha hb => ⟨exec_soundingRx_proposes hl (hgood.mpr hg) ha hb, exec_soundingRx_unwanted hl (hgood.mpr hg) ha hb⟩⟩

end Sys2Proof.Machine
end

section
/-! PROOF. The Spindle's stations: tests of lane groups (R175 to R177), turns and the ends of jobs (R165 to R167). -/

namespace Sys2Proof.Machine

/-- A page of the Spindle is the same page over the serial host port (R47). -/
theorem reach_spx (s : State) (k : Fin 7) (serial : Bool) : s.reach (.spx k) serial = .spx k := by
  cases serial <;> rfl

theorem reach_stnPage (s : State) (n : Nat) (serial : Bool) : s.reach (stnPage n) serial = stnPage n := reach_spx ..

theorem touch_stn (s : State) (fn : Fn) (n : Nat) : (s.touch fn).stn n = s.stn n := by
  unfold State.touch
  rw [endIdle_eq]
  rfl

/-- The store of a written word leaves the stations. -/
theorem applyWrite_stn (s : State) (p : Page) (off : Nat) (w : Word) (n : Nat) : (applyWrite p off w s).stn n = s.stn n := rfl

/-! Tests of lane groups. -/

section
variable {s : State} {k : Fin 6}

/-- The next lane group of the rotation, neither retired nor held in reserve, is tested (R175). -/
theorem exec_lgTestPeriod {g : Nat} (ha : s.flag (.spx 0) F.SPX_TEST_CTRL_AUTO = true) (hr : s.stnRuns (k.val + 1) = true)
    (ht : (s.stn (k.val + 1)).test = none) (hs : s.spareOk (k.val + 1) = true)
    (hg : ((List.range (stnG (k.val + 1) + 1)).map fun i => ((s.stn (k.val + 1)).nextLg + i) % (stnG (k.val + 1) + 1)).find?
      (fun g => !s.retired (k.val + 1) g && !bitOf (s.stn (k.val + 1)).reserve g) = some g) :
    exec (.lgTestPeriod k) s = .next ((s.setStn (k.val + 1) { s.stn (k.val + 1) with
      test := some (g, false, false), nextLg := (g + 1) % (stnG (k.val + 1) + 1) }).beginTest (k.val + 1)) := by
  refine congrArg Host.Outcome.next ((if_pos (by simp [ha, hr, ht, hs])).trans ?_)
  rw [hg]

/-- A station's record takes up the lane group that `SPX_STN_TEST` names as the one to test. -/
def State.testNamed (s : State) (n : Nat) (x : Stn) : State :=
  (s.setStn n { x with test := some (s.fld (stnPage n) F.SPX_STN_TEST_LG, false, false) }).beginTest n

/-- A write with START, of a lane group that the station has, begins its test while none runs (R176). -/
theorem stnTestWrite_starts {n : Nat} {w : Word} (hw : w.getLsbD 5 = true) (ht : (s.stn n).test = none)
    (hg : (applyWrite (stnPage n) 0x05C w s).fld (stnPage n) F.SPX_STN_TEST_LG ≤ stnG n) :
    stnTestWrite n (stnPage n) w s = (applyWrite (stnPage n) 0x05C w s).testNamed n (s.stn n) :=
  if_pos (by simp [hw, hg, ht, applyWrite_stn])

theorem exec_lgTestStart {q : Req} (h : s.Takes q (stnPage (k.val + 1)) 0x05C) (hw : q.val.getLsbD 5 = true)
    (ht : (s.stn (k.val + 1)).test = none)
    (hg : (applyWrite (stnPage (k.val + 1)) 0x05C q.val (s.at_ (stnPage (k.val + 1)) q.serial)).fld (stnPage (k.val + 1))
      F.SPX_STN_TEST_LG ≤ stnG (k.val + 1)) :
    exec (.lgTestStart q k) s = .next ((applyWrite (stnPage (k.val + 1)) 0x05C q.val
      (s.at_ (stnPage (k.val + 1)) q.serial)).testNamed (k.val + 1) (s.stn (k.val + 1))) := by
  refine congrArg Host.Outcome.next ((writeWord_takes h _).trans ?_)
  rw [reach_stnPage, stnTestWrite_starts hw ((congrArg Stn.test (touch_stn ..)).trans ht) hg, touch_stn]

/-- A station whose test has ended: no test is shown any more, and the end is announced. -/
def State.lgTestOver (s : State) (n : Nat) : State :=
  (((s.setStn n { s.stn n with test := none }).setFlag (stnPage n) F.SPX_STN_SPARE_TESTING false).setStatus (stnPage n) 16 false).event
    (stnPage n) 1

/-- The lane group's test has ended with its passing, which takes back its retirement (R176). -/
def State.lgPassed (s : State) (n lg : Nat) : State := (s.lgTestOver n).setRegBit (stnPage n) 0x054 lg false

/-- The lane group's test has ended and its failure is counted. -/
def State.lgFailed (s : State) (n : Nat) : State := (s.lgTestOver n).bump (stnPage n) 6

section
variable {lg : Nat} (ht : (s.stn (k.val + 1)).test = some (lg, true, false))
include ht

/-- A lane group whose place in service has been taken, and that passed its test, becomes the spare or is held in reserve (R175). -/
theorem exec_lgTestDone_pass : exec (.lgTestDone k true) s =
    .next (if (s.lgPassed (k.val + 1) lg).spareOk (k.val + 1) then
        (s.lgPassed (k.val + 1) lg).setStn (k.val + 1) { (s.lgPassed (k.val + 1) lg).stn (k.val + 1) with
          reserve := setBitOf ((s.lgPassed (k.val + 1) lg).stn (k.val + 1)).reserve lg true }
      else (s.lgPassed (k.val + 1) lg).setSpare (k.val + 1) (some lg)) := by
  change execLgTestDone k true s = _
  unfold execLgTestDone
  dsimp only
  rw [ht]
  rfl

/-- One that failed is retired (R177). Where that leaves no spare, and the lane group was not retired before, the spare is lost. -/
theorem exec_lgTestDone_fail : exec (.lgTestDone k false) s =
    .next (if !(s.lgFailed (k.val + 1)).retired (k.val + 1) lg && !((s.lgFailed (k.val + 1)).retireLg (k.val + 1) lg).spareOk (k.val + 1)
      then ((s.lgFailed (k.val + 1)).retireLg (k.val + 1) lg).loseSpare (k.val + 1)
      else (s.lgFailed (k.val + 1)).retireLg (k.val + 1) lg) := by
  change execLgTestDone k false s = _
  unfold execLgTestDone
  dsimp only
  rw [ht]
  rfl

theorem exec_lgTestDone_spare (hs : (s.lgPassed (k.val + 1) lg).spareOk (k.val + 1) = false) :
    exec (.lgTestDone k true) s = .next ((s.lgPassed (k.val + 1) lg).setSpare (k.val + 1) (some lg)) :=
  (exec_lgTestDone_pass ht).trans (congrArg _ (if_neg (Bool.eq_false_iff.mp hs)))

theorem exec_lgTestDone_reserve (hs : (s.lgPassed (k.val + 1) lg).spareOk (k.val + 1) = true) :
    exec (.lgTestDone k true) s = .next ((s.lgPassed (k.val + 1) lg).setStn (k.val + 1)
      { (s.lgPassed (k.val + 1) lg).stn (k.val + 1) with
        reserve := setBitOf ((s.lgPassed (k.val + 1) lg).stn (k.val + 1)).reserve lg true }) :=
  (exec_lgTestDone_pass ht).trans (congrArg _ (if_pos hs))

theorem exec_lgTestDone_spareLost (hr : (s.lgFailed (k.val + 1)).retired (k.val + 1) lg = false)
    (hs : ((s.lgFailed (k.val + 1)).retireLg (k.val + 1) lg).spareOk (k.val + 1) = false) :
    exec (.lgTestDone k false) s = .next (((s.lgFailed (k.val + 1)).retireLg (k.val + 1) lg).loseSpare (k.val + 1)) :=
  (exec_lgTestDone_fail ht).trans (congrArg _ (if_pos (by simp [hr, hs])))

theorem exec_lgTestDone_spareKept (hs : ((s.lgFailed (k.val + 1)).retireLg (k.val + 1) lg).spareOk (k.val + 1) = true) :
    exec (.lgTestDone k false) s = .next ((s.lgFailed (k.val + 1)).retireLg (k.val + 1) lg) :=
  (exec_lgTestDone_fail ht).trans (congrArg _ (if_neg (by simp [hs])))

end

/-- A lane group that fails its self-check in service gives its job back to the station and is retired (R177). -/
theorem exec_lgSelfCheckFail {lg : Nat} (hb : s.laneBusy (k.val + 1) lg = true) (hi : s.inService (k.val + 1) lg = true) :
    exec (.lgSelfCheckFail k lg) s = .next ((s.setJobs (s.line.spx.jobs.map fun j =>
      if decide (j.stn = k.val + 1) && (decide (k.val + 1 = 1) || decide (j.lane = some lg)) then { j with lane := none, ran := 0 }
      else j)).retireLg (k.val + 1) lg) :=
  congrArg Host.Outcome.next (if_pos (by simp [hb, hi]))

end

/-! Ends of jobs. -/

section
variable {s : State} {id : Nat} {j : Job} (hj : s.job? id = some j)
include hj

/-- A job other than a decoding completes once it has run its turns (R160). -/
theorem exec_spindleJobDone (hl : j.lane.isSome = true) (hr : s.jobTurns j ≤ j.ran) (hf : j.kind ≠ .fcDecode) (hd : j.kind ≠ .dataDecode) :
    exec (.spindleJobDone id) s = .next (((s.endJob id true).bump (stnPage j.stn) 0).beginTest j.stn) := by
  change execSpindleJobDone id s = _
  unfold execSpindleJobDone
  rw [hj]
  exact congrArg _ (if_pos (by simp [hl, hr, hf, hd]))

/-- A search is late unless it runs at its deadline (R167; log 52). -/
theorem exec_jobDeadline_search (hk : j.kind = .search) (ok : Bool) :
    exec (.jobDeadline id ok) s = .next (if j.lane.isSome then s else s.takeLate j) := by
  change execJobDeadline id ok s = _
  unfold execJobDeadline State.jobLate
  simp only [hj, hk, Bool.not_false, Bool.and_true]

/-- A decoding is late, and its codeword counts as accepted only where it runs with a syndrome that holds (R167). -/
theorem exec_jobDeadline_dataDecode (hk : j.kind = .dataDecode) (ok : Bool) :
    exec (.jobDeadline id ok) s = .next (if j.lane.isSome && ok then ((s.takeLate j).bump (.spx 0) 7).cwStat j true
      else ((s.takeLate j).bump (.spx 0) 3).cwStat j false) := by
  change execJobDeadline id ok s = _
  unfold execJobDeadline State.jobLate
  simp only [hj, hk]

theorem exec_jobDeadline_search_waiting (hk : j.kind = .search) (hl : j.lane = none) (ok : Bool) :
    exec (.jobDeadline id ok) s = .next (s.takeLate j) :=
  (exec_jobDeadline_search hj hk ok).trans (congrArg _ (if_neg (by simp [hl])))

theorem exec_jobDeadline_search_running (hk : j.kind = .search) (hl : j.lane.isSome = true) (ok : Bool) :
    exec (.jobDeadline id ok) s = .next s :=
  (exec_jobDeadline_search hj hk ok).trans (congrArg _ (if_pos hl))

theorem exec_jobDeadline_dataDecode_accepted (hk : j.kind = .dataDecode) (hl : j.lane.isSome = true) :
    exec (.jobDeadline id true) s = .next (((s.takeLate j).bump (.spx 0) 7).cwStat j true) :=
  (exec_jobDeadline_dataDecode hj hk true).trans (congrArg _ (if_pos (by simp [hl])))

theorem exec_jobDeadline_dataDecode_failed (hk : j.kind = .dataDecode) :
    exec (.jobDeadline id false) s = .next (((s.takeLate j).bump (.spx 0) 3).cwStat j false) :=
  (exec_jobDeadline_dataDecode hj hk false).trans (congrArg _ (if_neg (by simp)))

end

/-- Settles O28: the tests of lane groups and the ends of jobs through the branches that the premises choose; the clause of a turn is the
meaning of TURN_BOUNDARY written out. That one turn of every station ends at once (log 48), and that a search which runs at its deadline
completes and is not late (log 52), are the model's choices. -/
theorem spindleJobsAndLaneGroups : Obligations.SpindleJobsAndLaneGroups :=
  ⟨fun _ _ => ⟨fun _ => exec_lgTestPeriod, fun _ => exec_lgTestStart,
      fun _ ht => ⟨exec_lgTestDone_spare ht, exec_lgTestDone_reserve ht, exec_lgTestDone_spareLost ht, exec_lgTestDone_spareKept ht⟩,
      fun _ => exec_lgSelfCheckFail⟩,
    fun _ => ⟨rfl, fun _ _ hj => ⟨exec_spindleJobDone hj, exec_jobDeadline_search_waiting hj, exec_jobDeadline_search_running hj,
      exec_jobDeadline_dataDecode_accepted hj, exec_jobDeadline_dataDecode_failed hj⟩⟩⟩

end Sys2Proof.Machine
end

section
/-! PROOF. Admission requests (R162, R169 to R172), staged schedule versions (R199), the figure's change of index (R201) and the dwell
windows (R204). -/

namespace Sys2Proof.Machine

/-! Admission requests. -/

theorem exec_decIterWrite {s : State} {q : Req} (h : s.Takes q (.spx 0) 0x040) : exec (.decIterWrite q) s =
    .next ((applyWrite (.spx 0) 0x040 q.val (s.at_ (.spx 0) q.serial)).request .iter) := by
  refine congrArg Host.Outcome.next ((writeWord_takes h _).trans ?_)
  rw [reach_spx]
  rfl

/-- The state in which the oldest request is evaluated: it no longer waits. -/
def State.admitting (s : State) (rest : List AdmSource) : State :=
  { s with line := { s.line with spx := { s.line.spx with queue := rest } } }

section
variable {s : State} {src : AdmSource} {rest : List AdmSource} (hq : s.line.spx.queue = src :: rest)
include hq

theorem admissionDone_accepted (he : ((s.admitting rest).evaluate src).1 = 0) :
    s.admissionDone = (true, (s.admitting rest).accept src ((s.admitting rest).evaluate src).2.2) := by
  unfold State.admissionDone
  rw [hq]
  exact if_pos he

theorem admissionDone_refused (he : ((s.admitting rest).evaluate src).1 ≠ 0) :
    s.admissionDone = (false, (s.admitting rest).refuse src ((s.admitting rest).evaluate src).1 ((s.admitting rest).evaluate src).2.1
      ((s.admitting rest).evaluate src).2.2) := by
  unfold State.admissionDone
  rw [hq]
  exact if_neg he

variable (ha : s.nvm.applying = [])
include ha

/-- Where no boot record is being applied, the end of an evaluation has no effect but its own (R465). -/
theorem exec_admissionDone : exec .admissionDone s = .next s.admissionDone.2 := by
  change execAdmissionDone s = _
  unfold execAdmissionDone
  rw [hq]
  exact congrArg _ (if_pos (by simp [ha]))

theorem exec_admissionDone_accepted (he : ((s.admitting rest).evaluate src).1 = 0) :
    exec .admissionDone s = .next ((s.admitting rest).accept src ((s.admitting rest).evaluate src).2.2) := by
  rw [exec_admissionDone hq ha, admissionDone_accepted hq he]

theorem exec_admissionDone_refused (he : ((s.admitting rest).evaluate src).1 ≠ 0) :
    exec .admissionDone s = .next ((s.admitting rest).refuse src ((s.admitting rest).evaluate src).1
      ((s.admitting rest).evaluate src).2.1 ((s.admitting rest).evaluate src).2.2) := by
  rw [exec_admissionDone hq ha, admissionDone_refused hq he]

end

/-! Schedule versions. -/

/-- The version that `SCH_STAGE` and `SCH_STAGE_SF` name is staged for its superframe, and its admission requested. -/
def State.stageVersion (s : State) : State :=
  let cur := sfOf s.ct
  let sf := cur + (s.fld .sch F.SCH_STAGE_SF_SF + 2 ^ 32 - cur % 2 ^ 32) % 2 ^ 32
  ({ s with line := { s.line with sched := { s.line.sched with
    staged := some (s.fld .sch F.SCH_STAGE_VERSION, sf, (List.range 64).map s.stagedTable) } } } : State).request .sched

theorem schStageWrite_stages {s : State} {w : Word} (hgo : w.getLsbD 31 = true)
    (hv : (applyWrite .sch 0x070 w s).fld .sch F.SCH_STAGE_VERSION ≠ (applyWrite .sch 0x070 w s).fld .sch F.SCH_VER_IN_FORCE) :
    schStageWrite .sch w s = (applyWrite .sch 0x070 w s).stageVersion :=
  if_neg (by simp [hgo, hv])

theorem exec_schedStageGo {s : State} {q : Req} (h : s.Takes q .sch 0x070) (hgo : q.val.getLsbD 31 = true)
    (hv : (applyWrite .sch 0x070 q.val (s.at_ .sch q.serial)).fld .sch F.SCH_STAGE_VERSION ≠
      (applyWrite .sch 0x070 q.val (s.at_ .sch q.serial)).fld .sch F.SCH_VER_IN_FORCE) :
    exec (.schedStageGo q) s = .next (applyWrite .sch 0x070 q.val (s.at_ .sch q.serial)).stageVersion := by
  refine congrArg Host.Outcome.next ((writeWord_takes h _).trans ?_)
  rw [show s.reach .sch q.serial = .sch by cases q.serial <;> rfl]
  exact schStageWrite_stages hgo hv

/-! The figure's index. -/

/-- The word of a register that does not read as its reset value stays as it is when a higher register is stored, whatever the store. -/
theorem setReg_reg_listed {s : State} {p r : Page} {o k : Nat} (w : Word) (hk : regKey p o < regKey r k)
    (h : s.reg p o ≠ resetWord p o) : (s.setReg r k w).reg p o = s.reg p o :=
  storeGet_put_listed _ le_rfl hk h

/-- A node that is root stays so with a write of `FIG_NEXT`: IS_ROOT is 0 where it is not listed, and SCH lies below FIG. -/
theorem applyWrite_fig_isRoot {s : State} (w : Word) (h : s.flag .sch F.SCH_CT_STAT_IS_ROOT = true) :
    (applyWrite .fig 0x048 w s).flag .sch F.SCH_CT_STAT_IS_ROOT = true := by
  have hne : s.reg .sch F.SCH_CT_STAT_IS_ROOT.off ≠ resetWord .sch F.SCH_CT_STAT_IS_ROOT.off := by
    intro he
    unfold State.flag State.fld at h
    rw [he] at h
    exact absurd h (by decide)
  unfold State.flag State.fld at h ⊢
  rw [applyWrite, setReg_reg_listed _ (by decide) hne]
  exact h

/-- The index that `FIG_NEXT` names comes into force with the superframe of `FIG_NEXT_SF`. -/
def State.scheduleFig (s : State) : State :=
  { s with line := { s.line with sched := { s.line.sched with
    figNext := some (s.fld .fig F.FIG_NEXT_IDX, s.fld .fig F.FIG_NEXT_SF_SF) } } }

theorem figNextWrite_schedules {s : State} {w : Word} (hgo : w.getLsbD 31 = true) (h : s.flag .sch F.SCH_CT_STAT_IS_ROOT = true) :
    figNextWrite .fig w s = (applyWrite .fig 0x048 w s).scheduleFig :=
  if_pos (by simp [hgo, applyWrite_fig_isRoot w h])

theorem exec_figNextGo {s : State} {q : Req} (h : s.Takes q .fig 0x048) (hgo : q.val.getLsbD 31 = true)
    (hr : s.flag .sch F.SCH_CT_STAT_IS_ROOT = true) :
    exec (.figNextGo q) s = .next (applyWrite .fig 0x048 q.val (s.at_ .fig q.serial)).scheduleFig := by
  refine congrArg Host.Outcome.next ((writeWord_takes h _).trans ?_)
  rw [show s.reach .fig q.serial = .fig by cases q.serial <;> rfl]
  exact figNextWrite_schedules hgo ((touch_flag ..).trans hr)

/-- Settles O29: each command takes the branch that its premises choose; the clause of a bucket period is the meaning of DWL_BUCKET
written out. That an end of evaluation finishes exactly the oldest request (log 51) is the model's choice. -/
theorem admissionAndStagedVersions : Obligations.AdmissionAndStagedVersions :=
  ⟨⟨fun _ _ => exec_decIterWrite, fun _ _ _ hq ha => ⟨exec_admissionDone_accepted hq ha, exec_admissionDone_refused hq ha⟩⟩,
    fun _ _ => ⟨exec_schedStageGo, exec_figNextGo, fun _ => rfl⟩⟩

end Sys2Proof.Machine
end

section
/-! PROOF. Slot and superframe boundaries (R183, R196), and the number that a slot carries. -/

namespace Sys2Proof.Machine

section
variable {x : SlotIn} {s : State} (hr : s.running = true) (hd : s.line.sched.due = false)
include hr hd

/-- A running device in which no superframe is due ends its slot and begins the next; what follows is judged by that one. -/
theorem exec_slotBoundary {u : State} (hu : (s.endIdle.slotEnd x).nextSlot x = u) : exec (.slotBoundary x) s = .next (
    if u.pwr.slumberDue then
      (u.setSched { u.line.sched with
        due := decide (u.slot % 64 = 0), sfN := if decide (u.slot % 64 = 0) then u.line.sched.sfN + 1 else u.line.sched.sfN }).enterSlumber
    else if decide (u.slot % 64 = 0) then u.setSched { u.line.sched with due := true }
    else u.slotStart x.guard) := by
  subst hu
  exact congrArg Host.Outcome.next (if_neg (by simp [hr, hd]))

variable {u : State} (hu : (s.endIdle.slotEnd x).nextSlot x = u)
include hu

theorem exec_slotBoundary_starts (hs : u.pwr.slumberDue = false) (hn : u.slot % 64 ≠ 0) :
    exec (.slotBoundary x) s = .next (u.slotStart x.guard) := by
  rw [exec_slotBoundary hr hd hu, if_neg (by simp [hs]), if_neg (by simp [hn])]

/-- The first slot of a superframe waits for the work of the superframe boundary. -/
theorem exec_slotBoundary_superframe (hs : u.pwr.slumberDue = false) (hn : u.slot % 64 = 0) :
    exec (.slotBoundary x) s = .next (u.setSched { u.line.sched with due := true }) := by
  rw [exec_slotBoundary hr hd hu, if_neg (by simp [hs]), if_pos (by simp [hn])]

theorem exec_slotBoundary_slumber (hs : u.pwr.slumberDue = true) (hn : u.slot % 64 ≠ 0) : exec (.slotBoundary x) s =
    .next ((u.setSched { u.line.sched with due := false, sfN := u.line.sched.sfN }).enterSlumber) := by
  have hfirst : decide (u.slot % 64 = 0) = false := decide_eq_false hn
  rw [exec_slotBoundary hr hd hu, if_pos hs, hfirst]
  rfl

end

theorem exec_superframeBoundary {x : SfIn} {s : State} (hr : s.running = true) (hd : s.line.sched.due = true) :
    exec (.superframeBoundary x) s =
      .next (((s.setSched { s.line.sched with due := false, sfN := s.line.sched.sfN + 1 }).sfWork x).slotStart x.guard) :=
  congrArg Host.Outcome.next (if_neg (by simp [hr, hd]))

/-! The slot that begins. -/

/-- What the next slot begins with at corridor time `ct`, before the edges of the RTC's clock are counted. -/
def State.begunAt (s : State) (x : SlotIn) (ct : Nat) : State :=
  let u : State := { s with ct := ct }
  let v := u.setSched { u.line.sched with slotN := u.line.sched.slotN + 1 }
  v.setPwr { v.pwr with vin := x.vin, vbat := x.vbat }

theorem begunAt_rtc (s : State) (x : SlotIn) (ct : Nat) : (s.begunAt x ct).pwr.rtc = s.pwr.rtc := rfl
theorem begunAt_regs (s : State) (x : SlotIn) (ct : Nat) : (s.begunAt x ct).regs = s.regs := rfl

theorem nextSlot_eq (s : State) (x : SlotIn) : s.nextSlot x = (s.begunAt x ((s.slot + 1) * 2 ^ 20 % 2 ^ 64)).rtcAdd x.edges := rfl
theorem nextSlot_ct (s : State) (x : SlotIn) : (s.nextSlot x).ct = (s.slot + 1) * 2 ^ 20 % 2 ^ 64 := rfl

/-- Slots are numbered modulo 2^44, as corridor time counts modulo 2^64 with 20 bits below the slot (R183). -/
theorem nextSlot_slot (s : State) (x : SlotIn) : (s.nextSlot x).slot = (s.slot + 1) % 2 ^ 44 := by
  rw [State.slot, nextSlot_ct, show (2 : Nat) ^ 64 = 2 ^ 44 * 2 ^ 20 from rfl, Nat.mul_mod_mul_right]
  exact Nat.mul_div_cancel _ (Nat.two_pow_pos 20)

theorem nextSlot_start (s : State) (x : SlotIn) : (s.nextSlot x).ct % 2 ^ 20 = 0 := by
  rw [nextSlot_ct]
  omega

theorem nextSlot_rtc (s : State) (x : SlotIn) : (s.nextSlot x).pwr.rtc = (s.pwr.rtc + x.edges) % 2 ^ 48 := by
  rw [nextSlot_eq, State.rtcAdd, State.setPwr_pwr, begunAt_rtc]

theorem nextSlot_regs (s : State) (x : SlotIn) : (s.nextSlot x).regs = s.regs := by
  rw [nextSlot_eq, State.rtcAdd, State.setPwr_regs, begunAt_regs]

/-- Settles O46: a boundary takes the branch that the slot it begins chooses, and the slot's number follows from corridor time. -/
theorem slotsAndSuperframesFollow : Obligations.SlotsAndSuperframesFollow :=
  ⟨⟨fun _ _ hr hd => ⟨exec_slotBoundary_starts hr hd rfl, exec_slotBoundary_superframe hr hd rfl, exec_slotBoundary_slumber hr hd rfl⟩,
    fun _ _ => exec_superframeBoundary⟩, fun x s => ⟨nextSlot_slot s x, nextSlot_start s x, rfl, nextSlot_rtc s x, nextSlot_regs s x⟩⟩

end Sys2Proof.Machine
end

section
/-! PROOF. Beacons received (R195, R253), the loss of synchronism and the claim of the root (R186, R254). -/

namespace Sys2Proof.Machine

section
variable {c : Fin 64} {x : BeaconIn} {cfg : List Word} {s : State} (hl : s.live c.val = some cfg) (hr : s.running = true)
include hl hr

theorem exec_beaconRx_bad (hg : s.beaconGood x = false) : exec (.beaconRx c x) s = .next (s.bump .sch 2) := by
  change execBeaconRx c x s = _
  unfold execBeaconRx
  simp only [hl, hr, hg, Bool.not_true, Bool.not_false, Bool.false_eq_true, if_false, if_true]

variable (hg : s.beaconGood x = true)
include hg

/-- A beacon that holds is treated as its root compares with the node's own. -/
theorem exec_beaconRx_good {how : BeaconDo} (hh : s.beaconDo (Beacon.of x.bytes) = how) : exec (.beaconRx c x) s = .next (
    if how = .reject then s.bump .sch 2 else if how = .ignore then s else (s.beaconIn c.val cfg x how).dispatch) := by
  change execBeaconRx c x s = _
  unfold execBeaconRx
  simp only [hl, hr, hg, hh, Bool.not_true, Bool.false_eq_true, if_false]
  cases how <;> rfl

theorem exec_beaconRx_rejected (hh : s.beaconDo (Beacon.of x.bytes) = .reject) : exec (.beaconRx c x) s = .next (s.bump .sch 2) :=
  exec_beaconRx_good hl hr hg hh

theorem exec_beaconRx_ignored (hh : s.beaconDo (Beacon.of x.bytes) = .ignore) : exec (.beaconRx c x) s = .next s :=
  exec_beaconRx_good hl hr hg hh

theorem exec_beaconRx_accepted {how : BeaconDo} (hm : how ∈ [BeaconDo.first, .merge, .follow])
    (hh : s.beaconDo (Beacon.of x.bytes) = how) : exec (.beaconRx c x) s = .next ((s.beaconIn c.val cfg x how).dispatch) := by
  have hreject : how ≠ .reject := by rintro rfl; simp at hm
  have hignore : how ≠ .ignore := by rintro rfl; simp at hm
  rw [exec_beaconRx_good hl hr hg hh, if_neg hreject, if_neg hignore]

end

/-- A node that has lost the beacons is LOST, which SCH and RLY tell, and its claim wait runs (R254). -/
theorem exec_syncLost {s : State} (hs : s.sync = true) (hr : s.isRoot = false) (hp : s.part ≠ ptLost)
    (hn : max 1 (s.fld .sch F.SCH_MODE_BCN_LOSS) ≤ s.line.sched.noBeacon) :
    let u := ((s.event .sch 2).setPart ptLost).event .rly 4
    exec .syncLost s = .next { u with net := { u.net with claim := 2 * (255 - s.fld .sch F.SCH_MODE_ROOT_PRIO) + s.ownNode % 8 } } :=
  congrArg Host.Outcome.next (if_pos (by simp [hs, hr, hp, hn]))

theorem exec_claimWaitExpire {s : State} (hp : s.part = ptLost) (hc : s.net.claim = 0) (he : s.flag .rly F.RLY_PART_CLAIM_EN = true) :
    exec .claimWaitExpire s = .next (((s.beRoot ((s.epoch + 1) % 256) true).setPart ptProv).event .rly 5) :=
  congrArg Host.Outcome.next (if_pos (by simp [hp, hc, he]))

/-- Settles O47: each command takes the branch that the clause's premises choose. -/
theorem beaconsAndTheRootClaim : Obligations.BeaconsAndTheRootClaim :=
  ⟨fun _ _ _ _ hl hr => ⟨exec_beaconRx_bad hl hr, exec_beaconRx_rejected hl hr, exec_beaconRx_ignored hl hr,
    fun _ hm hg => exec_beaconRx_accepted hl hr hg hm⟩, fun _ => ⟨exec_syncLost, exec_claimWaitExpire⟩⟩

end Sys2Proof.Machine
end

section
/-! PROOF. Contention in CONTEND slots (R207, R208). -/

namespace Sys2Proof.Machine

section
variable {c : Fin 64} {cfg : List Word} {x : Tx} {s : State}

section
variable (hx : s.contending c.val = some (cfg, x))
include hx

/-- A node draws one of the eight mini-slots as it sends the burst of its frame's class. -/
theorem exec_priorityWindow_draws {i : Fin 4} (hp : (Fc.decode x.fc).prio = i.val) (hh : (s.chan c.val).heard = none)
    (hw : (s.chan c.val).won = none) : exec (.priorityWindow c i) s = .next ((s.freeNat.2.setChan c.val { s.freeNat.2.chan c.val with
      won := some (i.val, s.freeNat.1 % 8) }).emit (.burst c.val i.val 0)) := by
  change execPriorityWindow c i s = _
  unfold execPriorityWindow
  rw [hx]
  exact congrArg _ (if_pos (by simp [hp, hh, hw]))

variable {k : Fin 8} {w d : Nat} (hw : (s.chan c.val).won = some (w, d))
include hw

theorem exec_backoffMinislot : exec (.backoffMinislot c k) s = .next (if s.heardBefore c.val cfg k.val then s.deferContend c.val
    else if d = k.val then (s.sendTx c.val cfg { x with mini := k.val }).setChan c.val
      { (s.sendTx c.val cfg { x with mini := k.val }).chan c.val with won := none } else s) := by
  change execBackoffMinislot c k s = _
  unfold execBackoffMinislot
  rw [hx, hw]

theorem exec_backoffMinislot_defers (hh : s.heardBefore c.val cfg k.val = true) :
    exec (.backoffMinislot c k) s = .next (s.deferContend c.val) := by
  rw [exec_backoffMinislot hx hw, if_pos hh]

variable (hh : s.heardBefore c.val cfg k.val = false)
include hh

theorem exec_backoffMinislot_starts (hd : d = k.val) :
    let u := s.sendTx c.val cfg { x with mini := k.val }
    exec (.backoffMinislot c k) s = .next (u.setChan c.val { u.chan c.val with won := none }) := by
  rw [exec_backoffMinislot hx hw, if_neg (Bool.eq_false_iff.mp hh), if_pos hd]

theorem exec_backoffMinislot_waits (hd : d ≠ k.val) : exec (.backoffMinislot c k) s = .next s := by
  rw [exec_backoffMinislot hx hw, if_neg (Bool.eq_false_iff.mp hh), if_neg hd]

end

/-- A channel on which a burst of class `i` has been heard. -/
def State.hearBurst (s : State) (c i : Nat) : State := s.setChan c { s.chan c with heard := some i }

/-- The first burst that is heard in a CONTEND slot makes a frame of a lower class defer. -/
theorem exec_priorityBurstRx_first {i : Fin 4} {level : Nat} (ht : (s.chan c.val).ty = tyContend)
    (hd : cfgGet cfg F.CH_CONTEND_DET_TH < level) (hh : (s.chan c.val).heard = none) (hl : s.live c.val = some cfg)
    (hx : (s.hearBurst c.val i.val).contending c.val = some (cfg, x)) : exec (.priorityBurstRx c i level) s =
      .next (if i.val < (Fc.decode x.fc).prio then (s.hearBurst c.val i.val).deferContend c.val else s.hearBurst c.val i.val) := by
  change execPriorityBurstRx c i level s = _
  unfold execPriorityBurstRx
  refine congrArg _ ((if_pos (by simp [ht, hl, hd])).trans ?_)
  rw [hh]
  change (match (s.hearBurst c.val i.val).contending c.val with | some (_, x) => _ | none => _) = _
  rw [hx]
  rfl

end

end Sys2Proof.Machine
end

section
/-! PROOF. Command symbols: copies sent and repeated, and detections (R205, R210 to R212). -/

namespace Sys2Proof.Machine

/-! What is sent stays sent: an update may add to what goes out, and takes nothing back. -/

/-- What `s` has sent, `t` has sent too. -/
def OutGrows (s t : State) : Prop := s.out <+: t.out

theorem OutGrows.of_eq {s t : State} (h : t.out = s.out) : OutGrows s t := by rw [OutGrows, h]
theorem OutGrows.trans {s t u : State} (h : OutGrows s t) (h' : OutGrows t u) : OutGrows s u := List.IsPrefix.trans h h'
theorem OutGrows.mem {s t : State} {o : Out} (h : OutGrows s t) (ho : o ∈ s.out) : o ∈ t.out := List.IsPrefix.subset h ho

theorem OutGrows.ite {p : Prop} [Decidable p] {s t u : State} (ht : OutGrows s t) (hu : OutGrows s u) :
    OutGrows s (if p then t else u) := by
  split
  · exact ht
  · exact hu

theorem OutGrows.foldl {α : Type} {f : State → α → State} (h : ∀ s a, OutGrows s (f s a)) (l : List α) (s : State) :
    OutGrows s (l.foldl f s) := by
  induction l generalizing s with
  | nil => exact .of_eq rfl
  | cons a l ih => exact (h s a).trans (ih _)

theorem msix_outGrows (s : State) (fn vec : Nat) : OutGrows s (s.msix fn vec) :=
  .ite ⟨[.msix fn vec], rfl⟩ (.of_eq rfl)

theorem event_outGrows (s : State) (p : Page) (i : Nat) : OutGrows s (s.event p i) := by
  have hset : ∀ w, OutGrows s (s.setReg p offEvent w) := fun _ => .of_eq (State.setReg_out ..)
  unfold State.event State.setEvents State.withEvents
  split
  · exact hset _
  · exact .ite ((hset _).trans (msix_outGrows ..)) (hset _)

theorem bump_outGrows (s : State) (p : Page) (i : Nat) : OutGrows s (s.bump p i) := .of_eq (State.bump_out ..)

theorem dwlPut_outGrows (s : State) (c b : Nat) (x : Chan) : OutGrows s (s.dwlPut c b x) :=
  have hset : OutGrows s (s.setChan c x) := .of_eq (State.setChan_out ..)
  .ite (hset.trans (event_outGrows ..)) hset

theorem dwlCharge_outGrows (s : State) (c mask air : Nat) : OutGrows s (s.dwlCharge c mask air) :=
  .ite (.of_eq rfl) (.foldl (fun _ _ => .ite (dwlPut_outGrows ..) (.of_eq rfl)) _ _)

theorem cmdEnd_outGrows (s : State) (c i : Nat) : OutGrows s (s.cmdEnd c i) :=
  .of_eq ((State.setRegBit_out ..).trans (State.setChan_out ..))

/-! A copy. -/

/-- The lines of a channel that have a copy to send. -/
def State.cmdDue (s : State) (c : Nat) : List Nat := (List.range 8).filter fun i => decide (0 < (s.chan c).cmdLeft.getD i 0)

/-- The copy of some lines as it goes out. -/
def State.cmdCopy (s : State) (c : Nat) (cfg : List Word) (key lines : List Nat) : Out :=
  .command c ((lines.map fun i => 2 ^ i).sum) (lines.map fun i => cmdChipsSent cfg key (sfOf s.ct) (s.cmdMute c cfg lines) i)

/-- A copy has been sent: it is counted and announced. -/
def State.cmdSent (s : State) (o : Out) : State := ((s.emit o).bump .cmd 0).event .cmd 2

/-- The data symbols of the channel's own transmission that a copy replaces are late, and counted (R211). -/
def State.cmdOverlay (s : State) (c : Nat) (overlap : List Nat) : State :=
  match (s.chan c).tx with
  | some x =>
    let data := overlap.filter fun k => decide (x.nFc < k) && !x.late.contains k
    (s.setChan c { s.chan c with tx := some { x with late := x.late ++ data } }).bumpBy .cmd 2 data.length
  | none => s

/-- A copy's airtime is charged to the sub-bands that it was sent in (R204, R205). -/
def State.cmdCharge (s : State) (c : Nat) (cfg : List Word) (lines : List Nat) (mute : Nat) : State :=
  let u := s.dwlCharge c (Nat.xor (cmdBands cfg lines) mute) (cmdAirUs cfg)
  let v := if mute = 0 then u else u.bump .dwl 0
  if v.dwlOn c && v.l4Flag .dwl F.DWL_CTRL_URGENT_EXEMPT then v.bump .dwl 3 else v

/-- One copy of every line is spent, and the lines end that neither have one left nor repeat (R211). -/
def State.cmdSpend (s : State) (c : Nat) (lines : List Nat) : State :=
  lines.foldl (fun s i => if (s.chan c).cmdLeft.getD i 0 = 0 && decide (s.l4Fld .cmd (F.CMD_LINE_REPEAT.at i) = 0) then s.cmdEnd c i else s)
    (s.setChan c { s.chan c with cmdLeft := (s.chan c).cmdLeft.map (· - 1), cmdWait := [] })

/-- What follows a copy that has been sent. -/
def State.cmdAfter (s : State) (c : Nat) (cfg : List Word) (lines overlap : List Nat) (mute : Nat) : State :=
  ((s.cmdOverlay c overlap).cmdCharge c cfg lines mute).cmdSpend c lines

theorem cmdSent_outGrows (s : State) (o : Out) : OutGrows (s.emit o) (s.cmdSent o) := (bump_outGrows ..).trans (event_outGrows ..)

theorem cmdOverlay_outGrows (s : State) (c : Nat) (overlap : List Nat) : OutGrows s (s.cmdOverlay c overlap) := by
  unfold State.cmdOverlay
  split
  · exact .of_eq (State.bumpBy_out ..)
  · exact .of_eq rfl

theorem cmdCharge_outGrows (s : State) (c : Nat) (cfg : List Word) (lines : List Nat) (mute : Nat) :
    OutGrows s (s.cmdCharge c cfg lines mute) := by
  have hmute : OutGrows s (if mute = 0 then s.dwlCharge c (Nat.xor (cmdBands cfg lines) mute) (cmdAirUs cfg)
      else (s.dwlCharge c (Nat.xor (cmdBands cfg lines) mute) (cmdAirUs cfg)).bump .dwl 0) :=
    (dwlCharge_outGrows ..).trans (.ite (.of_eq rfl) (bump_outGrows ..))
  exact hmute.trans (.ite (bump_outGrows ..) (.of_eq rfl))

theorem cmdSpend_outGrows (s : State) (c : Nat) (lines : List Nat) : OutGrows s (s.cmdSpend c lines) :=
  (OutGrows.of_eq (State.setChan_out ..)).trans (.foldl (fun _ _ => .ite (cmdEnd_outGrows ..) (.of_eq rfl)) _ _)

theorem cmdAfter_outGrows (s : State) (c : Nat) (cfg : List Word) (lines overlap : List Nat) (mute : Nat) :
    OutGrows s (s.cmdAfter c cfg lines overlap mute) :=
  ((cmdOverlay_outGrows ..).trans (cmdCharge_outGrows ..)).trans (cmdSpend_outGrows ..)

section
variable {c : Fin 64} {overlap : List Nat} {cfg : List Word} {key : List Nat} {s : State} (hl : s.live c.val = some cfg)
  (hn : s.cmdDue c.val ≠ []) (ho : s.cmdOn c.val = true) (hk : s.macKey (s.l4Fld .cmd F.CMD_KEY_SLOT) = some key)
  (hs : s.cmdSlot c.val cfg = true)
include hl hn ho hk hs

/-- A copy that is due in a slot that lets it go is held where the ledger bars it, and goes out otherwise. -/
theorem exec_cmdCopySend {u : State} (hu : s.dwlTry c.val (cmdBands cfg (s.cmdDue c.val)) (cmdAirUs cfg) = u) :
    exec (.cmdCopySend c overlap) s = .next (if u.cmdBarred c.val cfg (s.cmdDue c.val) then u.cmdHold c.val (s.cmdDue c.val) true
      else (u.cmdSent (u.cmdCopy c.val cfg key (s.cmdDue c.val))).cmdAfter c.val cfg (s.cmdDue c.val) overlap
        (u.cmdMute c.val cfg (s.cmdDue c.val))) := by
  subst hu
  change execCmdCopySend c overlap s = _
  unfold execCmdCopySend
  refine congrArg _ ((if_neg ?_).trans ?_)
  · change ¬ (decide (s.cmdDue c.val = []) || !s.cmdOn c.val) = true
    simp [hn, ho]
  · simp only [hl, hk, hs, Bool.not_true, Bool.false_eq_true, if_false]
    rfl

end

/-- What follows a copy takes nothing back: the copy is still among what has gone out. -/
theorem cmdSent_mem_cmdAfter (s : State) (c : Nat) (cfg : List Word) (lines overlap : List Nat) (mute : Nat) (o : Out) :
    o ∈ ((s.cmdSent o).cmdAfter c cfg lines overlap mute).out :=
  ((cmdSent_outGrows s o).trans (cmdAfter_outGrows ..)).mem (List.mem_append_right _ (List.mem_singleton_self o))

/-! A line's repetition. -/

section
variable {i : Fin 8} {persist : Bool} {s : State} {c : Nat} (hc : s.l4Fld .cmd (F.CMD_LINE_TX_CH.at i.val) = c)
  (hon : bitOf (s.chan c).cmdOn i.val = true) (hz : (s.chan c).cmdLeft.getD i.val 0 = 0)
include hc hon hz

theorem exec_cmdRepeat : exec (.cmdRepeat i persist) s = .next (
    if (s.l4Flag .cmd (F.CMD_LINE_SRC_PIN.at i.val) && (s.cmdIn i).active || s.l4Flag .cmd (F.CMD_LINE_SRC_RX.at i.val) && persist) &&
        decide (s.l4Fld .cmd (F.CMD_LINE_REPEAT.at i.val) ≠ 0) then
      s.setChan c { s.chan c with cmdLeft := (s.chan c).cmdLeft.set i.val 1 }
    else s.cmdEnd c i.val) := by
  subst hc
  exact congrArg Host.Outcome.next (if_pos (by simp only [hon, hz, decide_true, Bool.and_self]))

theorem exec_cmdRepeat_repeats (hrx : s.l4Flag .cmd (F.CMD_LINE_SRC_RX.at i.val) = true) (hp : persist = true)
    (hr : s.l4Fld .cmd (F.CMD_LINE_REPEAT.at i.val) ≠ 0) :
    exec (.cmdRepeat i persist) s = .next (s.setChan c { s.chan c with cmdLeft := (s.chan c).cmdLeft.set i.val 1 }) :=
  (exec_cmdRepeat hc hon hz).trans (congrArg _ (if_pos (by simp [hrx, hp, hr])))

theorem exec_cmdRepeat_ends (hr : s.l4Fld .cmd (F.CMD_LINE_REPEAT.at i.val) = 0) :
    exec (.cmdRepeat i persist) s = .next (s.cmdEnd c i.val) :=
  (exec_cmdRepeat hc hon hz).trans (congrArg _ (if_neg (by simp [hr])))

end

/-! A detection. -/

/-- A detection is recorded, counted and announced, and erases what it overlaps (R212). -/
def State.cmdDetected (s : State) (c lines rho : Nat) (overlap : List Nat) : State :=
  (((s.setReg .cmd 0x068 (BitVec.ofNat 32 (lines * 2 ^ 24 + c * 2 ^ 16 + min 255 rho))).bump .cmd 1).event .cmd 3).cmdErase c overlap

/-- What a detected line does: its output is driven, and where reception triggers it on this channel, its own command follows. -/
def State.cmdCarryOut (s : State) (c i : Nat) : State :=
  let u := if s.l4Flag .cmd (F.CMD_LINE_OUT_EN.at i) then s.outDetect i else s
  if u.l4Flag .cmd (F.CMD_LINE_SRC_RX.at i) && decide (u.l4Fld .cmd (F.CMD_LINE_RX_CH.at i) = c) then u.cmdTrigger i else u

section
variable {c : Fin 64} {lines rho : Nat} {overlap : List Nat} {cfg : List Word} {s : State} (hl : s.live c.val = some cfg)
include hl

theorem exec_cmdDetect_found (ho : s.cmdOn c.val = true) (hn : lines % 256 ≠ 0)
    (hk : (s.macKey (s.l4Fld .cmd F.CMD_KEY_SLOT)).isSome = true) (ht : cfgGet cfg F.CH_CMD_TH ≤ rho) :
    exec (.cmdDetect c lines rho overlap) s =
      .next ((List.range 8).foldl (fun s i => if bitOf (lines % 256) i then s.cmdCarryOut c.val i else s)
        (s.cmdDetected c.val (lines % 256) rho overlap)) :=
  congrArg Host.Outcome.next (if_pos (by simp [hl, ho, hn, hk, ht]))

theorem exec_cmdDetect_below (ht : rho < cfgGet cfg F.CH_CMD_TH) : exec (.cmdDetect c lines rho overlap) s = .next s :=
  congrArg Host.Outcome.next (if_neg (by simp [hl, Nat.not_le.mpr ht]))

end

/-- Settles O31: each command takes the branch that the clause's premises choose, and what follows a copy takes nothing back of what has
gone out. That a copy waits whose sub-bands are all exhausted (log 62), and that its groups are sub-bands of 8, charged to every sub-band
of the ledger in which they have a carrier (log 63), are the model's choices. -/
theorem contentionAndCommandSymbols : Obligations.ContentionAndCommandSymbols := by
  refine ⟨fun c cfg x s hx => ⟨fun i hp hh hw => ?_, fun i level ht hd hh => exec_priorityBurstRx_first ht hd hh,
      fun k w d hw => ⟨exec_backoffMinislot_defers hx hw, exec_backoffMinislot_starts hx hw, exec_backoffMinislot_waits hx hw⟩⟩,
    fun c overlap cfg key s hl => ?_, fun i persist s hon hz => ⟨exec_cmdRepeat_repeats rfl hon hz, exec_cmdRepeat_ends rfl hon hz⟩,
    fun c lines rho overlap cfg s hl ho hn hk => ⟨exec_cmdDetect_found hl ho hn hk, exec_cmdDetect_below hl⟩⟩
  · exact ⟨_, Nat.mod_lt _ (by decide), exec_priorityWindow_draws hx hp hh hw⟩
  · intro lines u hn ho hk hs
    have hexec := exec_cmdCopySend (overlap := overlap) hl hn ho hk hs rfl
    constructor
    · intro hb
      exact ⟨_, hexec.trans (congrArg _ (if_neg (Bool.eq_false_iff.mp hb))), cmdSent_mem_cmdAfter u c.val cfg lines overlap _ _⟩
    · intro hb
      exact hexec.trans (congrArg _ (if_pos hb))

end Sys2Proof.Machine
end

section
/-! PROOF. What the store of a written word leaves of the registers, the pages that a serial access does not move, and frames of commands
that change the network's tables (R40, R47, R52). -/

namespace Sys2Proof.Machine

/-- The pages of routing, of the directory and of the seen cache are the same over the serial host port (R47). -/
theorem reach_net {s : State} {p : Page} {b : Bool} (hp : p ∈ [Page.rte, .dir, .seen]) : s.reach p b = p := by
  simp only [List.mem_cons, List.not_mem_nil, or_false] at hp
  rcases hp with rfl | rfl | rfl <;> cases b <;> rfl

/-- A write that acts on such a page. -/
theorem writeWord_net {q : Req} {p : Page} {off : Nat} {s : State} (hp : p ∈ [Page.rte, .dir, .seen]) (h : s.Takes q p off)
    (act : Page → Word → State → State) : writeWord q p off act s = act p q.val (s.at_ p q.serial) := by
  rw [writeWord_takes h, reach_net hp]

/-! A word that has been stored. -/

/-- A block that takes work goes on doing so when a register above its header is stored: ENABLE is 0 where it is not listed. -/
theorem applyWrite_enabled {s : State} {p : Page} {off : Nat} (w : Word) (ho : offCtrl < off) (he : s.enabled p = true) :
    (applyWrite p off w s).enabled p = true := by
  unfold State.enabled at he ⊢
  by_cases hr : s.reg p offCtrl = resetWord p offCtrl
  · have h0 : resetWord p offCtrl = 0 := if_pos (.inl (by decide))
    rw [hr, h0] at he
    rw [show alwaysEnabled p = true by simpa using he, Bool.true_or]
  · rwa [applyWrite, setReg_reg_listed _ (Nat.add_lt_add_left ho _) hr]

section
variable {s : State} (h : risingFrom 0 s.regs = true)
include h

theorem applyWrite_fld_same {p : Page} {f : Fld} (w : Word) (hf : f ∈ regFlds p f.off) (ha : f.acc = .rw) (hw : f.lo + f.w ≤ 32) :
    (applyWrite p f.off w s).fld p f = f.get w :=
  (congrArg f.get (setReg_reg_same h _ _ _)).trans (get_written_rw w hf ha hw)

theorem applyWrite_reg_off {p : Page} {off k : Nat} (w : Word) (hk : k ≠ off) : (applyWrite p off w s).reg p k = s.reg p k :=
  setReg_reg_off h p _ hk

theorem applyWrite_fld_off {p : Page} {off : Nat} {f : Fld} (w : Word) (hf : f.off ≠ off) : (applyWrite p off w s).fld p f = s.fld p f :=
  congrArg f.get (applyWrite_reg_off h w hf)

theorem applyWrite_reg_page {p r : Page} {off o : Nat} (w : Word) (hr : r ≠ p) (hoff : off < 0x1000) (ho : o < 0x1000) :
    (applyWrite p off w s).reg r o = s.reg r o :=
  setReg_reg_page h _ hr hoff ho

theorem applyWrite_rising (p : Page) (off : Nat) (w : Word) : risingFrom 0 (applyWrite p off w s).regs = true := setReg_rising h _ _ _

/-- The store of a register that lies below the counters leaves each as it is, and counting where it counts. -/
theorem stored_counter {p : Page} {off : Nat} (ho : off < 0x080) (w : Word) (fn : Fn) (i : Nat) :
    (applyWrite p off w (s.touch fn)).counter p i = s.counter p i :=
  (counter_setReg_low (touch_rising h fn) p ho _ i).trans (touch_counter ..)

theorem stored_cntEn {p : Page} {off : Nat} (ho : off ≠ offCntCtrl) (w : Word) (fn : Fn) (i : Nat) :
    (applyWrite p off w (s.touch fn)).cntEn p i = s.cntEn p i := by
  unfold State.cntEn
  rw [applyWrite_reg_off (touch_rising h fn) w ho.symm, touch_reg]

end

theorem applyWrite_net (p : Page) (off : Nat) (w : Word) (s : State) : (applyWrite p off w s).net = s.net := rfl

theorem applyWrite_line (p : Page) (off : Nat) (w : Word) (s : State) : (applyWrite p off w s).line = s.line := rfl

theorem stored_net (s : State) (p : Page) (off : Nat) (w : Word) (fn : Fn) : (applyWrite p off w (s.touch fn)).net = s.net :=
  State.touch_net s fn

/-- The state in which a written word has been stored, after its access (R53). -/
theorem stored_beside (s : State) (p : Page) (off : Nat) (w : Word) (b : Bool) : s.Beside (applyWrite p off w (s.at_ p b)) :=
  beside_trans (touch_beside s _) (setReg_beside _ _ _ _)

/-! The network's tables. -/

/-- Put another state of the network. -/
def State.setNet (s : State) (n : Net) : State := { s with net := n }

@[simp] theorem setNet_reg (s : State) (n : Net) (p : Page) (o : Nat) : (s.setNet n).reg p o = s.reg p o := rfl
@[simp] theorem setNet_cntEn (s : State) (n : Net) (p : Page) (i : Nat) : (s.setNet n).cntEn p i = s.cntEn p i := rfl
@[simp] theorem setNet_counter (s : State) (n : Net) (p : Page) (i : Nat) : (s.setNet n).counter p i = s.counter p i := rfl

theorem beside_setNet {s u : State} (h : s.Beside u) (n : Net) : (s.setNet n).Beside (u.setNet n) := congrArg (State.setNet · n) h

/-- A command that gives the network's state the value `n`, and beside it changes only what any access and any message change. -/
theorem beside_newNet {s u t : State} {n : Net} (hu : s.Beside u) (ht : (u.setNet n).Beside t) :
    t.net = n ∧ ({ s with net := t.net } : State).Beside t := by
  have hn : t.net = n := beside_net ht
  refine ⟨hn, ?_⟩
  rw [hn]
  exact beside_trans (beside_setNet hu n) ht

end Sys2Proof.Machine
end

section
/-! PROOF. The seen cache (R257): SEEN_FLUSH and SEEN_Q_KEY. -/

namespace Sys2Proof.Machine

theorem flood?_of_net {s t : State} (h : t.net = s.net) (src seq epoch : Nat) : t.flood? src seq epoch = s.flood? src seq epoch := by
  unfold State.flood?
  rw [h]

theorem floodAge_of_line {s t : State} (h : t.line = s.line) (x : Flood) : t.floodAge x = s.floodAge x := by
  unfold State.floodAge
  rw [h]

/-! SEEN_FLUSH. -/

/-- With no entry of the node's own the whole cache is emptied, and its entries counted. -/
theorem flushFloods_all {s : State} (hseg : ∀ x ∈ s.net.floods, x.seg = none) :
    s.flushFloods (fun _ => true) = (s.setNet { s.net with floods := [] }).bumpBy .seen 4 s.net.floods.length := by
  have hall : s.net.floods.filter (fun _ => true) = s.net.floods := List.filter_eq_self.2 fun _ _ => rfl
  have hkept : s.net.floods.filter (fun _ => !true) = [] := List.filter_eq_nil_iff.2 fun _ _ => Bool.false_ne_true
  have hown : (s.net.floods.filterMap fun f => f.seg.bind s.frame?) = [] :=
    List.filterMap_eq_nil_iff.2 fun x hx => by rw [hseg x hx, Option.bind_none]
  unfold State.flushFloods
  dsimp only
  rw [hall, hkept, hown]
  rfl

section
variable {s : State} {q : Req}

theorem exec_seenFlush (h : s.Takes q .seen 0x048) (hall : q.val.getLsbD 0 = true) : exec (.seenFlush q) s =
    .next ((applyWrite .seen 0x048 q.val (s.at_ .seen q.serial)).flushFloods fun _ => true) := by
  refine congrArg Host.Outcome.next ((writeWord_net (by decide) h _).trans ?_)
  exact if_pos hall

end

/-! SEEN_Q_KEY. -/

/-- What `SEEN_Q_RES` tells of an entry: that there is one, its state, its time to live and its age. -/
def State.floodWord (s : State) (x : Flood) : Nat :=
  2 ^ 30 + x.st.code * 2 ^ 27 + x.ttl % 64 * 2 ^ 20 + min 65535 (s.floodAge x)

/-- The word that `SEEN_Q_RES` answers about a flood. -/
def State.seenAnswer (s : State) (found : Option Flood) : Word := BitVec.ofNat 32 (2 ^ 31 + found.elim 0 s.floodWord)

theorem seenAnswer_none (s : State) : s.seenAnswer none = BitVec.ofNat 32 (2 ^ 31) := by
  unfold State.seenAnswer
  rw [Option.elim_none, Nat.add_zero]

theorem seenAnswer_some (s : State) (x : Flood) : s.seenAnswer (some x) = BitVec.ofNat 32 (2 ^ 31 + s.floodWord x) := rfl

theorem seenAnswer_of_line {s t : State} (h : t.line = s.line) (found : Option Flood) : t.seenAnswer found = s.seenAnswer found := by
  unfold State.seenAnswer State.floodWord
  simp only [floodAge_of_line h]

/-- A query that GO starts stores the answer about the flood that its two registers name, and announces it. -/
theorem seenQueryWrite_go {s : State} (h : risingFrom 0 s.regs = true) {w : Word} (hgo : w.getLsbD 31 = true) :
    seenQueryWrite .seen w s = ((applyWrite .seen 0x050 w s).setReg .seen 0x054 (s.seenAnswer (s.flood? (s.fld .seen F.SEEN_Q_SRC_SRC)
      (F.SEEN_Q_KEY_SEQ.get w) (F.SEEN_Q_KEY_EPOCH.get w)))).event .seen 1 := by
  unfold seenQueryWrite
  dsimp only
  rw [applyWrite_fld_off h w (by decide), flood?_of_net (applyWrite_net ..), hgo, ← seenAnswer_of_line (applyWrite_line .seen 0x050 w s)]
  refine congrArg (fun n : Nat => ((applyWrite .seen 0x050 w s).setReg .seen 0x054 (BitVec.ofNat 32 (2 ^ 31 + n))).event .seen 1) ?_
  cases s.flood? (s.fld .seen F.SEEN_Q_SRC_SRC) (F.SEEN_Q_KEY_SEQ.get w) (F.SEEN_Q_KEY_EPOCH.get w) <;> rfl

theorem exec_seenQuery {s : State} {q : Req} (hr : risingFrom 0 s.regs = true) (h : s.Takes q .seen 0x050)
    (hgo : q.val.getLsbD 31 = true) : exec (.seenQuery q) s =
    .next (((applyWrite .seen 0x050 q.val (s.at_ .seen q.serial)).setReg .seen 0x054 (s.seenAnswer (s.flood?
      (s.fld .seen F.SEEN_Q_SRC_SRC) (F.SEEN_Q_KEY_SEQ.get q.val) (F.SEEN_Q_KEY_EPOCH.get q.val)))).event .seen 1) := by
  refine congrArg Host.Outcome.next ((writeWord_net (by decide) h _).trans ?_)
  rw [seenQueryWrite_go (touch_rising hr _) hgo, touch_fld, flood?_of_net (State.touch_net ..), seenAnswer_of_line (State.touch_line ..)]

/-- Settles O35: a flush through `flushFloods_all`, and a query through the word that it stores and the event that announces it. -/
theorem theSeenTableIsFlushedAndAsked : Obligations.TheSeenTableIsFlushedAndAsked := by
  intro q s ⟨_, hrise, _⟩
  have hu := touch_rising hrise ((s.reach .seen q.serial).fn q.serial)
  refine ⟨exec_seenFlush, fun h hall hseg => ⟨_, exec_seenFlush h hall, ?_⟩, fun h hgo => ⟨_, exec_seenQuery hrise h hgo, ?_⟩⟩
  · have hnet : (applyWrite .seen 0x048 q.val (s.at_ .seen q.serial)).net = s.net := stored_net ..
    have hw : ∀ n, risingFrom 0 ((applyWrite .seen 0x048 q.val (s.at_ .seen q.serial)).setNet n).regs = true := fun _ =>
      applyWrite_rising hu .seen 0x048 q.val
    rw [flushFloods_all (by rwa [hnet]), hnet]
    obtain ⟨hn, hb⟩ := beside_newNet (stored_beside s .seen 0x048 q.val q.serial) (bumpBy_beside _ .seen 4 s.net.floods.length)
    refine ⟨hn, ?_, fun r o ho hr => ?_, hb⟩
    · rw [bumpBy_counter (hw _), setNet_cntEn, setNet_counter, stored_cntEn hrise (by decide), stored_counter hrise (by decide)]
    · rw [bumpBy_reg_page (hw _) 4 _ hr ho, setNet_reg, applyWrite_reg_page hu _ hr (by decide) ho, touch_reg]
  · have hw := applyWrite_rising hu .seen 0x050 q.val
    have hr := setReg_rising hw .seen 0x054 (s.seenAnswer (s.flood? (s.fld .seen F.SEEN_Q_SRC_SRC) (F.SEEN_Q_KEY_SEQ.get q.val)
      (F.SEEN_Q_KEY_EPOCH.get q.val)))
    refine ⟨by rw [State.event_net, State.setReg_net, stored_net], event_bit hr .seen (by decide) (by decide), ?_, fun r o ho hne => ?_,
      beside_trans (stored_beside s .seen 0x050 q.val q.serial) (beside_trans (setReg_beside ..) (event_beside ..))⟩
    · rw [event_reg_off hr _ _ (by decide), setReg_reg_same hw]
      split
      next x hx => rw [hx, seenAnswer_some]; rfl
      next hx => rw [hx, seenAnswer_none]
    · rw [event_reg_page hr 1 hne ho, setReg_reg_page hw _ hne (by decide) ho, applyWrite_reg_page hu _ hne (by decide) ho, touch_reg]

end Sys2Proof.Machine
end

section
/-! PROOF. The routing table (R241, R242, R244, R246, R258): RTE_CMD's operations, the age of an entry, advertisements, and a link that
goes down. -/

namespace Sys2Proof.Machine

theorem routeAt_of_net {s t : State} (h : t.net = s.net) (i : Nat) : t.routeAt i = s.routeAt i := by
  unfold State.routeAt
  rw [h]

theorem lookup_of_net {s t : State} (h : t.net = s.net) (x len : Nat) : t.lookup x len = s.lookup x len := by
  unfold State.lookup State.route?
  rw [h]

/-! A command's result. -/

theorem rteResult_net (s : State) (status i : Nat) : (s.rteResult status i).net = s.net := State.event_net ..

theorem rteResult_beside (s : State) (status i : Nat) : s.Beside (s.rteResult status i) :=
  beside_trans (setReg_beside ..) (event_beside ..)

section
variable {s : State} (h : risingFrom 0 s.regs = true)
include h

theorem rteResult_reg_res (status i : Nat) :
    (s.rteResult status i).reg .rte 0x064 = BitVec.ofNat 32 (status * 65536 + i % 16384) := by
  unfold State.rteResult
  rw [event_reg_off (setReg_rising h _ _ _) _ _ (by decide), setReg_reg_same h]

theorem rteResult_reg_off (status i : Nat) {k : Nat} (h1 : k ≠ 0x064) (h2 : k ≠ offEvent) :
    (s.rteResult status i).reg .rte k = s.reg .rte k := by
  unfold State.rteResult
  rw [event_reg_off (setReg_rising h _ _ _) _ _ h2, setReg_reg_off h _ _ h1]

end

/-! READ. -/

/-- The words of `RTE_E0` to `E4` that tell of an entry. -/
def Route.words (r : Route) : List Nat :=
  let b := fun (c : Bool) (k : Nat) => if c then 2 ^ k else 0
  [2 ^ 31 + b r.fixed 30 + b r.neigh 29 + b r.stale 28 + b r.down 27 + r.altDiv * 2 ^ 24 + r.pre, r.chan * 2 ^ 24 + r.next,
    r.altCh * 2 ^ 24 + r.alt, r.len * 2 ^ 27 + min 255 r.age * 65536 + r.metric, r.hop]

theorem Route.words_length (r : Route) : r.words.length = 5 := rfl

/-- Words are stored in the registers from `RTE_E0` + 4 × `n` on. -/
def State.setEntry (s : State) (n : Nat) (w : List Nat) : State :=
  (w.zipIdx n).foldl (fun s e => s.setReg .rte (0x048 + 4 * e.2) (BitVec.ofNat 32 e.1)) s

theorem setEntry_cons (s : State) (n v : Nat) (w : List Nat) :
    s.setEntry n (v :: w) = (s.setReg .rte (0x048 + 4 * n) (BitVec.ofNat 32 v)).setEntry (n + 1) w := rfl

theorem setEntry_beside (s : State) (n : Nat) (w : List Nat) : s.Beside (s.setEntry n w) :=
  foldl_beside (fun _ _ => setReg_beside ..) _ s

theorem setEntry_rising {s : State} (h : risingFrom 0 s.regs = true) (n : Nat) (w : List Nat) :
    risingFrom 0 (s.setEntry n w).regs = true := by
  induction w generalizing s n with
  | nil => exact h
  | cons v w ih => exact ih (setReg_rising h _ _ _) (n + 1)

theorem setEntry_reg_before {s : State} (h : risingFrom 0 s.regs = true) (n : Nat) (w : List Nat) {o : Nat} (ho : o < 0x048 + 4 * n) :
    (s.setEntry n w).reg .rte o = s.reg .rte o := by
  induction w generalizing s n with
  | nil => rfl
  | cons v w ih => rw [setEntry_cons, ih (setReg_rising h _ _ _) (n + 1) (by omega), setReg_reg_off h _ _ (by omega)]

/-- Each register of the run reads its word. -/
theorem setEntry_reg {s : State} (h : risingFrom 0 s.regs = true) (n : Nat) (w : List Nat) {k : Nat} (hk : k < w.length) :
    (s.setEntry n w).reg .rte (0x048 + 4 * (n + k)) = BitVec.ofNat 32 w[k] := by
  induction w generalizing s n k with
  | nil => exact absurd hk (Nat.not_lt_zero k)
  | cons v w ih =>
    have hr := setReg_rising h .rte (0x048 + 4 * n) (BitVec.ofNat 32 v)
    rw [setEntry_cons]
    cases k with
    | zero => rw [setEntry_reg_before hr _ _ (by omega)]; exact setReg_reg_same h _ _ _
    | succ k =>
      rw [show n + (k + 1) = n + 1 + k by omega]
      exact ih hr (n + 1) (Nat.lt_of_succ_lt_succ hk)

theorem rteRead_none {s : State} {i : Nat} (hr : s.routeAt i = none) : s.rteRead i = (s.setEntry 0 (List.replicate 5 0)).rteResult 1 i := by
  unfold State.rteRead
  rw [hr]
  rfl

theorem rteRead_some {s : State} {i : Nat} {r : Route} (hr : s.routeAt i = some r) :
    s.rteRead i = (s.setEntry 0 r.words).rteResult 0 i := by
  unfold State.rteRead
  rw [hr]
  rfl

/-- What READ leaves: the words, the result, and the table as it was. -/
theorem setEntry_rteResult {s : State} (h : risingFrom 0 s.regs = true) (w : List Nat) (hw : w.length = 5) (status : Nat) {i : Nat}
    (hi : i < 16384) :
    (∀ k (hk : k < w.length), ((s.setEntry 0 w).rteResult status i).reg .rte (0x048 + 4 * k) = BitVec.ofNat 32 w[k]) ∧
    ((s.setEntry 0 w).rteResult status i).reg .rte 0x064 = BitVec.ofNat 32 (status * 65536 + i) ∧
    ((s.setEntry 0 w).rteResult status i).net = s.net := by
  have he := setEntry_rising h 0 w
  refine ⟨fun k hk => ?_, ?_, ?_⟩
  · rw [rteResult_reg_off he _ _ (by omega) (by unfold offEvent; omega), ← setEntry_reg h 0 w hk, Nat.zero_add]
  · rw [rteResult_reg_res he, Nat.mod_eq_of_lt hi]
  · rw [rteResult_net, beside_net (setEntry_beside s 0 w)]

/-! WRITE, DELETE and LOOKUP. -/

/-- WRITE for node numbers that no entry of the same length covers, with no alternate, makes a static entry at the index given. -/
theorem rteWrite_new {s : State} {i : Nat} (hn : isUnicast (s.fld .rte F.RTE_E1_NEXT) = true) (ha : s.fld .rte F.RTE_E2_ALT_NEXT = 0)
    (hp : s.route? (prefixOf (s.fld .rte F.RTE_E0_PREFIX) (s.fld .rte F.RTE_E3_LEN)) (s.fld .rte F.RTE_E3_LEN) = none) :
    s.rteWrite i = (s.putRoute ⟨i, prefixOf (s.fld .rte F.RTE_E0_PREFIX) (s.fld .rte F.RTE_E3_LEN), s.fld .rte F.RTE_E3_LEN,
      s.fld .rte F.RTE_E1_NEXT, s.fld .rte F.RTE_E1_CHANNEL, 0, s.fld .rte F.RTE_E2_ALT_CH, s.fld .rte F.RTE_E0_ALT_DIV,
      s.fld .rte F.RTE_E3_METRIC, s.fld .rte F.RTE_E4_HOP, 0, true, false, false,
      s.linkDown (s.fld .rte F.RTE_E1_CHANNEL) (s.fld .rte F.RTE_E1_NEXT)⟩).rteResult 0 i := by
  unfold State.rteWrite
  dsimp only
  rw [hp, hn, ha]
  rfl

theorem rteDelete_found {s : State} {i : Nat} (h : (s.routeAt i).isSome = true) :
    s.rteDelete i = (s.setNet { s.net with routes := s.net.routes.filter fun r => decide (r.idx ≠ i) }).rteResult 0 i := if_pos h

theorem rteLookup_found {s : State} {r : Route} (h : s.lookup (s.fld .rte F.RTE_LOOKUP_NODE) 24 = some r) :
    s.rteLookup = (s.bump .rte 0).rteResult 0 r.idx := by
  unfold State.rteLookup
  rw [h]

theorem rteFlush_eq (s : State) : s.rteFlush = (s.setNet { s.net with routes := s.net.routes.filter (·.fixed) }).rteResult 0 0 := rfl

/-- What DELETE and FLUSH leave of an access that has changed the network's state to `n`. -/
theorem setNet_rteResult {s u : State} (h : risingFrom 0 u.regs = true) (hb : s.Beside u) (n : Net) {i : Nat} (hi : i < 16384) :
    ((u.setNet n).rteResult 0 i).net = n ∧ ((u.setNet n).rteResult 0 i).reg .rte 0x064 = BitVec.ofNat 32 i ∧
    ({ s with net := ((u.setNet n).rteResult 0 i).net } : State).Beside ((u.setNet n).rteResult 0 i) := by
  have hres := rteResult_reg_res (s := u.setNet n) h 0 i
  rw [Nat.mod_eq_of_lt hi, Nat.zero_mul, Nat.zero_add] at hres
  obtain ⟨hn, ht⟩ := beside_newNet hb (rteResult_beside (u.setNet n) 0 i)
  exact ⟨hn, hres, ht⟩

/-! RTE_CMD. -/

/-- The operation of number `op`, on the entry of index `i`. -/
def State.rteRun (s : State) (op i : Nat) : State :=
  match op with
  | 0 => s.rteRead i
  | 1 => s.rteWrite i
  | 2 => s.rteDelete i
  | 3 => s.rteLookup
  | _ => s.rteFlush

theorem rteCmdWrite_go {s : State} (h : risingFrom 0 s.regs = true) (he : s.enabled .rte = true) {w : Word}
    (hgo : w.getLsbD 31 = true) :
    rteCmdWrite .rte w s = (applyWrite .rte 0x05C w s).rteRun (F.RTE_CMD_OP.get w) (s.fld .rte F.RTE_IDX_IDX) := by
  have hop : (applyWrite .rte 0x05C w s).fld .rte F.RTE_CMD_OP = F.RTE_CMD_OP.get w :=
    applyWrite_fld_same (f := F.RTE_CMD_OP) h w (by decide) rfl (by decide)
  unfold rteCmdWrite
  dsimp only
  rw [hgo, applyWrite_enabled w (by decide) he, hop, applyWrite_fld_off h w (by decide)]
  rfl

/-- What each of the five commands does: the operation that its word asks for. -/
theorem rteCmd_next {s t : State} {q : Req} {op : Nat} (hr : risingFrom 0 s.regs = true) (h : s.Takes q .rte 0x05C) (hgo : q.val.getLsbD 31 = true)
    (he : s.enabled .rte = true) (hop : F.RTE_CMD_OP.get q.val = op)
    (ht : (applyWrite .rte 0x05C q.val (s.at_ .rte q.serial)).rteRun op (s.fld .rte F.RTE_IDX_IDX) = t) :
    (.next (writeWord q .rte 0x05C rteCmdWrite s) : Host.Outcome State Fault Refusal) = .next t := by
  rw [writeWord_net (by decide) h, rteCmdWrite_go (touch_rising hr _) ((touch_enabled ..).trans he) hgo, touch_fld, hop, ht]

/-! The table's times, advertisements, and links. -/

section
variable {s : State}

theorem exec_routeExpire {i : Fin 16384} {r : Route} (hr : s.routeAt i.val = some r) (hf : r.fixed = false)
    (ha : max 1 (s.fld .rte F.RTE_CFG_EXPIRE) < r.age) : exec (.routeExpire i) s = .next ((s.delRoute i.val).bump .rte 5) := by
  change execRouteExpire i s = _
  unfold execRouteExpire
  rw [hr]
  exact congrArg _ (if_pos (by simp [hf, ha]))

theorem exec_routeAdvTimer (hn : s.fld .rte F.RTE_CFG_ADV_SF ≠ 0)
    (hd : s.net.advDue + s.fld .rte F.RTE_CFG_ADV_SF ≤ s.line.sched.sfN) : exec .routeAdvTimer s = .next s.advertise :=
  congrArg Host.Outcome.next (if_pos ⟨hn, hd⟩)

theorem exec_routeAdvRx (hs : s.serving = true) (c : Fin 64) (src : Nat) (d : List Nat) :
    exec (.routeAdvRx c src d) s = .next (s.advIn c.val src d) :=
  congrArg Host.Outcome.next (if_pos hs)

theorem exec_linkDown {c : Fin 64} {peer : Nat} (hd : s.linkDown c.val peer = false) (hl : s.linkLost c.val peer = true) :
    exec (.linkDown c peer) s = .next ((((s.setArq { s.arq c.val peer with down := true }).markLink c.val peer true).leaveLink c.val
      peer).dispatch) :=
  congrArg Host.Outcome.next (if_neg (by simp [hd, hl]))

end

theorem fld_lt (s : State) (p : Page) (f : Fld) : s.fld p f < 2 ^ f.w := Nat.mod_lt _ (Nat.two_pow_pos _)

/-- Settles O32: each command of RTE_CMD through the operation that its word asks for, on registers and a table that the access and the
store of the word leave as they were; the times, advertisements and links through the branch that their premises choose. -/
theorem routesAreCommandedAndAge : Obligations.RoutesAreCommandedAndAge := by
  refine ⟨fun q s h hgo he => ?_, fun s => ⟨fun _ _ => exec_routeExpire, exec_routeAdvTimer,
    fun c src d hs => exec_routeAdvRx hs c src d, fun _ _ => exec_linkDown⟩⟩
  intro u i op ⟨_, hr, _⟩
  have hcmd : ∀ {k : Nat} {t : State}, op = k → u.rteRun k i = t → _ := rteCmd_next hr h hgo he
  have hu : risingFrom 0 u.regs = true := applyWrite_rising (touch_rising hr _) _ _ _
  have hnet : u.net = s.net := stored_net ..
  have hb : s.Beside u := stored_beside ..
  have hi : i < 16384 := fld_lt s .rte F.RTE_IDX_IDX
  refine ⟨fun hop hn => ?_, fun hop r hs => ?_, fun hop h1 h2 hp => hcmd hop (rteWrite_new h1 h2 hp),
    fun hop hs => ?_, fun hop r hs => ?_, fun hop => ?_⟩
  · have hread := rteRead_none ((routeAt_of_net hnet i).trans hn)
    obtain ⟨hw, hres, hkept⟩ := setEntry_rteResult hu (List.replicate 5 0) rfl 1 hi
    refine ⟨_, hcmd hop hread, fun k hk => ?_, hres, hkept.trans hnet⟩
    rw [hw k hk, List.getElem_replicate]
    rfl
  · have hread := rteRead_some ((routeAt_of_net hnet i).trans hs)
    obtain ⟨hw, hres, hkept⟩ := setEntry_rteResult hu r.words r.words_length 0 hi
    rw [Nat.zero_mul, Nat.zero_add] at hres
    exact ⟨_, hcmd hop hread, hw 1 (by rw [r.words_length]; decide), hw 2 (by rw [r.words_length]; decide),
      hw 3 (by rw [r.words_length]; decide), hres, hkept.trans hnet⟩
  · have hdel := rteDelete_found ((congrArg Option.isSome (routeAt_of_net hnet i)).trans hs)
    rw [hnet] at hdel
    exact ⟨_, hcmd hop hdel, setNet_rteResult hu hb _ hi⟩
  · have hnode : u.fld .rte F.RTE_LOOKUP_NODE = s.fld .rte F.RTE_LOOKUP_NODE :=
      (applyWrite_fld_off (touch_rising hr _) q.val (by decide)).trans (touch_fld ..)
    refine hcmd hop (rteLookup_found ?_)
    rw [hnode, lookup_of_net hnet, hs]
  · have hflush := rteFlush_eq u
    rw [hnet] at hflush
    exact ⟨_, hcmd hop hflush, setNet_rteResult hu hb _ (by decide)⟩

end Sys2Proof.Machine
end

section
/-! PROOF. The directory (R250, R251, R255, R259, R267): DIR_CMD's operations, fetches from DRAM that end, and what other nodes send of
their directory and of their sleep. -/

namespace Sys2Proof.Machine

/-! DIR_CMD's operations, on a node whose bucket is on chip. -/

/-- The operation of number `op`, without a wait for DRAM. -/
def State.dirDo (s : State) (op x owner : Nat) : State :=
  match op with
  | 0 => s.dirLookup x
  | 1 => s.dirInsert x owner
  | _ => s.dirDelete x

section
variable {s : State} {x owner i : Nat}

theorem dirRun_merge : s.dirRun 3 x owner = (s.sendDeltas ((s.epoch + 255) % 256)).dirResult 0 0 := if_pos rfl

variable (hx : s.dirHit x = true)
include hx

/-- A command other than MERGE does not wait for DRAM. -/
theorem dirRun_hit {op : Nat} (hop : op ≠ 3) : s.dirRun op x owner = s.dirDo op x owner :=
  (if_neg hop).trans (if_neg (by simp [hx]))

theorem dirRun_lookup (hf : (s.bump .dir 0).dirFind x = some i) :
    s.dirRun 0 x owner = ((s.bump .dir 0).dirCache i).dirResult 0 i := by
  refine (dirRun_hit hx (by decide)).trans ?_
  change s.dirLookup x = _
  unfold State.dirLookup
  dsimp only
  rw [hf]

theorem dirRun_insert (hf : s.dirFind x = none) (hu : isUnicast x = true) (ho : owner = 15) (hp : s.dirPlace x = some (i, false)) :
    s.dirRun 1 x owner = ((((s.dirMake i x owner 0x40).dirCache i).bump .dir 2).dirResult 0 i).quotas := by
  subst ho
  refine (dirRun_hit hx (by decide)).trans ?_
  change s.dirInsert x 15 = _
  unfold State.dirInsert
  rw [hf, hu, hp]
  rfl

theorem dirRun_delete (hf : s.dirFind x = some i) : s.dirRun 2 x owner = ((s.dirErase i).dirResult 0 i).quotas := by
  refine (dirRun_hit hx (by decide)).trans ?_
  change s.dirDelete x = _
  unfold State.dirDelete
  rw [hf]

end

/-- A write with GO while no command runs makes the block busy with the operation that the stored word asks for. -/
theorem dirCmdWrite_go {s : State} {w : Word} (hb : s.flag .dir F.DIR_CMD_BUSY = false) (he : s.enabled .dir = true)
    (hgo : w.getLsbD 31 = true) : dirCmdWrite .dir w s =
    (((applyWrite .dir 0x048 w s).setFlag .dir F.DIR_CMD_BUSY true).dirRun ((applyWrite .dir 0x048 w s).fld .dir F.DIR_CMD_OP)
      ((applyWrite .dir 0x048 w s).fld .dir F.DIR_NODE_NODE) ((applyWrite .dir 0x048 w s).fld .dir F.DIR_NODE_OWNER)).dispatch := by
  unfold dirCmdWrite
  dsimp only
  rw [hb, hgo, applyWrite_enabled w (by decide) he]
  rfl

/-- What each of the four commands does. -/
theorem dirCmd_next {s t : State} {q : Req} {op : Nat} (h : s.Takes q .dir 0x048) (hgo : q.val.getLsbD 31 = true)
    (he : s.enabled .dir = true) (hb : s.flag .dir F.DIR_CMD_BUSY = false)
    (hop : (applyWrite .dir 0x048 q.val (s.at_ .dir q.serial)).fld .dir F.DIR_CMD_OP = op)
    (ht : ((applyWrite .dir 0x048 q.val (s.at_ .dir q.serial)).setFlag .dir F.DIR_CMD_BUSY true).dirRun op
      ((applyWrite .dir 0x048 q.val (s.at_ .dir q.serial)).fld .dir F.DIR_NODE_NODE)
      ((applyWrite .dir 0x048 q.val (s.at_ .dir q.serial)).fld .dir F.DIR_NODE_OWNER) = t) :
    (.next (writeWord q .dir 0x048 dirCmdWrite s) : Host.Outcome State Fault Refusal) = .next t.dispatch := by
  rw [writeWord_net (by decide) h, dirCmdWrite_go ((touch_flag ..).trans hb) ((touch_enabled ..).trans he) hgo, hop, ht]

/-! Fetches from DRAM. -/

/-- A node's fetch no longer waits. -/
def State.fetchEnds (s : State) (x : Nat) : State := s.setNet { s.net with dirWait := s.net.dirWait.filter (· ≠ x) }

section
variable {s : State} {x : Nat} (hw : s.net.dirWait.contains x = true) (hd : s.dramOn = true)
include hw hd

/-- A fetch that ends is good where the read succeeded and no other region's write has damaged the bucket. -/
theorem exec_dirDramFetchDone {ok good : Bool} (hg : (ok && !s.dramDamaged 0 (512 * s.dirBucket x)) = good) :
    exec (.dirDramFetchDone x ok) s = .next ((if good then (s.fetchEnds x).dirFetched x else (s.fetchEnds x).dirLost x).afterFetch x
      (good && (s.dirFind x).isSome)) := by
  subst hg
  exact congrArg Host.Outcome.next (if_neg (by simp only [hw, hd, Bool.not_true, Bool.or_self, Bool.false_eq_true, not_false_eq_true]))

theorem exec_dirDramFetchDone_good (hm : s.dramDamaged 0 (512 * s.dirBucket x) = false) :
    exec (.dirDramFetchDone x true) s = .next (((s.fetchEnds x).dirFetched x).afterFetch x (s.dirFind x).isSome) :=
  exec_dirDramFetchDone hw hd (good := true) (by rw [hm]; rfl)

theorem exec_dirDramFetchDone_damaged (hm : s.dramDamaged 0 (512 * s.dirBucket x) = true) :
    exec (.dirDramFetchDone x true) s = .next (((s.fetchEnds x).dirLost x).afterFetch x false) :=
  exec_dirDramFetchDone hw hd (good := false) (by rw [hm]; rfl)

theorem exec_dirDramFetchDone_failed :
    exec (.dirDramFetchDone x false) s = .next (((s.fetchEnds x).dirLost x).afterFetch x false) :=
  exec_dirDramFetchDone hw hd (good := false) rfl

end

/-! What other nodes send. -/

section
variable {s : State} (hs : s.serving = true)
include hs

theorem exec_dirMergeRx (d : List Nat) : exec (.dirMergeRx d) s = .next (s.mergeIn d).quotas := congrArg Host.Outcome.next (if_pos hs)

theorem exec_sleepAnnounceRx (src : Nat) (d : List Nat) : exec (.sleepAnnounceRx src d) s = .next (s.announceIn src d) :=
  congrArg Host.Outcome.next (if_pos hs)

end

/-- Settles O33: each command of DIR_CMD through the operation that its word asks for, with the bucket on chip; a fetch through whether it
is good. That an entry which another region's write has damaged reads as one whose ECC has failed (R462, log 175) is the model's choice. -/
theorem directoryIsCommandedAndServed : Obligations.DirectoryIsCommandedAndServed := by
  refine ⟨fun q s h hgo he hb => ?_, fun s => ⟨fun x hw hd => ⟨exec_dirDramFetchDone_good hw hd, exec_dirDramFetchDone_damaged hw hd,
    exec_dirDramFetchDone_failed hw hd⟩, fun hs d => ⟨exec_dirMergeRx hs d, fun src => exec_sleepAnnounceRx hs src d⟩⟩⟩
  intro u x owner op
  have hcmd : ∀ {k : Nat} {t : State}, op = k → u.dirRun k x owner = t → _ := dirCmd_next h hgo he hb
  exact ⟨fun hop hx i hf => hcmd hop (dirRun_lookup hx hf), fun hop hx hf hu ho i hp => hcmd hop (dirRun_insert hx hf hu ho hp),
    fun hop hx i hf => hcmd hop (dirRun_delete hx hf), fun hop => hcmd hop dirRun_merge⟩

end Sys2Proof.Machine
end

section
/-! PROOF. Frames and acknowledgements received (R224, R298), held frames (R298), and floods and queued frames that end by their times
(R234, R236, R237, R240). -/

namespace Sys2Proof.Machine

/-! Frames and acknowledgements. -/

section
variable {s : State}

section
variable {r : MacRx} {rx : Nat} (hr : s.running = true) (hl : (s.live r.chan.val).isSome = true)
include hr hl

/-- A frame on a live channel is taken in, or kept for the end of the pause. -/
theorem exec_macFrameRx : exec (.macFrameRx r rx) s = .next (if s.restarting then s.pauseFrame r rx else s.macFrame r rx) :=
  congrArg Host.Outcome.next (if_neg (by simp [hr, hl, ← Option.not_isSome]))

theorem exec_macFrameRx_taken (hp : s.restarting = false) : exec (.macFrameRx r rx) s = .next (s.macFrame r rx) :=
  (exec_macFrameRx hr hl).trans (congrArg _ (if_neg (Bool.eq_false_iff.mp hp)))

theorem exec_macFrameRx_kept (hp : s.restarting = true) (hk : s.nvm.upd.kept.length < 256) : exec (.macFrameRx r rx) s =
    .next { s with nvm := { s.nvm with upd := { s.nvm.upd with kept := s.nvm.upd.kept ++ [(r, rx)] } } } :=
  (exec_macFrameRx hr hl).trans (congrArg _ ((if_pos hp).trans (if_pos hk)))

end

theorem exec_ackRx (hs : s.serving = true) (c : Fin 64) (peer : Nat) (recs : List (Nat × Nat × Nat)) :
    exec (.ackRx c peer recs) s = .next ((s.acksIn c.val peer recs).dispatch.originate) :=
  congrArg Host.Outcome.next (if_pos hs)

/-- One frame held, whose wait is over, is the first that is held: the order goes on from it. -/
theorem exec_lseqGapExpire_one {c : Fin 64} {peer q m : Nat} {b : MacRx} (hh : (s.arq c.val peer).held = [(q, b, m)])
    (hm : m + s.arqWait * (s.arqRetry + 1) ≤ s.line.sched.slotN) : exec (.lseqGapExpire c peer) s =
    .next (((s.setArq { s.arq c.val peer with next := some q }).drainHeld c.val peer 2).dispatch.originate) := by
  have hwaited : ([(q, b, m)].any fun e => decide (e.2.2 + s.arqWait * (s.arqRetry + 1) ≤ s.line.sched.slotN)) = true := by simpa using hm
  change execLseqGapExpire c peer s = _
  unfold execLseqGapExpire
  dsimp only
  rw [hh]
  exact congrArg _ (if_pos hwaited)

/-! Floods. -/

section
variable {src seq epoch : Nat} {x : Flood} (hx : s.flood? src seq epoch = some x)
include hx

theorem exec_seenAgeExpire (hs : x.settled = true) (ha : s.floodAged x = true) :
    exec (.seenAgeExpire src seq epoch) s = .next ((s.delFlood src seq epoch).bump .seen 3) := by
  change execSeenAgeExpire src seq epoch s = _
  unfold execSeenAgeExpire
  rw [hx]
  exact congrArg _ (if_pos (by rw [hs, ha]; rfl))

variable (hst : x.st = .sent) (hw : max 1 (s.fld .rly F.RLY_FB_ACK_SLOTS) ≤ x.waited)
include hst hw

theorem exec_reelAckTimeout_done (ht : s.fallbackTargets x = []) :
    exec (.reelAckTimeout src seq epoch) s = .next ((s.event .rly 1).floodDone x).dispatch := by
  change execReelAckTimeout src seq epoch s = _
  unfold execReelAckTimeout
  rw [hx]
  refine congrArg _ ((if_pos (by simp [hst, hw])).trans ?_)
  rw [ht]

theorem exec_reelAckTimeout_fallsBack (ht : s.fallbackTargets x ≠ []) : exec (.reelAckTimeout src seq epoch) s =
    .next (((s.floodCopies { x with st := .fallback } (s.fallbackTargets x)).bump .rly 3).event .rly 2).dispatch := by
  change execReelAckTimeout src seq epoch s = _
  unfold execReelAckTimeout
  rw [hx]
  refine congrArg _ ((if_pos (by simp [hst, hw])).trans ?_)
  split
  next h => exact absurd h ht
  next => rfl

end

/-! The forwarding queue. -/

theorem exec_fwdHoldExpire {id n : Nat} {f : Frame} (hf : s.frame? id = some f) (hn : f.noRoute = some n) (hq : f.queued = true)
    (hp : f.st = .path) (hh : n + max 1 (s.fld .rly F.RLY_FWD_HOLD_SF) ≤ s.line.sched.sfN) :
    exec (.fwdHoldExpire id) s = .next (((s.delFrame id).bump .rly 7).fwdLeft.dispatch) := by
  change execFwdHoldExpire id s = _
  unfold execFwdHoldExpire
  rw [hf]
  dsimp only
  rw [hn]
  exact congrArg _ (if_pos (by simp [hq, hp, hh]))

end

/-- Settles O34: each command takes the branch that its premises choose. -/
theorem framesAndFloodsAreTakenAndExpire : Obligations.FramesAndFloodsAreTakenAndExpire :=
  ⟨fun _ => ⟨fun _ _ hr hl => ⟨exec_macFrameRx_taken hr hl, exec_macFrameRx_kept hr hl⟩, fun c peer recs hs => exec_ackRx hs c peer recs,
      fun _ _ _ _ _ => exec_lseqGapExpire_one⟩,
    fun _ => ⟨fun _ _ _ _ hx => ⟨exec_seenAgeExpire hx, fun hst hw => ⟨exec_reelAckTimeout_done hx hst hw,
      exec_reelAckTimeout_fallsBack hx hst hw⟩⟩, fun _ _ _ => exec_fwdHoldExpire⟩⟩

end Sys2Proof.Machine
end

section
/-! PROOF. Sleepers (R269 to R271, R277, R278, R280): wakes from SLUMBER, misses and stays, adrift, and WAKE frames with their answers. -/

namespace Sys2Proof.Machine

/-! Wakes. -/

section
variable {s : State}

theorem exec_sleepTimerWake (hm : s.pwr.mode = .slumber) (hs : s.slpState = slAsleep ∨ s.slpState = slWait) :
    exec .sleepTimerWake s = .next (s.wake 0) :=
  congrArg Host.Outcome.next (if_pos (by simp [hm, hs]))

/-- A wake within one superframe counts the time slept and charges it, and every channel and port takes up the slot in progress. No
superframe begins, as no boundary was crossed and none was due, and a device that does not sleep is not made awake for a rendezvous. -/
theorem exec_wakeComplete_inSlot {slots frac edges : Nat} (hm : s.pwr.mode = .waking)
    (hsf : sfOf s.ct = sfOf ((s.slept slots frac).rtcAdd edges).ct) (hd : s.line.sched.due = false) :
    let u := (s.slept slots frac).rtcAdd edges
    let v := ((u.setSched { u.line.sched with due := false }).addEnergy
      (s.fld .slp F.SLP_POWER_P_SLUMBER * (s.ctSpan s.ct u.ct / 2 ^ 20))).wakeDone
    let w := (List.range 16).foldl (fun s p => s.bindPort [] p)
      ((List.range 64).foldl (fun s c => ((s.chanStart c).chanStat c).slotJobs c) v)
    w.slpOn = false → exec (.wakeComplete slots frac edges) s = .next w := by
  intro u v w hoff
  have hnone : (decide (sfOf s.ct ≠ sfOf u.ct) || s.line.sched.due) = false := by rw [decide_eq_false (not_not.mpr hsf), hd]; rfl
  change execWakeComplete slots frac edges s = _
  unfold execWakeComplete
  refine congrArg _ ((if_neg (not_not.mpr hm)).trans ?_)
  dsimp only [u, v, w] at hoff hnone ⊢
  simp only [hnone, hoff, Bool.false_eq_true, if_false, Bool.false_and]

end

/-! Misses, stays and adrift. -/

section
variable {s : State} (hon : s.slpOn = true) (hr : s.running = true)
include hon hr

section
variable (hst : s.slpState = slAwake) (he : s.slpErr = false) (hh : s.slp.held = false) (hp : s.slp.rend.isSome = true)
  (hn : s.fld .slp F.SLP_NEXT_LO_SLOT + s.fld .slp F.SLP_NEXT_HI_SLOT * 2 ^ 32 ≤ s.slot)
include hst he hh hp hn

/-- A rendezvous without contact is missed, and the sleeper sleeps again unless the miss leads adrift (R278). -/
theorem exec_rendezvousMiss : exec .rendezvousMiss s = .next (if s.slpMiss.adrift then s.slpMiss
    else (s.slpMiss.setSlp { s.slpMiss.slp with held := true }).goSleep) :=
  congrArg Host.Outcome.next (if_pos (by rw [hon, hr, hst, he, hh, hp, decide_eq_true hn]; rfl))

theorem exec_rendezvousMiss_adrift (ha : s.slpMiss.adrift = true) : exec .rendezvousMiss s = .next s.slpMiss := by
  rw [exec_rendezvousMiss hon hr hst he hh hp hn, if_pos ha]

theorem exec_rendezvousMiss_sleeps (ha : s.slpMiss.adrift = false) :
    exec .rendezvousMiss s = .next ((s.slpMiss.setSlp { s.slpMiss.slp with held := true }).goSleep) := by
  rw [exec_rendezvousMiss hon hr hst he hh hp hn, if_neg (Bool.eq_false_iff.mp ha)]

end

/-- A stay that has run its idle slots with nothing left for the parent ends into sleep (R271). -/
theorem exec_stayEnd_quiet {idle sfs : Nat} (hs : s.slp.stay = some (idle, sfs)) (hst : s.slpState = slAwake)
    (hi : max 1 (s.fld .slp F.SLP_CFG_STAY) ≤ idle) (hp : s.toParent = false) :
    exec .stayEnd s = .next ((s.setSlp { s.slp with back := false }).goSleep) := by
  change execStayEnd s = _
  unfold execStayEnd
  rw [hs]
  exact congrArg _ (if_pos (by rw [hon, hr, hst, decide_eq_true hi, hp]; rfl))

theorem exec_adriftListenEnd (hst : s.slpState = slListen) (hl : s.slp.left ≤ s.line.sched.sfN) :
    exec .adriftListenEnd s = .next s.adriftWait :=
  congrArg Host.Outcome.next (if_pos (by simp [hon, hr, hst, hl]))

theorem exec_adriftWaitEnd (hst : s.slpState = slWait) (hl : s.slp.left ≤ s.line.sched.sfN) :
    exec .adriftWaitEnd s = .next (if s.overBudget then (s.bump .slp 3).adriftWait else s.slpListen) :=
  congrArg Host.Outcome.next (if_pos (by simp [hon, hr, hst, hl]))

end

/-! The sleeper's answer. -/

/-- A listed sleeper with nothing held at either end answers ALIVE in its window, and sleeps on (R269, R271). -/
theorem exec_answerBurst_alive {s : State} {k u : Nat} {cfg : List Word} (hs : s.slp.listed = some (k, false, u))
    (hl : s.live s.slpChan = some cfg) (hon : s.slpOn = true) (hst : s.slpState = slAwake) (hu : s.slot = u)
    (ht : s.mayTx cfg = true) (hp : s.toParent = false) (hstay : s.slp.stay = none) : exec .answerBurst s =
    .next (((s.setSlp { s.slp with listed := none }).emit (.burst s.slpChan (2 * k) (s.delayCt s.slpChan s.slpParent))).goSleep) := by
  change execAnswerBurst s = _
  unfold execAnswerBurst
  rw [hs, hl]
  refine congrArg _ ((if_pos (by simp [hon, hst, hu, ht])).trans ?_)
  simp only [hp, hstay, State.emit_slp, State.setSlp_slp, Bool.or_self, Bool.false_eq_true, if_false, Option.isSome_none, Nat.add_zero]

/-! The parent's windows. -/

/-- The level above which a burst on a channel is heard (R207, R269). -/
def State.answerTh (s : State) (c : Fin 64) : Nat :=
  match s.live c.val with
  | some cfg => cfgGet cfg F.CH_CONTEND_DET_TH
  | none => s.fld (.ch c) F.CH_CONTEND_DET_TH

section
variable {s : State} {c : Fin 64} {k : Fin 8} {alive up node i : Nat} {l : List (Nat × Nat × Bool)}
  (ha : s.slp.answers.find? (fun a => decide (a.1 = c.val ∧ a.2.1 = s.slot)) = some (c.val, s.slot, l))
  (hw : l.find? (fun e => decide (e.1 = k.val)) = some (k.val, node, false))
  (hi : (s.endWindow c.val s.slot k.val).dirFind node = some i)
  (hup : up ≤ s.answerTh c)
include ha hw hi hup

/-- Where nothing is held for the sleeper and the ALIVE_UP position is silent, the level at the ALIVE position decides (R270). -/
theorem exec_answerWindowEnd : exec (.answerWindowEnd c k alive up) s = .next (
    if s.answerTh c < alive then ((s.endWindow c.val s.slot k.val).reached i).bump .slp 5
    else (s.endWindow c.val s.slot k.val).sleeperMiss i node) := by
  have hquiet : (false || decide (s.answerTh c < up)) = false := by simpa using hup
  change execAnswerWindowEnd c k alive up s = _
  unfold execAnswerWindowEnd
  rw [ha]
  dsimp only
  rw [hw]
  dsimp only
  rw [hi]
  refine congrArg _ ?_
  by_cases h : s.answerTh c < alive
  · rw [if_pos h]
    refine (if_pos (Or.inl h)).trans ?_
    change (if ((false || decide (s.answerTh c < up)) && _ && _) = true then _
      else if (false || decide (s.answerTh c < up)) = true then _ else _) = _
    rw [hquiet]
    rfl
  · rw [if_neg h]
    exact if_neg (not_or.mpr ⟨h, Nat.not_lt.mpr hup⟩)

theorem exec_answerWindowEnd_missed (h : alive ≤ s.answerTh c) :
    exec (.answerWindowEnd c k alive up) s = .next ((s.endWindow c.val s.slot k.val).sleeperMiss i node) := by
  rw [exec_answerWindowEnd ha hw hi hup, if_neg (Nat.not_lt.mpr h)]

theorem exec_answerWindowEnd_answered (h : s.answerTh c < alive) :
    exec (.answerWindowEnd c k alive up) s = .next (((s.endWindow c.val s.slot k.val).reached i).bump .slp 5) := by
  rw [exec_answerWindowEnd ha hw hi hup, if_pos h]

end

/-- A write of 1 to `SLP_ANNOUNCE` announces at once (R266). -/
theorem exec_announceNow {s : State} {q : Req} (h : s.Takes q .slp 0x078) (h0 : q.val.getLsbD 0 = true) :
    exec (.announceNow q) s = .next (s.at_ .slp q.serial).announce := by
  refine congrArg Host.Outcome.next ((writeWord_takes h _).trans ?_)
  exact if_pos h0

/-- Settles O48: each command takes the branch that the clause's premises choose. -/
theorem sleepersWakeMissStayAndDrift : Obligations.SleepersWakeMissStayAndDrift :=
  ⟨fun _ => ⟨exec_sleepTimerWake, rfl, fun _ _ _ => exec_wakeComplete_inSlot⟩,
    fun _ hon hr => ⟨fun hst he hh hp hn =>
        ⟨exec_rendezvousMiss_adrift hon hr hst he hh hp hn, exec_rendezvousMiss_sleeps hon hr hst he hh hp hn⟩,
      fun _ _ => exec_stayEnd_quiet hon hr, exec_adriftListenEnd hon hr, exec_adriftWaitEnd hon hr⟩⟩

/-- Settles O49: a WAKE frame is what its command says of it; each other command takes the branch that the clause's premises choose. -/
theorem wakeFramesAreAnswered : Obligations.WakeFramesAreAnswered :=
  fun _ => ⟨fun _ _ _ _ => rfl, fun _ _ _ => exec_answerBurst_alive,
    fun _ _ _ _ _ _ _ ha hw hi =>
      ⟨fun h hup => exec_answerWindowEnd_missed ha hw hi hup h, fun h hup => exec_answerWindowEnd_answered ha hw hi hup h⟩,
    fun _ => exec_announceNow⟩

end Sys2Proof.Machine
end

section
/-! PROOF. Rings and doorbells (R286 to R289, R341): doorbells that gain or overrun, and rings that start empty, are refused, or end. -/

namespace Sys2Proof.Machine

theorem ringPage_tenant? (t : Fin 8) (k : Nat) : (ringPage t k).tenant? = some t := by
  unfold ringPage
  split <;> rfl

/-- A write that acts, on the page that its access reaches (R47). -/
theorem writeWord_reaches {s : State} {q : Req} {p r : Page} {off : Nat} (h : s.Takes q p off) (hr : s.reach p q.serial = r)
    (act : Page → Word → State → State) : writeWord q p off act s = act r q.val (s.at_ p q.serial) :=
  (writeWord_takes h act).trans (congrArg (act · q.val _) hr)

/-- Only the state that the change makes of the one before it counts. -/
theorem withVec_congr {s : State} {f g : State → State} (h : f s = g s) (fn vec : Nat) (write : Bool) :
    s.withVec fn vec write f = s.withVec fn vec write g := by
  unfold State.withVec
  rw [h]

/-! Tails and heads (R287, R289). -/

/-- What a submission queue gains by the tail `v`. -/
def State.tailGain (s : State) (t : Fin 8) (k v : Nat) : Nat :=
  (v % s.sqSize t k + s.sqSize t k - s.ring t k F.TNT_SQ_STAT_WR_TAIL % s.sqSize t k) % s.sqSize t k

/-- A tail that the room allows: what the queue gains is in flight, and fetches go on. -/
def State.tailMoved (s : State) (t : Fin 8) (k v : Nat) : State :=
  ((s.setTenant t { s.tenant t with inflight := (s.tenant t).inflight + s.tailGain t k v }).setRing t k F.TNT_SQ_STAT_WR_TAIL
    (v % s.sqSize t k)).quotas.issueFetch

section
variable {s : State} {t : Fin 8} {k v : Nat}

theorem newTail_moved (hk : k ≠ 8) (h : s.tailGain t k v ≤ s.sqRoom t k) : s.newTail t k v = some (s.tailMoved t k v) := by
  have hroom : ¬ s.sqRoom t k < s.tailGain t k v := Nat.not_lt.mpr h
  unfold State.newTail
  refine (if_neg hroom).trans ?_
  simp only [if_neg hk]
  rfl

theorem newTail_overrun (h : s.sqRoom t k < s.tailGain t k v) : s.newTail t k v = none := if_pos h

theorem newHead_enabled (he : s.cqEn t k = true) : s.newHead t k v = s.withVec (t.val + 1) (s.ring t k F.TNT_CQ_CFG_VEC) true fun u =>
    u.setRing t k F.TNT_CQ_STAT_HEAD (if (s.ring t k F.TNT_CQ_STAT_TAIL + s.cqSize t k - s.ring t k F.TNT_CQ_STAT_HEAD) % s.cqSize t k <
      (v % s.cqSize t k + s.cqSize t k - s.ring t k F.TNT_CQ_STAT_HEAD) % s.cqSize t k then s.ring t k F.TNT_CQ_STAT_TAIL
      else v % s.cqSize t k) :=
  if_neg (by rw [he]; decide)

end

section
variable {s : State} {t : Fin 8} {w : Word}

/-- The doorbell of an enabled submission queue: the tail it accepts, or a violation. -/
theorem dbSqWrite_enabled {k : Nat} (q : Req) (he : s.sqEn t k = true) : dbSqWrite q k (.dbell t) w s =
    (s.newTail t k (w.toNat % 4096)).getD (s.violation ((Page.dbell t).fn q.serial)
      (accessAddr ((Page.dbell t).fn q.serial) (.dbell t) (0x040 + 8 * k)) 5 true q.be) := by
  refine (if_neg (by rw [he]; decide)).trans ?_
  cases s.newTail t k (w.toNat % 4096) <;> rfl

/-- The doorbell of an enabled cipher request ring: the tail it accepts, or OVERRUN. -/
theorem crDbSqWrite_enabled (he : s.sqEn t 8 = true) : crDbSqWrite (.crq t) w s =
    (s.newTail t 8 (w.toNat % 4096)).getD ((s.setFlag (.crq t) F.CR_STAT_OVERRUN true).event (.crq t) 3) := by
  refine (if_neg (by rw [he]; decide)).trans ?_
  cases s.newTail t 8 (w.toNat % 4096) <;> rfl

end

@[simp] theorem touch_sqEn (s : State) (fn : Fn) (t : Fin 8) (k : Nat) : (s.touch fn).sqEn t k = s.sqEn t k := by
  unfold State.sqEn
  rw [touch_ring]

@[simp] theorem touch_cqEn (s : State) (fn : Fn) (t : Fin 8) (k : Nat) : (s.touch fn).cqEn t k = s.cqEn t k := by
  unfold State.cqEn
  rw [touch_ring]

/-! The doorbells' commands. -/

section
variable {s : State} {q : Req} {t v : Fin 8}

section
variable {k : Fin 8} (hv : s.reach (.dbell t) q.serial = .dbell v)
include hv

theorem exec_dbSqWrite (h : s.Takes q (.dbell t) (0x040 + 8 * k.val)) (he : s.sqEn v k.val = true) : exec (.dbSqWrite q t k) s =
    .next (((s.at_ (.dbell t) q.serial).newTail v k.val (q.val.toNat % 4096)).getD
      ((s.at_ (.dbell t) q.serial).violation ((Page.dbell v).fn q.serial)
        (accessAddr ((Page.dbell v).fn q.serial) (.dbell v) (0x040 + 8 * k.val)) 5 true q.be)) :=
  congrArg Host.Outcome.next ((writeWord_reaches h hv _).trans (dbSqWrite_enabled q (by rwa [touch_sqEn])))

theorem exec_dbSqWrite_moved (h : s.Takes q (.dbell t) (0x040 + 8 * k.val)) (he : s.sqEn v k.val = true)
    (hroom : (s.at_ (.dbell t) q.serial).tailGain v k.val (q.val.toNat % 4096) ≤ (s.at_ (.dbell t) q.serial).sqRoom v k.val) :
    exec (.dbSqWrite q t k) s = .next ((s.at_ (.dbell t) q.serial).tailMoved v k.val (q.val.toNat % 4096)) := by
  rw [exec_dbSqWrite hv h he, newTail_moved (Nat.ne_of_lt k.isLt) hroom, Option.getD_some]

theorem exec_dbSqWrite_overrun (h : s.Takes q (.dbell t) (0x040 + 8 * k.val)) (he : s.sqEn v k.val = true)
    (hroom : (s.at_ (.dbell t) q.serial).sqRoom v k.val < (s.at_ (.dbell t) q.serial).tailGain v k.val (q.val.toNat % 4096)) :
    exec (.dbSqWrite q t k) s = .next ((s.at_ (.dbell t) q.serial).violation ((Page.dbell v).fn q.serial)
      (accessAddr ((Page.dbell v).fn q.serial) (.dbell v) (0x040 + 8 * k.val)) 5 true q.be) := by
  rw [exec_dbSqWrite hv h he, newTail_overrun hroom, Option.getD_none]

theorem exec_dbCqWrite (h : s.Takes q (.dbell t) (0x044 + 8 * k.val)) :
    exec (.dbCqWrite q t k) s = .next ((s.at_ (.dbell t) q.serial).newHead v k.val (q.val.toNat % 4096)) :=
  congrArg Host.Outcome.next (writeWord_reaches h hv _)

end

section
variable (hv : s.reach (.crq t) q.serial = .crq v)
include hv

theorem exec_crDbSqWrite (h : s.Takes q (.crq t) F.CR_DB_SQ_TAIL.off) (he : s.sqEn v 8 = true) : exec (.crDbSqWrite q t) s =
    .next (((s.at_ (.crq t) q.serial).newTail v 8 (q.val.toNat % 4096)).getD
      (((s.at_ (.crq t) q.serial).setFlag (.crq v) F.CR_STAT_OVERRUN true).event (.crq v) 3)) :=
  congrArg Host.Outcome.next ((writeWord_reaches h hv _).trans (crDbSqWrite_enabled (by rwa [touch_sqEn])))

theorem exec_crDbCqWrite (h : s.Takes q (.crq t) F.CR_DB_CQ_HEAD.off) :
    exec (.crDbCqWrite q t) s = .next ((s.at_ (.crq t) q.serial).newHead v 8 (q.val.toNat % 4096)) :=
  congrArg Host.Outcome.next (writeWord_reaches h hv _)

end

end

/-! Configuration words (R286, R288). -/

/-- The configuration word of a submission queue has been stored. -/
def State.sqStored (s : State) (t : Fin 8) (k : Nat) (w : Word) : State := applyWrite (ringPage t k) (ringOff k + 0x08) w s

/-- The configuration word of a completion queue has been stored. -/
def State.cqStored (s : State) (t : Fin 8) (k : Nat) (w : Word) : State := applyWrite (ringPage t k) (ringOff k + 0x18) w s

/-- A submission queue starts empty. -/
def State.sqStart (s : State) (t : Fin 8) (k : Nat) : State :=
  (s.setReg (ringPage t k) (ringOff k + 0x0C) 0).setTenant t
    (if k = 8 then { s.tenant t with crAcc := 0 } else { s.tenant t with acc := (s.tenant t).acc.set k 0 })

section
variable {s : State} {t : Fin 8} {k : Nat} {w : Word}

theorem sqCfgWrite_rises (h0 : s.sqEn t k = false) (h1 : (s.sqStored t k w).sqEn t k = true) : sqCfgWrite k (ringPage t k) w s =
    if (s.sqStored t k w).ringFits t k false then (s.sqStored t k w).sqStart t k
    else ((s.sqStored t k w).setRing t k F.TNT_SQ_CFG_EN 0).ringRefused t k := by
  have hrise : (!s.sqEn t k && (s.sqStored t k w).sqEn t k) = true := by rw [h0, h1]; rfl
  unfold sqCfgWrite
  rw [ringPage_tenant?]
  exact if_pos hrise

theorem sqCfgWrite_falls (h0 : s.sqEn t k = true) (h1 : (s.sqStored t k w).sqEn t k = false) : sqCfgWrite k (ringPage t k) w s =
    ((s.sqStored t k w).sqOff t k).quotas.issueFetch := by
  have hrise : ¬ (!s.sqEn t k && (s.sqStored t k w).sqEn t k) = true := by rw [h0]; exact Bool.false_ne_true
  have hfall : (s.sqEn t k && !(s.sqStored t k w).sqEn t k) = true := by rw [h0, h1]; rfl
  unfold sqCfgWrite
  rw [ringPage_tenant?]
  exact (if_neg hrise).trans (if_pos hfall)

/-- The word of a completion queue changes what asserts the vector that it names (R290). -/
theorem cqCfgWrite_starts (h0 : s.cqEn t k = false) (h1 : (s.cqStored t k w).cqEn t k = true)
    (hf : (s.cqStored t k w).ringFits t k true = true) : cqCfgWrite k (ringPage t k) w s =
    s.withVec (t.val + 1) (F.TNT_CQ_CFG_VEC.get w) false fun _ => (s.cqStored t k w).setReg (ringPage t k) (ringOff k + 0x1C) 0x1000 := by
  have hrise : (!s.cqEn t k && (s.cqStored t k w).cqEn t k) = true := by rw [h0, h1]; rfl
  unfold cqCfgWrite
  rw [ringPage_tenant?]
  refine withVec_congr ?_ _ _ _
  exact (if_pos hrise).trans (if_pos hf)

theorem cqCfgWrite_stored (h0 : s.cqEn t k = true) : cqCfgWrite k (ringPage t k) w s =
    s.withVec (t.val + 1) (F.TNT_CQ_CFG_VEC.get w) false fun _ => s.cqStored t k w := by
  have hrise : ¬ (!s.cqEn t k && (s.cqStored t k w).cqEn t k) = true := by rw [h0]; exact Bool.false_ne_true
  unfold cqCfgWrite
  rw [ringPage_tenant?]
  refine withVec_congr ?_ _ _ _
  exact if_neg hrise

end

section
variable {s : State} {q : Req} {t v : Fin 8} {k : Fin 9} (hv : s.reach (ringPage t k.val) q.serial = ringPage v k.val)
include hv

section
variable (h : s.Takes q (ringPage t k.val) (ringOff k.val + 0x08)) (h0 : (s.at_ (ringPage t k.val) q.serial).sqEn v k.val = false)
  (h1 : ((s.at_ (ringPage t k.val) q.serial).sqStored v k.val q.val).sqEn v k.val = true)
include h h0 h1

theorem exec_ringEnable_sq : exec (.ringEnable q t k false) s =
    .next (if ((s.at_ (ringPage t k.val) q.serial).sqStored v k.val q.val).ringFits v k.val false then
      ((s.at_ (ringPage t k.val) q.serial).sqStored v k.val q.val).sqStart v k.val
    else (((s.at_ (ringPage t k.val) q.serial).sqStored v k.val q.val).setRing v k.val F.TNT_SQ_CFG_EN 0).ringRefused v k.val) :=
  congrArg Host.Outcome.next ((writeWord_reaches h hv _).trans (sqCfgWrite_rises h0 h1))

theorem exec_ringEnable_sq_starts (hf : ((s.at_ (ringPage t k.val) q.serial).sqStored v k.val q.val).ringFits v k.val false = true) :
    exec (.ringEnable q t k false) s = .next (((s.at_ (ringPage t k.val) q.serial).sqStored v k.val q.val).sqStart v k.val) :=
  (exec_ringEnable_sq hv h h0 h1).trans (congrArg _ (if_pos hf))

theorem exec_ringEnable_sq_refused (hf : ((s.at_ (ringPage t k.val) q.serial).sqStored v k.val q.val).ringFits v k.val false = false) :
    exec (.ringEnable q t k false) s =
      .next ((((s.at_ (ringPage t k.val) q.serial).sqStored v k.val q.val).setRing v k.val F.TNT_SQ_CFG_EN 0).ringRefused v k.val) :=
  (exec_ringEnable_sq hv h h0 h1).trans (congrArg _ (if_neg (Bool.eq_false_iff.mp hf)))

end

theorem exec_sqDisable (h : s.Takes q (ringPage t k.val) (ringOff k.val + 0x08))
    (h0 : (s.at_ (ringPage t k.val) q.serial).sqEn v k.val = true)
    (h1 : ((s.at_ (ringPage t k.val) q.serial).sqStored v k.val q.val).sqEn v k.val = false) : exec (.sqDisable q t k) s =
    .next (((s.at_ (ringPage t k.val) q.serial).sqStored v k.val q.val).sqOff v k.val).quotas.issueFetch :=
  congrArg Host.Outcome.next ((writeWord_reaches h hv _).trans (sqCfgWrite_falls h0 h1))

section
variable (h : s.Takes q (ringPage t k.val) (ringOff k.val + 0x18))
include h

theorem exec_ringEnable_cq_starts (h0 : (s.at_ (ringPage t k.val) q.serial).cqEn v k.val = false)
    (h1 : ((s.at_ (ringPage t k.val) q.serial).cqStored v k.val q.val).cqEn v k.val = true)
    (hf : ((s.at_ (ringPage t k.val) q.serial).cqStored v k.val q.val).ringFits v k.val true = true) :
    exec (.ringEnable q t k true) s =
      .next ((s.at_ (ringPage t k.val) q.serial).withVec (v.val + 1) (F.TNT_CQ_CFG_VEC.get q.val) false fun _ =>
        ((s.at_ (ringPage t k.val) q.serial).cqStored v k.val q.val).setReg (ringPage v k.val) (ringOff k.val + 0x1C) 0x1000) :=
  congrArg Host.Outcome.next ((writeWord_reaches h hv _).trans (cqCfgWrite_starts h0 h1 hf))

theorem exec_cqDisable (h0 : (s.at_ (ringPage t k.val) q.serial).cqEn v k.val = true) : exec (.cqDisable q t k) s =
    .next ((s.at_ (ringPage t k.val) q.serial).withVec (v.val + 1) (F.TNT_CQ_CFG_VEC.get q.val) false fun _ =>
      (s.at_ (ringPage t k.val) q.serial).cqStored v k.val q.val) :=
  congrArg Host.Outcome.next ((writeWord_reaches h hv _).trans (cqCfgWrite_stored h0))

end

end

/-- Settles O38: a doorbell through the tail that its room accepts (R287) or the head that it moves (R289), and a configuration word
through whether EN rises or falls (R286, R288). -/
theorem ringsAndDoorbells : Obligations.RingsAndDoorbells := by
  refine ⟨fun q t v k s => ⟨fun h hv he => ⟨exec_dbSqWrite_moved hv h he, exec_dbSqWrite_overrun hv h he⟩, fun h hv he => ?_,
      fun h hv he => ⟨fun u hu => ?_, fun hn => ?_⟩, fun h hv => exec_crDbCqWrite hv h⟩,
    fun q t v k s hv => ⟨exec_ringEnable_sq_starts hv, exec_ringEnable_sq_refused hv, exec_sqDisable hv, exec_ringEnable_cq_starts hv,
      fun h h0 _ => exec_cqDisable hv h h0⟩⟩
  · exact (exec_dbCqWrite hv h).trans (congrArg _ (newHead_enabled (by rwa [touch_cqEn])))
  · rw [exec_crDbSqWrite hv h he, hu, Option.getD_some]
  · rw [exec_crDbSqWrite hv h he, hn, Option.getD_none]

end Sys2Proof.Machine
end

section
/-! PROOF. Descriptors and payloads that have been read (R288, R291, R293, R297). -/

namespace Sys2Proof.Machine

/-! Descriptors (R288). -/

/-- The fetch under way is over. -/
def State.fetchOver (s : State) : State := { s with net := { s.net with fetch := none } }

/-- The head of a submission queue goes on past the descriptor at `head`. -/
def State.headPast (s : State) (t : Fin 8) (q head : Nat) : State :=
  s.setRing t q F.TNT_SQ_STAT_HEAD ((head + 1) % s.sqSize t q)

theorem take_padded {b : List Nat} {n : Nat} (h : b.length = n) : b.take n ++ List.replicate (n - b.length) 0 = b := by
  rw [List.take_of_length_le h.le, h, Nat.sub_self, List.replicate_zero, List.append_nil]

section
variable {s : State} {k q head : Nat} (hr : s.restarting = false) (hf : s.net.fetch = some (k, q, head))
  (hm : s.fetchOver.sqQmem (Fin.ofNat 8 k) q = false)
include hr hf hm

/-- Where mirroring does not hold it back, a descriptor of full length is accepted as soon as its ring's head has gone on. -/
theorem exec_descFetchDone_accepted {b : List Nat} (hb : b.length = 64)
    (hh : s.fetchOver.ring (Fin.ofNat 8 k) q F.TNT_SQ_STAT_HEAD = head)
    (hp : (s.fetchOver.headPast (Fin.ofNat 8 k) q head).mirrors = false) : exec (.descFetchDone (.ok b false)) s =
    .next ((s.fetchOver.headPast (Fin.ofNat 8 k) q head).acceptDesc (Fin.ofNat 8 k) q b false).dispatch.originate.quotas.issueFetch := by
  unfold State.fetchOver State.headPast at *
  change execDescFetchDone _ s = _
  unfold execDescFetchDone
  simp only [hr, hf, hm, hh, hp, take_padded hb, Bool.false_eq_true, if_false, if_true]

theorem exec_descFetchDone_fail : exec (.descFetchDone .fail) s =
    .next ((s.fetchOver.sqOff (Fin.ofNat 8 k) q).dmaFault (Fin.ofNat 8 k) q false).quotas.issueFetch := by
  unfold State.fetchOver at *
  change execDescFetchDone _ s = _
  unfold execDescFetchDone
  simp only [hr, hf, hm, Bool.false_eq_true, if_false]

end

/-! Payloads (R291, R293). -/

section
variable {s : State} {t : Fin 8} {id : Nat} {m : Msg} (hm : (s.tenant t).msgs.find? (fun m => decide (m.id = id)) = some m)
  (hd : m.data = none) (hq : m.qmem = false)
include hm hd hq

/-- A payload read from the host gives its message the number that is next. -/
theorem exec_payloadReadDone_numbered (b : List Nat) :
    let n := s.takeNumber m.svc m.prio
    let x : Msg := { m with data := some (b.take m.len), no := n.1 }
    exec (.payloadReadDone t id (.ok b false)) s = .next ((n.2.setMsg t x).trySegment t x).dispatch.originate := by
  change execPayloadReadDone t id _ s = _
  unfold execPayloadReadDone
  simp only [hm, hd, hq, Option.isSome_none, Bool.false_eq_true, if_false]

theorem exec_payloadReadDone_poisoned (b : List Nat) :
    exec (.payloadReadDone t id (.ok b true)) s = .next (s.completeMsg t m 0x0E).quotas := by
  change execPayloadReadDone t id _ s = _
  unfold execPayloadReadDone
  simp only [hm, hd, hq, Option.isSome_none, Bool.false_eq_true, if_false, if_true]

theorem exec_payloadReadDone_fail :
    exec (.payloadReadDone t id .fail) s = .next ((s.dmaFault t m.q false).completeMsg t m 0x0D).quotas := by
  change execPayloadReadDone t id _ s = _
  unfold execPayloadReadDone
  simp only [hm, hd, hq, Option.isSome_none, Bool.false_eq_true, if_false]

end

/-- Settles O39: a fetch through whether it failed, with the ring in host memory, and a payload through whether it came whole. That a
message in host memory takes its number once its payload has been read, and not as its descriptor is accepted, is the model's own reading
of R296 (log 92). -/
theorem descriptorsAndPayloadsArrive : Obligations.DescriptorsAndPayloadsArrive := by
  refine fun s => ⟨fun k q head hr hf => ?_, fun t id m hm hd hq => ⟨exec_payloadReadDone_numbered hm hd hq,
    exec_payloadReadDone_poisoned hm hd hq, exec_payloadReadDone_fail hm hd hq⟩⟩
  intro t u hq
  exact ⟨fun b hb hh _ => exec_descFetchDone_accepted hr hf hq hb hh, exec_descFetchDone_fail hr hf hq⟩

end Sys2Proof.Machine
end

section
/-! PROOF. Messages by their times (R299 to R301, R304, R309): sent again, completed, confirmed, put in order, spilled or given up. -/

namespace Sys2Proof.Machine

/-! Messages that are sent (R299, R300). -/

section
variable {s : State} {t : Fin 8} {id : Nat} {m : Msg}

/-- A message that is sent again: it is cut anew, and its confirmation is awaited from now on. -/
def State.resent (s : State) (m : Msg) : Msg := { m with cut := false, handed := some s.line.sched.sfN }

/-- The status of a message that is withdrawn before it was handed on: whether its destination was known to be unreached. -/
def State.withdrawnStatus (s : State) (m : Msg) : Nat :=
  if (match s.dirFind m.dst with | some i => s.dirUnreached i | none => false) then 4 else 3

section
variable (hm : (s.tenant t).msgs.find? (fun m => decide (m.id = id)) = some m)
include hm

theorem exec_e2eTimeout {n : Nat} (hn : m.handed = some n) (he : m.e2e = true) (hl : m.left = [])
    (ht : n + max 1 (s.fld (.tnt 0) F.TNT_MSCFG_E2E_SF) ≤ s.line.sched.sfN) : exec (.e2eTimeout t id) s =
    .next ((s.setMsg t (s.resent m)).trySegment t (s.resent m)).dispatch.originate := by
  change execE2eTimeout t id s = _
  unfold execE2eTimeout
  rw [hm]
  dsimp only
  rw [hn]
  exact congrArg _ (if_pos (by simp [he, hl, ht]))

section
variable (ht : m.sf + max 1 (s.fld (.tnt t) F.TNT_LIMITS_HOLD_SF) ≤ s.line.sched.sfN)
include ht

theorem exec_holdLimitExpire_handed (hh : m.handed.isSome = true) :
    exec (.holdLimitExpire t id) s = .next ((s.dropFrames m.id).completeMsg t m 5) := by
  change execHoldLimitExpire t id s = _
  unfold execHoldLimitExpire
  rw [hm]
  exact congrArg _ ((if_pos ht).trans (if_pos hh))

theorem exec_holdLimitExpire_withdrawn (hh : m.handed = none) :
    exec (.holdLimitExpire t id) s = .next ((s.dropFrames m.id).completeMsg t m (s.withdrawnStatus m)) := by
  change execHoldLimitExpire t id s = _
  unfold execHoldLimitExpire
  rw [hm]
  exact congrArg _ ((if_pos ht).trans (if_neg (by rw [hh]; decide)))

end

end

theorem exec_confirmationRx (hs : s.serving = true) (src : Nat) (recs : List (Nat × Nat × Nat)) :
    exec (.confirmationRx src recs) s = .next (s.confirm src recs) :=
  congrArg Host.Outcome.next (if_pos hs)

end

/-! Messages that have come (R301, R304, R309). -/

section
variable {s : State} {t : Fin 8} {id : Nat} {w : Waiting} (hw : (s.tenant t).waits.find? (fun w => decide (w.id = id)) = some w)
include hw

/-- A message that has waited for lower numbers comes into order, after the lower ones that are held (R30). -/
theorem exec_orderWaitExpire (ho : w.ordered = false)
    (ht : w.sf + max 1 (s.fld (.tnt t) F.TNT_LIMITS_ORDER_SF) ≤ s.line.sched.sfN) : exec (.orderWaitExpire t id) s =
    .next ((((s.lowerOf t w).foldl (fun u x => u.setOrdered t x) s).setOrdered t w).settleOrder t).dispatch := by
  change execOrderWaitExpire t id s = _
  unfold execOrderWaitExpire
  rw [hw]
  exact congrArg _ (if_pos (by simp [ho, ht]))

theorem exec_waitAgeExpire (ho : w.ordered = true) (hs : w.spilled = false)
    (ht : max 1 (s.fld (.tnt t) F.TNT_LIMITS_WAIT_AGE_MS) * 10000 ≤ s.tenths w.sf) :
    exec (.waitAgeExpire t id) s = .next ((s.spillOrDrop t w).settleWaits t).dispatch := by
  change execWaitAgeExpire t id s = _
  unfold execWaitAgeExpire
  rw [hw]
  exact congrArg _ (if_pos (by simp only [ho, hs, ht, decide_true, Bool.not_false, Bool.and_self]))

end

section
variable {s : State} {src svc prio no : Nat}

/-- An incomplete message is given up. -/
def State.reasmGone (s : State) (src svc prio no : Nat) (dev : Bool) : State :=
  { s with net := { s.net with reasm := s.net.reasm.filter fun x => !x.key src svc prio no dev } }

section
variable {dev : Bool} {r : Reasm} (hr : s.net.reasm.find? (fun r => r.key src svc prio no dev) = some r)
  (ht : r.sf + max 1 (s.fld (.tnt 0) F.TNT_MSCFG_REASM_SF) ≤ s.line.sched.sfN)
include hr ht

theorem exec_reasmTimeout_unbound (hb : (s.reasmGone src svc prio no dev).binding svc = none) :
    exec (.reasmTimeout src svc prio no dev) s = .next (s.reasmGone src svc prio no dev) := by
  unfold State.reasmGone at *
  change execReasmTimeout src svc prio no dev s = _
  unfold execReasmTimeout
  rw [hr]
  refine congrArg _ ((if_pos ht).trans ?_)
  dsimp only
  rw [hb]

/-- A tenant's message is counted as it is given up, and those that waited for it may come into order. -/
theorem exec_reasmTimeout_bound {t : Fin 8} {x : Nat} (hb : (s.reasmGone src svc prio no dev).binding svc = some (t, x))
    (hdev : dev = false) : exec (.reasmTimeout src svc prio no dev) s =
    .next ((((s.reasmGone src svc prio no dev).bump (.tnt t) 6).histSample 2 (rxSample t prio) none).settleOrder t).dispatch := by
  unfold State.reasmGone at *
  change execReasmTimeout src svc prio no dev s = _
  unfold execReasmTimeout
  rw [hr]
  refine congrArg _ ((if_pos ht).trans ?_)
  dsimp only
  rw [hb]
  exact if_neg (Bool.eq_false_iff.mp hdev)

end

end

/-- Settles O40: each command takes the branch that the clause's premises choose. -/
theorem messagesEndAndWaitByTheirTimes : Obligations.MessagesEndAndWaitByTheirTimes := by
  refine ⟨fun t id m s hm => ⟨fun n => exec_e2eTimeout hm, fun ht => ⟨exec_holdLimitExpire_handed hm ht,
      exec_holdLimitExpire_withdrawn hm ht⟩, fun src recs hs => exec_confirmationRx hs src recs⟩,
    fun s => ⟨fun t id w hw => ⟨exec_orderWaitExpire hw, exec_waitAgeExpire hw⟩, fun src svc prio no dev r hr ht => ?_⟩⟩
  exact ⟨exec_reasmTimeout_unbound hr ht, fun t x => exec_reasmTimeout_bound hr ht⟩

end Sys2Proof.Machine
end

section
/-! PROOF. Deliveries (R289, R294, R305): a delivery's start, its end once its data is written, and its loss where a write fails. -/

namespace Sys2Proof.Machine

/-! The start. -/

/-- A waiting message and the buffers it fills have become the delivery under way. -/
def State.delivering (s : State) (t : Fin 8) (w : Waiting) (bs : List Buf) : State :=
  s.setTenant t { s.tenant t with
    waits := (s.tenant t).waits.filter (fun y => decide (y.id ≠ w.id))
    bufs := (s.tenant t).bufs.filter (fun b => !bs.contains b)
    deliv := some ⟨w, bs, true⟩ }

theorem exec_deliveryStart {s : State} {t q : Fin 8} {w : Waiting} {bs : List Buf}
    (hw : (s.tenant t).waits.find? (fun w => w.queued && decide (w.q = q.val)) = some w) (hd : (s.tenant t).deliv = none)
    (he : s.cqEn t q.val = true) (hc : ((s.tenant t).comps.filter fun c => decide (c.q = q.val)).length < s.cqRoom t q.val)
    (hsp : w.spilled = false) (hs : s.serving = true) (hb : (s.tenant t).bufs.filter (fun b => decide (b.q = q.val)) ≠ [])
    (ht : takeBufs ((s.tenant t).bufs.filter fun b => decide (b.q = q.val)) w.data.length = some bs) (hm : s.mirrors = false)
    (hu : (s.delivering t w bs).mirrors = false) : exec (.deliveryStart t q false) s = .next ((s.delivering t w bs).settleWaits t) := by
  have hfree : ¬ ((s.tenant t).deliv.isSome || !s.cqEn t q.val ||
      decide (s.cqRoom t q.val ≤ ((s.tenant t).comps.filter fun c => decide (c.q = q.val)).length) || (w.spilled && !s.dramOn) ||
      !s.serving || decide ((s.tenant t).bufs.filter (fun b => decide (b.q = q.val)) = [])) = true := by
    simp only [hd, he, hsp, hs, hb, decide_eq_false (Nat.not_le.mpr hc), decide_false, Option.isSome_none, Bool.not_true,
      Bool.false_and, Bool.or_false, Bool.false_eq_true, not_false_eq_true]
  change execDeliveryStart t q false s = _
  unfold execDeliveryStart
  dsimp only
  rw [hw]
  dsimp only
  rw [if_neg Bool.false_ne_true, if_neg hfree, ht, hm]
  exact congrArg (fun u : State => Host.Outcome.next (u.settleWaits t)) (if_neg (Bool.eq_false_iff.mp hu))

/-! The end. -/

/-- The delivery under way is over. -/
def State.delivOver (s : State) (t : Fin 8) : State := s.setTenant t { s.tenant t with deliv := none }

/-- A delivery writes to host memory. -/
def Delivery.toHost (d : Delivery) : Bool := d.bufs.any fun b => !b.qmem

/-- A delivery completes in its first buffer's name: its message is timed, its completion is posted, and it is counted. -/
def State.delivered (s : State) (t : Fin 8) (d : Delivery) (tag : Nat) : State :=
  ((s.histTimed 2 (rxSample t d.msg.prio) d.msg.at_ (s.tenths d.msg.at_)).postComp t d.msg.q (compBytes tag 1 0
    (d.msg.prio % 4 + if d.msg.spilled then 64 else 0) d.msg.svc d.msg.src d.bufs.length d.msg.no d.msg.data.length) false
    d.bufs.length).bump (.tnt t) 3

/-- A delivery whose write to the host failed: its ring faults, its buffers are returned, and its message is dropped with its notice. -/
def State.deliveryLost (s : State) (t : Fin 8) (d : Delivery) : State :=
  ((d.bufs.foldl (fun s b => s.returnBuf t b 0x0D) (s.dmaFault t d.msg.q false)).dropNotice t d.msg 0x0D).bump (.tnt t) 6

/-- Nothing holds back the end of a delivery that has been mirrored, where the function may issue its requests (R412). -/
theorem delivery_not_held {s : State} {t : Fin 8} {d : Delivery} (hmir : d.mir = true) (hr : s.restarting = false)
    (hm : d.toHost = true → s.dmaOk t = true) : ¬ (!d.mir || s.restarting || (d.toHost && !s.dmaOk t)) = true := by
  cases hh : d.toHost with
  | false => simp [hmir, hr]
  | true => simp [hmir, hr, hm hh]

section
variable {s : State} {t : Fin 8} {d : Delivery} (hd : (s.tenant t).deliv = some d)
include hd

theorem exec_deliveryWriteDone_barred (hh : d.toHost = true) (hm : s.dmaOk t = false) (ok : Bool) :
    exec (.deliveryWriteDone t ok) s = .next s := by
  change execDeliveryWriteDone t ok s = _
  unfold execDeliveryWriteDone
  rw [hd]
  exact congrArg _ (if_pos (show (!d.mir || s.restarting || (d.toHost && !s.dmaOk t)) = true by rw [hh, hm]; simp))

variable (hmir : d.mir = true) (hr : s.restarting = false)
include hmir hr

theorem exec_deliveryWriteDone_written (he : d.msg.e2e = false) (hm : d.toHost = true → s.dmaOk t = true) {v : State} {b : Buf}
    {bs : List Buf} {ok : Bool} (hok : d.toHost = true → ok = true) (hv : (s.delivOver t).writeBufs t d.bufs d.msg.data = some v)
    (hb : d.bufs = b :: bs) : exec (.deliveryWriteDone t ok) s = .next ((v.delivered t d b.tag).settleWaits t).dispatch := by
  have hgood : (ok || !d.toHost) = true := by
    cases hh : d.toHost with
    | false => rw [Bool.not_false, Bool.or_true]
    | true => rw [hok hh, Bool.true_or]
  unfold Delivery.toHost at hgood
  unfold State.delivOver at hv
  change execDeliveryWriteDone t ok s = _
  unfold execDeliveryWriteDone
  rw [hd]
  refine congrArg _ ((if_neg (delivery_not_held hmir hr hm)).trans ?_)
  dsimp only
  rw [if_pos hgood, hv]
  dsimp only
  rw [if_neg (Bool.eq_false_iff.mp he), hb]
  unfold State.delivered
  rw [hb]

theorem exec_deliveryWriteDone_failed (hh : d.toHost = true) (hm : s.dmaOk t = true) : exec (.deliveryWriteDone t false) s =
    .next (((s.delivOver t).deliveryLost t d).settleWaits t).dispatch := by
  change execDeliveryWriteDone t false s = _
  unfold execDeliveryWriteDone
  rw [hd]
  refine congrArg _ ((if_neg (delivery_not_held hmir hr fun _ => hm)).trans ?_)
  unfold Delivery.toHost at hh
  dsimp only
  rw [hh]
  rfl

end

theorem exec_completionWriteDone (s : State) (t : Fin 8) (k : Fin 9) (ok : Bool) :
    exec (.completionWriteDone t k ok) s = .next (s.compWritten t k.val ok).quotas.issueFetch := rfl

/-- Settles O41: a delivery's start where nothing holds it back, its end through whether the host can be written and was, and a completion
through what its command says of it. -/
theorem deliveriesFillTheirBuffers : Obligations.DeliveriesFillTheirBuffers := by
  refine fun t q s => ⟨fun w bs hw => ?_, fun d hd hmir hr he => ?_, exec_completionWriteDone s t⟩
  · intro x mine hd hen hc hsp hs hb ht hm u hu
    exact exec_deliveryStart hw hd hen hc hsp hs hb ht hm hu
  · intro u host
    exact ⟨fun hh hm => exec_deliveryWriteDone_barred hd hh hm, fun hm v b bs ok hok hv hb =>
      exec_deliveryWriteDone_written hd hmir hr he hm hok hv hb, exec_deliveryWriteDone_failed hd hmir hr⟩

end Sys2Proof.Machine
end

section
/-! PROOF. Events and registers in every state: an event that its page defines leaves a word other than the register's reset value, so
that what it leaves to read does not rest on the rising order of the register file. And what judging the quotas leaves (R284). -/

namespace Sys2Proof.Machine

/-- An insertion leaves what is read at every other address, whatever the order of the entries. -/
theorem storeGet_ins_ne {V : Type} (d : V) {j k : Nat} (v : V) (h : j ≠ k) :
    ∀ m : Store V, storeGet d (storeIns m k v) j = storeGet d m j
  | [] => by simp [storeIns, storeGet, h]
  | (a, w) :: r => by
    unfold storeIns
    split
    · rename_i hk
      subst hk
      simp [storeGet, h]
    · split
      · rename_i hka
        have hja : j < k → j ≠ a ∧ j < a := fun hlt => ⟨by omega, by omega⟩
        by_cases hlt : j < k
        · simp [storeGet, h, hlt, hja hlt]
        · simp [storeGet, h, hlt]
      · simp only [storeGet, storeGet_ins_ne d v h r]

section
variable {s : State} {p : Page} {i : Nat} (hi : i < 32) (hm : (eventMask p).getLsbD i = true)
include hi hm

/-- The word of `PG_EVENT` after a defined event is not its reset value, which is 0. -/
theorem eventWord_ne_reset : s.reg p offEvent ||| (onesAt i 1 &&& eventMask p) ≠ resetWord p offEvent := by
  intro he
  rw [show resetWord p offEvent = 0 from if_pos (.inl (by decide))] at he
  have hbit := congrArg (BitVec.getLsbD · i) he
  simp only [BitVec.getLsbD_or, BitVec.getLsbD_and, onesAt_bit, hm] at hbit
  simp [hi] at hbit

theorem event_regs_ins :
    (s.event p i).regs = storeIns s.regs (regKey p offEvent) (s.reg p offEvent ||| (onesAt i 1 &&& eventMask p)) :=
  (setEvents_regs p (onesAt i 1)).trans (if_neg (eventWord_ne_reset hi hm))

theorem event_reg_raised : (s.event p i).reg p offEvent = s.reg p offEvent ||| (onesAt i 1 &&& eventMask p) := by
  unfold State.reg
  rw [event_regs_ins hi hm]
  exact storeGet_ins_same ..

theorem event_bit_raised : ((s.event p i).reg p offEvent).getLsbD i = true := by
  rw [event_reg_raised hi hm]
  simp [onesAt_bit, hi, hm]

theorem event_reg_other {r : Page} {o : Nat} (hk : regKey r o ≠ regKey p offEvent) : (s.event p i).reg r o = s.reg r o := by
  unfold State.reg
  rw [event_regs_ins hi hm]
  exact storeGet_ins_ne _ _ hk _

end

theorem bump_beside (s : State) (p : Page) (i : Nat) : s.Beside (s.bump p i) := bumpBy_beside s p i 1

/-! The quotas. -/

/-- What judging the quotas keeps: whatever neither a tenant's own state nor OVER_QUOTA on its two pages touches. -/
theorem quotas_induct {P : State → Prop} (hset : ∀ u t x, P u → P (u.setTenant t x))
    (hev : ∀ (u : State) t, P u → P ((u.event (.tnt t) 4).event (.tpage t) 4)) {s : State} (h : P s) : P s.quotas := by
  unfold State.quotas
  generalize List.finRange 8 = l
  induction l generalizing s with
  | nil => exact h
  | cons t l ih =>
    refine ih ?_
    dsimp only
    split
    · exact hev _ t (hset s t _ h)
    · exact hset s t _ h

theorem quotas_cph (s : State) : s.quotas.cph = s.cph :=
  quotas_induct (P := fun u => u.cph = s.cph) (fun _ _ _ h => h) (fun u t h => by simpa using h) rfl

theorem quotas_nvm (s : State) : s.quotas.nvm = s.nvm :=
  quotas_induct (P := fun u => u.nvm = s.nvm) (fun _ _ _ h => h) (fun u t h => by simpa using h) rfl

theorem overQuota_defined (t : Fin 8) : (eventMask (.tnt t)).getLsbD 4 = true ∧ (eventMask (.tpage t)).getLsbD 4 = true := by
  revert t
  decide

/-- Every page but the tenants' two reads as before. -/
theorem quotas_reg (s : State) {p : Page} {o : Nat} (ho : o < 0x1000) (hp : ∀ t, p ≠ .tnt t ∧ p ≠ .tpage t) :
    s.quotas.reg p o = s.reg p o := by
  refine quotas_induct (P := fun u => u.reg p o = s.reg p o) (fun _ _ _ h => h) (fun u t h => ?_) rfl
  obtain ⟨h1, h2⟩ := hp t
  obtain ⟨hm1, hm2⟩ := overQuota_defined t
  have hoff : offEvent < 0x1000 := by decide
  rw [event_reg_other (by decide) hm2 fun e => h2 (regKey_inj ho hoff e).1,
    event_reg_other (by decide) hm1 fun e => h1 (regKey_inj ho hoff e).1]
  exact h

end Sys2Proof.Machine
end

section
/-! PROOF. KEY_CMD (R325 to R331): the operations where their arguments are good, and what the end of a command leaves. -/

namespace Sys2Proof.Machine

theorem reach_key (s : State) (b : Bool) : s.reach .key b = .key := by
  cases b <;> rfl

/-! A command begins, and runs. -/

/-- A written word of `KEY_CMD` has been stored and its command is in progress. -/
def State.keyBegun (s : State) (w : Word) : State :=
  let a := applyWrite .key 0x040 w s
  { a with cph := { a.cph with busy := true } }

section
variable {s : State}

theorem keyCmdWrite_go {w : Word} (hb : s.cph.busy = false) (he : s.enabled .key = true) (hgo : w.getLsbD 31 = true) :
    keyCmdWrite .key w s = (s.keyBegun w).keyRun := by
  unfold keyCmdWrite
  dsimp only
  rw [hb, hgo, applyWrite_enabled w (by decide) he]
  exact (if_neg Bool.false_ne_true).trans (if_pos rfl)

/-- A command in progress whose slots no lane uses runs to its end while a privileged lane is in service. -/
theorem keyRun_ends {status k : Nat} {v : State} (hb : s.cph.busy = true) (hl : s.cmdSlots.any s.slotInUse = false)
    (hp : s.privOk = true) (hop : s.keyOp = (status, k, v)) : s.keyRun = State.keyEnd (status, k) v := by
  unfold State.keyRun
  dsimp only
  rw [hb, hl, hp, hop, Bool.not_true, Bool.and_false]
  rfl

/-- What each of the eight commands does: the operation that its word asks for. -/
theorem keyCmd_next {q : Req} {status k : Nat} {v : State} (h : s.Takes q .key 0x040) (hgo : q.val.getLsbD 31 = true)
    (he : s.enabled .key = true) (hb : s.cph.busy = false) (hp : ((s.at_ .key q.serial).keyBegun q.val).privOk = true)
    (hl : ((s.at_ .key q.serial).keyBegun q.val).cmdSlots.any ((s.at_ .key q.serial).keyBegun q.val).slotInUse = false)
    (hop : ((s.at_ .key q.serial).keyBegun q.val).keyOp = (status, k, v)) :
    (.next (writeWord q .key 0x040 keyCmdWrite s) : Host.Outcome State Fault Refusal) = .next (State.keyEnd (status, k) v) := by
  rw [writeWord_takes h, reach_key, keyCmdWrite_go ((congrArg Cipher.busy (State.touch_cph ..)).trans hb) ((touch_enabled ..).trans he) hgo,
    keyRun_ends rfl hl hp hop]

/-! The operations. -/

/-- PK_LOAD of a key in clear, before the provisioning is locked (R328). -/
theorem keyOp_pkLoad (hop : s.kArg F.KEY_CMD_OP = 0) (hk : s.kArg F.KEY_ARG0_PK ≠ 0) (hlo : 2 ≤ s.kArg F.KEY_ARG0_ROLE)
    (hhi : s.kArg F.KEY_ARG0_ROLE ≤ 5) (hw : s.kArg F.KEY_ARG0_WRAPPED = 0) (hn : s.nvm.locked = false) :
    s.keyOp = (0, 0, s.setPk (s.kArg F.KEY_ARG0_PK)
      ⟨s.kArg F.KEY_ARG0_ROLE, decide (s.kArg F.KEY_ARG0_SIZE256 = 1), s.stagedKey⟩) := by
  unfold State.keyOp
  rw [hop]
  change s.pkLoadCmd = _
  unfold State.pkLoadCmd
  dsimp only
  rw [if_neg (by omega), if_pos hw, hn]
  rfl

theorem keyOp_pkClear (hop : s.kArg F.KEY_CMD_OP = 1) (hk : s.kArg F.KEY_ARG0_PK ≠ 0) :
    s.keyOp = (0, 0, s.setPk (s.kArg F.KEY_ARG0_PK) ⟨0, false, 0⟩) := by
  unfold State.keyOp
  rw [hop]
  exact if_neg hk

/-- The derivation that DERIVE's arguments ask for. -/
def State.argDerive (s : State) : DeriveCmd :=
  ⟨s.kArg F.KEY_ARG0_PK, s.kArg F.KEY_ARG0_LABEL, s.kArg F.KEY_ARG0_IDX, s.kArg F.KEY_ARG2_NODE % 65536⟩

/-- A slot is filled, used now, and kept in MRAM with the derivation it came by, if any. -/
def State.keptSlot (s : State) (k : Nat) (x : KeySlot) (d : Option DeriveCmd) : State := ((s.putSlot k x).useSlot k).saveSlot k d

section
variable {k kid key : Nat}

/-- DERIVE into a free slot, with a label and an index that R330 gives a meaning. -/
theorem keyOp_derive (hop : s.kArg F.KEY_CMD_OP = 2) (hs : s.kArg F.KEY_ARG1_SLOT = k) (hi : s.kArg F.KEY_ARG1_KID = kid) (hk : 64 ≤ k)
    (hkid : kid ≤ 0xFFEF) (hfree : s.slot? k = none) (hroom : s.loadFull = false) (hheld : s.kidHeld kid k = false)
    (hlo : 1 ≤ s.argDerive.label) (hhi : s.argDerive.label ≤ 4) (hidx : s.argDerive.label ≠ 3 → s.argDerive.idx = 0)
    (hkey : s.deriveCmdKey s.argDerive = some key) :
    s.keyOp = (0, k, s.keptSlot k (derivedSlot s.argDerive.label kid key) (some s.argDerive)) := by
  have hargs : ¬ (k < 64 ∨ 0xFFEF < kid ∨ ¬ (1 ≤ s.argDerive.label ∧ s.argDerive.label ≤ 4) ∨
      (s.argDerive.label ≠ 3 ∧ s.argDerive.idx ≠ 0) ∨ false = true) := by
    rintro (h | h | h | ⟨h3, h⟩ | h)
    · omega
    · omega
    · exact h ⟨hlo, hhi⟩
    · exact h (hidx h3)
    · cases h
  unfold State.argDerive at *
  unfold State.keyOp
  rw [hop]
  change s.deriveRun = _
  unfold State.deriveRun
  dsimp only
  rw [hs, hi, hfree, if_neg hargs, hkey, hheld, hroom]
  rfl

/-- GROUP_LOAD of wrapped material that unwraps with its binding (R325, R329). -/
theorem keyOp_groupLoad (hop : s.kArg F.KEY_CMD_OP = 3) (hs : s.kArg F.KEY_ARG1_SLOT = k) (hi : s.kArg F.KEY_ARG1_KID = kid) (hk : k < 64)
    (hkid : kid ≤ 0xFFEF) (hattr : attrBad (s.kArg F.KEY_ARG0_MODES) (s.kArg F.KEY_ARG0_TAG16 = 1) = false)
    (hheld : s.kidHeld kid k = false)
    (hu : s.stagedUnwrap 3 ([2] ++ beBytes 2 kid ++ [s.argAttr, s.kArg F.KEY_ARG2_USE, 0, 0, 0]) = (0, key)) :
    s.keyOp = (0, k, s.keptSlot k (s.argSlot 0 kid (s.kArg F.KEY_ARG2_USE) key) none) := by
  have hargs : ¬ (64 ≤ k ∨ 0xFFEF < kid ∨ attrBad (s.kArg F.KEY_ARG0_MODES) (s.kArg F.KEY_ARG0_TAG16 = 1) = true) := by
    rw [hattr]
    simp only [Bool.false_eq_true, or_false]
    omega
  unfold State.keyOp
  rw [hop]
  change s.groupLoadCmd = _
  unfold State.groupLoadCmd
  dsimp only
  rw [hs, hi, if_neg hargs, hu, hheld]
  rfl

/-- OWN_LOAD over the slot that holds the node's own key (R329). -/
theorem keyOp_ownLoad (hop : s.kArg F.KEY_CMD_OP = 4) (hattr : attrBad (s.kArg F.KEY_ARG0_MODES) (s.kArg F.KEY_ARG0_TAG16 = 1) = false)
    (hu : s.stagedUnwrap 3 ([3] ++ beBytes 3 s.ownNode ++ [s.argAttr, 0, 0, 0]) = (0, key)) (hk : s.ownSlot = some k) :
    s.keyOp = (0, k, s.keptSlot k (s.argSlot 4 0 0 key) none) := by
  unfold State.keyOp
  rw [hop]
  change s.ownLoadCmd = _
  unfold State.ownLoadCmd
  rw [hattr]
  dsimp only
  rw [hu, hk]
  rfl

end

/-- The record that WKT_PUT makes of a wrapped 128-bit key. -/
def State.argRecord (s : State) : WktRec :=
  ⟨true, s.kArg F.KEY_ARG2_NODE, s.kArg F.KEY_ARG0_WRAP_PK, s.stagedBytes.take 32 ++ List.replicate 16 0⟩

/-- The record has been written to MRAM, in two rows (R331). -/
def State.wktStored (s : State) : State :=
  ({ s with nvm := { s.nvm with wkt := storeIns s.nvm.wkt (s.kArg F.KEY_ARG3_INDEX) s.argRecord } } : State).bumpBy .nvm 0 2

theorem keyOp_wktPut {key : Nat} (hop : s.kArg F.KEY_CMD_OP = 5) (hloc : s.kArg F.KEY_ARG3_LOC = 2) (hi : s.kArg F.KEY_ARG3_INDEX < 8192)
    (hbig : decide (s.kArg F.KEY_ARG0_SIZE256 = 1) = false)
    (hu : s.stagedUnwrap 3 ([3] ++ beBytes 3 (s.kArg F.KEY_ARG2_NODE) ++ [s.argAttr, 0, 0, 0]) = (0, key))
    (hslot : s.wktStored.handleSlot (2 * 2 ^ 28 + s.kArg F.KEY_ARG3_INDEX) = none) :
    s.keyOp = (0, s.kArg F.KEY_ARG3_INDEX, s.wktStored) := by
  have hsize : ¬ s.kArg F.KEY_ARG0_SIZE256 = 1 := of_decide_eq_false hbig
  unfold State.wktStored State.argRecord at *
  unfold State.keyOp
  rw [hop]
  change s.wktPutCmd = _
  unfold State.wktPutCmd
  dsimp only
  rw [hloc, decide_eq_true hi, hu, if_neg hsize, if_neg (by simp), if_neg (by simp), if_neg (by decide), hslot]

theorem keyOp_slotQuery_empty (hop : s.kArg F.KEY_CMD_OP = 6) (hfree : s.slot? (s.kArg F.KEY_ARG1_SLOT) = none) :
    s.keyOp = (7, 0, (s.setReg .key 0x058 0).setReg .key 0x05C 0) := by
  unfold State.keyOp
  rw [hop]
  change s.slotQueryCmd = _
  unfold State.slotQueryCmd
  dsimp only
  rw [hfree]
  rfl

/-- SLOT_CLEAR of a slot that MRAM does not keep. -/
theorem keyOp_slotClear {x : KeySlot} (hop : s.kArg F.KEY_CMD_OP = 7) (hx : s.slot? (s.kArg F.KEY_ARG1_SLOT) = some x)
    (hk : 64 ≤ s.kArg F.KEY_ARG1_SLOT) (ht : x.typ < 3) :
    s.keyOp = (0, s.kArg F.KEY_ARG1_SLOT, s.delSlot (s.kArg F.KEY_ARG1_SLOT) true) := by
  unfold State.keyOp
  rw [hop]
  change s.slotClearCmd = _
  unfold State.slotClearCmd
  dsimp only
  rw [hx]
  dsimp only
  rw [decide_eq_false (Nat.not_lt.mpr hk), decide_eq_false (Nat.not_le.mpr ht)]
  rfl

end

/-! The end of a command. -/

/-- A command's failure is counted: its own, and that of an unwrap. -/
def State.keyCounted (s : State) (status : Nat) : State :=
  let s1 := if status = 2 then s.unwrapFail else s
  if status = 0 then s1 else s1.bump .key 6

/-- Staging registers are cleared. -/
def State.unstage (s : State) (l : List Nat) : State := l.foldl (fun s i => s.setReg .key (0x0C0 + 4 * i) 0) s

/-- The state in which a command's result is posted and its staged words are cleared. -/
def State.keyPosted (s : State) (r : Nat × Nat) : State :=
  ((s.keyCounted r.1).unstage (List.range 12)).setReg .key 0x054 (BitVec.ofNat 32 (r.1 * 2 ^ 28 + r.2 % 2 ^ 28))

/-- No command is in progress. -/
def State.keyFreed (s : State) : State := { s with cph := { s.cph with busy := false } }

theorem keyFreed_cph (s : State) : s.keyFreed.cph = { s.cph with busy := false } := rfl

theorem keyFreed_nvm (s : State) : s.keyFreed.nvm = s.nvm := rfl

theorem keyFreed_reg (s : State) (p : Page) (o : Nat) : s.keyFreed.reg p o = s.reg p o := rfl

theorem keyEnd_eq (r : Nat × Nat) (s : State) : State.keyEnd r s = ((s.keyPosted r).keyFreed.event .key 1).quotas := rfl

theorem key_not_tenants (t : Fin 8) : Page.key ≠ .tnt t ∧ Page.key ≠ .tpage t := by
  revert t
  decide

theorem unstage_beside (s : State) (l : List Nat) : s.Beside (s.unstage l) := foldl_beside (fun s _ => setReg_beside s _ _ _) l s

theorem unwrapFail_beside (s : State) : s.Beside s.unwrapFail := beside_trans (bump_beside s .key 3) (event_beside _ _ _)

theorem keyCounted_beside (s : State) (status : Nat) : s.Beside (s.keyCounted status) := by
  have h1 : s.Beside (if status = 2 then s.unwrapFail else s) := by
    split
    · exact unwrapFail_beside s
    · exact beside_refl s
  unfold State.keyCounted
  dsimp only
  split
  · exact h1
  · exact beside_trans h1 (bump_beside _ _ _)

theorem keyPosted_beside (s : State) (r : Nat × Nat) : s.Beside (s.keyPosted r) :=
  beside_trans (keyCounted_beside s r.1) (beside_trans (unstage_beside _ _) (setReg_beside _ _ _ _))

section
variable {s : State} (h : risingFrom 0 s.regs = true)
include h

theorem keyCounted_rising (status : Nat) : risingFrom 0 (s.keyCounted status).regs = true := by
  have h1 : risingFrom 0 (if status = 2 then s.unwrapFail else s).regs = true := by
    split
    · exact event_rising (bump_rising h _ _) _ _
    · exact h
  unfold State.keyCounted
  dsimp only
  split
  · exact h1
  · exact bump_rising h1 _ _

theorem unstage_rising (l : List Nat) : risingFrom 0 (s.unstage l).regs = true := by
  induction l generalizing s with
  | nil => exact h
  | cons a l ih => exact ih (setReg_rising h _ _ _)

/-- A word that reads zero goes on doing so. -/
theorem unstage_reg_zero {k : Nat} (hk : s.reg .key k = 0) (l : List Nat) : (s.unstage l).reg .key k = 0 := by
  induction l generalizing s with
  | nil => exact hk
  | cons a l ih =>
    refine ih (setReg_rising h _ _ _) ?_
    by_cases ha : k = 0x0C0 + 4 * a
    · subst ha
      exact setReg_reg_same h _ _ _
    · exact (setReg_reg_off h _ _ ha).trans hk

theorem unstage_reg_mem {i : Nat} {l : List Nat} (hi : i ∈ l) : (s.unstage l).reg .key (0x0C0 + 4 * i) = 0 := by
  induction l generalizing s with
  | nil => cases hi
  | cons a l ih =>
    have h1 := setReg_rising h .key (0x0C0 + 4 * a) 0
    rcases List.mem_cons.1 hi with rfl | hi
    · exact unstage_reg_zero h1 (setReg_reg_same h _ _ _) l
    · exact ih h1 hi

theorem keyPosted_reg_res (r : Nat × Nat) : (s.keyPosted r).reg .key 0x054 = BitVec.ofNat 32 (r.1 * 2 ^ 28 + r.2 % 2 ^ 28) :=
  setReg_reg_same (unstage_rising (keyCounted_rising h _) _) _ _ _

theorem keyPosted_reg_staged (r : Nat × Nat) {i : Nat} (hi : i < 12) : (s.keyPosted r).reg .key (0x0C0 + 4 * i) = 0 := by
  have h1 := keyCounted_rising h r.1
  exact (setReg_reg_off (unstage_rising h1 _) _ _ (by omega)).trans (unstage_reg_mem h1 (List.mem_range.2 hi))

end

section
variable (r : Nat × Nat) (s : State)

/-- The end of a command leaves KEY's other words as its result's posting does. -/
theorem keyEnd_reg {o : Nat} (ho : o < 0x1000) (hne : o ≠ offEvent) : (State.keyEnd r s).reg .key o = (s.keyPosted r).reg .key o := by
  rw [keyEnd_eq, quotas_reg _ ho key_not_tenants, event_reg_other (by decide) (by decide) (by unfold regKey; omega), keyFreed_reg]

theorem keyEnd_event : ((State.keyEnd r s).reg .key offEvent).getLsbD 1 = true := by
  rw [keyEnd_eq, quotas_reg _ (by decide) key_not_tenants]
  exact event_bit_raised (by decide) (by decide)

theorem keyEnd_cph : (State.keyEnd r s).cph = { s.cph with busy := false } := by
  rw [keyEnd_eq, quotas_cph, State.event_cph, keyFreed_cph, beside_cph (keyPosted_beside s r)]

theorem keyEnd_nvm : (State.keyEnd r s).nvm = s.nvm := by
  rw [keyEnd_eq, quotas_nvm, State.event_nvm, keyFreed_nvm, beside_nvm (keyPosted_beside s r)]

end

/-- Settles O36: each operation's answer where its arguments are good, carried to the command by `keyCmd_next`, and what `keyEnd`
leaves of the registers and beside them. -/
theorem keyCommandsDoTheirWorkAndForget : Obligations.KeyCommandsDoTheirWorkAndForget := by
  refine ⟨fun q s h hgo he hb => ?_, fun r s hs => ?_⟩
  · intro a u op pk slot kid big good hp hl
    have next {status k : Nat} {v : State} (hop : u.keyOp = (status, k, v)) := keyCmd_next h hgo he hb hp hl hop
    refine ⟨fun hop hk hlo hhi hw hn => ?_, fun hop hk => next (keyOp_pkClear hop hk), fun hop hk hkid hfree hroom hheld => ?_,
      fun hop hk hkid hg hheld key hu => ?_, fun hop hg key k hu hk => ?_, fun hop hloc hi hbig key hu => ?_,
      fun hop hfree => next (keyOp_slotQuery_empty hop hfree), fun hop x hx hk ht => next (keyOp_slotClear hop hx hk ht)⟩
    · have hnvm : u.nvm = s.nvm := State.touch_nvm s ((s.reach .key q.serial).fn q.serial)
      exact next (keyOp_pkLoad hop hk hlo hhi hw ((congrArg Nvm.locked hnvm).trans hn))
    · intro d hlo hhi hidx key hkey
      exact next (keyOp_derive hop rfl rfl hk hkid hfree hroom hheld hlo hhi hidx hkey)
    · exact next (keyOp_groupLoad hop rfl rfl hk hkid (Bool.not_inj (y := false) hg) hheld hu)
    · exact next (keyOp_ownLoad hop (Bool.not_inj (y := false) hg) hu hk)
    · intro i v hslot
      exact next (keyOp_wktPut hop hloc hi hbig hu hslot)
  · obtain ⟨_, hrise, _⟩ := hs
    refine ⟨?_, fun i hi => ?_, keyEnd_event r s, keyEnd_cph r s, keyEnd_nvm r s⟩
    · rw [keyEnd_reg r s (by decide) (by decide), keyPosted_reg_res hrise]
    · rw [keyEnd_reg r s (by omega) (by unfold offEvent; omega), keyPosted_reg_staged hrise r hi]

end Sys2Proof.Machine
end

section
/-! PROOF. KEY_PROV, KEY_ZERO and slots that fail (R328, R334). -/

namespace Sys2Proof.Machine

/-- What zeroisation forgets (R328): every slot and whatever waits for one, the provisioned keys but PK0, records and stored commands. -/
def State.forgotten (s : State) : State :=
  { s with
    net := { s.net with frames := s.net.frames.filter (fun f => !decide (f.st = .key ∨ f.st = .enc)), auths := [] }
    cph := { s.cph with
      slots := [], wait := [], lanes := s.cph.lanes.map fun _ => none
      pk := s.cph.pk.zipIdx.map fun e => if e.2 = 0 then e.1 else ⟨0, false, 0⟩ }
    nvm := { s.nvm with
      slots := [], derives := [], wkt := [], locked := false
      pk := s.nvm.pk.zipIdx.map fun e => if e.2 = 0 then e.1 else ⟨0, false, 0⟩ } }

theorem forgotten_pkEntry (s : State) {k : Nat} (hk : 0 < k) : s.forgotten.pkEntry k = ⟨0, false, 0⟩ := by
  unfold State.pkEntry State.forgotten
  simp only [List.getD_eq_getElem?_getD, List.getElem?_map, List.getElem?_zipIdx, Nat.zero_add]
  cases s.cph.pk[k]? with
  | none => rfl
  | some e => exact if_neg (Nat.ne_of_gt hk)

/-- The counts and the event that end a zeroisation, once all is forgotten. -/
def State.zeroEnd (s : State) (n : Nat) : State := ((s.bumpBy .key 4 n).nvmRows.event .key 2).quotas

theorem zeroise_ends (s : State) : ∃ u n, s.zeroise = (State.forgotten u).zeroEnd n := ⟨_, _, rfl⟩

section
variable (s : State) (n : Nat)

theorem zeroEnd_cph : (s.zeroEnd n).cph = s.cph := by
  unfold State.zeroEnd State.nvmRows
  simp [quotas_cph]

theorem zeroEnd_nvm : (s.zeroEnd n).nvm = s.nvm := by
  unfold State.zeroEnd State.nvmRows
  simp [quotas_nvm]

theorem zeroEnd_event : ((s.zeroEnd n).reg .key offEvent).getLsbD 2 = true := by
  unfold State.zeroEnd
  rw [quotas_reg _ (by decide) key_not_tenants]
  exact event_bit_raised (by decide) (by decide)

end

/-! The commands. -/

section
variable {s : State} {q : Req}

theorem exec_provLock (h : s.Takes q .key 0x060) (hbit : q.val.getLsbD 0 = true) (hl : s.nvm.locked = false) :
    let a := s.at_ .key q.serial
    exec (.provLock q) s = .next ({ a with nvm := { a.nvm with locked := true } }).nvmRows := by
  refine congrArg Host.Outcome.next ((writeWord_takes h _).trans (if_pos ?_))
  rw [hbit, State.touch_nvm, hl]
  rfl

theorem exec_zeroise (h : s.Takes q .key 0x064) :
    exec (.zeroise q) s = .next (if q.val = 0x800000A5 then (s.at_ .key q.serial).zeroise else s.at_ .key q.serial) :=
  congrArg Host.Outcome.next (writeWord_takes h _)

theorem exec_zeroise_ignored (h : s.Takes q .key 0x064) (hw : q.val ≠ 0x800000A5) : exec (.zeroise q) s = .next (s.at_ .key q.serial) := by
  rw [exec_zeroise h, if_neg hw]

theorem exec_zeroise_ends (h : s.Takes q .key 0x064) (hw : q.val = 0x800000A5) :
    ∃ u n, exec (.zeroise q) s = .next ((State.forgotten u).zeroEnd n) := by
  obtain ⟨u, n, hz⟩ := zeroise_ends (s.at_ .key q.serial)
  exact ⟨u, n, by rw [exec_zeroise h, if_pos hw, hz]⟩

end

section
variable {s : State} {k : Fin 4096} {x : KeySlot} (hx : s.slot? k.val = some x)
include hx

/-- A slot that MRAM keeps is lost until it is restored (R334). -/
theorem exec_keySlotParity_kept (hk : k.val < 64 ∨ 3 ≤ x.typ) :
    exec (.keySlotParity k) s = .next (((s.fault .key 0 k.val).bump .key 5).putSlot k.val { x with lost := true }) := by
  change execKeySlotParity k s = _
  unfold execKeySlotParity
  rw [hx]
  exact congrArg Host.Outcome.next (if_pos (by simpa using hk))

/-- Any other slot is gone; a tenant's own is reported. -/
theorem exec_keySlotParity_gone (hk : 64 ≤ k.val) (ht : x.typ < 3) : exec (.keySlotParity k) s = .next
    (if x.typ ≤ 1 then (((s.fault .key 0 k.val).bump .key 5).delSlot k.val false).event .key 3
      else ((s.fault .key 0 k.val).bump .key 5).delSlot k.val false).quotas := by
  change execKeySlotParity k s = _
  unfold execKeySlotParity
  rw [hx]
  exact congrArg Host.Outcome.next (if_neg (by simp; omega))

theorem exec_keySlotRestored {n : Nat} {y : KeySlot} (hy : s.nvm.slots.find? (fun e => decide (e.1 = k.val)) = some (n, y))
    (hl : x.lost = true) : exec (.keySlotRestored k) s = .next (s.putSlot k.val { y with lost := false, used := x.used }) := by
  change execKeySlotRestored k s = _
  unfold execKeySlotRestored
  rw [hx, hy]
  exact congrArg Host.Outcome.next (if_pos hl)

end

/-- Settles O37: the two writes through their access, zeroisation through what it has forgotten when its counts and its event end it, and
each fate of a slot. -/
theorem keysAreProvisionedZeroisedAndRestored : Obligations.KeysAreProvisionedZeroisedAndRestored := by
  refine ⟨fun q s => ⟨exec_provLock, exec_zeroise_ignored, fun h hw => ?_⟩, fun k x s hx => ⟨exec_keySlotParity_kept hx, fun hk ht => ?_,
    fun hk ht => ?_, fun n y hy hl => exec_keySlotRestored hx hy hl⟩⟩
  · obtain ⟨u, n, hz⟩ := exec_zeroise_ends h hw
    have hcph := zeroEnd_cph (State.forgotten u) n
    have hnvm := zeroEnd_nvm (State.forgotten u) n
    refine ⟨_, hz, congrArg Cipher.slots hcph, congrArg Cipher.wait hcph, congrArg Nvm.slots hnvm, congrArg Nvm.derives hnvm,
      congrArg Nvm.wkt hnvm, congrArg Nvm.locked hnvm, fun k hk => ?_, zeroEnd_event _ n⟩
    exact (congrArg (fun c : Cipher => c.pk.getD k ⟨0, false, 0⟩) hcph).trans (forgotten_pkEntry u hk)
  · rw [exec_keySlotParity_gone hx hk (by omega), if_pos ht]
  · rw [exec_keySlotParity_gone hx hk (by omega), if_neg (by omega)]

end Sys2Proof.Machine
end

section
/-! PROOF. The cipher ring's requests (R333, R342): those that move data, RANDOM, and keys loaded and unloaded by their tenants. -/

namespace Sys2Proof.Machine

section
variable {t : Fin 8} {s u : State} {d : List Nat}

/-! Requests that move data. -/

section
variable {opc : Nat} {r : Fetched} (h : s.takeCr t opc = some (d, u))
include h

theorem runCr_refused (hc : u.crCheck t d ≠ 0) : s.runCr t opc r = (u.postCr t d (u.crCheck t d) (crKey d) [] 0).quotas := by
  unfold State.runCr
  rw [h]
  dsimp only
  rw [if_pos hc]

/-- Data in queue memory aside, a good request goes by what the host gave. -/
theorem runCr_checked (hc : u.crCheck t d = 0) (hq : bitOf (d.getD 1 0) 5 = false) : s.runCr t opc r =
    match r with
    | .fail => ((u.dmaFault t 8 false).postCr t d 9 (crKey d) [] 0).quotas
    | .ok b poison => if poison then (u.postCr t d 0x0A (crKey d) [] 0).quotas
        else ((u.useSlot (crKey d)).addReq (.direct t.val d (b.take (u.crNeed d)))).dispatch := by
  have hdata : u.crData t d (u.crNeed d) r = (r, u) := by
    unfold State.crData
    rw [hq]
    rfl
  unfold State.runCr
  rw [h]
  dsimp only
  rw [if_neg (not_not.mpr hc), hdata]
  cases r with
  | fail =>
    dsimp only
    unfold State.crHostFault
    rw [if_neg (Bool.eq_false_iff.mp hq)]
  | ok b poison => rfl

end

/-- The four commands are one operation under four numbers. -/
theorem exec_runCr {opc : Nat} {c : Instr} {r : Fetched}
    (hc : (opc, c) ∈ [(0x10, Instr.cipherEncrypt t r), (0x11, .cipherDecrypt t r), (0x12, .cipherMac t r), (0x13, .cipherVerify t r)]) :
    exec c s = .next (s.runCr t opc r) := by
  simp only [List.mem_cons, List.not_mem_nil, or_false, Prod.mk.injEq] at hc
  rcases hc with ⟨rfl, rfl⟩ | ⟨rfl, rfl⟩ | ⟨rfl, rfl⟩ | ⟨rfl, rfl⟩ <;> rfl

/-! RANDOM. -/

theorem exec_cipherRandom (h : s.takeCr t 0x14 = some (d, u)) (hv : crInvalid d = false) : exec (.cipherRandom t) s =
    .next (if u.halted || u.faulted .ent 1 then ((u.postCr t d 0x0B (crKey d) [] 0).bump .ent 2).quotas
      else (u.addReq (.direct t.val d [])).dispatch) := by
  change execCipherRandom t s = _
  unfold execCipherRandom
  rw [h]
  exact congrArg Host.Outcome.next (if_neg (Bool.eq_false_iff.mp hv))

/-! Keys. -/

/-- The slot that a load fills: a PEER slot, which holds no key, or a KEY slot. -/
def loadedSlot (t : Fin 8) (d : List Nat) (key : Nat) : KeySlot :=
  if bitOf (d.getD 50 0) 6 then KeySlot.make 1 false false 0 false t.val 0 (leAt d 48 2) 0 0
  else KeySlot.make 0 (bitOf (d.getD 50 0) 5) (bitOf (d.getD 50 0) 4) (d.getD 50 0 % 16) false t.val 0 (leAt d 48 2) key 0

/-- LOAD_KEY of material that is not wrapped, where every check passes and a slot is to be had. -/
theorem exec_loadKey {r : Fetched} {key k : Nat} (h : s.takeCr t 0x20 = some (d, u)) (hw : bitOf (d.getD 50 0) 7 = false)
    (hst : (u.crData t d (crLen d) r).2.loadKeyStatus t d (u.crData t d (crLen d) r).1 = (0, key))
    (hk : (u.crData t d (crLen d) r).2.newSlot = some k) : exec (.loadKey t r) s =
    .next (((((u.crData t d (crLen d) r).2.putSlot k (loadedSlot t d key)).useSlot k).bump .key 0).postCr t d 0 k [] 0).quotas := by
  change execLoadKey t r s = _
  unfold execLoadKey
  rw [h]
  dsimp only
  rw [hw, hst]
  dsimp only
  rw [if_pos rfl, hk]
  rfl

/-- UNLOAD of a slot of the tenant's own. -/
theorem exec_keyUnload {x : KeySlot} (h : s.takeCr t 0x21 = some (d, u)) (hv : crReserved d = false) (hx : u.slot? (crKey d) = some x)
    (ht : x.typ ≤ 1) (ho : x.owner = t.val) : exec (.keyUnload t) s =
    .next (if u.slotInUse (crKey d) then u.putSlot (crKey d) { x with dying := some (some (t.val, d)) }
      else (((u.delSlot (crKey d) false).bump .key 1).postCr t d 0 (crKey d) [] 0).quotas) := by
  change execKeyUnload t s = _
  unfold execKeyUnload
  rw [h]
  dsimp only
  rw [if_neg (Bool.eq_false_iff.mp hv), hx]
  dsimp only
  rw [decide_eq_true ht, decide_eq_true ho, Bool.and_true, if_pos rfl]

end

/-- Settles O43: a request that moves data by its checks and by what the host gave (`runCr_refused`, `runCr_checked`), RANDOM by the state
of the DRBG, and a tenant's key by its checks and by whether a lane uses it. -/
theorem cipherRequestsAndCommands : Obligations.CipherRequestsAndCommands := by
  refine ⟨fun t opc c r d s u hc h => ?_, fun t d s u => ⟨fun h hv => ?_, fun h hw r key k => ?_,
    fun h hv x hx ht ho => ?_⟩⟩
  · rw [exec_runCr hc]
    refine ⟨fun hne => congrArg _ (runCr_refused h hne), fun h0 hq => ?_⟩
    rw [runCr_checked h h0 hq]
    refine ⟨?_, ?_, ?_⟩
    · rintro rfl
      rfl
    · rintro b rfl
      rfl
    · rintro b rfl
      rfl
  · rw [exec_cipherRandom h hv]
    refine ⟨fun hno => congrArg _ (if_pos (by simpa using hno)), fun h1 h2 => ?_⟩
    rw [h1, h2]
    rfl
  · intro v hst hk x
    exact exec_loadKey h hw hst hk
  · rw [exec_keyUnload h hv hx ht ho]
    refine ⟨fun hl => ?_, fun hl => ?_⟩
    · rw [hl]
      rfl
    · rw [hl]
      rfl

end Sys2Proof.Machine
end

section
/-! PROOF. The cipher lanes (R331, R339, R340, R347 to R349): ends of requests, requests set aside, nonce blocks, node keys, and the
lanes' tests. -/

namespace Sys2Proof.Machine

theorem reach_cph (s : State) (b : Bool) : s.reach .cph b = .cph := by
  cases b <;> rfl

/-! A lane ends its request, or sets it aside. -/

section
variable {s : State} {j : Fin 24} {r : CReq} (hr : s.laneRun j.val = some r)
include hr

theorem exec_cipherLaneDone_waits (ho : s.outputWaits r = true) (wr : Bool) : exec (.cipherLaneDone j wr) s = .next s.originate := by
  change Host.Outcome.next (s.laneDone j.val wr).originate = _
  unfold State.laneDone
  rw [hr]
  dsimp only
  rw [if_pos ho]

/-- The lane is free, and the blocks of what it ran count. -/
def State.laneEnded (s : State) (j : Nat) : State :=
  let u : State := { s with cph := { s.cph with lanes := s.cph.lanes.set j none } }
  (u.freeNat.2.bumpBy .cph 4 u.freeNat.1).maskBlocks j u.freeNat.1

theorem exec_cipherLaneDone_direct {t : Nat} {d src : List Nat} (hw : r.work = .direct t d src) (ho : s.outputWaits r = false) (wr : Bool) :
    exec (.cipherLaneDone j wr) s =
      .next (((s.laneEnded j.val).directDone (Fin.ofNat 8 t) r d src wr).settleKeys.dispatch).originate := by
  change Host.Outcome.next (s.laneDone j.val wr).originate = _
  unfold State.laneDone
  rw [hr]
  dsimp only
  rw [if_neg (Bool.eq_false_iff.mp ho)]
  dsimp only
  rw [hw]
  rfl

theorem exec_directRequestSetAside {t : Nat} {d src : List Nat} (hw : r.work = .direct t d src)
    (hwait : (s.cph.wait.any fun x => (match x.work with | .direct .. => false | _ => true) && s.canStart x) = true)
    (hfree : s.freeLane = none) : exec (.directRequestSetAside j) s = .next (s.requeue j.val).dispatch := by
  change execDirectRequestSetAside j s = _
  unfold execDirectRequestSetAside
  rw [hr]
  dsimp only
  rw [hw, hfree]
  exact congrArg Host.Outcome.next (if_pos (by rw [Bool.true_and, Option.isNone_none, Bool.and_true]; exact hwait))

end

section
variable {s : State}

/-! Nonce blocks and node keys. -/

/-- The reserved block is recorded, and its 2^20 counter values follow those before it (R339). -/
def State.blockRecorded (s : State) : State :=
  { s with
    cph := { s.cph with limit := (s.cph.limit / 2 ^ 20 + 1) * 2 ^ 20, reserving := false }
    nvm := { s.nvm with nonce := some (s.cph.limit / 2 ^ 20) } }

theorem exec_nonceReserveDone (h : s.cph.reserving = true) :
    exec .nonceReserveDone s = .next ((s.blockRecorded.bump .nvm 0).bump .nvm 7).dispatch := congrArg Host.Outcome.next (if_pos h)

/-- A handle whose key is in the cache by now lets its frames go on, whatever the read of its record gave (R331). -/
theorem exec_nodeKeyResolved_cached {h k : Nat} (readable : Bool)
    (hf : (s.net.frames.any fun f => decide (f.st = .key ∧ f.handle = h)) = true) (hp : s.privOk = true) (hk : s.handleSlot h = some k) :
    exec (.nodeKeyResolved h readable) s = .next
      (((s.net.frames.filter fun f => decide (f.st = .key ∧ f.handle = h)).foldl (fun s f => s.keyFrame f) s).rxAgain.dispatch).originate := by
  change execNodeKeyResolved h readable s = _
  unfold execNodeKeyResolved
  dsimp only
  rw [hf, hp, hk]
  rfl

/-! Tests. -/

theorem exec_cipherTestPeriod {j : Nat} (ha : s.flag .cph F.CPH_TEST_AUTO = true) (ht : s.cph.test = none)
    (hj : ((List.range 26).map fun k => (s.cph.next + k) % 26).find? s.testable = some j) : exec .cipherTestPeriod s =
    .next (({ s with cph := { s.cph with next := (j + 1) % 26 } } : State).startLaneTest j) := by
  change execCipherTestPeriod s = _
  unfold execCipherTestPeriod
  rw [ha, ht, hj]
  rfl

theorem exec_cipherTestStart {q : Req} (h : s.Takes q .cph 0x048) (hgo : q.val.getLsbD 30 = true) :
    let u := applyWrite .cph 0x048 q.val (s.at_ .cph q.serial)
    u.fld .cph F.CPH_TEST_LANE < 26 → exec (.cipherTestStart q) s = .next (u.startLaneTest (u.fld .cph F.CPH_TEST_LANE)) := by
  intro u hl
  refine congrArg Host.Outcome.next ((writeWord_takes h _).trans ?_)
  rw [reach_cph]
  exact if_pos (by rw [hgo]; exact decide_eq_true hl)

/-- The lane under test has been tested, and the test counts. -/
def State.laneTested (s : State) : State := ((({ s with cph := { s.cph with test := none } } : State).bump .cph 5)).event .cph 3

section
variable {j : Nat} (ht : s.cph.test = some j) (hr : s.laneRun j = none)
include ht hr

theorem exec_cipherTestDone (pass : Bool) : exec (.cipherTestDone pass) s =
    .next (if pass then s.laneTested.setLaneIn j (!(s.laneTested.stageShed 3 && decide (12 ≤ j ∧ j < 24)))
      else (s.laneTested.bump .cph 6).retireLane j).keyRun.dispatch := by
  change execCipherTestDone pass s = _
  unfold execCipherTestDone State.laneTested
  rw [ht]
  dsimp only
  rw [hr, Option.isSome_none, if_neg Bool.false_ne_true]

end

theorem exec_cipherLaneFail {j : Fin 26} (hl : s.laneRetired j.val = false) (hr : (s.laneRun j.val).isSome = true)
    (ht : s.cph.test ≠ some j.val) : exec (.cipherLaneFail j) s = .next (s.retireLane j.val).dispatch := by
  have hn : (s.laneRun j.val).isNone = false := by rw [← Option.not_isSome, hr]; rfl
  change execCipherLaneFail j s = _
  unfold execCipherLaneFail
  rw [hl, hn, Bool.and_false, if_neg ht]
  rfl

end

/-- Settles O44: each command where its premises hold. -/
theorem cipherLanesServeAndAreTested : Obligations.CipherLanesServeAndAreTested :=
  ⟨fun _ => ⟨fun _ wr _ hr => ⟨fun ho => exec_cipherLaneDone_waits hr ho wr, fun _ _ _ hw ho => exec_cipherLaneDone_direct hr hw ho wr⟩,
      fun _ _ _ _ _ hr hw hwait hfree => exec_directRequestSetAside hr hw hwait hfree, exec_nonceReserveDone,
      fun _ _ readable hf hp hk => exec_nodeKeyResolved_cached readable hf hp hk⟩,
    fun _ => ⟨fun _ => exec_cipherTestPeriod, fun _ => exec_cipherTestStart,
      fun _ ht hr => ⟨exec_cipherTestDone ht hr true, exec_cipherTestDone ht hr false⟩, fun _ => exec_cipherLaneFail⟩⟩

end Sys2Proof.Machine
end

section
/-! PROOF. RESEED_NOW (R343) in a state whose register file is out of order: the statement asks for every state, well formed or not. -/

namespace Sys2Proof.Machine

/-- A device in RUN, booted and locked, with one generate call since its last reseed. Its register file lists `ENT_RESEED` before `ENT_STAT`,
whose key is the lower one: HALTED is not found behind it until the store of `ENT_RESEED` has removed that entry. -/
def entBehindReseed : State :=
  { State.reset with
    pwr := { Pwr.reset with mode := .run, dom := List.replicate 20 .on }
    regs := [(regKey .dev 0x060, 1), (regKey .rst F.RST_STAT_BOOT_DONE.off, F.RST_STAT_BOOT_DONE.place 1), (regKey .ent 0x04C, 0),
      (regKey .ent 0x044, F.ENT_STAT_HALTED.place 1)]
    cph := { Cipher.reset with calls := 1 } }

def reseedReq : Req := ⟨false, 1, 15⟩

theorem entBehindReseed_takes : entBehindReseed.Takes reseedReq .ent 0x04C := by decide +kernel

theorem entBehindReseed_running : entBehindReseed.halted = false ∧ entBehindReseed.healthy = true := by decide +kernel

theorem entBehindReseed_halted : (applyWrite .ent 0x04C reseedReq.val (entBehindReseed.at_ .ent false)).halted = true := by decide +kernel

theorem exec_reseedNow {s : State} {q : Req} (h : s.Takes q .ent 0x04C) :
    exec (.reseedNow q) s = .next (entReseedWrite .ent q.val (s.at_ .ent q.serial)) := by
  refine congrArg Host.Outcome.next ((writeWord_takes h _).trans ?_)
  rw [show s.reach .ent q.serial = .ent by cases q.serial <;> rfl]

/-- A write of NOW that finds the DRBG halted once its word is stored leaves it so. -/
theorem exec_reseedNow_halted {s : State} {q : Req} (h : s.Takes q .ent 0x04C)
    (hh : (applyWrite .ent 0x04C q.val (s.at_ .ent q.serial)).halted = true) :
    exec (.reseedNow q) s = .next (applyWrite .ent 0x04C q.val (s.at_ .ent q.serial)) := by
  rw [exec_reseedNow h]
  exact congrArg Host.Outcome.next (if_pos (by rw [hh, Bool.or_true]))

/-- Where the register file is in order, as in every well-formed state, the clause refuted below holds: the store of `ENT_RESEED` leaves
`ENT_STAT` as it was. -/
theorem exec_reseedNow_ordered {s : State} {q : Req} (hr : risingFrom 0 s.regs = true) (h : s.Takes q .ent 0x04C)
    (hnow : q.val.getLsbD 0 = true) (hrun : s.halted = false) :
    let u := applyWrite .ent 0x04C q.val (s.at_ .ent q.serial)
    exec (.reseedNow q) s = .next (if s.healthy then u.reseed else u.drbgHalt) := by
  intro u
  have hstat {f : Fld} (hf : f.off ≠ 0x04C) : u.flag .ent f = s.flag .ent f := by
    unfold State.flag
    rw [applyWrite_fld_off (touch_rising hr _) _ hf, touch_fld]
  have hhalted : u.halted = false := (hstat (by decide)).trans hrun
  have hhealthy : u.healthy = s.healthy := hstat (by decide)
  rw [exec_reseedNow h]
  refine congrArg Host.Outcome.next ((if_neg ?_).trans ?_)
  · change ¬ (!q.val.getLsbD 0 || u.halted) = true
    rw [hnow, hhalted]
    decide
  · rw [← hhealthy]

/-- A reseed forgets the generate calls. -/
theorem reseed_calls (s : State) : s.reseed.cph.calls = 0 := by
  unfold State.reseed State.bump
  rw [State.bumpBy_cph]

/-- Refutes O45, by its clause on RESEED, which lacks the premise `s.Wf`: of `entBehindReseed` the statement says that it reseeds, since it
is healthy and does not read as halted, while the command finds it halted, after its store, and keeps the count of generate calls at 1. -/
theorem not_theEntropySourceIsTested : ¬ Obligations.TheEntropySourceIsTested := by
  intro h
  obtain ⟨_, _, _, hreseed, _⟩ := h entBehindReseed
  obtain ⟨hrun, hhealthy⟩ := entBehindReseed_running
  have hsays := hreseed reseedReq entBehindReseed_takes (by decide) hrun
  have hdoes := exec_reseedNow_halted entBehindReseed_takes entBehindReseed_halted
  rw [hhealthy] at hsays
  have hcalls : 1 = (applyWrite .ent 0x04C reseedReq.val (entBehindReseed.at_ .ent reseedReq.serial)).reseed.cph.calls :=
    congrArg (fun s : State => s.cph.calls) (Host.Outcome.next.inj (hdoes.symm.trans hsays))
  rw [reseed_calls] at hcalls
  exact absurd hcalls (by decide)

end Sys2Proof.Machine
end

section
/-! PROOF. Every command completes (R483), word accesses to the manager's pages, which over either interface lead to the page
itself, and what leaves a word of the register file as it was. -/

namespace Sys2Proof.Machine

/-- Every command answers a next state: each arm of the dispatch is one. -/
theorem exec_next (c : Instr) (s : State) : ∃ t, exec c s = .next t := by
  cases c <;> exact ⟨_, rfl⟩

/-- Settles O2: every command answers a next state, and what answers keeps the queue and what manufacture fixed (`exec_keeps`). -/
theorem everyCommandCompletes : Obligations.EveryCommandCompletes := by
  intro c s
  obtain ⟨t, ht⟩ := exec_next c s
  have hk := exec_keeps c s (Keeps.refl s) t ht
  exact ⟨t, ht, hk.pending, hk.chip⟩

/-! Word accesses to the manager's pages. -/

section
variable {s : State} {p : Page} {off : Nat}

/-- Only the tenants' own pages depend on the tenant that the serial host port has selected (R47). -/
theorem reach_manager (hp : p.tenant? = none) (b : Bool) : s.reach p b = p := by
  unfold State.reach
  split
  · cases p <;> simp_all [Page.tenant?]
  · rfl

theorem writeWord_manager {q : Req} (hp : p.tenant? = none) (h : s.Takes q p off) (act : Page → Word → State → State) :
    writeWord q p off act s = act p q.val (s.at_ p q.serial) := by
  rw [writeWord_takes h, reach_manager hp]

theorem endIdle_endIdle (s : State) : s.endIdle.endIdle = s.endIdle := by
  by_cases h : s.pwr.mode = .idle
  · simp [State.endIdle, h]
  · simp [State.endIdle, h]

/-- A read whose effect `f` begins with the touch of the access acts in the state of the access. -/
theorem readWord_manager {q : RdReq} (hp : p.tenant? = none) (h : s.Gives q p off) {f : Page → State → Word × Bool × State}
    {act : State → Word × Bool × State} (hf : ∀ u : State, f p u = act (u.touch (p.fn q.serial))) : readWord q p off f s =
      (act (s.at_ p q.serial)).2.2.emit (.readData (p.fn q.serial) (act (s.at_ p q.serial)).1 (act (s.at_ p q.serial)).2.1) := by
  have ht : s.endIdle.touch (p.fn q.serial) = s.at_ p q.serial := by
    unfold State.at_ State.touch
    rw [endIdle_endIdle, reach_manager hp]
  rw [readWord_gives h, reach_manager hp, hf, ht]

end

/-! One word of the register file, and what leaves it as it was. -/

/-- Where the register file is in order, it stays so, and one word of it reads the same. -/
def State.SameWord (s t : State) (r : Page) (o : Nat) : Prop :=
  risingFrom 0 s.regs = true → risingFrom 0 t.regs = true ∧ t.reg r o = s.reg r o

section
variable {s t u : State} {r p : Page} {o k : Nat}

theorem State.SameWord.refl (s : State) (r : Page) (o : Nat) : s.SameWord s r o := fun h => ⟨h, rfl⟩

theorem State.SameWord.trans (h : s.SameWord t r o) (h' : t.SameWord u r o) : s.SameWord u r o := fun hs => by
  obtain ⟨ht, e⟩ := h hs
  obtain ⟨hu, e'⟩ := h' ht
  exact ⟨hu, e'.trans e⟩

theorem sameWord_setReg (w : Word) (hk : regKey r o ≠ regKey p k) : s.SameWord (s.setReg p k w) r o :=
  fun h => ⟨setReg_rising h _ _ _, setReg_reg_key h w hk⟩

theorem sameWord_event (i : Nat) (hk : regKey r o ≠ regKey p offEvent) : s.SameWord (s.event p i) r o :=
  fun h => ⟨event_rising h _ _, event_reg_key h i hk⟩

theorem sameWord_fault (i d : Nat) (h1 : regKey r o ≠ regKey p offFault) (h2 : regKey r o ≠ regKey p offFaultInfo)
    (h3 : regKey r o ≠ regKey p offEvent) : s.SameWord (s.fault p i d) r o :=
  fun h => ⟨fault_rising h _ _ _, fault_reg_key h i d h1 h2 h3⟩

/-- An advance of a counter leaves every word but the counters of its page. -/
theorem sameWord_bumpBy (i n : Nat) (hk : ∀ k, 0x080 ≤ k → k < 0x0C0 → regKey r o ≠ regKey p k) : s.SameWord (s.bumpBy p i n) r o := by
  refine fun h => ⟨bumpBy_rising h p i n, ?_⟩
  unfold State.bumpBy
  split
  case isTrue hc =>
    have hi : i < 8 := by
      have hn := nCounters_le p
      have hlt : i < nCounters p := by
        unfold State.cntEn at hc
        simp only [Bool.and_eq_true, decide_eq_true_eq] at hc
        exact hc.1
      omega
    exact setCounter_reg_key h _ (hk _ (by unfold cntOff; omega) (by unfold cntOff; omega))
      (hk _ (by unfold cntOff; omega) (by unfold cntOff; omega))
  case isFalse => rfl

theorem sameWord_bump (i : Nat) (hk : ∀ k, 0x080 ≤ k → k < 0x0C0 → regKey r o ≠ regKey p k) : s.SameWord (s.bump p i) r o :=
  sameWord_bumpBy i 1 hk

theorem sameWord_foldl {α : Type} {f : State → α → State} : ∀ {l : List α} (s : State),
    (∀ (s : State), ∀ a ∈ l, s.SameWord (f s a) r o) → s.SameWord (l.foldl f s) r o
  | [], s, _ => .refl s r o
  | a :: _, s, h => (h s a List.mem_cons_self).trans (sameWord_foldl (f s a) fun s b hb => h s b (List.mem_cons_of_mem a hb))

/-- A counter is its two words. -/
theorem counter_of_words {p : Page} {i : Nat} (h0 : t.reg p (cntOff i) = s.reg p (cntOff i))
    (h4 : t.reg p (cntOff i + 4) = s.reg p (cntOff i + 4)) : t.counter p i = s.counter p i :=
  congrArg₂ (fun lo hi : Word => lo.toNat + hi.toNat % 2 ^ 16 * 2 ^ 32) h0 h4

theorem cntEn_of_reg {p : Page} (h : t.reg p offCntCtrl = s.reg p offCntCtrl) (i : Nat) : t.cntEn p i = s.cntEn p i := by
  unfold State.cntEn
  rw [h]

end

end Sys2Proof.Machine
end

section
/-! PROOF. Snapshots (R500 to R505): what `CNT_CTRL` captures and clears, how a snapshot ends, and when a periodic one starts. And the
histogram units' configuration (R509). -/

namespace Sys2Proof.Machine

/-! Entries that a store keeps. -/

section
variable {V : Type} (d : V) {keep : Nat → Bool} {k : Nat}

theorem storeGet_keep_out (hk : keep k = false) : ∀ m : Store V, storeGet d (storeKeep keep m) k = d
  | [] => rfl
  | (a, v) :: r => by
    have ih := storeGet_keep_out hk r
    unfold storeKeep at ih ⊢
    rw [List.filter_cons]
    split
    case isTrue ha =>
      have hne : k ≠ a := fun he => by simp [← he, hk] at ha
      simp [storeGet, hne, ih]
    case isFalse => exact ih

theorem storeGet_keep_in (hk : keep k = true) : ∀ {m : Store V} {b : Nat}, risingFrom b m = true →
    storeGet d (storeKeep keep m) k = storeGet d m k
  | [], _, _ => rfl
  | (a, v) :: r, b, h => by
    have hr : risingFrom (a + 1) r = true := by
      unfold risingFrom at h
      exact (Bool.and_eq_true_iff.1 h).2
    have ih := storeGet_keep_in hk hr
    have hcons : storeKeep keep ((a, v) :: r) = if keep a then (a, v) :: storeKeep keep r else storeKeep keep r := by
      unfold storeKeep
      rw [List.filter_cons]
    rw [hcons]
    split
    case isTrue => simp only [storeGet, ih]
    case isFalse ha =>
      have hne : k ≠ a := fun he => ha (he ▸ hk)
      by_cases hlt : k < a
      · simp only [storeGet, if_neg hne, if_pos hlt]
        exact ih.trans (storeGet_below d (Nat.lt_succ_of_lt hlt) hr)
      · simp only [storeGet, if_neg hne, if_neg hlt, ih]

end

/-! Another state of the counter gatherer. -/

/-- Put another state of the gatherer. -/
def State.setGather (s : State) (g : Gather) : State := { s with gather := g }

theorem beside_setGather {s u : State} (h : s.Beside u) (g : Gather) : (s.setGather g).Beside (u.setGather g) :=
  congrArg (State.setGather · g) h

/-- A command that gives the gatherer's state the value `g`, and beside it changes only what any access and any message change. -/
theorem beside_newGather {s u t : State} {g : Gather} (hu : s.Beside u) (ht : (u.setGather g).Beside t) :
    t.gather = g ∧ ({ s with gather := t.gather } : State).Beside t := by
  have hg : t.gather = g := beside_gather ht
  refine ⟨hg, ?_⟩
  rw [hg]
  exact beside_trans (beside_setGather hu g) ht

/-! Captures (R501). -/

section
variable {s u : State}

/-- A capture is made of the counters, their enables, the units and the two clocks. -/
theorem capture_of_beside (hu : s.Beside u) (hc : ∀ p i, i < 8 → u.counter p i = s.counter p i)
    (he : ∀ p, u.reg p offCntCtrl = s.reg p offCntCtrl) : u.capture = s.capture := by
  have hcnts : (fun m p => (List.range (nCounters p)).foldl (fun m i => storePut 0 m (snapIndex p * 8 + i) (u.counter p i)) m) =
      (fun m p => (List.range (nCounters p)).foldl (fun m i => storePut 0 m (snapIndex p * 8 + i) (s.counter p i)) m) := by
    funext m p
    refine List.foldl_ext _ _ m fun m i hi => ?_
    rw [hc p i (Nat.lt_of_lt_of_le (List.mem_range.1 hi) (nCounters_le p))]
  have hrtc : u.pwr.rtc = s.pwr.rtc := by rw [hu]
  unfold State.capture
  simp only [hcnts, he, beside_gather hu, beside_ct hu, hrtc]

theorem touch_running (h : s.running = true) (fn : Fn) : (s.touch fn).running = true := by
  have hm : (s.touch fn).pwr.mode = if s.pwr.mode = .idle then .run else s.pwr.mode := by
    unfold State.touch
    rw [endIdle_eq]
    rfl
  unfold State.running at *
  rw [hm]
  split
  · rfl
  · exact h

/-- A one-bit field is the bit of its place. -/
theorem get_flag {f : Fld} (hw : f.w = 1) (x : Word) : decide (f.get x % 2 = 1) = x.getLsbD f.lo := by
  have h := get_testBit f x 0
  rw [Nat.testBit_zero, hw, Nat.add_zero] at h
  exact h

/-! Clearing (R504). -/

/-- Every page that has counters is above the first one, at a multiple of its length. -/
theorem countedPage_base {p : Page} (hp : 0 < nCounters p) : 0x1000 ≤ pageBase p ∧ pageBase p % 0x1000 = 0 := by
  have hd : p ≠ .dev := fun he => by simp [he, nCounters] at hp
  cases p with
  | dev => exact absurd rfl hd
  | _ => constructor <;> simp only [pageBase] <;> omega

/-- Every word of a counter is one that clearing removes, and reads zero where it is not listed. -/
theorem counterWord {p : Page} {o : Nat} (hp : 0 < nCounters p) (hlo : 0x080 ≤ o) (hhi : o < 0x0C0) : isCounterKey (regKey p o) = true := by
  obtain ⟨h1, h2⟩ := countedPage_base hp
  unfold isCounterKey regKey
  rw [decide_eq_true_eq]
  omega

theorem counterWord_reset {p : Page} {i d : Nat} (hi : i < nCounters p) (hd : d = 0 ∨ d = 4) : resetWord p (cntOff i + d) = 0 := by
  refine if_pos (.inr ?_)
  unfold isCounterOff cntOff
  simp only [Bool.and_eq_true, decide_eq_true_eq]
  omega

theorem clearCounters_word {p : Page} {i d : Nat} (hi : i < nCounters p) (hd : d = 0 ∨ d = 4) (s : State) :
    s.clearCounters.reg p (cntOff i + d) = 0 := by
  have hle := nCounters_le p
  have hkey := counterWord (o := cntOff i + d) (Nat.zero_lt_of_lt hi) (by unfold cntOff; omega) (by unfold cntOff; omega)
  exact (storeGet_keep_out (keep := fun k => !isCounterKey k) _ (by simp [hkey]) _).trans (counterWord_reset hi hd)

theorem clearCounters_counter {p : Page} {i : Nat} (hi : i < nCounters p) (s : State) : s.clearCounters.counter p i = 0 := by
  have h0 : s.clearCounters.reg p (cntOff i) = 0 := clearCounters_word hi (.inl rfl) s
  unfold State.counter
  rw [h0, clearCounters_word hi (.inr rfl)]
  rfl

theorem clearCounters_rising (h : risingFrom 0 s.regs = true) : risingFrom 0 s.clearCounters.regs = true :=
  storeKeep_rising (fun k => !isCounterKey k) h

section
variable (h : risingFrom 0 s.regs = true)
include h

theorem event_leaves_counter (p : Page) (k : Nat) {q : Page} {i : Nat} (hi : i < 8) : (s.event p k).counter q i = s.counter q i := by
  have word {d : Nat} (hd : d ≤ 4) : (s.event p k).reg q (cntOff i + d) = s.reg q (cntOff i + d) := by
    refine event_reg_key h k fun he => ?_
    obtain ⟨_, ho⟩ := regKey_inj (by unfold cntOff; omega) (by decide) he
    unfold cntOff offEvent at ho
    omega
  exact counter_of_words (word (Nat.zero_le 4)) (word (Nat.le_refl 4))

/-- An advance of a counter leaves every other one. -/
theorem bump_leaves_counter {p q : Page} {i j : Nat} (hj : j < 8) (hne : q ≠ p ∨ j ≠ i) : (s.bump p i).counter q j = s.counter q j := by
  by_cases hq : q = p
  · subst hq
    exact bump_counter_other h q (hne.resolve_left fun hn => hn rfl)
  · unfold State.counter
    rw [bump_reg_page h _ hq (by unfold cntOff; omega), bump_reg_page h _ hq (by unfold cntOff; omega)]

end

/-- Every counter reads zero but that of the clearings. -/
def State.Cleared (s : State) : Prop :=
  ∀ (p : Page) (i : Nat), p ∈ counterPages → i < nCounters p → (p ≠ .cnt ∨ i ≠ 3) → s.counter p i = 0

theorem clrAll_cleared (h : risingFrom 0 s.regs = true) : s.clrAll.Cleared := fun p i _ hi hne => by
  have h1 := clearCounters_rising h
  have hi8 := Nat.lt_of_lt_of_le hi (nCounters_le p)
  unfold State.clrAll
  rw [event_leaves_counter (bump_rising h1 _ _) _ _ hi8, bump_leaves_counter h1 hi8 hne, clearCounters_counter hi]

/-- The gatherer with every histogram unit zeroed. -/
def Gather.cleared (g : Gather) : Gather := { g with units := List.replicate 16 HistUnit.empty }

theorem clrAll_beside (s : State) : (s.setGather s.gather.cleared).Beside s.clrAll :=
  beside_trans (t := s.clearCounters) rfl (beside_trans (bumpBy_beside ..) (event_beside ..))

/-! `CNT_CTRL` (R500 to R504). -/

theorem startPending_none (h : s.gather.pend = none) : s.startPending = s := by
  unfold State.startPending
  rw [h]

/-- The gatherer with the capture `c` under way. -/
def Gather.holding (g : Gather) (c : Snapshot) : Gather := { g with back := c, busy := true }

theorem holding_cleared (g : Gather) (c : Snapshot) :
    (g.holding c).cleared = { g with back := c, busy := true, units := List.replicate 16 HistUnit.empty } := rfl

/-- The gatherer with a capture of the state `s` under way. -/
def State.captured (s : State) : Gather := s.gather.holding s.capture

/-- The same, and nothing pending. -/
def State.capturedFree (s : State) : Gather := { s.gather with pend := none, back := s.capture, busy := true }

/-- Nothing holds a snapshot back. -/
def State.snapFree (s : State) : Prop := s.gather.busy = false ∧ s.flag .cnt F.CNT_CTRL_HOLD = false ∧ s.running = true

theorem startPending_some {c : Bool} (hp : s.gather.pend = some c) (hf : s.snapFree) :
    s.startPending = (s.setGather { s.gather with pend := none }).startSnap c := by
  obtain ⟨hb, hh, hr⟩ := hf
  unfold State.startPending State.snapOk
  rw [hp]
  dsimp only
  rw [hb, hh, hr]
  rfl

theorem cmdSnap_starts (he : s.enabled .cnt = true) (hp : s.gather.pend = none) (hf : s.snapFree) (clr : Bool) :
    s.cmdSnap clr = s.startSnap clr := by
  obtain ⟨hb, hh, hr⟩ := hf
  unfold State.cmdSnap State.snapOk
  rw [he, hp]
  dsimp only
  rw [hb, hh, hr]
  rfl

theorem startSnap_plain (s : State) : s.startSnap false = s.setGather s.captured := rfl

theorem startSnap_clears (s : State) : s.startSnap true = (s.setGather s.captured).clrAll := rfl

theorem startSnap_waited (s : State) : (s.setGather { s.gather with pend := none }).startSnap false = s.setGather s.capturedFree := rfl

/-- `CNT_CTRL` has been written, and none of its strobes has acted yet. -/
def State.cntStored (s : State) (q : Req) : State := applyWrite .cnt 0x040 q.val (s.at_ .cnt q.serial)

theorem cntStored_beside (s : State) (q : Req) : s.Beside (s.cntStored q) := stored_beside s .cnt 0x040 q.val q.serial

theorem cntStored_gather (s : State) (q : Req) : (s.cntStored q).gather = s.gather := beside_gather (cntStored_beside s q)

section
variable {q : Req} (h : risingFrom 0 s.regs = true)
include h

theorem cntStored_rising : risingFrom 0 (s.cntStored q).regs = true := applyWrite_rising (touch_rising h _) _ _ _

theorem cntStored_reg_key {r : Page} {o : Nat} (hk : regKey r o ≠ regKey .cnt 0x040) : (s.cntStored q).reg r o = s.reg r o :=
  (setReg_reg_key (touch_rising h _) _ hk).trans (touch_reg ..)

theorem cntStored_written : (s.cntStored q).reg .cnt 0x040 = s.written .cnt 0x040 q.val :=
  (setReg_reg_same (touch_rising h _) _ _ _).trans (touch_written ..)

theorem cntStored_counter (p : Page) {i : Nat} (hi : i < 8) : (s.cntStored q).counter p i = s.counter p i := by
  have word {d : Nat} (hd : d ≤ 4) : (s.cntStored q).reg p (cntOff i + d) = s.reg p (cntOff i + d) := by
    refine cntStored_reg_key h fun he => ?_
    obtain ⟨_, ho⟩ := regKey_inj (by unfold cntOff; omega) (by decide) he
    unfold cntOff at ho
    omega
  exact counter_of_words (word (Nat.zero_le 4)) (word (Nat.le_refl 4))

/-- What the written word captures is what stood before it. -/
theorem cntStored_capture : (s.cntStored q).capture = s.capture :=
  capture_of_beside (cntStored_beside s q) (fun p _ hi => cntStored_counter h p hi) fun p => cntStored_reg_key h fun he => by
    obtain ⟨_, ho⟩ := regKey_inj (by decide) (by decide) he
    exact absurd ho (by decide)

theorem cntStored_captured : (s.cntStored q).captured = s.captured := by
  unfold State.captured
  rw [cntStored_gather, cntStored_capture h]

theorem cntStored_capturedFree : (s.cntStored q).capturedFree = s.capturedFree := by
  unfold State.capturedFree
  rw [cntStored_gather, cntStored_capture h]

theorem cntStored_snapFree (hb : s.gather.busy = false) (hr : s.running = true) (hw : q.val.getLsbD 28 = false) :
    (s.cntStored q).snapFree := by
  have hhold : (s.cntStored q).fld .cnt F.CNT_CTRL_HOLD = F.CNT_CTRL_HOLD.get q.val :=
    applyWrite_fld_same (f := F.CNT_CTRL_HOLD) (touch_rising h _) q.val (by decide : F.CNT_CTRL_HOLD ∈ cntFlds.filter (·.hits 0x040)) rfl
      (by decide)
  refine ⟨(congrArg Gather.busy (cntStored_gather s q)).trans hb, ?_, touch_running hr ((s.reach .cnt q.serial).fn q.serial)⟩
  unfold State.flag
  rw [hhold, get_flag rfl]
  exact hw

end

theorem cntStored_enabled {q : Req} (he : s.enabled .cnt = true) : (s.cntStored q).enabled .cnt = true :=
  applyWrite_enabled _ (by decide) ((touch_enabled ..).trans he)

/-- What each of the four commands does. -/
theorem cntCtrl_takes {q : Req} (h : s.Takes q .cnt 0x040) : writeWord q .cnt 0x040 cntCtrlWrite s =
    if q.val.getLsbD 29 then (if q.val.getLsbD 30 then (s.cntStored q).startPending.cmdSnap true
      else if q.val.getLsbD 31 then (s.cntStored q).startPending.cmdSnap false else (s.cntStored q).startPending).clrAll
    else if q.val.getLsbD 30 then (s.cntStored q).startPending.cmdSnap true
      else if q.val.getLsbD 31 then (s.cntStored q).startPending.cmdSnap false else (s.cntStored q).startPending :=
  writeWord_manager rfl h _

section
variable {q : Req} (hs : risingFrom 0 s.regs = true) (h : s.Takes q .cnt 0x040) (hb : s.gather.busy = false) (hr : s.running = true)

theorem cntStored_pend {x : Option Bool} (hp : s.gather.pend = x) : (s.cntStored q).gather.pend = x :=
  (congrArg Gather.pend (cntStored_gather s q)).trans hp

section
variable (he : s.enabled .cnt = true) (hp : s.gather.pend = none) (h28 : q.val.getLsbD 28 = false) (h29 : q.val.getLsbD 29 = false)
include hs h hb hr he hp h28 h29

theorem exec_cntSnap (h31 : q.val.getLsbD 31 = true) (h30 : q.val.getLsbD 30 = false) :
    exec (.cntSnap q) s = .next ((s.cntStored q).setGather s.captured) := by
  refine congrArg Host.Outcome.next ((cntCtrl_takes h).trans ?_)
  have hp' := cntStored_pend (q := q) hp
  rw [h29, h30, h31, startPending_none hp']
  exact (cmdSnap_starts (cntStored_enabled he) hp' (cntStored_snapFree hs hb hr h28) false).trans
    ((startSnap_plain _).trans (by rw [cntStored_captured hs]))

theorem exec_cntSnapClr (h30 : q.val.getLsbD 30 = true) :
    exec (.cntSnapClr q) s = .next ((s.cntStored q).setGather s.captured).clrAll := by
  refine congrArg Host.Outcome.next ((cntCtrl_takes h).trans ?_)
  have hp' := cntStored_pend (q := q) hp
  rw [h29, h30, startPending_none hp']
  exact (cmdSnap_starts (cntStored_enabled he) hp' (cntStored_snapFree hs hb hr h28) true).trans
    ((startSnap_clears _).trans (by rw [cntStored_captured hs]))

end

include h in
theorem exec_cntClrAll (h29 : q.val.getLsbD 29 = true) (h30 : q.val.getLsbD 30 = false) (h31 : q.val.getLsbD 31 = false)
    (hp : s.gather.pend = none) : exec (.cntClrAll q) s = .next (s.cntStored q).clrAll := by
  refine congrArg Host.Outcome.next ((cntCtrl_takes h).trans ?_)
  rw [h29, h30, h31, startPending_none (cntStored_pend hp)]
  rfl

include hs h hb hr in
theorem exec_holdRelease (hp : s.gather.pend = some false) (h28 : q.val.getLsbD 28 = false) (h29 : q.val.getLsbD 29 = false)
    (h30 : q.val.getLsbD 30 = false) (h31 : q.val.getLsbD 31 = false) :
    exec (.holdRelease q) s = .next ((s.cntStored q).setGather s.capturedFree) := by
  refine congrArg Host.Outcome.next ((cntCtrl_takes h).trans ?_)
  rw [h29, h30, h31, startPending_some (cntStored_pend hp) (cntStored_snapFree hs hb hr h28), startSnap_waited, cntStored_capturedFree hs]
  rfl

end

end

/-- Settles O16: each command starts from the written word (`cntStored`), whose store leaves what is captured. -/
theorem snapshotsCaptureAndClear : Obligations.SnapshotsCaptureAndClear := by
  intro q s hs h hb hr zero
  obtain ⟨_, hrise, _⟩ := hs
  have hst := cntStored_rising (q := q) hrise
  have hbes := cntStored_beside s q
  refine ⟨fun he hp h28 h29 => ⟨fun h31 h30 => ⟨_, exec_cntSnap hrise h hb hr he hp h28 h29 h31 h30, ?_⟩,
    fun h30 => ⟨_, exec_cntSnapClr hrise h hb hr he hp h28 h29 h30, ?_⟩⟩,
    fun h29 h30 h31 hp => ⟨_, exec_cntClrAll h h29 h30 h31 hp, ?_⟩,
    fun hp h28 h29 h30 h31 => ⟨_, exec_holdRelease hrise h hb hr hp h28 h29 h30 h31, ?_⟩⟩
  · obtain ⟨hg, hbe⟩ := beside_newGather hbes (beside_refl ((s.cntStored q).setGather s.captured))
    exact ⟨hg, cntStored_written hrise, fun _ _ hk => cntStored_reg_key hrise hk, hbe⟩
  · have hc := clrAll_cleared (s := (s.cntStored q).setGather s.captured) hst
    obtain ⟨hg, hbe⟩ := beside_newGather hbes (clrAll_beside ((s.cntStored q).setGather s.captured))
    exact ⟨hc, hg.trans (holding_cleared ..), hbe⟩
  · obtain ⟨hg, hbe⟩ := beside_newGather hbes (clrAll_beside (s.cntStored q))
    exact ⟨clrAll_cleared hst, hg.trans (by rw [cntStored_gather]; rfl), hbe⟩
  · obtain ⟨hg, hbe⟩ := beside_newGather hbes (beside_refl ((s.cntStored q).setGather s.capturedFree))
    exact ⟨hg, fun _ _ hk => cntStored_reg_key hrise hk, hbe⟩

/-! The ends of snapshots, and those that fall due (R501 to R503, R505). -/

section
variable {s : State}

/-- The gatherer with its banks swapped. -/
def Gather.swapped (g : Gather) : Gather := { g with front := g.back, back := g.front, busy := false, seq := (g.seq + 1) % 65536 }

theorem exec_snapDone (hb : s.gather.busy = true) (hp : s.gather.pend = none) :
    exec .snapDone s = .next (((s.setGather s.gather.swapped).bump .cnt 0).event .cnt 1) := by
  have hg : (((s.setGather s.gather.swapped).bump .cnt 0).event .cnt 1).gather = s.gather.swapped :=
    beside_gather (s := s.setGather s.gather.swapped) (beside_trans (bumpBy_beside ..) (event_beside ..))
  exact congrArg Host.Outcome.next ((if_pos hb).trans (startPending_none ((congrArg Gather.pend hg).trans hp)))

theorem exec_snapPeriod_starts (hd : s.periodDue = true) (he : s.enabled .cnt = true) (hp : s.gather.pend = none) (hf : s.snapFree) :
    exec .snapPeriod s = .next (s.setGather s.captured) := by
  obtain ⟨hb, hh, hr⟩ := hf
  refine congrArg Host.Outcome.next ((if_pos hd).trans (if_neg ?_))
  unfold State.snapOk
  simp [he, hp, hb, hh, hr]

theorem exec_snapPeriod_skipped (hd : s.periodDue = true) (hb : s.gather.busy = true) :
    exec .snapPeriod s = .next ((s.bump .cnt 1).event .cnt 3) :=
  congrArg Host.Outcome.next ((if_pos hd).trans (if_pos (by simp [hb])))

/-- A counter of CNT advances, and an event of CNT is set. -/
theorem counted_event (h : risingFrom 0 s.regs = true) {i k : Nat} (hk : k < 32) (hm : (eventMask .cnt).getLsbD k = true) :
    ((s.bump .cnt i).event .cnt k).counter .cnt i = (if s.cntEn .cnt i then (s.counter .cnt i + 1) % 2 ^ 48 else s.counter .cnt i) ∧
      (((s.bump .cnt i).event .cnt k).reg .cnt offEvent).getLsbD k = true ∧
      ∀ r o, o < 0x1000 → r ≠ .cnt → ((s.bump .cnt i).event .cnt k).reg r o = s.reg r o := by
  have h1 := bump_rising h .cnt i
  refine ⟨(event_counter h1 _ _ _).trans (bump_counter h _ _), event_bit h1 _ hk hm, fun r o ho hr => ?_⟩
  rw [event_reg_page h1 _ hr ho, bump_reg_page h _ hr ho]

end

/-! Histogram units (R509). -/

section
variable {s : State} {q : Req} {h j : Fin 4}

theorem exec_hstCfgWrite (ht : s.Takes q (.hst h) (0x100 + 0x100 * j.val))
    (hen : s.flag (.hst h) (F.HST_CFG_EN.at j.val) = true → q.val.getLsbD 31 = false) :
    exec (.hstCfgWrite q h j false) s = .next (applyWrite (.hst h) (0x100 + 0x100 * j.val) q.val (s.at_ (.hst h) q.serial)) := by
  refine congrArg Host.Outcome.next ((writeWord_manager rfl ht _).trans (if_neg ?_))
  rw [touch_flag]
  simpa using hen

theorem exec_hstFilterWrite (ht : s.Takes q (.hst h) (0x104 + 0x100 * j.val)) : exec (.hstCfgWrite q h j true) s =
    .next (if s.flag (.hst h) (F.HST_CFG_EN.at j.val) then s.at_ (.hst h) q.serial
      else applyWrite (.hst h) (0x104 + 0x100 * j.val) q.val (s.at_ (.hst h) q.serial)) := by
  refine congrArg Host.Outcome.next ((writeWord_manager rfl ht _).trans ?_)
  unfold hstFilterWrite
  rw [touch_flag]

theorem exec_hstClr (ht : s.Takes q (.hst h) (0x120 + 0x100 * j.val)) (h0 : q.val.getLsbD 0 = true) : exec (.hstClr q h j) s =
    .next ((applyWrite (.hst h) (0x120 + 0x100 * j.val) q.val (s.at_ (.hst h) q.serial)).setHunit (4 * h.val + j.val) HistUnit.empty) :=
  congrArg Host.Outcome.next ((writeWord_manager rfl ht _).trans (if_pos h0))

end

/-- A word that a write of its page stores as it is (R52). -/
theorem stores_applyWrite {s : State} (h : risingFrom 0 s.regs = true) (p : Page) (off : Nat) (w : Word) (b : Bool) :
    s.Stores (applyWrite p off w (s.at_ p b)) p off (s.written p off w) :=
  ⟨(setReg_reg_same (touch_rising h _) _ _ _).trans (touch_written ..),
    fun _ _ hk => (setReg_reg_key (touch_rising h _) _ hk).trans (touch_reg ..), stored_beside s p off w b⟩

/-- Settles O17: a snapshot's end and its start by what holds it back, and the units by whether they are enabled. -/
theorem snapshotBanksAndHistogramUnits : Obligations.SnapshotBanksAndHistogramUnits := by
  refine ⟨fun s hs => ⟨fun hb hp => ⟨_, exec_snapDone hb hp, ?_⟩,
      fun hd hp hh hr he hb => exec_snapPeriod_starts hd he hp ⟨hb, hh, hr⟩,
      fun hd hb => ⟨_, exec_snapPeriod_skipped hd hb, ?_⟩⟩,
    fun q h j s hs => ⟨fun ht hen => ⟨_, exec_hstCfgWrite ht hen, stores_applyWrite hs.2.1 ..⟩,
      fun ht hen => ⟨_, (exec_hstFilterWrite ht).trans (by rw [hen]; rfl), stores_applyWrite hs.2.1 ..⟩,
      fun ht hen => (exec_hstFilterWrite ht).trans (by rw [hen]; rfl), fun ht h0 => ⟨_, exec_hstClr ht h0, ?_⟩⟩⟩
  · obtain ⟨_, hrise, _⟩ := hs
    obtain ⟨hc, he, hreg⟩ := counted_event (s := s.setGather s.gather.swapped) hrise (i := 0) (k := 1) (by decide) (by decide)
    obtain ⟨hg, hbe⟩ := beside_newGather (beside_refl s)
      (beside_trans (bumpBy_beside (s.setGather s.gather.swapped) .cnt 0 1) (event_beside _ .cnt 1))
    exact ⟨hg, hc, he, hreg, hbe⟩
  · obtain ⟨_, hrise, _⟩ := hs
    obtain ⟨hc, he, hreg⟩ := counted_event hrise (i := 1) (k := 3) (by decide) (by decide)
    exact ⟨hc, he, hreg, beside_trans (bumpBy_beside ..) (event_beside ..)⟩
  · obtain ⟨_, hrise, _⟩ := hs
    obtain ⟨_, hother, hbes⟩ := stores_applyWrite hrise (.hst h) (0x120 + 0x100 * j.val) q.val q.serial
    have hgather := beside_gather hbes
    obtain ⟨hg, hbe⟩ := beside_newGather hbes
      (beside_refl ((applyWrite (.hst h) (0x120 + 0x100 * j.val) q.val (s.at_ (.hst h) q.serial)).setGather _))
    exact ⟨hg.trans (by rw [hgather]), hother, hbe⟩

end Sys2Proof.Machine
end

section
/-! PROOF. The monitor chains' FIFOs and banks (R387, R391), and the sampling of the mains (R382, R401). -/

namespace Sys2Proof.Machine

section
variable {s : State} {m : Fin 8}

theorem touch_chain (s : State) (fn : Fn) (m : Fin 8) : (s.touch fn).chain m = s.chain m := by
  unfold State.chain
  rw [State.touch_chains]

/-! `MON_DATA_LO` (R387). -/

section
variable {q : RdReq} (h : s.Gives q (.mon m) 0x060)
include h

theorem exec_monDataRead : exec (.monDataRead q m) s =
    .next ((monDataRead m (s.at_ (.mon m) q.serial)).2.2.emit (.readData ((Page.mon m).fn q.serial)
      (monDataRead m (s.at_ (.mon m) q.serial)).1 (monDataRead m (s.at_ (.mon m) q.serial)).2.1)) :=
  congrArg Host.Outcome.next (readWord_manager rfl h fun _ => rfl)

theorem exec_monDataRead_empty (hf : (s.chain m).fifo = []) : exec (.monDataRead q m) s =
    .next (((s.at_ (.mon m) q.serial).setChain m { s.chain m with hiWord := 0x80000000, tsLo := 0, tsHi := 0 }).emit
      (.readData ((Page.mon m).fn q.serial) 0 false)) := by
  rw [exec_monDataRead h]
  unfold monDataRead
  dsimp only
  rw [touch_chain, hf]

theorem exec_monDataRead_word {w : MonWord} {r : List MonWord} (hf : (s.chain m).fifo = w :: r) : exec (.monDataRead q m) s =
    .next ((((s.at_ (.mon m) q.serial).setChain m { s.chain m with
      fifo := r, hiWord := BitVec.ofNat 32 ((if w.poison then 2 ^ 30 else 0) + w.flags),
      tsLo := BitVec.ofNat 32 (w.ts % 2 ^ 32), tsHi := BitVec.ofNat 32 (w.ts / 2 ^ 32) }).monPressure m).emit
      (.readData ((Page.mon m).fn q.serial) (BitVec.ofNat 32 (w.value % 2 ^ 32).toNat) false)) := by
  rw [exec_monDataRead h]
  unfold monDataRead
  dsimp only
  rw [touch_chain, hf]

end

/-! `MON_BANK` (R391). -/

/-- A field that is in use takes back the value it had. -/
def State.holdFld (s : State) (c : Bool) (p : Page) (f : Fld) (v : Nat) : State := if c then s.setFld p f v else s

theorem holdFld_beside (s : State) (c : Bool) (p : Page) (f : Fld) (v : Nat) : s.Beside (s.holdFld c p f v) := by
  unfold State.holdFld
  split
  · exact setFld_beside s p f v
  · exact beside_refl s

section
variable (h : risingFrom 0 s.regs = true)
include h

theorem holdFld_rising (c : Bool) (p : Page) (f : Fld) (v : Nat) : risingFrom 0 (s.holdFld c p f v).regs = true := by
  unfold State.holdFld
  split
  · exact setFld_rising h p f v
  · exact h

theorem holdFld_held {c : Bool} (hc : c = true) {p : Page} {f : Fld} {v : Nat} (hf : f.lo + f.w ≤ 32) (hv : v < 2 ^ f.w) :
    (s.holdFld c p f v).fld p f = v := by
  unfold State.holdFld
  rw [if_pos hc, setFld_fld_same h p f v hf, Nat.mod_eq_of_lt hv]

theorem holdFld_bits (c : Bool) (p : Page) (f g : Fld) (v : Nat) (hfg : g.off = f.off) (hg : g.lo + g.w ≤ 32)
    (hd : f.lo + f.w ≤ g.lo ∨ g.lo + g.w ≤ f.lo) : (s.holdFld c p f v).fld p g = s.fld p g := by
  unfold State.holdFld
  split
  · exact setFld_fld_bits h p f g v hfg hg hd
  · rfl

theorem holdFld_reg_key (c : Bool) {p r : Page} {f : Fld} {o : Nat} (v : Nat) (hk : regKey r o ≠ regKey p f.off) :
    (s.holdFld c p f v).reg r o = s.reg r o := by
  unfold State.holdFld
  split
  · exact setReg_reg_key h _ hk
  · rfl

end

/-- A bank is in use: the active one, and during a fade both. -/
def State.bankUsed (s : State) (m : Fin 8) (b : Nat) : Bool := (s.chain m).fade.isSome || decide ((s.chain m).active = b)

theorem monBankWrite_eq (m : Fin 8) (p : Page) (w : Word) (s : State) : monBankWrite m p w s =
    ((applyWrite p 0x04C w s).holdFld (s.bankUsed m 0) p F.MON_BANK_LEN0 (s.fld p F.MON_BANK_LEN0)).holdFld (s.bankUsed m 1) p
      F.MON_BANK_LEN1 (s.fld p F.MON_BANK_LEN1) := rfl

section
variable (h : risingFrom 0 s.regs = true) (w : Word)
include h

theorem monBankWrite_sel : (monBankWrite m (.mon m) w s).fld (.mon m) F.MON_BANK_SEL = F.MON_BANK_SEL.get w := by
  have h1 := applyWrite_rising h (.mon m) 0x04C w
  rw [monBankWrite_eq, holdFld_bits (holdFld_rising h1 _ _ _ _) _ _ _ _ _ (by rfl) (by decide) (by decide),
    holdFld_bits h1 _ _ _ _ _ (by rfl) (by decide) (by decide)]
  exact applyWrite_fld_same (f := F.MON_BANK_SEL) h w (by decide : F.MON_BANK_SEL ∈ monFlds.filter (·.hits 0x04C)) rfl (by decide)

theorem monBankWrite_len0 (hb : s.bankUsed m 0 = true) :
    (monBankWrite m (.mon m) w s).fld (.mon m) F.MON_BANK_LEN0 = s.fld (.mon m) F.MON_BANK_LEN0 := by
  have h1 := applyWrite_rising h (.mon m) 0x04C w
  rw [monBankWrite_eq, holdFld_bits (holdFld_rising h1 _ _ _ _) _ _ _ _ _ (by rfl) (by decide) (by decide),
    holdFld_held h1 hb (by decide) (fld_lt ..)]

theorem monBankWrite_len1 (hb : s.bankUsed m 1 = true) :
    (monBankWrite m (.mon m) w s).fld (.mon m) F.MON_BANK_LEN1 = s.fld (.mon m) F.MON_BANK_LEN1 :=
  holdFld_held (holdFld_rising (applyWrite_rising h (.mon m) 0x04C w) _ _ _ _) hb (by decide) (fld_lt ..)

theorem monBankWrite_reg_key {r : Page} {o : Nat} (hk : regKey r o ≠ regKey (.mon m) 0x04C) :
    (monBankWrite m (.mon m) w s).reg r o = s.reg r o := by
  have h1 := applyWrite_rising h (.mon m) 0x04C w
  rw [monBankWrite_eq, holdFld_reg_key (holdFld_rising h1 _ _ _ _) _ _ hk, holdFld_reg_key h1 _ _ hk]
  exact setReg_reg_key h _ hk

omit h in
theorem monBankWrite_beside (s : State) (p : Page) : s.Beside (monBankWrite m p w s) :=
  beside_trans (setReg_beside s _ _ _) (beside_trans (holdFld_beside _ _ _ _ _) (holdFld_beside _ _ _ _ _))

end

theorem exec_bankSwap {q : Req} (h : s.Takes q (.mon m) 0x04C) :
    exec (.bankSwap q m) s = .next (monBankWrite m (.mon m) q.val (s.at_ (.mon m) q.serial)) :=
  congrArg Host.Outcome.next (writeWord_manager rfl h _)

/-! The mains (R382, R401). -/

theorem exec_vsSample (h : s.vsRuns = true) (frac : Nat) (va vb vc : Int) (taps : List Nat) : exec (.vsSample frac va vb vc taps) s =
    .next (((s.atFrac frac).vsInstant [va, vb, vc] taps).1.lossAct ((s.atFrac frac).vsInstant [va, vb, vc] taps).2) :=
  congrArg Host.Outcome.next (if_neg (by simp [h]))

theorem exec_mainsTimeout (h : s.vsRuns = true) (frac : Nat) :
    exec (.mainsTimeout frac) s = .next ((s.atFrac frac).mainsTimeout.1.lossAct (s.atFrac frac).mainsTimeout.2) :=
  congrArg Host.Outcome.next (if_neg (by simp [h]))

theorem exec_mains_stopped (h : s.vsRuns = false) (frac : Nat) (va vb vc : Int) (taps : List Nat) :
    exec (.vsSample frac va vb vc taps) s = .next s ∧ exec (.mainsTimeout frac) s = .next s :=
  ⟨congrArg Host.Outcome.next (if_pos (by simp [h])), congrArg Host.Outcome.next (if_pos (by simp [h]))⟩

end

/-- Settles O18: `MON_DATA_LO` by its FIFO, `MON_BANK` by which banks are in use, and the mains by whether they are sampled. -/
theorem monitorChainsAndMainsSampling : Obligations.MonitorChainsAndMainsSampling := by
  refine ⟨fun q m s h => ⟨exec_monDataRead_empty h, fun w r => exec_monDataRead_word h⟩,
    fun q m s hs h => ⟨_, exec_bankSwap h, ?_⟩,
    fun frac va vb vc taps s => ⟨fun h => ⟨exec_vsSample h .., exec_mainsTimeout h frac⟩, fun h => exec_mains_stopped h ..⟩⟩
  obtain ⟨_, hrise, _⟩ := hs
  have hu := touch_rising hrise ((s.reach (.mon m) q.serial).fn q.serial)
  have used {b : Nat} (hb : (s.chain m).fade.isSome = true ∨ (s.chain m).active = b) :
      (s.at_ (.mon m) q.serial).bankUsed m b = true := by
    unfold State.bankUsed
    rw [touch_chain]
    simpa using hb
  refine ⟨monBankWrite_sel hu _, fun b hb2 hb => ?_, fun r o hk => ?_, beside_trans (touch_beside s _) (monBankWrite_beside ..)⟩
  · match b with
    | 0 => exact (monBankWrite_len0 hu _ (used hb)).trans (touch_fld ..)
    | 1 => exact (monBankWrite_len1 hu _ (used hb)).trans (touch_fld ..)
  · exact (monBankWrite_reg_key hu _ hk).trans (touch_reg ..)

end Sys2Proof.Machine
end

section
/-! PROOF. The multifunction pins (R436 to R438) and the protection command lines (R434, R435). -/

namespace Sys2Proof.Machine

/-! Pin selections (R437, R438). -/

section
variable {s : State} {n : Fin 48}

theorem touch_pinConflict (s : State) (fn : Fn) (p f : Nat) : (s.touch fn).pinConflict p f = s.pinConflict p f := by
  unfold State.pinConflict State.pmxActs State.pinSel State.pin State.dom
  simp only [touch_fld, touch_enabled, touch_dom, State.touch_io]

/-- A conflict is recorded with its pin and function. -/
def State.conflictNoted (s : State) (n f : Nat) : State :=
  ((s.setFlag .pmx F.PMX_STAT_CONFLICT true).setFld .pmx F.PMX_STAT_PIN n).setFld .pmx F.PMX_STAT_FUNC f

theorem pmxSelWrite_conflict {w : Word} (hc : s.pinConflict n.val (F.PMX_SEL_FUNC.get w) = true) :
    pmxSelWrite n.val .pmx w s = ((s.conflictNoted n.val (F.PMX_SEL_FUNC.get w)).bump .pmx 1).event .pmx 2 := if_pos hc

theorem conflictNoted_beside (s : State) (n f : Nat) : s.Beside (s.conflictNoted n f) := rfl

section
variable (h : risingFrom 0 s.regs = true)
include h

theorem conflictNoted_rising (n f : Nat) : risingFrom 0 (s.conflictNoted n f).regs = true :=
  setFld_rising (setFld_rising (setFlag_rising h _ _ _) _ _ _) _ _ _

theorem conflictNoted_reg_key (n f : Nat) {r : Page} {o : Nat} (hk : regKey r o ≠ regKey .pmx 0x040) :
    (s.conflictNoted n f).reg r o = s.reg r o := by
  have h1 := setFlag_rising h .pmx F.PMX_STAT_CONFLICT true
  have h2 := setFld_rising h1 .pmx F.PMX_STAT_PIN n
  exact (setReg_reg_key h2 _ hk).trans ((setReg_reg_key h1 _ hk).trans (setReg_reg_key h _ hk))

theorem conflictNoted_flag (n f : Nat) : (s.conflictNoted n f).flag .pmx F.PMX_STAT_CONFLICT = true := by
  have h1 := setFlag_rising h .pmx F.PMX_STAT_CONFLICT true
  unfold State.flag State.conflictNoted
  rw [setFld_fld_bits (setFld_rising h1 _ _ _) _ _ _ _ (by rfl) (by decide) (by decide),
    setFld_fld_bits h1 _ _ _ _ (by rfl) (by decide) (by decide)]
  exact setFlag_flag_same h _ _ _ (by decide) (by decide)

theorem conflictNoted_pin (f : Nat) : (s.conflictNoted n.val f).fld .pmx F.PMX_STAT_PIN = n.val := by
  have h1 := setFlag_rising h .pmx F.PMX_STAT_CONFLICT true
  unfold State.conflictNoted
  rw [setFld_fld_bits (setFld_rising h1 _ _ _) _ _ _ _ (by rfl) (by decide) (by decide), setFld_fld_same h1 _ _ _ (by decide)]
  exact Nat.mod_eq_of_lt (Nat.lt_trans n.isLt (by decide))

theorem conflictNoted_func (n : Nat) (w : Word) :
    (s.conflictNoted n (F.PMX_SEL_FUNC.get w)).fld .pmx F.PMX_STAT_FUNC = F.PMX_SEL_FUNC.get w := by
  unfold State.conflictNoted
  rw [setFld_fld_same (setFld_rising (setFlag_rising h _ _ _) _ _ _) _ _ _ (by decide)]
  exact Nat.mod_mod_of_dvd _ (dvd_refl _)

/-- What a refused selection leaves: its record and its event, and every word of the selections. -/
theorem pmxSelWrite_refused {w : Word} (hc : s.pinConflict n.val (F.PMX_SEL_FUNC.get w) = true) :
    let t := pmxSelWrite n.val .pmx w s
    (∀ k, k < 48 → t.reg .pmx (0x100 + 4 * k) = s.reg .pmx (0x100 + 4 * k)) ∧ t.flag .pmx F.PMX_STAT_CONFLICT = true ∧
      t.fld .pmx F.PMX_STAT_PIN = n.val ∧ t.fld .pmx F.PMX_STAT_FUNC = F.PMX_SEL_FUNC.get w ∧
      (t.reg .pmx offEvent).getLsbD 2 = true ∧ (∀ r o, o < 0x1000 → r ≠ .pmx → t.reg r o = s.reg r o) := by
  intro t
  have ht : t = _ := pmxSelWrite_conflict hc
  have h1 := conflictNoted_rising h n.val (F.PMX_SEL_FUNC.get w)
  have h2 := bump_rising h1 .pmx 1
  have hstat : t.reg .pmx 0x040 = (s.conflictNoted n.val (F.PMX_SEL_FUNC.get w)).reg .pmx 0x040 := by
    rw [ht, event_reg_off h2 _ _ (by decide), bump_reg_off h1 _ _ (by decide)]
  refine ⟨fun k hk => ?_, ?_, ?_, ?_, ?_, fun r o ho hr => ?_⟩
  · rw [ht, event_reg_off h2 _ _ (by unfold offEvent; omega), (sameWord_bump 1 fun j _ hj => by unfold regKey; omega) h1 |>.2,
      conflictNoted_reg_key h _ _ (by unfold regKey; omega)]
  · exact (flag_of_reg hstat).trans (conflictNoted_flag h _ _)
  · exact (congrArg F.PMX_STAT_PIN.get hstat).trans (conflictNoted_pin h _)
  · exact (congrArg F.PMX_STAT_FUNC.get hstat).trans (conflictNoted_func h _ _)
  · rw [ht]
    exact event_bit h2 _ (by decide) (by decide)
  · rw [ht, event_reg_page h2 _ hr ho, bump_reg_page h1 _ hr ho,
      conflictNoted_reg_key h _ _ fun he => hr (regKey_inj ho (by decide) he).1]

end

theorem pmxSelWrite_conflict_beside {w : Word} (hc : s.pinConflict n.val (F.PMX_SEL_FUNC.get w) = true) :
    s.Beside (pmxSelWrite n.val .pmx w s) := by
  rw [pmxSelWrite_conflict hc]
  exact beside_trans (conflictNoted_beside ..) (beside_trans (bumpBy_beside ..) (event_beside ..))

theorem exec_pmxSelect {q : Req} (h : s.Takes q .pmx (0x100 + 4 * n.val)) :
    exec (.pmxSelect q n) s = .next (pmxSelWrite n.val .pmx q.val (s.at_ .pmx q.serial)) :=
  congrArg Host.Outcome.next (writeWord_manager rfl h _)

theorem exec_pmxSelect_stored {q : Req} (h : s.Takes q .pmx (0x100 + 4 * n.val))
    (hc : s.pinConflict n.val (F.PMX_SEL_FUNC.get q.val) = false) : exec (.pmxSelect q n) s =
    .next ((applyWrite .pmx (0x100 + 4 * n.val) q.val (s.at_ .pmx q.serial)).startSwitch n.val) :=
  (exec_pmxSelect h).trans (congrArg Host.Outcome.next (if_neg (by rw [touch_pinConflict, hc]; exact Bool.false_ne_true)))

theorem exec_pmxSwitchDone {f : Nat} (hf : (s.pin n.val).dest = some f) : exec (.pmxSwitchDone n) s =
    .next ((((s.setPin n.val ⟨f, none⟩).bump .pmx 0).event .pmx 1).startSwitch n.val) := by
  change execPmxSwitchDone n s = _
  unfold execPmxSwitchDone
  rw [hf]

end

/-! The command lines (R434, R435). -/

section
variable {s : State} {i : Fin 8}

theorem exec_cmdInSample (h : s.cmdInOn = true) (hi mid : Nat) : exec (.cmdInSample hi mid) s =
    .next ((List.finRange 8).foldl (fun s i =>
      s.setCmdIn i ((s.cmdIn i).sample (s.flag .cmdio (F.CMDIO_IN_POL.at i.val)) (bitOf hi i.val) (bitOf mid i.val))) s) :=
  congrArg Host.Outcome.next (if_neg (by simp [h]))

theorem exec_cmdInActivate (h : s.debounced i true = true) : exec (.cmdInActivate i) s =
    .next (if (s.lineActive i).l4Flag .cmd (F.CMD_LINE_SRC_PIN.at i.val) then (s.lineActive i).cmdTrigger i.val else s.lineActive i) :=
  congrArg Host.Outcome.next (if_pos h)

theorem exec_cmdInDeactivate (h : s.debounced i false = true) :
    exec (.cmdInDeactivate i) s = .next ((s.setCmdIn i { s.cmdIn i with active := false }).event .cmdio 2) :=
  congrArg Host.Outcome.next (if_pos h)

end

/-- Settles O19: a selection by whether another pin holds it, a switch that completes, and the lines where they are sampled. -/
theorem pinsAndCommandLines : Obligations.PinsAndCommandLines := by
  refine ⟨fun q n s hs => ⟨fun h hc => ?_, exec_pmxSelect_stored, fun f => exec_pmxSwitchDone⟩,
    fun i s => ⟨fun hi mid h => exec_cmdInSample h hi mid, exec_cmdInActivate, exec_cmdInDeactivate, rfl⟩⟩
  obtain ⟨_, hrise, _⟩ := hs
  have hc' : (s.at_ .pmx q.serial).pinConflict n.val (F.PMX_SEL_FUNC.get q.val) = true := (touch_pinConflict ..).trans hc
  obtain ⟨hsel, hflag, hpin, hfunc, hev, hpage⟩ := pmxSelWrite_refused (touch_rising hrise _) hc'
  refine ⟨_, exec_pmxSelect h, fun k hk => (hsel k hk).trans (touch_reg ..), hflag, hpin, hfunc, hev,
    fun r o ho hr => (hpage r o ho hr).trans (touch_reg ..), beside_trans (touch_beside s _) (pmxSelWrite_conflict_beside hc')⟩

end Sys2Proof.Machine
end

section
/-! PROOF. Tests and scrubs of the stores (R357), and the pin HEALTHY held low (R363). -/

namespace Sys2Proof.Machine

section
variable {s : State}

theorem exec_rowMarchTest_fail (h : s.dom 10 = .on) (sbuf : Bool) (words : List Nat) :
    exec (.rowMarchTest sbuf true words) s = .next (s.rowRepair sbuf words) := congrArg Host.Outcome.next (if_pos (by rw [h]; rfl))

theorem exec_sramScrub (h : s.running = true) (n : Nat) : exec (.sramScrub n) s = .next (s.bumpBy .hlt 0 n) :=
  congrArg Host.Outcome.next (if_pos h)

/-- Words of the directory that no scrub can correct are known as such. -/
def State.noteBadDir (s : State) (bad : List Nat) : State :=
  { s with mem := { s.mem with dirBad := s.mem.dirBad ++ bad.filter fun w => !s.mem.dirBad.contains w } }

theorem exec_dramScrub (h : s.running = true) (ht : s.pwr.dram.trained = true) (n : Nat) (bad : List Nat) : exec (.dramScrub n bad) s =
    .next (if bad = [] then (s.bumpBy .hlt 6 n).noteBadDir bad else ((s.bumpBy .hlt 6 n).noteBadDir bad).scrubUncorr bad.length) :=
  congrArg Host.Outcome.next (if_neg (by simp [h, ht]))

theorem exec_forceLowWrite {q : Req} (h : s.Takes q .hlt 0x044) :
    exec (.forceLowWrite q) s = .next (applyWrite .hlt 0x044 q.val (s.at_ .hlt q.serial)).healthyPin :=
  congrArg Host.Outcome.next (writeWord_manager rfl h _)

end

/-- Settles O59: each command where its premises hold. -/
theorem storesAreTestedAndScrubbed : Obligations.StoresAreTestedAndScrubbed := fun _ =>
  ⟨fun sbuf words h => exec_rowMarchTest_fail h sbuf words, fun n h => exec_sramScrub h n, fun n bad h ht => exec_dramScrub h ht n bad,
    fun _ => exec_forceLowWrite⟩

end Sys2Proof.Machine
end

section
/-! PROOF. The UARTs (R423 to R433, R443): the transmit side, the receive side, and what is read and discarded. -/

namespace Sys2Proof.Machine

/-! What the touch of an access leaves of a UART. -/

section
variable (s : State) (fn : Fn) (u : Fin 2)

theorem touch_uart : (s.touch fn).uart u = s.uart u := by
  unfold State.uart
  rw [State.touch_io]

end

section
variable {s : State} {u : Fin 2}

/-! The transmit side (R429, R433). -/

section
variable {q : Req}

theorem exec_uartTxdWrite (h : s.Takes q (.uart u) 0x05C) : exec (.uartTxdWrite q u) s =
    .next (if (s.uart u).tx.length < uartDepth u then
        (s.at_ (.uart u) q.serial).setUart u { s.uart u with tx := (s.uart u).tx ++ [q.val.toNat % 512] }
      else (s.at_ (.uart u) q.serial).setFlag (.uart u) F.UART_STAT_TX_DROP true) := by
  refine congrArg Host.Outcome.next ((writeWord_manager rfl h _).trans ?_)
  unfold uartTxdWrite
  rw [touch_uart]

theorem exec_txFlush (h : s.Takes q (.uart u) 0x068) (h0 : q.val.getLsbD 0 = true) (h1 : q.val.getLsbD 1 = false) :
    exec (.txFlush q u) s =
      .next (((s.at_ (.uart u) q.serial).setUart u { s.uart u with tx := [] }).txLow u (s.uart u).tx.length) := by
  refine congrArg Host.Outcome.next ((writeWord_manager rfl h _).trans ?_)
  unfold uartFifoWrite
  rw [h0, h1, ← touch_uart s ((s.reach (.uart u) q.serial).fn q.serial)]
  rfl

end

/-- The transmitter may start a character: its block runs, nothing holds it, and CTS_N lets it. -/
def State.txFree (s : State) (u : Fin 2) (cts : Bool) : Prop :=
  s.enabled (.uart u) = true ∧ s.isolated (.uart u) = false ∧ s.running = true ∧ s.pageOn (.uart u) = true ∧ s.padsHeld = false ∧
    s.txHeld u = false ∧ (s.flag (.uart u) F.UART_CFG_CTS_EN = true → s.ctsSeen u cts = false)

theorem exec_uartTxChar {cts : Bool} {d : Nat} {r : List Nat} (h : s.txFree u cts) (hx : (s.uart u).tx = d :: r) :
    exec (.uartTxChar u cts) s = .next (((((s.setUart u { s.uart u with cts := s.ctsSeen u cts, busy := false }).setUart u
      { s.uart u with cts := s.ctsSeen u cts, tx := r, busy := true }).emit (.uart u.val (s.uartFrame u d) (s.uartRate u))).bump
        (.uart u) 1).txLow u (s.uart u).tx.length) := by
  obtain ⟨he, hi, hr, hd, hp, ht, hc⟩ := h
  have hcts : (s.flag (.uart u) F.UART_CFG_CTS_EN && s.ctsSeen u cts) = false := by simpa using hc
  change execUartTxChar u cts s = _
  unfold execUartTxChar
  dsimp only
  rw [he, hi, hr, hd, hp, ht, hcts, hx]
  rfl

/-! The receive side (R425, R431). -/

section
variable (h : s.uartRxOn u = true)
include h

/-- A character with mark in its first stop bit, where no parity and no multidrop addressing judges it. -/
theorem exec_uartRxChar (data : Nat) (par : Bool) (hm : s.flag (.uart u) F.UART_CFG_MDROP = false) (hp : s.uartParity u = 0) :
    exec (.uartRxChar u data par true) s = .next (((s.setUart u { s.uart u with heard := true }).bump (.uart u) 0).uartStore u
      ⟨data % 2 ^ s.uartBits u, false, false, false, false, false, false⟩) := by
  change execUartRxChar u data par true s = _
  unfold execUartRxChar State.mdropTakes
  dsimp only
  rw [h, hm, hp]
  simp

theorem exec_uartBreak : exec (.uartBreak u) s =
    .next (((((s.bump (.uart u) 5).bump (.uart u) 3).event (.uart u) 4).event (.uart u) 3).uartStore u
      ⟨0, false, true, false, true, false, false⟩) := congrArg Host.Outcome.next (if_neg (by simp [h]))

theorem exec_uartIdle (hh : (s.uart u).heard = true) :
    exec (.uartIdle u) s = .next ((s.setUart u { s.uart u with heard := false, idle := true }).event (.uart u) 5) :=
  congrArg Host.Outcome.next (if_pos (by simp [h, hh]))

end

/-! What is read and discarded (R443). -/

section
variable {q : RdReq} (h : s.Gives q (.uart u) 0x060)
include h

theorem exec_uartRxdRead (bad : Bool) : exec (.uartRxdRead q u bad) s =
    .next ((uartRxdRead u bad (s.at_ (.uart u) q.serial)).2.2.emit (.readData ((Page.uart u).fn q.serial)
      (uartRxdRead u bad (s.at_ (.uart u) q.serial)).1 (uartRxdRead u bad (s.at_ (.uart u) q.serial)).2.1)) :=
  congrArg Host.Outcome.next (readWord_manager rfl h fun _ => rfl)

theorem exec_uartRxdRead_empty (hx : (s.uart u).rx = []) (bad : Bool) : exec (.uartRxdRead q u bad) s =
    .next ((s.at_ (.uart u) q.serial).emit (.readData ((Page.uart u).fn q.serial) 0x80000000 false)) := by
  rw [exec_uartRxdRead h]
  unfold uartRxdRead
  dsimp only
  rw [touch_uart, hx]

theorem exec_uartRxdRead_word {w : UartWord} {r : List UartWord} (hx : (s.uart u).rx = w :: r) (hw : w.poison = false) :
    exec (.uartRxdRead q u false) s =
      .next ((((s.at_ (.uart u) q.serial).setUart u { s.uart u with rx := r }).uartPressure u).emit
        (.readData ((Page.uart u).fn q.serial) (uartRxdWord w) false)) := by
  obtain ⟨data, pe, fe, ovr, brk, idle, poison⟩ := w
  cases hw
  rw [exec_uartRxdRead h]
  unfold uartRxdRead
  dsimp only
  rw [touch_uart, hx]
  rfl

end

theorem exec_rxFlush {q : Req} (h : s.Takes q (.uart u) 0x068) (h1 : q.val.getLsbD 1 = true) (h0 : q.val.getLsbD 0 = false) :
    exec (.rxFlush q u) s = .next (((s.at_ (.uart u) q.serial).setUart u { s.uart u with rx := [] }).uartPressure u) := by
  refine congrArg Host.Outcome.next ((writeWord_manager rfl h _).trans ?_)
  unfold uartFifoWrite
  rw [h0, h1, touch_uart]
  rfl

end

/-- Settles O20: each write by the FIFO it finds, the transmitter where nothing holds it (`State.txFree`), and each read by its word. -/
theorem serialCharactersAreSentAndReceived : Obligations.SerialCharactersAreSentAndReceived := by
  refine ⟨fun q u s => ⟨fun h => ?_, exec_txFlush,
      fun cts d r he hi hr hd hp ht hc hx => exec_uartTxChar ⟨he, hi, hr, hd, hp, ht, hc⟩ hx⟩,
    fun u s h => ⟨exec_uartRxChar h, exec_uartBreak h, exec_uartIdle h⟩,
    fun q u s => ⟨fun h => ⟨exec_uartRxdRead_empty h, fun w r => exec_uartRxdRead_word h⟩, fun w => exec_rxFlush⟩⟩
  rw [exec_uartTxdWrite h]
  exact ⟨fun hlt => by rw [if_pos hlt], fun hge => by rw [if_neg hge]⟩

end Sys2Proof.Machine
end

section
/-! PROOF. The test access port (R441) and the PCIe link (R409, R414, R452, R460). -/

namespace Sys2Proof.Machine

section
variable {s : State}

/-! The test access port. -/

/-- An instruction of the test access port is in force. -/
def State.setTap (s : State) (i : Tap) : State := { s with pwr := { s.pwr with tap := i } }

/-- Every command input line is inactive. -/
def State.linesInactive (s : State) : State := { s with io := { s.io with cmdIn := List.replicate 8 CmdIn.reset } }

/-- What the pins' coming to be held and their release bring (R441). -/
theorem exec_tapInstruction (hm : s.pwr.mode ≠ .off) (i : Tap) : exec (.tapInstruction i) s =
    .next (if (s.setTap i).padsHeld && !s.padsHeld then
        (if s.io.link.up then (s.setTap i).pcieDown else s.setTap i).linesInactive.outUpdate
      else if s.padsHeld && !(s.setTap i).padsHeld then (s.setTap i).outUpdate else s.setTap i) :=
  congrArg Host.Outcome.next (if_neg hm)

theorem exec_tapInstruction_holds (hm : s.pwr.mode ≠ .off) {i : Tap} (hi : (s.setTap i).padsHeld = true) (hs : s.padsHeld = false) :
    exec (.tapInstruction i) s = .next (if s.io.link.up then (s.setTap i).pcieDown else s.setTap i).linesInactive.outUpdate := by
  rw [exec_tapInstruction hm, hi, hs]
  rfl

theorem exec_tapInstruction_keeps (hm : s.pwr.mode ≠ .off) {i : Tap} (hi : (s.setTap i).padsHeld = s.padsHeld) :
    exec (.tapInstruction i) s = .next (s.setTap i) := by
  rw [exec_tapInstruction hm, hi, Bool.and_not_self]
  rfl

theorem exec_tapInstruction_releases (hm : s.pwr.mode ≠ .off) {i : Tap} (hi : (s.setTap i).padsHeld = false) (hs : s.padsHeld = true) :
    exec (.tapInstruction i) s = .next (s.setTap i).outUpdate := by
  rw [exec_tapInstruction hm, hi, hs]
  rfl

/-! The link. -/

theorem exec_pcieLinkUp (hd : s.pageOn .hif = true) (hp : s.padsHeld = false) (hr : s.io.link.perst = true)
    (hc : s.pwr.clk.pcieRef = true) (hu : s.io.link.up = false) (speed : Fin 3) (two : Bool) : exec (.pcieLinkUp speed two) s =
    .next ((s.setLinkState { s.io.link with up := true, speed := speed.val + 1, width := if two then 2 else 1 }).event .hif 3) :=
  congrArg Host.Outcome.next (if_pos (by simp [hd, hp, hr, hc, hu]))

theorem exec_pciePerst_internal (hm : s.pwr.mode ≠ .off) (hd : s.pageOn .hif = true) : exec (.pciePerst false) s = .next s.pcieDown :=
  congrArg Host.Outcome.next ((if_neg hm).trans (if_pos hd))

theorem exec_pciePerst_pin (hm : s.pwr.mode ≠ .off) (hd : s.pageOn .hif = true) (hr : s.io.link.perst = true) :
    exec (.pciePerst true) s = .next ((s.setLinkState { s.io.link with perst := false }).pcieDown.wake 3) := by
  have hd' : (s.setLinkState { s.io.link with perst := false }).pageOn .hif = true := hd
  refine congrArg Host.Outcome.next ((if_neg hm).trans ?_)
  dsimp only
  rw [if_pos rfl, if_pos hd', hr]
  rfl

theorem exec_pciePerstRise (hm : s.pwr.mode ≠ .off) (hr : s.io.link.perst = false) :
    exec .pciePerstRise s = .next ((s.setLinkState { s.io.link with perst := true }).wake 3) :=
  congrArg Host.Outcome.next (if_neg (by simp [hm, hr]))

/-- The PCIe reference runs, or has stopped. -/
def State.setPcieRef (s : State) (b : Bool) : State := { s with pwr := { s.pwr with clk := { s.pwr.clk with pcieRef := b } } }

theorem exec_pcieRefLoss (hd : s.pageOn .hif = true) (hc : s.pwr.clk.pcieRef = true) : exec .pcieRefLoss s =
    .next (((((s.setPcieRef false).bump .clk 0).event .clk 2).fault .clk 2 0).pcieDown) :=
  congrArg Host.Outcome.next (if_pos (by simp [hd, hc]))

end

/-- Settles O22: the test access port by whether the pins are held before and after, and the link's commands where they act. -/
theorem testAccessAndLink : Obligations.TestAccessAndLink := by
  refine ⟨fun i s hm => ⟨fun hi hs hu => ?_, fun hi hs hu => ?_, exec_tapInstruction_keeps hm, exec_tapInstruction_releases hm⟩,
    fun s => ⟨fun speed two hd hp hr hc hu => exec_pcieLinkUp hd hp hr hc hu speed two, exec_pciePerst_internal, exec_pciePerst_pin,
      exec_pciePerstRise, exec_pcieRefLoss, rfl⟩⟩
  · exact (exec_tapInstruction_holds hm hi hs).trans (by rw [hu]; rfl)
  · exact (exec_tapInstruction_holds hm hi hs).trans (by rw [hu]; rfl)

end Sys2Proof.Machine
end

section
/-! PROOF. Temperature samples, the warning and the release from a shutdown (R467, R468). -/

namespace Sys2Proof.Machine

section
variable {s : State}

/-! What a sample makes of the state, part by part. -/

/-- Sensors that come to be excluded are faults, and counted. -/
def State.exclusionsNoted (s : State) (l : List Int) : State :=
  ((List.range 8).filter fun i => bitOf (excludedSensors l) i && !bitOf s.pwr.thm.excluded i).foldl
    (fun s i => (s.fault .thm 2 i).bump .thm 1) s

/-- What the sensors have told, `h` being the highest that is not excluded. -/
def State.sensed (s : State) (l : List Int) (drv : Int) (h : Nat) : Thermal :=
  { s.pwr.thm with
    sensors := l, excluded := excludedSensors l, max := l.getD h 0, hot := h, drvMax := drv
    warn := s.pwr.thm.warn || decide (1120 ≤ l.getD h 0)
    clearing := (s.pwr.thm.warn || decide (1120 ≤ l.getD h 0)) && decide (l.getD h 0 < 1080) }

/-- PEAK rises to a higher temperature. -/
def State.peaked (s : State) (x : Int) : State :=
  if signed 16 (s.fld .thm F.THM_TEMP_PEAK) < x then s.setFld .thm F.THM_TEMP_PEAK (satSigned 16 x) else s

/-- The warning comes. -/
def State.warned (s : State) (b : Bool) : State := if b then ((s.setStatus .thm 16 true).event .thm 3).bump .thm 0 else s

theorem exec_thermalSample {l : List Int} {h : Nat} (hm : s.pwr.mode ≠ .standby) (ho : s.pwr.mode ≠ .off)
    (hh : hottest l (excludedSensors l) = some h) (drv : Int) : exec (.thermalSample l drv) s =
    .next ((((s.exclusionsNoted l).setThm (s.sensed l drv h)).peaked (l.getD h 0)).warned
      (!s.pwr.thm.warn && decide (1120 ≤ l.getD h 0))) := by
  refine congrArg Host.Outcome.next ((if_neg (by simp [hm, ho])).trans ?_)
  dsimp only
  rw [hh]
  rfl

theorem peaked_pwr (x : Int) : (s.peaked x).pwr = s.pwr := by
  unfold State.peaked
  split <;> rfl

theorem warned_pwr (b : Bool) : (s.warned b).pwr = s.pwr := by
  unfold State.warned
  split
  · simp
  · rfl

theorem sameWord_exclusionsNoted (l : List Int) : s.SameWord (s.exclusionsNoted l) .thm 0x040 :=
  sameWord_foldl s fun _ i _ => (sameWord_fault 2 i (by decide) (by decide) (by decide)).trans
    (sameWord_bump 1 fun k hk _ => by unfold regKey; omega)

theorem sameWord_warned (b : Bool) : s.SameWord (s.warned b) .thm 0x040 := by
  unfold State.warned
  split
  · exact (sameWord_setReg _ (by decide)).trans ((sameWord_event 3 (by decide)).trans
      (sameWord_bump 0 fun k hk _ => by unfold regKey; omega))
  · exact .refl s _ _

/-- A number that saturates at a field's range fits the field. -/
theorem satSigned_lt (w : Nat) (x : Int) : satSigned w x < 2 ^ w := by
  have hp : (0 : Int) < 2 ^ w := by positivity
  have hlt := Int.emod_lt_of_pos (if (2 : Int) ^ (w - 1) - 1 < x then 2 ^ (w - 1) - 1 else if x < -(2 ^ (w - 1)) then -(2 ^ (w - 1)) else x) hp
  unfold satSigned
  dsimp only
  zify
  omega

section
variable (h : risingFrom 0 s.regs = true)
include h

theorem peaked_rises {x : Int} (hx : signed 16 (s.fld .thm F.THM_TEMP_PEAK) < x) :
    (s.peaked x).fld .thm F.THM_TEMP_PEAK = satSigned 16 x := by
  unfold State.peaked
  rw [if_pos hx, setFld_fld_same h _ _ _ (by decide)]
  exact Nat.mod_eq_of_lt (satSigned_lt 16 x)

omit h in
theorem peaked_stays {x : Int} (hx : x ≤ signed 16 (s.fld .thm F.THM_TEMP_PEAK)) : s.peaked x = s := if_neg (not_lt.mpr hx)

theorem peaked_rising (x : Int) : risingFrom 0 (s.peaked x).regs = true := by
  unfold State.peaked
  split
  · exact setFld_rising h _ _ _
  · exact h

theorem warned_event : ((s.warned true).reg .thm offEvent).getLsbD 3 = true := by
  have h1 := setRegBit_rising h .thm offStatus 16 true
  exact (congrArg (·.getLsbD 3) (bump_reg_off (event_rising h1 .thm 3) .thm 0 (by decide))).trans
    (event_bit h1 _ (by decide) (by decide))

end

theorem exec_thermalWarnClear (hw : s.pwr.thm.warn = true) (hc : s.pwr.thm.clearing = true) : exec .thermalWarnClear s =
    .next (((s.setThm { s.pwr.thm with warn := false, clearing := false }).setStatus .thm 16 false).event .thm 2) :=
  congrArg Host.Outcome.next (if_pos (by simp [hw, hc]))

theorem exec_thermalRelease (hh : s.pwr.thm.hold = true) (hm : s.pwr.thm.max < 1040) :
    exec .thermalRelease s = .next (s.setThm { s.pwr.thm with hold := false }) :=
  congrArg Host.Outcome.next (if_pos (by simp [hh, hm]))

end

/-- Settles O54: a sample by its parts, PEAK being left by the faults before it and by the warning after it. -/
theorem temperaturesAreWatched : Obligations.TemperaturesAreWatched := by
  refine fun s => ⟨fun l drv h hm ho hh => ?_, exec_thermalWarnClear, exec_thermalRelease⟩
  have hpwr : ((((s.exclusionsNoted l).setThm (s.sensed l drv h)).peaked (l.getD h 0)).warned
      (!s.pwr.thm.warn && decide (1120 ≤ l.getD h 0))).pwr.thm = s.sensed l drv h := by
    rw [warned_pwr, peaked_pwr]
    rfl
  refine ⟨_, exec_thermalSample hm ho hh drv, congrArg Thermal.max hpwr, congrArg Thermal.hot hpwr, congrArg Thermal.sensors hpwr,
    congrArg Thermal.excluded hpwr, congrArg Thermal.drvMax hpwr, congrArg Thermal.warn hpwr, fun hs => ?_⟩
  obtain ⟨_, hrise, _⟩ := hs
  obtain ⟨h1, hnoted⟩ := sameWord_exclusionsNoted l hrise
  have h2 : risingFrom 0 ((s.exclusionsNoted l).setThm (s.sensed l drv h)).regs = true := h1
  have hold : ((s.exclusionsNoted l).setThm (s.sensed l drv h)).fld .thm F.THM_TEMP_PEAK = s.fld .thm F.THM_TEMP_PEAK :=
    congrArg F.THM_TEMP_PEAK.get hnoted
  have hpeak (b : Bool) : ((((s.exclusionsNoted l).setThm (s.sensed l drv h)).peaked (l.getD h 0)).warned b).fld .thm F.THM_TEMP_PEAK =
      (((s.exclusionsNoted l).setThm (s.sensed l drv h)).peaked (l.getD h 0)).fld .thm F.THM_TEMP_PEAK :=
    congrArg F.THM_TEMP_PEAK.get (sameWord_warned b (peaked_rising h2 _)).2
  refine ⟨fun hx => ?_, fun hx => ?_, fun hw hx => ?_⟩
  · rw [hpeak]
    exact peaked_rises h2 (hold ▸ hx)
  · rw [hpeak, peaked_stays (hold ▸ hx), hold]
  · rw [hw, decide_eq_true hx]
    exact warned_event (peaked_rising h2 _)

end Sys2Proof.Machine
end

section
/-! PROOF. What a loss of power leaves (Table 15-10), and the resets that bring one (R361, R446, R448, R463, R468). -/

namespace Sys2Proof.Machine

/-! What is lost, beside the registers. -/

/-- `t` holds of `s` what PD0, MRAM and the pins keep, and otherwise reset values; of the registers it says nothing. -/
structure State.Lost (s t : State) : Prop where
  mem : t.mem = Mem.empty
  gather : t.gather = Gather.empty
  line : t.line = Line.reset
  net : t.net = Net.reset
  cph : t.cph = Cipher.reset
  slp : t.slp = Sleep.reset
  chip : t.chip = s.chip
  nvm : t.nvm = { s.nvm with dramWkt := [], saving := none, applying := [], upd := Upd.idle }
  stages : t.pwr.stages = s.pwr.stages
  rtc : t.pwr.rtc = s.pwr.rtc

/-- HLT keeps faults, and their information while there are any (R381). -/
def State.loseHealth (s : State) (hf hi : Word) : State :=
  if hf = 0 then s.setReg .hlt offFault hf else (s.setReg .hlt offFault hf).setReg .hlt offFaultInfo hi

/-- The boot has not run, and DRAM is not in service. -/
def State.loseBoot (s : State) : State :=
  ([F.RST_STAT_BOOT_DONE, F.RST_STAT_BOOT_RECORD_APPLIED, F.RST_STAT_BOOT_RECORD_FAIL].foldl (fun s f => s.setFlag .rst f false) s).setStatus
    .pwr 16 false

/-- A loss of power leaves the registers of PD0, HLT's faults, and the rest as `State.Lost` says. -/
theorem lose_split (s : State) : ∃ u, s.Lost u ∧ u.regs = storeKeep aoKey s.regs ∧
    s.lose = (u.loseHealth (s.reg .hlt offFault &&& 0x7C) (s.reg .hlt offFaultInfo)).loseBoot := by
  refine ⟨?rest, ?lost, ?regs, ?split⟩
  case split =>
    unfold State.lose State.loseHealth State.loseBoot
    rfl
  case lost => exact ⟨rfl, rfl, rfl, rfl, rfl, rfl, rfl, rfl, rfl, rfl⟩
  case regs => rfl

theorem loseHealth_beside (s : State) (hf hi : Word) : s.Beside (s.loseHealth hf hi) := by
  unfold State.loseHealth
  split <;> rfl

theorem loseBoot_beside (s : State) : s.Beside s.loseBoot := rfl

section
variable {s t u : State}

theorem State.Lost.beside (h : s.Lost t) (hb : t.Beside u) : s.Lost u where
  mem := (beside_mem hb).trans h.mem
  gather := (beside_gather hb).trans h.gather
  line := (beside_line hb).trans h.line
  net := (beside_net hb).trans h.net
  cph := (beside_cph hb).trans h.cph
  slp := (beside_slp hb).trans h.slp
  chip := (beside_chip hb).trans h.chip
  nvm := (beside_nvm hb).trans h.nvm
  stages := Eq.trans (by rw [hb]) h.stages
  rtc := Eq.trans (by rw [hb]) h.rtc

/-- Another mode, and whatever else of the power's state but the stages and the RTC. -/
theorem State.Lost.setPwr {x : Pwr} (h : s.Lost t) (hs : x.stages = t.pwr.stages) (hr : x.rtc = t.pwr.rtc) : s.Lost (t.setPwr x) where
  mem := h.mem
  gather := h.gather
  line := h.line
  net := h.net
  cph := h.cph
  slp := h.slp
  chip := h.chip
  nvm := h.nvm
  stages := hs.trans h.stages
  rtc := hr.trans h.rtc

/-- What came before the loss and changed nothing but what any access or message changes is no part of what is lost. -/
theorem State.Lost.after (hb : s.Beside t) (h : t.Lost u) : s.Lost u where
  mem := h.mem
  gather := h.gather
  line := h.line
  net := h.net
  cph := h.cph
  slp := h.slp
  chip := h.chip.trans (beside_chip hb)
  nvm := h.nvm.trans (by rw [beside_nvm hb])
  stages := h.stages.trans (by rw [hb])
  rtc := h.rtc.trans (by rw [hb])

theorem lose_lost (s : State) : s.Lost s.lose := by
  obtain ⟨u, hu, _, he⟩ := lose_split s
  rw [he]
  exact hu.beside (beside_trans (loseHealth_beside ..) (loseBoot_beside _))

/-! The registers that are lost. -/

/-- A word that the loss neither sets nor clears by itself. -/
def lossFree (k : Nat) : Prop :=
  k ≠ regKey .hlt offFault ∧ k ≠ regKey .hlt offFaultInfo ∧ k ≠ regKey .rst 0x048 ∧ k ≠ regKey .pwr offStatus

theorem sameWord_loseHealth {r : Page} {o : Nat} (hf hi : Word) (hk : lossFree (regKey r o)) : s.SameWord (s.loseHealth hf hi) r o := by
  obtain ⟨h1, h2, _, _⟩ := hk
  unfold State.loseHealth
  split
  · exact sameWord_setReg _ h1
  · exact (sameWord_setReg _ h1).trans (sameWord_setReg _ h2)

theorem sameWord_loseBoot {r : Page} {o : Nat} (hk : lossFree (regKey r o)) : s.SameWord s.loseBoot r o := by
  obtain ⟨_, _, h3, h4⟩ := hk
  exact (((sameWord_setReg _ h3).trans (sameWord_setReg _ h3)).trans (sameWord_setReg _ h3)).trans (sameWord_setReg _ h4)

section
variable (h : risingFrom 0 s.regs = true)
include h

theorem lose_rising_reg {r : Page} {o : Nat} (hk : lossFree (regKey r o)) : risingFrom 0 s.lose.regs = true ∧
    s.lose.reg r o = if aoKey (regKey r o) then s.reg r o else resetWord r o := by
  obtain ⟨u, _, hr, he⟩ := lose_split s
  have hu : risingFrom 0 u.regs = true := hr ▸ storeKeep_rising _ h
  obtain ⟨ht, hreg⟩ := ((sameWord_loseHealth _ _ hk).trans (sameWord_loseBoot hk)) hu
  rw [he]
  refine ⟨ht, hreg.trans ?_⟩
  unfold State.reg
  rw [hr]
  cases ha : aoKey (regKey r o) with
  | true => exact storeGet_keep_in _ ha h
  | false => exact storeGet_keep_out _ ha _

theorem lose_rising : risingFrom 0 s.lose.regs = true :=
  (lose_rising_reg h (r := .dev) (o := 0) ⟨by decide, by decide, by decide, by decide⟩).1

/-- PD0 keeps the causes and the counters of RST. -/
theorem lose_reg_rst {o : Nat} (ho : o < 0x1000) (hne : o ≠ 0x048) : s.lose.reg .rst o = s.reg .rst o := by
  have key {p : Page} {k : Nat} (hk : k < 0x1000) (hp : p ≠ .rst ∨ k ≠ o) : regKey .rst o ≠ regKey p k := fun he => by
    obtain ⟨h1, h2⟩ := regKey_inj ho hk he
    exact hp.elim (fun hn => hn h1.symm) fun hn => hn h2.symm
  have hao : aoKey (regKey .rst o) = true := by
    unfold aoKey regKey pageBase
    simp only [Bool.or_eq_true, decide_eq_true_eq]
    omega
  rw [(lose_rising_reg h ⟨key (by decide) (.inl (by decide)), key (by decide) (.inl (by decide)), key (by decide) (.inr (Ne.symm hne)),
    key (by decide) (.inl (by decide))⟩).2, if_pos hao]

/-- Every register outside PD0 but HLT's faults reads its reset value. -/
theorem lose_reg_reset {r : Page} {o : Nat} (ha : aoKey (regKey r o) = false) (h1 : regKey r o ≠ regKey .hlt offFault)
    (h2 : regKey r o ≠ regKey .hlt offFaultInfo) : s.lose.reg r o = resetWord r o := by
  have key {p : Page} {k : Nat} (hp : aoKey (regKey p k) = true) : regKey r o ≠ regKey p k := fun he => by
    rw [he, hp] at ha
    cases ha
  rw [(lose_rising_reg h ⟨h1, h2, key (by decide), key (by decide)⟩).2, if_neg (Bool.eq_false_iff.mp ha)]

end

end

end Sys2Proof.Machine
end

section
/-! PROOF. `RST_CMD` (R463, R472), the fatal faults (R361, R446), the thermal shutdown (R468) and RESET_N (R463). -/

namespace Sys2Proof.Machine

section
variable {s : State}

/-! A device reset. -/

section
variable (h : risingFrom 0 s.regs = true)
include h

/-- A device reset records its cause. -/
theorem devReset_cause {bit : Nat} (hb : bit < 32) : ((s.devReset bit).reg .rst 0x044).getLsbD bit = true :=
  (setRegBit_bit (lose_rising h) .rst 0x044 true hb hb).trans (if_pos rfl)

theorem devReset_reg_reset (bit : Nat) {r : Page} {o : Nat} (ha : aoKey (regKey r o) = false) (h1 : regKey r o ≠ regKey .hlt offFault)
    (h2 : regKey r o ≠ regKey .hlt offFaultInfo) : (s.devReset bit).reg r o = resetWord r o := by
  have h3 : regKey r o ≠ regKey .rst 0x044 := fun he => by
    rw [he] at ha
    exact absurd ha (by decide)
  exact (setReg_reg_key (lose_rising h) _ h3).trans (lose_reg_reset h ha h1 h2)

end

/-- What a device reset leaves of the state before it, and of the parts that power alone keeps. -/
theorem devReset_lost (s : State) (bit : Nat) : s.Lost (s.devReset bit) :=
  ((lose_lost s).beside (setReg_beside s.lose .rst 0x044 _)).setPwr rfl rfl

/-! `RST_CMD`. -/

section
variable {q : Req} (h : s.Takes q .rst 0x040)
include h

theorem exec_deviceReset_otherKey (hk : F.RST_CMD_KEY.get q.val ≠ 0xA5) :
    exec (.deviceReset q) s = .next (applyWrite .rst 0x040 q.val (s.at_ .rst q.serial)) :=
  congrArg Host.Outcome.next ((writeWord_manager rfl h _).trans (if_neg fun hc => hk hc.2))

theorem exec_deviceReset (hg : F.RST_CMD_GO.get q.val = 1) (hk : F.RST_CMD_KEY.get q.val = 0xA5) :
    exec (.deviceReset q) s = .next (((applyWrite .rst 0x040 q.val (s.at_ .rst q.serial)).bump .rst 2).devReset 4) :=
  congrArg Host.Outcome.next ((writeWord_manager rfl h _).trans (if_pos ⟨hg, hk⟩))

end

/-! The fatal faults. -/

section
variable (h : s.awake = true)
include h

theorem exec_fatalFault_core :
    exec (.fatalFault .lockstep) s = .next ((((s.fault .hlt 2 0).bump .rst 4).trialFatal).fatalEnd 6) ∧
      exec (.fatalFault .sram) s = .next ((((s.fault .hlt 2 0).bump .rst 4).trialFatal).fatalEnd 6) :=
  ⟨congrArg Host.Outcome.next (if_neg (by simp [h])), congrArg Host.Outcome.next (if_neg (by simp [h]))⟩

theorem exec_fatalFault_internal {p : Page} (hp : noOnlineTest p = true) : exec (.fatalFault (.internal p)) s =
    .next (((((s.fault p 1 0).fault .hlt 6 ((eventGroup p).getD 0)).bump .rst 4).trialFatal).fatalEnd 6) :=
  congrArg Host.Outcome.next ((if_neg (by simp [h])).trans (if_neg (by simp [hp])))

theorem exec_watchdogExpire : exec .watchdogExpire s = .next ((((s.fault .hlt 3 0).bump .rst 3).trialFatal).fatalEnd 5) :=
  congrArg Host.Outcome.next (if_neg (by simp [h]))

theorem exec_railFault (rail : Fin 3) :
    exec (.railFault rail) s = .next ((((s.fault .pwr 3 rail.val).bump .rst 4).trialFatal).fatalEnd 6) :=
  congrArg Host.Outcome.next (if_neg (by simp [h]))

end

/-- The thermal shutdown is a device reset that is held. -/
theorem exec_thermalShutdown (hx : 1200 ≤ s.pwr.thm.max) (hh : s.pwr.thm.hold = false) (hm : s.pwr.mode ≠ .standby)
    (ho : s.pwr.mode ≠ .off) : ∃ u : State, exec .thermalShutdown s =
      .next ((u.devReset 7).setThm { (u.devReset 7).pwr.thm with hold := true }) :=
  ⟨_, congrArg Host.Outcome.next (if_neg (by simp [hx, hh, hm, ho]))⟩

end

/-- Settles O51: `RST_CMD` by its key, the reset through what a loss of power leaves (`State.Lost`), and each fault by being awake. -/
theorem deviceResetsAndFatalFaults : Obligations.DeviceResetsAndFatalFaults := by
  refine ⟨fun q s hs h => ⟨exec_deviceReset_otherKey h, fun hg hk => ⟨_, exec_deviceReset h hg hk, rfl, ?_⟩⟩,
    fun s h => ⟨(exec_fatalFault_core h).1, (exec_fatalFault_core h).2, fun p => exec_fatalFault_internal h, exec_watchdogExpire h,
      exec_railFault h, fun u hx hh hm ho => ?_⟩⟩
  · obtain ⟨_, hrise, _⟩ := hs
    have h1 := bump_rising (applyWrite_rising (touch_rising hrise ((s.reach .rst q.serial).fn q.serial)) .rst 0x040 q.val) .rst 2
    have hbes := beside_trans (stored_beside s .rst 0x040 q.val q.serial) (bumpBy_beside _ .rst 2 1)
    obtain ⟨mem, gather, line, net, cph, slp, chip, nvm, _, rtc⟩ := State.Lost.after hbes (devReset_lost _ 4)
    exact ⟨devReset_cause h1 (by decide), fun r o ha hf hi => devReset_reg_reset h1 4 ha hf hi, mem, net, line, cph, slp, gather, chip,
      (congrArg Nvm.slots nvm).trans rfl, (congrArg Nvm.settings nvm).trans rfl, rtc⟩
  · obtain ⟨v, hv⟩ := exec_thermalShutdown hx hh hm ho
    exact ⟨_, hv, rfl, rfl⟩

/-! RESET_N. -/

section
variable {s : State}

/-- The state of which RESET_N makes a loss of power: the reset is counted and its cause is recorded. -/
def State.pinNoted (s : State) : State := (s.bump .rst 1).cause 3

/-- Where RESET_N leads: without power for the rails the device stays in STANDBY. -/
def State.pinMode (s : State) : PwrMode := if s.pwr.mode = .standby ∧ s.stageShed 5 = true then .standby else .reset

theorem pinNoted_beside (s : State) : s.Beside s.pinNoted := beside_trans (bumpBy_beside ..) rfl

/-- RESET_N: of the registers that the loss of power has left, those of `pinKey` are kept, and two status bits follow what stands. -/
theorem exec_pinReset (h : s.pwr.mode ≠ .off) : ∃ (u : State) (a b : Bool), exec .pinReset s =
      .next ((u.setStatus .pwr 17 a).setStatus .thm 16 b) ∧ u.regs = storeKeep pinKey s.pinNoted.lose.regs ∧
      u.pwr.mode = s.pinMode ∧ u.pwr.alarm = 0 ∧ u.mem = s.pinNoted.lose.mem ∧ u.chip = s.pinNoted.lose.chip :=
  ⟨_, _, _, congrArg Host.Outcome.next (if_neg h), rfl, rfl, rfl, rfl, rfl⟩

section
variable (h : risingFrom 0 s.regs = true)
include h

theorem pinNoted_rising : risingFrom 0 s.pinNoted.regs = true := setRegBit_rising (bump_rising h _ _) _ _ _ _

/-- What RESET_N keeps of RST: the causes and the counters, as they stood when it was noted. -/
theorem pinKept_reg_rst {u : State} (hu : u.regs = storeKeep pinKey s.pinNoted.lose.regs) {o : Nat} (ho : o < 0x1000) (hne : o ≠ 0x048)
    (hk : pinKey (regKey .rst o) = true) : u.reg .rst o = s.pinNoted.reg .rst o := by
  have h1 := pinNoted_rising h
  have hkept : u.reg .rst o = s.pinNoted.lose.reg .rst o := by
    unfold State.reg
    rw [hu]
    exact storeGet_keep_in _ hk (lose_rising h1)
  exact hkept.trans (lose_reg_rst h1 ho hne)

theorem pinNoted_cause : (s.pinNoted.reg .rst 0x044).getLsbD 3 = true :=
  (setRegBit_bit (bump_rising h .rst 1) .rst 0x044 true (by decide) (by decide)).trans (if_pos rfl)

theorem pinNoted_counter :
    s.pinNoted.counter .rst 1 = if s.cntEn .rst 1 then (s.counter .rst 1 + 1) % 2 ^ 48 else s.counter .rst 1 :=
  (counter_setReg_low (bump_rising h .rst 1) .rst (by decide) _ 1).trans (bump_counter h .rst 1)

end

end

/-- Settles O52: what the registers keep is what `pinKey` names, of what the noted loss of power has left. -/
theorem thePinResetReachesPd0 : Obligations.ThePinResetReachesPd0 := by
  intro s hs ho
  obtain ⟨_, hrise, _⟩ := hs
  obtain ⟨u, a, b, he, hregs, hmode, halarm, hmem, hchip⟩ := exec_pinReset ho
  have h1 := pinNoted_rising hrise
  have hu : risingFrom 0 u.regs = true := hregs ▸ storeKeep_rising _ (lose_rising h1)
  have hu1 := setRegBit_rising hu .pwr offStatus 17 a
  have status {r : Page} {o : Nat} (hp : regKey r o ≠ regKey .pwr offStatus) (ht : regKey r o ≠ regKey .thm offStatus) :
      ((u.setStatus .pwr 17 a).setStatus .thm 16 b).reg r o = u.reg r o :=
    (setReg_reg_key hu1 _ ht).trans (setReg_reg_key hu _ hp)
  have apart {p : Page} {o k : Nat} (ho : o < 0x1000) (hk : k < 0x1000) (hp : Page.rst ≠ p) : regKey .rst o ≠ regKey p k :=
    fun he => hp (regKey_inj ho hk he).1
  have rst {o : Nat} (ho : o < 0x1000) (hne : o ≠ 0x048) (hk : pinKey (regKey .rst o) = true) :
      ((u.setStatus .pwr 17 a).setStatus .thm 16 b).reg .rst o = s.pinNoted.reg .rst o :=
    (status (apart ho (by decide) (by decide)) (apart ho (by decide) (by decide))).trans (pinKept_reg_rst hrise hregs ho hne hk)
  obtain ⟨mem, _, _, _, _, _, chip, _⟩ := State.Lost.after (pinNoted_beside s) (lose_lost s.pinNoted)
  refine ⟨_, he, hmode, fun r o hk hp ht => (status hp ht).trans ?_, ?_, ?_, halarm, hmem.trans mem, hchip.trans chip⟩
  · unfold State.reg
    rw [hregs]
    exact storeGet_keep_out _ hk _
  · rw [rst (by decide) (by decide) (by decide)]
    exact pinNoted_cause hrise
  · refine Eq.trans ?_ (pinNoted_counter hrise)
    exact counter_of_words (rst (by decide) (by decide) (by decide)) (rst (by decide) (by decide) (by decide))

end Sys2Proof.Machine
end

section
/-! PROOF. Supplies and stages (R447, R448, R454, R455), the power states (R450, R453), `PWR_CMD` and the alarm (R451, R452). -/

namespace Sys2Proof.Machine

/-! Stages (R454, R455). -/

section
variable {s : State} {i : Fin 5} {vin : Nat}

section
variable (ho : s.pwr.mode ≠ .off)
include ho

theorem exec_shedStage (hv : vin < fallTh (i.val + 1)) (hj : s.pwr.journalling = false) : exec (.shedStage i vin) s =
    .next (((List.range 5).foldl (fun u j => if decide (j < i.val + 1) && !u.stageShed (j + 1) then u.shed (j + 1) else u)
      (s.setPwr { s.pwr with vin := vin })).healthyPin) :=
  congrArg Host.Outcome.next (if_neg (by simp [ho, hv, hj]))

/-- A crossing of a shed stage's rising threshold. -/
theorem exec_vinRisingThreshold {j : Fin 6} (hji : j.val = i.val) (hs : (s.stage (i.val + 1)).shed = true) :
    exec (.vinRisingThreshold j vin) s = .next (if riseTh (i.val + 1) ≤ vin then
        (if (s.stage (i.val + 1)).timing || (s.stage (i.val + 1)).due then s.setPwr { s.pwr with vin := vin }
          else (s.setPwr { s.pwr with vin := vin }).setStage (i.val + 1) ⟨true, true, false⟩)
      else (s.setPwr { s.pwr with vin := vin }).setStage (i.val + 1) ⟨true, false, false⟩) := by
  change execVinRisingThreshold j vin s = _
  unfold execVinRisingThreshold
  rw [hji]
  exact congrArg Host.Outcome.next ((if_neg ho).trans ((if_neg (by omega)).trans (if_pos hs)))

/-- VIN above the rising threshold of the supply-reset comparator. -/
theorem exec_vinRisingThreshold_supply (hv : riseTh 6 ≤ vin) :
    exec (.vinRisingThreshold 5 vin) s = .next { s with pwr := { s.pwr with vin := vin, supply := false } } :=
  congrArg Host.Outcome.next ((if_neg ho).trans ((if_pos rfl).trans (if_pos hv)))

end

theorem exec_restoreTimerExpire (hs : (s.stage (i.val + 1)).shed = true) (ht : (s.stage (i.val + 1)).timing = true) :
    exec (.restoreTimerExpire i) s = .next ((s.setStage (i.val + 1) ⟨true, false, true⟩).restoreDue) :=
  congrArg Host.Outcome.next (if_pos (by simp [hs, ht]))

end

/-! Power states (R447, R448, R450, R453). -/

section
variable {s : State}

theorem exec_stage5JournalDone (h : s.pwr.journalling = true) : exec .stage5JournalDone s =
    .next ((s.setPwr { s.pwr with journal := some ⟨s.slot % 2 ^ 44, s.epoch, s.pwr.rtc⟩ }).toStandby true) :=
  congrArg Host.Outcome.next (if_pos h)

theorem exec_idleEnter (hm : s.pwr.mode = .run) (hj : s.pwr.journalling = false) (hd : s.pwr.slumberDue = false) :
    exec .idleEnter s = .next { s with pwr := { s.pwr with mode := .idle } } :=
  congrArg Host.Outcome.next (if_pos (by simp [hm, hj, hd]))

theorem exec_pd0SupplyLoss (hm : s.pwr.mode = .standby) :
    exec .pd0SupplyLoss s = .next { s with pwr := { s.pwr with mode := .off, vin := 0, vbat := 0 } } :=
  congrArg Host.Outcome.next (if_pos hm)

/-- PD0's supply: of the registers none is stored but the status of the stages. -/
theorem exec_aoPor (hm : s.pwr.mode = .off) (vin vbat : Nat) : ∃ u : State, exec (.aoPor vin vbat) s = .next (u.setStatus .pwr 17 true) ∧
    u.regs = [] ∧ u.pwr.mode = .standby ∧ u.pwr.vin = vin ∧ u.pwr.vbat = vbat ∧ u.mem = Mem.empty ∧ u.net = Net.reset ∧
      u.cph = Cipher.reset ∧ u.chip = s.chip ∧ u.pending = s.pending ∧
      u.nvm = { s.nvm with dramWkt := [], saving := none, applying := [], upd := Upd.idle } :=
  ⟨_, congrArg Host.Outcome.next (if_neg (not_not.mpr hm)), rfl, rfl, rfl, rfl, rfl, rfl, rfl, rfl, rfl, rfl⟩

theorem setStatus_of_none {u : State} (hu : u.regs = []) (p : Page) (i : Nat) (b : Bool) {r : Page} {o : Nat}
    (hk : regKey r o ≠ regKey p offStatus) : (u.setStatus p i b).reg r o = resetWord r o := by
  have hrise : risingFrom 0 u.regs = true := by rw [hu]; rfl
  refine (setReg_reg_key hrise _ hk).trans ?_
  unfold State.reg
  rw [hu]
  rfl

/-- A supply reset has been counted, and its cause recorded. -/
def State.supplyNoted (s : State) : State := (s.bump .rst 0).cause 2

/-- VIN is below 6.0 V: what is left of a loss of power, every comparator being in its shed state. -/
theorem exec_supplyReset (ho : s.pwr.mode ≠ .off) (hs : s.pwr.supply = false) {vin : Nat} (hv : vin < 600) (vbat : Nat) : ∃ x : Pwr,
    exec (.supplyReset vin vbat) s = .next (if 1600 ≤ vbat then (s.supplyNoted.lose.setPwr x).setStatus .pwr 17 true
      else ((s.supplyNoted.lose.setPwr x).setStatus .pwr 17 true).setMode .off) ∧
    x.mode = .standby ∧ x.supply = true ∧ x.stages = List.replicate 5 ⟨true, false, false⟩ :=
  ⟨_, congrArg Host.Outcome.next (if_neg (by simp [ho, hs, hv])), rfl, rfl, rfl⟩

theorem supplyNoted_cause (h : risingFrom 0 s.regs = true) (x : Pwr) :
    (((s.supplyNoted.lose.setPwr x).setStatus .pwr 17 true).reg .rst 0x044).getLsbD 2 = true := by
  have h0 := bump_rising h .rst 0
  have h1 : risingFrom 0 s.supplyNoted.regs = true := setRegBit_rising h0 _ _ _ _
  have h2 : risingFrom 0 (s.supplyNoted.lose.setPwr x).regs = true := lose_rising h1
  have hreg : ((s.supplyNoted.lose.setPwr x).setStatus .pwr 17 true).reg .rst 0x044 = s.supplyNoted.reg .rst 0x044 :=
    (setReg_reg_key h2 _ (by decide)).trans (lose_reg_rst h1 (by decide) (by decide))
  rw [hreg]
  exact (setRegBit_bit h0 .rst 0x044 true (by decide) (by decide)).trans (if_pos rfl)

end

/-! `PWR_CMD`, the alarm and the battery (R447, R451, R452). -/

section
variable {s : State}

/-! What `PWR_CMD` does with GO, by its OP. -/

section
variable {w : Word} (hg : F.PWR_CMD_GO.get w = 1)
include hg

theorem pwrCmdWrite_slumber (ho : F.PWR_CMD_OP.get w = 0) : pwrCmdWrite .pwr w s = (applyWrite .pwr 0x058 w s).slumberReq true := by
  refine (if_neg (by simp [hg])).trans ?_
  rw [ho]
  rfl

theorem pwrCmdWrite_standby (ho : F.PWR_CMD_OP.get w = 1) (hr : (applyWrite .pwr 0x058 w s).running = true)
    (hj : (applyWrite .pwr 0x058 w s).pwr.journalling = false) :
    pwrCmdWrite .pwr w s = (applyWrite .pwr 0x058 w s).toStandby true := by
  refine (if_neg (by simp [hg])).trans ?_
  rw [ho]
  exact if_pos (by rw [hr, hj]; rfl)

theorem pwrCmdWrite_wake (ho : F.PWR_CMD_OP.get w = 2) (hd : (applyWrite .pwr 0x058 w s).dom 3 = .on) :
    pwrCmdWrite .pwr w s = (applyWrite .pwr 0x058 w s).wake 6 := by
  refine (if_neg (by simp [hg])).trans ?_
  rw [ho]
  exact if_pos hd

end

/-- Each of the three commands is that write. -/
theorem exec_pwrCmd {q : Req} (h : s.Takes q .pwr 0x058) :
    exec (.pwrSlumber q) s = .next (pwrCmdWrite .pwr q.val (s.at_ .pwr q.serial)) ∧
      exec (.pwrStandby q) s = .next (pwrCmdWrite .pwr q.val (s.at_ .pwr q.serial)) ∧
      exec (.pwrWake q) s = .next (pwrCmdWrite .pwr q.val (s.at_ .pwr q.serial)) := by
  have hw := writeWord_manager rfl h pwrCmdWrite
  exact ⟨congrArg _ hw, congrArg _ hw, congrArg _ hw⟩

theorem exec_alarmMatch (ho : s.pwr.mode ≠ .off) (ha : s.pwr.alarm ≠ 0) :
    exec .alarmMatch s = .next ((s.setPwr { s.pwr with rtc := max s.pwr.rtc s.pwr.alarm }).wake 1) :=
  congrArg Host.Outcome.next (if_neg (by simp [ho, ha]))

theorem exec_vbatLow (ho : s.pwr.mode ≠ .off) (hs : s.pwr.supply = false) {vbat : Nat} (hv : vbat < 2000) :
    exec (.vbatLow vbat) s = .next ((s.setPwr { s.pwr with vbat := vbat }).event .pwr 3) :=
  congrArg Host.Outcome.next (if_neg (by simp [ho, hs, hv]))

end

/-- Settles O50: each command by its branch; what PD0's supply and a supply reset leave, through the rules of a loss of power. -/
theorem stagesStatesAndPowerCommands : Obligations.StagesStatesAndPowerCommands := by
  refine ⟨fun i vin s ho => ⟨exec_shedStage ho, exec_restoreTimerExpire,
      fun j hji hs => ⟨fun hv ht hd => (exec_vinRisingThreshold ho hji hs).trans ?_, fun hv => (exec_vinRisingThreshold ho hji hs).trans ?_⟩,
      exec_vinRisingThreshold_supply ho⟩,
    fun s => ⟨exec_stage5JournalDone, exec_idleEnter, exec_pd0SupplyLoss, fun vin vbat hm => ?_, fun vin vbat ho hs hv => ?_⟩,
    fun s => ⟨fun q h hg => ?_, exec_alarmMatch, fun vbat ho hs => exec_vbatLow ho hs⟩⟩
  · rw [if_pos hv, ht, hd]
    rfl
  · rw [if_neg (Nat.not_le.mpr hv)]
  · obtain ⟨u, he, hregs, mode, hvin, hvbat, mem, net, cph, chip, pending, nvm⟩ := exec_aoPor hm vin vbat
    exact ⟨_, he, mode, hvin, hvbat, fun r o hk => setStatus_of_none hregs _ _ _ hk, mem, net, cph, chip, pending, nvm⟩
  · obtain ⟨x, he, mode, supply, stages⟩ := exec_supplyReset ho hs hv vbat
    have hlost := lose_lost s.supplyNoted
    refine ⟨_, he, ?_⟩
    split
    · exact ⟨mode, supply, stages, hlost.mem, hlost.net, fun hs => supplyNoted_cause hs.2.1 x⟩
    · exact ⟨rfl, supply, stages, hlost.mem, hlost.net, fun hs => supplyNoted_cause hs.2.1 x⟩
  · obtain ⟨slumber, standby, wake⟩ := exec_pwrCmd h
    exact ⟨fun ho => slumber.trans (congrArg _ (pwrCmdWrite_slumber hg ho)),
      fun ho hr hj => standby.trans (congrArg _ (pwrCmdWrite_standby hg ho hr hj)),
      fun ho hd => wake.trans (congrArg _ (pwrCmdWrite_wake hg ho hd))⟩

end Sys2Proof.Machine
end

section
/-! PROOF. Boots (R463) and the boot records that they apply (R465). -/

namespace Sys2Proof.Machine

section
variable {s : State}

theorem exec_bootStart {r : BootIn} (h : s.bootReady = true) (hr : r.sigBad = false) : exec (.bootStart r) s =
    .next ((((((s.bootBegin.journalRollback).imageChoice).restoreKeys r).resumeNonce).testCipher r).testStations r) := by
  refine congrArg Host.Outcome.next ((if_neg (by simp [h])).trans ?_)
  dsimp only
  rw [hr]
  rfl

/-- RUN, with every domain as the stages let it be and the PLLs of DRAM and of the twin with their domains. -/
def State.bootedDoms (s : State) : State :=
  let u := (s.setPwr { s.pwr with mode := .run, dram := { s.pwr.dram with selfRefresh := s.stageShed 3 } }).allDoms
  u.setPwr { u.pwr with clk := { u.pwr.clk with drmLock := decide (u.dom 5 = .on), twnLock := decide (u.dom 4 = .on) } }

theorem exec_bootDone (us : Nat) (h : s.pwr.mode = .booting) : exec (.bootDone us) s =
    .next (((((s.bootedDoms.setFlag .rst F.RST_STAT_BOOT_DONE true).setFld .rst F.RST_STAT_BOOT_US
      (min 65535 (us / 10))).event .rst 1)).restoreDue).healthyPin :=
  congrArg Host.Outcome.next (if_neg (not_not.mpr h))

/-! `RST_BOOTCFG` (R465). -/

/-- AUTO has been kept in MRAM. -/
def State.autoKept (s : State) (w : Word) : State := s.setNvm { s.nvm with autoRest := F.RST_BOOTCFG_AUTO.get w = 1 }

section
variable {p : Page} {w : Word} (h : s.nvm.saving = none)
include h

theorem bootCfgWrite_save (hw : F.RST_BOOTCFG_SAVE.get w = 1) (hl : s.devLocked = true) : bootCfgWrite p w s =
    (s.autoKept w).setNvm { (s.autoKept w).nvm with saving := some (some (s.autoKept w).bootRecord), open_ := true } :=
  (if_neg (by simp [State.setNvm, h])).trans (if_pos (by simp [hw, hl]))

theorem bootCfgWrite_erase (hw : F.RST_BOOTCFG_SAVE.get w = 0) (he : F.RST_BOOTCFG_ERASE.get w = 1) : bootCfgWrite p w s =
    (s.autoKept w).setNvm { (s.autoKept w).nvm with saving := some none, open_ := true } :=
  (if_neg (by simp [State.setNvm, h])).trans ((if_neg (by simp [hw])).trans (if_pos he))

end

/-- SAVE and ERASE are one write, after the touch of its access. -/
theorem exec_bootCfg {q : Req} (h : s.Takes q .rst 0x04C) :
    exec (.bootSave q) s = .next (bootCfgWrite .rst q.val (s.at_ .rst q.serial)) ∧
      exec (.bootErase q) s = .next (bootCfgWrite .rst q.val (s.at_ .rst q.serial)) := by
  have hw := writeWord_manager rfl h bootCfgWrite
  exact ⟨congrArg _ hw, congrArg _ hw⟩

/-- The records after a save, which keeps two, or after an erasure. -/
def State.bootsKept (s : State) : Option BootRec → List BootRec
  | some x => (x :: s.nvm.boot).take 2
  | none => []

theorem exec_bootSaveDone {r : Option BootRec} (h : s.nvm.saving = some r) : exec .bootSaveDone s =
    .next (((s.setNvm { s.nvm with boot := s.bootsKept r, saving := none, open_ := false }).nvmRows).event .rst 3) := by
  change execBootSaveDone s = _
  unfold execBootSaveDone
  rw [h]
  rfl

theorem exec_bootRecordApply {r : BootRec} {l : List BootRec} (h : s.nvm.boot = r :: l) (hd : s.bootDone = true) (hr : s.running = true)
    (ha : s.nvm.autoRest = true) (hn : s.nvm.applying = []) (hap : s.flag .rst F.RST_STAT_BOOT_RECORD_APPLIED = false)
    (hf : s.flag .rst F.RST_STAT_BOOT_RECORD_FAIL = false) : exec .bootRecordApply s = .next (s.applyRun r.steps) := by
  change execBootRecordApply s = _
  unfold execBootRecordApply
  rw [h]
  exact congrArg Host.Outcome.next (if_pos (by simp [hd, hr, ha, hn, hap, hf]))

end

/-- Settles O55: each command by its branch, the writes of `RST_BOOTCFG` through what they ask for where no commit is open. -/
theorem bootsBeginEndAndApplyRecords : Obligations.BootsBeginEndAndApplyRecords := by
  refine ⟨fun s => ⟨fun r => exec_bootStart, fun us => exec_bootDone us⟩,
    fun s => ⟨fun q h hs => ?_, fun r h => (exec_bootSaveDone h).trans (by cases r <;> rfl), fun r l => exec_bootRecordApply⟩⟩
  have hs' : (s.at_ .rst q.serial).nvm.saving = none := (congrArg Nvm.saving (State.touch_nvm ..)).trans hs
  obtain ⟨save, erase⟩ := exec_bootCfg h
  exact ⟨fun hw hl => save.trans (congrArg _ (bootCfgWrite_save hs' hw ((touch_devLocked ..).trans hl))),
    fun hw he => erase.trans (congrArg _ (bootCfgWrite_erase hs' hw he))⟩

end Sys2Proof.Machine
end

section
/-! PROOF. The commands of `UPD_CMD` (R483 to R486, R490, R491). -/

namespace Sys2Proof.Machine

section
variable {s : State}

/-- A command of `UPD_CMD`, by its OP. -/
def State.updRun (s : State) : Nat → State
  | 0 => s.updBegin
  | 1 => s.setUpd { s.nvm.upd with verify := some s.argUpd }
  | 2 => s.updActivate
  | 3 => s.updCommit
  | 4 => s.updRollback
  | 5 => (s.setUpd { s.nvm.upd with load := none, staged := [] }).updStatus 0
  | _ => s.updRevoke

/-- `UPD_CMD` with GO runs its OP in the state of the written word, unless a command or a pause is in progress. -/
theorem updCmdWrite_runs {p : Page} {w : Word} (h31 : w.getLsbD 31 = true) (hb : (applyWrite p 0x040 w s).updBusy = false) :
    updCmdWrite p w s = (applyWrite p 0x040 w s).updRun (F.UPD_CMD_OP.get w) :=
  (if_neg (by simp [h31])).trans (if_neg (by simp [hb]))

/-- `UPD_CMD` has been written, and its OP has not acted yet. -/
def State.updStored (s : State) (q : Req) : State := applyWrite .upd 0x040 q.val (s.at_ .upd q.serial)

theorem updStored_beside (s : State) (q : Req) : s.Beside (s.updStored q) := stored_beside s .upd 0x040 q.val q.serial

theorem updStored_nvm (s : State) (q : Req) : (s.updStored q).nvm = s.nvm := beside_nvm (updStored_beside s q)

theorem updStored_chip (s : State) (q : Req) : (s.updStored q).chip = s.chip := beside_chip (updStored_beside s q)

theorem updStored_rising (h : risingFrom 0 s.regs = true) (q : Req) : risingFrom 0 (s.updStored q).regs = true :=
  applyWrite_rising (touch_rising h _) _ _ _

/-- All of the commands are that write. -/
theorem updCmd_takes {q : Req} (h : s.Takes q .upd 0x040) (h31 : q.val.getLsbD 31 = true) (hb : (s.updStored q).updBusy = false)
    {op : Nat} (ho : F.UPD_CMD_OP.get q.val = op) : writeWord q .upd 0x040 updCmdWrite s = (s.updStored q).updRun op := by
  rw [writeWord_manager rfl h, updCmdWrite_runs h31 hb, ho]
  rfl

/-! BEGIN (R477, R485). -/

theorem updBegin_refused (h : s.runsSlot s.argUpd = true ∨ s.isPrevious s.argUpd = true) : s.updBegin = s.updStatus 2 :=
  if_pos (by simpa using h)

/-- A transfer is open, and no word has been taken. -/
def State.updOpened (s : State) : State :=
  s.setNvm { s.nvm with slots2 := s.nvm.slots2.set s.argUpd ⟨false, false⟩
                        upd := { s.nvm.upd with load := some s.argUpd, fill := 0, staged := [] } }

theorem updBegin_opens (hr : s.runsSlot s.argUpd = false) (hp : s.isPrevious s.argUpd = false) :
    s.updBegin = ((s.updOpened.setFld .upd F.UPD_OFFSET_OFFSET 0).bump .upd 0).updStatus 0 := if_neg (by simp [hr, hp])

theorem updBegun_nvm (s : State) : (((s.updOpened.setFld .upd F.UPD_OFFSET_OFFSET 0).bump .upd 0).updStatus 0).nvm = s.updOpened.nvm :=
  beside_nvm (beside_trans (setFld_beside s.updOpened _ _ _) (beside_trans (bumpBy_beside ..) (setFld_beside ..)))

theorem updBegun_flds (h : risingFrom 0 s.regs = true) :
    (((s.updOpened.setFld .upd F.UPD_OFFSET_OFFSET 0).bump .upd 0).updStatus 0).fld .upd F.UPD_OFFSET_OFFSET = 0 ∧
      (((s.updOpened.setFld .upd F.UPD_OFFSET_OFFSET 0).bump .upd 0).updStatus 0).fld .upd F.UPD_STAT_STATUS = 0 := by
  have h0 : risingFrom 0 s.updOpened.regs = true := h
  have h1 := setFld_rising h0 .upd F.UPD_OFFSET_OFFSET 0
  have h2 := bump_rising h1 .upd 0
  refine ⟨?_, setFld_fld_same h2 _ _ _ (by decide)⟩
  calc (((s.updOpened.setFld .upd F.UPD_OFFSET_OFFSET 0).bump .upd 0).updStatus 0).fld .upd F.UPD_OFFSET_OFFSET
    _ = ((s.updOpened.setFld .upd F.UPD_OFFSET_OFFSET 0).bump .upd 0).fld .upd F.UPD_OFFSET_OFFSET :=
      setFld_fld_off h2 .upd F.UPD_STAT_STATUS F.UPD_OFFSET_OFFSET 0 (by decide)
    _ = (s.updOpened.setFld .upd F.UPD_OFFSET_OFFSET 0).fld .upd F.UPD_OFFSET_OFFSET :=
      congrArg F.UPD_OFFSET_OFFSET.get (bump_reg_off h1 .upd 0 (by decide))
    _ = 0 := setFld_fld_same h0 _ _ _ (by decide)

/-! ACTIVATE and ROLLBACK (R486, R491). -/

/-- A pause is set for the second slot from now. -/
def State.pauseSet (s : State) (target : Nat) (back : Bool) : State :=
  (((s.setUpd { s.nvm.upd with pause := some ⟨s.slot + 2, target, back, false, false, false⟩ }).setFld .upd F.UPD_PAUSE_SLOT_LO_SLOT
    (s.slot + 2)).setFld .upd F.UPD_PAUSE_SLOT_HI_SLOT ((s.slot + 2) / 2 ^ 32)).updStatus 0

/-- What stands against ACTIVATE outside recovery. -/
structure State.Activates (s : State) : Prop where
  other : s.runsSlot s.argUpd = false
  verified : s.verified s.argUpd = true
  settled : s.inTrial = false
  powered : s.shedTop < 2
  free : s.flag .twn F.TWN_CMD_BUSY = false
  normal : s.nvm.recovery = false
  least : s.imgHoMin s.argUpd ≤ s.imgHoVer s.nvm.running
  newest : s.imgHoVer s.nvm.running ≤ s.imgHoVer s.argUpd
  records : (s.currentRecs.any fun x => decide (s.imgSetVer s.argUpd < x.2.1)) = false

theorem updActivate_pauses (h : s.Activates) : s.updActivate = s.pauseSet s.argUpd false := by
  obtain ⟨other, verified, settled, powered, free, normal, least, newest, records⟩ := h
  unfold State.updActivate
  dsimp only
  rw [if_neg (by simp [other]), if_neg (by simp [verified]), if_neg (by simp [settled]), if_neg (by omega), if_neg (by simp [free]),
    if_neg (by simp [normal]), if_neg (by omega), if_neg (by simp only [records, Bool.false_eq_true, not_false_eq_true])]
  rfl

theorem updRollback_pauses (h : s.inTrial = true) : s.updRollback = s.pauseSet s.nvm.act.prev true := if_neg (by simp [h])

/-! COMMIT (R490). -/

theorem updCommit_refused (h : s.inTrial = false) : s.updCommit = s.updStatus 15 := if_pos (by simp [h])

/-- A commit: of what MRAM keeps, the trial has ended, the floor is that of its image at least, and the previous slot is free. -/
theorem updCommit_ends (h : s.inTrial = true) (hm : s.nvm.upd.migr = false) : ∃ u : State,
    s.updCommit = ((((u.nvmRows).bump .upd 4).event .upd 3).updStatus 0) ∧ u.regs = s.regs ∧
      u.nvm.act = { s.nvm.act with trial := false } ∧ u.nvm.floor = max s.nvm.floor (s.imgSecVer s.nvm.act.target) ∧
      u.nvm.slots2 = s.nvm.slots2.set s.nvm.act.prev ⟨false, false⟩ ∧ u.nvm.img = s.nvm.img :=
  ⟨_, (if_neg (by simp [h])).trans (if_neg (by simp [hm])), rfl, rfl, rfl, rfl, rfl⟩

theorem nvmRows_nvm (s : State) : s.nvmRows.nvm = s.nvm := beside_nvm (s := s.freeNat.2) (bumpBy_beside ..)

theorem nvmRows_rising (h : risingFrom 0 s.regs = true) : risingFrom 0 s.nvmRows.regs = true := bumpBy_rising (s := s.freeNat.2) h ..

theorem updCommitted_nvm (u : State) : ((((u.nvmRows).bump .upd 4).event .upd 3).updStatus 0).nvm = u.nvm :=
  (beside_nvm (s := u.nvmRows) (beside_trans (bumpBy_beside ..) (beside_trans (event_beside ..) (setFld_beside ..)))).trans (nvmRows_nvm u)

theorem updCommitted_regs {u : State} (h : risingFrom 0 u.regs = true) :
    (((((u.nvmRows).bump .upd 4).event .upd 3).updStatus 0).reg .upd offEvent).getLsbD 3 = true ∧
      ((((u.nvmRows).bump .upd 4).event .upd 3).updStatus 0).fld .upd F.UPD_STAT_STATUS = 0 := by
  have h1 := bump_rising (nvmRows_rising h) .upd 4
  have h2 := event_rising h1 .upd 3
  refine ⟨?_, setFld_fld_same h2 _ _ _ (by decide)⟩
  exact (congrArg (·.getLsbD 3) (setReg_reg_off h2 .upd _ (by decide : offEvent ≠ 0x050))).trans (event_bit h1 _ (by decide) (by decide))

/-! REVOKE (R483). -/

theorem updRevoke_blows (hr : s.nvm.recovery = false → s.imgKey s.nvm.running ≠ s.fld .upd F.UPD_ARG_KEY)
    (hp : s.inTrial = true → s.imgKey s.nvm.act.prev ≠ s.fld .upd F.UPD_ARG_KEY)
    (hl : ((List.range 4).any fun i => decide (i ≠ s.fld .upd F.UPD_ARG_KEY) && bitOf s.chip.fused i && !bitOf s.chip.revoked i) = true) :
    s.updRevoke = State.updStatus
      { s with chip := { s.chip with revoked := setBitOf s.chip.revoked (s.fld .upd F.UPD_ARG_KEY) true } } 0 := by
  refine (if_neg ?_).trans (if_neg (by simp only [hl]; decide))
  simpa using ⟨hr, hp⟩

end

/-- Settles O56: each command through the run of its OP (`State.updRun`) in the state of the written word (`State.updStored`). -/
theorem updatesAreTransferredAndActivated : Obligations.UpdatesAreTransferredAndActivated := by
  constructor
  · intro q s h h31 u hb
    have hrun {op : Nat} (ho : F.UPD_CMD_OP.get q.val = op) := congrArg (β := Host.Outcome State Fault Refusal) .next
      (updCmd_takes h h31 hb ho)
    have hnvm : u.nvm = s.nvm := updStored_nvm s q
    refine ⟨fun ho hr hp => ⟨_, (hrun ho).trans (congrArg _ (updBegin_opens hr hp)), ?_⟩,
      fun ho hr => (hrun ho).trans (congrArg _ (updBegin_refused hr)), hrun, hrun, fun ho => ?_⟩
    · rw [updBegun_nvm]
      exact ⟨rfl, rfl, rfl, congrArg (fun n : Nvm => n.slots2.set u.argUpd ⟨false, false⟩) hnvm, (congrArg Nvm.img hnvm).trans rfl,
        fun hs => updBegun_flds (updStored_rising hs.2.1 q)⟩
    · intro e hr hp hl
      rw [← updStored_chip s q] at hl
      rw [← hnvm] at hr
      exact (hrun ho).trans (congrArg _ (updRevoke_blows hr hp hl))
  · intro q s h h31 u k r pause hb
    have hrun {op : Nat} (ho : F.UPD_CMD_OP.get q.val = op) := congrArg (β := Host.Outcome State Fault Refusal) .next
      (updCmd_takes h h31 hb ho)
    have hnvm : u.nvm = s.nvm := updStored_nvm s q
    rw [← hnvm]
    refine ⟨fun ho other verified settled powered free normal least newest records => (hrun ho).trans (congrArg _
        (updActivate_pauses ⟨other, verified, settled, powered, free, normal, least, newest, records⟩)),
      fun ho ht => (hrun ho).trans (congrArg _ (updRollback_pauses ht)), fun ho ht hm => ?_,
      fun ho ht => (hrun ho).trans (congrArg _ (updCommit_refused ht))⟩
    obtain ⟨v, he, hregs, act, floor, slots2, img⟩ := updCommit_ends ht hm
    refine ⟨_, (hrun ho).trans (congrArg _ he), ?_⟩
    rw [updCommitted_nvm]
    exact ⟨act, floor, slots2, img, fun hs => updCommitted_regs (hregs ▸ updStored_rising hs.2.1 q)⟩

end Sys2Proof.Machine
end

section
/-! PROOF. Image words and rows (R485, R487), checks (R484), the restart and the migration of an activation (R487, R489), and the array
(R479, R481, R494). -/

namespace Sys2Proof.Machine

/-! What a store leaves above its place, and an advance of a counter on the other pages, whatever the order of the entries. -/

theorem storeGet_del_above {V : Type} (d : V) {i k : Nat} (h : k < i) : ∀ m : Store V, storeGet d (storeDel m k) i = storeGet d m i
  | [] => rfl
  | (a, v) :: r => by
    unfold storeDel
    split
    case isTrue hk =>
      subst hk
      have hne : i ≠ k := Nat.ne_of_gt h
      simp [storeGet, hne, Nat.not_lt_of_lt h]
    case isFalse =>
      split
      case isTrue => rfl
      case isFalse => simp only [storeGet, storeGet_del_above d h r]

section
variable {s : State} {p r : Page} {o k : Nat}

theorem setReg_reg_above (w : Word) (hk : regKey p k < regKey r o) : (s.setReg p k w).reg r o = s.reg r o := by
  change storeGet _ (storePut _ s.regs (regKey p k) w) (regKey r o) = storeGet _ s.regs (regKey r o)
  unfold storePut
  split
  · exact storeGet_del_above _ hk _
  · exact storeGet_ins_ne _ _ (Nat.ne_of_gt hk) _

/-- A counter that counts has its enables listed, which hide its words from every page below. -/
theorem bumpBy_reg_apart (i n : Nat) (hr : r ≠ p) (ho : o < 0x1000) : (s.bumpBy p i n).reg r o = s.reg r o := by
  unfold State.bumpBy
  split
  case isFalse => rfl
  case isTrue hc =>
    unfold State.cntEn at hc
    simp only [Bool.and_eq_true, decide_eq_true_eq] at hc
    obtain ⟨hi, hbit⟩ := hc
    have hi8 := Nat.lt_of_lt_of_le hi (nCounters_le p)
    have hen : s.reg p offCntCtrl ≠ resetWord p offCntCtrl := fun he => by
      rw [he, show resetWord p offCntCtrl = 0 from if_pos (.inl (by decide))] at hbit
      simp at hbit
    have hkey {c : Nat} (hc : c = cntOff i ∨ c = cntOff i + 4) : offCntCtrl < c ∧ c < 0x1000 := by
      unfold cntOff offCntCtrl at *
      omega
    obtain ⟨hlo, hlo'⟩ := hkey (.inl rfl)
    obtain ⟨hhi, hhi'⟩ := hkey (.inr rfl)
    rcases apart_of_rise hr allPages_rise (mem_allPages r) (mem_allPages p) with hb | hb
    · have below {u : State} (hu : u.reg p offCntCtrl = s.reg p offCntCtrl) (w : Word) {c : Nat} (hc : offCntCtrl < c) :
          (u.setReg p c w).reg r o = u.reg r o ∧ (u.setReg p c w).reg p offCntCtrl = u.reg p offCntCtrl :=
        ⟨storeGet_put_listed _ (by unfold regKey; omega) (by unfold regKey; omega) (hu ▸ hen),
          setReg_reg_listed w (by unfold regKey; omega) (hu ▸ hen)⟩
      obtain ⟨h1, he⟩ := below rfl (BitVec.ofNat 32 ((s.counter p i + n) % 2 ^ 32)) hlo
      exact (below he _ hhi).1.trans h1
    · exact (setReg_reg_above _ (by unfold regKey; omega)).trans (setReg_reg_above _ (by unfold regKey; omega))

end

/-! Image words (R485). -/

section
variable {s : State} {q : Req}

/-- A word is staged at the offset `o`, which advances. -/
def State.wordStaged (s : State) (o : Nat) (w : Word) : State :=
  (s.setUpd { s.nvm.upd with staged := s.nvm.upd.staged ++ [(o, w)], fill := max s.nvm.upd.fill (o + 4) }).setFld .upd F.UPD_OFFSET_OFFSET (o + 4)

/-- The offset is `v`; the words of a row that is not complete at `o` are dropped. -/
def State.offsetTaken (s : State) (o v : Nat) : State :=
  (s.setUpd { s.nvm.upd with staged := s.nvm.upd.staged.filter fun e => decide (o % 32 = 0 ∨ e.1 / 32 ≠ o / 32) }).setFld .upd
    F.UPD_OFFSET_OFFSET v

theorem updDataWrite_stages {p : Page} {w : Word} (hl : s.nvm.upd.load.isSome = true) (ho : s.fld .upd F.UPD_OFFSET_OFFSET < 0x600000)
    (hr : s.updRoom ≠ 0) : updDataWrite p w s = s.wordStaged (s.fld .upd F.UPD_OFFSET_OFFSET) w := by
  refine if_neg ?_
  rintro (hn | hn | hn)
  · simp [Option.isSome_iff_ne_none.mp hl] at hn
  · omega
  · exact hr hn

theorem updDataWrite_overruns {p : Page} {w : Word} (hl : s.nvm.upd.load = none) :
    updDataWrite p w s = (s.setFlag .upd F.UPD_STAT_OVERRUN true).event .upd 1 := if_pos (.inl (by rw [hl]; rfl))

theorem exec_updDataWrite (h : s.Takes q .upd 0x04C) :
    exec (.updDataWrite q) s = .next (updDataWrite .upd q.val (s.at_ .upd q.serial)) :=
  congrArg Host.Outcome.next (writeWord_manager rfl h _)

theorem exec_updOffsetWrite (h : s.Takes q .upd 0x048) : exec (.updOffsetWrite q) s =
    .next (if F.UPD_OFFSET_OFFSET.get q.val % 32 = 0 ∧ F.UPD_OFFSET_OFFSET.get q.val ≤ s.fld .upd F.UPD_OFFSET_OFFSET
      then (s.at_ .upd q.serial).offsetTaken (s.fld .upd F.UPD_OFFSET_OFFSET) (F.UPD_OFFSET_OFFSET.get q.val)
      else s.at_ .upd q.serial) := by
  refine congrArg Host.Outcome.next ((writeWord_manager rfl h _).trans ?_)
  unfold updOffsetWrite
  rw [touch_fld]
  rfl

/-- The oldest row is written: its words are in the image, and no others. -/
theorem exec_stagingRowWrite {k : Nat} (hl : s.nvm.upd.load = some k) (h8 : 8 ≤ s.nvm.upd.staged.length) (waits : Nat) :
    ∃ (u : State) (n : Nat), exec (.stagingRowWrite waits) s = .next ((u.bump .nvm 0).bumpBy .nvm 1 n) ∧ u.regs = s.regs ∧
      u.nvm.upd = { s.nvm.upd with staged := s.nvm.upd.staged.drop 8 } ∧
      u.nvm.img = (s.nvm.upd.staged.take 8).foldl (fun m e => storePut 0 m (k * 0x180000 + e.1 / 4) e.2) s.nvm.img := by
  have hrow : ¬ (s.nvm.upd.staged.take 8).length < 8 := by
    rw [List.length_take]
    omega
  change ∃ (u : State) (n : Nat), execStagingRowWrite waits s = _ ∧ _
  unfold execStagingRowWrite
  dsimp only
  rw [hl]
  exact ⟨_, _, congrArg Host.Outcome.next (if_neg hrow), rfl, rfl, rfl⟩

end

/-! Checks, and the ends of an activation's parts (R484, R487, R489). -/

section
variable {s : State}

/-- A check has ended with the status `code`. -/
def State.checked (s : State) (code : Nat) : State := ((s.setUpd { s.nvm.upd with verify := none }).countCheck code).updStatus code

/-- The status of the check of a slot, as long as what has been loaded into it. -/
def State.checkCode (s : State) (k : Nat) : Nat := s.checkSlot k (if s.nvm.upd.load = some k then s.nvm.upd.fill - 4096 else 6287360)

section
variable {k : Nat} (hv : s.nvm.upd.verify = some k) (hl : s.nvm.upd.staged.length < 8)
include hv hl

theorem exec_verifyDone_fails (hc : s.checkCode k ≠ 0) : exec .verifyDone s = .next ((s.checked (s.checkCode k)).event .upd 6) := by
  change execVerifyDone s = _
  unfold execVerifyDone
  dsimp only
  rw [hv]
  exact congrArg Host.Outcome.next ((if_neg (Nat.not_le.mpr hl)).trans (congrArg (State.event · .upd 6) (if_neg hc)))

theorem exec_verifyDone_passes (hc : s.checkCode k = 0) : exec .verifyDone s = .next (State.event (if s.nvm.upd.load = some k then
      ((s.checked (s.checkCode k)).setImgSlot k ⟨true, true⟩).setUpd
        { ((s.checked (s.checkCode k)).setImgSlot k ⟨true, true⟩).nvm.upd with load := none, staged := [] }
    else (s.checked (s.checkCode k)).setImgSlot k ⟨true, true⟩) .upd 6) := by
  change execVerifyDone s = _
  unfold execVerifyDone
  dsimp only
  rw [hv]
  exact congrArg Host.Outcome.next ((if_neg (Nat.not_le.mpr hl)).trans (congrArg (State.event · .upd 6) (if_pos hc)))

end

theorem exec_activationRestartDone {p : Pause} (hp : s.nvm.upd.pause = some p) (hb : p.begun = true) (hd : p.done = false) :
    exec .activationRestartDone s = .next ((((s.nvm.upd.kept.foldl (fun u r => u.macFrame r.1 r.2) (s.setUpd { s.nvm.upd with
      pause := some { p with done := true }, kept := [] })).twinAnew.dispatch).originate).issueFetch) := by
  change execActivationRestartDone s = _
  unfold execActivationRestartDone
  rw [hp]
  exact congrArg Host.Outcome.next (if_neg (by simp [hb, hd]))

/-- A migration's end: every key has a current record of the running image's version. -/
theorem exec_migrationDone (ht : s.inTrial = true) (hm : s.nvm.upd.migr = true) : ∃ u : State,
    exec .migrationDone s = .next (((u.nvmRows).setFld .upd F.UPD_TRIAL_PROGRESS 1000).event .upd 4) ∧ u.regs = s.regs ∧
      u.nvm.upd = { s.nvm.upd with migr := false } ∧
      u.nvm.settings = (s.currentRecs.filter fun r => decide (r.2.1 < s.imgSetVer s.nvm.running)).map (fun r =>
        (r.1, s.imgSetVer s.nvm.running, s.nvm.act.gen)) ++ s.nvm.settings :=
  ⟨_, congrArg Host.Outcome.next (if_neg (by simp [ht, hm])), rfl, rfl, rfl⟩

theorem migrated_nvm (u : State) : (((u.nvmRows).setFld .upd F.UPD_TRIAL_PROGRESS 1000).event .upd 4).nvm = u.nvm :=
  (beside_nvm (s := u.nvmRows) (beside_trans (setFld_beside ..) (event_beside ..))).trans (nvmRows_nvm u)

theorem migrated_regs {u : State} (h : risingFrom 0 u.regs = true) :
    ((((u.nvmRows).setFld .upd F.UPD_TRIAL_PROGRESS 1000).event .upd 4).reg .upd offEvent).getLsbD 4 = true ∧
      (((u.nvmRows).setFld .upd F.UPD_TRIAL_PROGRESS 1000).event .upd 4).fld .upd F.UPD_TRIAL_PROGRESS = 1000 := by
  have h1 := nvmRows_rising h
  have h2 := setFld_rising h1 .upd F.UPD_TRIAL_PROGRESS 1000
  refine ⟨event_bit h2 _ (by decide) (by decide), ?_⟩
  exact (congrArg F.UPD_TRIAL_PROGRESS.get (event_reg_off h2 .upd 4 (by decide))).trans (setFld_fld_same h1 _ _ _ (by decide))

end

/-! Rows of the array (R479, R481, R494). -/

section
variable {s : State}

/-- Free values, one for each place of a list. -/
def freeNats {α : Type} (l : List α) (x : List Nat × State) : List Nat × State :=
  l.foldl (fun x _ => (x.1 ++ [x.2.freeNat.1], x.2.freeNat.2)) x

theorem freeNats_takes {α : Type} : ∀ (l : List α) (x : List Nat × State),
    (freeNats l x).1.length = x.1.length + l.length ∧ (freeNats l x).2.nvm = x.2.nvm ∧ (freeNats l x).2.regs = x.2.regs
  | [], x => ⟨rfl, rfl, rfl⟩
  | a :: l, x => by
    obtain ⟨hlen, hnvm, hregs⟩ := freeNats_takes l (x.1 ++ [x.2.freeNat.1], x.2.freeNat.2)
    refine ⟨hlen.trans ?_, hnvm, hregs⟩
    simp only [List.length_append, List.length_cons, List.length_nil]
    omega

/-- A row reads as eight words, which changes neither the array nor a register. -/
theorem rowWords_reads (s : State) (r : Nat) (un : Bool) :
    (s.rowWords r un).1.length = 8 ∧ (s.rowWords r un).2.nvm = s.nvm ∧ (s.rowWords r un).2.regs = s.regs := by
  unfold State.rowWords
  dsimp only
  split
  · exact ⟨rfl, rfl, rfl⟩
  · split
    · exact ⟨rfl, rfl, rfl⟩
    · exact freeNats_takes (List.range 8) ([], s)

/-- The words of a row in the read window. -/
def State.rowShown (s : State) (l : List Nat) : State := l.zipIdx.foldl (fun (s : State) e => s.setFld .nvm (F.NVM_RD_DATA_DATA.at e.2) e.1) s

theorem rowShown_beside (s : State) (l : List Nat) : s.Beside (s.rowShown l) := foldl_beside (fun s _ => setFld_beside s _ _ _) _ s

theorem sameWord_rowShown {l : List Nat} (hl : l.length = 8) {o : Nat} (ho : o < 0x04C ∨ 0x06C ≤ o) : s.SameWord (s.rowShown l) .nvm o := by
  refine sameWord_foldl s fun t e he => sameWord_setReg _ ?_
  have hlt : e.2 < 8 := hl ▸ (List.mem_zipIdx' he).1
  change regKey .nvm o ≠ regKey .nvm (0x04C + e.2 * 4)
  unfold regKey
  omega

/-- What `NVM_RD_STAT` shows of a row that has no errors. -/
def rowStat (r : Nat) : Word := BitVec.ofNat 32 (2 ^ 31 + if 0xC00000 ≤ 32 * r ∧ 32 * r < 0xC84000 then 2 ^ 30 else 0)

/-- A row that has no errors is read: its words and its status are shown, counted and announced. -/
def State.rowRead (s : State) (r : Nat) : State :=
  ((((s.rowWords r false).2.rowShown (s.rowWords r false).1).setReg .nvm 0x048 (rowStat r)).bump .nvm 2).event .nvm 1

theorem nvmReadWrite_reads {w : Word}
    (hb : s.nvm.bad.contains ((applyWrite .nvm 0x044 w s).fld .nvm F.NVM_RD_ADDR_ROW) = false) : nvmReadWrite 0 .nvm w s =
      (applyWrite .nvm 0x044 w s).rowRead ((applyWrite .nvm 0x044 w s).fld .nvm F.NVM_RD_ADDR_ROW) := by
  have hnvm : (applyWrite .nvm 0x044 w s).nvm = s.nvm := rfl
  unfold nvmReadWrite
  dsimp only
  rw [hnvm, hb]
  simp only [State.rowRead, State.rowShown, rowStat, decide_eq_true_eq, Bool.or_false, Bool.false_eq_true, if_false,
    Nat.le_zero, OfNat.ofNat_ne_zero, decide_false, ne_eq, not_true_eq_false, Bool.and_false, Nat.add_zero]

theorem rowRead_nvm (s : State) (r : Nat) : (s.rowRead r).nvm = s.nvm := by
  obtain ⟨_, hnvm, _⟩ := rowWords_reads s r false
  exact (beside_nvm (beside_trans (rowShown_beside (s.rowWords r false).2 (s.rowWords r false).1) (beside_trans (setReg_beside ..)
    (beside_trans (bumpBy_beside ..) (event_beside ..))))).trans hnvm

section
variable (h : risingFrom 0 s.regs = true) (r : Nat)
include h

theorem rowRead_regs : ((s.rowRead r).reg .nvm offEvent).getLsbD 1 = true ∧ (s.rowRead r).reg .nvm 0x048 = rowStat r ∧
    (s.rowRead r).counter .nvm 2 = if s.cntEn .nvm 2 then (s.counter .nvm 2 + 1) % 2 ^ 48 else s.counter .nvm 2 := by
  obtain ⟨hlen, _, hregs⟩ := rowWords_reads s r false
  have hd : risingFrom 0 (s.rowWords r false).2.regs = true := hregs ▸ h
  have word {o : Nat} (ho : o < 0x04C ∨ 0x06C ≤ o) :
      risingFrom 0 ((s.rowWords r false).2.rowShown (s.rowWords r false).1).regs = true ∧
        ((s.rowWords r false).2.rowShown (s.rowWords r false).1).reg .nvm o = s.reg .nvm o := by
    obtain ⟨hrise, he⟩ := sameWord_rowShown hlen ho hd
    exact ⟨hrise, he.trans (reg_of_regs hregs .nvm o)⟩
  have h1 := (word (o := 0) (by decide)).1
  have h2 := setReg_rising h1 .nvm 0x048 (rowStat r)
  have h3 := bump_rising h2 .nvm 2
  refine ⟨event_bit h3 _ (by decide) (by decide), ?_, ?_⟩
  · exact (event_reg_off h3 .nvm 1 (by decide)).trans ((bump_reg_off h2 .nvm 2 (by decide)).trans (setReg_reg_same h1 ..))
  · refine (event_counter h3 .nvm 1 2).trans ((bump_counter h2 .nvm 2).trans ?_)
    have hen := (setReg_reg_off h1 .nvm (rowStat r) (by decide : offCntCtrl ≠ 0x048)).trans (word (by decide)).2
    have hcnt := (counter_setReg_low h1 .nvm (by decide : 0x048 < 0x080) (rowStat r) 2).trans
      (counter_of_words (word (by decide)).2 (word (by decide)).2)
    rw [cntEn_of_reg hen, hcnt]

end

theorem exec_nvmRowRead {q : Req} (h : s.Takes q .nvm 0x044)
    (hb : s.nvm.bad.contains ((applyWrite .nvm 0x044 q.val (s.at_ .nvm q.serial)).fld .nvm F.NVM_RD_ADDR_ROW) = false) :
    exec (.nvmRowRead q 0) s = .next ((applyWrite .nvm 0x044 q.val (s.at_ .nvm q.serial)).rowRead
      ((applyWrite .nvm 0x044 q.val (s.at_ .nvm q.serial)).fld .nvm F.NVM_RD_ADDR_ROW)) := by
  refine congrArg Host.Outcome.next ((writeWord_manager rfl h _).trans (nvmReadWrite_reads ?_))
  rwa [State.touch_nvm]

theorem exec_scrubRow_clean (h : s.running = true) (hb : s.nvm.bad.contains (s.fld .nvm F.NVM_SCRUB_NEXT_ROW) = false)
    (hr : s.fld .nvm F.NVM_SCRUB_NEXT_ROW < 524287) (waits : Nat) :
    exec (.scrubRow 0 waits) s = .next (s.setFld .nvm F.NVM_SCRUB_NEXT_ROW (s.fld .nvm F.NVM_SCRUB_NEXT_ROW + 1)) := by
  have hnext : (s.fld .nvm F.NVM_SCRUB_NEXT_ROW + 1) % 524288 = s.fld .nvm F.NVM_SCRUB_NEXT_ROW + 1 := Nat.mod_eq_of_lt (by omega)
  change execScrubRow 0 waits s = _
  unfold execScrubRow
  dsimp only
  rw [hnext, hb]
  exact congrArg Host.Outcome.next ((if_neg (by simp [h])).trans ((if_neg (by decide)).trans ((if_pos rfl).trans (if_neg (by omega)))))

theorem exec_logCompact {free : Nat} (h : s.running = true) (hc : s.nvm.compact = false) (hf : free < 64) (recs : List (Nat × Nat)) :
    exec (.logCompact free recs) s = .next ((s.setNvm { s.nvm with
      settings := (recs.map fun r => (r.1, r.2, if s.inTrial then s.nvm.act.gen else 0)) ++ s.nvm.settings
      logFree := free, compact := true }).event .nvm 2) := congrArg Host.Outcome.next (if_neg (by simp [h, hc, hf]))

theorem exec_compacted (free : Nat) (hc : s.nvm.compact = true) : exec (.compacted free) s =
    .next ((((s.setNvm { s.nvm with logFree := min 1392 free, compact := false }).nvmRows).bump .nvm 6).event .nvm 3) :=
  congrArg Host.Outcome.next (if_neg (by simp [hc]))

end

/-- Settles O57: image words by what is open and staged, checks and restarts by what runs, and the array by each row's state. -/
theorem imagesAndTheArray : Obligations.ImagesAndTheArray := by
  refine ⟨fun q s => ⟨fun h hl ho hr => (exec_updDataWrite h).trans (congrArg _ ?_),
      fun h hl => (exec_updDataWrite h).trans (congrArg _ (updDataWrite_overruns (by rwa [State.touch_nvm]))),
      fun h h32 hle => (exec_updOffsetWrite h).trans (congrArg _ (if_pos ⟨h32, hle⟩)),
      fun h hbad => (exec_updOffsetWrite h).trans (congrArg _ (if_neg (by omega))), fun waits k hl h8 => ?_⟩,
    fun s => ⟨fun k hv hl => ?_, fun p => exec_activationRestartDone, fun ht hm => ?_⟩,
    fun s => ⟨fun q h => ?_, exec_scrubRow_clean, fun free recs h hc hf => exec_logCompact h hc hf recs, exec_compacted⟩⟩
  · have hf := touch_fld s ((s.reach .upd q.serial).fn q.serial) .upd F.UPD_OFFSET_OFFSET
    rw [← hf] at ho ⊢
    exact updDataWrite_stages (by rwa [State.touch_nvm]) ho hr
  · obtain ⟨u, n, he, hregs, hupd, himg⟩ := exec_stagingRowWrite hl h8 waits
    have hnvm : ((u.bump .nvm 0).bumpBy .nvm 1 n).nvm = u.nvm := beside_nvm (s := u) (beside_trans (bumpBy_beside ..) (bumpBy_beside ..))
    refine ⟨_, he, (congrArg Nvm.upd hnvm).trans hupd, (congrArg Nvm.img hnvm).trans himg, fun r x hx hr => ?_⟩
    exact (bumpBy_reg_apart 1 n hr hx).trans ((bumpBy_reg_apart 0 1 hr hx).trans (reg_of_regs hregs r x))
  · intro code u w
    split
    · exact exec_verifyDone_fails hv hl ‹_›
    · refine (exec_verifyDone_passes hv hl (not_not.mp ‹_›)).trans (congrArg _ ?_)
      split <;> rfl
  · obtain ⟨u, he, hregs, hupd, hset⟩ := exec_migrationDone ht hm
    have hnvm := migrated_nvm u
    exact ⟨_, he, (congrArg Nvm.upd hnvm).trans hupd, (congrArg Nvm.settings hnvm).trans hset, fun hs => migrated_regs (hregs ▸ hs.2.1)⟩
  · intro u r hb hs
    have hu : risingFrom 0 u.regs = true := applyWrite_rising (touch_rising hs.2.1 ((s.reach .nvm q.serial).fn q.serial)) .nvm 0x044 q.val
    obtain ⟨hev, hstat, hcnt⟩ := rowRead_regs hu r
    have hnvm : u.nvm = s.nvm := beside_nvm (stored_beside s .nvm 0x044 q.val q.serial)
    have hen : u.cntEn .nvm 2 = s.cntEn .nvm 2 :=
      cntEn_of_reg ((applyWrite_reg_off (touch_rising hs.2.1 _) (p := .nvm) q.val (by decide)).trans (touch_reg ..)) 2
    have hc : u.counter .nvm 2 = s.counter .nvm 2 :=
      (counter_setReg_low (touch_rising hs.2.1 _) .nvm (by decide : 0x044 < 0x080) _ 2).trans (touch_counter ..)
    refine ⟨_, exec_nvmRowRead h hb, hev, hstat, (rowRead_nvm u r).trans hnvm, ?_⟩
    rw [← hen, ← hc]
    exact hcnt

end Sys2Proof.Machine
end

section
/-! PROOF. A twin pair: its election (R367), its heartbeats (R371, R372), joining and mirroring (R364, R367 to R369), and the commands of
`TWN_CMD` (R376). -/

namespace Sys2Proof.Machine

section
variable {s : State}

/-! The election (R367). -/

/-- The listening has ended, with the level of PEER_OK. -/
def State.listened (s : State) (high : Bool) : State := s.setTwn { s.twn with listen := false, elected := true, peerOk := high }

section
variable (h : s.twn.listen = true) (high : Bool)
include h

theorem exec_twinElection_unheard (hb : s.twn.hbOk = false) : exec (.twinElection high) s =
    .next (if high then ((s.listened high).role twSevered (some 4)).event .twn 4 else (s.listened high).role twAlone (some 4)) := by
  have hnone : (if s.twn.hbOk then s.twn.beat else none) = none := if_neg (by simp [hb])
  refine congrArg Host.Outcome.next ((if_neg (by simp [h])).trans ?_)
  dsimp only
  rw [hnone]
  rfl

/-- Whether this device is to be the primary. -/
def State.winsOver (s : State) (b : Beat) : Bool :=
  if s.flag .twn F.TWN_CFG_PRIMARY_PREF != b.pref then s.flag .twn F.TWN_CFG_PRIMARY_PREF else decide (s.chip.devId < b.devId)

theorem exec_twinElection_heard {b : Beat} (hb : s.twn.hbOk = true) (hbeat : s.twn.beat = some b) : exec (.twinElection high) s =
    .next (if b.serving || !s.winsOver b then (s.listened high).join (some 4) else (s.listened high).role twAlone (some 4)) := by
  have hsome : (if s.twn.hbOk then s.twn.beat else none) = some b := (if_pos hb).trans hbeat
  refine congrArg Host.Outcome.next ((if_neg (by simp [h])).trans ?_)
  dsimp only
  rw [hsome]
  rfl

end

/-! Heartbeats (R371, R372). -/

theorem exec_heartbeatTx (high : Bool) {lanes : Fin 4} (ho : s.twnOn = true) (hr : s.running = true) (hi : s.isolated .twn = false)
    (hl : lanes.val ≠ 0) :
    let u := (s.setTwn { s.twn with peerOk := s.twn.peerOk || high, lanes := lanes.val }).bumpBy .twn 6 0
    exec (.heartbeatTx high lanes 0) s = .next ((u.emit (.heartbeat u.ownBeat)).bump .twn 0) :=
  congrArg Host.Outcome.next ((if_neg (by simp [ho, hr])).trans (if_neg (by simp [hi, hl])))

section
variable {lane : Fin 2} {b : Beat} (ho : s.twnOn = true) (hi : s.isolated .twn = false) (hr : s.running = true)
  (hl : s.twn.listen = false)
include ho hi hr hl

/-- What a heartbeat leads to, by the state of this device. -/
theorem exec_heartbeatRx : exec (.heartbeatRx lane b) s = .next (
    if s.twState = twAlone then (if b.state = twStandby && s.twn.elected
      then ((s.noteBeat lane.val b).setFlag .twn F.TWN_CMD_BUSY false).role twPrimary none else s.noteBeat lane.val b)
    else if s.twState = twPrimary
      then (if b.state = twJoining ∨ b.iso = true then (s.noteBeat lane.val b).goAlone none else s.noteBeat lane.val b)
    else if s.twState = twSevered then (s.noteBeat lane.val b).join none
    else if decide (s.twState = twStandby) && b.iso
      then (if b.serving then (s.noteBeat lane.val b).followBeat b else s.noteBeat lane.val b).join none
      else if b.serving then (s.noteBeat lane.val b).followBeat b else s.noteBeat lane.val b) :=
  congrArg Host.Outcome.next ((if_neg (by simp [ho, hi, hr])).trans (if_neg (by simp [hl])))

theorem exec_heartbeatRx_alone (ht : s.twState = twAlone) (hb : b.state = twStandby) (he : s.twn.elected = true) :
    exec (.heartbeatRx lane b) s = .next (((s.noteBeat lane.val b).setFlag .twn F.TWN_CMD_BUSY false).role twPrimary none) :=
  (exec_heartbeatRx ho hi hr hl).trans (congrArg _ ((if_pos ht).trans (if_pos (by simp [hb, he]))))

theorem exec_heartbeatRx_primary (ht : s.twState = twPrimary) (hb : b.state = twJoining ∨ b.iso = true) :
    exec (.heartbeatRx lane b) s = .next ((s.noteBeat lane.val b).goAlone none) :=
  (exec_heartbeatRx ho hi hr hl).trans (congrArg _ ((if_neg (by rw [ht]; decide)).trans ((if_pos ht).trans (if_pos hb))))

theorem exec_heartbeatRx_severed (ht : s.twState = twSevered) :
    exec (.heartbeatRx lane b) s = .next ((s.noteBeat lane.val b).join none) :=
  (exec_heartbeatRx ho hi hr hl).trans (congrArg _ ((if_neg (by rw [ht]; decide)).trans ((if_neg (by rw [ht]; decide)).trans (if_pos ht))))

theorem exec_heartbeatRx_joining (ht : s.twState = twJoining) (hb : b.serving = true) :
    exec (.heartbeatRx lane b) s = .next ((s.noteBeat lane.val b).followBeat b) :=
  (exec_heartbeatRx ho hi hr hl).trans (congrArg _ ((if_neg (by rw [ht]; decide)).trans ((if_neg (by rw [ht]; decide)).trans
    ((if_neg (by rw [ht]; decide)).trans ((if_neg (by rw [ht]; simp [twJoining, twStandby])).trans (if_pos hb))))))

end

/-! A partner that falls silent, and lanes that fail. -/

/-- The partner has not been heard for 1 ms. -/
def State.unheard (s : State) : State := ((s.setTwn { s.twn with hbOk := false }).bump .twn 1).noSwap

theorem exec_heartbeatLoss (ho : s.twnOn = true) (hi : s.isolated .twn = false) (hb : s.twn.hbOk = true) (hl : s.twn.listen = false)
    (hiso : ∀ b, s.twn.beat = some b → b.iso = false) : exec .heartbeatLoss s = .next (
      if s.twState = twPrimary ∧ s.twn.peerOk = true then s.unheard.setTwn { s.unheard.twn with sever := true }
      else if s.twState = twStandby ∧ s.twn.take = none
        then s.unheard.setTwn { s.unheard.twn with take := some (1, s.ct + s.nsToCt 500000) } else s.unheard) := by
  refine congrArg Host.Outcome.next ((if_neg (by simp [ho, hb])).trans (if_neg ?_))
  cases hbeat : s.twn.beat with
  | none => simp [hi, hl]
  | some b => simp [hi, hl, hiso b hbeat]

/-- PEER_OK has been low for its debounce. -/
def State.peerFallen (s : State) : State := (s.setTwn { s.twn with peerOk := false }).noSwap

theorem exec_peerOkFall (ho : s.twnOn = true) (hr : s.running = true) (hl : s.twn.listen = false) : exec .peerOkFall s = .next (
    if s.twState = twPrimary then s.peerFallen.goAlone (some 2)
    else if s.twState = twJoining then s.peerFallen.partialAlone
    else if s.twState = twStandby ∨ s.twState = twSevered then s.peerFallen.setTwn { s.peerFallen.twn with take := some (2, 0) }
    else s.peerFallen) :=
  congrArg Host.Outcome.next (if_neg (by simp [ho, hr, hl]))

theorem exec_twinLaneFail (ho : s.twnOn = true) (hi : s.isolated .twn = false) {lane : Fin 2} (hb : bitOf s.twn.lanes lane.val = true) :
    let left := setBitOf s.twn.lanes lane.val false
    let u := ((s.setTwn { s.twn with lanes := left }).fault .twn 2 lane.val).event .twn 1
    exec (.twinLaneFail lane) s = .next (if left = 0 then u.fault .twn 3 0 else u) :=
  congrArg Host.Outcome.next (if_neg (by simp [ho, hi, hb]))

/-! Joining and mirroring (R364, R367 to R369). -/

theorem exec_bulkCopyDone (ho : s.twnOn = true) (hi : s.isolated .twn = false) {b : Beat} (ht : s.twState = twJoining)
    (hh : s.twn.hbOk = true) (hb : s.twn.beat = some b) (hs : b.serving = true) (hp : (s.protoWith b.proto).isSome = true) :
    exec .bulkCopyDone s = .next ((((s.setFld .twn F.TWN_SYNC_PROGRESS 1000).setFlag .twn F.TWN_CMD_BUSY false).role twStandby none).event
      .twn 3) := by
  change execBulkCopyDone s = _
  unfold execBulkCopyDone
  rw [hb]
  exact congrArg Host.Outcome.next (if_pos (by simp [ho, hi, ht, hh, hs, hp]))

/-- A record that comes in its order is applied and acknowledged. -/
theorem exec_mirrorRecordRx_next (ho : s.twnOn = true) (hi : s.isolated .twn = false) (hr : s.running = true) (ht : s.twState = twStandby)
    {seq : Nat} (hq : seq = s.twn.rxSeq + 1) (progress : Nat) (m : Mirror) : exec (.mirrorRecordRx seq progress m) s =
      .next ((((s.setTwn { s.twn with rxSeq := seq }).mirrorIn m).bump .twn 5).emit (.mirrorAck seq)) :=
  congrArg Host.Outcome.next ((if_neg (by simp [ho, hi, hr])).trans (if_pos ⟨ht, hq⟩))

/-- One that does not is left. -/
theorem exec_mirrorRecordRx_other (ht : s.twState = twStandby) {seq : Nat} (hq : seq ≠ s.twn.rxSeq + 1) (progress : Nat) (m : Mirror) :
    exec (.mirrorRecordRx seq progress m) s = .next s :=
  congrArg Host.Outcome.next ((congrArg (ite _ s) ((if_neg fun h => hq h.2).trans (if_neg (by rw [ht]; decide)))).trans (ite_self s))

theorem exec_mirrorRecordLost (ho : s.twnOn = true) (ht : s.twState = twStandby) : exec .mirrorRecordLost s = .next (s.join none) :=
  congrArg Host.Outcome.next (if_pos (by simp [ho, ht]))

theorem exec_mirrorAckRx (ho : s.twnOn = true) (hi : s.isolated .twn = false) (ht : s.twState = twPrimary) (seq : Nat) :
    let l := s.twn.await.filter fun a => decide (a.1 ≤ seq)
    exec (.mirrorAckRx seq) s = .next ((s.setTwn { s.twn with
      await := s.twn.await.filter (fun a => decide (seq < a.1)), lag := s.twn.lag ++ l.map fun a => s.tenths a.2.1 }).resumeList l) :=
  congrArg Host.Outcome.next (if_neg (by simp [ho, hi, ht]))

/-! `TWN_CMD` (R376). -/

/-- Where TWN_CFG.EN is set, a write of `TWN_CMD` leaves every word up to TWN_CFG, whatever the order of the register file. -/
theorem applyWrite_twnCmd_reg (h : s.flag .twn F.TWN_CFG_EN = true) (w : Word) {r : Page} {o : Nat} (hk : regKey r o ≤ regKey .twn 0x040) :
    (applyWrite .twn 0x048 w s).reg r o = s.reg r o := by
  have hlisted : s.reg .twn F.TWN_CFG_EN.off ≠ resetWord .twn F.TWN_CFG_EN.off := fun he => by
    unfold State.flag State.fld at h
    rw [he] at h
    exact absurd h (by decide)
  exact storeGet_put_listed _ hk (by decide) hlisted

theorem twnOn_iff : s.twnOn = true ↔ s.feat 14 = true ∧ s.enabled .twn = true ∧ s.flag .twn F.TWN_CFG_EN = true := by
  unfold State.twnOn
  simp only [Bool.and_eq_true, and_assoc]

theorem touch_twnOn (s : State) (fn : Fn) : (s.touch fn).twnOn = s.twnOn := by
  unfold State.twnOn State.feat State.accepted
  simp only [touch_devLocked, touch_reg, touch_enabled, touch_flag]

/-- A device of a pair stays one with a write of `TWN_CMD`. -/
theorem applyWrite_twnCmd_on (h : s.twnOn = true) (w : Word) : (applyWrite .twn 0x048 w s).twnOn = true := by
  obtain ⟨hf, he, hc⟩ := twnOn_iff.mp h
  have hlock : s.LockKept (applyWrite .twn 0x048 w s) := fun i hi =>
    applyWrite_twnCmd_reg hc w (Nat.le_trans (Nat.add_le_add_left hi _) (by decide))
  exact twnOn_iff.mpr ⟨(hlock.feat 14).trans hf, applyWrite_enabled w (by decide) he,
    (flag_of_reg (applyWrite_twnCmd_reg hc w (by decide))).trans hc⟩

/-- `TWN_CMD` with GO. -/
theorem twnCmd_takes {q : Req} (h : s.Takes q .twn 0x048) (ho : s.twnOn = true) (hg : q.val.getLsbD 31 = true) :
    let u := applyWrite .twn 0x048 q.val (s.at_ .twn q.serial)
    writeWord q .twn 0x048 twnCmdWrite s =
      if F.TWN_CMD_OP.get q.val = 0 then u.startSwap else if F.TWN_CMD_OP.get q.val = 1 then u.startResync else u := by
  have hon := applyWrite_twnCmd_on ((touch_twnOn s ((s.reach .twn q.serial).fn q.serial)).trans ho) q.val
  exact (writeWord_manager rfl h _).trans (if_neg (by rw [hg, hon]; decide))

end

/-- Settles O58: each command through the table of what it leads to, by the state of this device and what the partner has told. -/
theorem thePairElectsJoinsAndMirrors : Obligations.ThePairElectsJoinsAndMirrors := by
  refine ⟨fun s => ⟨fun high h => ⟨exec_twinElection_unheard h high, fun b hb hbeat => exec_twinElection_heard h high hb hbeat⟩,
      fun high lanes ho hr hi hl => exec_heartbeatTx high ho hr hi hl,
      fun lane b ho hi hr hl => ⟨exec_heartbeatRx_alone ho hi hr hl, exec_heartbeatRx_primary ho hi hr hl,
        exec_heartbeatRx_severed ho hi hr hl, exec_heartbeatRx_joining ho hi hr hl⟩⟩,
    fun s ho hi => ⟨fun hb hl hiso => ⟨fun ht hp => (exec_heartbeatLoss ho hi hb hl hiso).trans (congrArg _ (if_pos ⟨ht, hp⟩)),
        fun ht hn => (exec_heartbeatLoss ho hi hb hl hiso).trans (congrArg _ ((if_neg fun hc => ?_).trans (if_pos ⟨ht, hn⟩)))⟩,
      fun hr hl => ⟨fun ht => (exec_peerOkFall ho hr hl).trans (congrArg _ (if_pos ht)),
        fun ht => (exec_peerOkFall ho hr hl).trans (congrArg _ ((if_neg (by rw [ht]; decide)).trans (if_pos ht))),
        fun ht => (exec_peerOkFall ho hr hl).trans (congrArg _ ((if_neg (by rw [ht]; decide)).trans ((if_neg (by rw [ht]; decide)).trans
          (if_pos (.inl ht)))))⟩,
      fun lane => exec_twinLaneFail ho hi, fun b => exec_bulkCopyDone ho hi⟩,
    fun s ho => ⟨fun seq progress m hi hr ht hq => exec_mirrorRecordRx_next ho hi hr ht hq progress m,
      fun seq progress m ht hq => exec_mirrorRecordRx_other ht hq progress m, exec_mirrorRecordLost ho,
      fun seq hi ht => exec_mirrorAckRx ho hi ht seq,
      fun q h hg => ⟨fun hop => congrArg _ ((twnCmd_takes h ho hg).trans (if_pos hop)),
        fun hop => congrArg _ ((twnCmd_takes h ho hg).trans ((if_neg (by omega)).trans (if_pos hop)))⟩⟩⟩
  rw [ht] at hc
  exact absurd hc.1 (by decide)

end Sys2Proof.Machine
end
